-- ==== Sys2Proof/Word.lean ====
section
/-! DEFINITION. Words of the MLV-9960-T: the widths the manual treats as bits, and nothing else. -/

namespace Sys2Proof

/-- One byte. -/
abbrev Byte := BitVec 8
/-- A 64-bit word: an atomic word, an operand, half of a counter pair (R41, R104). -/
abbrev Word64 := BitVec 64
/-- A host line of 64 B; byte `i` is bits `8i+7 : 8i` (R41, R43). -/
abbrev Line := BitVec 512
/-- A sector of 256 B; byte `i` is bits `8i+7 : 8i` (R41, R43). -/
abbrev Sector := BitVec 2048
/-- A persistent address (R41). -/
abbrev PA := BitVec 40

end Sys2Proof
end

