-- ==== Sys2Proof/Syntax.lean ====
section
/-! DEFINITION. The commands of the block: one constructor of `Instr` for each row of the opcode table, with the
operands a row needs. A row that a timer, a pin or the medium brings about carries, as operands, only the physical facts
the manual leaves to the world outside the device (which instance, what the sensors read, how a codeword decoded). -/

namespace Sys2Proof

/-- Host port HP0 to HP3. -/
abbrev HPort := Fin 4
/-- Interlaken channel of a host port (R84); a stream is a pair of port and channel. -/
abbrev HChan := BitVec 8
/-- Mirror port MIR0 or MIR1. -/
abbrev MPort := Fin 2
/-- Medium channel 0 to 63 (R45). -/
abbrev Chan := Fin 64
/-- Channel controller MCH00 to MCH71, spares included (R18). -/
abbrev Mch := Fin 72
/-- Blank BLK0 to BLK7. -/
abbrev Blank := Fin 8
/-- Lookup engine LKE00 to LKE15. -/
abbrev Engine := Fin 16
/-- Mailbox 0 to 7. -/
abbrev Mbx := Fin 8
/-- Sequencer channel SEQ0 to SEQ11. -/
abbrev Rail := Fin 12
/-- Performance counter unit PMC0 to PMC5. -/
abbrev PmcUnit := Fin 6
/-- A logical lane of a host port (R84). -/
abbrev Lane := Fin 8

/-- How one program of a sector ended: verified at the first or second attempt at its slot, or both attempts failed
(R216, R218). -/
inductive ProgramOutcome where
  | verified
  | failed
  deriving DecidableEq, Repr

/-- A symbol of a codeword as the cells show it (R196): its die, its place among the die's nine, and the value sensed. -/
structure Sensed where
  die   : Fin 18
  place : Fin 9
  value : BitVec 16
  deriving DecidableEq, Repr

/-- How the cells of a sector answer one step that senses it: the dies whose grain mark senses otherwise than it was programmed, with
what it senses as (SESSION above EPOCH, R200); for each reference code the symbols that sense otherwise than they were programmed (at a
code not listed, none; R204, R205); whether what the decoder puts out is what was programmed (a miscorrected or torn codeword is
not, R198); whether the sector found is the one asked for (R199); and how the programs end that the same step makes, each at its
slot (none listed: verified; R216, R218). -/
structure ReadOutcome where
  grain    : List (Fin 18 × BitVec 24)
  senses   : List (BitVec 8 × List Sensed)
  faithful : Bool
  lsaOk    : Bool
  programs : List ProgramOutcome
  deriving DecidableEq, Repr

/-- Cells that answer as they were programmed, whatever the reference. -/
def ReadOutcome.clean : ReadOutcome where
  grain := []
  senses := []
  faithful := true
  lsaOk := true
  programs := []

/-- What a receiver has found since the burst before (errors and discards, R103): codewords that it corrected, symbols that it
corrected in them, uncorrectable codewords, and the diagnostic words whose CRC32 failed, each by its logical lane. -/
structure LineSeen where
  corrCw   : Nat
  corrSym  : Nat
  uncorrCw : Nat
  crc32    : List Lane
  deriving DecidableEq, Repr

/-- A line without an error. -/
def LineSeen.clean : LineSeen := { corrCw := 0, corrSym := 0, uncorrCw := 0, crc32 := [] }

/-- Codeword lock of a port, with the skew that deskew measured of each physical lane after the earliest, in FEC symbols (R81, R82,
R103). -/
structure LockSeen where
  port : HPort
  skew : Vector Byte 8
  deriving DecidableEq, Repr

/-- The flow-control part of a control word (R89): its Reset Calendar bit, and the 16-bit field of bits [55:40], whose highest bit is
the word's first entry. -/
structure CalWord where
  reset : Bool
  field : BitVec 16
  deriving DecidableEq, Repr

/-- One Interlaken burst as it leaves the receiver (R84, R86): its control word's marks, its bytes, the errors that
the FEC and framing layers found in it, and what the line showed since the burst before. -/
structure Burst where
  sop       : Bool
  eop       : Bool
  bytes     : List Byte
  /-- an uncorrectable codeword touched the burst -/
  fecBad    : Bool
  /-- the CRC24 failed -/
  crcBad    : Bool
  /-- the control word is of an unknown type -/
  ctrlBad   : Bool
  line      : LineSeen
  deriving DecidableEq, Repr

/-- What the SFDP table of the boot flash advertises (R461, JESD216): its read modes beside 1-1-1, 4-byte addressing, its erases and the bytes
of a page. -/
structure Sfdp where
  read114  : Bool
  read144  : Bool
  read112  : Bool
  fourByte : Bool
  erase64k : Bool
  page     : Nat
  deriving DecidableEq, Repr

/-- What the boot sees that no register holds (R306, R253, R227, R354, R461): the outcome of the known-answer tests and which of the
images and structures in the internal area read back; the firmware images (0 A, 1 B, 2 SPI) of which, as they read back, the header, the
length, the stepping mask, the digest or the signature fails; the regions whose data in the newest commit cannot all be read; the
temperature, for the wait after a critical stop; and the flash's SFDP table. -/
structure BootObs where
  selfTestOk   : Bool
  tierImageOk  : Bool
  imagesBad    : List (Fin 3)
  sfdp         : Sfdp
  commitUnread : List (BitVec 9)
  tempDegC     : Int
  deriving DecidableEq, Repr

/-- How far a commit had got when the power went (R159, R163): whether its header was written, whether the event-ring front
and the queue state were written and sealed, and how many regions, in ascending order, had been sealed. -/
structure CommitProgress where
  opened        : Bool
  frontWritten  : Bool
  queueSealed   : Bool
  regionsSealed : Nat
  deriving DecidableEq, Repr

/-- One clock source (R411). -/
inductive ClockSource where
  | sys
  | hp
  | pcie
  | osc
  deriving DecidableEq, Repr

/-- Causes of return to L0 that come from outside the device's own commands (R420). -/
inductive ReturnCause where
  | hostCommand
  | mailboxGo
  | mirrorRecord
  | toleranceFell
  | commitTrigger
  | coldHold
  deriving DecidableEq, Repr

/-- Why the receiver of a mirror port discards a frame (R312, R313, MIRn_LAST_ERR.CAUSE). -/
inductive RxCause where
  | fcs
  | address
  | etherType
  | malformed
  | icv
  | noSa
  | replay
  | unprotected
  | eapol
  deriving DecidableEq, Repr

/-- A MACsec association (R312). -/
structure Sa where
  key  : BitVec 256
  ssci : BitVec 32
  salt : BitVec 96
  deriving DecidableEq, Repr

/-- A SecTAG with its ICV (R312): the association number, the packet number, and the association under which the frame was protected, to
which its ICV testifies. -/
structure SecTag where
  an : BitVec 2
  pn : BitVec 64
  sa : Sa
  deriving DecidableEq, Repr

/-- What stands around the Idnauc header of a frame (R313). -/
structure Envelope where
  da    : BitVec 48
  sa    : BitVec 48
  vlan  : Bool
  sec   : Option SecTag
  etype : BitVec 16
  deriving DecidableEq, Repr

/-- Codewords that a mirror port's FEC has corrected, and those it could not correct, since the frame before (R311, MIRn_FEC). -/
structure FecSeen where
  corr   : Nat
  uncorr : Nat
  deriving DecidableEq, Repr

/-- The arrival of an Idnauc frame whose FCS is right and whose header has a TYPE and a LENGTH of R313: its port, its envelope and the
VERSION of its header. -/
structure MirFrame where
  port    : MPort
  env     : Envelope
  version : Byte
  fec     : FecSeen
  deriving DecidableEq, Repr

/-- The arrival of any other frame (R313): its envelope, whether its FCS is right, and whether it carries a well-formed Idnauc header. -/
structure RxFrame where
  env      : Envelope
  fcsOk    : Bool
  headerOk : Bool
  fec      : FecSeen
  deriving DecidableEq, Repr

/-- Body of a HELLO frame with the ACKSEQ of its header (R313). -/
structure HelloFrame where
  pairId   : BitVec 32
  mate     : Bool
  macsec   : Bool
  promoGen : BitVec 16
  session  : BitVec 32
  serial   : BitVec 64
  retained : BitVec 48
  ackSeq   : BitVec 48
  deriving DecidableEq, Repr

/-- Kinds of an Idnauc record (R315). -/
inductive RecordKind where
  | line
  | sector
  | poison
  | erase
  | seedBegin
  | seedEnd
  deriving DecidableEq, Repr

/-- An Idnauc record (R315); LINE data stands in the low 512 bits of `data`. -/
structure Record where
  kind    : RecordKind
  seed    : Bool
  rebuild : Bool
  repair  : Bool
  addr    : PA
  data    : Sector
  deriving DecidableEq, Repr

/-- A register of the function's configuration space (R336), as PCI Express defines it. R336 does not say where its capabilities lie, so they are
named (log entry 70). -/
inductive CfgReg where
  /-- Vendor ID and Device ID -/
  | identity
  /-- Command: Memory Space Enable, Bus Master Enable -/
  | command
  /-- Revision ID and class code -/
  | classCode
  /-- BAR0 to BAR3: the low and the high word of BAR0, and of BAR2 -/
  | bar (k : Fin 4)
  /-- Subsystem Vendor ID and Subsystem ID -/
  | subsystem
  /-- Power Management Control/Status -/
  | pmControl
  /-- MSI-X Message Control, Table Offset and PBA Offset -/
  | msixControl
  | msixTable
  | msixPba
  /-- Device Capabilities, and Device Control -/
  | devCaps
  | devControl
  /-- Device Serial Number, lower and upper word -/
  | serialLow
  | serialHigh
  /-- AER: Uncorrectable Error Status and Mask -/
  | aerStatus
  | aerMask
  deriving DecidableEq, Repr

/-- Where a read goes (R28, R336, R404, R451): an offset in BAR0 or in BAR2, a command code of the SMBus sideband, or a register of the
configuration space. -/
inductive BusAddr where
  | bar0 (off : BitVec 24)
  | bar2 (off : BitVec 26)
  | smbus (code : BitVec 8)
  | config (r : CfgReg)
  deriving DecidableEq, Repr

/-- The commands. Each docstring names the rule the opcode table gives for the row. -/
inductive Instr where
  /-- VAON_POWER_ON (R437) -/
  | vaonPowerOn
  /-- SEQ_RAIL_DELAY_EXPIRY (R438) -/
  | seqRailDelayExpiry (c : Rail)
  /-- SEQ_PG_RISE (R438): the raw SEQ_PG input of a rail rises; `wasLong` says that the low before it had lasted more
  than the 10 µs of the deglitch. -/
  | seqPgRise (c : Rail) (wasLong : Bool)
  /-- SEQ_PG_FALL (R438) -/
  | seqPgFall (c : Rail)
  /-- PG_DEGLITCHED_GOOD (R438) -/
  | pgDeglitchedGood (c : Rail)
  /-- PG_LOST (R439) -/
  | pgLost (c : Rail)
  /-- PG_UNSTABLE (R438) -/
  | pgUnstable (c : Rail)
  /-- PG_TIMEOUT (R438) -/
  | pgTimeout (c : Rail)
  /-- SETTLE_WINDOW_END (R437) -/
  | settleWindowEnd (c : Rail)
  /-- DISCHARGE_DONE (R439) -/
  | dischargeDone (c : Rail)
  /-- DISCHARGE_TIMEOUT (R442) -/
  | dischargeTimeout (c : Rail)
  /-- PWR_FAIL_N_FALL (R158) -/
  | pwrFailNFall
  /-- PWR_FAIL_N_RISE (R443) -/
  | pwrFailNRise
  /-- PWR_FAIL_RECOGNISED (R158) -/
  | pwrFailRecognised
  /-- POWER_UP_RESTART_TIMER (R443) -/
  | powerUpRestartTimer
  /-- COMMIT_DONE (R159): `us` is the duration of the commit from step 1 to step 7. -/
  | commitDone (us : BitVec 32)
  /-- COMMIT_TO_EXPIRY (R441) -/
  | commitToExpiry
  /-- RESET_N_FALL (R447) -/
  | resetNFall
  /-- RESET_N_RECOGNISED (R447) -/
  | resetNRecognised
  /-- RESET_N_RISE (R447) -/
  | resetNRise
  /-- RESET_RELEASE (R449): the boot, up to forwarding-ready. -/
  | resetRelease (obs : BootObs)
  /-- SETTLING_PASS_DONE (R211): the pass of one channel ends; its samples (PA[39:8]), how each answered at first, and how each answered
  where it was sensed again at the offsets. -/
  | settlingPassDone (ch : Chan) (samples : List (BitVec 32)) (first again : List ReadOutcome)
  /-- SETTLE_LATE (R212) -/
  | settleLate
  /-- SEQ_CTRL_RESTART (R440) -/
  | seqCtrlRestart (overSmbus : Bool)
  /-- SEQ_CTRL_DOWN (R444) -/
  | seqCtrlDown (key : BitVec 16) (overSmbus : Bool)
  /-- SEQ_FAULT_CLEAR (R453) -/
  | seqFaultClear (overSmbus : Bool)
  /-- GLB_SOFT_RESET_FULL (R36) -/
  | glbSoftResetFull (key : BitVec 16)
  /-- GLB_SOFT_RESET_WARM (R36) -/
  | glbSoftResetWarm (key : BitVec 16)
  /-- HEADSTOCK_WATCHDOG_EXPIRY (R334) -/
  | headstockWatchdogExpiry
  /-- WATCHDOG_RESET_TIMEOUT (R448) -/
  | watchdogResetTimeout
  /-- DUMP_COMPLETE (R401): the sections that could not be gathered whole are flagged TRUNCATED. -/
  | dumpComplete (truncated : List (Fin 10))
  /-- REGISTER_WRITE (R13): a BAR0 write of `size` bytes. -/
  | registerWrite (off : BusAddr) (size : Nat) (value : BitVec 64)
  /-- REGISTER_READ_CLEAR (R15): a read of `size` bytes. -/
  | registerReadClear (addr : BusAddr) (size : Nat)
  /-- MSIX_PENDING_SEND (R339) -/
  | msixPendingSend (vec : Fin 32)
  /-- PCIE_FLR (R338) -/
  | pcieFlr
  /-- PCIE_HOT_RESET (R338) -/
  | pcieHotReset
  /-- PCIE_LINK_DOWN (R339) -/
  | pcieLinkDown
  /-- PCIE_D3HOT_TO_D0 (R338) -/
  | pcieD3hotToD0
  /-- PCIE_PERST_N_ASSERT (R458): PCIE_PERST_N goes low. -/
  | pciePerstNAssert
  /-- CROSS_COUNT_WINDOW_END (R411): the four counts of the window, in the order of R411's table. -/
  | crossCountWindowEnd (sys hp pcie osc : BitVec 16)
  /-- OSC_RATIO_MEASURE (R411): the measured oscillator cycles per REFCLK_SYS cycle, 16.16. -/
  | oscRatioMeasure (ratio : BitVec 32)
  /-- PACE_SAMPLE (R407): the slowest of the pace monitors, M handshakes/s. -/
  | paceSample (slowest : BitVec 16)
  /-- GOVERNOR_STEP (R408) -/
  | governorStep
  /-- PACE_LOW_TIMER (R410) -/
  | paceLowTimer
  /-- HS_OPP_TRANSITION_END (R415) -/
  | hsOppTransitionEnd
  /-- SENSOR_SAMPLE (R423): the raw readings of sensors 0 to 39, 1/16 °C. -/
  | sensorSample (raw : Vector Int 40)
  /-- RATE_OF_RISE_COMPUTE (R427): the temperature 250 ms earlier, 1/16 °C. -/
  | rateOfRiseCompute (earlier : Int)
  /-- PREEMPT_END (R427) -/
  | preemptEnd
  /-- PSTATE_ENTRY (R419): the hold-off of the next state expires. -/
  | pstateEntry
  /-- PSTATE_RETURN_L0 (R420) -/
  | pstateReturnL0 (cause : ReturnCause)
  /-- PSTATE_EXIT_COMPLETE (R419) -/
  | pstateExitComplete
  /-- HOUSEKEEPING_EXCURSION (R421) -/
  | housekeepingExcursion
  /-- HOUSEKEEPING_EXCURSION_END (R421) -/
  | housekeepingExcursionEnd
  /-- HOST_SIGNAL_VALID (R95) -/
  | hostSignalValid (p : HPort)
  /-- CODEWORD_LOCK (R81) -/
  | codewordLock (x : LockSeen)
  /-- CODEWORD_LOCK_LOST (R96) -/
  | codewordLockLost (p : HPort)
  /-- WORD_LOCK (R94) -/
  | wordLock (p : HPort) (l : Lane)
  /-- WORD_LOCK_LOST (R96) -/
  | wordLockLost (p : HPort) (l : Lane)
  /-- METAFRAME_LOCK (R94) -/
  | metaframeLock (p : HPort) (l : Lane)
  /-- METAFRAME_LOCK_LOST (R96) -/
  | metaframeLockLost (p : HPort) (l : Lane)
  /-- HP_LINK_UP (R95): `alignNs` is the time steps 2 to 5 took. -/
  | hpLinkUp (p : HPort) (alignNs : BitVec 32)
  /-- HP_CTRL_ENABLE (R96) -/
  | hpCtrlEnable (p : HPort) (enable : Bool)
  /-- HP_FAR_LOOP (R102) -/
  | hpFarLoop (p : HPort) (on : Bool)
  /-- BURST_RECEIVED (R88) -/
  | burstReceived (p : HPort) (c : HChan) (b : Burst)
  /-- HOST_CALENDAR_RECEIVED (R89, R92): a control word of the host (an entry's bit 1: the device may send). -/
  | hostCalendarReceived (p : HPort) (w : CalWord)
  /-- RESPONSE_SEND (R87): the next burst of the packet that carries the responses of these tags, in this order. -/
  | responseSend (p : HPort) (c : HChan) (tags : List (BitVec 12))
  /-- NOP (R132) -/
  | nop (p : HPort) (c : HChan) (tag : BitVec 12) (du : BitVec 3)
  /-- ECHO (R132): `data` holds the first four data units. -/
  | echo (p : HPort) (c : HChan) (tag : BitVec 12) (du : BitVec 3) (operand : Word64) (data : BitVec 2048)
  /-- UNKNOWN_OPCODE (R114) -/
  | unknownOpcode (p : HPort) (c : HChan) (tag : BitVec 12) (opcode : BitVec 8) (du : BitVec 3)
  /-- RD64 (R116) -/
  | rd64 (p : HPort) (c : HChan) (tag : BitVec 12) (du : BitVec 3) (pa : PA)
  /-- RD256 (R116) -/
  | rd256 (p : HPort) (c : HChan) (tag : BitVec 12) (du : BitVec 3) (pa : PA)
  /-- WR64 (R117) -/
  | wr64 (p : HPort) (c : HChan) (tag : BitVec 12) (du : BitVec 3) (pa : PA) (data : Line)
  /-- WR256 (R117) -/
  | wr256 (p : HPort) (c : HChan) (tag : BitVec 12) (du : BitVec 3) (pa : PA) (data : Sector)
  /-- WRM64 (R118) -/
  | wrm64 (p : HPort) (c : HChan) (tag : BitVec 12) (du : BitVec 3) (pa : PA) (mask : BitVec 64) (data : Line)
  /-- FADD64 (R119) -/
  | fadd64 (p : HPort) (c : HChan) (tag : BitVec 12) (du : BitVec 3) (pa : PA) (addend : Word64)
  /-- CSWAP64 (R119) -/
  | cswap64 (p : HPort) (c : HChan) (tag : BitVec 12) (du : BitVec 3) (pa : PA) (compare : Word64) (data : Line)
  /-- CADD (R274) -/
  | cadd (p : HPort) (c : HChan) (tag : BitVec 12) (du : BitVec 3) (pa : PA) (deltas : Word64)
  /-- CRD (R277) -/
  | crd (p : HPort) (c : HChan) (tag : BitVec 12) (du : BitVec 3) (pa : PA)
  /-- LKUP (R241) -/
  | lkup (p : HPort) (c : HChan) (tag : BitVec 12) (du : BitVec 3) (addr : BitVec 40) (operand : Word64)
      (data : BitVec 2048)
  /-- ENQ (R263) -/
  | enq (p : HPort) (c : HChan) (tag : BitVec 12) (du : BitVec 3) (addr : BitVec 40) (operand : Word64)
      (data : BitVec 2048)
  /-- DEQ (R127) -/
  | deq (p : HPort) (c : HChan) (tag : BitVec 12) (du : BitVec 3) (addr : BitVec 40)
  /-- QFLUSH (R266) -/
  | qflush (p : HPort) (c : HChan) (tag : BitVec 12) (du : BitVec 3) (addr : BitVec 40)
  /-- QSTAT (R130) -/
  | qstat (p : HPort) (c : HChan) (tag : BitVec 12) (du : BitVec 3) (addr : BitVec 40)
  /-- FENCE (R62) -/
  | fence (p : HPort) (c : HChan) (tag : BitVec 12) (du : BitVec 3)
  /-- FENCE_PERFORMED (R62) -/
  | fencePerformed (p : HPort) (c : HChan)
  /-- PERSIST (R69) -/
  | persist (p : HPort) (c : HChan) (tag : BitVec 12) (du : BitVec 3)
  /-- PERSIST_COMPLETE (R69) -/
  | persistComplete (p : HPort) (c : HChan) (tag : BitVec 12)
  /-- CHARGE_RESERVATION_GRANT (R142) -/
  | chargeReservationGrant
  /-- REST_TOKENS_AVAILABLE (R187) -/
  | restTokensAvailable (p : HPort) (c : HChan)
  /-- THROTTLE_TOKENS_AVAILABLE (R426) -/
  | throttleTokensAvailable (p : HPort) (c : HChan)
  /-- DIRTY_BITMAP_PROGRAM_DONE (R144) -/
  | dirtyBitmapProgramDone
  /-- DIRTY_BITMAP_CLEAR (R145): a batch of regions clean for CLEAR_MS. -/
  | dirtyBitmapClear (regions : List (BitVec 9))
  /-- MERGE_FETCH_RETURN (R146): the fetch of the sector PA[39:8]. -/
  | mergeFetchReturn (lsa : BitVec 32) (out : ReadOutcome)
  /-- DRAIN_AGE_TIMER (R152) -/
  | drainAgeTimer (lsa : BitVec 32)
  /-- KRF_FLUSH (R152) -/
  | krfFlush
  /-- KRF_DIRTY_LIMIT_WRITE (R157) -/
  | krfDirtyLimitWrite (limit : BitVec 11)
  /-- ARBITER_GRANT (R181) -/
  | arbiterGrant (ch : Chan)
  /-- CUT_IN (R184) -/
  | cutIn (ch : Chan)
  /-- MEDIUM_READ_DONE (R205): the running read with this request number ends. -/
  | mediumReadDone (req : Nat) (out : ReadOutcome)
  /-- MEDIUM_PROGRAM_DONE (R153): the running program with this request number ends. -/
  | mediumProgramDone (req : Nat) (out : ProgramOutcome)
  /-- ARB_COMMIT (R183) -/
  | arbCommit
  /-- ARB_RANK_APPLY_DEADLINE (R183) -/
  | arbRankApplyDeadline
  /-- STEADY_REST_EVAL (R186) -/
  | steadyRestEval
  /-- RDP_LOCK (R172) -/
  | rdpLock (lsa : BitVec 32)
  /-- RDP_PIN (R172) -/
  | rdpPin (lsa : BitVec 32)
  /-- RDP_UNLOCK (R172) -/
  | rdpUnlock (lsa : BitVec 32)
  /-- RANGE_INVALIDATION (R175) -/
  | rangeInvalidation (includeLocked : Bool)
  /-- INVALIDATION_DONE (R175) -/
  | invalidationDone
  /-- CACHE_EN (R194) -/
  | cacheEn (on : Bool)
  /-- SCRUB_STEP (R208): the channel's scrub at the sector PA[39:8], with what its read found. -/
  | scrubStep (ch : Chan) (lsa : BitVec 32) (out : ReadOutcome) (cycleEnds : Bool)
  /-- GAP_STEP (R214): one gap step of a levelling domain (region × 8 + channel mod 8; from 3,840 those of the reserved area), with what
  its read found. -/
  | gapStep (domain : Fin 3968) (out : ReadOutcome)
  /-- MCH_WATCHDOG_EXPIRY (R219) -/
  | mchWatchdogExpiry (m : Mch)
  /-- MCH_DATAPATH_ERROR (R219) -/
  | mchDatapathError (m : Mch)
  /-- MCH_FORCE_FAIL (R219) -/
  | mchForceFail (m : Mch)
  /-- DIE_PORT_FAULT (R223) -/
  | diePortFault (b : Blank) (die : Fin 18)
  /-- BLANK_OUTAGE (R224) -/
  | blankOutage (b : Blank)
  /-- BLANK_RESET_TIMEOUT (R224): whether the blank answers. -/
  | blankResetTimeout (b : Blank) (answers : Bool)
  /-- TIER_RELOAD (R244) -/
  | tierReload (table : BitVec 8)
  /-- LKE_WATCHDOG_EXPIRY (R254) -/
  | lkeWatchdogExpiry (e : Engine)
  /-- LKE_DATAPATH_ERROR (R254) -/
  | lkeDatapathError (e : Engine)
  /-- LKE_FORCE_FAIL (R257) -/
  | lkeForceFail (e : Engine)
  /-- TBL_COMMIT_SWITCH (R250) -/
  | tblCommitSwitch
  /-- POOL_FORMAT_DONE (R258) -/
  | poolFormatDone (region : BitVec 9)
  /-- QUEUE_DESC_WRITEBACK (R271) -/
  | queueDescWriteback (qid : BitVec 17)
  /-- ORPHAN_SWEEP (R270) -/
  | orphanSweep
  /-- ORPHAN_SWEEP_DONE (R270) -/
  | orphanSweepDone
  /-- FOLD_TIMER (R275) -/
  | foldTimer (lsa : BitVec 32)
  /-- CNT_FOLD_ALL (R275) -/
  | cntFoldAll
  /-- FOLD_SWITCH (R276) -/
  | foldSwitch (lsa : BitVec 32)
  /-- CNT_CLEAR_SECTOR (R279): the running CNT_CLEAR of a mailbox clears its next sector. -/
  | cntClearSector (m : Mbx)
  /-- FORCED_REKEY_START (R291) -/
  | forcedRekeyStart
  /-- REKEY_WALK_GROUP (R302): the walk unit's next group of 64 sectors, with what each sector's read found (a sector
  beyond the list reads cleanly). -/
  | rekeyWalkGroup (unit : Fin 4) (outs : List ReadOutcome)
  /-- MIR_PCS_LOCK (R311) -/
  | mirPcsLock (n : MPort)
  /-- MIR_LINK_DOWN (R324) -/
  | mirLinkDown (n : MPort)
  /-- HELLO (R324) -/
  | hello (n : MirFrame) (f : HelloFrame)
  /-- DATA (R316): the sequence number of the first record, the ACKSEQ of the header and the records. -/
  | data (n : MirFrame) (seq ackSeq : BitVec 48) (records : List Record)
  /-- ACK (R319): ACKSEQ and the refused regions. -/
  | ack (n : MirFrame) (ackSeq : BitVec 48) (refused : List (BitVec 9))
  /-- NAK (R318) -/
  | nak (n : MirFrame) (ackSeq : BitVec 48)
  /-- REPAIR_REQ (R329): ACKSEQ and the sectors. -/
  | repairReq (n : MirFrame) (pas : BitVec 48 × List PA)
  /-- SEED_REQ (R331): ACKSEQ and the regions. -/
  | seedReq (n : MirFrame) (regions : BitVec 48 × List (BitVec 9))
  /-- REGION_STATE (R314): ACKSEQ and the 480 bytes of the body. -/
  | regionState (n : MirFrame) (body : BitVec 48 × List Byte)
  /-- HELLO_TIMER (R324) -/
  | helloTimer (n : MPort)
  /-- SESSION_LOSS_TIMEOUT (R324) -/
  | sessionLossTimeout (n : MPort)
  /-- REGION_STATE_TIMER (R314) -/
  | regionStateTimer (n : MPort)
  /-- INTENT_BITMAP_PROGRAM_DONE (R322) -/
  | intentBitmapProgramDone
  /-- INTENT_BIT_CLEAR (R322): region and extent. -/
  | intentBitClear (region : BitVec 9) (extent : BitVec 9)
  /-- CATCHUP_SECTOR (R323): what the read of the next sector found. -/
  | catchupSector (n : MPort) (out : ReadOutcome)
  /-- SEED_SECTOR_SEND (R331): what the read of the next sector found. -/
  | seedSectorSend (n : MPort) (out : ReadOutcome)
  /-- DEV_INFO (R350) -/
  | devInfo (m : Mbx) (req : List Byte) (irq : Bool)
  /-- DEV_ECHO (R350) -/
  | devEcho (m : Mbx) (req : List Byte) (irq : Bool)
  /-- REGION_GET (R49) -/
  | regionGet (m : Mbx) (req : List Byte) (irq : Bool)
  /-- REGION_SET (R51) -/
  | regionSet (m : Mbx) (req : List Byte) (irq : Bool)
  /-- REGION_RECREATE (R352) -/
  | regionRecreate (m : Mbx) (req : List Byte) (irq : Bool)
  /-- FORCE_FAIL (R353) -/
  | forceFail (m : Mbx) (req : List Byte) (irq : Bool)
  /-- TBL_CREATE (R232) -/
  | tblCreate (m : Mbx) (req : List Byte) (irq : Bool)
  /-- TBL_DELETE (R350) -/
  | tblDelete (m : Mbx) (req : List Byte) (irq : Bool)
  /-- TBL_UPDATE (R248) -/
  | tblUpdate (m : Mbx) (req : List Byte) (irq : Bool)
  /-- TBL_COMMIT (R250) -/
  | tblCommit (m : Mbx) (req : List Byte) (irq : Bool)
  /-- TBL_ABORT (R350) -/
  | tblAbort (m : Mbx) (req : List Byte) (irq : Bool)
  /-- TBL_QUERY (R350) -/
  | tblQuery (m : Mbx) (req : List Byte) (irq : Bool)
  /-- TBL_INFO (R350) -/
  | tblInfo (m : Mbx) (req : List Byte) (irq : Bool)
  /-- PROFILE_SET (R239) -/
  | profileSet (m : Mbx) (req : List Byte) (irq : Bool)
  /-- PROFILE_GET (R350) -/
  | profileGet (m : Mbx) (req : List Byte) (irq : Bool)
  /-- POOL_SET (R259) -/
  | poolSet (m : Mbx) (req : List Byte) (irq : Bool)
  /-- POOL_INFO (R350) -/
  | poolInfo (m : Mbx) (req : List Byte) (irq : Bool)
  /-- QUEUE_SET (R261) -/
  | queueSet (m : Mbx) (req : List Byte) (irq : Bool)
  /-- QUEUE_GET (R350) -/
  | queueGet (m : Mbx) (req : List Byte) (irq : Bool)
  /-- CNT_CLEAR (R279) -/
  | cntClear (m : Mbx) (req : List Byte) (irq : Bool)
  /-- CNT_INFO (R350) -/
  | cntInfo (m : Mbx) (req : List Byte) (irq : Bool)
  /-- DEVKEY_INSTALL (R293) -/
  | devkeyInstall (m : Mbx) (req : List Byte) (irq : Bool)
  /-- DEVKEY_ZEROISE (R293) -/
  | devkeyZeroise (m : Mbx) (req : List Byte) (irq : Bool)
  /-- KEY_LOAD (R294) -/
  | keyLoad (m : Mbx) (req : List Byte) (irq : Bool)
  /-- KEY_BIND (R295) -/
  | keyBind (m : Mbx) (req : List Byte) (irq : Bool)
  /-- KEY_CHANGE (R296) -/
  | keyChange (m : Mbx) (req : List Byte) (irq : Bool)
  /-- KEY_UNBIND (R297) -/
  | keyUnbind (m : Mbx) (req : List Byte) (irq : Bool)
  /-- KEY_RETIRE (R294) -/
  | keyRetire (m : Mbx) (req : List Byte) (irq : Bool)
  /-- KEY_INFO (R350) -/
  | keyInfo (m : Mbx) (req : List Byte) (irq : Bool)
  /-- PST_INFO (R350) -/
  | pstInfo (m : Mbx) (req : List Byte) (irq : Bool)
  /-- PST_READ (R366) -/
  | pstRead (m : Mbx) (req : List Byte) (irq : Bool)
  /-- PST_WRITE (R365) -/
  | pstWrite (m : Mbx) (req : List Byte) (irq : Bool)
  /-- PST_PASSWORD (R370) -/
  | pstPassword (m : Mbx) (req : List Byte) (irq : Bool)
  /-- PST_CTR_READ (R372) -/
  | pstCtrRead (m : Mbx) (req : List Byte) (irq : Bool)
  /-- PST_CTR_INC (R371) -/
  | pstCtrInc (m : Mbx) (req : List Byte) (irq : Bool)
  /-- PST_TIE_REWRITE (R362): area code (R360) and, for record slots, the slot. -/
  | pstTieRewrite (area : Fin 5) (slot : Fin 32)
  /-- PST_PROFILE_WE (R382) -/
  | pstProfileWe (key : BitVec 16) (on : Bool)
  /-- EVT_FREEZE (R393) -/
  | evtFreeze (m : Mbx) (req : List Byte) (irq : Bool)
  /-- EVT_THAW (R394) -/
  | evtThaw (m : Mbx) (req : List Byte) (irq : Bool)
  /-- EVT_READ (R392) -/
  | evtRead (m : Mbx) (req : List Byte) (irq : Bool)
  /-- EVT_CLEAR (R396) -/
  | evtClear (m : Mbx) (req : List Byte) (irq : Bool)
  /-- EVT_LIMIT_SET (R391) -/
  | evtLimitSet (m : Mbx) (req : List Byte) (irq : Bool)
  /-- EVT_LIMIT_GET (R350) -/
  | evtLimitGet (m : Mbx) (req : List Byte) (irq : Bool)
  /-- EVENT_FRONT_WRITEBACK (R383) -/
  | eventFrontWriteback
  /-- RATE_LIMIT_SWEEP (R390) -/
  | rateLimitSweep
  /-- EVR_AUTO_THAW (R394) -/
  | evrAutoThaw
  /-- DUMP_INFO (R350) -/
  | dumpInfo (m : Mbx) (req : List Byte) (irq : Bool)
  /-- DUMP_READ (R404) -/
  | dumpRead (m : Mbx) (req : List Byte) (irq : Bool)
  /-- DUMP_RELEASE (R404) -/
  | dumpRelease (m : Mbx) (req : List Byte) (irq : Bool)
  /-- MIR_PAIR (R308) -/
  | mirPair (m : Mbx) (req : List Byte) (irq : Bool)
  /-- MIR_UNPAIR (R308) -/
  | mirUnpair (m : Mbx) (req : List Byte) (irq : Bool)
  /-- MIR_PROMOTE (R332) -/
  | mirPromote (m : Mbx) (req : List Byte) (irq : Bool)
  /-- MIR_SAK (R312) -/
  | mirSak (m : Mbx) (req : List Byte) (irq : Bool)
  /-- MIR_SAK_CLEAR (R312) -/
  | mirSakClear (m : Mbx) (req : List Byte) (irq : Bool)
  /-- MIR_INFO (R350) -/
  | mirInfo (m : Mbx) (req : List Byte) (irq : Bool)
  /-- MIR_RESEED (R331) -/
  | mirReseed (m : Mbx) (req : List Byte) (irq : Bool)
  /-- FW_INFO (R350) -/
  | fwInfo (m : Mbx) (req : List Byte) (irq : Bool)
  /-- FW_WRITE (R355) -/
  | fwWrite (m : Mbx) (req : List Byte) (irq : Bool)
  /-- FW_ACTIVATE (R356) -/
  | fwActivate (m : Mbx) (req : List Byte) (irq : Bool)
  /-- FW_CONFIRM (R356) -/
  | fwConfirm (m : Mbx) (req : List Byte) (irq : Bool)
  /-- FW_ROLLBACK (R357) -/
  | fwRollback (m : Mbx) (req : List Byte) (irq : Bool)
  /-- FW_TO_SPI (R357): whether the flash's erase, program and verify succeed. -/
  | fwToSpi (m : Mbx) (req : List Byte) (irq : Bool) (flashOk : Bool)
  /-- FW_RESET_NOW_TIMER (R357) -/
  | fwResetNowTimer
  /-- CAL_GET (R374) -/
  | calGet (m : Mbx) (req : List Byte) (irq : Bool)
  /-- CAL_SET (R376) -/
  | calSet (m : Mbx) (req : List Byte) (irq : Bool)
  /-- PWR_INFO (R350) -/
  | pwrInfo (m : Mbx) (req : List Byte) (irq : Bool)
  /-- PWR_LTR_SET (R418) -/
  | pwrLtrSet (m : Mbx) (req : List Byte) (irq : Bool)
  /-- THM_SET (R425) -/
  | thmSet (m : Mbx) (req : List Byte) (irq : Bool)
  /-- HS_OPP_SET (R415) -/
  | hsOppSet (m : Mbx) (req : List Byte) (irq : Bool)
  /-- MBX_BAD_OPCODE (R346) -/
  | mbxBadOpcode (m : Mbx) (opcode : BitVec 16) (req : List Byte) (irq : Bool)
  /-- MBX_ABORT (R344) -/
  | mbxAbort (m : Mbx)
  /-- MBX_RELEASE (R342) -/
  | mbxRelease (m : Mbx)
  /-- PMC_ENABLE (R400): the bits EN, FREEZE_ON_OVF and ALL of the write. -/
  | pmcEnable (u : PmcUnit) (en freeze all : Bool)
  /-- PMC_CLEAR (R406) -/
  | pmcClear (u : PmcUnit)
  /-- PMC_COUNTER_WRAP (R399) -/
  | pmcCounterWrap (u : PmcUnit) (k : Fin 8)
  /-- VAON_POWER_LOSS (R444): how far a running commit had got. -/
  | vaonPowerLoss (progress : CommitProgress)
  /-- ALIAS_GUARD_BEGIN (R203) -/
  | aliasGuardBegin (ch : Chan)
  /-- FW_ASSERT (R401) -/
  | fwAssert
  /-- PCIE_LINK_UP (R339): the link has trained; `busMaster` is what host software makes of Bus Master Enable, which no row of its own
  writes. -/
  | pcieLinkUp (busMaster : Bool)
  /-- RX_DISCARD (R313): a frame that the receiver discards, as its envelope and the port's registers decide. -/
  | rxDiscard (n : MPort) (cause : RxFrame)
  deriving DecidableEq, Repr

end Sys2Proof
end

