-- ==== Sys2Proof/Decode.lean ====
section
/-! DEFINITION. Words of the opcode table. No row of the table gives bits: the device takes commands, not words. -/

namespace Sys2Proof

/-- The command that a word spells by the bits the opcode table gives: none, for every row of the table. -/
def decodeTableWord (_nbits _w : Nat) : Option Instr := none

end Sys2Proof
end

