-- ==== Sys2Proof/Config.lean ====
section
/-! DEFINITION. What the manual leaves to an implementation, to Ulward or to no rule at all: constants without a body, so that
nothing can be proved of their values. Each stands in a row of notes/assumptions/. -/

namespace Sys2Proof.Config

/-- A fresh free value of 64 bits: the n-th one taken (log entry 2). -/
opaque freeWord : Nat → BitVec 64

/-- The keyed 20-bit permutation of R213: the manual names it and gives no algorithm (log entry 8). -/
opaque permute : BitVec 64 → Equiv.Perm (Fin 1048576)

/-- The bank of a physical slot (R479): a fixed function that is not exposed (log entry 8). -/
opaque bankOf : Nat → Fin 32

/-- Check symbol k of a codeword, from its 144 data and metadata symbols: the manual names the code and gives neither its generator nor
its field polynomial (R196; log entry 8). -/
opaque checkSymbol : List (BitVec 16) → Nat → BitVec 16

/-- The internal key, derived from a secret fused into the base die (R285; log entry 5). -/
opaque internalKey : BitVec 256

/-- The internal sector number at which a commit area, 0 or 1, holds an item: 2 × PA[39:8] for a slot, 2 × PA[39:4] + 1 for a delta. The
layout of the commit areas is firmware's (R159, R285; log entry 8). -/
opaque commitSector : Nat → Nat → BitVec 32

/-- The internal sector, counted from the first one of the reserved area, that holds a copy of an item of a structure: structure, item, copy
(R227, R285; log entry 8). -/
opaque innerSector : Nat → Nat → Nat → Fin 134217728

/-- The bytes that the device writes to an item of a structure whose format it keeps to itself: structure, item, and the internal program count
before the write (R227; log entry 66). -/
opaque innerBytes : Nat → Nat → Nat → BitVec 2048

/-- The LSA that the metadata of a formatted physical slot holds: the manual gives only its MAJOR, 0 (R286; log entry 8). -/
opaque formatLsa : Nat → BitVec 32

/-- The number of the leaf or bucket that an entry or a search of a table uses: table number, key, and which of its buckets (R233, R245);
firmware's layout is not exposed (log entry 9). -/
opaque leafPick : Nat → Nat → Nat → Nat

/-- The tier walk of an LPM search of a MEDIUM table leads to a leaf: version, table, key (R245: left open; log entry 9). -/
opaque leafNeeded : Nat → Nat → Nat → Bool

/-- A search of a table meets a word of the tier: version, table, key, word (R244: the layout is not exposed; log entry 9). -/
opaque tierMeets : Nat → Nat → Nat → Nat → Bool

/-- The bytes firmware writes to a leaf or bucket sector of a version: version, sector (R243; log entry 9). -/
opaque leafBytes : Nat → Nat → BitVec 2048

/-- The bytes the queue engine writes to a sector of chunk descriptors, the n-th time it writes one: their format is not exposed (R258; log
entry 28). -/
opaque linkBytes : Nat → Nat → BitVec 2048

/-- The blanks of the two copies of an internal-area structure: the first, and how far on the second lies (R227; log entry 70). -/
opaque copyPlace : Nat → Fin 8 × Fin 7

/-- The set of the fold cache that a counter pair uses, by PA[39:4]: a fixed hash that is not published (chapter 9; log entry 10). -/
opaque foldSet : Nat → Fin 32768

/-- Ulward's factory value of a calibration parameter, by PARAM × 65,536 + INDEX (R374; log entry 11). -/
opaque factoryValue : Nat → Int

/-- PST_FACTORY_ID.FORMAT: the factory calibration format (R382; log entry 11). -/
opaque factoryFormat : BitVec 16

/-- How PST_SEQ_TIE carries an area and a slot: the manual gives no layout, so 32 × area + slot is carried as some number (R362, R388; log
entry 11). -/
opaque tieCode : Equiv.Perm (Fin 160)

/-- GLB_SERIAL, the unit's serial number (log entry 11). -/
opaque serial : BitVec 64

/-- The per-device salt of the password digests (R367; log entry 11). -/
opaque pwSalt : List (BitVec 8)

/-- An image's magic value, length, stepping mask and body digest are right (R354; log entry 12). -/
opaque fwHeaderOk : List (BitVec 8) → Bool

/-- An image's signature verifies against the fused key (R354; log entry 12). -/
opaque fwSignatureOk : List (BitVec 8) → Bool

/-- The version that an image's header carries (log entry 12). -/
opaque fwVersion : List (BitVec 8) → BitVec 24

/-- The FLOOR that an image's header carries (log entry 12). -/
opaque fwFloor : List (BitVec 8) → BitVec 16

/-- Where section t of the dump of a generation begins: its offset and its length; and, for the sections whose format is Ulward's, its
bytes (R403; log entry 13). -/
opaque dumpOffset : Nat → Nat → Nat
opaque dumpLength : Nat → Nat → Nat
opaque dumpBytes : Nat → Nat → List (BitVec 8)

/-- The codes of IDCODE, SAMPLE/PRELOAD, EXTEST, CLAMP, HIGHZ, EXTEST_PULSE and EXTEST_TRAIN: the BSDL file gives them (R462; log entry 71). -/
opaque jtagCode : Nat → BitVec 12

/-- The balls of the boundary register's cells, cell by cell, as the model numbers balls: the BSDL file gives them (R462; log entry 71). -/
opaque boundaryBalls : List Nat

/-- The level of a ball that no field of the state holds, at a time (R462; log entry 71). -/
opaque ballLevel : Nat → Nat → Bool

end Sys2Proof.Config
end

