-- ==== Sys2Proof/Machine/State.lean ====
section
/-! DEFINITION. The state of the block: plain data, everything the manual gives the device. A field's docstring ends with
the chapter and rule that name it and its value right after reset (State.reset). -/

namespace Sys2Proof.Machine

/-- A sparse map: pairs of a key and a value, keys strictly rising. A key not listed has the value its user names. -/
abbrev FMap (α : Type) := List (Nat × α)

/-! ### Events (chapter 14) -/

/-- One entry of the event ring (R383). -/
structure EvtEntry where
  time    : BitVec 64
  code    : BitVec 16
  sev     : BitVec 8
  summary : Bool
  index   : BitVec 32
  inst    : BitVec 16
  count   : BitVec 16
  powerOn : BitVec 16
  data    : BitVec 64
  deriving DecidableEq, Repr

/-- An open rate-limit window of a code (R389). -/
structure EvtWindow where
  start      : Nat
  recorded   : Nat
  suppressed : Nat
  deriving DecidableEq, Repr

/-- The event recorder. -/
structure Evr where
  /-- the persistent ring, by ring position INDEX mod 8,192 [14 R383; empty, as shipped] -/
  ring       : FMap EvtEntry
  /-- the front, oldest first [14 R383; empty] -/
  front      : List EvtEntry
  /-- the INDEX the next entry receives [14 R383; 0, as shipped] -/
  nextIndex  : BitVec 32
  /-- the persistent reservation of INDEX values [14 R385; 4,096, as shipped] -/
  reserve    : BitVec 32
  /-- sectors of the ring that have changed and are not yet programmed, each in its two copies [10 R285, 7 R227; none] -/
  toSeal     : List Nat
  /-- INDEX values in the held range [14 R392; 0, as shipped] -/
  held       : Nat
  /-- the ring is frozen [14 R393; no] -/
  frozen     : Bool
  /-- NEWEST and HELD as the freeze holds them [14 R393; 0, 0] -/
  frozenAt   : BitVec 32 × Nat
  /-- entries lost since the freeze began [14 R394; 0] -/
  lostFrozen : Nat
  /-- events in flight from the blocks while the ring is not restored, oldest first [14 R385; none] -/
  inFlight   : List EvtEntry
  /-- the ring is restored [14 R405 STATUS.READY; no] -/
  ready      : Bool
  /-- LIMIT and WINDOW of every limited code, by code [14 R391; LIMIT 16, WINDOW 1,000,000 for the codes marked †] -/
  limits     : FMap (Nat × Nat)
  /-- the open windows, by code [14 R389; none] -/
  windows    : FMap EvtWindow
  /-- code and severity of the newest entry [14 R405 EVR_LAST; 0] -/
  last       : BitVec 18
  /-- clears since manufacture [14 R405 EVR_CLEARS; 0, as shipped] -/
  clears     : BitVec 32
  deriving DecidableEq, Repr

/-- A fatal dump (R403). -/
structure Dump where
  gen        : BitVec 64
  time       : BitVec 64
  fatal      : BitVec 32
  laterFatal : BitVec 32
  fwVersion  : BitVec 32
  serial     : BitVec 64
  commitGen  : BitVec 64
  commitUs   : BitVec 32
  powerOn    : BitVec 16
  complete   : Bool
  commitOk   : Bool
  prevState  : BitVec 8
  /-- the registers at the trigger, by BAR0 offset (section 1) -/
  regs       : List (Nat × BitVec 64)
  /-- the held event entries, oldest first (section 2) -/
  events     : List EvtEntry
  /-- the types whose section is flagged TRUNCATED -/
  truncated  : List (Fin 10)
  /-- the types whose section was held in SRAM that the power state of the trigger had powered down: written as empty (R422) -/
  dark       : List (Fin 10)
  deriving DecidableEq, Repr

/-- The dump region. -/
structure Dumps where
  /-- the dumps held, oldest first [14 R403; none, as shipped] -/
  held        : List Dump
  /-- what was captured when the fatal bit was set, until the dump is written [14 R401; none] -/
  trigger     : Option Dump
  /-- steps 2 and 3 of R401 run [14 R405 STATUS.DUMP_WRITING; no] -/
  writing     : Bool
  /-- dumps written since manufacture [14 R403; 0, as shipped] -/
  gen         : BitVec 64
  /-- a dump overwrote the oldest one since the last boot [14 R403; no] -/
  overwritten : Bool
  /-- EVR_DUMP.OVERWRITTEN of this boot [14 R405; 0] -/
  owAtBoot    : Bool
  deriving DecidableEq, Repr

/-! ### Performance counters (chapter 14) -/

/-- One PMC unit: PMCu_CTRL[1:0], OVF, OVF_MASK, TB, CFG0-7, CNT0-7 (R406). -/
structure Pmc where
  /-- CTRL.EN [14 R406; 0] -/
  en      : Bool
  /-- CTRL.FREEZE_ON_OVF [14 R406; 0] -/
  freeze  : Bool
  /-- OVF [14 R406; 0] -/
  ovf     : BitVec 8
  /-- OVF_MASK [14 R406; 0] -/
  mask    : BitVec 8
  /-- TB [14 R406; 0] -/
  tb      : BitVec 64
  /-- CFG0 to CFG7 [14 R406; 0] -/
  cfg     : Vector (BitVec 32) 8
  /-- CNT0 to CNT7 [14 R406; 0] -/
  cnt     : Vector (BitVec 48) 8
  deriving DecidableEq, Repr

/-! ### The Tailstock (chapter 16) -/

/-- SEQ_STATUS.PHASE (R453 field tables). -/
inductive SeqPhase where
  | off | phaseA | profile | phaseB | on | down | faultDown | latched
  deriving DecidableEq, Repr

/-- What the Tailstock does with one channel of a power-up or a shutdown (R438, R439). -/
inductive RailStep where
  | idle
  /-- step 1: waits DELAY before EN -/
  | delay (c : Rail)
  /-- step 2: EN is high, waits for a deglitched PG -/
  | ramp (c : Rail)
  /-- step 3: the settle window -/
  | settle (c : Rail)
  /-- EN is low, waits for the discharge -/
  | discharge (c : Rail)
  deriving DecidableEq, Repr

/-- The Tailstock. -/
structure Seq where
  /-- VAON is within tolerance [16 R437; no] -/
  vaon        : Bool
  /-- SEQ_STATUS.PHASE [16 R452; OFF] -/
  phase       : SeqPhase
  /-- the shadow of RAIL entries [16 R436; the defaults 0x000A_3202] -/
  shadow      : Vector (BitVec 32) 12
  /-- the channel in hand [16 R438; none] -/
  step        : RailStep
  /-- the channels enabled, newest first: SEQ_EN [16 R437, R452 PINS.EN; none] -/
  enabled     : List Rail
  /-- the channels still to enable in the running phase [16 R437; none] -/
  todo        : List Rail
  /-- channels deglitched good: SEQ_STATUS.GOOD [16 R452; 0] -/
  good        : BitVec 12
  /-- rails lost in the running down-sequence before their EN was withdrawn [16 R442; none] -/
  lostDown    : BitVec 12
  /-- SEQ_PG as driven by the board: PINS.PG [16 R452; 0] -/
  pg          : BitVec 12
  /-- transitions counted in the open settle window [16 R438; 0] -/
  transitions : Nat
  /-- PWR_FAIL_N pin level [16 R452 PINS; 0] -/
  pwrFailN    : Bool
  /-- RESET_N pin level [16 R452 PINS; 0] -/
  resetN      : Bool
  /-- RESET_N has been recognised low and has not risen [16 R447; no] -/
  resetSeen   : Bool
  /-- the shutdown under way ends in LATCHED [16 R439; no] -/
  toLatched   : Bool
  /-- the down-sequence was asked for by SEQ_CTRL.DOWN or by a lost rail, whatever PWR_FAIL_N does [16 R439, R444; no] -/
  downAsked   : Bool
  /-- SEQ_STATUS.COMMIT_WAIT [16 R452; 0] -/
  commitWait  : Bool
  /-- the last power-up followed a fault shutdown [16 R440; no] -/
  restarted   : Bool
  /-- Tailstock time since VAON power-on, ns [16 R452 FAULT.TS_US; 0] -/
  tsNs        : Nat
  /-- Tailstock time when the running power-up started [16 R452 STATUS.UP_TIME; 0] -/
  upStart     : Nat
  /-- SEQ_STATUS.UP_TIME [16 R452; 0] -/
  upTime      : BitVec 12
  /-- no power-up has begun since VAON power-on: step 2 waits for PWR_FAIL_N alone [16 R437, R443; yes] -/
  first       : Bool
  deriving DecidableEq, Repr

/-! ### Device state, reset and the power-fail commit (chapters 1, 5, 16) -/

/-- GLB_STATE.STATE (R34). -/
inductive DevState where
  | boot | restore | fwdReady | operational | commit | dump | stopped
  deriving DecidableEq, Repr

/-- Reset types (R445). -/
inductive ResetKind where
  | powerOn | full | warm
  deriving DecidableEq, Repr

/-- What set a reset going that has not yet taken effect (R35, R445). -/
structure ResetAsk where
  kind   : ResetKind
  /-- the bits of GLB_RESET_CAUSE it sets -/
  causes : BitVec 6
  deriving DecidableEq, Repr

/-- Device state and reset. -/
structure Glb where
  /-- GLB_STATE.STATE [1 R34; BOOT] -/
  state      : DevState
  /-- GLB_STATE before the commit or the dump [14 R403 PREV_STATE; BOOT] -/
  prevState  : DevState
  /-- GLB_READY.FWD [1 R34; 0] -/
  fwd        : Bool
  /-- GLB_READY.BOUNDS [1 R34; 0] -/
  bounds     : Bool
  /-- GLB_READY.MBX [1 GLB_READY; 0] -/
  mbx        : Bool
  /-- GLB_READY.BREACH [1 GLB_READY; 0] -/
  breach     : Bool
  /-- the internal reset is held: the device waits for reset release [16 R437, R447; yes] -/
  inReset    : Bool
  /-- the reset that is held, and its causes [16 R445; power-on, POR] -/
  held       : ResetAsk
  /-- a reset asked for that waits for its commit or a dump [1 R36, 16 R447; none] -/
  asked      : Option ResetAsk
  /-- GLB_TIME at reset release [16 R447; 0] -/
  releasedAt : BitVec 64
  /-- the power-on count (R201) [7 R201; 0, as shipped] -/
  powerOns   : BitVec 32
  /-- GLB_FATAL_STATUS.WDOG is set and its reset has not come [16 R448; no] -/
  wdogPending : Bool
  deriving DecidableEq, Repr

/-! ### Clocks, pace, power states and temperature (chapter 15) -/

/-- The cross-count of one clock source (R411 to R414). -/
structure ClkSrc where
  /-- the source passes: CLK_STATUS xx_OK -/
  ok     : Bool
  /-- the source has failed and is not restored -/
  failed : Bool
  /-- consecutive windows outside the limits -/
  bad    : Nat
  /-- consecutive windows within the limits -/
  good   : Nat
  deriving DecidableEq, Repr

/-- A transition of the Headstock's operating point (R415). -/
structure OppMove where
  target : BitVec 2
  /-- the mailbox whose HS_OPP_SET waits for its end -/
  mbx    : Mbx
  deriving DecidableEq, Repr

/-- Clock unit and Headstock operating point. -/
structure Clk where
  /-- REFCLK_SYS [15 R411; not passing] -/
  sys     : ClkSrc
  /-- REFCLK_HP [15 R411; not passing] -/
  hp      : ClkSrc
  /-- REFCLK_PCIE [15 R411; not passing] -/
  pcie    : ClkSrc
  /-- the internal oscillator [15 R411; passing, OSC_OK 1] -/
  osc     : ClkSrc
  /-- Headstock and time base run from the oscillator [15 R431 ON_OSC; 0] -/
  onOsc   : Bool
  /-- the Tailstock's timing runs from REFCLK_SYS [15 R412; no] -/
  tailOnSys : Bool
  /-- the trim of the internal oscillator in force, 0.1 %: REFOSC_TRIM as the latest cross-count window began with it [13 R375; 0] -/
  trim    : Int
  /-- 1-ms measurements of the learned ratio since power-on, up to 1,000 (1 s) [15 R411; 0] -/
  learned : Nat
  /-- CLK_OSC_RATIO × 65,536: the learned ratio, which moves by at most 100 ppm per second [15 R411, R431; 0x0010_0000 × 65,536] -/
  fine    : Nat
  /-- the operating point in force [15 R415; OPP2] -/
  opp     : BitVec 2
  /-- the transition running [15 R415; none] -/
  move    : Option OppMove
  deriving DecidableEq, Repr

/-- One temperature sensor (R423). -/
structure Sensor where
  /-- the latest calibrated reading, 1/16 °C; `none` before the first sample -/
  last  : Option Int
  valid : Bool
  /-- consecutive plausible samples since it became invalid -/
  good  : Nat
  deriving DecidableEq, Repr

/-- Thermal manager and pace governor. -/
structure Thm where
  /-- sensors 0 to 39 [15 R423; none sampled] -/
  sensors   : Vector Sensor 40
  /-- THM_STATUS.READY [15 R432; 0] -/
  ready     : Bool
  /-- the temperature, 1/16 °C [15 R423, THM_TEMP.MAX; 0] -/
  temp      : Int
  /-- the temperatures of the latest 251 samples, newest first, 1 ms apart [15 R427; none] -/
  past      : List Int
  /-- the sensor giving MAX [15 R432; 0] -/
  maxSensor : Nat
  /-- rate of rise, 1/16 °C/s [15 R427; 0] -/
  rate      : Int
  /-- thermal band in force, 0 to 4 [15 R424; 2] -/
  band      : Nat
  /-- the COLD waveform applies [15 R430; no] -/
  coldWave  : Bool
  /-- THM_STATUS.COLD_HOLD [15 R430; 0] -/
  coldHold  : Bool
  /-- THM_STATUS.SELF_HEAT [15 R430; 0] -/
  selfHeat  : Bool
  /-- THM_STATUS.CRIT_LATCH [15 R428; 0] -/
  crit      : Bool
  /-- pre-emptive throttling is active [15 R427; no] -/
  preempt   : Bool
  /-- the rate alarm is in force: not raised again until the rate falls below 2 °C/s [15 R427; no] -/
  alarm     : Bool
  /-- the throttle threshold, °C [15 R425; THROTTLE_C, 110 with no profile (R377)] -/
  threshold : Nat
  /-- write_pct [15 R425; 100] -/
  writePct  : Nat
  /-- read_pct [15 R425; 100] -/
  readPct   : Nat
  /-- THM_STATUS.PACE_LOW [15 R410; 0] -/
  paceLow   : Bool
  /-- the slowest monitor, M handshakes/s [15 R407; 0] -/
  slowest   : BitVec 16
  /-- the governor's setting before trim, mV [15 R408; 750] -/
  setting   : Int
  /-- VDD_CORE in force, mV [15 R432 THM_PACE; 750] -/
  vdd       : Nat
  deriving DecidableEq, Repr

/-- Power states and latency tolerances. -/
structure Pwr where
  /-- the present state L0 to L4 [15 R419; L0] -/
  cur        : Fin 5
  /-- an exit to L0 is in progress (R419, R420) [15 R420; no] -/
  exiting    : Bool
  /-- the drain and fold of an entry into L3 or L4 is in progress (R419) [15 R419; no] -/
  entering   : Bool
  /-- the state an excursion left and re-enters, and whether the SCRUB or MOVE input called for it [15 R421; none] -/
  excursion  : Option (Fin 5 × Bool)
  /-- what the registers of the blocks that the present state parks or flushes showed at the entry, by offset [1 R31; none] -/
  held       : FMap Word64
  /-- THM_PSTATE.EXCURSIONS [15 R421; 0] -/
  excursions : BitVec 16
  /-- global tolerance G, ns [15 R418; 0] -/
  ltrG       : BitVec 32
  /-- tolerance of each port, ns [15 R418; 0xFFFF_FFFF] -/
  ltrP       : Vector (BitVec 32) 4
  deriving DecidableEq, Repr

/-! ### Host ports (chapter 3) -/

/-- A packet that is open on one channel (R86). -/
structure OpenPacket where
  /-- bytes of the packet so far -/
  len      : Nat
  /-- the bytes of the command not yet complete -/
  partialBytes : List Byte
  /-- the cause, as HPn_LAST_DISCARD.CAUSE has it, for which a burst of it was discarded: the rest, up to its EOP, goes too (R100) -/
  dropping : Option (Fin 16)
  deriving DecidableEq, Repr

/-- A response packet that is being sent on one channel (R87): the tags of the responses it carries; the commands of those that have not left
whole, in order, and the bytes of them that have; whether a burst of it has left. -/
structure TxPacket where
  tags  : List (BitVec 12)
  ids   : List Nat
  sent  : Nat
  begun : Bool
  deriving DecidableEq, Repr

/-- A token bucket, in thousandths of a byte, as it stood at a time of GLB_TIME (R94, R187, R426). -/
structure Bucket where
  tokens : Nat
  at_    : Nat
  deriving DecidableEq, Repr

/-- One host port. -/
structure Port where
  /-- STATUS.FITTED [3 R103; Profile, no profile (R377)] -/
  fitted    : Bool
  /-- valid host signal on all lanes (step 1 of bring-up passed) [3 R95; no] -/
  signal    : Bool
  /-- STATUS.CW_LOCK [3 R103; 0] -/
  cwLock    : Bool
  /-- STATUS.WORD_LOCK [3 R103; 0] -/
  wordLock  : BitVec 8
  /-- STATUS.MF_LOCK [3 R103; 0] -/
  mfLock    : BitVec 8
  /-- STATUS.LINK_UP [3 R103; 0] -/
  linkUp    : Bool
  /-- number of the link session: it rises at each bring-up (R113) [4 R113; 0] -/
  session   : Nat
  /-- MetaFrame length and calendar length in force, taken at the latest bring-up [3 R85; 2,048 and 1] -/
  metaframe : Nat
  calLen    : Nat
  /-- open packets by channel [3 R86; none] -/
  packets   : FMap OpenPacket
  /-- calendar entries held at 0 by ENTRY_HIGH (R90), one bit each [3 R90; 0] -/
  xoff      : BitVec 256
  /-- the whole buffer is held at 0 by PORT_HIGH [3 R90; no] -/
  xoffPort  : Bool
  /-- the host's calendar: entries received as 0, one bit each [3 R92; 0] -/
  hostXoff  : BitVec 256
  /-- the host's next calendar word, once its Reset Calendar bit has been seen [3 R89; none] -/
  calRx     : Option Nat
  /-- the calendar word that the next control word sent carries [3 R89; 0] -/
  calTx     : Nat
  /-- response packets begun and not ended, by channel [3 R87; none] -/
  txPackets : FMap TxPacket
  /-- throttling bucket of the write class [15 R426; full] -/
  wrBucket  : Bucket
  /-- throttling bucket of the read class [15 R426; full] -/
  rdBucket  : Bucket
  /-- buckets of the steady rest: general writes, and CADD and ENQ [6 R187; full] -/
  restBucket : Bucket
  bufBucket  : Bucket
  /-- bucket of the transmit limiter [3 R94; full] -/
  txBucket  : Bucket
  deriving DecidableEq, Repr

/-! ### Host commands (chapter 4) -/

/-- The opcodes (R114). -/
inductive Op where
  | nop | echo | rd64 | rd256 | wr64 | wr256 | wrm64 | fadd64 | cswap64 | cadd | crd | lkup
  | enq | deq | qflush | qstat | fence | persist | unknown
  deriving DecidableEq, Repr

/-- Status codes of a response (R133). -/
inductive Status where
  | ok | poison | uncorr | integ | range | denied | retry | empty | qerr | malformed
  deriving DecidableEq, Repr

/-- A response (R109): `data` holds the RLEN data units, byte i in bits 8i+7 : 8i. -/
structure Resp where
  status : Status
  detail : BitVec 8
  rlen   : Nat
  result : Word64
  data   : Sector
  deriving DecidableEq, Repr

/-- Who sent a command: a stream, or the mate by a record of the mirror (R330). -/
inductive Origin where
  | stream (p : HPort) (c : HChan)
  | mate (n : MPort) (seq : BitVec 48) (repair seed : Bool)
  deriving DecidableEq, Repr

/-- How far an accepted command has come. -/
inductive Stage where
  /-- in the receive buffer: its stream is held, or forwarding has not begun (R62, R95) -/
  | buffered
  /-- held for throttling tokens (R426) -/
  | throttled
  /-- held by the steady rest (R187) -/
  | rested
  /-- behind an overlapping command of its stream that is not performed (R57) -/
  | ordered
  /-- waits for charge (R142) -/
  | charge
  /-- waits for the dirty-region bitmap or the intent bitmap (R144, R322) -/
  | bitmap
  /-- a CADD waits for a way of the fold cache (R274) -/
  | way
  /-- queued on a FETCHING slot (R147, R148) -/
  | slotQueue
  /-- waits for a medium read (R140) -/
  | medium
  /-- performed, waits for the mate (R143, R326) -/
  | mateAck
  /-- a FENCE, a PERSIST, a QFLUSH or another command that waits for an event of its own -/
  | waiting
  /-- its response waits to be sent -/
  | answered
  deriving DecidableEq, Repr

/-- An accepted command (R88). -/
structure HostCmd where
  /-- order of acceptance -/
  id        : Nat
  origin    : Origin
  /-- the link session it was accepted under (R113) -/
  session   : Nat
  op        : Op
  /-- OPCODE as received -/
  code      : BitVec 8
  du        : Nat
  tag       : BitVec 12
  addr      : PA
  operand   : Word64
  data      : Sector
  stage     : Stage
  /-- performed in the sense of chapter 2 (Visibility and ordering) -/
  performed : Bool
  /-- charge reserved for it and not yet carried by a slot, entry or descriptor, bytes (R142) -/
  reserved  : Nat
  /-- the response, once known -/
  resp      : Option Resp
  /-- its OK waits for the mate's acknowledgement of its record (R326) -/
  mateWait  : Bool
  /-- medium requests still to return (leaf reads of a lookup; at most one for a read) -/
  reads     : List Nat
  /-- its tag was already outstanding when it was accepted (R112) -/
  dupTag    : Bool
  /-- its region had SYNC_ACK = 1 when it was admitted: its OK needs the mate (R67, R310) -/
  sync      : Bool
  deriving DecidableEq, Repr

/-! ### The kerf buffer (chapter 5) -/

/-- Slot states (R138); a FREE slot is not listed. -/
inductive SlotState where
  | fetching | clean | dirty | draining | poisoned
  deriving DecidableEq, Repr

/-- What SEC-DED will find when a word of an SRAM structure is read (R140, R244, R269). No command brings a bit error about;
the field lets a state hold one, and the commands that read the word act on it. -/
inductive Ecc where
  | good | single | double
  deriving DecidableEq, Repr

/-- What waits for charge (R142): a command, a mailbox's QUEUE_SET or the next sector of its CNT_CLEAR, firmware's write of a leaf, or the
oldest record of a mirror port. -/
inductive Waiter where
  | cmd (id : Nat)
  | queueSet (m : Mbx)
  | clear (m : Mbx)
  | leaf (lsa : BitVec 32)
  | record (n : MPort)
  deriving DecidableEq, Repr

/-- One kerf slot that is not FREE. -/
structure Slot where
  state   : SlotState
  ecc     : Ecc
  data    : Sector
  /-- commands queued on a FETCHING slot, in arrival order (R147, R148) -/
  queue   : List Nat
  /-- the order in which it first became DIRTY (R152) -/
  stamp   : Nat
  /-- it has been DIRTY for AGE_US (R152) -/
  aged    : Bool
  /-- a PERSIST covers a write it holds (R69, R152) -/
  wanted  : Bool
  /-- it was written since its program took its snapshot (R153) -/
  rewritten : Bool
  /-- the snapshot being programmed; `none` while it is a poison marker (R153) -/
  snapshot : Option Sector
  /-- streams (port × 256 + channel) with a write not yet programmed, with the oldest such command -/
  writers : FMap Nat
  /-- as `writers`, for the writes in the snapshot -/
  snapWriters : FMap Nat
  /-- order of the latest use, for reclaiming CLEAN slots (R139) -/
  used    : Nat
  deriving DecidableEq, Repr

/-- A counter pair's delta, or its value (R120). -/
structure Pair where
  packets : Word64
  bytes   : Word64
  deriving DecidableEq, Repr

/-! ### The read path and the arbiters (chapter 6) -/

/-- Requester classes, by their IDs (R170). -/
inductive Class where
  | hrd | lkr | qrd | ctr | kfetch | pref | drain | fold | scrub | move | rekey | rebuild
  deriving DecidableEq, Repr

/-- How a line-cache entry is held (R172). -/
inductive Hold where
  | ordinary | pinned | locked
  deriving DecidableEq, Repr

/-- One valid line-cache entry (R169). -/
structure CacheEntry where
  lsa  : BitVec 32
  data : Sector
  hold : Hold
  /-- order of the latest use (R171) -/
  used : Nat
  deriving DecidableEq, Repr

/-- One valid entry of a prefetch side buffer (R178). -/
structure SideEntry where
  lsa  : BitVec 32
  data : Sector
  deriving DecidableEq, Repr

/-- A range invalidation as captured at GO (R175). -/
structure Inval where
  base   : BitVec 32
  limit  : BitVec 32
  locked : Bool
  deriving DecidableEq, Repr

/-- A lock command that loads its sector (R172): PIN, or LOCK. -/
structure LockCmd where
  lsa : BitVec 32
  pin : Bool
  deriving DecidableEq, Repr

/-- Line caches, side buffers and lock state. -/
structure Rdp where
  /-- STATUS.READY [6 R180; 0] -/
  ready  : Bool
  /-- line-cache entries, by channel × 48 + way [6 R170; none] -/
  cache  : FMap CacheEntry
  /-- side buffers by channel, oldest entry first [6 R178; none] -/
  side   : FMap (List SideEntry)
  /-- invalidations running and waiting, in order [6 R175; none] -/
  invals : List Inval
  /-- the lock command that runs [6 R172; none] -/
  lock   : Option LockCmd
  /-- the sector PA[39:8] of the latest medium miss, by channel × 16 + class [6 R178; none] -/
  misses : FMap (BitVec 32)
  /-- order stamp of uses [6 R171; 0] -/
  clock  : Nat
  deriving DecidableEq, Repr

/-- Level of the steady rest (R186). -/
inductive Level where
  | none | soft | hard
  deriving DecidableEq, Repr

/-- What a medium request is for. -/
inductive Purpose where
  /-- the read of a host command (RD64, RD256, CRD, DEQ, a leaf of a LKUP) -/
  | cmd (id : Nat)
  /-- the read of RDP_LOCK_CMD -/
  | lock
  /-- a merge fetch into a FETCHING slot (R146) -/
  | fetch
  | prefetch
  /-- the read of the sector of a fold, then its program (R276) -/
  | foldRead
  | foldProgram
  /-- a drain, or a poison marker (R153) -/
  | drain
  /-- the rewrite of a sector in place (R206) -/
  | refresh
  /-- a retirement: the slot's contents, or a poison marker, go to a spare (R216, R217) -/
  | retire
  /-- a rebuild write, with the mate's data (R228), or a sector of a REGION_RECREATE (R352) -/
  | rebuild
  /-- the read of chunk descriptors by an orphan sweep (R270) -/
  | sweep
  /-- a read that supplies the mate with a repair copy, or a repair read (R329) -/
  | supply (n : MPort)
  /-- an append to the journal of a mirror port (R321) -/
  | journal (n : MPort)
  /-- the copy of the next slot of a block that is retired (R217) -/
  | block (b : Nat)
  deriving DecidableEq, Repr

/-- Progress of a medium request at its channel. -/
inductive MedState where
  /-- raised at the arbiter -/
  | raised
  /-- granted, waiting for its bank (R479) -/
  | bankWait
  | running
  /-- a program suspended by a cut-in (R184) -/
  | suspended
  deriving DecidableEq, Repr

/-- A request of the medium: one sector read or one sector program (R181). -/
structure MedReq where
  id      : Nat
  ch      : Chan
  cls     : Class
  program : Bool
  lsa     : BitVec 32
  purpose : Purpose
  state   : MedState
  /-- the bytes to program; `none` for a read, and for a poison marker -/
  data    : Option Sector
  /-- failed attempts of its program (R218) -/
  fails   : Nat
  /-- reads that missed while this prefetch ran and wait for it, each with its class (R179) -/
  joined  : List (Class × Purpose)
  /-- the read-reference codes of the rows A0 to A6 and SETTLED as this read begins (R204) -/
  refs    : List Nat
  /-- GLB_TIME of the request (ARB_BOUND_EXCESS) -/
  since   : Nat
  /-- rank-0 sector reads that waited or ran at the arbiter at the request, itself included (ARB_LAST_EXCESS) -/
  depth   : Nat
  deriving DecidableEq, Repr

/-- A grant in progress (R181, R183): the class that holds it, the operations it has performed, and the ranks it was made with. -/
structure Grant where
  cls   : Class
  count : Nat
  ranks : BitVec 64
  deriving DecidableEq, Repr

/-- The arbiter of one channel (R181 to R184). -/
structure Arb where
  /-- ranks this channel arbitrates under, as ARB_RANK_ACTIVE (R183) -/
  ranks   : BitVec 64
  /-- a commit is captured and not applied on this channel -/
  pending : Bool
  /-- the grant in progress -/
  holder  : Option Grant
  /-- the class last granted at each rank, by rank -/
  last    : FMap Class
  deriving DecidableEq, Repr

/-! ### The medium (chapters 7 and 10) -/

/-- A programmed sector of the medium: its ciphertext, its metadata (R199, R285), and its grain mark, which every die holds (R200). -/
structure Cell where
  cipher  : Sector
  /-- the grain mark: SESSION above EPOCH -/
  grain   : BitVec 24
  tag     : Word64
  minor   : BitVec 20
  epoch   : BitVec 16
  session : BitVec 8
  lsa     : BitVec 32
  poison  : Bool
  /-- FLAGS COMMIT: a sector of a commit area -/
  commit  : Bool
  /-- the sealing fields: the region's major under which it was sealed (R285) -/
  major   : BitVec 64
  deriving DecidableEq, Repr

/-- A levelling domain (R213): one region's share of one channel. -/
structure Domain where
  start    : Nat
  gap      : Nat
  /-- the key of the permutation -/
  key      : Word64
  /-- programs counted toward ψ (R214) -/
  programs : Nat
  /-- gap steps due and not taken -/
  due      : Nat
  deriving DecidableEq, Repr

/-- The medium channel: what follows the channel's own number (R18). -/
structure Channel where
  /-- the controller that serves it: STATUS.SERVED_BY -/
  server      : Nat
  arb         : Arb
  /-- STATUS.SETTLED -/
  settled     : Bool
  /-- STATUS.SETTLE_OFFSET -/
  offset      : BitVec 8
  /-- STATUS.ALIAS_GUARD -/
  guard       : Bool
  /-- the power-on count and the epoch-tick count (of GLB_TIME) at which its scrub cycle began (R203), persistent -/
  cycleOn     : BitVec 32
  cycleAt     : Nat
  /-- the sector at which its scrub cycle goes on, in address order (R208) -/
  scrubAt     : Nat
  /-- sectors that decoded at RETIRE_STEP or above in this cycle (R206) -/
  weak        : List (BitVec 32)
  /-- spare blocks used (R216), persistent -/
  spareUsed   : Nat
  /-- sector spares carved so far from spare blocks, persistent -/
  sectorSpares : Nat
  /-- MCHnn_RETIRE.BLOCKS and SECTORS, persistent -/
  blocks      : Nat
  sectors     : Nat
  deriving DecidableEq, Repr

/-- BLKb_STATUS.STATE (R230). -/
inductive BlankState where
  | normal | degraded | outage | failed
  deriving DecidableEq, Repr

/-- One blank. -/
structure BlankS where
  state    : BlankState
  hwOk     : Bool
  /-- the die marked failed (R223), persistent -/
  die      : Option (Fin 18)
  /-- an outage of a blank that has FAILED with HW_OK 1 (R224, R225) -/
  down     : Bool
  /-- blank resets tried in the running outage (R224) -/
  resets   : Nat
  /-- decodes counted, and those of the last 4,096 that showed a die five or more symbols in error (R223) -/
  decodes  : Nat
  dieBad   : List (Nat × Fin 18)
  /-- sectors the scrub read, and those of the last 65,536 that were uncorrectable (R226) -/
  scrubbed : Nat
  scrubBad : List Nat
  /-- the interval in force is falling: start of the fall (GLB_TIME), interval before, ns (R209) -/
  catchUp  : Option (Nat × Nat)
  /-- the region being rebuilt and its sectors written and verified (R228) -/
  rebuild  : Option (BitVec 9 × Nat)
  deriving DecidableEq, Repr

/-- The retirement of a block that runs (R217): its spare block, numbered over the channels; the first slot not yet copied, in order; the slots
that were taken out of turn because their own programs failed. -/
structure BlockMove where
  block : Nat
  spare : Nat
  next  : Nat
  ahead : List Nat
  deriving DecidableEq, Repr

/-- Everything of the medium. -/
structure Medium where
  /-- the programmed sectors, those of the reserved area among them, by physical slot after retirement; an unlisted slot is as formatted
  [10 R288; none, as shipped] -/
  cells     : FMap Cell
  /-- sectors whose place was found bad and awaits its marker: they count as holding one. By PA[39:8]; the value says that the metadata
  there does not decode (R289). Persistent [7 R216; none] -/
  marks     : FMap Bool
  /-- sectors whose mark a merge failure set, by PA[39:8]: the peer's copy does not repair them (R149, R329). Persistent [11 R329; none] -/
  merged    : List Nat
  /-- levelling domains, by region × 8 + channel mod 8, then those of the reserved area (R214); an unlisted one has start 0, gap
  1,048,576 and key 0 [7 R213; none changed] -/
  domains   : FMap Domain
  /-- sector retirement map: physical slot to spare slot [7 R216; empty, as shipped] -/
  sectorMap : FMap Nat
  /-- block retirement map: physical block to spare block [7 R216; empty, as shipped] -/
  blockMap  : FMap Nat
  /-- retirements of blocks that run, persistent [7 R217; none, as shipped] -/
  moves     : List BlockMove
  /-- the channels, by number; an unlisted one is as after reset, served by its own controller [7 R229; none listed] -/
  channels  : FMap Channel
  /-- controllers recorded as failed [7 R219; none, as shipped] -/
  failed    : List Mch
  /-- the blanks [7 R230; NORMAL] -/
  blanks    : Vector BlankS 8
  /-- requests raised, running and suspended [6 R181; none] -/
  reqs      : List MedReq
  /-- the number the next request gets [model's own; 0] -/
  nextReq   : Nat
  /-- the channel each controller last granted, by controller (R222) [7 R222; none] -/
  turns     : FMap Nat
  /-- steady-rest level [6 R186; NONE] -/
  level     : Level
  deriving DecidableEq, Repr

/-! ### Regions and keys (chapters 2 and 10) -/

/-- USE of a region (R49, R50). -/
inductive Use where
  | none | general | buffer | counter | table
  deriving DecidableEq, Repr

/-- A live re-key in progress, or one interrupted by power loss (R301 to R305). -/
structure Rekey where
  oldSlot    : Fin 64
  oldMajor   : BitVec 64
  oldCeiling : Nat
  /-- the parting line, as a sector of the region (PARTING) -/
  parting    : Nat
  /-- PARTING as recorded persistently (R302) -/
  recorded   : Nat
  forced     : Bool
  deriving DecidableEq, Repr

/-- A region: its descriptor (R49), its sealing state (R286 to R303) and its health. All of it is persistent, but for the
fields that say otherwise. -/
structure Region where
  /-- word 0 USE [2 R49; NONE] -/
  use        : Use
  /-- word 0 MIRRORED [2 R49; 0] -/
  mirrored   : Bool
  /-- word 0 SYNC_ACK [2 R49; 0] -/
  syncAck    : Bool
  /-- word 0 REKEY_LIVE [2 R49; 0] -/
  rekeyLive  : Bool
  /-- word 0 LEVEL_RATE [2 R49; 0b00] -/
  levelRate  : BitVec 2
  /-- word 1: RD, WR, AT of HP0 to HP3, three bits each [2 R49; 0] -/
  rights     : BitVec 12
  /-- the bound key slot: word 0 KEYED and KEY_SLOT [2 R49; 0] -/
  slot       : Option (Fin 64)
  /-- word 2 BREACH, of this boot [2 R49; 0] -/
  breach     : Bool
  /-- word 2 LOST [2 R49; 0] -/
  lost       : Bool
  /-- word 2 REBUILDING [2 R49; 0] -/
  rebuilding : Bool
  /-- word 2 POISONED [2 R49; 0] -/
  poisoned   : Nat
  /-- nonce of the binding [10 R283; 0] -/
  nonce      : BitVec 32
  /-- current major [10 R286; 0 before the first KEY_BIND] -/
  major      : BitVec 64
  /-- minor ceiling of the current major [10 R290; 0] -/
  ceiling    : Nat
  /-- data major [10 R300; 0] -/
  dataMajor  : BitVec 64
  /-- live re-key: word 2 REKEYING, word 3 PARTING [10 R301; none] -/
  rekey      : Option Rekey
  /-- a forced re-key waits [10 R291; no] -/
  forcedWait : Bool
  /-- POOL_STATE of a BUFFER region: not yet formatted (R258) [9 R258; no] -/
  formatting : Bool
  deriving DecidableEq, Repr

/-- What an erase belongs to (R296 to R298, R330, R352). -/
inductive EraseWhy where
  /-- KEY_CHANGE to a slot -/
  | change (m : Mbx) (slot : Fin 64)
  | unbind (m : Mbx)
  /-- KEY_RETIRE of a slot; no mailbox waits for one that resumed at a boot -/
  | retire (m : Option Mbx) (slot : Fin 64)
  | recreate (m : Mbx)
  /-- an ERASE record of the mate -/
  | mate (n : MPort) (seq : BitVec 48)
  deriving DecidableEq, Repr

/-- An erase that has been accepted (R298). -/
structure EraseJob where
  region : BitVec 9
  why    : EraseWhy
  deriving DecidableEq, Repr

/-- The structures that the device keeps in the internal area (R227, R285), each with the number of an item of it. -/
inductive Inner where
  | descriptor (r : Nat)
  | deviceKey
  | keySlot (k : Nat)
  | bitmap
  | intent
  | failures
  | retirement (ch : Nat)
  | ring (n : Nat)
  | queue (n : Nat)
  | table (n : Nat)
  | firmware (slot n : Nat)
  | pool (r : Nat)
  | dump (n : Nat)
  deriving DecidableEq, Repr

/-- The sealing engine. -/
structure Seal where
  /-- STATUS.READY [10 R307; 0] -/
  ready    : Bool
  /-- the keys of the 64 slots, by slot; unlisted: EMPTY [10 R294; none, as shipped] -/
  keys     : FMap (BitVec 256)
  /-- the device key [10 R293; none, as shipped] -/
  devKey   : Option (BitVec 256)
  /-- the region each walk unit walks [10 R301; none] -/
  units    : Vector (Option (BitVec 9)) 4
  /-- erases that wait for the commands already past check 3; those of a KEY_RETIRE are persistent [10 R298, 12 R349; none] -/
  erasing  : List EraseJob
  /-- sectors held for want of a minor, PA[39:8] [10 R292; none] -/
  held     : List (BitVec 32)
  /-- the internal program count [10 R285; 0, as shipped] -/
  internal : BitVec 64
  /-- the internal program count up to which counts are reserved persistently, in steps of 2^20 [10 R285; 0, as shipped] -/
  reserved : BitVec 64
  /-- items of the internal area whose programs wait below −58 °C [7 R207; none] -/
  toSave   : List Inner
  /-- SELFTEST.DONE and PASS of this reset [10 R306; 0, 0] -/
  tested   : Bool
  passed   : Bool
  deriving DecidableEq, Repr

/-! ### The kerf buffer's persistence state (chapter 5) -/

/-- What one commit area holds (R159, R163). -/
structure CommitArea where
  gen         : BitVec 64
  /-- the commit-complete record is written -/
  complete    : Bool
  frontWritten : Bool
  front       : List EvtEntry
  queueSealed : Bool
  /-- the regions whose bit was set but which held no charge, and those whose data was sealed -/
  sealedRegions : List Nat
  /-- contents of charged slots by sector PA[39:8], each sealed under the internal key (R285) -/
  slots       : FMap Cell
  /-- fold-cache deltas by counter pair PA[39:4], sealed likewise: the pair is the low 128 bits of its sector -/
  deltas      : FMap Cell
  /-- the data major of each region with data (R300) -/
  majors      : FMap (BitVec 64)
  /-- its duration, µs (KRF_COMMIT_TIME) -/
  us          : BitVec 32
  /-- the charge at step 1, bytes, from its header (R159) -/
  charge      : Nat
  deriving DecidableEq, Repr

/-- What started a commit (R158). -/
inductive CommitWhy where
  | pwrFail | down | reset | thermal | fatal
  deriving DecidableEq, Repr

/-- The kerf buffer. -/
structure Krf where
  /-- the slots that are not FREE, by sector PA[39:8] [5 R138; none] -/
  slots     : FMap Slot
  /-- reservations of charge that wait, of every kind, in order of admission [5 R142; none] -/
  waiters   : List Waiter
  /-- charge held by firmware's writes, queue settings and records of the mate that were granted it and wait for a bit of the dirty-region
  bitmap, bytes each [5 R142; none] -/
  granted   : List (Waiter × Nat)
  /-- writes whose region became LOST before they were committed, by stream: the sector PA[39:8] and the oldest such command
  [2 R71; none] -/
  lostWrites : FMap (List (Nat × Nat))
  /-- writes that were given up for want of a spare, until a later write of their sector is committed, likewise [7 R218; none] -/
  gaveUp    : FMap (List (Nat × Nat))
  /-- order stamp of slots [model's own; 0] -/
  stamp     : Nat
  /-- the dirty-region bitmap as it stands in the medium: the regions whose bit is set [5 R144; none, as shipped] -/
  bitmap    : List Nat
  /-- regions whose bit the running bitmap program sets [5 R144; none] -/
  bitmapAsk : List Nat
  /-- the bitmap's next program goes to its second place [5 R144; no, as shipped] -/
  bitmapTurn : Bool
  /-- the generation the bitmap records (R163) [5 R163; 0, as shipped] -/
  bitmapGen : BitVec 64
  /-- generation of the newest commit opened [5 R160; 0, as shipped] -/
  gen       : BitVec 64
  /-- the newest commit area that was opened; older areas are never read again [5 R160; none, as shipped] -/
  area      : Option CommitArea
  /-- the commit that runs: its trigger, and the charge at step 1 [5 R159; none] -/
  running   : Option (CommitWhy × Nat)
  /-- a commit has completed since the last reset [5 R158; no] -/
  done      : Bool
  /-- state was restored at this boot [5 R167 STATUS.RESTORED; 0] -/
  restored  : Bool
  /-- the profile declared under 31 mJ [5 R156; no profile: 1 once booted, 0 before] -/
  minProfile : Bool
  deriving DecidableEq, Repr

/-! ### Lookup tables and engines (chapter 8) -/

/-- Table kinds (R231). -/
inductive TblKind where
  | lpm4 | lpm6 | em | range
  deriving DecidableEq, Repr

/-- An entry of a table: `aux` is the VRF of an LPM entry or the PRIORITY of a RANGE entry; `key` holds the record's KEY bytes,
byte i in bits 8i+7 : 8i (R247). -/
structure TblEntry where
  plen   : Nat
  aux    : Nat
  key    : BitVec 256
  action : Word64
  deriving DecidableEq, Repr

/-- A run of leaf places that a table reserves in a region. Place p of a region is the sector of channel p mod 8 of its blank with logical
index p div 8, so that consecutive places lie on different channels (R233). -/
structure TableRun where
  region : BitVec 9
  first  : Nat
  count  : Nat
  deriving DecidableEq, Repr

/-- A word of the table tier with an uncorrectable error (R244): the table it belongs to, its number, and whether it fails again after a
reload from the first copy of the backing image. -/
structure TierFault where
  table : Nat
  word  : Nat
  again : Bool
  deriving DecidableEq, Repr

/-- A table (R231 to R233). -/
structure Table where
  kind     : TblKind
  /-- MEDIUM placement -/
  medium   : Bool
  /-- declared capacity C -/
  capacity : Nat
  keyLen   : Nat
  defaultAction : Word64
  dual     : Bool
  /-- created since the latest commit: its space is reserved, and no version holds it yet -/
  fresh    : Bool
  regions  : List (BitVec 9)
  /-- the places of its leaves or buckets, in order; of a DUAL table the first copies and then the second ones (R233) -/
  room     : List TableRun
  entries  : List TblEntry
  deriving DecidableEq, Repr

/-- A table set: every table and every profile, with its version (R231). -/
structure TableSet where
  version  : BitVec 32
  tables   : FMap Table
  /-- the 64 bytes of each loaded profile, byte i in bits 8i+7 : 8i (R238) -/
  profiles : FMap (BitVec 512)
  deriving DecidableEq, Repr

/-- A LKUP held by an engine (R241). -/
structure LkupJob where
  cmd     : Nat
  engine  : Engine
  version : BitVec 32
  /-- the stage of its profile that runs (R239) -/
  stage   : Nat
  /-- its steps that have met a bad leaf or a bad tier word, and have been counted (R243) -/
  met     : List Nat
  deriving DecidableEq, Repr

/-- A commit between its start and its response (R250). -/
structure TblCommit where
  mbx  : Mbx
  /-- its leaves and buckets not yet verified in the medium, PA[39:8] -/
  wait : List (BitVec 32)
  deriving DecidableEq, Repr

/-- The lookup engines and the table set. -/
structure Lke where
  /-- the lookup engines are restored [8 R253, 12 R348; no] -/
  ready     : Bool
  /-- the current table set; persistent once committed [8 R250; the empty set at version 0, as shipped] -/
  cur       : TableSet
  /-- the version before the current one, while a LKUP holds it [8 R250; none] -/
  prev      : Option TableSet
  /-- the staged version, with everything staged applied [8 R249; none] -/
  staged    : Option TableSet
  /-- STATUS.STAGED_RECORDS [8 R257; 0] -/
  records   : Nat
  /-- entries that staged records touched, table by table, whose leaves a commit programs [8 R250; none] -/
  changed   : List (Nat × TblEntry)
  /-- the commit that runs [8 R250; none] -/
  commit    : Option TblCommit
  /-- a valid table set is loaded: STATUS.TABLES_VALID [8 R253; 0] -/
  valid     : Bool
  /-- VERSION.RESTORED [8 R257; 0] -/
  restored  : BitVec 32
  /-- failed engines, with the cause bit of LKEee_STATUS[4:2]; persistent [8 R254; none, as shipped] -/
  failed    : FMap (BitVec 3)
  /-- LKUP commands that the engines hold [8 R241; none] -/
  jobs      : List LkupJob
  /-- uncorrectable words in the tier (R244) [8 R244; none] -/
  tierBad   : List TierFault
  /-- full sectors of leaves and buckets that firmware is to write through the kerf buffer: the changed ones of a commit (R250), and
  bad copies of DUAL placement (R243), PA[39:8] [8 R243, R250; none] -/
  writes    : List (BitVec 32)
  deriving DecidableEq, Repr

/-! ### Deep-buffer queues and counters (chapter 9) -/

/-- A complete packet of a queue, or the open one: its metadata, its length, and what of it is not yet dequeued, as the list
of its remaining sectors (PA[39:8]) with the bytes each holds (R262, R265). -/
structure Packet where
  data    : BitVec 48
  length  : Nat
  /-- no segment of it has been dequeued -/
  whole   : Bool
  sectors : List (BitVec 32 × Nat)
  deriving DecidableEq, Repr

/-- One queue (R261, R270). -/
structure Queue where
  enable    : Bool
  enqPorts  : BitVec 4
  deqPorts  : BitVec 4
  maxChunks : Nat
  /-- in ERROR (R270) -/
  error     : Bool
  /-- complete packets, oldest first -/
  packets   : List Packet
  /-- the open packet and the stream (port × 256 + channel) that opened it -/
  opened    : Option (Packet × Nat)
  /-- chunks held, oldest first, as the sector PA[39:8] of their first sector -/
  chunks    : List (BitVec 32)
  /-- sectors used of the newest chunk -/
  fill      : Nat
  /-- the last sector of the open packet as enqueued: the engine keeps it, so that an ENQ never fetches (R262) -/
  tail      : Sector
  /-- QFLUSH commands waiting for a packet boundary, oldest first (R266) -/
  flushes   : List Nat
  /-- corrected errors of head and tail words (R130) -/
  eccCorr   : BitVec 16
  /-- what SEC-DED finds in its head word, its tail word and its other words (R270) -/
  ecc       : Vector Ecc 3
  /-- the descriptor is charged (R271) -/
  charged   : Bool
  deriving DecidableEq, Repr

/-- A region of the buffer pool (R258, R259). -/
structure PoolRegion where
  formatted : Bool
  /-- its ALLOC flag -/
  alloc     : Bool
  /-- data chunks that are not free -/
  used      : List Nat
  deriving DecidableEq, Repr

/-- The queue engine. -/
structure Dbq where
  /-- queues by QID; an unlisted queue is disabled, empty, with every port bit 0 [9 R261; none listed, as shipped] -/
  queues    : FMap Queue
  /-- queues as they stand in the internal area: written back or committed [9 R271; none] -/
  saved     : FMap Queue
  /-- pool regions by region number [9 R258; none, as shipped] -/
  pool      : FMap PoolRegion
  /-- the region after which the next allocation looks [9 R259; 0] -/
  next      : Nat
  /-- STATUS.READY [9 R281; 0] -/
  ready     : Bool
  /-- STATUS.QUEUES_RESET [9 R281; 0] -/
  wasReset  : Bool
  /-- a sweep pass runs [9 R270; no] -/
  sweeping  : Bool
  /-- another pass was asked for while one ran [9 R270; no] -/
  sweepAgain : Bool
  /-- what the pass has read: the sectors of chunk descriptors before this one, numbered through all regions [9 R270, R281; 0] -/
  sweepAt    : Nat
  /-- the region whose dirty-region bit stands for queue state now [9 R271; none] -/
  bitRegion  : Option Nat
  /-- free chunks stand below DBQ_POOL_LOW [9 R281; yes: the pool is empty] -/
  low        : Bool
  /-- the last ENQ that needed a chunk got RETRY (R264) [9 R264; no] -/
  dry       : Bool
  deriving DecidableEq, Repr

/-- One entry of the fold cache (R274). -/
structure FoldEntry where
  delta : Pair
  /-- GLB_TIME of its allocation or last fold, ns (R275, CNT_FOLD_LAG) -/
  since : Nat
  /-- what its ECC finds (R278) -/
  ecc   : Ecc
  deriving DecidableEq, Repr

/-- A fold in progress of one sector (R275): the snapshot of the deltas it takes, by pair PA[39:4]. -/
structure FoldJob where
  snapshot : FMap Pair
  /-- the sector as it was read, once it is -/
  value    : Option Sector
  /-- its program has verified, or it folds into a charged kerf slot: it may switch (R276) -/
  ready    : Bool
  deriving DecidableEq, Repr

/-- The counter folder. -/
structure Cnt where
  /-- fold-cache entries by counter pair PA[39:4] [9 R274; none] -/
  entries  : FMap FoldEntry
  /-- folds in progress by sector PA[39:8] [9 R275; none] -/
  folds    : FMap FoldJob
  /-- the counter poison bitmap: sectors PA[39:8] whose bit is set; persistent [9 R278; none, as shipped] -/
  poison   : FMap Unit
  /-- STATUS.READY [9 R282; 0] -/
  ready    : Bool
  /-- CNT_CLEAR commands that run: mailbox, sectors left to clear (first, count), sectors cleared, and those not yet
  verified [9 R279; none] -/
  clears   : List (Mbx × Nat × Nat × Nat × List (BitVec 32))
  /-- OLDEST_MS has reached LAG_MS [9 R282; no] -/
  lagging  : Bool
  deriving DecidableEq, Repr

/-! ### The mirror (chapter 11) -/

/-- A record this device has formed and the peer has not acknowledged (R318). -/
structure TxRecord where
  /-- its sequence number; records waiting in the journal have none yet -/
  seq    : Option (BitVec 48)
  record : Record
  /-- GLB_TIME when it was formed (MIRn_LAG) -/
  since  : Nat
  /-- the command whose OK waits for its acknowledgement (R326) -/
  cmd    : Option Nat
  deriving DecidableEq, Repr

/-- A seed that this device sends (R331): region, next sector of the region, whether it is a rebuild of the primary. -/
structure SeedOut where
  region  : BitVec 9
  next    : Nat
  rebuild : Bool
  deriving DecidableEq, Repr

/-- The transmitter taps of a mirror lane, in steps of 0.0125 (R464). -/
structure TxTaps where
  /-- c(−1), −16 to 0 -/
  pre  : Int
  /-- c(0) -/
  main : Int
  /-- c(+1), −16 to 0 -/
  post : Int
  deriving DecidableEq, Repr

/-- One mirror port. -/
structure MirPort where
  /-- STATUS.FITTED [11 R333; Profile, no profile] -/
  fitted   : Bool
  /-- STATUS.PCS_LOCK and LINK_UP [11 R333; 0] -/
  linkUp   : Bool
  /-- STATUS.SESSION [11 R324; 0] -/
  session  : Bool
  /-- RETAINED of the latest HELLO sent since the link came up, with the PROMO_GEN in force [11 R324; none] -/
  helloSent : Option (BitVec 48)
  /-- STATUS.STATE is IN_SYNC, not CATCHUP, while a session is up [11 R323; no] -/
  inSync   : Bool
  /-- the SESSION values of the port's latest session, own and peer's [11 R325; none] -/
  lastSession : Option (BitVec 32 × BitVec 32)
  /-- TX_SEQ: next sequence number to assign [11 R317; 0] -/
  txSeq    : BitVec 48
  /-- TX_ACKED: the peer's latest ACKSEQ [11 R333; 0] -/
  acked    : BitVec 48
  /-- RX_SEQ: next sequence number expected [11 R317; 0] -/
  rxSeq    : BitVec 48
  /-- unacknowledged records in order: those sent or in the FIFO, then those of the journal [11 R318, R321; none] -/
  out      : List TxRecord
  /-- JOURNAL_OVERFLOW [11 R321; 0] -/
  overflow : Bool
  /-- extents (region × 512 + extent) whose records this port dropped in overflow, until a catch-up sends them [11 R321, R322; none] -/
  missed   : List Nat
  /-- the byte of the port's journal that the next record appended takes [11 R321; 0] -/
  logAt    : Nat
  /-- the record of the peer that is in sequence and waits to be admitted or applied [11 R318, R319; none] -/
  inbox    : List (BitVec 48 × Record)
  /-- refused regions to list in the next ACK [11 R319; none] -/
  refused  : List (BitVec 9)
  /-- a record was discarded and its NAK is still to be sent [11 R318; no] -/
  nakDue   : Bool
  /-- marked extents (region × 512 + extent) still to resend in the running catch-up, ascending, with the next sector of
  the first [11 R323; none] -/
  catchup  : List Nat
  catchAt  : Nat
  /-- the seed this port sends, and the regions whose seeds wait [11 R331; none] -/
  seed     : Option SeedOut
  seedWait : List (BitVec 9 × Bool)
  /-- receive associations AN 0 to 3 loaded [11 R312; none] -/
  rxSa     : FMap Sa
  /-- transmit associations AN 0 to 3 loaded [11 R312; none] -/
  txSa     : FMap Sa
  /-- the next packet number expected under each receive association [11 R312; none] -/
  rxPn     : FMap (BitVec 64)
  /-- the next packet number to send under each transmit association [11 R312; none] -/
  txPn     : FMap (BitVec 64)
  /-- the physical lane that carries PCS lane k, three bits each [13 R377 MIR_LANE_ORDER; identity] -/
  laneOrder : BitVec 12
  /-- inverted lanes: [3:0] receive, [11:8] transmit [13 R377 MIR_LANE_POL; 0] -/
  lanePol  : BitVec 16
  /-- transmitter taps of lanes 0 to 3 [17 R464; no equalisation] -/
  taps     : Vector TxTaps 4
  deriving DecidableEq, Repr

/-- State of a region at the mirror (R319, R331). -/
structure MirRegion where
  /-- detached: nothing is sent for it until a seed -/
  detached : Bool
  /-- this device receives a seed of it: the seed position, as a sector of the region -/
  seedIn   : Option Nat
  /-- a sector of the running seed was passed over, or could not be written (R228) -/
  gaps     : Bool
  /-- the port in use is not the home port (R320) -/
  away     : Bool
  /-- some of its records formed before its LOST were themselves lost (R331 step 3) -/
  stale    : Bool
  /-- a seed of it has been asked for in the session of the port it uses (R331) -/
  asked    : Bool
  /-- on a MATE: its port has begun a new session since its content was last known to be whole, so a catch-up of it may run, or may have been
  cut off (R323, R325) -/
  behind   : Bool
  deriving DecidableEq, Repr

/-- The pair. -/
structure Mir where
  /-- PAIR_ID, VALID: the pairing; persistent [11 R308; none, as shipped] -/
  pairId   : Option (BitVec 32)
  /-- ROLE: this device is MATE; persistent [11 R308; 0] -/
  mate     : Bool
  /-- PROMO_GEN; persistent [11 R332; 0, as shipped] -/
  promoGen : BitVec 16
  /-- the MATE has adopted a PROMO_GEN and has yet to ask for a seed of every MIRRORED region; persistent [11 R324; no, as shipped] -/
  seedAll  : Bool
  /-- count of resets of every type, low 32 bits: SESSION; persistent [11 R313; 0, as shipped] -/
  resets   : BitVec 32
  ports    : Vector MirPort 2
  /-- the pair is in mate loss and the entry event was raised [11 R324; no] -/
  lost     : Bool
  /-- the intent bitmap: region × 512 + extent of every bit set in the medium; persistent [11 R322; none, as shipped] -/
  intent   : FMap Unit
  /-- bits that the running intent-bitmap program sets [11 R322; none] -/
  intentAsk : List Nat
  /-- the latest REGION_STATE body of the peer: 480 bytes [11 R314; none] -/
  peer     : Option (List Byte)
  /-- the latest REGION_STATE body sent: a change of a reported field is told at once [11 R314; none] -/
  told     : Option (List Byte)
  /-- regions at the mirror, by number; an unlisted one is plain [11 R319; none listed] -/
  regions  : FMap MirRegion
  deriving DecidableEq, Repr

/-! ### Mailboxes and firmware (chapter 12) -/

/-- MBXm_STATUS.STATE (R342, R344). -/
inductive MbxState where
  | idle | busy | done | aborting
  deriving DecidableEq, Repr

/-- One mailbox. -/
structure MbxS where
  /-- STATUS.STATE [12 R359; IDLE] -/
  state   : MbxState
  /-- OPCODE captured at GO [12 R342; 0] -/
  opcode  : BitVec 16
  /-- REQ_LEN captured at GO [12 R342; 0] -/
  reqLen  : Nat
  /-- IRQ_EN captured at GO [12 R342; 0] -/
  irq     : Bool
  /-- STATUS.CODE [12 R359; 0] -/
  code    : BitVec 8
  /-- STATUS.REASON [12 R359; 0] -/
  reason  : BitVec 16
  /-- RSP.RSP_LEN [12 R359; 0] -/
  rspLen  : Nat
  /-- RSP.TICKET [12 R359; 0] -/
  ticket  : BitVec 16
  /-- GLB_TIME at GO, ns, while BUSY [12 R359 MBXm_TIME; 0] -/
  goAt    : Nat
  /-- MBXm_TIME of the latest command, µs [12 R359; 0] -/
  time    : BitVec 32
  /-- BUSY, and not begun: an earlier command names the same object [12 R345; no] -/
  waits   : Bool
  /-- order of GO writes, for commands that wait on one object [12 R345; 0] -/
  order   : Nat
  /-- the request buffer: bytes that are not zero, by offset [12 R341, R349; zero] -/
  req     : List Host.Cell
  /-- the response buffer: bytes that are not zero, by offset [12 R341, R349; zero] -/
  rsp     : List Host.Cell
  deriving DecidableEq, Repr

/-- State of a firmware image slot (FW_INFO, R350). -/
inductive FwState where
  | empty | staging | trial | confirmed | invalid
  deriving DecidableEq, Repr

/-- An image slot. -/
structure FwSlot where
  state   : FwState
  /-- the image's bytes; those staged so far while STAGING -/
  bytes   : List Byte
  version : BitVec 24
  length  : Nat
  floor   : BitVec 16
  deriving DecidableEq, Repr

/-- How the boot flash is used, as its SFDP table gives it (R461). -/
structure SpiUse where
  /-- lines of command, address and data of a read: 1-4-4, 1-1-4, 1-1-2 or 1-1-1 -/
  addrLines : Nat
  dataLines : Nat
  /-- bytes of an address -/
  addrBytes : Nat
  /-- bytes that an erase, and a page program, take -/
  eraseSize : Nat
  pageSize  : Nat
  deriving DecidableEq, Repr

/-- A copy of the running image to the flash (R357). -/
structure SpiCopy where
  mbx    : Mbx
  /-- the flash's erases, programs and verification succeed -/
  ok     : Bool
  image  : FwSlot
  /-- erases and page programs still to be made; the verification follows -/
  erases : Nat
  pages  : Nat
  /-- ns until the operation in hand ends -/
  left   : Nat
  deriving DecidableEq, Repr

/-- The image slots. -/
structure Fw where
  /-- slots A, B and SPI [12 R354; A CONFIRMED with Valku 3.2, B EMPTY, SPI CONFIRMED, as shipped (R477)] -/
  slots    : Vector FwSlot 3
  /-- the slot that runs: 0 A, 1 B, 2 SPI; `none` before firmware runs [12 FW_INFO; none] -/
  running  : Option (Fin 3)
  /-- the NEXT_BOOT slot [12 R356; A] -/
  nextBoot : Option (Fin 2)
  /-- the running image is on its trial boot [12 R356; no] -/
  trial    : Bool
  /-- the device floor [12 R354; 0] -/
  floor    : BitVec 16
  /-- RESET_NOW has been asked for and its 10 ms run [12 R357; no] -/
  resetNow : Bool
  /-- the FW_TO_SPI that runs [12 R349, R357; none] -/
  copying  : Option SpiCopy
  /-- how this boot uses the boot flash; `none` where there is none or no boot has read its table [17 R461; none] -/
  flash    : Option SpiUse
  deriving DecidableEq, Repr

/-! ### The parameter store (chapter 13) -/

/-- One copy of an area or slot (R361). -/
structure PstCopy where
  /-- SEQ of its header -/
  seq     : Nat
  /-- the CRC32 of its header -/
  crc     : BitVec 32
  content : List Byte
  deriving DecidableEq, Repr

/-- A record slot, with its bookkeeping of the control area. -/
structure PstSlot where
  copy0  : PstCopy
  copy1  : PstCopy
  /-- writes made (R365), persistent -/
  writes : Nat
  /-- digests of the passwords, persistent (R367) -/
  readPw  : Option (BitVec 256)
  writePw : Option (BitVec 256)
  /-- failures since reset, volatile (R369) -/
  fails   : Nat
  /-- a tie rewrite is scheduled (R362) -/
  tie     : Bool
  deriving DecidableEq, Repr

/-- A two-copy area. -/
structure PstArea where
  copy0  : PstCopy
  copy1  : PstCopy
  writes : Nat
  tie    : Bool
  deriving DecidableEq, Repr

/-- A monotonic counter: its cells and the increments made (R371, R372). -/
structure PstCtr where
  high : BitVec 32
  low  : BitVec 32
  incs : Nat
  deriving DecidableEq, Repr

/-- What the control area holds of a record slot (R360): its write count and its password digests. -/
structure SlotBook where
  writes  : Nat
  readPw  : Option (BitVec 256)
  writePw : Option (BitVec 256)
  deriving DecidableEq, Repr

/-- What a copy of the control area holds (R360): the books of the slots, the writes of the profile and of the user calibration, and the
increments of the counters. -/
structure PstBook where
  slots   : FMap SlotBook
  profile : Nat
  user    : Nat
  incs    : FMap Nat
  deriving DecidableEq, Repr

/-- One copy of the control area: SEQ, whether its CRC matches, and what it holds; its encoding is the device's own (R360, R361). -/
structure CtlCopy where
  seq  : Nat
  ok   : Bool
  book : PstBook
  deriving DecidableEq, Repr

/-- The parameter store. -/
structure Pst where
  /-- factory calibration, its two copies; their content is Ulward's [13 R360, R364; both alike, SEQ 1, DESIGN CHOICE no content] -/
  factory   : PstCopy × PstCopy
  /-- the board profile [13 R378, R379; EMPTY, as shipped] -/
  profile   : PstArea
  /-- user calibration: its copies, content as user offsets in the order of R375 [13 R376; EMPTY, as shipped] -/
  user      : PstArea
  /-- record slots, by slot; an unlisted one is EMPTY with no password [13 R365; none listed, as shipped] -/
  slots     : FMap PstSlot
  /-- monotonic counters, by index; an unlisted one is 0 [13 R371; 0, as shipped] -/
  ctrs      : FMap PstCtr
  /-- the intent records: counter, new value, and whether it verifies [13 R371; none] -/
  intents   : List (Fin 16 × Word64 × Bool)
  /-- the control area's SEQ tie rewrite is scheduled [13 R362; no] -/
  ctlTie    : Bool
  /-- the control area's two copies [13 R361, R362, R367; EMPTY, as shipped] -/
  ctl0      : CtlCopy
  ctl1      : CtlCopy
  /-- user offsets in force that are not 0, by PARAM × 65,536 + INDEX [13 R374; none] -/
  offsets   : FMap Int
  /-- the profile staging under way: bytes so far [13 R378; none] -/
  staging   : Option (List Byte)
  /-- the profile applied at this boot: its content; `none`: the defaults [13 R379; none] -/
  applied   : Option (List Byte)
  /-- STATUS.READY [13 R382; 0] -/
  ready     : Bool
  /-- STATUS.PROFILE_COPY [13 R382; 0] -/
  copyUsed  : Bool
  /-- STATUS.PROFILE_PENDING [13 R382; 0] -/
  pending   : Bool
  /-- STATUS.RECOVERED [13 R382; 0] -/
  recovered : Bool
  deriving DecidableEq, Repr

/-! ### The JTAG port (chapter 17) -/

/-- The states of the TAP controller of IEEE 1149.1 (R462; log entry 71). -/
inductive TapState where
  | testLogicReset | runTestIdle
  | selectDr | captureDr | shiftDr | exit1Dr | pauseDr | exit2Dr | updateDr
  | selectIr | captureIr | shiftIr | exit1Ir | pauseIr | exit2Ir | updateIr
  deriving DecidableEq, Repr

/-- The instructions of the JTAG port, the AC-coupled ones of IEEE 1149.6 among them (R462); a private one responds as BYPASS. -/
inductive JtagInstr where
  | bypass | idcode | samplePreload | extest | clamp | highz | extestPulse | extestTrain
  deriving DecidableEq, Repr

/-- The JTAG port (R462). -/
structure Jtag where
  /-- the TAP controller [17 R462, IEEE 1149.1; Test-Logic-Reset] -/
  tap   : TapState
  /-- the instruction in force, as the 12-bit instruction register holds it [17 R462, IEEE 1149.1; IDCODE] -/
  instr : JtagInstr
  /-- the register between TDI and TDO while one is shifted, the bit next to TDO first [17 R462; none] -/
  shift : List Bool
  /-- the values that EXTEST and CLAMP drive: the boundary register as last updated [17 R462; none] -/
  cells : List Bool
  deriving DecidableEq, Repr

/-! ### PCIe (chapter 12) -/

/-- An entry of the MSI-X table (R340). -/
structure MsixEntry where
  addr : BitVec 64
  data : BitVec 32
  mask : Bool
  deriving DecidableEq, Repr

/-- The configuration of the PCIe function that the resets of R338 reset. -/
structure PcieCfg where
  /-- Bus Master Enable [12 R337; 0] -/
  busMaster : Bool
  /-- Memory Space Enable [12 R336, PCI Express; 0] -/
  memory  : Bool
  /-- MSI-X Enable [12 R336, PCI Express; 0] -/
  msixOn  : Bool
  /-- MSI-X Function Mask [12 R336, PCI Express; 0] -/
  msixMask : Bool
  /-- PowerState is D3hot, not D0 [12 R336, R338; no] -/
  d3hot   : Bool
  /-- the base addresses in BAR0 and BAR2, low word first [12 R336; 0] -/
  bars    : Vector (BitVec 32) 4
  /-- Device Control [12 R336, PCI Express; 0x2810] -/
  devCtl  : BitVec 16
  deriving DecidableEq, Repr

/-- The PCIe endpoint and the interrupt lines. -/
structure Pcie where
  /-- the link is up [12 R339; no] -/
  linkUp  : Bool
  /-- PCIE_PERST_N pin level [17 R458; 1, pulled up] -/
  perstN  : Bool
  /-- the configuration of the function [12 R336; PcieCfg.initial] -/
  cfg     : PcieCfg
  /-- AER: Uncorrectable Error Status and Mask [12 R336, PCI Express; 0, 0] -/
  aer     : BitVec 32
  aerMask : BitVec 32
  /-- the MSI-X table, by vector; an unlisted entry is zero and masked [12 R340; none listed] -/
  msix    : FMap MsixEntry
  /-- the Pending Bit Array [12 R340; 0] -/
  pba     : BitVec 32
  /-- the sources whose line was up, unmasked and enabled when the last command ended (R39) [1 R39; none] -/
  lines   : BitVec 41
  deriving DecidableEq, Repr

/-! ### What leaves the device -/

/-- The body of an Idnauc frame, by the TYPE of its header (R313). -/
inductive MirBody where
  | hello (f : HelloFrame)
  | data (rs : List Record)
  | ack (refused : List (BitVec 9))
  | nak
  | repairReq (pas : List PA)
  | seedReq (regions : List (BitVec 9))
  | regionState (body : List Byte)
  deriving DecidableEq, Repr

/-- What a command makes the device send. -/
inductive Emit where
  /-- a burst of a response packet: the marks and the calendar word of its control word, its bytes, and whether its CRC24 was
  corrupted on purpose (R87, R89, R103) -/
  | burst (p : HPort) (c : HChan) (sop eop : Bool) (cal : CalWord) (bytes : List Byte) (badCrc : Bool)
  | msix (vec : BitVec 5)
  /-- an Idnauc frame of a mirror port: its envelope, the SEQ and ACKSEQ of its header, its body (R313) -/
  | frame (n : MPort) (env : Envelope) (seq ackSeq : BitVec 48) (body : MirBody)
  deriving DecidableEq, Repr

/-- A capture or a held half of a 64-bit register (R17). -/
structure Latch where
  /-- BAR0 offset of the register -/
  off   : Nat
  half  : BitVec 32
  /-- true: a lower half written and held; false: an upper half captured by a read -/
  write : Bool
  deriving DecidableEq, Repr

/-! ### The whole state -/

/-- The machine. -/
structure State where
  /-- commands waiting, first in, first out [model's own; empty] -/
  pending : List Instr
  /-- free values taken so far: the model's own counter (log entry on free values) [model's own; 0] -/
  fresh   : Nat
  /-- registers that software writes (RW and RWS fields), by BAR0 offset; an unlisted one holds its reset value
  [1 R28; none listed: every register at its Reset column] -/
  regs    : FMap Word64
  /-- registers that hardware holds (RW1C causes, RC fields, counters and latched RO values), by BAR0 offset; an unlisted one
  holds its reset value [1 R28; none listed] -/
  hw      : FMap Word64
  /-- captures and held halves, by block window [0 R17; none] -/
  latches : FMap Latch
  /-- data of the latest REGISTER_READ_CLEAR: what the read returns [model's own; 0] -/
  busRead : Word64
  /-- GLB_TIME [1 GLB_TIME; 0] -/
  time    : BitVec 64
  glb     : Glb
  seq     : Seq
  clk     : Clk
  thm     : Thm
  pwr     : Pwr
  pcie    : Pcie
  ports   : Vector Port 4
  /-- accepted commands that have not been answered, in order of acceptance [4 R112; none] -/
  cmds    : List HostCmd
  /-- the number the next command gets [model's own; 0] -/
  nextCmd : Nat
  krf     : Krf
  rdp     : Rdp
  med     : Medium
  /-- regions by number; an unlisted one is as shipped [2 R49; none listed] -/
  regions : FMap Region
  sealing : Seal
  lke     : Lke
  dbq     : Dbq
  cnt     : Cnt
  mir     : Mir
  mbx     : Vector MbxS 8
  fw      : Fw
  pst     : Pst
  evr     : Evr
  dumps   : Dumps
  pmc     : Vector Pmc 6
  jtag    : Jtag
  /-- what the device has sent, newest first [model's own; nothing] -/
  out     : List Emit
  deriving DecidableEq, Repr

/-- A fault would stop the machine. No rule of the manual stops the device on a command, and no meaning of this model does:
the type has no constructor. -/
inductive Fault where
  deriving DecidableEq, Repr

/-- Why a command has no meaning. -/
inductive Refusal where
  /-- Raised only by an arm of `exec` whose command has no meaning yet; it names the command. Safe: it stops the machine. -/
  | notModelled (mnemonic : String)
  deriving DecidableEq, Repr

/-! ### Reset -/

/-- A region as shipped: USE NONE, KEYED 0 (R49, R477). -/
def Region.shipped : Region where
  use := .none
  mirrored := false
  syncAck := false
  rekeyLive := false
  levelRate := 0
  rights := 0
  slot := none
  breach := false
  lost := false
  rebuilding := false
  poisoned := 0
  nonce := 0
  major := 0
  ceiling := 0
  dataMajor := 0
  rekey := none
  forcedWait := false
  formatting := false

/-- ARB_RANK_ACTIVE at reset (R170): classes 0 to 11 have ranks 0, 0, 1, 2, 1, 5, 3, 4, 6, 6, 7, 7. -/
def ranksReset : BitVec 64 := 0x776643512100

/-- A channel after reset, with nothing persistent recorded of it (R229). -/
def Channel.initial (k : Nat) : Channel where
  server := k
  arb := { ranks := ranksReset, pending := false, holder := none, last := [] }
  settled := false
  offset := 0
  guard := false
  cycleOn := 0
  cycleAt := 0
  scrubAt := 0
  weak := []
  spareUsed := 0
  sectorSpares := 0
  blocks := 0
  sectors := 0

/-- A blank after reset, with nothing persistent recorded of it (R230). -/
def BlankS.initial : BlankS where
  state := .normal
  hwOk := false
  die := none
  down := false
  resets := 0
  decodes := 0
  dieBad := []
  scrubbed := 0
  scrubBad := []
  catchUp := none
  rebuild := none

/-- A full token bucket of 16 KiB, in thousandths of a byte (R187, R426). -/
def Bucket.full : Bucket := { tokens := 16384000, at_ := 0 }

/-- A host port after reset (R103). -/
def Port.initial : Port where
  fitted := false
  signal := false
  cwLock := false
  wordLock := 0
  mfLock := 0
  linkUp := false
  session := 0
  metaframe := 2048
  calLen := 1
  packets := []
  xoff := 0
  xoffPort := false
  hostXoff := 0
  calRx := none
  calTx := 0
  txPackets := []
  wrBucket := Bucket.full
  rdBucket := Bucket.full
  restBucket := Bucket.full
  bufBucket := Bucket.full
  txBucket := Bucket.full

/-- A mirror port after reset (R333). -/
def MirPort.initial : MirPort where
  fitted := false
  linkUp := false
  session := false
  helloSent := none
  inSync := false
  lastSession := none
  txSeq := 0
  acked := 0
  rxSeq := 0
  out := []
  overflow := false
  missed := []
  logAt := 0
  inbox := []
  refused := []
  nakDue := false
  catchup := []
  catchAt := 0
  seed := none
  seedWait := []
  rxSa := []
  txSa := []
  rxPn := []
  txPn := []
  laneOrder := 0x688
  lanePol := 0
  taps := Vector.replicate 4 { pre := 0, main := 80, post := 0 }

/-- A mailbox after reset (R349, R359). -/
def MbxS.initial : MbxS where
  state := .idle
  opcode := 0
  reqLen := 0
  irq := false
  code := 0
  reason := 0
  rspLen := 0
  ticket := 0
  goAt := 0
  time := 0
  waits := false
  order := 0
  req := []
  rsp := []

/-- A clock source that has not been counted yet (R411). -/
def ClkSrc.initial : ClkSrc := { ok := false, failed := false, bad := 0, good := 0 }

/-- The clock unit after reset (R431): only the oscillator passes. -/
def Clk.initial : Clk where
  sys := ClkSrc.initial
  hp := ClkSrc.initial
  pcie := ClkSrc.initial
  osc := { ClkSrc.initial with ok := true }
  onOsc := false
  tailOnSys := false
  trim := 0
  learned := 0
  fine := 0x1000000000
  opp := 2
  move := none

/-- The thermal manager after reset (R432), with the throttle threshold of no profile (R377). -/
def Thm.initial : Thm where
  sensors := Vector.replicate 40 { last := none, valid := false, good := 0 }
  ready := false
  temp := 0
  past := []
  maxSensor := 0
  rate := 0
  band := 2
  coldWave := false
  coldHold := false
  selfHeat := false
  crit := false
  preempt := false
  alarm := false
  threshold := 110
  writePct := 100
  readPct := 100
  paceLow := false
  slowest := 0
  setting := 750
  vdd := 750

/-- Power states after reset (R418, R432). -/
def Pwr.initial : Pwr where
  cur := 0
  exiting := false
  entering := false
  excursion := none
  held := []
  excursions := 0
  ltrG := 0
  ltrP := Vector.replicate 4 0xFFFFFFFF

/-- The default limits of the codes marked † in R386 (R391). -/
def limitsReset : FMap (Nat × Nat) :=
  [0x0001, 0x0103, 0x0104, 0x0105, 0x0106, 0x0201, 0x0404, 0x0501, 0x0603, 0x0604, 0x0801, 0x0802, 0x0905, 0x1207].map
    fun c => (c, 16, 1000000)

/-- A PMC unit after reset (R406). -/
def Pmc.initial : Pmc where
  en := false
  freeze := false
  ovf := 0
  mask := 0
  tb := 0
  cfg := Vector.replicate 8 0
  cnt := Vector.replicate 8 0

/-- The Tailstock before VAON is up (R436, R452): OFF, with Ulward's default shadow. -/
def Seq.initial : Seq where
  vaon := false
  phase := .off
  shadow := Vector.replicate 12 0x000A3202
  step := .idle
  enabled := []
  todo := []
  good := 0
  lostDown := 0
  pg := 0
  transitions := 0
  pwrFailN := false
  resetN := false
  resetSeen := false
  toLatched := false
  downAsked := false
  commitWait := false
  restarted := false
  tsNs := 0
  upStart := 0
  upTime := 0
  first := true

/-- A copy that does not verify (R361). -/
def PstCopy.bad : PstCopy := { seq := 0, crc := 0, content := [] }

/-- An EMPTY area (R362). -/
def PstArea.empty : PstArea := { copy0 := PstCopy.bad, copy1 := PstCopy.bad, writes := 0, tie := false }

/-- A copy of the control area that does not verify. -/
def CtlCopy.bad : CtlCopy := { seq := 0, ok := false, book := { slots := [], profile := 0, user := 0, incs := [] } }

/-- A factory copy as shipped: SEQ 1 and a CRC that matches; its content is Ulward's, and empty here (DESIGN CHOICE, log entry 11). -/
def PstCopy.shipped : PstCopy := { seq := 1, crc := 0xA988DFF7, content := [] }

/-- The parameter store as shipped (R477). -/
def Pst.shipped : Pst where
  factory := (PstCopy.shipped, PstCopy.shipped)
  profile := PstArea.empty
  user := PstArea.empty
  slots := []
  ctrs := []
  intents := []
  ctlTie := false
  ctl0 := CtlCopy.bad
  ctl1 := CtlCopy.bad
  offsets := []
  staging := none
  applied := none
  ready := false
  copyUsed := false
  pending := false
  recovered := false

/-- The function's configuration after a reset of it; PCI Express gives the Device Control word (PRESUMED, log entry 70). -/
def PcieCfg.initial : PcieCfg where
  busMaster := false
  memory := false
  msixOn := false
  msixMask := false
  d3hot := false
  bars := Vector.replicate 4 0
  devCtl := 0x2810

/-- The image slots as shipped (R477): Valku 3.2 CONFIRMED in slot A, slot B EMPTY. The image in slot A and the recovery image
are Ulward's; their bytes are not given, and `Config.fwHeaderOk` says what a check of an image finds. -/
def Fw.shipped : Fw where
  slots := #v[{ state := .confirmed, bytes := [], version := 0x030200, length := 0, floor := 0 },
    { state := .empty, bytes := [], version := 0, length := 0, floor := 0 },
    { state := .confirmed, bytes := [], version := 0x030200, length := 0, floor := 0 }]
  running := none
  nextBoot := some 0
  trial := false
  floor := 0
  resetNow := false
  copying := none
  flash := none

/-- The lookup engines as shipped: a valid image of the empty table set at version 0 (R253, R477). -/
def Lke.shipped : Lke where
  ready := false
  cur := { version := 0, tables := [], profiles := [] }
  prev := none
  staged := none
  records := 0
  changed := []
  commit := none
  valid := false
  restored := 0
  failed := []
  jobs := []
  tierBad := []
  writes := []

/-- The kerf buffer as shipped: every slot FREE, no bitmap bit set, no commit made (R138, R144, R160). -/
def Krf.shipped : Krf where
  slots := []
  waiters := []
  granted := []
  lostWrites := []
  gaveUp := []
  stamp := 0
  bitmap := []
  bitmapAsk := []
  bitmapTurn := false
  bitmapGen := 0
  gen := 0
  area := none
  running := none
  done := false
  restored := false
  minProfile := false

/-- The event recorder as shipped (R383, R391). -/
def Evr.shipped : Evr where
  ring := []
  front := []
  nextIndex := 0
  toSeal := []
  reserve := 4096
  held := 0
  frozen := false
  frozenAt := (0, 0)
  lostFrozen := 0
  inFlight := []
  ready := false
  limits := limitsReset
  windows := []
  last := 0
  clears := 0

/-- The mirror as shipped: no pairing (R477). -/
def Mir.shipped : Mir where
  pairId := none
  mate := false
  promoGen := 0
  seedAll := false
  resets := 0
  ports := Vector.replicate 2 MirPort.initial
  lost := false
  intent := []
  intentAsk := []
  peer := none
  told := none
  regions := []

/-- The JTAG port after its reset (R462, IEEE 1149.1). -/
def Jtag.initial : Jtag where
  tap := .testLogicReset
  instr := .idcode
  shift := []
  cells := []

/-- The machine right after reset: the part as shipped (R477) at the moment VAON comes up, every register at its Reset column,
the rails off and the queue of commands empty (R12, R446). -/
def State.reset : State where
  pending := []
  fresh := 0
  regs := []
  hw := []
  latches := []
  busRead := 0
  time := 0
  glb := { state := .boot, prevState := .boot, fwd := false, bounds := false, mbx := false, breach := false, inReset := true,
           held := { kind := .powerOn, causes := 1 }, asked := none, releasedAt := 0, powerOns := 0, wdogPending := false }
  seq := Seq.initial
  clk := Clk.initial
  thm := Thm.initial
  pwr := Pwr.initial
  pcie := { linkUp := false, perstN := true, cfg := PcieCfg.initial, aer := 0, aerMask := 0, msix := [], pba := 0, lines := 0 }
  ports := Vector.replicate 4 Port.initial
  cmds := []
  nextCmd := 0
  krf := Krf.shipped
  rdp := { ready := false, cache := [], side := [], invals := [], lock := none, misses := [], clock := 0 }
  med := { cells := [], marks := [], merged := [], domains := [], sectorMap := [], blockMap := [], moves := [], channels := [], failed := [],
           blanks := Vector.replicate 8 BlankS.initial, reqs := [], nextReq := 0, turns := [], level := .none }
  regions := []
  sealing := { ready := false, keys := [], devKey := none, units := Vector.replicate 4 none, erasing := [], held := [], internal := 0, reserved := 0, toSave := [],
               tested := false, passed := false }
  lke := Lke.shipped
  dbq := { queues := [], saved := [], pool := [], next := 0, ready := false, wasReset := false, sweeping := false,
           sweepAgain := false, sweepAt := 0, bitRegion := none, low := true, dry := false }
  cnt := { entries := [], folds := [], poison := [], ready := false, clears := [], lagging := false }
  mir := Mir.shipped
  mbx := Vector.replicate 8 MbxS.initial
  fw := Fw.shipped
  pst := Pst.shipped
  evr := Evr.shipped
  dumps := { held := [], trigger := none, writing := false, gen := 0, overwritten := false, owAtBoot := false }
  pmc := Vector.replicate 6 Pmc.initial
  jtag := Jtag.initial
  out := []

end Sys2Proof.Machine
end

