-- ==== Sys2Proof/Machine/Bits.lean ====
section
/-! DEFINITION. Plain helpers: sparse maps, bit fields, byte order, vectors of a fixed number of like things. -/

namespace Sys2Proof.Machine

/-! ### Sparse maps -/

/-- The value at a key, if the key is listed. -/
def fget {α : Type} : FMap α → Nat → Option α
  | [], _ => none
  | (j, v) :: m, k => if k = j then some v else if k < j then none else fget m k

/-- List a key with a value, in its place. -/
def fput {α : Type} : FMap α → Nat → α → FMap α
  | [], k, v => [(k, v)]
  | (j, w) :: m, k, v => if k = j then (k, v) :: m else if k < j then (k, v) :: (j, w) :: m else (j, w) :: fput m k v

/-- Take a key out. -/
def fdel {α : Type} : FMap α → Nat → FMap α
  | [], _ => []
  | (j, w) :: m, k => if k = j then m else if k < j then (j, w) :: m else (j, w) :: fdel m k

/-- The value at a key, or the value of every key that is not listed. -/
def fgetD {α : Type} (m : FMap α) (k : Nat) (d : α) : α := (fget m k).getD d

/-- Give a key a value in a map whose unlisted keys hold `d`: the key is listed only while its value differs. -/
def fputD {α : Type} [DecidableEq α] (m : FMap α) (k : Nat) (d v : α) : FMap α := if v = d then fdel m k else fput m k v

/-- The key is listed. -/
def fhas {α : Type} (m : FMap α) (k : Nat) : Bool := (fget m k).isSome

/-- The canonical form of a sparse map: its keys strictly rise. -/
def fwf {α : Type} : FMap α → Bool
  | [] => true
  | [_] => true
  | (j, _) :: (k, v) :: m => decide (j < k) && fwf ((k, v) :: m)

/-- The keys, in order. -/
def fkeys {α : Type} (m : FMap α) : List Nat := m.map (·.1)

/-- The entries whose key lies in [lo, hi). -/
def frange {α : Type} (m : FMap α) (lo hi : Nat) : FMap α := m.filter fun e => decide (lo ≤ e.1) && decide (e.1 < hi)

/-- The map without the entries whose key lies in [lo, hi). -/
def fcut {α : Type} (m : FMap α) (lo hi : Nat) : FMap α := m.filter fun e => !(decide (lo ≤ e.1) && decide (e.1 < hi))

/-- Give every listed value a new one, by its key. -/
def fmapv {α β : Type} (f : Nat → α → β) (m : FMap α) : FMap β := m.map fun e => (e.1, f e.1 e.2)

/-! ### Sorting -/

/-- An element in its place in a sorted list, after those that are not greater. -/
def insertBy {α : Type} (le : α → α → Bool) (a : α) : List α → List α
  | [] => [a]
  | b :: l => if le b a then b :: insertBy le a l else a :: b :: l

/-- A list in order; equal elements keep their order. -/
def sortBy {α : Type} (le : α → α → Bool) (l : List α) : List α := l.foldl (fun r a => insertBy le a r) []

/-! ### Vectors -/

/-- Change one component. -/
def vmod {α : Type} {n : Nat} (v : Vector α n) (i : Fin n) (f : α → α) : Vector α n := v.set i (f v[i])

/-! ### Bit fields -/

/-- Bits [lo+w-1 : lo] of a word, as a number. -/
def bitsOf {n : Nat} (x : BitVec n) (lo w : Nat) : Nat := x.toNat / 2 ^ lo % 2 ^ w

/-- Bit k of a word. -/
def bitOf {n : Nat} (x : BitVec n) (k : Nat) : Bool := x.getLsbD k

/-- A mask of w ones from bit lo. -/
def maskOf (n lo w : Nat) : BitVec n := BitVec.ofNat n ((2 ^ w - 1) * 2 ^ lo)

/-- The word with bits [lo+w-1 : lo] replaced by the low w bits of v. -/
def putBits {n : Nat} (x : BitVec n) (lo w v : Nat) : BitVec n :=
  (x &&& ~~~ maskOf n lo w) ||| BitVec.ofNat n (v % 2 ^ w * 2 ^ lo)

/-- The word with bit k set to b. -/
def putBit {n : Nat} (x : BitVec n) (k : Nat) (b : Bool) : BitVec n := putBits x k 1 b.toNat

/-- 1 or 0 at bit lo. -/
def flag (b : Bool) (lo : Nat) : Word64 := if b then BitVec.ofNat 64 (2 ^ lo) else 0

/-- A number placed at bit lo (the caller keeps it within its field). -/
def fld (v lo : Nat) : Word64 := BitVec.ofNat 64 (v * 2 ^ lo)

/-- The lesser of a number and the largest that w bits hold: a saturating field. -/
def sat (w v : Nat) : Nat := min v (2 ^ w - 1)

/-- The number of bits set among the low n of x. -/
def popcount {n : Nat} (x : BitVec n) : Nat := ((List.range n).filter fun k => x.getLsbD k).length

/-! ### Bytes -/

/-- Byte i of a word, byte 0 the least significant (R11, R43). -/
def byteOf {n : Nat} (x : BitVec n) (i : Nat) : Byte := x.extractLsb' (8 * i) 8

/-- The low k bytes, byte 0 first. -/
def bytesOf {n : Nat} (x : BitVec n) (k : Nat) : List Byte := (List.range k).map (byteOf x)

/-- The number that a list of bytes spells, the first the least significant. -/
def leNat : List Byte → Nat
  | [] => 0
  | b :: r => b.toNat + 256 * leNat r

/-- The number that a list of bytes spells, the first the most significant. -/
def beNat (l : List Byte) : Nat := leNat l.reverse

/-- k bytes of a number, the least significant first. -/
def leBytes : Nat → Nat → List Byte
  | 0, _ => []
  | k + 1, v => BitVec.ofNat 8 v :: leBytes k (v / 256)

/-- k bytes of a number, the most significant first. -/
def beBytes (k v : Nat) : List Byte := (leBytes k v).reverse

/-- k bytes of a list from an offset on, zero beyond its end. -/
def slice (l : List Byte) (off k : Nat) : List Byte :=
  let r := (l.drop off).take k
  r ++ List.replicate (k - r.length) 0

/-- The little-endian number in k bytes from an offset on. -/
def leAt (l : List Byte) (off k : Nat) : Nat := leNat (slice l off k)

/-- The big-endian number in k bytes from an offset on. -/
def beAt (l : List Byte) (off k : Nat) : Nat := beNat (slice l off k)

/-- A list of bytes as a word, byte 0 in the low bits. -/
def wordOf (n : Nat) (l : List Byte) : BitVec n := BitVec.ofNat n (leNat l)

/-- The 64-bit word at word index i of a sector (R41: atomic words). -/
def wordAt (d : Sector) (i : Nat) : Word64 := d.extractLsb' (64 * i) 64

/-- The sector with a field of w bits at bit lo replaced. -/
def putField (d : Sector) (lo w : Nat) (v : BitVec 2048) : Sector :=
  (d &&& ~~~ maskOf 2048 lo w) ||| ((v &&& maskOf 2048 0 w) <<< lo)

/-- The line at line index i of a sector. -/
def lineAt (d : Sector) (i : Nat) : Line := d.extractLsb' (512 * i) 512

/-- The sector with line i replaced. -/
def putLine (d : Sector) (i : Nat) (l : Line) : Sector := putField d (512 * i) 512 (l.setWidth 2048)

/-- The sector with atomic word i replaced. -/
def putWord (d : Sector) (i : Nat) (w : Word64) : Sector := putField d (64 * i) 64 (w.setWidth 2048)

/-- A 64-bit byte mask as a 512-bit mask (R118). -/
def byteMask (m : BitVec 64) : Line :=
  BitVec.ofNat 512 (((List.range 64).map fun i => if m.getLsbD i then 255 * 2 ^ (8 * i) else 0).sum)

end Sys2Proof.Machine
end

