-- ==== Sys2Proof/Machine/RegMap.lean ====
section
/-! DEFINITION. The BAR0 register map (R28): the window of each block, its registers, the type of each of their fields (R13), what
survives a reset (R12) and the Reset column. A register's `Reg` name is its BAR0 offset; per-instance blocks take the
instance. -/

namespace Sys2Proof.Machine

/-- One register of a block: offset in the window, width, and the masks of its fields by type. A bit in no mask is RO or
reserved. `keep` marks a register that counts from power-on reset and keeps its value across full and warm resets (R12). -/
structure RegDesc where
  off   : Nat
  width : Nat
  rw    : Word64
  w1c   : Word64
  rc    : Word64
  /-- RW fields that survive a warm reset -/
  rws   : Word64
  wo    : Word64
  keep  : Bool
  reset : Word64
  deriving DecidableEq, Repr

/-- One block: its first window, the stride and number of its instances, the size of a window, its registers. -/
structure RegBlock where
  base   : Nat
  stride : Nat
  count  : Nat
  size   : Nat
  regs   : List RegDesc

/-- GLB registers (01_architecture.md, R28; GLB register map). -/
def regsGlb : List RegDesc :=
  [⟨0x0, 32, 0, 0, 0, 0, 0, false, 0x99601F7D⟩, ⟨0x4, 32, 0, 0, 0, 0, 0, false, 0x42⟩, ⟨0x8, 32, 0, 0, 0, 0, 0, false, 0⟩,
   ⟨0xC, 32, 0, 0, 0, 0, 0, false, 0x1E05048⟩, ⟨0x10, 64, 0, 0, 0, 0, 0, false, 0⟩, ⟨0x18, 32, 0, 0, 0, 0, 0, false, 1⟩,
   ⟨0x1C, 32, 0, 0, 0, 0, 0, false, 0⟩, ⟨0x20, 32, 0, 0, 0, 0, 0, false, 0⟩, ⟨0x24, 32, 0, 0, 0, 0, 0x1FFFF, false, 0⟩,
   ⟨0x28, 32, 0, 0x1F, 0, 0, 0, false, 0⟩, ⟨0x2C, 32, 0x1F, 0, 0, 0, 0, false, 0⟩, ⟨0x30, 64, 0, 0, 0, 0, 0, true, 0⟩,
   ⟨0x38, 32, 0, 0, 0, 0, 0, false, 0⟩, ⟨0x3C, 32, 0, 0, 0, 0, 0, false, 0⟩, ⟨0x40, 64, 0, 0, 0, 0, 0, false, 0⟩,
   ⟨0x48, 64, 0x1FFFFFFFFFF, 0, 0, 0, 0, false, 0⟩, ⟨0x50, 32, 0x9F9F9F9F, 0, 0, 0, 0, false, 0⟩,
   ⟨0x54, 32, 0x9F9F9F9F, 0, 0, 0, 0, false, 0⟩, ⟨0x58, 32, 0x9F9F9F9F, 0, 0, 0, 0, false, 0⟩,
   ⟨0x5C, 32, 0x9F9F9F9F, 0, 0, 0, 0, false, 0⟩, ⟨0x60, 32, 0x9F9F9F9F, 0, 0, 0, 0, false, 0⟩,
   ⟨0x64, 32, 0x9F9F9F9F, 0, 0, 0, 0, false, 0⟩, ⟨0x68, 32, 0x9F9F9F9F, 0, 0, 0, 0, false, 0⟩,
   ⟨0x6C, 32, 0x9F9F9F9F, 0, 0, 0, 0, false, 0⟩, ⟨0x70, 32, 0x9F9F9F9F, 0, 0, 0, 0, false, 0⟩,
   ⟨0x74, 32, 0x9F9F9F9F, 0, 0, 0, 0, false, 0⟩, ⟨0x78, 32, 0x9F, 0, 0, 0, 0, false, 0⟩,
   ⟨0x80, 32, 0xFFFFFFFF, 0, 0, 0xFFFFFFFF, 0, false, 0⟩, ⟨0x84, 32, 0xFFFFFFFF, 0, 0, 0xFFFFFFFF, 0, false, 0⟩,
   ⟨0x88, 32, 0xFFFFFFFF, 0, 0, 0xFFFFFFFF, 0, false, 0⟩, ⟨0x8C, 32, 0xFFFFFFFF, 0, 0, 0xFFFFFFFF, 0, false, 0⟩,
   ⟨0x90, 32, 0, 7, 0, 0, 0, false, 0⟩, ⟨0x94, 32, 0x1F, 0, 0, 0, 0, false, 0x1F⟩, ⟨0x98, 32, 0, 0, 0, 0, 0, false, 0⟩,
   ⟨0x9C, 32, 0, 0, 0, 0, 0, false, 0⟩, ⟨0xA0, 32, 0, 0, 0, 0, 0, false, 0x20⟩]

/-- HP registers (03_host_ports.md, R103). -/
def regsHp : List RegDesc :=
  [⟨0x0, 32, 7, 0, 0, 0, 0, false, 0⟩, ⟨0x4, 32, 0, 0, 0, 0, 0, false, 0⟩, ⟨0x8, 32, 0, 0x7F, 0, 0, 0, false, 0⟩,
   ⟨0xC, 32, 0x7F, 0, 0, 0, 0, false, 0⟩, ⟨0x10, 32, 0x7FFF, 0, 0, 0, 0, false, 0x800⟩, ⟨0x14, 32, 0x1F, 0, 0, 0, 0, false, 1⟩,
   ⟨0x18, 32, 0x7FF07FF, 0, 0, 0, 0, false, 0x600080⟩, ⟨0x1C, 32, 0x7FF07FF, 0, 0, 0, 0, false, 0x3000380⟩,
   ⟨0x20, 32, 0xFF01FF, 0, 0, 0, 0, false, 0x100100⟩, ⟨0x24, 32, 0, 0, 0, 0, 0, false, 0⟩, ⟨0x28, 32, 0, 0, 0, 0, 0, false, 0⟩,
   ⟨0x2C, 32, 0, 0, 0, 0, 0, false, 0x1D1D⟩, ⟨0x30, 32, 0x7F, 0, 0, 0, 0, false, 0⟩, ⟨0x34, 32, 0, 0, 0, 0, 0, false, 0⟩,
   ⟨0x38, 32, 0, 0, 0x7FF0000, 0, 0, false, 0⟩, ⟨0x3C, 32, 0, 0, 0, 0, 0, false, 0⟩, ⟨0x40, 64, 0, 0, 0, 0, 0, true, 0⟩,
   ⟨0x48, 64, 0, 0, 0xFFFFFFFFFFFFFFFF, 0, 0, true, 0⟩, ⟨0x50, 64, 0, 0, 0xFFFFFFFFFFFFFFFF, 0, 0, true, 0⟩,
   ⟨0x58, 64, 0, 0, 0xFFFFFFFFFFFFFFFF, 0, 0, true, 0⟩, ⟨0x60, 64, 0, 0, 0, 0, 0, true, 0⟩,
   ⟨0x68, 64, 0, 0, 0, 0, 0, true, 0⟩, ⟨0x70, 64, 0, 0, 0, 0, 0, true, 0⟩, ⟨0x78, 64, 0, 0, 0, 0, 0, true, 0⟩,
   ⟨0x80, 64, 0, 0, 0, 0, 0, true, 0⟩, ⟨0x88, 64, 0, 0, 0, 0, 0, true, 0⟩, ⟨0x90, 32, 0, 0, 0xFFFFFFFF, 0, 0, false, 0⟩,
   ⟨0x94, 32, 0, 0, 0xFFFFFFFF, 0, 0, false, 0⟩, ⟨0x98, 32, 0, 0, 0xFFFFFFFF, 0, 0, false, 0⟩,
   ⟨0x9C, 32, 0, 0, 0xFFFFFFFF, 0, 0, false, 0⟩, ⟨0xA0, 32, 0, 0, 0xFFFFFFFF, 0, 0, false, 0⟩,
   ⟨0xA4, 32, 0, 0, 0, 0, 0, false, 0⟩, ⟨0xB0, 32, 0, 0, 0xFFFF, 0, 0, false, 0⟩, ⟨0xB4, 32, 0, 0, 0xFFFF, 0, 0, false, 0⟩,
   ⟨0xB8, 32, 0, 0, 0xFFFF, 0, 0, false, 0⟩, ⟨0xBC, 32, 0, 0, 0xFFFF, 0, 0, false, 0⟩,
   ⟨0xC0, 32, 0, 0, 0xFFFF, 0, 0, false, 0⟩, ⟨0xC4, 32, 0, 0, 0xFFFF, 0, 0, false, 0⟩,
   ⟨0xC8, 32, 0, 0, 0xFFFF, 0, 0, false, 0⟩, ⟨0xCC, 32, 0, 0, 0xFFFF, 0, 0, false, 0⟩]

/-- KRF registers (05_kerf_persistence.md, R167). -/
def regsKrf : List RegDesc :=
  [⟨0x0, 32, 1, 0, 0, 0, 0, false, 0⟩, ⟨0x4, 32, 0, 0, 0, 0, 0, false, 0⟩, ⟨0x8, 32, 0, 0x3F, 0, 0, 0, false, 0⟩,
   ⟨0xC, 32, 0x3F, 0, 0, 0, 0, false, 0⟩, ⟨0x10, 32, 0x7FF, 0, 0, 0, 0, false, 0x40⟩, ⟨0x14, 32, 0, 0, 0, 0, 0, false, 0x40⟩,
   ⟨0x18, 32, 0xFFFFFF, 0, 0, 0, 0, false, 0x8001F4⟩, ⟨0x1C, 32, 0x3FF, 0, 0, 0, 0, false, 0x40⟩,
   ⟨0x20, 64, 0, 0, 0, 0, 0, false, 0⟩, ⟨0x28, 64, 0, 0, 0, 0, 0, false, 0x6000000000000⟩,
   ⟨0x30, 32, 0, 0, 0x7FF, 0, 0, false, 0⟩, ⟨0x34, 32, 0, 0, 0, 0, 0, false, 0⟩, ⟨0x38, 32, 0, 0, 0, 0, 0, false, 0⟩,
   ⟨0x3C, 32, 0, 0, 0xFFFFFFFF, 0, 0, false, 0⟩, ⟨0x40, 64, 0, 0, 0, 0, 0, true, 0⟩, ⟨0x48, 64, 0, 0, 0, 0, 0, true, 0⟩,
   ⟨0x50, 64, 0, 0, 0, 0, 0, true, 0⟩, ⟨0x58, 64, 0, 0, 0, 0, 0, true, 0⟩, ⟨0x60, 64, 0, 0, 0, 0, 0, true, 0⟩,
   ⟨0x68, 64, 0, 0, 0, 0, 0, false, 0⟩, ⟨0x70, 32, 0, 0, 0xFFFFFFFF, 0, 0, false, 0⟩, ⟨0x74, 32, 0, 0, 0, 0, 0, false, 0⟩,
   ⟨0x78, 32, 0, 0, 0, 0, 0, false, 0⟩, ⟨0x80, 64, 0, 0, 0, 0, 0, false, 0⟩, ⟨0xC0, 64, 0, 0, 0, 0, 0, false, 0⟩,
   ⟨0xC8, 64, 0, 0, 0, 0, 0, false, 0⟩, ⟨0xD0, 64, 0, 0, 0, 0, 0, false, 0⟩, ⟨0xD8, 64, 0, 0, 0, 0, 0, false, 0⟩,
   ⟨0xE0, 64, 0, 0, 0, 0, 0, false, 0⟩, ⟨0xE8, 64, 0, 0, 0, 0, 0, false, 0⟩, ⟨0xF0, 64, 0, 0, 0, 0, 0, false, 0⟩,
   ⟨0xF8, 64, 0, 0, 0, 0, 0, false, 0⟩]

/-- RDP registers (06_bounded_reads.md, R194). -/
def regsRdp : List RegDesc :=
  [⟨0x0, 32, 1, 0, 0, 0, 0, false, 1⟩, ⟨0x4, 32, 0, 0, 0, 0, 0, false, 0⟩, ⟨0x8, 32, 0, 0xF, 0, 0, 0, false, 0⟩,
   ⟨0xC, 32, 0xF, 0, 0, 0, 0, false, 0⟩, ⟨0x10, 64, 0xFFFFFFFFFFFF, 0, 0, 0, 0, false, 0xFFFFFF⟩,
   ⟨0x18, 64, 0xFFFFFFFFFFFF, 0, 0, 0, 0, false, 0xFFFF000000⟩, ⟨0x20, 64, 0xFFFFFFFFFFFF, 0, 0, 0, 0, false, 0xF0000000000⟩,
   ⟨0x28, 64, 0xFFFFFFFFFFFF, 0, 0, 0, 0, false, 0xF00000000000⟩, ⟨0x30, 32, 0x70F, 0, 0, 0, 0, false, 0x103⟩,
   ⟨0x34, 32, 3, 0, 0, 0, 0, false, 0⟩, ⟨0x38, 64, 0xFFFFFFFF00, 0, 0, 0, 0, false, 0⟩,
   ⟨0x40, 64, 0xFFFFFFFF00, 0, 0, 0, 0, false, 0⟩, ⟨0x48, 64, 0x800003FFFFFFFF00, 0, 0, 0, 0, false, 0⟩,
   ⟨0x50, 32, 0, 0, 0, 0, 0, false, 0⟩, ⟨0x54, 32, 0, 0, 0, 0, 0, false, 0⟩, ⟨0x58, 64, 0, 0, 0, 0, 0, true, 0⟩,
   ⟨0x60, 64, 0, 0, 0, 0, 0, true, 0⟩, ⟨0x68, 64, 0, 0, 0, 0, 0, true, 0⟩, ⟨0x70, 64, 0, 0, 0, 0, 0, true, 0⟩,
   ⟨0x78, 64, 0, 0, 0, 0, 0, true, 0⟩]

/-- ARB registers (06_bounded_reads.md, R195). -/
def regsArb : List RegDesc :=
  [⟨0x0, 32, 1, 0, 0, 0, 0, false, 1⟩, ⟨0x4, 32, 0, 0, 0, 0, 0, false, 0⟩, ⟨0x8, 32, 0, 0x1F, 0, 0, 0, false, 0⟩,
   ⟨0xC, 32, 0x1F, 0, 0, 0, 0, false, 0⟩, ⟨0x10, 64, 0x777777777777, 0, 0, 0, 0, false, 0x776643512100⟩,
   ⟨0x18, 64, 0, 0, 0, 0, 0, false, 0x776643512100⟩, ⟨0x20, 32, 0, 0, 0, 0, 1, false, 0⟩, ⟨0x24, 32, 0, 0, 0, 0, 0, false, 0⟩,
   ⟨0x40, 32, 0xFF, 0, 0, 0, 0, false, 4⟩, ⟨0x44, 32, 0xFF, 0, 0, 0, 0, false, 4⟩, ⟨0x48, 32, 0xFF, 0, 0, 0, 0, false, 4⟩,
   ⟨0x4C, 32, 0xFF, 0, 0, 0, 0, false, 4⟩, ⟨0x50, 32, 0xFF, 0, 0, 0, 0, false, 4⟩, ⟨0x54, 32, 0xFF, 0, 0, 0, 0, false, 4⟩,
   ⟨0x58, 32, 0xFF, 0, 0, 0, 0, false, 8⟩, ⟨0x5C, 32, 0xFF, 0, 0, 0, 0, false, 8⟩, ⟨0x60, 32, 0xFF, 0, 0, 0, 0, false, 8⟩,
   ⟨0x64, 32, 0xFF, 0, 0, 0, 0, false, 8⟩, ⟨0x68, 32, 0xFF, 0, 0, 0, 0, false, 8⟩, ⟨0x6C, 32, 0xFF, 0, 0, 0, 0, false, 8⟩,
   ⟨0x80, 32, 1, 0, 0, 0, 0, false, 1⟩, ⟨0x84, 32, 0, 0, 0, 0, 0, false, 0⟩, ⟨0x88, 32, 0xFFFFFF, 0, 0, 0, 0, false, 0xA0F0C0⟩,
   ⟨0x8C, 32, 0xFFFFFF, 0, 0, 0, 0, false, 0xC0F3E0⟩, ⟨0x90, 32, 0xFFFFFF, 0, 0, 0, 0, false, 0xA0F0C0⟩,
   ⟨0x94, 32, 0xFFFFFF, 0, 0, 0, 0, false, 0x80E0A0⟩, ⟨0x98, 32, 0xFFFFFF, 0, 0, 0, 0, false, 0x500410⟩,
   ⟨0x9C, 32, 0, 0, 0, 0, 0, false, 0⟩, ⟨0xA0, 64, 0, 0, 0, 0, 0, true, 0⟩, ⟨0xA8, 64, 0, 0, 0, 0, 0, true, 0⟩,
   ⟨0xB0, 64, 0, 0, 0, 0, 0, true, 0⟩, ⟨0xC0, 64, 0, 0, 0, 0, 0, true, 0⟩, ⟨0xC8, 32, 0, 0, 0x3FFF, 0, 0, false, 0⟩,
   ⟨0xCC, 32, 0, 0, 0xFFFFFFFF, 0, 0, false, 0⟩, ⟨0xD0, 64, 0, 0, 0, 0, 0, false, 0⟩, ⟨0xD8, 64, 0, 0, 0, 0, 0, true, 0⟩,
   ⟨0x100, 64, 0, 0, 0, 0, 0, true, 0⟩, ⟨0x108, 64, 0, 0, 0, 0, 0, true, 0⟩, ⟨0x110, 64, 0, 0, 0, 0, 0, true, 0⟩,
   ⟨0x118, 64, 0, 0, 0, 0, 0, true, 0⟩, ⟨0x120, 64, 0, 0, 0, 0, 0, true, 0⟩, ⟨0x128, 64, 0, 0, 0, 0, 0, true, 0⟩,
   ⟨0x130, 64, 0, 0, 0, 0, 0, true, 0⟩, ⟨0x138, 64, 0, 0, 0, 0, 0, true, 0⟩, ⟨0x140, 64, 0, 0, 0, 0, 0, true, 0⟩,
   ⟨0x148, 64, 0, 0, 0, 0, 0, true, 0⟩, ⟨0x150, 64, 0, 0, 0, 0, 0, true, 0⟩, ⟨0x158, 64, 0, 0, 0, 0, 0, true, 0⟩]

/-- LKE registers (08_lookups.md, R257). -/
def regsLke : List RegDesc :=
  [⟨0x0, 32, 0x1FFFFF, 0, 0, 0, 0, false, 0xFFFF⟩, ⟨0x4, 32, 0, 0, 0, 0, 0, false, 0x10⟩,
   ⟨0x8, 32, 0, 0x3F, 0, 0, 0, false, 0⟩, ⟨0xC, 32, 0x3F, 0, 0, 0, 0, false, 0⟩, ⟨0x10, 64, 0, 0, 0, 0, 0, false, 0⟩,
   ⟨0x18, 32, 0, 0, 0, 0, 0, false, 0⟩, ⟨0x1C, 32, 0, 0, 0xFFFFFFFF, 0, 0, false, 0⟩, ⟨0x20, 64, 0, 0, 0, 0, 0, true, 0⟩,
   ⟨0x28, 64, 0, 0, 0, 0, 0, true, 0⟩, ⟨0x30, 64, 0, 0, 0, 0, 0, true, 0⟩, ⟨0x38, 32, 0, 0, 0xFFFFFFFF, 0, 0, false, 0⟩,
   ⟨0x40, 64, 0, 0, 0, 0, 0, false, 0⟩, ⟨0x100, 32, 0, 0, 0, 0, 0, false, 0⟩, ⟨0x108, 64, 0, 0, 0, 0, 0, true, 0⟩,
   ⟨0x110, 32, 0, 0, 0, 0, 0, false, 0⟩, ⟨0x118, 64, 0, 0, 0, 0, 0, true, 0⟩, ⟨0x120, 32, 0, 0, 0, 0, 0, false, 0⟩,
   ⟨0x128, 64, 0, 0, 0, 0, 0, true, 0⟩, ⟨0x130, 32, 0, 0, 0, 0, 0, false, 0⟩, ⟨0x138, 64, 0, 0, 0, 0, 0, true, 0⟩,
   ⟨0x140, 32, 0, 0, 0, 0, 0, false, 0⟩, ⟨0x148, 64, 0, 0, 0, 0, 0, true, 0⟩, ⟨0x150, 32, 0, 0, 0, 0, 0, false, 0⟩,
   ⟨0x158, 64, 0, 0, 0, 0, 0, true, 0⟩, ⟨0x160, 32, 0, 0, 0, 0, 0, false, 0⟩, ⟨0x168, 64, 0, 0, 0, 0, 0, true, 0⟩,
   ⟨0x170, 32, 0, 0, 0, 0, 0, false, 0⟩, ⟨0x178, 64, 0, 0, 0, 0, 0, true, 0⟩, ⟨0x180, 32, 0, 0, 0, 0, 0, false, 0⟩,
   ⟨0x188, 64, 0, 0, 0, 0, 0, true, 0⟩, ⟨0x190, 32, 0, 0, 0, 0, 0, false, 0⟩, ⟨0x198, 64, 0, 0, 0, 0, 0, true, 0⟩,
   ⟨0x1A0, 32, 0, 0, 0, 0, 0, false, 0⟩, ⟨0x1A8, 64, 0, 0, 0, 0, 0, true, 0⟩, ⟨0x1B0, 32, 0, 0, 0, 0, 0, false, 0⟩,
   ⟨0x1B8, 64, 0, 0, 0, 0, 0, true, 0⟩, ⟨0x1C0, 32, 0, 0, 0, 0, 0, false, 0⟩, ⟨0x1C8, 64, 0, 0, 0, 0, 0, true, 0⟩,
   ⟨0x1D0, 32, 0, 0, 0, 0, 0, false, 0⟩, ⟨0x1D8, 64, 0, 0, 0, 0, 0, true, 0⟩, ⟨0x1E0, 32, 0, 0, 0, 0, 0, false, 0⟩,
   ⟨0x1E8, 64, 0, 0, 0, 0, 0, true, 0⟩, ⟨0x1F0, 32, 0, 0, 0, 0, 0, false, 0⟩, ⟨0x1F8, 64, 0, 0, 0, 0, 0, true, 0⟩]

/-- DBQ registers (09_deep_buffer_counters.md, R281). -/
def regsDbq : List RegDesc :=
  [⟨0x0, 32, 1, 0, 0, 0, 0, false, 0⟩, ⟨0x4, 32, 0, 0, 0, 0, 0, false, 0⟩, ⟨0x8, 32, 0, 0x1FF, 0, 0, 0, false, 0⟩,
   ⟨0xC, 32, 0x1FF, 0, 0, 0, 0, false, 0⟩, ⟨0x10, 32, 0xFFFFFFFF, 0, 0, 0, 0, false, 0x4000040⟩,
   ⟨0x14, 32, 0x7FFFFFF, 0, 0, 0, 0, false, 0x10000⟩, ⟨0x18, 64, 0, 0, 0, 0, 0, false, 0⟩, ⟨0x20, 64, 0, 0, 0, 0, 0, false, 0⟩,
   ⟨0x28, 32, 0, 0, 0, 0, 0, false, 0⟩, ⟨0x2C, 32, 0, 0, 0xFFFFFFFF, 0, 0, false, 0⟩,
   ⟨0x30, 32, 0, 0, 0xFFFFFFFF, 0, 0, false, 0⟩, ⟨0x34, 32, 0, 0, 0, 0, 0, false, 0⟩,
   ⟨0x38, 32, 0, 0, 0xFFFFFFFF, 0, 0, false, 0⟩, ⟨0x3C, 32, 0, 0, 0xFFFFFFFF, 0, 0, false, 0⟩,
   ⟨0x40, 32, 0, 0, 0, 0, 0, false, 0⟩, ⟨0x44, 32, 0, 0, 0xFFFFFFFF, 0, 0, false, 0⟩, ⟨0x48, 64, 0, 0, 0, 0, 0, false, 0⟩,
   ⟨0x50, 32, 0, 0, 0, 0, 0, false, 0⟩, ⟨0x54, 32, 0, 0, 0, 0, 0, false, 0⟩, ⟨0x58, 32, 0, 0, 0, 0, 0, false, 0⟩,
   ⟨0x5C, 32, 0, 0, 0x7FFFFFF, 0, 0, false, 0⟩, ⟨0x60, 32, 0, 0, 0, 0, 0, false, 0⟩, ⟨0x80, 64, 0, 0, 0, 0, 0, true, 0⟩,
   ⟨0x88, 64, 0, 0, 0, 0, 0, true, 0⟩, ⟨0x90, 64, 0, 0, 0, 0, 0, true, 0⟩, ⟨0x98, 64, 0, 0, 0, 0, 0, true, 0⟩,
   ⟨0xA0, 64, 0, 0, 0, 0, 0, true, 0⟩, ⟨0xA8, 64, 0, 0, 0, 0, 0, true, 0⟩, ⟨0xB0, 64, 0, 0, 0, 0, 0, true, 0⟩,
   ⟨0xB8, 64, 0, 0, 0, 0, 0, true, 0⟩, ⟨0xC0, 64, 0, 0, 0, 0, 0, true, 0⟩, ⟨0xC8, 64, 0, 0, 0, 0, 0, true, 0⟩,
   ⟨0xD0, 64, 0, 0, 0, 0, 0, true, 0⟩, ⟨0xD8, 64, 0, 0, 0, 0, 0, true, 0⟩, ⟨0xE0, 64, 0, 0, 0, 0, 0, true, 0⟩,
   ⟨0xE8, 64, 0, 0, 0, 0, 0, true, 0⟩]

/-- CNT registers (09_deep_buffer_counters.md, R282). -/
def regsCnt : List RegDesc :=
  [⟨0x0, 32, 1, 0, 0, 0, 0, false, 0⟩, ⟨0x4, 32, 0, 0, 0, 0, 0, false, 0⟩, ⟨0x8, 32, 0, 0xF, 0, 0, 0, false, 0⟩,
   ⟨0xC, 32, 0xF, 0, 0, 0, 0, false, 0⟩, ⟨0x10, 32, 0x3FFF3FFF, 0, 0, 0, 0, false, 0x3E800FA⟩,
   ⟨0x14, 32, 0, 0, 0, 0, 0, false, 0⟩, ⟨0x18, 64, 0, 0, 0, 0, 0, true, 0⟩, ⟨0x20, 64, 0, 0, 0, 0, 0, true, 0⟩,
   ⟨0x28, 64, 0, 0, 0, 0, 0, true, 0⟩, ⟨0x30, 64, 0, 0, 0, 0, 0, true, 0⟩, ⟨0x38, 64, 0, 0, 0, 0, 0, true, 0⟩,
   ⟨0x40, 64, 0, 0, 0, 0, 0, true, 0⟩, ⟨0x48, 32, 0, 0, 0xFFFFFFFF, 0, 0, false, 0⟩, ⟨0x4C, 32, 0, 0, 0, 0, 0, false, 0⟩,
   ⟨0x50, 64, 0, 0, 0, 0, 0, false, 0⟩, ⟨0x58, 32, 0, 0, 0, 0, 0, false, 0⟩]

/-- SEAL registers (10_sealing.md, R307). -/
def regsSeal : List RegDesc :=
  [⟨0x0, 32, 1, 0, 0, 0, 0, false, 1⟩, ⟨0x4, 32, 0, 0, 0, 0, 0, false, 0⟩, ⟨0x8, 32, 0, 0xFF, 0, 0, 0, false, 0⟩,
   ⟨0xC, 32, 0xFF, 0, 0, 0, 0, false, 0⟩, ⟨0x10, 64, 0, 0, 0, 0, 0, false, 0⟩, ⟨0x18, 64, 0, 0, 0, 0, 0, false, 0⟩,
   ⟨0x20, 32, 0x1FFF, 0, 0, 0, 0, false, 0x200⟩, ⟨0x24, 32, 0, 0, 0, 0, 0, false, 0⟩,
   ⟨0x28, 32, 0xFFFFF, 0, 0, 0, 0, false, 0xF0000⟩, ⟨0x2C, 32, 0, 0, 0, 0, 0, false, 0⟩, ⟨0x30, 64, 0, 0, 0, 0, 0, false, 0⟩,
   ⟨0x38, 64, 0, 0, 0, 0, 0, false, 0⟩, ⟨0x40, 64, 0, 0, 0, 0, 0, false, 0⟩, ⟨0x48, 64, 0, 0, 0, 0, 0, false, 0⟩,
   ⟨0x50, 64, 0, 0, 0, 0, 0, true, 0⟩, ⟨0x58, 64, 0, 0, 0, 0, 0, true, 0⟩, ⟨0x60, 64, 0, 0, 0, 0, 0, true, 0⟩,
   ⟨0x68, 64, 0, 0, 0, 0, 0, true, 0⟩, ⟨0x70, 32, 0, 0, 0xFFFFFFFF, 0, 0, false, 0⟩,
   ⟨0x74, 32, 0, 0, 0xFFFFFFFF, 0, 0, false, 0⟩, ⟨0x78, 64, 0, 0, 0, 0, 0, false, 0⟩,
   ⟨0x80, 32, 0, 0, 0xFFFFFFFF, 0, 0, false, 0⟩, ⟨0x84, 32, 0, 0, 0, 0, 0, false, 0⟩, ⟨0x88, 32, 0, 0, 0, 0, 0, false, 0⟩,
   ⟨0x8C, 32, 0, 0, 0, 0, 0, false, 0⟩, ⟨0x90, 32, 0, 0, 0, 0, 0, false, 0⟩, ⟨0x94, 32, 0, 0, 0, 0, 0, false, 0⟩,
   ⟨0x98, 32, 0, 0, 0, 0, 0, false, 0⟩, ⟨0x9C, 32, 0, 0, 0, 0, 0, false, 0⟩, ⟨0xA0, 32, 0x3F, 0, 0, 0, 0, false, 0⟩,
   ⟨0xA4, 32, 0, 0, 0, 0, 0, false, 0⟩, ⟨0xA8, 32, 3, 0, 0, 0, 0, false, 0⟩, ⟨0xC0, 64, 0, 0, 0, 0, 0, false, 0⟩,
   ⟨0xC8, 64, 0, 0, 0, 0, 0, false, 0⟩, ⟨0xD0, 64, 0, 0, 0, 0, 0, false, 0⟩, ⟨0xD8, 64, 0, 0, 0, 0, 0, false, 0⟩,
   ⟨0xE0, 64, 0, 0, 0, 0, 0, false, 0⟩, ⟨0xE8, 64, 0, 0, 0, 0, 0, false, 0⟩, ⟨0xF0, 64, 0, 0, 0, 0, 0, false, 0⟩,
   ⟨0xF8, 64, 0, 0, 0, 0, 0, false, 0⟩]

/-- MIR registers (11_mirror.md, R333). -/
def regsMir : List RegDesc :=
  [⟨0x0, 32, 3, 0, 0, 0, 0, false, 2⟩, ⟨0x4, 32, 0, 0, 0, 0, 0, false, 0⟩, ⟨0x8, 32, 0, 0x7FF, 0, 0, 0, false, 0⟩,
   ⟨0xC, 32, 0x7FF, 0, 0, 0, 0, false, 0⟩, ⟨0x10, 32, 0xFF0FFF, 0, 0, 0, 0, false, 0x40050A⟩,
   ⟨0x14, 32, 0xFFFF, 0, 0, 0, 0, false, 0x88B5⟩, ⟨0x18, 64, 0, 0, 0, 0, 0, false, 0⟩,
   ⟨0x20, 64, 0xFFFFFFFFFFFF, 0, 0, 0, 0, false, 0⟩, ⟨0x28, 64, 0, 0, 0, 0, 0, false, 0⟩, ⟨0x30, 64, 0, 0, 0, 0, 0, false, 0⟩,
   ⟨0x38, 64, 0, 0, 0, 0, 0, false, 0⟩, ⟨0x40, 64, 0, 0, 0, 0, 0, false, 0⟩, ⟨0x48, 64, 0, 0, 0, 0, 0, false, 0⟩,
   ⟨0x50, 32, 0, 0, 0, 0, 0, false, 0⟩, ⟨0x54, 32, 0xFFFFF7, 0, 0, 0, 0, false, 0⟩, ⟨0x58, 32, 0, 0, 0, 0, 0, false, 0⟩,
   ⟨0x5C, 32, 0, 0, 0xFFFFFFFF, 0, 0, false, 0⟩, ⟨0x60, 64, 0, 0, 0, 0, 0, true, 0⟩, ⟨0x68, 64, 0, 0, 0, 0, 0, true, 0⟩,
   ⟨0x70, 64, 0, 0, 0xFFFFFFFFFFFFFFFF, 0, 0, false, 0⟩, ⟨0x78, 32, 0, 0, 0xFFFFFFFF, 0, 0, false, 0⟩,
   ⟨0x7C, 32, 0, 0, 0xFFFFFFFF, 0, 0, false, 0⟩, ⟨0x80, 32, 0, 0, 0, 0, 0, false, 0⟩, ⟨0x84, 32, 0, 0, 0, 0, 0, false, 0⟩]

/-- MBX registers (12_headstock_mailbox.md, R359). -/
def regsMbx : List RegDesc :=
  [⟨0x0, 32, 0x3FFFFFFF, 0, 0, 0, 0, false, 0⟩, ⟨0x4, 32, 0, 0, 0, 0, 7, false, 0⟩, ⟨0x8, 32, 0, 0, 0, 0, 0, false, 0⟩,
   ⟨0xC, 32, 0, 0, 0, 0, 0, false, 0⟩, ⟨0x10, 32, 0, 0, 0, 0, 0, false, 0⟩]

/-- PST registers (13_parameter_store.md, R382). -/
def regsPst : List RegDesc :=
  [⟨0x0, 32, 1, 0, 0, 0, 0xFFFF0000, false, 0⟩, ⟨0x4, 32, 0, 0, 0, 0, 0, false, 0⟩, ⟨0x8, 32, 0, 0x3F, 0, 0, 0, false, 0⟩,
   ⟨0xC, 32, 0x3F, 0, 0, 0, 0, false, 0⟩, ⟨0x10, 32, 0, 0, 0, 0, 0, false, 0⟩, ⟨0x14, 32, 0, 0, 0, 0, 0, false, 0⟩,
   ⟨0x18, 32, 0, 0, 0, 0, 0, false, 0⟩, ⟨0x1C, 32, 0, 0, 0, 0, 0, false, 0⟩, ⟨0x20, 32, 0, 0, 0xFFFFFFFF, 0, 0, false, 0⟩,
   ⟨0x24, 32, 0, 0, 0, 0, 0, false, 0⟩, ⟨0x28, 64, 0, 0, 0, 0, 0, true, 0⟩, ⟨0x30, 64, 0, 0, 0, 0, 0, false, 0⟩]

/-- EVR registers (14_observability.md, R405). -/
def regsEvr : List RegDesc :=
  [⟨0x0, 32, 0xFF7, 0, 0, 0, 0, false, 0xA2⟩, ⟨0x4, 32, 0, 0, 0, 0, 0, false, 0⟩, ⟨0x8, 32, 0, 0x7F, 0, 0, 0, false, 0⟩,
   ⟨0xC, 32, 0x7F, 0, 0, 0, 0, false, 0⟩, ⟨0x10, 32, 0, 0, 0, 0, 0, false, 0⟩, ⟨0x14, 32, 0, 0, 0, 0, 0, false, 0⟩,
   ⟨0x18, 64, 0, 0, 0, 0, 0, true, 0⟩, ⟨0x20, 64, 0, 0, 0, 0, 0, true, 0⟩, ⟨0x28, 32, 0, 0, 0xFFFFFFFF, 0, 0, false, 0⟩,
   ⟨0x2C, 32, 0, 0, 0, 0, 0, false, 0⟩, ⟨0x30, 32, 0, 0, 0, 0, 0, false, 0⟩, ⟨0x34, 32, 0, 0, 0, 0, 0, false, 0⟩,
   ⟨0x38, 64, 0, 0, 0, 0, 0, false, 0⟩, ⟨0x40, 32, 0, 0, 0, 0, 0, false, 0⟩]

/-- PMC registers (14_observability.md, R406). -/
def regsPmc : List RegDesc :=
  [⟨0x0, 32, 0xF, 0, 0, 0, 0, false, 0⟩, ⟨0x4, 32, 0, 0xFF, 0, 0, 0, false, 0⟩, ⟨0x8, 32, 0xFF, 0, 0, 0, 0, false, 0⟩,
   ⟨0x10, 64, 0, 0, 0, 0, 0, false, 0⟩, ⟨0x20, 32, 0x7F7FFF, 0, 0, 0, 0, false, 0⟩, ⟨0x24, 32, 0x7F7FFF, 0, 0, 0, 0, false, 0⟩,
   ⟨0x28, 32, 0x7F7FFF, 0, 0, 0, 0, false, 0⟩, ⟨0x2C, 32, 0x7F7FFF, 0, 0, 0, 0, false, 0⟩,
   ⟨0x30, 32, 0x7F7FFF, 0, 0, 0, 0, false, 0⟩, ⟨0x34, 32, 0x7F7FFF, 0, 0, 0, 0, false, 0⟩,
   ⟨0x38, 32, 0x7F7FFF, 0, 0, 0, 0, false, 0⟩, ⟨0x3C, 32, 0x7F7FFF, 0, 0, 0, 0, false, 0⟩,
   ⟨0x40, 64, 0xFFFFFFFFFFFF, 0, 0, 0, 0, false, 0⟩, ⟨0x48, 64, 0xFFFFFFFFFFFF, 0, 0, 0, 0, false, 0⟩,
   ⟨0x50, 64, 0xFFFFFFFFFFFF, 0, 0, 0, 0, false, 0⟩, ⟨0x58, 64, 0xFFFFFFFFFFFF, 0, 0, 0, 0, false, 0⟩,
   ⟨0x60, 64, 0xFFFFFFFFFFFF, 0, 0, 0, 0, false, 0⟩, ⟨0x68, 64, 0xFFFFFFFFFFFF, 0, 0, 0, 0, false, 0⟩,
   ⟨0x70, 64, 0xFFFFFFFFFFFF, 0, 0, 0, 0, false, 0⟩, ⟨0x78, 64, 0xFFFFFFFFFFFF, 0, 0, 0, 0, false, 0⟩]

/-- CLK registers (15_pace_power_thermal.md, R431). -/
def regsClk : List RegDesc :=
  [⟨0x0, 32, 1, 0, 0, 0, 0, false, 0⟩, ⟨0x4, 32, 0, 0, 0, 0, 0, false, 0x2608⟩, ⟨0x8, 32, 0, 0x3F, 0, 0, 0, false, 0⟩,
   ⟨0xC, 32, 0x3F, 0, 0, 0, 0, false, 0⟩, ⟨0x10, 32, 0, 0, 0, 0, 0, false, 0⟩, ⟨0x14, 32, 0, 0, 0, 0, 0, false, 0⟩,
   ⟨0x18, 32, 0, 0, 0, 0, 0, false, 0⟩, ⟨0x1C, 32, 0, 0, 0, 0, 0, false, 0⟩, ⟨0x20, 32, 0, 0, 0, 0, 0, false, 0x100000⟩,
   ⟨0x28, 64, 0, 0, 0, 0, 0, false, 0⟩]

/-- THM registers (15_pace_power_thermal.md, R432). -/
def regsThm : List RegDesc :=
  [⟨0x0, 32, 0x3F, 0, 0, 0, 0, false, 0x32⟩, ⟨0x4, 32, 0, 0, 0, 0, 0, false, 0⟩, ⟨0x8, 32, 0, 0x3FF, 0, 0, 0, false, 0⟩,
   ⟨0xC, 32, 0x3FF, 0, 0, 0, 0, false, 0⟩, ⟨0x10, 64, 0, 0, 0, 0, 0, false, 0x800000⟩,
   ⟨0x18, 32, 0, 0, 0, 0, 0, false, 0x806E6E⟩, ⟨0x1C, 32, 0, 0, 0, 0, 0, false, 0x6464⟩,
   ⟨0x20, 64, 0, 0, 0, 0, 0, false, 0x6402EE00000960⟩, ⟨0x28, 32, 0, 0, 0, 0, 0, false, 0⟩,
   ⟨0x2C, 32, 0, 0, 0, 0, 0, false, 0⟩, ⟨0x30, 32, 0x3F, 0, 0, 0, 0, false, 0⟩, ⟨0x34, 32, 0, 0, 0, 0, 0, false, 0⟩]

/-- SEQ registers (16_supplies_startup.md, R452). -/
def regsSeq : List RegDesc :=
  [⟨0x0, 32, 0, 0, 0, 0, 0xFFFF0003, false, 0⟩, ⟨0x4, 32, 0, 0, 0, 0, 0, false, 0⟩, ⟨0x8, 32, 0, 7, 0, 0, 0, false, 0⟩,
   ⟨0xC, 32, 7, 0, 0, 0, 0, false, 0⟩, ⟨0x10, 32, 0xFFF03FF, 0, 0, 0, 0, false, 0xC801F4⟩, ⟨0x14, 32, 0, 0, 0, 0, 0, false, 0⟩,
   ⟨0x18, 64, 0, 0x80000000, 0, 0, 0, false, 0⟩, ⟨0x20, 64, 0, 0, 0xFFFFFFFFFFFFFFF, 0, 0, false, 0⟩,
   ⟨0x28, 32, 0xF, 0, 0, 0, 0, false, 0⟩, ⟨0x2C, 32, 0, 0, 0, 0, 0, false, 0⟩]

/-- MCH registers (07_medium_care.md, R229). -/
def regsMch : List RegDesc :=
  [⟨0x0, 32, 0xFF01, 0, 0, 0, 0, false, 0xA00⟩, ⟨0x4, 32, 0, 0, 0, 0, 0, false, 0⟩, ⟨0x8, 32, 0, 0x7FF, 0, 0, 0, false, 0⟩,
   ⟨0xC, 32, 0, 0, 0, 0, 0, false, 0⟩, ⟨0x10, 64, 0, 0, 0, 0, 0, true, 0⟩, ⟨0x18, 64, 0, 0, 0xFFFFFFFFFFFFFFFF, 0, 0, false, 0⟩]

/-- BLK registers (07_medium_care.md, R230). -/
def regsBlk : List RegDesc :=
  [⟨0x0, 32, 0xF7F, 0, 0, 0, 0, false, 0x755⟩, ⟨0x4, 32, 0, 0, 0, 0, 0, false, 0⟩, ⟨0x8, 32, 0, 0x1FF, 0, 0, 0, false, 0⟩,
   ⟨0xC, 32, 0x3FF, 0, 0, 0, 0, false, 0⟩, ⟨0x10, 32, 0xFF, 0, 0, 0, 0, false, 0xA0⟩, ⟨0x14, 32, 0, 0, 0, 0, 0, false, 0⟩,
   ⟨0x18, 64, 0, 0, 0, 0, 0, false, 0⟩, ⟨0x20, 64, 0, 0, 0, 0, 0, false, 0⟩]

/-- The blocks of R28, in the order of the map. -/
def regBlocks : List RegBlock :=
  [⟨0x0, 0x1000, 1, 0x1000, regsGlb⟩,
   ⟨0x10000, 0x1000, 4, 0x1000, regsHp⟩,
   ⟨0x20000, 0x1000, 1, 0x1000, regsKrf⟩,
   ⟨0x21000, 0x1000, 1, 0x1000, regsRdp⟩,
   ⟨0x22000, 0x1000, 1, 0x1000, regsArb⟩,
   ⟨0x30000, 0x1000, 1, 0x1000, regsLke⟩,
   ⟨0x31000, 0x1000, 1, 0x1000, regsDbq⟩,
   ⟨0x32000, 0x1000, 1, 0x1000, regsCnt⟩,
   ⟨0x40000, 0x1000, 1, 0x1000, regsSeal⟩,
   ⟨0x50000, 0x1000, 2, 0x1000, regsMir⟩,
   ⟨0x90000, 0x20, 8, 0x20, regsMbx⟩,
   ⟨0xA0000, 0x1000, 1, 0x1000, regsPst⟩,
   ⟨0xA1000, 0x1000, 1, 0x1000, regsEvr⟩,
   ⟨0xB0000, 0x100, 6, 0x100, regsPmc⟩,
   ⟨0xC0000, 0x1000, 1, 0x1000, regsClk⟩,
   ⟨0xC1000, 0x1000, 1, 0x1000, regsThm⟩,
   ⟨0xC2000, 0x1000, 1, 0x1000, regsSeq⟩,
   ⟨0x100000, 0x400, 72, 0x400, regsMch⟩,
   ⟨0x120000, 0x400, 8, 0x400, regsBlk⟩]

/-- A register by its offset in the window. -/
def findReg : List RegDesc → Nat → Option RegDesc
  | [], _ => none
  | r :: rs, o => if r.off = o then some r else findReg rs o

/-- The block and the base of the instance whose window an offset lies in. -/
def findBlock : List RegBlock → Nat → Option (RegBlock × Nat)
  | [], _ => none
  | b :: bs, o =>
    if b.base ≤ o ∧ o < b.base + b.stride * b.count ∧ (o - b.base) % b.stride < b.size then
      some (b, b.base + (o - b.base) / b.stride * b.stride)
    else findBlock bs o

/-- The fields of the pair are those of MIR0 only: AUTO_ASYNC, and the causes MATE_LOST and SYNC_DROPPED with their masks; in MIR1 their bits
are reserved (R333). -/
def pairLevel (o : Nat) (r : RegDesc) : RegDesc :=
  if o = 0x51000 then { r with rw := 1, reset := 0 }
  else if o = 0x51008 then { r with w1c := 0x7B7 }
  else if o = 0x5100C then { r with rw := 0x7B7 }
  else r

/-- The register at a BAR0 offset, if one begins there. -/
def regAt (o : Nat) : Option RegDesc :=
  match findBlock regBlocks o with
  | some (b, base) => (findReg b.regs (o - base)).map (pairLevel o)
  | none => none

/-- The base of the window an offset lies in (for the captures of R17). -/
def windowAt (o : Nat) : Option Nat := (findBlock regBlocks o).map (·.2)

/-- The Reset column of the register at an offset. -/
def regReset (o : Nat) : Word64 :=
  match regAt o with
  | some r => r.reset
  | none => 0

/-! ### Offsets by name -/

namespace Reg

abbrev GLB_ID : Nat := 0x0
abbrev GLB_STEPPING : Nat := 0x4
abbrev GLB_FW_VERSION : Nat := 0x8
abbrev GLB_CAPS : Nat := 0xC
abbrev GLB_SERIAL : Nat := 0x10
abbrev GLB_STATE : Nat := 0x18
abbrev GLB_READY : Nat := 0x1C
abbrev GLB_RESET_CAUSE : Nat := 0x20
abbrev GLB_SOFT_RESET : Nat := 0x24
abbrev GLB_FATAL_STATUS : Nat := 0x28
abbrev GLB_FATAL_MASK : Nat := 0x2C
abbrev GLB_TIME : Nat := 0x30
abbrev GLB_READY_TIME : Nat := 0x38
abbrev GLB_SETTLE_TIME : Nat := 0x3C
abbrev GLB_INT_STATUS : Nat := 0x40
abbrev GLB_INT_MASK : Nat := 0x48
def GLB_INT_ROUTE (k : Nat) : Nat := 0x50 + 4 * k
def GLB_SCRATCH (k : Nat) : Nat := 0x80 + 4 * k
abbrev GLB_NMI_STATUS : Nat := 0x90
abbrev GLB_NMI_ROUTE : Nat := 0x94
abbrev GLB_BOOT_SOURCE : Nat := 0x98
abbrev GLB_PROFILE : Nat := 0x9C
abbrev GLB_PSTATE : Nat := 0xA0
def HP_CTRL (i : Nat) : Nat := 0x10000 + 0x1000 * i
def HP_STATUS (i : Nat) : Nat := 0x10004 + 0x1000 * i
def HP_INT_STATUS (i : Nat) : Nat := 0x10008 + 0x1000 * i
def HP_INT_MASK (i : Nat) : Nat := 0x1000C + 0x1000 * i
def HP_METAFRAME (i : Nat) : Nat := 0x10010 + 0x1000 * i
def HP_CAL (i : Nat) : Nat := 0x10014 + 0x1000 * i
def HP_FC_ENTRY (i : Nat) : Nat := 0x10018 + 0x1000 * i
def HP_FC_PORT (i : Nat) : Nat := 0x1001C + 0x1000 * i
def HP_TX_RATE (i : Nat) : Nat := 0x10020 + 0x1000 * i
def HP_LANE_MAP (i : Nat) : Nat := 0x10024 + 0x1000 * i
def HP_LANE_POL (i : Nat) : Nat := 0x10028 + 0x1000 * i
def HP_PHY_LAT (i : Nat) : Nat := 0x1002C + 0x1000 * i
def HP_ERR_INJECT (i : Nat) : Nat := 0x10030 + 0x1000 * i
def HP_HELD_STREAMS (i : Nat) : Nat := 0x10034 + 0x1000 * i
def HP_BUF_OCC (i : Nat) : Nat := 0x10038 + 0x1000 * i
def HP_LAST_DISCARD (i : Nat) : Nat := 0x1003C + 0x1000 * i
def HP_FEC_CW (i : Nat) : Nat := 0x10040 + 0x1000 * i
def HP_FEC_CORR_CW (i : Nat) : Nat := 0x10048 + 0x1000 * i
def HP_FEC_CORR_SYM (i : Nat) : Nat := 0x10050 + 0x1000 * i
def HP_FEC_UNCORR_CW (i : Nat) : Nat := 0x10058 + 0x1000 * i
def HP_RX_CMDS (i : Nat) : Nat := 0x10060 + 0x1000 * i
def HP_TX_RSPS (i : Nat) : Nat := 0x10068 + 0x1000 * i
def HP_RX_BYTES (i : Nat) : Nat := 0x10070 + 0x1000 * i
def HP_TX_BYTES (i : Nat) : Nat := 0x10078 + 0x1000 * i
def HP_XOFF_NS (i : Nat) : Nat := 0x10080 + 0x1000 * i
def HP_HOST_XOFF_NS (i : Nat) : Nat := 0x10088 + 0x1000 * i
def HP_BURST_CRC_ERR (i : Nat) : Nat := 0x10090 + 0x1000 * i
def HP_PROTO_ERR (i : Nat) : Nat := 0x10094 + 0x1000 * i
def HP_CMD_DISCARD (i : Nat) : Nat := 0x10098 + 0x1000 * i
def HP_RSP_DISCARD (i : Nat) : Nat := 0x1009C + 0x1000 * i
def HP_LINK_DOWNS (i : Nat) : Nat := 0x100A0 + 0x1000 * i
def HP_ALIGN_NS (i : Nat) : Nat := 0x100A4 + 0x1000 * i
def HP_LANE_STAT (i k : Nat) : Nat := 0x100B0 + 0x1000 * i + 4 * k
abbrev KRF_CTRL : Nat := 0x20000
abbrev KRF_STATUS : Nat := 0x20004
abbrev KRF_INT_STATUS : Nat := 0x20008
abbrev KRF_INT_MASK : Nat := 0x2000C
abbrev KRF_DIRTY_LIMIT : Nat := 0x20010
abbrev KRF_DIRTY_MAX : Nat := 0x20014
abbrev KRF_DRAIN_CFG : Nat := 0x20018
abbrev KRF_BITMAP_CFG : Nat := 0x2001C
abbrev KRF_CHARGE : Nat := 0x20020
abbrev KRF_SLOTS : Nat := 0x20028
abbrev KRF_CHARGE_PEAK : Nat := 0x20030
abbrev KRF_FOLD_DIRTY : Nat := 0x20034
abbrev KRF_QUEUE_DIRTY : Nat := 0x20038
abbrev KRF_INTEG_CNT : Nat := 0x2003C
abbrev KRF_MERGES : Nat := 0x20040
abbrev KRF_MERGE_FETCH : Nat := 0x20048
abbrev KRF_COALESCED : Nat := 0x20050
abbrev KRF_DRAINED : Nat := 0x20058
abbrev KRF_ADMIT_WAIT_NS : Nat := 0x20060
abbrev KRF_LAST_INTEG : Nat := 0x20068
abbrev KRF_UNCORR_CNT : Nat := 0x20070
abbrev KRF_COMMIT_STATUS : Nat := 0x20074
abbrev KRF_COMMIT_TIME : Nat := 0x20078
abbrev KRF_COMMIT_GEN : Nat := 0x20080
def KRF_BREACH (k : Nat) : Nat := 0x200C0 + 8 * k
abbrev RDP_CTRL : Nat := 0x21000
abbrev RDP_STATUS : Nat := 0x21004
abbrev RDP_INT_STATUS : Nat := 0x21008
abbrev RDP_INT_MASK : Nat := 0x2100C
abbrev RDP_WAYMASK_HRD : Nat := 0x21010
abbrev RDP_WAYMASK_LKR : Nat := 0x21018
abbrev RDP_WAYMASK_QRD : Nat := 0x21020
abbrev RDP_WAYMASK_CTR : Nat := 0x21028
abbrev RDP_PREF_CFG : Nat := 0x21030
abbrev RDP_INVAL_CTRL : Nat := 0x21034
abbrev RDP_INVAL_BASE : Nat := 0x21038
abbrev RDP_INVAL_LIMIT : Nat := 0x21040
abbrev RDP_LOCK_CMD : Nat := 0x21048
abbrev RDP_LOCK_STATUS : Nat := 0x21050
abbrev RDP_LOCK_COUNT : Nat := 0x21054
abbrev RDP_HITS : Nat := 0x21058
abbrev RDP_MISSES : Nat := 0x21060
abbrev RDP_PREF_USED : Nat := 0x21068
abbrev RDP_PREF_WASTED : Nat := 0x21070
abbrev RDP_WRITE_UPDATES : Nat := 0x21078
abbrev ARB_CTRL : Nat := 0x22000
abbrev ARB_STATUS : Nat := 0x22004
abbrev ARB_INT_STATUS : Nat := 0x22008
abbrev ARB_INT_MASK : Nat := 0x2200C
abbrev ARB_RANK_SHADOW : Nat := 0x22010
abbrev ARB_RANK_ACTIVE : Nat := 0x22018
abbrev ARB_COMMIT : Nat := 0x22020
abbrev ARB_COMMIT_COUNT : Nat := 0x22024
def ARB_BURST (k : Nat) : Nat := 0x22040 + 4 * k
abbrev ARB_REST_CTRL : Nat := 0x22080
abbrev ARB_REST_LAST : Nat := 0x22084
abbrev ARB_REST_KERF : Nat := 0x22088
abbrev ARB_REST_SCRUB : Nat := 0x2208C
abbrev ARB_REST_FOLD : Nat := 0x22090
abbrev ARB_REST_MOVE : Nat := 0x22094
abbrev ARB_REST_RATE : Nat := 0x22098
abbrev ARB_REST_INPUTS : Nat := 0x2209C
abbrev ARB_REST_SOFT_NS : Nat := 0x220A0
abbrev ARB_REST_HARD_NS : Nat := 0x220A8
abbrev ARB_REST_HELD : Nat := 0x220B0
abbrev ARB_SUSPENDS : Nat := 0x220C0
abbrev ARB_RANK0_DEPTH : Nat := 0x220C8
abbrev ARB_BOUND_EXCESS : Nat := 0x220CC
abbrev ARB_LAST_EXCESS : Nat := 0x220D0
abbrev ARB_CUTINS : Nat := 0x220D8
def ARB_GRANTS (k : Nat) : Nat := 0x22100 + 8 * k
abbrev LKE_CTRL : Nat := 0x30000
abbrev LKE_STATUS : Nat := 0x30004
abbrev LKE_INT_STATUS : Nat := 0x30008
abbrev LKE_INT_MASK : Nat := 0x3000C
abbrev LKE_VERSION : Nat := 0x30010
abbrev LKE_TIER_USE : Nat := 0x30018
abbrev LKE_POISON_CNT : Nat := 0x3001C
abbrev LKE_SEARCHES : Nat := 0x30020
abbrev LKE_HITS : Nat := 0x30028
abbrev LKE_LEAF_READS : Nat := 0x30030
abbrev LKE_REISSUES : Nat := 0x30038
abbrev LKE_LAST_ERROR : Nat := 0x30040
def LKEE_STATUS (e : Nat) : Nat := 0x30100 + 16 * e
def LKEE_SEARCHES (e : Nat) : Nat := 0x30108 + 16 * e
abbrev DBQ_CTRL : Nat := 0x31000
abbrev DBQ_STATUS : Nat := 0x31004
abbrev DBQ_INT_STATUS : Nat := 0x31008
abbrev DBQ_INT_MASK : Nat := 0x3100C
abbrev DBQ_CFG : Nat := 0x31010
abbrev DBQ_POOL_LOW : Nat := 0x31014
abbrev DBQ_POOL : Nat := 0x31018
abbrev DBQ_CHUNKS : Nat := 0x31020
abbrev DBQ_QUEUES : Nat := 0x31028
abbrev DBQ_ECC_CORR : Nat := 0x3102C
abbrev DBQ_ECC_UNCORR : Nat := 0x31030
abbrev DBQ_LAST_ECC : Nat := 0x31034
abbrev DBQ_POOL_RETRY : Nat := 0x31038
abbrev DBQ_QERR_CNT : Nat := 0x3103C
abbrev DBQ_LAST_QERR : Nat := 0x31040
abbrev DBQ_DEQ_POISON : Nat := 0x31044
abbrev DBQ_LAST_POISON : Nat := 0x31048
abbrev DBQ_BOOT : Nat := 0x31050
abbrev DBQ_SWEEP : Nat := 0x31054
abbrev DBQ_NEXT_REGION : Nat := 0x31058
abbrev DBQ_PEAK_CHUNKS : Nat := 0x3105C
abbrev DBQ_ERROR_QID : Nat := 0x31060
abbrev DBQ_ENQ_CMDS : Nat := 0x31080
abbrev DBQ_DEQ_CMDS : Nat := 0x31088
abbrev DBQ_ENQ_BYTES : Nat := 0x31090
abbrev DBQ_DEQ_BYTES : Nat := 0x31098
abbrev DBQ_ENQ_PKTS : Nat := 0x310A0
abbrev DBQ_DEQ_PKTS : Nat := 0x310A8
abbrev DBQ_EMPTY : Nat := 0x310B0
abbrev DBQ_FLUSH_CMDS : Nat := 0x310B8
abbrev DBQ_FLUSH_PKTS : Nat := 0x310C0
abbrev DBQ_QSTAT_CMDS : Nat := 0x310C8
abbrev DBQ_DEAD_RELEASE : Nat := 0x310D0
abbrev DBQ_DESC_WB : Nat := 0x310D8
abbrev DBQ_CHUNK_ALLOC : Nat := 0x310E0
abbrev DBQ_CHUNK_FREE : Nat := 0x310E8
abbrev CNT_CTRL : Nat := 0x32000
abbrev CNT_STATUS : Nat := 0x32004
abbrev CNT_INT_STATUS : Nat := 0x32008
abbrev CNT_INT_MASK : Nat := 0x3200C
abbrev CNT_CFG : Nat := 0x32010
abbrev CNT_ENTRIES : Nat := 0x32014
abbrev CNT_CADDS : Nat := 0x32018
abbrev CNT_CRDS : Nat := 0x32020
abbrev CNT_FOLDS : Nat := 0x32028
abbrev CNT_EVICT_FOLDS : Nat := 0x32030
abbrev CNT_TIMER_FOLDS : Nat := 0x32038
abbrev CNT_WAIT_NS : Nat := 0x32040
abbrev CNT_FOLD_POISON : Nat := 0x32048
abbrev CNT_POISON_SECTORS : Nat := 0x3204C
abbrev CNT_LAST_POISON : Nat := 0x32050
abbrev CNT_FOLD_LAG : Nat := 0x32058
abbrev SEAL_CTRL : Nat := 0x40000
abbrev SEAL_STATUS : Nat := 0x40004
abbrev SEAL_INT_STATUS : Nat := 0x40008
abbrev SEAL_INT_MASK : Nat := 0x4000C
abbrev SEAL_SLOT_LOADED : Nat := 0x40010
abbrev SEAL_SLOT_BOUND : Nat := 0x40018
abbrev SEAL_REKEY_CFG : Nat := 0x40020
abbrev SEAL_REKEY_STATUS : Nat := 0x40024
abbrev SEAL_MINOR_WARN : Nat := 0x40028
abbrev SEAL_MINOR_TOP : Nat := 0x4002C
def SEAL_REKEY (k : Nat) : Nat := 0x40030 + 8 * k
abbrev SEAL_SEALS : Nat := 0x40050
abbrev SEAL_OPENS : Nat := 0x40058
abbrev SEAL_STALE_READS : Nat := 0x40060
abbrev SEAL_REKEY_SECTORS : Nat := 0x40068
abbrev SEAL_TAG_FAIL : Nat := 0x40070
abbrev SEAL_LSA_FAIL : Nat := 0x40074
abbrev SEAL_LAST_FAIL : Nat := 0x40078
abbrev SEAL_UNWRAP_FAIL : Nat := 0x40080
abbrev SEAL_KEY_LOADS : Nat := 0x40084
abbrev SEAL_ERASES : Nat := 0x40088
abbrev SEAL_FORCED_REKEYS : Nat := 0x4008C
abbrev SEAL_REKEYS_DONE : Nat := 0x40090
abbrev SEAL_HELD_SECTORS : Nat := 0x40094
abbrev SEAL_SELFTEST : Nat := 0x40098
abbrev SEAL_DEVKEY : Nat := 0x4009C
abbrev SEAL_SLOT_SEL : Nat := 0x400A0
abbrev SEAL_SLOT_INFO : Nat := 0x400A4
abbrev SEAL_ERR_INJECT : Nat := 0x400A8
def SEAL_FORCED (k : Nat) : Nat := 0x400C0 + 8 * k
def MIR_CTRL (i : Nat) : Nat := 0x50000 + 0x1000 * i
def MIR_STATUS (i : Nat) : Nat := 0x50004 + 0x1000 * i
def MIR_INT_STATUS (i : Nat) : Nat := 0x50008 + 0x1000 * i
def MIR_INT_MASK (i : Nat) : Nat := 0x5000C + 0x1000 * i
def MIR_CFG (i : Nat) : Nat := 0x50010 + 0x1000 * i
def MIR_ETYPE (i : Nat) : Nat := 0x50014 + 0x1000 * i
def MIR_LOCAL_MAC (i : Nat) : Nat := 0x50018 + 0x1000 * i
def MIR_MATE_MAC (i : Nat) : Nat := 0x50020 + 0x1000 * i
def MIR_PAIR (i : Nat) : Nat := 0x50028 + 0x1000 * i
def MIR_TX_SEQ (i : Nat) : Nat := 0x50030 + 0x1000 * i
def MIR_TX_ACKED (i : Nat) : Nat := 0x50038 + 0x1000 * i
def MIR_RX_SEQ (i : Nat) : Nat := 0x50040 + 0x1000 * i
def MIR_JOURNAL (i : Nat) : Nat := 0x50048 + 0x1000 * i
def MIR_LAG (i : Nat) : Nat := 0x50050 + 0x1000 * i
def MIR_MACSEC_CTRL (i : Nat) : Nat := 0x50054 + 0x1000 * i
def MIR_MACSEC_STATUS (i : Nat) : Nat := 0x50058 + 0x1000 * i
def MIR_RX_DISCARD (i : Nat) : Nat := 0x5005C + 0x1000 * i
def MIR_TX_RECORDS (i : Nat) : Nat := 0x50060 + 0x1000 * i
def MIR_RX_RECORDS (i : Nat) : Nat := 0x50068 + 0x1000 * i
def MIR_FEC (i : Nat) : Nat := 0x50070 + 0x1000 * i
def MIR_RESENDS (i : Nat) : Nat := 0x50078 + 0x1000 * i
def MIR_MACSEC_ERR (i : Nat) : Nat := 0x5007C + 0x1000 * i
def MIR_CATCHUP (i : Nat) : Nat := 0x50080 + 0x1000 * i
def MIR_LAST_ERR (i : Nat) : Nat := 0x50084 + 0x1000 * i
def MBX_CMD (i : Nat) : Nat := 0x90000 + 0x20 * i
def MBX_CTRL (i : Nat) : Nat := 0x90004 + 0x20 * i
def MBX_STATUS (i : Nat) : Nat := 0x90008 + 0x20 * i
def MBX_RSP (i : Nat) : Nat := 0x9000C + 0x20 * i
def MBX_TIME (i : Nat) : Nat := 0x90010 + 0x20 * i
abbrev PST_CTRL : Nat := 0xA0000
abbrev PST_STATUS : Nat := 0xA0004
abbrev PST_INT_STATUS : Nat := 0xA0008
abbrev PST_INT_MASK : Nat := 0xA000C
abbrev PST_SLOT_VALID : Nat := 0xA0010
abbrev PST_SLOT_WORN : Nat := 0xA0014
abbrev PST_SLOT_LOCKED : Nat := 0xA0018
abbrev PST_RECOVERY : Nat := 0xA001C
abbrev PST_PW_FAIL : Nat := 0xA0020
abbrev PST_LAST_FAIL : Nat := 0xA0024
abbrev PST_PROGRAMS : Nat := 0xA0028
abbrev PST_FACTORY_ID : Nat := 0xA0030
abbrev EVR_CTRL : Nat := 0xA1000
abbrev EVR_STATUS : Nat := 0xA1004
abbrev EVR_INT_STATUS : Nat := 0xA1008
abbrev EVR_INT_MASK : Nat := 0xA100C
abbrev EVR_NEWEST : Nat := 0xA1010
abbrev EVR_HELD : Nat := 0xA1014
abbrev EVR_RECORDED : Nat := 0xA1018
abbrev EVR_SUPPRESSED : Nat := 0xA1020
abbrev EVR_LOST : Nat := 0xA1028
abbrev EVR_LAST : Nat := 0xA102C
abbrev EVR_FRONT : Nat := 0xA1030
abbrev EVR_DUMP : Nat := 0xA1034
abbrev EVR_DUMP_GEN : Nat := 0xA1038
abbrev EVR_CLEARS : Nat := 0xA1040
def PMC_CTRL (i : Nat) : Nat := 0xB0000 + 0x100 * i
def PMC_OVF (i : Nat) : Nat := 0xB0004 + 0x100 * i
def PMC_OVF_MASK (i : Nat) : Nat := 0xB0008 + 0x100 * i
def PMC_TB (i : Nat) : Nat := 0xB0010 + 0x100 * i
def PMC_CFG (i k : Nat) : Nat := 0xB0020 + 0x100 * i + 4 * k
def PMC_CNT (i k : Nat) : Nat := 0xB0040 + 0x100 * i + 8 * k
abbrev CLK_CTRL : Nat := 0xC0000
abbrev CLK_STATUS : Nat := 0xC0004
abbrev CLK_INT_STATUS : Nat := 0xC0008
abbrev CLK_INT_MASK : Nat := 0xC000C
abbrev CLK_XC_SYS : Nat := 0xC0010
abbrev CLK_XC_HP : Nat := 0xC0014
abbrev CLK_XC_PCIE : Nat := 0xC0018
abbrev CLK_XC_OSC : Nat := 0xC001C
abbrev CLK_OSC_RATIO : Nat := 0xC0020
abbrev CLK_LAST_FAIL : Nat := 0xC0028
abbrev THM_CTRL : Nat := 0xC1000
abbrev THM_STATUS : Nat := 0xC1004
abbrev THM_INT_STATUS : Nat := 0xC1008
abbrev THM_INT_MASK : Nat := 0xC100C
abbrev THM_TEMP : Nat := 0xC1010
abbrev THM_LIMITS : Nat := 0xC1018
abbrev THM_THROTTLE : Nat := 0xC101C
abbrev THM_PACE : Nat := 0xC1020
abbrev THM_LTR : Nat := 0xC1028
abbrev THM_PSTATE : Nat := 0xC102C
abbrev THM_SENSOR_SEL : Nat := 0xC1030
abbrev THM_SENSOR_DATA : Nat := 0xC1034
abbrev SEQ_CTRL : Nat := 0xC2000
abbrev SEQ_STATUS : Nat := 0xC2004
abbrev SEQ_INT_STATUS : Nat := 0xC2008
abbrev SEQ_INT_MASK : Nat := 0xC200C
abbrev SEQ_CFG : Nat := 0xC2010
abbrev SEQ_PINS : Nat := 0xC2014
abbrev SEQ_FAULT : Nat := 0xC2018
abbrev SEQ_GLITCH : Nat := 0xC2020
abbrev SEQ_RAIL_SEL : Nat := 0xC2028
abbrev SEQ_RAIL_DATA : Nat := 0xC202C
def MCH_CTRL (i : Nat) : Nat := 0x100000 + 0x400 * i
def MCH_STATUS (i : Nat) : Nat := 0x100004 + 0x400 * i
def MCH_CAUSE (i : Nat) : Nat := 0x100008 + 0x400 * i
def MCH_RETIRE (i : Nat) : Nat := 0x10000C + 0x400 * i
def MCH_PROGRAMS (i : Nat) : Nat := 0x100010 + 0x400 * i
def MCH_ECC (i : Nat) : Nat := 0x100018 + 0x400 * i
def BLK_CTRL (i : Nat) : Nat := 0x120000 + 0x400 * i
def BLK_STATUS (i : Nat) : Nat := 0x120004 + 0x400 * i
def BLK_INT_STATUS (i : Nat) : Nat := 0x120008 + 0x400 * i
def BLK_INT_MASK (i : Nat) : Nat := 0x12000C + 0x400 * i
def BLK_SCRUB_CFG (i : Nat) : Nat := 0x120010 + 0x400 * i
def BLK_SCRUB_STAT (i : Nat) : Nat := 0x120014 + 0x400 * i
def BLK_WEAR (i : Nat) : Nat := 0x120018 + 0x400 * i
def BLK_REBUILD (i : Nat) : Nat := 0x120020 + 0x400 * i

end Reg

/-! ### Event codes (R386): code and severity -/

namespace Ev

abbrev GLB_BAD_ACCESS : Nat × Nat := (0x0001, 1)
abbrev GLB_BOOT : Nat × Nat := (0x0002, 0)
abbrev GLB_FATAL : Nat × Nat := (0x0003, 3)
abbrev GLB_NMI : Nat × Nat := (0x0004, 2)
abbrev HP_LINK_UP : Nat × Nat := (0x0101, 0)
abbrev HP_LINK_DOWN : Nat × Nat := (0x0102, 1)
abbrev HP_FEC_UNCORR : Nat × Nat := (0x0103, 1)
abbrev HP_BURST_CRC : Nat × Nat := (0x0104, 1)
abbrev HP_PROTO : Nat × Nat := (0x0105, 1)
abbrev HP_OVERFLOW : Nat × Nat := (0x0106, 1)
abbrev KRF_SRAM_CORR : Nat × Nat := (0x0201, 1)
abbrev KRF_INTEG : Nat × Nat := (0x0202, 2)
abbrev KRF_UNCORR : Nat × Nat := (0x0203, 2)
abbrev KRF_LIMIT_CLAMP : Nat × Nat := (0x0204, 1)
abbrev KRF_BREACH : Nat × Nat := (0x0205, 2)
abbrev RDP_LOCK_DROPPED : Nat × Nat := (0x0301, 1)
abbrev ARB_REST_SOFT : Nat × Nat := (0x0401, 1)
abbrev ARB_REST_HARD : Nat × Nat := (0x0402, 1)
abbrev ARB_REST_CLEAR : Nat × Nat := (0x0403, 0)
abbrev ARB_BOUND_EXCESS : Nat × Nat := (0x0404, 1)
abbrev LKE_LEAF_POISON : Nat × Nat := (0x0501, 2)
abbrev LKE_IMAGE_INVALID : Nat × Nat := (0x0502, 2)
abbrev LKE_ENGINE_FAILED : Nat × Nat := (0x0503, 2)
abbrev LKE_ALL_FAILED : Nat × Nat := (0x0504, 3)
abbrev DBQ_POOL_ADD : Nat × Nat := (0x0601, 0)
abbrev DBQ_POOL_EMPTY : Nat × Nat := (0x0602, 1)
abbrev DBQ_DEQ_POISON : Nat × Nat := (0x0603, 2)
abbrev DBQ_ECC_CORR : Nat × Nat := (0x0604, 1)
abbrev DBQ_QUEUES_RESET : Nat × Nat := (0x0605, 2)
abbrev CNT_FOLD_POISON : Nat × Nat := (0x0701, 2)
abbrev CNT_DELTA_LOST : Nat × Nat := (0x0702, 2)
abbrev CNT_FOLD_LAG : Nat × Nat := (0x0703, 1)
abbrev SEAL_TAG_FAIL : Nat × Nat := (0x0801, 2)
abbrev SEAL_LSA_FAIL : Nat × Nat := (0x0802, 2)
abbrev SEAL_UNWRAP_FAIL : Nat × Nat := (0x0803, 1)
abbrev SEAL_MINOR_FORCE : Nat × Nat := (0x0804, 1)
abbrev SEAL_HELD : Nat × Nat := (0x0805, 1)
abbrev SEAL_ERASE : Nat × Nat := (0x0806, 0)
abbrev SEAL_REKEY_DONE : Nat × Nat := (0x0807, 0)
abbrev SEAL_SELFTEST_FAIL : Nat × Nat := (0x0808, 3)
abbrev MIR_MATE_LOST : Nat × Nat := (0x0901, 2)
abbrev MIR_IN_SYNC : Nat × Nat := (0x0902, 0)
abbrev MIR_JOURNAL_OVERFLOW : Nat × Nat := (0x0903, 2)
abbrev MIR_SYNC_DROPPED : Nat × Nat := (0x0904, 1)
abbrev MIR_REPAIR : Nat × Nat := (0x0905, 1)
abbrev MIR_SEED_DONE : Nat × Nat := (0x0906, 0)
abbrev MIR_REBUILD_STALE : Nat × Nat := (0x0907, 2)
abbrev FW_ROLLBACK : Nat × Nat := (0x0A01, 2)
abbrev FW_CONFIRMED : Nat × Nat := (0x0A02, 0)
abbrev PST_SEQ_TIE : Nat × Nat := (0x0B01, 1)
abbrev PST_FACTORY_BAD : Nat × Nat := (0x0B02, 3)
abbrev PST_WORN : Nat × Nat := (0x0B03, 1)
abbrev PST_PW_LOCK : Nat × Nat := (0x0B04, 1)
abbrev PST_CAL_EMPTY : Nat × Nat := (0x0B05, 1)
abbrev PST_PROFILE_SEALED : Nat × Nat := (0x0B06, 0)
abbrev PST_PROFILE_OLDER : Nat × Nat := (0x0B07, 1)
abbrev PST_RECOVERED : Nat × Nat := (0x0B08, 0)
abbrev EVR_CLEARED : Nat × Nat := (0x0C01, 1)
abbrev EVR_LOST : Nat × Nat := (0x0C02, 1)
abbrev EVR_AUTO_THAW : Nat × Nat := (0x0C03, 0)
abbrev EVR_CLEAR_DENIED : Nat × Nat := (0x0C04, 1)
abbrev EVR_DUMP_OVERWRITTEN : Nat × Nat := (0x0C05, 1)
abbrev PMC_OVERFLOW : Nat × Nat := (0x0D01, 0)
abbrev CLK_REFCLK_FAIL : Nat × Nat := (0x0E01, 2)
abbrev CLK_REFCLK_OK : Nat × Nat := (0x0E02, 0)
abbrev CLK_HS_OPP : Nat × Nat := (0x0E03, 0)
abbrev THM_BAND : Nat × Nat := (0x0F01, 0)
abbrev THM_THROTTLE : Nat × Nat := (0x0F02, 1)
abbrev THM_CRITICAL : Nat × Nat := (0x0F03, 3)
abbrev THM_RATE_OF_RISE : Nat × Nat := (0x0F04, 2)
abbrev THM_COLD_HOLD : Nat × Nat := (0x0F05, 1)
abbrev THM_SELF_HEAT : Nat × Nat := (0x0F06, 1)
abbrev SEQ_RESTART : Nat × Nat := (0x1001, 2)
abbrev MCH_FAILOVER : Nat × Nat := (0x1101, 2)
abbrev MCH_SPARE_75 : Nat × Nat := (0x1102, 1)
abbrev MCH_SPARE_90 : Nat × Nat := (0x1103, 2)
abbrev MCH_SPARE_EXHAUSTED : Nat × Nat := (0x1104, 2)
abbrev MCH_SPARE_LOST : Nat × Nat := (0x1105, 1)
abbrev BLK_DIE_FAILED : Nat × Nat := (0x1201, 2)
abbrev BLK_OUTAGE : Nat × Nat := (0x1202, 2)
abbrev BLK_RECOVERED : Nat × Nat := (0x1203, 1)
abbrev BLK_FAILED : Nat × Nat := (0x1204, 2)
abbrev BLK_SETTLE_DONE : Nat × Nat := (0x1205, 0)
abbrev BLK_SETTLE_LATE : Nat × Nat := (0x1206, 1)
abbrev BLK_SCRUB_POISON : Nat × Nat := (0x1207, 2)
abbrev BLK_REBUILD_DONE : Nat × Nat := (0x1208, 0)
abbrev BLK_ALIAS_GUARD : Nat × Nat := (0x1209, 1)

end Ev

end Sys2Proof.Machine
end

