-- ==== Sys2Proof/Machine/Ops.lean ====
section
/-! DEFINITION. The operations every family shares: the register file, free values, the event recorder, the performance counters,
interrupt vectors, and what a command sends. Each one names, in its update, the few fields of the state it can change. -/

namespace Sys2Proof.Machine

/-! ### The register file -/

/-- The software-written fields of the register at an offset (R13). -/
def cfg (s : State) (o : Nat) : Word64 := fgetD s.regs o (regReset o)

/-- A field of a software-written register. -/
def cfgFld (s : State) (o lo w : Nat) : Nat := bitsOf (cfg s o) lo w

/-- A bit of a software-written register. -/
def cfgBit (s : State) (o k : Nat) : Bool := bitOf (cfg s o) k

/-- Store a register's software-written fields; a register at its Reset column is not listed. -/
def setCfg (s : State) (o : Nat) (v : Word64) : State := { s with regs := fputD s.regs o (regReset o) v }

/-- What hardware holds in the register at an offset. -/
def hwAt (m : FMap Word64) (o : Nat) : Word64 := fgetD m o (regReset o)

/-- Give the register at an offset a hardware-held value. -/
def hwPut (m : FMap Word64) (o : Nat) (v : Word64) : FMap Word64 := fputD m o (regReset o) v

/-- What hardware holds in the register at an offset. -/
def hwGet (s : State) (o : Nat) : Word64 := hwAt s.hw o

/-- Hardware updates a register. -/
def hwSet (s : State) (o : Nat) (v : Word64) : State := { s with hw := hwPut s.hw o v }

/-- A 64-bit counter of events counts on (R12). -/
def hwAdd (s : State) (o n : Nat) : State := hwSet s o (hwGet s o + BitVec.ofNat 64 n)

/-- A counter that saturates at w bits counts on. -/
def hwSat (s : State) (o w n : Nat) : State := hwSet s o (BitVec.ofNat 64 (sat w ((hwGet s o).toNat + n)))

/-- Hardware sets bits of a register. -/
def hwOr (s : State) (o : Nat) (m : Word64) : State := hwSet s o (hwGet s o ||| m)

/-- Hardware sets one cause bit of an RW1C register. -/
def raise (s : State) (o k : Nat) : State := hwOr s o (flag true k)

/-- Hardware writes a field of a register. -/
def hwFldPut (s : State) (o lo w v : Nat) : State := hwSet s o (putBits (hwGet s o) lo w v)

/-- A field that keeps the greatest value seen takes a new one. -/
def hwPeak (s : State) (o lo w v : Nat) : State := hwFldPut s o lo w (max (bitsOf (hwGet s o) lo w) (sat w v))

/-- The key of a window's capture; that of its held lower half is the next number. -/
def latchKey (o : Nat) : Nat := (windowAt o).getD o

/-- An access to a register discards the capture and the held half of every other register of its block (R17). -/
def touch (s : State) (o : Nat) : State :=
  let keep (m : FMap Latch) (k : Nat) : FMap Latch := match fget m k with | some l => if l.off = o then m else fdel m k | none => m
  { s with latches := keep (keep s.latches (latchKey o)) (latchKey o + 1) }

/-! ### Free values (log entry 2) -/

/-- The free value the next command takes. -/
def freeNow (s : State) : Word64 := Config.freeWord s.fresh

/-- One free value is spent. -/
def freeNext (s : State) : State := { s with fresh := s.fresh + 1 }

/-! ### The event recorder (R383 to R391) -/

/-- What recording an event can change: the recorder, and its counters among the hardware-held registers. -/
abbrev Rec := Evr × FMap Word64

/-- Entries of the front go to the ring, oldest first (R383). -/
def ringWrite : FMap EvtEntry → List EvtEntry → FMap EvtEntry
  | r, [] => r
  | r, e :: es => ringWrite (fput r (e.index.toNat % 8192) e) es

/-- The sectors of the ring that entries stand in, eight entries a sector (R383). -/
def ringSectors (es : List EvtEntry) : List Nat := (es.map fun e => e.index.toNat % 8192 / 8).eraseDups

/-- The front is written back to the ring, in its two copies (R227, R383). -/
def Evr.writeBack (e : Evr) : Evr :=
  { e with ring := ringWrite e.ring e.front, front := [], toSeal := (e.toSeal ++ ringSectors e.front).eraseDups }

/-- An event is lost: EVR_LOST and its cause rise (R385, R393). -/
def recLost (r : Rec) : Rec :=
  ({ r.1 with lostFrozen := if r.1.frozen then r.1.lostFrozen + 1 else r.1.lostFrozen },
   hwPut (hwPut r.2 Reg.EVR_LOST (BitVec.ofNat 64 (sat 32 ((hwAt r.2 Reg.EVR_LOST).toNat + 1))))
     Reg.EVR_INT_STATUS (hwAt r.2 Reg.EVR_INT_STATUS ||| flag true 2))

/-- One entry enters the front with the next INDEX. The front is written back at 256 pending entries unless the ring is frozen;
a full front of a frozen ring loses the entry (R383, R385, R393). `irq` is EVR_CTRL.IRQ_SEV. -/
def recStore (irq : Nat) (r : Rec) (e : EvtEntry) : Rec :=
  let v := r.1
  if v.frozen ∧ 8192 ≤ v.front.length then recLost r else
  let e' := { e with index := v.nextIndex }
  let next := v.nextIndex + 1
  let v' := { v with front := v.front ++ [e'], nextIndex := next, held := min 8192 (v.held + 1),
                     reserve := if next = v.reserve then v.reserve + 4096 else v.reserve,
                     last := BitVec.ofNat 18 (e.code.toNat + e.sev.toNat * 65536) }
  let v'' := if !v'.frozen ∧ 256 ≤ v'.front.length then v'.writeBack else v'
  let m := hwPut r.2 Reg.EVR_RECORDED (hwAt r.2 Reg.EVR_RECORDED + 1)
  (v'', hwPut m Reg.EVR_INT_STATUS
    (hwAt m Reg.EVR_INT_STATUS ||| flag (decide (irq ≤ e.sev.toNat)) 0 ||| flag e.summary 1))

/-- The SUMMARY entry of a window that closes with suppressed events (R390). -/
def summaryEntry (time : BitVec 64) (powerOn : BitVec 16) (code sev : Nat) (w : EvtWindow) : EvtEntry where
  time := time
  code := BitVec.ofNat 16 code
  sev := BitVec.ofNat 8 sev
  summary := true
  index := 0
  inst := 0xFFFF
  count := BitVec.ofNat 16 (sat 16 w.suppressed)
  powerOn := powerOn
  data := BitVec.ofNat 64 w.start

/-- A window closes: its SUMMARY is recorded if it suppressed events (R390). -/
def recClose (irq : Nat) (time : BitVec 64) (powerOn : BitVec 16) (code sev : Nat) (r : Rec) : Rec :=
  match fget r.1.windows code with
  | none => r
  | some w =>
    let r' : Rec := ({ r.1 with windows := fdel r.1.windows code }, r.2)
    if w.suppressed = 0 then r' else recStore irq r' (summaryEntry time powerOn code sev w)

/-- An event under its code's rate limit (R389, R390). -/
def recLimited (irq : Nat) (r : Rec) (e : EvtEntry) : Rec :=
  let code := e.code.toNat
  match fget r.1.limits code with
  | none => recStore irq r e
  | some (limit, window) =>
    let fresh (r : Rec) : Rec :=
      recStore irq ({ r.1 with windows := fput r.1.windows code ⟨e.time.toNat, 1, 0⟩ }, r.2) e
    match fget r.1.windows code with
    | none => fresh r
    | some w =>
      if w.start + window ≤ e.time.toNat then fresh (recClose irq e.time e.powerOn code e.sev.toNat r)
      else if w.recorded < limit then
        recStore irq ({ r.1 with windows := fput r.1.windows code { w with recorded := w.recorded + 1 } }, r.2) e
      else
        ({ r.1 with windows := fput r.1.windows code { w with suppressed := w.suppressed + 1 } },
         hwPut r.2 Reg.EVR_SUPPRESSED (hwAt r.2 Reg.EVR_SUPPRESSED + 1))

/-- An event reaches the recorder: until the ring is restored it stays in flight, at most 256 of them (R384, R385). -/
def recEvent (irq : Nat) (r : Rec) (e : EvtEntry) : Rec :=
  if r.1.ready then recLimited irq r e
  else if r.1.inFlight.length < 256 then ({ r.1 with inFlight := r.1.inFlight ++ [e] }, r.2)
  else recLost r

/-- EVR_CTRL.IRQ_SEV (R405). -/
def irqSev (s : State) : Nat := cfgFld s Reg.EVR_CTRL 0 3

/-- An entry as the recorder stamps it now (R383). -/
def entryNow (s : State) (ev : Nat × Nat) (inst data count : Nat) : EvtEntry where
  time := s.time
  code := BitVec.ofNat 16 ev.1
  sev := BitVec.ofNat 8 ev.2
  summary := false
  index := 0
  inst := BitVec.ofNat 16 inst
  count := BitVec.ofNat 16 count
  powerOn := BitVec.ofNat 16 s.glb.powerOns.toNat
  data := BitVec.ofNat 64 data

/-- No instance (R383). -/
abbrev noInst : Nat := 0xFFFF

/-- A block raises an event with an instance, DATA and COUNT (R383, R388). -/
def evtFull (s : State) (ev : Nat × Nat) (inst data count : Nat) : State :=
  let r := recEvent (irqSev s) (s.evr, s.hw) (entryNow s ev inst data count)
  { s with evr := r.1, hw := r.2 }

/-- A block raises an event with an instance and DATA. -/
def evt (s : State) (ev : Nat × Nat) (inst data : Nat) : State := evtFull s ev inst data 0

/-- GLB_BAD_ACCESS with the offset (R30, R388). -/
def badAccess (s : State) (off : Nat) : State := evt s Ev.GLB_BAD_ACCESS noInst off

/-! ### Performance counters (R397 to R399) -/

/-- A counter counts an event: its selector, its mode and its instance agree (R397, R398). An event without instances is counted
whatever INST holds. -/
def pmcHears (c : BitVec 32) (level : Bool) (sel : Nat) (inst : Option Nat) : Bool :=
  bitsOf c 0 12 == sel && bitOf c 12 == level &&
    (bitOf c 14 || match inst with | none => true | some i => bitsOf c 16 7 == i)

/-- Counter k of a unit gets `own k` occurrences of its event, or, chained, the wraps of counter k − 1 (R399). The result is the unit
and the counters that wrapped. -/
def pmcAdd (p : Pmc) (own : Fin 8 → Nat) : Pmc × BitVec 8 :=
  let f (x : Vector (BitVec 48) 8 × Nat × BitVec 8) (k : Fin 8) : Vector (BitVec 48) 8 × Nat × BitVec 8 :=
    let n := if k.val ≠ 0 ∧ bitOf p.cfg[k] 13 then x.2.1 else own k
    let v := x.1[k].toNat + n
    let wraps := v / 2 ^ 48
    (x.1.set k (BitVec.ofNat 48 v), wraps, x.2.2 ||| if wraps = 0 then 0 else BitVec.ofNat 8 (2 ^ k.val))
  let r := (List.finRange 8).foldl f (p.cnt, 0, 0)
  ({ p with cnt := r.1, ovf := p.ovf ||| r.2.2, en := p.en && !(p.freeze && r.2.2 != 0) }, r.2.2)

/-- The wraps that a unit reports: OVF bits set with their OVF_MASK bit at 1 (R399). -/
def pmcReport (s : State) (u : Fin 6) (w : BitVec 8) (r : Rec) : Rec :=
  (List.range 8).foldl (fun r k =>
    if (w &&& (s.pmc[u]).mask).getLsbD k then recEvent (irqSev s) r (entryNow s Ev.PMC_OVERFLOW u.val k 0) else r) r

/-- Every unit that counts gets its occurrences. -/
def pmcAll (s : State) (own : Fin 6 → Fin 8 → Nat) : State :=
  let f (x : Vector Pmc 6 × Rec) (u : Fin 6) : Vector Pmc 6 × Rec :=
    let p := x.1[u]
    if p.en then
      let r := pmcAdd p (own u)
      (x.1.set u r.1, pmcReport s u r.2 x.2)
    else x
  let r := (List.finRange 6).foldl f (s.pmc, (s.evr, s.hw))
  { s with pmc := r.1, evr := r.2.1, hw := r.2.2 }

/-- An event of a selector occurs n times at an instance. -/
def pmcCount (s : State) (sel : Nat) (inst : Option Nat) (n : Nat) : State :=
  pmcAll s fun u k => if pmcHears (s.pmc[u]).cfg[k] false sel inst then n else 0

/-! ### Interrupt vectors and what leaves the device (R39, R40, R339) -/

/-- The device sends something. -/
def emit (s : State) (e : Emit) : State := { s with out := e :: s.out }

/-- The entry of a vector in the MSI-X table; an unlisted one is zero and masked (R340). -/
def msixEntry (p : Pcie) (v : Nat) : MsixEntry := fgetD p.msix v { addr := 0, data := 0, mask := true }

/-- Nothing holds a vector back: the link is up, Bus Master Enable is 1 and the vector is not masked (R339), by itself, by Function Mask or for
want of MSI-X Enable; a function in D3hot sends none (R336, PCI Express). -/
def vectorFree (p : Pcie) (v : Nat) : Bool :=
  p.linkUp && p.cfg.busMaster && p.cfg.msixOn && !p.cfg.msixMask && !p.cfg.d3hot && !(msixEntry p v).mask

/-- A vector becomes due: it is sent, or its pending bit is set (R339). -/
def vectorDue (x : Pcie × List Emit) (v : Nat) : Pcie × List Emit :=
  if vectorFree x.1 v then (x.1, .msix (BitVec.ofNat 5 v) :: x.2)
  else ({ x.1 with pba := x.1.pba ||| BitVec.ofNat 32 (2 ^ v) }, x.2)

/-- A condition of GLB_NMI_STATUS is set: it signals GLB_NMI_ROUTE.VEC whatever is masked (R40), and GLB_NMI is recorded. -/
def nmi (s : State) (k : Nat) : State :=
  let s := raise (evt s Ev.GLB_NMI noInst 0) Reg.GLB_NMI_STATUS k
  let x := vectorDue (s.pcie, s.out) (cfgFld s Reg.GLB_NMI_ROUTE 0 5)
  { s with pcie := x.1, out := x.2 }

end Sys2Proof.Machine
end

