-- ==== Sys2Proof/Machine/Operands.lean ====
section
/-! DEFINITION. Operands: the fields of an address and where a sector lives, the instances a command names, the records of
accepted commands, and the checks that a command's operands meet. Sectors are named by PA[39:8] as a number. -/

namespace Sys2Proof.Machine

/-! ### Addresses (R41, R45) -/

/-- PA[39:31]. -/
def regionOf (pa : PA) : Nat := bitsOf pa 31 9

/-- PA[39:8]. -/
def sectorOf (pa : PA) : Nat := bitsOf pa 8 32

/-- PA[7:6]. -/
def lineOf (pa : PA) : Nat := bitsOf pa 6 2

/-- Atomic word of the sector: PA[7:3]. -/
def wordOfPa (pa : PA) : Nat := bitsOf pa 3 5

/-- The first byte of a sector. -/
def paOf (lsa : Nat) : PA := BitVec.ofNat 40 (lsa * 256)

/-- Region of a sector. -/
def lsaRegion (lsa : Nat) : Nat := lsa / 2 ^ 23

/-- 4 KiB chunk of a sector within its region. -/
def lsaChunk (lsa : Nat) : Nat := lsa / 16 % 2 ^ 19

/-- Blank of a region (R45). -/
def regionBlank (r : Nat) : Nat := r % 8

/-- Channel of a sector (R45). -/
def lsaChannel (lsa : Nat) : Nat := 8 * (lsaRegion lsa % 8) + lsaChunk lsa % 8

/-- Sectors of a region. -/
abbrev regionSectors : Nat := 2 ^ 23

/-- First sector of a region. -/
def regionBase (r : Nat) : Nat := r * regionSectors

/-- A PA of user space (R44). -/
def inUser (pa : PA) : Bool := decide (pa.toNat < 0xF000000000)

/-! ### Instances -/

/-- Channel of a number (R45 gives numbers below 64). -/
def chanOf (k : Nat) : Chan := ⟨k % 64, Nat.mod_lt _ (by decide)⟩

/-- Blank of a number. -/
def blankOf (k : Nat) : Blank := ⟨k % 8, Nat.mod_lt _ (by decide)⟩

/-- Mailbox of a number. -/
def mbxOf (k : Nat) : Mbx := ⟨k % 8, Nat.mod_lt _ (by decide)⟩

/-- The region with its descriptor; an unlisted one is as shipped (R49). -/
def regionAt (s : State) (r : Nat) : Region := fgetD s.regions r Region.shipped

/-- Store a region. -/
def setRegion (s : State) (r : Nat) (v : Region) : State := { s with regions := fputD s.regions r Region.shipped v }

/-- Change a region. -/
def modRegion (s : State) (r : Nat) (f : Region → Region) : State := setRegion s r (f (regionAt s r))

/-- A medium channel; an unlisted one is as after reset (R229). -/
def chanAt (s : State) (k : Nat) : Channel := fgetD s.med.channels k (Channel.initial k)

/-- Store a channel. -/
def setChan (s : State) (k : Nat) (v : Channel) : State :=
  { s with med := { s.med with channels := fputD s.med.channels k (Channel.initial k) v } }

/-- Change a channel. -/
def modChan (s : State) (k : Nat) (f : Channel → Channel) : State := setChan s k (f (chanAt s k))

/-- Change a blank. -/
def modBlank (s : State) (b : Blank) (f : BlankS → BlankS) : State :=
  { s with med := { s.med with blanks := vmod s.med.blanks b f } }

/-- Change a host port. -/
def modPort (s : State) (p : HPort) (f : Port → Port) : State := { s with ports := vmod s.ports p f }

/-- Change a mirror port. -/
def modMir (s : State) (n : MPort) (f : MirPort → MirPort) : State :=
  { s with mir := { s.mir with ports := vmod s.mir.ports n f } }

/-- Change a mailbox. -/
def modMbx (s : State) (m : Mbx) (f : MbxS → MbxS) : State := { s with mbx := vmod s.mbx m f }

/-- The medium state and what surrounds it. -/
def modMed (s : State) (f : Medium → Medium) : State := { s with med := f s.med }

/-- The kerf slot of a sector, if it is not FREE (R138). -/
def slotAt (s : State) (lsa : Nat) : Option Slot := fget s.krf.slots lsa

/-- Store a slot. -/
def putSlot (s : State) (lsa : Nat) (x : Slot) : State := { s with krf := { s.krf with slots := fput s.krf.slots lsa x } }

/-- Free a slot (R138). -/
def freeSlot (s : State) (lsa : Nat) : State := { s with krf := { s.krf with slots := fdel s.krf.slots lsa } }

/-- Change a slot that is held. -/
def modSlot (s : State) (lsa : Nat) (f : Slot → Slot) : State :=
  match slotAt s lsa with
  | none => s
  | some x => putSlot s lsa (f x)

/-! ### Accepted commands -/

/-- A command by its number. -/
def cmdAt (s : State) (id : Nat) : Option HostCmd := s.cmds.find? fun x => x.id == id

/-- Change a command. -/
def modCmd (s : State) (id : Nat) (f : HostCmd → HostCmd) : State :=
  { s with cmds := s.cmds.map fun x => if x.id = id then f x else x }

/-- A command has been answered, or needs no answer. -/
def delCmd (s : State) (id : Nat) : State := { s with cmds := s.cmds.filter fun x => x.id != id }

/-- A command moves to a stage. -/
def stageCmd (s : State) (id : Nat) (g : Stage) : State := modCmd s id fun x => { x with stage := g }

/-- Number of a stream: port × 256 + channel. -/
def streamOf (p : HPort) (c : HChan) : Nat := p.val * 256 + c.toNat

/-- Stream of a command, if a host sent it. -/
def HostCmd.stream (x : HostCmd) : Option Nat :=
  match x.origin with
  | .stream p c => some (streamOf p c)
  | .mate _ _ _ _ => none

/-- Host port of a command (0 for a record of the mate). -/
def HostCmd.port (x : HostCmd) : HPort :=
  match x.origin with
  | .stream p _ => p
  | .mate _ _ _ _ => 0

/-- Channel of a command. -/
def HostCmd.chan (x : HostCmd) : HChan :=
  match x.origin with
  | .stream _ c => c
  | .mate _ _ _ _ => 0

/-- Two commands stand in one stream: the same host stream, or the same mirror port (R57, R316). -/
def sameStream (x y : HostCmd) : Bool :=
  match x.origin, y.origin with
  | .stream p c, .stream q d => decide (p = q) && decide (c = d)
  | .mate n _ _ _, .mate m _ _ _ => decide (n = m)
  | _, _ => false

/-- The write opcodes (R50). -/
def Op.isWrite : Op → Bool
  | .wr64 | .wr256 | .wrm64 | .fadd64 | .cswap64 => true
  | _ => false

/-- The PA-addressed opcodes (R42). -/
def Op.isPa : Op → Bool
  | .rd64 | .rd256 | .wr64 | .wr256 | .wrm64 | .fadd64 | .cswap64 | .cadd | .crd => true
  | _ => false

/-- The queue opcodes. -/
def Op.isQueue : Op → Bool
  | .enq | .deq | .qflush | .qstat => true
  | _ => false

/-- Access size of a PA-addressed opcode, bytes (R42). -/
def Op.size : Op → Nat
  | .rd64 | .wr64 | .wrm64 => 64
  | .rd256 | .wr256 => 256
  | .fadd64 | .cswap64 => 8
  | .cadd | .crd => 16
  | _ => 1

/-- The opcode of a value, as R114 lists them. -/
def opOfCode : Nat → Op
  | 0x00 => .nop | 0x01 => .echo | 0x10 => .rd64 | 0x11 => .rd256 | 0x18 => .wr64 | 0x19 => .wr256 | 0x1A => .wrm64
  | 0x20 => .fadd64 | 0x21 => .cswap64 | 0x22 => .cadd | 0x23 => .crd | 0x30 => .lkup | 0x40 => .enq | 0x41 => .deq
  | 0x42 => .qflush | 0x43 => .qstat | 0x50 => .fence | 0x51 => .persist | _ => .unknown

/-- QID of a queue command: ADDR[40:24] of the slot (R125), bits 16 to 0 of the address field. -/
def qidOf (a : PA) : Nat := bitsOf a 0 17

/-- BYTES of an ENQ (R125). -/
def enqBytes (a : PA) : Nat := bitsOf a 20 9

/-- DU that an opcode requires, or the range of an opcode that takes several (R114, R115). -/
def duFits (x : HostCmd) : Bool :=
  match x.op with
  | .echo | .lkup => decide (x.du ≤ 4)
  | .wr64 | .wrm64 | .cswap64 => x.du == 1
  | .wr256 => x.du == 4
  | .enq => x.du == (enqBytes x.addr + 63) / 64
  | .unknown => true
  | _ => x.du == 0

/-- Two PA-addressed commands share a byte (Visibility and ordering). -/
def overlap (x y : HostCmd) : Bool :=
  x.op.isPa && y.op.isPa && decide (x.addr.toNat < y.addr.toNat + y.op.size) && decide (y.addr.toNat < x.addr.toNat + x.op.size)

/-- The right a command's opcode needs in a region of that USE, as a bit of the port's rights: RD 0, WR 1, AT 2 (R50). -/
def rightNeeded : Use → Op → Option Nat
  | .general, .rd64 | .general, .rd256 => some 0
  | .general, .wr64 | .general, .wr256 | .general, .wrm64 => some 1
  | .general, .fadd64 | .general, .cswap64 => some 2
  | .counter, .crd => some 0
  | .counter, .cadd => some 1
  | _, _ => none

/-- This device is paired and its role is MATE (R308). -/
def isMate (s : State) : Bool := s.mir.pairId.isSome && s.mir.mate

/-- This device is paired and its role is PRIMARY (R308). -/
def isPrimary (s : State) : Bool := s.mir.pairId.isSome && !s.mir.mate

/-- A port holds a right of a region; on a MATE the WR and AT rights of MIRRORED regions count as absent (R50, R309). -/
def holdsRight (s : State) (p : HPort) (r : Region) (k : Nat) : Bool :=
  bitOf r.rights (3 * p.val + k) && !(k != 0 && isMate s && r.mirrored)

/-- A status with a DETAIL and nothing else (R110). -/
def Resp.plain (st : Status) (detail : Nat) : Resp := ⟨st, BitVec.ofNat 8 detail, 0, 0, 0⟩

/-- OK with RLEN, RESULT and data. -/
def Resp.okData (rlen : Nat) (result : Word64) (data : Sector) : Resp := ⟨.ok, 0, rlen, result, data⟩

/-- RLEN of OK for an opcode, as the opcode table gives it, where it does not depend on the command (R114). -/
def Op.rlen : Op → Nat
  | .rd64 => 4 | .rd256 => 16 | .crd => 1 | .lkup => 2 | .qstat => 1 | _ => 0

/-- POISON, UNCORR or INTEG: the RLEN of OK, zero data and RESULT (R110). -/
def Resp.bad (st : Status) (detail rlen : Nat) : Resp := ⟨st, BitVec.ofNat 8 detail, rlen, 0, 0⟩

/-- First MALFORMED cause of a command in the order of R135 (NO_PROFILE apart), or none. -/
def malformed (x : HostCmd) : Option Nat :=
  if x.op = .unknown then some 1
  else if !duFits x then some 2
  else if x.dupTag then some 3
  else if x.op.isPa ∧ x.addr.toNat % x.op.size ≠ 0 then some 4
  else if x.op = .wrm64 ∧ x.operand = 0 then some 5
  else if x.op = .enq ∧ (enqBytes x.addr = 0 ∨ 256 < enqBytes x.addr) then some 5
  else none

/-- The first check of R54 that a PA-addressed command fails, as the response it gets; the mate's records are checked by R319, not
here. -/
def checkPa (s : State) (x : HostCmd) : Option Resp :=
  match x.origin with
  | .mate _ _ _ _ => none
  | .stream p _ =>
    if !inUser x.addr then some (Resp.plain .range 0) else
    let r := regionAt s (regionOf x.addr)
    match rightNeeded r.use x.op with
    | none => some (Resp.plain .denied 1)
    | some k =>
      if !holdsRight s p r k then some (Resp.plain .denied 2)
      else if r.lost then some (Resp.bad .poison 2 x.op.rlen)
      else none

/-! ### The board profile (R377) -/

/-- k bytes of the profile applied at this boot, as a little-endian number, or a default where there is none. -/
def profAt (s : State) (off k default : Nat) : Nat :=
  match s.pst.applied with
  | some c => leAt c off k
  | none => default

/-- MIRn_LOCAL_MAC: six bytes, the first the most significant. -/
def profMac (s : State) (n : Nat) : Nat :=
  match s.pst.applied with
  | some c => beAt c (72 + 6 * n) 6
  | none => 0

/-- Every channel is parked after the dump of a critical stop (R428). -/
def critParked (s : State) : Bool :=
  s.thm.crit && decide (s.glb.state = .dump) && s.dumps.trigger.isNone && !s.dumps.writing && s.krf.running.isNone

end Sys2Proof.Machine
end

