-- ==== Sys2Proof/Machine/Flags.lean ====
section
/-! DEFINITION. Status computed from the state: the summary interrupt lines and what a change of them signals (R38, R39, R339), and
the calendar a host port sends (R89 to R92, R95, R99). -/

namespace Sys2Proof.Machine

/-! ### Summary lines (R38) -/

/-- A block's line: an unmasked bit of its INT_STATUS is 1. -/
def irqLine (s : State) (status mask : Nat) : Bool := decide (hwGet s status &&& ~~~ cfg s mask ≠ 0)

/-- BLKb_INT_STATUS.CHANNEL: a bit of MCHnn_CAUSE is set in a channel of the blank or its spare (R230). -/
def blkChannel (s : State) (b : Nat) : Bool :=
  decide (fgetD s.hw (Reg.MCH_CAUSE (64 + b)) 0 ≠ 0) ||
    (List.range 8).any fun j => decide (fgetD s.hw (Reg.MCH_CAUSE (8 * b + j)) 0 ≠ 0)

/-- BLKb_INT_STATUS as it reads. -/
def blkIntStatus (s : State) (b : Nat) : Word64 := hwGet s (Reg.BLK_INT_STATUS b) ||| flag (blkChannel s b) 9

/-- The summary line of source k (the source bits of GLB_INT_STATUS). The GLB line is DEDUCED: GLB's own status registers are
GLB_FATAL_STATUS and GLB_NMI_STATUS (log entry 6). -/
def sourceLine (s : State) (k : Nat) : Bool :=
  if k = 0 then decide (hwGet s Reg.GLB_FATAL_STATUS ||| hwGet s Reg.GLB_NMI_STATUS ≠ 0)
  else if k < 5 then irqLine s (Reg.HP_INT_STATUS (k - 1)) (Reg.HP_INT_MASK (k - 1))
  else if k = 5 then irqLine s Reg.KRF_INT_STATUS Reg.KRF_INT_MASK
  else if k = 6 then irqLine s Reg.RDP_INT_STATUS Reg.RDP_INT_MASK
  else if k = 7 then irqLine s Reg.ARB_INT_STATUS Reg.ARB_INT_MASK
  else if k = 8 then irqLine s Reg.LKE_INT_STATUS Reg.LKE_INT_MASK
  else if k = 9 then irqLine s Reg.DBQ_INT_STATUS Reg.DBQ_INT_MASK
  else if k = 10 then irqLine s Reg.CNT_INT_STATUS Reg.CNT_INT_MASK
  else if k = 11 then irqLine s Reg.SEAL_INT_STATUS Reg.SEAL_INT_MASK
  else if k < 14 then irqLine s (Reg.MIR_INT_STATUS (k - 12)) (Reg.MIR_INT_MASK (k - 12))
  else if k < 22 then let m := s.mbx[mbxOf (k - 14)]; decide (m.state = .done) && m.irq
  else if k = 22 then irqLine s Reg.PST_INT_STATUS Reg.PST_INT_MASK
  else if k = 23 then irqLine s Reg.EVR_INT_STATUS Reg.EVR_INT_MASK
  else if h : 24 ≤ k ∧ k < 30 then let p := s.pmc[(⟨k - 24, by omega⟩ : Fin 6)]; decide (p.ovf &&& p.mask ≠ 0)
  else if k = 30 then irqLine s Reg.CLK_INT_STATUS Reg.CLK_INT_MASK
  else if k = 31 then irqLine s Reg.THM_INT_STATUS Reg.THM_INT_MASK
  else if k = 32 then irqLine s Reg.SEQ_INT_STATUS Reg.SEQ_INT_MASK
  else if k < 41 then decide (blkIntStatus s (k - 33) &&& ~~~ cfg s (Reg.BLK_INT_MASK (k - 33)) ≠ 0)
  else false

/-- GLB_INT_STATUS (R38). -/
def sourceLines (s : State) : BitVec 41 :=
  (List.range 41).foldl (fun a k => if sourceLine s k then a ||| BitVec.ofNat 41 (2 ^ k) else a) 0

/-- The routing byte of a source (GLB_INT_ROUTEn): its vector, and whether its delivery is enabled. -/
def sourceRoute (s : State) (k : Nat) : Nat × Bool :=
  let r := cfg s (Reg.GLB_INT_ROUTE (k / 4))
  (bitsOf r (8 * (k % 4)) 5, bitOf r (8 * (k % 4) + 7))

/-- A source's line is up and the source is unmasked and enabled (R39). -/
def sourceActive (s : State) (lines : BitVec 41) (k : Nat) : Bool :=
  bitOf lines k && !cfgBit s Reg.GLB_INT_MASK k && (sourceRoute s k).2

/-- A pending vector keeps its bit while some line that routes to it is up, or an NMI condition that routes to it is set (R339). -/
def stillDue (s : State) (lines : BitVec 41) (v : Nat) : Bool :=
  (cfgFld s Reg.GLB_NMI_ROUTE 0 5 == v && decide (hwGet s Reg.GLB_NMI_STATUS ≠ 0)) ||
    (List.range 41).any fun k => bitOf lines k && (sourceRoute s k).1 == v

/-- What the interrupt logic does once a command's effect is in place: the vectors of the sources that became active are due, and
pending bits whose lines have all fallen are cleared (R39, R339). -/
def signal (s : State) : Pcie × List Emit :=
  let lines := sourceLines s
  let act := (List.range 41).filter (sourceActive s lines)
  let due := act.filter fun k => !bitOf s.pcie.lines k
  let x := due.foldl (fun x k => vectorDue x (sourceRoute s k).1) (s.pcie, s.out)
  ({ x.1 with lines := act.foldl (fun a k => a ||| BitVec.ofNat 41 (2 ^ k)) 0,
              pba := (List.range 32).foldl
                (fun a v => if bitOf x.1.pba v && stillDue s lines v then a ||| BitVec.ofNat 32 (2 ^ v) else a) 0 },
   x.2)

/-- The interrupt logic settles. -/
def fin (s : State) : State := { s with pcie := (signal s).1, out := (signal s).2 }

/-- A command has had its effect. -/
def done (s : State) : Host.Outcome State Fault Refusal := .next (fin s)

/-! ### The device's calendar of a host port -/

/-- Units of the receive buffer an accepted command takes: its 16-B slot and its data, in whole 256-B units (R90; log entry 7). -/
def cmdUnits (x : HostCmd) : Nat := (16 + 64 * x.du + 255) / 256

/-- A command that is still in the receive buffer: accepted and not dispatched, or held in admission (R90, R93, R142, R160). One that
waits only behind an overlapping command of its stream has been dispatched (R88). -/
def inReceive (x : HostCmd) : Bool :=
  match x.stage with
  | .buffered | .throttled | .rested | .charge | .way => true
  | _ => false

/-- The commands in a port's receive buffer. -/
def receiveOf (s : State) (p : HPort) : List HostCmd :=
  s.cmds.filter fun x => match x.origin with
    | .stream q _ => decide (q = p) && inReceive x
    | .mate _ _ _ _ => false

/-- Occupancy of a port's receive buffer, in units: HPn_BUF_OCC.OCC. -/
def receiveUnits (s : State) (p : HPort) : Nat := ((receiveOf s p).map cmdUnits).sum

/-- Calendar entries of a port: 16 for each word of the calendar in force (R89). -/
def calEntries (x : Port) : Nat := 16 * x.calLen

/-- Calendar entry of a channel (R89). -/
def calEntry (x : Port) (c : HChan) : Nat := c.toNat % calEntries x

/-- 256-B units that bytes take. -/
def unitsOf (n : Nat) : Nat := (n + 255) / 256

/-- Units that the commands which have arrived in part take in a port's receive buffer, those of one channel apart (R91). -/
def partUnits (s : State) (p : HPort) (but : HChan) : Nat :=
  ((s.ports[p]).packets.map fun e =>
    if e.1 = but.toNat ∨ e.2.dropping.isSome then 0 else unitsOf e.2.partialBytes.length).sum

/-- Units held by the channels of one entry. -/
def entryUnits (s : State) (p : HPort) (e : Nat) : Nat :=
  (((receiveOf s p).filter fun x => calEntry s.ports[p] x.chan == e).map cmdUnits).sum

/-- A response waits at the port: HPn's response buffer (R92). -/
def answeredAt (p : HPort) (x : HostCmd) : Bool :=
  match x.origin with
  | .stream q _ => decide (q = p) && decide (x.stage = .answered)
  | .mate _ _ _ _ => false

/-- Bytes of a response (R110). -/
def respBytes (r : Resp) : Nat := 16 + 16 * r.rlen

/-- The code of a status (R133). -/
def Status.code : Status → Nat
  | .ok => 0 | .poison => 1 | .uncorr => 2 | .integ => 3 | .range => 4 | .denied => 5 | .retry => 6 | .empty => 7 | .qerr => 8
  | .malformed => 0xF

/-- Word 0 of a response header: OPCODE, STATUS, TAG, RLEN and DETAIL in their places, zero elsewhere (R109). -/
def Resp.word0 (r : Resp) (opcode : BitVec 8) (tag : BitVec 12) : Word64 :=
  fld opcode.toNat 0 ||| fld r.status.code 8 ||| fld tag.toNat 12 ||| fld r.rlen 24 ||| fld r.detail.toNat 32

/-- The bytes of a response: its header, each word little-endian, and its RLEN data units of 16 B (R108, R109). -/
def Resp.bytes (r : Resp) (opcode : BitVec 8) (tag : BitVec 12) : List Byte :=
  bytesOf (r.word0 opcode tag) 8 ++ bytesOf r.result 8 ++ bytesOf r.data (16 * r.rlen)

/-- Bytes in a port's response buffer. -/
def responseBytes (s : State) (p : HPort) : Nat :=
  ((s.cmds.filter (answeredAt p)).map fun x => match x.resp with | some r => respBytes r | none => 0).sum

/-- Serving states: host commands are accepted (R99). -/
def DevState.serves : DevState → Bool
  | .boot | .restore | .fwdReady | .operational => true
  | .commit | .dump | .stopped => false

/-- HPn_CTRL.FAR_LOOP: no command is accepted, and the calendar is not sent (R102). -/
def loopedBack (s : State) (p : HPort) : Bool := cfgBit s (Reg.HP_CTRL p.val) 1

/-- Every entry of a port's calendar is sent as 0: before forwarding-ready, in COMMIT, DUMP and STOPPED, while the buffer is above
its threshold or the response buffer more than seven-eighths full (R90, R92, R95, R99). -/
def calAllZero (s : State) (p : HPort) : Bool :=
  !s.glb.fwd || !s.glb.state.serves || (s.ports[p]).xoffPort || decide (57344 < responseBytes s p)

/-- Entry e of a port's calendar is sent as 0. -/
def calZero (s : State) (p : HPort) (e : Nat) : Bool := calAllZero s p || bitOf (s.ports[p]).xoff e

/-- Calendar word w of a port as it is sent: entry 16w in bit 55 of the control word, which is bit 15 of its field, and the Reset
Calendar bit with word 0 (R89). -/
def calWord (s : State) (p : HPort) (w : Nat) : CalWord where
  reset := w == 0
  field := (List.range 16).foldl (fun a j => putBit a (15 - j) (!calZero s p (16 * w + j))) 0

/-- The entries of a calendar word of the host put into what has been received of its calendar: 1 in an entry's bit of `xoff` stands for
a 0 in the calendar (R89, R92). -/
def takeCalWord (xoff : BitVec 256) (w : Nat) (field : BitVec 16) : BitVec 256 :=
  (List.range 16).foldl (fun a j => putBit a (16 * w + j) (!bitOf field (15 - j))) xoff

/-- The entries that were held at 0, in a calendar of another length: an entry keeps its 0 for each channel that had one (R85, R90). -/
def refold (q : Port) (len : Nat) : BitVec 256 :=
  if len = q.calLen then q.xoff
  else (List.range 256).foldl (fun a c => if bitOf q.xoff (c % calEntries q) then putBit a (c % (16 * len)) true else a) 0

/-- The thresholds act on a port after its buffer has changed (R90), and HPn_BUF_OCC.PEAK follows. -/
def calUpdate (s : State) (p : HPort) : State :=
  let q := s.ports[p]
  let fe := cfg s (Reg.HP_FC_ENTRY p.val)
  let fp := cfg s (Reg.HP_FC_PORT p.val)
  let units := receiveUnits s p
  let xoff := (List.range (calEntries q)).foldl (fun a e =>
    let u := entryUnits s p e
    if bitsOf fe 0 11 ≤ u then a ||| BitVec.ofNat 256 (2 ^ e)
    else if u < bitsOf fe 16 11 then a
    else a ||| (q.xoff &&& BitVec.ofNat 256 (2 ^ e))) 0
  let port := if bitsOf fp 0 11 ≤ units then true else if units < bitsOf fp 16 11 then false else q.xoffPort
  hwPeak { s with ports := s.ports.set p { q with xoff := xoff, xoffPort := port } } (Reg.HP_BUF_OCC p.val) 16 11 units

end Sys2Proof.Machine
end

