-- ==== Sys2Proof/Machine/CmdOps.lean ====
section
/-! DEFINITION. Shared operations on accepted commands: their acceptance, their responses, and what the start of a commit does to
them. -/

namespace Sys2Proof.Machine

/-! ### Responses (R97, R136, R137) -/

/-- The link session a command was accepted under still stands (R113). -/
def sessionAlive (s : State) (x : HostCmd) : Bool :=
  match x.origin with
  | .stream p _ => (s.ports[p]).linkUp && x.session == (s.ports[p]).session
  | .mate _ _ _ _ => true

/-- A response is discarded and counted (R97). -/
def discardResp (s : State) (p : HPort) : State :=
  raise (hwSat s (Reg.HP_RSP_DISCARD p.val) 32 1) (Reg.HP_INT_STATUS p.val) 6

/-- A command has its response: it waits at the port, or, for a command of an earlier link session, is discarded at once. A record of
the mate gets none. `performed` says whether the command has been performed already; one that was refused is performed when its
response is sent (R136). -/
def answer (s : State) (id : Nat) (performed : Bool) (r : Resp) : State :=
  match cmdAt s id with
  | none => s
  | some x =>
    match x.origin with
    | .mate _ _ _ _ => delCmd s id
    | .stream p _ =>
      if sessionAlive s x then
        modCmd s id fun y => { y with resp := some r, stage := .answered, performed := y.performed || performed, reserved := 0 }
      else delCmd (discardResp s p) id

/-- A command is refused: its response, no effect (R136). -/
def refuse (s : State) (id : Nat) (r : Resp) : State := answer s id false r

/-- A command is performed and answered. -/
def complete (s : State) (id : Nat) (r : Resp) : State := answer s id true r

/-- A response has left the port whole (R87): it is counted, and its command is over. -/
def sendResp (s : State) (p : HPort) (x : HostCmd) : State :=
  pmcCount (delCmd (hwAdd s (Reg.HP_TX_RSPS p.val) 1) x.id) 0x101 (some p.val) 1

/-- Every response waiting at a port is discarded, those that have left in part among them: the link went down (R97). -/
def discardAll (s : State) (p : HPort) : State :=
  (s.cmds.filter (answeredAt p)).foldl (fun s x => delCmd (discardResp s p) x.id) s

/-! ### Commands when a commit starts (R160) -/

/-- The opcodes that complete with RETRY when a commit finds them undispatched (R160). -/
def Op.retriedByCommit : Op → Bool
  | .wr64 | .wr256 | .wrm64 | .fadd64 | .cswap64 | .cadd | .enq | .persist => true
  | _ => false

/-- A slot that carries charge (R138). -/
def Slot.charged (x : Slot) : Bool := decide (x.state ≠ .clean)

/-- A dispatched command that stands behind another of its stream or its queue will need charge that it has not reserved (R142, R160): a
write to a sector without a charged slot, a CADD to a pair without an entry, an ENQ to a queue whose descriptor, or whose open packet's
last sector, carries none. -/
def needsCharge (s : State) (x : HostCmd) : Bool :=
  let charged (lsa : Nat) : Bool := (slotAt s lsa).any Slot.charged
  match x.op with
  | .wr64 | .wr256 | .wrm64 | .fadd64 | .cswap64 => !charged (sectorOf x.addr)
  | .cadd => !fhas s.cnt.entries (bitsOf x.addr 4 36)
  | .enq =>
    match fget s.dbq.queues (qidOf x.addr) with
    | none => true
    | some v => !v.charged || match v.opened.bind fun p => p.1.sectors.getLast? with
      | some (n, b) => !charged n.toNat || decide (256 < b + enqBytes x.addr)
      | none => true
  | _ => false

/-- A command is undispatched at step 1 of a commit (R160): it has not been dispatched, it waits for charge or for a way of the fold cache,
or it has not reached admission and needs charge there. -/
def undispatched (s : State) (x : HostCmd) : Bool := inReceive x || (decide (x.stage = .ordered) && needsCharge s x)

/-- A record of a port that these commands of the device stand for. -/
def recordAmong (xs : List HostCmd) (n : MPort) : Option (BitVec 48) :=
  xs.findSome? fun x => match x.origin with | .mate m seq _ _ => if m = n then some seq else none | .stream _ _ => none

/-- A record of a port that is not admitted is discarded, to be asked for again by a NAK (R318, R319). -/
def dropRecord (s : State) (xs : List HostCmd) (n : MPort) : State :=
  match recordAmong xs n, (s.mir.ports[n]).inbox with
  | some q, _ => modMir s n fun x => { x with inbox := [], rxSeq := q, nakDue := true }
  | none, (q, _) :: _ => modMir s n fun x => { x with inbox := [], rxSeq := q, nakDue := true }
  | none, [] => s

/-- Step 1 of the commit: undispatched writes, counter updates, enqueues and PERSISTs complete with RETRY, DETAIL zero, and records of the
mate that are not admitted are discarded; what else waits for charge keeps its place (R160, R318, R319). -/
def retryUndispatched (s : State) : State :=
  let xs := s.cmds.filter fun x => undispatched s x && x.op.retriedByCommit
  let s := dropRecord (dropRecord s xs 0) xs 1
  let s := xs.foldl (fun s x => refuse s x.id (Resp.plain .retry 0)) s
  { s with krf := { s.krf with waiters := s.krf.waiters.filter fun w =>
    match w with | .cmd id => !xs.any fun x => x.id == id | .record n => !(s.mir.ports[n]).inbox.isEmpty | _ => true } }

/-! ### Total charge (R141, R142) -/

/-- Kerf slots that carry charge. -/
def chargedSlots (s : State) : Nat := (s.krf.slots.filter fun e => e.2.charged).length

/-- Queue descriptors that carry charge (R271). -/
def chargedQueues (s : State) : Nat := (s.dbq.queues.filter fun e => e.2.charged).length

/-- Charge reserved and not yet carried by a slot, an entry or a descriptor: by commands, and by what else has been granted it. -/
def reservedCharge (s : State) : Nat := (s.cmds.map (·.reserved)).sum + (s.krf.granted.map (·.2)).sum

/-- The total charge, bytes (R141). The event-ring front is charged always: KRF_CHARGE.TOTAL and KRF_STATUS.OCC show it from reset on, although
their Reset entries are 0 (DESIGN CHOICE, log entry 74). -/
def totalCharge (s : State) : Nat :=
  256 * chargedSlots s + 16 * s.cnt.entries.length + 128 * chargedQueues s + 262144 + reservedCharge s

/-- KRF_DIRTY_LIMIT.LIMIT in bytes. -/
def chargeLimit (s : State) : Nat := cfgFld s Reg.KRF_DIRTY_LIMIT 0 11 * 65536

/-! ### The start of a commit and fatal conditions (R158 to R161, R401) -/

/-- The folds that have not switched are abandoned: their deltas stay pending, and the commit writes them (R159, R279, R282). -/
def endFolds (s : State) : State := { s with cnt := { s.cnt with folds := [] } }

/-- A commit starts (steps 1 and 2 of R159): STATE moves to COMMIT, or to DUMP for a fatal condition, and the commands it finds are
settled. A commit that runs, or one that has completed since the last reset, is left as it is (R158); a stopped device programs nothing
(R306). -/
def startCommit (s : State) (why : CommitWhy) : State :=
  if s.krf.running.isSome ∨ s.krf.done ∨ s.glb.inReset ∨ s.glb.state = .dump ∨ s.glb.state = .stopped then s else
  let charge := totalCharge s
  let s := { s with glb := { s.glb with prevState := s.glb.state, state := if why = .fatal then .dump else .commit } }
  let s := endFolds (retryUndispatched s)
  { s with krf := { s.krf with running := some (why, charge) } }

/-- The sections held in SRAM that a power state powers down: those of the kerf buffer and the fold cache from L3, and that of queue descriptors
in L4 (R419, R422). DEDUCED (log entry 72). -/
def darkSections (s : State) : List (Fin 10) :=
  if s.pwr.cur.val ≤ 2 then [] else if s.pwr.cur.val = 3 then [5, 7] else [5, 6, 7]

/-- What the dump of a fatal condition captures at its trigger (R401, R403); its registers are captured once the command that brought the
condition about has had its effect. -/
def dumpTrigger (s : State) : Dump where
  gen := 0
  time := s.time
  fatal := BitVec.ofNat 32 (hwGet s Reg.GLB_FATAL_STATUS).toNat
  laterFatal := 0
  fwVersion := BitVec.ofNat 32 (hwGet s Reg.GLB_FW_VERSION).toNat
  serial := Config.serial
  commitGen := 0
  commitUs := 0
  powerOn := BitVec.ofNat 16 s.glb.powerOns.toNat
  complete := false
  commitOk := false
  prevState := 0
  regs := []
  events := []
  truncated := []
  dark := darkSections s

/-- A dump is to be written (step 2 of R401): its slot is chosen, that of the oldest dump held where none is free (R403). -/
def beginDump (s : State) : State :=
  let x := s.dumps
  let full := decide (64 ≤ x.held.length)
  { s with dumps := { x with writing := true, held := if full then x.held.drop 1 else x.held, overwritten := x.overwritten || full } }

/-- A bit of GLB_FATAL_STATUS is set: GLB_FATAL is recorded; the dump sequence starts unless one is under way or the device has stopped; a
commit that runs goes on. Once a dump has ended, the commit is not made again (R158), and another dump is written (R401). -/
def setFatal (s : State) (k : Nat) : State :=
  if bitOf (hwGet s Reg.GLB_FATAL_STATUS) k then s else
  let s := raise s Reg.GLB_FATAL_STATUS k
  let s := evt s Ev.GLB_FATAL noInst (hwGet s Reg.GLB_FATAL_STATUS).toNat
  if s.dumps.trigger.isSome ∨ s.glb.state = .stopped then s
  else if s.krf.done then
    (if s.glb.state = .dump then beginDump { s with dumps := { s.dumps with trigger := some (dumpTrigger s) } } else s)
  else startCommit { s with dumps := { s.dumps with trigger := some (dumpTrigger s) } } .fatal

end Sys2Proof.Machine
end

