-- ==== Sys2Proof/Machine/CacheOps.lean ====
section
/-! DEFINITION. Shared operations on the line caches and the prefetch side buffers (chapter 6). -/

namespace Sys2Proof.Machine

/-- Number of a requester class (R170). -/
def Class.num : Class → Nat
  | .hrd => 0 | .lkr => 1 | .qrd => 2 | .ctr => 3 | .kfetch => 4 | .pref => 5 | .drain => 6 | .fold => 7 | .scrub => 8
  | .move => 9 | .rekey => 10 | .rebuild => 11

/-- Way mask of a class; a class without one places nothing (R170). -/
def wayMask (s : State) : Class → Nat
  | .hrd => cfgFld s Reg.RDP_WAYMASK_HRD 0 48
  | .lkr => cfgFld s Reg.RDP_WAYMASK_LKR 0 48
  | .qrd => cfgFld s Reg.RDP_WAYMASK_QRD 0 48
  | .ctr => cfgFld s Reg.RDP_WAYMASK_CTR 0 48
  | _ => 0

/-- Classes whose reads the RDP counters count (R194). -/
def Class.counted : Class → Bool
  | .hrd | .lkr | .qrd | .ctr => true
  | _ => false

/-- RDP_CTRL.CACHE_EN. -/
def cacheOn (s : State) : Bool := cfgBit s Reg.RDP_CTRL 0

/-- The valid ways of a channel. -/
def waysOf (s : State) (ch : Nat) : FMap CacheEntry := frange s.rdp.cache (48 * ch) (48 * ch + 48)

/-- The entry of a sector, with its key (R171). -/
def cacheFind (s : State) (lsa : Nat) : Option (Nat × CacheEntry) :=
  (waysOf s (lsaChannel lsa)).find? fun e => e.2.lsa.toNat == lsa

/-- The side buffer of a channel, oldest entry first. -/
def sideOf (s : State) (ch : Nat) : List SideEntry := fgetD s.rdp.side ch []

/-- The side-buffer entry of a sector. -/
def sideFind (s : State) (lsa : Nat) : Option SideEntry := (sideOf s (lsaChannel lsa)).find? fun e => e.lsa.toNat == lsa

/-- Change the read path. -/
def modRdp (s : State) (f : Rdp → Rdp) : State := { s with rdp := f s.rdp }

/-- Store a side buffer. -/
def putSide (s : State) (ch : Nat) (l : List SideEntry) : State :=
  modRdp s fun r => { r with side := fputD r.side ch [] l }

/-- Store a cache entry. -/
def putEntry (s : State) (key : Nat) (e : CacheEntry) : State := modRdp s fun r => { r with cache := fput r.cache key e }

/-- An entry is used: it becomes the most recently used one. -/
def touchEntry (s : State) (key : Nat) (e : CacheEntry) : State :=
  modRdp s fun r => { r with cache := fput r.cache key { e with used := r.clock + 1 }, clock := r.clock + 1 }

/-- Order of use of a way: an empty way counts as least recently used, then the entry whose use lies furthest back. A way that is
locked or pinned cannot be taken (R171). -/
def wayAge (ways : FMap CacheEntry) (key : Nat) : Option Nat :=
  match fget ways key with
  | none => some 0
  | some e => if e.hold = .ordinary then some (e.used + 1) else none

/-- The way a new sector takes among those of a mask: the least recently used one that may be taken, the lowest among equals. -/
def pickWay (ways : FMap CacheEntry) (ch mask : Nat) : Option Nat :=
  ((List.range 48).foldl (fun (best : Option (Nat × Nat)) w =>
    if mask / 2 ^ w % 2 = 1 then
      match wayAge ways (48 * ch + w), best with
      | none, b => b
      | some a, none => some (a, w)
      | some a, some (b, v) => if a < b then some (a, w) else some (b, v)
    else best) none).map (·.2)

/-- A read of a class places its sector, if its mask offers a way (R171). -/
def cachePlace (s : State) (mask lsa : Nat) (data : Sector) (hold : Hold) : State :=
  let ch := lsaChannel lsa
  match pickWay (waysOf s ch) ch mask with
  | none => s
  | some w =>
    modRdp s fun r => { r with cache := fput r.cache (48 * ch + w) ⟨BitVec.ofNat 32 lsa, data, hold, r.clock + 1⟩,
                               clock := r.clock + 1 }

/-- A medium read of a class that ended well places its sector (R171), unless the caches are off (R194). -/
def cacheFill (s : State) (cls : Class) (lsa : Nat) (data : Sector) : State :=
  if cacheOn s ∧ (cacheFind s lsa).isNone then cachePlace s (wayMask s cls) lsa data .ordinary else s

/-- Prefetched sectors leave the side buffer of a channel unused (R179). -/
def wasted (s : State) (ch n : Nat) : State :=
  if n = 0 then s else pmcCount (hwAdd s Reg.RDP_PREF_WASTED n) 0x304 (some ch) n

/-- A prefetched sector enters the side buffer, whose oldest entry makes room (R178). -/
def sidePush (s : State) (lsa : Nat) (data : Sector) : State :=
  let ch := lsaChannel lsa
  let l := sideOf s ch ++ [⟨BitVec.ofNat 32 lsa, data⟩]
  wasted (putSide s ch (l.drop (l.length - 8))) ch (l.length - 8)

/-- A write reaches its visibility point: the entries of its sector take its bytes (R169). -/
def cacheWrite (s : State) (lsa : Nat) (data : Sector) : State :=
  let s := match cacheFind s lsa with
    | none => s
    | some (k, e) => hwAdd (putEntry s k { e with data := data }) Reg.RDP_WRITE_UPDATES 1
  match sideFind s lsa with
  | none => s
  | some _ =>
    let ch := lsaChannel lsa
    hwAdd (putSide s ch ((sideOf s ch).map fun e => if e.lsa.toNat = lsa then { e with data := data } else e))
      Reg.RDP_WRITE_UPDATES 1

/-- A read's probe of the cache and the side buffer of its channel: the sector, if one of them holds it, and the state after the hit.
A hit of a side-buffer entry moves it into the cache under the class's mask (R171, R179). -/
def cacheProbe (s : State) (cls : Class) (lsa : Nat) : Option (Sector × State) :=
  let ch := lsaChannel lsa
  let count (s : State) : State := if cls.counted then hwAdd s Reg.RDP_HITS 1 else s
  match cacheFind s lsa with
  | some (k, e) => some (e.data, pmcCount (count (touchEntry s k e)) 0x300 (some ch) 1)
  | none =>
    match sideFind s lsa with
    | none => none
    | some e =>
      let s := putSide s ch ((sideOf s ch).filter fun x => x.lsa.toNat != lsa)
      let s := pmcCount (hwAdd (count s) Reg.RDP_PREF_USED 1) 0x301 (some ch) 1
      some (e.data, cachePlace s (wayMask s cls) lsa e.data .ordinary)

/-- A range invalidation drops the entries of the sectors lo to hi: every ordinary and pinned one, every side-buffer entry, and the
locked ones too when `locked` says so (R175). -/
def invalidate (s : State) (lo hi : Nat) (locked : Bool) : State :=
  let hit (n : Nat) : Bool := decide (lo ≤ n) && decide (n ≤ hi)
  let s := modRdp s fun r => { r with cache := r.cache.filter fun e =>
    !(hit e.2.lsa.toNat && (locked || decide (e.2.hold ≠ .locked))) }
  s.rdp.side.foldl (fun s e =>
    let l := sideOf s e.1
    let keep := l.filter fun x => !hit x.lsa.toNat
    wasted (putSide s e.1 keep) e.1 (l.length - keep.length)) s

/-- The entries of a sector are dropped because it is poisoned; a locked or pinned one is reported (R174). -/
def cacheDrop (s : State) (lsa : Nat) : State :=
  let s := match cacheFind s lsa with
    | none => s
    | some (k, e) =>
      let s := modRdp s fun r => { r with cache := fdel r.cache k }
      if e.hold = .ordinary then s
      else evt (raise s Reg.RDP_INT_STATUS 3) Ev.RDP_LOCK_DROPPED noInst (lsa * 256)
  match sideFind s lsa with
  | none => s
  | some _ =>
    let ch := lsaChannel lsa
    wasted (putSide s ch ((sideOf s ch).filter fun x => x.lsa.toNat != lsa)) ch 1

/-- The locked and pinned entries of a region are dropped because it became LOST, each reported (R174). -/
def dropHeld (s : State) (r : Nat) : State :=
  (s.rdp.cache.filter fun e => lsaRegion e.2.lsa.toNat == r && decide (e.2.hold ≠ .ordinary)).foldl
    (fun s e => cacheDrop s e.2.lsa.toNat) s

end Sys2Proof.Machine
end

