-- ==== Sys2Proof/Machine/Crypto.lean ====
section
/-! DEFINITION. The algorithms the manual names by their standards: AES-256 (FIPS 197), GCM (SP 800-38D) as R283 uses it, the KW key
wrap (SP 800-38F) of R294, SHA-384 (FIPS 180-4) and CRC32 (IEEE 802.3). PRESUMED from those standards (log entry 5). Blocks are numbers of 128 bits whose
most significant byte is the first. -/

namespace Sys2Proof.Machine

/-! ### AES-256 -/

/-- The S-box, 32 entries to a row, entry 0 of a row in its low byte. -/
def sboxRows : List Nat :=
  [0xC072A49CAFA2D4ADF04759FA7DC982CA76ABD7FE2B670130C56F6BF27B777C63,
   0x75B227EBE28012079A059618C323C7041531D871F1E5A534CCF73F362693FDB7,
   0xCF584C4A39BECB6A5BB1FC20ED00D153842FE329B3D63B52A05A6E1B1A2C8309,
   0xD2F3FF1021DAB6BCF5389D928F40A351A89F3C507F02F94585334D43FBAAEFD0,
   0xDB0B5EDE14B8EE4688902A22DC4F816073195D643D7EA7C41744975FEC130CCD,
   0x08AE7A65EAF4566CA94ED58D6D37C8E779E4959162ACD3C25C2406490A3A32E0,
   0x9E1DC186B95735610EF6034866B53E708A8BBD4B1F74DDE8C6B4A61C2E2578BA,
   0x16BB54B00F2D99416842E6BF0D89A18CDF2855CEE9871E9B948ED9691198F8E1]

/-- The inverse S-box, laid out as the S-box. -/
def invSboxRows : List Nat :=
  [0xCBE9DEC444438E3487FF2F9B8239E37CFBD7F3819EA340BF38A53630D56A0952,
   0x25D18B6D49A25B76B224D92866A12E084EC3FA420B954CEE3D23C2A632947B54,
   0x849D8DA75746155EDAB9EDFD5048706C92B6655DCC5CA4D41698688664F6F872,
   0x6B8A130103BDAFC1020F3FCA8F1E2CD00645B3B80558E4F70AD3BC8C00ABD890,
   0x6EDF751CE837F9E28535ADE72274AC9673E6B4F0CECFF297EADC674F4111913A,
   0xF45ACD78FEC0DB9A2079D2C64B3E56FC1BBE18AA0E62B76F89C5291D711AF147,
   0xEF9CC9939F7AE52D0D4AB519A97F51605FEC8027591012B131C7078833A8DD1F,
   0x7D0C2155631469E126D677BA7E042B17619953833CBBEBC8B0F52AAE4D3BE0A0]

/-- An entry of a table of 256 bytes. -/
def tableByte (rows : List Nat) (b : Nat) : Nat := rows.getD (b / 32) 0 / 2 ^ (8 * (b % 32)) % 256

/-- Doubling in GF(2^8). -/
def xtime (b : Nat) : Nat := (if b < 128 then 2 * b else (2 * b) ^^^ 0x11B) % 256

/-- Product in GF(2^8) with a factor of four bits. -/
def gmul (k b : Nat) : Nat :=
  let b2 := xtime b
  let b4 := xtime b2
  let b8 := xtime b4
  (if k % 2 = 1 then b else 0) ^^^ (if k / 2 % 2 = 1 then b2 else 0) ^^^ (if k / 4 % 2 = 1 then b4 else 0) ^^^
    (if k / 8 % 2 = 1 then b8 else 0)

/-- Byte i of a block, the first in its most significant byte. -/
def blockByte (x i : Nat) : Nat := x / 2 ^ (8 * (15 - i)) % 256

/-- A block from its bytes. -/
def blockOf (f : Nat → Nat) : Nat := (List.range 16).foldl (fun a i => a * 256 + f i % 256) 0

/-- SubBytes of a 32-bit word, by a table. -/
def subWord (w : Nat) : Nat := (List.range 4).foldl (fun a i => a + tableByte sboxRows (w / 2 ^ (8 * i) % 256) * 2 ^ (8 * i)) 0

/-- A word rotated left by one byte. -/
def rotWord (w : Nat) : Nat := w % 2 ^ 24 * 256 + w / 2 ^ 24

/-- The words of the key schedule, newest first: n more after those given. -/
def expand : Nat → List Nat → List Nat
  | 0, ws => ws
  | n + 1, ws =>
    let i := ws.length
    let t := ws.getD 0 0
    let t' := if i % 8 = 0 then subWord (rotWord t) ^^^ (2 ^ (i / 8 - 1) * 2 ^ 24)
              else if i % 8 = 4 then subWord t else t
    expand n ((ws.getD 7 0 ^^^ t') :: ws)

/-- The 15 round keys of a 256-bit key whose most significant byte is the first. -/
def roundKeys (key : Nat) : List Nat :=
  let ws := (expand 52 ((List.range 8).map fun i => key / 2 ^ (32 * i) % 2 ^ 32)).reverse
  (List.range 15).map fun r => (List.range 4).foldl (fun a i => a * 2 ^ 32 + ws.getD (4 * r + i) 0) 0

/-- SubBytes and ShiftRows. -/
def subShift (x : Nat) : Nat := blockOf fun k => tableByte sboxRows (blockByte x (k % 4 + 4 * ((k / 4 + k % 4) % 4)))

/-- The inverse of SubBytes and ShiftRows. -/
def invSubShift (x : Nat) : Nat := blockOf fun k => tableByte invSboxRows (blockByte x (k % 4 + 4 * ((k / 4 + 4 - k % 4) % 4)))

/-- A column mix by the coefficients of its first row. -/
def mixBy (c0 c1 c2 c3 x : Nat) : Nat :=
  blockOf fun k =>
    let b (j : Nat) := blockByte x (k / 4 * 4 + (k % 4 + j) % 4)
    gmul c0 (b 0) ^^^ gmul c1 (b 1) ^^^ gmul c2 (b 2) ^^^ gmul c3 (b 3)

/-- The rounds after the first key: each round but the last mixes columns. -/
def encRounds : List Nat → Nat → Nat
  | [], x => x
  | [k], x => subShift x ^^^ k
  | k :: ks, x => encRounds ks (mixBy 2 3 1 1 (subShift x) ^^^ k)

/-- The rounds of decryption. -/
def decRounds : List Nat → Nat → Nat
  | [], x => x
  | [k], x => invSubShift x ^^^ k
  | k :: ks, x => decRounds ks (mixBy 14 11 13 9 (invSubShift x ^^^ k))

/-- AES-256 of a block. -/
def aesEnc (key x : Nat) : Nat :=
  match roundKeys key with
  | [] => x
  | k :: ks => encRounds ks (x ^^^ k)

/-- The inverse cipher. -/
def aesDec (key x : Nat) : Nat :=
  match (roundKeys key).reverse with
  | [] => x
  | k :: ks => decRounds ks (x ^^^ k)

/-! ### GCM -/

/-- One step of the product in GF(2^128): the block z, the multiplicand v, and one bit. -/
def ghashStep (x : Nat) (zv : Nat × Nat) (i : Nat) : Nat × Nat :=
  (if x / 2 ^ (127 - i) % 2 = 1 then zv.1 ^^^ zv.2 else zv.1,
   if zv.2 % 2 = 1 then (zv.2 / 2) ^^^ (0xE1 * 2 ^ 120) else zv.2 / 2)

/-- The product in GF(2^128). -/
def gfMul (x y : Nat) : Nat := ((List.range 128).foldl (ghashStep x) (0, y)).1

/-- GHASH of a list of blocks. -/
def ghash (h : Nat) (bs : List Nat) : Nat := bs.foldl (fun y b => gfMul (y ^^^ b) h) 0

/-- A key as bytes (byte 0 in its low bits) as the number AES takes. -/
def keyNat (k : BitVec 256) : Nat := beNat (bytesOf k 32)

/-- Block i of a sector. -/
def sectorBlock (d : Sector) (i : Nat) : Nat := beNat (bytesOf (d.extractLsb' (128 * i) 128) 16)

/-- A block as the 128 bits a sector holds. -/
def blockBits (b : Nat) : BitVec 2048 := BitVec.ofNat 2048 (leNat (beBytes 16 b))

/-- J0 for an IV of 128 bits: GHASH of the IV and of its length (SP 800-38D). -/
def gcmJ0 (h iv : Nat) : Nat := ghash h [iv, 128]

/-- The counter block k steps after J0: its low 32 bits count modulo 2^32. -/
def gcmCtr (j0 k : Nat) : Nat := j0 / 2 ^ 32 * 2 ^ 32 + (j0 % 2 ^ 32 + k) % 2 ^ 32

/-- The key stream of a sector: 16 blocks. -/
def keyStream (key : BitVec 256) (iv : Nat) : Sector :=
  let k := keyNat key
  let j0 := gcmJ0 (aesEnc k 0) iv
  (List.range 16).foldl (fun a i => a ||| (blockBits (aesEnc k (gcmCtr j0 (i + 1))) <<< (128 * i))) 0

/-- The first 64 bits of the GCM tag over 24 bytes of associated data and a sector of ciphertext, byte 0 in the low bits. -/
def gcmTag (key : BitVec 256) (iv : Nat) (aad : List Byte) (c : Sector) : Word64 :=
  let k := keyNat key
  let h := aesEnc k 0
  let blocks := [beAt aad 0 16, beAt aad 16 16] ++ (List.range 16).map (sectorBlock c) ++ [192 * 2 ^ 64 + 2048]
  let t := ghash h blocks ^^^ aesEnc k (gcmJ0 h iv)
  wordOf 64 (beBytes 8 (t / 2 ^ 64))

/-- The key check value of a key: the first 3 bytes of AES-256 of a zero block, the first in the low byte (R294). -/
def kcv (key : BitVec 256) : Nat := leNat ((beBytes 16 (aesEnc (keyNat key) 0)).take 3)

/-! ### KW -/

/-- One step of the unwrap: A and the semiblocks R1 to R4, at step t on semiblock i. -/
def kwStep (k : Nat) (x : Nat × List Nat) (t : Nat) : Nat × List Nat :=
  let i := (t - 1) % 4
  let b := aesDec k ((x.1 ^^^ t) * 2 ^ 64 + x.2.getD i 0)
  (b / 2 ^ 64, x.2.set i (b % 2 ^ 64))

/-- Unwrap of a 40-byte value: the 32-byte key, if the integrity check holds. -/
def kwUnwrap (kek : BitVec 256) (w : List Byte) : Option (BitVec 256) :=
  let r := ((List.range 24).reverse.map (· + 1)).foldl (kwStep (keyNat kek))
    (beAt w 0 8, [beAt w 8 8, beAt w 16 8, beAt w 24 8, beAt w 32 8])
  if r.1 = 0xA6A6A6A6A6A6A6A6 then some (wordOf 256 (r.2.flatMap (beBytes 8))) else none

/-! ### SHA-384 (FIPS 180-4) -/

/-- The round constants, four to a row, the first of a row in its low 64 bits. -/
def shaRows : List Nat :=
  [0xE9B5DBA58189DBBCB5C0FBCFEC4D3B2F7137449123EF65CD428A2F98D728AE22,
   0xAB1C5ED5DA6D8118923F82A4AF194F9B59F111F1B605D0193956C25BF348B538,
   0x550C7DC3D5FFB4E2243185BE4EE4B28C12835B0145706FBED807AA98A3030242,
   0xC19BF174CF6926949BDC06A725C7123580DEB1FE3B1696B172BE5D74F27B896F,
   0x240CA1CC77AC9C650FC19DC68B8CD5B5EFBE4786384F25E3E49B69C19EF14AD2,
   0x76F988DA831153B55CB0A9DCBD41FBD44A7484AA6EA6E4832DE92C6F592B0275,
   0xBF597FC7BEEF0EE4B00327C898FB213FA831C66D2DB43210983E5152EE66DFAB,
   0x142929670A0E6E7006CA6351E003826FD5A79147930AA725C6E00BF33DA88FC2,
   0x53380D139D95B3DF4D2C6DFC5AC42AED2E1B21385C26C92627B70A8546D22FFC,
   0x92722C851482353B81C2C92E47EDAEE6766A0ABB3C77B2A8650A73548BAF63DE,
   0xC76C51A30654BE30C24B8B70D0F89791A81A664BBC423001A2BFE8A14CF10364,
   0x106AA07032BBD1B8F40E35855771202AD69906245565A910D192E819D6EF5218,
   0x34B0BCB5E19B48A82748774CDF8EEB991E376C085141AB5319A4C116B8D2D0C8,
   0x682E6FF3D6B2B8A35B9CCA4F7763E3734ED8AA4AE3418ACB391C0CB3C5C95A63,
   0x8CC702081A6439EC84C87814A1F0AB7278A5636F43172F60748F82EE5DEFB2FC,
   0xC67178F2E372532BBEF9A3F7B2C67915A4506CEBDE82BDE990BEFFFA23631E28,
   0xF57D4F7FEE6ED178EADA7DD6CDE0EB1ED186B8C721C0C207CA273ECEEA26619C,
   0x1B710B35131C471B113F9804BEF90DAE0A637DC5A2C898A606F067AA72176FBA,
   0x431D67C49C100D4C3C9EBE0A15C9BEBC32CAAB7B40C7249328DB77F523047D84,
   0x6C44198C4A4758175FCB6FAB3AD6FAEC597F299CFC657E2A4CC5D4BECB3E42B6]

/-- The round constants. -/
def shaConsts : List (BitVec 64) :=
  shaRows.flatMap fun r => (List.range 4).map fun j => BitVec.ofNat 64 (r / 2 ^ (64 * j))

/-- The initial hash value of SHA-384. -/
def shaStart : List (BitVec 64) :=
  [0xCBBB9D5DC1059ED8, 0x629A292A367CD507, 0x9159015A3070DD17, 0x152FECD8F70E5939, 0x67332667FFC00B31, 0x8EB44A8768581511, 0xDB0C2E0D64F98FA7, 0x47B5481DBEFA4FA4]

/-- The padding of a message: a one bit, zeros up to 112 bytes of a block of 128, and the length in bits. -/
def shaPad (m : List Byte) : List Byte :=
  m ++ 0x80 :: List.replicate ((239 - m.length % 128) % 128) 0 ++ beBytes 16 (8 * m.length)

/-- The words of a block. -/
def shaWords (b : List Byte) : List (BitVec 64) :=
  (List.range 16).map fun i => BitVec.ofNat 64 (beNat (slice b (8 * i) 8))

/-- The message schedule goes on by a word; the list holds the last 16, the newest last. -/
def shaNext (w : List (BitVec 64)) : BitVec 64 :=
  let a := w.getD 14 0
  let b := w.getD 1 0
  (a.rotateRight 19 ^^^ a.rotateRight 61 ^^^ (a >>> 6)) + w.getD 9 0 + (b.rotateRight 1 ^^^ b.rotateRight 8 ^^^ (b >>> 7)) + w.getD 0 0

/-- A round: the eight working variables, and the schedule's last 16 words. -/
def shaRound (s : List (BitVec 64) × List (BitVec 64)) (k : BitVec 64) : List (BitVec 64) × List (BitVec 64) :=
  let v (i : Nat) : BitVec 64 := s.1.getD i 0
  let e := v 4
  let a := v 0
  let t1 := v 7 + (e.rotateRight 14 ^^^ e.rotateRight 18 ^^^ e.rotateRight 41) + ((e &&& v 5) ^^^ (~~~ e &&& v 6)) + k + s.2.getD 0 0
  let t2 := (a.rotateRight 28 ^^^ a.rotateRight 34 ^^^ a.rotateRight 39) + ((a &&& v 1) ^^^ (a &&& v 2) ^^^ (v 1 &&& v 2))
  ([t1 + t2, a, v 1, v 2, v 3 + t1, e, v 5, v 6], s.2.drop 1 ++ [shaNext s.2])

/-- A block is taken in. -/
def shaBlock (h : List (BitVec 64)) (b : List Byte) : List (BitVec 64) :=
  (h.zip (shaConsts.foldl shaRound (h, shaWords b)).1).map fun e => e.1 + e.2

/-- SHA-384 of a message: 48 bytes. -/
def sha384 (m : List Byte) : List Byte :=
  let p := shaPad m
  (((List.range (p.length / 128)).foldl (fun h k => shaBlock h (slice p (128 * k) 128)) shaStart).take 6).flatMap fun w =>
    beBytes 8 w.toNat

/-! ### CRC32 -/

/-- One byte of the CRC, least significant bit first. -/
def crcByte (c : Nat) (b : Byte) : Nat :=
  (List.range 8).foldl (fun c _ => if c % 2 = 1 then (c / 2) ^^^ 0xEDB88320 else c / 2) (c ^^^ b.toNat)

/-- CRC32 (IEEE 802.3) of a list of bytes. -/
def crc32 (l : List Byte) : Nat := l.foldl crcByte 0xFFFFFFFF ^^^ 0xFFFFFFFF

end Sys2Proof.Machine
end

