-- ==== Sys2Proof/Machine/SealOps.lean ====
section
/-! DEFINITION. Where a sector lies in the medium (levelling and retirement, R213, R216) and how it is sealed and opened (R283 to
R291). -/

namespace Sys2Proof.Machine

/-! ### Place of a sector -/

/-- Sectors of a levelling domain. -/
abbrev domainSectors : Nat := 1048576

/-- Physical slots of a levelling domain, its gap included (R213). -/
abbrev domainSlots : Nat := 1048577

/-- A levelling domain as shipped (R213). -/
def Domain.initial : Domain := { start := 0, gap := domainSectors, key := 0, programs := 0, due := 0 }

/-- Levelling domain of a sector: its region's share of its channel. -/
def domainOf (lsa : Nat) : Nat := lsaRegion lsa * 8 + lsaChunk lsa % 8

/-- The state of a domain. -/
def domAt (s : State) (d : Nat) : Domain := fgetD s.med.domains d Domain.initial

/-- Store a domain. -/
def putDom (s : State) (d : Nat) (v : Domain) : State :=
  modMed s fun m => { m with domains := fputD m.domains d Domain.initial v }

/-- Logical index of a sector in its domain (R213). -/
def logicalIndex (lsa : Nat) : Nat := lsaChunk lsa / 8 * 16 + lsa % 16

/-- Physical slot of a logical index in a domain (R213). -/
def levelSlot (d : Domain) (i : Nat) : Nat :=
  let l := (Config.permute d.key ⟨i % 1048576, Nat.mod_lt _ (by decide)⟩).val
  let p := (l + d.start) % domainSectors
  if d.gap ≤ p then p + 1 else p

/-- Physical slot of a sector after levelling, numbered over all domains. -/
def levelledSlot (s : State) (lsa : Nat) : Nat := domainOf lsa * domainSlots + levelSlot (domAt s (domainOf lsa)) (logicalIndex lsa)

/-- 1 MiB physical block of a slot. -/
def blockOfSlot (n : Nat) : Nat := n / domainSlots * 257 + n % domainSlots / 4096

/-- Place of a slot within its block. -/
def slotInBlock (n : Nat) : Nat := n % domainSlots % 4096

/-- First number of the spare slots that replace whole blocks. -/
abbrev spareBlockBase : Nat := 3968 * domainSlots

/-- First number of the spare slots that replace single slots. -/
abbrev spareSectorBase : Nat := spareBlockBase + 64 * 512 * 4096

/-- A slot of a block that is being retired lies in the spare block already. -/
def BlockMove.has (j : BlockMove) (n : Nat) : Bool :=
  j.block == blockOfSlot n && (decide (slotInBlock n < j.next) || j.ahead.contains (slotInBlock n))

/-- Where a levelled slot lies after retirement: the sector map first, then a block retirement under way, then the block map (R216, R217). -/
def retiredSlot (m : Medium) (n : Nat) : Nat :=
  match fget m.sectorMap n, m.moves.find? (·.has n), fget m.blockMap (blockOfSlot n) with
  | some k, _, _ => k
  | none, some j, _ => spareBlockBase + j.spare * 4096 + slotInBlock n
  | none, none, some b => spareBlockBase + b * 4096 + slotInBlock n
  | none, none, none => n

/-- First sector of the reserved area: its levelling domains follow those of user space (R213; log entry 8). -/
abbrev innerBase : Nat := 0xF0000000

/-- The sector is one of the reserved area. -/
def isInner (lsa : Nat) : Bool := decide (innerBase ≤ lsa)

/-- What the metadata of a sector hold as its LSA: PA[39:8] in user space, the internal sector number in the reserved area (R199, R285). -/
def sectorNumber (lsa : Nat) : Nat := if isInner lsa then lsa - innerBase else lsa

/-- First of the numbers that name the slots of the spare pool: a channel's 16 GiB are its user space, its reserved area and its 512 MiB of
spares (R211, R216). -/
abbrev poolBase : Nat := 0xF8000000

/-- The physical slot that holds a sector, or that a number of the spare pool names. -/
def placeOf (s : State) (lsa : Nat) : Nat :=
  if poolBase ≤ lsa then spareBlockBase + lsaChannel lsa * 2097152 + (lsaRegion lsa / 8 - 62) * 1048576 + logicalIndex lsa
  else retiredSlot s.med (levelledSlot s lsa)

/-- The sector whose levelled slot a domain's physical slot is. -/
def lsaOfSlot (d n : Nat) (v : Domain) : Nat :=
  let p := if v.gap < n then n - 1 else n
  let l := (p + domainSectors - v.start % domainSectors) % domainSectors
  let i := ((Config.permute v.key).symm ⟨l % 1048576, Nat.mod_lt _ (by decide)⟩).val
  d / 8 * regionSectors + (i / 16 * 8 + d % 8) * 16 + i % 16

/-- What a physical slot holds as formatted: MAJOR 0 (R286). -/
def formattedCell (n : Nat) : Cell where
  cipher := 0
  grain := 0
  tag := 0
  minor := 0
  epoch := 0
  session := 0
  lsa := Config.formatLsa n
  poison := false
  commit := false
  major := 0

/-- The contents of a physical slot. -/
def cellIn (s : State) (n : Nat) : Cell := (fget s.med.cells n).getD (formattedCell n)

/-- The contents of the slot that holds a sector. -/
def cellAt (s : State) (lsa : Nat) : Cell := cellIn s (placeOf s lsa)

/-- Store the contents of a physical slot. -/
def putCell (s : State) (n : Nat) (c : Cell) : State := modMed s fun m => { m with cells := fput m.cells n c }

/-! ### Sealing -/

/-- The IV of a user sector (R283). -/
def ivOf (nonce lsa major minor : Nat) : Nat :=
  nonce % 2 ^ 32 * 2 ^ 96 + lsa % 2 ^ 32 * 2 ^ 64 + major % 2 ^ 44 * 2 ^ 20 + minor % 2 ^ 20

/-- Metadata bytes 8 to 31 of a sector (R199, R284): the associated data. -/
def metaBytes (c : Cell) : List Byte :=
  leBytes 3 c.minor.toNat ++ leBytes 2 c.epoch.toNat ++ leBytes 1 c.session.toNat ++ leBytes 4 c.lsa.toNat ++
    [BitVec.ofNat 8 (c.poison.toNat + 2 * c.commit.toNat)] ++ leBytes 6 c.major.toNat ++ List.replicate 7 0

/-- A sector sealed under a key (R283). -/
def sealCell (key : BitVec 256) (nonce : Nat) (c : Cell) (data : Sector) : Cell :=
  let iv := ivOf nonce c.lsa.toNat c.major.toNat c.minor.toNat
  let cipher := data ^^^ keyStream key iv
  { c with cipher := cipher, tag := gcmTag key iv (metaBytes c) cipher }

/-- The 32 metadata bytes of a sector (R199). -/
def metadata (c : Cell) : List Byte := bytesOf c.tag 8 ++ metaBytes c

/-- The 144 data and metadata symbols of a codeword, 16 bits each with the first byte low (R11, R196). -/
def dataSymbols (c : Cell) : List (BitVec 16) :=
  ((List.range 128).map fun i => c.cipher.extractLsb' (16 * i) 16) ++
    (List.range 16).map fun i => BitVec.ofNat 16 (leAt (metadata c) (2 * i) 2)

/-- Symbol `place` of the nine that a die holds of a codeword: eight of ciphertext and one of metadata on a data die, check symbols on dies
16 and 17 (R196). -/
def dieSymbol (c : Cell) (die : Fin 18) (place : Fin 9) : BitVec 16 :=
  if die.val < 16 then (dataSymbols c).getD (if place.val < 8 then 8 * die.val + place.val else 128 + die.val) 0
  else Config.checkSymbol (dataSymbols c) (9 * (die.val - 16) + place.val)

/-- The grain mark that goes with an EPOCH and a SESSION (R200). -/
def grainOf (epoch session : Nat) : BitVec 24 := BitVec.ofNat 24 (session % 256 * 65536 + epoch % 65536)

/-- The plaintext of a sealed sector. -/
def openData (key : BitVec 256) (nonce : Nat) (c : Cell) : Sector :=
  c.cipher ^^^ keyStream key (ivOf nonce c.lsa.toNat c.major.toNat c.minor.toNat)

/-- The tag of a sealed sector verifies. -/
def tagOk (key : BitVec 256) (nonce : Nat) (c : Cell) : Bool :=
  c.tag == gcmTag key (ivOf nonce c.lsa.toNat c.major.toNat c.minor.toNat) (metaBytes c) c.cipher

/-- The key a slot holds. -/
def slotKey (s : State) (k : Option (Fin 64)) : Option (BitVec 256) :=
  match k with
  | none => none
  | some i => fget s.sealing.keys i.val

/-- The key under which a region opens a sector of a stored MAJOR; `none`: the sector is stale (R287). -/
def keyFor (s : State) (r : Region) (major : BitVec 64) : Option (BitVec 256) :=
  if major = r.major then slotKey s r.slot
  else match r.rekey with
    | some k => if major = k.oldMajor then slotKey s (some k.oldSlot) else none
    | none => none

/-- The key that opens what a sector's slot holds: the internal key in the reserved area, once the sector has been programmed (R285); in user
space the key that its MAJOR names, `none` for a stale sector (R287). -/
def openKey (s : State) (lsa : Nat) : Option (BitVec 256) :=
  if isInner lsa then (if fhas s.med.cells (placeOf s lsa) then some Config.internalKey else none)
  else keyFor s (regionAt s (lsaRegion lsa)) (cellAt s lsa).major

/-- NONCE of a sector's IV (R283, R285). -/
def nonceOf (s : State) (lsa : Nat) : Nat := if isInner lsa then 0 else (regionAt s (lsaRegion lsa)).nonce.toNat

/-- A sector is stale: no key of its region opens it (R287). -/
def isStale (s : State) (lsa : Nat) : Bool := (openKey s lsa).isNone

/-- The medium holds a poison marker for a sector, or its place was found bad and its marker is to come (R76, R216). -/
def markedInMedium (s : State) (lsa : Nat) : Bool := fhas s.med.marks lsa || ((cellAt s lsa).poison && !isStale s lsa)

/-- The device epoch (R201). -/
def epochNow (s : State) : Nat := s.time.toNat / 65536000000 % 65536

/-- The device session (R201). -/
def sessionNow (s : State) : Nat := s.glb.powerOns.toNat % 256

/-- A sector of the internal area, sealed under the internal key as program number `count` (R285). -/
def innerCell (s : State) (lsa : BitVec 32) (count : Nat) (commit : Bool) (data : Option Sector) : Cell :=
  sealCell Config.internalKey 0
    { cipher := 0, grain := grainOf (epochNow s) (sessionNow s), tag := 0, minor := BitVec.ofNat 20 count,
      epoch := BitVec.ofNat 16 (epochNow s), session := BitVec.ofNat 8 (sessionNow s), lsa := lsa, poison := data.isNone,
      commit := commit, major := BitVec.ofNat 64 (count / 2 ^ 20) } (data.getD 0)

/-- n programs of the reserved area take the next internal program counts, which are reserved ahead in steps of 2^20 (R285). -/
def takeCounts (s : State) (n : Nat) : State :=
  { s with sealing := { s.sealing with
    internal := s.sealing.internal + BitVec.ofNat 64 n
    reserved := if s.sealing.reserved.toNat < s.sealing.internal.toNat + n
      then BitVec.ofNat 64 ((s.sealing.internal.toNat + n + 1048575) / 1048576 * 1048576) else s.sealing.reserved } }

/-- n programs land in a levelling domain that takes a gap step for every `psi` of them (R214). -/
def domPrograms (s : State) (d psi n : Nat) : State :=
  let v := domAt s d
  putDom s d { v with programs := (v.programs + n) % psi, due := v.due + (v.programs + n) / psi }

/-- A sector of the internal area is opened: its bytes, or the marker it holds; `none` where its tag or its LSA is wrong. -/
def openInner (lsa : BitVec 32) (c : Cell) : Option (Option Sector) :=
  if c.lsa = lsa ∧ tagOk Config.internalKey 0 c then some (if c.poison then none else some (openData Config.internalKey 0 c)) else none

/-- What a read of a sector finds once it is decoded and opened. -/
inductive Opened where
  | data (d : Sector)
  /-- stale: zero bytes with OK (R287) -/
  | stale
  | poison
  | tagFail
  | lsaFail
  | uncorr
  deriving DecidableEq, Repr

/-- What the decoder makes of an array read (R197, R205): the ladder step that decoded (`none`: uncorrectable after step 7), the symbols
it corrected, the dies that show five or more of their symbols in error (R223), whether the grain-mark majority agrees with the decoded
EPOCH and SESSION (R200); and, as the medium gave them, whether its output is what was programmed, whether the sector is the one
asked for, and how the programs of the same step end. -/
structure Decoded where
  step     : Option (Fin 8)
  symbols  : Nat
  dies     : List (Fin 18)
  grainOk  : Bool
  faithful : Bool
  lsaOk    : Bool
  programs : List ProgramOutcome
  deriving DecidableEq, Repr

/-- A decode with nothing to correct. -/
def Decoded.clean : Decoded where
  step := some 0
  symbols := 0
  dies := []
  grainOk := true
  faithful := true
  lsaOk := true
  programs := []

/-- What an array read of a sector gives (R197 to R199, R285, R287): the key is chosen by the stored MAJOR; a stale sector is not checked;
any other has its LSA and its tag checked, a poison marker too. A place whose marker is to come, and a marker that does not decode, answer
as poisoned (R74, R206). -/
def openSector (s : State) (lsa : Nat) (out : Decoded) : Opened :=
  let c := cellAt s lsa
  if fhas s.med.marks lsa then .poison
  else if out.step = none then (if markedInMedium s lsa then .poison else .uncorr)
  else match openKey s lsa with
    | none => .stale
    | some k =>
      if !out.lsaOk ∨ c.lsa.toNat ≠ sectorNumber lsa then .lsaFail
      else if !out.faithful ∨ !tagOk k (nonceOf s lsa) c then .tagFail
      else if c.poison then .poison
      else .data (openData k (nonceOf s lsa) c)

/-- The plaintext a sector reads as, where it opens: stale sectors read as zero. -/
def Opened.bytes : Opened → Sector
  | .data d => d
  | _ => 0

/-- A failed check of the sealing engine is counted and reported (R287). -/
def sealFail (s : State) (cls : Class) (lsa : Nat) (isLsa : Bool) : State :=
  let s := hwSat s (if isLsa then Reg.SEAL_LSA_FAIL else Reg.SEAL_TAG_FAIL) 32 1
  let s := raise s Reg.SEAL_INT_STATUS isLsa.toNat
  let s := hwSet s Reg.SEAL_LAST_FAIL
    (fld (if isInner lsa then sectorNumber lsa else lsa * 256) 0 ||| flag isLsa 40 ||| flag (isInner lsa) 41 ||| fld cls.num 42 |||
      flag true 46)
  let s := evt s (if isLsa then Ev.SEAL_LSA_FAIL else Ev.SEAL_TAG_FAIL) (lsaChannel lsa) 0
  if isLsa then s else pmcCount s 0x803 (some (lsaChannel lsa)) 1

/-- The counts of an opening (R287, R307); a poison marker is not opened. -/
def openCount (s : State) (cls : Class) (lsa : Nat) : Opened → State
  | .data _ => pmcCount (hwAdd s Reg.SEAL_OPENS 1) 0x800 (some (lsaChannel lsa)) 1
  | .stale => pmcCount (hwAdd s Reg.SEAL_STALE_READS 1) 0x802 (some (lsaChannel lsa)) 1
  | .tagFail => sealFail s cls lsa false
  | .lsaFail => sealFail s cls lsa true
  | .poison | .uncorr => s

/-! ### The minor and the major of a program (R289 to R292, R303) -/

/-- The key, major and minor a program takes. -/
structure SealPlan where
  key     : BitVec 256
  major   : BitVec 64
  minor   : Nat
  /-- it is made under the old major of a live re-key -/
  old     : Bool
  /-- the ceiling of that major after the program -/
  ceiling : Nat
  deriving DecidableEq, Repr

/-- The minor of a program under a major, and the ceiling it leaves (R289, R290), by the metadata it goes on from: that of the slot it
overwrites, or of the source of a copy; `none` where it does not decode. -/
def minorUnder (c : Option Cell) (lsa : Nat) (major : BitVec 64) (ceiling : Nat) : Nat × Nat :=
  match c with
  | none => (ceiling + 1, ceiling + 4096)
  | some c =>
    if c.lsa.toNat = lsa then
      let m := if c.major = major then c.minor.toNat + 1 else 0
      (m, if ceiling < m then ceiling + 4096 else ceiling)
    else (ceiling + 1, ceiling + 4096)

/-- The largest minor (R289). -/
abbrev minorMax : Nat := 0xFFFFF

/-- The sector is exhausted under a major (R289). -/
def exhausted (c : Option Cell) (lsa : Nat) (major : BitVec 64) (ceiling : Nat) : Bool :=
  decide (minorMax < (minorUnder c lsa major ceiling).1)

/-- A program of a sector takes the new major of a live re-key (R303). -/
def takesNew (r : Region) (k : Rekey) (c : Option Cell) (lsa : Nat) : Bool :=
  decide (lsa % regionSectors < k.parting) || (c.any fun c => decide (c.major = r.major)) || exhausted c lsa k.oldMajor k.oldCeiling

/-- What a program of the reserved area takes: the internal key, and the next internal program count as MAJOR and MINOR (R285). -/
def innerPlan (s : State) : SealPlan :=
  let n := s.sealing.internal.toNat + 1
  ⟨Config.internalKey, BitVec.ofNat 64 (n / 2 ^ 20), n % 2 ^ 20, false, 0⟩

/-- The metadata of a sector's place, as far as it decodes. -/
def storedMeta (s : State) (lsa : Nat) : Option Cell := if fget s.med.marks lsa = some true then none else some (cellAt s lsa)

/-- What a program of a sector takes now when it overwrites, or copies, the cell `c`; `none` where the region holds no key. A program
after a re-key under the new major that finds the old one stored takes minor 0 (case 3 of R289). -/
def sealPlanAt (s : State) (lsa : Nat) (c : Option Cell) : Option SealPlan :=
  if isInner lsa then some (innerPlan s) else
  let r := regionAt s (lsaRegion lsa)
  let now : Option SealPlan :=
    (slotKey s r.slot).map fun key =>
      let m := minorUnder c lsa r.major r.ceiling
      ⟨key, r.major, m.1, false, m.2⟩
  match r.rekey with
  | none => now
  | some k =>
    if takesNew r k c lsa then now
    else (slotKey s (some k.oldSlot)).map fun key =>
      let m := minorUnder c lsa k.oldMajor k.oldCeiling
      ⟨key, k.oldMajor, m.1, true, m.2⟩

/-- What a program of a sector at its own place takes now. -/
def sealPlan (s : State) (lsa : Nat) : Option SealPlan := sealPlanAt s lsa (storedMeta s lsa)

/-- A program of a sector would need a minor that does not exist (R289). -/
def isExhausted (s : State) (lsa : Nat) : Bool := (sealPlan s lsa).any fun p => decide (minorMax < p.minor)

/-- A region is scheduled for a forced re-key; each trigger is reported (R291). -/
def forceRekey (s : State) (r : Nat) : State :=
  evt (raise (modRegion s r fun x => { x with forcedWait := true }) Reg.SEAL_INT_STATUS 4) Ev.SEAL_MINOR_FORCE noInst 0

/-- The cell that a program of a sector leaves (R199, R283): the data, or a poison marker. -/
def plannedCell (s : State) (lsa : Nat) (p : SealPlan) (data : Option Sector) : Cell :=
  sealCell p.key (nonceOf s lsa)
    { cipher := 0, grain := grainOf (epochNow s) (sessionNow s), tag := 0, minor := BitVec.ofNat 20 p.minor, epoch := BitVec.ofNat 16 (epochNow s),
      session := BitVec.ofNat 8 (sessionNow s), lsa := BitVec.ofNat 32 (sectorNumber lsa), poison := data.isNone, commit := false,
      major := p.major }
    (data.getD 0)

/-- A program at the medium is counted at its channel and at its sealing pipeline (R229, R307). -/
def countSeal (s : State) (ch n : Nat) : State :=
  let s := hwAdd (hwAdd s (Reg.MCH_PROGRAMS ch) n) Reg.SEAL_SEALS n
  pmcCount (pmcCount s 0x901 (some ch) n) 0x801 (some ch) n

/-- A sector of the reserved area has been programmed: sealed under the internal key with the next internal program count, and counted (R229,
R285, R307). -/
def landInner (s : State) (lsa : Nat) (data : Option Sector) : State :=
  let c := plannedCell s lsa (innerPlan s) data
  let s := modMed (takeCounts s 1) fun m => { m with cells := fput m.cells (placeOf s lsa) c, marks := fdel m.marks lsa }
  countSeal s (lsaChannel lsa) 1

/-- ψ of a region (R214). -/
def psi (r : Region) : Nat :=
  match r.levelRate.toNat with
  | 1 => 16
  | 2 => 128
  | _ => 64

/-- A drain, fold or scrub program counts toward ψ of its domain; at ψ a gap step is due (R214). The reserved area is levelled at FAST (log
entry 8). -/
def countPsi (s : State) (lsa : Nat) : State :=
  let d := domainOf lsa
  let v := domAt s d
  if (if isInner lsa then 16 else psi (regionAt s (lsaRegion lsa))) ≤ v.programs + 1 then putDom s d { v with programs := 0, due := v.due + 1 }
  else putDom s d { v with programs := v.programs + 1 }

/-- A sector of the reserved area has been programmed with new bytes, which counts toward ψ of its domain (R214). -/
def writeInner (s : State) (lsa : Nat) (d : Sector) : State := countPsi (landInner s lsa (some d)) lsa

/-- The number of a structure, and of an item of it, for the layout that is not exposed. -/
def Inner.code : Inner → Nat × Nat
  | .descriptor r => (0, r)
  | .deviceKey => (1, 0)
  | .keySlot k => (2, k)
  | .bitmap => (3, 0)
  | .intent => (4, 0)
  | .failures => (5, 0)
  | .retirement ch => (6, ch)
  | .ring n => (7, n)
  | .queue n => (8, n)
  | .table n => (9, n)
  | .firmware slot n => (10 + slot, n)
  | .dump n => (13, n)
  | .pool r => (15, r)

/-- The sector that holds a copy of an item (R227; log entry 8). -/
def Inner.place (i : Inner) (copy : Nat) : Nat := innerBase + (Config.innerSector i.code.1 i.code.2 copy).val

/-- Both copies of an item are programmed, with its bytes (R227). -/
def saveBytes (s : State) (i : Inner) (d : Sector) : State := writeInner (writeInner s (i.place 0) d) (i.place 1) d

/-- What is written to an item: the bytes of an image; else bytes in the format that the device keeps to itself (log entry 66). -/
def itemBytes (s : State) : Inner → Sector
  | .firmware slot n => wordOf 2048 (slice (s.fw.slots[slot % 3]'(Nat.mod_lt _ (by decide))).bytes (256 * n) 256)
  | i => Config.innerBytes i.code.1 i.code.2 s.sealing.internal.toNat

/-- Both copies of an item are programmed; below −58 °C they wait (R207). -/
def saveInner (s : State) (i : Inner) : State :=
  if s.thm.coldHold then
    (if s.sealing.toSave.contains i then s else { s with sealing := { s.sealing with toSave := s.sealing.toSave ++ [i] } })
  else saveBytes s i (itemBytes s i)

/-- What waited below −58 °C is programmed (R207). -/
def saveRule (s : State) : State :=
  if s.thm.coldHold then s
  else s.sealing.toSave.foldl saveInner { s with sealing := { s.sealing with toSave := [] } }

/-- A copy of an item is read back: opened, and counted as it opens or fails, with CLASS 0 (R287, R307; log entry 66). -/
def openCopy (s : State) (i : Inner) (copy : Nat) : Option Sector × State :=
  let r := openSector s (i.place copy) Decoded.clean
  (match r with | .data d => some d | _ => none, openCount s .hrd (i.place copy) r)

/-- An item is read back: from its first copy, or, where that does not open, from the second (R227). -/
def loadInner (s : State) (i : Inner) : Option Sector × State :=
  let a := openCopy s i 0
  if a.1.isSome then a else openCopy a.2 i 1

/-- The items of which a copy has been programmed are read back. -/
def loadItems (s : State) (l : List Inner) : State :=
  (l.filter fun i => fhas s.med.cells (placeOf s (i.place 0)) || fhas s.med.cells (placeOf s (i.place 1))).foldl
    (fun s i => (loadInner s i).2) s

/-- A program's ceiling is recorded in the region's descriptor; above the threshold it schedules a forced re-key, unless it belongs to
the old major of a re-key (R290, R291). A ceiling that rises is programmed in the two copies of the descriptor (R227). -/
def noteCeiling (s : State) (r : Nat) (p : SealPlan) : State :=
  let x := regionAt s r
  let was := if p.old then (x.rekey.map (·.oldCeiling)).getD 0 else x.ceiling
  let s := if was < p.ceiling then saveInner s (.descriptor r) else s
  let s := if p.old then setRegion s r { x with rekey := x.rekey.map fun k => { k with oldCeiling := p.ceiling } }
           else setRegion s r { x with ceiling := p.ceiling }
  if was < p.ceiling ∧ cfgFld s Reg.SEAL_MINOR_WARN 0 20 < p.ceiling ∧ !p.old then forceRekey s r else s

end Sys2Proof.Machine
end

