-- ==== Sys2Proof/Machine/ReqOps.lean ====
section
/-! DEFINITION. Shared operations on medium requests and on poison marks (chapters 2, 6, 7 and 9). -/

namespace Sys2Proof.Machine

/-! ### Requests at the arbiters (R170, R181) -/

/-- Rank of a class in a set of ranks (R183). -/
def rankIn (ranks : Word64) (c : Class) : Nat := bitsOf ranks (4 * c.num) 3

/-- The ranks a channel goes by: those with which the grant in progress was made, else those it has applied (R183). -/
def ranksNow (s : State) (ch : Nat) : Word64 :=
  match (chanAt s ch).arb.holder with
  | some g => g.ranks
  | none => (chanAt s ch).arb.ranks

/-- Rank of a class on a channel. -/
def classRank (s : State) (ch : Nat) (c : Class) : Nat := rankIn (ranksNow s ch) c

/-- A request by its number. -/
def reqAt (s : State) (id : Nat) : Option MedReq := s.med.reqs.find? fun q => q.id == id

/-- Change a request. -/
def modReq (s : State) (id : Nat) (f : MedReq → MedReq) : State :=
  modMed s fun m => { m with reqs := m.reqs.map fun q => if q.id = id then f q else q }

/-- Drop the requests of a kind. -/
def dropReqs (s : State) (p : MedReq → Bool) : State := modMed s fun m => { m with reqs := m.reqs.filter fun q => !p q }

/-- A request is over. -/
def delReq (s : State) (id : Nat) : State := dropReqs s fun q => q.id == id

/-- Requests of a channel. -/
def reqsOf (s : State) (ch : Nat) : List MedReq := s.med.reqs.filter fun q => q.ch.val == ch

/-- Rank-0 sector reads that wait or run at a channel's arbiter (R190). -/
def rank0Reads (s : State) (ch : Nat) : Nat :=
  ((reqsOf s ch).filter fun q => !q.program && classRank s ch q.cls == 0).length

/-- ARB_RANK0_DEPTH follows (R195). -/
def noteDepth (s : State) (ch : Nat) : State :=
  let d := sat 8 (rank0Reads s ch)
  if bitsOf (hwGet s Reg.ARB_RANK0_DEPTH) 0 8 < d then hwSet s Reg.ARB_RANK0_DEPTH (fld d 0 ||| fld ch 8) else s

/-- A request is raised at the arbiter of its sector's channel. -/
def addReq (s : State) (cls : Class) (program : Bool) (lsa : Nat) (purpose : Purpose) : State :=
  let ch := lsaChannel lsa
  let q : MedReq := { id := s.med.nextReq, ch := chanOf ch, cls := cls, program := program, lsa := BitVec.ofNat 32 lsa,
                      purpose := purpose, state := .raised, data := none, fails := 0, joined := [], refs := [],
                      since := s.time.toNat, depth := rank0Reads s ch + 1 }
  noteDepth (modMed s fun m => { m with reqs := m.reqs ++ [q], nextReq := m.nextReq + 1 }) ch

/-- A medium operation on a sector is asked for or running. -/
def medBusy (s : State) (lsa : Nat) (p : MedReq → Bool) : Bool := s.med.reqs.any fun q => q.lsa.toNat == lsa && p q

/-! ### Misses and prefetch (R178, R179) -/

/-- Key of the latest miss of a class on a channel. -/
def missKey (ch : Nat) (c : Class) : Nat := ch * 16 + c.num

/-- A class triggers prefetch (RDP_PREF_CFG.EN; R178). -/
def prefetches (s : State) (c : Class) : Bool := cacheOn s && c.counted && cfgBit s Reg.RDP_PREF_CFG c.num

/-- A sector may be prefetched: it is held nowhere on the way and no read of it waits or runs (R178). -/
def mayPrefetch (s : State) (lsa : Nat) : Bool :=
  (slotAt s lsa).isNone && (cacheFind s lsa).isNone && (sideFind s lsa).isNone && !medBusy s lsa fun q => !q.program

/-- A prefetch of a sector is requested in class PREF (R178). -/
def prefetchOne (s : State) (lsa : Nat) : State :=
  if mayPrefetch s lsa then pmcCount (addReq s .pref false lsa .prefetch) 0x303 (some (lsaChannel lsa)) 1 else s

/-- A class missed to the medium on a sector: a sequence of two within a chunk asks for the sectors ahead, up to the chunk's end
(R178). -/
def notedMiss (s : State) (c : Class) (lsa : Nat) : State :=
  let key := missKey (lsaChannel lsa) c
  let was := fget s.rdp.misses key
  let s := modRdp s fun r => { r with misses := fput r.misses key (BitVec.ofNat 32 lsa) }
  let sequence : Bool := match was with
    | none => false
    | some p => decide (p.toNat + 1 = lsa) && decide (p.toNat / 16 = lsa / 16)
  if prefetches s c && sequence then
    ((List.range (cfgFld s Reg.RDP_PREF_CFG 8 3 + 1)).filter fun k => (lsa + 1 + k) / 16 == lsa / 16).foldl
      (fun s k => prefetchOne s (lsa + 1 + k)) s
  else s

/-- The prefetch of a sector that is asked for or running. -/
def prefetchOf (s : State) (lsa : Nat) : Option MedReq :=
  s.med.reqs.find? fun q => q.lsa.toNat == lsa && decide (q.purpose = .prefetch)

/-- A read of a class asks the medium for its sector (RDP_MISSES). -/
def requestRead (s : State) (c : Class) (lsa : Nat) (purpose : Purpose) : State :=
  let s := if c.counted then pmcCount (hwAdd s Reg.RDP_MISSES 1) 0x302 (some (lsaChannel lsa)) 1 else s
  notedMiss (addReq s c false lsa purpose) c lsa

/-- A read of a class misses (R179): it cancels a prefetch of its sector that still waits at the arbiter and asks the medium, or waits for
the data of one that runs; so do reads after it where a failover has put such a prefetch back to the arbiter (R221). A prefetch that is
granted and waits for its bank counts as running (DESIGN CHOICE, log entry 74). -/
def askMedium (s : State) (c : Class) (lsa : Nat) (purpose : Purpose) : State :=
  match prefetchOf s lsa with
  | some q =>
    if q.state = .raised ∧ q.joined = [] then requestRead (delReq s q.id) c lsa purpose
    else modReq s q.id fun q => { q with joined := q.joined ++ [(c, purpose)] }
  | none => requestRead s c lsa purpose

/-! ### Poison marks (R74 to R78) -/

/-- The number of poisoned sectors of a region rises or falls (R78). -/
def countPoison (s : State) (r : Nat) (up : Bool) : State :=
  modRegion s r fun x => { x with poisoned := if up then x.poisoned + 1 else x.poisoned - 1 }

/-- The mark of a sector is set now: in its kerf slot, or, without one that holds its bytes, in the medium. -/
def isMarked (s : State) (lsa : Nat) : Bool :=
  match slotAt s lsa with
  | none => markedInMedium s lsa
  | some x => if x.state = .fetching then markedInMedium s lsa else decide (x.state = .poisoned)

/-- A request belongs to a fold. -/
def Purpose.isFold : Purpose → Bool
  | .foldRead | .foldProgram => true
  | _ => false

/-- First pair number of a sector: pairs are PA[39:4]. -/
def pairBase (lsa : Nat) : Nat := 16 * lsa

/-- A sector of a COUNTER region is marked: its bit of the counter poison bitmap is set, its pending deltas are discarded and a fold of
it is over. `cause` is CNT_LAST_POISON.CAUSE: 0 and 1 from a fold, 2 an error of the fold cache, 3 any other path (R278). -/
def counterPoison (s : State) (lsa cause : Nat) : State :=
  if (regionAt s (lsaRegion lsa)).use ≠ .counter ∨ fhas s.cnt.poison lsa then s else
  let lost := !(frange s.cnt.entries (pairBase lsa) (pairBase lsa + 16)).isEmpty
  let s := dropReqs s fun q => q.lsa.toNat == lsa && q.purpose.isFold
  let s := { s with cnt := { s.cnt with entries := fcut s.cnt.entries (pairBase lsa) (pairBase lsa + 16),
                                        folds := fdel s.cnt.folds lsa, poison := fput s.cnt.poison lsa () } }
  let s := hwSet s Reg.CNT_LAST_POISON (fld (lsa * 256) 0 ||| fld cause 40 ||| flag true 42)
  if cause < 2 then
    evt (raise (hwSat s Reg.CNT_FOLD_POISON 32 1) Reg.CNT_INT_STATUS 0) Ev.CNT_FOLD_POISON noInst 0
  else if cause = 2 then evt (raise s Reg.CNT_INT_STATUS 1) Ev.CNT_DELTA_LOST noInst 0
  else if lost then evt s Ev.CNT_DELTA_LOST noInst 0
  else s

/-- A kerf slot turns POISONED (R140, R149): its mark counts, cached entries of the sector are dropped (R174). -/
def poisonSlot (s : State) (lsa : Nat) (x : Slot) (cause : Nat) : State :=
  let was := isMarked s lsa
  let s := putSlot s lsa { x with state := .poisoned, data := 0, ecc := .good, rewritten := false, aged := false }
  let s := if was then s else countPoison s (lsaRegion lsa) true
  counterPoison (cacheDrop s lsa) lsa cause

end Sys2Proof.Machine
end

