-- ==== Sys2Proof/Machine/MirOps.lean ====
section
/-! DEFINITION. Shared operations of the mirror: frames and their bytes, forming records, sending them within the window, the journal,
asking the peer for copies and seeds (chapter 11). -/

namespace Sys2Proof.Machine

/-- A region at the mirror about which nothing is recorded. -/
def MirRegion.plain : MirRegion := 
  { detached := false, seedIn := none, gaps := false, away := false, stale := false, asked := false, behind := false }

/-- The mirror's view of a region. -/
def mirRegion (s : State) (r : Nat) : MirRegion := fgetD s.mir.regions r MirRegion.plain

/-- Change the mirror's view of a region. -/
def modMirRegion (s : State) (r : Nat) (f : MirRegion → MirRegion) : State :=
  { s with mir := { s.mir with regions := fputD s.mir.regions r MirRegion.plain (f (mirRegion s r)) } }

/-- Mirror port of a number. -/
def mirPort (k : Nat) : MPort := ⟨k % 2, Nat.mod_lt _ (by decide)⟩

/-- The other mirror port. -/
def otherPort (n : MPort) : MPort := mirPort (n.val + 1)

/-- Some port has a session: the pair is not in mate loss (R324). -/
def anySession (s : State) : Bool := (s.mir.ports[(0 : Fin 2)]).session || (s.mir.ports[(1 : Fin 2)]).session

/-! ### Frames (R312, R313, R315) -/

/-- Bytes of a record: its header and its data (R315). -/
def recordBytes (r : Record) : Nat :=
  match r.kind with
  | .line => 72
  | .sector => 264
  | _ => 8

/-- KIND of a record. -/
def kindNum : RecordKind → Nat
  | .line => 1 | .sector => 2 | .poison => 3 | .erase => 4 | .seedBegin => 5 | .seedEnd => 6

/-- The bytes of a record: KIND, FLAGS, the PA most significant byte first, a zero byte, its data (R313, R315). -/
def recordWire (r : Record) : List Byte :=
  leBytes 1 (kindNum r.kind) ++ leBytes 1 (r.seed.toNat + 2 * r.rebuild.toNat + 4 * r.repair.toNat) ++ beBytes 5 r.addr.toNat ++
    leBytes 1 0 ++ bytesOf r.data (recordBytes r - 8)

/-- TYPE of a frame. -/
def MirBody.num : MirBody → Nat
  | .hello _ => 1 | .data _ => 2 | .ack _ => 3 | .nak => 4 | .repairReq _ => 5 | .seedReq _ => 6 | .regionState _ => 7

/-- The bytes of a body, its fields most significant byte first (R313). -/
def MirBody.bytes : MirBody → List Byte
  | .hello f =>
    beBytes 4 f.pairId.toNat ++ leBytes 1 f.mate.toNat ++ leBytes 1 f.macsec.toNat ++ beBytes 2 f.promoGen.toNat ++
      beBytes 4 f.session.toNat ++ beBytes 8 f.serial.toNat ++ beBytes 6 f.retained.toNat ++ leBytes 6 0
  | .data rs => rs.flatMap recordWire
  | .ack rs => rs.flatMap fun r => beBytes 2 r.toNat
  | .nak => []
  | .repairReq pas => pas.flatMap fun pa => beBytes 8 pa.toNat
  | .seedReq rs => rs.flatMap fun r => beBytes 2 r.toNat
  | .regionState b => b

/-- The 16-byte Idnauc header of a frame, and its body (R313). -/
def frameBytes (seq ackSeq : BitVec 48) (b : MirBody) : List Byte :=
  leBytes 1 1 ++ leBytes 1 b.num ++ beBytes 2 b.bytes.length ++ beBytes 6 seq.toNat ++ beBytes 6 ackSeq.toNat ++ b.bytes

/-- MIRn_MACSEC_CTRL.PROTECT. -/
def macsecOn (s : State) (n : MPort) : Bool := cfgBit s (Reg.MIR_MACSEC_CTRL n.val) 0

/-- MIRn_MACSEC_CTRL.TX_AN. -/
def txAn (s : State) (n : MPort) : Nat := cfgFld s (Reg.MIR_MACSEC_CTRL n.val) 1 2

/-- The next packet number of an association, the first being 1 (R312: IEEE 802.1AE; PRESUMED, log entry 69). -/
def nextPn (m : FMap (BitVec 64)) (an : Nat) : BitVec 64 := fgetD m an 1

/-- A port can send: it need not protect its frames, or TX_AN holds a SAK (R312; log entry 69). -/
def txReady (s : State) (n : MPort) : Bool := !macsecOn s n || fhas (s.mir.ports[n]).txSa (txAn s n)

/-- The SecTAG of the next frame that a port sends. -/
def txTag (s : State) (n : MPort) : Option SecTag :=
  if macsecOn s n then
    (fget (s.mir.ports[n]).txSa (txAn s n)).map fun a => ⟨BitVec.ofNat 2 (txAn s n), nextPn (s.mir.ports[n]).txPn (txAn s n), a⟩
  else none

/-- The envelope of the next frame that a port sends (R313). -/
def txEnvelope (s : State) (n : MPort) : Envelope :=
  { da := BitVec.ofNat 48 (cfgFld s (Reg.MIR_MATE_MAC n.val) 0 48), sa := BitVec.ofNat 48 (profMac s n.val), vlan := false,
    sec := txTag s n, etype := BitVec.ofNat 16 (cfgFld s (Reg.MIR_ETYPE n.val) 0 16) }

/-- The first command of a port's records that is not performed. -/
def mateCmd (s : State) (n : MPort) : Option (BitVec 48) :=
  s.cmds.findSome? fun x => match x.origin with | .mate m seq _ _ => if m = n then some seq else none | .stream _ _ => none

/-- ACKSEQ: the first record of a port that is not yet in the persistence domain (R319). -/
def ackSeqOf (s : State) (n : MPort) : BitVec 48 :=
  match mateCmd s n, s.mir.ports[n].inbox with
  | some q, _ => q
  | none, (q, _) :: _ => q
  | none, [] => s.mir.ports[n].rxSeq

/-- A port sends a frame (R312, R313). -/
def sendFrame (s : State) (n : MPort) (seq : BitVec 48) (b : MirBody) : State :=
  if !txReady s n then s else
  let an := txAn s n
  let t := emit s (.frame n (txEnvelope s n) seq (ackSeqOf s n) b)
  if macsecOn s n then modMir t n fun x => { x with txPn := fput x.txPn an (nextPn x.txPn an + 1) } else t

/-- A port sends a frame of another type than DATA: SEQ is its next unassigned number (R313). -/
def sendNote (s : State) (n : MPort) (b : MirBody) : State := sendFrame s n (s.mir.ports[n]).txSeq b

/-- Records are sent, each in a DATA frame of its own, in order. -/
def sendRecords (s : State) (n : MPort) (l : List (BitVec 48 × Record)) : State :=
  l.foldl (fun s e => sendFrame s n e.1 (.data [e.2])) s

/-! ### Records on their way (R317, R318, R320, R321) -/

/-- Region of a record. -/
def recordRegion (r : Record) : Nat := regionOf r.addr

/-- A port holds an unacknowledged record of a region. -/
def holdsRecord (x : MirPort) (r : Nat) : Bool := x.out.any fun t => recordRegion t.record == r

/-- The port a region's records use: its home port, the other one while the home port has no session or while the other still holds
records of it (R320). -/
def portFor (s : State) (r : Nat) : MPort :=
  let home := mirPort r
  let away := otherPort home
  if (mirRegion s r).away ∧ holdsRecord s.mir.ports[away] r then away
  else if (s.mir.ports[home]).session then home
  else if (s.mir.ports[away]).session then away
  else home

/-- Bytes of records sent and unacknowledged on a port. -/
def inFlightBytes (x : MirPort) : Nat := ((x.out.filter fun t => t.seq.isSome).map fun t => recordBytes t.record).sum

/-- Bytes of a port's journal: records that wait to be sent (R321). -/
def journalBytes (x : MirPort) : Nat := ((x.out.filter fun t => t.seq.isNone).map fun t => recordBytes t.record).sum

/-- MIRn_CFG.WINDOW in bytes (R318). -/
def mirWindow (s : State) (n : MPort) : Nat := cfgFld s (Reg.MIR_CFG n.val) 16 8 * 65536

/-- Records of a list that may be sent now get their sequence numbers in order; the result is the list, the next number, and what is
sent (R317, R318). -/
def assignSeqs (window : Nat) : Nat → BitVec 48 → List TxRecord → List TxRecord × BitVec 48 × List (BitVec 48 × Record)
  | _, next, [] => ([], next, [])
  | used, next, t :: ts =>
    match t.seq with
    | some _ =>
      let r := assignSeqs window used next ts
      (t :: r.1, r.2)
    | none =>
      let u := used + recordBytes t.record
      if u ≤ window then
        let r := assignSeqs window u (next + 1) ts
        ({ t with seq := some next } :: r.1, r.2.1, (next, t.record) :: r.2.2)
      else (t :: ts, next, [])

/-- The sector of the medium that sector k of a port's journal is: the log is striped over the eight blanks, and each blank holds the two
ports' shares one after the other (R48, R321; DESIGN CHOICE, log entry 68). -/
def journalLsa (n : MPort) (k : Nat) : Nat := regionBase (480 + k % 8) + n.val * 4194304 + k / 8 % 4194304

/-- Records are sent from a journal that holds some bytes: the sectors of the log that they leave are read back, as far as they have been
programmed (R21, R321). -/
def journalRead (s : State) (n : MPort) (held taken : Nat) : State :=
  let head := (s.mir.ports[n]).logAt + 2 ^ 33 - held
  let ks := (List.range ((head + taken) / 256 - head / 256)).map fun k => journalLsa n ((head / 256 + k) % 33554432)
  (ks.filter fun a => !s.med.reqs.any fun q => q.lsa.toNat == a).foldl
    (fun s a => openCount s .rebuild a (openSector s a Decoded.clean)) s

/-- A port sends what its window admits; `held`: the bytes that its journal holds, the first to be sent. -/
def mirPump (s : State) (n : MPort) (held : Nat) : State :=
  let x := s.mir.ports[n]
  if !x.session ∨ !txReady s n then s else
  let r := assignSeqs (mirWindow s n) (inFlightBytes x) x.txSeq x.out
  let s := modMir s n fun x => { x with out := r.1, txSeq := r.2.1 }
  let s := journalRead s n held (min held (journalBytes x - journalBytes s.mir.ports[n]))
  let s := sendRecords s n r.2.2
  pmcCount (hwAdd s (Reg.MIR_TX_RECORDS n.val) r.2.2.length) 0xA00 (some n.val) r.2.2.length

/-- Extent of a sector within its region: 4 MiB (R322). -/
def extentOf (lsa : Nat) : Nat := lsa % regionSectors / 16384

/-- Key of a sector's intent bit. -/
def intentKey (lsa : Nat) : Nat := lsaRegion lsa * 512 + extentOf lsa

/-- Key of the extent of a record. -/
def recordExtent (t : TxRecord) : Nat := intentKey (sectorOf t.record.addr)

/-- A list of extents with others added. -/
def addExtents (l m : List Nat) : List Nat := l ++ m.eraseDups.filter fun k => !l.contains k

/-- Regions that need a seed once records are lost, each with its flag: those whose seed is broken off, and those whose ERASE record no
catch-up would make good (DESIGN CHOICE, log entry 68). -/
def seedsIn (ts : List TxRecord) : List (BitVec 9 × Bool) :=
  ((ts.filter fun t => t.record.seed || decide (t.record.kind = .erase)).map fun t => (BitVec.ofNat 9 (recordRegion t.record), t.record.rebuild)).eraseDups

/-- A LOST region whose records are lost will be stale (R331 step 3). -/
def markStale (s : State) (rs : List Nat) : State :=
  (rs.filter fun r => (regionAt s r).lost).eraseDups.foldl (fun s r => modMirRegion s r fun m => { m with stale := true }) s

/-- A port's journal fills, or loses records (R321): the port is in overflow, and its journal is dropped. Records already sent stay until
they are acknowledged (R318); the extents of those dropped are owed, and a seed that lost some starts again. -/
def mirOverflow (s : State) (n : MPort) : State :=
  let gone := (s.mir.ports[n]).out.filter fun t => t.seq.isNone
  let again := seedsIn gone
  let was := (s.mir.ports[n]).overflow
  let s := markStale s (gone.map fun t => recordRegion t.record)
  let s := modMir s n fun x =>
    { x with out := x.out.filter (fun t => t.seq.isSome), overflow := true, missed := addExtents x.missed (gone.map recordExtent),
             seed := x.seed.filter fun d => !again.any fun e => e.1 == d.region,
             seedWait := x.seedWait ++ again.filter fun e => !x.seedWait.contains e }
  if was then s else evt (raise s (Reg.MIR_INT_STATUS n.val) 5) Ev.MIR_JOURNAL_OVERFLOW n.val 0

/-- The sectors of a journal that n more bytes fill: numbers of the first, and how many. -/
def journalFills (x : MirPort) (n : Nat) : List Nat :=
  (List.range ((x.logAt + n) / 256 - x.logAt / 256)).map fun k => (x.logAt / 256 + k) % 33554432

/-- Records are appended to a port's journal: each sector of the log that fills is a program of class DRAIN; on a failed blank it is lost
(R321). -/
def journalAppend (s : State) (n : MPort) (bytes : Nat) : State :=
  let ks := journalFills s.mir.ports[n] bytes
  let s := modMir s n fun x => { x with logAt := (x.logAt + bytes) % 2 ^ 33 }
  let s := ks.foldl (fun s k => addReq s .drain true (journalLsa n k) (.journal n)) s
  if ks.any fun k => decide ((s.med.blanks[blankOf k]).state = .failed) then mirOverflow s n else s

/-- A blank that fails takes with it sectors of a port's journal (R321). -/
def journalOn (x : MirPort) (b : Blank) : Bool :=
  let n := journalBytes x
  let first := (x.logAt + 2 ^ 33 - n) / 256
  (List.range (min 8 ((x.logAt + 2 ^ 33) / 256 - first))).any fun k => (first + k) % 8 == b.val

/-- Records join a port, to be sent in order; what the window does not take is appended to the journal, and a journal that fills puts the
port in overflow (R318, R321). A port in overflow retains none. -/
def mirPut (s : State) (n : MPort) (ts : List TxRecord) : State :=
  if (s.mir.ports[n]).overflow then
    markStale (modMir s n fun x =>
      { x with missed := addExtents x.missed (ts.map recordExtent),
               seedWait := x.seedWait ++ (seedsIn ts).filter fun e => !x.seedWait.contains e })
      (ts.map fun t => recordRegion t.record)
  else
    let s := mirPump (modMir s n fun x => { x with out := x.out ++ ts }) n (journalBytes s.mir.ports[n])
    let j := journalBytes s.mir.ports[n]
    if 2 ^ 33 < j then mirOverflow s n
    else journalAppend s n (min (ts.map fun t => recordBytes t.record).sum j)

/-- A record joins a port. -/
def mirAppend (s : State) (n : MPort) (rec : Record) (cmd : Option Nat) : State :=
  mirPut s n [{ seq := none, record := rec, since := s.time.toNat, cmd := cmd }]

/-- Writes to a region are sent to the mate: the region is MIRRORED on a paired primary (R316). -/
def mirrors (s : State) (r : Nat) : Bool := isPrimary s && (regionAt s r).mirrored

/-- A record of a region goes to a port, which is noted where it is not the region's home port (R320). -/
def mirSend (s : State) (n : MPort) (rec : Record) (cmd : Option Nat) : State :=
  mirAppend (modMirRegion s (recordRegion rec) fun m => { m with away := decide (n ≠ mirPort (recordRegion rec)) }) n rec cmd

/-- The intent bit of a sector's extent is asked for, where the primary has not set it (R322). -/
def askIntent (s : State) (lsa : Nat) : State :=
  let key := intentKey lsa
  if !mirrors s (lsaRegion lsa) ∨ fhas s.mir.intent key ∨ s.mir.intentAsk.contains key then s
  else { s with mir := { s.mir with intentAsk := s.mir.intentAsk ++ [key] } }

/-- The primary forms a record of a MIRRORED region at a visibility point (R316), unless the region is detached (R319). -/
def formRecord (s : State) (rec : Record) (cmd : Option Nat) : State :=
  let r := recordRegion rec
  if !mirrors s r ∨ (mirRegion s r).detached then s else mirSend s (portFor s r) rec cmd

/-- A record with neither flag set. -/
def liveRecord (kind : RecordKind) (addr : PA) (data : Sector) : Record :=
  { kind := kind, seed := false, rebuild := false, repair := false, addr := addr, data := data }

/-- A device that finds one of its own MIRRORED sectors bad asks its peer for a copy (R329). -/
def askRepair (s : State) (lsa : Nat) : State :=
  let r := lsaRegion lsa
  let n := portFor s r
  if s.mir.pairId.isSome ∧ (regionAt s r).mirrored ∧ (s.mir.ports[n]).session then sendNote s n (.repairReq [paOf lsa]) else s

/-- The device asks its peer for seeds of regions, as far as their ports have a session (R331). -/
def askSeeds (s : State) (rs : List Nat) : State :=
  [(0 : Fin 2), 1].foldl (fun s n =>
    let mine := rs.filter fun r => decide (portFor s r = n)
    if mine.isEmpty ∨ !(s.mir.ports[n]).session then s
    else mine.foldl (fun s r => modMirRegion s r fun m => { m with asked := true }) (sendNote s n (.seedReq (mine.map (BitVec.ofNat 9))))) s

/-- MIRRORED regions, in order. -/
def mirroredRegions (s : State) : List Nat := (fkeys s.regions).filter fun r => (regionAt s r).mirrored

end Sys2Proof.Machine
end

