-- ==== Sys2Proof/Machine/KrfOps.lean ====
section
/-! DEFINITION. Shared operations of the kerf buffer: reservations of charge, slots, and the visibility point of a write (chapter 5),
with the conditions of its OK (R143, R322, R326, R327). -/

namespace Sys2Proof.Machine

/-! ### Charge (R141, R142) -/

/-- KRF_CHARGE_PEAK follows the total charge. -/
def notePeak (s : State) : State := hwPeak s Reg.KRF_CHARGE_PEAK 0 11 ((totalCharge s + 65535) / 65536)

/-- A commit runs, or has run since the last reset: new reservations of charge are refused (R159). -/
def committing (s : State) : Bool := s.krf.running.isSome || s.krf.done

/-- A reservation of n bytes can be granted at once: none waits, it fits under LIMIT, and no commit has begun (R142, R159). -/
def mayReserve (s : State) (n : Nat) : Bool :=
  !committing s && s.krf.waiters.isEmpty && decide (totalCharge s + n ≤ chargeLimit s)

/-- A command holds n bytes of charge. -/
def reserve (s : State) (id n : Nat) : State := notePeak (modCmd s id fun x => { x with reserved := x.reserved + n })

/-- A reservation waits, last in line, unless it stands there already; KRF_STATUS.AT_LIMIT rises with the first (R142, R166). -/
def joinLine (s : State) (w : Waiter) : State :=
  if s.krf.waiters.contains w then s else
  let s := if s.krf.waiters.isEmpty then raise s Reg.KRF_INT_STATUS 3 else s
  { s with krf := { s.krf with waiters := s.krf.waiters ++ [w] } }

/-- What stands in the line holds charge already. -/
def holdsGrant (s : State) (w : Waiter) : Bool := s.krf.granted.any fun e => decide (e.1 = w)

/-- The charge that was held goes over to what carries it, or is wanted no more. -/
def ungrant (s : State) (w : Waiter) : State :=
  { s with krf := { s.krf with granted := s.krf.granted.filter fun e => decide (e.1 ≠ w) } }

/-- n bytes of charge are held until the region's bit is set (R142, R144). -/
def grantCharge (s : State) (w : Waiter) (n : Nat) : State :=
  if holdsGrant s w then s else notePeak { s with krf := { s.krf with granted := s.krf.granted ++ [(w, n)] } }

/-- A command waits for charge; where a commit has begun, one that R160 lists completes with RETRY instead. -/
def waitCharge (s : State) (id : Nat) : State :=
  if committing s && (cmdAt s id).any (·.op.retriedByCommit) then refuse s id (Resp.plain .retry 0)
  else joinLine (stageCmd s id .charge) (.cmd id)

/-- Kerf slots (R138). -/
abbrev slotTotal : Nat := 393216

/-- n slots can be allocated: that many neither carry charge nor are promised. -/
def slotsFree (s : State) (n : Nat) : Bool :=
  decide (chargedSlots s + (s.cmds.map fun x => x.reserved / 256).sum + (s.krf.granted.map fun e => e.2 / 256).sum + n ≤ slotTotal)

/-- A slot can be allocated. -/
def slotFree (s : State) : Bool := slotsFree s 1

/-- The least recently used CLEAN slot. -/
def oldestClean (m : FMap Slot) : Option Nat :=
  (m.foldl (fun (best : Option (Nat × Nat)) e =>
    if e.2.state ≠ .clean then best
    else match best with
      | none => some (e.1, e.2.used)
      | some b => if e.2.used < b.2 then some (e.1, e.2.used) else best) none).map (·.1)

/-- A FREE slot is needed: a CLEAN one is reclaimed if there is none (R139). -/
def makeRoom (s : State) : State :=
  if s.krf.slots.length < slotTotal then s
  else match oldestClean s.krf.slots with
    | none => s
    | some k => freeSlot s k

/-- KRF_DRAIN_CFG.AGE_US is 0: a slot is eligible for drain as soon as it is DIRTY. -/
def agedAtOnce (s : State) : Bool := cfgFld s Reg.KRF_DRAIN_CFG 0 16 == 0

/-- The next order stamp of slots. -/
def nextStamp (s : State) : Nat := s.krf.stamp + 1

/-- Spend an order stamp. -/
def takeStamp (s : State) : State := { s with krf := { s.krf with stamp := s.krf.stamp + 1 } }

/-- A slot in a state with nothing written to it yet. -/
def Slot.blank (st : SlotState) : Slot where
  state := st
  ecc := .good
  data := 0
  queue := []
  stamp := 0
  aged := false
  wanted := false
  rewritten := false
  snapshot := none
  writers := []
  snapWriters := []
  used := 0

/-! ### Reading a slot (R139, R140) -/

/-- The words of a slot are read: SEC-DED acts on what it finds (R140). A FETCHING slot holds no words yet. -/
def slotCheck (s : State) (lsa : Nat) : State :=
  match slotAt s lsa with
  | none => s
  | some x =>
    if x.state = .fetching then s else
    match x.ecc with
    | .good => s
    | .single => evt (putSlot s lsa { x with ecc := .good }) Ev.KRF_SRAM_CORR noInst 0
    | .double => if x.state = .clean then freeSlot s lsa else setFatal (poisonSlot s lsa x 3) 0

/-- A slot is used by a read: its place among the CLEAN slots to reclaim moves. -/
def useSlot (s : State) (lsa : Nat) : State := takeStamp (modSlot s lsa fun x => { x with used := nextStamp s })

/-! ### The effect of a write (R117 to R119) -/

/-- What a write or atomic makes of its sector, and its OK. -/
def applyOp (x : HostCmd) (d : Sector) : Sector × Resp :=
  let i := lineOf x.addr
  let w := wordOfPa x.addr
  match x.op with
  | .wr64 => (putLine d i (x.data.setWidth 512), Resp.plain .ok 0)
  | .wr256 => (x.data, Resp.plain .ok 0)
  | .wrm64 =>
    let m := byteMask x.operand
    (putLine d i ((lineAt d i &&& ~~~ m) ||| (x.data.setWidth 512 &&& m)), Resp.plain .ok 0)
  | .fadd64 => (putWord d w (wordAt d w + x.operand), Resp.okData 0 (wordAt d w) 0)
  | .cswap64 =>
    let old := wordAt d w
    if decide (old = x.operand) then (putWord d w (x.data.setWidth 64), ⟨.ok, 1, 0, old, 0⟩) else (d, Resp.okData 0 old 0)
  | _ => (d, Resp.plain .ok 0)

/-- The record of a write (R316): the whole sector, or the line after the update. -/
def writeRecord (x : HostCmd) (d : Sector) : Record :=
  if x.op = .wr256 then liveRecord .sector x.addr d
  else
    let a := BitVec.ofNat 40 (x.addr.toNat / 64 * 64)
    liveRecord .line a ((lineAt d (lineOf x.addr)).setWidth 2048)

/-! ### OK (R143, R322, R326, R327) -/

/-- MIR0_CTRL.AUTO_ASYNC (R327). -/
def autoAsync (s : State) : Bool := cfgBit s (Reg.MIR_CTRL 0) 1

/-- A SYNC_ACK region whose mate cannot acknowledge: mate loss, or the region is detached (R327). -/
def syncStranded (s : State) (r : Nat) : Bool :=
  mirrors s r && (regionAt s r).syncAck && (!anySession s || (mirRegion s r).detached)

/-- A write that waits for the mate may be answered: its record is acknowledged and its extent's intent bit is set. -/
def okReady (s : State) (x : HostCmd) : Bool :=
  decide (x.stage = .mateAck) && !x.mateWait &&
    (fhas s.mir.intent (intentKey (sectorOf x.addr)) || !mirrors s (regionOf x.addr))

/-- The held OKs whose conditions now hold are answered. -/
def releaseOks (s : State) : State :=
  (s.cmds.filter (okReady s)).foldl (fun s x =>
    match x.resp with
    | some r => complete s x.id r
    | none => s) s

/-- SYNC_ACK is dropped for every stranded region, whose descriptors are programmed, and the writes held for their acknowledgement are
released (R227, R327). -/
def dropSync (s : State) : State :=
  let rs := (fkeys s.regions).filter fun r => syncStranded s r
  if rs.isEmpty then s else
  let s := rs.foldl (fun s r => saveInner (modRegion s r fun x => { x with syncAck := false }) (.descriptor r)) s
  let free (x : HostCmd) : HostCmd := if rs.contains (regionOf x.addr) then { x with mateWait := false, sync := false } else x
  let s := { s with cmds := s.cmds.map free }
  releaseOks (evt (raise s (Reg.MIR_INT_STATUS 0) 6) Ev.MIR_SYNC_DROPPED noInst rs.length)

/-- AUTO_ASYNC acts wherever a region is stranded (R327). -/
def syncRule (s : State) : State := if autoAsync s then dropSync s else s

/-- The receiver acknowledges (R319): ACKSEQ with the regions refused since the last ACK. Without a session no frame is sent, and the regions
wait for the next ACK. -/
def sendAck (s : State) (n : MPort) : State :=
  if !s.mir.ports[n].session ∨ !txReady s n then s else
  let s := sendFrame s n s.mir.ports[n].txSeq (.ack s.mir.ports[n].refused)
  modMir s n fun x => { x with refused := [] }

/-- A write is performed with the response r: it is answered, or its OK waits for the intent bit and the mate. The writes of a record
of the mate are counted as applied, and acknowledged by ACKSEQ (R319, R333). -/
def finishWrite (s : State) (id : Nat) (r : Resp) : State :=
  match cmdAt s id with
  | none => s
  | some x =>
    match x.origin with
    | .mate n _ _ _ => sendAck (hwAdd (delCmd s id) (Reg.MIR_RX_RECORDS n.val) 1) n
    | .stream _ _ =>
      let reg := regionOf x.addr
      if !mirrors s reg then complete s id r else
      if fhas s.mir.intent (intentKey (sectorOf x.addr)) ∧ !x.sync then complete s id r else
      let s := modCmd s id fun y => { y with resp := some r, stage := .mateAck, mateWait := x.sync, performed := true, reserved := 0 }
      askIntent s (sectorOf x.addr)

/-! ### The visibility point (R146, R153, R316) -/

/-- A partial write is merged (KRF_MERGES). -/
def countMerge (s : State) (x : HostCmd) : State :=
  if x.op = .wr256 then s else pmcCount (hwAdd s Reg.KRF_MERGES 1) 0x200 none 1

/-- A write joins a slot that carries charge (KRF_COALESCED). -/
def countJoin (s : State) : State := pmcCount (hwAdd s Reg.KRF_COALESCED 1) 0x202 none 1

/-- The streams with a write in the slot, with this write added. -/
def addWriter (m : FMap Nat) (x : HostCmd) : FMap Nat :=
  match x.stream with
  | none => m
  | some k => if fhas m k then m else fput m k x.id

/-- A write reaches its visibility point in a slot that holds the sector `d` (R146): the slot is DIRTY, or stays DRAINING and is marked
as written since its snapshot. -/
def landWrite (s : State) (x : HostCmd) (lsa : Nat) (slot : Slot) : State :=
  let r := applyOp x slot.data
  let fresh := decide (slot.state ≠ .dirty) && decide (slot.state ≠ .draining)
  let slot' : Slot := { slot with
    data := r.1
    state := if slot.state = .draining then .draining else .dirty
    rewritten := slot.rewritten || decide (slot.state = .draining)
    stamp := if fresh then nextStamp s else slot.stamp
    aged := if fresh then agedAtOnce s else slot.aged
    writers := addWriter slot.writers x
    used := nextStamp s }
  let s := takeStamp (putSlot s lsa slot')
  let s := notePeak (modCmd s x.id fun y => { y with performed := true, reserved := 0 })
  let s := countMerge (cacheWrite s lsa r.1) x
  let s := match x.origin with
    | .stream _ _ => formRecord s (writeRecord x r.1) (some x.id)
    | .mate _ _ _ _ => s
  finishWrite s x.id r.2

/-- A WR256 clears the mark of its sector, and its bit of the counter poison bitmap (R75, R279). -/
def clearMark (s : State) (lsa : Nat) : State :=
  let s := modMed (countPoison s (lsaRegion lsa) false) fun m => { m with merged := m.merged.filter (· ≠ lsa) }
  { s with cnt := { s.cnt with poison := fdel s.cnt.poison lsa } }

/-- A merge needs the medium: a FETCHING slot, and a fetch of class KFETCH (R146). -/
def startFetch (s : State) (x : HostCmd) (lsa : Nat) : State :=
  let s := makeRoom s
  let s := putSlot s lsa { Slot.blank .fetching with queue := [x.id] }
  let s := notePeak (modCmd s x.id fun y => { y with stage := .slotQueue, reserved := 0 })
  let s := pmcCount (hwAdd s Reg.KRF_MERGE_FETCH 1) 0x201 none 1
  match cacheProbe s .kfetch lsa with
  | some (d, s) => landWrite s x lsa { Slot.blank .clean with data := d }
  | none => askMedium s .kfetch lsa .fetch

/-- A write is refused; a record of the mate that ends without effect is acknowledged (R319). -/
def refuseWrite (s : State) (x : HostCmd) (r : Resp) : State :=
  match x.origin with
  | .mate n _ _ _ => sendAck (delCmd s x.id) n
  | .stream _ _ => refuse s x.id r

/-- A write whose charge and bitmap bit are in place is carried out (R146 to R151). -/
def applyWrite (s : State) (id : Nat) : State :=
  match cmdAt s id with
  | none => s
  | some x =>
    let lsa := sectorOf x.addr
    let s := slotCheck s lsa
    match slotAt s lsa with
    | some slot =>
      match slot.state with
      | .fetching =>
        modCmd (putSlot (countJoin s) lsa { slot with queue := slot.queue ++ [id] }) id fun y =>
          { y with stage := .slotQueue, reserved := 0 }
      | .poisoned =>
        if x.op = .wr256 then landWrite (clearMark (countJoin s) lsa) x lsa slot
        else refuseWrite s x (Resp.bad .poison 1 0)
      | .clean => landWrite s x lsa slot
      | _ => landWrite (countJoin s) x lsa slot
    | none =>
      if x.op = .wr256 then
        let s := if markedInMedium s lsa then clearMark s lsa else s
        landWrite (makeRoom s) x lsa (Slot.blank .clean)
      else startFetch s x lsa

/-- A write has its charge: it waits for its region's bit, or is carried out (R144). -/
def bitmapStep (s : State) (id : Nat) : State :=
  match cmdAt s id with
  | none => s
  | some x =>
    let r := regionOf x.addr
    if s.krf.bitmap.contains r then applyWrite s id
    else
      let s := stageCmd s id .bitmap
      if s.krf.bitmapAsk.contains r then s else { s with krf := { s.krf with bitmapAsk := s.krf.bitmapAsk ++ [r] } }

/-- A write or atomic reaches admission (R142, R327). -/
def admitWrite (s : State) (id : Nat) : State :=
  let s := syncRule s
  match cmdAt s id with
  | none => s
  | some x =>
    let lsa := sectorOf x.addr
    let host : Bool := match x.origin with | .stream _ _ => true | .mate _ _ _ _ => false
    if host && syncStranded s (regionOf x.addr) then refuse s id (Resp.plain .retry 2) else
    let s := modCmd s id fun y => { y with sync := host && mirrors s (regionOf x.addr) && (regionAt s (regionOf x.addr)).syncAck }
    if (slotAt s lsa).any Slot.charged then applyWrite s id
    else if mayReserve s 256 ∧ slotFree s then bitmapStep (reserve s id 256) id
    else waitCharge s id

/-! ### The queue of a FETCHING slot (R146 to R151) -/

/-- The read of a command on data it has found: the response (R116, R110). -/
def readResp (x : HostCmd) (d : Sector) (source ladder : Nat) : Resp :=
  let result := fld source 0 ||| fld (if source = 2 then sat 4 ladder else 0) 2
  match x.op with
  | .rd64 => Resp.okData 4 result ((lineAt d (lineOf x.addr)).setWidth 2048)
  | .rd256 => Resp.okData 16 result d
  | _ => Resp.okData 0 result 0

/-- A host read finds its sector: its response. -/
def finishRead (s : State) (x : HostCmd) (d : Sector) (source ladder : Nat) : State :=
  complete s x.id (readResp x d source ladder)

/-- One command of a slot's queue is performed at its place. -/
def runQueued (s : State) (lsa id : Nat) : State :=
  match cmdAt s id, slotAt s lsa with
  | some x, some slot =>
    if x.op.isWrite then
      if slot.state = .poisoned then
        if x.op = .wr256 then landWrite (clearMark s lsa) x lsa slot else refuseWrite s x (Resp.bad .poison 1 0)
      else landWrite s x lsa slot
    else if slot.state = .poisoned then complete s id (Resp.bad .poison 1 x.op.rlen)
    else finishRead s x slot.data 0 0
  | _, _ => s

/-- The commands of a slot's queue are performed in order. -/
def runQueue (s : State) (lsa : Nat) (q : List Nat) : State := q.foldl (fun s id => runQueued s lsa id) s

end Sys2Proof.Machine
end

