-- ==== Sys2Proof/Machine/ReadOps.lean ====
section
/-! DEFINITION. Shared operations of the read path: where a read finds its sector, misses, and prefetch (chapter 6). -/

namespace Sys2Proof.Machine

/-- Where a read finds its sector (R139, R168). -/
inductive Found where
  /-- the kerf buffer -/
  | kerf (d : Sector)
  /-- a POISONED slot -/
  | poisoned
  /-- a FETCHING slot -/
  | fetching
  /-- the line cache or the side buffer -/
  | cache (d : Sector)
  | miss
  deriving DecidableEq, Repr

/-- A read of a class looks for its sector in the kerf buffer, then in the caches (R139, R168). -/
def probe (s : State) (cls : Class) (lsa : Nat) : Found × State :=
  let s := slotCheck s lsa
  match slotAt s lsa with
  | some x =>
    match x.state with
    | .fetching => (.fetching, s)
    | .poisoned => (.poisoned, s)
    | .clean => (.kerf x.data, useSlot s lsa)
    | _ => (.kerf x.data, s)
  | none =>
    match cacheProbe s cls lsa with
    | some (d, s) => (.cache d, s)
    | none => (.miss, s)

/-- The read of a command misses. -/
def missRead (s : State) (c : Class) (lsa id : Nat) : State :=
  askMedium (modCmd s id fun x => { x with stage := .medium, reads := x.reads ++ [lsa] }) c lsa (.cmd id)

/-- A host read (RD64, RD256) starts (R116, R139, R148). -/
def startRead (s : State) (id : Nat) : State :=
  match cmdAt s id with
  | none => s
  | some x =>
    let lsa := sectorOf x.addr
    match probe s .hrd lsa with
    | (.kerf d, s) => finishRead s x d 0 0
    | (.cache d, s) => finishRead s x d 1 0
    | (.poisoned, s) => complete s id (Resp.bad .poison 1 x.op.rlen)
    | (.fetching, s) =>
      modCmd (modSlot s lsa fun y => { y with queue := y.queue ++ [id] }) id fun y => { y with stage := .slotQueue }
    | (.miss, s) => missRead s .hrd lsa id

end Sys2Proof.Machine
end

