-- ==== Sys2Proof/Machine/LkeOps.lean ====
section
/-! DEFINITION. Shared operations of the lookup engines: profiles, searches, leaves, and firmware's writes of whole sectors (chapter
8). -/

namespace Sys2Proof.Machine

/-! ### Whole sectors written by firmware (R243, R250, R279) -/

/-- A whole sector of plaintext enters the kerf buffer as a WR256 would leave it; `aged` makes it eligible for drain at once. -/
def putSector (s : State) (lsa : Nat) (d : Sector) (aged : Bool) : State :=
  let s := if isMarked s lsa then clearMark s lsa else s
  let slot := (slotAt s lsa).getD (Slot.blank .clean)
  let s := if slot.charged then countJoin s else makeRoom s
  let fresh := decide (slot.state ≠ .dirty) && decide (slot.state ≠ .draining)
  let slot' : Slot := { slot with
    data := d
    ecc := .good
    state := if slot.state = .draining then .draining else .dirty
    rewritten := slot.rewritten || decide (slot.state = .draining)
    stamp := if fresh then nextStamp s else slot.stamp
    aged := aged || (!fresh && slot.aged)
    used := nextStamp s }
  notePeak (cacheWrite (takeStamp (putSlot s lsa slot')) lsa d)

/-- A region's bit is asked for if it is clear (R144). -/
def askBitmap (s : State) (r : Nat) : State :=
  if s.krf.bitmap.contains r ∨ s.krf.bitmapAsk.contains r then s
  else { s with krf := { s.krf with bitmapAsk := s.krf.bitmapAsk ++ [r] } }

/-- A whole sector is to be written by firmware, or by a record of the mate: it is admitted where the slot is charged already; else it waits
for a slot and charge in the line, and holds them while it waits for the region's bit (R142, R144). -/
def admitSector (s : State) (w : Waiter) (lsa : Nat) : Bool × State :=
  if (slotAt s lsa).any fun x => decide (x.state = .fetching) then (false, s)
  else if (slotAt s lsa).any Slot.charged then (true, ungrant s w)
  else if !holdsGrant s w ∧ !(mayReserve s 256 ∧ slotFree s) then (false, joinLine s w)
  else if s.krf.bitmap.contains (lsaRegion lsa) then (true, ungrant s w)
  else (false, askBitmap (grantCharge s w 256) (lsaRegion lsa))

/-! ### Tables and profiles (R231 to R239) -/

/-- Byte i of a profile. -/
def profByte (p : BitVec 512) (i : Nat) : Nat := (byteOf p i).toNat

/-- A profile step (R238). -/
structure ProfStep where
  table    : Nat
  cond     : Nat
  vrfSrc   : Nat
  chain    : Bool
  missZero : Bool
  chainSrc : Nat
  condSrc  : Nat
  keyOff   : Nat
  keyBytes : Nat
  vrfOff   : Nat
  deriving DecidableEq, Repr

/-- Step s of a profile. -/
def profStep (p : BitVec 512) (k : Nat) : ProfStep :=
  let b (i : Nat) : Nat := profByte p (16 + 12 * k + i)
  { table := b 0, cond := b 1 % 4, vrfSrc := b 1 / 4 % 4, chain := b 1 / 16 % 2 == 1, missZero := b 1 / 32 % 2 == 1,
    chainSrc := b 2 % 4, condSrc := b 2 / 4 % 4, keyOff := b 4 + 256 * b 5, keyBytes := b 6, vrfOff := b 8 + 256 * b 9 }

/-- STEPS of a profile. -/
def profSteps (p : BitVec 512) : Nat := profByte p 1

/-- K of a profile. -/
def profKeyLen (p : BitVec 512) : Nat := profByte p 4 + 256 * profByte p 5

/-- DU that a key length requires (R123). -/
def duOfKey (k : Nat) : Nat := if k ≤ 8 then 0 else (k - 8 + 63) / 64

/-- Stage of step k of a profile: 1 if it waits for nothing, else after the latest stage of the steps it names (R239). Steps name
earlier steps only. -/
def stageOf (p : BitVec 512) : Nat → Nat → Nat
  | 0, _ => 1
  | fuel + 1, k =>
    let t := profStep p k
    max (if t.chain then stageOf p fuel t.chainSrc + 1 else 1) (if t.cond ≠ 0 then stageOf p fuel t.condSrc + 1 else 1)

/-- Bits of an LPM address of a kind. -/
def TblKind.addrBits : TblKind → Nat
  | .lpm4 => 32
  | _ => 128

/-- The address an LPM entry or search names, as a number in network order. -/
def lpmAddr (k : TblKind) (bytes : List Byte) : Nat := beNat (bytes.take (k.addrBits / 8))

/-- An LPM entry covers an address. -/
def lpmCovers (k : TblKind) (e : TblEntry) (vrf addr : Nat) : Bool :=
  e.aux == vrf && lpmAddr k (bytesOf e.key 32) / 2 ^ (k.addrBits - e.plen) == addr / 2 ^ (k.addrBits - e.plen)

/-- Bounds of a RANGE entry. -/
def rangeOf (e : TblEntry) : Nat × Nat := (beAt (bytesOf e.key 32) 0 2, beAt (bytesOf e.key 32) 2 2)

/-- The better of a candidate and the best so far, by a measure to maximise. -/
def better (f : TblEntry → Nat) (best : Option TblEntry) (e : TblEntry) : Option TblEntry :=
  match best with
  | none => some e
  | some b => if f b < f e then some e else best

/-- The entry a search finds (R231). -/
def searchTable (t : Table) (vrf : Nat) (key : List Byte) : Option TblEntry :=
  match t.kind with
  | .lpm4 | .lpm6 =>
    (t.entries.filter fun e => lpmCovers t.kind e vrf (lpmAddr t.kind key)).foldl (better fun e => e.plen) none
  | .em => t.entries.find? fun e => leNat ((bytesOf e.key 32).take t.keyLen) == leNat (key.take t.keyLen)
  | .range =>
    let v := beNat (key.take 2)
    (t.entries.filter fun e => decide ((rangeOf e).1 ≤ v) && decide (v ≤ (rangeOf e).2)).foldl
      (better fun e => 65535 - e.aux) none

/-! ### Leaves (R231 to R233, R245) -/

/-- Tier bytes and medium bytes of an entry of declared capacity (R232). -/
def entryCost : TblKind → Bool → Nat × Nat
  | .lpm4, false => (20, 0) | .lpm4, true => (5, 64)
  | .lpm6, false => (40, 0) | .lpm6, true => (5, 128)
  | .em, false => (64, 0) | .em, true => (0, 64)
  | .range, _ => (16, 0)

/-- Leaves or buckets of a table, one copy: its medium reservation in sectors, in units of eight, one for each channel of a blank. -/
def leafCount (t : Table) : Nat := (t.capacity * (entryCost t.kind t.medium).2 + 2047) / 2048 * 8

/-- The sector of a region that a place names. -/
def placeSector (p : Nat) : Nat := p / 128 * 128 + p % 8 * 16 + p / 8 % 16

/-- The place of a sector in its region. -/
def sectorPlace (n : Nat) : Nat := n / 128 * 128 + n % 16 * 8 + n / 16 % 8

/-- Sector n of the places in a list of runs. -/
def runSector : List TableRun → Nat → Nat
  | [], _ => 0
  | u :: us, n => if n < u.count then u.region.toNat * regionSectors + placeSector (u.first + n) else runSector us (n - u.count)

/-- The number of a sector among the places in a list of runs. -/
def runIndex : List TableRun → Nat → Option Nat
  | [], _ => none
  | u :: us, lsa =>
    let p := sectorPlace (lsa % regionSectors)
    if u.region.toNat = lsaRegion lsa ∧ u.first ≤ p ∧ p < u.first + u.count then some (p - u.first)
    else (runIndex us lsa).map (· + u.count)

/-- The leaf or bucket i of a key. The two buckets of an EM key lie on different channels: a second one on the channel of the first gives
way to the bucket after it (R233). -/
def leafOf (tn : Nat) (t : Table) (key i : Nat) : Nat :=
  let place (i : Nat) : Nat := Config.leafPick tn key i % leafCount t
  let a := runSector t.room (place 0)
  if i = 0 then a
  else
    let b := runSector t.room (place 1)
    if lsaChannel b = lsaChannel a then runSector t.room ((place 1 + 1) % leafCount t) else b

/-- The second copy of a leaf of a DUAL table, in a region of another blank (R233). -/
def dualOf (t : Table) (lsa : Nat) : Option Nat :=
  if !t.dual then none else (runIndex t.room lsa).map fun n => runSector t.room (n + leafCount t)

/-- The key by which firmware places an entry. -/
def entryKey (e : TblEntry) : Nat := e.aux * 2 ^ 256 + e.key.toNat

/-- The leaves a search of a table needs (R245): both buckets of an EM key; where the tier leads to one, the leaf that holds the entry an
LPM search finds, or, where it finds none, the leaf of some entry of the table. -/
def leavesOf (version tn : Nat) (t : Table) (vrf : Nat) (key : List Byte) (hit : Option TblEntry) : List Nat :=
  if !t.medium then [] else
  let k := vrf * 2 ^ 256 + leNat key
  match t.kind with
  | .em => [leafOf tn t k 0, leafOf tn t k 1]
  | _ =>
    if !Config.leafNeeded version tn k then [] else
    match hit with
    | some e => [leafOf tn t (entryKey e) 0]
    | none => ((t.entries[Config.leafPick tn k 0 % t.entries.length]?).map fun e => leafOf tn t (entryKey e) 0).toList

/-- The leaves and buckets that hold an entry. -/
def entryLeaves (tn : Nat) (t : Table) (e : TblEntry) : List Nat :=
  if !t.medium then [] else
  let l := match t.kind with
    | .em => [leafOf tn t (entryKey e) 0, leafOf tn t (entryKey e) 1]
    | _ => [leafOf tn t (entryKey e) 0]
  l ++ l.filterMap (dualOf t)

/-! ### Evaluating a LKUP (R241) -/

/-- The key buffer of a LKUP (R123). -/
def keyBuffer (x : HostCmd) : List Byte := bytesOf x.operand 8 ++ bytesOf x.data (64 * x.du)

/-- PROFILE of a LKUP (R122). -/
def lkupProfile (x : HostCmd) : Nat := bitsOf x.addr 0 6

/-- VRF of a LKUP (R122). -/
def lkupVrf (x : HostCmd) : Nat := bitsOf x.addr 12 12

/-- What a step of a LKUP did. -/
structure StepDone where
  run    : Bool
  hit    : Bool
  action : Word64
  table  : Nat
  /-- VRF and key of the search, as one number -/
  key    : Nat
  leaves : List Nat
  deriving DecidableEq, Repr

/-- A step that was not executed (R241). -/
def StepDone.idle : StepDone := { run := false, hit := false, action := 0, table := 0, key := 0, leaves := [] }

/-- One step of a profile is evaluated after the steps before it (R235 to R238). -/
def evalStep (set : TableSet) (p : BitVec 512) (vrf : Nat) (buf : List Byte) (before : List StepDone) (k : Nat) : StepDone :=
  let t := profStep p k
  let src := before.getD t.condSrc StepDone.idle
  let runs : Bool := match t.cond with
    | 1 => src.hit
    | 2 => src.run && !src.hit
    | _ => true
  match fget set.tables t.table with
  | none => StepDone.idle
  | some tb =>
    if !runs then StepDone.idle else
    let chained := if t.chain then bytesOf (before.getD t.chainSrc StepDone.idle).action 8 else []
    let key := chained ++ slice buf t.keyOff t.keyBytes
    let v := match t.vrfSrc with
      | 0 => vrf
      | 1 => beAt buf t.vrfOff 2 % 4096
      | _ => 0
    let v := match tb.kind with
      | .lpm4 | .lpm6 => v
      | _ => 0
    let found := searchTable tb v key
    { run := true, hit := found.isSome, table := t.table, key := v * 2 ^ 256 + leNat key,
      action := match found with | some e => e.action | none => if t.missZero then 0 else tb.defaultAction
      leaves := leavesOf set.version.toNat t.table tb v key found }

/-- The steps of a LKUP against a table set. -/
def evalLkup (set : TableSet) (p : BitVec 512) (x : HostCmd) : List StepDone :=
  (List.range (min 4 (profSteps p))).foldl (fun l k => l ++ [evalStep set p (lkupVrf x) (keyBuffer x) l k]) []

/-- The answer of a LKUP (R124). -/
def lkupResp (steps : List StepDone) (engine : Nat) (version : BitVec 32) : Resp :=
  let bit (f : StepDone → Bool) (lo : Nat) : Word64 :=
    (List.range 4).foldl (fun a k => a ||| flag (f (steps.getD k StepDone.idle)) (lo + k)) 0
  let data := (List.range 4).foldl (fun d k => putWord d k (steps.getD k StepDone.idle).action) (0 : Sector)
  Resp.okData 2 (bit (·.hit) 0 ||| bit (·.run) 4 ||| fld engine 8 ||| fld version.toNat 32) data

/-! ### Engines and jobs (R241, R254 to R256) -/

/-- The table set a version names, while the device holds it. -/
def setOf (s : State) (v : BitVec 32) : TableSet :=
  if s.lke.cur.version = v then s.lke.cur else s.lke.prev.getD s.lke.cur

/-- The job of a LKUP. -/
def jobOf (s : State) (id : Nat) : Option LkupJob := s.lke.jobs.find? fun j => j.cmd == id

/-- Change the lookup engines. -/
def modLke (s : State) (f : Lke → Lke) : State := { s with lke := f s.lke }

/-- The version before the current one is dropped once no LKUP holds it (R250). -/
def dropPrev (s : State) : State :=
  match s.lke.prev with
  | none => s
  | some p => if s.lke.jobs.any fun j => j.version == p.version then s else modLke s fun l => { l with prev := none }

/-- A LKUP leaves its engine. -/
def endJob (s : State) (id : Nat) : State :=
  dropPrev (modLke s fun l => { l with jobs := l.jobs.filter fun j => j.cmd != id })

/-- LKUP commands an engine holds: LKEee_STATUS.IN_FLIGHT. -/
def inFlight (s : State) (e : Nat) : Nat := (s.lke.jobs.filter fun j => j.engine.val == e).length

/-- Searches in flight at an engine: every step of the profiles of the LKUPs it holds (R246). -/
def searchesAt (s : State) (e : Nat) : Nat :=
  ((s.lke.jobs.filter fun j => j.engine.val == e).map fun j =>
    match cmdAt s j.cmd with
    | none => 0
    | some x => match fget (setOf s j.version).profiles (lkupProfile x) with
      | none => 0
      | some p => profSteps p).sum

/-- An engine may be dispatched to: enabled and not failed (R241). -/
def engineServes (s : State) (e : Nat) : Bool := cfgBit s Reg.LKE_CTRL e && !fhas s.lke.failed e

/-- The engine a LKUP is to be dispatched to (R241). -/
def pickEngine (s : State) : Option Engine :=
  ((List.finRange 16).foldl (fun (best : Option (Engine × Nat)) e =>
    if !engineServes s e.val then best
    else match best with
      | none => some (e, searchesAt s e.val)
      | some b => if searchesAt s e.val < b.2 then some (e, searchesAt s e.val) else best) none).map (·.1)

/-- A search met a bad leaf or a bad tier word (R243, R244). -/
def leafBad (s : State) (x : HostCmd) (e : Engine) (table lsa : Nat) (lost tier : Bool) : State :=
  let s := raise (hwSat s Reg.LKE_POISON_CNT 32 1) Reg.LKE_INT_STATUS 1
  let s := hwSet s Reg.LKE_LAST_ERROR
    (fld (if tier then 0 else lsa * 256) 0 ||| fld (table % 256) 40 ||| flag lost 48 ||| flag tier 49 |||
      fld (lkupProfile x) 50 ||| fld x.port.val 56 ||| flag true 58)
  evt s Ev.LKE_LEAF_POISON e.val (table % 256)

/-- Step k of a LKUP met a bad leaf: each search counts once (R243). -/
def noteBad (s : State) (x : HostCmd) (k table lsa : Nat) : State :=
  match jobOf s x.id with
  | none => s
  | some j =>
    if j.met.contains k then s else
    let s := modLke s fun l => { l with jobs := l.jobs.map fun i => if i.cmd = x.id then { i with met := k :: i.met } else i }
    leafBad s x j.engine table lsa (regionAt s (lsaRegion lsa)).lost false

/-- The LKUP completes with POISON, DETAIL SECTOR (R243). -/
def lkupPoison (s : State) (id : Nat) : State := endJob (complete s id (Resp.bad .poison 1 2)) id

/-- A leaf's sector cannot be used: its region is LOST, or it is marked. -/
def leafDead (s : State) (lsa : Nat) : Bool := (regionAt s (lsaRegion lsa)).lost || isMarked s lsa

/-- Firmware will write a sector of a leaf. -/
def askLeafWrite (s : State) (lsa : Nat) : State :=
  let n := BitVec.ofNat 32 lsa
  if s.lke.writes.contains n then s else modLke s fun l => { l with writes := l.writes ++ [n] }

/-- Where a leaf's sector was found. -/
inductive LeafFound where
  | here | asked | bad
  deriving DecidableEq, Repr

/-- A leaf's sector is looked up, and asked of the medium if nothing nearer holds it. -/
def lookLeaf (s : State) (x : HostCmd) (e : Engine) (lsa : Nat) : LeafFound × State :=
  let s := pmcCount (hwAdd s Reg.LKE_LEAF_READS 1) 0x502 (some e.val) 1
  if leafDead s lsa then (.bad, s) else
  match probe s .lkr lsa with
  | (.miss, s) => (.asked, missRead s .lkr lsa x.id)
  | (.poisoned, s) => (.bad, s)
  | (_, s) => (.here, s)

/-- A bad copy is rewritten from the good one as a full sector, where its region is not LOST (R243). -/
def repairLeaf (s : State) (lsa : Nat) : State := if (regionAt s (lsaRegion lsa)).lost then s else askLeafWrite s lsa

/-- A leaf of step k is bad: the search is counted, and its second copy is read, if it has one. The result is false where that is bad
too (R243). -/
def readSecond (s : State) (x : HostCmd) (e : Engine) (k tn : Nat) (t : Table) (lsa : Nat) : Bool × State :=
  let s := noteBad s x k tn lsa
  match dualOf t lsa with
  | none => (false, s)
  | some d =>
    match lookLeaf s x e d with
    | (.bad, s) => (false, s)
    | (.here, s) => (true, repairLeaf s lsa)
    | (.asked, s) => (true, s)

/-- One leaf of step k is read (R243, R245). The result is false where it, and its second copy if it has one, is bad. -/
def readLeaf (s : State) (x : HostCmd) (e : Engine) (k tn : Nat) (t : Table) (lsa : Nat) : Bool × State :=
  match lookLeaf s x e lsa with
  | (.bad, s) => readSecond s x e k tn t lsa
  | (_, s) => (true, s)

/-- The leaves of step k are read. -/
def readLeaves (x : HostCmd) (e : Engine) (k tn : Nat) (t : Table) (acc : Bool × State) (leaves : List Nat) : Bool × State :=
  leaves.foldl (fun a lsa => (a.1 && (readLeaf a.2 x e k tn t lsa).1, (readLeaf a.2 x e k tn t lsa).2)) acc

/-- The steps of a stage that are executed, with their numbers. -/
def stageSteps (p : BitVec 512) (steps : List StepDone) (stage : Nat) : List (Nat × StepDone) :=
  ((List.range steps.length).filter fun k => stageOf p 4 k == stage).filterMap fun k =>
    match steps[k]? with
    | some d => if d.run then some (k, d) else none
    | none => none

/-- A step meets an uncorrectable word of the tier (R244). -/
def tierHit (s : State) (version : Nat) (d : StepDone) : Bool :=
  s.lke.tierBad.any fun f => f.table == d.table && Config.tierMeets version d.table d.key f.word

/-- Stages of a LKUP run from one on, until one of them waits for the medium or the last has finished (R239). -/
def runStages : Nat → State → Nat → State
  | 0, s, _ => s
  | fuel + 1, s, id =>
    match cmdAt s id, jobOf s id with
    | some x, some j =>
      match fget (setOf s j.version).profiles (lkupProfile x) with
      | none => s
      | some p =>
        let set := setOf s j.version
        let steps := evalLkup set p x
        let n := profSteps p
        let last := (List.range n).foldl (fun m k => max m (stageOf p 4 k)) 0
        if last < j.stage then endJob (complete s id (lkupResp steps j.engine.val j.version)) id else
        let now := stageSteps p steps j.stage
        let s := pmcCount (hwAdd (hwAdd s Reg.LKE_SEARCHES now.length) (Reg.LKEE_SEARCHES j.engine.val) now.length) 0x500
          (some j.engine.val) now.length
        let hits := (now.filter (·.2.hit)).length
        let s := pmcCount (hwAdd s Reg.LKE_HITS hits) 0x501 (some j.engine.val) hits
        let bad := now.filter fun d => tierHit s set.version.toNat d.2
        if !bad.isEmpty then lkupPoison (bad.foldl (fun s d => leafBad s x j.engine d.2.table 0 false true) s) id else
        let r := now.foldl (fun (acc : Bool × State) d =>
          match fget set.tables d.2.table with
          | some t => readLeaves x j.engine d.1 d.2.table t acc d.2.leaves
          | none => acc) (true, s)
        if !r.1 then lkupPoison r.2 id
        else
          let s := modLke r.2 fun l => { l with jobs := l.jobs.map fun k => if k.cmd = id then { k with stage := k.stage + 1 } else k }
          match cmdAt s id with
          | some y => if y.reads.isEmpty then runStages fuel s id else s
          | none => s
    | _, _ => s

/-- No LKUP can be dispatched now: the engine it would go to holds 64 (R257). That a LKUP then waits for room there is a DESIGN CHOICE (log
entry 74). -/
def enginesFull (s : State) : Bool := (pickEngine s).any fun e => decide (64 ≤ inFlight s e.val)

/-- A LKUP is judged, and dispatched once its engine has room (R240, R241, R256). -/
def startLkup (s : State) (id : Nat) : State :=
  match cmdAt s id with
  | none => s
  | some x =>
    let ok : Option (BitVec 512) :=
      match fget s.lke.cur.profiles (lkupProfile x) with
      | none => none
      | some p => if profByte p 2 / 2 ^ x.port.val % 2 = 1 then some p else none
    match ok with
    | none => refuse s id (Resp.plain .malformed 6)
    | some p =>
      if x.du ≠ duOfKey (profKeyLen p) then refuse s id (Resp.plain .malformed 2) else
      if enginesFull s then stageCmd s id .waiting else
      match pickEngine s with
      | none => complete s id (lkupResp [] 0 s.lke.cur.version)
      | some e =>
        let s := modLke s fun l =>
          { l with jobs := l.jobs ++ [{ cmd := id, engine := e, version := s.lke.cur.version, stage := 1, met := [] }] }
        runStages 5 (modCmd s id fun y => { y with stage := .medium, reads := [] }) id

/-- A LKUP that waits for room at an engine. -/
def lkupWaits (x : HostCmd) : Bool := decide (x.op = .lkup) && decide (x.stage = .waiting)

/-- The LKUPs that wait for room at an engine are dispatched, the longest waiting first. -/
def dispatchLkups (s : State) : State :=
  ((s.cmds.filter lkupWaits).map (·.id)).foldl
    (fun s id => if enginesFull s then s else startLkup s id) s

/-- The step of a LKUP that uses a sector, its table, and its leaf: the sector itself, or the leaf whose second copy it is. -/
def stepOfLeaf (set : TableSet) (p : BitVec 512) (x : HostCmd) (lsa : Nat) : Option (Nat × Nat × Table × Nat) :=
  ((evalLkup set p x).zipIdx.filter (·.1.run)).findSome? fun d =>
    match fget set.tables d.1.table with
    | none => none
    | some t => (d.1.leaves.find? fun a => a == lsa || dualOf t a == some lsa).map fun a => (d.2, d.1.table, t, a)

/-- A leaf read from the medium has returned: the stage goes on when its last read is back; a bad leaf is taken from its second copy,
or ends the LKUP (R243). -/
def leafReturned (s : State) (id lsa : Nat) (good : Bool) : State :=
  let s := modCmd s id fun y => { y with reads := y.reads.erase lsa }
  match cmdAt s id, jobOf s id with
  | some x, some j =>
    let go (s : State) : State :=
      match cmdAt s id with
      | some y => if y.reads.isEmpty then runStages 5 s id else s
      | none => s
    let set := setOf s j.version
    match (fget set.profiles (lkupProfile x)).bind fun p => stepOfLeaf set p x lsa with
    | none => go s
    | some (k, tn, t, leaf) =>
      if good then go (if leaf = lsa then s else repairLeaf s leaf)
      else if leaf = lsa then
        let r := readSecond s x j.engine k tn t lsa
        if r.1 then go r.2 else lkupPoison r.2 id
      else lkupPoison s id
  | _, _ => s

end Sys2Proof.Machine
end

