-- ==== Sys2Proof/Machine/CntOps.lean ====
section
/-! DEFINITION. Shared operations of the counter folder (chapter 9). -/

namespace Sys2Proof.Machine

/-- Change the counter folder. -/
def modCnt (s : State) (f : Cnt → Cnt) : State := { s with cnt := f s.cnt }

/-- Counter pair of an address: PA[39:4]. -/
def pairOf (pa : PA) : Nat := bitsOf pa 4 36

/-- Sector of a counter pair. -/
def pairSector (k : Nat) : Nat := k / 16

/-- The pending deltas of a sector. -/
def sectorEntries (s : State) (lsa : Nat) : FMap FoldEntry := frange s.cnt.entries (pairBase lsa) (pairBase lsa + 16)

/-- Two pairs added, modulo 2^64 (R120). -/
def Pair.add (a b : Pair) : Pair := { packets := a.packets + b.packets, bytes := a.bytes + b.bytes }

/-- A snapshot subtracted from a delta (R276). -/
def Pair.sub (a b : Pair) : Pair := { packets := a.packets - b.packets, bytes := a.bytes - b.bytes }

/-- No count. -/
def Pair.zero : Pair := { packets := 0, bytes := 0 }

/-- The pair at a place of a sector. -/
def pairAt (d : Sector) (i : Nat) : Pair := { packets := wordAt d (2 * i), bytes := wordAt d (2 * i + 1) }

/-- The sector with a pair replaced. -/
def putPair (d : Sector) (i : Nat) (p : Pair) : Sector := putWord (putWord d (2 * i) p.packets) (2 * i + 1) p.bytes

/-- A sector with deltas added to its pairs (R275). -/
def addDeltas (d : Sector) (m : FMap Pair) : Sector :=
  m.foldl (fun d e => putPair d (e.1 % 16) ((pairAt d (e.1 % 16)).add e.2)) d

/-- The deltas a CADD carries (R120). -/
def caddPair (operand : Word64) : Pair :=
  { packets := BitVec.ofNat 64 (bitsOf operand 48 16), bytes := BitVec.ofNat 64 (bitsOf operand 0 48) }

/-- Entries of a set of the fold cache (R274). -/
def setEntries (s : State) (set : Fin 32768) : FMap FoldEntry := s.cnt.entries.filter fun e => decide (Config.foldSet e.1 = set)

/-- Its set has a free way for a pair (R274). -/
def wayFree (s : State) (k : Nat) : Bool := decide ((setEntries s (Config.foldSet k)).length < 16)

/-- The pair of the oldest entry of a set. -/
def oldestEntry (m : FMap FoldEntry) : Option Nat :=
  (m.foldl (fun (best : Option (Nat × Nat)) e =>
    match best with
    | none => some (e.1, e.2.since)
    | some b => if e.2.since < b.2 then some (e.1, e.2.since) else best) none).map (·.1)

/-- An entry of the fold cache cannot be read: its sector is poisoned in a kerf slot, with CAUSE 2 (R278). The slot takes its charge at once,
as that of an error in a slot does. -/
def poisonEntry (s : State) (lsa : Nat) : State :=
  let s := makeRoom s
  let x := (slotAt s lsa).getD (Slot.blank .clean)
  notePeak (takeStamp (poisonSlot s lsa { x with stamp := nextStamp s } 2))

/-- An entry of the fold cache is read: a single-bit error is corrected, a double-bit error poisons its sector (R278). -/
def entryCheck (s : State) (k : Nat) : State :=
  match fget s.cnt.entries k with
  | none => s
  | some e =>
    match e.ecc with
    | .good => s
    | .single => modCnt s fun c => { c with entries := fput c.entries k { e with ecc := .good } }
    | .double => poisonEntry s (pairSector k)

/-- The entries of a sector are read. -/
def entriesCheck (s : State) (lsa : Nat) : State := (sectorEntries s lsa).foldl (fun s e => entryCheck s e.1) s

/-- A counter sector is poisoned (R278). -/
def counterBad (s : State) (lsa : Nat) : Bool := fhas s.cnt.poison lsa || isMarked s lsa

/-! ### Folds (R275, R276) -/

/-- The job of a fold. -/
def foldOf (s : State) (lsa : Nat) : Option FoldJob := fget s.cnt.folds lsa

/-- Store a fold's job. -/
def putFold (s : State) (lsa : Nat) (j : FoldJob) : State := modCnt s fun c => { c with folds := fput c.folds lsa j }

/-- A fold has its sector's value: it goes on to its program, or to the charged kerf slot of the sector (R275). -/
def foldValue (s : State) (lsa : Nat) (j : FoldJob) (d : Sector) : State :=
  if (slotAt s lsa).any Slot.charged then putFold s lsa { j with value := some d, ready := true }
  else addReq (putFold s lsa { j with value := some d }) .fold true lsa .foldProgram

/-- The most folds that run at once: what CNT_ENTRIES.FOLDING can show (R282; DEDUCED, log entry 10). -/
abbrev foldsMax : Nat := 2047

/-- A fold of a sector starts, if one more can run: it takes the deltas of its pairs and reads the sector in class CTR (R275). -/
def startFold (s : State) (lsa : Nat) : State :=
  if (foldOf s lsa).isSome ∨ foldsMax ≤ s.cnt.folds.length then s else
  let s := entriesCheck s lsa
  let m := sectorEntries s lsa
  if m.isEmpty ∨ counterBad s lsa then s else
  let j : FoldJob := { snapshot := fmapv (fun _ (e : FoldEntry) => e.delta) m, value := none, ready := false }
  match probe s .ctr lsa with
  | (.kerf d, s) => foldValue s lsa j d
  | (.cache d, s) => foldValue s lsa j d
  | (.miss, s) => askMedium (putFold s lsa j) .ctr lsa .foldRead
  | (.fetching, s) => s
  | (.poisoned, s) => s

/-- Every sector with pending deltas is folded: CNT_CTRL.FOLD_ALL, or entry into L3 or L4 (R275). -/
def foldEverything (s : State) : State :=
  ((s.cnt.entries.map fun e => pairSector e.1).eraseDups).foldl startFold s

/-- Deltas left after a snapshot is taken out: entries left at zero are freed (R276). -/
def subSnapshot (m : FMap FoldEntry) (snap : FMap Pair) (now : Nat) : FMap FoldEntry :=
  snap.foldl (fun m e =>
    match fget m e.1 with
    | none => m
    | some x =>
      let d := x.delta.sub e.2
      if d = Pair.zero then fdel m e.1 else fput m e.1 { delta := d, since := now, ecc := .good }) m

/-- A fold is abandoned: its entries keep their whole deltas (R276). -/
def abandonFold (s : State) (lsa : Nat) : State :=
  let s := dropReqs s fun q => q.lsa.toNat == lsa && q.purpose.isFold
  modCnt s fun c => { c with folds := fdel c.folds lsa }

/-! ### CADD and CRD (R274, R277) -/

/-- A CADD's deltas are in its entry: its visibility point (R274). -/
def landCadd (s : State) (x : HostCmd) : State :=
  let k := pairOf x.addr
  let now := s.time.toNat
  let e := (fget s.cnt.entries k).getD { delta := Pair.zero, since := now, ecc := .good }
  let s := modCnt s fun c => { c with entries := fput c.entries k { e with delta := e.delta.add (caddPair x.operand) } }
  let s := notePeak (modCmd s x.id fun y => { y with reserved := 0 })
  complete (pmcCount (hwAdd s Reg.CNT_CADDS 1) 0x700 none 1) x.id (Resp.plain .ok 0)

/-- A fold starts to free a way (R274). -/
def evictFold (s : State) (lsa : Nat) : State :=
  let s := startFold s lsa
  if (foldOf s lsa).isSome then hwAdd s Reg.CNT_EVICT_FOLDS 1 else s

/-- A CADD goes on: to its entry, to a free way of its set with its charge and its region's bit, or to a wait for one of them (R142,
R144, R274, R278). It reserves its charge as it reaches admission, so that a wait for a way costs it no place among the reservations. -/
def startCadd (s : State) (id : Nat) : State :=
  match cmdAt s id with
  | none => s
  | some x =>
    let k := pairOf x.addr
    let lsa := pairSector k
    let s := entryCheck s k
    if counterBad s lsa then refuse s id (Resp.bad .poison 1 0)
    else if fhas s.cnt.entries k then landCadd s x
    else if x.reserved < 16 ∧ !mayReserve s 16 then waitCharge s id
    else
      let s := if x.reserved < 16 then reserve s id 16 else s
      let r := regionOf x.addr
      if !wayFree s k then
        let s := match oldestEntry (setEntries s (Config.foldSet k)) with
          | none => s
          | some o => if (foldOf s (pairSector o)).isSome then s else evictFold s (pairSector o)
        stageCmd s id .way
      else
      if s.krf.bitmap.contains r then landCadd s x else askBitmap (stageCmd s id .bitmap) r

/-- A CRD's value: the sector's pair plus the pending delta (R277); reading the delta may poison the sector (R278). -/
def finishCrd (s : State) (x : HostCmd) (d : Sector) : State :=
  let k := pairOf x.addr
  let s := entryCheck s k
  if counterBad s (pairSector k) then complete s x.id (Resp.bad .poison 1 1) else
  let pending := match fget s.cnt.entries k with
    | some e => e.delta
    | none => Pair.zero
  let p := (pairAt d (k % 16)).add pending
  complete (pmcCount (hwAdd s Reg.CNT_CRDS 1) 0x701 none 1) x.id (Resp.okData 1 0 (putPair 0 0 p))

/-- A CRD starts (R277, R278). -/
def startCrd (s : State) (id : Nat) : State :=
  match cmdAt s id with
  | none => s
  | some x =>
    let lsa := sectorOf x.addr
    if counterBad s lsa then complete s id (Resp.bad .poison 1 1) else
    match probe s .ctr lsa with
    | (.kerf d, s) => finishCrd s x d
    | (.cache d, s) => finishCrd s x d
    | (.miss, s) => missRead s .ctr lsa id
    | (.fetching, s) => complete s id (Resp.bad .poison 1 1)
    | (.poisoned, s) => complete s id (Resp.bad .poison 1 1)

/-- CNT_CTRL.FOLD_ALL while it is 1: every delta is folded, and the bit is cleared once the fold cache is empty (R275, R282). -/
def foldAllRule (s : State) : State :=
  if !cfgBit s Reg.CNT_CTRL 0 ∨ s.krf.running.isSome then s
  else if s.cnt.entries.isEmpty then raise (setCfg s Reg.CNT_CTRL (cfg s Reg.CNT_CTRL &&& ~~~ 1)) Reg.CNT_INT_STATUS 3
  else foldEverything s

/-- Time the oldest pending delta has waited, ms: CNT_FOLD_LAG (R282). -/
def oldestMs (s : State) : Nat :=
  match s.cnt.entries with
  | [] => 0
  | es => (s.time.toNat - (es.foldl (fun a e => min a e.2.since) s.time.toNat)) / 1000000

/-- CNT_FOLD_LAG is raised when the oldest delta reaches LAG_MS (R282). -/
def lagRule (s : State) : State :=
  let late := decide (cfgFld s Reg.CNT_CFG 16 14 ≤ oldestMs s)
  if late = s.cnt.lagging then s
  else
    let s := modCnt s fun c => { c with lagging := late }
    if late then evt (raise s Reg.CNT_INT_STATUS 2) Ev.CNT_FOLD_LAG noInst 0 else s

end Sys2Proof.Machine
end

