-- ==== Sys2Proof/Machine/DbqOps.lean ====
section
/-! DEFINITION. Shared operations of the queue engine and the buffer pool (chapter 9). -/

namespace Sys2Proof.Machine

/-- Change the queue engine. -/
def modDbq (s : State) (f : Dbq → Dbq) : State := { s with dbq := f s.dbq }

/-- A queue as shipped: disabled, every port bit 0, empty (R261). -/
def Queue.initial : Queue where
  enable := false
  enqPorts := 0
  deqPorts := 0
  maxChunks := 0
  error := false
  packets := []
  opened := none
  chunks := []
  fill := 0
  tail := 0
  flushes := []
  eccCorr := 0
  ecc := Vector.replicate 3 .good
  charged := false

/-- A queue; an unlisted one is as shipped. -/
def queueAt (s : State) (q : Nat) : Queue := fgetD s.dbq.queues q Queue.initial

/-- Store a queue. -/
def putQueue (s : State) (q : Nat) (v : Queue) : State :=
  modDbq s fun d => { d with queues := fputD d.queues q Queue.initial v }

/-- Change a queue. -/
def modQueue (s : State) (q : Nat) (f : Queue → Queue) : State := putQueue s q (f (queueAt s q))

/-! ### The pool (R258 to R260) -/

/-- Data chunks of a pool region. -/
abbrev regionChunks : Nat := 507904

/-- First sector of a data chunk. -/
def chunkSector (r c : Nat) : Nat := r * regionSectors + 16 * c

/-- Chunk of a sector within its region. -/
def chunkOf (lsa : Nat) : Nat := lsa % regionSectors / 16

/-- The sector of the link area that holds a chunk's 128-B descriptor. -/
def linkSector (lsa : Nat) : Nat := lsa / regionSectors * regionSectors + 16 * regionChunks + chunkOf lsa / 2

/-- Sectors of a region that hold chunk descriptors, two in each. -/
abbrev linkSectors : Nat := 253952

/-- The number of a sector of chunk descriptors, counted through all regions. -/
def sweepNumber (lsa : Nat) : Nat := lsaRegion lsa * linkSectors + (lsa % regionSectors - 16 * regionChunks)

/-- A pool region. -/
def poolAt (s : State) (r : Nat) : PoolRegion := fgetD s.dbq.pool r { formatted := false, alloc := false, used := [] }

/-- Change a pool region. -/
def modPool (s : State) (r : Nat) (f : PoolRegion → PoolRegion) : State :=
  modDbq s fun d => { d with pool := fput d.pool r (f (poolAt s r)) }

/-- The formatted pool regions. -/
def poolRegions (s : State) : FMap PoolRegion := s.dbq.pool.filter fun e => e.2.formatted

/-- Data chunks of the pool: DBQ_CHUNKS.TOTAL. -/
def poolTotal (s : State) : Nat := regionChunks * (poolRegions s).length

/-- Chunks allocated. -/
def poolUsed (s : State) : Nat := ((poolRegions s).map fun e => e.2.used.length).sum

/-- Free data chunks: DBQ_CHUNKS.FREE. -/
def poolFree (s : State) : Nat := poolTotal s - poolUsed s

/-- A region can give a chunk: formatted, ALLOC, not LOST, not full (R259). -/
def canAllocate (s : State) (r : Nat) : Bool :=
  let p := poolAt s r
  p.formatted && p.alloc && !(regionAt s r).lost && decide (p.used.length < regionChunks)

/-- The region of the next allocation: the rotation, from the region after the last one (R259). -/
def nextRegion (s : State) : Option Nat :=
  let rs := (fkeys s.dbq.pool).filter (canAllocate s)
  match rs.find? fun r => s.dbq.next ≤ r with
  | some r => some r
  | none => rs.head?

/-- The first chunk that is not in use, from a number on. -/
def freeChunk (used : List Nat) : Nat → Nat → Nat
  | 0, c => c
  | fuel + 1, c => if used.contains c then freeChunk used fuel ((c + 1) % regionChunks) else c

/-- The chunk an allocation takes: its region by rotation, its place in the free chain left open (free value; R258). -/
def pickChunk (s : State) : Option (Nat × Nat) :=
  (nextRegion s).map fun r =>
    let used := (poolAt s r).used
    (r, freeChunk used used.length ((freeNow s).toNat % regionChunks))

/-- A chunk is taken (R259). -/
def takeChunk (s : State) (r c : Nat) : State :=
  let s := modPool s r fun p => { p with used := c :: p.used }
  let s := freeNext (modDbq s fun d => { d with next := r + 1 })
  hwPeak (hwAdd s Reg.DBQ_CHUNK_ALLOC 1) Reg.DBQ_PEAK_CHUNKS 0 27 (poolUsed s)

/-- DBQ_INT_STATUS.POOL_LOW is set as the free chunks fall below DBQ_POOL_LOW (R281). -/
def poolLowRule (s : State) : State :=
  let now := decide (poolFree s < cfgFld s Reg.DBQ_POOL_LOW 0 27)
  if now = s.dbq.low then s
  else
    let s := modDbq s fun d => { d with low := now }
    if now then raise s Reg.DBQ_INT_STATUS 0 else s

/-- A chunk returns to its region's free chain (R259). -/
def giveChunk (s : State) (lsa : Nat) : State :=
  hwAdd (modPool s (lsaRegion lsa) fun p => { p with used := p.used.erase (chunkOf lsa) }) Reg.DBQ_CHUNK_FREE 1

/-- The sectors a queue still holds. -/
def heldSectors (q : Queue) : List (BitVec 32) :=
  (q.packets.flatMap fun p => p.sectors.map (·.1)) ++
    (match q.opened with
     | some (p, _) => p.sectors.map (·.1)
     | none => [])

/-- A read of a DEQ that is still out uses a chunk. -/
def chunkBeingRead (s : State) (lsa : Nat) : Bool :=
  s.cmds.any fun x => decide (x.op = .deq) && x.reads.any fun n => n / 16 == lsa / 16

/-- Chunks of a queue whose every sector is dead, and from which it has moved on, are freed (R259). -/
def freeDead (s : State) (q : Nat) : State :=
  let v := queueAt s q
  let held := heldSectors v
  let dead := v.chunks.dropLast.filter fun c =>
    !(held.any fun n => n.toNat / 16 == c.toNat / 16) && !chunkBeingRead s c.toNat
  let s := if dead.isEmpty then s else putQueue s q { v with chunks := v.chunks.filter fun c => !dead.contains c }
  dead.foldl (fun s c => giveChunk s c.toNat) s

/-- A sector is dead: a DIRTY slot of it is freed without a program (R267). -/
def killSector (s : State) (lsa : Nat) : State :=
  match slotAt s lsa with
  | some x =>
    if x.state = .dirty then pmcCount (hwAdd (freeSlot s lsa) Reg.DBQ_DEAD_RELEASE 1) 0x603 none 1 else s
  | none => s

/-! ### Descriptors (R270, R271) -/

/-- The lowest-numbered BUFFER region: the bit that stands for queue state (R271). -/
def firstBuffer (s : State) : Option Nat :=
  (s.regions.find? fun e => decide (e.2.use = .buffer)).map (·.1)

/-- The bit that stands for queue state follows the lowest-numbered BUFFER region: a new one's bit is set before the one before may clear
(R271). -/
def queueBitRule (s : State) : State :=
  match firstBuffer s with
  | none => if s.dbq.bitRegion.isNone then s else modDbq s fun d => { d with bitRegion := none }
  | some r =>
    if s.dbq.bitRegion = some r then s
    else if chargedQueues s = 0 ∨ s.krf.bitmap.contains r then modDbq s fun d => { d with bitRegion := some r }
    else askBitmap s r

/-- A queue enters ERROR (R270). -/
def queueError (s : State) (q : Nat) : State :=
  raise (modQueue s q fun v => { v with error := true }) Reg.DBQ_INT_STATUS 4

/-- The words of a descriptor are read: SEC-DED acts on what it finds (R270). -/
def descCheck (s : State) (q : Nat) : State :=
  (List.finRange 3).foldl (fun s (w : Fin 3) =>
    let v := queueAt s q
    let last (kind : Bool) : Word64 := fld q 0 ||| fld w.val 17 ||| flag kind 19 ||| flag true 20
    match v.ecc[w] with
    | .good => s
    | .single =>
      let s := putQueue s q { v with ecc := v.ecc.set w .good,
                                     eccCorr := if w.val < 2 then BitVec.ofNat 16 (sat 16 (v.eccCorr.toNat + 1)) else v.eccCorr }
      let s := raise (hwSet (hwSat s Reg.DBQ_ECC_CORR 32 1) Reg.DBQ_LAST_ECC (last false)) Reg.DBQ_INT_STATUS 8
      evt s Ev.DBQ_ECC_CORR noInst 0
    | .double =>
      let s := queueError (putQueue s q { v with ecc := v.ecc.set w .good }) q
      let s := hwSet (hwSat s Reg.DBQ_ECC_UNCORR 32 1) Reg.DBQ_LAST_ECC (last true)
      setFatal s 0) s

/-- The counter of the commands of an opcode performed, whatever their status (R281). -/
def queueCounter : Op → Nat
  | .enq => Reg.DBQ_ENQ_CMDS
  | .deq => Reg.DBQ_DEQ_CMDS
  | _ => Reg.DBQ_FLUSH_CMDS

/-- QERR with a DETAIL (R263). -/
def queueRefuse (s : State) (x : HostCmd) (detail : Nat) : State :=
  let s := hwAdd s (queueCounter x.op) 1
  let s := hwSet (raise (hwSat s Reg.DBQ_QERR_CNT 32 1) Reg.DBQ_INT_STATUS 2) Reg.DBQ_LAST_QERR
    (fld (qidOf x.addr) 0 ||| fld detail 17 ||| fld x.port.val 25 ||| flag true 27)
  refuse s x.id (Resp.plain .qerr detail)

/-- A command that changes a descriptor has what it needs: n bytes of charge in all, and the bits of these regions. The result says
whether it may go on; if not, it waits (R142, R144, R271). After a commit a DEQ or QFLUSH changes queue state that nothing commits, and needs no charge
(R160). -/
def queueReady (s : State) (x : HostCmd) (n : Nat) (regions : List Nat) : Bool × State :=
  if s.krf.done then (true, s)
  else if x.reserved < n ∧ (!mayReserve s (n - x.reserved) ∨ !slotsFree s ((n - x.reserved) / 256)) then (false, waitCharge s x.id) else
  let s := if x.reserved < n then reserve s x.id (n - x.reserved) else s
  let missing := regions.filter fun r => !s.krf.bitmap.contains r
  if missing.isEmpty then (true, s) else (false, missing.foldl askBitmap (stageCmd s x.id .bitmap))

/-- Charge of a descriptor that is about to change (R141, R271). -/
def descNeed (v : Queue) : Nat := if v.charged then 0 else 128

/-- The regions whose bits the charge of a descriptor needs. -/
def descRegions (s : State) (v : Queue) : List Nat := if v.charged then [] else (firstBuffer s).toList

/-- What a command has reserved is carried by its slots and its descriptor from now on. -/
def carry (s : State) (id : Nat) : State := notePeak (modCmd s id fun y => { y with reserved := 0 })

/-! ### Enqueue (R262 to R264) -/

/-- Checks 1 to 8 of an ENQ; the DETAIL of the first that fails (R263). -/
def enqCheck (s : State) (x : HostCmd) (v : Queue) : Option Nat :=
  let sop := bitOf x.addr 17
  if v.error then some 7
  else if !v.enable then some 1
  else if !bitOf v.enqPorts x.port.val then some 2
  else if (poolRegions s).isEmpty then some 8
  else if !sop ∧ v.opened.isNone then some 3
  else if sop ∧ v.opened.isSome then some 4
  else if !sop ∧ (v.opened.map (·.2)) ≠ x.stream then some 5
  else if sop ∧ v.maxChunks ≠ 0 ∧ v.maxChunks ≤ v.chunks.length then some 6
  else none

/-- Bytes in the last sector of the open packet, if it can take more. -/
def tailRoom (v : Queue) : Option (BitVec 32 × Nat) :=
  match v.opened with
  | none => none
  | some (p, _) =>
    match p.sectors.getLast? with
    | some (n, b) => if b < 256 then some (n, b) else none
    | none => none

/-- The next fresh sector of a queue, if its newest chunk has one left. -/
def nextSector (v : Queue) : Option (BitVec 32) :=
  match v.chunks.getLast? with
  | some c => if v.fill < 16 then some (c + BitVec.ofNat 32 v.fill) else none
  | none => none

/-- Bytes `from` on of the data of an ENQ, placed from byte `at_` of a sector on. -/
def placeBytes (d : Sector) (at_ : Nat) (data : Sector) (from_ n : Nat) : Sector :=
  putField d (8 * at_) (8 * n) (data >>> (8 * from_))

/-- What an ENQ writes: bytes to the open packet's last sector, and bytes to a fresh one (R262). -/
def enqSplit (v : Queue) (x : HostCmd) : Nat × Nat :=
  let n := enqBytes x.addr
  if bitOf x.addr 17 then (0, n)
  else match tailRoom v with
    | some (_, b) => (min n (256 - b), n - min n (256 - b))
    | none => (0, n)

/-- Charge of the slot that a write of a sector needs. -/
def slotNeed (s : State) (lsa : Nat) : Nat := if (slotAt s lsa).any Slot.charged then 0 else 256

/-- A flush takes effect: every complete packet is discarded; the result is how many (R129, R266). -/
def flushNow (s : State) (q : Nat) : Nat × State :=
  let v := queueAt s q
  let n := v.packets.length
  let s := putQueue s q { v with packets := [] }
  let s := v.packets.foldl (fun s p => p.sectors.foldl (fun s e => killSector s e.1.toNat) s) s
  (n, hwAdd (freeDead s q) Reg.DBQ_FLUSH_PKTS n)

/-- QFLUSH is answered (R129). -/
def flushDone (s : State) (id n : Nat) : State :=
  complete (hwAdd s Reg.DBQ_FLUSH_CMDS 1) id (Resp.okData 0 (BitVec.ofNat 64 (sat 32 n)) 0)

/-- The waiting flushes of a queue take effect together: the first reports the packets, the others 0 (R266). -/
def runFlushes (s : State) (q : Nat) : State :=
  let v := queueAt s q
  match v.flushes with
  | [] => s
  | f :: fs =>
    let r := flushNow (putQueue s q { v with flushes := [] }) q
    fs.foldl (fun s id => flushDone s id 0) (flushDone r.2 f r.1)

/-- An orphan sweep is asked for (R270): it starts, or runs again after the one that runs. -/
def askSweep (s : State) : State :=
  modDbq s fun d => if d.sweeping then { d with sweepAgain := true } else { d with sweeping := true, sweepAt := 0 }

/-- The regions a sweep reads. -/
def sweepRegions (s : State) : List Nat := (fkeys (poolRegions s)).filter fun r => !(regionAt s r).lost

/-- The sector of chunk descriptors that a sweep reads next, in the order of the pool (R270). -/
def nextSweep (s : State) : Option Nat :=
  ((sweepRegions s).find? fun r => decide (s.dbq.sweepAt < (r + 1) * linkSectors)).map fun r =>
    regionBase r + 16 * regionChunks + (s.dbq.sweepAt - r * linkSectors)

/-- A sweep reads the descriptors of the pool, one sector after another, in class MOVE (R270). -/
def sweepRule (s : State) : State :=
  if !s.dbq.sweeping ∨ (s.med.reqs.any fun q => decide (q.purpose = .sweep)) then s else
  match nextSweep s with
  | none => s
  | some lsa => addReq s .move false lsa .sweep

/-- The place of the sweep in its pass, in 1/256: SWEEP.PROGRESS. -/
def sweepProgress (s : State) : Nat :=
  let rs := sweepRegions s
  if !s.dbq.sweeping ∨ rs.isEmpty then 0
  else min 255 ((rs.map fun r => min linkSectors (s.dbq.sweepAt - r * linkSectors)).sum * 256 / (rs.length * linkSectors))

/-- A write of queue data to a sector: its slot is DIRTY with the bytes given; data of a LOST region is dropped (R225, R262). -/
def writeQueueSector (s : State) (lsa : Nat) (d : Sector) : State :=
  if (regionAt s (lsaRegion lsa)).lost then s else
  putSector s lsa d (agedAtOnce s)

/-- An ENQ that has passed every check and holds its charge is performed (R262). `fresh` is the sector that its further bytes start. -/
def landEnq (s : State) (x : HostCmd) (fresh : Option Nat) : State :=
  let q := qidOf x.addr
  let v := queueAt s q
  let split := enqSplit v x
  let sop := bitOf x.addr 17
  let eop := bitOf x.addr 18
  let stream := (x.stream).getD 0
  let base : Packet := match v.opened with
    | some (p, _) => p
    | none => { data := BitVec.ofNat 48 x.operand.toNat, length := 0, whole := true, sectors := [] }
  let owner := match v.opened with
    | some (_, k) => k
    | none => stream
  -- the rest of the last sector
  let b := match tailRoom v with
    | some (_, b) => b
    | none => 0
  let tail1 := if split.1 = 0 then v.tail else placeBytes v.tail b x.data 0 split.1
  let s := match tailRoom v with
    | some (n, _) => if split.1 = 0 ∨ sop then s else writeQueueSector s n.toNat tail1
    | none => s
  let secs1 := if split.1 = 0 then base.sectors
    else base.sectors.dropLast ++ (base.sectors.getLast?.map fun e => (e.1, e.2 + split.1)).toList
  -- a fresh sector
  let tail2 := placeBytes 0 0 x.data split.1 split.2
  let s := match fresh with
    | some n => if split.2 = 0 then s else writeQueueSector s n tail2
    | none => s
  let secs2 := match fresh with
    | some n => if split.2 = 0 then secs1 else secs1 ++ [(BitVec.ofNat 32 n, split.2)]
    | none => secs1
  let p : Packet := { base with length := base.length + enqBytes x.addr, sectors := secs2 }
  let s := modQueue s q fun v =>
    { v with
      packets := if eop then v.packets ++ [p] else v.packets
      opened := if eop then none else some (p, owner)
      tail := if eop then 0 else if split.2 = 0 then tail1 else tail2
      charged := true }
  let s := hwAdd (hwAdd s Reg.DBQ_ENQ_CMDS 1) Reg.DBQ_ENQ_BYTES (enqBytes x.addr)
  let s := pmcCount (if eop then hwAdd s Reg.DBQ_ENQ_PKTS 1 else s) 0x600 none 1
  let s := freeDead (complete (carry s x.id) x.id (Resp.plain .ok 0)) q
  if eop then runFlushes s q else s

/-- The sectors of chunk descriptors that a new chunk of a queue has written: its own, and that of the chunk before it, which it is linked
to (R262). One that is LOST or poisoned cannot be written in part. -/
def linksOf (s : State) (v : Queue) (chunk : Nat) : List Nat :=
  ((linkSector chunk :: ((v.chunks.getLast?).map fun n => linkSector n.toNat).toList).eraseDups).filter fun n =>
    !(regionAt s (lsaRegion n)).lost && !isMarked s n

/-- Chunk descriptors are written to a kerf slot (R141, R262). -/
def writeLink (s : State) (lsa : Nat) : State := freeNext (putSector s lsa (Config.linkBytes lsa s.fresh) (agedAtOnce s))

/-- An ENQ goes on as far as it can (R142, R263, R264). The period without a RETRY, after which DBQ_POOL_EMPTY is raised again, ends with the
next ENQ that obtains a chunk: R264 gives it no length (DESIGN CHOICE, log entry 74). -/
def startEnq (s : State) (id : Nat) : State :=
  match cmdAt s id with
  | none => s
  | some x =>
    let q := qidOf x.addr
    let s := descCheck s q
    let v := queueAt s q
    match enqCheck s x v with
    | some d => queueRefuse s x d
    | none =>
      let split := enqSplit v x
      let sop := bitOf x.addr 17
      let tailNeed := match tailRoom v with
        | some (n, _) => if split.1 = 0 ∨ sop ∨ (regionAt s (lsaRegion n.toNat)).lost then [] else [n.toNat]
        | none => []
      let needChunk := decide (split.2 ≠ 0) && (nextSector v).isNone
      if needChunk && ((nextRegion s).isNone || (sop && decide (poolFree s < cfgFld s Reg.DBQ_CFG 16 16))) then
        let first := !s.dbq.dry
        let s := hwAdd s Reg.DBQ_ENQ_CMDS 1
        let s := raise (hwSat (modDbq s fun d => { d with dry := true }) Reg.DBQ_POOL_RETRY 32 1) Reg.DBQ_INT_STATUS 1
        let s := if first then evt s Ev.DBQ_POOL_EMPTY noInst 0 else s
        refuse s id (Resp.plain .retry 3)
      else
        let pick := if needChunk then pickChunk s else none
        let fresh : Option Nat :=
          if split.2 = 0 then none
          else match pick with
            | some (r, c) => some (chunkSector r c)
            | none => (nextSector v).map (·.toNat)
        let live := fresh.toList.filter fun n => !(regionAt s (lsaRegion n)).lost
        let links := match pick with
          | some (r, c) => linksOf s v (chunkSector r c)
          | none => []
        let sectors := tailNeed ++ live ++ links
        let need := (sectors.map (slotNeed s)).sum + descNeed v
        let r := queueReady s x need (descRegions s v ++ sectors.map lsaRegion)
        if !r.1 then r.2
        else
          let s := modDbq r.2 fun d => { d with dry := if needChunk then false else d.dry }
          let s := match pick with
            | some (r, c) =>
              modQueue (links.foldl writeLink (takeChunk s r c)) q fun v =>
                { v with chunks := v.chunks ++ [BitVec.ofNat 32 (chunkSector r c)], fill := 0 }
            | none => s
          let s := if split.2 = 0 then s else modQueue s q fun v => { v with fill := v.fill + 1 }
          landEnq s x fresh

/-! ### Dequeue, flush and QSTAT (R127 to R130, R263 to R268) -/

/-- A DEQ is answered POISON (R268): DETAIL SECTOR 1, LOST 2. -/
def deqPoison (s : State) (x : HostCmd) (lsa rlen : Nat) (lost : Bool) : State :=
  let s := raise (hwSat s Reg.DBQ_DEQ_POISON 32 1) Reg.DBQ_INT_STATUS 3
  let s := hwSet s Reg.DBQ_LAST_POISON (fld (lsa * 256) 0 ||| fld (qidOf x.addr) 40 ||| flag lost 57 ||| flag true 58)
  complete (evt s Ev.DBQ_DEQ_POISON noInst 0) x.id (Resp.bad .poison (if lost then 2 else 1) rlen)

/-- The data of a segment of n bytes: the bytes after it are zero (R128). -/
def segmentData (d : Sector) (n : Nat) : Sector := d &&& maskOf 2048 0 (8 * n)

/-- A DEQ has its data; `r` holds the response but for it. -/
def finishDeq (s : State) (x : HostCmd) (d : Sector) (r : Resp) : State :=
  let n := bitsOf r.result 48 9
  complete (hwAdd s Reg.DBQ_DEQ_BYTES n) x.id { r with data := segmentData d n }

/-- A queue enters ERROR if the chain cannot be followed past a chunk whose descriptor is poisoned or in a LOST region (R268). -/
def chainRule (s : State) (q lsa : Nat) : State :=
  let v := queueAt s q
  match heldSectors v with
  | [] => s
  | n :: _ =>
    if n.toNat / 16 ≠ lsa / 16 ∧ ((regionAt s (lsaRegion lsa)).lost ∨ isMarked s (linkSector lsa)) then queueError s q else s

/-- The read of a DEQ's sector: a probe, else a job of the medium; a LOST region and a poisoned sector answer POISON (R266, R268). -/
def deqRead (s : State) (x : HostCmd) (lsa : Nat) (resp : Resp) : State :=
  if (regionAt s (lsaRegion lsa)).lost then deqPoison s x lsa resp.rlen true
  else match probe s .qrd lsa with
    | (.kerf d, s) => finishDeq s x d resp
    | (.cache d, s) => finishDeq s x d resp
    | (.miss, s) => missRead s .qrd lsa x.id
    | (.fetching, s) => deqPoison s x lsa resp.rlen false
    | (.poisoned, s) => deqPoison s x lsa resp.rlen false

/-- A DEQ goes on as far as it can (R127, R263, R265, R267, R268). -/
def startDeq (s : State) (id : Nat) : State :=
  match cmdAt s id with
  | none => s
  | some x =>
    let q := qidOf x.addr
    let s := descCheck s q
    let v := queueAt s q
    if v.error then queueRefuse s x 7
    else if !v.enable then queueRefuse s x 1
    else if !bitOf v.deqPorts x.port.val then queueRefuse s x 2
    else match v.packets with
      | [] =>
        let s := hwAdd (hwAdd s Reg.DBQ_DEQ_CMDS 1) Reg.DBQ_EMPTY 1
        let s := pmcCount (pmcCount s 0x601 none 1) 0x602 none 1
        refuse s id ⟨.empty, 0, 0, 0x8000000000000000, 0⟩
      | p :: ps =>
        match p.sectors with
        | [] => s
        | (n, b) :: rest =>
          let r := queueReady s x (descNeed v) (descRegions s v)
          if !r.1 then r.2 else
          let lsa := n.toNat
          let eop := rest.isEmpty
          let resp : Resp := Resp.okData ((b + 15) / 16)
            ((if p.whole then fld p.data.toNat 0 else 0) ||| fld b 48 ||| flag p.whole 57 ||| flag eop 58) 0
          let s := modQueue r.2 q fun v =>
            { v with packets := if eop then ps else { p with whole := false, sectors := rest } :: ps, charged := true }
          let s := hwAdd s Reg.DBQ_DEQ_CMDS 1
          let s := pmcCount (if eop then hwAdd s Reg.DBQ_DEQ_PKTS 1 else s) 0x601 none 1
          let s := modCmd (carry s id) id fun y => { y with performed := true, resp := some resp }
          chainRule (freeDead (killSector (deqRead s x lsa resp) lsa) q) q lsa

/-- A queue is reset to empty: it keeps its configuration record (R270, R272). -/
def emptyQueue (v : Queue) : Queue :=
  { v with error := false, packets := [], opened := none, chunks := [], fill := 0, tail := 0, flushes := [], charged := true }

/-- A QFLUSH goes on as far as it can (R263, R266, R270). -/
def startQflush (s : State) (id : Nat) : State :=
  match cmdAt s id with
  | none => s
  | some x =>
    let q := qidOf x.addr
    let s := descCheck s q
    let v := queueAt s q
    if !v.enable then queueRefuse s x 1
    else if !bitOf v.deqPorts x.port.val then queueRefuse s x 2
    else
      let r := queueReady s x (descNeed v) (descRegions s v)
      if !r.1 then r.2 else
      let s := carry (modQueue r.2 q fun v => { v with charged := true }) id
      if v.error then
        let waiting := v.flushes
        let s := (heldSectors v).foldl (fun s n => killSector s n.toNat) s
        let s := askSweep (putQueue s q (emptyQueue v))
        waiting.foldl (fun s f => flushDone s f 0) (flushDone s id 0)
      else if v.opened.isSome then
        stageCmd (modQueue s q fun v => { v with flushes := v.flushes ++ [id] }) id .waiting
      else
        let f := flushNow s q
        flushDone f.2 id f.1

/-- Bytes a packet still holds. -/
def packetBytes (p : Packet) : Nat := (p.sectors.map (·.2)).sum

/-- Bytes held in a queue (R130). -/
def queueBytes (v : Queue) : Nat :=
  (v.packets.map packetBytes).sum + (match v.opened with | some (p, _) => packetBytes p | none => 0)

/-- The 16-B data unit of QSTAT (R130). -/
def qstatUnit (v : Queue) : Sector :=
  BitVec.ofNat 2048 (sat 32 v.packets.length + v.eccCorr.toNat * 2 ^ 32 +
    (v.opened.isSome.toNat + 2 * (!v.flushes.isEmpty).toNat + 4 * v.enable.toNat + 8 * v.error.toNat) * 2 ^ 48)

/-- A QSTAT is answered (R130, R263). -/
def startQstat (s : State) (id : Nat) : State :=
  match cmdAt s id with
  | none => s
  | some x =>
    let s := descCheck s (qidOf x.addr)
    let v := queueAt s (qidOf x.addr)
    complete (hwAdd s Reg.DBQ_QSTAT_CMDS 1) id (Resp.okData 1 (BitVec.ofNat 64 (queueBytes v)) (qstatUnit v))

end Sys2Proof.Machine
end

