-- ==== Sys2Proof/Machine/FailOps.lean ====
section
/-! DEFINITION. Shared operations of medium care: programs, retirement, marks in the medium, what decodes tell, and the failure of
dies, blanks and channel controllers (chapter 7). -/

namespace Sys2Proof.Machine

/-! ### Programs (R199, R214, R289) -/

/-- A program of a sector, or of a poison marker, has verified at the sector's place: what it held before is gone, a mark that stood for it
too (R75, R76). -/
def landProgram (s : State) (lsa : Nat) (data : Option Sector) (p : SealPlan) : State :=
  if isInner lsa then landInner s lsa data else
  let c := plannedCell s lsa p data
  let s := modMed (noteCeiling s (lsaRegion lsa) p) fun m => { m with cells := fput m.cells (placeOf s lsa) c, marks := fdel m.marks lsa }
  countSeal s (lsaChannel lsa) 1

/-- Programs run: in the serving states, outside a commit, and not below −58 °C (R154, R159, R207). -/
def programsRun (s : State) : Bool := s.glb.state.serves && s.krf.running.isNone && !s.thm.coldHold

/-- A program of a sector is under way (R215). -/
def programRuns (s : State) (lsa : Nat) : Bool := medBusy s lsa fun q => q.program && decide (q.state ≠ .raised)

/-- A sector can be programmed now: programs run, none of the sector is under way, and none of it is held or would have to be (R207, R215,
R292). -/
def canProgram (s : State) (lsa : Nat) : Bool :=
  programsRun s && !programRuns s lsa && !isExhausted s lsa && !s.sealing.held.contains (BitVec.ofNat 32 lsa)

/-- A sector of a region without a key is programmed with the bits given, but for a fresh EPOCH and SESSION: it is stale, no key seals it, and
its MAJOR keeps it stale for good (DESIGN CHOICE, log entry 73). -/
def landRaw (s : State) (lsa : Nat) (c : Cell) : State :=
  let c := { c with epoch := BitVec.ofNat 16 (epochNow s), session := BitVec.ofNat 8 (sessionNow s), grain := grainOf (epochNow s) (sessionNow s) }
  let s := modMed s fun m => { m with cells := fput m.cells (placeOf s lsa) c, marks := fdel m.marks lsa }
  countSeal s (lsaChannel lsa) 1

/-! ### Marks (R74 to R78) -/

/-- The place of a sector counts as holding a poison marker from now on; `lost`: its metadata does not decode (R216, R289). -/
def setBad (s : State) (lsa : Nat) (lost : Bool) : State := modMed s fun m => { m with marks := fput m.marks lsa lost }

/-- A sector is marked poisoned (R74): a CLEAN slot of it is freed. Where its slot holds newer bytes, or is POISONED already, only its place
is bad. `cause` is that of CNT_LAST_POISON. -/
def setMark (s : State) (lsa cause : Nat) (lost : Bool) : State :=
  if isInner lsa then (if markedInMedium s lsa then s else setBad s lsa lost) else
  let mark (s : State) : State :=
    if markedInMedium s lsa then s
    else counterPoison (cacheDrop (countPoison (setBad s lsa lost) (lsaRegion lsa) true) lsa) lsa cause
  match slotAt s lsa with
  | none => mark s
  | some x =>
    match x.state with
    | .clean => mark (freeSlot s lsa)
    | .fetching => mark s
    | _ => if markedInMedium s lsa then s else setBad s lsa lost

/-- The marks that housekeeping sets are reported (R78): a sector that was not marked is now. -/
def reportMark (before s : State) (lsa : Nat) : State :=
  if isMarked s lsa && !isMarked before lsa then
    let b := lsaChannel lsa / 8
    evt (raise s (Reg.BLK_INT_STATUS b) 6) Ev.BLK_SCRUB_POISON b (lsa * 256)
  else s

/-! ### Copies (R215, R217, R289) -/

/-- What the sealing engine finds in the cell of a sector that is copied or rewritten (R287). -/
def openCell (s : State) (lsa : Nat) : Opened := openSector s lsa Decoded.clean

/-- The bytes to program from what was found: zero for a stale sector, none for a marker. -/
def Opened.content : Opened → Option Sector
  | .data d => some d
  | .stale => some 0
  | _ => none

/-- A sector is programmed at its place, sealed from the cell that held it before: its minor by case 1 of R289. -/
def landCopy (s : State) (lsa : Nat) (old : Option Cell) (data : Option Sector) (raw : Cell) : State :=
  match sealPlanAt s lsa old with
  | some p => landProgram s lsa data p
  | none => landRaw s lsa raw

/-- A program of an exhausted sector is held until its region is re-keyed (R292). -/
def holdSector (s : State) (lsa : Nat) : State :=
  let n := BitVec.ofNat 32 lsa
  if s.sealing.held.contains n then s else
  let s := forceRekey s (lsaRegion lsa)
  let s := { s with sealing := { s.sealing with held := s.sealing.held ++ [n] } }
  evt (raise s Reg.SEAL_INT_STATUS 5) Ev.SEAL_HELD noInst 0

/-- A sector is copied from its place to the one it has after `remap` (R215, R217): opened, then sealed anew. One that does not decode, or
fails its check, is marked and moved as a marker (R76, R287); one that would need a minor that does not exist stays, and is held (R292). -/
def copySector (s : State) (lsa : Nat) (out : Decoded) (remap : State → State) : State :=
  let c := cellAt s lsa
  let r := openSector s lsa out
  let t := openCount s .move lsa r
  let t := match r with
    | .uncorr => reportMark t (setMark t lsa 3 true) lsa
    | .tagFail | .lsaFail => reportMark t (setMark t lsa 3 false) lsa
    | _ => t
  if isExhausted t lsa then holdSector t lsa else landCopy (remap t) lsa (storedMeta t lsa) r.content c

/-! ### Retirement (R216 to R218) -/

/-- A spare block of a channel is used; at 75 % and 90 % of them MCH_SPARE_75 and MCH_SPARE_90 are raised (R218). -/
def useSpareBlock (s : State) (ch : Nat) : State :=
  let n := (chanAt s ch).spareUsed + 1
  let s := modChan s ch fun c => { c with spareUsed := n }
  if n = 384 then evt (raise s (Reg.MCH_CAUSE ch) 5) Ev.MCH_SPARE_75 ch 0
  else if n = 461 then evt (raise s (Reg.MCH_CAUSE ch) 6) Ev.MCH_SPARE_90 ch 0
  else s

/-- The sector map, which all channels share, has grown by an entry (R218): the causes and the event go to the channel whose entry it is
(DESIGN CHOICE, log entry 64). -/
def noteMap (s : State) (ch : Nat) : State :=
  let n := s.med.sectorMap.length
  if n = 196608 then evt (raise s (Reg.MCH_CAUSE ch) 5) Ev.MCH_SPARE_75 ch 0
  else if n = 235930 then evt (raise s (Reg.MCH_CAUSE ch) 6) Ev.MCH_SPARE_90 ch 0
  else s

/-- A sector spare of a channel: sector spares are carved from spare blocks, 4,096 at a time. -/
def takeSectorSpare (s : State) (ch : Nat) : Option (Nat × State) :=
  let c := chanAt s ch
  let give (s : State) : Nat × State :=
    (spareSectorBase + ch * 2097152 + c.sectorSpares, modChan s ch fun c => { c with sectorSpares := c.sectorSpares + 1 })
  if c.sectorSpares % 4096 ≠ 0 then some (give s)
  else if c.spareUsed < 512 then some (give (useSpareBlock s ch))
  else none

/-- First slot of a block, and the number of its slots (the last block of a domain holds the slot of its gap alone). -/
def blockSlots (b : Nat) : Nat × Nat := (b / 257 * domainSlots + b % 257 * 4096, if b % 257 = 256 then 1 else 4096)

/-- A levelled slot lies elsewhere once the maps change; what it holds goes with it. -/
def remapSlot (s : State) (n : Nat) (f : Medium → Medium) : State :=
  modMed s fun m =>
    let k := f { m with cells := fdel m.cells (retiredSlot m n) }
    match fget m.cells (retiredSlot m n) with
    | some c => { k with cells := fput k.cells (retiredSlot k n) c }
    | none => k

/-- The retirement of a block that runs. -/
def blockMove (s : State) (b : Nat) : Option BlockMove := s.med.moves.find? fun j => j.block == b

/-- The next slot of a block that is copied: not yet copied, and not the gap of its domain. -/
def nextSlot (s : State) (j : BlockMove) : Option Nat :=
  let r := blockSlots j.block
  let d := r.1 / domainSlots
  (List.range r.2).find? fun i => decide (j.next ≤ i) && !j.ahead.contains i && decide (r.1 + i - d * domainSlots ≠ (domAt s d).gap)

/-- The sector that a levelled slot holds. -/
def sectorIn (s : State) (n : Nat) : Nat := lsaOfSlot (n / domainSlots) (n % domainSlots) (domAt s (n / domainSlots))

/-- A block's retirement goes on: the copy of its next slot is asked for in class MOVE; after the last one the spare block stands for it
(R216, R217). -/
def blockRule (s : State) (j : BlockMove) : State :=
  match nextSlot s j with
  | some i =>
    let lsa := sectorIn s ((blockSlots j.block).1 + i)
    if s.med.reqs.any fun q => decide (q.purpose = .block j.block) then s else addReq s .move true lsa (.block j.block)
  | none =>
    let ch := j.spare / 512
    let s := modMed s fun m => { m with moves := m.moves.filter fun k => k.block != j.block, blockMap := fput m.blockMap j.block j.spare }
    saveInner (raise (modChan s ch fun c => { c with blocks := c.blocks + 1 }) (Reg.MCH_CAUSE ch) 4) (.retirement ch)

/-- The retirements of blocks go on. -/
def blockRules (s : State) : State := s.med.moves.foldl blockRule s

/-- A block is to be retired: it takes a spare block of its channel. The result is false where there is none. -/
def retireBlock (s : State) (ch b : Nat) : Bool × State :=
  if (blockMove s b).isSome then (true, s) else
  let k := (chanAt s ch).spareUsed
  if 512 ≤ k then (false, s) else
  let j : BlockMove := { block := b, spare := ch * 512 + k, next := 0, ahead := [] }
  (true, blockRule (modMed (useSpareBlock s ch) fun m => { m with moves := m.moves ++ [j] }) j)

/-- A slot of a block is taken out of turn by the block's retirement. -/
def takeAhead (m : Medium) (n : Nat) : Medium :=
  { m with moves := m.moves.map fun j => if j.block = blockOfSlot n then { j with ahead := j.ahead ++ [slotInBlock n] } else j }

/-- A slot is retired: a spare takes its place, with what it held. Where the sector map is full its block is retired instead, and this slot of
it at once; at 16 slots of a block the block is. The result is false where the channel has no spare left (R216, R218). -/
def retireSlot (s : State) (ch n : Nat) : Bool × State :=
  let b := blockOfSlot n
  if !fhas s.med.sectorMap n ∧ 262144 ≤ s.med.sectorMap.length then
    (let r := retireBlock s ch b
     if r.1 then (true, remapSlot r.2 n fun m => takeAhead m n) else (false, raise s (Reg.MCH_CAUSE ch) 7))
  else
    match takeSectorSpare s ch with
    | none => (false, raise s (Reg.MCH_CAUSE ch) 7)
    | some (k, t) =>
      let t := remapSlot t n fun m => { m with sectorMap := fput m.sectorMap n k }
      let t := raise (modChan t ch fun c => { c with sectors := c.sectors + 1 }) (Reg.MCH_CAUSE ch) 4
      let t := saveInner (if fhas s.med.sectorMap n then t else noteMap t ch) (.retirement ch)
      let r := blockSlots b
      (true, if 16 ≤ (frange t.med.sectorMap r.1 (r.1 + r.2)).length then (retireBlock t ch b).2 else t)

/-- Event MCH_SPARE_EXHAUSTED with the sector's PA (R218). -/
def spareExhausted (s : State) (lsa : Nat) : State :=
  evt (raise s (Reg.MCH_CAUSE (lsaChannel lsa)) 7) Ev.MCH_SPARE_EXHAUSTED (lsaChannel lsa) (lsa * 256)

/-- A sector's slot is to be retired: its copy, or its marker, waits in class MOVE (R206, R216, R217). -/
def retireCare (s : State) (lsa : Nat) : State :=
  if medBusy s lsa fun q => decide (q.purpose = .retire) then s else addReq s .move true lsa .retire

/-- The marker of a sector is programmed at its place; it waits, as a mark, where the program would need a minor that does not exist
(R76, R292). -/
def putMarker (s : State) (lsa : Nat) : State :=
  if isExhausted s lsa then retireCare (setBad s lsa false) lsa
  else landCopy s lsa (storedMeta s lsa) none { cellAt s lsa with poison := true }

/-- The retirement of a sector's slot: the spare gets its copy, or its marker. With no spare left the slot stays; a bad one holds its marker
in place, and that is reported (R216, R218). -/
def retireAt (s : State) (lsa : Nat) : State :=
  if isExhausted s lsa then retireCare (holdSector s lsa) lsa else
  let r := retireSlot s (lsaChannel lsa) (levelledSlot s lsa)
  if r.1 then copySector r.2 lsa Decoded.clean id
  else if fhas s.med.marks lsa then putMarker (spareExhausted r.2 lsa) lsa else r.2

/-- A marker that fails its check stays a mark: its place is bad, the slot is retired, and the spare holds a marker (R76, R199, R216,
R287). -/
def markerCare (s : State) (lsa : Nat) (r : Opened) : Opened × State :=
  match r with
  | .tagFail | .lsaFail => if markedInMedium s lsa then (.poison, retireCare (setBad s lsa false) lsa) else (r, s)
  | _ => (r, s)

/-- A sector found bad is marked poisoned and its slot is retired: the spare holds a marker (R74, R205, R216, R218). -/
def markMedium (s : State) (lsa cause : Nat) (lost : Bool) : State := retireCare (setMark s lsa cause lost) lsa

/-- A device finds a sector bad: it is marked, and a MIRRORED one is asked of the peer, but for a mark of a merge failure (R74, R329). -/
def foundBad (s : State) (lsa cause : Nat) (lost : Bool) : State :=
  let t := markMedium s lsa cause lost
  if s.med.merged.contains lsa then t else askRepair t lsa

/-- Housekeeping finds a sector bad: the mark is reported as well (R78). -/
def careBad (s : State) (lsa : Nat) (lost : Bool) : State := reportMark s (foundBad s lsa 3 lost) lsa

/-! ### The failure of a blank (R225) -/

/-- A sector lies in a blank. -/
def inBlank (b : Blank) (lsa : Nat) : Bool := lsaRegion lsa % 8 == b.val

/-- Writes that a blank's slots held are lost: each stream's are kept for its PERSISTs (R71). -/
def noteLost (m : FMap (List (Nat × Nat))) (lsa : Nat) (x : Slot) : FMap (List (Nat × Nat)) :=
  (x.snapWriters ++ x.writers).foldl (fun m e =>
    let l := fgetD m e.1 []
    if l.any fun p => p.1 == lsa && decide (p.2 ≤ e.2) then m
    else fput m e.1 (l.filter (fun p => p.1 != lsa) ++ [(lsa, e.2)])) m

/-- A command waits on a blank: it is past its checks and not performed (R225). A record of the mate passed its own as it was taken from its
inbox (R319). -/
def waitsOn (b : Blank) (x : HostCmd) : Bool :=
  x.op.isPa && inBlank b (sectorOf x.addr) &&
    match x.stage, x.origin with
    | .charge, _ | .bitmap, _ | .way, _ | .slotQueue, _ | .medium, _ | .ordered, .mate _ _ _ _ => true
    | _, _ => false

/-- A waiting command of a failed blank ends: POISON, DETAIL LOST; a record of the mate is discarded and its region refused (R225,
R319). -/
def endLost (s : State) (x : HostCmd) : State :=
  let s := { s with krf := { s.krf with waiters := s.krf.waiters.filter fun w => w != .cmd x.id } }
  match x.origin with
  | .mate n _ _ _ => sendAck (modMir (delCmd s x.id) n fun y => { y with refused := y.refused ++ [BitVec.ofNat 9 (regionOf x.addr)] }) n
  | .stream _ _ => complete s x.id (Resp.bad .poison 2 x.op.rlen)

/-- Regions of extents that a port has dropped, or has yet to send again. -/
def owedRegions (x : MirPort) : List Nat := (x.missed ++ x.catchup).map (· / 512)

/-- Regions that a failed blank whose hardware serves can have rebuilt: LOST, MIRRORED and paired, with no record of theirs still out
on a PRIMARY (R228, R331). -/
def seedable (s : State) (r : Nat) : Bool :=
  let x := regionAt s r
  let v := s.med.blanks[blankOf r]
  x.lost && x.mirrored && s.mir.pairId.isSome && decide (v.state = .failed) && v.hwOk &&
    (isMate s || !(holdsRecord s.mir.ports[(0 : Fin 2)] r || holdsRecord s.mir.ports[(1 : Fin 2)] r))

/-- RDP_LOCK_CMD ends with a result (R172, R173). -/
def endLock (s : State) (lsa result : Nat) : State :=
  let ch := lsaChannel lsa
  let s := setCfg s Reg.RDP_LOCK_CMD (putBit (cfg s Reg.RDP_LOCK_CMD) 63 false)
  let s := modRdp s fun r => { r with lock := none }
  let count := ((waysOf s ch).filter fun e => decide (e.2.hold ≠ .ordinary)).length
  let s := hwSet s Reg.RDP_LOCK_STATUS (fld result 0 ||| fld count 4 ||| fld ch 10)
  raise s Reg.RDP_INT_STATUS (if result = 0 then 1 else 2)

/-- What waits for a read of a lost sector ends (R225, R243, R268). -/
def endRead (s : State) (lsa : Nat) (p : Purpose) : State :=
  match p with
  | .cmd id =>
    match cmdAt s id with
    | none => s
    | some x =>
      if x.op = .lkup then leafReturned s id lsa false
      else if x.op = .deq then deqPoison s x lsa ((x.resp.map (·.rlen)).getD 0) true
      else if x.op.isPa then complete s id (Resp.bad .poison 2 x.op.rlen)
      else s
  | _ => s

/-- A blank fails: its regions are LOST, what they hold in the device is freed, what waits on it ends (R225). One that has failed with its
content lost can fail again while it is rebuilt: the regions that were whole again are LOST once more, and no rebuild, seed or re-creation of
them goes on (R228, R331, R352). -/
def blankFail (s : State) (b : Blank) (hwOk : Bool) : State :=
  let hwOk := hwOk && (decide (s.med.blanks[b].state ≠ .failed) || s.med.blanks[b].hwOk)
  if s.med.blanks[b].state = .failed ∧ !s.med.blanks[b].hwOk then s else
  let regs := (List.range 60).map fun k => 8 * k + b.val
  let s := regs.foldl (fun s r => modRegion s r fun x => { x with lost := true, rebuilding := false, formatting := false }) s
  let mine := s.krf.slots.filter fun e => inBlank b e.1
  let s := { s with krf := { s.krf with
    lostWrites := mine.foldl (fun m e => noteLost m e.1 e.2) s.krf.lostWrites
    slots := s.krf.slots.filter fun e => !inBlank b e.1 } }
  let s := modCnt s fun c => { c with entries := c.entries.filter fun e => !inBlank b (pairSector e.1),
                                      folds := c.folds.filter fun e => !inBlank b e.1 }
  let s := modLke s fun l => { l with writes := l.writes.filter fun n => !inBlank b n.toNat,
                                      commit := l.commit.map fun c => { c with wait := c.wait.filter fun n => !inBlank b n.toNat } }
  let s := { s with sealing := { s.sealing with
    held := s.sealing.held.filter fun n => !inBlank b n.toNat
    erasing := s.sealing.erasing.filter fun j =>
      match j.why with
      | .recreate _ => j.region.toNat % 8 != b.val
      | _ => true } }
  let s := (regs.filter fun r => fhas s.mir.regions r).foldl (fun s r => modMirRegion s r fun m =>
    { m with seedIn := none, gaps := false, asked := false }) s
  let gone := s.med.reqs.filter fun q => inBlank b q.lsa.toNat
  let s := modMed (dropReqs s fun q => inBlank b q.lsa.toNat) fun m =>
    { m with blanks := vmod m.blanks b fun v => { v with state := .failed, hwOk := hwOk, down := false, rebuild := none, catchUp := none } }
  let s := regs.foldl dropHeld s
  let s := regs.foldl (fun s r => invalidate s (regionBase r) (regionBase r + regionSectors - 1) true) s
  let s := match s.rdp.lock with
    | some l => if inBlank b l.lsa.toNat then endLock s l.lsa.toNat 3 else s
    | none => s
  let s := evt (raise s (Reg.BLK_INT_STATUS b.val) 3) Ev.BLK_FAILED b.val 0
  let s := (s.cmds.filter (waitsOn b)).foldl endLost s
  let s := gone.foldl (fun s q => (q.purpose :: q.joined.map (·.2)).foldl (fun s p => endRead s q.lsa.toNat p) s) s
  let s := markStale s ((s.mir.ports.toList.flatMap owedRegions).filter fun r => regs.contains r && isPrimary s)
  [(0 : Fin 2), 1].foldl (fun s n => if journalOn s.mir.ports[n] b then mirOverflow s n else s) s

/-! ### Dies and decodes (R205, R206, R216, R223) -/

/-- A die is marked failed; a second one fails the blank (R223, R225). -/
def dieFail (s : State) (b : Blank) (die : Fin 18) : State :=
  let v := s.med.blanks[b]
  match v.die with
  | none =>
    let s := saveInner (modBlank s b fun v => { v with die := some die, state := if v.state = .normal then .degraded else v.state }) .failures
    evt (raise s (Reg.BLK_INT_STATUS b.val) 0) Ev.BLK_DIE_FAILED b.val 0
  | some d =>
    if d = die then s
    else blankFail (evt (raise s (Reg.BLK_INT_STATUS b.val) 0) Ev.BLK_DIE_FAILED b.val 0) b false

/-- A decode enters the blank's record of the last 4,096; a die that at least half of them show in error is marked failed (R223). -/
def noteDie (s : State) (b : Blank) (dies : List (Fin 18)) : State :=
  let v := s.med.blanks[b]
  let n := v.decodes + 1
  let bad := (v.dieBad ++ (dies.filter fun d => decide (v.die ≠ some d)).map fun d => (n, d)).filter fun e => n < e.1 + 4096
  let gone := if n < 4096 then [] else (List.finRange 18).filter fun d => decide (2048 ≤ (bad.filter fun e => e.2 == d).length)
  let s := modBlank s b fun v => { v with decodes := n, dieBad := bad.filter fun e => !gone.contains e.2 }
  gone.foldl (fun s d => dieFail s b d) s

/-- BLKb_CTRL thresholds: REFRESH_STEP, RETIRE_STEP, SYM_RETIRE (R230). -/
def blkThresholds (s : State) (b : Nat) : Nat × Nat × Nat :=
  (cfgFld s (Reg.BLK_CTRL b) 1 3, cfgFld s (Reg.BLK_CTRL b) 4 3, cfgFld s (Reg.BLK_CTRL b) 8 4)

/-- What a decode shows is counted (R200, R223, R229): in ECC.LADDER if it needed a ladder step or its grain mark misled it; one that
climbs the whole ladder in vain counts in ECC.UNCORR alone (DESIGN CHOICE, log entry 64). -/
def countDecode (s : State) (ch : Nat) (out : Decoded) : State :=
  let e := hwGet s (Reg.MCH_ECC ch)
  let climbed : Nat := match out.step with
    | some k => if k.val ≠ 0 ∨ !out.grainOk then 1 else 0
    | none => 0
  let e := fld (sat 32 (bitsOf e 0 32 + out.symbols)) 0 ||| fld (sat 16 (bitsOf e 32 16 + climbed)) 32 |||
    fld (sat 16 (bitsOf e 48 16 + out.step.isNone.toNat)) 48
  let s := hwSet s (Reg.MCH_ECC ch) e
  let s := if out.step.isNone then raise s (Reg.MCH_CAUSE ch) 8 else s
  let s := match out.step with
    | some k => if (blkThresholds s (ch / 8)).2.1 ≤ k.val then raise s (Reg.MCH_CAUSE ch) 9 else s
    | none => s
  let steps := match out.step with | some k => k.val | none => 7
  let s := pmcCount (pmcCount s 0x900 (some ch) 1) 0x902 (some ch) steps
  noteDie (pmcCount s 0x904 (some ch) out.symbols) (blankOf (ch / 8)) out.dies

/-- A sector waits for a rewrite in class SCRUB (R206). -/
def askRefresh (s : State) (lsa : Nat) : State :=
  if medBusy s lsa fun q => decide (q.purpose = .refresh) then s else addReq s .scrub true lsa .refresh

/-- A sector that decoded is refreshed or retired by the step and the symbols it needed (R206, R216); the slot of a marked sector that
does not decode is retired (R216). -/
def careAfter (s : State) (lsa : Nat) (out : Decoded) : State :=
  match out.step with
  | none => if markedInMedium s lsa then retireCare (setBad s lsa true) lsa else s
  | some k =>
    let ch := lsaChannel lsa
    let b := ch / 8
    let t := blkThresholds s b
    let erased := (s.med.blanks[blankOf b]).die.isSome
    let n := BitVec.ofNat 32 lsa
    let s := if t.1 ≤ k.val then askRefresh s lsa else s
    if t.2.2 ≤ out.symbols ∨ (erased ∧ 3 ≤ out.symbols) then retireCare s lsa
    else if t.2.1 ≤ k.val ∧ (chanAt s ch).weak.contains n then retireCare s lsa
    else
      let known := ((List.range 8).map fun j => (chanAt s (8 * b + j)).weak.length).sum
      if t.2.1 ≤ k.val ∧ known < 4096 then modChan s ch fun c => { c with weak := c.weak ++ [n] } else s

/-- The decode of a read is counted and acted on. -/
def noteDecode (s : State) (lsa : Nat) (out : Decoded) : State := careAfter (countDecode s (lsaChannel lsa) out) lsa out

/-! ### Channel failover (R219 to R222) -/

/-- The channels a controller serves. -/
def servedBy (s : State) (m : Nat) : List Nat :=
  let b := if m < 64 then m / 8 else m - 64
  ((List.range 8).map fun j => 8 * b + j).filter fun ch => (chanAt s ch).server == m

/-- A drain is put back: its slot is DIRTY again with every write it held (R221). -/
def undoDrain (s : State) (lsa : Nat) : State :=
  modSlot s lsa fun x =>
    if x.state = .draining then
      { x with state := .dirty, snapshot := none, rewritten := false, snapWriters := [],
               writers := x.snapWriters.foldl (fun m e => fput m e.1 (min e.2 (fgetD m e.1 e.2))) x.writers }
    else x

/-- An operation in flight is restarted: reads and rewrites are raised again, rebuild writes with the bytes of the rebuild buffer, drains go
back to their slots, an interrupted fold starts afresh (R221, R276). -/
def restartOp (s : State) (q : MedReq) : State :=
  match q.purpose with
  | .drain => undoDrain (delReq s q.id) q.lsa.toNat
  | .foldProgram => startFold (abandonFold s q.lsa.toNat) q.lsa.toNat
  | _ => modReq s q.id fun q => { q with state := .raised }

/-- The operations in flight on a channel are restarted (R221). -/
def restartOps (s : State) (ch : Nat) : State :=
  let flight := (reqsOf s ch).filter fun q => decide (q.state ≠ .raised)
  let s := flight.foldl restartOp s
  modChan s ch fun c => { c with arb := { c.arb with holder := none } }

/-- The controller that takes over a channel of a blank: its idle spare, or the lowest surviving one that serves fewer than two (R220, R222).
That a spare which serves a channel may double too, after the blank's own controllers, is a DESIGN CHOICE (log entry 74): R222 does not
say. -/
def takeOver (s : State) (b : Nat) : Option Nat :=
  let ok (m : Nat) : Bool := !(s.med.failed.any fun f => f.val == m)
  if ok (64 + b) ∧ (servedBy s (64 + b)).isEmpty then some (64 + b)
  else (((List.range 8).map fun j => 8 * b + j) ++ [64 + b]).find? fun m => ok m && decide ((servedBy s m).length < 2)

/-- A controller has failed: its channels move to the spare, or to a doubling controller; with none left the blank fails (R219 to R222).
`cause` is its bit of MCHnn_CAUSE. -/
def mchFail (s : State) (m : Mch) (cause : Nat) : State :=
  if s.med.failed.contains m then s else
  let b := if m.val < 64 then m.val / 8 else m.val - 64
  let chans := servedBy s m.val
  let s := raise (saveInner (modMed s fun x => { x with failed := x.failed ++ [m] }) .failures) (Reg.MCH_CAUSE m.val) cause
  if chans.isEmpty ∧ 64 ≤ m.val then evt (raise s (Reg.MCH_CAUSE m.val) 10) Ev.MCH_SPARE_LOST m.val 0
  else chans.foldl (fun s ch =>
    let s := raise s (Reg.MCH_CAUSE ch) 0
    match takeOver s b with
    | none => blankFail s (blankOf b) false
    | some k => evt (restartOps (modChan s ch fun c => { c with server := k }) ch) Ev.MCH_FAILOVER ch 0) s

end Sys2Proof.Machine
end

