-- ==== Sys2Proof/Machine/HostOps.lean ====
section
/-! DEFINITION. Shared operations of the host ports: acceptance, admission tokens, stream order, and what follows once a command, or an
event of the device, has had its effect (chapters 3, 4, 6 and 15). -/

namespace Sys2Proof.Machine

/-! ### Discards (R91, R99 to R101, R107) -/

/-- HPn_LAST_DISCARD names a channel and a cause. -/
def lastDiscard (s : State) (p : HPort) (c : HChan) (cause : Nat) : State :=
  hwSet s (Reg.HP_LAST_DISCARD p.val) (fld c.toNat 0 ||| fld cause 8 ||| flag true 31)

/-- n commands are not accepted. -/
def countLost (s : State) (p : HPort) (n : Nat) : State := pmcCount (hwSat s (Reg.HP_CMD_DISCARD p.val) 32 n) 0x104 (some p.val) n

/-- n commands are not accepted, for a cause: 1 FEC or CRC24, 2 protocol, 3 buffer full, 4 link down, 5 device state (R100). -/
def countDiscard (s : State) (p : HPort) (c : HChan) (cause n : Nat) : State := lastDiscard (countLost s p n) p c cause

/-- A burst or a command is discarded, with its commands: a full buffer is reported (R91, R100). -/
def discardCmds (s : State) (p : HPort) (c : HChan) (cause n : Nat) : State :=
  let s := countDiscard s p c cause n
  if cause = 3 then evt (raise s (Reg.HP_INT_STATUS p.val) 5) Ev.HP_OVERFLOW p.val 0 else s

/-! ### Acceptance (R88, R91, R99, R112) -/

/-- The opcode value of each command of the port (R114). -/
def Op.code : Op → Nat
  | .nop => 0x00 | .echo => 0x01 | .rd64 => 0x10 | .rd256 => 0x11 | .wr64 => 0x18 | .wr256 => 0x19 | .wrm64 => 0x1A
  | .fadd64 => 0x20 | .cswap64 => 0x21 | .cadd => 0x22 | .crd => 0x23 | .lkup => 0x30 | .enq => 0x40 | .deq => 0x41
  | .qflush => 0x42 | .qstat => 0x43 | .fence => 0x50 | .persist => 0x51 | .unknown => 0xFF

/-- A command slot with its data, as it left its stream (R104). -/
structure Slotted where
  port    : HPort
  chan    : HChan
  code    : BitVec 8
  du      : Nat
  tag     : BitVec 12
  addr    : PA
  operand : Word64
  data    : Sector

/-- A tag is outstanding on a stream of the present link session (R111 to R113). -/
def tagOut (s : State) (p : HPort) (c : HChan) (tag : BitVec 12) : Bool :=
  s.cmds.any fun x => match x.origin with
    | .stream q d => decide (q = p) && decide (d = c) && x.tag == tag && x.session == (s.ports[p]).session
    | .mate _ _ _ _ => false

/-- The record of a command that is accepted now. -/
def acceptedCmd (s : State) (x : Slotted) : HostCmd where
  id := s.nextCmd
  origin := .stream x.port x.chan
  session := (s.ports[x.port]).session
  op := opOfCode x.code.toNat
  code := x.code
  du := x.du
  tag := x.tag
  addr := x.addr
  operand := x.operand
  data := x.data
  stage := .buffered
  performed := false
  reserved := 0
  resp := none
  mateWait := false
  reads := []
  dupTag := tagOut s x.port x.chan x.tag
  sync := false

/-- Whether a command that arrives is accepted: 0 if it is, else the cause of its discard; none while the link is down or looped back
(R88, R91, R97, R99, R102). -/
def arrival (s : State) (x : Slotted) : Option Nat :=
  if !(s.ports[x.port]).linkUp ∨ loopedBack s x.port then none
  else if !s.glb.state.serves then some 5
  else if 1024 < receiveUnits s x.port + partUnits s x.port x.chan + cmdUnits (acceptedCmd s x) then some 3
  else some 0

/-- A command is accepted (R88): it is in the receive buffer. -/
def putCmd (s : State) (x : HostCmd) : State := { s with cmds := s.cmds ++ [x], nextCmd := s.nextCmd + 1 }

/-- A command arrives complete. -/
def accept (s : State) (x : Slotted) : State :=
  match arrival s x with
  | none => s
  | some 0 => pmcCount (hwAdd (putCmd s (acceptedCmd s x)) (Reg.HP_RX_CMDS x.port.val) 1) 0x100 (some x.port.val) 1
  | some k => discardCmds s x.port x.chan k 1

/-! ### Tokens (R187, R426) -/

/-- A bucket at a time, filled at a rate in thousandths of a byte per ns, up to a cap. -/
def Bucket.filled (b : Bucket) (now rate cap : Nat) : Bucket := ⟨min cap (b.tokens + (now - b.at_) * rate), now⟩

/-- A bucket gives tokens, down to none. -/
def Bucket.take (b : Bucket) (n : Nat) : Bucket := { b with tokens := b.tokens - n }

/-- 16 KiB in thousandths of a byte. -/
abbrev bucketCap : Nat := 16384000

/-- The classes of throttling (R426). -/
inductive Toll where
  | write (bytes : Nat)
  | read (bytes : Nat)
  | free
  deriving DecidableEq, Repr

/-- What a command is charged by throttling (R426). -/
def throttleToll (x : HostCmd) : Toll :=
  match x.op with
  | .wr64 | .wr256 | .wrm64 | .fadd64 | .cswap64 | .cadd | .enq => .write (16 + 64 * x.du)
  | .rd64 | .rd256 | .lkup | .crd => .read (16 + 16 * x.op.rlen)
  | .deq => .read 272
  | _ => .free

/-- Rate of a throttling bucket, thousandths of a byte per ns, at a percentage of 95.9 GB/s. -/
def throttleRate (pct : Nat) : Nat := 959 * pct

/-- The buckets of a port as they stand now. -/
def wrBucketNow (s : State) (p : HPort) : Bucket := (s.ports[p]).wrBucket.filled s.time.toNat (throttleRate s.thm.writePct) bucketCap

/-- The read-class bucket of a port as it stands now. -/
def rdBucketNow (s : State) (p : HPort) : Bucket := (s.ports[p]).rdBucket.filled s.time.toNat (throttleRate s.thm.readPct) bucketCap

/-- Throttling lets a command pass now. At 100 % a class is not throttled. -/
def throttlePasses (s : State) (x : HostCmd) : Bool :=
  match throttleToll x with
  | .write n => s.thm.writePct == 100 || decide (1000 * n ≤ (wrBucketNow s x.port).tokens)
  | .read n => s.thm.readPct == 100 || decide (1000 * n ≤ (rdBucketNow s x.port).tokens)
  | .free => true

/-- A command that passes is charged. -/
def throttleCharge (s : State) (x : HostCmd) : State :=
  match throttleToll x with
  | .write n => if s.thm.writePct = 100 then s
    else modPort s x.port fun q => { q with wrBucket := (wrBucketNow s x.port).take (1000 * n) }
  | .read n => if s.thm.readPct = 100 then s
    else modPort s x.port fun q => { q with rdBucket := (rdBucketNow s x.port).take (1000 * n) }
  | .free => s

/-- What the steady rest holds of a command (R187): nothing, or bytes of the bucket of general writes (`false`) or of CADD and ENQ
(`true`). -/
def restToll (s : State) (x : HostCmd) : Option (Bool × Nat) :=
  if !cfgBit s Reg.ARB_REST_CTRL 0 then none else
  match s.med.level, x.op with
  | .none, _ => none
  | .soft, .cadd | .soft, .enq => none
  | _, .wr64 | _, .wrm64 | _, .fadd64 | _, .cswap64 => some (false, 64)
  | _, .wr256 => some (false, 256)
  | _, .cadd => some (true, 64)
  | _, .enq => some (true, enqBytes x.addr)
  | _, _ => none

/-- Rate of a bucket of the steady rest, thousandths of a byte per ns: ARB_REST_RATE in 0.5-GB/s units. -/
def restRate (s : State) (buf : Bool) : Nat :=
  500 * (if buf then cfgFld s Reg.ARB_REST_RATE 16 8
         else if s.med.level = .hard then cfgFld s Reg.ARB_REST_RATE 8 8 else cfgFld s Reg.ARB_REST_RATE 0 8)

/-- A bucket of the steady rest as it stands now. -/
def restBucketNow (s : State) (p : HPort) (buf : Bool) : Bucket :=
  let b := if buf then (s.ports[p]).bufBucket else (s.ports[p]).restBucket
  b.filled s.time.toNat (restRate s buf) bucketCap

/-- The steady rest lets a command pass now. -/
def restPasses (s : State) (x : HostCmd) : Bool :=
  match restToll s x with
  | none => true
  | some (buf, n) => decide (1000 * n ≤ (restBucketNow s x.port buf).tokens)

/-- A command that passes is charged. -/
def restCharge (s : State) (x : HostCmd) : State :=
  match restToll s x with
  | none => s
  | some (buf, n) =>
    let b := (restBucketNow s x.port buf).take (1000 * n)
    modPort s x.port fun q => if buf then { q with bufBucket := b } else { q with restBucket := b }

/-- Every bucket is brought up to now, before a rate changes. -/
def fillBuckets (s : State) : State :=
  (List.finRange 4).foldl (fun s p =>
    modPort s p fun q => { q with wrBucket := wrBucketNow s p, rdBucket := rdBucketNow s p,
                                  restBucket := restBucketNow s p false, bufBucket := restBucketNow s p true }) s

/-! ### Stream order and dispatch (R57, R62, R88, R142, R298) -/

/-- The commands of a command's stream that came before it. -/
def earlier (s : State) (x : HostCmd) : List HostCmd := s.cmds.filter fun y => sameStream x y && decide (y.id < x.id)

/-- The kerf buffer and the fold cache are powered: in L3 and L4 commands wait for the exit (R419, R420). -/
def staged (s : State) : Bool := decide (s.pwr.cur.val ≤ 2)

/-- A command leaves the receive buffer: forwarding has begun, no commit runs, and nothing before it holds its stream (R62, R88, R93,
R95, R159). -/
def mayDispatch (s : State) (x : HostCmd) : Bool :=
  s.glb.fwd && s.krf.running.isNone && staged s && !(earlier s x).any fun y =>
    decide (y.op = .fence) || (match y.stage with | .buffered | .throttled | .rested => true | _ => false)

/-- An earlier command of its stream must be performed before a command: an overlapping PA-addressed one (R57), or one of the same queue
that has not reached it. One that stands in the queue of a FETCHING slot holds nothing back: what overlaps it joins that queue behind it, at
its own place of arrival (R147, R148). -/
def mustFollow (x y : HostCmd) : Bool :=
  (overlap x y && !y.performed && y.resp.isNone && decide (y.stage ≠ .slotQueue)) ||
    (x.op.isQueue && y.op.isQueue && qidOf x.addr == qidOf y.addr &&
      match y.stage with | .ordered | .charge | .bitmap => true | _ => false)

/-- The region's erase waits for the commands past check 3 (R298). -/
def eraseHolds (s : State) (x : HostCmd) : Bool :=
  x.op.isPa && inUser x.addr && s.sealing.erasing.any fun j => j.region.toNat == regionOf x.addr

/-- The PERSISTs of a port that are outstanding before one (R131). The limit is judged when the PERSIST is dispatched, against those
of the port's present link session that were accepted before it: DESIGN CHOICE (log entry 61). -/
def persistsBefore (s : State) (x : HostCmd) : Nat :=
  (s.cmds.filter fun y => decide (y.op = .persist) && decide (y.port = x.port) && y.session == x.session &&
    decide (y.id < x.id)).length

/-- A command is carried out: its own operation begins (check 5 of R54, and the opcode's own checks). -/
def perform (s : State) (x : HostCmd) : State :=
  match x.op with
  | .nop => refuse s x.id (Resp.plain .ok 0)
  | .echo => refuse s x.id (Resp.okData (4 * x.du) x.operand (x.data &&& maskOf 2048 0 (512 * x.du)))
  | .rd64 | .rd256 => startRead s x.id
  | .wr64 | .wr256 | .wrm64 | .fadd64 | .cswap64 => admitWrite s x.id
  | .cadd => startCadd s x.id
  | .crd => startCrd s x.id
  | .lkup => startLkup s x.id
  | .enq => startEnq s x.id
  | .deq => startDeq s x.id
  | .qflush => startQflush s x.id
  | .qstat => startQstat s x.id
  | .fence => stageCmd s x.id .waiting
  | .persist =>
    if 64 ≤ persistsBefore s x then refuse s x.id (Resp.plain .retry 1) else stageCmd s x.id .waiting
  | .unknown => refuse s x.id (Resp.plain .malformed 1)

/-- A command in its stream's order is checked and carried out, or waits behind what it must follow (R54, R57, R298). -/
def dispatchCmd (s : State) (id : Nat) : State :=
  match cmdAt s id with
  | none => s
  | some x =>
    if (earlier s x).any (mustFollow x) || eraseHolds s x then stageCmd s id .ordered
    else if x.op.isPa then
      match checkPa s x with
      | some r => if r.status = .poison then complete s id r else refuse s id r
      | none => perform s x
    else perform s x

/-- A command that throttling has let pass meets the steady rest (R187). -/
def restStep (s : State) (id : Nat) : State :=
  match cmdAt s id with
  | none => s
  | some x =>
    if restPasses s x then dispatchCmd (restCharge s x) id
    else pmcCount (hwAdd (stageCmd s id .rested) Reg.ARB_REST_HELD 1) 0x415 none 1

/-- A command leaves the receive buffer: check 1 of R54, then throttling (R135, R426). -/
def throttleStep (s : State) (id : Nat) : State :=
  match cmdAt s id with
  | none => s
  | some x =>
    match malformed x with
    | some d => refuse s id (Resp.plain .malformed d)
    | none => if throttlePasses s x then restStep (throttleCharge s x) id else stageCmd s id .throttled

/-- A command that waits for a bitmap bit or for a way goes on (R144, R274). -/
def resume (s : State) (x : HostCmd) : State :=
  match x.op with
  | .cadd => startCadd s x.id
  | .enq => startEnq s x.id
  | .deq => startDeq s x.id
  | .qflush => startQflush s x.id
  | _ => bitmapStep s x.id

/-- One accepted command goes on as far as it can. -/
def advance (s : State) (id : Nat) : State :=
  match cmdAt s id with
  | none => s
  | some x =>
    match x.stage with
    | .buffered => if mayDispatch s x then throttleStep s id else s
    | .ordered => dispatchCmd s id
    | .way => if s.krf.running.isNone then resume s x else s
    | .bitmap => resume s x
    | .charge => if s.krf.done then resume s x else s
    | _ => s

/-- Every accepted command goes on, in order of acceptance. -/
def advanceAll (s : State) : State := (s.cmds.map (·.id)).foldl advance s

/-! ### What follows from an effect -/

/-- The table set whose leaves firmware writes now: that of the commit that runs, else the current one (R243, R250). -/
def writtenVersion (s : State) : Nat :=
  match s.lke.commit, s.lke.staged with
  | some _, some t => t.version.toNat
  | _, _ => s.lke.cur.version.toNat

/-- Firmware writes the sectors of leaves that are admitted now (R142, R243, R250). -/
def writeLeaves (s : State) : State :=
  s.lke.writes.foldl (fun s n =>
    let lsa := n.toNat
    let off (s : State) : State := modLke s fun l => { l with writes := l.writes.filter (· ≠ n) }
    if (regionAt s (lsaRegion lsa)).lost then off s
    else
      let r := admitSector s (.leaf n) lsa
      if r.1 then off (putSector r.2 lsa (Config.leafBytes (writtenVersion s) lsa) true) else r.2) s

/-- A PERSIST waits for a slot: it holds a write that its stream carried before it (R69). -/
def slotOwes (x : HostCmd) (e : Slot) : Bool :=
  match x.stream with
  | none => false
  | some k =>
    ((fget e.writers k).any fun i => decide (i < x.id)) || ((fget e.snapWriters k).any fun i => decide (i < x.id))

/-- A waiting PERSIST. -/
def persistWaits (x : HostCmd) : Bool := decide (x.op = .persist) && decide (x.stage = .waiting)

/-- Slots that a waiting PERSIST covers are eligible for drain, ahead of the others (R152). -/
def markWanted (s : State) : State :=
  let ps := s.cmds.filter persistWaits
  if ps.isEmpty then s else
  { s with krf := { s.krf with slots := fmapv (fun _ e => if ps.any fun x => slotOwes x e then { e with wanted := true } else e)
                                                s.krf.slots } }

/-- The calendars of the four ports follow their buffers (R90). -/
def calAll (s : State) : State := (List.finRange 4).foldl calUpdate s

/-- KRF_CTRL.FLUSH: hardware clears it once no kerf slot carries charge (R152, R167). -/
def flushRule (s : State) : State :=
  if cfgBit s Reg.KRF_CTRL 0 ∧ chargedSlots s = 0 then
    raise (setCfg s Reg.KRF_CTRL (putBit (cfg s Reg.KRF_CTRL) 0 false)) Reg.KRF_INT_STATUS 5
  else s

/-- A reservation still waits for charge. -/
def stillWaits (s : State) : Waiter → Bool
  | .cmd id => (cmdAt s id).any fun x => decide (x.stage = .charge)
  | .queueSet m => decide ((s.mbx[m]).state = .busy) && (s.mbx[m]).waits
  | .clear m => s.cnt.clears.any fun c => decide (c.1 = m)
  | .leaf n => s.lke.writes.contains n
  | .record n => !(s.mir.ports[n]).inbox.isEmpty

/-- Reservations that are wanted no more leave the line, and give back what charge they held. -/
def lineRule (s : State) : State :=
  if s.krf.waiters.all (stillWaits s) ∧ s.krf.granted.all (fun e => stillWaits s e.1) then s
  else { s with krf := { s.krf with waiters := s.krf.waiters.filter (stillWaits s)
                                    granted := s.krf.granted.filter fun e => stillWaits s e.1 } }

/-- Once an effect is in place, everything it lets go on goes on: held OKs, commands in their streams, firmware's writes, folds that
were asked for, PERSISTs' slots, calendars. -/
def settlePorts (s : State) : State :=
  calAll (flushRule (markWanted (lagRule (foldAllRule (writeLeaves (advanceAll (lineRule (dispatchLkups (releaseOks (syncRule s))))))))))

end Sys2Proof.Machine
end

