-- ==== Sys2Proof/Machine/MbxOps.lean ====
section
/-! DEFINITION. The mailboxes: the exchange of a command, the checks every command meets first, region descriptors as mailbox commands
carry them, and the erase of a region with what waits for it (chapters 2, 10 and 12). -/

namespace Sys2Proof.Machine

/-! ### Results -/

/-- How the performance of a mailbox command ends: DONE with a CODE, a REASON and a response; still running; or not begun, for want of
charge or of a region's bit (R142, R144). -/
inductive MbxOut where
  | fin (code reason : Nat) (resp : List Byte)
  | runs
  | waits
  deriving DecidableEq, Repr

/-- BAD_LENGTH (R346). -/
def badLen (s : State) : MbxOut × State := (.fin 3 0 [], s)

/-- BAD_FIELD (R346). -/
def badField (s : State) : MbxOut × State := (.fin 4 0 [], s)

/-- REFUSED with a REASON (R346). -/
def refusedFor (s : State) (reason : Nat) : MbxOut × State := (.fin 1 reason [], s)

/-- DONE with a response (R346). -/
def doneWith (s : State) (resp : List Byte) : MbxOut × State := (.fin 0 0 resp, s)

/-- Every byte of a request from an offset on, k of them, is zero (R350). -/
def zeroAt (req : List Byte) (off k : Nat) : Bool := (slice req off k).all fun b => b == 0

/-! ### The exchange (R341, R342, R349) -/

/-- The cells of a buffer that holds a list of bytes: those that are not zero. -/
def cellsOf (l : List Byte) : List Host.Cell := (l.zipIdx.filter fun e => e.1 != 0).map fun e => (e.2, e.1)

/-- Byte i of a buffer. -/
def bufByte (m : List Host.Cell) (i : Nat) : Byte := fgetD m i 0

/-- The first n bytes of a buffer. -/
def bufBytes (m : List Host.Cell) (n : Nat) : List Byte := (List.range n).map (bufByte m)

/-- The first bytes of a buffer are overwritten. -/
def bufWrite (m : List Host.Cell) (l : List Byte) : List Host.Cell := cellsOf l ++ m.filter fun e => decide (l.length ≤ e.1)

/-- µs since GO, saturating: MBXm_TIME. -/
def mbxUs (s : State) (x : MbxS) : BitVec 32 := BitVec.ofNat 32 (sat 32 ((s.time.toNat - x.goAt) / 1000))

/-- The command of a mailbox reaches DONE (step 4 of R342). -/
def mbxFinish (s : State) (m : Mbx) (code reason : Nat) (resp : List Byte) : State :=
  modMbx s m fun x =>
    { x with state := .done, code := BitVec.ofNat 8 code, reason := BitVec.ofNat 16 reason, rspLen := resp.length,
             rsp := cellsOf resp, ticket := x.ticket + 1, time := mbxUs s x, waits := false }

/-- A mailbox command's performance is recorded: it is DONE, runs on, or waits. -/
def mbxSettle (m : Mbx) (r : MbxOut × State) : State :=
  match r.1 with
  | .fin code reason resp => mbxFinish r.2 m code reason resp
  | .runs => modMbx r.2 m fun x => { x with waits := false }
  | .waits => modMbx r.2 m fun x => { x with waits := true }

/-- A mailbox whose command has not reached DONE. -/
def mbxBusy (x : MbxS) : Bool := decide (x.state = .busy) || decide (x.state = .aborting)

/-- The opcode captured at GO. -/
def mbxOp (s : State) (m : Mbx) : Nat := s.mbx[m].opcode.toNat

/-- The request captured at GO (R341). -/
def mbxReq (s : State) (m : Mbx) : List Byte := bufBytes s.mbx[m].req s.mbx[m].reqLen

/-- The mailbox registers are within reach: the core is out of reset. -/
def coreUp (s : State) : Bool := decide (s.seq.phase = .on) && !s.glb.inReset

/-- The order of the next GO. -/
def nextOrder (s : State) : Nat := ((List.finRange 8).map fun m => s.mbx[m].order).foldl max 0 + 1

/-- GO in state IDLE: the device captures the command (step 2 of R342). -/
def mbxCapture (s : State) (m : Mbx) (op reqLen : Nat) (irq : Bool) : State :=
  modMbx s m fun x =>
    { x with state := .busy, opcode := BitVec.ofNat 16 op, reqLen := reqLen, irq := irq, code := 0, reason := 0,
             rspLen := 0, goAt := s.time.toNat, waits := true, order := nextOrder s }

/-- Host software writes a request and MBXm_CMD (step 1 of R342). -/
def mbxPlace (s : State) (m : Mbx) (op : Nat) (req : List Byte) (irq : Bool) : State :=
  let s := modMbx s m fun x => { x with req := bufWrite x.req req }
  setCfg s (Reg.MBX_CMD m.val) (fld op 0 ||| fld (req.length % 8192) 16 ||| flag irq 29)

/-! ### The catalogue (R348, R350) -/

/-- The opcodes of the catalogue (R350). -/
def catalogue : List Nat :=
  [0x0000, 0x0001, 0x0010, 0x0011, 0x0012, 0x0020,
   0x0100, 0x0101, 0x0102, 0x0103, 0x0104, 0x0105, 0x0106, 0x0107, 0x0108,
   0x0200, 0x0201, 0x0202, 0x0203, 0x0208, 0x0209,
   0x0300, 0x0301, 0x0302, 0x0303, 0x0304, 0x0305, 0x0306, 0x0307,
   0x0400, 0x0401, 0x0402, 0x0403, 0x0404, 0x0405,
   0x0500, 0x0501, 0x0502, 0x0503, 0x0504, 0x0505,
   0x0600, 0x0601, 0x0602, 0x0603, 0x0604, 0x0605, 0x0606,
   0x0700, 0x0701, 0x0702,
   0x0800, 0x0801, 0x0802, 0x0803, 0x0804, 0x0805,
   0x0900, 0x0901, 0x0A00, 0x0A01, 0x0A02, 0x0A03]

/-- The read commands: names ending in _INFO, _GET or _READ, with DEV_ECHO, EVT_FREEZE and EVT_THAW (R348). -/
def readCommands : List Nat :=
  [0x0000, 0x0001, 0x0010, 0x0106, 0x0108, 0x0201, 0x0203, 0x0209, 0x0307, 0x0400, 0x0401, 0x0404, 0x0500, 0x0501, 0x0502,
   0x0505, 0x0605, 0x0700, 0x0701, 0x0800, 0x0900, 0x0A00]

/-- The CODE of a command that is not performed for want of readiness, for the state, or for its opcode: 0x05, 0x06, 0x02 in that
order (R346, R348). -/
def mbxGate (s : State) (op : Nat) : Option Nat :=
  let early := decide (s.glb.state = .boot) || decide (s.glb.state = .restore)
  let late := decide (s.glb.state = .commit) || decide (s.glb.state = .dump) || decide (s.glb.state = .stopped)
  if !s.glb.mbx then some 5
  else if early && !readCommands.contains op then some 5
  else if (op / 256 == 3 && !s.sealing.ready) || (op / 256 == 1 && !s.lke.ready) then some 5
  else if late && !readCommands.contains op then some 6
  else if !catalogue.contains op then some 2
  else none

/-! ### Objects (R345) -/

/-- An object that two commands can name. Only those that a command can hold for longer than an instant are told apart. -/
inductive MbxObj where
  | region (r : Nat)
  | slot (k : Nat)
  | tables
  | queue (q : Nat)
  deriving DecidableEq, Repr

/-- The objects a command names. -/
def objectsOf (op : Nat) (req : List Byte) : List MbxObj :=
  if op = 0x0100 then .tables :: (List.range (min 8 (leAt req 6 1))).map fun k => .region (leAt req (24 + 2 * k) 2)
  else if op / 256 = 1 then [.tables]
  else match op with
    | 0x0010 | 0x0011 | 0x0012 | 0x0200 | 0x0605 | 0x0606 => [.region (leAt req 0 2)]
    | 0x0202 | 0x0203 => [.queue (leAt req 0 4)]
    | 0x0302 | 0x0306 => [.slot (leAt req 0 1)]
    | 0x0303 | 0x0304 => [.region (leAt req 0 2), .slot (leAt req 2 1)]
    | 0x0305 => [.region (leAt req 0 2)]
    | 0x0307 => if leAt req 0 1 = 0 then [.region (leAt req 2 2)] else [.slot (leAt req 2 2)]
    | _ => []

/-- An earlier command that names the same object has not reached DONE (R345). -/
def mbxBlocked (s : State) (m : Mbx) : Bool :=
  let mine := objectsOf (mbxOp s m) (mbxReq s m)
  (List.finRange 8).any fun k =>
    decide (k ≠ m) && mbxBusy s.mbx[k] && decide (s.mbx[k].order < s.mbx[m].order) &&
      (objectsOf (mbxOp s k) (mbxReq s k)).any fun o => mine.contains o

/-- A command of the Firmware group other than FW_INFO (R345). -/
def isFwCommand (op : Nat) : Bool := op / 256 == 8 && op != 0x0800

/-- Another command of the Firmware group runs: this one completes with BUSY (R345). -/
def fwBusy (s : State) (m : Mbx) : Bool :=
  isFwCommand (mbxOp s m) && (List.finRange 8).any fun k =>
    decide (k ≠ m) && mbxBusy s.mbx[k] && decide (s.mbx[k].order < s.mbx[m].order) && isFwCommand (mbxOp s k)

/-! ### Structures of the internal area (R227, R346) -/

/-- The structure of the internal area that a command needs (R227): 0 region descriptors, 1 table-tier image, 2 firmware copies, 3 event
ring, 4 other persistent device state (DESIGN CHOICE, log entry 70). -/
def structureOf (op : Nat) : Option Nat :=
  match op with
  | 0x0000 | 0x0001 | 0x0500 | 0x0501 | 0x0504 | 0x0505 | 0x0A00 | 0x0A01 | 0x0A02 | 0x0A03 => none
  | 0x0010 | 0x0011 | 0x0012 => some 0
  | 0x0502 | 0x0503 => some 3
  | _ =>
    match op / 256 with
    | 1 => some 1
    | 2 | 6 => some 0
    | 3 => if op ≤ 0x0302 then some 4 else some 0
    | 8 => some 2
    | _ => none

/-- The two blanks that hold the copies of a structure (R227; log entry 70). -/
def copyBlanks (k : Nat) : Nat × Nat :=
  let p := Config.copyPlace k
  (p.1.val, (p.1.val + 1 + p.2.val) % 8)

/-- The blanks that have failed. -/
def failedBlanks (s : State) : List Nat := (List.range 8).filter fun b => decide ((s.med.blanks[blankOf b]).state = .failed)

/-- Both copies of a structure are unreadable: each lies in a blank that has failed (R225, R227). -/
def structureLost (s : State) (k : Nat) : Bool :=
  (failedBlanks s).contains (copyBlanks k).1 && (failedBlanks s).contains (copyBlanks k).2

/-- The CODE of a command that is not performed although it could be read: BAD_LENGTH of a request longer than the buffer, BUSY, INTERNAL
(R341, R345, R346). R346's order does not name 0x07 and 0x09: that they come before the command's own BAD_LENGTH and BAD_FIELD is a DESIGN
CHOICE (log entry 74). -/
def mbxBar (s : State) (m : Mbx) : Option Nat :=
  if 4096 < s.mbx[m].reqLen then some 3
  else if fwBusy s m then some 7
  else if (structureOf (mbxOp s m)).any (structureLost s) then some 9
  else none

/-! ### Region descriptors (R49) -/

/-- Value of USE. -/
def Use.code : Use → Nat
  | .none => 0 | .general => 1 | .buffer => 2 | .counter => 3 | .table => 4

/-- USE of a value. -/
def useOf : Nat → Option Use
  | 0 => some .none | 1 => some .general | 2 => some .buffer | 3 => some .counter | 4 => some .table | _ => none

/-- The four words of a region's descriptor. -/
def descriptor (s : State) (r : Nat) : List Byte :=
  let x := regionAt s r
  let w0 := r + x.use.code * 2 ^ 16 + (match x.slot with | some k => k.val * 2 ^ 24 + 2 ^ 31 | none => 0) +
    x.mirrored.toNat * 2 ^ 32 + x.syncAck.toNat * 2 ^ 33 + x.rekeyLive.toNat * 2 ^ 34 + x.levelRate.toNat * 2 ^ 35
  let w1 := ((List.range 4).map fun p => bitsOf x.rights (3 * p) 3 * 2 ^ (4 * p)).sum
  let w2 := x.breach.toNat + 2 * x.lost.toNat + 4 * x.rebuilding.toNat + 8 * x.rekey.isSome.toNat +
    16 * (s.krf.bitmap.contains r).toNat + sat 32 x.poisoned * 2 ^ 32
  let w3 := match x.rekey with | some k => k.parting * 2 ^ 8 | none => 0
  leBytes 8 w0 ++ leBytes 8 w1 ++ leBytes 8 w2 ++ leBytes 8 w3

/-! ### Live content (R51 case 4) -/

/-- A table names a region (R234). -/
def heldByTables (s : State) (r : Nat) : Bool :=
  let names (t : TableSet) : Bool := t.tables.any fun e => e.2.regions.any fun n => n.toNat == r
  names s.lke.cur || (s.lke.staged.any names)

/-- A CNT_CLEAR runs on a region. -/
def clearing (s : State) (r : Nat) : Bool := s.cnt.clears.any fun c => lsaRegion (if c.2.2.1 = 0 then c.2.1 - 1 else c.2.1) == r

/-- The engine that owns a region holds live content there. -/
def liveContent (s : State) (r : Nat) : Bool :=
  let x := regionAt s r
  match x.use with
  | .buffer => !(poolAt s r).used.isEmpty || x.formatting
  | .counter => (s.cnt.entries.any fun e => lsaRegion (pairSector e.1) == r) || clearing s r
  | .table => heldByTables s r
  | _ => false

/-! ### The erase of a region (R298 to R300) -/

/-- A sector lies in a region. -/
def inRegion (r lsa : Nat) : Bool := lsaRegion lsa == r

/-- A command is past check 3 of R54 in a region and has neither become visible nor completed (step 2 of R298). -/
def pastCheck (r : Nat) (x : HostCmd) : Bool :=
  x.op.isPa && inRegion r (sectorOf x.addr) &&
    match x.stage with
    | .charge | .bitmap | .way | .slotQueue | .medium => true
    | _ => false

/-- Step 2 of R298 is over. -/
def eraseReady (s : State) (r : Nat) : Bool :=
  !(s.cmds.any (pastCheck r)) &&
  !(s.krf.slots.any fun e => inRegion r e.1 && decide (e.2.state = .fetching)) &&
  !(s.med.reqs.any fun q => inRegion r q.lsa.toNat && q.program && decide (q.state ≠ .raised))

/-- A region's re-key is over without having been completed: its walk unit is free (R299). A forced one that waits goes too: the major that
called for it is gone (DESIGN CHOICE, log entry 74). -/
def dropRekey (s : State) (r : Nat) : State :=
  let s := modRegion s r fun x => { x with rekey := none, forcedWait := false }
  { s with sealing := { s.sealing with units := s.sealing.units.map fun u => if u = some (BitVec.ofNat 9 r) then none else u } }

/-- The erase instant of a region, with its new binding (R298 to R300): a free value is its nonce. No sector of it opens under any earlier
key, and none of its marks is left. The descriptor is programmed, in two copies (R227). What is being read goes on, and finds the sector stale. -/
def eraseRegion (s : State) (r : Nat) (slot : Option (Fin 64)) : State :=
  let s := saveInner (dropRekey s r) (.descriptor r)
  let x := regionAt s r
  let s := freeNext (setRegion s r
    { x with nonce := (freeNow s).setWidth 32, major := x.major + 1, ceiling := 4096, dataMajor := x.major + 1, slot := slot,
             poisoned := 0 })
  let s := modMed s fun m => { m with
    marks := m.marks.filter fun e => !inRegion r e.1
    merged := m.merged.filter fun n => !inRegion r n }
  let s := { s with krf := { s.krf with slots := s.krf.slots.filter fun e => !inRegion r e.1 } }
  let s := modCnt s fun c => { c with entries := c.entries.filter fun e => !inRegion r (pairSector e.1),
                                      folds := c.folds.filter fun e => !inRegion r e.1,
                                      poison := c.poison.filter fun e => !inRegion r e.1 }
  let s := { s with sealing := { s.sealing with held := s.sealing.held.filter fun n => !inRegion r n.toNat } }
  let s := dropReqs s fun q => inRegion r q.lsa.toNat && (q.program || q.purpose.isFold)
  let s := invalidate s (regionBase r) (regionBase r + regionSectors - 1) true
  let s := evt (raise (hwSat s Reg.SEAL_ERASES 32 1) Reg.SEAL_INT_STATUS 7) Ev.SEAL_ERASE noInst r
  formRecord s (liveRecord .erase (paOf (regionBase r)) 0) none

/-- A slot is zeroised: EMPTY (R294), in both copies of what persists (R227). -/
def zeroiseSlot (s : State) (k : Nat) : State :=
  let s := saveInner s (.keySlot k)
  { s with sealing := { s.sealing with keys := fdel s.sealing.keys k } }

/-- An erase is accepted (step 1 of R298). -/
def askErase (s : State) (r : Nat) (why : EraseWhy) : State :=
  { s with sealing := { s.sealing with erasing := s.sealing.erasing ++ [⟨BitVec.ofNat 9 r, why⟩] } }

/-- An accepted erase is over. -/
def dropErase (s : State) (why : EraseWhy) : State :=
  { s with sealing := { s.sealing with erasing := s.sealing.erasing.filter fun j => decide (j.why ≠ why) } }

/-- A sector is to be written in class REBUILD, with bytes or with a poison marker (R228, R329, R331, R352). -/
def rebuildWrite (s : State) (lsa : Nat) (d : Option Sector) : State :=
  let id := s.med.nextReq
  modReq (addReq s .rebuild true lsa .rebuild) id fun q => { q with data := d }

/-- The next sector of a REGION_RECREATE is to be written with zero bytes, in class REBUILD (R352). -/
def recreateNext (s : State) (r k : Nat) : State :=
  rebuildWrite (modBlank s (blankOf r) fun v => { v with rebuild := some (BitVec.ofNat 9 r, k) }) (regionBase r + k) (some 0)

/-- The regions whose erase belongs to one command. -/
def erasesOf (s : State) (why : EraseWhy) : List Nat :=
  (s.sealing.erasing.filter fun j => decide (j.why = why)).map (·.region.toNat)

/-- The erases of one command are carried out together, in ascending order, once nothing is left to wait for (R298). -/
def tryErase (s : State) (why : EraseWhy) : State :=
  let rs := erasesOf s why
  if !rs.all (eraseReady s) then s else
  let s := dropErase s why
  match why with
  | .change m k => mbxFinish (rs.foldl (fun s r => eraseRegion s r (some k)) s) m 0 0 []
  | .unbind m => mbxFinish (rs.foldl (fun s r => eraseRegion s r none) s) m 0 0 []
  | .retire m k =>
    let s := zeroiseSlot (rs.foldl (fun s r => eraseRegion s r none) s) k.val
    match m with
    | some m => mbxFinish s m 0 0 (leBytes 4 rs.length)
    | none => s
  | .recreate _ => rs.foldl (fun s r => recreateNext (eraseRegion s r (regionAt s r).slot) r 0) s
  | .mate n seq =>
    let s := rs.foldl (fun s r => eraseRegion s r (regionAt s r).slot) s
    let s := hwAdd s (Reg.MIR_RX_RECORDS n.val) 1
    sendAck (modMir s n fun x =>
      { x with inbox := if (x.inbox.head?.map (·.1)) = some seq then x.inbox.drop 1 else x.inbox }) n

/-- Every erase that has nothing left to wait for is carried out, in the order of acceptance. -/
def runErases (s : State) : State := ((s.sealing.erasing.map (·.why)).eraseDups).foldl tryErase s

end Sys2Proof.Machine
end

