-- ==== Sys2Proof/Machine/KeyOps.lean ====
section
/-! DEFINITION. Shared operations of the Keys group and of live re-keys (chapter 10). -/

namespace Sys2Proof.Machine

/-! ### Slots and walks -/

/-- Key slot of a number. -/
def slotNo (k : Nat) : Fin 64 := ⟨k % 64, Nat.mod_lt _ (by decide)⟩

/-- Regions bound to a slot: it is their current slot, or the old slot of their re-key. -/
def boundRegions (s : State) (k : Nat) : List Nat :=
  (s.regions.filter fun e => (e.2.slot.any fun i => i.val == k) || (e.2.rekey.any fun x => x.oldSlot.val == k)).map (·.1)

/-- A KEY_RETIRE is erasing a slot's regions. -/
def retiring (s : State) (k : Nat) : Bool :=
  s.sealing.erasing.any fun j => match j.why with | .retire _ i => i.val == k | _ => false

/-- State of a slot: 0 EMPTY, 1 LOADED, 2 BOUND, 3 RETIRING (SLOT_INFO). -/
def slotState (s : State) (k : Nat) : Nat :=
  if !fhas s.sealing.keys k then 0
  else if retiring s k then 3
  else if (boundRegions s k).isEmpty then 1
  else 2

/-- REKEY_BUSY for a region or a slot (R297). -/
def rekeyBusy (s : State) (region slot : Option Nat) : Bool :=
  (region.any fun r => (regionAt s r).rekey.isSome) ||
    (slot.any fun k => (boundRegions s k).any fun r => (regionAt s r).rekey.isSome)

/-- Walk units in use. -/
def walksRunning (s : State) : Nat := (s.sealing.units.toList.filter (·.isSome)).length

/-- The lowest walk unit that is free. -/
def freeUnit (s : State) : Option (Fin 4) := (List.finRange 4).find? fun u => (s.sealing.units[u]).isNone

/-- Regions whose forced re-key waits, in ascending order (R291). -/
def forcedWaiting (s : State) : List Nat := (s.regions.filter fun e => e.2.forcedWait).map (·.1)

/-- Change the sealing engine. -/
def modSeal (s : State) (f : Seal → Seal) : State := { s with sealing := f s.sealing }

/-- A live re-key of a region to a slot starts on a walk unit, at one instant (R301); sectors held for want of a minor are free again
(R292). -/
def startRekey (s : State) (u : Fin 4) (r : Nat) (slot : Fin 64) (forced : Bool) : State :=
  let x := regionAt s r
  let s := setRegion s r
    { x with slot := some slot, major := x.major + 1, ceiling := 4096, forcedWait := x.forcedWait && !forced,
             rekey := some { oldSlot := x.slot.getD slot, oldMajor := x.major, oldCeiling := x.ceiling, parting := 0,
                             recorded := 0, forced := forced } }
  let s := saveInner (if forced then hwSat s Reg.SEAL_FORCED_REKEYS 32 1 else s) (.descriptor r)
  modSeal s fun v => { v with units := v.units.set u (some (BitVec.ofNat 9 r)), held := v.held.filter fun n => !inRegion r n.toNat }

/-- A live re-key is complete (R304). -/
def endRekey (s : State) (r : Nat) : State :=
  if (regionAt s r).rekey.isNone then s else
  let s := saveInner (modRegion s r fun x => { x with rekey := none }) (.descriptor r)
  let s := modSeal s fun v => { v with units := v.units.map fun u => if u = some (BitVec.ofNat 9 r) then none else u }
  evt (raise (hwSat s Reg.SEAL_REKEYS_DONE 32 1) Reg.SEAL_INT_STATUS 3) Ev.SEAL_REKEY_DONE noInst 0

/-! ### The commands (R293 to R297, R350) -/

/-- A key check value as mailbox responses carry it: three bytes, then zero. -/
def kcvBytes (key : BitVec 256) : List Byte := leBytes 4 (kcv key)

/-- DEVKEY_INSTALL (R293). -/
def opDevkeyInstall (s : State) (req : List Byte) : MbxOut × State :=
  if req.length ≠ 32 then badLen s
  else if s.sealing.devKey.isSome then refusedFor s 2
  else
    let key := wordOf 256 req
    doneWith (modSeal (saveInner s .deviceKey) fun v => { v with devKey := some key }) (kcvBytes key)

/-- DEVKEY_ZEROISE (R293). -/
def opDevkeyZeroise (s : State) (req : List Byte) : MbxOut × State :=
  if req.length ≠ 0 then badLen s
  else if s.regions.any fun e => e.2.slot.isSome then refusedFor s 5
  else
    let s := (fkeys s.sealing.keys).foldl (fun s k => saveInner s (.keySlot k)) (saveInner s .deviceKey)
    doneWith (modSeal s fun v => { v with devKey := none, keys := [] }) []

/-- An unwrap failed (R294). -/
def unwrapFail (s : State) : State :=
  evt (raise (hwSat s Reg.SEAL_UNWRAP_FAIL 32 1) Reg.SEAL_INT_STATUS 2) Ev.SEAL_UNWRAP_FAIL noInst 0

/-- KEY_LOAD has unwrapped its key, or has failed to (R294). -/
def keyLoaded (s : State) (k : Nat) (r : Option (BitVec 256)) : MbxOut × State :=
  match r with
  | none => refusedFor (unwrapFail s) 3
  | some key =>
    if slotState s k ≠ 0 then refusedFor s 4
    else doneWith (hwSat (modSeal (saveInner s (.keySlot k)) fun v => { v with keys := fput v.keys k key }) Reg.SEAL_KEY_LOADS 32 1) (kcvBytes key)

/-- KEY_LOAD (R294). -/
def opKeyLoad (s : State) (req : List Byte) : MbxOut × State :=
  if req.length ≠ 48 then badLen s
  else if 64 ≤ leAt req 0 1 ∨ !zeroAt req 1 7 then badField s
  else match s.sealing.devKey with
    | none => refusedFor s 1
    | some kek => keyLoaded s (leAt req 0 1) (kwUnwrap kek (slice req 8 40))

/-- The request of KEY_BIND and KEY_CHANGE: a region, a slot, a zero byte. -/
def bindFields (req : List Byte) : Bool := decide (leAt req 0 2 < 480) && decide (leAt req 2 1 < 64) && zeroAt req 3 1

/-- A slot can be bound to: LOADED or BOUND. -/
def bindable (s : State) (k : Nat) : Bool := slotState s k == 1 || slotState s k == 2

/-- KEY_BIND (R295): every sector of the region is stale from now on. -/
def opKeyBind (s : State) (req : List Byte) : MbxOut × State :=
  if req.length ≠ 4 then badLen s
  else if !bindFields req then badField s
  else
    let r := leAt req 0 2
    let k := leAt req 2 1
    let x := regionAt s r
    if !bindable s k then refusedFor s 4
    else if x.slot.isSome ∨ x.use ≠ .none then refusedFor s 5
    else if rekeyBusy s (some r) (some k) then refusedFor s 6
    else
      doneWith (freeNext (setRegion (saveInner s (.descriptor r)) r
        { x with nonce := (freeNow s).setWidth 32, major := x.major + 1, ceiling := 4096, dataMajor := x.major + 1,
                 slot := some (slotNo k), poisoned := 0 })) []

/-- An erase of a region is refused as LIVE_CONTENT (R297). -/
def eraseBlocked (s : State) (r : Nat) : Bool := decide ((regionAt s r).use = .buffer) || liveContent s r

/-- KEY_CHANGE (R296): a live re-key, or an erase that its mailbox waits for. -/
def opKeyChange (s : State) (m : Mbx) (req : List Byte) : MbxOut × State :=
  if req.length ≠ 4 then badLen s
  else if !bindFields req then badField s
  else
    let r := leAt req 0 2
    let k := leAt req 2 1
    let x := regionAt s r
    if !bindable s k then refusedFor s 4
    else if x.slot.isNone then refusedFor s 5
    else if rekeyBusy s (some r) (some k) then refusedFor s 6
    else if x.rekeyLive then
      match freeUnit s with
      | none => refusedFor s 8
      | some u => if (forcedWaiting s).isEmpty then doneWith (startRekey s u r (slotNo k) false) [] else refusedFor s 8
    else if eraseBlocked s r then refusedFor s 7
    else (.runs, askErase s r (.change m (slotNo k)))

/-- KEY_UNBIND (R297): an erase that its mailbox waits for. -/
def opKeyUnbind (s : State) (m : Mbx) (req : List Byte) : MbxOut × State :=
  if req.length ≠ 4 then badLen s
  else if 480 ≤ leAt req 0 2 ∨ !zeroAt req 2 2 then badField s
  else
    let r := leAt req 0 2
    let x := regionAt s r
    if x.slot.isNone ∨ x.use ≠ .none then refusedFor s 5
    else if rekeyBusy s (some r) none then refusedFor s 6
    else (.runs, askErase s r (.unbind m))

/-- KEY_RETIRE (R294, R297): erases that its mailbox waits for. -/
def opKeyRetire (s : State) (m : Mbx) (req : List Byte) : MbxOut × State :=
  if req.length ≠ 4 then badLen s
  else if 64 ≤ leAt req 0 1 ∨ !zeroAt req 1 3 then badField s
  else
    let k := leAt req 0 1
    let rs := boundRegions s k
    if !bindable s k then refusedFor s 4
    else if rs.any fun r => decide ((regionAt s r).use ≠ .none) then refusedFor s 5
    else if rekeyBusy s none (some k) then refusedFor s 6
    else if rs.isEmpty then doneWith (zeroiseSlot s k) (leBytes 4 0)
    else (.runs, rs.foldl (fun s r => askErase s r (.retire (some m) (slotNo k))) s)

/-- The 60 bytes of KEY_INFO that tell the regions bound to a slot. -/
def boundBytes (s : State) (k : Nat) : List Byte :=
  leBytes 60 (((boundRegions s k).map fun r => 2 ^ r).sum)

/-- KEY_INFO (R350). -/
def opKeyInfo (s : State) (req : List Byte) : MbxOut × State :=
  if req.length ≠ 4 then badLen s
  else
    let kind := leAt req 0 1
    let i := leAt req 2 2
    if 1 < kind ∨ !zeroAt req 1 1 ∨ (kind = 0 ∧ 480 ≤ i) ∨ (kind = 1 ∧ 64 ≤ i) then badField s
    else if kind = 0 then
      let x := regionAt s i
      let old := x.rekey
      doneWith s
        (leBytes 1 ((x.slot.map (·.val)).getD 0) ++ leBytes 1 (x.slot.isSome.toNat + 2 * old.isSome.toNat) ++
          leBytes 1 ((old.map (·.oldSlot.val)).getD 0) ++ leBytes 1 0 ++ leBytes 4 ((old.map (·.parting)).getD 0) ++
          leBytes 8 x.major.toNat ++ leBytes 8 ((old.map (·.oldMajor.toNat)).getD 0) ++ leBytes 4 x.ceiling ++
          leBytes 4 ((old.map (·.oldCeiling)).getD 0) ++ leBytes 32 0)
    else
      let check := match fget s.sealing.keys i with
        | some key => kcv key
        | none => 0
      doneWith s (leBytes 1 (slotState s i) ++ leBytes 3 check ++ boundBytes s i)

end Sys2Proof.Machine
end

