-- ==== Sys2Proof/Machine/SeedOps.lean ====
section
/-! DEFINITION. Shared operations of the pair: the state of regions as the peer sees it, seeds, and the application of the peer's
records (chapter 11). -/

namespace Sys2Proof.Machine

/-! ### REGION_STATE (R314) -/

/-- The byte of a region in the body of a REGION_STATE frame. -/
def stateByte (s : State) (r : Nat) : Byte :=
  let x := regionAt s r
  BitVec.ofNat 8 (x.use.code + 8 * x.slot.isSome.toNat + 16 * x.mirrored.toNat + 32 * x.lost.toNat)

/-- The body of a REGION_STATE frame. -/
def stateBody (s : State) : List Byte := (List.range 480).map (stateByte s)

/-- What the peer last said of a region, if it has said anything. -/
def peerByte (s : State) (r : Nat) : Option Nat := s.mir.peer.map fun b => (b.getD r 0).toNat

/-- The mate's region is MIRRORED with a USE and KEYED = 1 (R310 case 4). -/
def peerFits (s : State) (r : Nat) (u : Use) : Bool :=
  match peerByte s r with
  | none => false
  | some b => b % 8 == u.code && b / 8 % 2 == 1 && b / 16 % 2 == 1

/-! ### Seeds sent (R331) -/

/-- A region is being seeded, either way. -/
def seeding (s : State) (r : Nat) : Bool :=
  (mirRegion s r).seedIn.isSome || s.mir.ports.any fun x => x.seed.any fun d => d.region.toNat == r

/-- A SEED record of this device. -/
def seedRecord (kind : RecordKind) (rebuild : Bool) (addr : PA) (data : Sector) : Record :=
  { kind := kind, seed := true, rebuild := rebuild, repair := false, addr := addr, data := data }

/-- The lowest of the waiting seeds. -/
def lowestSeed (l : List (BitVec 9 × Bool)) : Option (BitVec 9 × Bool) :=
  l.foldl (fun b e => match b with | none => some e | some x => if e.1.toNat < x.1.toNat then some e else b) none

/-- A port with a session and no seed under way begins the lowest that waits: SEED_BEGIN (R331). -/
def nextSeed (s : State) (n : MPort) : State :=
  let x := s.mir.ports[n]
  if !x.session ∨ x.overflow ∨ x.seed.isSome then s else
  match lowestSeed x.seedWait with
  | none => s
  | some (r, rebuild) =>
    let s := modMir s n fun x => { x with seed := some { region := r, next := 0, rebuild := rebuild },
                                          seedWait := x.seedWait.filter fun e => decide (e.1 ≠ r) }
    let s := modMirRegion s r.toNat fun m => { m with detached := false }
    mirSend s n (seedRecord .seedBegin rebuild (paOf (regionBase r.toNat)) 0) none

/-- A seed of a region is to be sent (R331): one under way starts again from its beginning. -/
def askSeed (s : State) (r : Nat) (rebuild : Bool) : State :=
  let n := portFor s r
  let b := BitVec.ofNat 9 r
  let s := modMir s n fun x =>
    { x with seed := if x.seed.any fun d => d.region == b then none else x.seed,
             seedWait := (x.seedWait.filter fun e => decide (e.1 ≠ b)) ++ [(b, rebuild)] }
  nextSeed s n

/-! ### LOST clears (R228, R331) -/

/-- A region is whole again: LOST and REBUILDING clear, a format that LOST had stopped begins again (R258), a re-key of it is complete, and its blank returns once no region of it is LOST
(R228, R305). -/
def clearLost (s : State) (r : Nat) : State :=
  if !(regionAt s r).lost then s else
  let s := endRekey (modRegion s r fun x => { x with
    lost := false
    rebuilding := false
    formatting := decide (x.use = .buffer) && !(poolAt s r).formatted }) r
  let b := blankOf r
  let s := modBlank s b fun v => { v with rebuild := none }
  if (s.med.blanks[b]).state ≠ .failed ∨ s.regions.any fun e => e.1 % 8 == b.val && e.2.lost then s
  else
    let s := modBlank s b fun v => { v with state := if v.die.isSome then .degraded else .normal, resets := 0 }
    evt (raise s (Reg.BLK_INT_STATUS b.val) 7) Ev.BLK_REBUILD_DONE b.val 0

/-! ### Records received (R316, R319, R329 to R331) -/

/-- The receiver can take records of a region: it holds it MIRRORED, with the USE the peer last told, and not LOST unless it is seeding
(R319). -/
def takesRecords (s : State) (r : Nat) (begins : Bool) : Bool :=
  let x := regionAt s r
  x.mirrored && (match peerByte s r with | none => true | some b => b % 8 == x.use.code) &&
    (!x.lost || begins || (mirRegion s r).seedIn.isSome)

/-- A record leaves the inbox, and with it the charge that was held for it. -/
def takeRecord (s : State) (n : MPort) : State := ungrant (modMir s n fun x => { x with inbox := x.inbox.drop 1 }) (.record n)

/-- A record is applied (MIRn_RX_RECORDS). -/
def popRecord (s : State) (n : MPort) : State := hwAdd (takeRecord s n) (Reg.MIR_RX_RECORDS n.val) 1

/-- A record is acknowledged without effect. -/
def passRecord (s : State) (n : MPort) : State := sendAck (takeRecord s n) n

/-- A command of the device's own for a LINE or SECTOR record. -/
def recordCmd (s : State) (n : MPort) (seq : BitVec 48) (rec : Record) : HostCmd where
  id := s.nextCmd
  origin := .mate n seq rec.repair rec.seed
  session := 0
  op := if rec.kind = .line then .wr64 else .wr256
  code := if rec.kind = .line then 0x18 else 0x19
  du := if rec.kind = .line then 1 else 4
  tag := 0
  addr := rec.addr
  operand := 0
  data := rec.data
  stage := .ordered
  performed := false
  reserved := 0
  resp := none
  mateWait := false
  reads := []
  dupTag := false
  sync := false

/-- A record of a port is carried out as a write; it counts as applied once the write is performed. -/
def writeRecordIn (s : State) (n : MPort) (seq : BitVec 48) (rec : Record) : State :=
  let x := recordCmd s n seq rec
  dispatchCmd (takeRecord (putCmd s x) n) x.id

/-- A command of a port's records is still under way. -/
def mateBusy (s : State) (n : MPort) : Bool :=
  s.cmds.any fun x => match x.origin with | .mate m _ _ _ => decide (m = n) | _ => false

/-- A program of class REBUILD of a sector is under way. -/
def rebuildBusy (s : State) (lsa : Nat) : Bool := medBusy s lsa fun q => decide (q.purpose = .rebuild)

/-- A REPAIR record still applies (R329): the mark stands in the medium, no merge failure set it, and, on the primary, the extent's intent bit
is clear. -/
def repairApplies (s : State) (lsa : Nat) : Bool :=
  (slotAt s lsa).isNone && markedInMedium s lsa && !s.med.merged.contains lsa && !(isPrimary s && fhas s.mir.intent (intentKey lsa))

/-- The seed position moves past a sector; one that does not follow the sector before it leaves a gap. -/
def passSeed (s : State) (lsa : Nat) : State :=
  modMirRegion s (lsaRegion lsa) fun m =>
    { m with seedIn := m.seedIn.map fun _ => lsa % regionSectors + 1
             gaps := m.gaps || decide (m.seedIn ≠ some (lsa % regionSectors)) }

/-- A sector of a region's seed could not be written (R228). -/
def noteGap (s : State) (r : Nat) : State := modMirRegion s r fun m => { m with gaps := true }

/-- The seed has written and verified every sector of a region (R228). -/
def seedWhole (s : State) (r : Nat) : Bool :=
  let m := mirRegion s r
  decide (m.seedIn = some regionSectors) && !m.gaps

/-- A POISON record (R149, R316): the sector is marked in a kerf slot, once charge is there. The result is false while it must wait. To a
primary it is the mate's answer to a REPAIR_REQ, and changes nothing: the mark stands, or a write has made the sector good since (R329). -/
def poisonRecord (s : State) (n : MPort) (lsa : Nat) : Bool × State :=
  if isMarked s lsa ∨ isPrimary s then (true, passRecord s n)
  else if mateBusy s n then (false, s)
  else
    let r := admitSector s (.record n) lsa
    if !r.1 then r else
    let s := r.2
    let x := (slotAt s lsa).getD (Slot.blank .clean)
    let s := if x.charged then s else makeRoom s
    (true, sendAck (popRecord (poisonSlot s lsa { x with stamp := nextStamp s } 3) n) n)

/-- SEED_END (R331): a LOST region whose seed left a gap stays LOST, and is asked for again (R228). -/
def seedEnd (s : State) (n : MPort) (r : Nat) : State :=
  if (regionAt s r).lost ∧ !seedWhole s r then
    sendAck (popRecord (modMirRegion s r fun m => { m with seedIn := none, gaps := false, asked := false }) n) n
  else
  let stale := (mirRegion s r).stale
  let s := modMirRegion s r fun m => { m with seedIn := none, stale := false, asked := false, behind := false }
  let s := if stale then evt (raise s (Reg.MIR_INT_STATUS n.val) 9) Ev.MIR_REBUILD_STALE n.val r else s
  let s := clearLost s r
  sendAck (popRecord (evt (raise s (Reg.MIR_INT_STATUS n.val) 10) Ev.MIR_SEED_DONE n.val 0) n) n

/-- A SECTOR, LINE or POISON record is applied, if it can be: one of a region that a seed still has to reach is passed over, one flagged REPAIR
writes a marked sector again, and a seed of a LOST region rebuilds it (R316, R329, R331). -/
def applySector (s : State) (n : MPort) (seq : BitVec 48) (rec : Record) : Bool × State :=
  let lsa := sectorOf rec.addr
  let lost := (regionAt s (recordRegion rec)).lost
  if !rec.seed ∧ (mirRegion s (recordRegion rec)).seedIn.any fun p => decide (p ≤ lsa % regionSectors) then (true, passRecord s n)
  else if rec.kind = .poison then
    if rec.seed ∧ lost then (if rebuildBusy s lsa then (false, s) else (false, rebuildWrite s lsa none))
    else poisonRecord (if rec.seed then passSeed s lsa else s) n lsa
  else if rec.repair then
    if rebuildBusy s lsa then (false, s)
    else if repairApplies s lsa then (false, rebuildWrite s lsa (some rec.data))
    else (true, passRecord s n)
  else if rec.seed ∧ lost then (if rebuildBusy s lsa then (false, s) else (false, rebuildWrite s lsa rec.data))
  else (true, writeRecordIn (if rec.seed then passSeed s lsa else s) n seq rec)

/-- The oldest record of a port's inbox is applied, if it can be; the result says whether the next may follow (R316, R319). -/
def applyRecord (s : State) (n : MPort) : Bool × State :=
  match s.mir.ports[n].inbox with
  | [] => (false, s)
  | (seq, rec) :: _ =>
    let r := recordRegion rec
    if !s.glb.state.serves ∨ !s.mir.pairId.isSome then (false, s)
    else if !takesRecords s r (decide (rec.kind = .seedBegin)) then
      (true, passRecord (modMir s n fun x => { x with refused := x.refused ++ [BitVec.ofNat 9 r] }) n)
    else match rec.kind with
      | .seedBegin =>
        if mateBusy s n then (false, s) else
        let s := modRegion s r fun x => { x with rebuilding := x.lost }
        let s := if (regionAt s r).lost then modBlank s (blankOf r) fun v => { v with rebuild := some (BitVec.ofNat 9 r, 0) } else s
        (true, sendAck (popRecord (modMirRegion s r fun m => { m with seedIn := some 0, gaps := false, detached := false }) n) n)
      | .seedEnd => if mateBusy s n then (false, s) else (true, seedEnd s n r)
      | .erase =>
        if mateBusy s n ∨ s.sealing.erasing.any fun j => decide (j.why = .mate n seq) then (false, s)
        else (false, askErase s r (.mate n seq))
      | .sector | .line | .poison => applySector s n seq rec

/-- The records of a port are applied in order as far as they can be; `fuel` is their number. -/
def applyInbox : Nat → State → MPort → State
  | 0, s, _ => s
  | fuel + 1, s, n =>
    let r := applyRecord s n
    if r.1 then applyInbox fuel r.2 n else r.2

/-- The records of both ports. -/
def applyRecords (s : State) : State :=
  [(0 : Fin 2), 1].foldl (fun s n => applyInbox s.mir.ports[n].inbox.length s n) s

/-- A write of class REBUILD has ended for a record that waits at the head of an inbox: the record is applied if it has verified. A seed goes on
after a sector that could not be written, and a repair that could not is passed over (R218, R228, R329, R331). -/
def rebuildRecord (s : State) (lsa : Nat) (verified : Bool) : State :=
  [(0 : Fin 2), 1].foldl (fun s n =>
    match s.mir.ports[n].inbox with
    | (_, rec) :: _ =>
      if sectorOf rec.addr ≠ lsa ∨ !(rec.repair ∨ rec.seed) then s
      else if !verified ∧ rec.repair then passRecord s n
      else
        let s := if rec.repair then evt (raise s (Reg.MIR_INT_STATUS n.val) 8) Ev.MIR_REPAIR n.val 0 else passSeed s lsa
        let s := if rec.seed then modBlank s (blankOf (lsaRegion lsa)) fun v =>
            { v with rebuild := some (BitVec.ofNat 9 (lsaRegion lsa), lsa % regionSectors + 1) } else s
        sendAck (popRecord s n) n
    | [] => s) s

end Sys2Proof.Machine
end

