-- ==== Sys2Proof/Machine/TblOps.lean ====
section
/-! DEFINITION. Shared operations of the Tables group, of the commit of a table set, and of the failure of a lookup engine (chapter
8). -/

namespace Sys2Proof.Machine

/-! ### Reservations (R232, R233) -/

/-- Kind of a code (R231). -/
def kindOf : Nat → Option TblKind
  | 0 => some .lpm4 | 1 => some .lpm6 | 2 => some .em | 3 => some .range | _ => none

/-- Code of a kind (R231). -/
def TblKind.code : TblKind → Nat
  | .lpm4 => 0 | .lpm6 => 1 | .em => 2 | .range => 3

/-- Largest capacity of one table (R232); an EM table in SRAM is bounded by the tier alone. -/
def largestC : TblKind → Bool → Nat
  | .lpm4, false => 4194304 | .lpm4, true => 16777216
  | .lpm6, false => 1048576 | .lpm6, true => 8388608
  | .em, false => 2 ^ 32 | .em, true => 268435456
  | .range, _ => 65536

/-- Most entries of a kind over all tables (R232). -/
def totalC : TblKind → Nat
  | .lpm4 => 16777216 | .lpm6 => 8388608 | .em => 268435456 | .range => 2 ^ 40

/-- Tier bytes a table reserves. -/
def tierBytes (t : Table) : Nat := t.capacity * (entryCost t.kind t.medium).1

/-- Medium bytes a table reserves. -/
def mediumBytes (t : Table) : Nat := t.capacity * (entryCost t.kind t.medium).2 * (if t.dual then 2 else 1)

/-- The tables whose space is reserved: those of the current version, and those created since. -/
def reservedTables (s : State) : List Table :=
  s.lke.cur.tables.map (·.2) ++ (match s.lke.staged with
    | some t => (t.tables.filter fun e => e.2.fresh).map (·.2)
    | none => [])

/-- Units rounded up. -/
def unitsUp (bytes unit : Nat) : Nat := (bytes + unit - 1) / unit

/-- Entry budget, bytes. -/
abbrev entryBudget : Nat := 125829120

/-- The gaps that runs leave in a region, from a place on: their first places and their lengths. -/
def gapsFrom : Nat → FMap Nat → List (Nat × Nat)
  | n, [] => if n < regionSectors then [(n, regionSectors - n)] else []
  | n, (first, count) :: rest => if n < first then (n, first - n) :: gapsFrom (first + count) rest else gapsFrom (first + count) rest

/-- The places of a region that no table reserves. -/
def freePlaces (s : State) (r : BitVec 9) : List (Nat × Nat) :=
  gapsFrom 0 (((reservedTables s).flatMap fun t => t.room.filter fun u => decide (u.region = r)).foldl (fun m u => fput m u.first u.count) [])

/-- Places taken from gaps, at most so many. -/
def takeRuns : Nat → List (BitVec 9 × Nat × Nat) → List TableRun
  | _, [] => []
  | need, (r, first, count) :: rest => if need = 0 then [] else ⟨r, first, min count need⟩ :: takeRuns (need - count) rest

/-- The places in a list of runs. -/
def runCount (l : List TableRun) : Nat := (l.map (·.count)).sum

/-- Copies of each leaf of a table (R233). -/
def leafCopies (t : Table) : Nat := if t.dual then 2 else 1

/-- The places a new table takes in its regions, blank by blank; no blank gives more than one copy of every leaf, so that the two copies of
a leaf of a DUAL table, which lie one whole set of leaves apart, are never in one blank (R233). -/
def roomFor (s : State) (t : Table) : List TableRun :=
  (List.range 8).foldl (fun l b =>
    l ++ takeRuns (min (leafCount t) (leafCount t * leafCopies t - runCount l))
      ((t.regions.filter fun r => decide (r.toNat % 8 = b)).flatMap fun r => (freePlaces s r).map fun g => (r, g))) []

/-- A new table finds no space: entry budget, largest capacities, or room in the regions it names (R232, R233). -/
def noSpace (s : State) (t : Table) : Bool :=
  let l := reservedTables s
  decide (entryBudget < (l.map tierBytes).sum + tierBytes t) ||
    decide (largestC t.kind t.medium < t.capacity) ||
    decide (totalC t.kind < ((l.filter fun x => decide (x.kind = t.kind)).map (·.capacity)).sum + t.capacity) ||
    decide (runCount (roomFor s t) < leafCount t * leafCopies t)

/-- Capacity of an EM table: a power of two and a multiple of 4 (R232). -/
def emCapacity (c : Nat) : Nat := max 4 (2 ^ Nat.clog 2 c)

/-! ### The staged version (R249) -/

/-- The staged version; with nothing staged, the current one. -/
def stagedSet (s : State) : TableSet := s.lke.staged.getD s.lke.cur

/-- Store the staged version. -/
def putStaged (s : State) (t : TableSet) : State := modLke s fun l => { l with staged := some t }

/-- Regions named twice. -/
def hasTwice (l : List (BitVec 9)) : Bool := decide (l.eraseDups.length ≠ l.length)

/-- The regions of a TBL_CREATE are refused (R233, R351). -/
def badRegions (s : State) (t : Table) : Bool :=
  (t.regions.any fun r => decide ((regionAt s r.toNat).use ≠ .table)) || hasTwice t.regions ||
    (t.medium && t.regions.isEmpty) ||
    (t.dual && decide (((t.regions.map fun r => regionBlank r.toNat).eraseDups).length < 2))

/-- The table a TBL_CREATE asks for, if its fields are within range (R350). -/
def createdTable (req : List Byte) : Option Table :=
  match kindOf (leAt req 1 1) with
  | none => none
  | some k =>
    let place := leAt req 2 1
    let dual := leAt req 3 1
    let keyLen := leAt req 4 2
    let nreg := leAt req 6 1
    let c := leAt req 8 4
    let regs := (List.range nreg).map fun i => leAt req (24 + 2 * i) 2
    if 1 < place ∨ 1 < dual ∨ 8 < nreg ∨ !zeroAt req 7 1 ∨ !zeroAt req 12 4 ∨ !zeroAt req (24 + 2 * nreg) (16 - 2 * nreg) then none
    else if (if k = .em then keyLen = 0 ∨ 32 < keyLen else keyLen ≠ 0) then none
    else if (k = .range ∧ place = 1) ∨ regs.any (fun r => decide (480 ≤ r)) then none
    else some { kind := k, medium := place == 1, capacity := if k = .em then emCapacity c else c, keyLen := keyLen,
                defaultAction := BitVec.ofNat 64 (leAt req 16 8), dual := dual == 1, fresh := true,
                regions := regs.map (BitVec.ofNat 9), room := [], entries := [] }

/-- TBL_CREATE (R232, R233): refusals in the order EXISTS, REGION, NO_SPACE (R351). -/
def opTblCreate (s : State) (req : List Byte) : MbxOut × State :=
  if req.length ≠ 40 then badLen s
  else match createdTable req with
    | none => badField s
    | some t =>
      let set := stagedSet s
      if fhas set.tables (leAt req 0 1) then refusedFor s 6
      else if badRegions s t then refusedFor s 8
      else if noSpace s t then refusedFor s 7
      else doneWith (putStaged s { set with tables := fput set.tables (leAt req 0 1) { t with room := roomFor s t } })
        (leBytes 4 (unitsUp (tierBytes t) 65536) ++ leBytes 4 (unitsUp (mediumBytes t) 1048576))

/-- TBL_DELETE (R350). -/
def opTblDelete (s : State) (req : List Byte) : MbxOut × State :=
  if req.length ≠ 4 then badLen s
  else if !zeroAt req 1 3 then badField s
  else
    let set := stagedSet s
    if !fhas set.tables (leAt req 0 1) then refusedFor s 1
    else doneWith (putStaged s { set with tables := fdel set.tables (leAt req 0 1) }) []

/-! ### Update records (R247, R248) -/

/-- Bytes of a record's key that a table's kind uses. -/
def keyBytesOf (t : Table) : Nat :=
  match t.kind with
  | .lpm4 => 4 | .lpm6 => 16 | .em => t.keyLen | .range => 4

/-- A record is well formed for its table, its OP apart (R247, R248). -/
def recordFits (t : Table) (rec : List Byte) : Bool :=
  let plen := leAt rec 2 1
  let aux := leAt rec 4 2
  let key := slice rec 16 32
  zeroAt rec 3 1 && zeroAt rec 6 2 && zeroAt key (keyBytesOf t) (32 - keyBytesOf t) &&
    match t.kind with
    | .lpm4 | .lpm6 => decide (plen ≤ t.kind.addrBits) && decide (aux ≤ 4095) &&
        lpmAddr t.kind key % 2 ^ (t.kind.addrBits - plen) == 0
    | .em => plen == 0 && aux == 0
    | .range => plen == 0 && decide (beAt key 0 2 ≤ beAt key 2 2)

/-- The entry a record spells. -/
def recordEntry (rec : List Byte) : TblEntry where
  plen := leAt rec 2 1
  aux := leAt rec 4 2
  key := wordOf 256 (slice rec 16 32)
  action := BitVec.ofNat 64 (leAt rec 8 8)

/-- Two entries have the same key. -/
def sameEntry (a b : TblEntry) : Bool := a.plen == b.plen && a.aux == b.aux && a.key == b.key

/-- A RANGE entry would overlap one of the same priority (R231). -/
def rangeConflict (t : Table) (e : TblEntry) : Bool :=
  decide (t.kind = .range) && t.entries.any fun x =>
    !sameEntry x e && x.aux == e.aux && decide ((rangeOf x).1 ≤ (rangeOf e).2) && decide ((rangeOf e).1 ≤ (rangeOf x).2)

/-- A new entry finds its table full: it holds C entries, or, for an EM table from 15/16 of C on, firmware cannot place it, which is left
open (R232). -/
def tableFull (s : State) (t : Table) : Bool :=
  decide (t.capacity ≤ t.entries.length) ||
    (decide (t.kind = .em) && decide (15 * t.capacity ≤ 16 * t.entries.length) && bitOf (freeNow s) 0)

/-- One record is staged; the result is 0, or the code of R248. -/
def stageRecord (s : State) (rec : List Byte) : Nat × State :=
  let set := stagedSet s
  let n := leAt rec 1 1
  let op := leAt rec 0 1
  match fget set.tables n with
  | none => (1, s)
  | some t =>
    if op = 0 ∨ 2 < op ∨ !recordFits t rec then (2, s) else
    let e := recordEntry rec
    let held := t.entries.any (sameEntry e)
    if op = 1 ∧ !held ∧ tableFull s t then (3, freeNext s)
    else if op = 1 ∧ rangeConflict t e then (4, s)
    else if 262144 ≤ s.lke.records then (5, s)
    else
      let rest := t.entries.filter fun x => !sameEntry e x
      let t' := { t with entries := if op = 2 then rest else rest ++ [e] }
      let s := if op = 1 ∧ !held then freeNext s else s
      (0, modLke s fun l => { l with staged := some { set with tables := fput set.tables n t' }, records := l.records + 1,
                                     changed := if t.medium then l.changed ++ [(n, e)] else l.changed })

/-- Records are staged in order, up to the first that fails: how many, its code, and the state. -/
def stageAll : List (List Byte) → State → Nat → Nat × Nat × State
  | [], s, n => (n, 0, s)
  | r :: rs, s, n =>
    let x := stageRecord s r
    if x.1 = 0 then stageAll rs x.2 (n + 1) else (n, x.1, x.2)

/-! ### The commit (R250) -/

/-- A profile of a set names a table that the set does not hold (R239). -/
def namesMissing (t : TableSet) : Bool :=
  t.profiles.any fun e => (List.range (profSteps e.2)).any fun k => !fhas t.tables (profStep e.2 k).table

/-- The leaves and buckets that a commit programs. -/
def changedLeaves (s : State) : List (BitVec 32) :=
  ((s.lke.changed.flatMap fun e =>
    match fget (stagedSet s).tables e.1 with
    | some t => entryLeaves e.1 t e.2
    | none => []).filter fun n => !(regionAt s (lsaRegion n)).lost).map (BitVec.ofNat 32) |>.eraseDups

/-- A commit of the staged version starts: its leaves are to be written (step 3 of R250). -/
def startTblCommit (s : State) (m : Mbx) : State :=
  let l := changedLeaves s
  modLke s fun v => { v with commit := some { mbx := m, wait := l }, writes := v.writes ++ l.filter fun n => !v.writes.contains n }

/-- TBL_COMMIT (R250). -/
def opTblCommit (s : State) (m : Mbx) (req : List Byte) : MbxOut × State :=
  if req.length ≠ 0 then badLen s
  else match s.lke.staged with
    | none => doneWith s (leBytes 4 s.lke.cur.version.toNat)
    | some t => if namesMissing t then refusedFor s 10 else (.runs, startTblCommit s m)

/-- The response of a TBL_UPDATE. -/
def updateResp (applied fail version : Nat) : List Byte := leBytes 4 applied ++ leBytes 1 fail ++ leBytes 3 0 ++ leBytes 4 version

/-- TBL_UPDATE (R247, R248, R351). -/
def opTblUpdate (s : State) (m : Mbx) (req : List Byte) : MbxOut × State :=
  let count := leAt req 0 2
  if req.length < 16 ∨ req.length ≠ 16 + 48 * count then badLen s
  else if count = 0 ∨ 80 < count ∨ 1 < leAt req 2 1 ∨ !zeroAt req 3 13 then badField s
  else
    let r := stageAll ((List.range count).map fun i => slice req (16 + 48 * i) 48) s 0
    if r.2.1 ≠ 0 then (.fin 1 r.2.1 (updateResp r.1 r.2.1 0), r.2.2)
    else if leAt req 2 1 = 0 then doneWith r.2.2 (updateResp r.1 0 0)
    else if namesMissing (stagedSet r.2.2) then (.fin 1 10 (updateResp r.1 0 0), r.2.2)
    else (.runs, startTblCommit r.2.2 m)

/-- The items of the backing image: one for each table, and one for the version and the profiles (log entry 66). -/
def imageTables (set : TableSet) : List Inner := .table 256 :: (fkeys set.tables).map .table

/-- The items of the backing image that a switch changes (R251). -/
def imageChanges (old new : TableSet) : List Inner :=
  .table 256 :: (((fkeys old.tables ++ fkeys new.tables).eraseDups).filter fun n => decide (fget old.tables n ≠ fget new.tables n)).map .table

/-- The switch of a commit, and its response (steps 4 and 5 of R250). -/
def tblSwitch (s : State) (c : TblCommit) : State :=
  let old := s.lke.cur
  let t := stagedSet s
  let next : TableSet := { version := old.version + 1, tables := fmapv (fun _ (x : Table) => { x with fresh := false }) t.tables,
                           profiles := t.profiles }
  let held := s.lke.jobs.any fun j => j.version == old.version
  let s := modLke s fun l => { l with cur := next, prev := if held then some old else none, staged := none, records := 0,
                                      changed := [], commit := none, valid := true }
  let s := raise ((imageChanges old next).foldl saveInner s) Reg.LKE_INT_STATUS 2
  let v := next.version.toNat
  let resp := if mbxOp s c.mbx = 0x0102 then updateResp (leAt (mbxReq s c.mbx) 0 2) 0 v else leBytes 4 v
  mbxFinish s c.mbx 0 0 resp

/-- TBL_ABORT (R350): everything staged is discarded. -/
def opTblAbort (s : State) (req : List Byte) : MbxOut × State :=
  if req.length ≠ 0 then badLen s
  else doneWith (modLke s fun l => { l with staged := none, records := 0, changed := [] }) (leBytes 4 s.lke.records)

/-- TBL_QUERY (R350): the entry of the current version with the record's key. -/
def opTblQuery (s : State) (req : List Byte) : MbxOut × State :=
  if req.length ≠ 48 then badLen s
  else if leAt req 0 1 ≠ 0 ∨ !zeroAt req 8 8 then badField s
  else match fget s.lke.cur.tables (leAt req 1 1) with
    | none => refusedFor s 1
    | some t =>
      if !recordFits t req then refusedFor s 2
      else match t.entries.find? (sameEntry (recordEntry req)) with
        | some e => doneWith s (leBytes 8 e.action.toNat ++ leBytes 4 1)
        | none => doneWith s (leBytes 12 0)

/-- The sectors that are marked poisoned, each once. -/
def markedSectors (s : State) : List Nat :=
  ((s.krf.slots.map (·.1) ++ s.med.marks.map (·.1) ++ s.med.cells.map fun e => e.2.lsa.toNat).filter (isMarked s)).eraseDups

/-- Poisoned leaves of a table: those with a marked copy. -/
def poisonedLeaves (s : State) (t : Table) : Nat :=
  (((markedSectors s).filterMap (runIndex t.room)).map (· % leafCount t)).eraseDups.length

/-- TBL_INFO (R350): a table of the current version. -/
def opTblInfo (s : State) (req : List Byte) : MbxOut × State :=
  if req.length ≠ 4 then badLen s
  else if !zeroAt req 1 3 then badField s
  else match fget s.lke.cur.tables (leAt req 0 1) with
    | none => refusedFor s 1
    | some t =>
      doneWith s
        (leBytes 1 t.kind.code ++ leBytes 1 t.medium.toNat ++ leBytes 1 t.dual.toNat ++ leBytes 1 0 ++ leBytes 2 t.keyLen ++
          leBytes 1 t.regions.length ++ leBytes 1 0 ++ leBytes 4 t.capacity ++ leBytes 4 t.entries.length ++
          leBytes 4 (poisonedLeaves s t) ++ leBytes 4 0 ++
          ((List.range 8).flatMap fun i => leBytes 2 (((t.regions[i]?).map (·.toNat)).getD 0)) ++
          leBytes 8 t.defaultAction.toNat)

/-! ### Profiles (R238, R239) -/

/-- A step of a profile is acceptable against a table set (second stage of R239). -/
def stepOk (set : TableSet) (p : BitVec 512) (k : Nat) : Bool :=
  let t := profStep p k
  let b (i : Nat) : Nat := profByte p (16 + 12 * k + i)
  match fget set.tables t.table with
  | none => false
  | some tb =>
    let lpm : Bool := match tb.kind with | .lpm4 | .lpm6 => true | _ => false
    let bytesOk : Bool := match tb.kind with
      | .lpm4 => t.keyBytes == 4
      | .lpm6 => t.keyBytes == 16
      | .range => t.keyBytes == 2
      | .em => t.keyBytes + (if t.chain then 8 else 0) == tb.keyLen
    bytesOk && decide (t.keyOff + t.keyBytes ≤ profKeyLen p) &&
      (!(lpm && t.vrfSrc == 1) || decide (t.vrfOff + 2 ≤ profKeyLen p)) &&
      (!t.chain || (decide (tb.kind = .em) && decide (t.chainSrc < k))) && (t.cond == 0 || decide (t.condSrc < k)) &&
      t.cond != 3 && t.vrfSrc != 3 &&
      decide (b 1 / 64 = 0) && decide (b 2 / 16 = 0) && b 3 == 0 && b 7 == 0 && b 10 == 0 && b 11 == 0

/-- A profile is accepted (second stage of R239). -/
def profileOk (set : TableSet) (p : BitVec 512) : Bool :=
  decide (profByte p 2 ≠ 0) && decide (profByte p 2 < 16) && profByte p 3 == 0 &&
    ((List.range 10).all fun i => profByte p (6 + i) == 0) && (List.range (profSteps p)).all fun k => stepOk set p k

/-- PROFILE_SET (R239). -/
def opProfileSet (s : State) (req : List Byte) : MbxOut × State :=
  if req.length ≠ 64 then badLen s
  else
    let p := wordOf 512 req
    let n := profByte p 0
    let steps := profSteps p
    let set := stagedSet s
    if 63 < n ∨ 4 < steps ∨ (steps ≠ 0 ∧ (profKeyLen p = 0 ∨ 264 < profKeyLen p)) then badField s
    else if steps = 0 then doneWith (putStaged s { set with profiles := fdel set.profiles n }) []
    else if !profileOk set p then refusedFor s 9
    else doneWith (putStaged s { set with profiles := fput set.profiles n p }) []

/-- PROFILE_GET (R350): the profile of the current version; STEPS 0 if there is none. -/
def opProfileGet (s : State) (req : List Byte) : MbxOut × State :=
  if req.length ≠ 4 then badLen s
  else if 63 < leAt req 0 1 ∨ !zeroAt req 1 3 then badField s
  else match fget s.lke.cur.profiles (leAt req 0 1) with
    | some p => doneWith s (bytesOf p 64)
    | none => doneWith s (leBytes 1 (leAt req 0 1) ++ leBytes 63 0)

/-! ### Engine failure (R254 to R256) -/

/-- A LKUP of a failed engine is reissued (R255). -/
def reissue (s : State) (id : Nat) : State :=
  let s := endJob s id
  let s := dropReqs s fun q => decide (q.purpose = .cmd id)
  let s := modMed s fun m => { m with reqs := m.reqs.map fun q => if q.joined.any fun j => decide (j.2 = .cmd id) then { q with joined := q.joined.filter fun j => decide (j.2 ≠ .cmd id) } else q }
  startLkup (hwSat (modCmd s id fun x => { x with reads := [] }) Reg.LKE_REISSUES 32 1) id

/-- An engine fails, for a cause: bit 0 its watchdog, 1 a datapath check, 2 by force (R254). -/
def engineFail (s : State) (e : Engine) (cause : Nat) : State :=
  if fhas s.lke.failed e.val then s else
  let held := (s.lke.jobs.filter fun j => decide (j.engine = e)).map (·.cmd)
  let s := modLke s fun l => { l with failed := fput l.failed e.val (BitVec.ofNat 3 (2 ^ cause)) }
  let s := evt (raise s Reg.LKE_INT_STATUS 0) Ev.LKE_ENGINE_FAILED e.val 0
  let s := if s.lke.failed.length = 16 then evt (raise s Reg.LKE_INT_STATUS 5) Ev.LKE_ALL_FAILED noInst 0 else s
  held.foldl reissue (pmcCount s 0x503 (some e.val) held.length)

end Sys2Proof.Machine
end

