-- ==== Sys2Proof/Machine/DevOps.lean ====
section
/-! DEFINITION. Shared operations of the Device group (chapters 2 and 12). -/

namespace Sys2Proof.Machine

/-- Value of GLB_STATE.STATE (R34). -/
def DevState.code : DevState → Nat
  | .boot => 1 | .restore => 2 | .fwdReady => 3 | .operational => 4 | .commit => 5 | .dump => 6 | .stopped => 7

/-- DEV_INFO (R350). -/
def opDevInfo (s : State) (req : List Byte) : MbxOut × State :=
  if req.length ≠ 0 then badLen s
  else doneWith s
    (leBytes 4 (hwGet s Reg.GLB_ID).toNat ++ leBytes 4 (hwGet s Reg.GLB_STEPPING).toNat ++
      leBytes 4 (hwGet s Reg.GLB_FW_VERSION).toNat ++ leBytes 4 (hwGet s Reg.GLB_CAPS).toNat ++
      leBytes 8 Config.serial.toNat ++ leBytes 1 ((s.fw.running.map (·.val)).getD 0) ++ leBytes 1 s.fw.trial.toNat ++
      leBytes 2 (bitsOf (hwGet s Reg.GLB_PROFILE) 0 16) ++ leBytes 4 s.glb.state.code)

/-- DEV_ECHO (R350). -/
def opDevEcho (s : State) (req : List Byte) : MbxOut × State := doneWith s req

/-- REGION_GET (R49). -/
def opRegionGet (s : State) (req : List Byte) : MbxOut × State :=
  if req.length ≠ 2 then badLen s
  else if 480 ≤ leAt req 0 2 then badField s
  else doneWith s (descriptor s (leAt req 0 2))

/-- The fields a REGION_SET asks for (R49). -/
structure RegionAsk where
  use       : Use
  mirrored  : Bool
  syncAck   : Bool
  rekeyLive : Bool
  levelRate : BitVec 2
  rights    : BitVec 12

/-- The fields of a REGION_SET, if every one is within its range and every read-only one is zero (R49, R350). -/
def regionAsk (req : List Byte) : Option RegionAsk :=
  let w0 := leAt req 8 8
  let w1 := leAt req 16 8
  match useOf (w0 / 2 ^ 16 % 8) with
  | none => none
  | some u =>
    let rate := w0 / 2 ^ 35 % 4
    let rw := u.code * 2 ^ 16 + w0 / 2 ^ 32 % 2 ^ 5 * 2 ^ 32
    let rights := ((List.range 4).map fun p => w1 / 2 ^ (4 * p) % 8 * 2 ^ (3 * p)).sum
    let rw1 := ((List.range 4).map fun p => w1 / 2 ^ (4 * p) % 8 * 2 ^ (4 * p)).sum
    if 480 ≤ leAt req 0 2 ∨ !zeroAt req 2 6 ∨ w0 ≠ rw ∨ w1 ≠ rw1 ∨ !zeroAt req 24 16 ∨ rate = 3 then none
    else some { use := u, mirrored := w0 / 2 ^ 32 % 2 == 1, syncAck := w0 / 2 ^ 33 % 2 == 1, rekeyLive := w0 / 2 ^ 34 % 2 == 1,
                levelRate := BitVec.ofNat 2 rate, rights := BitVec.ofNat 12 rights }

/-- Regions of a USE. -/
def regionsOf (s : State) (u : Use) : Nat := (s.regions.filter fun e => decide (e.2.use = u)).length

/-- MIRRORED or SYNC_ACK may not change so (R234, R310: case 5). -/
def mirrorRefused (s : State) (r : Nat) (a : RegionAsk) : Bool :=
  let x := regionAt s r
  let fits := decide (a.use = .general) || decide (a.use = .counter)
  (a.mirrored && !fits) || ((a.mirrored || x.mirrored) && decide (a.use = .table)) || (a.mirrored && decide (x.use = .table)) ||
    (a.syncAck && decide (a.use = .counter)) ||
    (decide (a.mirrored ≠ x.mirrored) && (x.lost || x.rebuilding || seeding s r)) ||
    (a.mirrored && !x.mirrored && isPrimary s && !peerFits s r a.use)

/-- The first case of R51 that refuses a REGION_SET. -/
def regionRefused (s : State) (r : Nat) (a : RegionAsk) : Option Nat :=
  let x := regionAt s r
  if x.use ≠ .none ∧ a.use ≠ .none ∧ a.use ≠ x.use then some 1
  else if a.use ≠ .none ∧ x.slot.isNone then some 2
  else if a.use ≠ x.use ∧ ((a.use = .counter ∧ 4 ≤ regionsOf s .counter) ∨ (a.use = .buffer ∧ 256 ≤ regionsOf s .buffer)) then some 3
  else if a.use ≠ x.use ∧ (liveContent s r ∨ heldByTables s r) then some 4
  else if mirrorRefused s r a then some 5
  else if a.rekeyLive ≠ x.rekeyLive ∧ x.rekey.isSome then some 6
  else none

/-- The programmed sectors of a domain that lie in their places. -/
def domainCells (s : State) (d : Nat) : FMap Cell :=
  s.med.cells.filter fun e => decide (domainOf e.2.lsa.toNat = d) && decide (placeOf s e.2.lsa.toNat = e.1)

/-- A domain takes a new permutation key, and its sectors go to the slots this gives them: a change of USE keeps the stored bytes (R52,
R213). DEDUCED (log entry 8): the two rules together. -/
def redrawDomain (s : State) (d : Nat) : State :=
  let held := domainCells s d
  let s := freeNext (putDom s d { domAt s d with key := freeNow s })
  modMed s fun m =>
    { m with cells := held.foldl (fun c e => fput c (placeOf s e.2.lsa.toNat) e.2) (m.cells.filter fun e => !fhas held e.1) }

/-- A region's USE leaves NONE: the permutation keys of its eight domains are drawn from the random source (R213). -/
def drawKeys (s : State) (r : Nat) : State :=
  (List.range 8).foldl (fun s j => redrawDomain s (8 * r + j)) s

/-- The counter poison bitmap holds the sectors of COUNTER regions, and of no other (R278). -/
def remapCounters (s : State) (r : Nat) : State :=
  let p := fcut s.cnt.poison (regionBase r) (regionBase r + regionSectors)
  modCnt s fun c => { c with
    poison := if (regionAt s r).use = .counter then ((markedSectors s).filter (inRegion r)).foldl (fun m n => fput m n ()) p else p }

/-- A REGION_SET takes effect (R53): a region whose USE leaves NONE is mapped anew (R213), a BUFFER region begins to be formatted (R258), a region newly MIRRORED on a primary begins to be
seeded (R310), writes held for the mate are let go where SYNC_ACK is cleared (R327), the counter poison bitmap follows the USE (R278). -/
def regionApply (s : State) (r : Nat) (a : RegionAsk) : State :=
  let x := regionAt s r
  let starts := decide (a.use = .buffer) && decide (x.use ≠ .buffer)
  let s := setRegion s r { x with use := a.use, mirrored := a.mirrored, syncAck := a.syncAck, rekeyLive := a.rekeyLive,
                                  levelRate := a.levelRate, rights := a.rights, formatting := x.formatting || starts }
  let s := if a.use ≠ .buffer ∧ x.use = .buffer then modDbq s fun d => { d with pool := fdel d.pool r } else s
  let free (y : HostCmd) : HostCmd := if regionOf y.addr = r then { y with mateWait := false } else y
  let s := if a.syncAck && a.mirrored then s else { s with cmds := s.cmds.map free }
  let s := if x.mirrored ∧ !a.mirrored then
      { s with mir := { s.mir with intent := fcut s.mir.intent (512 * r) (512 * r + 512), regions := fdel s.mir.regions r } }
    else s
  let s := if x.use = .none ∧ a.use ≠ .none then drawKeys s r else s
  let s := remapCounters s r
  if a.mirrored ∧ !x.mirrored ∧ isPrimary s then askSeed s r false else s

/-- REGION_SET (R49, R51, R53). -/
def opRegionSet (s : State) (req : List Byte) : MbxOut × State :=
  if req.length ≠ 40 then badLen s
  else match regionAsk req with
    | none => badField s
    | some a =>
      let r := leAt req 0 2
      match regionRefused s r a with
      | some k => refusedFor s k
      | none =>
        let s := saveInner (regionApply s r a) (.descriptor r)
        doneWith s (descriptor s r)

/-- REGION_RECREATE (R352): an erase, and then zero bytes in every sector. -/
def opRegionRecreate (s : State) (m : Mbx) (req : List Byte) : MbxOut × State :=
  if req.length ≠ 2 then badLen s
  else if 480 ≤ leAt req 0 2 then badField s
  else
    let r := leAt req 0 2
    let x := regionAt s r
    if !x.lost then refusedFor s 7
    else if !(s.med.blanks[blankOf r]).hwOk then refusedFor s 8
    else if (x.mirrored ∧ isMate s) ∨ x.rebuilding then refusedFor s 9
    else (.runs, askErase s r (.recreate m))

/-- A REGION_RECREATE ends (R352): its mailbox is DONE, with CODE DONE or ABORTED and the descriptor as it stands. -/
def endRecreate (s : State) (m : Mbx) (r : Nat) (aborted : Bool) : State :=
  let s := dropReqs s fun q => inRegion r q.lsa.toNat && decide (q.purpose = .rebuild)
  let s := dropErase s (.recreate m)
  let s := modBlank s (blankOf r) fun v => { v with rebuild := none }
  mbxFinish s m (if aborted then 8 else 0) 0 (descriptor s r)

/-- The mailbox whose REGION_RECREATE of a region runs. -/
def recreating (s : State) (r : Nat) : Option Mbx :=
  (List.finRange 8).find? fun m => mbxBusy s.mbx[m] && !(s.mbx[m]).waits && mbxOp s m == 0x0012 && leAt (mbxReq s m) 0 2 == r

/-- A REBUILD program of a REGION_RECREATE has verified: the next sector follows, or LOST clears and the command completes; on a primary a
MIRRORED region is then seeded (R352). -/
def recreateStep (s : State) (m : Mbx) (r lsa : Nat) : State :=
  let k := lsa % regionSectors + 1
  if s.mbx[m].state = .aborting then endRecreate s m r true
  else if k < regionSectors then recreateNext s r k
  else
    let s := endRecreate (clearLost s r) m r false
    if (regionAt s r).mirrored ∧ isPrimary s then askSeed s r false else s

/-- A REBUILD program of a REGION_RECREATE has been given up: the sector is written again, since LOST clears and the command completes only
when every sector has verified; host software can abort it (R352; DEDUCED, log entry 70). -/
def recreateAgain (s : State) (m : Mbx) (r lsa : Nat) : State :=
  if s.mbx[m].state = .aborting then endRecreate s m r true else recreateNext s r (lsa % regionSectors)

/-- Some controller of a blank can take over from one (R222). -/
def replaceable (s : State) (m : Nat) : Bool :=
  let b := if m < 64 then m / 8 else m - 64
  (((List.range 8).map fun j => 8 * b + j) ++ [64 + b]).any fun k =>
    k != m && !(s.med.failed.any fun f => f.val == k) && decide ((servedBy s k).length < 2)

/-- FORCE_FAIL (R353). -/
def opForceFail (s : State) (req : List Byte) : MbxOut × State :=
  let kind := leAt req 0 1
  let i := leAt req 1 1
  if req.length ≠ 2 then badLen s
  else if 1 < kind ∨ (kind = 0 ∧ 72 ≤ i) ∨ (kind = 1 ∧ 16 ≤ i) then badField s
  else if kind = 0 then
    let m : Mch := ⟨i % 72, Nat.mod_lt _ (by decide)⟩
    if s.med.failed.contains m then refusedFor s 10
    else if s.glb.state ≠ .operational then refusedFor s 11
    else if !(servedBy s i).isEmpty ∧ !replaceable s i then refusedFor s 12
    else doneWith (mchFail s m 3) []
  else
    let e : Engine := ⟨i % 16, Nat.mod_lt _ (by decide)⟩
    if fhas s.lke.failed i then refusedFor s 10
    else if s.glb.state ≠ .operational then refusedFor s 11
    else if s.lke.failed.length = 15 then refusedFor s 12
    else doneWith (engineFail s e 2) []

end Sys2Proof.Machine
end

