-- ==== Sys2Proof/Machine/QueOps.lean ====
section
/-! DEFINITION. Shared operations of the Queues group: pool, queue configuration, and the clearing of counters (chapter 9). -/

namespace Sys2Proof.Machine

/-- POOL_SET (R259). -/
def opPoolSet (s : State) (req : List Byte) : MbxOut × State :=
  if req.length ≠ 4 then badLen s
  else if 480 ≤ leAt req 0 2 ∨ 1 < leAt req 2 1 ∨ !zeroAt req 3 1 then badField s
  else if (regionAt s (leAt req 0 2)).use ≠ .buffer then refusedFor s 1
  else doneWith (modPool (saveInner s (.pool (leAt req 0 2))) (leAt req 0 2) fun p => { p with alloc := leAt req 2 1 == 1 }) []

/-- The 12 bytes of POOL_INFO for a region. -/
def poolBytes (s : State) (r : Nat) : List Byte :=
  let p := poolAt s r
  let x := regionAt s r
  leBytes 2 r ++ leBytes 1 (p.formatted.toNat + 2 * p.alloc.toNat + 4 * x.lost.toNat + 8 * x.formatting.toNat) ++ leBytes 1 0 ++
    leBytes 4 p.used.length ++ leBytes 4 (if p.formatted then regionChunks - p.used.length else 0)

/-- POOL_INFO (R350). -/
def opPoolInfo (s : State) (req : List Byte) : MbxOut × State :=
  if req.length ≠ 0 then badLen s
  else
    let rs := (s.regions.filter fun e => decide (e.2.use = .buffer)).map (·.1)
    doneWith s (leBytes 2 rs.length ++ leBytes 2 0 ++ rs.flatMap (poolBytes s))

/-- The configuration record of a queue (R261). -/
def queueRecord (q : Nat) (v : Queue) : List Byte :=
  leBytes 4 q ++ leBytes 1 v.enable.toNat ++ leBytes 1 (v.enqPorts.toNat + 16 * v.deqPorts.toNat) ++ leBytes 2 0 ++
    leBytes 4 v.maxChunks ++ leBytes 4 0

/-- QUEUE_GET (R350). -/
def opQueueGet (s : State) (req : List Byte) : MbxOut × State :=
  let q := leAt req 0 4
  if req.length ≠ 4 then badLen s
  else if 131072 ≤ q then badField s
  else
    let s := descCheck s q
    let v := queueAt s q
    doneWith s (queueRecord q v ++ bytesOf (qstatUnit v) 16 ++ leBytes 8 (queueBytes v))

/-- A queue with the configuration of a record (R261). -/
def withRecord (v : Queue) (req : List Byte) : Queue :=
  { v with enable := leAt req 4 1 == 1, enqPorts := BitVec.ofNat 4 (leAt req 5 1 % 16), deqPorts := BitVec.ofNat 4 (leAt req 5 1 / 16),
           maxChunks := leAt req 8 4 }

/-- The fields of a record are within their ranges (R261). -/
def recordOk (req : List Byte) : Bool :=
  decide (leAt req 0 4 < 131072) && decide (leAt req 4 1 < 2) && zeroAt req 6 2 && decide (leAt req 8 4 < 2 ^ 27) && zeroAt req 12 4

/-- An open packet is discarded: its sectors are dead (R266, R267). -/
def dropOpen (s : State) (q : Nat) : State :=
  match (queueAt s q).opened with
  | none => s
  | some (p, _) =>
    let s := modQueue s q fun v => { v with opened := none, tail := 0 }
    freeDead (p.sectors.foldl (fun s e => killSector s e.1.toNat) s) q

/-- A queue takes a record at one instant (R261): disabled, it discards its open packet, and a flush that waited for the packet's end takes
effect. -/
def setQueue (s : State) (q : Nat) (req : List Byte) : State :=
  let s := modQueue s q fun v => { withRecord v req with charged := true }
  let s := modDbq s fun d => { d with saved := fputD d.saved q Queue.initial (withRecord (fgetD d.saved q Queue.initial) req) }
  if leAt req 4 1 = 0 then runFlushes (dropOpen s q) q else s

/-- QUEUE_SET (R261, R271). -/
def opQueueSet (s : State) (m : Mbx) (req : List Byte) : MbxOut × State :=
  if req.length ≠ 16 then badLen s
  else if !recordOk req then badField s
  else
    let q := leAt req 0 4
    let missing := (descRegions s (queueAt s q)).filter fun r => !s.krf.bitmap.contains r
    let w := Waiter.queueSet m
    if !(queueAt s q).charged ∧ !holdsGrant s w ∧ !mayReserve s 128 then (.waits, joinLine s w)
    else if !missing.isEmpty then (.waits, missing.foldl askBitmap (if (queueAt s q).charged then s else grantCharge s w 128))
    else doneWith (notePeak (setQueue (descCheck (ungrant s w) q) q req)) []

/-- CNT_CLEAR (R279). -/
def opCntClear (s : State) (m : Mbx) (req : List Byte) : MbxOut × State :=
  let pa := leAt req 0 8
  let n := leAt req 8 4
  if req.length ≠ 16 then badLen s
  else if 2 ^ 40 ≤ pa ∨ pa % 256 ≠ 0 ∨ n = 0 ∨ 8388608 < n ∨ !zeroAt req 12 4 then badField s
  else
    let first := pa / 256
    let r := lsaRegion first
    if lsaRegion (first + n - 1) ≠ r ∨ (regionAt s r).use ≠ .counter then refusedFor s 2
    else if clearing s r then refusedFor s 3
    else (.runs, modCnt s fun c => { c with clears := c.clears ++ [(m, first, n, 0, [])] })

/-- The CNT_CLEAR of a mailbox. -/
def clearOf (s : State) (m : Mbx) : Option (Nat × Nat × Nat × List (BitVec 32)) :=
  (s.cnt.clears.find? fun c => decide (c.1 = m)).map (·.2)

/-- Store what a CNT_CLEAR has left. -/
def putClear (s : State) (m : Mbx) (v : Nat × Nat × Nat × List (BitVec 32)) : State :=
  modCnt s fun c => { c with clears := c.clears.map fun x => if x.1 = m then (m, v) else x }

/-- A CNT_CLEAR ends: DONE, or ABORTED, with the sectors cleared (R279). -/
def endClear (s : State) (m : Mbx) (cleared : Nat) (aborted : Bool) : State :=
  mbxFinish (modCnt s fun c => { c with clears := c.clears.filter fun x => decide (x.1 ≠ m) }) m (if aborted then 8 else 0) 0
    (leBytes 4 cleared)

/-- The clearing instant of a sector (R279): its pending deltas are gone, its mark and its bit are cleared, zero bytes stand in a kerf slot. -/
def clearSector (s : State) (lsa : Nat) : State :=
  let s := modCnt s fun c => { c with entries := fcut c.entries (pairBase lsa) (pairBase lsa + 16) }
  let s := putSector s lsa 0 (agedAtOnce s)
  let s := modCnt s fun c => { c with poison := fdel c.poison lsa }
  askIntent (formRecord s (liveRecord .sector (paOf lsa) 0) none) lsa

/-- A CNT_CLEAR takes its next sector, if it can (R279). It waits while its region is LOST (DEDUCED, log entry 10). -/
def clearStep (s : State) (m : Mbx) : State :=
  match clearOf s m with
  | none => s
  | some (first, left, cleared, wait) =>
    if left = 0 ∨ (foldOf s first).isSome ∨ (regionAt s (lsaRegion first)).lost then s
    else
      let r := admitSector s (.clear m) first
      if r.1 then putClear (clearSector r.2 first) m (first + 1, left - 1, cleared + 1, wait ++ [BitVec.ofNat 32 first]) else r.2

/-- A sector has been programmed and verified: CNT_CLEARs that waited for it go on to their end (R279). -/
def clearVerified (s : State) (lsa : Nat) : State :=
  s.cnt.clears.foldl (fun s c =>
    let wait := c.2.2.2.2.filter fun n => n.toNat != lsa
    if wait.isEmpty ∧ c.2.2.1 = 0 then endClear s c.1 c.2.2.2.1 false
    else putClear s c.1 (c.2.1, c.2.2.1, c.2.2.2.1, wait)) s

/-- The 16 bytes of CNT_INFO for a region. -/
def cntBytes (s : State) (r : Nat) : List Byte :=
  leBytes 2 r ++ leBytes 2 0 ++ leBytes 4 (s.cnt.entries.filter fun e => inRegion r (pairSector e.1)).length ++
    leBytes 4 (s.cnt.poison.filter fun e => inRegion r e.1).length ++ leBytes 4 0

/-- CNT_INFO (R350). -/
def opCntInfo (s : State) (req : List Byte) : MbxOut × State :=
  if req.length ≠ 0 then badLen s
  else
    let rs := (s.regions.filter fun e => decide (e.2.use = .counter)).map (·.1)
    doneWith s (leBytes 1 rs.length ++ leBytes 3 0 ++ rs.flatMap (cntBytes s))

end Sys2Proof.Machine
end

