-- ==== Sys2Proof/Machine/PstOps.lean ====
section
/-! DEFINITION. The parameter store: copies and slots, passwords, monotonic counters, calibration, the profile's staging, and the scan at
boot (chapter 13). -/

namespace Sys2Proof.Machine

/-! ### Copies (R361 to R363) -/

/-- The CRC32 over bytes 0 to 7 of a copy's header and its content (R361). -/
def copyCrc (seq : Nat) (content : List Byte) : BitVec 32 :=
  BitVec.ofNat 32 (crc32 (leBytes 4 seq ++ leBytes 2 content.length ++ leBytes 2 0 ++ content))

/-- A copy verifies: its CRC matches (R361). -/
def PstCopy.ok (c : PstCopy) : Bool := decide (c.crc = copyCrc c.seq c.content)

/-- A copy as the device programs it. -/
def sealedCopy (seq : Nat) (content : List Byte) : PstCopy := { seq := seq, crc := copyCrc seq content, content := content }

/-- The 16 bytes of a copy's header (R361). -/
def PstCopy.header (c : PstCopy) : List Byte :=
  leBytes 4 c.seq ++ leBytes 2 c.content.length ++ leBytes 2 0 ++ bytesOf c.crc 4 ++ leBytes 4 0

/-- The copy in force: its number and the copy, or none where neither verifies (R362). -/
def inForce (c0 c1 : PstCopy) : Option (Fin 2 × PstCopy) :=
  if c0.ok ∧ c1.ok then if c0.seq < c1.seq then some (1, c1) else some (0, c0)
  else if c0.ok then some (0, c0)
  else if c1.ok then some (1, c1)
  else none

/-- Both copies verify with equal SEQ and different content (case 4 of R362). -/
def copyTie (c0 c1 : PstCopy) : Bool := c0.ok && c1.ok && c0.seq == c1.seq && decide (c0.content ≠ c1.content)

/-- A write: the two copies after it, and the SEQ written (R362). -/
def writeCopy (c0 c1 : PstCopy) (content : List Byte) : PstCopy × PstCopy × Nat :=
  match inForce c0 c1 with
  | none => (sealedCopy 1 content, c1, 1)
  | some (i, c) =>
    let n := sealedCopy (c.seq + 1) content
    if i = 0 then (c0, n, c.seq + 1) else (n, c1, c.seq + 1)

/-- Copy 0 again, as copy 1 with SEQ + 1 (case 4 of R362). -/
def tieCopy (c0 : PstCopy) : PstCopy := sealedCopy (c0.seq + 1) c0.content

/-- The writes an area or slot accepts (R363). -/
abbrev pstWrites : Nat := 100000

/-- Change the parameter store. -/
def modPst (s : State) (f : Pst → Pst) : State := { s with pst := f s.pst }

/-- Cell programs are counted (R382). -/
def pstPrograms (s : State) (n : Nat) : State := hwAdd s Reg.PST_PROGRAMS n

/-- The copy of the control area in force, as R362 decides it. -/
def ctlInForce (c0 c1 : CtlCopy) : Option (Fin 2 × CtlCopy) :=
  if c0.ok ∧ c1.ok then if c0.seq < c1.seq then some (1, c1) else some (0, c0)
  else if c0.ok then some (0, c0)
  else if c1.ok then some (1, c1)
  else none

/-- Both copies of the control area verify with equal SEQ and different content (case 4 of R362). -/
def ctlTied (c0 c1 : CtlCopy) : Bool := c0.ok && c1.ok && c0.seq == c1.seq && decide (c0.book ≠ c1.book)

/-- What the control area is to hold now. -/
def bookOf (p : Pst) : PstBook where
  slots := fmapv (fun _ v => { writes := v.writes, readPw := v.readPw, writePw := v.writePw }) p.slots
  profile := p.profile.writes
  user := p.user.writes
  incs := fmapv (fun _ c => c.incs) p.ctrs

/-- The control area is written: the copy that is not in force, with the next SEQ (R362, R363). -/
def ctlNext (p : Pst) : Pst :=
  match ctlInForce p.ctl0 p.ctl1 with
  | none => { p with ctl0 := { seq := 1, ok := true, book := bookOf p } }
  | some (0, c) => { p with ctl1 := { seq := c.seq + 1, ok := true, book := bookOf p }, ctlTie := false }
  | some (_, c) => { p with ctl0 := { seq := c.seq + 1, ok := true, book := bookOf p } }

/-- The control area is written, after what it is to hold has changed. -/
def ctlWrite (s : State) : State := pstPrograms (modPst s ctlNext) 1

/-- A slot that holds nothing. -/
def PstSlot.empty : PstSlot where
  copy0 := PstCopy.bad
  copy1 := PstCopy.bad
  writes := 0
  readPw := none
  writePw := none
  fails := 0
  tie := false

/-- A record slot. -/
def pstSlotAt (s : State) (k : Nat) : PstSlot := fgetD s.pst.slots k PstSlot.empty

/-- Store a record slot. -/
def putPstSlot (s : State) (k : Nat) (v : PstSlot) : State :=
  modPst s fun p => { p with slots := fputD p.slots k PstSlot.empty v }

/-- The record of a slot, if it is not EMPTY. -/
def PstSlot.record (v : PstSlot) : Option (List Byte) := (inForce v.copy0 v.copy1).map fun c => c.2.content

/-- The content of an area in force. -/
def PstArea.content (v : PstArea) : Option (List Byte) := (inForce v.copy0 v.copy1).map fun c => c.2.content

/-- A slot that is WORN (R365). -/
def PstSlot.worn (v : PstSlot) : Bool := decide (pstWrites ≤ v.writes)

/-- A slot that is locked (R369). -/
def PstSlot.locked (v : PstSlot) : Bool := decide (8 ≤ v.fails)

/-- A slot, counter or area became WORN. -/
def pstWorn (s : State) : State := evt (raise s Reg.PST_INT_STATUS 2) Ev.PST_WORN noInst 0

/-- One more write of a slot's endurance (R365). -/
def wearSlot (s : State) (k : Nat) : State :=
  let v := pstSlotAt s k
  let s := putPstSlot s k { v with writes := v.writes + 1 }
  if v.writes + 1 = pstWrites then pstWorn s else s

/-! ### Passwords (R367 to R369) -/

/-- The digest of a password: the first 256 bits of SHA-384 over the salt, the slot number, WHICH and the password, in the bytes of a request
(R367; the widths are DEDUCED, log entry 11). -/
def pwDigest (k which pw : Nat) : BitVec 256 :=
  wordOf 256 ((sha384 (Config.pwSalt ++ leBytes 1 k ++ leBytes 1 which ++ leBytes 16 pw)).take 32)

/-- The digest of a kind of password: 0 read, 1 write. -/
def PstSlot.pw (v : PstSlot) (which : Nat) : Option (BitVec 256) := if which = 0 then v.readPw else v.writePw

/-- A password matches the one of a kind that is set; none set is matched by what `none` says. -/
def pwMatches (v : PstSlot) (k which pw : Nat) (unset : Bool) : Bool :=
  match v.pw which with
  | none => unset
  | some d => decide (pwDigest k which pw = d)

/-- A failure is counted; the eighth locks the slot (R369). -/
def pwFailure (s : State) (k which : Nat) : State :=
  let v := pstSlotAt s k
  let s := putPstSlot s k { v with fails := v.fails + 1 }
  let s := hwSet (hwSat s Reg.PST_PW_FAIL 32 1) Reg.PST_LAST_FAIL
    (fld (k % 32) 0 ||| fld (which % 2) 5 ||| fld (min 8 (v.fails + 1)) 6 ||| flag true 10)
  if v.fails + 1 = 8 then evt (raise s Reg.PST_INT_STATUS 1) Ev.PST_PW_LOCK noInst 0 else s

/-! ### Reads and writes -/

/-- The factory copy in force: of 32 KiB, 16 B are its header (R360 to R362, R364). -/
def factoryCopy (p : Pst) : Option PstCopy := (inForce p.factory.1 p.factory.2).map (·.2)

/-- The largest content of a copy of an area or slot (R361). -/
def pstCapacity (area : Nat) : Nat := match area with | 0 => 32752 | 1 | 2 => 8176 | _ => 2032

/-- The content a read of an area or slot sees. -/
def pstContent (s : State) (area slot : Nat) : Option (List Byte) :=
  match area with
  | 0 => (factoryCopy s.pst).map fun c => c.content.take (pstCapacity 0)
  | 1 => s.pst.profile.content
  | 2 => s.pst.user.content
  | _ => (pstSlotAt s slot).record

/-- PST_INFO (R350). -/
def opPstInfo (s : State) (req : List Byte) : MbxOut × State :=
  if req.length ≠ 0 then badLen s
  else doneWith s ((List.range 32).flatMap fun k =>
    let v := pstSlotAt s k
    let st := if v.locked then 3 else if v.worn then 2 else if v.record.isSome then 1 else 0
    leBytes 1 st ++ leBytes 1 (v.readPw.isSome.toNat + 2 * v.writePw.isSome.toNat) ++
      leBytes 2 ((v.record.map (·.length)).getD 0) ++ leBytes 4 v.writes)

/-- The header's fields are within their ranges (R350, R366). -/
def pstHeaderOk (req : List Byte) : Bool :=
  decide (leAt req 0 1 < 4) && decide (leAt req 1 1 < 32) && zeroAt req 6 2 && (leAt req 0 1 == 3 || zeroAt req 8 16)

/-- PST_READ (R366, R368, R369). -/
def opPstRead (s : State) (req : List Byte) : MbxOut × State :=
  let area := leAt req 0 1
  let k := leAt req 1 1
  let off := leAt req 2 2
  let n := leAt req 4 2
  if req.length ≠ 24 then badLen s
  else if !pstHeaderOk req ∨ n = 0 ∨ 4096 < n then badField s
  else if ((pstContent s area k).map (·.length)).getD (pstCapacity area) < off + n then badField s
  else
    let v := pstSlotAt s k
    if area = 3 ∧ v.locked then refusedFor s 2
    else if area = 3 ∧ !pwMatches v k 0 (leAt req 8 16) true then (.fin 1 1 [], pwFailure s k 0)
    else match pstContent s area k with
      | none => refusedFor s 4
      | some c => doneWith s (slice c off n)

/-- A record is written whole (R365). -/
def writeRecordSlot (s : State) (k : Nat) (content : List Byte) : MbxOut × State :=
  let v := pstSlotAt s k
  let w := writeCopy v.copy0 v.copy1 content
  let s := ctlWrite (pstPrograms (wearSlot (putPstSlot s k { v with copy0 := w.1, copy1 := w.2.1, tie := false }) k) 1)
  doneWith s (leBytes 4 w.2.2)

/-! ### The board profile (R377 to R379) -/

/-- The fields that R377 has at zero. -/
def profileZeros (c : List Byte) : Bool :=
  zeroAt c 6 2 && zeroAt c 12 4 && decide (leAt c 16 1 < 16) && decide (leAt c 17 1 < 4) && zeroAt c 18 2 &&
  ((List.range 4).all fun n => zeroAt c (23 + 4 * n) 1) &&
  ((List.range 2).all fun n => decide (leAt c (44 + 4 * n) 4 < 4096)) &&
  ((List.range 2).all fun n => decide (leAt c (52 + 2 * n) 2 &&& 0xF0F0 = 0)) &&
  decide (leAt c 88 2 < 4096) && zeroAt c 90 2 && decide (leAt c 92 1 < 8) && decide (leAt c 93 1 < 8) && zeroAt c 94 2 &&
  ((List.range 12).all fun k => decide (leAt c (96 + 4 * k) 4 < 2 ^ 28)) &&
  decide (leAt c 146 1 < 2) && zeroAt c 147 13

/-- FORMAT, LENGTH, the reserved fields and PCRC are correct (R378). -/
def profileValid (c : List Byte) : Bool :=
  let n := leAt c 4 2
  leAt c 0 2 == 1 && decide (160 ≤ n) && decide (n ≤ 8176) && decide (n ≤ c.length) && profileZeros c &&
    leAt c 8 4 == crc32 (slice c 12 (n - 12))

/-- A staging ends (R378): the profile is sealed, or refused with CRC. -/
def sealProfile (s : State) (c : List Byte) : MbxOut × State :=
  let s := modPst s fun p => { p with staging := none }
  if !profileValid c then refusedFor s 7 else
  let v := s.pst.profile
  let w := writeCopy v.copy0 v.copy1 (c.take (leAt c 4 2))
  let s := modPst s fun p => 
    { p with profile := { copy0 := w.1, copy1 := w.2.1, writes := v.writes + 1, tie := false }, pending := true }
  let s := setCfg s Reg.PST_CTRL (putBit (cfg s Reg.PST_CTRL) 0 false)
  let s := evt (raise (ctlWrite (pstPrograms s 1)) Reg.PST_INT_STATUS 5) Ev.PST_PROFILE_SEALED noInst 0
  doneWith (if v.writes + 1 = pstWrites then pstWorn s else s) (leBytes 4 0)

/-- PST_WRITE of the board profile (R378). -/
def writeProfile (s : State) (off : Nat) (l : List Byte) : MbxOut × State :=
  let held := if off = 0 then [] else s.pst.staging.getD []
  if !cfgBit s Reg.PST_CTRL 0 then refusedFor s 5
  else if pstWrites ≤ s.pst.profile.writes then refusedFor s 3
  else if off ≠ held.length then refusedFor s 6
  else
    let c := held ++ l
    if 6 ≤ c.length ∧ leAt c 4 2 ≤ c.length then sealProfile s c
    else doneWith (modPst s fun p => { p with staging := some c }) (leBytes 4 0)

/-- PST_WRITE (R364, R365, R368, R378). -/
def opPstWrite (s : State) (req : List Byte) : MbxOut × State :=
  let area := leAt req 0 1
  let k := leAt req 1 1
  let off := leAt req 2 2
  let n := leAt req 4 2
  if req.length < 25 ∨ 4096 < req.length ∨ req.length ≠ 24 + n then badLen s
  else if !pstHeaderOk req ∨ (area = 3 ∧ (off ≠ 0 ∨ 2032 < n)) ∨ (area = 1 ∧ 8176 < off + n) then badField s
  else if area = 1 then writeProfile s off (slice req 24 n)
  else if area ≠ 3 then refusedFor s 5
  else
    let v := pstSlotAt s k
    if v.locked then refusedFor s 2
    else if !pwMatches v k 1 (leAt req 8 16) true then (.fin 1 1 [], pwFailure s k 1)
    else if v.worn then refusedFor s 3
    else writeRecordSlot s k (slice req 24 n)

/-- PST_PASSWORD (R368, R370). -/
def opPstPassword (s : State) (req : List Byte) : MbxOut × State :=
  let k := leAt req 0 1
  let which := leAt req 1 1
  let new := leAt req 24 16
  if req.length ≠ 40 then badLen s
  else if 32 ≤ k ∨ 1 < which ∨ !zeroAt req 2 6 then badField s
  else
    let v := pstSlotAt s k
    if v.locked then refusedFor s 2
    else if !pwMatches v k which (leAt req 8 16) (leAt req 8 16 == 0) then (.fin 1 1 [], pwFailure s k which)
    else if v.worn then refusedFor s 3
    else
      let d := if new = 0 then none else some (pwDigest k which new)
      let v := if which = 0 then { v with readPw := d } else { v with writePw := d }
      doneWith (ctlWrite (wearSlot (putPstSlot s k v) k)) []

/-! ### Monotonic counters (R371 to R373) -/

/-- A monotonic counter. -/
def pstCtrAt (s : State) (i : Nat) : PstCtr := fgetD s.pst.ctrs i { high := 0, low := 0, incs := 0 }

/-- Store a counter. -/
def putPstCtr (s : State) (i : Nat) (v : PstCtr) : State :=
  modPst s fun p => { p with ctrs := fputD p.ctrs i { high := 0, low := 0, incs := 0 } v }

/-- The value its cells give. -/
def PstCtr.value (c : PstCtr) : Nat := c.high.toNat * 2 ^ 32 + c.low.toNat

/-- A counter with a value in its cells. -/
def PstCtr.withValue (c : PstCtr) (v : Nat) : PstCtr :=
  { c with high := BitVec.ofNat 32 (v / 2 ^ 32), low := BitVec.ofNat 32 v }

/-- PST_CTR_READ (R350). -/
def opPstCtrRead (s : State) (req : List Byte) : MbxOut × State :=
  if req.length ≠ 4 then badLen s
  else if 16 ≤ leAt req 0 1 ∨ !zeroAt req 1 3 then badField s
  else doneWith s (leBytes 8 (pstCtrAt s (leAt req 0 1)).value)

/-- PST_CTR_INC (R371, R372). -/
def opPstCtrInc (s : State) (req : List Byte) : MbxOut × State :=
  let i := leAt req 0 1
  let n := leAt req 8 8
  if req.length ≠ 16 then badLen s
  else if 16 ≤ i ∨ !zeroAt req 1 7 ∨ n = 0 then badField s
  else
    let c := pstCtrAt s i
    let v := c.value + n
    if pstWrites ≤ c.incs then refusedFor s 3
    else if 2 ^ 64 ≤ v then refusedFor s 8
    else
      let s := putPstCtr (ctlWrite s) i { c.withValue v with incs := c.incs + 1 }
      let s := ctlWrite (pstPrograms s (if v / 2 ^ 32 = c.high.toNat then 1 else 2))
      doneWith (if c.incs + 1 = pstWrites then pstWorn s else s) (leBytes 8 v)

/-! ### Calibration (R374 to R376) -/

/-- Number of indexes of a parameter, with MIN and MAX (R375). -/
def calRange : Nat → Option (Nat × Int × Int)
  | 1 => some (320, 0, 255)
  | 2 => some (40, -160, 160)
  | 3 => some (1, -25, 25)
  | 4 => some (1, -50, 50)
  | _ => none

/-- The user offset of a parameter. -/
def userOffset (s : State) (param index : Nat) : Int := fgetD s.pst.offsets (param * 65536 + index) 0

/-- factory + user, clamped (R374). -/
def clampCal (param index : Nat) (user : Int) : Int :=
  match calRange param with
  | none => 0
  | some (_, lo, hi) => max lo (min hi (Config.factoryValue (param * 65536 + index) + user))

/-- The effective value of a parameter. -/
def effective (s : State) (param index : Nat) : Int := clampCal param index (userOffset s param index)

/-- A signed 32-bit number as four bytes. -/
def i32Bytes (v : Int) : List Byte := bytesOf (BitVec.ofInt 32 v) 4

/-- The five values of a parameter. -/
def calBytes (s : State) (param index : Nat) : List Byte :=
  match calRange param with
  | none => []
  | some (_, lo, hi) =>
    i32Bytes (Config.factoryValue (param * 65536 + index)) ++ i32Bytes (userOffset s param index) ++
      i32Bytes (effective s param index) ++ i32Bytes lo ++ i32Bytes hi

/-- PARAM and INDEX are in the table (R375). -/
def calKnown (param index : Nat) : Bool :=
  match calRange param with
  | none => false
  | some (n, _, _) => decide (index < n)

/-- CAL_GET (R374). -/
def opCalGet (s : State) (req : List Byte) : MbxOut × State :=
  if req.length ≠ 4 then badLen s
  else if !calKnown (leAt req 0 2) (leAt req 2 2) then badField s
  else doneWith s (calBytes s (leAt req 0 2) (leAt req 2 2))

/-- Every parameter, in the order of R375. -/
def calKeys : List Nat :=
  (List.range 320).map (65536 + ·) ++ (List.range 40).map (131072 + ·) ++ [196608, 262144]

/-- The content of the user calibration area: 1,448 bytes. -/
def userBytes (m : FMap Int) : List Byte := calKeys.flatMap fun k => i32Bytes (fgetD m k 0)

/-- The offsets that a content gives. -/
def offsetsOf (c : List Byte) : FMap Int :=
  calKeys.zipIdx.foldl (fun m e => fputD m e.1 0 (BitVec.ofNat 32 (leAt c (4 * e.2) 4)).toInt) []

/-- CAL_SET (R374, R376). -/
def opCalSet (s : State) (req : List Byte) : MbxOut × State :=
  let param := leAt req 0 2
  let index := leAt req 2 2
  if req.length ≠ 8 then badLen s
  else if !calKnown param index then badField s
  else if pstWrites ≤ s.pst.user.writes then refusedFor s 1
  else
    let m := fputD s.pst.offsets (param * 65536 + index) 0 (BitVec.ofNat 32 (leAt req 4 4)).toInt
    let v := s.pst.user
    let w := writeCopy v.copy0 v.copy1 (userBytes m)
    let s := modPst s fun p =>
      { p with offsets := m, user := { copy0 := w.1, copy1 := w.2.1, writes := v.writes + 1, tie := false } }
    let s := ctlWrite (pstPrograms s 1)
    let s := if v.writes + 1 = pstWrites then pstWorn s else s
    doneWith s (calBytes s param index)

/-! ### Ties and the scan at boot (R362, R373, R381) -/

/-- A tie is found: the event carries area and slot, in a layout the manual does not give (R362, R388). Area 4 is the control area. -/
def tieFound (s : State) (area slot : Nat) : State :=
  evt (raise s Reg.PST_INT_STATUS 0) Ev.PST_SEQ_TIE noInst (Config.tieCode (Fin.ofNat 160 (32 * area + slot))).val

/-- The rewrite of a tie in an area. -/
def tieArea (v : PstArea) : PstArea := { v with copy1 := tieCopy v.copy0, writes := v.writes + 1, tie := false }

/-- The rewrite of a tie has been programmed; the write that brings an area to 100,000 makes it WORN (R362, R378). -/
def tieWritten (s : State) (writes : Nat) : State :=
  let s := ctlWrite (pstPrograms s 1)
  if writes + 1 = pstWrites then pstWorn s else s

/-- The rewrite of a tie: copy 0's content into copy 1, unless the slot is WORN (R362), or the area has had its 100,000 writes (R363). -/
def tieRewrite (s : State) (area slot : Nat) : State :=
  match area with
  | 1 =>
    if !s.pst.profile.tie then s
    else if pstWrites ≤ s.pst.profile.writes then modPst s fun p => { p with profile := { p.profile with tie := false } }
    else tieWritten (modPst s fun p => { p with profile := tieArea p.profile }) s.pst.profile.writes
  | 2 =>
    if !s.pst.user.tie then s
    else if pstWrites ≤ s.pst.user.writes then modPst s fun p => { p with user := { p.user with tie := false } }
    else tieWritten (modPst s fun p => { p with user := tieArea p.user }) s.pst.user.writes
  | 3 =>
    let v := pstSlotAt s slot
    if !v.tie then s
    else if v.worn then putPstSlot s slot { v with tie := false }
    else ctlWrite (pstPrograms (wearSlot (putPstSlot s slot { v with copy1 := tieCopy v.copy0, tie := false }) slot) 1)
  | 4 => if s.pst.ctlTie then ctlWrite s else s
  | _ => s

/-- A copy that does not verify next to one that does, written before or not (R381). -/
def rolledBack (c0 c1 : PstCopy) : Nat := if c0.ok = c1.ok then 0 else 1

/-- An intent record is completed or discarded; the last counter completed is named (R373, R381). -/
def intentDone (s : State) (x : Fin 16 × Word64 × Bool) : State :=
  if !x.2.2 then s
  else
    let i := x.1.val
    let s := ctlWrite (pstPrograms (putPstCtr s i ((pstCtrAt s i).withValue x.2.1.toNat)) 2)
    hwFldPut s Reg.PST_RECOVERY 8 5 (i + 16)

/-- Each intent record is completed or discarded (R373, R381). -/
def intentScan (s : State) : State := s.pst.intents.foldl intentDone (modPst s fun p => { p with intents := [] })

/-- A two-copy area or slot is scanned: a tie raises its event and is noted. -/
def tieScan (s : State) (tie : Bool) (area slot : Nat) : State :=
  if tie then hwOr (tieFound s area slot) Reg.PST_RECOVERY (flag true 13) else s

/-- A slot, and a counter, as the control area's book has them. -/
def PstSlot.withBook (v : PstSlot) (b : SlotBook) : PstSlot := { v with writes := b.writes, readPw := b.readPw, writePw := b.writePw }
def PstCtr.withBook (c : PstCtr) (n : Nat) : PstCtr := { c with incs := n }

/-- What the control area's copy in force holds is taken from it; an EMPTY control area holds nothing (R362, R381). -/
def takeBook (p : Pst) : Pst :=
  let b := ((ctlInForce p.ctl0 p.ctl1).map (·.2.book)).getD CtlCopy.bad.book
  { p with
    profile := { p.profile with writes := b.profile }
    user := { p.user with writes := b.user }
    slots := b.slots.foldl (fun m e => fputD m e.1 PstSlot.empty ((fgetD m e.1 PstSlot.empty).withBook e.2))
      (fmapv (fun _ v => v.withBook ⟨0, none, none⟩) p.slots)
    ctrs := b.incs.foldl (fun m e => fputD m e.1 ⟨0, 0, 0⟩ ((fgetD m e.1 ⟨0, 0, 0⟩).withBook e.2)) (fmapv (fun _ c => c.withBook 0) p.ctrs) }

/-- The scan of the whole store (R381). The factory area is written by Ulward only, so a tie there is reported and not rewritten (R362, R364; DEDUCED,
log entry 11). -/
def pstScan (s : State) : State :=
  let s := modPst (intentScan s) takeBook
  let p := s.pst
  let tc := ctlTied p.ctl0 p.ctl1
  let tp := copyTie p.profile.copy0 p.profile.copy1
  let tu := copyTie p.user.copy0 p.user.copy1
  let s := modPst s fun p =>
    { p with profile := { p.profile with tie := tp }, user := { p.user with tie := tu },
             slots := fmapv (fun _ v => { v with tie := copyTie v.copy0 v.copy1, fails := 0 }) p.slots, ctlTie := tc }
  let s := tieScan (tieScan s tc 4 0) (copyTie p.factory.1 p.factory.2) 0 0
  let s := tieScan (tieScan s tp 1 0) tu 2 0
  let s := (p.slots.filter fun e => copyTie e.2.copy0 e.2.copy1).foldl (fun s e => tieScan s true 3 e.1) s
  let back := (if p.ctl0.ok = p.ctl1.ok then 0 else 1) + rolledBack p.factory.1 p.factory.2 +
    rolledBack p.profile.copy0 p.profile.copy1 + rolledBack p.user.copy0 p.user.copy1 +
    (p.slots.map fun e => rolledBack e.2.copy0 e.2.copy1).sum
  let s := hwFldPut s Reg.PST_RECOVERY 0 8 (sat 8 back)
  let s := modPst s fun p => { p with offsets := (p.user.content.map offsetsOf).getD [] }
  let s := if s.pst.user.content.isNone then evt s Ev.PST_CAL_EMPTY noInst 0 else s
  let s := if hwGet s Reg.PST_RECOVERY ≠ 0 then
      evt (raise (modPst s fun p => { p with recovered := true }) Reg.PST_INT_STATUS 3) Ev.PST_RECOVERED noInst 0
    else s
  modPst s fun p => { p with ready := true }

end Sys2Proof.Machine
end

