-- ==== Sys2Proof/Machine/EvtOps.lean ====
section
/-! DEFINITION. The Events and Dump groups: reading, freezing and clearing the event ring, rate limits, and the dumps held (chapter
14). -/

namespace Sys2Proof.Machine

/-! ### The event ring (R383, R392 to R396) -/

/-- Change the recorder. -/
def modEvr (s : State) (f : Evr → Evr) : State := { s with evr := f s.evr }

/-- INDEX of the newest entry. -/
def Evr.newest (e : Evr) : BitVec 32 := e.nextIndex - 1

/-- NEWEST and the number of entries held, as reads see them: the frozen ring's while it is frozen (R393). -/
def Evr.range (e : Evr) : BitVec 32 × Nat := if e.frozen then e.frozenAt else (e.newest, e.held)

/-- The entry of an INDEX, in the front or in the ring; an absent one is none (R392). -/
def Evr.find (e : Evr) (i : BitVec 32) : Option EvtEntry :=
  match if e.frozen then none else e.front.find? fun x => decide (x.index = i) with
  | some x => some x
  | none =>
    match fget e.ring (i.toNat % 8192) with
    | some x => if x.index = i then some x else none
    | none => none

/-- The 32 bytes of an entry (R383). -/
def entryBytes (x : EvtEntry) : List Byte :=
  bytesOf x.time 8 ++ bytesOf x.code 2 ++ bytesOf x.sev 1 ++ leBytes 1 x.summary.toNat ++ bytesOf x.index 4 ++
    bytesOf x.inst 2 ++ bytesOf x.count 2 ++ bytesOf x.powerOn 2 ++ leBytes 2 0 ++ bytesOf x.data 8

/-- The 32 bytes of an absent entry. -/
def absentBytes (i : BitVec 32) : List Byte := leBytes 12 0 ++ bytesOf i 4 ++ leBytes 16 0

/-- The bytes of a sector of the ring: its eight entries, zero where there is none (R383). -/
def ringBytes (s : State) (n : Nat) : Sector :=
  wordOf 2048 ((List.range 8).flatMap fun k =>
    match fget s.evr.ring (8 * n + k) with
    | some x => entryBytes x
    | none => leBytes 32 0)

/-- EVT_FREEZE (R393). -/
def opEvtFreeze (s : State) (req : List Byte) : MbxOut × State :=
  if req.length ≠ 0 then badLen s
  else
    let s := if s.evr.frozen then s
      else modEvr s fun e => { e.writeBack with frozen := true, frozenAt := (e.newest, e.held), lostFrozen := 0 }
    doneWith s (bytesOf s.evr.frozenAt.1 4 ++ leBytes 4 s.evr.frozenAt.2)

/-- The freeze ends: the front is written back, and entries lost meanwhile are reported (R394). `auto`: the timer ended it. -/
def endFreeze (s : State) (auto : Bool) : State :=
  if !s.evr.frozen then s else
  let lost := s.evr.lostFrozen
  let s := modEvr s fun e => { e.writeBack with frozen := false, lostFrozen := 0 }
  let s := if auto then evt (raise s Reg.EVR_INT_STATUS 3) Ev.EVR_AUTO_THAW noInst 0 else s
  if lost = 0 then s else evtFull s Ev.EVR_LOST noInst 0 (sat 16 lost)

/-- EVT_THAW (R394). -/
def opEvtThaw (s : State) (req : List Byte) : MbxOut × State :=
  if req.length ≠ 0 then badLen s else doneWith (endFreeze s false) []

/-- EVT_READ (R392). -/
def opEvtRead (s : State) (req : List Byte) : MbxOut × State :=
  let start := BitVec.ofNat 32 (leAt req 0 4)
  let n := leAt req 4 4
  if req.length ≠ 8 then badLen s
  else if n = 0 ∨ 127 < n then badField s
  else
    let r := s.evr.range
    if r.2 ≤ (r.1 - start).toNat ∨ (r.1 - start).toNat + 1 < n then refusedFor s 1
    else doneWith (loadItems s ((((List.range n).map fun k => (start + BitVec.ofNat 32 k).toNat % 8192 / 8).eraseDups).map .ring))
      ((List.range n).flatMap fun k =>
      let i := start + BitVec.ofNat 32 k
      match s.evr.find i with
      | some x => entryBytes x
      | none => absentBytes i)

/-- EVT_CLEAR is refused: EVR_CLEAR_DENIED (R395). -/
def clearDenied (s : State) (reason : Nat) : MbxOut × State :=
  (.fin 1 reason [], evt (raise s Reg.EVR_INT_STATUS 6) Ev.EVR_CLEAR_DENIED noInst 0)

/-- The clear (R396). -/
def clearRing (s : State) : State :=
  let e := s.evr
  let s := modEvr s fun e => { e with ring := [], front := [], held := 0,
                                      clears := if e.clears = 0xFFFFFFFF then e.clears else e.clears + 1 }
  evt (raise s Reg.EVR_INT_STATUS 4) Ev.EVR_CLEARED noInst (e.newest.toNat + e.held * 2 ^ 32)

/-- EVT_CLEAR (R395, R396). -/
def opEvtClear (s : State) (req : List Byte) : MbxOut × State :=
  if req.length ≠ 24 then badLen s
  else if !zeroAt req 0 8 then badField s
  else
    let v := pstSlotAt s 31
    if v.locked then clearDenied s 4
    else if v.writePw.isNone then clearDenied s 3
    else if !pwMatches v 31 1 (leAt req 8 16) false then clearDenied (pwFailure s 31 1) 2
    else if s.evr.frozen then refusedFor s 5
    else doneWith (clearRing s) []

/-! ### Rate limits (R391) -/

/-- The codes of R386, with their severities. -/
def evtTable : List (Nat × Nat) :=
  [Ev.GLB_BAD_ACCESS, Ev.GLB_BOOT, Ev.GLB_FATAL, Ev.GLB_NMI, Ev.HP_LINK_UP, Ev.HP_LINK_DOWN, Ev.HP_FEC_UNCORR, Ev.HP_BURST_CRC,
   Ev.HP_PROTO, Ev.HP_OVERFLOW, Ev.KRF_SRAM_CORR, Ev.KRF_INTEG, Ev.KRF_UNCORR, Ev.KRF_LIMIT_CLAMP, Ev.KRF_BREACH,
   Ev.RDP_LOCK_DROPPED, Ev.ARB_REST_SOFT, Ev.ARB_REST_HARD, Ev.ARB_REST_CLEAR, Ev.ARB_BOUND_EXCESS, Ev.LKE_LEAF_POISON,
   Ev.LKE_IMAGE_INVALID, Ev.LKE_ENGINE_FAILED, Ev.LKE_ALL_FAILED, Ev.DBQ_POOL_ADD, Ev.DBQ_POOL_EMPTY, Ev.DBQ_DEQ_POISON,
   Ev.DBQ_ECC_CORR, Ev.DBQ_QUEUES_RESET, Ev.CNT_FOLD_POISON, Ev.CNT_DELTA_LOST, Ev.CNT_FOLD_LAG, Ev.SEAL_TAG_FAIL,
   Ev.SEAL_LSA_FAIL, Ev.SEAL_UNWRAP_FAIL, Ev.SEAL_MINOR_FORCE, Ev.SEAL_HELD, Ev.SEAL_ERASE, Ev.SEAL_REKEY_DONE,
   Ev.SEAL_SELFTEST_FAIL, Ev.MIR_MATE_LOST, Ev.MIR_IN_SYNC, Ev.MIR_JOURNAL_OVERFLOW, Ev.MIR_SYNC_DROPPED, Ev.MIR_REPAIR,
   Ev.MIR_SEED_DONE, Ev.MIR_REBUILD_STALE, Ev.FW_ROLLBACK, Ev.FW_CONFIRMED, Ev.PST_SEQ_TIE, Ev.PST_FACTORY_BAD, Ev.PST_WORN,
   Ev.PST_PW_LOCK, Ev.PST_CAL_EMPTY, Ev.PST_PROFILE_SEALED, Ev.PST_PROFILE_OLDER, Ev.PST_RECOVERED, Ev.EVR_CLEARED,
   Ev.EVR_LOST, Ev.EVR_AUTO_THAW, Ev.EVR_CLEAR_DENIED, Ev.EVR_DUMP_OVERWRITTEN, Ev.PMC_OVERFLOW, Ev.CLK_REFCLK_FAIL,
   Ev.CLK_REFCLK_OK, Ev.CLK_HS_OPP, Ev.THM_BAND, Ev.THM_THROTTLE, Ev.THM_CRITICAL, Ev.THM_RATE_OF_RISE, Ev.THM_COLD_HOLD,
   Ev.THM_SELF_HEAT, Ev.SEQ_RESTART, Ev.MCH_FAILOVER, Ev.MCH_SPARE_75, Ev.MCH_SPARE_90, Ev.MCH_SPARE_EXHAUSTED,
   Ev.MCH_SPARE_LOST, Ev.BLK_DIE_FAILED, Ev.BLK_OUTAGE, Ev.BLK_RECOVERED, Ev.BLK_FAILED, Ev.BLK_SETTLE_DONE,
   Ev.BLK_SETTLE_LATE, Ev.BLK_SCRUB_POISON, Ev.BLK_REBUILD_DONE, Ev.BLK_ALIAS_GUARD]

/-- Severity of a code. -/
def evtSev (code : Nat) : Option Nat := (evtTable.find? fun e => e.1 == code).map (·.2)

/-- EVT_LIMIT_SET (R391). -/
def opEvtLimitSet (s : State) (req : List Byte) : MbxOut × State :=
  let code := leAt req 0 2
  let limit := leAt req 4 4
  let window := leAt req 8 8
  if req.length ≠ 16 then badLen s
  else if !zeroAt req 2 2 ∨ (limit ≠ 0 ∧ (window < 1000 ∨ 1000000000000 < window)) then badField s
  else match evtSev code with
    | none => refusedFor s 6
    | some sev =>
      let r := recClose (irqSev s) s.time (BitVec.ofNat 16 s.glb.powerOns.toNat) code sev (s.evr, s.hw)
      let s := { s with evr := r.1, hw := r.2 }
      doneWith (modEvr s fun e =>
        { e with limits := if limit = 0 then fdel e.limits code else fput e.limits code (limit, window) }) []

/-- EVT_LIMIT_GET (R350); the manual states no WINDOW for a code with LIMIT 0: a free value. -/
def opEvtLimitGet (s : State) (req : List Byte) : MbxOut × State :=
  let code := leAt req 0 2
  if req.length ≠ 4 then badLen s
  else if !zeroAt req 2 2 then badField s
  else if (evtSev code).isNone then refusedFor s 6
  else match fget s.evr.limits code with
    | some (limit, window) => doneWith s (leBytes 2 code ++ leBytes 2 0 ++ leBytes 4 limit ++ leBytes 8 window)
    | none => doneWith (freeNext s) (leBytes 2 code ++ leBytes 2 0 ++ leBytes 4 0 ++ bytesOf (freeNow s) 8)

/-! ### Dumps (R403, R404) -/

/-- A section's bytes as its format gives them; the formats of types 3 to 9 are Ulward's; one held in SRAM that was powered down is empty
(R422). -/
def sectionWhole (d : Dump) (t : Nat) : List Byte :=
  if d.dark.any fun k => k.val == t then [] else
  match t with
  | 1 => d.regs.flatMap fun e => leBytes 4 e.1 ++ leBytes 4 0 ++ bytesOf e.2 8
  | 2 => d.events.flatMap entryBytes
  | _ => Config.dumpBytes d.gen.toNat t

/-- A section is flagged TRUNCATED (R401, R422). -/
def sectionCut (d : Dump) (t : Nat) : Bool := (d.truncated ++ d.dark).any fun k => k.val == t

/-- A section's bytes as written: whole, or as far as it went (R401). -/
def sectionBytes (d : Dump) (t : Nat) : List Byte :=
  if sectionCut d t then (sectionWhole d t).take (Config.dumpLength d.gen.toNat t) else sectionWhole d t

/-- Where a section begins: the manual fixes no layout, so it is free beyond the header. -/
def sectionOffset (d : Dump) (t : Nat) : Nat := 4096 + Config.dumpOffset d.gen.toNat t

/-- The section types. -/
def sectionTypes : List Nat := (List.range 9).map (· + 1)

/-- SIZE of a dump (R403). -/
def Dump.size (d : Dump) : Nat :=
  min 67108864 ((sectionTypes.map fun t => sectionOffset d t + (sectionBytes d t).length).foldl max 4096)

/-- The header with a value in its HCRC field. -/
def headerWith (d : Dump) (crc : Nat) : List Byte :=
  leBytes 4 0x50444B56 ++ leBytes 2 1 ++ leBytes 2 4096 ++ leBytes 8 d.size ++ bytesOf d.gen 8 ++ bytesOf d.time 8 ++
    bytesOf d.fatal 4 ++ bytesOf d.laterFatal 4 ++ bytesOf d.fwVersion 4 ++ leBytes 4 0x42 ++ bytesOf d.serial 8 ++
    bytesOf d.commitGen 8 ++ bytesOf d.commitUs 4 ++ bytesOf d.powerOn 2 ++
    leBytes 1 (d.complete.toNat + 2 * d.commitOk.toNat + 4) ++ bytesOf d.prevState 1 ++ leBytes 4 crc ++ leBytes 4 9 ++
    leBytes 48 0 ++
    (sectionTypes.flatMap fun t =>
      leBytes 2 t ++ leBytes 2 (sectionCut d t).toNat ++ leBytes 4 (crc32 (sectionBytes d t)) ++ leBytes 4 (sectionOffset d t) ++
        leBytes 4 (sectionBytes d t).length) ++
    leBytes 3824 0

/-- The header (R403). -/
def dumpHeader (d : Dump) : List Byte := headerWith d (crc32 (headerWith d 0))

/-- Byte i of a dump: the header's, that of the section it lies in, or zero. -/
def dumpByte (d : Dump) (header : List Byte) (i : Nat) : Byte :=
  if i < 4096 then header.getD i 0
  else match sectionTypes.find? fun t => decide (sectionOffset d t ≤ i ∧ i < sectionOffset d t + (sectionBytes d t).length) with
    | some t => (sectionBytes d t).getD (i - sectionOffset d t) 0
    | none => 0

/-- The item that sector k of a dump is: its slot among the 64 follows its generation (log entry 66). -/
def dumpItem (d : Dump) (k : Nat) : Inner := .dump (d.gen.toNat % 64 * 262144 + k)

/-- Both copies of a dump are programmed (R401, R403). -/
def saveDump (s : State) (d : Dump) : State :=
  let h := dumpHeader d
  (List.range (unitsUp d.size 256)).foldl (fun s k =>
    saveBytes s (dumpItem d k) (wordOf 2048 ((List.range 256).map fun i => dumpByte d h (256 * k + i)))) s

/-- The sectors of a dump that n bytes from an offset on lie in are read back (R21). -/
def loadDump (s : State) (d : Dump) (off n : Nat) : State :=
  loadItems s ((List.range ((off + n + 255) / 256 - off / 256)).map fun k => dumpItem d (off / 256 + k))

/-- DUMP_INFO (R350): size in KiB, rounded up. -/
def opDumpInfo (s : State) (req : List Byte) : MbxOut × State :=
  if req.length ≠ 0 then badLen s
  else match s.dumps.held with
    | [] => doneWith s (leBytes 32 0)
    | d :: _ =>
      doneWith s (leBytes 1 1 ++ leBytes 1 d.fatal.toNat ++ leBytes 2 0 ++ leBytes 4 ((d.size + 1023) / 1024) ++ bytesOf d.time 8 ++
        bytesOf d.gen 8 ++ leBytes 8 0)

/-- DUMP_READ (R404). -/
def opDumpRead (s : State) (req : List Byte) : MbxOut × State :=
  let off := leAt req 0 8
  let n := leAt req 8 4
  if req.length ≠ 16 then badLen s
  else if off % 8 ≠ 0 ∨ n % 8 ≠ 0 ∨ n = 0 ∨ 4096 < n ∨ !zeroAt req 12 4 then badField s
  else match s.dumps.held with
    | [] => refusedFor s 1
    | d :: _ =>
      if d.size < off + n then refusedFor s 2
      else
        let h := dumpHeader d
        doneWith (loadDump s d off n) ((List.range n).map fun k => dumpByte d h (off + k))

/-- DUMP_RELEASE (R404). -/
def opDumpRelease (s : State) (req : List Byte) : MbxOut × State :=
  if req.length ≠ 0 then badLen s
  else match s.dumps.held with
    | [] => refusedFor s 1
    | d :: r =>
      let s := saveInner s (dumpItem d 0)
      doneWith { s with dumps := { s.dumps with held := r } } []

end Sys2Proof.Machine
end

