-- ==== Sys2Proof/Machine/PairOps.lean ====
section
/-! DEFINITION. The pair: sessions of the mirror ports, catch-up, and the Mirror group of mailbox commands (chapter 11). -/

namespace Sys2Proof.Machine

/-! ### Mate loss (R324) -/

/-- Entry into mate loss raises its event; a session ends it (R324). MATE_LOST is a pair-level field, of MIR0 only (R333). -/
def lossRule (s : State) : State :=
  if s.mir.pairId.isNone ∨ anySession s then
    if s.mir.lost then { s with mir := { s.mir with lost := false } } else s
  else if s.mir.lost then s
  else
    let s := { s with mir := { s.mir with lost := true } }
    evt (raise s (Reg.MIR_INT_STATUS 0) 3) Ev.MIR_MATE_LOST noInst 0

/-! ### Catch-up (R323) -/

/-- Two ascending lists of extents as one. -/
def mergeExtents (a b : List Nat) : List Nat := sortBy (fun i j => decide (i ≤ j)) (a ++ b.filter fun k => !a.contains k)

/-- Keys of the marked extents of the regions that use a port, ascending, and of those whose bits are being programmed; LOST and detached
regions wait for a seed (R319, R322). -/
def markedFor (s : State) (n : MPort) : List Nat :=
  (mergeExtents (fkeys s.mir.intent) s.mir.intentAsk).filter fun k =>
    (regionAt s (k / 512)).mirrored && !(regionAt s (k / 512)).lost && !(mirRegion s (k / 512)).detached && decide (portFor s (k / 512) = n)

/-- No extent of a port remains: IN_SYNC (R323). -/
def reachSync (s : State) (n : MPort) : State :=
  let x := s.mir.ports[n]
  if !x.session ∨ x.inSync ∨ !x.catchup.isEmpty then s
  else evt (raise (modMir s n fun x => { x with inSync := true }) (Reg.MIR_INT_STATUS n.val) 4) Ev.MIR_IN_SYNC n.val 0

/-- A catch-up of every marked extent of a port starts (R323, R325). -/
def startCatchup (s : State) (n : MPort) : State :=
  let ks := if isPrimary s then
      mergeExtents (markedFor s n) ((s.mir.ports[n]).missed.filter fun k => (regionAt s (k / 512)).mirrored && !(regionAt s (k / 512)).lost)
    else []
  reachSync (modMir s n fun x => { x with inSync := false, catchup := ks, catchAt := 0, missed := [] }) n

/-! ### The end of a session (R320, R324) -/

/-- What a port without a session still owes goes to the port that has one: its records first, in order and under new numbers, its seed
and its catch-up, with the extents it dropped in overflow (R320, R321, R331). -/
def moveOver (s : State) (n : MPort) : State :=
  let x := s.mir.ports[n]
  let o := otherPort n
  let y := s.mir.ports[o]
  if !y.session then s else
  let moved := x.out.map fun t => { t with seq := none }
  let waits := x.seedWait ++ (if y.seed.isSome then x.seed.toList.map fun d => (d.region, d.rebuild) else [])
  let s := moved.foldl (fun s t => modMirRegion s (recordRegion t.record) fun m =>
    { m with away := decide (o ≠ mirPort (recordRegion t.record)) }) s
  let owes := mergeExtents x.catchup (x.missed.filter fun k => !x.catchup.contains k)
  let s := modMir s n fun x =>
    { x with out := [], overflow := false, missed := [], seed := none, seedWait := [], catchup := [], catchAt := 0 }
  let s := modMir s o fun y =>
    { y with seed := if y.seed.isSome then y.seed else x.seed, seedWait := y.seedWait ++ waits,
             catchup := mergeExtents y.catchup owes, catchAt := 0, inSync := y.inSync && owes.isEmpty }
  mirPut s o moved

/-- A session ends. -/
def endSession (s : State) (n : MPort) : State :=
  if !(s.mir.ports[n]).session then s
  else moveOver (modMir s n fun x => { x with session := false, inSync := false, helloSent := none }) n

/-- A mirror port's link goes down, and its session with it (R324). -/
def mirLinkLost (s : State) (n : MPort) : State :=
  if !(s.mir.ports[n]).linkUp then s
  else endSession (raise (modMir s n fun x => { x with linkUp := false, helloSent := none }) (Reg.MIR_INT_STATUS n.val) 1) n

/-- Everything a port holds for or from a peer goes: the pairing has changed. -/
def clearPort (s : State) (n : MPort) : State :=
  modMir s n fun x => { x with session := false, inSync := false, helloSent := none, lastSession := none, out := [], overflow := false,
                               missed := [], inbox := [], refused := [], nakDue := false, catchup := [], catchAt := 0, seed := none, seedWait := [] }

/-- Records of the mate that are under way are dropped: writes not performed, erases not made, rebuild writes that have not begun at the medium
(R308, R332). -/
def dropMate (s : State) : State :=
  let s := { s with cmds := s.cmds.filter fun x => match x.origin with | .mate _ _ _ _ => false | .stream _ _ => true }
  let s := dropReqs s fun q =>
    decide (q.purpose = .rebuild) && (regionAt s (lsaRegion q.lsa.toNat)).mirrored && (decide (q.state = .raised) || decide (q.state = .bankWait))
  { s with sealing := { s.sealing with erasing := s.sealing.erasing.filter fun j =>
      match j.why with
      | .mate _ _ => false
      | _ => true } }

/-- Both ports forget the peer. -/
def forgetPeer (s : State) : State :=
  let s := dropMate (clearPort (clearPort s 0) 1)
  { s with mir := { s.mir with peer := none } }

/-! ### The Mirror group (R308, R312, R331, R332, R350) -/

/-- Some region is MIRRORED. -/
def anyMirrored (s : State) : Bool := s.regions.any fun e => e.2.mirrored

/-- MIR_PAIR (R308). -/
def opMirPair (s : State) (req : List Byte) : MbxOut × State :=
  if req.length ≠ 8 then badLen s
  else if 1 < leAt req 4 1 ∨ !zeroAt req 5 3 then badField s
  else if anyMirrored s then refusedFor s 2
  else
    let s := forgetPeer s
    doneWith { s with mir := { s.mir with pairId := some (BitVec.ofNat 32 (leAt req 0 4)), mate := leAt req 4 1 == 1, lost := false, seedAll := false } } []

/-- MIR_UNPAIR (R308). -/
def opMirUnpair (s : State) (req : List Byte) : MbxOut × State :=
  if req.length ≠ 0 then badLen s
  else if s.mir.pairId.isNone then refusedFor s 1
  else if anyMirrored s then refusedFor s 2
  else
    let s := forgetPeer s
    doneWith { s with mir := { s.mir with pairId := none, mate := false, lost := false, seedAll := false } } []

/-- MIR_PROMOTE (R332): the pair's sessions end with it, since both roles are the same until the peer is set to MATE. -/
def opMirPromote (s : State) (req : List Byte) : MbxOut × State :=
  if req.length ≠ 0 then badLen s
  else if s.mir.pairId.isNone then refusedFor s 1
  else if !s.mir.mate then refusedFor s 3
  else
    let s := dropMate (clearPort (clearPort s 0) 1)
    let s := { s with mir := { s.mir with mate := false, promoGen := s.mir.promoGen + 1, seedAll := false } }
    doneWith s (bytesOf s.mir.promoGen 2 ++ leBytes 2 0)

/-- MIR_SAK or MIR_SAK_CLEAR names TX_AN of a port while PROTECT is 1. -/
def anInUse (s : State) (n an : Nat) : Bool :=
  cfgBit s (Reg.MIR_MACSEC_CTRL n) 0 && cfgFld s (Reg.MIR_MACSEC_CTRL n) 1 2 == an

/-- MIR_SAK has unwrapped its key, or has failed to (R294, R312). -/
def sakLoaded (s : State) (n : MPort) (an : Nat) (ssci : BitVec 32) (salt : BitVec 96) (r : Option (BitVec 256)) : MbxOut × State :=
  match r with
  | none => refusedFor (unwrapFail s) 5
  | some key =>
    doneWith (modMir s n fun x => { x with
      rxSa := fput x.rxSa an ⟨key, ssci, salt⟩, txSa := fput x.txSa an ⟨key, ssci, salt⟩,
      rxPn := fdel x.rxPn an, txPn := fdel x.txPn an })
      (kcvBytes key)

/-- MIR_SAK (R312): the association of both directions. -/
def opMirSak (s : State) (req : List Byte) : MbxOut × State :=
  let n := leAt req 0 1
  let an := leAt req 1 1
  if req.length ≠ 64 then badLen s
  else if 1 < n ∨ 3 < an ∨ !zeroAt req 2 2 ∨ !zeroAt req 20 4 then badField s
  else if s.mir.pairId.isNone then refusedFor s 1
  else match s.sealing.devKey with
    | none => refusedFor s 6
    | some kek =>
      if anInUse s n an then refusedFor s 7
      else sakLoaded s (mirPort n) an (BitVec.ofNat 32 (beAt req 4 4)) (BitVec.ofNat 96 (beAt req 8 12))
        (kwUnwrap kek (slice req 24 40))

/-- MIR_SAK_CLEAR (R312). -/
def opMirSakClear (s : State) (req : List Byte) : MbxOut × State :=
  let n := leAt req 0 1
  let an := leAt req 1 1
  if req.length ≠ 4 then badLen s
  else if 1 < n ∨ 3 < an ∨ !zeroAt req 2 2 then badField s
  else if s.mir.pairId.isNone then refusedFor s 1
  else if anInUse s n an then refusedFor s 7
  else doneWith (modMir s (mirPort n) fun x => { x with rxSa := fdel x.rxSa an, txSa := fdel x.txSa an }) []

/-- Marked extents of a region. -/
def markedCount (s : State) (r : Nat) : Nat := (frange s.mir.intent (512 * r) (512 * r + 512)).length

/-- Seed position of a region, as a sector: where this device receives, or where it sends. -/
def seedPosition (s : State) (r : Nat) : Nat :=
  match (mirRegion s r).seedIn with
  | some k => k
  | none => ((s.mir.ports.toList.filterMap fun x => x.seed).find? fun d => d.region.toNat == r).elim 0 fun d => d.next

/-- STATE of MIR_INFO (R323, R332, R350). A mate is not told when the catch-up of a new session ends: whether a copy that was behind is still
INCONSISTENT is a free value, and so is the state of a MIRRORED region that no port serves (DESIGN CHOICE, log entry 68). -/
def mirState (s : State) (r : Nat) : Nat :=
  let n := portFor s r
  if !(regionAt s r).mirrored then 0
  else if (mirRegion s r).detached then 4
  else if seeding s r then 3
  else if (mirRegion s r).behind then (if (freeNow s).getLsbD 0 then 5 else 1)
  else if !(s.mir.ports[n]).session then (freeNow s).toNat % 6
  else if (s.mir.ports[n]).catchup.any fun k => k / 512 == r then 2
  else 1

/-- MIR_INFO (R350). -/
def opMirInfo (s : State) (req : List Byte) : MbxOut × State :=
  let r := leAt req 0 2
  if req.length ≠ 4 then badLen s
  else if 480 ≤ r ∨ !zeroAt req 2 2 then badField s
  else if s.mir.pairId.isNone then refusedFor s 1
  else
    let n := portFor s r
    doneWith (freeNext s) (leBytes 1 (mirState s r) ++ leBytes 1 (if (s.mir.ports[n]).session then n.val else 255) ++
      leBytes 2 (markedCount s r) ++ leBytes 4 (seedPosition s r) ++ leBytes 8 0)

/-- MIR_RESEED (R331). -/
def opMirReseed (s : State) (req : List Byte) : MbxOut × State :=
  let r := leAt req 0 2
  if req.length ≠ 4 then badLen s
  else if 480 ≤ r ∨ !zeroAt req 2 2 then badField s
  else if s.mir.pairId.isNone then refusedFor s 1
  else if s.mir.mate then refusedFor s 3
  else if !(regionAt s r).mirrored then refusedFor s 4
  else doneWith (askSeed s r false) []

end Sys2Proof.Machine
end

