-- ==== Sys2Proof/Machine/SysOps.lean ====
section
/-! DEFINITION. The Firmware group and the choice of an image at boot (chapter 12), and the Power and thermal group (chapter 15). -/

namespace Sys2Proof.Machine

/-! ### Image slots (R354 to R358): 0 is A, 1 is B, 2 is SPI -/

/-- Value of an image slot's state. -/
def FwState.code : FwState → Nat
  | .empty => 0 | .staging => 1 | .trial => 2 | .confirmed => 3 | .invalid => 4

/-- Change the image slots. -/
def modFw (s : State) (f : Fw → Fw) : State := { s with fw := f s.fw }

/-- Change one image slot. -/
def modFwSlot (s : State) (k : Fin 3) (f : FwSlot → FwSlot) : State := modFw s fun w => { w with slots := vmod w.slots k f }

/-- An internal slot among the three. -/
def fwInternal (k : Fin 2) : Fin 3 := ⟨k.val, by omega⟩

/-- The other internal slot. -/
def fwOther (k : Fin 2) : Fin 2 := ⟨(k.val + 1) % 2, by omega⟩

/-- The staging slot (R355). -/
def stagingSlot (s : State) : Fin 2 := if s.fw.running = some 0 then 1 else 0

/-- The image that runs is an unconfirmed trial. -/
def trialRuns (s : State) : Bool := s.fw.trial && s.fw.running.isSome

/-- The 16 bytes of a slot in FW_INFO. -/
def fwSlotBytes (s : State) (k : Fin 3) : List Byte :=
  let v := s.fw.slots[k]
  leBytes 1 v.state.code ++
    leBytes 1 ((decide (s.fw.running = some k)).toNat + 2 * (decide (s.fw.nextBoot.map fwInternal = some k)).toNat) ++ leBytes 2 0 ++
    leBytes 4 v.version.toNat ++ leBytes 4 v.length ++ bytesOf v.floor 2 ++ leBytes 2 0

/-- FW_INFO (R350). -/
def opFwInfo (s : State) (req : List Byte) : MbxOut × State :=
  if req.length ≠ 0 then badLen s
  else doneWith s (fwSlotBytes s 0 ++ fwSlotBytes s 1 ++ fwSlotBytes s 2 ++ bytesOf s.fw.floor 2 ++ leBytes 14 0)

/-- The largest image (R354). -/
abbrev fwMax : Nat := 8388608

/-- FW_WRITE (R355). -/
def opFwWrite (s : State) (req : List Byte) : MbxOut × State :=
  let off := leAt req 0 4
  let n := leAt req 4 4
  let first := leAt req 8 1 == 1
  let k := fwInternal (stagingSlot s)
  let v := s.fw.slots[k]
  if req.length < 17 ∨ 4080 < req.length ∨ req.length ≠ 16 + n then badLen s
  else if 1 < leAt req 8 1 ∨ !zeroAt req 9 7 then badField s
  else if trialRuns s then refusedFor s 6
  else if (first ∧ off ≠ 0) ∨ (!first ∧ (v.state ≠ .staging ∨ off ≠ v.bytes.length)) then refusedFor s 1
  else if fwMax < off + n then refusedFor s 2
  else
    let bytes := (if first then [] else v.bytes) ++ slice req 16 n
    doneWith (modFwSlot s k fun _ => { state := .staging, bytes := bytes, version := 0, length := bytes.length, floor := 0 })
      (leBytes 4 bytes.length)

/-- The sectors of an image in the internal area. -/
def imageItems (s : State) (k : Fin 3) : List Inner :=
  (List.range (unitsUp (s.fw.slots[k]).bytes.length 256)).map fun n => .firmware k.val n

/-- Both copies of an image are programmed in the internal area (R227, R285). -/
def saveImage (s : State) (k : Fin 3) : State := (imageItems s k).foldl saveInner s

/-- The first check of R354 that an image fails, as a REASON. -/
def fwCheck (s : State) (bytes : List Byte) : Option Nat :=
  if !Config.fwHeaderOk bytes ∨ fwMax < bytes.length then some 3
  else if !Config.fwSignatureOk bytes then some 4
  else if (Config.fwFloor bytes).toNat < s.fw.floor.toNat then some 5
  else none

/-- The request of FW_ACTIVATE and FW_ROLLBACK: RESET_NOW, then zero. -/
def fwFlags (req : List Byte) : Bool := decide (leAt req 0 1 < 2) && zeroAt req 1 3

/-- RESET_NOW asks for a warm reset 10 ms after DONE (R357). -/
def askResetNow (s : State) (req : List Byte) : State :=
  if leAt req 0 1 = 1 then modFw s fun w => { w with resetNow := true } else s

/-- FW_ACTIVATE (R354, R356). -/
def opFwActivate (s : State) (req : List Byte) : MbxOut × State :=
  let i := stagingSlot s
  let v := s.fw.slots[fwInternal i]
  if req.length ≠ 4 then badLen s
  else if !fwFlags req then badField s
  else if v.state ≠ .staging then refusedFor s 9
  else match fwCheck s v.bytes with
    | some reason => refusedFor (modFwSlot s (fwInternal i) fun v => { v with state := .invalid }) reason
    | none =>
      let version := Config.fwVersion v.bytes
      let s := saveImage (modFwSlot s (fwInternal i) fun v =>
        { v with state := .trial, version := version, floor := Config.fwFloor v.bytes }) (fwInternal i)
      doneWith (askResetNow (modFw s fun w => { w with nextBoot := some i }) req) (leBytes 4 version.toNat)

/-- FW_CONFIRM (R354, R356). -/
def opFwConfirm (s : State) (req : List Byte) : MbxOut × State :=
  if req.length ≠ 0 then badLen s
  else match s.fw.running with
    | some k =>
      if !trialRuns s then refusedFor s 7
      else
        let floor := (s.fw.slots[k]).floor
        let s := modFwSlot s k fun v => { v with state := .confirmed }
        let s := modFw s fun w =>
          { w with trial := false, floor := if w.floor.toNat < floor.toNat then floor else w.floor,
                   nextBoot := if k.val < 2 then some ⟨k.val % 2, by omega⟩ else w.nextBoot }
        doneWith (evt s Ev.FW_CONFIRMED noInst 0) []
    | none => refusedFor s 7

/-- An internal slot to which FW_ROLLBACK may go. -/
def rollbackTo (s : State) : Option (Fin 2) :=
  [(0 : Fin 2), 1].find? fun k =>
    let v := s.fw.slots[fwInternal k]
    decide (v.state = .confirmed) && decide (s.fw.running ≠ some (fwInternal k)) && decide (s.fw.floor.toNat ≤ v.floor.toNat)

/-- FW_ROLLBACK (R357). -/
def opFwRollback (s : State) (req : List Byte) : MbxOut × State :=
  if req.length ≠ 4 then badLen s
  else if !fwFlags req then badField s
  else match rollbackTo s with
    | none => refusedFor s 8
    | some k =>
      doneWith (askResetNow (modFw s fun w => { w with nextBoot := some k }) req)
        (leBytes 4 (s.fw.slots[fwInternal k]).version.toNat)

/-- The board profile applied at this boot declares an SPI boot flash (R377). -/
def spiFitted (s : State) : Bool :=
  match s.pst.applied with
  | some c => leAt c 146 1 == 1
  | none => true

/-- How the flash's SFDP table lets it be used: the fastest of its read modes (1-4-4 before 1-1-4: it sends the address on four lines too), its
addressing, its largest erase and its page (R461). -/
def spiUse (t : Sfdp) : SpiUse where
  addrLines := if t.read144 then 4 else 1
  dataLines := if t.read144 || t.read114 then 4 else if t.read112 then 2 else 1
  addrBytes := if t.fourByte then 4 else 3
  eraseSize := if t.erase64k then 65536 else 4096
  pageSize := max 1 t.page

/-- FW_TO_SPI (R357). `ok`: the flash's erases, programs and verification succeed. From the first erase on the SPI image reads INVALID; the time
that each operation of the flash takes is not given (free value). -/
def opFwToSpi (s : State) (m : Mbx) (req : List Byte) (ok : Bool) : MbxOut × State :=
  if req.length ≠ 0 then badLen s
  else if trialRuns s then refusedFor s 6
  else match s.fw.running, s.fw.flash with
    | some k, some u =>
      let v := s.fw.slots[k]
      let copy : SpiCopy := { mbx := m, ok := ok, image := v, erases := unitsUp v.length u.eraseSize, pages := unitsUp v.length u.pageSize,
                              left := (freeNow s).toNat }
      (.runs, freeNext (modFw (modFwSlot s 2 fun v => { v with state := .invalid }) fun w => { w with copying := some copy }))
    | _, _ => refusedFor s 10

/-- The operation in hand of a copy to the flash has ended: the next one begins, or, after the verification, the SPI image is the running one
and the command is DONE; a copy that fails leaves it INVALID (R349, R357). -/
def spiNext (s : State) (c : SpiCopy) : State :=
  let again (c : SpiCopy) : State := freeNext (modFw s fun w => { w with copying := some { c with left := (freeNow s).toNat } })
  if c.erases ≠ 0 then again { c with erases := c.erases - 1 }
  else if c.pages ≠ 0 then again { c with pages := c.pages - 1 }
  else
    let s := modFw s fun w => { w with copying := none }
    if c.ok then mbxFinish (modFwSlot s 2 fun _ => c.image) c.mbx 0 0 [] else mbxFinish s c.mbx 1 10 []

/-- A nanosecond of a copy to the flash. -/
def spiTick (s : State) : State :=
  match s.fw.copying with
  | none => s
  | some c => if c.left = 0 then spiNext s c else modFw s fun w => { w with copying := some { c with left := c.left - 1 } }

/-! ### The image a boot runs (R356, R358) -/

/-- What a reset leaves of the internal slots: no staging, and a trial that has had its boot is INVALID (R349, R356). -/
def fwSettleSlot (next : Option (Fin 2)) (k : Fin 2) (v : FwSlot) : FwSlot :=
  if v.state = .staging then { v with state := .empty, bytes := [], length := 0 }
  else if v.state = .trial ∧ next ≠ some k then { v with state := .invalid }
  else v

/-- A slot holds an image that passes R354 as it reads back: of an internal one, one copy can be read (R227); its header, length, stepping mask,
digest and signature hold (`bad` lists the slots where one fails), and the device floor has not risen above it. -/
def fwRuns (s : State) (bad : List (Fin 3)) (k : Fin 3) : Bool :=
  let v := s.fw.slots[k]
  (decide (v.state = .confirmed) || decide (v.state = .trial)) && !bad.contains k && decide (v.length ≤ fwMax) &&
    (decide (k = 2) || !structureLost s 2) && decide (s.fw.floor.toNat ≤ v.floor.toNat)

/-- The images a boot tries, in order (R358). -/
def fwOrder (s : State) : List (Fin 3) :=
  let next := s.fw.nextBoot.toList.map fwInternal
  let rest := [(0 : Fin 3), 1].filter fun k => !next.contains k && decide ((s.fw.slots[k]).state = .confirmed)
  next ++ rest ++ (if spiFitted s then [2] else [])

/-- Step 3 of the boot chooses the image that runs, if any passes (R356, R358). -/
def fwBoot (s : State) (bad : List (Fin 3)) : State :=
  let lapsed := [(0 : Fin 2), 1].any fun k =>
    decide ((s.fw.slots[fwInternal k]).state = .trial) && decide (s.fw.nextBoot ≠ some k)
  let s := modFwSlot (modFwSlot s 0 (fwSettleSlot s.fw.nextBoot 0)) 1 (fwSettleSlot s.fw.nextBoot 1)
  let s := if lapsed then evt s Ev.FW_ROLLBACK noInst 0 else s
  match (fwOrder s).find? (fwRuns s bad) with
  | none => modFw s fun w => { w with running := none, trial := false }
  | some k =>
    let trial := decide ((s.fw.slots[k]).state = .trial)
    let fallback := [(0 : Fin 2), 1].find? fun i => decide ((s.fw.slots[fwInternal i]).state = .confirmed)
    let s := modFw s fun w => { w with running := some k, trial := trial, nextBoot := if trial then fallback else w.nextBoot }
    let s := if k = 2 then s else loadItems s (imageItems s k)
    if k = 2 ∧ fallback.isNone then saveImage (modFwSlot s 0 fun _ => s.fw.slots[(2 : Fin 3)]) 0 else s

/-! ### Power and thermal group (R415, R416, R418, R425) -/

/-- PWR_INFO (R350). -/
def opPwrInfo (s : State) (req : List Byte) : MbxOut × State :=
  if req.length ≠ 0 then badLen s
  else doneWith s (leBytes 1 s.pwr.cur.val ++ leBytes 1 s.thm.band ++ bytesOf (BitVec.ofInt 16 s.thm.temp) 2 ++ leBytes 2 s.thm.vdd ++
    leBytes 1 s.clk.opp.toNat ++ leBytes 1 0 ++ leBytes 4 s.thm.slowest.toNat ++ leBytes 4 0)

/-- PWR_LTR_SET (R418). -/
def opPwrLtrSet (s : State) (req : List Byte) : MbxOut × State :=
  if req.length ≠ 20 then badLen s
  else doneWith { s with pwr := { s.pwr with ltrG := BitVec.ofNat 32 (leAt req 0 4),
                                             ltrP := Vector.ofFn fun p : Fin 4 => BitVec.ofNat 32 (leAt req (4 + 4 * p.val) 4) } } []

/-- THM_SET (R425): admission follows at the next sample. -/
def opThmSet (s : State) (req : List Byte) : MbxOut × State :=
  let t := leAt req 0 2
  if req.length ≠ 4 then badLen s
  else if t < 85 ∨ 115 < t ∨ !zeroAt req 2 2 then badField s
  else if s.thm.crit then refusedFor s 1
  else doneWith { s with thm := { s.thm with threshold := t } } []

/-- Another mailbox is BUSY (R416). Of several HS_OPP_SETs the first GO is served first: a later one does not hold it (DESIGN CHOICE, log
entry 30). -/
def othersBusy (s : State) (m : Mbx) : Bool :=
  (List.finRange 8).any fun k =>
    decide (k ≠ m) && mbxBusy s.mbx[k] &&
      !((s.mbx[k]).waits && mbxOp s k == 0x0A03 && decide ((s.mbx[m]).order < (s.mbx[k]).order))

/-- HS_OPP_SET (R415, R416). -/
def opHsOppSet (s : State) (m : Mbx) (req : List Byte) : MbxOut × State :=
  let p := leAt req 0 1
  if req.length ≠ 4 then badLen s
  else if 3 < p ∨ !zeroAt req 1 3 then badField s
  else if s.clk.move.isSome then refusedFor s 2
  else if othersBusy s m then (.waits, s)
  else if s.clk.opp.toNat = p then doneWith s []
  else (.runs, { s with clk := { s.clk with move := some { target := BitVec.ofNat 2 p, mbx := m } } })

end Sys2Proof.Machine
end

