-- ==== Sys2Proof/Machine/Sense.lean ====
section
/-! DEFINITION. How an array read senses and decodes a sector: the codeword, the grain mark, the age bands, the read references and the
retry ladder (R196 to R206, chapter 7). -/

namespace Sys2Proof.Machine

/-! ### The codeword (R196, R197) -/

/-- Places of a codeword: a die and one of its nine symbols. -/
abbrev Place := Fin 18 × Fin 9

/-- The symbols of a sensing that are not those of the codeword, each once. -/
def wrongAt (c : Cell) (w : List Sensed) : List Place :=
  ((w.filter fun x => x.value != dieSymbol c x.die x.place).map fun x => (x.die, x.place)).eraseDups

/-- The code corrects: erasures and errors of a codeword of 18 check symbols, every symbol of a marked die an erasure (R197). More than 18
erasures in all do not decode: R205 allows up to 18 and does not say what more do (DESIGN CHOICE, log entry 74). -/
def corrects (marked : Option (Fin 18)) (wrong erased : List Place) : Bool :=
  let off (l : List Place) : List Place := l.filter fun p => decide (marked ≠ some p.1)
  let gone := (if marked.isSome then 9 else 0) + (off erased).length
  let errs := ((off wrong).filter fun p => !erased.contains p).length
  decide (gone ≤ 18) && decide (2 * errs + gone ≤ 18)

/-- What the cells show at a reference code. -/
def sensedAt (out : ReadOutcome) (code : Nat) : List Sensed :=
  match out.senses.find? fun e => e.1.toNat == code with
  | some e => e.2
  | none => []

/-- The symbols whose cells differ between two sensings: the erasures of step 7 (R205). -/
def differing (c : Cell) (a b : List Sensed) : List Place :=
  let at_ (l : List Sensed) (p : Place) : BitVec 16 :=
    match l.find? fun x => decide (x.die = p.1) && decide (x.place = p.2) with
    | some x => x.value
    | none => dieSymbol c p.1 p.2
  ((a ++ b).map fun x => (x.die, x.place)).eraseDups.filter fun p => at_ a p != at_ b p

/-! ### Age and reference (R200 to R204) -/

/-- The grain mark the array read goes by: the bitwise majority over the dies not marked failed; a tie is 0 (DESIGN CHOICE, log
entry 65). -/
def grainMajority (c : Cell) (marked : Option (Fin 18)) (out : ReadOutcome) : BitVec 24 :=
  let marks := ((List.finRange 18).filter fun d => decide (marked ≠ some d)).map fun d =>
    match out.grain.find? fun e => decide (e.1 = d) with
    | some e => e.2
    | none => c.grain
  BitVec.ofNat 24 ((List.range 24).foldl (fun n k =>
    if marks.length < 2 * (marks.filter fun m => m.getLsbD k).length then n + 2 ^ k else n) 0)

/-- The age of a sector in ticks, where it is known (R202). -/
def grainAge (s : State) (ch epoch session : Nat) : Option Nat :=
  let a := (epochNow s + 65536 - epoch) % 65536
  if session = sessionNow s ∧ !(chanAt s ch).guard ∧ a < 32768 then some a else none

/-- The row of the read-reference table: 0 to 6 for the age bands A0 to A6, 7 for SETTLED (R202, R204). -/
def ageRow : Option Nat → Nat
  | none => 7
  | some a => if a = 0 then 0 else if a = 1 then 1 else if a < 16 then 2 else if a < 256 then 3 else if a < 4096 then 4
              else if a < 16384 then 5 else 6

/-- The codes of a blank's read-reference table in the band in force, row by row (R204, R375). -/
def refsNow (s : State) (b : Blank) : List Nat :=
  (List.range 8).map fun row => (effective s 1 (b.val * 40 + row * 5 + s.thm.band)).toNat

/-- A reference code moved by an offset, within 0 to 255. R204 clamps the code of the first sensing; that a ladder step is clamped too is a
DESIGN CHOICE (log entry 74). -/
def moveCode (code : Nat) (d : Int) : Nat := (max 0 (min 255 ((code : Int) + d))).toNat

/-- The reference code of the first sensing of a sector (R204). -/
def firstCode (s : State) (ch : Nat) (refs : List Nat) (mark : BitVec 24) : Nat :=
  let row := ageRow (grainAge s ch (mark.toNat % 65536) (mark.toNat / 65536))
  let code := refs.getD row 0
  if row = 7 then moveCode code (chanAt s ch).offset.toInt else code

/-! ### The ladder (R205) -/

/-- What each ladder step that senses adds to the reference code. -/
def ladderCodes : List Int := [0, -1, 1, -2, 2, -4, 4]

/-- The ladder from a reference code: the first step that decodes, and the symbols it finds in error. A miscorrected codeword decodes at
the first step (R198). Step 7 decodes the sensing of step 0 with the erasures (DESIGN CHOICE, log entry 65). -/
def climb (marked : Option (Fin 18)) (c : Cell) (out : ReadOutcome) (code : Nat) : Option (Fin 8 × List Place) :=
  let wrong (k : Nat) : List Place := wrongAt c (sensedAt out (moveCode code (ladderCodes.getD k 0)))
  match (List.range 7).find? fun k => !out.faithful || corrects marked (wrong k) [] with
  | some k => some (⟨k % 8, Nat.mod_lt _ (by decide)⟩, wrong k)
  | none =>
    let erased := differing c (sensedAt out (moveCode code (-1))) (sensedAt out (moveCode code 1))
    if corrects marked (wrong 0) erased then some (7, wrong 0) else none

/-- What the decoder makes of a sector's cells, read from a reference code. `lsa` is the sector asked for. Corrected symbols are those
outside a marked die (DESIGN CHOICE, log entry 65). -/
def decodeFrom (s : State) (lsa : Nat) (code : Nat) (out : ReadOutcome) : Decoded :=
  let c := cellAt s lsa
  let marked := (s.med.blanks[blankOf (lsaChannel lsa / 8)]).die
  let got := climb marked c out code
  let wrong : List Place := match got with | some e => e.2.filter fun p => decide (marked ≠ some p.1) | none => []
  { step := got.map (·.1)
    symbols := wrong.length
    dies := (List.finRange 18).filter fun d => decide (5 ≤ (wrong.filter fun p => decide (p.1 = d)).length)
    grainOk := grainMajority c marked out == grainOf c.epoch.toNat c.session.toNat
    faithful := out.faithful
    lsaOk := out.lsaOk
    programs := out.programs }

/-- A sector read with given reference codes for the rows. -/
def decodeWith (s : State) (lsa : Nat) (refs : List Nat) (out : ReadOutcome) : Decoded :=
  let c := cellAt s lsa
  let marked := (s.med.blanks[blankOf (lsaChannel lsa / 8)]).die
  decodeFrom s lsa (firstCode s (lsaChannel lsa) refs (grainMajority c marked out)) out

/-- A sector read by a step that begins and ends now. -/
def decodeNow (s : State) (lsa : Nat) (out : ReadOutcome) : Decoded := decodeWith s lsa (refsNow s (blankOf (lsaChannel lsa / 8))) out

/-- A sector read by a request: with the references as it began. -/
def decodeRead (s : State) (q : MedReq) (out : ReadOutcome) : Decoded := decodeWith s q.lsa.toNat q.refs out

/-! ### The settling pass (R211) -/

/-- The offsets of step 2, those nearest 0 first. -/
def settleOffsets : List Int := [0, -1, 1, -2, 2, -3, 3, -4, 4]

/-- Symbols that a sample shows in error at the SETTLED reference and an offset; one that does not decode there counts as one more than
the code corrects (DESIGN CHOICE, log entry 65). -/
def settleErrors (s : State) (lsa code : Nat) (out : ReadOutcome) (d : Int) : Nat :=
  let marked := (s.med.blanks[blankOf (lsaChannel lsa / 8)]).die
  let wrong := (wrongAt (cellAt s lsa) (sensedAt out (moveCode code d))).filter fun p => decide (marked ≠ some p.1)
  if corrects marked wrong [] then wrong.length else 10

/-- The offset that gives the fewest symbols in error, summed over the samples sensed again; of equal ones that nearest 0, the negative one
first (DESIGN CHOICE, log entry 65). -/
def settleOffset (s : State) (code : Nat) (again : List (Nat × ReadOutcome)) : Int :=
  let total (d : Int) : Nat := (again.map fun e => settleErrors s e.1 code e.2 d).sum
  settleOffsets.foldl (fun best d => if total d < total best then d else best) 0

end Sys2Proof.Machine
end

