-- ==== Sys2Proof/Machine/Inputs.lean ====
section
/-! DEFINITION. What the device judges itself by: the inputs of the steady rest (chapters 5 to 7), the permitted power state (chapter 15),
and the board profile applied (chapter 13). -/

namespace Sys2Proof.Machine

/-! ### The inputs of the steady rest (R166, R186, R209) -/

/-- Scrub interval of a band, ns (R209). -/
def bandInterval (band : Nat) : Nat :=
  if band ≤ 2 then 1814400000000000 else if band = 3 then 604800000000000 else 172800000000000

/-- BLKb_SCRUB_CFG.TARGET. -/
def scrubTarget (s : State) (b : Nat) : Nat := cfgFld s (Reg.BLK_SCRUB_CFG b) 0 8

/-- The interval in force of a blank, ns: it falls linearly after a rise of the band (R209). -/
def intervalNow (s : State) (b : Blank) : Nat :=
  let new := bandInterval s.thm.band
  match (s.med.blanks[b]).catchUp with
  | none => new
  | some (start, old) =>
    let span := scrubTarget s b.val * new / 256
    let t := s.time.toNat - start
    if span ≤ t then new else old - (old - new) * t / span

/-- The interval in force still falls: BLKb_STATUS.CATCH_UP. -/
def catchingUp (s : State) (b : Blank) : Bool := decide (bandInterval s.thm.band < intervalNow s b)

/-- Channel of a physical slot. -/
def slotChannel (n : Nat) : Nat :=
  if n < spareBlockBase then n / domainSlots / 8 % 8 * 8 + n / domainSlots % 8
  else if n < spareSectorBase then (n - spareBlockBase) / 4096 / 512
  else (n - spareSectorBase) / 2097152

/-- Ticks since the power-on. -/
def ticksNow (s : State) : Nat := s.time.toNat / 65536000000

/-- Age of a sector's contents in ticks: known (R202), or the time since the power-on. -/
def cellAge (s : State) (ch : Nat) (c : Cell) : Nat :=
  (grainAge s ch c.epoch.toNat c.session.toNat).getD (ticksNow s)

/-- The programmed sectors of a blank with their channels. -/
def blankCells (s : State) (b : Blank) : List (Nat × Cell) :=
  (s.med.cells.map fun e => (slotChannel e.1, e.2)).filter fun e => e.1 / 8 == b.val

/-- Age of a blank's oldest sector, ticks: SCRUB_STAT.OLDEST. Sectors not written since the power-on count from it. -/
def oldestAge (s : State) (b : Blank) : Nat :=
  let cs := blankCells s b
  let m := (cs.map fun e => cellAge s e.1 e.2).foldl max 0
  if cs.length < 60 * regionSectors then max m (ticksNow s) else m

/-- The SCRUB input of a blank: SCRUB_STAT.INPUT. -/
def scrubInput (s : State) (b : Blank) : Nat := min 255 (oldestAge s b * 65536000000 * 256 / bandInterval s.thm.band)

/-- Levelling steps and retirement copies of a blank that are pending: WEAR.PENDING_MOVES. -/
def pendingMoves (s : State) (b : Blank) : Nat :=
  ((s.med.domains.filter fun e => e.1 / 8 % 8 == b.val).map fun e => e.2.due).sum +
    (s.med.reqs.filter fun q => decide (q.purpose = .retire) && q.ch.val / 8 == b.val).length +
    ((s.med.moves.filter fun j => slotChannel (j.block / 257 * domainSlots) / 8 == b.val).map fun j => (blockSlots j.block).2 - j.next).sum

/-- KRF_STATUS.OCC (R166). -/
def occNow (s : State) : Nat := if chargeLimit s = 0 then 255 else min 255 (totalCharge s * 256 / chargeLimit s)

/-- The four inputs: KERF, SCRUB, FOLD, MOVE. -/
def restInputs (s : State) : List Nat :=
  [occNow s,
   ((List.finRange 8).map (scrubInput s)).foldl max 0,
   min 255 (s.cnt.entries.length * 256 / 524288),
   ((List.finRange 8).map fun b => min 255 (pendingMoves s b * 256 / 4096)).foldl max 0]

/-- Number of a level: ARB_STATUS.LEVEL. -/
def Level.num : Level → Nat
  | .none => 0 | .soft => 1 | .hard => 2

/-! ### The board profile applied (R377, R379) -/

/-! ### Power states (R418, R419) -/

/-- The effective tolerance T, ns; 0xFFFF_FFFF is no limit. -/
def effectiveTol (s : State) : Nat :=
  (List.finRange 4).foldl (fun t p => if (s.ports[p]).linkUp then min t (s.pwr.ltrP[p]).toNat else t) s.pwr.ltrG.toNat

/-- Exit latency of a state, ns. -/
def exitLatency (l : Nat) : Nat := [0, 500, 3000, 40000, 20000000].getD l 0

/-- The deepest state whose exit latency does not exceed T. -/
def permitted (s : State) : Fin 5 :=
  let t := effectiveTol s
  if 20000000 ≤ t then 4 else if 40000 ≤ t then 3 else if 3000 ≤ t then 2 else if 500 ≤ t then 1 else 0

/-- No host command accepted or outstanding, no mailbox BUSY, no mirror record awaiting application. -/
def idle (s : State) : Bool :=
  s.cmds.isEmpty && !s.mbx.any mbxBusy && s.mir.ports.all fun x => x.inbox.isEmpty

/-- OPERATIONAL with BOUNDS. -/
def settledDown (s : State) : Bool := decide (s.glb.state = .operational) && s.glb.bounds

/-- The total charge is at or above HIGH/256 of LIMIT. -/
def chargeHigh (s : State) : Bool := decide (cfgFld s Reg.KRF_DRAIN_CFG 16 8 * chargeLimit s ≤ 256 * totalCharge s)

/-- A slot is eligible for drain (R152). -/
def eligible (s : State) (x : Slot) : Bool :=
  match x.state with
  | .poisoned => true
  | .dirty => x.aged || x.wanted || chargeHigh s || cfgBit s Reg.KRF_CTRL 0 || s.pwr.entering
  | _ => false

/-- Background work that keeps the device out of L2; the eligible slots are DRAIN's requests (R152, R419). -/
def background (s : State) : Bool :=
  s.med.reqs.any (fun q => decide (q.state = .raised)) || s.krf.slots.any (fun e => eligible s e.2) ||
    s.regions.any (fun e => e.2.rebuilding || e.2.formatting) || s.sealing.units.any (·.isSome) ||
    s.mir.regions.any (fun e => e.2.seedIn.isSome) ||
    s.mir.ports.any (fun x => x.seed.isSome || !x.seedWait.isEmpty || (x.session && !x.catchup.isEmpty) || !x.out.isEmpty) ||
    s.dbq.sweeping || !s.cnt.clears.isEmpty || s.mbx.any fun x => mbxBusy x && decide (x.opcode.toNat = 0x0012)

/-- Something is staged that lives only in SRAM. -/
def stagedWork (s : State) : Bool := s.lke.staged.isSome || decide (s.lke.records ≠ 0) || s.pst.staging.isSome

/-- The conditions of a state hold. -/
def mayEnter (s : State) (l : Nat) : Bool :=
  settledDown s && !s.thm.coldHold && (decide (l < 2) || !background s) && (decide (l < 4) || !stagedWork s)

/-- THM_PSTATE.HOLD: why PERMITTED is not reached, the first cause that applies. -/
def pwrHold (s : State) : Nat :=
  let cur := s.pwr.cur.val
  if (permitted s).val ≤ cur then 0
  else if !idle s then 1
  else if !settledDown s then 2
  else if 1 ≤ cur ∧ background s then 3
  else if s.pwr.excursion.isSome then 4
  else if s.thm.coldHold then 5
  else if 3 ≤ cur ∧ stagedWork s then 6
  else 0

end Sys2Proof.Machine
end

