-- ==== Sys2Proof/Machine/View.lean ====
section
/-! DEFINITION. What a register reads as (R13): its software-written fields, what hardware holds, and the fields that show the
state of a block as it is. -/

namespace Sys2Proof.Machine

/-- Bits of a word from a list: bit i is that of element i. -/
def bitsFrom (l : List Bool) : Nat := (l.zipIdx.map fun e => if e.1 then 2 ^ e.2 else 0).sum

/-- An integer in two's complement in a field of w bits. -/
def signedFld (w : Nat) (v : Int) (lo : Nat) : Word64 := fld (BitVec.ofInt w v).toNat lo

/-! ### GLB (chapter 1) -/

/-- GLB_STATE.STATE. -/
def DevState.num : DevState → Nat
  | .boot => 1 | .restore => 2 | .fwdReady => 3 | .operational => 4 | .commit => 5 | .dump => 6 | .stopped => 7

/-- GLB_READY.DEGRADED: a spare, or a doubling controller, serves a channel (R220, R222), or a blank is degraded or rebuilding. -/
def degraded (s : State) : Bool :=
  s.med.channels.any (fun e => decide (e.2.server ≠ e.1)) || s.med.blanks.any (fun b => decide (b.state = .degraded)) ||
    s.regions.any fun e => e.2.rebuilding

/-- GLB_BOOT_SOURCE.FW_IMAGE. -/
def bootSource (s : State) : Nat := match s.fw.running with | none => 0 | some 2 => 1 | some _ => 2

/-- GLB. -/
def glbLive (s : State) : Nat → Option Word64
  | 0x10 => some Config.serial
  | 0x18 => some (fld s.glb.state.num 0)
  | 0x1C => some (flag s.glb.fwd 0 ||| flag s.glb.bounds 1 ||| flag s.glb.mbx 2 ||| flag s.glb.breach 3 ||| flag (degraded s && !s.glb.inReset) 4)
  | 0x30 => some s.time
  | 0x40 => some ((sourceLines s).setWidth 64)
  | 0x98 => some (fld (bootSource s) 0 ||| (hwGet s Reg.GLB_BOOT_SOURCE &&& 4))
  | 0x9C => some (fld (profAt s 2 2 0) 0 ||| flag s.pst.applied.isSome 16)
  | 0xA0 => some (fld s.pwr.cur.val 0 ||| fld s.thm.band 4)
  | _ => none

/-! ### HP (chapter 3) -/

/-- STATUS.ALIGNED: every logical lane is locked and deskewed. Logical-lane deskew ends with step 5 of bring-up, which sets LINK_UP
(R95). -/
def aligned (q : Port) : Bool := q.wordLock == 0xFF && q.mfLock == 0xFF && q.linkUp

/-- A FENCE holds its stream from its dispatch until its response is sent (R62). -/
def fenceHolds (x : HostCmd) : Bool := decide (x.op = .fence) && (decide (x.stage = .waiting) || decide (x.stage = .answered))

/-- Streams of a port that a FENCE holds. -/
def heldStreams (s : State) (p : HPort) : Nat :=
  ((s.cmds.filter fun x => fenceHolds x && decide (x.port = p)).filterMap (·.stream)).eraseDups.length

/-- HPn_CTRL.ENABLE of a fitted port, with its reference passing: the SerDes runs (R95, R96). -/
def portRuns (s : State) (p : HPort) : Bool :=
  coreUp s && (s.ports[p]).fitted && cfgBit s (Reg.HP_CTRL p.val) 0 && s.clk.hp.ok && !s.clk.hp.failed

/-- The port sends its calendar: it runs and is not looped back (R95, R102). -/
def sendsCalendar (s : State) (p : HPort) : Bool := portRuns s p && !loopedBack s p

/-- HPn. -/
def hpLive (s : State) (p : HPort) (o : Nat) : Option Word64 :=
  let q := s.ports[p]
  match o with
  | 0x04 => some (flag q.fitted 0 ||| flag q.cwLock 1 ||| flag (aligned q) 2 ||| flag q.linkUp 3 |||
      flag (sendsCalendar s p && (List.range (calEntries q)).all (calZero s p)) 4 ||| flag s.clk.hp.ok 5 ||| fld q.wordLock.toNat 8 ||| fld q.mfLock.toNat 16)
  | 0x24 => some (fld (profAt s (20 + 4 * p.val) 3 0xFAC688) 0)
  | 0x28 => some (fld (profAt s (36 + 2 * p.val) 2 0) 0)
  | 0x34 => some (fld (heldStreams s p) 0)
  | 0x38 => some (fld (receiveUnits s p) 0 ||| fld (max (bitsOf (hwGet s (Reg.HP_BUF_OCC p.val)) 16 11) (sat 11 (receiveUnits s p))) 16)
  | o =>
    if 0xB0 ≤ o ∧ o < 0xD0 then
      let k := (o - 0xB0) / 4
      some ((hwGet s (Reg.HP_LANE_STAT p.val k) &&& 0xFFFFFF) ||| flag (bitOf q.wordLock k) 24 ||| flag (bitOf q.mfLock k) 25)
    else none

/-! ### KRF, RDP, ARB (chapters 5 and 6) -/

/-- Bits of a property of the regions 64k to 64k + 63. -/
def regionBits (s : State) (k : Nat) (f : Region → Bool) : Word64 :=
  (frange s.regions (64 * k) (64 * k + 64)).foldl (fun a e => if f e.2 then a ||| flag true (e.1 - 64 * k) else a) 0

/-- KRF. -/
def krfLive (s : State) : Nat → Option Word64
  | 0x04 => some (fld (occNow s) 0 ||| flag (!s.krf.waiters.isEmpty) 8 ||| flag (cfgBit s Reg.KRF_CTRL 0) 9 |||
      flag s.thm.coldHold 10 ||| flag s.krf.restored 11 ||| flag s.glb.breach 12 ||| flag s.krf.minProfile 13)
  | 0x20 => some (fld (totalCharge s) 0 ||| fld (256 * chargedSlots s) 32)
  | 0x28 => some (fld (chargedSlots s) 0 ||| fld (slotTotal - s.krf.slots.length) 32)
  | 0x34 => some (fld s.cnt.entries.length 0)
  | 0x38 => some (fld (chargedQueues s) 0)
  | o => if 0xC0 ≤ o ∧ o < 0x100 then some (regionBits s ((o - 0xC0) / 8) (·.breach)) else none

/-- Cache entries held in a way. -/
def heldEntries (s : State) (h : Hold) : Nat := (s.rdp.cache.filter fun e => decide (e.2.hold = h)).length

/-- RDP. -/
def rdpLive (s : State) : Nat → Option Word64
  | 0x04 => some (flag s.rdp.ready 0 ||| flag (!s.rdp.invals.isEmpty) 1 ||| flag s.rdp.lock.isSome 2)
  | 0x54 => some (fld (heldEntries s .locked) 0 ||| fld (heldEntries s .pinned) 16)
  | _ => none

/-- ARB. -/
def arbLive (s : State) : Nat → Option Word64
  | 0x04 => some (flag (s.med.channels.any fun e => e.2.arb.pending) 0 ||| fld s.med.level.num 1)
  | 0x9C => if s.glb.inReset then some 0 else some (((restInputs s).zipIdx.map fun e => fld e.1 (8 * e.2)).foldl (· ||| ·) 0)
  | _ => none

/-! ### LKE, DBQ, CNT, SEAL (chapters 8 to 10) -/

/-- Tables of the current version that the staged version deletes, those created anew under the same number included. -/
def releasedTables (s : State) : List Table :=
  match s.lke.staged with
  | none => []
  | some v => (s.lke.cur.tables.filter fun e => !(fget v.tables e.1).any fun t => !t.fresh).map (·.2)

/-- LKEee_STATUS. -/
def engineStatus (s : State) (e : Nat) : Word64 :=
  let held := (s.lke.jobs.filter fun j => j.engine.val == e).length
  match fget s.lke.failed e with
  | some c => fld 2 0 ||| fld c.toNat 2 ||| fld held 8
  | none => fld (if cfgBit s Reg.LKE_CTRL e then 0 else 1) 0 ||| fld held 8

/-- LKE. -/
def lkeLive (s : State) (o : Nat) : Option Word64 :=
  match o with
  | 0x04 => some (fld (16 - s.lke.failed.length) 0 ||| flag s.lke.valid 5 ||| flag s.lke.commit.isSome 6 |||
      (hwGet s Reg.LKE_STATUS &&& 0x80) ||| fld s.lke.records 8)
  | 0x10 => some (fld s.lke.cur.version.toNat 0 ||| fld s.lke.restored.toNat 32)
  | 0x18 => some (fld (unitsUp ((reservedTables s).map tierBytes).sum 65536) 0 |||
      fld (unitsUp ((releasedTables s).map tierBytes).sum 65536) 16)
  | o => if 0x100 ≤ o ∧ o < 0x200 ∧ o % 16 = 0 then some (engineStatus s ((o - 0x100) / 16)) else none

/-- The lowest-numbered queue in ERROR. -/
def errorQueue (s : State) : Option Nat := (s.dbq.queues.find? fun e => e.2.error).map (·.1)

/-- DBQ. -/
def dbqLive (s : State) : Nat → Option Word64
  | 0x04 => some (flag s.dbq.ready 0 ||| flag s.dbq.wasReset 1 ||| flag (decide (poolFree s < cfgFld s Reg.DBQ_CFG 16 16)) 2 |||
      flag s.dbq.sweeping 3 ||| flag (s.regions.any fun e => e.2.formatting) 4)
  | 0x18 => some (fld (poolRegions s).length 0 |||
      fld ((poolRegions s).filter fun e => e.2.alloc && !(regionAt s e.1).lost).length 16 |||
      fld ((poolRegions s).filter fun e => (regionAt s e.1).lost).length 32)
  | 0x20 => some (fld (poolTotal s) 0 ||| fld (poolFree s) 32)
  | 0x28 => some (fld (s.dbq.queues.filter fun e => e.2.enable).length 0)
  | 0x58 => some (match nextRegion s with | some r => fld r 0 ||| flag true 9 | none => 0)
  | 0x54 => some (fld (sweepProgress s) 0 ||| (hwGet s Reg.DBQ_SWEEP &&& 0xFFFFFF00))
  | 0x60 => some (match errorQueue s with | some q => fld q 0 ||| flag true 17 | none => 0)
  | _ => none

/-- CNT. -/
def cntLive (s : State) : Nat → Option Word64
  | 0x04 => some (flag s.cnt.ready 0 ||| flag (cfgBit s Reg.CNT_CTRL 0) 1 ||| flag (!s.cnt.clears.isEmpty) 2)
  | 0x14 => some (fld s.cnt.entries.length 0 ||| fld (sat 11 s.cnt.folds.length) 20)
  | 0x4C => some (fld s.cnt.poison.length 0)
  | 0x58 => some (fld (sat 16 (oldestMs s)) 0)
  | _ => none

/-- The highest minor ceiling of any region, as far as 20 bits show it, and the first region that holds it: MINOR_TOP. -/
def minorTop (s : State) : Nat × Nat :=
  s.regions.foldl (fun a e => if a.1 < min 0xFFFFF e.2.ceiling then (min 0xFFFFF e.2.ceiling, e.1) else a) (0, 0)

/-- SEAL_REKEYn. -/
def unitStatus (s : State) (u : Fin 4) : Word64 :=
  match s.sealing.units[u] with
  | none => 0
  | some r =>
    let x := regionAt s r.toNat
    match x.rekey with
    | none => 0
    | some k => fld r.toNat 0 ||| fld k.oldSlot.val 9 ||| fld ((x.slot.map (·.val)).getD 0) 15 ||| flag k.forced 21 ||| flag true 22 |||
        flag (!cfgBit s Reg.SEAL_CTRL 0 || x.lost) 23 ||| fld k.parting 24 ||| fld (k.parting * 256 / regionSectors) 48

/-- The check value of a key that may be absent. -/
def kcvOf (k : Option (BitVec 256)) : Nat := match k with | some k => kcv k | none => 0

/-- SEAL. -/
def sealLive (s : State) (o : Nat) : Option Word64 :=
  match o with
  | 0x04 => some (flag s.sealing.ready 0 ||| flag s.sealing.devKey.isSome 1 ||| fld (walksRunning s) 2 |||
      flag (!(forcedWaiting s).isEmpty) 5)
  | 0x10 => some (fld (bitsFrom ((List.range 64).map fun k => decide (1 ≤ slotState s k))) 0)
  | 0x18 => some (fld (bitsFrom ((List.range 64).map fun k => decide (2 ≤ slotState s k))) 0)
  | 0x24 => some (fld (walksRunning s) 0 ||| fld (forcedWaiting s).length 4)
  | 0x2C => some (fld (minorTop s).1 0 ||| fld (minorTop s).2 20)
  | 0x94 => some (fld s.sealing.held.length 0)
  | 0x98 => some (flag s.sealing.tested 0 ||| flag s.sealing.passed 1 ||| (hwGet s Reg.SEAL_SELFTEST &&& 0xFFFF0000))
  | 0x9C => some (flag s.sealing.devKey.isSome 0 ||| fld (kcvOf s.sealing.devKey) 8)
  | 0xA4 =>
    let k := cfgFld s Reg.SEAL_SLOT_SEL 0 6
    some (fld (slotState s k) 0 ||| fld (kcvOf (fget s.sealing.keys k)) 8)
  | o =>
    if h : 0x30 ≤ o ∧ o < 0x50 ∧ o % 8 = 0 then some (unitStatus s ⟨(o - 0x30) / 8, by omega⟩)
    else if 0xC0 ≤ o ∧ o < 0x100 then
      some (regionBits s ((o - 0xC0) / 8) fun x => x.forcedWait || match x.rekey with | some k => k.forced | none => false)
    else none

/-! ### MIR and MBX (chapters 11 and 12) -/

/-- Age of the oldest unacknowledged record, µs. -/
def oldestRecordUs (s : State) (x : MirPort) : Nat :=
  match x.out with
  | [] => 0
  | ts => (ts.map fun t => s.time.toNat - t.since).foldl max 0 / 1000

/-- MIRn_STATUS. -/
def mirStatus (s : State) (n : MPort) : Word64 :=
  let x := s.mir.ports[n]
  flag x.fitted 0 ||| flag x.linkUp 1 ||| flag x.linkUp 2 ||| flag x.session 3 |||
    fld (if !x.session then 0 else if x.inSync then 2 else 1) 4 ||| flag x.overflow 6 |||
    flag (decide (n = 0) && s.mir.pairId.isSome && !anySession s && !s.glb.inReset) 7 ||| flag (cfgBit s (Reg.MIR_MACSEC_CTRL n.val) 0) 8 |||
    flag s.clk.hp.ok 9

/-- MIRn. -/
def mirLive (s : State) (n : MPort) (o : Nat) : Option Word64 :=
  let x := s.mir.ports[n]
  match o with
  | 0x04 => some (mirStatus s n)
  | 0x18 => some (fld (profMac s n.val) 0)
  | 0x28 => some (if n ≠ 0 then 0 else
      fld ((s.mir.pairId.map (·.toNat)).getD 0) 0 ||| flag s.mir.pairId.isSome 32 ||| flag s.mir.mate 33 ||| fld s.mir.promoGen.toNat 48)
  | 0x30 => some (fld x.txSeq.toNat 0)
  | 0x38 => some (fld x.acked.toNat 0)
  | 0x40 => some (fld x.rxSeq.toNat 0)
  | 0x48 => some (fld ((journalBytes x + 65535) / 65536) 0 ||| fld (sat 32 (x.out.filter fun t => t.seq.isNone).length) 32)
  | 0x50 => some (fld (sat 16 (oldestRecordUs s x)) 0 ||| fld ((inFlightBytes x + 65535) / 65536) 16)
  | 0x58 =>
    let an := cfgFld s (Reg.MIR_MACSEC_CTRL n.val) 1 2
    some (fld (bitsFrom ((List.range 4).map fun a => fhas x.rxSa a)) 0 ||| fld (kcvOf ((fget x.txSa an).map (·.key))) 8)
  | 0x80 => some (fld x.catchup.length 0 ||| fld (x.catchup.headD 0 / 512) 18)
  | _ => none

/-- MBXm_STATUS.STATE. -/
def MbxState.num : MbxState → Nat
  | .idle => 0 | .busy => 1 | .done => 2 | .aborting => 3

/-- MBXm. -/
def mbxLive (s : State) (m : Mbx) : Nat → Option Word64
  | 0x08 =>
    let x := s.mbx[m]
    some (fld x.state.num 0 ||| if x.state = .done then fld x.code.toNat 8 ||| fld x.reason.toNat 16 else 0)
  | 0x0C => let x := s.mbx[m]; some (fld x.rspLen 0 ||| fld x.ticket.toNat 16)
  | 0x10 => let x := s.mbx[m]; some (fld (if mbxBusy x then mbxUs s x else x.time).toNat 0)
  | _ => none

/-! ### PST, EVR, PMC (chapters 13 and 14) -/

/-- Bits of a property of the record slots. -/
def pstBits (s : State) (f : PstSlot → Bool) : Word64 := fld (bitsFrom ((List.range 32).map fun k => f (pstSlotAt s k))) 0

/-- PST. -/
def pstLive (s : State) : Nat → Option Word64
  | 0x04 =>
    let p := s.pst
    some (flag p.ready 0 ||| flag (factoryCopy p).isSome 1 ||| flag p.copyUsed 2 ||| flag p.pending 3 |||
      flag (p.ready && p.applied.isNone) 4 ||| flag p.staging.isSome 5 ||| flag (decide (pstWrites ≤ p.user.writes)) 6 |||
      flag p.recovered 7)
  | 0x10 => some (pstBits s fun v => v.record.isSome)
  | 0x14 => some (pstBits s PstSlot.worn)
  | 0x18 => some (pstBits s PstSlot.locked)
  | 0x30 => some (match factoryCopy s.pst with | some c => fld c.crc.toNat 0 ||| fld Config.factoryFormat.toNat 32 | none => 0)
  | _ => none

/-- EVR. -/
def evrLive (s : State) : Nat → Option Word64
  | 0x04 => some (flag s.evr.ready 0 ||| flag s.evr.frozen 1 ||| flag (s.evr.frozen && decide (8192 ≤ s.evr.front.length)) 2 |||
      flag s.dumps.writing 3)
  | 0x10 => some (fld s.evr.range.1.toNat 0)
  | 0x14 => some (fld s.evr.range.2 0)
  | 0x2C => some (fld s.evr.last.toNat 0)
  | 0x30 => some (fld s.evr.front.length 0)
  | 0x34 => some (fld s.dumps.held.length 0 ||| flag s.dumps.owAtBoot 7)
  | 0x38 => some (match s.dumps.held with | d :: _ => d.gen | [] => 0)
  | 0x40 => some (fld s.evr.clears.toNat 0)
  | _ => none

/-- PMCu: its registers stand in the unit. -/
def pmcValue (p : Pmc) (o : Nat) : Word64 :=
  if o = 0 then flag p.en 0 ||| flag p.freeze 1
  else if o = 4 then fld p.ovf.toNat 0
  else if o = 8 then fld p.mask.toNat 0
  else if o = 0x10 then p.tb
  else if h : 0x20 ≤ o ∧ o < 0x40 ∧ o % 4 = 0 then fld (p.cfg[(⟨(o - 0x20) / 4, by omega⟩ : Fin 8)]).toNat 0
  else if h : 0x40 ≤ o ∧ o < 0x80 ∧ o % 8 = 0 then fld (p.cnt[(⟨(o - 0x40) / 8, by omega⟩ : Fin 8)]).toNat 0
  else 0

/-! ### CLK, THM, SEQ (chapters 15 and 16) -/

/-- CLK. -/
def clkLive (s : State) : Nat → Option Word64
  | 0x04 =>
    let c := s.clk
    some (flag c.sys.ok 0 ||| flag c.hp.ok 1 ||| flag c.pcie.ok 2 ||| flag c.osc.ok 3 ||| flag c.onOsc 4 |||
      flag (decide (1000 ≤ c.learned)) 5 ||| fld (profAt s 92 1 6) 8 ||| fld c.opp.toNat 12 ||| flag c.move.isSome 14 |||
      (hwGet s Reg.CLK_STATUS &&& 0x70000))
  | 0x20 => some (fld (sat 32 (s.clk.fine / 65536)) 0)
  | _ => none

/-- Floor of a band, % of nominal (R409). -/
def floorPct (band : Nat) : Nat := if band = 0 then 90 else if band = 4 then 86 else 100

/-- Throttling, pre-emptive throttling or CRIT_LATCH: THERM_N is driven low (R429). -/
def thermN (s : State) : Bool := decide (s.thm.writePct < 100) || s.thm.preempt || s.thm.crit

/-- Θ, °C (R425). -/
def effThreshold (s : State) : Nat := if s.thm.preempt then s.thm.threshold - 5 else s.thm.threshold

/-- THM. -/
def thmLive (s : State) : Nat → Option Word64
  | 0x04 =>
    let t := s.thm
    some (flag t.ready 0 ||| flag (decide (t.writePct < 100)) 1 ||| flag (decide (t.readPct < 100)) 2 ||| flag t.preempt 3 |||
      flag t.coldWave 4 ||| flag t.coldHold 5 ||| flag t.selfHeat 6 ||| flag t.crit 7 ||| flag (thermN s) 8 ||| flag t.paceLow 9 |||
      flag (t.ready && t.sensors.any fun x => !x.valid) 10)
  | 0x10 =>
    let t := s.thm
    some (signedFld 16 t.temp 0 ||| fld t.maxSensor 16 ||| fld t.band 22 ||| signedFld 16 t.rate 32 |||
      fld (t.sensors.toList.filter (·.valid)).length 48)
  | 0x18 => some (fld s.thm.threshold 0 ||| fld (effThreshold s) 8 ||| fld 128 16)
  | 0x1C => some (fld s.thm.writePct 0 ||| fld s.thm.readPct 8)
  | 0x20 => some (fld (if s.pwr.cur = 0 then 2400 else 0) 0 ||| fld s.thm.slowest.toNat 16 ||| fld s.thm.vdd 32 |||
      fld (floorPct s.thm.band) 48)
  | 0x28 => some (fld (effectiveTol s) 0)
  | 0x2C => some (fld s.pwr.cur.val 0 ||| fld (permitted s).val 4 ||| flag s.pwr.entering 7 ||| fld (pwrHold s) 8 |||
      fld s.pwr.excursions.toNat 16)
  | 0x34 => some (if h : cfgFld s Reg.THM_SENSOR_SEL 0 6 < 40 then
      let x := s.thm.sensors[cfgFld s Reg.THM_SENSOR_SEL 0 6]
      signedFld 16 (x.last.getD 0) 0 ||| flag x.valid 16 else 0)
  | _ => none

/-- SEQ_STATUS.PHASE. -/
def SeqPhase.num : SeqPhase → Nat
  | .off => 0 | .phaseA => 1 | .profile => 2 | .phaseB => 3 | .on => 4 | .down => 5 | .faultDown => 6 | .latched => 7

/-- Channels as bits. -/
def railBits (l : List Rail) : Nat := bitsFrom ((List.range 12).map fun c => l.any fun x => x.val == c)

/-- SEQ. -/
def seqLive (s : State) : Nat → Option Word64
  | 0x04 => some (fld s.seq.phase.num 0 ||| flag s.seq.commitWait 3 ||| fld s.seq.good.toNat 4 ||| fld s.seq.upTime.toNat 20)
  | 0x14 => some (fld (railBits s.seq.enabled) 0 ||| fld s.seq.pg.toNat 16 ||| flag s.seq.pwrFailN 28 ||| flag s.seq.resetN 29)
  | 0x2C => some (if h : cfgFld s Reg.SEQ_RAIL_SEL 0 4 < 12 then fld (s.seq.shadow[cfgFld s Reg.SEQ_RAIL_SEL 0 4]).toNat 0 else 0)
  | _ => none

/-! ### MCH and BLK (chapter 7) -/

/-- The channel controllers are parked: in L2 to L4, but for the drain that leads from L2 to L3 and for a commit, and after the dump of a critical
stop (R419, R422, R428). -/
def chansParked (s : State) : Bool := (decide (2 ≤ s.pwr.cur.val) && !s.pwr.entering && s.krf.running.isNone) || critParked s

/-- MCHnn_STATUS as its Reset column has it (R12). -/
def mchAtReset (k : Nat) : Word64 := flag (decide (64 ≤ k)) 0 ||| fld (if k < 64 then k else 0) 4 ||| fld 2 19

/-- MCHnn_STATUS.STATE. -/
def mchState (s : State) (k : Nat) : Nat :=
  let n := (servedBy s k).length
  if s.med.failed.any fun m => m.val == k then 4
  else if chansParked s then 5
  else if 64 ≤ k then (if n = 0 then 1 else 2)
  else if 2 ≤ n then 3
  else 0

/-- The waveform of R207. -/
def waveform (s : State) : Nat := if s.thm.coldWave then 0 else if s.thm.band ≤ 1 then 1 else s.thm.band

/-- A channel served by a controller other than its own. -/
def extraOf (s : State) (k : Nat) : Option Nat := (servedBy s k).find? (· != k)

/-- MCHnn. -/
def mchLive (s : State) (k : Nat) : Nat → Option Word64
  | 0x04 =>
    let c := chanAt s k
    let own := decide (k < 64)
    if s.glb.inReset then some (mchAtReset k) else
    some (fld (mchState s k) 0 ||| fld (if own then c.server else 0) 4 ||| fld ((extraOf s k).getD 0) 12 |||
      flag (extraOf s k).isSome 18 ||| fld (waveform s) 19 ||| flag (own && c.settled) 22 ||| flag (own && c.guard) 23 |||
      fld (if own then c.offset.toNat else 0) 24)
  | 0x0C => if k < 64 then some (fld (chanAt s k).blocks 0 ||| fld (chanAt s k).sectors 10) else some 0
  | _ => none

/-- LOST regions of a blank that can be rebuilt. -/
def regionsLeft (s : State) (b : Blank) : Nat :=
  (s.regions.filter fun e => e.1 % 8 == b.val && e.2.lost && e.2.mirrored).length

/-- A rebuild of the blank runs: a LOST region of it receives a seed (R228). -/
def rebuildRuns (s : State) (b : Blank) : Bool := s.regions.any fun e => e.1 % 8 == b.val && e.2.rebuilding

/-- BLKb_STATUS. -/
def blkStatus (s : State) (b : Blank) : Word64 :=
  let v := s.med.blanks[b]
  fld (match v.state with | .normal => 0 | .degraded => 1 | .outage => 2 | .failed => 3) 0 |||
    flag (decide (v.state = .failed) && v.hwOk) 2 ||| fld ((v.die.map (·.val)).getD 0) 3 ||| flag v.die.isSome 8 |||
    flag ((List.range 8).all fun j => (chanAt s (8 * b.val + j)).settled) 9 ||| flag (catchingUp s b) 10 |||
    flag (rebuildRuns s b) 11 |||
    fld (s.med.failed.filter fun m => m.val == 64 + b.val || (m.val < 64 && m.val / 8 == b.val)).length 12

/-- Physical slots of a blank in use: those of its 480 user domains, 60 regions on 8 channels, of its 8 GiB of levelled reserved area in
16 domains, and of the spares that replace others (R213, R216, R230). -/
def slotsInUse (s : State) (b : Blank) : Nat :=
  496 * domainSlots + ((List.range 8).map fun j => 4096 * (chanAt s (8 * b.val + j)).blocks + (chanAt s (8 * b.val + j)).sectors).sum

/-- Programs divided by the physical slots in use. -/
def avgCycles (s : State) (b : Blank) : Nat :=
  ((List.range 8).map fun j => (hwGet s (Reg.MCH_PROGRAMS (8 * b.val + j))).toNat).sum / slotsInUse s b

/-- The slowest channel's place in its scrub cycle, in 1/256 of the address space: SCRUB_STAT.PROGRESS. -/
def scrubProgress (s : State) (b : Blank) : Nat :=
  ((List.range 8).map fun j => min 255 ((chanAt s (8 * b.val + j)).scrubAt / 16777216)).foldl min 255

/-- BLKb. -/
def blkLive (s : State) (b : Blank) : Nat → Option Word64
  | 0x04 => some (blkStatus s b)
  | 0x08 => some (blkIntStatus s b.val)
  | 0x14 => some (fld (sat 16 (oldestAge s b)) 0 ||| fld (scrubInput s b) 16 |||
      fld (scrubProgress s b) 24)
  | 0x18 => some (fld (sat 32 (avgCycles s b)) 0 ||| fld (sat 16 (pendingMoves s b)) 32)
  | 0x20 => some (match (s.med.blanks[b]).rebuild with
      | some (r, n) => fld r.toNat 0 ||| flag (rebuildRuns s b) 9 ||| fld (regionsLeft s b) 10 ||| fld n 32
      | none => flag (rebuildRuns s b) 9 ||| fld (regionsLeft s b) 10)
  | _ => none

/-! ### Any register -/

/-- Host port of a number. -/
def hpOf (k : Nat) : HPort := ⟨k % 4, Nat.mod_lt _ (by decide)⟩

/-- PMC unit of a number. -/
def pmcOf (k : Nat) : PmcUnit := ⟨k % 6, Nat.mod_lt _ (by decide)⟩

/-- Blank of a number. -/
def blankNo (k : Nat) : Blank := ⟨k % 8, Nat.mod_lt _ (by decide)⟩

/-- The fields of the register at an offset that show a block's state; `none` where hardware holds the register's value itself. -/
def liveAt (s : State) (o : Nat) : Option Word64 :=
  let w := o % 0x1000
  match o / 0x1000 with
  | 0x000 => glbLive s w
  | 0x010 => hpLive s 0 w
  | 0x011 => hpLive s 1 w
  | 0x012 => hpLive s 2 w
  | 0x013 => hpLive s 3 w
  | 0x020 => krfLive s w
  | 0x021 => rdpLive s w
  | 0x022 => arbLive s w
  | 0x030 => lkeLive s w
  | 0x031 => dbqLive s w
  | 0x032 => cntLive s w
  | 0x040 => sealLive s w
  | 0x050 => mirLive s 0 w
  | 0x051 => mirLive s 1 w
  | 0x090 => mbxLive s (mbxOf (w / 0x20)) (w % 0x20)
  | 0x0A0 => pstLive s w
  | 0x0A1 => evrLive s w
  | 0x0C0 => clkLive s w
  | 0x0C1 => thmLive s w
  | 0x0C2 => seqLive s w
  | _ =>
    if 0x100000 ≤ o ∧ o < 0x112000 then mchLive s ((o - 0x100000) / 0x400) (o % 0x400)
    else if 0x120000 ≤ o ∧ o < 0x122000 then blkLive s (blankNo ((o - 0x120000) / 0x400)) (o % 0x400)
    else none

/-- A register that shows persistent state and whose Reset column gives a value of its own: from a reset until the boot it reads that
(R12). PST and SEAL show what they hold once they are READY. -/
def awaitsBoot (s : State) (o : Nat) : Bool :=
  match o / 0x1000 with
  | 0x030 | 0x031 | 0x032 => s.glb.inReset
  | 0x040 => !s.sealing.ready && decide (o % 0x1000 ≠ 0x98)
  | 0x050 => s.glb.inReset && decide (o % 0x1000 = 0x28)
  | 0x0A0 => !s.pst.ready
  | _ => s.glb.inReset && ((decide (0x100000 ≤ o) && decide (o < 0x112000) && o % 0x400 == 0x0C) || decide (0x120000 ≤ o))

/-- A register of a channel controller. -/
def mchWindow (o : Nat) : Bool := decide (0x100000 ≤ o) && decide (o < 0x112000)

/-- What a register shows beside its software-written fields: its block's state, or what hardware holds in it; of a parked or flushed
block, what it showed at the entry to the power state (R31). -/
def shown (s : State) (o : Nat) : Word64 :=
  match (if mchWindow o && !chansParked s then none else fget s.pwr.held o) with
  | some v => v
  | none => if awaitsBoot s o then hwGet s o else (liveAt s o).getD (hwGet s o)

/-- The value of the register at an offset, at this instant; WO fields and reserved fields read zero. -/
def regValue (s : State) (o : Nat) : Word64 :=
  match regAt o with
  | none => 0
  | some r =>
    if o / 0x1000 = 0x0B0 then pmcValue s.pmc[pmcOf (o % 0x1000 / 0x100)] (o % 0x100)
    else (cfg s o &&& r.rw) ||| (shown s o &&& ~~~ (r.rw ||| r.wo))

/-- Offsets of the registers of a block's instance. -/
def blockOffsets (b : RegBlock) : List Nat :=
  (List.range b.count).flatMap fun i => b.regs.map fun r => b.base + b.stride * i + r.off

/-- The 1,194 registers in BAR0 offset order with their values: section 1 of a dump (R403). -/
def regSnapshot (s : State) : List (Nat × Word64) := (regBlocks.flatMap blockOffsets).map fun o => (o, regValue s o)

/-- The registers of a dump are captured with its trigger (R401). -/
def captureRule (s : State) : State :=
  match s.dumps.trigger with
  | some d => if d.regs.isEmpty then
      { s with dumps := { s.dumps with trigger := some { d with regs := regSnapshot s } } } else s
  | none => s

end Sys2Proof.Machine
end

