-- ==== Sys2Proof/Machine/MbxRun.lean ====
section
/-! DEFINITION. The performance of mailbox commands, by opcode (R342 to R350), and what every command of the block lets go on. -/

namespace Sys2Proof.Machine

/-- The command a mailbox has captured is performed. `flash`: what the SPI flash does, for FW_TO_SPI. -/
def mbxPerform (s : State) (m : Mbx) (flash : Bool) : MbxOut × State :=
  let req := mbxReq s m
  match mbxOp s m with
  | 0x0000 => opDevInfo s req
  | 0x0001 => opDevEcho s req
  | 0x0010 => opRegionGet s req
  | 0x0011 => opRegionSet s req
  | 0x0012 => opRegionRecreate s m req
  | 0x0020 => opForceFail s req
  | 0x0100 => opTblCreate s req
  | 0x0101 => opTblDelete s req
  | 0x0102 => opTblUpdate s m req
  | 0x0103 => opTblCommit s m req
  | 0x0104 => opTblAbort s req
  | 0x0105 => opTblQuery s req
  | 0x0106 => opTblInfo s req
  | 0x0107 => opProfileSet s req
  | 0x0108 => opProfileGet s req
  | 0x0200 => opPoolSet s req
  | 0x0201 => opPoolInfo s req
  | 0x0202 => opQueueSet s m req
  | 0x0203 => opQueueGet s req
  | 0x0208 => opCntClear s m req
  | 0x0209 => opCntInfo s req
  | 0x0300 => opDevkeyInstall s req
  | 0x0301 => opDevkeyZeroise s req
  | 0x0302 => opKeyLoad s req
  | 0x0303 => opKeyBind s req
  | 0x0304 => opKeyChange s m req
  | 0x0305 => opKeyUnbind s m req
  | 0x0306 => opKeyRetire s m req
  | 0x0307 => opKeyInfo s req
  | 0x0400 => opPstInfo s req
  | 0x0401 => opPstRead s req
  | 0x0402 => opPstWrite s req
  | 0x0403 => opPstPassword s req
  | 0x0404 => opPstCtrRead s req
  | 0x0405 => opPstCtrInc s req
  | 0x0500 => opEvtFreeze s req
  | 0x0501 => opEvtThaw s req
  | 0x0502 => opEvtRead s req
  | 0x0503 => opEvtClear s req
  | 0x0504 => opEvtLimitSet s req
  | 0x0505 => opEvtLimitGet s req
  | 0x0600 => opMirPair s req
  | 0x0601 => opMirUnpair s req
  | 0x0602 => opMirPromote s req
  | 0x0603 => opMirSak s req
  | 0x0604 => opMirSakClear s req
  | 0x0605 => opMirInfo s req
  | 0x0606 => opMirReseed s req
  | 0x0700 => opDumpInfo s req
  | 0x0701 => opDumpRead s req
  | 0x0702 => opDumpRelease s req
  | 0x0800 => opFwInfo s req
  | 0x0801 => opFwWrite s req
  | 0x0802 => opFwActivate s req
  | 0x0803 => opFwConfirm s req
  | 0x0804 => opFwRollback s req
  | 0x0805 => opFwToSpi s m req flash
  | 0x0900 => opCalGet s req
  | 0x0901 => opCalSet s req
  | 0x0A00 => opPwrInfo s req
  | 0x0A01 => opPwrLtrSet s req
  | 0x0A02 => opThmSet s req
  | 0x0A03 => opHsOppSet s m req
  | _ => (.fin 2 0 [], s)

/-- A captured command that has not begun is checked and performed, unless it must wait for an earlier one on the same object or for a
change of operating point (R342, R345, R346, R416). -/
def mbxTry (s : State) (m : Mbx) (flash : Bool) : State :=
  if (s.mbx[m]).state ≠ .busy ∨ !(s.mbx[m]).waits ∨ (s.clk.move.isSome ∧ mbxOp s m ≠ 0x0A03) then s
  else match mbxGate s (mbxOp s m), mbxBar s m with
    | some code, _ => mbxFinish s m code 0 []
    | none, some code => mbxFinish s m code 0 []
    | none, none =>
      if mbxBlocked s m then s
      else mbxSettle m (mbxPerform s m flash)

/-- Commands that wait are tried again, in the order of their GO writes; the flash of a copy that waited is a free bit. -/
def mbxRetry (s : State) : State :=
  let ms := sortBy (fun a b => decide ((s.mbx[a]).order ≤ (s.mbx[b]).order))
    ((List.finRange 8).filter fun m => decide ((s.mbx[m]).state = .busy) && (s.mbx[m]).waits)
  ms.foldl (fun s m => if mbxOp s m = 0x0805 then mbxTry (freeNext s) m ((freeNow s).getLsbD 0) else mbxTry s m false) s

/-- A change of a field that REGION_STATE reports is told on every port with a session (R314). -/
def tellRule (s : State) : State :=
  if !anySession s then s else
  let b := stateBody s
  if s.mir.told = some b then s else
  let s := [(0 : Fin 2), 1].foldl (fun s n => if (s.mir.ports[n]).session then sendNote s n (.regionState b) else s) s
  { s with mir := { s.mir with told := some b } }

/-- The sectors of the ring that the recorder has changed are programmed, each in its two copies, sealed (R227, R285, R383); below −58 °C
they wait (R207). -/
def ringRule (s : State) : State :=
  if s.thm.coldHold then s
  else s.evr.toSeal.foldl (fun s n => saveBytes s (.ring n) (ringBytes s n)) (modEvr s fun e => { e with toSeal := [] })

/-- Seeds are asked for of every region that can be rebuilt from the peer and for which none has been (R331). -/
def seedRule (s : State) : State :=
  if s.mir.pairId.isNone then s else
  askSeeds s ((mirroredRegions s).filter fun r => seedable s r && (mirRegion s r).seedIn.isNone && !(mirRegion s r).asked)

/-- The blank of a region that a mailbox re-creates has failed again: the command ends, as if aborted (R352). -/
def recreateRule (s : State) : State :=
  (List.finRange 8).foldl (fun s m =>
    let r := leAt (mbxReq s m) 0 2
    if recreating s r = some m ∧ !(s.sealing.erasing.any fun j => decide (j.why = .recreate m)) ∧
        !(s.med.reqs.any fun q => inRegion r q.lsa.toNat && decide (q.purpose = .rebuild)) then endRecreate s m r true
    else s) s

/-- A port whose receiver has discarded a record asks for it again, once it can take it (R318). -/
def nakRule (s : State) : State :=
  [(0 : Fin 2), 1].foldl (fun s n =>
    let x := s.mir.ports[n]
    if x.nakDue ∧ x.session ∧ s.glb.state.serves then sendNote (modMir s n fun x => { x with nakDue := false }) n .nak else s) s

/-- Once a command's effect is in place, everything it lets go on goes on. Nothing does while the core is in reset. -/
def settle (s : State) : State :=
  if !coreUp s then s else
  let s := settlePorts (lossRule s)
  let s := if s.glb.state.serves ∧ staged s then nakRule (applyRecords (runErases s)) else s
  saveRule (sweepRule (queueBitRule (poolLowRule (ringRule (blockRules (captureRule (tellRule (settlePorts (nextSeed (nextSeed (mbxRetry (seedRule (recreateRule s))) 0) 1)))))))))

end Sys2Proof.Machine
end

