-- ==== Sys2Proof/Machine/ArbOps.lean ====
section
/-! DEFINITION. Shared operations of the channel arbiters: who may be granted, how an operation starts and ends on its bank, and the
drain (chapters 5, 6, 7 and 10). -/

namespace Sys2Proof.Machine

/-- The twelve classes in order of their numbers (R170). -/
def Class.all : List Class :=
  [.hrd, .lkr, .qrd, .ctr, .kfetch, .pref, .drain, .fold, .scrub, .move, .rekey, .rebuild]

/-! ### What may run (R159, R160, R207, R224, R306, R419) -/

/-- The channel controllers are not parked (R419, R422, R428). -/
def medAwake (s : State) : Bool := !chansParked s

/-- A sector's blank takes an operation: not in outage; a failed one whose hardware serves takes rebuild writes, and what concerns a region
that is no longer LOST (R224, R225, R228). -/
def blankTakes (s : State) (lsa : Nat) (purpose : Purpose) : Bool :=
  let v := s.med.blanks[blankOf (lsaRegion lsa)]
  match v.state with
  | .outage => false
  | .failed => v.hwOk && !v.down && (decide (purpose = .rebuild) || (!isInner lsa && !(regionAt s (lsaRegion lsa)).lost))
  | _ => true

/-- Operations of a sector's blank come to an end: it is not in outage (R224). -/
def blankAnswers (s : State) (q : MedReq) : Bool :=
  let v := s.med.blanks[blankOf (lsaRegion q.lsa.toNat)]
  decide (v.state ≠ .outage) && !v.down

/-- Reads of a class run: all of them but in a commit, which lets its merges end (R159, R160). -/
def readsRun (s : State) (c : Class) : Bool := s.krf.running.isNone || decide (c = .kfetch)

/-- An operation of a sector can be granted now (R215, R292). -/
def mayStart (s : State) (cls : Class) (program : Bool) (lsa : Nat) (purpose : Purpose) : Bool :=
  blankTakes s lsa purpose &&
    (if program then programsRun s && !s.sealing.held.contains (BitVec.ofNat 32 lsa) && !programRuns s lsa
     else readsRun s cls)

/-! ### Drain (R152 to R154) -/

/-- The eligible slots of a channel in the order they drain: those a PERSIST made eligible first, then as they became DIRTY (R152). -/
def drainQueue (s : State) (ch : Nat) : List Nat :=
  let es := s.krf.slots.filter fun e => lsaChannel e.1 == ch && eligible s e.2 && mayStart s .drain true e.1 .drain
  (sortBy (fun a b => if a.2.wanted = b.2.wanted then decide (a.2.stamp ≤ b.2.stamp) else a.2.wanted) es).map (·.1)

/-- A drain starts: the slot is DRAINING with a snapshot of itself; a POISONED slot stays so (R153). -/
def beginDrain (s : State) (lsa : Nat) : State :=
  modSlot s lsa fun x =>
    if x.state = .poisoned then { x with snapshot := none }
    else { x with state := .draining, snapshot := some x.data, rewritten := false, aged := false, wanted := false,
                  snapWriters := x.writers, writers := [] }

/-! ### Banks (R479) -/

/-- Bank of a request. -/
def bankOf (s : State) (q : MedReq) : Fin 32 := Config.bankOf (placeOf s q.lsa.toNat)

/-- The operations that hold a bank of a channel, or are suspended on it. -/
def bankHolders (s : State) (ch : Nat) (b : Fin 32) : List MedReq :=
  (reqsOf s ch).filter fun q => (decide (q.state = .running) || decide (q.state = .suspended)) && decide (bankOf s q = b)

/-- An operation starts at the medium: a drain reads and snapshots its slot (R140, R153); a program of an exhausted sector is held (R292); a
read takes the references of the table as it stands (R204). -/
def runOp (s : State) (q : MedReq) : State :=
  let lsa := q.lsa.toNat
  let s := if q.purpose = .drain then slotCheck s lsa else s
  if q.program ∧ isExhausted s lsa then
    let s := holdSector s lsa
    if q.purpose = .drain then delReq s q.id else modReq s q.id fun q => { q with state := .raised }
  else
    let data := if q.purpose = .drain then (slotAt s lsa).bind fun x => if x.state = .poisoned then none else some x.data else q.data
    let refs := if q.program then [] else refsNow s (blankOf (lsaRegion lsa))
    let s := modReq s q.id fun q => { q with state := .running, data := data, refs := refs }
    if q.purpose = .drain then beginDrain s lsa else s

/-- A granted operation starts at once when its bank is free, and waits for it otherwise (R479). -/
def startOp (s : State) (id : Nat) : State :=
  match reqAt s id with
  | none => s
  | some q =>
    if (bankHolders s q.ch.val (bankOf s q)).isEmpty then runOp s q else modReq s id fun q => { q with state := .bankWait }

/-- The requests of a class that can be granted on a channel, in order; drains are raised by their slots. -/
def raisedOf (s : State) (ch : Nat) (c : Class) : List MedReq :=
  (reqsOf s ch).filter fun q => decide (q.cls = c) && decide (q.state = .raised) && mayStart s c q.program q.lsa.toNat q.purpose

/-- A class has a request raised on a channel that can be granted. -/
def hasRequest (s : State) (ch : Nat) (c : Class) : Bool :=
  !(raisedOf s ch c).isEmpty || (decide (c = .drain) && !(drainQueue s ch).isEmpty)

/-- The grant of a channel lasts while a granted operation waits for its bank, and until its class drops its request or has performed the
operations of its burst limit (R181, R479). Ranks that were applied during it come into force as it ends (R183, R195). -/
def grantRule (s : State) (ch : Nat) : State :=
  match (chanAt s ch).arb.holder with
  | none => s
  | some g =>
    if ((reqsOf s ch).any fun q => decide (q.cls = g.cls) && decide (q.state = .bankWait)) ||
        (hasRequest s ch g.cls && decide (g.count < cfgFld s (Reg.ARB_BURST g.cls.num) 0 8)) then s
    else noteDepth (modChan s ch fun x => { x with arb := { x.arb with holder := none } }) ch

/-- A bank is free: a rank-0 operation that waits for it goes first, then a suspended program, then what else waits (R184). -/
def freeBank (s : State) (ch : Nat) (b : Fin 32) : State :=
  let mine := (reqsOf s ch).filter fun q => decide (bankOf s q = b)
  if mine.any fun q => decide (q.state = .running) then grantRule s ch else
  let first := mine.find? fun q => decide (q.state = .bankWait) && classRank s ch q.cls == 0
  let susp := mine.find? fun q => decide (q.state = .suspended)
  let other := mine.find? fun q => decide (q.state = .bankWait)
  let s := match first, susp, other with
    | some q, _, _ => runOp s q
    | none, some q, _ => modReq s q.id fun q => { q with state := .running }
    | none, none, some q => runOp s q
    | none, none, none => s
  grantRule s ch

/-- An operation is over: its bank goes to what waits for it. -/
def endReq (s : State) (q : MedReq) : State :=
  let b := bankOf s q
  freeBank (delReq s q.id) q.ch.val b

/-- Operations that wait for banks of a channel that have come free, because what held them is no longer wanted, go on. -/
def wakeBanks (s : State) (ch : Nat) : State :=
  (reqsOf s ch).foldl (fun s q =>
    if q.state = .bankWait ∨ q.state = .suspended then freeBank s ch (bankOf s q) else s) s

/-! ### Reads over their arbiter share (R191, R195) -/

/-- The first byte-level bound of a medium read in a band, ns (R191). -/
def mediumBound (band : Nat) : Nat :=
  match band with
  | 0 => 240
  | 4 => 245
  | _ => 230

/-- ARB_BOUND_EXCESS: a rank-0 read without a ladder step took longer than its arbiter share. -/
def excessRule (s : State) (q : MedReq) (out : Decoded) : State :=
  let ns := s.time.toNat - q.since
  if classRank s q.ch.val q.cls ≠ 0 ∨ out.step ≠ some 0 ∨ ns ≤ mediumBound s.thm.band - 41 then s else
  let s := raise (hwSat s Reg.ARB_BOUND_EXCESS 32 1) Reg.ARB_INT_STATUS 4
  let s := hwSet s Reg.ARB_LAST_EXCESS
    (fld (sat 16 ns) 0 ||| fld q.ch.val 16 ||| fld s.thm.band 22 ||| fld (sat 8 q.depth) 25 ||| flag true 33)
  evt s Ev.ARB_BOUND_EXCESS q.ch.val 0

/-! ### Grants (R181, R183) -/

/-- A channel applies the ranks of a commit (R183); the last one to do so ends the commit. -/
def applyRanks (s : State) (ch : Nat) : State :=
  if !(chanAt s ch).arb.pending then s else
  let s := modChan s ch fun x => { x with arb := { x.arb with ranks := hwGet s Reg.ARB_RANK_ACTIVE, pending := false } }
  let s := noteDepth s ch
  if (List.range 64).any fun k => (chanAt s k).arb.pending then s
  else raise (hwSat s Reg.ARB_COMMIT_COUNT 32 1) Reg.ARB_INT_STATUS 3

/-- The classes of a rank in the order of the rotation: from the one after the class last granted at that rank (R181). -/
def rotation (s : State) (ch rank : Nat) : List Class :=
  let cs := Class.all.filter fun c => classRank s ch c == rank
  match fget (chanAt s ch).arb.last rank with
  | none => cs
  | some l => cs.filter (fun c => l.num < c.num) ++ cs.filter fun c => c.num ≤ l.num

/-- The class a grant decision picks: the highest rank with a request raised, round-robin within it (R181). -/
def pickClass (s : State) (ch : Nat) : Option Class :=
  (List.range 8).findSome? fun rank => (rotation s ch rank).find? (hasRequest s ch)

/-- The operations a grant performs: at most `limit`, the oldest first; drains become requests as they are granted. -/
def grantedOps (s : State) (ch : Nat) (c : Class) (limit : Nat) : List Nat × State :=
  let ready := ((raisedOf s ch c).take limit).map (·.id)
  if c = .drain then
    let lsas := (drainQueue s ch).take (limit - ready.length)
    let first := s.med.nextReq
    (ready ++ (List.range lsas.length).map (first + ·), lsas.foldl (fun s lsa => addReq s .drain true lsa .drain) s)
  else (ready, s)

/-- A controller that serves two channels has granted one of them (R222). -/
def noteTurn (s : State) (ch : Nat) : State :=
  modMed s fun m => { m with turns := fput m.turns (chanAt s ch).server ch }

/-- A controller that serves two channels alternates its grants: it is a channel's turn unless the channel was granted last and the other
one has something to grant (R222). -/
def turnOf (s : State) (ch : Nat) : Bool :=
  let m := (chanAt s ch).server
  decide (fget s.med.turns m ≠ some ch) ||
    (servedBy s m).all fun o => o == ch || (chanAt s o).arb.holder.isSome || (pickClass s o).isNone

/-- A channel's arbiter makes a grant decision (R181): the class it picks starts its operations. -/
def grantStep (s : State) (ch : Nat) : State :=
  let s := applyRanks s ch
  match pickClass s ch with
  | none => s
  | some c =>
    let rank := classRank s ch c
    let r := grantedOps s ch c (cfgFld s (Reg.ARB_BURST c.num) 0 8)
    let s := modChan r.2 ch fun x => { x with arb := { x.arb with
      holder := some ⟨c, r.1.length, x.arb.ranks⟩, last := fput x.arb.last rank c } }
    let s := noteTurn s ch
    let s := pmcCount (hwAdd s (Reg.ARB_GRANTS c.num) 1) (0x400 + c.num) (some ch) 1
    grantRule (r.1.foldl startOp s) ch

/-- The holder of a grant that lasts has raised more requests: they are performed within it, up to the burst limit (R181). -/
def extendGrant (s : State) (ch : Nat) : State :=
  match (chanAt s ch).arb.holder with
  | none => s
  | some g =>
    let limit := cfgFld s (Reg.ARB_BURST g.cls.num) 0 8
    let r := grantedOps s ch g.cls (limit - g.count)
    let s := modChan r.2 ch fun x => { x with arb := { x.arb with holder := some { g with count := g.count + r.1.length } } }
    grantRule (r.1.foldl startOp s) ch

end Sys2Proof.Machine
end

