-- ==== Sys2Proof/Machine/Kerf.lean ====
section
/-! DEFINITION. The events of the kerf buffer: the dirty-region bitmap, merge fetches, drain age, FLUSH and LIMIT (chapter 5). -/

namespace Sys2Proof.Machine

/-! ### The dirty-region bitmap (R144, R145) -/

/-- Regions in ascending order, each once. -/
def mergeRegions (a b : List Nat) : List Nat := ((List.range 480).filter fun r => a.contains r || b.contains r)

/-- A region holds charged state: a charged slot, a pending delta, or, for the region that stands for queue state, a charged descriptor
(R141, R271). -/
def regionCharged (s : State) (r : Nat) : Bool :=
  (s.krf.slots.any fun e => lsaRegion e.1 == r && e.2.charged) ||
    (s.cnt.entries.any fun e => lsaRegion (pairSector e.1) == r) ||
    ((decide (firstBuffer s = some r) || decide (s.dbq.bitRegion = some r)) && decide (chargedQueues s ≠ 0))

/-- The regions whose bits are cleared: asked for, set, and clean. -/
def clearable (s : State) (rs : List (BitVec 9)) : List Nat :=
  (rs.map (·.toNat)).filter fun r => s.krf.bitmap.contains r && !regionCharged s r

/-- The bitmap, one sector, is programmed: alternately to two places (R144). -/
def saveBitmap (s : State) : State :=
  let s := writeInner s (Inner.bitmap.place s.krf.bitmapTurn.toNat) (Config.innerBytes 3 0 s.sealing.internal.toNat)
  { s with krf := { s.krf with bitmapTurn := !s.krf.bitmapTurn } }

/-- DIRTY_BITMAP_PROGRAM_DONE (R144): every bit asked for is set; the commands that waited for one go on. No program runs below −58 °C
(R207). -/
def execDirtyBitmapProgramDone (s : State) : Host.Outcome State Fault Refusal :=
  if s.krf.bitmapAsk = [] ∨ !coreUp s ∨ s.thm.coldHold then done s else
  let s := saveBitmap s
  done (settle { s with krf := { s.krf with bitmap := mergeRegions s.krf.bitmap s.krf.bitmapAsk, bitmapAsk := [] } })

/-- DIRTY_BITMAP_CLEAR (R145): the bits of regions that hold no charged state are cleared. -/
def execDirtyBitmapClear (regions : List (BitVec 9)) (s : State) : Host.Outcome State Fault Refusal :=
  if !coreUp s ∨ s.thm.coldHold then done s else
  let s := if (clearable s regions).isEmpty then s else saveBitmap s
  done { s with krf := { s.krf with bitmap := s.krf.bitmap.filter fun r => !(clearable s regions).contains r } }

/-! ### Merge fetches (R146 to R151) -/

/-- The fetch of a sector that runs. -/
def fetchOf (s : State) (lsa : Nat) : Option MedReq :=
  s.med.reqs.find? fun q => q.lsa.toNat == lsa && decide (q.purpose = .fetch) && decide (q.state = .running)

/-- The failure of a merge is counted and reported (R149). -/
def countMergeFail (s : State) (x : HostCmd) (lsa : Nat) (uncorr : Bool) : State :=
  let s := hwSat s (if uncorr then Reg.KRF_UNCORR_CNT else Reg.KRF_INTEG_CNT) 32 1
  let s := raise s Reg.KRF_INT_STATUS (if uncorr then 2 else 1)
  let s := hwSet s Reg.KRF_LAST_INTEG
    (fld (lsa * 256) 0 ||| flag uncorr 40 ||| flag true 41 ||| fld x.port.val 42 ||| fld x.chan.toNat 44)
  evt s (if uncorr then Ev.KRF_UNCORR else Ev.KRF_INTEG) noInst 0

/-- The fetched sector cannot be used: its slot is POISONED before the write that heads the queue completes with INTEG or UNCORR; its
place in the medium is retired; the others in the queue are handled in order (R149, R150, R216). The mark is not the peer's to repair (R329);
the extent's intent bit covers its record (R322, R328). -/
def mergeFails (s : State) (lsa : Nat) (slot : Slot) (uncorr : Bool) : State :=
  let s := poisonSlot s lsa { slot with queue := [], stamp := nextStamp s } 3
  let s := modMed (markMedium (takeStamp s) lsa 3 uncorr) fun m => { m with merged := if m.merged.contains lsa then m.merged else m.merged ++ [lsa] }
  let s := askIntent (formRecord s (liveRecord .poison (paOf lsa) 0) none) lsa
  match slot.queue with
  | [] => s
  | id :: rest =>
    let s := match cmdAt s id with
      | some x => refuseWrite (countMergeFail s x lsa uncorr) x (Resp.plain (if uncorr then .uncorr else .integ) 0)
      | none => s
    runQueue s lsa rest

/-- The sector of a merge has been opened: its queue is processed (R146, R149, R151). -/
def mergeOpened (s : State) (lsa : Nat) (slot : Slot) (r : Opened) : State :=
  match r with
  | .data d => runQueue (putSlot s lsa { slot with state := .clean, data := d, queue := [] }) lsa slot.queue
  | .stale => runQueue (putSlot s lsa { slot with state := .clean, data := 0, queue := [] }) lsa slot.queue
  | .poison =>
    runQueue (takeStamp (putSlot s lsa { slot with state := .poisoned, queue := [], stamp := nextStamp s })) lsa slot.queue
  | .uncorr => mergeFails s lsa slot true
  | .tagFail | .lsaFail => mergeFails s lsa slot false

/-- A merge fetch has decoded (R146, R149). -/
def mergeReturns (s : State) (lsa : Nat) (slot : Slot) (out : Decoded) : State :=
  let r := openSector s lsa out
  let m := markerCare (openCount (noteDecode s lsa out) .kfetch lsa r) lsa r
  if (slotAt m.2 lsa).isNone then m.2 else mergeOpened m.2 lsa slot m.1

/-- MERGE_FETCH_RETURN (R146 to R151): the fetch of a FETCHING slot that runs at the medium is over. -/
def execMergeFetchReturn (lsa : BitVec 32) (out : ReadOutcome) (s : State) : Host.Outcome State Fault Refusal :=
  match fetchOf s lsa.toNat, slotAt s lsa.toNat with
  | some q, some slot =>
    if coreUp s ∧ slot.state = .fetching ∧ blankAnswers s q then 
      let d := decodeRead s q out
      done (settle (mergeReturns (excessRule (endReq s q) q d) lsa.toNat slot d))
    else done s
  | _, _ => done s

/-! ### Drain age, FLUSH, LIMIT (R152, R157) -/

/-- DRAIN_AGE_TIMER (R152): a slot that has been DIRTY for AGE_US is eligible for drain. -/
def execDrainAgeTimer (lsa : BitVec 32) (s : State) : Host.Outcome State Fault Refusal :=
  match slotAt s lsa.toNat with
  | some x => if x.state = .dirty then done (putSlot s lsa.toNat { x with aged := true }) else done s
  | none => done s

/-- KRF_FLUSH (R152): KRF_CTRL.FLUSH is written as 1. -/
def execKrfFlush (s : State) : Host.Outcome State Fault Refusal :=
  if coreUp s then done (settle (setCfg (touch s Reg.KRF_CTRL) Reg.KRF_CTRL (putBit (cfg s Reg.KRF_CTRL) 0 true))) else done s

/-- A value written to LIMIT, brought within 64 to MAX (R157). -/
def clampLimit (s : State) (n : Nat) : Nat := if n < 64 then 64 else min n (bitsOf (hwGet s Reg.KRF_DIRTY_MAX) 0 11)

/-- LIMIT is written; an adjustment is reported (R157). -/
def writeLimit (s : State) (n : Nat) : State :=
  let v := clampLimit s n
  let s := setCfg s Reg.KRF_DIRTY_LIMIT (putBits (cfg s Reg.KRF_DIRTY_LIMIT) 0 11 v)
  if v = n then s else evt (raise s Reg.KRF_INT_STATUS 4) Ev.KRF_LIMIT_CLAMP noInst 0

/-- KRF_DIRTY_LIMIT_WRITE (R157). -/
def execKrfDirtyLimitWrite (limit : BitVec 11) (s : State) : Host.Outcome State Fault Refusal :=
  if coreUp s then done (settle (writeLimit (touch s Reg.KRF_DIRTY_LIMIT) limit.toNat)) else done s

end Sys2Proof.Machine
end

