-- ==== Sys2Proof/Machine/ReadPath.lean ====
section
/-! DEFINITION. The read path: grants, cut-in, the end of a medium read, ranks, locks, invalidations and the cache enable (chapter
6). -/

namespace Sys2Proof.Machine

/-! ### Grants and cut-in (R181, R184, R185) -/

/-- ARBITER_GRANT (R181): a grant decision of a channel whose last grant is over, on its controller's turn; or the next operations of a
grant that lasts. -/
def execArbiterGrant (ch : Chan) (s : State) : Host.Outcome State Fault Refusal :=
  if !coreUp s ∨ !medAwake s then done s else
  let s := grantRule (wakeBanks s ch.val) ch.val
  if (chanAt s ch.val).arb.holder ≠ none then done (settle (extendGrant s ch.val))
  else if turnOf s ch.val then done (settle (grantStep s ch.val))
  else done (settle s)

/-- The drain of a channel that DRAIN's rank lets cut in: that of the first slot in the order of R152, not yet a request. -/
def cutDrain (s : State) (ch : Nat) : Option Nat :=
  if classRank s ch .drain = 0 then (drainQueue s ch).head? else none

/-- The rank-0 request that can cut in: it can be granted, and its bank is free or holds an operation of another rank (R184, R185). Of
several, the oldest goes first, before a drain that is raised by its slot (DESIGN CHOICE, log entry 63). -/
def cutter (s : State) (ch : Nat) : Option MedReq :=
  (reqsOf s ch).find? fun q =>
    classRank s ch q.cls == 0 && (decide (q.state = .raised) || decide (q.state = .bankWait)) &&
      mayStart s q.cls q.program q.lsa.toNat q.purpose && (bankHolders s ch (bankOf s q)).all fun h => classRank s ch h.cls != 0

/-- What a bank holds gives way: a program is suspended, a read is abandoned and waits to be reissued (R184). -/
def giveWay (s : State) (h : MedReq) : State :=
  if h.state ≠ .running then s
  else if h.program then
    pmcCount (hwAdd (modReq s h.id fun q => { q with state := .suspended }) Reg.ARB_SUSPENDS 1) 0x411 (some h.ch.val) 1
  else modReq s h.id fun q => { q with state := .bankWait }

/-- An operation of another rank stands in the way: a class of another rank holds the grant, or, where none does or the request is granted
itself, the bank is taken. Between two classes at rank 0 there is no cut-in (R184, R185; log entry 23). -/
def cutNeeded (s : State) (ch : Nat) (q : MedReq) : Bool :=
  let taken := !(bankHolders s ch (bankOf s q)).isEmpty
  match (chanAt s ch).arb.holder with
  | some g => classRank s ch g.cls != 0 || (decide (q.state = .bankWait) && taken)
  | none => taken

/-- CUT_IN (R184): a rank-0 request runs ahead of the holder's next operation. -/
def execCutIn (ch : Chan) (s : State) : Host.Outcome State Fault Refusal :=
  let before := s
  let s := match cutter s ch.val, cutDrain s ch.val with
    | none, some lsa => addReq s .drain true lsa .drain
    | _, _ => s
  match cutter s ch.val with
  | none => done before
  | some q =>
    if !coreUp s ∨ !medAwake s ∨ !cfgBit s Reg.ARB_CTRL 0 ∨ !cutNeeded s ch.val q then done before else
    let s := (bankHolders s ch.val (bankOf s q)).foldl giveWay s
    let s := pmcCount (hwAdd s Reg.ARB_CUTINS 1) 0x410 (some ch.val) 1
    done (settle (grantRule (runOp s q) ch.val))

/-! ### The end of a medium read (R171, R197 to R206) -/

/-- SEAL_ERR_INJECT.ARM fails the next opened host read of a GENERAL region; the bit clears. -/
def injected (s : State) (q : MedReq) (r : Opened) : Opened × State :=
  let host : Bool := decide (q.cls = .hrd) && match q.purpose with | .cmd _ => true | _ => false
  match r with
  | .data _ =>
    if host && cfgBit s Reg.SEAL_ERR_INJECT 0 && decide ((regionAt s (lsaRegion q.lsa.toNat)).use = .general) then
      (if cfgBit s Reg.SEAL_ERR_INJECT 1 then .lsaFail else .tagFail,
       setCfg s Reg.SEAL_ERR_INJECT (putBit (cfg s Reg.SEAL_ERR_INJECT) 0 false))
    else (r, s)
  | _ => (r, s)

/-- The bytes that the kerf buffer holds of a sector now. -/
def slotBytes (s : State) (lsa : Nat) : Option Sector :=
  match slotAt s lsa with
  | none => none
  | some x => match x.state with | .clean | .dirty | .draining => some x.data | _ => none

/-- The bytes a read returns when a write has overtaken it: those from before the write, or those from after it (R478; a free bit). -/
def raced (s : State) (lsa : Nat) (d : Sector) : Sector × State :=
  match slotBytes s lsa with
  | none => (d, s)
  | some e => if e = d then (d, s) else (if (freeNow s).getLsbD 0 then e else d, freeNext s)

/-- The current bytes of a sector that a read of the medium found as d: those the caches may hold (R169). -/
def currentBytes (s : State) (lsa : Nat) (d : Sector) : Sector := (slotBytes s lsa).getD d

/-- A read places its sector; one that became poisoned under the read is not placed (R76, R171, R174). -/
def fillRead (s : State) (cls : Class) (lsa : Nat) (d : Sector) : State :=
  if isMarked s lsa then s else cacheFill s cls lsa (currentBytes s lsa d)

/-- A sector has become bad under a read: it is marked, unless the kerf buffer holds its bytes; then only its place is retired. -/
def readBad (s : State) (lsa cause : Nat) (lost : Bool) : State :=
  match slotAt s lsa with
  | some x =>
    match x.state with
    | .clean => retireCare s lsa
    | .dirty | .draining => markMedium s lsa cause lost
    | _ => foundBad s lsa cause lost
  | none => foundBad s lsa cause lost

/-- A command's read has its sector's bytes. -/
def deliver (s : State) (x : HostCmd) (lsa : Nat) (d : Sector) (source ladder : Nat) : State :=
  let r := raced s lsa d
  match x.op with
  | .lkup => leafReturned s x.id lsa true
  | .deq =>
    match x.resp with
    | some resp => freeDead (finishDeq s x d resp) (qidOf x.addr)
    | none => s
  | .crd => finishCrd s x (currentBytes s lsa d)
  | _ => finishRead r.2 x r.1 source ladder

/-- A command's read has failed: `st` is the status of the command that first found the sector bad (R74, R243, R268, R278). -/
def deliverBad (s : State) (x : HostCmd) (lsa : Nat) (st : Resp) : State :=
  match x.op with
  | .lkup => leafReturned s x.id lsa false
  | .deq => freeDead (deqPoison s x lsa ((x.resp.map (·.rlen)).getD 0) false) (qidOf x.addr)
  | _ => complete s x.id st

/-- The read of a command of a class ends: its data come from the place `source` (R110), at a ladder step. Where the sector is poisoned by
now, the command completes with POISON (R74). -/
def cmdRead (s : State) (cls : Class) (lsa : Nat) (x : HostCmd) (r : Opened) (source ladder : Nat) : State :=
  let poison : State := deliverBad s x lsa (Resp.bad .poison 1 x.op.rlen)
  let bad (status : Status) (lost : Bool) : State :=
    let s := readBad s lsa 3 lost
    match slotBytes s lsa with
    | some e => deliver s x lsa e 0 0
    | none => deliverBad s x lsa (Resp.bad status 0 x.op.rlen)
  if isMarked s lsa then poison else
  match r with
  | .data d => deliver (fillRead s cls lsa d) x lsa d source ladder
  | .stale => deliver (fillRead s cls lsa 0) x lsa 0 source ladder
  | .poison => poison
  | .uncorr => bad .uncorr true
  | .tagFail | .lsaFail => bad .integ false

/-- The ways a LOCK or PIN may take: any. -/
abbrev anyWay : Nat := 2 ^ 48 - 1

/-- The entry of a sector is marked as a lock command asks. -/
def markEntry (s : State) (lsa : Nat) (h : Hold) : State :=
  match cacheFind s lsa with
  | none => s
  | some (k, e) => putEntry s k { e with hold := h }

/-- The read of a lock command ends (R172, R173). -/
def lockRead (s : State) (lsa : Nat) (r : Opened) : State :=
  match s.rdp.lock with
  | none => s
  | some l =>
    let hold : Hold := if l.pin then .pinned else .locked
    let place (d : Sector) : State :=
      if isMarked s lsa then endLock s lsa 4 else
      let s := if (cacheFind s lsa).isSome then markEntry s lsa hold
        else if cacheOn s then cachePlace s anyWay lsa (currentBytes s lsa d) hold else s
      endLock s lsa (if (cacheFind s lsa).isSome then 0 else 2)
    match r with
    | .data d => place d
    | .stale => place 0
    | .poison => endLock s lsa 4
    | .uncorr => endLock (readBad s lsa 3 true) lsa 4
    | .tagFail | .lsaFail => endLock (readBad s lsa 3 false) lsa 4

/-- The read of a fold ends (R275, R278). -/
def foldRead (s : State) (lsa : Nat) (r : Opened) : State :=
  match foldOf s lsa with
  | none => s
  | some j =>
    let good (d : Sector) : State := foldValue (fillRead s .ctr lsa d) lsa j (currentBytes s lsa d)
    match r with
    | .data d => good d
    | .stale => good 0
    | .poison => abandonFold s lsa
    | .uncorr => foundBad s lsa 0 true
    | .tagFail | .lsaFail => foundBad s lsa 1 false

/-- A repair copy of a sector goes to the peer: its bytes in a SECTOR record flagged REPAIR, or a POISON record (R329). A mate answers while
the port is IN_SYNC only. -/
def sendRepair (s : State) (n : MPort) (lsa : Nat) (d : Option Sector) : State :=
  if s.mir.pairId.isNone ∨ !(regionAt s (lsaRegion lsa)).mirrored ∨ (isMate s ∧ !(s.mir.ports[n]).inSync) then s else
  match d with
  | some d => mirSend s n { liveRecord .sector (paOf lsa) d with repair := true } none
  | none => mirSend s n (liveRecord .poison (paOf lsa) 0) none

/-- The read that supplies the peer with a repair copy ends (R329). -/
def supplyRead (s : State) (n : MPort) (lsa : Nat) (r : Opened) : State :=
  if counterBad s lsa || isMarked s lsa then sendRepair s n lsa none else
  match r with
  | .data d => sendRepair s n lsa (some (currentBytes s lsa d))
  | .stale => sendRepair s n lsa (some (currentBytes s lsa 0))
  | .poison => sendRepair s n lsa none
  | .uncorr => let s := readBad s lsa 3 true; sendRepair s n lsa (slotBytes s lsa)
  | .tagFail | .lsaFail => let s := readBad s lsa 3 false; sendRepair s n lsa (slotBytes s lsa)

/-- The read of a sector of chunk descriptors ends: the sweep goes on after it (R270). -/
def sweepRead (s : State) (lsa : Nat) (r : Opened) : State :=
  let s := match r with
    | .uncorr => readBad s lsa 3 true
    | .tagFail | .lsaFail => readBad s lsa 3 false
    | _ => s
  modDbq s fun d => { d with sweepAt := sweepNumber lsa + 1 }

/-- The merge fetch of a sector ends with the data of a prefetch that ran (R146, R179). -/
def fetchRead (s : State) (lsa : Nat) (r : Opened) : State :=
  match slotAt s lsa with
  | some slot => if slot.state = .fetching then mergeOpened s lsa slot r else s
  | none => s

/-- A read of the medium, or of the side buffer, ends for what asked for it. -/
def serveRead (s : State) (cls : Class) (p : Purpose) (lsa : Nat) (r : Opened) (source ladder : Nat) : State :=
  match p with
  | .cmd id => match cmdAt s id with
    | some c => cmdRead s cls lsa c r source ladder
    | none => s
  | .lock => lockRead s lsa r
  | .foldRead => foldRead s lsa r
  | .sweep => sweepRead s lsa r
  | .supply n => supplyRead s n lsa r
  | .fetch => fetchRead s lsa r
  | _ => s

/-- A read that waited for a prefetch is served from its data, as from a side-buffer hit; a later one finds a sector that the first
found bad marked (R74, R179). -/
def serveJoined (s : State) (lsa : Nat) (r : Opened) (j : Class × Purpose) : State :=
  let r := if isMarked s lsa then .poison else r
  let s := match r with
    | .data _ | .stale => if j.1.counted then pmcCount (hwAdd s Reg.RDP_HITS 1) 0x301 (some (lsaChannel lsa)) 1 else s
    | _ => s
  serveRead s j.1 j.2 lsa r 1 0

/-- A prefetch ends: its sector enters the side buffer, or serves the reads that wait for it (R178, R179). -/
def prefetchRead (s : State) (q : MedReq) (r : Opened) : State :=
  let lsa := q.lsa.toNat
  let good (d : Sector) : State :=
    if cacheOn s ∧ (cacheFind s lsa).isNone ∧ (sideFind s lsa).isNone ∧ !isMarked s lsa then sidePush s lsa (currentBytes s lsa d) else s
  if q.joined = [] then
    match r with
    | .data d => good d
    | .stale => good 0
    | .poison => s
    | .uncorr => readBad s lsa 3 true
    | .tagFail | .lsaFail => readBad s lsa 3 false
  else
    let s := match r with
      | .data _ | .stale => hwAdd s Reg.RDP_PREF_USED 1
      | _ => s
    q.joined.foldl (fun s j => serveJoined s lsa r j) s

/-- An array read completes: it is decoded, opened and delivered (R205). Where a write has overtaken it, the slot's words are read too (R140,
R478). -/
def readDone (s : State) (q : MedReq) (cells : ReadOutcome) : State :=
  let lsa := q.lsa.toNat
  let out := decodeRead s q cells
  let s := excessRule (noteDecode (endReq s q) lsa out) q out
  let x := injected s q (openSector s lsa out)
  let x := markerCare (openCount x.2 q.cls lsa x.1) lsa x.1
  let s := slotCheck x.2 lsa
  let ladder := match out.step with | some k => k.val | none => 0
  if q.purpose = .prefetch then prefetchRead s q x.1 else serveRead s q.cls q.purpose lsa x.1 2 ladder

/-- MEDIUM_READ_DONE (R205): a read that runs is over. The read of a merge ends by MERGE_FETCH_RETURN. -/
def execMediumReadDone (req : Nat) (out : ReadOutcome) (s : State) : Host.Outcome State Fault Refusal :=
  match reqAt s req with
  | none => done s
  | some q =>
    if coreUp s ∧ q.state = .running ∧ !q.program ∧ q.purpose ≠ .fetch ∧ blankAnswers s q then done (settle (readDone s q out))
    else done s

/-! ### Ranks (R183) -/

/-- ARB_COMMIT.GO: the shadow is captured and every channel has it to apply. A GO while a commit is still pending replaces the ranks that
the remaining channels apply, and the two count as one commit (DESIGN CHOICE, log entry 63). -/
def commitRanks (s : State) : State :=
  let s := hwSet s Reg.ARB_RANK_ACTIVE (cfg s Reg.ARB_RANK_SHADOW &&& 0x777777777777)
  (List.range 64).foldl (fun s k => modChan s k fun x => { x with arb := { x.arb with pending := true } }) s

/-- ARB_COMMIT (R183). -/
def execArbCommit (s : State) : Host.Outcome State Fault Refusal := 
  if coreUp s then done (commitRanks (touch s Reg.ARB_COMMIT)) else done s

/-- ARB_RANK_APPLY_DEADLINE (R183): the channels that have made no grant decision apply the ranks. -/
def execArbRankApplyDeadline (s : State) : Host.Outcome State Fault Refusal := done ((List.range 64).foldl applyRanks s)

/-! ### Locks (R172, R173) -/

/-- Locked and pinned entries of a channel. -/
def heldWays (s : State) (ch : Nat) : Nat := ((waysOf s ch).filter fun e => decide (e.2.hold ≠ .ordinary)).length

/-- A LOCK or PIN begins: it fails, marks the entry, or loads the sector. In a channel that holds 32 it fails, one of a sector already held
included (R173); the order of the tests is log entry 22's. One that only the side buffer holds is placed from there, with no
medium read, and counts as used (DESIGN CHOICE, log entry 63). -/
def startLock (s : State) (lsa : Nat) (pin : Bool) : State :=
  let r := regionAt s (lsaRegion lsa)
  let hold : Hold := if pin then .pinned else .locked
  if 0xF0000000 ≤ lsa then endLock s lsa 5
  else if (r.use ≠ .general ∧ r.use ≠ .table) ∨ r.lost then endLock s lsa 3
  else if isMarked s lsa then endLock s lsa 4
  else
    let s := match cacheFind s lsa, sideFind s lsa with
      | none, some e =>
        let ch := lsaChannel lsa
        if heldWays s ch < 32 then
          cachePlace (hwAdd (putSide s ch ((sideOf s ch).filter fun x => x.lsa.toNat != lsa)) Reg.RDP_PREF_USED 1) anyWay lsa e.data
            .ordinary
        else s
      | _, _ => s
    match cacheFind s lsa with
    | some _ => if 32 ≤ heldWays s (lsaChannel lsa) then endLock s lsa 2 else endLock (markEntry s lsa hold) lsa 0
    | none =>
      if 32 ≤ heldWays s (lsaChannel lsa) ∨ !cacheOn s then endLock s lsa 2
      else askMedium (modRdp s fun v => { v with lock := some { lsa := BitVec.ofNat 32 lsa, pin := pin } }) .hrd lsa .lock

/-- An UNLOCK (R172). -/
def unlockEntry (s : State) (lsa : Nat) : State :=
  match cacheFind s lsa with
  | none => endLock s lsa 1
  | some (_, e) => if e.hold = .ordinary then endLock s lsa 1 else endLock (markEntry s lsa .ordinary) lsa 0

/-- RDP_LOCK_CMD.GO with an OP: 0 LOCK, 1 PIN, 2 UNLOCK; ignored while a command runs, and for OP 3. -/
def lockGo (s : State) (lsa op : Nat) : State :=
  if s.rdp.lock.isSome then s else
  let s := setCfg s Reg.RDP_LOCK_CMD (fld lsa 8 ||| fld op 40 ||| flag true 63)
  match op with
  | 0 => startLock s lsa false
  | 1 => startLock s lsa true
  | 2 => unlockEntry s lsa
  | _ => setCfg s Reg.RDP_LOCK_CMD (putBit (cfg s Reg.RDP_LOCK_CMD) 63 false)

/-- RDP_LOCK (R172). -/
def execRdpLock (lsa : BitVec 32) (s : State) : Host.Outcome State Fault Refusal :=
  if coreUp s then done (settle (lockGo (touch s Reg.RDP_LOCK_CMD) lsa.toNat 0)) else done s

/-- RDP_PIN (R172). -/
def execRdpPin (lsa : BitVec 32) (s : State) : Host.Outcome State Fault Refusal :=
  if coreUp s then done (settle (lockGo (touch s Reg.RDP_LOCK_CMD) lsa.toNat 1)) else done s

/-- RDP_UNLOCK (R172). -/
def execRdpUnlock (lsa : BitVec 32) (s : State) : Host.Outcome State Fault Refusal :=
  if coreUp s then done (lockGo (touch s Reg.RDP_LOCK_CMD) lsa.toNat 2) else done s

/-! ### Range invalidation and the cache enable (R175, R176, R194) -/

/-- The entries of a captured range are dropped. -/
def dropRange (s : State) (i : Inval) : State := invalidate s i.base.toNat i.limit.toNat i.locked

/-- INVAL_CTRL.GO: range and flag are captured; the range is dropped now, or after the invalidation that runs (R175). -/
def invalGo (s : State) (locked : Bool) : State :=
  let i : Inval := { base := BitVec.ofNat 32 (cfgFld s Reg.RDP_INVAL_BASE 8 32), limit := BitVec.ofNat 32 (cfgFld s Reg.RDP_INVAL_LIMIT 8 32),
                     locked := locked }
  let s := setCfg s Reg.RDP_INVAL_CTRL (putBit (putBit (cfg s Reg.RDP_INVAL_CTRL) 0 false) 1 locked)
  let first := s.rdp.invals.isEmpty
  let s := modRdp s fun r => { r with invals := r.invals ++ [i] }
  if first then dropRange s i else s

/-- RANGE_INVALIDATION (R175). -/
def execRangeInvalidation (includeLocked : Bool) (s : State) : Host.Outcome State Fault Refusal :=
  if coreUp s then done (invalGo (touch s Reg.RDP_INVAL_CTRL) includeLocked) else done s

/-- INVALIDATION_DONE (R175): the invalidation that runs is complete; the next one starts. -/
def execInvalidationDone (s : State) : Host.Outcome State Fault Refusal :=
  match s.rdp.invals with
  | [] => done s
  | _ :: rest =>
    let s := raise (modRdp s fun r => { r with invals := rest }) Reg.RDP_INT_STATUS 0
    match rest with
    | i :: _ => done (dropRange s i)
    | [] => done s

/-- RDP_CTRL.CACHE_EN is written: 0 drops the ordinary entries, every side-buffer entry and the prefetches that wait (R179, R194). -/
def setCacheEn (s : State) (on : Bool) : State :=
  let s := setCfg s Reg.RDP_CTRL (putBit (cfg s Reg.RDP_CTRL) 0 on)
  if on then s else
  let s := modRdp s fun r => { r with cache := r.cache.filter fun e => decide (e.2.hold ≠ .ordinary) }
  let s := s.rdp.side.foldl (fun s e => wasted (putSide s e.1 []) e.1 e.2.length) s
  dropReqs s fun q => decide (q.purpose = .prefetch) && decide (q.state = .raised) && q.joined.isEmpty

/-- CACHE_EN (R194). -/
def execCacheEn (on : Bool) (s : State) : Host.Outcome State Fault Refusal :=
  if coreUp s then done (setCacheEn (touch s Reg.RDP_CTRL) on) else done s

end Sys2Proof.Machine
end

