-- ==== Sys2Proof/Machine/MedOps.lean ====
section
/-! DEFINITION. Shared operations of medium care: the end of a program, rewrites, gap steps, and the level of the steady rest (chapters
6 and 7). -/

namespace Sys2Proof.Machine

/-! ### The end of a program (R153, R216, R218, R228) -/

/-- A sector's program has verified: what waited for its newest bytes is told, unless its slot, or firmware, has newer ones still to be
programmed (R70, R250, R279). -/
def programmed (s : State) (lsa : Nat) : State :=
  if (slotAt s lsa).any Slot.charged ∨ s.lke.writes.contains (BitVec.ofNat 32 lsa) then s else
  clearVerified (modLke s fun l =>
    { l with commit := l.commit.map fun c => { c with wait := c.wait.filter fun n => n.toNat != lsa } }) lsa

/-- A drain is counted (KRF_DRAINED). -/
def countDrain (s : State) : State := pmcCount (hwAdd s Reg.KRF_DRAINED 1) 0x203 none 1

/-- A drain of bytes follows a WR256 where its sector was poisoned: it covers every write of the sector that was given up (R69, R75). -/
def coverLost (s : State) (lsa : Nat) : State :=
  let kept := (s.krf.gaveUp.map fun e => (e.1, e.2.filter fun p => p.1 != lsa)).filter fun e => !e.2.isEmpty
  { s with krf := { s.krf with gaveUp := kept } }

/-- The slot of a drain that has verified: CLEAN, or DIRTY again if it was written meanwhile, and then eligible at once if a leaf of a commit
was (R153, R250); the slot of a marker is freed. -/
def settleSlot (s : State) (lsa : Nat) (marker : Bool) : State :=
  match slotAt s lsa with
  | none => s
  | some x =>
    match x.state with
    | .draining =>
      if x.rewritten then
        takeStamp (putSlot s lsa { x with state := .dirty, snapshot := none, snapWriters := [], rewritten := false, stamp := nextStamp s,
                                          aged := x.aged || agedAtOnce s })
      else takeStamp (putSlot s lsa { x with state := .clean, snapshot := none, snapWriters := [], used := nextStamp s })
    | .poisoned => if marker then freeSlot s lsa else s
    | _ => s

/-- A drain of bytes, or of a marker, has verified (R153). -/
def drainVerified (s : State) (lsa : Nat) (data : Option Sector) : State :=
  match sealPlan s lsa with
  | none => s
  | some p =>
    let s := if data.isSome then coverLost s lsa else s
    programmed (settleSlot (countDrain (countPsi (landProgram s lsa data p) lsa)) lsa data.isNone) lsa

/-- A sector is rewritten as it is with a fresh EPOCH and SESSION (R206, R208, R210); a stale one as zero bytes under the region's major
(R303); one that no key seals keeps its bits. -/
def rewriteSector (s : State) (lsa : Nat) : State :=
  countPsi (landCopy s lsa (storedMeta s lsa) (openCell s lsa).content (cellAt s lsa)) lsa

/-- A sector that waited for a rewrite in class SCRUB is read through the sealing engine and rewritten; one that fails its check is marked
(R206, R210, R287). -/
def refreshSector (s : State) (lsa : Nat) : State :=
  let r := markerCare s lsa (openCell s lsa)
  let s := openCount r.2 .scrub lsa (openCell s lsa)
  match r.1 with
  | .tagFail | .lsaFail => careBad s lsa false
  | _ => programmed (rewriteSector s lsa) lsa

/-- What a rebuild write takes: the region's current key and major, whether or not a re-key runs (R303, R305). -/
def rebuildPlan (s : State) (lsa : Nat) : Option SealPlan :=
  let r := regionAt s (lsaRegion lsa)
  (slotKey s r.slot).map fun key =>
    let m := minorUnder (storedMeta s lsa) lsa r.major r.ceiling
    ⟨key, r.major, m.1, false, m.2⟩

/-- A sector of a rebuild, of a repair or of a re-creation is over: the next follows (R228, R329, R331, R352). -/
def rebuildStep (s : State) (lsa : Nat) : State :=
  match recreating s (lsaRegion lsa) with
  | some m => recreateStep s m (lsaRegion lsa) lsa
  | none => rebuildRecord s lsa true

/-- A rebuild write has verified: the mate's data, zero bytes of a re-creation, or the marker of a sector that the mate holds poisoned (R228,
R331, R352). -/
def rebuildVerified (s : State) (lsa : Nat) (d : Option Sector) : State :=
  let was := isMarked s lsa
  let s := match rebuildPlan s lsa with
    | some p => landProgram s lsa d p
    | none => s
  let s := if was && !isMarked s lsa then clearMark s lsa
    else if !was && isMarked s lsa then counterPoison (countPoison s (lsaRegion lsa) true) lsa 3
    else s
  rebuildStep (programmed s lsa) lsa

/-- A sector of a mirror journal has been programmed, sealed under the internal key, with bytes whose format the device keeps to itself (R214,
R285, R321). -/
def journalVerified (s : State) (lsa : Nat) : State := writeInner s lsa (Config.innerBytes 14 lsa s.sealing.internal.toNat)

/-- The retirement of a block has copied a sector: its slot lies in the spare block from now on (R215, R217). A sector that has left the slot
meanwhile is passed over: the slot's present one is copied next. -/
def blockCopied (s : State) (b lsa : Nat) : State :=
  match blockMove s b with
  | none => s
  | some j =>
    match nextSlot s j with
    | none => blockRule s j
    | some i =>
      let n := (blockSlots b).1 + i
      if sectorIn s n ≠ lsa then blockRule s j
      else if isExhausted s lsa then blockRule (holdSector s lsa) j
      else
        let k := { j with next := i + 1 }
        let f (m : Medium) : Medium :=
          { m with sectorMap := fdel m.sectorMap n, moves := m.moves.map fun x => if x.block = b then k else x }
        blockRule (copySector (remapSlot s n f) lsa Decoded.clean id) k

/-- A program of a request has verified. -/
def programVerified (s : State) (q : MedReq) : State :=
  let lsa := q.lsa.toNat
  match q.purpose with
  | .drain => drainVerified s lsa q.data
  | .foldProgram =>
    match foldOf s lsa with
    | some j => putFold s lsa { j with ready := true }
    | none => s
  | .refresh => refreshSector s lsa
  | .retire => retireAt s lsa
  | .block b => blockCopied s b lsa
  | .rebuild => rebuildVerified s lsa q.data
  | .journal _ => journalVerified s lsa
  | _ => s

/-- A sector whose program failed four times is marked poisoned in place, and MCH_SPARE_EXHAUSTED raised with its PA (R218). `was`: it
was marked before. -/
def markInPlace (s : State) (lsa : Nat) (was : Bool) : State :=
  let s := setBad s lsa false
  let s := if was then s else counterPoison (cacheDrop (countPoison s (lsaRegion lsa) true) lsa) lsa 3
  putMarker (spareExhausted s lsa) lsa

/-- The kerf slot of a program that is given up is freed, and the writes it held are lost; each stream's are kept for its PERSISTs (R69,
R218). -/
def loseSlot (s : State) (lsa : Nat) : State :=
  match slotAt s lsa with
  | none => s
  | some x =>
    if x.state = .fetching then s else
    freeSlot { s with krf := { s.krf with gaveUp := noteLost s.krf.gaveUp lsa x } } lsa

/-- The slot of a block that is retired cannot be copied: it stays where it is, and the retirement goes on after it. -/
def skipSlot (s : State) (b : Nat) : State :=
  match blockMove s b with
  | none => s
  | some j =>
    match nextSlot s j with
    | none => s
    | some i =>
      let n := (blockSlots b).1 + i
      let k := { j with next := i + 1 }
      let at_ := retiredSlot s.med n
      let f (m : Medium) : Medium :=
        { m with sectorMap := fput m.sectorMap n at_, moves := m.moves.map fun x => if x.block = b then k else x }
      blockRule (modMed s f) k

/-- A program is given up, with no spare left to take it: the sector is marked in place; a kerf slot's write is lost (R218). Firmware
writes a leaf again (R243); a rebuild has a gap (R228); a journal that loses records puts its port in overflow (R321); a slot that was to be
retired stays, a bad one with its marker. -/
def giveUp (s : State) (q : MedReq) : State :=
  let lsa := q.lsa.toNat
  match q.purpose with
  | .journal n => mirOverflow s n
  | .block b => skipSlot s b
  | .retire => if fhas s.med.marks lsa then putMarker (spareExhausted s lsa) lsa else s
  | _ =>
  let was := isMarked s lsa
  let s := if q.purpose = .drain then loseSlot s lsa else s
  let s := markInPlace s lsa was
  let s := if s.lke.commit.any fun c => c.wait.contains (BitVec.ofNat 32 lsa) then askLeafWrite s lsa else s
  if q.purpose = .rebuild then
    (match recreating s (lsaRegion lsa) with
      | some m => recreateAgain s m (lsaRegion lsa) lsa
      | none => rebuildRecord (noteGap s (lsaRegion lsa)) lsa false)
  else s

/-- The program of a block's copy goes to a spare of its own: the retirement goes on after its slot, and the sector is programmed there. -/
def blockSpare (s : State) (q : MedReq) (b : Nat) : Bool × State :=
  match (blockMove s b).bind fun j => (nextSlot s j).map fun i => (j, i) with
  | none => (false, s)
  | some (j, i) =>
    let k := { j with next := i + 1 }
    let r := retireSlot s q.ch.val ((blockSlots b).1 + i)
    if r.1 then
      (true, modReq (modMed r.2 fun m => { m with moves := m.moves.map fun x => if x.block = b then k else x }) q.id fun q =>
        { q with purpose := .refresh })
    else r

/-- Both attempts of a program at its slot have failed: the slot is retired and the program goes to the spare; without one it is tried
once more in place, then given up (R216, R218). The program that goes to the spare is a retirement copy: it takes its minor from what the
retired slot held (R289. DEDUCED, log entry 73). Below −58 °C it waits (R207). A retirement takes another spare. -/
def programFailed (s : State) (q : MedReq) : State :=
  let ch := q.ch.val
  let r := match q.purpose with
    | .retire =>
      (match takeSectorSpare s ch with
        | some (_, t) => (true, t)
        | none => (false, raise s (Reg.MCH_CAUSE ch) 7))
    | .block b => blockSpare s q b
    | _ => retireSlot s ch (levelledSlot s q.lsa.toNat)
  if r.1 then (if programsRun s then r.2 else restartOp r.2 q)
  else if q.fails = 0 then modReq r.2 q.id fun q => { q with fails := 1 }
  else giveUp (endReq r.2 q) q

/-- A program that runs at the medium has ended. -/
def programDone (s : State) (q : MedReq) (out : ProgramOutcome) : State :=
  match out with
  | .verified => programVerified (endReq s q) q
  | .failed => programFailed s q

/-! ### Grants of the medium's own steps -/

/-- The decision of a channel's arbiter falls on a class that a step raises a request of: no grant lasts, no request of a higher rank or
ahead in the rotation is raised, and it is the channel's turn at its controller (R181, R182, R222). -/
def stepPicked (s : State) (ch : Nat) (c : Class) : Bool :=
  let s := applyRanks s ch
  decide ((chanAt s ch).arb.holder = none) && turnOf s ch &&
    decide (((List.range 8).findSome? fun rank => (rotation s ch rank).find? fun k => k == c || hasRequest s ch k) = some c)

/-- A step of a class at rank 0 cuts in: a class at another rank holds the grant, and the sector's bank is free or holds an operation of
another rank (R184, R185). -/
def stepCuts (s : State) (c : Class) (lsa : Nat) : Bool :=
  let ch := lsaChannel lsa
  cfgBit s Reg.ARB_CTRL 0 && classRank s ch c == 0 && (chanAt s ch).arb.holder.any (fun g => classRank s ch g.cls != 0) &&
    (bankHolders s ch (Config.bankOf (placeOf s lsa))).all fun h => classRank s ch h.cls != 0

/-- No operation holds, or is suspended on, the bank of a physical slot (R479). -/
def bankFree (s : State) (ch place : Nat) : Bool := (bankHolders s ch (Config.bankOf place)).isEmpty

/-- A step that reads and programs a sector within itself is granted the medium, and the sector's bank is free; or it cuts in (R181, R184,
R479). -/
def stepGranted (s : State) (c : Class) (lsa : Nat) : Bool :=
  (stepPicked s (lsaChannel lsa) c && bankFree s (lsaChannel lsa) (placeOf s lsa)) || stepCuts s c lsa

/-- A channel's arbiter grants the medium to a step that does its n reads and programs within itself: as many grants as its burst limit makes
of them (R181). The step is whole, so nothing cuts into it (R184; 95_what_each_step_holds.md). -/
def ownGrant (s : State) (ch : Nat) (c : Class) (n : Nat) : State :=
  let s := applyRanks s ch
  let rank := classRank s ch c
  let s := modChan s ch fun x => { x with arb := { x.arb with last := fput x.arb.last rank c } }
  let limit := max 1 (cfgFld s (Reg.ARB_BURST c.num) 0 8)
  let k := (n + limit - 1) / limit
  pmcCount (hwAdd (noteTurn s ch) (Reg.ARB_GRANTS c.num) k) (0x400 + c.num) (some ch) k

/-- A step cuts in: a program in its bank is suspended and resumed after it, a read abandoned and issued again (R184). -/
def cutStep (s : State) (lsa : Nat) : State :=
  let ch := lsaChannel lsa
  let k := ((bankHolders s ch (Config.bankOf (placeOf s lsa))).filter fun h => h.program && decide (h.state = .running)).length
  let s := if k = 0 then s else pmcCount (hwAdd s Reg.ARB_SUSPENDS k) 0x411 (some ch) k
  pmcCount (hwAdd s Reg.ARB_CUTINS 1) 0x410 (some ch) 1

/-- The medium goes to a step for its sectors of one channel, `n` operations each: by a grant, or by cutting in. -/
def stepGrant (s : State) (c : Class) (n : Nat) : List Nat → State
  | [] => s
  | lsa :: rest =>
    if stepPicked s (lsaChannel lsa) c then ownGrant s (lsaChannel lsa) c (n * (rest.length + 1))
    else (lsa :: rest).foldl cutStep s

/-- The program that a step makes at a levelled slot: where it fails the slot is retired and the program goes to a spare, as often as it fails;
with no spare left it is tried once more in place. The result is false where that fails too (R216, R218). -/
def tryProgram (s : State) (ch n : Nat) : List ProgramOutcome → Bool × State
  | .failed :: rest =>
    let r := retireSlot s ch n
    if r.1 then tryProgram r.2 ch n rest
    else match rest with
      | .failed :: _ => (false, r.2)
      | _ => (true, r.2)
  | _ => (true, s)

/-- A step programs a sector at its place: `land` where its program verifies; else the sector is marked in place (R218). -/
def stepProgram (s : State) (lsa : Nat) (outs : List ProgramOutcome) (land : State → State) : State :=
  let r := tryProgram s (lsaChannel lsa) (levelledSlot s lsa) outs
  if r.1 then land r.2 else markInPlace (loseSlot r.2 lsa) lsa (isMarked s lsa)

/-! ### Gap steps (R213 to R215) -/

/-- The slot whose sector the next gap step of a domain moves. -/
def gapSource (v : Domain) : Nat := if v.gap = 0 then domainSectors else v.gap - 1

/-- A domain after a gap step (R213). -/
def gapMoved (v : Domain) : Domain :=
  { v with gap := gapSource v, start := if v.gap = 0 then (v.start + 1) % domainSectors else v.start, due := v.due - 1 }

/-- A gap step: one read and one program of class MOVE; a sector found bad is moved as a marker, and its slot retired (R214 to R216,
R289). The domains of the reserved area are levelled alike (R213). -/
def gapStep (s : State) (d : Nat) (cells : ReadOutcome) : State :=
  let v := domAt s d
  let lsa := lsaOfSlot d (gapSource v) v
  let ch := lsaChannel lsa
  let out := decodeNow s lsa cells
  let s := noteDecode (stepGrant s .move 2 [lsa]) lsa out
  let r := openSector s lsa out
  let bad := decide (r = .uncorr) || decide (r = .tagFail) || decide (r = .lsaFail)
  let was := isMarked s lsa
  let src := d * domainSlots + gapSource v
  let move (s : State) : State :=
    putDom (modMed s fun m => { m with cells := fdel m.cells (retiredSlot m src) }) d (gapMoved (domAt s d))
  let p := tryProgram s ch (d * domainSlots + v.gap) out.programs
  let s := copySector p.2 lsa out move
  let s := if bad then (retireSlot s ch src).2 else s
  let s := if bad && !was then askRepair s lsa else s
  if p.1 then s else markInPlace s lsa (isMarked s lsa)

/-! ### The scrub (R206, R208 to R210) -/

/-- A sector is exhausted under the old major of its region's re-key (R289, R303). -/
def exhaustedOld (s : State) (lsa : Nat) (k : Rekey) : Bool :=
  !(storedMeta s lsa).any (fun c => decide (c.major = (regionAt s (lsaRegion lsa)).major)) &&
    exhausted (storedMeta s lsa) lsa k.oldMajor k.oldCeiling

/-- A scrub meets a sector that it skips: a DRAINING slot, a program under way, an exhausted sector, the current group of a walk, a sector at
or above its parting line that is exhausted under the old major, or a sector of the reserved area that is not in use (R208, R210, R215, R292,
R303). -/
def scrubSkips (s : State) (lsa : Nat) : Bool :=
  (slotAt s lsa).any (fun x => decide (x.state = .draining)) || medBusy s lsa (fun q => q.program && decide (q.state ≠ .raised)) ||
    isExhausted s lsa || s.sealing.held.contains (BitVec.ofNat 32 lsa) || (isInner lsa && !fhas s.med.cells (placeOf s lsa)) ||
    match (regionAt s (lsaRegion lsa)).rekey with
    | some k => decide (k.parting ≤ lsa % regionSectors) && (decide (lsa % regionSectors < k.parting + 64) || exhaustedOld s lsa k)
    | none => false

/-- The decodes of a blank's scrub: those of the last 65,536 that were uncorrectable; at 1/64 of them its content is lost (R226). Before
65,536 sectors have been read since the reset there is no such window, and nothing is judged (DESIGN CHOICE, log entry 74). -/
def countScrub (s : State) (b : Blank) (uncorr : Bool) : State :=
  let v := s.med.blanks[b]
  let n := v.scrubbed + 1
  let bad := (if uncorr then v.scrubBad ++ [n] else v.scrubBad).filter fun k => n < k + 65536
  let s := modBlank s b fun v => { v with scrubbed := n, scrubBad := bad }
  if 65536 ≤ n ∧ 1024 ≤ bad.length then blankFail s b true else s

/-- The scrub reads a sector of the medium and rewrites it (R210). -/
def scrubMedium (s : State) (lsa : Nat) (out : Decoded) : State :=
  let b := blankOf (lsaRegion lsa)
  let was := medBusy s lsa fun q => decide (q.purpose = .refresh)
  let s := noteDecode s lsa out
  let s := if was then s else dropReqs s fun q => q.lsa.toNat == lsa && decide (q.purpose = .refresh)
  let r := openSector s lsa out
  let m := markerCare (openCount s .scrub lsa r) lsa r
  let s := countScrub m.2 b out.step.isNone
  if (s.med.blanks[b]).state = .failed then s else
  match m.1 with
  | .uncorr => careBad s lsa true
  | .tagFail | .lsaFail => careBad s lsa false
  | _ => stepProgram s lsa out.programs fun s => programmed (rewriteSector s lsa) lsa

/-- A scrub step of a sector: the slot of a DIRTY sector, or its marker, is programmed; otherwise the medium's copy is rewritten (R208,
R210). The sectors of the reserved area in use are scrubbed alike. -/
def scrubSector (s : State) (lsa : Nat) (cells : ReadOutcome) : State :=
  let s := slotCheck s lsa
  if scrubSkips s lsa then s else
  let out := decodeNow s lsa cells
  let s := stepGrant s .scrub 2 [lsa]
  match slotAt s lsa with
  | some x =>
    match x.state with
    | .dirty => stepProgram (beginDrain s lsa) lsa out.programs fun s => drainVerified s lsa (some x.data)
    | .poisoned => stepProgram s lsa out.programs fun s => drainVerified s lsa none
    | _ => scrubMedium s lsa out
  | none => scrubMedium s lsa out

/-- While the interval in force of a blank falls, its scrub takes the oldest sectors first (R209). -/
def oldestFirst (s : State) (ch lsa : Nat) : Bool :=
  (blankCells s (blankOf (ch / 8))).all fun e => e.1 != ch || cellAge s ch e.2 ≤ cellAge s ch (cellAt s lsa)

/-- The sector is the next one that the scrub of a channel takes: at or after the place its cycle has reached, in address order, or, while
it catches up, among the oldest (R208, R209). -/
def scrubNext (s : State) (ch lsa : Nat) : Bool :=
  if catchingUp s (blankOf (ch / 8)) then oldestFirst s ch lsa else decide ((chanAt s ch).scrubAt ≤ lsa)

/-- The scrub of a channel has passed a sector in address order. -/
def passScrub (s : State) (ch lsa : Nat) : State :=
  if catchingUp s (blankOf (ch / 8)) then s else modChan s ch fun c => { c with scrubAt := lsa + 1 }

/-- A channel's scrub cycle completes and the next begins: the alias guard ends, the cycle's weak sectors are forgotten (R203, R206). -/
def endCycle (s : State) (ch : Nat) : State :=
  modChan s ch fun c => { c with guard := false, weak := [], scrubAt := 0, cycleOn := s.glb.powerOns, cycleAt := s.time.toNat / 65536000000 }

/-! ### The level of the steady rest (R186) -/

/-- Thresholds of an input: SOFT, HARD, CLEAR. -/
def restThresholds (s : State) (k : Nat) : Nat × Nat × Nat :=
  let o := [Reg.ARB_REST_KERF, Reg.ARB_REST_SCRUB, Reg.ARB_REST_FOLD, Reg.ARB_REST_MOVE].getD k 0
  (cfgFld s o 0 8, cfgFld s o 8 8, cfgFld s o 16 8)

/-- The first of the inputs of which something holds. -/
def firstInput (s : State) (p : Nat → Nat × Nat × Nat → Bool) : Option Nat :=
  let v := restInputs s
  (List.range 4).find? fun k => p (v.getD k 0) (restThresholds s k)

/-- The level that R186 gives, and the input that decides it; a fall is put down to the first input at its greatest value. -/
def restLevel (s : State) : Level × Nat :=
  let v := restInputs s
  let top := (List.range 4).foldl (fun a k => if v.getD a 0 < v.getD k 0 then k else a) 0
  match firstInput s fun x t => decide (t.2.1 ≤ x), firstInput s fun x t => decide (t.1 ≤ x) with
  | some k, _ => (.hard, k)
  | none, some k => (.soft, k)
  | none, none =>
    if (firstInput s fun x t => decide (t.2.2 ≤ x)).isNone then (.none, top)
    else if s.med.level = .hard then (.soft, top)
    else (s.med.level, top)

/-- The level changes (R186): buckets of the steady rest start full as it leaves NONE. -/
def changeLevel (s : State) (new : Level) (input : Nat) : State :=
  let from_ := s.med.level
  if from_ = new then s else
  let s := fillBuckets s
  let s := if from_ = .none then
      (List.finRange 4).foldl (fun s p => modPort s p fun q =>
        { q with restBucket := ⟨bucketCap, s.time.toNat⟩, bufBucket := ⟨bucketCap, s.time.toNat⟩ }) s
    else s
  let s := modMed s fun m => { m with level := new }
  let s := hwSet s Reg.ARB_REST_LAST (fld from_.num 0 ||| fld new.num 2 ||| fld input 4 ||| flag true 6)
  match new with
  | .none => evt (raise s Reg.ARB_INT_STATUS 2) Ev.ARB_REST_CLEAR noInst input
  | .soft => evt (raise s Reg.ARB_INT_STATUS 0) Ev.ARB_REST_SOFT noInst input
  | .hard => evt (raise s Reg.ARB_INT_STATUS 1) Ev.ARB_REST_HARD noInst input

end Sys2Proof.Machine
end

