-- ==== Sys2Proof/Machine/Medium.lean ====
section
/-! DEFINITION. Medium care: programs, the steady rest, the scrub, levelling, the settling pass, and failing controllers, dies and blanks
(chapters 6 and 7). -/

namespace Sys2Proof.Machine

/-- MEDIUM_PROGRAM_DONE (R153): a program that runs at the medium has verified, or has failed twice at its slot. -/
def execMediumProgramDone (req : Nat) (out : ProgramOutcome) (s : State) : Host.Outcome State Fault Refusal :=
  match reqAt s req with
  | none => done s
  | some q => if coreUp s ∧ q.state = .running ∧ q.program ∧ blankAnswers s q then done (settle (programDone s q out)) else done s

/-- STEADY_REST_EVAL (R186). -/
def execSteadyRestEval (s : State) : Host.Outcome State Fault Refusal :=
  if coreUp s then
    let r := restLevel s
    done (settle (changeLevel s r.1 r.2))
  else done s

/-! ### Scrub and levelling (R203, R208 to R215) -/

/-- The medium takes a step of its own on a sector: the controllers are awake, its blank takes it, and programs run. -/
def stepRuns (s : State) (lsa : Nat) : Bool := coreUp s && medAwake s && programsRun s && blankTakes s lsa .refresh

/-- The scrub of a channel takes a sector: a DRAINING one, or one that it must skip, without the medium; any other once its request of class
SCRUB is granted (R210). -/
def scrubRuns (s : State) (ch lsa : Nat) : Bool :=
  decide (lsaChannel lsa = ch) && (scrubSkips (slotCheck s lsa) lsa || stepGranted s .scrub lsa)

/-- SCRUB_STEP (R208): the scrub of a channel reads and rewrites its next sector, of user space or of the reserved area. -/
def execScrubStep (ch : Chan) (lsa : BitVec 32) (out : ReadOutcome) (cycleEnds : Bool) (s : State) :
    Host.Outcome State Fault Refusal :=
  if !stepRuns s lsa.toNat ∨ !cfgBit s (Reg.BLK_CTRL (ch.val / 8)) 0 ∨ !scrubNext s ch.val lsa.toNat ∨ !scrubRuns s ch.val lsa.toNat then done s
  else
    let t := scrubSector s lsa.toNat out
    done (settle (if cycleEnds then endCycle t ch.val else passScrub t ch.val lsa.toNat))

/-- The next gap step of a domain can be taken: it is due, no other program of its sector is under way or held, and the banks of the slot it
reads and of the gap it programs are free (R214, R215, R292, R479). -/
def gapReady (s : State) (d : Nat) : Bool :=
  let v := domAt s d
  let lsa := lsaOfSlot d (gapSource v) v
  decide (0 < v.due) && stepRuns s lsa && canProgram s lsa && stepGranted s .move lsa &&
    bankFree s (lsaChannel lsa) (retiredSlot s.med (d * domainSlots + v.gap))

/-- GAP_STEP (R214). -/
def execGapStep (domain : Fin 3968) (out : ReadOutcome) (s : State) : Host.Outcome State Fault Refusal :=
  if gapReady s domain.val then done (settle (gapStep s domain.val out)) else done s

/-- Ticks that a channel's scrub cycle has run, as far as GLB_TIME can tell: since it began, or since the power-on reset after that. -/
def cycleTicks (s : State) (c : Channel) : Nat := if c.cycleOn = s.glb.powerOns then ticksNow s - c.cycleAt else ticksNow s

/-- The alias guard is called for (R203). -/
def guardDue (s : State) (c : Channel) : Bool :=
  decide (c.cycleOn.toNat + 255 ≤ s.glb.powerOns.toNat) || decide (32768 ≤ cycleTicks s c)

/-- ALIAS_GUARD_BEGIN (R203). -/
def execAliasGuardBegin (ch : Chan) (s : State) : Host.Outcome State Fault Refusal :=
  let c := chanAt s ch.val
  if coreUp s ∧ guardDue s c ∧ !c.guard then
    let b := ch.val / 8
    done (evt (raise (modChan s ch.val fun c => { c with guard := true }) (Reg.BLK_INT_STATUS b) 8) Ev.BLK_ALIAS_GUARD b 0)
  else done s

/-! ### The settling pass (R211, R212, R226) -/

/-- A channel needs no settling: it has settled, or its blank has failed. -/
def settledOrLost (s : State) (ch : Nat) : Bool :=
  (chanAt s ch).settled || decide ((s.med.blanks[blankOf (ch / 8)]).state = .failed)

/-- STATE follows BOUNDS once forwarding is ready (R34, R449). -/
def stateRule (s : State) : State :=
  if s.glb.state = .fwdReady ∧ s.glb.bounds then { s with glb := { s.glb with state := .operational } } else s

/-- Forwarding-ready (R449 step 7): FWD, STATE and GLB_READY_TIME; the lookup engines, the queue engine and the counter folder are ready. -/
def releaseForwarding (s : State) : State :=
  let s := { s with glb := { s.glb with fwd := true, state := .fwdReady }
                    dbq := { s.dbq with ready := true }
                    cnt := { s.cnt with ready := true } }
  stateRule (hwSet s Reg.GLB_READY_TIME (BitVec.ofNat 64 (sat 32 ((s.time - s.glb.releasedAt).toNat / 1000))))

/-- Every channel of every blank has settled: BOUNDS, and BLK_SETTLE_DONE for each blank (R211). -/
def boundsRule (s : State) : State :=
  if s.glb.bounds ∨ !(List.range 64).all (settledOrLost s) then s else
  let s := { s with glb := { s.glb with bounds := true } }
  let s := hwSet s Reg.GLB_SETTLE_TIME (BitVec.ofNat 64 (sat 32 ((s.time - s.glb.releasedAt).toNat / 1000000)))
  stateRule ((List.range 8).foldl (fun s b => evt s Ev.BLK_SETTLE_DONE b 0) s)

/-- Samples of a channel's pass: 8,192 after a power-on reset, else 512 (R211). -/
def settleSamples (s : State) : Nat := if s.glb.held.kind = .powerOn then 8192 else 512

/-- The SETTLED reference code of a channel's blank in the band in force (R211). -/
def settledCode (s : State) (ch : Nat) : Nat := (refsNow s (blankOf (ch / 8))).getD 7 0

/-- The samples of a channel's pass, each decoded at the SETTLED reference with offset 0 (R211). -/
def sampleDecodes (s : State) (ch : Nat) (samples : List (BitVec 32)) (first : List ReadOutcome) : List (Nat × Decoded) :=
  (samples.zip first).map fun e => (e.1.toNat, decodeFrom s e.1.toNat (settledCode s ch) e.2)

/-- The samples that are sensed again, each with its answer: those that needed a ladder step (R211). -/
def samplesAgain (ds : List (Nat × Decoded)) (again : List ReadOutcome) : List (Nat × ReadOutcome) :=
  ((ds.zip again).filter fun e => decide (e.1.2.step ≠ some 0)).map fun e => (e.1.1, e.2)

/-- The 2 MiB of a channel's 16 GiB in which a sector number lies (R211): its sectors are those of user space, of the reserved area and, from
`poolBase` on, the slots of the channel's spare pool. -/
def pieceOf (lsa : Nat) : Nat := lsaRegion lsa / 8 * 128 + logicalIndex lsa / 8192

/-- A list of numbers rises strictly. -/
def rising : List Nat → Bool
  | a :: b :: rest => decide (a < b) && rising (b :: rest)
  | _ => true

/-- The samples of a channel's pass, each with its answer: as many as the pass takes, at most one from each 2 MiB (R211). -/
def samplesFit (s : State) (ch : Nat) (samples : List (BitVec 32)) (first : List ReadOutcome) : Bool :=
  decide (samples.length = settleSamples s) && decide (first.length = samples.length) &&
    samples.all (fun x => lsaChannel x.toNat == ch) && rising (samples.map fun x => pieceOf x.toNat)

/-- A channel's pass ends: its blank answers, and the last sample is granted the medium in class SCRUB, its bank free (R181, R211, R224,
R479). -/
def passRuns (s : State) (ch : Nat) (samples : List (BitVec 32)) : Bool :=
  coreUp s && decide (s.glb.state ≠ .boot) && !settledOrLost s ch && medAwake s && readsRun s .scrub &&
    decide ((s.med.blanks[blankOf (ch / 8)]).state ≠ .outage) && stepPicked s ch .scrub &&
    samples.getLast?.all fun x => bankFree s ch (placeOf s x.toNat)

/-- One sample is counted, and cared for: an uncorrectable one is marked, one that decoded is refreshed or retired (R206, R211, R216). A slot
of the spare pool is only sensed. -/
def settleSample (s : State) (e : Nat × Decoded) : State :=
  if poolBase ≤ e.1 then countDecode s (lsaChannel e.1) e.2 else
  let s := noteDecode s e.1 e.2
  if e.2.step.isNone ∧ !isMarked s e.1 then careBad s e.1 true else s

/-- The samples of a channel's pass: too many uncorrectable ones show the blank's content lost; else each is handled alone (R211, R216,
R226). Their reads, and those at the nine offsets, are granted in class SCRUB by its burst limit (R181; log entry 63). -/
def settleCare (s : State) (ch : Nat) (ds : List (Nat × Decoded)) (resensed : Nat) : State :=
  let s := ownGrant s ch .scrub (ds.length + 9 * resensed)
  if settleSamples s ≤ 16 * (ds.filter fun e => e.2.step.isNone).length then
    blankFail (ds.foldl (fun s e => countDecode s ch e.2) s) (blankOf (ch / 8)) true
  else ds.foldl settleSample s

/-- SETTLING_PASS_DONE (R211). -/
def execSettlingPassDone (ch : Chan) (samples : List (BitVec 32)) (first again : List ReadOutcome) (s : State) :
    Host.Outcome State Fault Refusal :=
  if !passRuns s ch.val samples ∨ !samplesFit s ch.val samples first then done s
  else
    let b := ch.val / 8
    let ds := sampleDecodes s ch.val samples first
    let more := samplesAgain ds again
    let offset := settleOffset s (settledCode s ch.val) more
    let s := modChan s ch.val fun c => { c with settled := true, offset := BitVec.ofInt 8 offset }
    let s := settleCare s ch.val ds more.length
    let s := if (List.range 8).all fun j => settledOrLost s (8 * b + j) then raise s (Reg.BLK_INT_STATUS b) 4 else s
    done (settle (boundsRule s))

/-- SETTLE_LATE (R212): a pass has not finished 4 s after reset release. -/
def execSettleLate (s : State) : Host.Outcome State Fault Refusal :=
  if !coreUp s ∨ s.glb.bounds ∨ s.glb.state = .boot then done s
  else
    let late := (List.range 8).filter fun b => !(List.range 8).all fun j => settledOrLost s (8 * b + j)
    done (late.foldl (fun s b => evt (raise s (Reg.BLK_INT_STATUS b) 5) Ev.BLK_SETTLE_LATE b 0) s)

/-! ### Controllers, dies, blanks (R219 to R225) -/

/-- A controller holds work that is not suspended (R219). -/
def holdsWork (s : State) (m : Nat) : Bool :=
  (servedBy s m).any fun ch => (reqsOf s ch).any fun q => decide (q.state = .running)

/-- MCH_WATCHDOG_EXPIRY (R219). -/
def execMchWatchdogExpiry (m : Mch) (s : State) : Host.Outcome State Fault Refusal :=
  if coreUp s ∧ holdsWork s m.val then done (settle (mchFail s m 1)) else done s

/-- MCH_DATAPATH_ERROR (R219). -/
def execMchDatapathError (m : Mch) (s : State) : Host.Outcome State Fault Refusal :=
  if coreUp s then done (settle (mchFail s m 2)) else done s

/-- MCHnn_CTRL.FORCE_FAIL is written as 1: it acts in OPERATIONAL only, and hardware clears it (R219, R229). -/
def forceMch (s : State) (m : Mch) : State := if s.glb.state = .operational then mchFail s m 3 else s

/-- MCH_FORCE_FAIL (R219). -/
def execMchForceFail (m : Mch) (s : State) : Host.Outcome State Fault Refusal :=
  if coreUp s then done (settle (forceMch (touch s (Reg.MCH_CTRL m.val)) m)) else done s

/-- DIE_PORT_FAULT (R223). -/
def execDiePortFault (b : Blank) (die : Fin 18) (s : State) : Host.Outcome State Fault Refusal :=
  if coreUp s then done (settle (dieFail s b die)) else done s

/-- BLANK_OUTAGE (R224): the blank's operations wait, and the first blank reset begins. A blank whose content is lost stays FAILED. -/
def execBlankOutage (b : Blank) (s : State) : Host.Outcome State Fault Refusal :=
  let v := s.med.blanks[b]
  if coreUp s ∧ v.state = .failed ∧ v.hwOk ∧ !v.down then
    done (evt (raise (modBlank s b fun v => { v with down := true, resets := 0 }) (Reg.BLK_INT_STATUS b.val) 1) Ev.BLK_OUTAGE b.val 0)
  else if coreUp s ∧ (v.state = .normal ∨ v.state = .degraded) then
    done (settle (evt (raise (modBlank s b fun v => { v with state := .outage, resets := 0 }) (Reg.BLK_INT_STATUS b.val) 1)
      Ev.BLK_OUTAGE b.val 0))
  else done s

/-- BLANK_RESET_TIMEOUT (R224): a blank reset ends. The blank answers and its operations are restarted, or it is reset again, or, after
the third reset, it fails with HW_OK = 0. -/
def execBlankResetTimeout (b : Blank) (answers : Bool) (s : State) : Host.Outcome State Fault Refusal :=
  let v := s.med.blanks[b]
  if !coreUp s ∨ (v.state ≠ .outage ∧ !v.down) then done s
  else if answers then
    let s := modBlank s b fun v =>
      { v with state := if v.state = .failed then .failed else if v.die.isSome then .degraded else .normal, down := false, resets := 0 }
    let s := (List.range 8).foldl (fun s j => restartOps s (8 * b.val + j)) s
    done (settle (evt (raise s (Reg.BLK_INT_STATUS b.val) 2) Ev.BLK_RECOVERED b.val 0))
  else if v.resets < 2 then done (modBlank s b fun v => { v with resets := v.resets + 1 })
  else done (settle (blankFail s b false))

end Sys2Proof.Machine
end

