-- ==== Sys2Proof/Machine/Walk.lean ====
section
/-! DEFINITION. Forced re-keys and the walk of a live re-key (chapter 10). -/

namespace Sys2Proof.Machine

/-- The region whose forced re-key starts next: the lowest that waits and has no re-key running (R291). -/
def nextForced (s : State) : Option (Nat × Fin 64) :=
  (forcedWaiting s).findSome? fun r =>
    let x := regionAt s r
    match x.rekey, x.slot with
    | none, some k => some (r, k)
    | _, _ => none

/-- FORCED_REKEY_START (R291). -/
def execForcedRekeyStart (s : State) : Host.Outcome State Fault Refusal :=
  match freeUnit s, nextForced s with
  | some u, some (r, k) => if coreUp s ∧ s.glb.state.serves then done (settle (startRekey s u r k true)) else done s
  | _, _ => done s

/-- What a program of the walk takes: the new key and major with minor 0 (R302). -/
def walkPlan (r : Region) (key : BitVec 256) : SealPlan := ⟨key, r.major, 0, false, r.ceiling⟩

/-- Sectors of a group. -/
def groupOf (r parting : Nat) : List Nat := (List.range 64).map fun i => regionBase r + parting + i

/-- A sector of the group is stored under the new major already: the walk skips it (case 1 of R302). -/
def walkSkips (s : State) (lsa : Nat) : Bool := decide ((cellAt s lsa).major = (regionAt s (lsaRegion lsa)).major)

/-- A sector of the group must be waited for: it is FETCHING or DRAINING, or a program of it is under way, or the medium is not granted
to its read (R181, R215, R302, R479). -/
def walkWaits (s : State) (lsa : Nat) : Bool :=
  !walkSkips s lsa &&
    ((slotAt s lsa).any (fun x => decide (x.state = .fetching) || decide (x.state = .draining)) || programRuns s lsa ||
      !stepGranted s .rekey lsa)

/-- A sector's new contents are programmed under the new key. -/
def walkLand (s : State) (lsa : Nat) (key : BitVec 256) (data : Option Sector) : State :=
  landProgram (hwAdd s Reg.SEAL_REKEY_SECTORS 1) lsa data (walkPlan (regionAt s (lsaRegion lsa)) key)

/-- A sector of the walk is bad: it is marked and its marker is programmed under the new key; no command receives a status (R216,
R302). -/
def walkBad (s : State) (lsa : Nat) (key : BitVec 256) (lost : Bool) : State :=
  let was := isMarked s lsa
  let r := retireSlot (setMark s lsa 3 lost) (lsaChannel lsa) (levelledSlot s lsa)
  let s := if r.1 then r.2 else spareExhausted r.2 lsa
  let s := walkLand s lsa key none
  if was then s else askRepair s lsa

/-- The walk reads a sector of the medium and re-seals it: cases 4 to 7 of R302. An LSA mismatch counts as a failed check, case 6 (DEDUCED
from R287, log entry 74); a marker that fails its check stays a marker. -/
def walkMedium (s : State) (lsa : Nat) (key : BitVec 256) (out : Decoded) : State :=
  let s := noteDecode s lsa out
  let r := openSector s lsa out
  let s := openCount s .rekey lsa r
  match r with
  | .data d => walkLand s lsa key (some d)
  | .stale => walkLand s lsa key (some 0)
  | .poison => walkLand s lsa key none
  | .uncorr => walkBad (evt s Ev.SEAL_TAG_FAIL (lsaChannel lsa) 0) lsa key true
  | .tagFail | .lsaFail => walkBad s lsa key false

/-- One sector of the group, by the first case of R302 that applies. -/
def walkSector (s : State) (lsa : Nat) (key : BitVec 256) (cells : ReadOutcome) : State :=
  if walkSkips s lsa then s else
  let s := slotCheck s lsa
  let out := decodeNow s lsa cells
  match slotAt s lsa with
  | some x =>
    match x.state with
    | .dirty => stepProgram (beginDrain s lsa) lsa out.programs fun s =>
      programmed (settleSlot (countDrain (countPsi (walkLand (coverLost s lsa) lsa key (some x.data)) lsa)) lsa false) lsa
    | .poisoned => stepProgram s lsa out.programs fun s =>
      programmed (settleSlot (countDrain (countPsi (walkLand s lsa key none) lsa)) lsa true) lsa
    | _ => stepProgram s lsa out.programs fun s => walkMedium s lsa key out
  | none => stepProgram s lsa out.programs fun s => walkMedium s lsa key out

/-- PARTING advances past the group; past the region's last sector the re-key is complete (R302, R304). -/
def advanceParting (s : State) (r : Nat) (k : Rekey) : State :=
  let p := k.parting + 64
  if regionSectors ≤ p then endRekey s r
  else
    let s := modRegion s r fun x => { x with rekey := x.rekey.map fun k =>
      { k with parting := p, recorded := if p % 4096 = 0 then p else k.recorded } }
    if p % 4096 = 0 then saveInner s (.descriptor r) else s

/-- A walk goes on: WALK_EN, its region not LOST, the channels of its blank in service, and no sector of its group to be waited for
(R302, R305). -/
def walkRuns (s : State) (r : Nat) (k : Rekey) : Bool :=
  cfgBit s Reg.SEAL_CTRL 0 && !(regionAt s r).lost && stepRuns s (regionBase r) && !(groupOf r k.parting).any (walkWaits s)

/-- REKEY_WALK_GROUP (R302): the next 64 sectors of a walk unit's region are re-sealed; `outs` says how their reads decode. -/
def execRekeyWalkGroup (unit : Fin 4) (outs : List ReadOutcome) (s : State) : Host.Outcome State Fault Refusal :=
  match s.sealing.units[unit] with
  | none => done s
  | some r =>
    let x := regionAt s r.toNat
    match x.rekey, slotKey s x.slot with
    | some k, some key =>
      if walkRuns s r.toNat k ∧ 64 ≤ outs.length then
        let g := groupOf r.toNat k.parting
        let todo := g.filter fun n => !walkSkips s n
        let s := ((todo.map lsaChannel).eraseDups).foldl (fun s ch => stepGrant s .rekey 2 (todo.filter fun n => lsaChannel n == ch)) s
        let s := (g.zip outs).foldl (fun s e => walkSector s e.1 key e.2) s
        done (settle (advanceParting s r.toNat k))
      else done s
    | _, _ => done s

end Sys2Proof.Machine
end

