-- ==== Sys2Proof/Machine/Mirror.lean ====
section
/-! DEFINITION. The mirror ports: links, sessions, the frames that arrive, catch-up and seeds (chapter 11). -/

namespace Sys2Proof.Machine

/-! ### The links (R311, R313) -/

/-- REFCLK_HP passes its cross-count and a fitted, enabled port may come up (R96, R311, R333). -/
def mirMayLink (s : State) (n : MPort) : Bool :=
  coreUp s && (s.mir.ports[n]).fitted && cfgBit s (Reg.MIR_CTRL n.val) 0 && s.clk.hp.ok

/-- MIR_PCS_LOCK (R311). -/
def execMirPcsLock (n : MPort) (s : State) : Host.Outcome State Fault Refusal :=
  if mirMayLink s n ∧ !(s.mir.ports[n]).linkUp then
    done (raise (modMir s n fun x => { x with linkUp := true, helloSent := none }) (Reg.MIR_INT_STATUS n.val) 0)
  else done s

/-- MIR_LINK_DOWN (R324). -/
def execMirLinkDown (n : MPort) (s : State) : Host.Outcome State Fault Refusal := done (settle (mirLinkLost s n))

/-- MIRn_LAST_ERR takes a cause. -/
def mirErr (s : State) (n : MPort) (cause : Nat) : State := hwSet s (Reg.MIR_LAST_ERR n.val) (fld cause 0 ||| flag true 4)

/-- MIRn_LAST_ERR.CAUSE of a discard. -/
def causeNum : RxCause → Nat
  | .fcs => 1 | .address => 2 | .etherType => 3 | .malformed => 4 | .icv => 5 | .noSa => 6 | .replay => 7 | .unprotected => 8 | .eapol => 10

/-- A discard of MACsec. -/
def causeMacsec : RxCause → Bool
  | .icv | .noSa | .replay | .unprotected => true
  | _ => false

/-- A frame is discarded and counted (R313). -/
def discardFrame (s : State) (n : MPort) (cause : RxCause) : State :=
  let s := mirErr (hwSat s (Reg.MIR_RX_DISCARD n.val) 32 1) n (causeNum cause)
  if causeMacsec cause then raise (hwSat s (Reg.MIR_MACSEC_ERR n.val) 32 1) (Reg.MIR_INT_STATUS n.val) 7 else s

/-- What the FEC of a port has seen is counted (MIRn_FEC). -/
def fecSeen (s : State) (n : MPort) (v : FecSeen) : State :=
  let w := hwGet s (Reg.MIR_FEC n.val)
  hwSet s (Reg.MIR_FEC n.val) (fld (sat 32 (bitsOf w 0 32 + v.corr)) 0 ||| fld (sat 32 (bitsOf w 32 32 + v.uncorr)) 32)

/-- The check of a frame's SecTAG (R312): a port that protects takes no frame without one; one that is there names an association that is
valid and loaded, its packet number lies within the replay window, its ICV is right. -/
def secCause (s : State) (n : MPort) (tag : Option SecTag) : Option RxCause :=
  let x := s.mir.ports[n]
  let ctrl := Reg.MIR_MACSEC_CTRL n.val
  match tag with
  | none => if macsecOn s n then some .unprotected else none
  | some t =>
    match fget x.rxSa t.an.toNat with
    | none => some .noSa
    | some a =>
      if !cfgBit s ctrl (4 + t.an.toNat) then some .noSa
      else if t.pn.toNat + cfgFld s ctrl 8 16 < (nextPn x.rxPn t.an.toNat).toNat then some .replay
      else if a ≠ t.sa then some .icv
      else none

/-- Why a port discards a frame, if it does: its FCS, EAPOL and PAUSE, the addresses, the VLAN tag, MACsec, the EtherType, the header, in
this order (R311 to R313; the order is a DESIGN CHOICE, log entry 69). -/
def frameCause (s : State) (n : MPort) (e : Envelope) (fcsOk headerOk : Bool) : Option RxCause :=
  if !fcsOk then some .fcs
  else if e.etype = 0x888E then some .eapol
  else if e.etype = 0x8808 then some .etherType
  else if e.da ≠ (txEnvelope s n).sa ∨ e.sa ≠ (txEnvelope s n).da then some .address
  else if e.vlan then some .etherType
  else match secCause s n e.sec with
    | some c => some c
    | none => if e.etype ≠ (txEnvelope s n).etype then some .etherType else if headerOk then none else some .malformed

/-- A frame's packet number has been received (R312). -/
def notePn (s : State) (n : MPort) (tag : Option SecTag) : State :=
  match tag with
  | none => s
  | some t => modMir s n fun x =>
      { x with rxPn := fput x.rxPn t.an.toNat (if (nextPn x.rxPn t.an.toNat).toNat ≤ t.pn.toNat then t.pn + 1 else nextPn x.rxPn t.an.toNat) }

/-- A port hears frames: the device is up, and so is the link. -/
def hears (s : State) (n : MPort) : Bool := coreUp s && (s.mir.ports[n]).linkUp

/-- Why an Idnauc frame is discarded, if it is; `fits`: its body has the form of its TYPE (R313). -/
def frameFault (s : State) (f : MirFrame) (fits : Bool) : Option RxCause :=
  frameCause s f.port f.env true (fits && decide (f.version = 1))

/-- An Idnauc frame is discarded. -/
def frameBad (s : State) (f : MirFrame) (c : RxCause) : State := discardFrame (fecSeen s f.port f.fec) f.port c

/-- An Idnauc frame is taken. -/
def frameTaken (s : State) (f : MirFrame) : State := notePn (fecSeen s f.port f.fec) f.port f.env.sec

/-- RX_DISCARD (R313): a frame that nothing makes bad is none that this row discards. -/
def execRxDiscard (n : MPort) (x : RxFrame) (s : State) : Host.Outcome State Fault Refusal :=
  if !hears s n then done s else
  match frameCause s n x.env x.fcsOk x.headerOk with
  | some c => done (discardFrame (fecSeen s n x.fec) n c)
  | none => done s

/-! ### Acknowledgement by the peer (R317 to R319, R326) -/

/-- Serial arithmetic modulo 2^48: a comes before b (R317). -/
def seqBefore (a b : BitVec 48) : Bool := decide (a ≠ b) && decide ((b - a).toNat < 2 ^ 47)

/-- RETAINED: the oldest sequence number the sender still holds for resending (R313). -/
def retainedOf (x : MirPort) : BitVec 48 := (x.out.findSome? fun t => t.seq).getD x.txSeq

/-- A record that ACKSEQ acknowledges. -/
def ackedBy (ackSeq : BitVec 48) (t : TxRecord) : Bool := match t.seq with | some q => seqBefore q ackSeq | none => false

/-- The commands of acknowledged records need wait for the mate no more; a record whose region the mate has refused is not held by it
(R319, R326). -/
def freeAcked (s : State) (ts : List TxRecord) : State :=
  let ids := (ts.filter fun t => !(mirRegion s (recordRegion t.record)).detached).filterMap fun t => t.cmd
  if ids.isEmpty then s else
  { s with cmds := s.cmds.map fun x => if ids.contains x.id then { x with mateWait := false } else x }

/-- A port still owes the peer something of an extent: a record, or its place in a catch-up. -/
def owesExtent (s : State) (n : MPort) (key : Nat) : Bool :=
  let x := s.mir.ports[n]
  x.catchup.contains key || x.missed.contains key || x.out.any fun t => recordExtent t == key

/-- Once a port is IN_SYNC and nothing of an extent is owed by either port, the mate holds every write of it, those included whose records
were discarded and made good by a catch-up or a seed (R323, R326; DEDUCED, log entry 43). -/
def syncHeld (s : State) (n : MPort) : State :=
  let x := s.mir.ports[n]
  if !x.session ∨ !x.inSync ∨ x.overflow then s else
  { s with cmds := s.cmds.map fun c =>
      let r := regionOf c.addr
      let key := intentKey (sectorOf c.addr)
      if c.mateWait ∧ portFor s r = n ∧ !owesExtent s 0 key ∧ !owesExtent s 1 key ∧ !(mirRegion s r).detached ∧ !seeding s r
        then { c with mateWait := false } else c }

/-- A port with nothing sent and unacknowledged leaves overflow: a catch-up runs (R321, R323). -/
def leaveOverflow (s : State) (n : MPort) : State :=
  let x := s.mir.ports[n]
  if x.overflow ∧ x.session ∧ x.out.isEmpty then startCatchup (modMir s n fun x => { x with overflow := false }) n else s

/-- ACKSEQ acknowledges what this port has sent: it lies between the latest one and the next number to assign (R317). -/
def ackFits (x : MirPort) (ackSeq : BitVec 48) : Bool := !seqBefore x.txSeq ackSeq && !seqBefore ackSeq x.acked

/-- The records before the peer's ACKSEQ are acknowledged: they leave the port, and frees what waited for them (R319). -/
def dropAcked (s : State) (n : MPort) (ackSeq : BitVec 48) : State :=
  let gone := (s.mir.ports[n]).out.filter (ackedBy ackSeq)
  freeAcked (modMir s n fun x => { x with out := x.out.filter fun t => !ackedBy ackSeq t, acked := ackSeq }) gone

/-- What a port goes on with after records have been acknowledged: an overflow ends, more records are sent, held writes are freed (R318, R321,
R326). -/
def afterAck (s : State) (n : MPort) : State :=
  let s := leaveOverflow s n
  syncHeld (mirPump s n (journalBytes s.mir.ports[n])) n

/-- The peer's ACKSEQ, from the header of any frame of a session (R313, R319). -/
def takeAck (s : State) (n : MPort) (ackSeq : BitVec 48) : State :=
  let x := s.mir.ports[n]
  if ackFits x ackSeq then afterAck (dropAcked s n ackSeq) n else s

/-- A frame of a session: the device is up and paired, and the port has a session. -/
def inSession (s : State) (n : MPort) : Bool := coreUp s && s.mir.pairId.isSome && (s.mir.ports[n]).session

/-- The peer refuses records of a region: it is detached, and nothing more is sent for it until a seed (R319). -/
def detach (s : State) (n : MPort) (r : Nat) : State :=
  if !(regionAt s r).mirrored then s else
  let s := modMirRegion s r fun m => { m with detached := true }
  modMir s n fun x =>
    { x with
      out := x.out.filter fun t => !(decide (t.seq = none) && recordRegion t.record == r)
      seed := if x.seed.any fun d => d.region.toNat == r then none else x.seed
      seedWait := x.seedWait.filter fun e => e.1.toNat != r
      catchup := x.catchup.filter fun k => k / 512 != r
      catchAt := if x.catchup.headD 0 / 512 = r then 0 else x.catchAt
      missed := x.missed.filter fun k => k / 512 != r }

/-- An ACK is taken (R319). -/
def ackIn (s : State) (n : MPort) (ackSeq : BitVec 48) (refused : List (BitVec 9)) : State :=
  if !inSession s n then s else
  let s := refused.foldl (fun s r => detach s n r.toNat) s
  reachSync (takeAck s n ackSeq) n

/-- ACK (R319). -/
def execAck (f : MirFrame) (ackSeq : BitVec 48) (refused : List (BitVec 9)) (s : State) : Host.Outcome State Fault Refusal :=
  if !hears s f.port then done s else
  match frameFault s f (decide (refused.length ≤ 64)) with
  | some c => done (frameBad s f c)
  | none => done (settle (ackIn (frameTaken s f) f.port ackSeq refused))

/-- Every record sent and not acknowledged is sent again, in order (R318). -/
def resend (s : State) (n : MPort) : State :=
  let again := (s.mir.ports[n]).out.filterMap fun t => t.seq.map fun q => (q, t.record)
  pmcCount (hwSat (sendRecords s n again) (Reg.MIR_RESENDS n.val) 32 again.length) 0xA01 (some n.val) again.length

/-- A NAK is taken: the records from ACKSEQ onward are sent again, then new ones (R318). -/
def nakIn (s : State) (n : MPort) (ackSeq : BitVec 48) : State :=
  if !inSession s n then s
  else if ackFits (s.mir.ports[n]) ackSeq then afterAck (resend (dropAcked s n ackSeq) n) n
  else s

/-- NAK (R318). -/
def execNak (f : MirFrame) (ackSeq : BitVec 48) (s : State) : Host.Outcome State Fault Refusal :=
  if !hears s f.port then done s else
  match frameFault s f true with
  | some c => done (frameBad s f c)
  | none => done (settle (nakIn (frameTaken s f) f.port ackSeq))

/-! ### Records received (R316 to R319) -/

/-- A record of a port's peer is not admitted yet: none behind it can be (R318). -/
def recordWaits (s : State) (n : MPort) : Bool :=
  !(s.mir.ports[n]).inbox.isEmpty ||
    s.cmds.any fun x => (match x.origin with | .mate m _ _ _ => decide (m = n) | .stream _ _ => false) &&
      (match x.stage with | .ordered | .charge => true | _ => false)

/-- Records are taken in sequence, each admitted before the next; one already taken is passed over. At a gap, or at a record that cannot
yet be admitted, the rest is discarded (R318, R319): the result then says whether it was a gap. -/
def takeRecords (s : State) (n : MPort) : BitVec 48 → List Record → Option Bool × State
  | _, [] => (none, s)
  | seq, r :: rs =>
    let next := (s.mir.ports[n]).rxSeq
    if seq = next then
      if !s.glb.state.serves ∨ recordWaits s n then (some false, s)
      else
        let s := modMir s n fun x => { x with inbox := [(seq, r)], rxSeq := next + 1 }
        takeRecords (if staged s then applyInbox 1 s n else s) n (seq + 1) rs
    else if seqBefore seq next then takeRecords s n (seq + 1) rs
    else (some true, s)

/-- The records of a DATA frame are taken; what is discarded is asked for again by a NAK (R316, R318, R319). -/
def dataIn (s : State) (n : MPort) (seq ackSeq : BitVec 48) (records : List Record) : State :=
  if !inSession s n then s else
  match takeRecords (takeAck s n ackSeq) n seq records with
  | (none, s) => s
  | (some gap, s) => sendNote (if gap then mirErr s n 9 else s) n .nak

/-- The body of a DATA frame is of at most 8,192 bytes (R313). -/
def dataFits (rs : List Record) : Bool := decide ((rs.map recordBytes).sum ≤ 8192)

/-- DATA (R316). -/
def execData (f : MirFrame) (seq ackSeq : BitVec 48) (records : List Record) (s : State) : Host.Outcome State Fault Refusal :=
  if !hears s f.port then done s else
  match frameFault s f (dataFits records) with
  | some c => done (frameBad s f c)
  | none => done (settle (dataIn (frameTaken s f) f.port seq ackSeq records))

/-! ### Sessions (R324, R325) -/

/-- The receiver's records start afresh at a sequence number: what is not applied is dropped, and what is being applied is acknowledged
under that number (R325). -/
def freshRx (s : State) (n : MPort) (seq : BitVec 48) : State :=
  let s := modMir s n fun x => { x with inbox := [], refused := [], nakDue := false, rxSeq := seq }
  let s := { s with cmds := s.cmds.map fun x =>
    match x.origin with
    | .mate m _ a b => if m = n then { x with origin := .mate m seq a b } else x
    | .stream _ _ => x }
  modSeal s fun v => { v with erasing := v.erasing.map fun j =>
    match j.why with
    | .mate m _ => if m = n then { j with why := .mate m seq } else j
    | _ => j }

/-- The journal and the transmit FIFO are discarded: the records of LOST regions leave those regions stale, a seed that lost some starts
again (R325, R331). -/
def discardOut (s : State) (n : MPort) : State :=
  let x := s.mir.ports[n]
  let s := markStale s (x.out.map fun t => recordRegion t.record)
  let seeds := (x.seed.toList.map fun d => (d.region, d.rebuild)) ++ seedsIn x.out
  modMir s n fun x =>
    { x with out := [], overflow := false, seed := none, seedWait := x.seedWait ++ seeds.eraseDups.filter fun e => !x.seedWait.contains e }

/-- The other port, if it has no session, hands over what it owes (R320). -/
def takeOther (s : State) (n : MPort) : State :=
  if (s.mir.ports[otherPort n]).session then s else moveOver s (otherPort n)

/-- The seeds a MATE asks for when it has adopted a PROMO_GEN: every MIRRORED region (R324). -/
def askAll (s : State) : State :=
  if s.mir.seedAll then askSeeds { s with mir := { s.mir with seedAll := false } } (mirroredRegions s) else s

/-- A new session starts afresh: the journal and the FIFO are discarded, and both numbers start at the RETAINED values exchanged (R317, R325).
A mate's copies may be behind until the primary's catch-up has ended (R323). -/
def freshSession (s : State) (n : MPort) (f : HelloFrame) (retained : BitVec 48) : State :=
  let s := modMir (freshRx (discardOut s n) n f.retained) n fun x => { x with txSeq := retained, acked := retained }
  ((mirroredRegions s).filter fun r => decide (portFor s r = n)).foldl (fun s r =>
    modMirRegion s r fun m => { m with asked := false, behind := isMate s }) s

/-- A new session goes on: the primary runs a catch-up, and seeds are asked for (R325). -/
def newSession (s : State) (n : MPort) : State :=
  let s := startCatchup (takeOther s n) n
  askAll (askSeeds s ((mirroredRegions s).filter fun r =>
    (seedable s r && !(mirRegion s r).asked) || (isMate s && (regionAt s r).breach && decide (portFor s r = n))))

/-- A session that resumes goes on from the peer's ACKSEQ, in order (R325). -/
def resumeSession (s : State) (n : MPort) (f : HelloFrame) : State :=
  let t := resend (dropAcked s n f.ackSeq) n
  askAll (reachSync (takeOther (afterAck t n) n) n)

/-- The sender still retains every record from the peer's ACKSEQ onward, on both sides (R325). -/
def mayResume (s : State) (n : MPort) (f : HelloFrame) : Bool :=
  let x := s.mir.ports[n]
  decide (x.lastSession = some (s.mir.resets, f.session)) && !x.overflow && !seqBefore f.ackSeq (retainedOf x) &&
    !seqBefore x.txSeq f.ackSeq && !seqBefore (ackSeqOf s n) f.retained

/-- HELLO frames have been exchanged: the port has a session, and REGION_STATE is sent (R314, R324, R325). `retained` is the RETAINED of
this device's latest HELLO. -/
def startSession (s : State) (n : MPort) (f : HelloFrame) (retained : BitVec 48) : State :=
  let resumes := mayResume s n f
  let s := modMir s n fun x => { x with session := true, lastSession := some (s.mir.resets, f.session) }
  let s := raise s (Reg.MIR_INT_STATUS n.val) 2
  let s := if resumes then s else freshSession s n f retained
  let b := stateBody s
  let s := sendNote s n (.regionState b)
  let s := { s with mir := { s.mir with told := some b } }
  if resumes then resumeSession s n f else newSession s n

/-- A MATE takes over the primary's higher PROMO_GEN: HELLO frames with that value are still to be exchanged, and a seed of every MIRRORED
region is asked for once the session is up (R324). -/
def adopt (s : State) (gen : BitVec 16) : State :=
  let s := modMir (modMir s 0 fun x => { x with helloSent := none }) 1 fun x => { x with helloSent := none }
  { s with mir := { s.mir with promoGen := gen, seedAll := true } }

/-- A HELLO that fits this device starts the session, or keeps it alive; one of a peer that has been reset starts it anew (R324,
R325). -/
def helloFits (s : State) (n : MPort) (f : HelloFrame) : State :=
  let x := s.mir.ports[n]
  if x.session ∧ x.lastSession = some (s.mir.resets, f.session) then takeAck s n f.ackSeq
  else match x.helloSent with
    | none => s
    | some retained => startSession s n f retained

/-- A HELLO arrives (R324). -/
def helloIn (s : State) (n : MPort) (f : HelloFrame) : State :=
  if s.mir.pairId ≠ some f.pairId then s
  else if f.mate = s.mir.mate then mirErr s n 11
  else if s.mir.promoGen = f.promoGen then helloFits s n f
  else if s.mir.promoGen.toNat < f.promoGen.toNat then (if s.mir.mate then adopt s f.promoGen else mirErr s n 11)
  else s

/-- HELLO (R324). -/
def execHello (f : MirFrame) (b : HelloFrame) (s : State) : Host.Outcome State Fault Refusal :=
  if !hears s f.port then done s else
  match frameFault s f true with
  | some c => done (frameBad s f c)
  | none => done (settle (helloIn (frameTaken s f) f.port b))

/-- The body of the HELLO that a device sends on a port (R313). -/
def helloBody (s : State) (n : MPort) (pairId : BitVec 32) : HelloFrame where
  pairId := pairId
  mate := s.mir.mate
  macsec := macsecOn s n
  promoGen := s.mir.promoGen
  session := s.mir.resets
  serial := Config.serial
  retained := retainedOf s.mir.ports[n]
  ackSeq := ackSeqOf s n

/-- HELLO_TIMER (R324): a paired device sends HELLO on a port whose link is up. -/
def execHelloTimer (n : MPort) (s : State) : Host.Outcome State Fault Refusal :=
  match s.mir.pairId with
  | none => done s
  | some p =>
    if hears s n ∧ txReady s n then
      done (sendNote (modMir s n fun x => { x with helloSent := some (retainedOf x) }) n (.hello (helloBody s n p)))
    else done s

/-- SESSION_LOSS_TIMEOUT (R324). -/
def execSessionLossTimeout (n : MPort) (s : State) : Host.Outcome State Fault Refusal := done (settle (endSession s n))

/-! ### REGION_STATE (R314) -/

/-- A REGION_STATE body is kept (R314). -/
def regionStateIn (s : State) (n : MPort) (ackSeq : BitVec 48) (body : List Byte) : State :=
  if !inSession s n then s else
  let s := takeAck s n ackSeq
  { s with mir := { s.mir with peer := some body } }

/-- REGION_STATE (R314): the latest body is kept; one of another length is malformed (R313). -/
def execRegionState (f : MirFrame) (body : BitVec 48 × List Byte) (s : State) : Host.Outcome State Fault Refusal :=
  if !hears s f.port then done s else
  match frameFault s f (decide (body.2.length = 480)) with
  | some c => done (frameBad s f c)
  | none => done (settle (regionStateIn (frameTaken s f) f.port body.1 body.2))

/-- REGION_STATE_TIMER (R314). -/
def execRegionStateTimer (n : MPort) (s : State) : Host.Outcome State Fault Refusal :=
  if inSession s n then done (sendNote s n (.regionState (stateBody s))) else done s

/-! ### The intent bitmap (R322) -/

/-- INTENT_BITMAP_PROGRAM_DONE (R322): the bits that were asked for are set, and the writes that wait for them proceed. -/
def execIntentBitmapProgramDone (s : State) : Host.Outcome State Fault Refusal :=
  if !coreUp s ∨ s.thm.coldHold then done s else
  let s := if s.mir.intentAsk.isEmpty then s else saveInner s .intent
  done (settle { s with mir := { s.mir with intent := s.mir.intentAsk.foldl (fun m k => fput m k ()) s.mir.intent, intentAsk := [] } })

/-- INTENT_BIT_CLEAR (R322): the extent has had no unacknowledged record for CLEAR_MS. -/
def execIntentBitClear (region : BitVec 9) (extent : BitVec 9) (s : State) : Host.Outcome State Fault Refusal :=
  let key := region.toNat * 512 + extent.toNat
  if coreUp s ∧ !s.thm.coldHold ∧ fhas s.mir.intent key ∧ !owesExtent s 0 key ∧ !owesExtent s 1 key ∧
      !s.cmds.any (fun x => x.mateWait && intentKey (sectorOf x.addr) == key) then
    done (settle { saveInner s .intent with mir := { s.mir with intent := fdel s.mir.intent key } })
  else done s

/-! ### Reads for the peer: repair copies, catch-up, seeds (R323, R329, R331) -/

/-- The medium's answer to a read for the mate. -/
def mateMedium (s : State) (lsa : Nat) (cells : ReadOutcome) : Option Sector × State :=
  let out := decodeNow s lsa cells
  let s := noteDecode (stepGrant s .rebuild 1 [lsa]) lsa out
  let r := openSector s lsa out
  let a := markerCare (openCount s .rebuild lsa r) lsa r
  let s := a.2
  match a.1 with
  | .data d => (some (currentBytes s lsa d), s)
  | .stale => (some (currentBytes s lsa 0), s)
  | .poison => (none, s)
  | .uncorr => (none, readBad s lsa 3 true)
  | .tagFail | .lsaFail => (none, readBad s lsa 3 false)

/-- A sector's value as the read path finds it in class REBUILD; `none` if the sector is poisoned. -/
def mateRead (s : State) (lsa : Nat) (out : ReadOutcome) : Option Sector × State :=
  if counterBad s lsa then (none, s) else
  match probe s .rebuild lsa with
  | (.kerf d, s) => (some d, s)
  | (.cache d, s) => (some d, s)
  | (.poisoned, s) => (none, s)
  | (.miss, s) => mateMedium s lsa out
  | (.fetching, s) => mateMedium s lsa out

/-- The kerf buffer or the caches hold a sector's bytes, or its mark. -/
def atHand (s : State) (lsa : Nat) : Bool :=
  (slotAt s lsa).any (fun x => decide (x.state ≠ .fetching)) || (cacheFind s lsa).isSome || (sideFind s lsa).isSome || counterBad s lsa

/-- The medium may be read for a sector now: its request of class REBUILD is granted (R181), if it needs the medium at all. -/
def mateReads (s : State) (lsa : Nat) : Bool :=
  medAwake s && readsRun s .rebuild && blankTakes s lsa .refresh &&
    decide ((s.med.blanks[blankOf (lsaRegion lsa)]).state ≠ .outage) && !(regionAt s (lsaRegion lsa)).lost &&
    (atHand s lsa || stepGranted s .rebuild lsa)

/-- There is room within WINDOW for a SECTOR record, with nothing ahead of it in the journal. -/
def mirRoom (s : State) (n : MPort) : Bool :=
  let x := s.mir.ports[n]
  x.session && !x.overflow && decide (journalBytes x = 0) && decide (inFlightBytes x + 264 ≤ mirWindow s n)

/-- One sector of a REPAIR_REQ (R329): the primary answers always, the mate while the port is IN_SYNC. -/
def supplyOne (s : State) (n : MPort) (pa : PA) : State :=
  let lsa := sectorOf pa
  let r := lsaRegion lsa
  if 480 ≤ r ∨ !(regionAt s r).mirrored ∨ (regionAt s r).lost ∨ (isMate s ∧ !(s.mir.ports[n]).inSync) then s
  else if counterBad s lsa then sendRepair s n lsa none
  else match probe s .rebuild lsa with
    | (.kerf d, s) => sendRepair s n lsa (some d)
    | (.cache d, s) => sendRepair s n lsa (some d)
    | (.poisoned, s) => sendRepair s n lsa none
    | (.miss, s) => askMedium s .rebuild lsa (.supply n)
    | (.fetching, s) => addReq s .rebuild false lsa (.supply n)

/-- A REPAIR_REQ is taken (R329). -/
def repairIn (s : State) (n : MPort) (ackSeq : BitVec 48) (pas : List PA) : State :=
  if !inSession s n then s else
  let s := takeAck s n ackSeq
  if s.glb.state.serves then pas.foldl (fun s pa => supplyOne s n pa) s else s

/-- REPAIR_REQ (R329). -/
def execRepairReq (f : MirFrame) (pas : BitVec 48 × List PA) (s : State) : Host.Outcome State Fault Refusal :=
  if !hears s f.port then done s else
  match frameFault s f (decide (pas.2.length ≤ 64)) with
  | some c => done (frameBad s f c)
  | none => done (settle (repairIn (frameTaken s f) f.port pas.1 pas.2))

/-- A SEED_REQ is taken: the seeds of the named MIRRORED regions start, one at a time; those of a mate rebuild its primary (R331). -/
def seedReqIn (s : State) (n : MPort) (ackSeq : BitVec 48) (regions : List (BitVec 9)) : State :=
  if !inSession s n then s else
  let s := takeAck s n ackSeq
  let rs := regions.filter fun r => (regionAt s r.toNat).mirrored && !(regionAt s r.toNat).lost
  rs.foldl (fun s r => askSeed s r.toNat (isMate s)) s

/-- SEED_REQ (R331). -/
def execSeedReq (f : MirFrame) (regions : BitVec 48 × List (BitVec 9)) (s : State) : Host.Outcome State Fault Refusal :=
  if !hears s f.port then done s else
  match frameFault s f (decide (regions.2.length ≤ 480)) with
  | some c => done (frameBad s f c)
  | none => done (settle (seedReqIn (frameTaken s f) f.port regions.1 regions.2))

/-- An extent of a running catch-up is no longer to be sent. -/
def skipExtent (s : State) (n : MPort) : State := modMir s n fun x => { x with catchup := x.catchup.drop 1, catchAt := 0 }

/-- The first extent of a running catch-up goes to the port that its region uses now (R320). -/
def handExtent (s : State) (n o : MPort) (key : Nat) : State :=
  modMir (skipExtent s n) o fun y => { y with catchup := mergeExtents y.catchup [key], catchAt := 0, inSync := false }

/-- A seed goes to the port that its region uses now (R320); where another seed runs there, it waits and starts again. -/
def handSeed (s : State) (n o : MPort) (d : SeedOut) : State :=
  modMir (modMir s n fun x => { x with seed := none }) o fun y =>
    if y.seed.isNone then { y with seed := some d } else { y with seedWait := y.seedWait ++ [(d.region, d.rebuild)] }

/-- CATCHUP_SECTOR (R323): the next sector of the first marked extent is read and sent. -/
def execCatchupSector (n : MPort) (out : ReadOutcome) (s : State) : Host.Outcome State Fault Refusal :=
  let x := s.mir.ports[n]
  match x.catchup with
  | [] => done s
  | key :: _ =>
    if !inSession s n then done s
    else if !mirrors s (key / 512) ∨ (mirRegion s (key / 512)).detached ∨ (regionAt s (key / 512)).lost then
      done (settle (reachSync (skipExtent s n) n))
    else if portFor s (key / 512) ≠ n then done (settle (reachSync (handExtent s n (portFor s (key / 512)) key) n))
    else
      let lsa := regionBase (key / 512) + key % 512 * 16384 + x.catchAt
      if !mirRoom s n ∨ !mateReads s lsa then done s else
      let r := mateRead s lsa out
      let s := modMir r.2 n fun x => { x with catchAt := x.catchAt + 1 }
      let s := mirSend s n (match r.1 with
        | some d => liveRecord .sector (paOf lsa) d
        | none => liveRecord .poison (paOf lsa) 0) none
      done (settle (if x.catchAt = 16383 then reachSync (skipExtent s n) n else s))

/-- SEED_SECTOR_SEND (R331): the next sector of the seed is read and sent; SEED_END follows the last. A region that is no longer
MIRRORED, or is LOST here, cannot be seeded. -/
def execSeedSectorSend (n : MPort) (out : ReadOutcome) (s : State) : Host.Outcome State Fault Refusal :=
  match (s.mir.ports[n]).seed with
  | none => done s
  | some d =>
    let lsa := regionBase d.region.toNat + d.next
    let reg := regionAt s d.region.toNat
    if inSession s n ∧ (!reg.mirrored ∨ reg.lost) then done (settle (modMir s n fun x => { x with seed := none }))
    else if inSession s n ∧ portFor s d.region.toNat ≠ n then done (settle (handSeed s n (portFor s d.region.toNat) d))
    else if !inSession s n ∨ !mirRoom s n ∨ !mateReads s lsa then done s else
    let r := mateRead s lsa out
    let s := mirSend r.2 n (match r.1 with
      | some v => seedRecord .sector d.rebuild (paOf lsa) v
      | none => seedRecord .poison d.rebuild (paOf lsa) 0) none
    if d.next + 1 < regionSectors then
      done (settle (modMir s n fun x => { x with seed := some { d with next := d.next + 1 } }))
    else
      let s := modMir s n fun x => { x with seed := none }
      done (settle (mirSend s n (seedRecord .seedEnd d.rebuild (paOf (regionBase d.region.toNat)) 0) none))

end Sys2Proof.Machine
end

