-- ==== Sys2Proof/Machine/ResetOps.lean ====
section
/-! DEFINITION. Shared operations of the power-fail commit's end and of resets: what a commit writes, what a reset keeps and clears, and what
follows a commit or a dump (chapters 1, 5, 14 and 16). -/

namespace Sys2Proof.Machine

/-! ### What a commit writes (R159, R163, R300) -/

/-- The contents of a charged slot as a commit writes them: its sector, or a poison mark; a FETCHING slot has none. -/
def commitSlot (x : Slot) : Option (Option Sector) :=
  match x.state with
  | .dirty | .draining => some (if x.ecc = .double then none else some x.data)
  | .poisoned => some none
  | .fetching | .clean => none

/-- The charged slots of the regions that a commit has sealed. -/
def commitSlots (s : State) (rs : List Nat) : FMap (Option Sector) :=
  (s.krf.slots.filter fun e => rs.contains (lsaRegion e.1)).filterMap fun e => (commitSlot e.2).map fun d => (e.1, d)

/-- The items of a commit, sealed: each is the next internal program (R21, R199, R285). `item` numbers an item within its area. -/
def sealItems (s : State) (first : Nat) (item : Nat → Nat) (l : FMap (Option Sector)) : FMap Cell :=
  l.zipIdx.map fun e =>
    (e.1.1, innerCell s (Config.commitSector ((s.krf.gen.toNat + 1) % 2) (item e.1.1)) (s.sealing.internal.toNat + first + e.2 + 1) true e.1.2)

/-- The pending deltas of the regions that a commit has sealed. -/
def commitDeltas (s : State) (rs : List Nat) : FMap Pair :=
  (s.cnt.entries.filter fun e => rs.contains (lsaRegion (pairSector e.1))).map fun e => (e.1, e.2.delta)

/-- The commit area as a commit leaves it that has written its front, sealed its queue state and sealed some regions. -/
def commitArea (s : State) (complete front queue : Bool) (rs : List Nat) (us : BitVec 32) : CommitArea where
  gen := s.krf.gen + 1
  complete := complete
  frontWritten := front
  front := if front then s.evr.front else []
  queueSealed := queue
  sealedRegions := rs
  slots := sealItems s 0 (2 * ·) (commitSlots s rs)
  deltas := sealItems s (commitSlots s rs).length (2 * · + 1) ((commitDeltas s rs).map fun e => (e.1, some (putPair 0 0 e.2)))
  majors := rs.map fun r => (r, (regionAt s r).dataMajor)
  us := us
  charge := (s.krf.running.map (·.2)).getD 0

/-- A region as a commit records it: where its parting line stands (R302). -/
def recordParting (x : Region) : Region := { x with rekey := x.rekey.map fun k => { k with recorded := k.parting } }

/-- The sectors that a commit area holds beside its slots and deltas: its header, the front, the queue state, the seals and the commit-complete
record (R159; how many sectors each takes is DEDUCED, log entry 66). -/
def CommitArea.extras (a : CommitArea) (queues : Nat) : Nat :=
  1 + (a.front.length + 7) / 8 + (if a.queueSealed then queues + 1 else 0) + a.sealedRegions.length + a.complete.toNat

/-- An area becomes the newest commit; the queue state it sealed is that of the next boot, and the parting lines of its regions are recorded
(R271, R272, R302). -/
def putArea (s : State) (a : CommitArea) : State :=
  let n := a.slots.length + a.deltas.length + a.extras (chargedQueues s)
  let s := (List.range 64).foldl (fun s ch =>
    let k := (n + 63 - ch) / 64
    countSeal (domPrograms s (3904 + ch) 16 k) ch k) (takeCounts s n)
  let s := { s with krf := { s.krf with area := some a, gen := a.gen }
                    regions := fmapv (fun r x => if a.complete || a.sealedRegions.contains r then recordParting x else x) s.regions }
  if a.queueSealed then modDbq s fun d => { d with saved := d.queues } else s

/-- A commit that writes: one that was not started before the restore of the one before (R161). -/
def commitWrites (s : State) : Bool := s.krf.running.isSome && decide (s.glb.prevState ≠ .boot)

/-- Intent bits that were asked for and not yet programmed are programmed with a commit, so that they cover the records that are not
acknowledged (R322, R328). -/
def intentSave (s : State) : State :=
  if s.mir.intentAsk.isEmpty then s else
  let s := saveBytes s .intent (Config.innerBytes 4 0 s.sealing.internal.toNat)
  { s with mir := { s.mir with intent := s.mir.intentAsk.foldl (fun m k => fput m k ()) s.mir.intent, intentAsk := [] } }

/-- A commit reads the words of every charged slot (R140). -/
def chargedCheck (s : State) : State := ((s.krf.slots.filter fun e => e.2.charged).map (·.1)).foldl slotCheck s

/-- A commit has written everything it had to (steps 3 to 6 of R159). -/
def completeArea (s : State) (us : BitVec 32) : State :=
  let s := chargedCheck (intentSave s)
  if commitWrites s then putArea s (commitArea s true true true s.krf.bitmap us) else s

/-- A commit is cut off (R163): in the order of step 4, its front, then its queue state, then its regions in ascending order; the regions
without charge count as sealed by its header. -/
def tearCommit (s : State) (p : CommitProgress) : State :=
  if !commitWrites s ∨ !p.opened then s else
  let queue := p.frontWritten && p.queueSealed
  let held := s.krf.bitmap.filter (regionCharged s)
  let rs := s.krf.bitmap.filter fun r => !regionCharged s r || (queue && (held.take p.regionsSealed).contains r)
  putArea s (commitArea s false p.frontWritten queue rs 0)

/-- How far a commit got that the loss of a rail, or a reset, cuts off: the manual does not say (free value). -/
def freeProgress (s : State) : CommitProgress where
  opened := (freeNow s).getLsbD 0
  frontWritten := (freeNow s).getLsbD 1
  queueSealed := (freeNow s).getLsbD 2
  regionsSealed := bitsOf (freeNow s) 3 9

/-- What runs of a commit is cut off. -/
def cutCommit (s : State) : State := if s.krf.running.isSome then freeNext (tearCommit s (freeProgress s)) else s

/-- The newest commit is newer than the bitmap (R163). -/
def newerArea (s : State) : Option CommitArea :=
  s.krf.area.filter fun a => decide (s.krf.bitmapGen.toNat < a.gen.toNat)

/-! ### What a reset keeps (R12, R349, R385, R394, R403, R404, R446) -/

/-- A register of the SEQ window: it keeps its value across every reset but VAON power-on. -/
def inSeqWindow (o : Nat) : Bool := decide (o / 0x1000 = 0xC2)

/-- Software-written registers after a reset. -/
def regsAfter (kind : ResetKind) (m : FMap Word64) : FMap Word64 :=
  m.foldl (fun a e =>
    if inSeqWindow e.1 then fput a e.1 e.2
    else if kind = .warm then
      match regAt e.1 with
      | some r => fputD a e.1 (regReset e.1) ((e.2 &&& r.rws) ||| (regReset e.1 &&& ~~~ r.rws))
      | none => a
    else a) []

/-- Hardware-held registers after a reset. -/
def hwAfter (kind : ResetKind) (m : FMap Word64) : FMap Word64 :=
  m.filter fun e => inSeqWindow e.1 || (decide (kind ≠ .powerOn) && (regAt e.1).any (·.keep))

/-- The newest commit holds the front as it stands. -/
def frontSafe (s : State) : Bool := (newerArea s).any fun a => a.frontWritten && decide (a.front = s.evr.front)

/-- INDEX goes on from the persistent reservation: what was recorded since the last write-back is absent (R385). -/
def Evr.jump (e : Evr) : Evr :=
  { e with nextIndex := e.reserve, held := min 8192 (e.held + (e.reserve - e.nextIndex).toNat), reserve := e.reserve + 4096 }

/-- The recorder after a reset: the ring stays; the front goes to the ring while the rails stay up, and is lost with them unless the commit
wrote it. -/
def evrAfter (s : State) (kind : ResetKind) : Evr :=
  let e := if kind ≠ .powerOn then s.evr.writeBack
    else if s.evr.front.isEmpty ∨ frontSafe s then s.evr else s.evr.jump
  { e with front := [], frozen := false, frozenAt := (0, 0), lostFrozen := 0, inFlight := [], ready := false, limits := limitsReset,
           windows := [], last := 0 }

/-- The parameter store after a reset: it holds what it held; staging, locks and the profile applied are of one boot. -/
def pstAfter (p : Pst) : Pst :=
  { p with slots := fmapv (fun _ v => { v with fails := 0 }) p.slots, offsets := [], staging := none, applied := none, ready := false,
           copyUsed := false, pending := false, recovered := false }

/-- A region after a reset: a re-key resumes at the PARTING recorded; a format that was cut off is made
again from its start (R258, R302, R305). -/
def regionAfter (r : Region) : Region :=
  { r with breach := false, rebuilding := false,
           rekey := r.rekey.map fun k => { k with parting := k.recorded } }

/-- A blank after a reset: a marked die and a failure are persistent (R223, R225, R227). -/
def blankAfter (v : BlankS) : BlankS :=
  { BlankS.initial with
    state := match v.state with | .failed => .failed | _ => if v.die.isSome then .degraded else .normal
    hwOk := v.hwOk
    die := v.die }

/-- A channel after a reset: its scrub cycle, spares and server are persistent. -/
def channelAfter (k : Nat) (c : Channel) : Channel :=
  { c with arb := (Channel.initial k).arb, settled := false, offset := 0 }

/-- A host port after a reset: bring-up from step 1. -/
def portAfter (p : Port) : Port := { Port.initial with session := p.session }

/-- The mirror after a reset: the pairing, the intent bitmap and which LOST regions have lost records (R331) are persistent; SESSION
rises (R313). -/
def mirAfter (s : State) (rise : Bool) : Mir :=
  let m := s.mir
  let owed (r : Nat) : Bool := (regionAt s r).lost && m.ports.any fun x =>
    (x.out.any fun t => recordRegion t.record == r) || (owedRegions x).contains r
  { Mir.shipped with
    pairId := m.pairId
    mate := m.mate
    promoGen := m.promoGen
    seedAll := m.seedAll
    resets := if rise then m.resets + 1 else m.resets
    intent := m.intent
    regions := (List.range 480).filterMap fun r =>
      if (mirRegion s r).stale || owed r then some (r, { MirRegion.plain with stale := true }) else none }

/-- The lookup engines after a reset: the committed table set and the record of failed engines (R251, R254). -/
def lkeAfter (l : Lke) : Lke := { Lke.shipped with cur := l.cur, failed := l.failed }

/-- The kerf buffer after a reset: every slot FREE; the bitmap and the commit areas stay (R138, R144, R160). -/
def krfAfter (k : Krf) : Krf :=
  { Krf.shipped with stamp := k.stamp, bitmap := k.bitmap, bitmapGen := k.bitmapGen, gen := k.gen, area := k.area }

/-- The erases that survive a reset: those of a KEY_RETIRE (R349). -/
def eraseAfter (js : List EraseJob) : List EraseJob :=
  js.filterMap fun j => match j.why with
    | .retire _ k => some { j with why := .retire none k }
    | _ => none

/-- What PCIe keeps across a reset: all of it across a warm one; else the link trains afresh. -/
def pcieAfter (kind : ResetKind) (p : Pcie) : Pcie :=
  if kind = .warm then { p with lines := 0 }
  else { p with linkUp := false, cfg := PcieCfg.initial, aer := 0, aerMask := 0, msix := [], pba := 0, lines := 0 }

/-- The deeper of two reset types (R445). -/
def deeperReset : ResetKind → ResetKind → ResetKind
  | .powerOn, _ | _, .powerOn => .powerOn
  | .full, _ | _, .full => .full
  | .warm, .warm => .warm

/-- Resets that coincide: the deepest applies, and every cause is set (R445). -/
def mergeAsk (a b : ResetAsk) : ResetAsk := { kind := deeperReset a.kind b.kind, causes := a.causes ||| b.causes }

/-- The reset that takes effect: with one that is held already, and with THERM after a critical stop (R35, R428). -/
def resetTaken (s : State) (r : ResetAsk) : ResetAsk :=
  let r := if s.glb.inReset then mergeAsk s.glb.held r else r
  if s.thm.crit then { r with causes := r.causes ||| 0x10 } else r

/-- A reset takes effect: the internal reset is held until reset release, and what the reset type does not keep is gone (R446, R447). -/
def enterReset (s : State) (ask : ResetAsk) : State :=
  let s := cutCommit s
  let r := resetTaken s ask
  let rolled := s.lke.commit.isSome || (s.glb.inReset && bitOf (hwGet s Reg.LKE_STATUS) 7)
  let hw := hwAfter r.kind s.hw
  { s with
    regs := regsAfter r.kind s.regs
    hw := if rolled then hwPut hw Reg.LKE_STATUS (hwAt hw Reg.LKE_STATUS ||| 0x80) else hw
    latches := []
    time := if r.kind = .powerOn then 0 else s.time
    glb := { s.glb with state := .boot, prevState := .boot, fwd := false, bounds := false, mbx := false, breach := false,
                        inReset := true, held := r, asked := none, wdogPending := false }
    clk := Clk.initial
    thm := Thm.initial
    pwr := Pwr.initial
    pcie := pcieAfter r.kind s.pcie
    ports := s.ports.map portAfter
    cmds := []
    krf := krfAfter s.krf
    rdp := { ready := decide (r.kind ≠ .powerOn), cache := [], side := [], invals := [], lock := none, misses := [], clock := 0 }
    med := { s.med with channels := fmapv channelAfter s.med.channels, blanks := s.med.blanks.map blankAfter, reqs := [],
                        level := .none }
    regions := fmapv (fun _ v => regionAfter v) s.regions
    sealing := { s.sealing with ready := false, units := Vector.replicate 4 none, erasing := eraseAfter s.sealing.erasing, held := [],
                                tested := false, passed := false }
    lke := lkeAfter s.lke
    dbq := { s.dbq with queues := [], next := 0, ready := false, wasReset := false, sweeping := false, sweepAgain := false, sweepAt := 0,
                         bitRegion := none, low := true, dry := false }
    cnt := { entries := [], folds := [], poison := s.cnt.poison, ready := false, clears := [], lagging := false }
    mir := mirAfter s (!s.glb.inReset)
    mbx := Vector.replicate 8 MbxS.initial
    fw := { s.fw with running := none, trial := false, resetNow := false, copying := none, flash := none }
    pst := pstAfter s.pst
    evr := evrAfter s r.kind
    dumps := { s.dumps with trigger := none, writing := false, owAtBoot := false }
    pmc := Vector.replicate 6 Pmc.initial
    jtag := if r.kind = .powerOn then Jtag.initial else s.jtag }

/-! ### The fault latch (R37, R439, R453) -/

/-- SEQ_FAULT. -/
def seqFault (s : State) : Word64 := hwGet s Reg.SEQ_FAULT

/-- A fault of a channel is latched: the first one's fields are kept, a later one sets its channel and MORE (R453). -/
def latchFault (s : State) (code ch : Nat) (shutdown : Bool) : State :=
  let f := seqFault s
  let s := hwSet s Reg.SEQ_FAULT (
    if bitOf f 31 then f ||| flag true (12 + ch) ||| flag true 24
    else fld code 0 ||| fld ch 4 ||| fld s.seq.phase.num 8 ||| flag shutdown 11 ||| flag true (12 + ch) ||| flag true 31 |||
      fld (sat 32 (s.seq.tsNs / 1000)) 32)
  if coreUp s then raise s Reg.SEQ_INT_STATUS 0 else s

/-- The latch holds a shutdown (R437, R439). -/
def latchHolds (s : State) : Bool := bitOf (seqFault s) 31 && bitOf (seqFault s) 11

/-- FAULT_N is driven low: a fatal bit that is not masked, or a shutdown held by the fault latch (R37, R439). -/
def faultN (s : State) : Bool := decide (hwGet s Reg.GLB_FATAL_STATUS &&& ~~~ cfg s Reg.GLB_FATAL_MASK ≠ 0) || latchHolds s

/-! ### The rails (R436 to R444) -/

/-- Change the Tailstock. -/
def modSeq (s : State) (f : Seq → Seq) : State := { s with seq := f s.seq }

/-- The channels of phase A, in order. -/
def phaseA : List Rail := [0, 1, 8, 5]

/-- A shadow entry's POSITION and USED. -/
def railPosition (s : State) (c : Rail) : Nat := bitsOf (s.seq.shadow[c]) 24 3
/-- The channel drives a board rail. -/
def railUsed (s : State) (c : Rail) : Bool := bitOf (s.seq.shadow[c]) 27

/-- The board rails that are enabled after n device rails of phase B; the last position takes every greater one. -/
def boardRails (s : State) (n : Nat) : List Rail :=
  ([9, 10, 11] : List Rail).filter fun c => railUsed s c && (railPosition s c == n || (n == 5 && decide (5 < railPosition s c)))

/-- The channels of phase B, in order (R433, R436). -/
def phaseB (s : State) : List Rail :=
  boardRails s 0 ++ [4] ++ boardRails s 1 ++ [2] ++ boardRails s 2 ++ [3] ++ boardRails s 3 ++ [6] ++ boardRails s 4 ++ [7] ++
    boardRails s 5

/-- The next of the channels that a phase has still to enable (R438). -/
def nextRail (s : State) (cs : List Rail) : State :=
  modSeq s fun q => match cs with
    | [] => { q with step := .idle, todo := [] }
    | c :: rest => { q with step := .delay c, todo := rest }

/-- Power-up starts at step 2, or, the first since VAON power-on, goes on from step 1, which counts in UP_TIME (R437): the reset that it leads to is a power-on reset; after a fault shutdown SEQ is a cause (R440). -/
def startPowerUp (s : State) (restarted : Bool) : State :=
  let s := { s with glb := { s.glb with held :=
    { kind := .powerOn, causes := 1 ||| (s.glb.held.causes &&& 0x10) ||| if restarted then 0x20 else 0 } } }
  nextRail (modSeq s fun q => { q with phase := .phaseA, upStart := if q.first then 0 else q.tsNs, restarted := restarted, toLatched := false, downAsked := false,
                                       commitWait := false, first := false }) phaseA

/-- The rails are taken down that are still enabled: the next one's EN is withdrawn, and its discharge awaited, unless it was lost before: then
the one after it follows at once (R442); when none is left, the phase is LATCHED or OFF (R439, R441). -/
def downFrom (q : Seq) : List Rail → Seq
  | [] => { q with enabled := [], lostDown := 0, phase := if q.toLatched then .latched else .off, step := .idle, toLatched := false,
                   downAsked := false, todo := [] }
  | c :: rest =>
    let q := { q with good := q.good &&& ~~~ BitVec.ofNat 12 (2 ^ c.val) }
    if bitOf q.lostDown c.val then downFrom q rest else { q with enabled := rest, step := .discharge c }

/-- A shutdown or a down-sequence goes on to its next rail. -/
def nextDown (s : State) : State := modSeq s fun q => downFrom q q.enabled

/-- The rails go down in reverse order of their enabling; whatever the core held is lost, as at a sudden power loss where no commit has
completed (R439, R441, R444). -/
def takeDown (s : State) (latched : Bool) : State :=
  let s := enterReset s { kind := .powerOn, causes := 1 }
  nextDown (modSeq s fun q =>
    { q with
      phase := if latched then .faultDown else .down, toLatched := latched, commitWait := false, todo := [], lostDown := 0 })

/-- A fault that shuts the rails down (R439). -/
def faultShutdown (s : State) (code : Nat) (c : Rail) : State := takeDown (latchFault s code c.val true) true

/-- The Tailstock's wait for commit-done is over (R439, R441): the rails go down, or stay up if PWR_FAIL_N is high again (R162). -/
def waitEnd (s : State) : State :=
  if s.seq.toLatched then takeDown s true
  else if !s.seq.pwrFailN ∨ s.seq.downAsked then takeDown s false
  else modSeq s fun q => { q with commitWait := false }

/-- Power is to go: a commit is started and its end awaited. Where none runs, because the core is in reset, has stopped, or has committed
since its reset, the wait is over at once (R158, R161, R441). -/
def powerFails (s : State) (why : CommitWhy) : State :=
  let s := if s.glb.inReset then s else settle (startCommit s why)
  let s := modSeq s fun q => { q with commitWait := true }
  if s.krf.running.isSome then s else waitEnd s

/-! ### What follows a commit or a dump (R36, R158, R401, R447, R448) -/

/-- A commit started for power alone is followed by no dump (R401). -/
def forPower : CommitWhy → Bool
  | .pwrFail | .down => true
  | _ => false

/-- A commit is over (step 7 of R159): a dump, the down-sequence, or a reset that waits for it follows. -/
def afterCommit (s : State) (why : CommitWhy) : State :=
  let dump := s.dumps.trigger.isSome && !forPower why && coreUp s && (decide (s.glb.state = .commit) || decide (s.glb.state = .dump))
  let s := if dump then
      beginDump { s with glb := { s.glb with state := .dump, prevState := if s.glb.state = .dump then s.glb.prevState else s.glb.state } }
    else { s with dumps := { s.dumps with trigger := none } }
  let s := if s.seq.commitWait then waitEnd s else s
  if dump ∨ s.glb.inReset then s
  else match s.glb.asked with
    | some r => enterReset s r
    | none => s

/-- A reset of a type is asked for (R36, R158, R447): it takes effect at once in BOOT, RESTORE and STOPPED and after a completed commit,
at the end of a dump or of a commit that runs, and else after the commit that it starts. -/
def askReset (s : State) (r : ResetAsk) : State :=
  let wait (s : State) : State :=
    { s with glb := { s.glb with asked := some (match s.glb.asked with | some a => mergeAsk a r | none => r) } }
  if s.glb.inReset then { s with glb := { s.glb with held := mergeAsk s.glb.held r } }
  else if s.dumps.writing ∨ s.krf.running.isSome then wait s
  else if s.krf.done then enterReset s r
  else match s.glb.state with
    | .boot | .restore | .stopped => enterReset s r
    | _ => settle (startCommit (wait s) .reset)

/-- The entries held, oldest first: section 2 of a dump. -/
def heldEvents (e : Evr) : List EvtEntry :=
  let r := e.range
  (List.range r.2).filterMap fun k => e.find (r.1 - BitVec.ofNat 32 (r.2 - 1 - k))

/-- A dump as its header records it (R403). -/
def dumpRecord (s : State) (d : Dump) (truncated : List (Fin 10)) : Dump :=
  { d with gen := s.dumps.gen + 1
           laterFatal := BitVec.ofNat 32 (hwGet s Reg.GLB_FATAL_STATUS).toNat
           commitGen := s.krf.gen
           commitUs := (s.krf.area.map (·.us)).getD 0
           complete := true
           commitOk := (newerArea s).any (·.complete)
           prevState := BitVec.ofNat 8 s.glb.prevState.num
           events := heldEvents s.evr
           truncated := truncated }

/-- A dump is complete (step 3 of R401): it stands in the slot that was chosen for it (R403). -/
def endDump (s : State) (truncated : List (Fin 10)) : State :=
  match s.dumps.trigger with
  | none => { s with dumps := { s.dumps with writing := false } }
  | some d =>
    let x := s.dumps
    let d := dumpRecord s d truncated
    raise { saveDump s d with dumps := { x with held := x.held ++ [d], trigger := none, writing := false, gen := x.gen + 1 } }
      Reg.EVR_INT_STATUS 5

/-- The reset that waits for the end of a dump takes effect (R447, R448). -/
def afterDump (s : State) : State :=
  let wdog : ResetAsk := { kind := .full, causes := 8 }
  match s.glb.asked, s.glb.wdogPending with
  | some r, true => enterReset s (mergeAsk r wdog)
  | some r, false => enterReset s r
  | none, true => enterReset s wdog
  | none, false => s

end Sys2Proof.Machine
end

