-- ==== Sys2Proof/Machine/Boot.lean ====
section
/-! DEFINITION. Reset release and the boot, up to forwarding-ready: the profile, the dirty budget, the restore of the newest commit, and the
queue, table and event state that come back (chapters 5, 8, 9, 13, 14 and 16). -/

namespace Sys2Proof.Machine

/-! ### Step 2: the board profile and the dirty budget (R155, R156, R377, R379, R436) -/

/-- A RAIL entry as the shadow takes it: a PG_TIMEOUT or DISCHARGE_TO of 0 takes its default (R436). -/
def railEntry (v : Nat) : BitVec 32 :=
  let e : BitVec 32 := BitVec.ofNat 32 v
  let e := if bitsOf e 8 8 = 0 then putBits e 8 8 50 else e
  if bitsOf e 16 8 = 0 then putBits e 16 8 10 else e

/-- The shadow that a profile, or none, gives (R436). -/
def railShadow (p : Option (List Byte)) : Vector (BitVec 32) 12 :=
  match p with
  | some c => Vector.ofFn fun k : Fin 12 => railEntry (leAt c (96 + 4 * k.val) 4)
  | none => Vector.replicate 12 0x000A3202

/-- The profile in force, if it is correct (R362, R377, R378). -/
def profileInForce (s : State) : Option (List Byte) := s.pst.profile.content.filter profileValid

/-- The newest sealed copy does not verify, and the other does (R379). -/
def profileOlder (v : PstArea) : Bool :=
  (v.copy0.ok && !v.copy1.ok && decide (v.copy0.seq < v.copy1.seq)) || (v.copy1.ok && !v.copy0.ok && decide (v.copy1.seq < v.copy0.seq))

/-- THROTTLE_C of a profile, °C. -/
def profThrottle (p : Option (List Byte)) : Nat :=
  match p with
  | some c => (BitVec.ofNat 16 (leAt c 144 2)).toInt.toNat
  | none => 110

/-- Units of 64 KiB that a hold-up energy in mJ buys (R155): t µs at 150 W, less 150 µs, at 13.1 µs per MiB. -/
def holdupUnits (e : Nat) : Nat := 160 * (1000 * e - 22500) / (150 * 131)

/-- KRF_DIRTY_MAX.MAX (R155, R156). -/
def dirtyMax (e : Nat) : Nat := if e < 31 then 64 else min 1760 (holdupUnits e)

/-- The dirty budget: MAX, HOLDUP_MJ, and LIMIT set to MAX. -/
def bootBudget (s : State) : State :=
  let e := profAt s 88 2 0 % 4096
  let s := hwSet s Reg.KRF_DIRTY_MAX (fld (dirtyMax e) 0 ||| fld e 16)
  let s := setCfg s Reg.KRF_DIRTY_LIMIT (fld (dirtyMax e) 0)
  { s with krf := { s.krf with minProfile := decide (e < 31) } }

/-- A host port is fitted as the profile says, and firmware enables it (R95, R103). -/
def fitPort (s : State) (p : HPort) : State :=
  let on := profAt s 16 1 0 / 2 ^ p.val % 2 == 1
  let s := modPort s p fun q => { q with fitted := on }
  if on then setCfg s (Reg.HP_CTRL p.val) (putBit (cfg s (Reg.HP_CTRL p.val)) 0 true) else s

/-- A byte of MIR_TX_EQ as a tap, in steps of 0.0125: a value outside −16 to 0 is clamped to the nearer end (R464). -/
def txStep (b : Nat) : Int := max (-16) (min 0 (BitVec.ofNat 8 b).toInt)

/-- The taps that a byte pair of MIR_TX_EQ sets: c(0) = 1 − |c(−1)| − |c(+1)| (R464). -/
def txTaps (pre post : Nat) : TxTaps where
  pre := txStep pre
  main := 80 + txStep pre + txStep post
  post := txStep post

/-- Lane order, polarity and taps of a mirror port, from the profile (R377, R464). -/
def mirLanes (s : State) (n : MPort) (q : MirPort) : MirPort :=
  { q with laneOrder := BitVec.ofNat 12 (profAt s (44 + 4 * n.val) 4 0x688)
           lanePol := BitVec.ofNat 16 (profAt s (52 + 2 * n.val) 2 0)
           taps := Vector.ofFn fun k : Fin 4 =>
             txTaps (profAt s (56 + 8 * n.val + 2 * k.val) 1 0) (profAt s (57 + 8 * n.val + 2 * k.val) 1 0) }

/-- A mirror port is fitted as the profile says, and firmware enables it (R333). -/
def fitMir (s : State) (n : MPort) : State :=
  let on := profAt s 17 1 0 / 2 ^ n.val % 2 == 1
  let s := modMir s n fun q => mirLanes s n { q with fitted := on }
  if on then setCfg s (Reg.MIR_CTRL n.val) (putBit (cfg s (Reg.MIR_CTRL n.val)) 0 true) else s

/-- A clock source that the profile declares present: 0 REFCLK_HP, 1 REFCLK_PCIE, 2 REFCLK_SYS (R377). -/
def clockFitted (s : State) (k : Nat) : Bool := profAt s 92 1 6 / 2 ^ k % 2 == 1

/-- Step 2 of the boot: the profile is applied. -/
def bootProfile (s : State) : State :=
  let p := profileInForce s
  let s := modPst s fun v => { v with applied := p, copyUsed := p.isSome && decide ((inForce v.profile.copy0 v.profile.copy1).map (·.1) = some 1),
                                      pending := false }
  let s := if profileOlder s.pst.profile then evt (raise s Reg.PST_INT_STATUS 4) Ev.PST_PROFILE_OLDER noInst 0 else s
  let s := modSeq s fun q => { q with shadow := railShadow p }
  let s := { s with thm := { s.thm with threshold := profThrottle p }, clk := { s.clk with onOsc := !clockFitted s 2 } }
  bootBudget (fitMir (fitMir ((List.finRange 4).foldl fitPort s) 0) 1)

/-! ### Step 3: firmware (R354, R358) -/

/-- The flash's SFDP table is read (R461), and firmware runs: GLB_FW_VERSION and GLB_READY.MBX. -/
def bootFirmware (s : State) (obs : BootObs) : State :=
  let s := modFw s fun w => { w with flash := if spiFitted s then some (spiUse obs.sfdp) else none }
  let s := fwBoot s obs.imagesBad
  match s.fw.running with
  | none => s
  | some k =>
    let s := hwSet s Reg.GLB_FW_VERSION (fld (s.fw.slots[k]).version.toNat 0 ||| flag true 24)
    { s with glb := { s.glb with mbx := true } }

/-! ### Step 4: what the internal area holds (R203, R294, R305) -/

/-- The alias guard begins on the channels that are due (R203). -/
def bootGuards (s : State) : State :=
  (List.range 64).foldl (fun s k =>
    if guardDue s (chanAt s k) ∧ !(chanAt s k).guard then
      evt (raise (modChan s k fun c => { c with guard := true }) (Reg.BLK_INT_STATUS (k / 8)) 8) Ev.BLK_ALIAS_GUARD (k / 8) 0
    else s) s

/-- The regions whose USE is BUFFER. -/
def bufferRegions (s : State) : List Nat := (s.regions.filter fun e => decide (e.2.use = .buffer)).map (·.1)

/-- The items of the internal area, and the headers of the dumps held, that the boot reads back (R227, R403). -/
def bootItems (s : State) : List Inner :=
  (fkeys s.regions).map .descriptor ++ .deviceKey :: (fkeys s.sealing.keys).map .keySlot ++ [.bitmap, .intent, .failures] ++
    (List.range 72).map .retirement ++ ((fkeys s.evr.ring).map (· / 8)).eraseDups.map .ring ++
    ((fkeys s.dbq.saved).map (· / 2)).eraseDups.map .queue ++ (bufferRegions s).map .pool ++ s.dumps.held.map fun d => dumpItem d 0

/-- The walks go on that a reset has cut off (R305). -/
def bootWalks (s : State) : State :=
  let rs := (s.regions.filter fun e => e.2.rekey.isSome).map (·.1)
  modSeal s fun v => { v with ready := true, units := Vector.ofFn fun u : Fin 4 => (rs[u.val]?).map (BitVec.ofNat 9) }

/-! ### Step 5: the commit restore (R163 to R165, R300) -/

/-- An item of a commit area as it opens. -/
def CommitArea.item (a : CommitArea) (n : Nat) (c : Cell) : Option (Option Sector) :=
  openInner (Config.commitSector (a.gen.toNat % 2) n) c

/-- The regions of which some item of a commit area fails its tag. -/
def CommitArea.failing (a : CommitArea) : List Nat :=
  ((a.slots.filter fun e => (a.item (2 * e.1) e.2).isNone).map fun e => lsaRegion e.1) ++
    (a.deltas.filter fun e => (a.item (2 * e.1 + 1) e.2).isNone).map fun e => lsaRegion (pairSector e.1)

/-- A commit area as it reads back: a region whose data in it cannot all be read counts as not sealed (R227). A region without charge has
no data to read. -/
def CommitArea.readable (a : CommitArea) (bad : List (BitVec 9)) : CommitArea :=
  let lost (r : Nat) : Bool := (bad.any fun b => b.toNat == r) || a.failing.contains r
  let charged (r : Nat) : Bool := (a.slots.any fun e => lsaRegion e.1 == r) || a.deltas.any fun e => lsaRegion (pairSector e.1) == r
  { a with sealedRegions := a.sealedRegions.filter fun r => !(lost r && charged r)
           slots := a.slots.filter fun e => !lost (lsaRegion e.1)
           deltas := a.deltas.filter fun e => !lost (lsaRegion (pairSector e.1)) }

/-- The check that an item of a commit area fails, if any: the number of its internal sector, and whether it is its LSA that is wrong. -/
def CommitArea.check (a : CommitArea) (n : Nat) (c : Cell) : Option (BitVec 32 × Bool) :=
  let at_ := Config.commitSector (a.gen.toNat % 2) n
  if (a.item n c).isSome then none else some (at_, decide (c.lsa ≠ at_))

/-- The checks that the items of a commit area fail. -/
def CommitArea.failed (a : CommitArea) : List (BitVec 32 × Bool) :=
  (a.slots.filterMap fun e => a.check (2 * e.1) e.2) ++ a.deltas.filterMap fun e => a.check (2 * e.1 + 1) e.2

/-- The newest commit is read: what a failed blank held of it is lost (R227). -/
def readCommit (s : State) (bad : List (BitVec 9)) : State :=
  let s := match s.krf.area with
    | some a => a.failed.foldl (fun s (e : BitVec 32 × Bool) => sealFail s .hrd (innerBase + e.1.toNat) e.2) s
    | none => s
  { s with krf := { s.krf with area := s.krf.area.map fun a => a.readable bad } }

/-- The restore case. -/
def restoreCase (s : State) : Nat :=
  if s.krf.bitmap = [] then 1
  else match newerArea s with
    | some a => if a.complete then 2 else 3
    | none => 4

/-- The regions in breach (R163, R227); a complete commit has sealed every region whose bit is set. -/
def breachList (s : State) : List Nat :=
  match restoreCase s, newerArea s with
  | 1, _ => []
  | 4, _ => s.krf.bitmap
  | _, some a => mergeRegions (s.krf.bitmap.filter fun r => !a.sealedRegions.contains r) (if a.queueSealed then [] else bufferRegions s)
  | _, none => []

/-- A region's data in the commit is put back: its data major is the descriptor's, and it is not LOST (R225, R300). -/
def takesBack (s : State) (a : CommitArea) (r : Nat) : Bool :=
  decide (fget a.majors r = some (regionAt s r).dataMajor) && !(regionAt s r).lost

/-- A kerf slot as the restore makes it: DIRTY with the committed bytes, or POISONED. -/
def restoredSlot (s : State) (stamp : Nat) (d : Option Sector) : Slot :=
  match d with
  | some d => { Slot.blank .dirty with data := d, stamp := stamp, used := stamp, aged := agedAtOnce s }
  | none => { Slot.blank .poisoned with stamp := stamp, used := stamp }

/-- The kerf slots and fold entries of a commit are put back. -/
def restoreData (s : State) (a : CommitArea) : State :=
  let s := (a.slots.filter fun e => takesBack s a (lsaRegion e.1)).foldl
    (fun s e => putSlot (takeStamp s) e.1 (restoredSlot s (nextStamp s) ((a.item (2 * e.1) e.2).getD none))) s
  let s := hwAdd s Reg.SEAL_OPENS (a.slots.length + a.deltas.length + a.extras 0)
  let s := modCnt s fun c =>
    { c with entries := (a.deltas.filter fun e => takesBack s a (lsaRegion (pairSector e.1))).map fun e =>
        (e.1, ⟨pairAt (((a.item (2 * e.1 + 1) e.2).getD none).getD 0) 0, s.time.toNat, .good⟩) }
  ((s.krf.slots.filter fun e => decide (e.2.state = .poisoned)).map (·.1)).foldl (fun s lsa => counterPoison s lsa 3) s

/-- The regions in breach are marked and reported (R164). -/
def markBreach (s : State) (rs : List Nat) (gen : BitVec 64) : State :=
  if rs = [] then s else
  let s := rs.foldl (fun s r => hwOr (modRegion s r fun x => { x with breach := true }) (Reg.KRF_BREACH (r / 64)) (flag true (r % 64))) s
  let s := { s with glb := { s.glb with breach := true } }
  evtFull (raise s Reg.KRF_INT_STATUS 0) Ev.KRF_BREACH noInst gen.toNat rs.length

/-- The number of sectors of a region that are marked, once the restore is done (R78). -/
def recountPoison (s : State) : State :=
  let marked := (fkeys s.med.marks ++ (s.med.cells.filter fun e => e.2.poison).map (·.2.lsa.toNat) ++
    (s.krf.slots.filter fun e => decide (e.2.state = .poisoned)).map (·.1)).eraseDups.filter (isMarked s)
  { s with regions := fmapv (fun r x => { x with poisoned := (marked.filter fun n => lsaRegion n == r).length }) s.regions }

/-- KRF_COMMIT_STATUS, KRF_COMMIT_TIME and KRF_COMMIT_GEN. -/
def commitReport (s : State) (case n : Nat) (a : Option CommitArea) : State :=
  let found := case == 2 || case == 3
  let s := hwSet s Reg.KRF_COMMIT_STATUS (flag found 0 ||| flag (case == 2) 1 ||| flag (case == 4) 2 |||
    flag (found && a.any (·.queueSealed)) 3 ||| fld n 16)
  match a with
  | some a =>
    let s := hwSet s Reg.KRF_COMMIT_TIME (if case == 2 then a.us.setWidth 64 else 0)
    hwSet s Reg.KRF_COMMIT_GEN (if found then a.gen else 0)
  | none => s

/-- The event ring is restored: the front of the commit, GLB_BOOT first among the entries of this boot, then the events in flight, each with the
TIME at which it is recorded (R383 to R385). -/
def bootEvents (s : State) (case : Nat) (a : Option CommitArea) : State :=
  let front := match a with
    | some a => if a.frontWritten then a.front.filter fun e => (s.evr.find e.index).isNone else []
    | none => []
  let waiting := s.evr.inFlight
  let irq := irqSev s
  let s := modEvr s fun e => { e with front := front, inFlight := [], ready := true }
  let first := entryNow s Ev.GLB_BOOT noInst (bitsOf (hwGet s Reg.GLB_RESET_CAUSE) 0 32 + case * 2 ^ 32) 0
  let waiting := waiting.map fun e => { e with time := first.time, powerOn := first.powerOn }
  let r := waiting.foldl (recLimited irq) (recStore irq (s.evr, s.hw) first)
  let s := { s with evr := r.1, hw := r.2 }
  if s.dumps.overwritten then
    evt { s with dumps := { s.dumps with overwritten := false, owAtBoot := true } } Ev.EVR_DUMP_OVERWRITTEN noInst 0
  else { s with dumps := { s.dumps with owAtBoot := false } }

/-! ### Step 5: queue state (R259, R270 to R272) -/

/-- The open packets of the queues. -/
def openPackets (s : State) : Nat := (s.dbq.queues.filter fun e => e.2.opened.isSome).length

/-- The chunks that the queues own are in use. -/
def ownChunks (s : State) : State :=
  (s.dbq.queues.flatMap fun e => e.2.chunks).foldl (fun s n =>
    modPool s (lsaRegion n.toNat) fun p =>
      if p.used.contains (chunkOf n.toNat) then p else { p with used := chunkOf n.toNat :: p.used }) s

/-- Charged queue state keeps the bitmap bit of the first BUFFER region set (R271). -/
def queueBit (s : State) : State :=
  if chargedQueues s = 0 then s
  else { s with krf := { s.krf with bitmap := mergeRegions s.krf.bitmap (firstBuffer s).toList } }

/-- Every queue is restored as it was captured; its open packet is discarded, and a flush that waited takes effect. -/
def restoreQueue (s : State) (q : Nat) : State :=
  let v := queueAt s q
  let waits := !v.flushes.isEmpty
  let s := dropOpen (putQueue s q { v with flushes := [] }) q
  let s := if v.opened.isSome then modQueue s q fun v => { v with charged := true } else s
  if waits then (flushNow (modQueue s q fun v => { v with charged := true }) q).2 else s

/-- Every queue is reset to empty. -/
def resetQueue (s : State) (q : Nat) : State :=
  let v := queueAt s q
  putQueue ((heldSectors v).foldl (fun s n => killSector s n.toNat) s) q (emptyQueue v)

/-- The queue engine's state at boot (R272): `breach`, a BUFFER region is in breach; `found`, a commit has sealed queue state. -/
def bootQueues (s : State) (breach found : Bool) : State :=
  let s := modDbq s fun d => { d with queues := fmapv (fun _ v => { v with charged := found && v.charged }) d.saved }
  let opened := openPackets s
  let keys := s.dbq.queues.map (·.1)
  let s := ownChunks s
  let s := if breach then
      askSweep (modDbq (keys.foldl resetQueue s) fun d => { d with wasReset := true })
    else keys.foldl restoreQueue s
  let s := hwSet s Reg.DBQ_BOOT (flag (found && !breach) 0 ||| flag breach 1 ||| fld opened 4)
  let s := if breach then evt (raise s Reg.DBQ_INT_STATUS 5) Ev.DBQ_QUEUES_RESET noInst 0 else s
  queueBit s

/-- Step 5 of the boot: the commit restore, the breach decision and queue state; the markers that a reset has left to be programmed are asked
for again (R216). -/
def bootRestore (s : State) : State :=
  let case := restoreCase s
  let a := newerArea s
  let rs := breachList s
  let found := case == 2 || case == 3
  let s := bootEvents s case a
  let s := match a with
    | some a => if found then restoreData s a else s
    | none => s
  let s := markBreach s rs s.krf.gen
  let s := commitReport s case rs.length a
  let s := { s with krf := { s.krf with restored := found, bitmapGen := s.krf.gen } }
  let s := s.med.marks.foldl (fun s e => addReq s .move true e.1 .retire) s
  recountPoison (bootQueues s (rs.any fun r => decide ((regionAt s r).use = .buffer)) (found && a.any (·.queueSealed)))

/-! ### Step 6: the table tier (R251, R253) -/

/-- The table tier is rebuilt from its backing image. Where no image is valid, the version it then has is not stated (free value). -/
def bootTables (s : State) (ok : Bool) : State :=
  let s := modLke (if bitOf (hwGet s Reg.LKE_STATUS) 7 then raise s Reg.LKE_INT_STATUS 3 else s) fun l => { l with ready := true }
  if ok then
    let s := loadItems s (imageTables s.lke.cur)
    hwOr { s with lke := { s.lke with valid := true, restored := s.lke.cur.version } } Reg.GLB_BOOT_SOURCE 4
  else
    let s := freeNext { s with lke := { s.lke with valid := false,
                                                   cur := { version := (freeNow s).setWidth 32, tables := [], profiles := [] } } }
    evt (raise s Reg.LKE_INT_STATUS 4) Ev.LKE_IMAGE_INVALID noInst 0

/-! ### The whole boot (R306, R364, R447, R449, R450) -/

/-- The boot stops (R306, R364). -/
def bootStops (s : State) : State := { s with glb := { s.glb with state := .stopped } }

/-- Step 1: reset release, the causes of the reset, the sealing self-test (its duration is not given: free value), and the line caches, which
are empty. -/
def bootStart (s : State) (selfTestOk : Bool) : State :=
  let on := s.glb.held.kind == .powerOn
  let s := { s with glb := { s.glb with inReset := false, releasedAt := s.time, powerOns := if on then s.glb.powerOns + 1 else s.glb.powerOns }
                    rdp := { s.rdp with ready := true }
                    sealing := { s.sealing with tested := true, passed := selfTestOk } }
  let s := hwSet s Reg.GLB_RESET_CAUSE (s.glb.held.causes.setWidth 64)
  let s := freeNext (hwSet s Reg.SEAL_SELFTEST (fld (bitsOf (freeNow s) 0 16) 16))
  if selfTestOk then s else bootStops (evt (raise s Reg.SEAL_INT_STATUS 6) Ev.SEAL_SELFTEST_FAIL noInst 0)

/-- This boot followed a fault shutdown (R440). -/
def bootSeq (s : State) : State :=
  if s.seq.restarted ∧ s.glb.held.kind = .powerOn then
    evt (raise s Reg.SEQ_INT_STATUS 2) Ev.SEQ_RESTART noInst (bitsOf (seqFault s) 0 32)
  else s

/-- Steps 4 to 7: from RESTORE to forwarding-ready. A BUFFER breach holds step 7 until the orphan sweep has ended (R272, R450). -/
def bootOn (s : State) (tierImageOk : Bool) : State :=
  let s := { s with glb := { s.glb with state := .restore } }
  let s := bootSeq (bootTables (bootRestore (bootWalks (bootGuards (loadItems s (bootItems s))))) (tierImageOk && !structureLost s 1))
  if s.dbq.sweeping then s else releaseForwarding s

/-- The boot from reset release. -/
def boot (s : State) (obs : BootObs) : State :=
  let s := bootStart s obs.selfTestOk
  if !obs.selfTestOk then s else
  let s := bootProfile (pstScan s)
  let bad := (factoryCopy s.pst).isNone
  let s := bootFirmware (if bad then bootStops (evt s Ev.PST_FACTORY_BAD noInst 0) else s) obs
  if bad ∨ s.fw.running.isNone then s else bootOn (readCommit s obs.commitUnread) obs.tierImageOk

/-- The throttle threshold that the boot will apply less 10 °C has not been passed after a critical stop (R428, R450). -/
def tooHot (s : State) (t : Int) : Bool :=
  bitOf s.glb.held.causes 4 && decide ((profThrottle (profileInForce s) : Int) ≤ t + 10)

/-- RESET_RELEASE (R447, R449): the rails are up, RESET_N is high, and nothing that the reset waits for is left. -/
def execResetRelease (obs : BootObs) (s : State) : Host.Outcome State Fault Refusal :=
  if s.seq.phase = .on ∧ s.glb.inReset ∧ s.seq.resetN ∧ !tooHot s obs.tempDegC then done (settle (boot s obs)) else done s

end Sys2Proof.Machine
end

