-- ==== Sys2Proof/Machine/CfgSpace.lean ====
section
/-! DEFINITION. The configuration space of the PCIe function, and the resets that reset it (chapter 12). -/

namespace Sys2Proof.Machine

/-- The identity and the resources that the endpoint's configuration space declares (R336). -/
structure EndpointId where
  vendor    : Nat
  device    : Nat
  classCode : Nat
  revision  : Nat
  subVendor : Nat
  subsystem : Nat
  /-- sizes of BAR0 and BAR2, bytes -/
  bar0      : Nat
  bar2      : Nat
  vectors   : Nat
  /-- Max Payload Size Supported, bytes -/
  payload   : Nat
  /-- Device Serial Number -/
  serial    : BitVec 64
  deriving DecidableEq, Repr

/-- The endpoint's identity; the Subsystem IDs come from the board profile (R28, R336, R377). -/
def endpointId (s : State) : EndpointId where
  vendor := 0x1F7D
  device := 0x9960
  classCode := 0x058000
  revision := 0xB0
  subVendor := profAt s 84 2 0x1F7D
  subsystem := profAt s 86 2 0x9960
  bar0 := 16 * 2 ^ 20
  bar2 := 64 * 2 ^ 20
  vectors := 32
  payload := 256
  serial := Config.serial

/-- Change the function's configuration. -/
def modCfg (s : State) (f : PcieCfg → PcieCfg) : State := { s with pcie := { s.pcie with cfg := f s.pcie.cfg } }

/-- PCIe configuration state, the MSI-X table and the Pending Bit Array are reset (R338); the device is not. The bits that PCI Express calls
sticky, those of AER, stay (PRESUMED, log entry 70). -/
def pcieReset (s : State) : State := { s with pcie := { s.pcie with cfg := PcieCfg.initial, msix := [], pba := 0 } }

/-- The low word of a BAR as it reads: its address bits, for its size, and the kind of the BAR (R336). -/
def barLow (v : BitVec 32) (size kind : Nat) : BitVec 32 := BitVec.ofNat 32 (v.toNat / size * size + kind)

/-- A register of the configuration space as it reads (R336; its fields are those of PCI Express). -/
def cfgRead (s : State) (r : CfgReg) : BitVec 32 :=
  let c := s.pcie.cfg
  let id := endpointId s
  match r with
  | .identity => BitVec.ofNat 32 (id.vendor + id.device * 65536)
  | .command => BitVec.ofNat 32 (2 * c.memory.toNat + 4 * c.busMaster.toNat + 2 ^ 20)
  | .classCode => BitVec.ofNat 32 (id.revision + id.classCode * 256)
  | .bar 0 => barLow c.bars[(0 : Fin 4)] id.bar0 4
  | .bar 2 => barLow c.bars[(2 : Fin 4)] id.bar2 12
  | .bar k => c.bars[k]
  | .subsystem => BitVec.ofNat 32 (id.subVendor + id.subsystem * 65536)
  | .pmControl => if c.d3hot then 3 else 0
  | .msixControl => BitVec.ofNat 32 ((id.vectors - 1 + 0x4000 * c.msixMask.toNat + 0x8000 * c.msixOn.toNat) * 65536)
  | .msixTable => 0x90800
  | .msixPba => 0x90C00
  | .devCaps => BitVec.ofNat 32 (id.payload / 256 + 2 ^ 15 + 2 ^ 28)
  | .devControl => c.devCtl.setWidth 32
  | .serialLow => id.serial.setWidth 32
  | .serialHigh => (id.serial >>> 32).setWidth 32
  | .aerStatus => s.pcie.aer
  | .aerMask => s.pcie.aerMask

/-- A register of the configuration space is written (R336, R337, R338). PowerState 0 out of D3hot resets the function, and so does Initiate
Function Level Reset. -/
def cfgWrite (s : State) (r : CfgReg) (v : BitVec 32) : State :=
  match r with
  | .command => modCfg s fun c => { c with memory := bitOf v 1, busMaster := bitOf v 2 }
  | .bar k => modCfg s fun c => { c with bars := c.bars.set k v }
  | .pmControl =>
    if bitsOf v 0 2 = 3 then modCfg s fun c => { c with d3hot := true }
    else if bitsOf v 0 2 = 0 ∧ s.pcie.cfg.d3hot then pcieReset s
    else s
  | .msixControl => modCfg s fun c => { c with msixMask := bitOf v 30, msixOn := bitOf v 31 }
  | .devControl => if bitOf v 15 then pcieReset s else modCfg s fun c => { c with devCtl := v.setWidth 16 }
  | .aerStatus => { s with pcie := { s.pcie with aer := s.pcie.aer &&& ~~~ v } }
  | .aerMask => { s with pcie := { s.pcie with aerMask := v } }
  | .identity | .classCode | .subsystem | .msixTable | .msixPba | .devCaps | .serialLow | .serialHigh => s

/-- An access to BAR0 or BAR2 while the function is in D3hot completes as an Unsupported Request, as PCI Express requires: it has no effect and
returns no data, and AER notes it (R338). -/
def unsupported (s : State) : State := { s with pcie := { s.pcie with aer := s.pcie.aer ||| 0x100000 } }

end Sys2Proof.Machine
end

