-- ==== Sys2Proof/Machine/Rails.lean ====
section
/-! DEFINITION. The Tailstock's commands: the rails up and down, the pins PWR_FAIL_N and RESET_N, commit-done, resets and the fatal dump
(chapters 1, 5, 14 and 16). -/

namespace Sys2Proof.Machine

/-! ### VAON (R437, R444, R446) -/

/-- VAON_POWER_ON (R437): the Tailstock leaves reset; step 2 waits for PWR_FAIL_N. -/
def execVaonPowerOn (s : State) : Host.Outcome State Fault Refusal :=
  if s.seq.vaon then done s
  else
    let s := modSeq s fun q => { q with vaon := true, tsNs := 0 }
    done (if s.seq.pwrFailN then startPowerUp s false else s)

/-- VAON_POWER_LOSS (R163, R444): what a running commit had written is left; everything volatile is lost, the SEQ registers with it. The
levels that the board drives on the pins stay. -/
def execVaonPowerLoss (progress : CommitProgress) (s : State) : Host.Outcome State Fault Refusal :=
  if !s.seq.vaon then done s
  else
    let s := tearCommit s progress
    let s := enterReset { s with krf := { s.krf with running := none } } { kind := .powerOn, causes := 1 }
    done { s with regs := []
                  hw := s.hw.filter fun e => !inSeqWindow e.1
                  glb := { s.glb with held := { kind := .powerOn, causes := 1 } }
                  seq := { Seq.initial with pg := s.seq.pg, pwrFailN := s.seq.pwrFailN, resetN := s.seq.resetN } }

/-! ### One channel of a power-up (R437 to R439) -/

/-- A channel's bit of a 12-bit field. -/
def railBit (c : Rail) : BitVec 12 := BitVec.ofNat 12 (2 ^ c.val)

/-- A power-up runs. -/
def poweringUp (s : State) : Bool :=
  match s.seq.phase with
  | .phaseA | .profile | .phaseB => true
  | _ => false

/-- The rails are going down. -/
def goingDown (s : State) : Bool :=
  match s.seq.phase with
  | .down | .faultDown => true
  | _ => false

/-- SEQ_RAIL_DELAY_EXPIRY (R438 step 1): SEQ_EN goes high. -/
def execSeqRailDelayExpiry (c : Rail) (s : State) : Host.Outcome State Fault Refusal :=
  if s.seq.step = .delay c then done (modSeq s fun q => { q with enabled := c :: q.enabled, step := .ramp c }) else done s

/-- A transition of the raw SEQ_PG in the channel's settle window is counted (R438 step 3). -/
def countTransition (c : Rail) (q : Seq) : Seq := if q.step = .settle c then { q with transitions := q.transitions + 1 } else q

/-- A low of a monitored channel that was shorter than the deglitch is counted (R438). -/
def countGlitch (s : State) (c : Rail) : State :=
  raise (hwFldPut s Reg.SEQ_GLITCH (5 * c.val) 5 (sat 5 (bitsOf (hwGet s Reg.SEQ_GLITCH) (5 * c.val) 5 + 1))) Reg.SEQ_INT_STATUS 1

/-- A channel is monitored: enabled, deglitched good and past its settle window (R438). -/
def monitored (s : State) (c : Rail) : Bool :=
  s.seq.enabled.contains c && bitOf s.seq.good c.val && decide (s.seq.step ≠ .settle c)

/-- SEQ_PG_RISE (R438). -/
def execSeqPgRise (c : Rail) (wasLong : Bool) (s : State) : Host.Outcome State Fault Refusal :=
  if !s.seq.vaon ∨ bitOf s.seq.pg c.val then done (modSeq s fun q => { q with pg := q.pg ||| railBit c })
  else
    let s := modSeq s fun q => countTransition c { q with pg := q.pg ||| railBit c }
    done (if monitored s c ∧ !wasLong then countGlitch s c else s)

/-- SEQ_PG_FALL (R438, R442): a rail that falls in a down-sequence before its EN is withdrawn is latched. -/
def execSeqPgFall (c : Rail) (s : State) : Host.Outcome State Fault Refusal :=
  if !s.seq.vaon ∨ !bitOf s.seq.pg c.val then done (modSeq s fun q => { q with pg := q.pg &&& ~~~ railBit c })
  else
    let s := modSeq s fun q => countTransition c { q with pg := q.pg &&& ~~~ railBit c }
    done (if goingDown s ∧ s.seq.enabled.contains c then
        latchFault (modSeq s fun q => { q with lostDown := q.lostDown ||| railBit c }) 7 c.val false
      else s)

/-- PG_DEGLITCHED_GOOD (R438 step 2): the settle window opens. With SEQ0 good the line caches are invalidated (R180). -/
def execPgDeglitchedGood (c : Rail) (s : State) : Host.Outcome State Fault Refusal :=
  if s.seq.step = .ramp c ∧ bitOf s.seq.pg c.val then
    let s := modSeq s fun q => { q with step := .settle c, good := q.good ||| railBit c, transitions := 0 }
    done (if c = 0 then { s with rdp := { s.rdp with ready := true } } else s)
  else done s

/-- PG_TIMEOUT (R438, R439). -/
def execPgTimeout (c : Rail) (s : State) : Host.Outcome State Fault Refusal :=
  if s.seq.step = .ramp c then done (faultShutdown s 1 c) else done s

/-- More transitions than a settle window allows (R438). -/
def unstable (s : State) : Bool := decide (8 < s.seq.transitions)

/-- PG_UNSTABLE (R438, R439). -/
def execPgUnstable (c : Rail) (s : State) : Host.Outcome State Fault Refusal :=
  if s.seq.step = .settle c ∧ unstable s then done (faultShutdown s 3 c) else done s

/-- The rails whose loss leaves no time for a commit (R439). -/
def vitalRail (c : Rail) : Bool := c == 0 || c == 1 || c == 6 || c == 7

/-- A rail that has been low for longer than the deglitch no longer counts as good (R438, SEQ_STATUS.GOOD). -/
def railLow (s : State) (c : Rail) : State := modSeq s fun q => { q with good := q.good &&& ~~~ railBit c }

/-- PG_LOST (R438, R439): a fault shutdown at once, or, with the rails up and another rail lost, after the commit. While the rails go down it only
ends the rail's GOOD (R442, R453). -/
def execPgLost (c : Rail) (s : State) : Host.Outcome State Fault Refusal :=
  if !s.seq.enabled.contains c ∨ !bitOf s.seq.good c.val ∨ bitOf s.seq.pg c.val then done s
  else if poweringUp s then done (faultShutdown (railLow s c) 2 c)
  else if s.seq.phase ≠ .on then done (railLow s c)
  else if vitalRail c then done (faultShutdown (railLow s c) 2 c)
  else done (powerFails (modSeq (latchFault (railLow s c) 2 c.val true) fun q => { q with toLatched := true }) .pwrFail)

/-- Step 3 of a power-up (R437): the profile in force is read and the shadow reloaded; phase B begins. -/
def beginPhaseB (s : State) : State :=
  let s := modSeq s fun q => { q with shadow := railShadow (profileInForce s), phase := .phaseB }
  nextRail s (phaseB s)

/-- Power-up complete (R437 step 5). -/
def powerUpComplete (s : State) : State :=
  modSeq s fun q => { q with phase := .on, upTime := BitVec.ofNat 12 (sat 12 ((q.tsNs - q.upStart) / 100000)) }

/-- The settle window of the channel in hand has ended (R437): the next channel, the profile read, or power-up complete. -/
def settleEnds (s : State) : State :=
  let s := nextRail s s.seq.todo
  if s.seq.step ≠ .idle then s
  else if s.seq.phase = .phaseA then beginPhaseB s
  else powerUpComplete s

/-- SETTLE_WINDOW_END (R437). -/
def execSettleWindowEnd (c : Rail) (s : State) : Host.Outcome State Fault Refusal :=
  if s.seq.step = .settle c ∧ !unstable s then done (settleEnds s) else done s

/-! ### The rails down (R439, R441, R442) -/

/-- The discharge sense of a rail can read below threshold: that of a board rail is SEQ_PG low (R433). -/
def dischargeSense (s : State) (c : Rail) : Bool := decide (c.val < 9) || !bitOf s.seq.pg c.val

/-- DISCHARGE_DONE (R433, R439). -/
def execDischargeDone (c : Rail) (s : State) : Host.Outcome State Fault Refusal :=
  if s.seq.step = .discharge c ∧ dischargeSense s c then done (nextDown s) else done s

/-- DISCHARGE_TIMEOUT (R442). -/
def execDischargeTimeout (c : Rail) (s : State) : Host.Outcome State Fault Refusal :=
  if s.seq.step = .discharge c then done (nextDown (latchFault s 6 c.val false)) else done s

/-! ### PWR_FAIL_N (R158, R441, R443) -/

/-- PWR_FAIL_N_FALL (R158, R443): in a power-up, the channels enabled so far go down. -/
def execPwrFailNFall (s : State) : Host.Outcome State Fault Refusal :=
  let s := modSeq s fun q => { q with pwrFailN := false }
  done (if poweringUp s then takeDown s false else s)

/-- PWR_FAIL_N_RISE (R437 step 2, R443): the first power-up since VAON starts at once; else the restart timer runs. -/
def execPwrFailNRise (s : State) : Host.Outcome State Fault Refusal :=
  let s := modSeq s fun q => { q with pwrFailN := true }
  done (if s.seq.vaon ∧ s.seq.phase = .off ∧ s.seq.first then startPowerUp s false else s)

/-- PWR_FAIL_RECOGNISED (R158, R159, R441). -/
def execPwrFailRecognised (s : State) : Host.Outcome State Fault Refusal :=
  if s.seq.phase = .on ∧ !s.seq.pwrFailN then
    done (powerFails (if coreUp s then nmi s 1 else s) .pwrFail)
  else done s

/-- POWER_UP_RESTART_TIMER (R443). -/
def execPowerUpRestartTimer (s : State) : Host.Outcome State Fault Refusal :=
  if s.seq.vaon ∧ s.seq.phase = .off ∧ s.seq.pwrFailN then done (startPowerUp s false) else done s

/-! ### Commit-done (R159, R161, R441) -/

/-- A commit has nothing left to wait for: no merge fetches, and no command waits for the bitmap (step 2 of R159). -/
def commitQuiet (s : State) : Bool :=
  s.krf.slots.all (fun e => decide (e.2.state ≠ .fetching)) && s.cmds.all fun x => decide (x.stage ≠ .bitmap)

/-- COMMIT_DONE (R159 step 7, R161): the commands that waited go on, then what waits for the commit follows. -/
def execCommitDone (us : BitVec 32) (s : State) : Host.Outcome State Fault Refusal :=
  match s.krf.running with
  | none => done s
  | some (why, _) =>
    if !commitQuiet s then done s
    else
      let s := completeArea s us
      done (afterCommit (settle { s with krf := { s.krf with running := none, done := true } }) why)

/-- COMMIT_TO_EXPIRY (R441). -/
def execCommitToExpiry (s : State) : Host.Outcome State Fault Refusal :=
  if s.seq.commitWait then done (waitEnd (latchFault s 5 0 false)) else done s

/-! ### RESET_N (R158, R440, R447) -/

/-- RESET_N_FALL (R447). -/
def execResetNFall (s : State) : Host.Outcome State Fault Refusal := done (modSeq s fun q => { q with resetN := false })

/-- RESET_N_RECOGNISED (R158, R447). -/
def execResetNRecognised (s : State) : Host.Outcome State Fault Refusal :=
  if !s.seq.vaon ∨ s.seq.resetN then done s
  else
    let s := modSeq s fun q => { q with resetSeen := true }
    done (if s.seq.phase = .on then askReset s { kind := .full, causes := 2 } else s)

/-- RESET_N_RISE (R440, R447). -/
def execResetNRise (s : State) : Host.Outcome State Fault Refusal :=
  let restart := s.seq.vaon && s.seq.resetSeen && decide (s.seq.phase = .latched) && s.seq.pwrFailN
  let s := modSeq s fun q => { q with resetN := true, resetSeen := false }
  done (if restart then startPowerUp s true else s)

/-! ### SEQ_CTRL and SEQ_FAULT (R440, R444, R453) -/

/-- A SEQ register can be written: over SMBus while VAON is up, over BAR0 while the core is up (R451). -/
def seqWritable (s : State) (overSmbus : Bool) : Bool := s.seq.vaon && (overSmbus || coreUp s)

/-- The access goes over SMBus, or over BAR0, where it is one of R17. -/
def overPcie (s : State) (overSmbus : Bool) (o : Nat) : State := if overSmbus then s else touch s o

/-- SEQ_CTRL.RESTART is written (R440). -/
def seqRestart (s : State) : State :=
  if s.seq.pwrFailN ∧ (s.seq.phase = .off ∨ s.seq.phase = .latched) then startPowerUp s (decide (s.seq.phase = .latched)) else s

/-- SEQ_CTRL.DOWN is written with its key (R444): as PWR_FAIL_N does, whatever PWR_FAIL_N does afterwards. -/
def seqDown (s : State) (key : BitVec 16) : State :=
  if key ≠ 0xC3A5 then s
  else if s.seq.phase = .on then powerFails (modSeq s fun q => { q with downAsked := true }) .down
  else if poweringUp s then takeDown s false
  else s

/-- SEQ_CTRL_RESTART (R440). -/
def execSeqCtrlRestart (overSmbus : Bool) (s : State) : Host.Outcome State Fault Refusal :=
  if seqWritable s overSmbus then done (seqRestart (overPcie s overSmbus Reg.SEQ_CTRL)) else done s

/-- SEQ_CTRL_DOWN (R444). -/
def execSeqCtrlDown (key : BitVec 16) (overSmbus : Bool) (s : State) : Host.Outcome State Fault Refusal :=
  if seqWritable s overSmbus then done (seqDown (overPcie s overSmbus Reg.SEQ_CTRL) key) else done s

/-- SEQ_FAULT_CLEAR (R453): the whole latch is cleared. -/
def execSeqFaultClear (overSmbus : Bool) (s : State) : Host.Outcome State Fault Refusal :=
  if seqWritable s overSmbus then done (hwSet (overPcie s overSmbus Reg.SEQ_FAULT) Reg.SEQ_FAULT 0) else done s

/-! ### Resets asked for by software (R36, R357) -/

/-- GLB_SOFT_RESET is written (R36). -/
def softReset (s : State) (key : BitVec 16) (kind : ResetKind) : State :=
  if key ≠ 0xA5C3 then badAccess s 0x24
  else if s.glb.asked.isSome then s
  else askReset s { kind := kind, causes := 4 }

/-- GLB_SOFT_RESET_FULL (R36). -/
def execGlbSoftResetFull (key : BitVec 16) (s : State) : Host.Outcome State Fault Refusal :=
  if coreUp s then done (softReset (touch s Reg.GLB_SOFT_RESET) key .full) else done s

/-- GLB_SOFT_RESET_WARM (R36). -/
def execGlbSoftResetWarm (key : BitVec 16) (s : State) : Host.Outcome State Fault Refusal :=
  if coreUp s then done (softReset (touch s Reg.GLB_SOFT_RESET) key .warm) else done s

/-- FW_RESET_NOW_TIMER (R357): 10 ms after the command's DONE, the warm reset. -/
def execFwResetNowTimer (s : State) : Host.Outcome State Fault Refusal :=
  if s.fw.resetNow ∧ coreUp s then done (softReset (modFw s fun w => { w with resetNow := false }) 0xA5C3 .warm) else done s

/-! ### Fatal conditions, the dump and the watchdog (R334, R401, R448) -/

/-- HEADSTOCK_WATCHDOG_EXPIRY (R334, R448). -/
def execHeadstockWatchdogExpiry (s : State) : Host.Outcome State Fault Refusal :=
  if coreUp s ∧ !bitOf (hwGet s Reg.GLB_FATAL_STATUS) 2 then
    done (settle (setFatal { s with glb := { s.glb with wdogPending := true } } 2))
  else done s

/-- FW_ASSERT (R401): firmware that runs stops on an internal check. -/
def execFwAssert (s : State) : Host.Outcome State Fault Refusal :=
  if coreUp s ∧ s.fw.running.isSome then done (settle (setFatal s 3)) else done s

/-- WATCHDOG_RESET_TIMEOUT (R448): the full reset 25 ms after WDOG was set. -/
def execWatchdogResetTimeout (s : State) : Host.Outcome State Fault Refusal :=
  if !s.glb.wdogPending then done s
  else
    let wdog : ResetAsk := { kind := .full, causes := 8 }
    let s := enterReset s (match s.glb.asked with | some r => mergeAsk r wdog | none => wdog)
    done (if s.seq.commitWait then waitEnd s else s)

/-- After the dump of a critical stop VDD_CORE is 650 mV (R428). -/
def coolDown (s : State) : State := if s.thm.crit then { s with thm := { s.thm with vdd := 650 } } else s

/-- DUMP_COMPLETE (R401 step 3): the dump is held, and a reset that waits for it takes effect. -/
def execDumpComplete (truncated : List (Fin 10)) (s : State) : Host.Outcome State Fault Refusal :=
  if s.dumps.writing then done (afterDump (coolDown (endDump s truncated))) else done s

end Sys2Proof.Machine
end

