-- ==== Sys2Proof/Machine/Endpoint.lean ====
section
/-! DEFINITION. The events of the PCIe endpoint: its resets, its link and pending vectors (chapters 12 and 17). -/

namespace Sys2Proof.Machine

/-- The link goes down (R338, R339). -/
def pcieLinkLost (s : State) : State :=
  let s := pcieReset s
  { s with pcie := { s.pcie with linkUp := false } }

/-- MSIX_PENDING_SEND (R339): nothing holds the vector back any more. -/
def execMsixPendingSend (vec : Fin 32) (s : State) : Host.Outcome State Fault Refusal :=
  if bitOf s.pcie.pba vec.val ∧ vectorFree s.pcie vec.val then
    done (emit { s with pcie := { s.pcie with pba := putBit s.pcie.pba vec.val false } } (.msix (BitVec.ofNat 5 vec.val)))
  else done s

/-- PCIE_FLR (R338): Function Level Reset. -/
def execPcieFlr (s : State) : Host.Outcome State Fault Refusal := if s.pcie.linkUp then done (pcieReset s) else done s

/-- PCIE_HOT_RESET (R338): the link trains again after it (PCIE_LINK_UP). -/
def execPcieHotReset (s : State) : Host.Outcome State Fault Refusal := if s.pcie.linkUp then done (pcieLinkLost s) else done s

/-- PCIE_D3HOT_TO_D0 (R338). D3hot is entered by a write of the configuration space (`cfgWrite`), which has no row of its own: commanded in D0,
this row stands for the excursion to D3hot and back (DESIGN CHOICE, log entry 70). -/
def execPcieD3hotToD0 (s : State) : Host.Outcome State Fault Refusal := if s.pcie.linkUp then done (pcieReset s) else done s

/-- PCIE_LINK_DOWN (R338, R339). -/
def execPcieLinkDown (s : State) : Host.Outcome State Fault Refusal := if s.pcie.linkUp then done (pcieLinkLost s) else done s

/-- PCIE_PERST_N_ASSERT (R458): a fundamental reset of the endpoint only. -/
def execPciePerstNAssert (s : State) : Host.Outcome State Fault Refusal :=
  let s := pcieLinkLost s
  done { s with pcie := { s.pcie with perstN := false } }

/-- PCIE_LINK_UP (R337, R339, R414): the link has trained, so PCIE_PERST_N is high; its reference passes; host software sets or clears
Bus Master Enable, and enables the function's memory space and MSI-X (DESIGN CHOICE, log entry 70). -/
def execPcieLinkUp (busMaster : Bool) (s : State) : Host.Outcome State Fault Refusal :=
  if s.seq.phase = .on ∧ s.clk.pcie.ok ∧ !s.clk.pcie.failed then
    done { s with pcie := { s.pcie with
      linkUp := true
      perstN := true
      cfg := { s.pcie.cfg with busMaster := busMaster, memory := true, msixOn := true } } }
  else done s

end Sys2Proof.Machine
end

