-- ==== Sys2Proof/Machine/HostLink.lean ====
section
/-! DEFINITION. The links of the host ports: bring-up, loss, bursts and the host's calendar (chapter 3). -/

namespace Sys2Proof.Machine

/-! ### Bring-up and loss (R81, R95 to R98, R102) -/

/-- Commands partly received are discarded with their packets (R97), channel by channel in ascending order, so that HPn_LAST_DISCARD names the
highest: R97 gives no order (DESIGN CHOICE, log entry 74). -/
def dropPackets (s : State) (p : HPort) : State :=
  let s' := (s.ports[p]).packets.foldl (fun s e =>
    if e.2.partialBytes.isEmpty ∨ e.2.dropping.isSome then s else discardCmds s p (BitVec.ofNat 8 e.1) 4 1) s
  modPort s' p fun q => { q with packets := [] }

/-- The locks of a port are gone: bring-up restarts at step 2 (R96). -/
def unlockPort (s : State) (p : HPort) : State :=
  modPort s p fun q => { q with cwLock := false, wordLock := 0, mfLock := 0, linkUp := false, txPackets := [] }

/-- A link goes down (R96, R97). -/
def portDown (s : State) (p : HPort) : State :=
  if !(s.ports[p]).linkUp then unlockPort s p
  else
    let s := dropPackets (unlockPort s p) p
    let s := discardAll s p
    evt (raise (hwSat s (Reg.HP_LINK_DOWNS p.val) 32 1) (Reg.HP_INT_STATUS p.val) 1) Ev.HP_LINK_DOWN p.val 0

/-- HOST_SIGNAL_VALID (R95): the host's signal is valid on all lanes. -/
def execHostSignalValid (p : HPort) (s : State) : Host.Outcome State Fault Refusal :=
  if portRuns s p then done (modPort s p fun q => { q with signal := true }) else done s

/-- The skew of every physical lane of a port is measured: HPn_LANE_STATk.SKEW (R82, R103). -/
def noteSkew (s : State) (p : HPort) (skew : Vector Byte 8) : State :=
  (List.finRange 8).foldl (fun s k => hwFldPut s (Reg.HP_LANE_STAT p.val k.val) 16 8 (skew[k]).toNat) s

/-- CODEWORD_LOCK (R81, R95 step 2). -/
def execCodewordLock (x : LockSeen) (s : State) : Host.Outcome State Fault Refusal :=
  if portRuns s x.port ∧ (s.ports[x.port]).signal then
    done (noteSkew (modPort s x.port fun q => { q with cwLock := true }) x.port x.skew)
  else done s

/-- Uncorrectable codewords are received: HPn_FEC_UNCORR_CW and the port's cause bit (R103). -/
def countUncorr (s : State) (p : HPort) (n : Nat) : State :=
  if n = 0 then s else raise (hwAdd s (Reg.HP_FEC_UNCORR_CW p.val) n) (Reg.HP_INT_STATUS p.val) 2

/-- CODEWORD_LOCK_LOST (R81, R96): three consecutive codewords were uncorrectable. -/
def execCodewordLockLost (p : HPort) (s : State) : Host.Outcome State Fault Refusal :=
  if (s.ports[p]).cwLock then done (settle (portDown (countUncorr s p 3) p)) else done s

/-- WORD_LOCK (R95 step 3). -/
def execWordLock (p : HPort) (l : Lane) (s : State) : Host.Outcome State Fault Refusal :=
  if (s.ports[p]).cwLock then done (modPort s p fun q => { q with wordLock := q.wordLock ||| BitVec.ofNat 8 (2 ^ l.val) }) else done s

/-- WORD_LOCK_LOST (R96): 64 consecutive invalid sync headers. -/
def execWordLockLost (p : HPort) (l : Lane) (s : State) : Host.Outcome State Fault Refusal :=
  if bitOf (s.ports[p]).wordLock l.val then done (settle (portDown s p)) else done s

/-- METAFRAME_LOCK (R95 step 4). -/
def execMetaframeLock (p : HPort) (l : Lane) (s : State) : Host.Outcome State Fault Refusal :=
  if (s.ports[p]).wordLock = 0xFF then done (modPort s p fun q => { q with mfLock := q.mfLock ||| BitVec.ofNat 8 (2 ^ l.val) })
  else done s

/-- METAFRAME_LOCK_LOST (R96): 4 consecutive invalid synchronisation words. -/
def execMetaframeLockLost (p : HPort) (l : Lane) (s : State) : Host.Outcome State Fault Refusal :=
  if bitOf (s.ports[p]).mfLock l.val then done (settle (portDown s p)) else done s

/-- The link of a port comes up: a new link session, with the MetaFrame and calendar lengths as they are set (R85, R95, R113). Until
the host's first calendar word has come every entry of its calendar stands at 1, so that responses may leave: DESIGN CHOICE (log entry
59), R92 says nothing of that time. -/
def linkComesUp (s : State) (p : HPort) (alignNs : BitVec 32) : State :=
  let s := modPort s p fun q =>
    { q with linkUp := true, session := q.session + 1, metaframe := cfgFld s (Reg.HP_METAFRAME p.val) 0 15,
             calLen := cfgFld s (Reg.HP_CAL p.val) 0 5, xoff := refold q (cfgFld s (Reg.HP_CAL p.val) 0 5), packets := [],
             hostXoff := 0, calRx := none, calTx := 0, txPackets := [] }
  let s := hwSet s (Reg.HP_ALIGN_NS p.val) (alignNs.setWidth 64)
  evt (raise s (Reg.HP_INT_STATUS p.val) 0) Ev.HP_LINK_UP p.val 0

/-- HP_LINK_UP (R95 step 5). -/
def execHpLinkUp (p : HPort) (alignNs : BitVec 32) (s : State) : Host.Outcome State Fault Refusal :=
  if (s.ports[p]).mfLock = 0xFF ∧ !(s.ports[p]).linkUp ∧ portRuns s p then done (settle (linkComesUp s p alignNs)) else done s

/-- HPn_CTRL.ENABLE is written: 0 takes the link down; ignored on a port that is not fitted (R96, R103). -/
def setEnable (s : State) (p : HPort) (on : Bool) : State :=
  if !(s.ports[p]).fitted then s
  else
    let s := setCfg s (Reg.HP_CTRL p.val) (putBit (cfg s (Reg.HP_CTRL p.val)) 0 on)
    if on then s else settle (portDown s p)

/-- HP_CTRL_ENABLE (R96). -/
def execHpCtrlEnable (p : HPort) (enable : Bool) (s : State) : Host.Outcome State Fault Refusal :=
  if coreUp s then done (setEnable (touch s (Reg.HP_CTRL p.val)) p enable) else done s

/-- HPn_CTRL.FAR_LOOP is set or cleared: the link goes down (R102). -/
def setFarLoop (s : State) (p : HPort) (on : Bool) : State :=
  if cfgBit s (Reg.HP_CTRL p.val) 1 = on then s
  else settle (portDown (setCfg s (Reg.HP_CTRL p.val) (putBit (cfg s (Reg.HP_CTRL p.val)) 1 on)) p)

/-- HP_FAR_LOOP (R102). -/
def execHpFarLoop (p : HPort) (on : Bool) (s : State) : Host.Outcome State Fault Refusal :=
  if coreUp s then done (setFarLoop (touch s (Reg.HP_CTRL p.val)) p on) else done s

/-! ### Bursts (R86, R88, R91, R99 to R101, R104 to R107) -/

/-- The bytes a command takes, if its slot has arrived (R105). -/
def slotLength (l : List Byte) : Option Nat := if l.length < 16 then none else some (16 + 64 * (leAt l 1 1 % 8))

/-- A command from its bytes (R104). -/
def slotOf (p : HPort) (c : HChan) (l : List Byte) : Slotted where
  port := p
  chan := c
  code := BitVec.ofNat 8 (leAt l 0 1)
  du := leAt l 1 1 % 8
  tag := BitVec.ofNat 12 (leAt l 0 3 / 4096)
  addr := BitVec.ofNat 40 (leAt l 3 5)
  operand := BitVec.ofNat 64 (leAt l 8 8)
  data := BitVec.ofNat 2048 (leAt l 16 256)

/-- The commands that bytes complete, and what is left; `fuel` bounds their number. -/
def slotsOf (p : HPort) (c : HChan) : Nat → List Byte → List Slotted × List Byte
  | 0, l => ([], l)
  | fuel + 1, l =>
    match slotLength l with
    | none => ([], l)
    | some n =>
      if l.length < n then ([], l)
      else
        let r := slotsOf p c fuel (l.drop n)
        (slotOf p c (l.take n) :: r.1, r.2)

/-- The commands of a burst's bytes after those of an incomplete command. -/
def burstSlots (p : HPort) (c : HChan) (l : List Byte) : List Slotted × List Byte := slotsOf p c (l.length / 16) l

/-- A channel without an open packet. -/
def OpenPacket.start : OpenPacket := { len := 0, partialBytes := [], dropping := none }

/-- Change the open packet of a channel. -/
def putPacket (s : State) (p : HPort) (c : HChan) (v : Option OpenPacket) : State :=
  modPort s p fun q => { q with packets := match v with | some x => fput q.packets c.toNat x | none => fdel q.packets c.toNat }

/-- The first error of a burst in table order (errors and discards): 0 FEC, 1 CRC24, 2 protocol. `was` is the open packet it belongs to.
Where several errors fall on one burst, R101 orders only HPn_LAST_DISCARD; that only the first one's counter, cause bit and event rise
is a DESIGN CHOICE (log entry 60). So is that a burst with neither SOP nor EOP on a channel without an open packet is a protocol error,
as the table says of an EOP there, and that each further burst of a packet already over 4,096 B is one more. -/
def burstError (b : Burst) (was : Option OpenPacket) : Option Nat :=
  let len := (if b.sop then 0 else (was.map (·.len)).getD 0) + b.bytes.length
  if b.fecBad then some 0
  else if b.crcBad then some 1
  else if 256 < b.bytes.length ∨ b.ctrlBad ∨ (!b.sop ∧ was.isNone) ∨ 4096 < len ∨ (b.eop ∧ len % 16 ≠ 0) then some 2
  else none

/-- A cause of discard is counted and reported (R100). -/
def countError (s : State) (p : HPort) (k : Nat) : State :=
  match k with
  | 0 => evt (raise s (Reg.HP_INT_STATUS p.val) 2) Ev.HP_FEC_UNCORR p.val 0
  | 1 => evt (raise (hwSat s (Reg.HP_BURST_CRC_ERR p.val) 32 1) (Reg.HP_INT_STATUS p.val) 3) Ev.HP_BURST_CRC p.val 0
  | _ => evt (raise (hwSat s (Reg.HP_PROTO_ERR p.val) 32 1) (Reg.HP_INT_STATUS p.val) 4) Ev.HP_PROTO p.val 0

/-- A burst is discarded with the rest of its packet; each command that begins in what is discarded is counted once, and one that had begun
before the first discard as well (R100, R101). `cause`: as HPn_LAST_DISCARD.CAUSE; the rest of the packet is counted under the cause of its
first discard and reported no second time. A burst without SOP or EOP that found no packet open opens one that is dropped up to its EOP,
so a SOP that comes before counts as one on an open packet: DESIGN CHOICE (log entry 60). -/
def discardBurst (s : State) (p : HPort) (c : HChan) (b : Burst) (was : OpenPacket) (cause : Fin 16) : State :=
  let held := was.partialBytes
  let r := burstSlots p c (held ++ b.bytes)
  let begun := r.1.length + (if r.2.isEmpty then 0 else 1)
  let n := if was.dropping.isSome ∧ !held.isEmpty then begun - 1 else begun
  let s := if was.dropping = some cause then countDiscard s p c cause.val n else discardCmds s p c cause.val n
  putPacket s p c (if b.eop then none
    else some { len := was.len + b.bytes.length, partialBytes := r.2, dropping := some cause })

/-- A packet ends inside a command (R107). -/
def truncatedCmd (s : State) (p : HPort) (c : HChan) : State := discardCmds (countError s p 2) p c 2 1

/-- A SOP finds a packet open: the open one is closed as truncated. -/
def closeOpen (s : State) (p : HPort) (c : HChan) (was : OpenPacket) : State :=
  if was.dropping.isSome ∨ was.partialBytes.isEmpty then countError (putPacket s p c none) p 2
  else truncatedCmd (putPacket s p c none) p c

/-- A SOP in a burst that is itself in error finds a packet open: the command half received there is not accepted (R100). -/
def cutOpen (s : State) (p : HPort) (was : OpenPacket) : State :=
  if was.dropping.isSome ∨ was.partialBytes.isEmpty then s else countLost s p 1

/-- Units that a burst needs in the receive buffer: the commands it completes, and what it brings of one that goes on (R90, R91). -/
def burstUnits (s : State) (b : Burst) (r : List Slotted × List Byte) : Nat :=
  (r.1.map fun x => cmdUnits (acceptedCmd s x)).sum + (if b.eop then 0 else unitsOf r.2.length)

/-- A burst without error: the commands it completes are accepted (R88). It is discarded if the receive buffer has no room for it
(R91); where its SOP closed an open packet as truncated, that error stands before a full buffer in the table, and HPn_LAST_DISCARD
keeps its cause (R101). -/
def takeBurst (s : State) (p : HPort) (c : HChan) (b : Burst) (was : OpenPacket) (closed : Bool) : State :=
  let r := burstSlots p c (was.partialBytes ++ b.bytes)
  if s.glb.state.serves ∧ 1024 < receiveUnits s p + partUnits s p c + burstUnits s b r then
    let s := discardBurst s p c b was 3
    if closed then lastDiscard s p c 2 else s
  else
    let s := putPacket s p c (if b.eop then none
      else some { len := was.len + b.bytes.length, partialBytes := r.2, dropping := none })
    let s := r.1.foldl accept s
    if b.eop ∧ !r.2.isEmpty then truncatedCmd s p c else s

/-- Uncorrectable codewords that a burst reports: at least one where it was touched by one. -/
def burstUncorr (b : Burst) : Nat := max b.line.uncorrCw b.fecBad.toNat

/-- What the line showed is counted: corrected codewords and symbols, uncorrectable codewords, and the diagnostic words whose CRC32
failed (R84, R103). -/
def seeLine (s : State) (p : HPort) (b : Burst) : State :=
  let s := hwAdd (hwAdd s (Reg.HP_FEC_CORR_CW p.val) b.line.corrCw) (Reg.HP_FEC_CORR_SYM p.val) b.line.corrSym
  let s := countUncorr (pmcCount s 0x103 (some p.val) b.line.corrCw) p (burstUncorr b)
  b.line.crc32.foldl (fun s k =>
    let o := Reg.HP_LANE_STAT p.val k.val
    hwFldPut s o 0 16 (sat 16 (bitsOf (hwGet s o) 0 16 + 1))) s

/-- A burst arrives on a channel. -/
def burstIn (s : State) (p : HPort) (c : HChan) (b : Burst) : State :=
  let was := fget (s.ports[p]).packets c.toNat
  let s := hwAdd (seeLine s p b) (Reg.HP_RX_BYTES p.val) b.bytes.length
  let cur := if b.sop then OpenPacket.start else was.getD OpenPacket.start
  let closes := if b.sop then was else none
  match burstError b was with
  | some k =>
    let s := match closes with | some w => cutOpen s p w | none => s
    discardBurst (countError s p k) p c b cur (if k = 2 then 2 else 1)
  | none =>
    let s := match closes with | some w => closeOpen s p c w | none => s
    match cur.dropping with
    | some k => discardBurst s p c b cur k
    | none => takeBurst s p c b cur closes.isSome

/-- BURST_RECEIVED (R88). In far-end loopback the codewords are received, corrected and counted, and no command is accepted (R102, R103). -/
def execBurstReceived (p : HPort) (c : HChan) (b : Burst) (s : State) : Host.Outcome State Fault Refusal :=
  if loopedBack s p then done (if (s.ports[p]).cwLock then seeLine s p b else s)
  else if (s.ports[p]).linkUp then done (settle (burstIn s p c b))
  else done s

/-! ### The host's calendar (R89, R92) -/

/-- A control word of the host brings a calendar word: word 0 with the Reset Calendar bit, else the word after the last; words before
the first Reset Calendar bit, or beyond the calendar's length, name no entry (R89; log entry 59). -/
def calendarIn (q : Port) (w : CalWord) : Port :=
  match (if w.reset then some 0 else q.calRx) with
  | none => q
  | some k =>
    if k < q.calLen then { q with hostXoff := takeCalWord q.hostXoff k w.field, calRx := some (k + 1) } else q

/-- HOST_CALENDAR_RECEIVED (R89, R92). -/
def execHostCalendarReceived (p : HPort) (w : CalWord) (s : State) : Host.Outcome State Fault Refusal :=
  if (s.ports[p]).linkUp then done (modPort s p fun q => calendarIn q w) else done s

end Sys2Proof.Machine
end

