-- ==== Sys2Proof/Machine/Clocks.lean ====
section
/-! DEFINITION. Clock sources, pace and the Headstock's operating point (chapter 15). -/

namespace Sys2Proof.Machine

/-! ### The cross-count (R411 to R414) -/

/-- The state of a clock source: 0 REFCLK_SYS, 1 REFCLK_HP, 2 REFCLK_PCIE, 3 the oscillator. -/
def clkSrc (s : State) : Nat → ClkSrc
  | 0 => s.clk.sys
  | 1 => s.clk.hp
  | 2 => s.clk.pcie
  | _ => s.clk.osc

/-- Change the clock unit. -/
def modClk (s : State) (f : Clk → Clk) : State := { s with clk := f s.clk }

/-- Store the state of a clock source. -/
def putSrc (s : State) (k : Nat) (v : ClkSrc) : State :=
  modClk s fun c => match k with
    | 0 => { c with sys := v }
    | 1 => { c with hp := v }
    | 2 => { c with pcie := v }
    | _ => { c with osc := v }

/-- The profile declares a source present; the oscillator always is (R377, R411). -/
def clkPresent (s : State) (k : Nat) : Bool :=
  match k with
  | 0 => clockFitted s 2
  | 1 => clockFitted s 0
  | 2 => clockFitted s 1
  | _ => true

/-- REFCLK_SYS cannot judge: it has failed or is absent. -/
def sysGone (s : State) : Bool := s.clk.sys.failed || !clkPresent s 0

/-- The limits of a source's count (R411). While REFCLK_SYS cannot judge the oscillator, only a window with no edge is outside. -/
def clkLimits (s : State) (k : Nat) : Nat × Nat :=
  match k with
  | 0 => if s.clk.learned < 1000 then (220, 280) else (245, 255)
  | 1 => if sysGone s then (1516, 1609) else (1555, 1570)
  | 2 => if sysGone s then (970, 1030) else (995, 1005)
  | _ => if sysGone s then (1, 65535) else (3520, 4480)

/-- A window's count lies within the limits. -/
def clkPass (s : State) (k : Nat) (n : BitVec 16) : Bool :=
  decide ((clkLimits s k).1 ≤ n.toNat) && decide (n.toNat ≤ (clkLimits s k).2)

/-- A host port's reference is gone: it goes down and restarts at step 1 (R96, R412). -/
def portsLose (s : State) : State :=
  (List.finRange 4).foldl (fun s p => modPort (portDown s p) p fun q => { q with signal := false }) s

/-- What the device does about a failed source (R412). -/
def clkAction (s : State) (k : Nat) : State :=
  match k with
  | 0 => modClk s fun c => { c with onOsc := true }
  | 1 => mirLinkLost (mirLinkLost (portsLose s) 0) 1
  | 2 => pcieLinkLost s
  | _ => modClk s fun c => { c with tailOnSys := true }

/-- A source fails (R412). -/
def clkFail (s : State) (k : Nat) : State :=
  let s := raise s Reg.CLK_INT_STATUS k
  let s := hwSet s Reg.CLK_LAST_FAIL s.time
  let s := hwFldPut s Reg.CLK_STATUS 16 3 (k + 1)
  clkAction (evt (nmi s 0) Ev.CLK_REFCLK_FAIL k 0) k

/-- A failed source is restored (R414). That the Tailstock's timing moves back to a restored oscillator is DEDUCED (log entry 72). -/
def clkRestore (s : State) (k : Nat) : State :=
  let s := evt (raise s Reg.CLK_INT_STATUS 4) Ev.CLK_REFCLK_OK k 0
  if k = 0 then modClk s fun c => { c with onOsc := false }
  else if k = 3 then modClk s fun c => { c with tailOnSys := false }
  else s

/-- A source's window has ended (R411, R412, R414). -/
def clkWindow (s : State) (k : Nat) (n : BitVec 16) : State :=
  if !clkPresent s k then s else
  let pass := clkPass s k n
  let c := clkSrc s k
  let s := hwSet s ([Reg.CLK_XC_SYS, Reg.CLK_XC_HP, Reg.CLK_XC_PCIE, Reg.CLK_XC_OSC].getD k 0) (fld n.toNat 0 ||| flag pass 31)
  if pass then
    if !c.failed then putSrc s k { c with ok := true, bad := 0, good := 0 }
    else if c.good + 1 < 100 then putSrc s k { c with bad := 0, good := c.good + 1 }
    else clkRestore (putSrc s k { ok := true, failed := false, bad := 0, good := 0 }) k
  else if c.failed ∨ c.bad + 1 < 2 then putSrc s k { c with bad := c.bad + 1, good := 0 }
  else clkFail (putSrc s k { ok := false, failed := true, bad := c.bad + 1, good := 0 }) k

/-- The next window begins with the effective value of REFOSC_TRIM (R375). -/
def takeTrim (s : State) : State := modClk s fun c => { c with trim := effective s 4 0 }

/-- CROSS_COUNT_WINDOW_END (R411, R412, R414): the loss of REFCLK_SYS together with the oscillator is the fault CLOCK (R439). -/
def execCrossCountWindowEnd (sys hp pcie osc : BitVec 16) (s : State) : Host.Outcome State Fault Refusal :=
  if !coreUp s then done s
  else
    let s := clkWindow (clkWindow (clkWindow (clkWindow s 0 sys) 1 hp) 2 pcie) 3 osc
    done (if sysGone s ∧ s.clk.osc.failed then faultShutdown s 4 0 else settle (takeTrim s))

/-- The learned ratio × 65,536 after a measurement: it moves by at most 100 ppm per second, so 0.1 ppm per measurement (R411). -/
def ratioStep (fine ratio : Nat) : Nat :=
  let goal := ratio * 65536
  let most := fine / 10000000
  if fine ≤ goal then min goal (fine + most) else max goal (fine - most)

/-- OSC_RATIO_MEASURE (R411): 1 ms while REFCLK_SYS passes. -/
def execOscRatioMeasure (ratio : BitVec 32) (s : State) : Host.Outcome State Fault Refusal :=
  if coreUp s ∧ s.clk.sys.ok ∧ !s.clk.sys.failed then
    done (modClk s fun c => { c with fine := ratioStep c.fine ratio.toNat, learned := min 1000 (c.learned + 1) })
  else done s

/-- HS_OPP_TRANSITION_END (R415, R416): the new point is in force; the mailbox that asked for it is answered. -/
def execHsOppTransitionEnd (s : State) : Host.Outcome State Fault Refusal :=
  match s.clk.move with
  | none => done s
  | some v =>
    let s := modClk s fun c => { c with opp := v.target, move := none }
    let s := evt (raise s Reg.CLK_INT_STATUS 5) Ev.CLK_HS_OPP noInst v.target.toNat
    done (settle (mbxFinish s v.mbx 0 0 []))

/-! ### Pace (R407 to R410) -/

/-- Change the thermal manager. -/
def modThm (s : State) (f : Thm → Thm) : State := { s with thm := f s.thm }

/-- The governor's VDD_CORE, mV (R408): its setting plus VCORE_TRIM, clamped. -/
def governed (s : State) : Nat := (max 650 (min 850 (s.thm.setting + effective s 3 0))).toNat

/-- VDD_CORE in L0: the governor's, or 850 mV in self-heat (R408, R430). -/
def vddL0 (s : State) : Nat := if s.thm.selfHeat then 850 else governed s

/-- The floor pace of the band in force, M handshakes/s (R409). -/
def floorPace (s : State) : Nat := floorPct s.thm.band * 24

/-- PACE_SAMPLE (R407): the monitors stop after the dump of a critical stop (R428). -/
def execPaceSample (slowest : BitVec 16) (s : State) : Host.Outcome State Fault Refusal :=
  if coreUp s ∧ !critParked s then done (modThm s fun t => { t with slowest := slowest }) else done s

/-- The governor runs: in L0, and not while self-heat holds VDD_CORE, or after the dump of a critical stop (R408, R428, R430). -/
def governs (s : State) : Bool := coreUp s && decide (s.pwr.cur = 0) && !s.pwr.exiting && !s.thm.selfHeat && !critParked s

/-- The governor's setting after a step (R408). -/
def governorSetting (s : State) : Int :=
  let n := s.thm.slowest.toNat
  if n * 100 < 99 * 2400 then s.thm.setting + 5 else if 102 * 2400 < n * 100 then s.thm.setting - 5 else s.thm.setting

/-- GOVERNOR_STEP (R408). -/
def execGovernorStep (s : State) : Host.Outcome State Fault Refusal :=
  if governs s then
    let s := modThm s fun t => { t with setting := governorSetting s }
    done (modThm s fun t => { t with vdd := governed s })
  else done s

/-- PACE_LOW_TIMER (R410): the slowest monitor has stayed below the floor, or at or above it, for 100 µs. -/
def execPaceLowTimer (s : State) : Host.Outcome State Fault Refusal :=
  let slow := decide (s.thm.slowest.toNat < floorPace s)
  if !coreUp s ∨ critParked s then done s
  else if s.thm.paceLow then done (if slow then s else modThm s fun t => { t with paceLow := false })
  else if slow ∧ s.pwr.cur = 0 ∧ s.thm.vdd = 850 then
    done (raise (modThm s fun t => { t with paceLow := true }) Reg.THM_INT_STATUS 7)
  else done s

end Sys2Proof.Machine
end

