-- ==== Sys2Proof/Machine/HostCmd.lean ====
section
/-! DEFINITION. The commands of the host ports, and the events that carry an accepted command on: grants of charge and tokens, the
end of a FENCE or a PERSIST, and the sending of a response (chapters 2 to 6, 8, 9 and 15). -/

namespace Sys2Proof.Machine

/-- A command arrives at the logical interface of a stream: its payload bytes are counted, and it is accepted or not (R88). -/
def hostCommand (s : State) (x : Slotted) : State :=
  match arrival s x with
  | none => settle s
  | some _ => settle (accept (hwAdd s (Reg.HP_RX_BYTES x.port.val) (16 + 64 * x.du)) x)

/-- A slot of an opcode, with the fields it does not use zero. -/
def slotted (op : Op) (p : HPort) (c : HChan) (tag : BitVec 12) (du : BitVec 3) (addr : PA) (operand : Word64) (data : Sector) :
    Slotted where
  port := p
  chan := c
  code := BitVec.ofNat 8 op.code
  du := du.toNat
  tag := tag
  addr := addr
  operand := operand
  data := data

/-- NOP (R132). -/
def execNop (p : HPort) (c : HChan) (tag : BitVec 12) (du : BitVec 3) (s : State) : Host.Outcome State Fault Refusal :=
  done (hostCommand s (slotted .nop p c tag du 0 0 0))

/-- ECHO (R132). -/
def execEcho (p : HPort) (c : HChan) (tag : BitVec 12) (du : BitVec 3) (operand : Word64) (data : BitVec 2048) (s : State) :
    Host.Outcome State Fault Refusal :=
  done (hostCommand s (slotted .echo p c tag du 0 operand data))

/-- UNKNOWN_OPCODE (R114): a value that R114 does not list. -/
def execUnknownOpcode (p : HPort) (c : HChan) (tag : BitVec 12) (opcode : BitVec 8) (du : BitVec 3) (s : State) :
    Host.Outcome State Fault Refusal :=
  done (hostCommand s { slotted .unknown p c tag du 0 0 0 with code := opcode })

/-- RD64 (R116). -/
def execRd64 (p : HPort) (c : HChan) (tag : BitVec 12) (du : BitVec 3) (pa : PA) (s : State) :
    Host.Outcome State Fault Refusal :=
  done (hostCommand s (slotted .rd64 p c tag du pa 0 0))

/-- RD256 (R116). -/
def execRd256 (p : HPort) (c : HChan) (tag : BitVec 12) (du : BitVec 3) (pa : PA) (s : State) :
    Host.Outcome State Fault Refusal :=
  done (hostCommand s (slotted .rd256 p c tag du pa 0 0))

/-- WR64 (R117). -/
def execWr64 (p : HPort) (c : HChan) (tag : BitVec 12) (du : BitVec 3) (pa : PA) (data : Line) (s : State) :
    Host.Outcome State Fault Refusal :=
  done (hostCommand s (slotted .wr64 p c tag du pa 0 (data.setWidth 2048)))

/-- WR256 (R117). -/
def execWr256 (p : HPort) (c : HChan) (tag : BitVec 12) (du : BitVec 3) (pa : PA) (data : Sector) (s : State) :
    Host.Outcome State Fault Refusal :=
  done (hostCommand s (slotted .wr256 p c tag du pa 0 data))

/-- WRM64 (R118). -/
def execWrm64 (p : HPort) (c : HChan) (tag : BitVec 12) (du : BitVec 3) (pa : PA) (mask : BitVec 64) (data : Line) (s : State) :
    Host.Outcome State Fault Refusal :=
  done (hostCommand s (slotted .wrm64 p c tag du pa mask (data.setWidth 2048)))

/-- FADD64 (R119). -/
def execFadd64 (p : HPort) (c : HChan) (tag : BitVec 12) (du : BitVec 3) (pa : PA) (addend : Word64) (s : State) :
    Host.Outcome State Fault Refusal :=
  done (hostCommand s (slotted .fadd64 p c tag du pa addend 0))

/-- CSWAP64 (R119). -/
def execCswap64 (p : HPort) (c : HChan) (tag : BitVec 12) (du : BitVec 3) (pa : PA) (compare : Word64) (data : Line) (s : State) :
    Host.Outcome State Fault Refusal :=
  done (hostCommand s (slotted .cswap64 p c tag du pa compare (data.setWidth 2048)))

/-- CADD (R274). -/
def execCadd (p : HPort) (c : HChan) (tag : BitVec 12) (du : BitVec 3) (pa : PA) (deltas : Word64) (s : State) :
    Host.Outcome State Fault Refusal :=
  done (hostCommand s (slotted .cadd p c tag du pa deltas 0))

/-- CRD (R277). -/
def execCrd (p : HPort) (c : HChan) (tag : BitVec 12) (du : BitVec 3) (pa : PA) (s : State) :
    Host.Outcome State Fault Refusal :=
  done (hostCommand s (slotted .crd p c tag du pa 0 0))

/-- LKUP (R241). -/
def execLkup (p : HPort) (c : HChan) (tag : BitVec 12) (du : BitVec 3) (addr : BitVec 40) (operand : Word64) (data : BitVec 2048)
    (s : State) : Host.Outcome State Fault Refusal :=
  done (hostCommand s (slotted .lkup p c tag du addr operand data))

/-- ENQ (R263). -/
def execEnq (p : HPort) (c : HChan) (tag : BitVec 12) (du : BitVec 3) (addr : BitVec 40) (operand : Word64) (data : BitVec 2048)
    (s : State) : Host.Outcome State Fault Refusal :=
  done (hostCommand s (slotted .enq p c tag du addr operand data))

/-- DEQ (R127). -/
def execDeq (p : HPort) (c : HChan) (tag : BitVec 12) (du : BitVec 3) (addr : BitVec 40) (s : State) :
    Host.Outcome State Fault Refusal :=
  done (hostCommand s (slotted .deq p c tag du addr 0 0))

/-- QFLUSH (R266). -/
def execQflush (p : HPort) (c : HChan) (tag : BitVec 12) (du : BitVec 3) (addr : BitVec 40) (s : State) :
    Host.Outcome State Fault Refusal :=
  done (hostCommand s (slotted .qflush p c tag du addr 0 0))

/-- QSTAT (R130). -/
def execQstat (p : HPort) (c : HChan) (tag : BitVec 12) (du : BitVec 3) (addr : BitVec 40) (s : State) :
    Host.Outcome State Fault Refusal :=
  done (hostCommand s (slotted .qstat p c tag du addr 0 0))

/-- FENCE (R62): from its dispatch on it holds its stream. -/
def execFence (p : HPort) (c : HChan) (tag : BitVec 12) (du : BitVec 3) (s : State) : Host.Outcome State Fault Refusal :=
  done (hostCommand s (slotted .fence p c tag du 0 0 0))

/-- PERSIST (R69, R131). -/
def execPersist (p : HPort) (c : HChan) (tag : BitVec 12) (du : BitVec 3) (s : State) : Host.Outcome State Fault Refusal :=
  done (hostCommand s (slotted .persist p c tag du 0 0 0))

/-! ### Events of accepted commands -/

/-- A command stands on a stream. -/
def onStream (p : HPort) (c : HChan) (x : HostCmd) : Bool :=
  match x.origin with
  | .stream q d => decide (q = p) && decide (d = c)
  | .mate _ _ _ _ => false

/-- The FENCE that waits on a stream, once everything before it is performed (R62, R63). -/
def fenceReady (s : State) (p : HPort) (c : HChan) : Option HostCmd :=
  s.cmds.find? fun x => onStream p c x && decide (x.op = .fence) && decide (x.stage = .waiting) &&
    (earlier s x).all (·.performed)

/-- FENCE_PERFORMED (R62): the FENCE has its response; its stream is held until that is sent. -/
def execFencePerformed (p : HPort) (c : HChan) (s : State) : Host.Outcome State Fault Refusal :=
  match fenceReady s p c with
  | none => done s
  | some x => done (settle (refuse s x.id (Resp.plain .ok 0)))

/-- The PERSIST of a tag whose writes are all committed, or lost (R69, R71). -/
def persistReady (s : State) (p : HPort) (c : HChan) (tag : BitVec 12) : Option HostCmd :=
  s.cmds.find? fun x => onStream p c x && persistWaits x && x.tag == tag &&
    !((earlier s x).any fun y => y.op.isWrite && !y.performed && y.resp.isNone) &&
    !(s.krf.slots.any fun e => slotOwes x e.2)

/-- A write that a PERSIST covers lay in a region that became LOST before it was committed (R71). -/
def persistLost (s : State) (x : HostCmd) : Bool :=
  match x.stream with
  | none => false
  | some k => (fgetD s.krf.lostWrites k []).any fun e => decide (e.2 < x.id)

/-- PERSIST_COMPLETE (R69, R71). R71 gives the DETAIL of its POISON nowhere: the model sends LOST, DESIGN CHOICE (log entry 61). -/
def execPersistComplete (p : HPort) (c : HChan) (tag : BitVec 12) (s : State) : Host.Outcome State Fault Refusal :=
  match persistReady s p c tag with
  | none => done s
  | some x => done (settle (refuse s x.id (if persistLost s x then Resp.bad .poison 2 0 else Resp.plain .ok 0)))

/-- A command that waited for charge is admitted anew. -/
def readmit (s : State) (id : Nat) : State :=
  match cmdAt s id with
  | none => s
  | some x => if x.op.isWrite then admitWrite s id else resume s x

/-- The reservation at the head of the line is asked for anew, with nothing before it. -/
def askAgain (s : State) : Waiter → State
  | .cmd id => readmit s id
  | .queueSet m => mbxTry s m false
  | .clear m => clearStep s m
  | .leaf _ => writeLeaves s
  | .record n => applyInbox s.mir.ports[n].inbox.length s n

/-- The reservation has been granted, or is wanted no more: what waited has gone on. -/
def leftLine (s t : State) : Waiter → Bool
  | .cmd id => !t.krf.waiters.contains (.cmd id)
  | .queueSet m => !stillWaits t (.queueSet m)
  | .clear m => decide (clearOf s m ≠ clearOf t m)
  | .leaf n => !t.lke.writes.contains n
  | .record n => decide (s.mir.ports[n].inbox ≠ t.mir.ports[n].inbox)

/-- CHARGE_RESERVATION_GRANT (R142): the reservation that has waited longest is granted, if it fits. -/
def execChargeReservationGrant (s : State) : Host.Outcome State Fault Refusal :=
  match s.krf.waiters with
  | [] => done s
  | w :: rest =>
    let t := askAgain { s with krf := { s.krf with waiters := [] } } w
    if leftLine s t w ∨ holdsGrant t w then done (settle { t with krf := { t.krf with waiters := rest ++ t.krf.waiters.filter fun x => !rest.contains x } })
    else done { s with krf := { s.krf with bitmapAsk := t.krf.bitmapAsk } }

/-- The command of a stream that stands in a stage. -/
def heldAt (s : State) (p : HPort) (c : HChan) (g : Stage) : Option HostCmd :=
  s.cmds.find? fun x => onStream p c x && decide (x.stage = g)

/-- REST_TOKENS_AVAILABLE (R187): the held command of a stream takes its tokens and goes on. -/
def execRestTokensAvailable (p : HPort) (c : HChan) (s : State) : Host.Outcome State Fault Refusal :=
  match heldAt s p c .rested with
  | none => done s
  | some x =>
    if s.krf.running.isSome ∨ !restPasses s x then done s else done (settle (dispatchCmd (restCharge s x) x.id))

/-- THROTTLE_TOKENS_AVAILABLE (R426): the held command of a stream takes its tokens and meets the steady rest. -/
def execThrottleTokensAvailable (p : HPort) (c : HChan) (s : State) : Host.Outcome State Fault Refusal :=
  match heldAt s p c .throttled with
  | none => done s
  | some x =>
    if s.krf.running.isSome ∨ !throttlePasses s x then done s else done (settle (restStep (throttleCharge s x) x.id))

/-- The response limiter's bucket as it stands now (R94): LIMIT/256 of 95.9 GB/s, BUCKET KiB. -/
def txBucketNow (s : State) (p : HPort) : Bucket :=
  (s.ports[p]).txBucket.filled s.time.toNat (95900 * cfgFld s (Reg.HP_TX_RATE p.val) 0 9 / 256)
    (1024000 * cfgFld s (Reg.HP_TX_RATE p.val) 16 8)

/-- HPn_CTRL.TX_RATE_EN. -/
def txLimited (s : State) (p : HPort) : Bool := cfgBit s (Reg.HP_CTRL p.val) 2

/-- A burst of n bytes may start on a channel now: the link is up, the host's calendar shows 1, the limiter has tokens for the burst
(R92, R94). -/
def maySend (s : State) (p : HPort) (c : HChan) (n : Nat) : Bool :=
  (s.ports[p]).linkUp && !loopedBack s p && !bitOf (s.ports[p]).hostXoff (calEntry s.ports[p] c) &&
    (!txLimited s p || decide (1000 * n ≤ (txBucketNow s p).tokens))

/-- The response of a tag that waits on a stream. -/
def responseAt (s : State) (p : HPort) (c : HChan) (tag : BitVec 12) : Option HostCmd :=
  s.cmds.find? fun x => onStream p c x && decide (x.stage = .answered) && x.tag == tag

/-- The packet that the responses of these tags make: the one that is being sent on the channel, if it carries them, or a new one, if
none is being sent and a response of each tag waits (R87). R86 bounds the packets of commands alone: that a response packet may carry any number
of responses is a DESIGN CHOICE (log entry 74). -/
def packetFor (s : State) (p : HPort) (c : HChan) (tags : List (BitVec 12)) : Option TxPacket :=
  match fget (s.ports[p]).txPackets c.toNat with
  | some k => if k.tags = tags then some k else none
  | none =>
    if tags = [] ∨ !tags.Nodup then none
    else (tags.mapM (responseAt s p c)).map fun xs => { tags := tags, ids := xs.map (·.id), sent := 0, begun := false }

/-- The bytes of a command's response (R110). -/
def txOf (s : State) (i : Nat) : List Byte :=
  match cmdAt s i with
  | some x => match x.resp with | some r => r.bytes x.code x.tag | none => []
  | none => []

/-- The bytes of the responses of a packet that have not left whole, one after another (R87). -/
def txBytes (s : State) (k : TxPacket) : List Byte := k.ids.flatMap (txOf s)

/-- Of a packet's responses, of which n bytes have left: those that have left whole, the others, and the bytes of these that have left. -/
def splitSent (s : State) : Nat → List Nat → List Nat × List Nat × Nat
  | n, [] => ([], [], n)
  | n, i :: is =>
    let w := (txOf s i).length
    if w ≤ n then
      let r := splitSent s (n - w) is
      (i :: r.1, r.2)
    else ([], i :: is, n)

/-- The bytes of a packet's next burst: as many as BurstMax allows and the packet still has (R84, R87). -/
def nextBurst (s : State) (k : TxPacket) : List Byte := ((txBytes s k).drop k.sent).take 256

/-- The limiter accounts for a burst at its start (R94). -/
def txCharge (s : State) (p : HPort) (n : Nat) : State :=
  if txLimited s p then modPort s p fun q => { q with txBucket := (txBucketNow s p).take (1000 * n) } else s

/-- The next burst of a packet leaves, its control word with the next word of the calendar (R89); HPn_ERR_INJECT.CRC24 is spent with it
(R103). A response has been sent once all of its bytes have left (R97). -/
def sendBurst (s : State) (p : HPort) (c : HChan) (k : TxPacket) : State :=
  let l := nextBurst s k
  let total := (txBytes s k).length
  let at_ := k.sent + l.length
  let q := s.ports[p]
  let inject := Reg.HP_ERR_INJECT p.val
  let t := emit (txCharge s p l.length)
    (.burst p c (!k.begun) (decide (total ≤ at_)) (calWord s p q.calTx) l (cfgBit s inject 6))
  let t := hwAdd (setCfg t inject (putBit (cfg s inject) 6 false)) (Reg.HP_TX_BYTES p.val) l.length
  let r := splitSent s at_ k.ids
  let t := modPort t p fun q =>
    { q with calTx := (q.calTx + 1) % max 1 q.calLen,
             txPackets := if total ≤ at_ then fdel q.txPackets c.toNat
               else fput q.txPackets c.toNat { k with ids := r.2.1, sent := r.2.2, begun := true } }
  r.1.foldl (fun t i => match cmdAt t i with | some x => sendResp t p x | none => t) t

/-- RESPONSE_SEND (R87). -/
def execResponseSend (p : HPort) (c : HChan) (tags : List (BitVec 12)) (s : State) : Host.Outcome State Fault Refusal :=
  match packetFor s p c tags with
  | none => done s
  | some k => if maySend s p c (nextBurst s k).length then done (settle (sendBurst s p c k)) else done s

end Sys2Proof.Machine
end

