-- ==== Sys2Proof/Machine/Lookup.lean ====
section
/-! DEFINITION. The events of the lookup engines and of the table set (chapter 8). -/

namespace Sys2Proof.Machine

/-- A bad word after a reload of a table's part of the tier. -/
def reloaded (table : Nat) (f : TierFault) : Option TierFault :=
  if f.table ≠ table then some f else if f.again then some { f with again := false } else none

/-- TIER_RELOAD (R244): firmware reloads the part of the tier that holds a table's bad words. A word that fails again after its reload is
repaired from the other copy of the backing image at the next one (R227). -/
def execTierReload (table : BitVec 8) (s : State) : Host.Outcome State Fault Refusal :=
  if coreUp s then done (modLke (loadItems s [.table table.toNat]) fun l => { l with tierBad := l.tierBad.filterMap (reloaded table.toNat) }) else done s

/-- LKE_WATCHDOG_EXPIRY (R254): an engine that holds work makes no progress. -/
def execLkeWatchdogExpiry (e : Engine) (s : State) : Host.Outcome State Fault Refusal :=
  if coreUp s ∧ inFlight s e.val ≠ 0 then done (settle (engineFail s e 0)) else done s

/-- LKE_DATAPATH_ERROR (R254). -/
def execLkeDatapathError (e : Engine) (s : State) : Host.Outcome State Fault Refusal :=
  if coreUp s then done (settle (engineFail s e 1)) else done s

/-- LKE_CTRL.FORCE_FAIL is written as 1: it acts in OPERATIONAL only, and hardware clears it (R254, R257). -/
def forceEngine (s : State) (e : Engine) : State := if s.glb.state = .operational then engineFail s e 2 else s

/-- LKE_FORCE_FAIL (R257): a write that names a failed engine is ignored as a whole and recorded. -/
def execLkeForceFail (e : Engine) (s : State) : Host.Outcome State Fault Refusal :=
  if !coreUp s then done s else
  let s := touch s Reg.LKE_CTRL
  if fhas s.lke.failed e.val then done (settle (badAccess s Reg.LKE_CTRL))
  else done (settle (forceEngine (setCfg s Reg.LKE_CTRL (putBits (cfg s Reg.LKE_CTRL) 16 4 e.val)) e))

/-- TBL_COMMIT_SWITCH (R250): the staged version becomes current, once no LKUP holds the version before the current one and every changed
leaf has verified. -/
def execTblCommitSwitch (s : State) : Host.Outcome State Fault Refusal :=
  match s.lke.commit with
  | none => done s
  | some c =>
    if coreUp s ∧ c.wait = [] ∧ s.lke.prev.isNone ∧ s.glb.state.serves then done (settle (tblSwitch s c)) else done s

end Sys2Proof.Machine
end

