-- ==== Sys2Proof/Machine/MbxCmd.lean ====
section
/-! DEFINITION. The commands of the mailboxes: one request, written and sent with GO, for each opcode of the catalogue (chapter 12). -/

namespace Sys2Proof.Machine

/-- MBXm_CTRL.GO is written with MBXm_CMD and the request buffer as they stand (step 2 of R342); the flash of a copy to it is a free
bit. -/
def mbxGo (s : State) (m : Mbx) : State :=
  if (s.mbx[m]).state ≠ .idle then badAccess s (Reg.MBX_CTRL m.val)
  else
    let c := cfg s (Reg.MBX_CMD m.val)
    let s := mbxCapture s m (bitsOf c 0 16) (bitsOf c 16 13) (bitOf c 29)
    settle (mbxTry (freeNext s) m ((freeNow s).getLsbD 0))

/-- ABORT acts on a BUSY command that is abortable: REGION_RECREATE, whose running program ends first, and CNT_CLEAR (R279, R344, R352); one
that has not begun ends with nothing done. -/
def mbxStop (s : State) (m : Mbx) : State :=
  let x := s.mbx[m]
  if x.state ≠ .busy then s
  else if x.waits then
    (if x.opcode = 0x0208 then mbxFinish s m 8 0 (leBytes 4 0)
     else if x.opcode = 0x0012 then mbxFinish s m 8 0 (descriptor s (leAt (mbxReq s m) 0 2))
     else s)
  else if x.opcode = 0x0208 then
    match clearOf s m with
    | some (_, _, cleared, _) => endClear s m cleared true
    | none => s
  else if x.opcode = 0x0012 then
    let r := leAt (mbxReq s m) 0 2
    if s.med.reqs.any fun q => inRegion r q.lsa.toNat && decide (q.purpose = .rebuild) && decide (q.state ≠ .raised) then
      modMbx s m fun x => { x with state := .aborting }
    else endRecreate s m r true
  else s

/-- RELEASE: DONE goes to IDLE (step 5 of R342). -/
def mbxFree (s : State) (m : Mbx) : State :=
  if (s.mbx[m]).state ≠ .done then badAccess s (Reg.MBX_CTRL m.val)
  else modMbx s m fun x => { x with state := .idle, code := 0, reason := 0 }

/-- A command with its request is written to a mailbox and sent. While the mailbox is not IDLE it is one bad access (R342, R359). -/
def mbxCommand (s : State) (m : Mbx) (op : Nat) (req : List Byte) (irq flash : Bool) : State :=
  if !coreUp s then s
  else if (s.mbx[m]).state ≠ .idle then badAccess s (Reg.MBX_CTRL m.val)
  else settle (mbxTry (mbxCapture (mbxPlace s m op req irq) m op req.length irq) m flash)

/-- MBX_ABORT (R344). -/
def execMbxAbort (m : Mbx) (s : State) : Host.Outcome State Fault Refusal :=
  if coreUp s then done (settle (mbxStop s m)) else done s

/-- MBX_RELEASE (R342). -/
def execMbxRelease (m : Mbx) (s : State) : Host.Outcome State Fault Refusal :=
  if coreUp s then done (mbxFree s m) else done s

/-- MBX_BAD_OPCODE (R346): an opcode outside the catalogue. -/
def execMbxBadOpcode (m : Mbx) (opcode : BitVec 16) (req : List Byte) (irq : Bool) (s : State) : Host.Outcome State Fault Refusal :=
  done (mbxCommand s m opcode.toNat req irq false)

/-- FW_TO_SPI (R357). -/
def execFwToSpi (m : Mbx) (req : List Byte) (irq : Bool) (flashOk : Bool) (s : State) : Host.Outcome State Fault Refusal :=
  done (mbxCommand s m 0x0805 req irq flashOk)

/-- DEV_INFO (R350). -/
def execDevInfo (m : Mbx) (req : List Byte) (irq : Bool) (s : State) : Host.Outcome State Fault Refusal :=
  done (mbxCommand s m 0x0000 req irq false)

/-- DEV_ECHO (R350). -/
def execDevEcho (m : Mbx) (req : List Byte) (irq : Bool) (s : State) : Host.Outcome State Fault Refusal :=
  done (mbxCommand s m 0x0001 req irq false)

/-- REGION_GET (R49). -/
def execRegionGet (m : Mbx) (req : List Byte) (irq : Bool) (s : State) : Host.Outcome State Fault Refusal :=
  done (mbxCommand s m 0x0010 req irq false)

/-- REGION_SET (R51). -/
def execRegionSet (m : Mbx) (req : List Byte) (irq : Bool) (s : State) : Host.Outcome State Fault Refusal :=
  done (mbxCommand s m 0x0011 req irq false)

/-- REGION_RECREATE (R352). -/
def execRegionRecreate (m : Mbx) (req : List Byte) (irq : Bool) (s : State) : Host.Outcome State Fault Refusal :=
  done (mbxCommand s m 0x0012 req irq false)

/-- FORCE_FAIL (R353). -/
def execForceFail (m : Mbx) (req : List Byte) (irq : Bool) (s : State) : Host.Outcome State Fault Refusal :=
  done (mbxCommand s m 0x0020 req irq false)

/-- TBL_CREATE (R232). -/
def execTblCreate (m : Mbx) (req : List Byte) (irq : Bool) (s : State) : Host.Outcome State Fault Refusal :=
  done (mbxCommand s m 0x0100 req irq false)

/-- TBL_DELETE (R350). -/
def execTblDelete (m : Mbx) (req : List Byte) (irq : Bool) (s : State) : Host.Outcome State Fault Refusal :=
  done (mbxCommand s m 0x0101 req irq false)

/-- TBL_UPDATE (R248). -/
def execTblUpdate (m : Mbx) (req : List Byte) (irq : Bool) (s : State) : Host.Outcome State Fault Refusal :=
  done (mbxCommand s m 0x0102 req irq false)

/-- TBL_COMMIT (R250). -/
def execTblCommit (m : Mbx) (req : List Byte) (irq : Bool) (s : State) : Host.Outcome State Fault Refusal :=
  done (mbxCommand s m 0x0103 req irq false)

/-- TBL_ABORT (R350). -/
def execTblAbort (m : Mbx) (req : List Byte) (irq : Bool) (s : State) : Host.Outcome State Fault Refusal :=
  done (mbxCommand s m 0x0104 req irq false)

/-- TBL_QUERY (R350). -/
def execTblQuery (m : Mbx) (req : List Byte) (irq : Bool) (s : State) : Host.Outcome State Fault Refusal :=
  done (mbxCommand s m 0x0105 req irq false)

/-- TBL_INFO (R350). -/
def execTblInfo (m : Mbx) (req : List Byte) (irq : Bool) (s : State) : Host.Outcome State Fault Refusal :=
  done (mbxCommand s m 0x0106 req irq false)

/-- PROFILE_SET (R239). -/
def execProfileSet (m : Mbx) (req : List Byte) (irq : Bool) (s : State) : Host.Outcome State Fault Refusal :=
  done (mbxCommand s m 0x0107 req irq false)

/-- PROFILE_GET (R350). -/
def execProfileGet (m : Mbx) (req : List Byte) (irq : Bool) (s : State) : Host.Outcome State Fault Refusal :=
  done (mbxCommand s m 0x0108 req irq false)

/-- POOL_SET (R259). -/
def execPoolSet (m : Mbx) (req : List Byte) (irq : Bool) (s : State) : Host.Outcome State Fault Refusal :=
  done (mbxCommand s m 0x0200 req irq false)

/-- POOL_INFO (R350). -/
def execPoolInfo (m : Mbx) (req : List Byte) (irq : Bool) (s : State) : Host.Outcome State Fault Refusal :=
  done (mbxCommand s m 0x0201 req irq false)

/-- QUEUE_SET (R261). -/
def execQueueSet (m : Mbx) (req : List Byte) (irq : Bool) (s : State) : Host.Outcome State Fault Refusal :=
  done (mbxCommand s m 0x0202 req irq false)

/-- QUEUE_GET (R350). -/
def execQueueGet (m : Mbx) (req : List Byte) (irq : Bool) (s : State) : Host.Outcome State Fault Refusal :=
  done (mbxCommand s m 0x0203 req irq false)

/-- CNT_CLEAR (R279). -/
def execCntClear (m : Mbx) (req : List Byte) (irq : Bool) (s : State) : Host.Outcome State Fault Refusal :=
  done (mbxCommand s m 0x0208 req irq false)

/-- CNT_INFO (R350). -/
def execCntInfo (m : Mbx) (req : List Byte) (irq : Bool) (s : State) : Host.Outcome State Fault Refusal :=
  done (mbxCommand s m 0x0209 req irq false)

/-- DEVKEY_INSTALL (R293). -/
def execDevkeyInstall (m : Mbx) (req : List Byte) (irq : Bool) (s : State) : Host.Outcome State Fault Refusal :=
  done (mbxCommand s m 0x0300 req irq false)

/-- DEVKEY_ZEROISE (R293). -/
def execDevkeyZeroise (m : Mbx) (req : List Byte) (irq : Bool) (s : State) : Host.Outcome State Fault Refusal :=
  done (mbxCommand s m 0x0301 req irq false)

/-- KEY_LOAD (R294). -/
def execKeyLoad (m : Mbx) (req : List Byte) (irq : Bool) (s : State) : Host.Outcome State Fault Refusal :=
  done (mbxCommand s m 0x0302 req irq false)

/-- KEY_BIND (R295). -/
def execKeyBind (m : Mbx) (req : List Byte) (irq : Bool) (s : State) : Host.Outcome State Fault Refusal :=
  done (mbxCommand s m 0x0303 req irq false)

/-- KEY_CHANGE (R296). -/
def execKeyChange (m : Mbx) (req : List Byte) (irq : Bool) (s : State) : Host.Outcome State Fault Refusal :=
  done (mbxCommand s m 0x0304 req irq false)

/-- KEY_UNBIND (R297). -/
def execKeyUnbind (m : Mbx) (req : List Byte) (irq : Bool) (s : State) : Host.Outcome State Fault Refusal :=
  done (mbxCommand s m 0x0305 req irq false)

/-- KEY_RETIRE (R294). -/
def execKeyRetire (m : Mbx) (req : List Byte) (irq : Bool) (s : State) : Host.Outcome State Fault Refusal :=
  done (mbxCommand s m 0x0306 req irq false)

/-- KEY_INFO (R350). -/
def execKeyInfo (m : Mbx) (req : List Byte) (irq : Bool) (s : State) : Host.Outcome State Fault Refusal :=
  done (mbxCommand s m 0x0307 req irq false)

/-- PST_INFO (R350). -/
def execPstInfo (m : Mbx) (req : List Byte) (irq : Bool) (s : State) : Host.Outcome State Fault Refusal :=
  done (mbxCommand s m 0x0400 req irq false)

/-- PST_READ (R366). -/
def execPstRead (m : Mbx) (req : List Byte) (irq : Bool) (s : State) : Host.Outcome State Fault Refusal :=
  done (mbxCommand s m 0x0401 req irq false)

/-- PST_WRITE (R365). -/
def execPstWrite (m : Mbx) (req : List Byte) (irq : Bool) (s : State) : Host.Outcome State Fault Refusal :=
  done (mbxCommand s m 0x0402 req irq false)

/-- PST_PASSWORD (R370). -/
def execPstPassword (m : Mbx) (req : List Byte) (irq : Bool) (s : State) : Host.Outcome State Fault Refusal :=
  done (mbxCommand s m 0x0403 req irq false)

/-- PST_CTR_READ (R372). -/
def execPstCtrRead (m : Mbx) (req : List Byte) (irq : Bool) (s : State) : Host.Outcome State Fault Refusal :=
  done (mbxCommand s m 0x0404 req irq false)

/-- PST_CTR_INC (R371). -/
def execPstCtrInc (m : Mbx) (req : List Byte) (irq : Bool) (s : State) : Host.Outcome State Fault Refusal :=
  done (mbxCommand s m 0x0405 req irq false)

/-- EVT_FREEZE (R393). -/
def execEvtFreeze (m : Mbx) (req : List Byte) (irq : Bool) (s : State) : Host.Outcome State Fault Refusal :=
  done (mbxCommand s m 0x0500 req irq false)

/-- EVT_THAW (R394). -/
def execEvtThaw (m : Mbx) (req : List Byte) (irq : Bool) (s : State) : Host.Outcome State Fault Refusal :=
  done (mbxCommand s m 0x0501 req irq false)

/-- EVT_READ (R392). -/
def execEvtRead (m : Mbx) (req : List Byte) (irq : Bool) (s : State) : Host.Outcome State Fault Refusal :=
  done (mbxCommand s m 0x0502 req irq false)

/-- EVT_CLEAR (R396). -/
def execEvtClear (m : Mbx) (req : List Byte) (irq : Bool) (s : State) : Host.Outcome State Fault Refusal :=
  done (mbxCommand s m 0x0503 req irq false)

/-- EVT_LIMIT_SET (R391). -/
def execEvtLimitSet (m : Mbx) (req : List Byte) (irq : Bool) (s : State) : Host.Outcome State Fault Refusal :=
  done (mbxCommand s m 0x0504 req irq false)

/-- EVT_LIMIT_GET (R350). -/
def execEvtLimitGet (m : Mbx) (req : List Byte) (irq : Bool) (s : State) : Host.Outcome State Fault Refusal :=
  done (mbxCommand s m 0x0505 req irq false)

/-- MIR_PAIR (R308). -/
def execMirPair (m : Mbx) (req : List Byte) (irq : Bool) (s : State) : Host.Outcome State Fault Refusal :=
  done (mbxCommand s m 0x0600 req irq false)

/-- MIR_UNPAIR (R308). -/
def execMirUnpair (m : Mbx) (req : List Byte) (irq : Bool) (s : State) : Host.Outcome State Fault Refusal :=
  done (mbxCommand s m 0x0601 req irq false)

/-- MIR_PROMOTE (R332). -/
def execMirPromote (m : Mbx) (req : List Byte) (irq : Bool) (s : State) : Host.Outcome State Fault Refusal :=
  done (mbxCommand s m 0x0602 req irq false)

/-- MIR_SAK (R312). -/
def execMirSak (m : Mbx) (req : List Byte) (irq : Bool) (s : State) : Host.Outcome State Fault Refusal :=
  done (mbxCommand s m 0x0603 req irq false)

/-- MIR_SAK_CLEAR (R312). -/
def execMirSakClear (m : Mbx) (req : List Byte) (irq : Bool) (s : State) : Host.Outcome State Fault Refusal :=
  done (mbxCommand s m 0x0604 req irq false)

/-- MIR_INFO (R350). -/
def execMirInfo (m : Mbx) (req : List Byte) (irq : Bool) (s : State) : Host.Outcome State Fault Refusal :=
  done (mbxCommand s m 0x0605 req irq false)

/-- MIR_RESEED (R331). -/
def execMirReseed (m : Mbx) (req : List Byte) (irq : Bool) (s : State) : Host.Outcome State Fault Refusal :=
  done (mbxCommand s m 0x0606 req irq false)

/-- DUMP_INFO (R350). -/
def execDumpInfo (m : Mbx) (req : List Byte) (irq : Bool) (s : State) : Host.Outcome State Fault Refusal :=
  done (mbxCommand s m 0x0700 req irq false)

/-- DUMP_READ (R404). -/
def execDumpRead (m : Mbx) (req : List Byte) (irq : Bool) (s : State) : Host.Outcome State Fault Refusal :=
  done (mbxCommand s m 0x0701 req irq false)

/-- DUMP_RELEASE (R404). -/
def execDumpRelease (m : Mbx) (req : List Byte) (irq : Bool) (s : State) : Host.Outcome State Fault Refusal :=
  done (mbxCommand s m 0x0702 req irq false)

/-- FW_INFO (R350). -/
def execFwInfo (m : Mbx) (req : List Byte) (irq : Bool) (s : State) : Host.Outcome State Fault Refusal :=
  done (mbxCommand s m 0x0800 req irq false)

/-- FW_WRITE (R355). -/
def execFwWrite (m : Mbx) (req : List Byte) (irq : Bool) (s : State) : Host.Outcome State Fault Refusal :=
  done (mbxCommand s m 0x0801 req irq false)

/-- FW_ACTIVATE (R356). -/
def execFwActivate (m : Mbx) (req : List Byte) (irq : Bool) (s : State) : Host.Outcome State Fault Refusal :=
  done (mbxCommand s m 0x0802 req irq false)

/-- FW_CONFIRM (R356). -/
def execFwConfirm (m : Mbx) (req : List Byte) (irq : Bool) (s : State) : Host.Outcome State Fault Refusal :=
  done (mbxCommand s m 0x0803 req irq false)

/-- FW_ROLLBACK (R357). -/
def execFwRollback (m : Mbx) (req : List Byte) (irq : Bool) (s : State) : Host.Outcome State Fault Refusal :=
  done (mbxCommand s m 0x0804 req irq false)

/-- CAL_GET (R374). -/
def execCalGet (m : Mbx) (req : List Byte) (irq : Bool) (s : State) : Host.Outcome State Fault Refusal :=
  done (mbxCommand s m 0x0900 req irq false)

/-- CAL_SET (R376). -/
def execCalSet (m : Mbx) (req : List Byte) (irq : Bool) (s : State) : Host.Outcome State Fault Refusal :=
  done (mbxCommand s m 0x0901 req irq false)

/-- PWR_INFO (R350). -/
def execPwrInfo (m : Mbx) (req : List Byte) (irq : Bool) (s : State) : Host.Outcome State Fault Refusal :=
  done (mbxCommand s m 0x0A00 req irq false)

/-- PWR_LTR_SET (R418). -/
def execPwrLtrSet (m : Mbx) (req : List Byte) (irq : Bool) (s : State) : Host.Outcome State Fault Refusal :=
  done (mbxCommand s m 0x0A01 req irq false)

/-- THM_SET (R425). -/
def execThmSet (m : Mbx) (req : List Byte) (irq : Bool) (s : State) : Host.Outcome State Fault Refusal :=
  done (mbxCommand s m 0x0A02 req irq false)

/-- HS_OPP_SET (R415). -/
def execHsOppSet (m : Mbx) (req : List Byte) (irq : Bool) (s : State) : Host.Outcome State Fault Refusal :=
  done (mbxCommand s m 0x0A03 req irq false)

end Sys2Proof.Machine
end

