-- ==== Sys2Proof/Machine/Thermal.lean ====
section
/-! DEFINITION. Temperature: sensors, bands, throttling, the rate of rise, and the critical and cold limits (chapter 15). -/

namespace Sys2Proof.Machine

/-! ### Sensors (R423) -/

/-- A calibrated reading is plausible after the one before it, 1/16 °C. -/
def plausible (v : Sensor) (t : Int) : Bool :=
  decide (-1120 ≤ t) && decide (t ≤ 2560) &&
    match v.last with
    | none => true
    | some p => decide ((t - p).natAbs ≤ 160)

/-- A sensor after a sample: its first one counts at once, and once invalid it needs 100 plausible ones. -/
def sensorNext (v : Sensor) (t : Int) : Sensor :=
  if !plausible v t then { last := some t, valid := false, good := 0 }
  else if v.valid ∨ v.last.isNone ∨ 100 ≤ v.good + 1 then { last := some t, valid := true, good := 0 }
  else { last := some t, valid := false, good := v.good + 1 }

/-- The samples of all sensors: raw values plus SENSOR_OFFSET (R375). -/
def sampleSensors (s : State) (raw : Vector Int 40) : Vector Sensor 40 :=
  Vector.ofFn fun i : Fin 40 => sensorNext s.thm.sensors[i] (raw[i] + effective s 2 i.val)

/-- A sensor is valid. -/
def sensorValid (v : Vector Sensor 40) (i : Nat) : Bool := (v[i]?).any (·.valid)

/-- A blank has no valid sensor, or fewer than 20 sensors of the base die are valid. -/
def coverPoor (v : Vector Sensor 40) : Bool :=
  (List.range 8).any (fun b => !sensorValid v (24 + 2 * b) && !sensorValid v (25 + 2 * b)) ||
    decide (((List.range 24).filter (sensorValid v)).length < 20)

/-- The highest valid reading and its sensor. -/
def hottest (v : Vector Sensor 40) : Option (Int × Nat) :=
  (List.finRange 40).foldl (fun best i =>
    match (v[i]).valid, (v[i]).last, best with
    | true, some t, none => some (t, i.val)
    | true, some t, some b => if b.1 < t then some (t, i.val) else best
    | _, _, _ => best) none

/-- The temperature follows the sensors; with none valid it stays. -/
def followSensors (s : State) : State :=
  match hottest s.thm.sensors with
  | none => s
  | some (t, i) => modThm s fun v => { v with temp := if coverPoor v.sensors then t + 80 else t, maxSensor := i }

/-- The temperature of a sample, which the rate of rise looks back on (R423, R427). -/
def takeTemp (s : State) : State := modThm (followSensors s) fun v => { v with past := (v.temp :: v.past).take 251 }

/-! ### Bands (R207, R209, R424) -/

/-- THM_CTRL.HYST in 1/16 °C. -/
def hystOf (s : State) : Int := 16 * (cfgFld s Reg.THM_CTRL 0 4 : Int)

/-- Lower boundary of a band, 1/16 °C. -/
def bandFloor (b : Nat) : Int := [0, -400, 400, 1360, 1680].getD b 0

/-- The band after a temperature. -/
def bandNext (s : State) : Nat :=
  let t := s.thm.temp
  let up := ((List.range 5).filter fun b => decide (0 < b) && decide (bandFloor b ≤ t)).length
  let stay := ((List.range 5).filter fun b => decide (0 < b) && decide (bandFloor b - hystOf s ≤ t)).length
  if s.thm.band < up then up else min s.thm.band stay

/-- The scrub interval of a blank changes with the band (R209). -/
def scrubFollows (s : State) (new : Nat) : State :=
  if bandInterval new = bandInterval s.thm.band then s else
  let hotter := decide (bandInterval new < bandInterval s.thm.band)
  (List.finRange 8).foldl (fun x b =>
    modBlank x b fun v =>
      { v with catchUp := if hotter ∧ bandInterval new < intervalNow s b then some (s.time.toNat, intervalNow s b) else none }) s

/-- The band follows the temperature (R424). -/
def takeBand (s : State) : State :=
  let old := s.thm.band
  let new := bandNext s
  if new = old then s else
  let s := modThm (scrubFollows s new) fun t => { t with band := new }
  evt (raise s Reg.THM_INT_STATUS 0) Ev.THM_BAND noInst (new + old * 256)

/-- The COLD waveform applies below −45 °C (R207, R430). -/
def takeWave (s : State) : State :=
  modThm s fun t => { t with coldWave := if t.coldWave then decide (t.temp < hystOf s - 720) else decide (t.temp < -720) }

/-! ### Throttling (R425, R427) -/

/-- Temperature less Θ, 1/16 °C. -/
def overTheta (s : State) : Int := s.thm.temp - 16 * (effThreshold s : Int)

/-- A percentage that falls by 6 for each whole degree, not below 10 (R425). -/
def pctOf (dt : Int) : Nat := if dt ≤ 0 then 100 else (max 10 (100 - 6 * dt)).toNat

/-- Admission is recomputed (R425). -/
def takeThrottle (s : State) : State :=
  let was := decide (s.thm.writePct < 100)
  let dt := s.thm.temp / 16 - (effThreshold s : Int)
  let s := modThm (fillBuckets s) fun t => { t with writePct := pctOf dt, readPct := pctOf (dt - 5) }
  let now := decide (s.thm.writePct < 100)
  if now ∧ !was then
    evt (raise s Reg.THM_INT_STATUS 1) Ev.THM_THROTTLE noInst (BitVec.ofInt 16 (overTheta s)).toNat
  else if was ∧ !now then raise s Reg.THM_INT_STATUS 2
  else s

/-! ### Critical and cold limits (R428, R430) -/

/-- 128 °C: the commit and the fatal dump (R428). -/
def takeCritical (s : State) : State :=
  if s.thm.temp < 2048 ∨ s.thm.crit then s else
  let s := modThm s fun t => { t with crit := true }
  setFatal (evt (raise s Reg.THM_INT_STATUS 6) Ev.THM_CRITICAL noInst 0) 4

/-- The cold hold begins below −58 °C and ends at −58 °C + H (R430). -/
def takeCold (s : State) : State :=
  if s.thm.coldHold then
    if s.thm.temp < hystOf s - 928 then s else modThm s fun t => { t with coldHold := false }
  else if s.thm.temp < -928 then
    evt (raise (modThm s fun t => { t with coldHold := true }) Reg.THM_INT_STATUS 4) Ev.THM_COLD_HOLD noInst 0
  else s

/-- Self-heat begins and ends with the cold hold, if it is enabled (R430). -/
def takeSelfHeat (s : State) : State :=
  if s.thm.selfHeat then
    if s.thm.coldHold then s
    else
      let s := modThm s fun t => { t with selfHeat := false }
      modThm s fun t => { t with vdd := if s.pwr.cur = 0 then governed s else 650 }
  else if s.thm.coldHold ∧ cfgBit s Reg.THM_CTRL 5 then
    evt (raise (modThm s fun t => { t with selfHeat := true, vdd := 850 }) Reg.THM_INT_STATUS 5) Ev.THM_SELF_HEAT noInst 0
  else s

/-- SENSOR_SAMPLE (R423 to R428, R430). -/
def execSensorSample (raw : Vector Int 40) (s : State) : Host.Outcome State Fault Refusal :=
  if !coreUp s then done s
  else
    let v := sampleSensors s raw
    let bad := (List.finRange 40).any fun i => !(v[i]).valid && ((s.thm.sensors[i]).valid || (s.thm.sensors[i]).last.isNone)
    let s := modThm s fun t => { t with sensors := v, ready := true }
    let s := if bad then raise s Reg.THM_INT_STATUS 8 else s
    let s := takeThrottle (takeWave (takeBand (takeTemp s)))
    done (settle (takeCritical (takeSelfHeat (takeCold s))))

/-! ### Rate of rise (R427) -/

/-- The temperature 250 ms earlier: 250 samples back, or the oldest sample where fewer have been taken (log entry 72). -/
def tempEarlier (s : State) : Int := s.thm.past.getD 250 (s.thm.past.getLastD s.thm.temp)

/-- RATE_OF_RISE_COMPUTE (R427): the alarm is raised once until the rate has fallen below 2 °C/s. -/
def execRateOfRiseCompute (earlier : Int) (s : State) : Host.Outcome State Fault Refusal :=
  if !coreUp s ∨ earlier ≠ tempEarlier s then done s
  else
    let s := modThm s fun t => { t with rate := (t.temp - earlier) * 4 }
    if 64 < s.thm.rate ∧ !s.thm.alarm then
      let s := modThm s fun t => { t with alarm := true, preempt := t.preempt || cfgBit s Reg.THM_CTRL 4 }
      let s := raise (nmi s 2) Reg.THM_INT_STATUS 3
      done (evt s Ev.THM_RATE_OF_RISE noInst (BitVec.ofInt 16 s.thm.rate).toNat)
    else if s.thm.rate < 32 then done (modThm s fun t => { t with alarm := false })
    else done s

/-- PREEMPT_END (R427): the rate has stayed below 2 °C/s for 10 s. -/
def execPreemptEnd (s : State) : Host.Outcome State Fault Refusal :=
  if s.thm.preempt ∧ s.thm.rate < 32 then done (modThm s fun t => { t with preempt := false }) else done s

end Sys2Proof.Machine
end

