-- ==== Sys2Proof/Machine/Power.lean ====
section
/-! DEFINITION. Power states: entry, return to L0 and housekeeping excursions (chapter 15). -/

namespace Sys2Proof.Machine

/-- Change the power states. -/
def modPwr (s : State) (f : Pwr → Pwr) : State := { s with pwr := f s.pwr }

/-- A change of state is reported (R420). -/
def pwrChanged (s : State) : State := raise s Reg.THM_INT_STATUS 9

/-- Everything is drained and folded: no charge but the event-ring front and queue descriptors (R419). -/
def drained (s : State) : Bool := chargedSlots s == 0 && s.cnt.entries.isEmpty

/-- Charged queue descriptors are written back (R271, R419). -/
def writeBackQueues (s : State) : State :=
  let n := chargedQueues s
  let s := (s.dbq.queues.filter (·.2.charged)).foldl (fun s e => descCheck s e.1) s
  let s := modDbq s fun d =>
    { d with saved := (d.queues.filter fun e => e.2.charged).foldl (fun m e => fputD m e.1 Queue.initial { e.2 with charged := false }) d.saved,
             queues := fmapv (fun _ v => { v with charged := false }) d.queues }
  hwAdd s Reg.DBQ_DESC_WB n

/-- What L3 powers down: the kerf buffer and the fold cache (R419). -/
def enterL3 (s : State) : State :=
  let s := writeBackQueues s
  { s with krf := { s.krf with slots := [] } }

/-- What L4 powers down: the event-ring front is written back, and ordinary cache entries and side buffers are lost. All SRAM is reloaded from
its persistent copy at the exit, so that no word of it keeps an error (R419). -/
def enterL4 (s : State) : State :=
  let s := modEvr (writeBackQueues s) Evr.writeBack
  { s with
    rdp := { s.rdp with cache := s.rdp.cache.filter fun e => decide (e.2.hold ≠ .ordinary), side := [] }
    lke := { s.lke with tierBad := [] }
    dbq := { s.dbq with queues := fmapv (fun _ v => { v with ecc := Vector.replicate 3 .good }) s.dbq.queues } }

/-- The offsets of a block's read-only registers. A register that software writes, or that its read clears, keeps to what that access makes of
it, and nothing else changes it while its block is parked. -/
def readOnly (base : Nat) (rs : List RegDesc) : List Nat :=
  (rs.filter fun r => r.rw == 0 && r.w1c == 0 && r.rc == 0).map fun r => base + r.off

/-- The read-only registers of the blocks that a state parks or flushes: the channel controllers from L2, KRF and CNT from L3, RDP, LKE and DBQ in
L4 (R31, R419). -/
def parkedRegs (l : Nat) : List Nat :=
  (if 2 ≤ l then (List.range 72).flatMap fun k => readOnly (0x100000 + 0x400 * k) regsMch else []) ++
    (if 3 ≤ l then readOnly 0x20000 regsKrf ++ readOnly 0x32000 regsCnt else []) ++
    (if l = 4 then readOnly 0x21000 regsRdp ++ readOnly 0x30000 regsLke ++ readOnly 0x31000 regsDbq else [])

/-- What those registers show at the entry, kept while the state lasts; a register held since a lighter state keeps that value. A channel
controller shows PARKED. -/
def holdShown (s : State) (l : Fin 5) : FMap Word64 :=
  let t := modPwr s fun p => { p with cur := l }
  (parkedRegs l.val).foldl (fun m o => if fhas m o then m else fput m o (shown t o)) s.pwr.held

/-- The device goes to a state below L0. -/
def goDown (s : State) (l : Fin 5) : State :=
  let s := modPwr s fun p => { p with held := holdShown s l }
  let s := if l = 3 then enterL3 s else if l = 4 then enterL4 (enterL3 s) else s
  pwrChanged (modThm (modPwr s fun p => { p with cur := l, entering := false }) fun t => { t with vdd := 650 })

/-- An entry or an excursion may begin: no exit, excursion, self-heat or critical stop is under way (R419, R421). -/
def pwrSteady (s : State) : Bool := coreUp s && !s.pwr.exiting && s.pwr.excursion.isNone && !s.thm.selfHeat && !s.thm.crit

/-- The state after the present one, if the tolerance permits it. -/
def nextState (s : State) : Option (Fin 5) :=
  if h : s.pwr.cur.val + 1 < 5 then
    if s.pwr.cur.val + 1 ≤ (permitted s).val then some ⟨s.pwr.cur.val + 1, h⟩ else none
  else none

/-- PSTATE_ENTRY (R419): the next state is entered; L3 once everything is drained and folded, until when the entry is in progress. -/
def execPstateEntry (s : State) : Host.Outcome State Fault Refusal :=
  match nextState s with
  | none => done s
  | some l =>
    if !pwrSteady s ∨ !idle s ∨ !mayEnter s l.val then done s
    else if l = 3 ∧ !drained s then
      done (settle (foldEverything (modPwr s fun p => { p with entering := true })))
    else done (goDown s l)

/-- A cause of return to L0 holds (R420); a commit in L4 unparks the channels only (R422). A command that GO began may be done, and a record
admitted, when the return follows: that one has come is the sender's word then (log entry 14). -/
def causeHolds (s : State) : ReturnCause → Bool
  | .hostCommand => !s.cmds.isEmpty
  | .mailboxGo => s.mbx.any fun x => decide (x.state ≠ .idle)
  | .mirrorRecord => s.mir.ports.any fun x => x.session || !x.inbox.isEmpty
  | .toleranceFell => decide ((permitted s).val < s.pwr.cur.val)
  | .commitTrigger => s.krf.running.isSome && decide (s.pwr.cur.val ≤ 3)
  | .coldHold => s.thm.coldHold

/-- PSTATE_RETURN_L0 (R420): an entry in progress is aborted, an excursion becomes the return, and an exit begins. -/
def execPstateReturnL0 (cause : ReturnCause) (s : State) : Host.Outcome State Fault Refusal :=
  if !coreUp s ∨ !causeHolds s cause then done s
  else done (modPwr s fun p => { p with entering := false, exiting := p.exiting || decide (p.cur ≠ 0), excursion := none })

/-- PSTATE_EXIT_COMPLETE (R419, R420): the device is in L0. -/
def execPstateExitComplete (s : State) : Host.Outcome State Fault Refusal :=
  if !s.pwr.exiting then done s
  else
    let s := modPwr s fun p => { p with cur := 0, exiting := false, held := [] }
    done (settle (pwrChanged (modThm s fun t => { t with vdd := vddL0 s })))

/-- The SCRUB input and the MOVE input against their CLEAR thresholds, less a margin (R186, R421). -/
def restAbove (s : State) (margin : Nat) : Bool :=
  [1, 3].any fun k => decide ((restThresholds s k).2.2 < (restInputs s).getD k 0 + margin)

/-- The SCRUB or MOVE input has reached its CLEAR threshold. -/
def restCalls (s : State) : Bool := restAbove s 1

/-- A class other than HRD, LKR, QRD and CTR has a request raised (R421). DEDUCED (log entry 67): a read for a fold counts although its class
is CTR, as R421's own example of a timed fold and R31's of CNT_CTRL.FOLD_ALL have it. -/
def workWaits (s : State) : Bool :=
  s.med.reqs.any (fun q => decide (q.state = .raised) && decide (q.purpose = .foldRead)) ||
  (List.range 64).any fun ch => Class.all.any fun c =>
    match c with
    | .hrd | .lkr | .qrd | .ctr => false
    | _ => hasRequest s ch c

/-- HOUSEKEEPING_EXCURSION (R421). -/
def execHousekeepingExcursion (s : State) : Host.Outcome State Fault Refusal :=
  if pwrSteady s ∧ 2 ≤ s.pwr.cur.val ∧ (restCalls s ∨ workWaits s) then
    let byInput := restCalls s
    let s := modPwr s fun p => { p with
      excursion := some (p.cur, byInput)
      cur := 0
      held := []
      excursions := BitVec.ofNat 16 (sat 16 (p.excursions.toNat + 1)) }
    done (settle (pwrChanged (modThm s fun t => { t with vdd := vddL0 s })))
  else done s

/-- Work of those classes is under way at the medium, or a fold is. -/
def workRuns (s : State) : Bool :=
  !s.cnt.folds.isEmpty || s.med.reqs.any fun q =>
    match q.cls with
    | .hrd | .lkr | .qrd | .ctr => false
    | _ => decide (q.state ≠ .raised)

/-- The work of an excursion is done: no request waits or runs, and the input that called for it has fallen 32 below CLEAR (R421). -/
def excursionOver (s : State) (byInput : Bool) : Bool := !workWaits s && !workRuns s && (!byInput || !restAbove s 32)

/-- HOUSEKEEPING_EXCURSION_END (R421): the state left is entered again, without a new hold-off. -/
def execHousekeepingExcursionEnd (s : State) : Host.Outcome State Fault Refusal :=
  match s.pwr.excursion with
  | none => done s
  | some (l, byInput) =>
    if coreUp s ∧ idle s ∧ excursionOver s byInput ∧ (l.val < 3 ∨ drained s) then
      done (goDown (modPwr s fun p => { p with excursion := none }) l)
    else done s

end Sys2Proof.Machine
end

