-- ==== Sys2Proof/Machine/Queues.lean ====
section
/-! DEFINITION. The events of the buffer pool, the queue engine and the counter folder (chapter 9). -/

namespace Sys2Proof.Machine

/-! ### The pool (R258, R270) -/

/-- The queue engine writes a sector of a region's link area: a mark of it is gone, a slot of it takes the new bytes too (R61, R258). No class
of the arbiter names these writes: their grants are not modelled (DESIGN CHOICE, log entry 74). -/
def formatSector (s : State) (lsa : Nat) : State :=
  let d := Config.linkBytes lsa s.fresh
  let s := freeNext s
  let s := if (slotAt s lsa).isSome then putSector s lsa d (agedAtOnce s) else if isMarked s lsa then clearMark s lsa else s
  if isExhausted s lsa then holdSector s lsa
  else match sealPlan s lsa with
    | some p => landProgram s lsa (some d) p
    | none => s

/-- The link area of a region is written: 64 MiB from the end of its data chunks on (R258). -/
def formatArea (s : State) (r : Nat) : State :=
  (List.range 262144).foldl (fun s k => formatSector s (regionBase r + 16 * regionChunks + k)) s

/-- POOL_FORMAT_DONE (R258): the link area of a BUFFER region is written and the region joins the pool. -/
def execPoolFormatDone (region : BitVec 9) (s : State) : Host.Outcome State Fault Refusal :=
  let x := regionAt s region.toNat
  if coreUp s ∧ x.formatting ∧ x.use = .buffer ∧ !x.lost ∧ programsRun s then
    let s := saveInner (formatArea s region.toNat) (.pool region.toNat)
    let s := modRegion s region.toNat fun x => { x with formatting := false }
    let s := modPool s region.toNat fun _ => { formatted := true, alloc := true, used := [] }
    done (settle (evt (raise s Reg.DBQ_INT_STATUS 6) Ev.DBQ_POOL_ADD noInst 0))
  else done s

/-- A chunk of a pool region belongs to a queue, or a read of a DEQ still uses it. -/
def chunkOwned (s : State) (r c : Nat) : Bool :=
  (s.dbq.queues.any fun e => e.2.chunks.any fun n => n.toNat == chunkSector r c) || chunkBeingRead s (chunkSector r c)

/-- The chunks of a region that a sweep keeps; a LOST region cannot be read. -/
def sweptRegion (s : State) (r : Nat) (p : PoolRegion) : PoolRegion :=
  if (regionAt s r).lost then p else { p with used := p.used.filter (chunkOwned s r) }

/-- A sweep pass ends (R270): the chunks that no queue owns are free. -/
def sweepEnd (s : State) : State :=
  let was := poolUsed s
  let again := s.dbq.sweepAgain
  let s := modDbq s fun d => { d with pool := fmapv (sweptRegion s) d.pool, sweeping := again, sweepAgain := false, sweepAt := 0 }
  let freed := was - poolUsed s
  let s := hwSet (hwAdd s Reg.DBQ_CHUNK_FREE freed) Reg.DBQ_SWEEP (fld (sat 24 freed) 8)
  raise (setCfg s Reg.DBQ_CTRL (putBit (cfg s Reg.DBQ_CTRL) 0 false)) Reg.DBQ_INT_STATUS 7

/-- DBQ_CTRL.SWEEP is written as 1. -/
def sweepGo (s : State) : State := askSweep (setCfg s Reg.DBQ_CTRL (putBit (cfg s Reg.DBQ_CTRL) 0 true))

/-- ORPHAN_SWEEP (R270). -/
def execOrphanSweep (s : State) : Host.Outcome State Fault Refusal := 
  if coreUp s then done (sweepGo (touch s Reg.DBQ_CTRL)) else done s

/-- ORPHAN_SWEEP_DONE (R270): the pass has read every chunk descriptor and ends; at a boot with a BUFFER breach, forwarding then begins (R272, R450). -/
def execOrphanSweepDone (s : State) : Host.Outcome State Fault Refusal :=
  if !coreUp s ∨ !s.dbq.sweeping ∨ (nextSweep s).isSome then done s
  else
    let s := sweepEnd s
    done (settle (if s.glb.state = .restore ∧ !s.dbq.sweeping then releaseForwarding s else s))

/-- QUEUE_DESC_WRITEBACK (R271): a charged descriptor is written back and releases its charge; two descriptors share a sector of
the internal area (R227, R285). -/
def execQueueDescWriteback (qid : BitVec 17) (s : State) : Host.Outcome State Fault Refusal :=
  if coreUp s ∧ (queueAt s qid.toNat).charged ∧ programsRun s then
    let s := descCheck s qid.toNat
    let w := { queueAt s qid.toNat with charged := false }
    let s := modDbq (putQueue s qid.toNat w) fun d => { d with saved := fputD d.saved qid.toNat Queue.initial w }
    done (settle (hwAdd (saveInner s (.queue (qid.toNat / 2))) Reg.DBQ_DESC_WB 1))
  else done s

/-! ### Folds and clears (R275, R276, R279) -/

/-- Folds run in the serving states, outside a commit (R159). -/
def foldsRun (s : State) : Bool := coreUp s && s.glb.state.serves && s.krf.running.isNone

/-- FOLD_TIMER (R275): an entry of a sector has been charged for FOLD_MS. -/
def execFoldTimer (lsa : BitVec 32) (s : State) : Host.Outcome State Fault Refusal :=
  if foldsRun s ∧ !(sectorEntries s lsa.toNat).isEmpty ∧ (foldOf s lsa.toNat).isNone then
    let s := startFold s lsa.toNat
    done (settle (if (foldOf s lsa.toNat).isSome then hwAdd s Reg.CNT_TIMER_FOLDS 1 else s))
  else done s

/-- CNT_FOLD_ALL (R275): CNT_CTRL.FOLD_ALL is written as 1. -/
def execCntFoldAll (s : State) : Host.Outcome State Fault Refusal :=
  if coreUp s then done (settle (setCfg (touch s Reg.CNT_CTRL) Reg.CNT_CTRL (putBit (cfg s Reg.CNT_CTRL) 0 true))) else done s

/-- The new value of a fold's sector is in place: in its charged slot, or in the medium (R275, R276). -/
def foldLand (s : State) (lsa : Nat) (base : Sector) (j : FoldJob) : State :=
  match slotAt s lsa with
  | some x =>
    if x.charged then putSector s lsa (addDeltas x.data j.snapshot) (agedAtOnce s)
    else
      let d := addDeltas base j.snapshot
      let s := cacheWrite (putSlot s lsa { x with data := d }) lsa d
      match sealPlan s lsa with
      | some p => programmed (countPsi (landProgram s lsa (some d) p) lsa) lsa
      | none => s
  | none =>
    let d := addDeltas base j.snapshot
    let s := cacheWrite s lsa d
    match sealPlan s lsa with
    | some p => programmed (countPsi (landProgram s lsa (some d) p) lsa) lsa
    | none => s

/-- The bytes that a fold leaves in its sector. -/
def foldResult (s : State) (lsa : Nat) (base : Sector) (j : FoldJob) : Sector :=
  match slotAt s lsa with
  | some x => addDeltas (if x.charged then x.data else base) j.snapshot
  | none => addDeltas base j.snapshot

/-- A fold switches (R276), and a MIRRORED region's mate is told (R316); a slot or an entry that it reads and finds bad is poisoned first (R140, R278). -/
def foldSwitch (s : State) (lsa : Nat) (base : Sector) (j : FoldJob) : State :=
  let s := entriesCheck (slotCheck s lsa) lsa
  if (foldOf s lsa).isNone then s else
  let d := foldResult s lsa base j
  let s := foldLand s lsa base j
  let s := modCnt s fun c => { c with entries := subSnapshot c.entries j.snapshot s.time.toNat, folds := fdel c.folds lsa }
  let s := pmcCount (hwAdd s Reg.CNT_FOLDS 1) 0x702 none 1
  askIntent (formRecord s (liveRecord .sector (paOf lsa) d) none) lsa

/-- FOLD_SWITCH (R276): the program of a fold has verified, or its sector has a charged slot to take the result. -/
def execFoldSwitch (lsa : BitVec 32) (s : State) : Host.Outcome State Fault Refusal :=
  match foldOf s lsa.toNat with
  | none => done s
  | some j =>
    match j.value with
    | some v => if foldsRun s ∧ j.ready then done (settle (foldSwitch s lsa.toNat v j)) else done s
    | none => done s

/-- CNT_CLEAR_SECTOR (R279): the next sector of a mailbox's CNT_CLEAR reaches its clearing instant. -/
def execCntClearSector (m : Mbx) (s : State) : Host.Outcome State Fault Refusal :=
  if foldsRun s then done (settle (clearStep s m)) else done s

end Sys2Proof.Machine
end

