-- ==== Sys2Proof/Machine/Units.lean ====
section
/-! DEFINITION. The parameter store's and the recorder's timers, and the performance counter units (chapters 13 and 14). -/

namespace Sys2Proof.Machine

/-! ### The parameter store (R362, R378, R382) -/

/-- PST_TIE_REWRITE (R362): the rewrite that a tie has scheduled. -/
def execPstTieRewrite (area : Fin 5) (slot : Fin 32) (s : State) : Host.Outcome State Fault Refusal :=
  if coreUp s ∧ s.pst.ready then done (tieRewrite s area.val slot.val) else done s

/-- PST_CTRL is written (R382): PROFILE_WE is set only together with KEY. -/
def writePstCtrl (s : State) (key : BitVec 16) (on : Bool) : State :=
  if on ∧ key ≠ 0x5A3C then badAccess s Reg.PST_CTRL
  else setCfg s Reg.PST_CTRL (putBit (cfg s Reg.PST_CTRL) 0 on)

/-- PST_PROFILE_WE (R378, R382). -/
def execPstProfileWe (key : BitVec 16) (on : Bool) (s : State) : Host.Outcome State Fault Refusal :=
  if coreUp s then done (writePstCtrl (touch s Reg.PST_CTRL) key on) else done s

/-! ### The event recorder (R383, R390, R394) -/

/-- EVENT_FRONT_WRITEBACK (R383): 1 ms after the oldest pending entry; never while the ring is frozen. -/
def execEventFrontWriteback (s : State) : Host.Outcome State Fault Refusal :=
  if coreUp s ∧ s.evr.ready ∧ !s.evr.frozen then done (settle (modEvr s Evr.writeBack)) else done s

/-- The windows that have expired. -/
def expired (s : State) : List Nat :=
  (s.evr.windows.filter fun e => match fget s.evr.limits e.1 with
    | some (_, w) => decide (e.2.start + w ≤ s.time.toNat)
    | none => true).map (·.1)

/-- A window that has expired closes, with a SUMMARY entry if it suppressed events (R390). -/
def closeWindow (s : State) (code : Nat) : State :=
  let r := recClose (irqSev s) s.time (BitVec.ofNat 16 s.glb.powerOns.toNat) code ((evtSev code).getD 0) (s.evr, s.hw)
  { s with evr := r.1, hw := r.2 }

/-- RATE_LIMIT_SWEEP (R390). -/
def execRateLimitSweep (s : State) : Host.Outcome State Fault Refusal :=
  if coreUp s ∧ s.evr.ready then done ((expired s).foldl closeWindow s) else done s

/-- EVR_AUTO_THAW (R394): the freeze timer has reached EVR_CTRL.FREEZE_S. -/
def execEvrAutoThaw (s : State) : Host.Outcome State Fault Refusal := if coreUp s then done (endFreeze s true) else done s

/-! ### Performance counter units (R399, R400, R406) -/

/-- Change a unit. -/
def modPmc (s : State) (u : PmcUnit) (f : Pmc → Pmc) : State := { s with pmc := vmod s.pmc u f }

/-- PMCu_CTRL's EN, FREEZE_ON_OVF and ALL are written (R400). -/
def pmcControl (s : State) (u : PmcUnit) (en freeze all : Bool) : State :=
  let s := modPmc s u fun p => { p with en := en, freeze := freeze }
  if u = 0 ∧ all then { s with pmc := s.pmc.map fun p => { p with en := en } } else s

/-- A unit that does not count is cleared (R406). -/
def pmcZero (s : State) (u : PmcUnit) : State :=
  modPmc s u fun p => if p.en then p else { p with tb := 0, ovf := 0, cnt := Vector.replicate 8 0 }

/-- PMC_ENABLE (R400). -/
def execPmcEnable (u : PmcUnit) (en freeze all : Bool) (s : State) : Host.Outcome State Fault Refusal :=
  if coreUp s then done (pmcControl (touch s (Reg.PMC_CTRL u.val)) u en freeze all) else done s

/-- PMC_CLEAR (R406). -/
def execPmcClear (u : PmcUnit) (s : State) : Host.Outcome State Fault Refusal := 
  if coreUp s then done (pmcZero (touch s (Reg.PMC_CTRL u.val)) u) else done s

/-- PMC_COUNTER_WRAP (R399): a counter that stands at its greatest value counts on. -/
def execPmcCounterWrap (u : PmcUnit) (k : Fin 8) (s : State) : Host.Outcome State Fault Refusal :=
  let p := s.pmc[u]
  if coreUp s ∧ p.en ∧ p.cnt[k] = 0xFFFFFFFFFFFF then
    done (pmcAll s fun v j => if v = u ∧ j = k ∧ (k = 0 ∨ !bitOf p.cfg[k] 13) then 1 else 0)
  else done s

end Sys2Proof.Machine
end

