-- ==== Sys2Proof/Machine/Regs.lean ====
section
/-! DEFINITION. BAR0 accesses (R13 to R17, R28 to R32, R340 to R342): reads, with the clearing of RC fields and the captures of
64-bit registers, and writes, with the limits and the effects of every register. -/

namespace Sys2Proof.Machine

/-! ### Windows and halves (R16, R17, R29, R30) -/

/-- An offset lies in a window of R28. -/
def inWindow (o : Nat) : Bool := (windowAt o).isSome || (decide (0x80000 ≤ o) && decide (o < 0x91000))

/-- An access that registers accept: 32 or 64 bits, naturally aligned (R30). -/
def aligned32or64 (o size : Nat) : Bool := (size == 4 || size == 8) && o % size == 0

/-- The register that a 32-bit access at an offset reaches, and whether it reaches the upper half of a 64-bit one. -/
def regHalf (o : Nat) : Option (Nat × RegDesc × Bool) :=
  match regAt o with
  | some r => some (o, r, false)
  | none =>
    if o % 8 = 4 then
      match regAt (o - 4) with
      | some r => if r.width = 64 then some (o - 4, r, true) else none
      | none => none
    else none

/-- A read clears RC fields (R13); a peak starts again from what there is now: the reads of rank 0 that wait or run, the total charge (R167,
R195). -/
def clearRc (s : State) (o : Nat) (mask : Word64) : State :=
  if mask = 0 then s else
  let s := hwSet s o (hwGet s o &&& ~~~ mask)
  if o = Reg.ARB_RANK0_DEPTH then (List.range 64).foldl noteDepth s
  else if o = Reg.KRF_CHARGE_PEAK then notePeak s
  else s

/-- The RC fields that lie wholly in the upper half of a 64-bit register (R17): SEQ_GLITCH COUNT7 to COUNT11, UNCORR_CW of MIRn_FEC, and
LADDER and UNCORR of MCHnn_ECC. The RC fields of every other 64-bit register span both halves. -/
def upperRc (o : Nat) : Word64 :=
  if o = Reg.SEQ_GLITCH then 0x0FFFFFF800000000
  else if o = 0x50070 ∨ o = 0x51070 ∨ (0x100000 ≤ o ∧ o < 0x112000 ∧ o % 0x400 = 0x18) then 0xFFFFFFFF00000000
  else 0

/-! ### Reads -/

/-- A 32-bit read of a register or of a half of one. -/
def readHalf (s : State) (o : Nat) (r : RegDesc) (upper : Bool) : Nat × State :=
  let s := touch s o
  let v := (regValue s o).toNat
  let k := latchKey o
  if r.width = 32 then (v % 2 ^ 32, clearRc s o r.rc)
  else if !upper then
    (v % 2 ^ 32, clearRc { s with latches := fput s.latches k { off := o, half := BitVec.ofNat 32 (v / 2 ^ 32), write := false } } o r.rc)
  else
    match fget s.latches k with
    | some l => (l.half.toNat, { s with latches := fdel s.latches k })
    | none => (v / 2 ^ 32, clearRc s o (upperRc o))

/-- Bytes of a mailbox's buffers as a read sees them (R341): `i` is the offset in the mailbox's window. -/
def mbxBufRead (x : MbxS) (i : Nat) : Byte :=
  if i < 0x1000 then bufByte x.req i
  else if mbxBusy x ∨ (x.state = .done ∧ x.rspLen ≤ i - 0x1000) then 0
  else bufByte x.rsp (i - 0x1000)

/-- A 32-bit word of the MSI-X table (R340). -/
def msixWord (e : MsixEntry) (k : Nat) : Nat :=
  match k with
  | 0 => bitsOf e.addr 0 32
  | 1 => bitsOf e.addr 32 32
  | 2 => e.data.toNat
  | _ => e.mask.toNat

/-- A 32-bit read at an aligned offset. -/
def read32 (s : State) (o : Nat) : Nat × State :=
  if 0x80000 ≤ o ∧ o < 0x90000 then
    let x := s.mbx[mbxOf ((o - 0x80000) / 0x2000)]
    (leNat ((List.range 4).map fun j => mbxBufRead x ((o - 0x80000) % 0x2000 + j)), s)
  else if 0x90800 ≤ o ∧ o < 0x90A00 then (msixWord (msixEntry s.pcie ((o - 0x90800) / 16)) ((o - 0x90800) % 16 / 4), s)
  else if o = 0x90C00 then (s.pcie.pba.toNat, s)
  else
    match regHalf o with
    | some (b, r, upper) => readHalf s b r upper
    | none => (0, s)

/-- A 64-bit read of two 32-bit places, the lower first. -/
def readPair (s : State) (o : Nat) : Nat × State :=
  let a := read32 s o
  let b := read32 a.2 (o + 4)
  (a.1 + b.1 * 2 ^ 32, b.2)

/-- A 64-bit read of a place with this register, or with none. -/
def readWide (s : State) (o : Nat) : Option RegDesc → Nat × State
  | some r =>
    if r.width = 64 then
      let s := touch s o
      ((regValue s o).toNat, clearRc s o r.rc)
    else readPair s o
  | none => readPair s o

/-- A read of `size` bytes that registers accept. -/
def readAt (s : State) (o size : Nat) : Nat × State := if size = 4 then read32 s o else readWide s o (regAt o)

/-- A read that the endpoint answers: its data, and what it does. -/
def busRead (s : State) (o size : Nat) : Nat × State :=
  if !inWindow o then (0, s)
  else if !aligned32or64 o size then (0, badAccess s o)
  else readAt s o size

/-- The endpoint answers: the core has its supplies and the PCIe link is up. -/
def endpointUp (s : State) : Bool := decide (s.seq.phase = .on) && s.pcie.linkUp

/-- The register of a command code of the SMBus sideband (R451): all but SEQ_CTRL can be read. -/
def sidebandReg : Nat → Option Nat
  | 0x00 => some Reg.SEQ_STATUS
  | 0x01 => some Reg.SEQ_PINS
  | 0x02 => some Reg.SEQ_FAULT
  | 0x03 => some Reg.SEQ_GLITCH
  | 0x04 => some Reg.SEQ_CFG
  | 0x10 => some Reg.THM_STATUS
  | 0x11 => some Reg.THM_TEMP
  | 0x12 => some Reg.THM_LIMITS
  | 0x13 => some Reg.THM_THROTTLE
  | _ => none

/-- A Block Read over SMBus: a THM register reads as zero while VDD_CORE (SEQ0) is not good; nothing is cleared (R451). -/
def sidebandRead (s : State) (o size : Nat) : Nat :=
  if inSeqWindow o || s.seq.good.getLsbD 0 then (regValue s o).toNat % 2 ^ (8 * size) else 0

/-- BAR2: the oldest held dump from offset 0, and zero beyond its SIZE or while none is held (R404). -/
def bar2Read (s : State) (o size : Nat) : Nat :=
  match s.dumps.held with
  | d :: _ =>
    let h := dumpHeader d
    leNat ((List.range size).map fun k => if o + k < d.size then dumpByte d h (o + k) else 0)
  | [] => 0

/-- A read of BAR0 or BAR2 that reaches the endpoint: in D3hot it returns no data (R338). -/
def barRead (s : State) (r : Nat × State) : Option (Nat × State) :=
  if !endpointUp s then none
  else if s.pcie.cfg.d3hot then some (s.busRead.toNat, unsupported s)
  else some r

/-- What a read returns, and what it does; `none`: nothing answers. -/
def readFrom (s : State) (size : Nat) : BusAddr → Option (Nat × State)
  | .bar0 o => barRead s (busRead s o.toNat size)
  | .bar2 o => barRead s (bar2Read s o.toNat size, match s.dumps.held with | d :: _ => loadDump s d o.toNat size | [] => s)
  | .config r => if endpointUp s then some ((cfgRead s r).toNat, s) else none
  | .smbus c => if s.seq.vaon then (sidebandReg c.toNat).map fun o => (sidebandRead s o size, s) else none

/-- REGISTER_READ_CLEAR (R13, R15, R17, R29, R30, R336, R404, R451): a read of BAR0, of BAR2, of the configuration space or over SMBus. -/
def execRegisterReadClear (addr : BusAddr) (size : Nat) (s : State) : Host.Outcome State Fault Refusal :=
  match readFrom s size addr with
  | some r => done { r.2 with busRead := BitVec.ofNat 64 r.1 }
  | none => done s

/-! ### Stated limits -/

/-- A field lies in a range. -/
def fits (v : Word64) (lo w low high : Nat) : Bool := decide (low ≤ bitsOf v lo w) && decide (bitsOf v lo w ≤ high)

/-- Limits of the HPn registers (R103). -/
def hpFits (o : Nat) (v : Word64) : Bool :=
  match o with
  | 0x10 => fits v 0 15 2048 16384 && bitsOf v 0 15 % 64 == 0
  | 0x14 => fits v 0 5 1 16
  | 0x18 => decide (bitsOf v 16 11 < bitsOf v 0 11)
  | 0x1C => decide (bitsOf v 16 11 < bitsOf v 0 11) && decide (bitsOf v 0 11 ≤ 1008)
  | 0x20 => fits v 0 9 1 256 && fits v 16 8 1 255
  | _ => true

/-- Limits of the ARB registers (R195). -/
def arbFits (o : Nat) (v : Word64) : Bool :=
  if 0x40 ≤ o ∧ o < 0x70 then fits v 0 8 1 255
  else if 0x88 ≤ o ∧ o < 0x98 then decide (bitsOf v 0 8 ≤ bitsOf v 8 8) && decide (bitsOf v 16 8 < bitsOf v 0 8)
  else if o = 0x98 then fits v 0 8 1 255 && fits v 8 8 1 255 && fits v 16 8 1 255
  else true

/-- Limits of the MBXm registers (R359). -/
def mbxFits (s : State) (m : Mbx) (o : Nat) (v : Word64) : Bool :=
  match o with
  | 0x00 => !mbxBusy s.mbx[m]
  | 0x04 => decide (popcount (v &&& 7) ≤ 1)
  | _ => true

/-- Limits of the PMCu registers (R400). -/
def pmcFits (p : Pmc) (o : Nat) : Bool := !(p.en && decide (0x20 ≤ o))

/-- A write to the register at an offset keeps its stated limits. -/
def writeFits (s : State) (o : Nat) (v : Word64) : Bool :=
  let w := o % 0x1000
  match o / 0x1000 with
  | 0x010 => hpFits w v
  | 0x011 => hpFits w v
  | 0x012 => hpFits w v
  | 0x013 => hpFits w v
  | 0x020 => if w = 0x18 then fits v 16 8 1 255 else if w = 0x1C then fits v 0 10 1 1000 else true
  | 0x022 => arbFits w v
  | 0x030 => !(decide (w = 0) && bitOf v 20 && fhas s.lke.failed (bitsOf v 16 4))
  | 0x031 => if w = 0x10 then fits v 0 16 1 1000 else true
  | 0x032 => if w = 0x10 then fits v 0 14 10 8191 && fits v 16 14 20 16383 && decide (2 * bitsOf v 0 14 ≤ bitsOf v 16 14) else true
  | 0x040 => if w = 0x20 then fits v 0 13 64 4096 else if w = 0x28 then fits v 0 20 0x10000 0xFF000 && bitsOf v 0 20 % 4096 == 0 else true
  | 0x050 => if w = 0x10 then fits v 0 8 1 255 && fits v 8 4 2 15 && fits v 16 8 1 64 else true
  | 0x051 => if w = 0x10 then fits v 0 8 1 255 && fits v 8 4 2 15 && fits v 16 8 1 64 else true
  | 0x090 => mbxFits s (mbxOf (w / 0x20)) (w % 0x20) v
  | 0x0A1 => if w = 0 then fits v 4 8 1 255 else true
  | 0x0B0 => pmcFits s.pmc[pmcOf (w / 0x100)] (w % 0x100)
  | 0x0C1 => if w = 0 then fits v 0 4 1 8 else true
  | 0x0C2 => if o = Reg.SEQ_CFG then fits v 0 10 100 1000 && fits v 16 12 100 4095 else true
  | _ =>
    if 0x100000 ≤ o ∧ o < 0x112000 ∧ o % 0x400 = 0 then fits v 8 8 5 50
    else if 0x120000 ≤ o ∧ o < 0x122000 then
      if o % 0x400 = 0 then fits v 1 3 1 7 && fits v 4 3 1 7 && decide (bitsOf v 1 3 ≤ bitsOf v 4 3) && fits v 8 4 5 9
      else if o % 0x400 = 0x10 then fits v 0 8 128 240
      else true
    else true

/-! ### Writes -/

/-- The fields of R13: RW and RWS take the value written, RW1C bits written 1 are cleared. -/
def writeFields (s : State) (o : Nat) (r : RegDesc) (v : Word64) : State :=
  let s := if r.rw = 0 then s else setCfg s o (v &&& r.rw)
  if r.w1c = 0 then s else hwSet s o (hwGet s o &&& ~~~ (v &&& r.w1c))

/-- HPn_CTRL (R94, R96, R102). -/
def writeHpCtrl (s : State) (p : HPort) (v : Word64) : State :=
  let s := setCfg s (Reg.HP_CTRL p.val) (putBit (cfg s (Reg.HP_CTRL p.val)) 2 (bitOf v 2))
  setFarLoop (setEnable s p (bitOf v 0)) p (bitOf v 1)

/-- HPn registers. -/
def writeHp (s : State) (p : HPort) (w : Nat) (o : Nat) (r : RegDesc) (v : Word64) : State :=
  match w with
  | 0x00 => writeHpCtrl s p v
  | 0x18 => calUpdate (writeFields s o r v) p
  | 0x1C => calUpdate (writeFields s o r v) p
  | 0x20 => writeFields (modPort s p fun q => { q with txBucket := txBucketNow s p }) o r v
  | _ => writeFields s o r v

/-- RDP registers. -/
def writeRdp (s : State) (w : Nat) (o : Nat) (r : RegDesc) (v : Word64) : State :=
  match w with
  | 0x00 => setCacheEn s (bitOf v 0)
  | 0x34 => if bitOf v 0 then invalGo s (bitOf v 1) else writeFields s o r v
  | 0x48 =>
    if s.rdp.lock.isSome then setCfg s o (putBit (v &&& r.rw) 63 true)
    else if bitOf v 63 then lockGo s (bitsOf v 8 32) (bitsOf v 40 2)
    else writeFields s o r v
  | _ => writeFields s o r v

/-- ARB registers. -/
def writeArb (s : State) (w : Nat) (o : Nat) (r : RegDesc) (v : Word64) : State :=
  match w with
  | 0x20 => if bitOf v 0 then commitRanks s else s
  | 0x80 => writeFields (fillBuckets s) o r v
  | 0x98 => writeFields (fillBuckets s) o r v
  | _ => writeFields s o r v

/-- LKE_CTRL (R257). -/
def writeLkeCtrl (s : State) (o : Nat) (r : RegDesc) (v : Word64) : State :=
  let s' := writeFields s o r (putBit v 20 false)
  if bitOf v 20 then forceEngine s' ⟨bitsOf v 16 4, Nat.mod_lt _ (by decide)⟩ else s'

/-- MIRn_CTRL (R324, R333). -/
def writeMirCtrl (s : State) (n : MPort) (o : Nat) (r : RegDesc) (v : Word64) : State :=
  let s := writeFields s o r v
  if bitOf v 0 then s else mirLinkLost s n

/-- MBXm registers (R342, R344, R359). -/
def writeMbx (s : State) (m : Mbx) (w : Nat) (o : Nat) (r : RegDesc) (v : Word64) : State :=
  match w with
  | 0x04 => if bitOf v 0 then mbxGo s m else if bitOf v 1 then mbxStop s m else if bitOf v 2 then mbxFree s m else s
  | _ => writeFields s o r v

/-- PMCu registers: they stand in the unit (R399, R400, R406). -/
def writePmc (s : State) (u : PmcUnit) (w : Nat) (v : Word64) : State :=
  if w = 0 then
    let s := pmcControl s u (bitOf v 0) (bitOf v 1) (bitOf v 3)
    if bitOf v 2 then pmcZero s u else s
  else if w = 4 then modPmc s u fun p => { p with ovf := p.ovf &&& ~~~ v.setWidth 8 }
  else if w = 8 then modPmc s u fun p => { p with mask := v.setWidth 8 }
  else if h : 0x20 ≤ w ∧ w < 0x40 ∧ w % 4 = 0 then
    modPmc s u fun p => { p with cfg := p.cfg.set (⟨(w - 0x20) / 4, by omega⟩ : Fin 8) (v.setWidth 32 &&& 0x7F7FFF) }
  else if h : 0x40 ≤ w ∧ w < 0x80 ∧ w % 8 = 0 then
    modPmc s u fun p => { p with cnt := p.cnt.set (⟨(w - 0x40) / 8, by omega⟩ : Fin 8) (v.setWidth 48) }
  else s

/-- A write of SEQ_CTRL: RESTART, and DOWN with its KEY, without which the write is ignored (R440, R444). -/
def seqCommand (s : State) (v : Word64) : State :=
  if bitOf v 1 ∧ bitsOf v 16 16 ≠ 0xC3A5 then s else
  let s := if bitOf v 0 then seqRestart s else s
  if bitOf v 1 then seqDown s (BitVec.ofNat 16 (bitsOf v 16 16)) else s

/-- SEQ registers (R440, R444, R453). -/
def writeSeq (s : State) (o : Nat) (r : RegDesc) (v : Word64) : State :=
  if o = Reg.SEQ_CTRL then seqCommand s v
  else if o = Reg.SEQ_FAULT then if bitOf v 31 then hwSet s o 0 else s
  else writeFields s o r v

/-- Controller of an MCHnn register. -/
def mchOf (k : Nat) : Mch := ⟨k % 72, Nat.mod_lt _ (by decide)⟩

/-- MCHnn_CTRL (R219, R229): hardware clears FORCE_FAIL. -/
def writeMchCtrl (s : State) (m : Mch) (o : Nat) (r : RegDesc) (v : Word64) : State :=
  let s' := writeFields s o r (putBit v 0 false)
  if bitOf v 0 then forceMch s' m else s'

/-- The effect of a write that keeps the register's limits. -/
def writeEffect (s : State) (o : Nat) (r : RegDesc) (v : Word64) : State :=
  let w := o % 0x1000
  match o / 0x1000 with
  | 0x000 =>
    if w = 0x24 then softReset s (BitVec.ofNat 16 (bitsOf v 0 16)) (if bitOf v 16 then .warm else .full) else writeFields s o r v
  | 0x010 => writeHp s 0 w o r v
  | 0x011 => writeHp s 1 w o r v
  | 0x012 => writeHp s 2 w o r v
  | 0x013 => writeHp s 3 w o r v
  | 0x020 => if w = 0x10 then writeLimit s (bitsOf v 0 11) else writeFields s o r v
  | 0x021 => writeRdp s w o r v
  | 0x022 => writeArb s w o r v
  | 0x030 => if w = 0 then writeLkeCtrl s o r v else writeFields s o r v
  | 0x031 => if w = 0 ∧ bitOf v 0 then sweepGo s else writeFields s o r v
  | 0x050 => if w = 0 then writeMirCtrl s 0 o r v else writeFields s o r v
  | 0x051 => if w = 0 then writeMirCtrl s 1 o r v else writeFields s o r v
  | 0x090 => writeMbx s (mbxOf (w / 0x20)) (w % 0x20) o r v
  | 0x0A0 => if w = 0 then writePstCtrl s (BitVec.ofNat 16 (bitsOf v 16 16)) (bitOf v 0) else writeFields s o r v
  | 0x0B0 => writePmc s (pmcOf (w / 0x100)) (w % 0x100) v
  | 0x0C2 => writeSeq s o r v
  | _ =>
    if 0x100000 ≤ o ∧ o < 0x112000 ∧ o % 0x400 = 0 then writeMchCtrl s (mchOf ((o - 0x100000) / 0x400)) o r v
    else writeFields s o r v

/-- A register is written: outside its stated limits the write is ignored and recorded. -/
def regWrite (s : State) (o : Nat) (r : RegDesc) (v : Word64) : State :=
  if writeFits s o v then writeEffect s o r v else badAccess s o

/-- A 32-bit write of a register or of a half of one (R17). -/
def writeHalf (s : State) (o : Nat) (r : RegDesc) (upper : Bool) (v : Nat) : State :=
  let s := touch s o
  let k := latchKey o + 1
  if r.width = 32 then regWrite s o r (BitVec.ofNat 64 v)
  else if !upper then { s with latches := fput s.latches k { off := o, half := BitVec.ofNat 32 v, write := true } }
  else
    match fget s.latches k with
    | some l => regWrite { s with latches := fdel s.latches k } o r (BitVec.ofNat 64 (l.half.toNat + v * 2 ^ 32))
    | none => badAccess s (o + 4)

/-- Bytes are written into a mailbox's window: the request buffer takes them, the response buffer is the device's (R341, R342). -/
def mbxBufWrite (x : MbxS) (i : Nat) (l : List Byte) : MbxS :=
  if i < 0x1000 then { x with req := (l.zipIdx).foldl (fun m e => fputD m (i + e.2) 0 e.1) x.req } else x

/-- A 32-bit word of the MSI-X table is written (R340). -/
def msixPut (e : MsixEntry) (k v : Nat) : MsixEntry :=
  match k with
  | 0 => { e with addr := putBits e.addr 0 32 v }
  | 1 => { e with addr := putBits e.addr 32 32 v }
  | 2 => { e with data := BitVec.ofNat 32 v }
  | _ => { e with mask := v % 2 == 1 }

/-- The MSI-X entry of an unlisted vector. -/
def MsixEntry.initial : MsixEntry := { addr := 0, data := 0, mask := true }

/-- A write into a mailbox's window of `size` bytes. -/
def writeBuffer (s : State) (o : Nat) (m : Mbx) (i size v : Nat) : State :=
  if i < 0x1000 ∧ mbxBusy s.mbx[m] then badAccess s o
  else { s with mbx := vmod s.mbx m fun x => mbxBufWrite x i (leBytes size v) }

/-- A 32-bit write at an aligned offset. -/
def write32 (s : State) (o v : Nat) : State :=
  if 0x90800 ≤ o ∧ o < 0x90A00 then
    let n := (o - 0x90800) / 16
    let e := msixPut (msixEntry s.pcie n) ((o - 0x90800) % 16 / 4) v
    { s with pcie := { s.pcie with msix := fputD s.pcie.msix n MsixEntry.initial e } }
  else
    match regHalf o with
    | some (b, r, upper) => writeHalf s b r upper v
    | none => s

/-- A 64-bit write of two 32-bit places acts as two 32-bit writes, the lower first: the effect of the first is in place, its interrupts
signalled, before the second (R30). -/
def writePair (s : State) (o v : Nat) : State :=
  let t := fin (settle (write32 s o (v % 2 ^ 32)))
  if coreUp t then write32 t (o + 4) (v / 2 ^ 32) else t

/-- A 64-bit write of a place with this register, or with none. -/
def writeWide (s : State) (o v : Nat) : Option RegDesc → State
  | some r =>
    if r.width = 64 then
      let s := touch s o
      regWrite { s with latches := fdel s.latches (latchKey o + 1) } o r (BitVec.ofNat 64 v)
    else writePair s o v
  | none => writePair s o v

/-- A write of `size` bytes that registers accept. -/
def writeAt (s : State) (o size v : Nat) : State :=
  if 0x80000 ≤ o ∧ o < 0x90000 then
    writeBuffer s o (mbxOf ((o - 0x80000) / 0x2000)) ((o - 0x80000) % 0x2000) size v
  else if size = 4 then write32 s o v
  else writeWide s o v (regAt o)

/-- A write that the endpoint takes. -/
def busWrite (s : State) (o size v : Nat) : State :=
  if !inWindow o then s
  else if !aligned32or64 o size then badAccess s o
  else writeAt s o size v

/-- A Block Write over SMBus: of SEQ_FAULT, which it clears where VALID is written 1, and of SEQ_CTRL, each of 4 bytes (R451, R453). -/
def sidebandWrite (s : State) (c size : Nat) (v : BitVec 64) : State :=
  if size ≠ 4 ∨ !s.seq.vaon then s
  else if c = 0x02 then (if bitOf v 31 then hwSet s Reg.SEQ_FAULT 0 else s)
  else if c = 0x20 then seqCommand s v
  else s

/-- REGISTER_WRITE (R13, R14, R17, R29, R30, R32, R336, R337, R338, R451): a write of the low `size` bytes of `value` to BAR0, to BAR2, which
discards it, to a whole register of the configuration space, or over SMBus. -/
def execRegisterWrite (off : BusAddr) (size : Nat) (value : BitVec 64) (s : State) : Host.Outcome State Fault Refusal :=
  match off with
  | .bar0 o =>
    if endpointUp s ∧ s.pcie.cfg.d3hot then done (unsupported s)
    else if coreUp s ∧ endpointUp s then done (settle (busWrite s o.toNat size (if size = 4 then value.toNat % 2 ^ 32 else value.toNat)))
    else done s
  | .bar2 _ => if endpointUp s ∧ s.pcie.cfg.d3hot then done (unsupported s) else done s
  | .config r => if endpointUp s ∧ size = 4 then done (cfgWrite s r (value.setWidth 32)) else done s
  | .smbus c => done (sidebandWrite s c.toNat size value)

end Sys2Proof.Machine
end

