-- ==== Sys2Proof/Machine/Dispatch.lean ====
section
/-! DEFINITION. `exec`: one arm per command. -/

namespace Sys2Proof.Machine

/-- The effect of a command on everything but the queue. -/
def exec (i : Instr) (s : State) : Host.Outcome State Fault Refusal :=
  match i with
  | .vaonPowerOn => Sys2Proof.Machine.execVaonPowerOn s
  | .seqRailDelayExpiry c => Sys2Proof.Machine.execSeqRailDelayExpiry c s
  | .seqPgRise c wasLong => Sys2Proof.Machine.execSeqPgRise c wasLong s
  | .seqPgFall c => Sys2Proof.Machine.execSeqPgFall c s
  | .pgDeglitchedGood c => Sys2Proof.Machine.execPgDeglitchedGood c s
  | .pgLost c => Sys2Proof.Machine.execPgLost c s
  | .pgUnstable c => Sys2Proof.Machine.execPgUnstable c s
  | .pgTimeout c => Sys2Proof.Machine.execPgTimeout c s
  | .settleWindowEnd c => Sys2Proof.Machine.execSettleWindowEnd c s
  | .dischargeDone c => Sys2Proof.Machine.execDischargeDone c s
  | .dischargeTimeout c => Sys2Proof.Machine.execDischargeTimeout c s
  | .pwrFailNFall => Sys2Proof.Machine.execPwrFailNFall s
  | .pwrFailNRise => Sys2Proof.Machine.execPwrFailNRise s
  | .pwrFailRecognised => Sys2Proof.Machine.execPwrFailRecognised s
  | .powerUpRestartTimer => Sys2Proof.Machine.execPowerUpRestartTimer s
  | .commitDone us => Sys2Proof.Machine.execCommitDone us s
  | .commitToExpiry => Sys2Proof.Machine.execCommitToExpiry s
  | .resetNFall => Sys2Proof.Machine.execResetNFall s
  | .resetNRecognised => Sys2Proof.Machine.execResetNRecognised s
  | .resetNRise => Sys2Proof.Machine.execResetNRise s
  | .resetRelease obs => Sys2Proof.Machine.execResetRelease obs s
  | .settlingPassDone ch offset uncorrectable refresh => Sys2Proof.Machine.execSettlingPassDone ch offset uncorrectable refresh s
  | .settleLate => Sys2Proof.Machine.execSettleLate s
  | .seqCtrlRestart overSmbus => Sys2Proof.Machine.execSeqCtrlRestart overSmbus s
  | .seqCtrlDown key overSmbus => Sys2Proof.Machine.execSeqCtrlDown key overSmbus s
  | .seqFaultClear overSmbus => Sys2Proof.Machine.execSeqFaultClear overSmbus s
  | .glbSoftResetFull key => Sys2Proof.Machine.execGlbSoftResetFull key s
  | .glbSoftResetWarm key => Sys2Proof.Machine.execGlbSoftResetWarm key s
  | .headstockWatchdogExpiry => Sys2Proof.Machine.execHeadstockWatchdogExpiry s
  | .watchdogResetTimeout => Sys2Proof.Machine.execWatchdogResetTimeout s
  | .dumpComplete truncated => Sys2Proof.Machine.execDumpComplete truncated s
  | .registerWrite off size value => Sys2Proof.Machine.execRegisterWrite off size value s
  | .registerReadClear addr size => Sys2Proof.Machine.execRegisterReadClear addr size s
  | .msixPendingSend vec => Sys2Proof.Machine.execMsixPendingSend vec s
  | .pcieFlr => Sys2Proof.Machine.execPcieFlr s
  | .pcieHotReset => Sys2Proof.Machine.execPcieHotReset s
  | .pcieLinkDown => Sys2Proof.Machine.execPcieLinkDown s
  | .pcieD3hotToD0 => Sys2Proof.Machine.execPcieD3hotToD0 s
  | .pciePerstNAssert => Sys2Proof.Machine.execPciePerstNAssert s
  | .crossCountWindowEnd sys hp pcie osc => Sys2Proof.Machine.execCrossCountWindowEnd sys hp pcie osc s
  | .oscRatioMeasure ratio => Sys2Proof.Machine.execOscRatioMeasure ratio s
  | .paceSample slowest => Sys2Proof.Machine.execPaceSample slowest s
  | .governorStep => Sys2Proof.Machine.execGovernorStep s
  | .paceLowTimer => Sys2Proof.Machine.execPaceLowTimer s
  | .hsOppTransitionEnd => Sys2Proof.Machine.execHsOppTransitionEnd s
  | .sensorSample raw => Sys2Proof.Machine.execSensorSample raw s
  | .rateOfRiseCompute earlier => Sys2Proof.Machine.execRateOfRiseCompute earlier s
  | .preemptEnd => Sys2Proof.Machine.execPreemptEnd s
  | .pstateEntry => Sys2Proof.Machine.execPstateEntry s
  | .pstateReturnL0 cause => Sys2Proof.Machine.execPstateReturnL0 cause s
  | .pstateExitComplete => Sys2Proof.Machine.execPstateExitComplete s
  | .housekeepingExcursion => Sys2Proof.Machine.execHousekeepingExcursion s
  | .housekeepingExcursionEnd => Sys2Proof.Machine.execHousekeepingExcursionEnd s
  | .hostSignalValid p => Sys2Proof.Machine.execHostSignalValid p s
  | .codewordLock p => Sys2Proof.Machine.execCodewordLock p s
  | .codewordLockLost p => Sys2Proof.Machine.execCodewordLockLost p s
  | .wordLock p l => Sys2Proof.Machine.execWordLock p l s
  | .wordLockLost p l => Sys2Proof.Machine.execWordLockLost p l s
  | .metaframeLock p l => Sys2Proof.Machine.execMetaframeLock p l s
  | .metaframeLockLost p l => Sys2Proof.Machine.execMetaframeLockLost p l s
  | .hpLinkUp p alignNs => Sys2Proof.Machine.execHpLinkUp p alignNs s
  | .hpCtrlEnable p enable => Sys2Proof.Machine.execHpCtrlEnable p enable s
  | .hpFarLoop p on => Sys2Proof.Machine.execHpFarLoop p on s
  | .burstReceived p c b => Sys2Proof.Machine.execBurstReceived p c b s
  | .hostCalendarReceived p cal => Sys2Proof.Machine.execHostCalendarReceived p cal s
  | .responseSend p c tag => Sys2Proof.Machine.execResponseSend p c tag s
  | .nop p c tag du => Sys2Proof.Machine.execNop p c tag du s
  | .echo p c tag du operand data => Sys2Proof.Machine.execEcho p c tag du operand data s
  | .unknownOpcode p c tag opcode du => Sys2Proof.Machine.execUnknownOpcode p c tag opcode du s
  | .rd64 p c tag du pa => Sys2Proof.Machine.execRd64 p c tag du pa s
  | .rd256 p c tag du pa => Sys2Proof.Machine.execRd256 p c tag du pa s
  | .wr64 p c tag du pa data => Sys2Proof.Machine.execWr64 p c tag du pa data s
  | .wr256 p c tag du pa data => Sys2Proof.Machine.execWr256 p c tag du pa data s
  | .wrm64 p c tag du pa mask data => Sys2Proof.Machine.execWrm64 p c tag du pa mask data s
  | .fadd64 p c tag du pa addend => Sys2Proof.Machine.execFadd64 p c tag du pa addend s
  | .cswap64 p c tag du pa compare data => Sys2Proof.Machine.execCswap64 p c tag du pa compare data s
  | .cadd p c tag du pa deltas => Sys2Proof.Machine.execCadd p c tag du pa deltas s
  | .crd p c tag du pa => Sys2Proof.Machine.execCrd p c tag du pa s
  | .lkup p c tag du addr operand data => Sys2Proof.Machine.execLkup p c tag du addr operand data s
  | .enq p c tag du addr operand data => Sys2Proof.Machine.execEnq p c tag du addr operand data s
  | .deq p c tag du addr => Sys2Proof.Machine.execDeq p c tag du addr s
  | .qflush p c tag du addr => Sys2Proof.Machine.execQflush p c tag du addr s
  | .qstat p c tag du addr => Sys2Proof.Machine.execQstat p c tag du addr s
  | .fence p c tag du => Sys2Proof.Machine.execFence p c tag du s
  | .fencePerformed p c => Sys2Proof.Machine.execFencePerformed p c s
  | .persist p c tag du => Sys2Proof.Machine.execPersist p c tag du s
  | .persistComplete p c tag => Sys2Proof.Machine.execPersistComplete p c tag s
  | .chargeReservationGrant => Sys2Proof.Machine.execChargeReservationGrant s
  | .restTokensAvailable p c => Sys2Proof.Machine.execRestTokensAvailable p c s
  | .throttleTokensAvailable p c => Sys2Proof.Machine.execThrottleTokensAvailable p c s
  | .dirtyBitmapProgramDone => Sys2Proof.Machine.execDirtyBitmapProgramDone s
  | .dirtyBitmapClear regions => Sys2Proof.Machine.execDirtyBitmapClear regions s
  | .mergeFetchReturn lsa out => Sys2Proof.Machine.execMergeFetchReturn lsa out s
  | .drainAgeTimer lsa => Sys2Proof.Machine.execDrainAgeTimer lsa s
  | .krfFlush => Sys2Proof.Machine.execKrfFlush s
  | .krfDirtyLimitWrite limit => Sys2Proof.Machine.execKrfDirtyLimitWrite limit s
  | .arbiterGrant ch => Sys2Proof.Machine.execArbiterGrant ch s
  | .cutIn ch => Sys2Proof.Machine.execCutIn ch s
  | .mediumReadDone req out => Sys2Proof.Machine.execMediumReadDone req out s
  | .mediumProgramDone req out => Sys2Proof.Machine.execMediumProgramDone req out s
  | .arbCommit => Sys2Proof.Machine.execArbCommit s
  | .arbRankApplyDeadline => Sys2Proof.Machine.execArbRankApplyDeadline s
  | .steadyRestEval => Sys2Proof.Machine.execSteadyRestEval s
  | .rdpLock lsa => Sys2Proof.Machine.execRdpLock lsa s
  | .rdpPin lsa => Sys2Proof.Machine.execRdpPin lsa s
  | .rdpUnlock lsa => Sys2Proof.Machine.execRdpUnlock lsa s
  | .rangeInvalidation includeLocked => Sys2Proof.Machine.execRangeInvalidation includeLocked s
  | .invalidationDone => Sys2Proof.Machine.execInvalidationDone s
  | .cacheEn on => Sys2Proof.Machine.execCacheEn on s
  | .scrubStep ch lsa out cycleEnds => Sys2Proof.Machine.execScrubStep ch lsa out cycleEnds s
  | .gapStep domain out => Sys2Proof.Machine.execGapStep domain out s
  | .mchWatchdogExpiry m => Sys2Proof.Machine.execMchWatchdogExpiry m s
  | .mchDatapathError m => Sys2Proof.Machine.execMchDatapathError m s
  | .mchForceFail m => Sys2Proof.Machine.execMchForceFail m s
  | .diePortFault b die => Sys2Proof.Machine.execDiePortFault b die s
  | .blankOutage b => Sys2Proof.Machine.execBlankOutage b s
  | .blankResetTimeout b answers => Sys2Proof.Machine.execBlankResetTimeout b answers s
  | .tierReload table => Sys2Proof.Machine.execTierReload table s
  | .lkeWatchdogExpiry e => Sys2Proof.Machine.execLkeWatchdogExpiry e s
  | .lkeDatapathError e => Sys2Proof.Machine.execLkeDatapathError e s
  | .lkeForceFail e => Sys2Proof.Machine.execLkeForceFail e s
  | .tblCommitSwitch => Sys2Proof.Machine.execTblCommitSwitch s
  | .poolFormatDone region => Sys2Proof.Machine.execPoolFormatDone region s
  | .queueDescWriteback qid => Sys2Proof.Machine.execQueueDescWriteback qid s
  | .orphanSweep => Sys2Proof.Machine.execOrphanSweep s
  | .orphanSweepDone => Sys2Proof.Machine.execOrphanSweepDone s
  | .foldTimer lsa => Sys2Proof.Machine.execFoldTimer lsa s
  | .cntFoldAll => Sys2Proof.Machine.execCntFoldAll s
  | .foldSwitch lsa => Sys2Proof.Machine.execFoldSwitch lsa s
  | .cntClearSector m => Sys2Proof.Machine.execCntClearSector m s
  | .forcedRekeyStart => Sys2Proof.Machine.execForcedRekeyStart s
  | .rekeyWalkGroup unit outs => Sys2Proof.Machine.execRekeyWalkGroup unit outs s
  | .mirPcsLock n => Sys2Proof.Machine.execMirPcsLock n s
  | .mirLinkDown n => Sys2Proof.Machine.execMirLinkDown n s
  | .hello n f => Sys2Proof.Machine.execHello n f s
  | .data n seq ackSeq records => Sys2Proof.Machine.execData n seq ackSeq records s
  | .ack n ackSeq refused => Sys2Proof.Machine.execAck n ackSeq refused s
  | .nak n ackSeq => Sys2Proof.Machine.execNak n ackSeq s
  | .repairReq n pas => Sys2Proof.Machine.execRepairReq n pas s
  | .seedReq n regions => Sys2Proof.Machine.execSeedReq n regions s
  | .regionState n body => Sys2Proof.Machine.execRegionState n body s
  | .helloTimer n => Sys2Proof.Machine.execHelloTimer n s
  | .sessionLossTimeout n => Sys2Proof.Machine.execSessionLossTimeout n s
  | .regionStateTimer n => Sys2Proof.Machine.execRegionStateTimer n s
  | .intentBitmapProgramDone => Sys2Proof.Machine.execIntentBitmapProgramDone s
  | .intentBitClear region extent => Sys2Proof.Machine.execIntentBitClear region extent s
  | .catchupSector n out => Sys2Proof.Machine.execCatchupSector n out s
  | .seedSectorSend n out => Sys2Proof.Machine.execSeedSectorSend n out s
  | .devInfo m req irq => Sys2Proof.Machine.execDevInfo m req irq s
  | .devEcho m req irq => Sys2Proof.Machine.execDevEcho m req irq s
  | .regionGet m req irq => Sys2Proof.Machine.execRegionGet m req irq s
  | .regionSet m req irq => Sys2Proof.Machine.execRegionSet m req irq s
  | .regionRecreate m req irq => Sys2Proof.Machine.execRegionRecreate m req irq s
  | .forceFail m req irq => Sys2Proof.Machine.execForceFail m req irq s
  | .tblCreate m req irq => Sys2Proof.Machine.execTblCreate m req irq s
  | .tblDelete m req irq => Sys2Proof.Machine.execTblDelete m req irq s
  | .tblUpdate m req irq => Sys2Proof.Machine.execTblUpdate m req irq s
  | .tblCommit m req irq => Sys2Proof.Machine.execTblCommit m req irq s
  | .tblAbort m req irq => Sys2Proof.Machine.execTblAbort m req irq s
  | .tblQuery m req irq => Sys2Proof.Machine.execTblQuery m req irq s
  | .tblInfo m req irq => Sys2Proof.Machine.execTblInfo m req irq s
  | .profileSet m req irq => Sys2Proof.Machine.execProfileSet m req irq s
  | .profileGet m req irq => Sys2Proof.Machine.execProfileGet m req irq s
  | .poolSet m req irq => Sys2Proof.Machine.execPoolSet m req irq s
  | .poolInfo m req irq => Sys2Proof.Machine.execPoolInfo m req irq s
  | .queueSet m req irq => Sys2Proof.Machine.execQueueSet m req irq s
  | .queueGet m req irq => Sys2Proof.Machine.execQueueGet m req irq s
  | .cntClear m req irq => Sys2Proof.Machine.execCntClear m req irq s
  | .cntInfo m req irq => Sys2Proof.Machine.execCntInfo m req irq s
  | .devkeyInstall m req irq => Sys2Proof.Machine.execDevkeyInstall m req irq s
  | .devkeyZeroise m req irq => Sys2Proof.Machine.execDevkeyZeroise m req irq s
  | .keyLoad m req irq => Sys2Proof.Machine.execKeyLoad m req irq s
  | .keyBind m req irq => Sys2Proof.Machine.execKeyBind m req irq s
  | .keyChange m req irq => Sys2Proof.Machine.execKeyChange m req irq s
  | .keyUnbind m req irq => Sys2Proof.Machine.execKeyUnbind m req irq s
  | .keyRetire m req irq => Sys2Proof.Machine.execKeyRetire m req irq s
  | .keyInfo m req irq => Sys2Proof.Machine.execKeyInfo m req irq s
  | .pstInfo m req irq => Sys2Proof.Machine.execPstInfo m req irq s
  | .pstRead m req irq => Sys2Proof.Machine.execPstRead m req irq s
  | .pstWrite m req irq => Sys2Proof.Machine.execPstWrite m req irq s
  | .pstPassword m req irq => Sys2Proof.Machine.execPstPassword m req irq s
  | .pstCtrRead m req irq => Sys2Proof.Machine.execPstCtrRead m req irq s
  | .pstCtrInc m req irq => Sys2Proof.Machine.execPstCtrInc m req irq s
  | .pstTieRewrite area slot => Sys2Proof.Machine.execPstTieRewrite area slot s
  | .pstProfileWe key on => Sys2Proof.Machine.execPstProfileWe key on s
  | .evtFreeze m req irq => Sys2Proof.Machine.execEvtFreeze m req irq s
  | .evtThaw m req irq => Sys2Proof.Machine.execEvtThaw m req irq s
  | .evtRead m req irq => Sys2Proof.Machine.execEvtRead m req irq s
  | .evtClear m req irq => Sys2Proof.Machine.execEvtClear m req irq s
  | .evtLimitSet m req irq => Sys2Proof.Machine.execEvtLimitSet m req irq s
  | .evtLimitGet m req irq => Sys2Proof.Machine.execEvtLimitGet m req irq s
  | .eventFrontWriteback => Sys2Proof.Machine.execEventFrontWriteback s
  | .rateLimitSweep => Sys2Proof.Machine.execRateLimitSweep s
  | .evrAutoThaw => Sys2Proof.Machine.execEvrAutoThaw s
  | .dumpInfo m req irq => Sys2Proof.Machine.execDumpInfo m req irq s
  | .dumpRead m req irq => Sys2Proof.Machine.execDumpRead m req irq s
  | .dumpRelease m req irq => Sys2Proof.Machine.execDumpRelease m req irq s
  | .mirPair m req irq => Sys2Proof.Machine.execMirPair m req irq s
  | .mirUnpair m req irq => Sys2Proof.Machine.execMirUnpair m req irq s
  | .mirPromote m req irq => Sys2Proof.Machine.execMirPromote m req irq s
  | .mirSak m req irq => Sys2Proof.Machine.execMirSak m req irq s
  | .mirSakClear m req irq => Sys2Proof.Machine.execMirSakClear m req irq s
  | .mirInfo m req irq => Sys2Proof.Machine.execMirInfo m req irq s
  | .mirReseed m req irq => Sys2Proof.Machine.execMirReseed m req irq s
  | .fwInfo m req irq => Sys2Proof.Machine.execFwInfo m req irq s
  | .fwWrite m req irq => Sys2Proof.Machine.execFwWrite m req irq s
  | .fwActivate m req irq => Sys2Proof.Machine.execFwActivate m req irq s
  | .fwConfirm m req irq => Sys2Proof.Machine.execFwConfirm m req irq s
  | .fwRollback m req irq => Sys2Proof.Machine.execFwRollback m req irq s
  | .fwToSpi m req irq flashOk => Sys2Proof.Machine.execFwToSpi m req irq flashOk s
  | .fwResetNowTimer => Sys2Proof.Machine.execFwResetNowTimer s
  | .calGet m req irq => Sys2Proof.Machine.execCalGet m req irq s
  | .calSet m req irq => Sys2Proof.Machine.execCalSet m req irq s
  | .pwrInfo m req irq => Sys2Proof.Machine.execPwrInfo m req irq s
  | .pwrLtrSet m req irq => Sys2Proof.Machine.execPwrLtrSet m req irq s
  | .thmSet m req irq => Sys2Proof.Machine.execThmSet m req irq s
  | .hsOppSet m req irq => Sys2Proof.Machine.execHsOppSet m req irq s
  | .mbxBadOpcode m opcode req irq => Sys2Proof.Machine.execMbxBadOpcode m opcode req irq s
  | .mbxAbort m => Sys2Proof.Machine.execMbxAbort m s
  | .mbxRelease m => Sys2Proof.Machine.execMbxRelease m s
  | .pmcEnable u en freeze all => Sys2Proof.Machine.execPmcEnable u en freeze all s
  | .pmcClear u => Sys2Proof.Machine.execPmcClear u s
  | .pmcCounterWrap u k => Sys2Proof.Machine.execPmcCounterWrap u k s
  | .vaonPowerLoss progress => Sys2Proof.Machine.execVaonPowerLoss progress s
  | .aliasGuardBegin ch => Sys2Proof.Machine.execAliasGuardBegin ch s
  | .fwAssert => Sys2Proof.Machine.execFwAssert s
  | .pcieLinkUp busMaster => Sys2Proof.Machine.execPcieLinkUp busMaster s
  | .rxDiscard n cause => Sys2Proof.Machine.execRxDiscard n cause s

end Sys2Proof.Machine
end

