-- ==== Sys2Proof/Machine/Tick.lean ====
section
/-! DEFINITION. What one 1-ns tick of the time base does (log entry 3): GLB_TIME and the Tailstock's time count on, and with them every
counter of time. -/

namespace Sys2Proof.Machine

/-- An entry of the calendar that a port sends is 0 (HPn_XOFF_NS). -/
def sendsZero (s : State) (p : HPort) : Bool := sendsCalendar s p && (List.range (calEntries s.ports[p])).any (calZero s p)

/-- An entry of the host's calendar is 0 (HPn_HOST_XOFF_NS). -/
def hearsZero (s : State) (p : HPort) : Bool :=
  (s.ports[p]).linkUp && (List.range (calEntries s.ports[p])).any fun e => bitOf (s.ports[p]).hostXoff e

/-- CADD commands that wait for a way of the fold cache (R274). -/
def wayWaiters (s : State) : Nat := (s.cmds.filter fun x => decide (x.stage = .way)).length

/-- A record waits for room in the window (R318). -/
def windowFull (s : State) (n : MPort) : Bool :=
  let x := s.mir.ports[n]
  x.session && !x.overflow && x.out.any fun t => t.seq.isNone

/-- Instances of a level event at which its condition holds (R397, R398); `none` stands for an event without instances. -/
def levelSites (s : State) (sel : Nat) : List (Option Nat) :=
  let ports (f : HPort → Bool) : List (Option Nat) := ((List.finRange 4).filter f).map fun p => some p.val
  let chans (f : Nat → Bool) : List (Option Nat) := ((List.range 64).filter f).map some
  let one (b : Bool) : List (Option Nat) := if b then [none] else []
  match sel with
  | 0x102 => ports (sendsZero s)
  | 0x105 => ports fun p => decide (0 < heldStreams s p)
  | 0x204 => one (!s.krf.waiters.isEmpty)
  | 0x205 => one (chargeHigh s)
  | 0x412 => chans fun k => decide (2 ≤ rank0Reads s k)
  | 0x413 => one (decide (s.med.level = .soft))
  | 0x414 => one (decide (s.med.level = .hard))
  | 0x703 => one (decide (0 < wayWaiters s))
  | 0x903 => chans fun k => (reqsOf s k).any fun q => decide (q.state = .running)
  | 0xA02 => ((List.finRange 2).filter (windowFull s)).map fun n => some n.val
  | 0xB00 => one (decide (s.thm.writePct < 100))
  | 0xB01 => one (decide (s.pwr.cur = 0) && decide (s.thm.slowest.toNat < 2400))
  | _ => []

/-- The performance counters at a tick: TB counts in every unit that runs, and so does each counter of a level event that holds (R397,
R398). -/
def pmcTick (s : State) : State :=
  let s := { s with pmc := s.pmc.map fun p => if p.en then { p with tb := p.tb + 1 } else p }
  pmcAll s fun u k =>
    let c := (s.pmc[u]).cfg[k]
    if (levelSites s (bitsOf c 0 12)).any (pmcHears c true (bitsOf c 0 12)) then 1 else 0

/-- Counters of time among the registers. -/
def timeTick (s : State) : State :=
  let s := (List.finRange 4).foldl (fun s p =>
    let s := if sendsZero s p then hwAdd s (Reg.HP_XOFF_NS p.val) 1 else s
    if hearsZero s p then hwAdd s (Reg.HP_HOST_XOFF_NS p.val) 1 else s) s
  let s := hwAdd s Reg.KRF_ADMIT_WAIT_NS s.krf.waiters.length
  let s := hwAdd s Reg.CNT_WAIT_NS (wayWaiters s)
  match s.med.level with
  | .none => s
  | .soft => hwAdd s Reg.ARB_REST_SOFT_NS 1
  | .hard => hwAdd s Reg.ARB_REST_HARD_NS 1

/-- HPn_ERR_INJECT.ONE_SHOT: the next codeword of a transmitter that runs has carried the symbol errors, and hardware clears SYMBOLS
(R103). -/
def injectTick (s : State) (p : HPort) : State :=
  let o := Reg.HP_ERR_INJECT p.val
  if portRuns s p ∧ cfgBit s o 5 then setCfg s o (putBits (cfg s o) 0 5 0) else s

/-- Codewords that end in the 1 ns before a time: one every 6.4 ns (R79, R80). -/
def codewordsAt (t : Nat) : Nat := 5 * t / 32 - 5 * (t - 1) / 32

/-- HPn_FEC_CW: codewords are received while CW_LOCK is 1 (R103). -/
def codewordTick (s : State) (p : HPort) : State :=
  if (s.ports[p]).cwLock then hwAdd s (Reg.HP_FEC_CW p.val) (codewordsAt s.time.toNat) else s

/-- The host ports at a tick. -/
def portTick (s : State) (p : HPort) : State := injectTick (codewordTick s p) p

/-- The core at a tick; the commands that a copy to the flash held are let go when it ends. -/
def coreTick (s : State) : State :=
  let s := lagRule ((List.finRange 4).foldl portTick (pmcTick (timeTick s)))
  if s.fw.copying.isSome then settle (spiTick s) else s

/-- GLB_TIME runs: the core has its supplies and no power-on reset is held (R12, GLB_TIME). -/
def timeRuns (s : State) : Bool := decide (s.seq.phase = .on) && !(s.glb.inReset && decide (s.glb.held.kind = .powerOn))

/-- One 1-ns tick. -/
def tick (s : State) : State :=
  let s := if s.seq.vaon then { s with seq := { s.seq with tsNs := s.seq.tsNs + 1 } } else s
  let s := if timeRuns s then { s with time := s.time + 1 } else s
  if coreUp s then coreTick s else s

end Sys2Proof.Machine
end

