-- ==== Sys2Proof/Safety.lean ====
section
/-! DEFINITION. What the claims about the machine speak of: the canonical form of its memories, what one step keeps, and when nothing
waits to go on. -/

namespace Sys2Proof.Machine

/-! ### Canonical memories -/

/-- A mailbox buffer in canonical form: offsets strictly rise, and no byte listed is zero. -/
def bufWf (m : List Host.Cell) : Bool := fwf m && m.all fun e => e.2 != 0

/-- Every memory of the device in canonical form: the registers, the medium, the kerf buffer and the mailbox buffers. -/
def canonical (s : State) : Bool :=
  fwf s.regs && fwf s.hw && fwf s.med.cells && fwf s.krf.slots && s.mbx.all fun x => bufWf x.req && bufWf x.rsp

/-! ### What one step keeps -/

/-- The order in which STATE moves (R34). -/
def DevState.rank : DevState → Nat
  | .boot => 0
  | .restore => 1
  | .fwdReady => 2
  | .operational => 3
  | .commit => 4
  | .dump => 5
  | .stopped => 6

/-- What GLB_STATE and GLB_READY keep while no reset is taken (R34): STATE moves only forward, FWD and BOUNDS stay set, and nothing moves
while a reset is held. -/
structure GlbStays (g h : Glb) : Prop where
  reset  : h.inReset = g.inReset
  order  : g.state.rank ≤ h.state.rank
  fwd    : g.fwd = true → h.fwd = true
  bounds : g.bounds = true → h.bounds = true
  held   : g.inReset = true → h.state = g.state ∧ h.fwd = g.fwd ∧ h.bounds = g.bounds

/-- A reset is held: STATE is BOOT, and FWD and BOUNDS are 0 (R34, R445). -/
def GlbReset (h : Glb) : Prop := h.inReset = true ∧ h.state = .boot ∧ h.fwd = false ∧ h.bounds = false

/-- What every command keeps, whatever it does: the queue; the factory area, which Ulward alone writes (R364); the firmware floor,
which never falls (R354); and the canonical form of every memory. -/
structure Base (a b : State) : Prop where
  pending : b.pending = a.pending
  factory : b.pst.factory = a.pst.factory
  floor   : a.fw.floor.toNat ≤ b.fw.floor.toNat
  canon   : canonical a = true → canonical b = true

/-- What every command but a reset release keeps besides: STATE moves only forward, unless a reset is taken (R34). -/
structure Keeps (a b : State) : Prop extends Base a b where
  glb : GlbStays a.glb b.glb ∨ GlbReset b.glb

/-- What every command keeps that neither takes a reset nor belongs to the Tailstock or to time: the Tailstock itself. -/
structure Stays (a b : State) : Prop extends Base a b where
  glb : GlbStays a.glb b.glb
  seq : b.seq = a.seq

/-- The commands that can take a reset or move the Tailstock: its own pins, timers and registers, the loss of its clocks or of power, and
what asks for a reset (R36, R437 to R448). A register write is one, as it can write SEQ_CTRL and GLB_SOFT_RESET. -/
def powerCommand : Instr → Bool
  | .resetRelease _ => true
  | .vaonPowerOn | .seqRailDelayExpiry _ | .seqPgRise _ _ | .seqPgFall _ | .pgDeglitchedGood _ | .pgLost _ | .pgUnstable _
  | .pgTimeout _ | .settleWindowEnd _ | .dischargeDone _ | .dischargeTimeout _ | .pwrFailNFall | .pwrFailNRise
  | .pwrFailRecognised | .powerUpRestartTimer | .commitDone _ | .commitToExpiry | .resetNFall | .resetNRecognised | .resetNRise
  | .seqCtrlRestart _ | .seqCtrlDown _ _ | .glbSoftResetFull _ | .glbSoftResetWarm _ | .watchdogResetTimeout | .dumpComplete _
  | .registerWrite _ _ _ | .crossCountWindowEnd _ _ _ _ | .fwResetNowTimer | .vaonPowerLoss _ => true
  | _ => false

/-- The outcome is a next state that keeps this of a state. -/
def BaseOut (a : State) : Host.Outcome State Fault Refusal → Prop
  | .next b => Base a b
  | _ => False

/-- The outcome is a next state that keeps this of a state. -/
def KeepsOut (a : State) : Host.Outcome State Fault Refusal → Prop
  | .next b => Keeps a b
  | _ => False

/-- The outcome is a next state that keeps this, and the Tailstock. -/
def StaysOut (a : State) : Host.Outcome State Fault Refusal → Prop
  | .next b => Stays a b
  | _ => False

/-! ### Commands of the host ports -/

/-- A command of a host port as bytes on the link (R104): a 16-B slot, and DU × 64 bytes of data. -/
structure WireCmd where
  code    : BitVec 8
  du      : BitVec 3
  tag     : BitVec 12
  addr    : PA
  operand : Word64
  data    : List Byte
  deriving DecidableEq, Repr

/-- The data has the length that DU gives. -/
def WireCmd.fits (x : WireCmd) : Bool := decide (x.data.length = 64 * x.du.toNat)

/-- The bytes of a command, its slot laid out as R104 says. -/
def WireCmd.bytes (x : WireCmd) : List Byte :=
  leBytes 3 (x.code.toNat + x.du.toNat * 256 + x.tag.toNat * 4096) ++ leBytes 5 x.addr.toNat ++ leBytes 8 x.operand.toNat ++ x.data

/-- The command that the device takes from those bytes; it looks at no more than 256 B of data. -/
def WireCmd.slot (p : HPort) (c : HChan) (x : WireCmd) : Slotted where
  port := p
  chan := c
  code := x.code
  du := x.du.toNat
  tag := x.tag
  addr := x.addr
  operand := x.operand
  data := BitVec.ofNat 2048 (leAt x.data 0 256)

/-- The command that a row of the port's opcodes sends (R114). -/
def hostRow : Instr → Option Slotted
  | .nop p c tag du => some (slotted .nop p c tag du 0 0 0)
  | .echo p c tag du operand data => some (slotted .echo p c tag du 0 operand data)
  | .unknownOpcode p c tag opcode du => some { slotted .unknown p c tag du 0 0 0 with code := opcode }
  | .rd64 p c tag du pa => some (slotted .rd64 p c tag du pa 0 0)
  | .rd256 p c tag du pa => some (slotted .rd256 p c tag du pa 0 0)
  | .wr64 p c tag du pa data => some (slotted .wr64 p c tag du pa 0 (data.setWidth 2048))
  | .wr256 p c tag du pa data => some (slotted .wr256 p c tag du pa 0 data)
  | .wrm64 p c tag du pa mask data => some (slotted .wrm64 p c tag du pa mask (data.setWidth 2048))
  | .fadd64 p c tag du pa addend => some (slotted .fadd64 p c tag du pa addend 0)
  | .cswap64 p c tag du pa compare data => some (slotted .cswap64 p c tag du pa compare (data.setWidth 2048))
  | .cadd p c tag du pa deltas => some (slotted .cadd p c tag du pa deltas 0)
  | .crd p c tag du pa => some (slotted .crd p c tag du pa 0 0)
  | .lkup p c tag du addr operand data => some (slotted .lkup p c tag du addr operand data)
  | .enq p c tag du addr operand data => some (slotted .enq p c tag du addr operand data)
  | .deq p c tag du addr => some (slotted .deq p c tag du addr 0 0)
  | .qflush p c tag du addr => some (slotted .qflush p c tag du addr 0 0)
  | .qstat p c tag du addr => some (slotted .qstat p c tag du addr 0 0)
  | .fence p c tag du => some (slotted .fence p c tag du 0 0 0)
  | .persist p c tag du => some (slotted .persist p c tag du 0 0 0)
  | _ => none

/-- A command has been accepted: its payload and the command are counted, and it is last in order of acceptance (R88, R103). -/
def takenCmd (s : State) (x : Slotted) : State :=
  let s := hwAdd s (Reg.HP_RX_BYTES x.port.val) (16 + 64 * x.du)
  pmcCount (hwAdd { s with cmds := s.cmds ++ [acceptedCmd s x], nextCmd := s.nextCmd + 1 } (Reg.HP_RX_CMDS x.port.val) 1) 0x100
    (some x.port.val) 1

/-! ### When nothing waits -/

/-- A command of this stage goes on only by an event of its own: nothing that another command does lets it go on. -/
def stageRests : Stage → Bool
  | .buffered | .ordered | .bitmap | .way | .charge | .mateAck => false
  | _ => true

/-- The dirty bit that stands for queue state is that of the lowest-numbered BUFFER region (R271). -/
def queueBitRests (s : State) : Bool :=
  match firstBuffer s with
  | none => s.dbq.bitRegion.isNone
  | some r => decide (s.dbq.bitRegion = some r)

/-- Nothing waits for the effect of a command to go on: no command, no reservation, no write of firmware's, no fold, flush, erase, mailbox
or record of the mate, no queue bit, pool threshold or sweep, no retirement of a block, no re-creation, no program held for the cold, and the
device is not paired. -/
def calm (s : State) : Bool :=
  coreUp s && s.mir.pairId.isNone && !s.mir.lost && !anySession s &&
    s.cmds.all (fun x => stageRests x.stage && !persistWaits x && !lkupWaits x) && s.lke.writes.isEmpty && !cfgBit s Reg.CNT_CTRL 0 &&
    (s.cnt.lagging == decide (cfgFld s Reg.CNT_CFG 16 14 ≤ oldestMs s)) && !cfgBit s Reg.KRF_CTRL 0 && s.sealing.erasing.isEmpty &&
    s.mir.ports.all (fun x => x.inbox.isEmpty) && s.mbx.all (fun x => !(decide (x.state = .busy) && x.waits) && !(mbxBusy x && decide (x.opcode.toNat = 0x0012))) &&
    s.dumps.trigger.isNone && s.krf.waiters.isEmpty && s.krf.granted.isEmpty && queueBitRests s &&
    (s.dbq.low == decide (poolFree s < cfgFld s Reg.DBQ_POOL_LOW 0 27)) && !s.dbq.sweeping &&
    s.med.moves.isEmpty && s.sealing.toSave.isEmpty

/-- A port takes a command and performs it at once: nothing waits, no command is outstanding or half received, the link is up outside
FAR_LOOP, forwarding has begun, no commit runs, the staging SRAM is powered, and neither throttling nor the steady rest holds anything. -/
def portOpen (s : State) (p : HPort) : Bool :=
  calm s && s.cmds.isEmpty && (s.ports[p]).packets.isEmpty && (s.ports[p]).linkUp && !loopedBack s p && s.glb.state.serves && s.glb.fwd &&
    s.krf.running.isNone && staged s && s.thm.writePct == 100 && s.thm.readPct == 100 && decide (s.med.level = .none)

/-- The one command outstanding after a command was taken in a state without any: it is answered so. -/
def answeredBy (s : State) (x : Slotted) (performed : Bool) (r : Resp) : List HostCmd :=
  [{ acceptedCmd s x with stage := .answered, performed := performed, resp := some r }]

/-- The medium keeps what is the user's while sectors of the reserved area are programmed: every place that no sector of that area has, every
mark of a user sector, and where every sector lies. -/
def UserKept (a b : State) : Prop :=
  b.med = { a.med with cells := b.med.cells, marks := b.med.marks, domains := b.med.domains } ∧
  (fwf a.med.domains = true → fwf a.med.marks = true →
    fwf b.med.domains = true ∧ fwf b.med.marks = true ∧ (∀ lsa, placeOf b lsa = placeOf a lsa) ∧
    (∀ k, (∀ lsa, isInner lsa = true → placeOf a lsa ≠ k) → fget b.med.cells k = fget a.med.cells k) ∧
    ∀ lsa, isInner lsa = false → fget b.med.marks lsa = fget a.med.marks lsa)

/-- Nothing differs but what the acceptance and the answer of a command touch: its record, the counters and status of the ports,
interrupts, and events; full fronts are sealed into the event ring, whose sectors of the reserved area, and the count of programs under the
internal key, change (R285). -/
def OnlyAnswers (a b : State) : Prop :=
  b = { a with
    cmds := b.cmds, nextCmd := b.nextCmd, hw := b.hw, evr := b.evr, pmc := b.pmc, ports := b.ports, pcie := b.pcie, out := b.out
    med := b.med
    sealing := { a.sealing with internal := b.sealing.internal, reserved := b.sealing.reserved } } ∧
  UserKept a b

/-- A port may perform a PA-addressed command that needs a right (RD 0, WR 1, AT 2) in a region of a USE: no check of R54 fails. -/
def permits (s : State) (p : HPort) (pa : PA) (u : Use) (right : Nat) : Bool :=
  inUser pa && decide ((regionAt s (regionOf pa)).use = u) && holdsRight s p (regionAt s (regionOf pa)) right &&
    !(regionAt s (regionOf pa)).lost

/-- A slot holds its sector's bytes with charge, and its words read without error. -/
def Slot.holds (y : Slot) : Bool := decide (y.ecc = .good) && (decide (y.state = .dirty) || decide (y.state = .draining))

/-- A command answers at once with r, and does nothing else. -/
def AnswersOnly (i : Instr) (x : Slotted) (s : State) (performed : Bool) (r : Resp) : Prop :=
  ∃ t, exec i s = .next t ∧ t.cmds = answeredBy s x performed r ∧ OnlyAnswers s t

/-- A command answers at once with r and leaves the bytes d in the kerf slot `y` of a sector, which keeps its charge; every other slot
is as before, and nothing else differs but stamps of use, the bytes of the sector in the line caches, and what an answer touches. -/
def Stores (i : Instr) (x : Slotted) (s : State) (lsa : Nat) (y : Slot) (d : Sector) (r : Resp) : Prop :=
  ∃ t, exec i s = .next t ∧ t.cmds = answeredBy s x true r ∧
    (∃ z, slotAt t lsa = some z ∧ z.data = d ∧ z.state = y.state ∧ z.ecc = .good ∧
      z.rewritten = (y.rewritten || decide (y.state = .draining)) ∧ z.snapshot = y.snapshot) ∧
    (∀ k, k ≠ lsa → slotAt t k = slotAt s k) ∧
    OnlyAnswers { s with krf := t.krf, rdp := t.rdp } t ∧
    t.krf = { s.krf with slots := t.krf.slots, stamp := t.krf.stamp }

/-- A state with what a read that asks the medium changes of another one: its requests, and the notes of misses. -/
def withAsked (s t : State) : State :=
  { s with rdp := t.rdp, med := { s.med with reqs := t.med.reqs, nextReq := t.med.nextReq } }

/-- A read of a class has been raised at the arbiter of its sector's channel, for a purpose, and every earlier request stands. -/
def Asks (s t : State) (c : Class) (lsa : Nat) (purpose : Purpose) : Prop :=
  (∀ q ∈ s.med.reqs, q ∈ t.med.reqs) ∧
  ∃ q ∈ t.med.reqs, q.id = s.med.nextReq ∧ q.ch = chanOf (lsaChannel lsa) ∧ q.cls = c ∧ q.program = false ∧
    q.lsa = BitVec.ofNat 32 lsa ∧ q.purpose = purpose ∧ q.state = .raised

/-- Neither the line cache nor the side buffer of its channel holds a sector, and no prefetch of it is asked for or runs. -/
def uncached (s : State) (lsa : Nat) : Bool := (cacheFind s lsa).isNone && (sideFind s lsa).isNone && (prefetchOf s lsa).isNone

/-- A command of a stream misses: it waits for the medium, of which a read of its class is asked, and nothing else differs. -/
def Misses (i : Instr) (x : Slotted) (s : State) (c : Class) (lsa : Nat) : Prop :=
  ∃ t, exec i s = .next t ∧ t.cmds = [{ acceptedCmd s x with stage := .medium, reads := [lsa] }] ∧
    Asks s t c lsa (.cmd s.nextCmd) ∧ OnlyAnswers (withAsked s t) t

/-- A partial write misses: a FETCHING slot takes it into its queue, a read of class KFETCH is asked of the medium, and every other slot is
as before but for a CLEAN one whose place is taken where none is FREE. -/
def Fetches (i : Instr) (x : Slotted) (s : State) (lsa : Nat) : Prop :=
  ∃ t, exec i s = .next t ∧ (∃ y, t.cmds = [{ acceptedCmd s x with stage := .slotQueue, sync := y }]) ∧
    (∃ z, slotAt t lsa = some z ∧ z.state = .fetching ∧ z.queue = [s.nextCmd]) ∧
    (fwf s.krf.slots = true → ∀ k z, k ≠ lsa → slotAt s k = some z → z.state ≠ .clean → slotAt t k = some z) ∧
    Asks s t .kfetch lsa .fetch ∧ OnlyAnswers { withAsked s t with krf := t.krf } t

/-! ### Commands of the mailboxes -/

/-- The command that a row of the mailboxes sends: its mailbox, opcode, request and IRQ, and what the flash of FW_TO_SPI does (R341,
R350). -/
def mbxRow : Instr → Option (Mbx × Nat × List Byte × Bool × Bool)
  | .mbxBadOpcode m op req irq => some (m, op.toNat, req, irq, false)
  | .fwToSpi m req irq ok => some (m, 0x0805, req, irq, ok)
  | .devInfo m req irq => some (m, 0x0000, req, irq, false)
  | .devEcho m req irq => some (m, 0x0001, req, irq, false)
  | .regionGet m req irq => some (m, 0x0010, req, irq, false)
  | .regionSet m req irq => some (m, 0x0011, req, irq, false)
  | .regionRecreate m req irq => some (m, 0x0012, req, irq, false)
  | .forceFail m req irq => some (m, 0x0020, req, irq, false)
  | .tblCreate m req irq => some (m, 0x0100, req, irq, false)
  | .tblDelete m req irq => some (m, 0x0101, req, irq, false)
  | .tblUpdate m req irq => some (m, 0x0102, req, irq, false)
  | .tblCommit m req irq => some (m, 0x0103, req, irq, false)
  | .tblAbort m req irq => some (m, 0x0104, req, irq, false)
  | .tblQuery m req irq => some (m, 0x0105, req, irq, false)
  | .tblInfo m req irq => some (m, 0x0106, req, irq, false)
  | .profileSet m req irq => some (m, 0x0107, req, irq, false)
  | .profileGet m req irq => some (m, 0x0108, req, irq, false)
  | .poolSet m req irq => some (m, 0x0200, req, irq, false)
  | .poolInfo m req irq => some (m, 0x0201, req, irq, false)
  | .queueSet m req irq => some (m, 0x0202, req, irq, false)
  | .queueGet m req irq => some (m, 0x0203, req, irq, false)
  | .cntClear m req irq => some (m, 0x0208, req, irq, false)
  | .cntInfo m req irq => some (m, 0x0209, req, irq, false)
  | .devkeyInstall m req irq => some (m, 0x0300, req, irq, false)
  | .devkeyZeroise m req irq => some (m, 0x0301, req, irq, false)
  | .keyLoad m req irq => some (m, 0x0302, req, irq, false)
  | .keyBind m req irq => some (m, 0x0303, req, irq, false)
  | .keyChange m req irq => some (m, 0x0304, req, irq, false)
  | .keyUnbind m req irq => some (m, 0x0305, req, irq, false)
  | .keyRetire m req irq => some (m, 0x0306, req, irq, false)
  | .keyInfo m req irq => some (m, 0x0307, req, irq, false)
  | .pstInfo m req irq => some (m, 0x0400, req, irq, false)
  | .pstRead m req irq => some (m, 0x0401, req, irq, false)
  | .pstWrite m req irq => some (m, 0x0402, req, irq, false)
  | .pstPassword m req irq => some (m, 0x0403, req, irq, false)
  | .pstCtrRead m req irq => some (m, 0x0404, req, irq, false)
  | .pstCtrInc m req irq => some (m, 0x0405, req, irq, false)
  | .evtFreeze m req irq => some (m, 0x0500, req, irq, false)
  | .evtThaw m req irq => some (m, 0x0501, req, irq, false)
  | .evtRead m req irq => some (m, 0x0502, req, irq, false)
  | .evtClear m req irq => some (m, 0x0503, req, irq, false)
  | .evtLimitSet m req irq => some (m, 0x0504, req, irq, false)
  | .evtLimitGet m req irq => some (m, 0x0505, req, irq, false)
  | .mirPair m req irq => some (m, 0x0600, req, irq, false)
  | .mirUnpair m req irq => some (m, 0x0601, req, irq, false)
  | .mirPromote m req irq => some (m, 0x0602, req, irq, false)
  | .mirSak m req irq => some (m, 0x0603, req, irq, false)
  | .mirSakClear m req irq => some (m, 0x0604, req, irq, false)
  | .mirInfo m req irq => some (m, 0x0605, req, irq, false)
  | .mirReseed m req irq => some (m, 0x0606, req, irq, false)
  | .dumpInfo m req irq => some (m, 0x0700, req, irq, false)
  | .dumpRead m req irq => some (m, 0x0701, req, irq, false)
  | .dumpRelease m req irq => some (m, 0x0702, req, irq, false)
  | .fwInfo m req irq => some (m, 0x0800, req, irq, false)
  | .fwWrite m req irq => some (m, 0x0801, req, irq, false)
  | .fwActivate m req irq => some (m, 0x0802, req, irq, false)
  | .fwConfirm m req irq => some (m, 0x0803, req, irq, false)
  | .fwRollback m req irq => some (m, 0x0804, req, irq, false)
  | .calGet m req irq => some (m, 0x0900, req, irq, false)
  | .calSet m req irq => some (m, 0x0901, req, irq, false)
  | .pwrInfo m req irq => some (m, 0x0A00, req, irq, false)
  | .pwrLtrSet m req irq => some (m, 0x0A01, req, irq, false)
  | .thmSet m req irq => some (m, 0x0A02, req, irq, false)
  | .hsOppSet m req irq => some (m, 0x0A03, req, irq, false)
  | _ => none

/-- A mailbox whose request has been placed and whose GO has been written: it has captured the command (steps 1 and 2 of R342). -/
def captured (s : State) (m : Mbx) (op : Nat) (req : List Byte) (irq : Bool) : State :=
  mbxCapture (mbxPlace s m op req irq) m op req.length irq

/-- The state in which a row's command is performed, if it is performed at once: the core is up and the mailbox IDLE, the request fits
the buffer, no check of readiness, state or opcode fails and nothing bars it, no earlier command names the same object and no operating
point moves. -/
def mbxStart (i : Instr) (s : State) : Option State :=
  match mbxRow i with
  | none => none
  | some (m, op, req, irq, _) =>
    let c := captured s m op req irq
    if coreUp s && decide (s.mbx[m].state = .idle) && decide (req.length ≤ 4096) && (mbxGate c op).isNone && (mbxBar c m).isNone && !mbxBlocked c m &&
        (s.clk.move.isNone || op == 0x0A03) then some c else none

/-- A row's command ends at once in state t with CODE, REASON and a response. -/
def MbxEnds (i : Instr) (s t : State) (code reason : Nat) (resp : List Byte) : Prop :=
  match mbxRow i with
  | none => False
  | some (m, _, _, _, _) => exec i s = .next (fin (settle (mbxFinish t m code reason resp)))

/-- A row's command is DONE in state t, with a response. -/
def MbxDone (i : Instr) (s t : State) (resp : List Byte) : Prop := MbxEnds i s t 0 0 resp

/-- A row's command is REFUSED for a REASON, and changes nothing. -/
def MbxRefused (i : Instr) (s c : State) (reason : Nat) : Prop := MbxEnds i s c 1 reason []

/-- A row's command has begun and runs on in state t. -/
def MbxRuns (i : Instr) (s t : State) : Prop :=
  match mbxRow i with
  | none => False
  | some (m, _, _, _, _) => exec i s = .next (fin (settle (modMbx t m fun x => { x with waits := false })))

/-- The length of a command's request, where it has one length (R350). -/
def requestLength : Nat → Option Nat
  | 0x0000 => some 0 | 0x0010 => some 2 | 0x0011 => some 40 | 0x0012 => some 2 | 0x0020 => some 2
  | 0x0100 => some 40 | 0x0101 => some 4 | 0x0103 => some 0 | 0x0104 => some 0 | 0x0105 => some 48 | 0x0106 => some 4
  | 0x0107 => some 64 | 0x0108 => some 4
  | 0x0200 => some 4 | 0x0201 => some 0 | 0x0202 => some 16 | 0x0203 => some 4 | 0x0208 => some 16 | 0x0209 => some 0
  | 0x0300 => some 32 | 0x0301 => some 0 | 0x0302 => some 48 | 0x0303 => some 4 | 0x0304 => some 4 | 0x0305 => some 4
  | 0x0306 => some 4 | 0x0307 => some 4
  | 0x0400 => some 0 | 0x0401 => some 24 | 0x0403 => some 40 | 0x0404 => some 4 | 0x0405 => some 16
  | 0x0500 => some 0 | 0x0501 => some 0 | 0x0502 => some 8 | 0x0503 => some 24 | 0x0504 => some 16 | 0x0505 => some 4
  | 0x0600 => some 8 | 0x0601 => some 0 | 0x0602 => some 0 | 0x0603 => some 64 | 0x0604 => some 4 | 0x0605 => some 4 | 0x0606 => some 4
  | 0x0700 => some 0 | 0x0701 => some 16 | 0x0702 => some 0
  | 0x0800 => some 0 | 0x0802 => some 4 | 0x0803 => some 0 | 0x0804 => some 4 | 0x0805 => some 0
  | 0x0900 => some 4 | 0x0901 => some 8 | 0x0A00 => some 0 | 0x0A01 => some 20 | 0x0A02 => some 4 | 0x0A03 => some 4
  | _ => none

/-- The length of the response of a command that is DONE, for its request (R350); `none` where the length tells how many regions there
are. -/
def responseLength (req : List Byte) : Nat → Option Nat
  | 0x0000 => some 32 | 0x0001 => some req.length | 0x0010 => some 32 | 0x0011 => some 32 | 0x0012 => some 32
  | 0x0100 => some 8 | 0x0102 => some 12 | 0x0103 => some 4 | 0x0104 => some 4 | 0x0105 => some 12 | 0x0106 => some 48 | 0x0108 => some 64
  | 0x0203 => some 40 | 0x0201 => none | 0x0208 => some 4 | 0x0209 => none
  | 0x0300 => some 4 | 0x0302 => some 4 | 0x0306 => some 4 | 0x0307 => some 64
  | 0x0400 => some 256 | 0x0401 => some (leAt req 4 2) | 0x0402 => some 4 | 0x0404 => some 8 | 0x0405 => some 8
  | 0x0500 => some 8 | 0x0502 => some (32 * leAt req 4 4) | 0x0505 => some 16
  | 0x0602 => some 4 | 0x0603 => some 4 | 0x0605 => some 16 | 0x0700 => some 32 | 0x0701 => some (leAt req 8 4)
  | 0x0800 => some 64 | 0x0801 => some 4 | 0x0802 => some 4 | 0x0804 => some 4
  | 0x0900 => some 20 | 0x0901 => some 20 | 0x0A00 => some 16
  | _ => some 0

end Sys2Proof.Machine
end

