-- ==== Sys2Proof/Certificates/Slice0/Obligations.lean ====
section
/-! DEFINITION. What is claimed of the model: statements for the provers, from the numbered rules of the manual. -/

section

open Sys2Proof Sys2Proof.Machine

/-! ### The step -/

/-- Row: every command. A step takes the command at the front of the queue and runs `exec` on it with the queue's rest: the
per-command statements reach a run through this one. -/
def Obligations.step_runs_the_front_command : Prop :=
  ∀ (c : Instr) (q : List Instr) (s : State), step { s with pending := c :: q } = exec c { s with pending := q }

/-- On an empty queue a step is one 1-ns tick of the time base (the model's choice, log entry 3): the Tailstock's time runs while
VAON is up, GLB_TIME runs with the core, and with the core down nothing else happens. -/
def Obligations.idle_step_is_a_tick : Prop :=
  ∀ s : State, s.pending = [] →
    step s = .next (fin (tick s)) ∧ (tick s).time = (if timeRuns s then s.time + 1 else s.time) ∧
    (tick s).seq = (if s.seq.vaon then { s.seq with tsNs := s.seq.tsNs + 1 } else s.seq) ∧
    (coreUp s = false → tick s = { s with time := (tick s).time, seq := (tick s).seq })

/-- Every step of every state goes on: there is no command and no operand on which the machine stops. A step takes exactly the front
of the queue, keeps every memory in canonical form, never writes the factory area and never lowers the firmware floor (R354, R364).
-/
def Obligations.every_step_goes_on_and_keeps_the_invariants : Prop :=
  ∀ s : State, ∃ t, step s = .next t ∧ t.pending = s.pending.drop 1 ∧
    (canonical s = true → canonical t = true) ∧ t.pst.factory = s.pst.factory ∧ s.fw.floor.toNat ≤ t.fw.floor.toNat

/-- After reset (the machine's first: power-on as shipped): nothing waits in the queue, STATE is BOOT and a reset is held, FWD and
BOUNDS are 0, GLB_TIME is 0, every register holds its Reset column (for some of the identity, arbiter and recorder registers the
value is written out), every mailbox is IDLE, and every memory is in canonical form. The values that the manual leaves to the model
are those of log entry 1 (R12, R34, R170, R195, R349, R405). -/
def Obligations.reset_state : Prop :=
  canonical State.reset = true ∧ State.reset.pending = [] ∧ GlbReset State.reset.glb ∧ State.reset.time = 0 ∧
  (∀ o, cfg State.reset o = regReset o ∧ hwGet State.reset o = regReset o) ∧
  (∀ e ∈ ([(Reg.GLB_ID, 0x99601F7D), (Reg.GLB_STEPPING, 0x42), (Reg.GLB_CAPS, 0x1E05048), (Reg.ARB_CTRL, 1),
      (Reg.ARB_RANK_SHADOW, 0x776643512100), (Reg.ARB_RANK_ACTIVE, 0x776643512100), (Reg.ARB_BURST 0, 4), (Reg.ARB_BURST 11, 8),
      (Reg.ARB_REST_KERF, 0xA0F0C0), (Reg.ARB_REST_RATE, 0x500410), (Reg.EVR_CTRL, 0xA2), (Reg.KRF_CTRL, 0)] : List (Nat × Word64)),
    cfg State.reset e.1 = e.2 ∧ hwGet State.reset e.1 = e.2) ∧
  (∀ m : Mbx, State.reset.mbx[m].state = .idle ∧ State.reset.mbx[m].ticket = 0 ∧
    ∀ n, bufBytes State.reset.mbx[m].rsp n = List.replicate n 0) ∧
  State.reset.cmds = [] ∧ (∀ p : HPort, State.reset.ports[p].linkUp = false) ∧ State.reset.krf.slots = []

/-- What commands leave alone. (1) R34, as the model orders STATE: no command but the release of a reset moves STATE backward or
clears FWD or BOUNDS, unless it takes a reset; and while a reset is held, nothing but its release moves them. (2) The Tailstock is
apart: no host port, mailbox, mirror, medium, lookup, queue, counter or thermal command, but those that ask for a reset or take away
power, moves a rail, a pin or a timer of the sequencer, or takes a reset (R435 to R448). -/
def Obligations.commands_that_leave_state_and_sequencer : Prop :=
  (∀ (i : Instr) (s t : State), (∀ obs, i ≠ .resetRelease obs) → exec i s = .next t → ¬ GlbReset t.glb →
     t.glb.inReset = s.glb.inReset ∧ s.glb.state.rank ≤ t.glb.state.rank ∧
     (s.glb.fwd = true → t.glb.fwd = true) ∧ (s.glb.bounds = true → t.glb.bounds = true) ∧
     (s.glb.inReset = true → t.glb.state = s.glb.state ∧ t.glb.fwd = s.glb.fwd ∧ t.glb.bounds = s.glb.bounds)) ∧
  (∀ (i : Instr) (s t : State), powerCommand i = false → exec i s = .next t →
     t.seq = s.seq ∧ t.glb.inReset = s.glb.inReset ∧ s.glb.state.rank ≤ t.glb.state.rank)

/-- R45: where user space lies. Chunk c = PA[30:12] of region n is served by the channel 8 × (n mod 8) + (c mod 8), which belongs to
the blank n mod 8; and any run of eight adjacent regions covers all 64 channels. -/
def Obligations.address_map : Prop :=
  (∀ pa : PA, lsaRegion (sectorOf pa) = regionOf pa ∧ regionOf pa = pa.toNat / 2 ^ 31 ∧
    lsaChannel (sectorOf pa) = 8 * (regionOf pa % 8) + pa.toNat / 2 ^ 12 % 2 ^ 19 % 8 ∧
    lsaChannel (sectorOf pa) / 8 = regionBlank (regionOf pa)) ∧
  (∀ n ch : Nat, n + 8 ≤ 480 → ch < 64 → ∃ pa : PA, inUser pa = true ∧ n ≤ regionOf pa ∧ regionOf pa < n + 8 ∧
    lsaChannel (sectorOf pa) = ch)

/-! ### The Tailstock (chapter 16) -/

/-- Rails in order. (1) One channel of a power-up: the delay ends and EN goes high; the deglitched SEQ_PG opens the settle window,
with its count of transitions at 0; the window's end without a fault takes up the next channel, or ends the phase (R437, R438). With
SEQ0 good the line caches are ready (R180). (2) A rail has discharged, or has not in time: the next one's EN is withdrawn at once,
in the reverse order of enabling; when none is left the phase is OFF, or LATCHED after a fault. The sense of SEQ9 to SEQ11 is SEQ_PG
low, and their discharge ends only then; a rail that was lost before its EN was withdrawn is not waited for. A timeout is latched as
DISCHARGE_TIMEOUT and stops nothing (R433, R439, R441, R442). -/
def Obligations.rails_go_up_and_down : Prop :=
  (∀ (c : Rail) (s : State),
     (s.seq.step = .delay c →
       exec (.seqRailDelayExpiry c) s =
         .next (fin { s with seq := { s.seq with enabled := c :: s.seq.enabled, step := .ramp c } })) ∧
     (s.seq.step = .ramp c → bitOf s.seq.pg c.val = true →
       exec (.pgDeglitchedGood c) s =
         .next (fin { s with seq := { s.seq with step := .settle c, good := s.seq.good ||| railBit c, transitions := 0 },
                             rdp := { s.rdp with ready := s.rdp.ready || c == 0 } })) ∧
     (s.seq.step = .settle c → s.seq.transitions ≤ 8 →
       (∀ d rest, s.seq.todo = d :: rest →
         exec (.settleWindowEnd c) s = .next (fin { s with seq := { s.seq with step := .delay d, todo := rest } })) ∧
       (s.seq.todo = [] → s.seq.phase = .phaseA →
         exec (.settleWindowEnd c) s = .next (fin (beginPhaseB { s with seq := { s.seq with step := .idle } }))) ∧
       (s.seq.todo = [] → s.seq.phase ≠ .phaseA →
         exec (.settleWindowEnd c) s = .next (fin { s with seq := { s.seq with
           step := .idle, phase := .on, upTime := BitVec.ofNat 12 (sat 12 ((s.seq.tsNs - s.seq.upStart) / 100000)) } })))) ∧
  (∀ (c : Rail) (s : State), s.seq.step = .discharge c →
     (c.val < 9 ∨ bitOf s.seq.pg c.val = false →
       (∀ d rest, s.seq.enabled = d :: rest → bitOf s.seq.lostDown d.val = false →
         exec (.dischargeDone c) s = .next (fin { s with seq := { s.seq with
           enabled := rest, step := .discharge d, good := s.seq.good &&& ~~~ railBit d } })) ∧
       (∀ d rest, s.seq.enabled = d :: rest → bitOf s.seq.lostDown d.val = true →
         exec (.dischargeDone c) s = exec (.dischargeDone c) { s with seq := { s.seq with
           enabled := rest, good := s.seq.good &&& ~~~ railBit d } }) ∧
       (s.seq.enabled = [] →
         exec (.dischargeDone c) s = .next (fin { s with seq := { s.seq with
           phase := if s.seq.toLatched then .latched else .off, step := .idle, toLatched := false, downAsked := false, todo := [],
           lostDown := 0 } }))) ∧
     (9 ≤ c.val → bitOf s.seq.pg c.val = true → exec (.dischargeDone c) s = .next (fin s)) ∧
     exec (.dischargeTimeout c) s = .next (fin (nextDown (latchFault s 6 c.val false))))

/-- The power-good pins. (1) The raw SEQ_PG: the pin follows; a transition within the channel's settle window is counted; a short
low of a monitored channel is counted in SEQ_GLITCH and raises SEQ_INT_STATUS.GLITCH; a rail that falls in a down-sequence before
its EN is withdrawn is latched as PG_LOST_DOWN, and its discharge is not waited for (R438, R442). (2) A fault of a rail: PG_TIMEOUT,
PG_UNSTABLE, and PG_LOST in a power-up or of SEQ0, SEQ1, SEQ6 or SEQ7, shut the rails down at once with the fault latched; another
rail lost with the rails up starts the commit first, and the shutdown ends LATCHED; one lost while the rails go down only counts as
good no more (R438, R439, R442). -/
def Obligations.rail_pins_and_faults : Prop :=
  (∀ (c : Rail) (s : State), s.seq.vaon = true →
     (bitOf s.seq.pg c.val = false →
       (∀ long : Bool, (long = true ∨ monitored s c = false) →
         exec (.seqPgRise c long) s = .next (fin { s with seq := countTransition c { s.seq with pg := s.seq.pg ||| railBit c } })) ∧
       (monitored s c = true →
         exec (.seqPgRise c false) s =
           .next (fin (countGlitch { s with seq := countTransition c { s.seq with pg := s.seq.pg ||| railBit c } } c)))) ∧
     (bitOf s.seq.pg c.val = true →
       (goingDown s = false ∨ c ∉ s.seq.enabled →
         exec (.seqPgFall c) s =
           .next (fin { s with seq := countTransition c { s.seq with pg := s.seq.pg &&& ~~~ railBit c } })) ∧
       (goingDown s = true → c ∈ s.seq.enabled →
         exec (.seqPgFall c) s =
           .next (fin (latchFault { s with seq :=
             { countTransition c { s.seq with pg := s.seq.pg &&& ~~~ railBit c } with
               lostDown := (countTransition c { s.seq with pg := s.seq.pg &&& ~~~ railBit c }).lostDown ||| railBit c } } 7 c.val false))))) ∧
  (∀ (c : Rail) (s : State),
     (s.seq.step = .ramp c → exec (.pgTimeout c) s = .next (fin (faultShutdown s 1 c))) ∧
     (s.seq.step = .settle c → 8 < s.seq.transitions → exec (.pgUnstable c) s = .next (fin (faultShutdown s 3 c))) ∧
     (c ∈ s.seq.enabled → bitOf s.seq.good c.val = true → bitOf s.seq.pg c.val = false →
       (poweringUp s = true ∨ (s.seq.phase = .on ∧ c.val ∈ [0, 1, 6, 7]) →
         exec (.pgLost c) s = .next (fin (faultShutdown (railLow s c) 2 c))) ∧
       (goingDown s = true → exec (.pgLost c) s = .next (fin (railLow s c))) ∧
       (s.seq.phase = .on → c.val ∉ [0, 1, 6, 7] →
         exec (.pgLost c) s =
           .next (fin (powerFails { latchFault (railLow s c) 2 c.val true with
             seq := { (latchFault (railLow s c) 2 c.val true).seq with toLatched := true } } .pwrFail)))))

/-- Power failure. (1) PWR_FAIL_N and VAON: power-up starts at VAON's power-on or at the pin's first rise, whichever is later, and
after a down-sequence once the restart timer has run; a fall in a power-up takes the enabled channels down without latching a fault;
recognised low with the rails up, it starts the commit (R437, R441, R443, R158). The loss of VAON loses what is volatile and leaves
the pins' levels (R444). (2) The end of a commit, or of the wait for it: COMMIT_DONE ends a commit that waits for nothing more, and
what waits for it follows; at COMMIT_TO's expiry COMMIT_TIMEOUT is latched and the rails go down or stay up as PWR_FAIL_N says
(R159, R161, R162, R441). -/
def Obligations.supply_pins_and_commit_end : Prop :=
  (∀ s : State,
     (s.seq.vaon = false →
       exec .vaonPowerOn s = .next (fin (if s.seq.pwrFailN then startPowerUp { s with seq := { s.seq with vaon := true, tsNs := 0 } } false
         else { s with seq := { s.seq with vaon := true, tsNs := 0 } }))) ∧
     (poweringUp s = false → exec .pwrFailNFall s = .next (fin { s with seq := { s.seq with pwrFailN := false } })) ∧
     (poweringUp s = true →
       exec .pwrFailNFall s = .next (fin (takeDown { s with seq := { s.seq with pwrFailN := false } } false))) ∧
     (s.seq.vaon = true → s.seq.phase = .off → s.seq.first = true →
       exec .pwrFailNRise s = .next (fin (startPowerUp { s with seq := { s.seq with pwrFailN := true } } false))) ∧
     (s.seq.first = false → exec .pwrFailNRise s = .next (fin { s with seq := { s.seq with pwrFailN := true } })) ∧
     (s.seq.vaon = true → s.seq.phase = .off → s.seq.pwrFailN = true →
       exec .powerUpRestartTimer s = .next (fin (startPowerUp s false))) ∧
     (s.seq.phase = .on → s.seq.pwrFailN = false → coreUp s = true →
       exec .pwrFailRecognised s = .next (fin (powerFails (nmi s 1) .pwrFail))) ∧
     (s.seq.vaon = true → ∀ progress : CommitProgress, ∃ t, exec (.vaonPowerLoss progress) s = .next t ∧
       t.seq = { Seq.initial with pg := s.seq.pg, pwrFailN := s.seq.pwrFailN, resetN := s.seq.resetN } ∧ t.regs = [] ∧
       t.cmds = [] ∧ t.krf.slots = [] ∧ t.cnt.entries = [] ∧ t.time = 0 ∧ GlbReset t.glb ∧ t.med.cells = s.med.cells ∧
       t.sealing.keys = s.sealing.keys ∧ t.glb.held = { kind := .powerOn, causes := 1 })) ∧
  (∀ s : State,
     (∀ (why : CommitWhy) (charge : Nat) (us : BitVec 32), s.krf.running = some (why, charge) → commitQuiet s = true →
       exec (.commitDone us) s = .next (fin (afterCommit (settle { completeArea s us with
         krf := { (completeArea s us).krf with running := none, done := true } }) why))) ∧
     (s.seq.commitWait = true →
       exec .commitToExpiry s = .next (fin (waitEnd (latchFault s 5 0 false))) ∧
       (s.seq.toLatched = false → s.seq.downAsked = false → s.seq.pwrFailN = true →
         (waitEnd s).seq.enabled = s.seq.enabled ∧ (waitEnd s).seq.phase = s.seq.phase ∧ (waitEnd s).glb = s.glb) ∧
       (s.seq.toLatched = false → s.seq.pwrFailN = false → waitEnd s = takeDown s false)))

/-- What asks for a reset or a restart. (1) RESET_N: the pin follows; recognised low with the rails up, it asks for a full reset
with cause RESET_N; its rise after a fault shutdown, with PWR_FAIL_N high, restarts power-up (R440, R447). (2) Resets that software
asks for: GLB_SOFT_RESET with its key asks for the reset named, with cause SOFT, unless one is under way; another key is one bad
access; FW_ACTIVATE's or FW_ROLLBACK's RESET_NOW asks for a warm reset (R36, R357). A write of the register is an access as R17 says
(`touch`). (3) SEQ_CTRL and SEQ_FAULT: RESTART starts power-up from OFF or LATCHED with PWR_FAIL_N high; DOWN needs its key and acts
as PWR_FAIL_N does; a cleared latch reads zero and nothing else moves; a write over BAR0 is an access as R17 says (`overPcie`) (R17,
R440, R444, R453). -/
def Obligations.resets_asked_for : Prop :=
  (∀ s : State,
     exec .resetNFall s = .next (fin { s with seq := { s.seq with resetN := false } }) ∧
     (s.seq.vaon = true → s.seq.resetN = false → s.seq.phase = .on →
       exec .resetNRecognised s =
         .next (fin (askReset { s with seq := { s.seq with resetSeen := true } } { kind := .full, causes := 2 }))) ∧
     (s.seq.vaon = true → s.seq.resetN = false → s.seq.phase ≠ .on →
       exec .resetNRecognised s = .next (fin { s with seq := { s.seq with resetSeen := true } })) ∧
     (¬(s.seq.vaon = true ∧ s.seq.resetSeen = true ∧ s.seq.phase = .latched ∧ s.seq.pwrFailN = true) →
       exec .resetNRise s = .next (fin { s with seq := { s.seq with resetN := true, resetSeen := false } })) ∧
     (s.seq.vaon = true → s.seq.resetSeen = true → s.seq.phase = .latched → s.seq.pwrFailN = true →
       exec .resetNRise s = .next (fin (startPowerUp { s with seq := { s.seq with resetN := true, resetSeen := false } } true)))) ∧
  (∀ s : State, coreUp s = true →
     (s.glb.asked = none →
       exec (.glbSoftResetFull 0xA5C3) s = .next (fin (askReset (touch s Reg.GLB_SOFT_RESET) { kind := .full, causes := 4 })) ∧
       exec (.glbSoftResetWarm 0xA5C3) s = .next (fin (askReset (touch s Reg.GLB_SOFT_RESET) { kind := .warm, causes := 4 })) ∧
       (s.fw.resetNow = true → exec .fwResetNowTimer s =
         .next (fin (askReset { s with fw := { s.fw with resetNow := false } } { kind := .warm, causes := 4 })))) ∧
     (s.glb.asked.isSome = true →
       exec (.glbSoftResetFull 0xA5C3) s = .next (fin (touch s Reg.GLB_SOFT_RESET)) ∧
       exec (.glbSoftResetWarm 0xA5C3) s = .next (fin (touch s Reg.GLB_SOFT_RESET))) ∧
     (∀ key : BitVec 16, key ≠ 0xA5C3 →
       exec (.glbSoftResetFull key) s = .next (fin (badAccess (touch s Reg.GLB_SOFT_RESET) 0x24)) ∧
       exec (.glbSoftResetWarm key) s = .next (fin (badAccess (touch s Reg.GLB_SOFT_RESET) 0x24)))) ∧
  (∀ (s : State) (smbus : Bool), s.seq.vaon = true → (smbus = true ∨ coreUp s = true) →
     (s.seq.pwrFailN = true → (s.seq.phase = .off ∨ s.seq.phase = .latched) →
       exec (.seqCtrlRestart smbus) s =
         .next (fin (startPowerUp (overPcie s smbus Reg.SEQ_CTRL) (decide (s.seq.phase = .latched))))) ∧
     (s.seq.phase = .on →
       exec (.seqCtrlDown 0xC3A5 smbus) s =
         .next (fin (powerFails { overPcie s smbus Reg.SEQ_CTRL with seq := { s.seq with downAsked := true } } .down))) ∧
     (poweringUp s = true → exec (.seqCtrlDown 0xC3A5 smbus) s = .next (fin (takeDown (overPcie s smbus Reg.SEQ_CTRL) false))) ∧
     (∀ key : BitVec 16, key ≠ 0xC3A5 → exec (.seqCtrlDown key smbus) s = .next (fin (overPcie s smbus Reg.SEQ_CTRL))) ∧
     exec (.seqFaultClear smbus) s =
       .next (fin { overPcie s smbus Reg.SEQ_FAULT with hw := hwPut s.hw Reg.SEQ_FAULT 0 }) ∧
     (∀ o : Nat, overPcie s smbus o = { s with latches := (overPcie s smbus o).latches }))

/-- The fatal path and the boot. (1) Fatal conditions and the dump: a watchdog expiry sets WDOG and a firmware assertion sets its
bit, and the dump sequence starts; a dump's end is followed by the reset that waits for it; 25 ms after WDOG the full reset comes
whatever the dump does (R334, R401, R428, R448). (2) The boot from reset release: it needs the rails up, a reset that is held,
RESET_N high and, after a critical stop, a temperature below the threshold by more than 10 °C; a self-test that fails stops the
device before any sector is opened. With both factory copies bad STATE is STOPPED; without an image that passes its checks it stays
BOOT; with one, GLB_READY.MBX is set, STATE is FWD_READY and forwarding has begun with the lookup engines, the queue engine and the
counter folder ready, or, while the orphan sweep of a breach runs, STATE is RESTORE (R306, R356, R364, R447, R449, R450). -/
def Obligations.fatal_conditions_and_boot : Prop :=
  (∀ s : State,
     (coreUp s = true → bitOf (hwGet s Reg.GLB_FATAL_STATUS) 2 = false →
       exec .headstockWatchdogExpiry s = .next (fin (settle (setFatal { s with glb := { s.glb with wdogPending := true } } 2)))) ∧
     (coreUp s = true → s.fw.running.isSome = true → exec .fwAssert s = .next (fin (settle (setFatal s 3)))) ∧
     (∀ truncated : List (Fin 10), s.dumps.writing = true →
       exec (.dumpComplete truncated) s = .next (fin (afterDump (coolDown (endDump s truncated))))) ∧
     (s.glb.wdogPending = true → s.seq.commitWait = false → s.glb.asked = none → ∃ t,
       exec .watchdogResetTimeout s = .next t ∧ GlbReset t.glb ∧ t.glb.held.causes &&& 8 = 8 ∧ t.cmds = [] ∧ t.seq = s.seq)) ∧
  (∀ (obs : BootObs) (s : State), s.seq.phase = .on → s.glb.inReset = true → s.seq.resetN = true → tooHot s obs.tempDegC = false →
     exec (.resetRelease obs) s = .next (fin (settle (boot s obs))) ∧
     (obs.selfTestOk = false → (boot s obs).glb.state = .stopped ∧ (boot s obs).glb.fwd = s.glb.fwd ∧
       (boot s obs).sealing.passed = false ∧ (boot s obs).med = s.med ∧ (boot s obs).krf = s.krf) ∧
     (boot s obs).glb.inReset = false ∧
     (obs.selfTestOk = true → GlbReset s.glb →
       (factoryCopy s.pst = none → (boot s obs).glb.state = .stopped ∧ (boot s obs).glb.fwd = false) ∧
       (factoryCopy s.pst ≠ none → (boot s obs).fw.running = none →
         (boot s obs).glb.state = .boot ∧ (boot s obs).glb.fwd = false ∧ (boot s obs).glb.mbx = s.glb.mbx) ∧
       ((boot s obs).fw.running ≠ none → (boot s obs).glb.mbx = true) ∧
       (factoryCopy s.pst ≠ none → (boot s obs).fw.running ≠ none →
         (boot s obs).sealing.ready = true ∧ (boot s obs).lke.ready = true ∧
         ((boot s obs).dbq.sweeping = true → (boot s obs).glb.state = .restore ∧ (boot s obs).glb.fwd = false) ∧
         ((boot s obs).dbq.sweeping = false → (boot s obs).glb.state = .fwdReady ∧ (boot s obs).glb.fwd = true ∧
           (boot s obs).dbq.ready = true ∧ (boot s obs).cnt.ready = true))))

/-! ### PCIe and registers (chapters 1 and 12) -/

/-- FLR, hot reset, a D3hot-to-D0 transition, a link-down and PCIE_PERST_N reset only what PCIe holds, its configuration with it;
nothing else of the device moves. A pending vector that nothing holds back any more is sent and its bit falls. In D3hot an access to
BAR0 or BAR2 has no effect, returns no data, and AER notes it (PCI Express, log entry 70); PowerState 0 written there resets the
function, as FLR does; a register of the configuration space is read and written without any effect on the device (R336, R338, R339,
R458). -/
def Obligations.pcie_resets_only_pcie : Prop :=
  ∀ s : State,
    (s.pcie.linkUp = true →
      exec .pcieFlr s = .next (fin { s with pcie := { s.pcie with cfg := PcieCfg.initial, msix := [], pba := 0 } }) ∧
      exec .pcieHotReset s =
        .next (fin { s with pcie := { s.pcie with cfg := PcieCfg.initial, msix := [], pba := 0, linkUp := false } }) ∧
      exec .pcieD3hotToD0 s = .next (fin { s with pcie := { s.pcie with cfg := PcieCfg.initial, msix := [], pba := 0 } }) ∧
      exec .pcieLinkDown s =
        .next (fin { s with pcie := { s.pcie with cfg := PcieCfg.initial, msix := [], pba := 0, linkUp := false } })) ∧
    exec .pciePerstNAssert s =
      .next (fin { s with pcie := { s.pcie with cfg := PcieCfg.initial, msix := [], pba := 0, linkUp := false, perstN := false } }) ∧
    (∀ busMaster : Bool, s.seq.phase = .on → s.clk.pcie.ok = true → s.clk.pcie.failed = false →
      exec (.pcieLinkUp busMaster) s = .next (fin { s with pcie := { s.pcie with
        linkUp := true, perstN := true, cfg := { s.pcie.cfg with busMaster := busMaster, memory := true, msixOn := true } } })) ∧
    (∀ v : Fin 32, bitOf s.pcie.pba v.val = true → vectorFree s.pcie v.val = true →
      exec (.msixPendingSend v) s = .next (fin { s with
        pcie := { s.pcie with pba := putBit s.pcie.pba v.val false }
        out := .msix (BitVec.ofNat 5 v.val) :: s.out })) ∧
    (endpointUp s = true → s.pcie.cfg.d3hot = true →
      (∀ (o : BitVec 24) (size : Nat) (v : BitVec 64),
        exec (.registerReadClear (.bar0 o) size) s = .next (fin (unsupported s)) ∧
        exec (.registerWrite (.bar0 o) size v) s = .next (fin (unsupported s))) ∧
      (∀ (o : BitVec 26) (size : Nat), exec (.registerReadClear (.bar2 o) size) s = .next (fin (unsupported s))) ∧
      (∀ v : BitVec 64, bitsOf v 0 2 = 0 → exec (.registerWrite (.config .pmControl) 4 v) s = .next (fin (pcieReset s)))) ∧
    (∀ (r : CfgReg) (v : BitVec 64), endpointUp s = true →
      (∃ t, exec (.registerWrite (.config r) 4 v) s = .next t ∧ t = { s with pcie := t.pcie, out := t.out }) ∧
      ∀ size : Nat, exec (.registerReadClear (.config r) size) s =
        .next (fin { s with busRead := BitVec.ofNat 64 (cfgRead s r).toNat })) ∧
    (∀ i : Instr, i ∈ [.pcieFlr, .pcieHotReset, .pcieD3hotToD0, .pcieLinkDown, .pciePerstNAssert, .pcieLinkUp true, .pcieLinkUp false] →
      ∃ t, exec i s = .next t ∧ t = { s with pcie := t.pcie, out := t.out })

/-- Accesses of BAR0, BAR2 and the SMBus sideband. Outside every window of BAR0 a read returns zero and a write does nothing;
inside, an access that is not an aligned 32-bit or 64-bit one is one bad access; a read returns the register and clears its RC
fields (the peak of the kerf charge starts again from the charge held); a write gives RW fields the value written and clears the
RW1C bits written 1; a write outside a stated limit is ignored as one bad access (as a whole, where one field breaks its limit: the
model's choice, log entry 19); a 64-bit register written by halves, the lower first, takes both at once. A mailbox's request buffer
takes what is written unless its command runs, which is one bad access; its response buffer is the device's, and reads as zero while
a command runs and beyond the response; the MSI-X table takes its words, the Pending Bit Array is only read. BAR2 reads the oldest
held dump, and zero while none is held; a write of it does nothing. In D3hot neither BAR is answered. Over SMBus the SEQ registers
can be read at any time, the THM registers as zero while VDD_CORE is not good (R13, R17, R29, R30, R167, R338, R340, R341, R359,
R404, R451). -/
def Obligations.register_accesses : Prop :=
  (∀ (off : BitVec 24) (size : Nat) (value : BitVec 64) (s : State), endpointUp s = true → s.pcie.cfg.d3hot = true →
    exec (.registerWrite (.bar0 off) size value) s = .next (fin (unsupported s)) ∧
    exec (.registerReadClear (.bar0 off) size) s = .next (fin (unsupported s))) ∧
  (∀ (off : BitVec 24) (s : State), coreUp s = true → endpointUp s = true → s.pcie.cfg.d3hot = false →
    let o := off.toNat
    (∀ (size : Nat) (value : BitVec 64),
      exec (.registerWrite (.bar0 off) size value) s =
        .next (fin (settle (busWrite s o size (if size = 4 then value.toNat % 2 ^ 32 else value.toNat)))) ∧
      exec (.registerReadClear (.bar0 off) size) s =
        .next (fin { (busRead s o size).2 with busRead := BitVec.ofNat 64 (busRead s o size).1 })) ∧
    (∀ size v, inWindow o = false → busRead s o size = (0, s) ∧ busWrite s o size v = s) ∧
    (∀ size v, inWindow o = true → aligned32or64 o size = false →
      busRead s o size = (0, badAccess s o) ∧ busWrite s o size v = badAccess s o) ∧
    (∀ r, inWindow o = true → (o < 0x80000 ∨ 0x90000 ≤ o) → regAt o = some r →
      (r.width = 32 → o % 4 = 0 → fwf s.hw = true →
        (busRead s o 4).1 = (regValue s o).toNat % 2 ^ 32 ∧
        (o ≠ Reg.ARB_RANK0_DEPTH → o ≠ Reg.KRF_CHARGE_PEAK → hwGet (busRead s o 4).2 o = hwGet s o &&& ~~~ r.rc) ∧
        (o = Reg.KRF_CHARGE_PEAK → (busRead s o 4).2 = notePeak (hwSet (touch s o) o (hwGet s o &&& ~~~ r.rc)))) ∧
      (∀ v : Word64, fwf s.hw = true → fwf s.regs = true →
        (r.rw ≠ 0 → cfg (writeFields s o r v) o = v &&& r.rw) ∧
        hwGet (writeFields s o r v) o = hwGet s o &&& ~~~ (v &&& r.w1c)) ∧
      (∀ v : Word64, writeFits s o v = false → regWrite s o r v = badAccess s o) ∧
      (r.width = 64 → o % 8 = 0 → inWindow (o + 4) = true → regHalf (o + 4) = some (o, r, true) → (o + 4 < 0x80000 ∨ 0x90000 ≤ o) →
        fwf s.latches = true → ∀ lo hi : BitVec 32,
        busWrite (busWrite s o 4 lo.toNat) (o + 4) 4 hi.toNat = busWrite s o 8 (lo.toNat + hi.toNat * 2 ^ 32)))) ∧
  (∀ (m : Mbx) (i : Nat) (s : State), i < 0x2000 → i % 4 = 0 →
    let o := 0x80000 + 0x2000 * m.val + i
    let x := s.mbx[m]
    (busRead s o 4 = (leNat ((List.range 4).map fun j => mbxBufRead x (i + j)), s)) ∧
    (∀ k, (k < 0x1000 → mbxBufRead x k = bufByte x.req k) ∧
      (0x1000 ≤ k → mbxBusy x = true → mbxBufRead x k = 0) ∧
      (0x1000 ≤ k → x.state = .done → x.rspLen ≤ k - 0x1000 → mbxBufRead x k = 0) ∧
      (0x1000 ≤ k → x.state = .done → k - 0x1000 < x.rspLen → mbxBufRead x k = bufByte x.rsp (k - 0x1000))) ∧
    (∀ size v, (size = 4 ∨ (size = 8 ∧ i % 8 = 0)) →
      (0x1000 ≤ i → busWrite s o size v = s) ∧
      (i < 0x1000 → mbxBusy x = true → busWrite s o size v = badAccess s o) ∧
      (i < 0x1000 → mbxBusy x = false → fwf x.req = true → ∃ q, busWrite s o size v = { s with mbx := s.mbx.set m { x with req := q } } ∧
        ∀ k, bufByte q k = if i ≤ k ∧ k < i + size then (leBytes size v).getD (k - i) 0 else bufByte x.req k))) ∧
  (∀ (n : Fin 32) (k : Fin 4) (v : BitVec 32) (s : State), fwf s.pcie.msix = true →
    let o := 0x90800 + 16 * n.val + 4 * k.val
    let t := busWrite s o 4 v.toNat
    busRead s o 4 = (msixWord (msixEntry s.pcie n.val) k.val, s) ∧
    t = { s with pcie := { s.pcie with msix := t.pcie.msix } } ∧
    (busRead t o 4).1 = (if k.val = 3 then v.toNat % 2 else v.toNat) ∧
    ∀ (n' : Fin 32) (k' : Fin 4), (n' ≠ n ∨ k' ≠ k) →
      (busRead t (0x90800 + 16 * n'.val + 4 * k'.val) 4).1 = (busRead s (0x90800 + 16 * n'.val + 4 * k'.val) 4).1) ∧
  (∀ (v : Nat) (s : State), busRead s 0x90C00 4 = (s.pcie.pba.toNat, s) ∧ busRead s 0x90C04 4 = (0, s) ∧ busWrite s 0x90C00 4 v = s) ∧
  (∀ (off : BitVec 26) (size : Nat) (value : BitVec 64) (s : State),
    (endpointUp s = true → s.pcie.cfg.d3hot = true →
      exec (.registerReadClear (.bar2 off) size) s = .next (fin (unsupported s)) ∧
      exec (.registerWrite (.bar2 off) size value) s = .next (fin (unsupported s))) ∧
    (endpointUp s = true → s.pcie.cfg.d3hot = false →
      (∀ d rest, s.dumps.held = d :: rest → exec (.registerReadClear (.bar2 off) size) s =
        .next (fin { loadDump s d off.toNat size with busRead := BitVec.ofNat 64 (bar2Read s off.toNat size) })) ∧
      (s.dumps.held = [] → exec (.registerReadClear (.bar2 off) size) s = .next (fin { s with busRead := 0 }))) ∧
    (s.pcie.cfg.d3hot = false → exec (.registerWrite (.bar2 off) size value) s = .next (fin s))) ∧
  (∀ (code : BitVec 8) (size o : Nat) (s : State), s.seq.vaon = true → sidebandReg code.toNat = some o →
    (inSeqWindow o = true ∨ s.seq.good.getLsbD 0 = true → exec (.registerReadClear (.smbus code) size) s =
      .next (fin { s with busRead := BitVec.ofNat 64 ((regValue s o).toNat % 2 ^ (8 * size)) })) ∧
    (inSeqWindow o = false → s.seq.good.getLsbD 0 = false →
      exec (.registerReadClear (.smbus code) size) s = .next (fin { s with busRead := 0 })))

/-- R29: a BAR0 offset outside every window reads as zero, ignores writes and completes normally. (In D3hot no access is answered,
R338: register_accesses.) -/
def Obligations.offsets_outside_every_window : Prop :=
  ∀ (off : BitVec 24) (size : Nat) (value : BitVec 64) (s : State), coreUp s = true → endpointUp s = true → s.pcie.cfg.d3hot = false →
    inWindow off.toNat = false →
    exec (.registerReadClear (.bar0 off) size) s = .next (fin { s with busRead := 0 }) ∧
    exec (.registerWrite (.bar0 off) size value) s = .next (fin (settle s))

/-! ### Clocks, pace, temperature, power states (chapter 15) -/

/-- Clocks and pace. (1) The cross-count windows end: each source present is judged on its own count, in the order SYS, HP, PCIE,
OSC; REFCLK_SYS and the oscillator lost together are the fault CLOCK, which shuts the rails down. Else the next window begins with
the effective value of REFOSC_TRIM (R375, R411, R412, R439). (2) One window of a source (R411, R412, R414): a count within its
limits keeps it, or brings a failed one back after 100 windows; the second window in a row outside them fails it; an absent source
is not counted. (3) The clock unit's and the pace governor's commands: the learned ratio moves toward a measurement by at most 0.1
ppm at each one, taken while REFCLK_SYS passes; the governor moves its setting by 5 mV against the slowest monitor and clamps
VDD_CORE to 650 to 850 mV; PACE_LOW is set and cleared; the monitors stop after the dump of a critical stop; an operating point
takes force at the transition's end (R407, R408, R410, R411, R415, R428). -/
def Obligations.clocks_and_pace : Prop :=
  (∀ (s : State) (sys hp pcie osc : BitVec 16), coreUp s = true →
     let t := clkWindow (clkWindow (clkWindow (clkWindow s 0 sys) 1 hp) 2 pcie) 3 osc
     exec (.crossCountWindowEnd sys hp pcie osc) s =
       .next (fin (if sysGone t ∧ t.clk.osc.failed then faultShutdown t 4 0
         else settle { t with clk := { t.clk with trim := effective t 4 0 } }))) ∧
  (∀ (s : State) (k : Nat) (n : BitVec 16), k < 4 →
     (clkPresent s k = false → clkWindow s k n = s) ∧
     (clkPresent s k = true → clkPass s k n = true → (clkSrc s k).failed = false →
       clkSrc (clkWindow s k n) k = { clkSrc s k with ok := true, bad := 0, good := 0 }) ∧
     (clkPresent s k = true → clkPass s k n = true → (clkSrc s k).failed = true →
       ((clkSrc (clkWindow s k n) k).failed = false ↔ 100 ≤ (clkSrc s k).good + 1)) ∧
     (clkPresent s k = true → clkPass s k n = false → (clkSrc s k).failed = false →
       ((clkSrc (clkWindow s k n) k).failed = true ↔ 2 ≤ (clkSrc s k).bad + 1) ∧
       (clkSrc (clkWindow s k n) k).good = 0)) ∧
  (∀ s : State,
     (∀ ratio : BitVec 32, coreUp s = true → s.clk.sys.ok = true → s.clk.sys.failed = false →
       exec (.oscRatioMeasure ratio) s = .next (fin { s with clk := { s.clk with
         fine := ratioStep s.clk.fine ratio.toNat, learned := min 1000 (s.clk.learned + 1) } })) ∧
     (∀ slowest : BitVec 16, coreUp s = true →
       exec (.paceSample slowest) s =
         .next (fin (if critParked s then s else { s with thm := { s.thm with slowest := slowest } }))) ∧
     (governs s = true →
       let setting : Int := if s.thm.slowest.toNat * 100 < 99 * 2400 then s.thm.setting + 5
         else if 102 * 2400 < s.thm.slowest.toNat * 100 then s.thm.setting - 5 else s.thm.setting
       exec .governorStep s = .next (fin { s with thm := { s.thm with
         setting := setting, vdd := (max 650 (min 850 (setting + effective s 3 0))).toNat } })) ∧
     (coreUp s = true → critParked s = false → s.thm.paceLow = false → s.pwr.cur = 0 → s.thm.vdd = 850 →
       s.thm.slowest.toNat < floorPace s →
       exec .paceLowTimer s = .next (fin (raise { s with thm := { s.thm with paceLow := true } } Reg.THM_INT_STATUS 7))) ∧
     (coreUp s = true → critParked s = false → s.thm.paceLow = true → floorPace s ≤ s.thm.slowest.toNat →
       exec .paceLowTimer s = .next (fin { s with thm := { s.thm with paceLow := false } })) ∧
     (∀ v : OppMove, s.clk.move = some v →
       exec .hsOppTransitionEnd s = .next (fin (settle (mbxFinish
         (evt (raise { s with clk := { s.clk with opp := v.target, move := none } } Reg.CLK_INT_STATUS 5) Ev.CLK_HS_OPP noInst
           v.target.toNat) v.mbx 0 0 [])))))

/-- Temperature. (1) A sample of the sensors: readiness, the temperature, the band, the waveform, throttling, the cold hold,
self-heat and the critical stop follow in that order, each by its rule (R423 to R430). (2) The rate of rise is the difference over
250 ms times 4, against the temperature 250 samples back or the oldest since reset where there are fewer (log entry 72); another
reading is not of 250 ms earlier, and gives nothing. Above 4 °C/s the alarm is raised once, until the rate has fallen below 2 °C/s;
with PREEMPT_EN it starts pre-emptive throttling, which ends below 2 °C/s (R427). (3) R425: the percentages that a temperature above
the effective threshold gives; both lie between 10 and 100 and fall as it rises. (4) R424: the band rises as soon as the temperature
reaches a boundary, and falls only once it is below the present band's boundary less the hysteresis; it never leaves 0 to 4. -/
def Obligations.temperature : Prop :=
  (∀ (raw : Vector Int 40) (s : State), coreUp s = true →
     let t := { s with thm := { s.thm with sensors := sampleSensors s raw, ready := true } }
     let invalid := (List.finRange 40).any fun i =>
       !((sampleSensors s raw)[i]).valid && ((s.thm.sensors[i]).valid || (s.thm.sensors[i]).last.isNone)
     exec (.sensorSample raw) s = .next (fin (settle (takeCritical (takeSelfHeat (takeCold (takeThrottle (takeWave (takeBand (takeTemp
       (if invalid then raise t Reg.THM_INT_STATUS 8 else t))))))))))) ∧
  (∀ s : State, coreUp s = true →
     let earlier := s.thm.past.getD 250 (s.thm.past.getLastD s.thm.temp)
     let rate := (s.thm.temp - earlier) * 4
     (64 < rate → s.thm.alarm = false →
       exec (.rateOfRiseCompute earlier) s = .next (fin (evt (raise (nmi { s with thm := { s.thm with
         rate := rate, alarm := true, preempt := s.thm.preempt || cfgBit s Reg.THM_CTRL 4 } } 2) Reg.THM_INT_STATUS 3)
         Ev.THM_RATE_OF_RISE noInst (BitVec.ofInt 16 rate).toNat))) ∧
     (rate < 32 → exec (.rateOfRiseCompute earlier) s = .next (fin { s with thm := { s.thm with rate := rate, alarm := false } })) ∧
     (32 ≤ rate → (rate ≤ 64 ∨ s.thm.alarm = true) →
       exec (.rateOfRiseCompute earlier) s = .next (fin { s with thm := { s.thm with rate := rate } })) ∧
     (∀ other : Int, other ≠ earlier → exec (.rateOfRiseCompute other) s = .next (fin s)) ∧
     (s.thm.preempt = true → s.thm.rate < 32 →
       exec .preemptEnd s = .next (fin { s with thm := { s.thm with preempt := false } }))) ∧
  (∀ dt : Int,
     (pctOf dt : Int) = (if dt ≤ 0 then 100 else max 10 (100 - 6 * dt)) ∧
     (pctOf (dt - 5) : Int) = (if dt ≤ 5 then 100 else max 10 (100 - 6 * (dt - 5))) ∧
     pctOf (dt + 1) ≤ pctOf dt ∧ 10 ≤ pctOf dt ∧ pctOf dt ≤ 100) ∧
  (∀ s : State, s.thm.band ≤ 4 → 0 ≤ hystOf s →
     bandNext s ≤ 4 ∧
     (∀ b, 1 ≤ b → b ≤ 4 → bandFloor b ≤ s.thm.temp → b ≤ bandNext s) ∧
     (1 ≤ s.thm.band → bandFloor s.thm.band - hystOf s ≤ s.thm.temp → s.thm.band ≤ bandNext s) ∧
     (1 ≤ s.thm.band → s.thm.temp < bandFloor s.thm.band - hystOf s → bandNext s < s.thm.band))

/-- Power states: entry goes one state deeper, L3 only once everything is drained and folded; a cause of return begins the exit, and
at its end the device is in L0; a housekeeping excursion goes to L0 and returns to the state it left (R419, R420, R421). -/
def Obligations.power_state_moves : Prop :=
  ∀ s : State,
    (∀ l : Fin 5, nextState s = some l → pwrSteady s = true → idle s = true → mayEnter s l.val = true → (l ≠ 3 ∨ drained s = true) →
      exec .pstateEntry s = .next (fin (goDown s l)) ∧ (goDown s l).pwr.cur = l ∧ (goDown s l).thm.vdd = 650 ∧
      l.val = s.pwr.cur.val + 1) ∧
    (nextState s = some 3 → pwrSteady s = true → idle s = true → mayEnter s 3 = true → drained s = false →
      exec .pstateEntry s = .next (fin (settle (foldEverything { s with pwr := { s.pwr with entering := true } })))) ∧
    (∀ cause : ReturnCause, coreUp s = true → causeHolds s cause = true →
      exec (.pstateReturnL0 cause) s = .next (fin { s with pwr := { s.pwr with
        entering := false, exiting := s.pwr.exiting || decide (s.pwr.cur ≠ 0), excursion := none } })) ∧
    (s.pwr.exiting = true → exec .pstateExitComplete s =
      .next (fin (settle (raise { s with
        pwr := { s.pwr with cur := 0, exiting := false, held := [] }
        thm := { s.thm with vdd := vddL0 s } } Reg.THM_INT_STATUS 9)))) ∧
    (pwrSteady s = true → 2 ≤ s.pwr.cur.val → (restCalls s = true ∨ workWaits s = true) →
      exec .housekeepingExcursion s = .next (fin (settle (raise { s with
        pwr := { s.pwr with excursion := some (s.pwr.cur, restCalls s), cur := 0, held := [],
                            excursions := if s.pwr.excursions = 0xFFFF then 0xFFFF else s.pwr.excursions + 1 }
        thm := { s.thm with vdd := vddL0 s } } Reg.THM_INT_STATUS 9)))) ∧
    (∀ (l : Fin 5) (byInput : Bool), s.pwr.excursion = some (l, byInput) → coreUp s = true → idle s = true →
      excursionOver s byInput = true → (l.val < 3 ∨ drained s = true) →
      exec .housekeepingExcursionEnd s = .next (fin (goDown { s with pwr := { s.pwr with excursion := none } } l)))

/-- Events of the store, the recorder and the counter units. (1) The parameter store's and the recorder's own events: a tie rewrite,
PST_CTRL.PROFILE_WE with its key, the write-back of the front, the sweep of expired windows, and the end of a freeze by its timer;
the sectors that the write-back programs are sealed (R285, R362, R382, R383, R390, R394). (2) R400, R406: a write of PMCu_CTRL
starts or stops its unit, and through PMC0's ALL every unit at once; CLEAR zeroes TB, OVF and the counters of a unit that does not
count. A counter at its greatest value that counts on wraps to 0 and sets its OVF bit (R399). -/
def Obligations.store_recorder_and_counter_units : Prop :=
  (∀ s : State, coreUp s = true →
     (∀ (area : Fin 5) (slot : Fin 32), s.pst.ready = true →
       exec (.pstTieRewrite area slot) s = .next (fin (tieRewrite s area.val slot.val))) ∧
     (∀ on : Bool, exec (.pstProfileWe 0x5A3C on) s =
       .next (fin { touch s Reg.PST_CTRL with regs := fputD s.regs Reg.PST_CTRL (regReset Reg.PST_CTRL) (putBit (cfg s Reg.PST_CTRL) 0 on) })) ∧
     (∀ key : BitVec 16, key ≠ 0x5A3C → exec (.pstProfileWe key true) s = .next (fin (badAccess (touch s Reg.PST_CTRL) Reg.PST_CTRL))) ∧
     (s.evr.ready = true → s.evr.frozen = false →
       exec .eventFrontWriteback s = .next (fin (settle { s with evr := { s.evr with
         ring := ringWrite s.evr.ring s.evr.front, front := [], toSeal := (s.evr.toSeal ++ ringSectors s.evr.front).eraseDups } }))) ∧
     (s.evr.ready = true → exec .rateLimitSweep s = .next (fin ((expired s).foldl closeWindow s))) ∧
     (s.evr.frozen = true → exec .evrAutoThaw s = .next (fin (endFreeze s true)))) ∧
  (∀ (u : PmcUnit) (s : State), coreUp s = true →
     (∀ (en freeze all : Bool), ∃ t, exec (.pmcEnable u en freeze all) s = .next t ∧
       t = { touch s (Reg.PMC_CTRL u.val) with pmc := t.pmc, pcie := t.pcie, out := t.out } ∧
       ∀ v : PmcUnit, t.pmc[v] = (if v = u then { s.pmc[v] with en := en, freeze := freeze }
         else if u = 0 ∧ all = true then { s.pmc[v] with en := en } else s.pmc[v])) ∧
     (s.pmc[u].en = false → ∃ t, exec (.pmcClear u) s = .next t ∧
       t = { touch s (Reg.PMC_CTRL u.val) with pmc := t.pmc, pcie := t.pcie, out := t.out } ∧
       t.pmc[u] = { s.pmc[u] with tb := 0, ovf := 0, cnt := Vector.replicate 8 0 } ∧ ∀ v, v ≠ u → t.pmc[v] = s.pmc[v]) ∧
     (∀ k : Fin 8, s.pmc[u].en = true → s.pmc[u].cnt[k] = 0xFFFFFFFFFFFF → (k = 0 ∨ bitOf s.pmc[u].cfg[k] 13 = false) →
       ∃ t, exec (.pmcCounterWrap u k) s = .next t ∧ t.pmc[u].cnt[k] = 0 ∧ bitOf t.pmc[u].ovf k.val = true ∧
         (t.pmc[u].en = !s.pmc[u].freeze) ∧ (∀ v, v ≠ u → t.pmc[v] = s.pmc[v]) ∧
         t = { s with pmc := t.pmc, evr := t.evr, hw := t.hw, pcie := t.pcie, out := t.out }))

/-! ### Host ports: links (chapter 3) -/

/-- Host links. (1) Bring-up, step by step: each lock needs the one before it, and the link comes up with a new session, the
MetaFrame and calendar lengths as they are set, no packet open, and the entries it had at 0 still at 0; until the host's first
calendar word its entries stand at 1 (the model's choice, log entry 59). Calendar word 0 sets the first 16 entries, the first in its
highest bit (R82, R85, R89, R90, R95, R113). (2) A lock that is lost, ENABLE cleared, and FAR_LOOP set or cleared each take the link
down, and bring-up restarts at step 2; the three codewords of a lost codeword lock count as uncorrectable; ENABLE set is kept (R81,
R96, R102, R103). -/
def Obligations.host_links_come_up_and_go_down : Prop :=
  (∀ (p : HPort) (l : Lane) (s : State),
     (portRuns s p = true → exec (.hostSignalValid p) s = .next (fin (modPort s p fun q => { q with signal := true }))) ∧
     (portRuns s p = true → s.ports[p].signal = true →
       ∀ skew : Vector Byte 8, exec (.codewordLock ⟨p, skew⟩) s =
         .next (fin (noteSkew (modPort s p fun q => { q with cwLock := true }) p skew))) ∧
     (s.ports[p].cwLock = true → exec (.wordLock p l) s =
       .next (fin (modPort s p fun q => { q with wordLock := q.wordLock ||| BitVec.ofNat 8 (2 ^ l.val) }))) ∧
     (s.ports[p].wordLock = 0xFF → exec (.metaframeLock p l) s =
       .next (fin (modPort s p fun q => { q with mfLock := q.mfLock ||| BitVec.ofNat 8 (2 ^ l.val) }))) ∧
     (∀ ns : BitVec 32, s.ports[p].mfLock = 0xFF → s.ports[p].linkUp = false → portRuns s p = true →
       exec (.hpLinkUp p ns) s = .next (fin (settle (linkComesUp s p ns))) ∧
       (linkComesUp s p ns).ports[p] = { s.ports[p] with
         linkUp := true, session := s.ports[p].session + 1, metaframe := cfgFld s (Reg.HP_METAFRAME p.val) 0 15
         calLen := cfgFld s (Reg.HP_CAL p.val) 0 5, packets := [], txPackets := [], hostXoff := 0, calRx := none, calTx := 0
         xoff := refold s.ports[p] (cfgFld s (Reg.HP_CAL p.val) 0 5) } ∧
       (cfgFld s (Reg.HP_CAL p.val) 0 5 = s.ports[p].calLen → (linkComesUp s p ns).ports[p].xoff = s.ports[p].xoff) ∧
       (∀ q, q ≠ p → (linkComesUp s p ns).ports[q] = s.ports[q])) ∧
     (∀ w : CalWord, s.ports[p].linkUp = true →
       exec (.hostCalendarReceived p w) s = .next (fin (modPort s p fun q => calendarIn q w)) ∧
       (w.reset = true → 0 < s.ports[p].calLen → ∀ e, e < 16 →
         bitOf (calendarIn s.ports[p] w).hostXoff e = !bitOf w.field (15 - e)) ∧
       (w.reset = false → s.ports[p].calRx = none → calendarIn s.ports[p] w = s.ports[p]))) ∧
  (∀ (p : HPort) (l : Lane) (s : State),
     (s.ports[p].cwLock = true → exec (.codewordLockLost p) s = .next (fin (settle (portDown
       (raise (hwAdd s (Reg.HP_FEC_UNCORR_CW p.val) 3) (Reg.HP_INT_STATUS p.val) 2) p)))) ∧
     (bitOf s.ports[p].wordLock l.val = true → exec (.wordLockLost p l) s = .next (fin (settle (portDown s p)))) ∧
     (bitOf s.ports[p].mfLock l.val = true → exec (.metaframeLockLost p l) s = .next (fin (settle (portDown s p)))) ∧
     (coreUp s = true → s.ports[p].fitted = true →
       exec (.hpCtrlEnable p false) s =
         .next (fin (settle (portDown (setCfg (touch s (Reg.HP_CTRL p.val)) (Reg.HP_CTRL p.val)
           (putBit (cfg s (Reg.HP_CTRL p.val)) 0 false)) p))) ∧
       exec (.hpCtrlEnable p true) s =
         .next (fin (setCfg (touch s (Reg.HP_CTRL p.val)) (Reg.HP_CTRL p.val) (putBit (cfg s (Reg.HP_CTRL p.val)) 0 true)))) ∧
     (∀ on : Bool, coreUp s = true → cfgBit s (Reg.HP_CTRL p.val) 1 ≠ on → exec (.hpFarLoop p on) s =
       .next (fin (settle (portDown (setCfg (touch s (Reg.HP_CTRL p.val)) (Reg.HP_CTRL p.val)
         (putBit (cfg s (Reg.HP_CTRL p.val)) 1 on)) p)))))

/-- What the loss of a link leaves (R97, R98): its locks and LINK_UP fall, its signal, session and lengths stay; no response waits
at the port any more; the commands accepted and not answered stay as they are; every other port and the commands of other ports stay
untouched, and so do the slots, the medium, the queues and the counters. -/
def Obligations.link_loss_keeps_accepted_commands : Prop :=
  ∀ (p : HPort) (s : State),
    (portDown s p).ports[p] = { s.ports[p] with
      cwLock := false, wordLock := 0, mfLock := 0, linkUp := false, txPackets := []
      packets := if s.ports[p].linkUp then [] else s.ports[p].packets } ∧
    (∀ q, q ≠ p → (portDown s p).ports[q] = s.ports[q]) ∧
    (s.ports[p].linkUp = true → (portDown s p).cmds.any (answeredAt p) = false) ∧
    (∀ x ∈ s.cmds, answeredAt p x = false → (∀ y ∈ s.cmds, y.id = x.id → y = x) → x ∈ (portDown s p).cmds) ∧
    (∀ x ∈ (portDown s p).cmds, x ∈ s.cmds) ∧
    portDown s p = { s with
      ports := (portDown s p).ports, cmds := (portDown s p).cmds, hw := (portDown s p).hw, evr := (portDown s p).evr
      pmc := (portDown s p).pmc }

/-- R105, with R104: the device finds the end of a command from DU alone. The bytes of any row of commands, each its 16-B slot and
its DU × 64 bytes of data, are taken apart into exactly those commands, whatever their opcodes; a slot whose data has not all
arrived waits. -/
def Obligations.commands_are_delimited_by_du : Prop :=
  ∀ (p : HPort) (c : HChan) (xs : List WireCmd) (tail : List Byte),
    (∀ x ∈ xs, x.fits = true) →
    (match slotLength tail with | none => True | some n => tail.length < n) →
    burstSlots p c (xs.flatMap WireCmd.bytes ++ tail) = (xs.map (WireCmd.slot p c), tail)

/-- Arrival at a host port. (1) A burst arrives: what its line showed and its payload are counted, and its first error in table
order discards it, or it completes commands; a SOP closes an open packet as truncated. In FAR_LOOP its codewords are corrected and
counted, and no command of it is accepted (R88, R100, R101, R102, R103). (2) Every command of a host port that arrives complete on a
link that is up, outside FAR_LOOP, in a serving state and with room in the receive buffer, is accepted: its payload bytes and the
command are counted, it is last in order of acceptance, and the device goes on from there; what its operation does is claimed below
(R88, R91, R99, R103, R114). (3) A command that is not accepted is counted in HPn_CMD_DISCARD with its cause, 5 for the device state
and 3 for a full buffer, and has no other effect than its payload count; with the link down or looped back nothing arrives (R91,
R99, R100, R102). -/
def Obligations.host_commands_arrive : Prop :=
  ((∀ (p : HPort) (c : HChan) (b : Burst) (s : State), loopedBack s p = true → s.ports[p].cwLock = true →
     exec (.burstReceived p c b) s = .next (fin (seeLine s p b)) ∧ (seeLine s p b).cmds = s.cmds) ∧
   ∀ (p : HPort) (c : HChan) (b : Burst) (s : State), s.ports[p].linkUp = true → loopedBack s p = false →
     let u := hwAdd (seeLine s p b) (Reg.HP_RX_BYTES p.val) b.bytes.length
     exec (.burstReceived p c b) s = .next (fin (settle (burstIn s p c b))) ∧
     (b.fecBad = true → b.sop = true → fget s.ports[p].packets c.toNat = none →
       burstIn s p c b = discardBurst (countError u p 0) p c b OpenPacket.start 1) ∧
     (b.fecBad = false → b.crcBad = true → b.sop = true → fget s.ports[p].packets c.toNat = none →
       burstIn s p c b = discardBurst (countError u p 1) p c b OpenPacket.start 1) ∧
     (b.fecBad = false → b.crcBad = false → b.ctrlBad = false → b.bytes.length ≤ 256 →
       (b.sop = true → (b.eop = true → b.bytes.length % 16 = 0) →
         (fget s.ports[p].packets c.toNat = none → burstIn s p c b = takeBurst u p c b OpenPacket.start false) ∧
         (∀ w, fget s.ports[p].packets c.toNat = some w →
           burstIn s p c b = takeBurst (closeOpen u p c w) p c b OpenPacket.start true)) ∧
       (b.sop = false → ∀ w, fget s.ports[p].packets c.toNat = some w → w.dropping = none → w.len + b.bytes.length ≤ 4096 →
         (b.eop = true → (w.len + b.bytes.length) % 16 = 0) → burstIn s p c b = takeBurst u p c b w false) ∧
       (b.sop = false → fget s.ports[p].packets c.toNat = none →
         burstIn s p c b = discardBurst (countError u p 2) p c b OpenPacket.start 2))) ∧
  (∀ (i : Instr) (x : Slotted) (s : State), hostRow i = some x →
     (arrival s x = some 0 ↔ s.ports[x.port].linkUp = true ∧ loopedBack s x.port = false ∧ s.glb.state.serves = true ∧
       receiveUnits s x.port + partUnits s x.port x.chan + (16 + 64 * x.du + 255) / 256 ≤ 1024) ∧
     (arrival s x = some 0 → exec i s = .next (fin (settle (takenCmd s x))))) ∧
  (∀ (i : Instr) (x : Slotted) (s : State), hostRow i = some x →
     (arrival s x = none → exec i s = .next (fin (settle s))) ∧
     (∀ k, k ≠ 0 → arrival s x = some k → (k = 3 ∨ k = 5) ∧
       exec i s = .next (fin (settle (discardCmds (hwAdd s (Reg.HP_RX_BYTES x.port.val) (16 + 64 * x.du)) x.port x.chan k 1)))))

/-! ### Host ports: what a command does (chapters 2, 4 to 6, 8 and 9)

Each claim is about a port that takes the command and performs it at once (`portOpen`); what holds a command up is claimed with the
events that let it go on. -/

/-- The checks before a command is performed. (1) Check 1 of R54 and R135: a command with an opcode outside R114, a DU its opcode
does not take, a PA off its alignment, a WRM64 mask of zero or an ENQ of no or too many bytes is answered MALFORMED with the first
cause that holds, and has no effect. (2) UNKNOWN_OPCODE: every value that R114 does not list is answered MALFORMED, UNKNOWN_OPCODE,
with any DU. (3) Checks 2 to 4 of R54, in their order, for every PA-addressed row: RANGE outside user space; DENIED, USE where the
region's USE does not take the opcode; DENIED, RIGHT without the right; POISON, LOST in a LOST region, with the RLEN of OK. -/
def Obligations.commands_that_are_refused : Prop :=
  (∀ (i : Instr) (x : Slotted) (s : State) (d : Nat), hostRow i = some x → portOpen s x.port = true →
     (malformed (acceptedCmd s x) = some d → AnswersOnly i x s false (Resp.plain .malformed d)) ∧
     (malformed (acceptedCmd s x) = some d ↔
       (opOfCode x.code.toNat = .unknown ∧ d = 1) ∨
       (opOfCode x.code.toNat ≠ .unknown ∧ duFits (acceptedCmd s x) = false ∧ d = 2) ∨
       (opOfCode x.code.toNat ≠ .unknown ∧ duFits (acceptedCmd s x) = true ∧ (opOfCode x.code.toNat).isPa = true ∧
         x.addr.toNat % (opOfCode x.code.toNat).size ≠ 0 ∧ d = 4) ∨
       (opOfCode x.code.toNat = .wrm64 ∧ x.du = 1 ∧ x.addr.toNat % 64 = 0 ∧ x.operand = 0 ∧ d = 5) ∨
       (opOfCode x.code.toNat = .enq ∧ x.du = (enqBytes x.addr + 63) / 64 ∧ (enqBytes x.addr = 0 ∨ 256 < enqBytes x.addr) ∧ d = 5))) ∧
  (∀ (p : HPort) (c : HChan) (tag : BitVec 12) (v : BitVec 8) (du : BitVec 3) (s : State), portOpen s p = true →
     v.toNat ∉ [0x00, 0x01, 0x10, 0x11, 0x18, 0x19, 0x1A, 0x20, 0x21, 0x22, 0x23, 0x30, 0x40, 0x41, 0x42, 0x43, 0x50, 0x51] →
     AnswersOnly (.unknownOpcode p c tag v du) { slotted .unknown p c tag du 0 0 0 with code := v } s false (Resp.plain .malformed 1)) ∧
  (∀ (i : Instr) (x : Slotted) (s : State), hostRow i = some x → portOpen s x.port = true →
     (opOfCode x.code.toNat).isPa = true → malformed (acceptedCmd s x) = none →
     let op := opOfCode x.code.toNat
     let r := regionAt s (regionOf x.addr)
     (inUser x.addr = false → AnswersOnly i x s false (Resp.plain .range 0)) ∧
     (inUser x.addr = true → rightNeeded r.use op = none → AnswersOnly i x s false (Resp.plain .denied 1)) ∧
     (∀ k, inUser x.addr = true → rightNeeded r.use op = some k →
       (holdsRight s x.port r k = false → AnswersOnly i x s false (Resp.plain .denied 2)) ∧
       (holdsRight s x.port r k = true → r.lost = true → AnswersOnly i x s true (Resp.bad .poison 2 op.rlen))))

/-- NOP returns OK; ECHO returns OK, its OPERAND and its data; neither touches anything else, and neither is performed before its
response is sent (R132). -/
def Obligations.nop_and_echo : Prop :=
  ∀ (p : HPort) (c : HChan) (tag : BitVec 12) (s : State), portOpen s p = true →
    AnswersOnly (.nop p c tag 0) (slotted .nop p c tag 0 0 0 0) s false (Resp.plain .ok 0) ∧
    (∀ (du : BitVec 3) (operand : Word64) (data : BitVec 2048), du.toNat ≤ 4 →
      AnswersOnly (.echo p c tag du operand data) (slotted .echo p c tag du 0 operand data) s false
        (Resp.okData (4 * du.toNat) operand (data &&& maskOf 2048 0 (512 * du.toNat))))

/-- RD64 and RD256 of a sector whose kerf slot carries charge return its line, or the sector, with SOURCE 0; a POISONED slot answers
POISON, SECTOR; a CLEAN slot gives its bytes, SOURCE 0; without a slot, a cache or the side buffer gives them, SOURCE 1; a read that
finds its sector nowhere is asked of the medium in class HRD, or, where a prefetch of the sector runs, waits for it (R78, R110,
R116, R139, R168, R171, R179). -/
def Obligations.reads_of_staged_sectors : Prop :=
  (∀ (p : HPort) (c : HChan) (tag : BitVec 12) (pa : PA) (s : State), portOpen s p = true → permits s p pa .general 0 = true →
    let lsa := sectorOf pa
    let x64 := slotted .rd64 p c tag 0 pa 0 0
    let x256 := slotted .rd256 p c tag 0 pa 0 0
    (∀ y, slotAt s lsa = some y → y.ecc = .good → y.state = .clean →
      (pa.toNat % 64 = 0 → ∃ t, exec (.rd64 p c tag 0 pa) s = .next t ∧
        t.cmds = answeredBy s x64 true (Resp.okData 4 0 ((lineAt y.data (lineOf pa)).setWidth 2048)) ∧
        OnlyAnswers { s with krf := t.krf } t) ∧
      (pa.toNat % 256 = 0 → ∃ t, exec (.rd256 p c tag 0 pa) s = .next t ∧
        t.cmds = answeredBy s x256 true (Resp.okData 16 0 y.data) ∧ OnlyAnswers { s with krf := t.krf } t)) ∧
    (slotAt s lsa = none →
      (∀ d u, cacheProbe s .hrd lsa = some (d, u) →
        (pa.toNat % 64 = 0 → ∃ t, exec (.rd64 p c tag 0 pa) s = .next t ∧
          t.cmds = answeredBy s x64 true (Resp.okData 4 1 ((lineAt d (lineOf pa)).setWidth 2048)) ∧ OnlyAnswers { s with rdp := t.rdp } t) ∧
        (pa.toNat % 256 = 0 → ∃ t, exec (.rd256 p c tag 0 pa) s = .next t ∧
          t.cmds = answeredBy s x256 true (Resp.okData 16 1 d) ∧ OnlyAnswers { s with rdp := t.rdp } t)) ∧
      (uncached s lsa = true →
        (pa.toNat % 64 = 0 → Misses (.rd64 p c tag 0 pa) x64 s .hrd lsa) ∧
        (pa.toNat % 256 = 0 → Misses (.rd256 p c tag 0 pa) x256 s .hrd lsa)) ∧
      (∀ q, cacheProbe s .hrd lsa = none → prefetchOf s lsa = some q → q.state ≠ .raised → pa.toNat % 64 = 0 →
        ∃ t, exec (.rd64 p c tag 0 pa) s = .next t ∧ t.cmds = [{ acceptedCmd s x64 with stage := .medium, reads := [lsa] }] ∧
          ∃ r ∈ t.med.reqs, r.id = q.id ∧ (Class.hrd, Purpose.cmd s.nextCmd) ∈ r.joined))) ∧
  ∀ (p : HPort) (c : HChan) (tag : BitVec 12) (pa : PA) (s : State) (y : Slot), portOpen s p = true →
    permits s p pa .general 0 = true → slotAt s (sectorOf pa) = some y →
    (pa.toNat % 64 = 0 →
      (y.holds = true → AnswersOnly (.rd64 p c tag 0 pa) (slotted .rd64 p c tag 0 pa 0 0) s true
        (Resp.okData 4 0 ((lineAt y.data (lineOf pa)).setWidth 2048))) ∧
      (y.ecc = .good → y.state = .poisoned →
        AnswersOnly (.rd64 p c tag 0 pa) (slotted .rd64 p c tag 0 pa 0 0) s true (Resp.bad .poison 1 4))) ∧
    (pa.toNat % 256 = 0 →
      (y.holds = true →
        AnswersOnly (.rd256 p c tag 0 pa) (slotted .rd256 p c tag 0 pa 0 0) s true (Resp.okData 16 0 y.data)) ∧
      (y.ecc = .good → y.state = .poisoned →
        AnswersOnly (.rd256 p c tag 0 pa) (slotted .rd256 p c tag 0 pa 0 0) s true (Resp.bad .poison 1 16)))

/-- WR64, WR256, WRM64, FADD64 and CSWAP64 on a sector whose kerf slot carries charge: the bytes they leave, the OK they return, and
nothing else (R117 to R119, R146); partial writes to a POISONED slot answer POISON, SECTOR, and a WR256 makes it good. On a sector
without a slot, with charge and a slot to be had and the region's bit set, a WR256 takes a DIRTY slot at once; a partial write whose
sector no cache holds waits in a FETCHING slot for a fetch of class KFETCH (R75, R142, R144, R146, R147). -/
def Obligations.writes_of_staged_sectors : Prop :=
  (∀ (p : HPort) (c : HChan) (tag : BitVec 12) (pa : PA) (s : State), portOpen s p = true → slotAt s (sectorOf pa) = none →
    mayReserve s 256 = true → slotFree s = true → s.krf.bitmap.contains (regionOf pa) = true →
    (permits s p pa .general 1 = true →
      (∀ data : Sector, pa.toNat % 256 = 0 → ∃ t, exec (.wr256 p c tag 4 pa data) s = .next t ∧
        (∃ y, t.cmds = [{ acceptedCmd s (slotted .wr256 p c tag 4 pa 0 data) with
          stage := .answered, performed := true, resp := some (Resp.plain .ok 0), sync := y }]) ∧
        ∃ z, slotAt t (sectorOf pa) = some z ∧ z.data = data ∧ z.state = .dirty ∧ z.ecc = .good) ∧
      (uncached s (sectorOf pa) = true → pa.toNat % 64 = 0 → ∀ data : Line,
        Fetches (.wr64 p c tag 1 pa data) (slotted .wr64 p c tag 1 pa 0 (data.setWidth 2048)) s (sectorOf pa) ∧
        ∀ mask : BitVec 64, mask ≠ 0 →
          Fetches (.wrm64 p c tag 1 pa mask data) (slotted .wrm64 p c tag 1 pa mask (data.setWidth 2048)) s (sectorOf pa))) ∧
    (permits s p pa .general 2 = true → uncached s (sectorOf pa) = true → pa.toNat % 8 = 0 →
      (∀ addend : Word64, Fetches (.fadd64 p c tag 0 pa addend) (slotted .fadd64 p c tag 0 pa addend 0) s (sectorOf pa)) ∧
      ∀ (compare : Word64) (data : Line),
        Fetches (.cswap64 p c tag 1 pa compare data) (slotted .cswap64 p c tag 1 pa compare (data.setWidth 2048)) s (sectorOf pa))) ∧
  ∀ (p : HPort) (c : HChan) (tag : BitVec 12) (pa : PA) (s : State) (y : Slot), portOpen s p = true →
    slotAt s (sectorOf pa) = some y →
    let old := wordAt y.data (wordOfPa pa)
    (permits s p pa .general 1 = true → y.holds = true →
      (∀ data : Line, pa.toNat % 64 = 0 →
        Stores (.wr64 p c tag 1 pa data) (slotted .wr64 p c tag 1 pa 0 (data.setWidth 2048)) s (sectorOf pa) y
          (putLine y.data (lineOf pa) data) (Resp.plain .ok 0)) ∧
      (∀ data : Sector, pa.toNat % 256 = 0 →
        Stores (.wr256 p c tag 4 pa data) (slotted .wr256 p c tag 4 pa 0 data) s (sectorOf pa) y data (Resp.plain .ok 0)) ∧
      (∀ (mask : BitVec 64) (data : Line), pa.toNat % 64 = 0 → mask ≠ 0 →
        Stores (.wrm64 p c tag 1 pa mask data) (slotted .wrm64 p c tag 1 pa mask (data.setWidth 2048)) s (sectorOf pa) y
          (putLine y.data (lineOf pa) ((lineAt y.data (lineOf pa) &&& ~~~ byteMask mask) ||| (data &&& byteMask mask)))
          (Resp.plain .ok 0))) ∧
    (permits s p pa .general 2 = true → y.holds = true → pa.toNat % 8 = 0 →
      (∀ addend : Word64,
        Stores (.fadd64 p c tag 0 pa addend) (slotted .fadd64 p c tag 0 pa addend 0) s (sectorOf pa) y
          (putWord y.data (wordOfPa pa) (old + addend)) (Resp.okData 0 old 0)) ∧
      (∀ (compare : Word64) (data : Line),
        Stores (.cswap64 p c tag 1 pa compare data) (slotted .cswap64 p c tag 1 pa compare (data.setWidth 2048)) s (sectorOf pa) y
          (if old = compare then putWord y.data (wordOfPa pa) (data.setWidth 64) else y.data)
          (if old = compare then ⟨.ok, 1, 0, old, 0⟩ else Resp.okData 0 old 0))) ∧
    (y.ecc = .good → y.state = .poisoned →
      (permits s p pa .general 1 = true → pa.toNat % 64 = 0 → ∀ data : Line,
        AnswersOnly (.wr64 p c tag 1 pa data) (slotted .wr64 p c tag 1 pa 0 (data.setWidth 2048)) s false (Resp.bad .poison 1 0) ∧
        ∀ mask : BitVec 64, mask ≠ 0 →
          AnswersOnly (.wrm64 p c tag 1 pa mask data) (slotted .wrm64 p c tag 1 pa mask (data.setWidth 2048)) s false
            (Resp.bad .poison 1 0)) ∧
      (permits s p pa .general 2 = true → pa.toNat % 8 = 0 →
        (∀ addend : Word64,
          AnswersOnly (.fadd64 p c tag 0 pa addend) (slotted .fadd64 p c tag 0 pa addend 0) s false (Resp.bad .poison 1 0)) ∧
        ∀ (compare : Word64) (data : Line),
          AnswersOnly (.cswap64 p c tag 1 pa compare data) (slotted .cswap64 p c tag 1 pa compare (data.setWidth 2048)) s false
            (Resp.bad .poison 1 0)) ∧
      (permits s p pa .general 1 = true → pa.toNat % 256 = 0 → ∀ data : Sector, ∃ t, exec (.wr256 p c tag 4 pa data) s = .next t ∧
        t.cmds = answeredBy s (slotted .wr256 p c tag 4 pa 0 data) true (Resp.plain .ok 0) ∧
        (∃ z, slotAt t (sectorOf pa) = some z ∧ z.data = data ∧ z.state = .dirty) ∧ isMarked t (sectorOf pa) = false))

/-- The bytes of those writes one by one: a line replaces its own 64 bytes of the sector, an atomic word its own 8, and a byte mask
selects its bytes; every other byte is as before (R42, R118). -/
def Obligations.writes_change_their_bytes_only : Prop :=
  (∀ (d : Sector) (l : Line) (k j : Nat), k < 4 → j < 256 →
    byteOf (putLine d k l) j = if j / 64 = k then byteOf l (j % 64) else byteOf d j) ∧
  (∀ (d : Sector) (w : Word64) (k j : Nat), k < 32 → j < 256 →
    byteOf (putWord d k w) j = if j / 8 = k then byteOf w (j % 8) else byteOf d j) ∧
  (∀ (m : BitVec 64) (a b : Line) (j : Nat), j < 64 →
    byteOf ((a &&& ~~~ byteMask m) ||| (b &&& byteMask m)) j = if m.getLsbD j then byteOf b j else byteOf a j)

/-- CADD on a pair that the fold cache holds adds OPERAND[63:48] and OPERAND[47:0] to its counts modulo 2^64; CRD returns the pair
of the sector's newest bytes plus what the fold cache holds; both answer POISON, SECTOR on a poisoned counter sector; an entry with
a double-bit error poisons its sector when it is read. A CADD on another pair takes a free way of its set, with charge to be had and
the region's bit set; a CRD whose sector is nowhere asks the medium in class CTR (R120, R121, R142, R168, R274, R277, R278). -/
def Obligations.counter_commands : Prop :=
  (∀ (p : HPort) (c : HChan) (tag : BitVec 12) (pa : PA) (s : State), portOpen s p = true → pa.toNat % 16 = 0 →
    counterBad s (sectorOf pa) = false → fget s.cnt.entries (pairOf pa) = none →
    (∀ deltas : Word64, permits s p pa .counter 1 = true → mayReserve s 16 = true → wayFree s (pairOf pa) = true →
      s.krf.bitmap.contains (regionOf pa) = true →
      ∃ t, exec (.cadd p c tag 0 pa deltas) s = .next t ∧
        t.cmds = answeredBy s (slotted .cadd p c tag 0 pa deltas 0) true (Resp.plain .ok 0) ∧
        (let e : FoldEntry := ⟨⟨deltas >>> 48, deltas &&& 0xFFFFFFFFFFFF⟩, s.time.toNat, .good⟩
         t.cnt = { s.cnt with entries := fput s.cnt.entries (pairOf pa) e }) ∧
        OnlyAnswers { s with cnt := t.cnt } t) ∧
    (permits s p pa .counter 0 = true → slotAt s (sectorOf pa) = none →
      (uncached s (sectorOf pa) = true → Misses (.crd p c tag 0 pa) (slotted .crd p c tag 0 pa 0 0) s .ctr (sectorOf pa)) ∧
      (∀ d u, cacheProbe s .ctr (sectorOf pa) = some (d, u) →
        ∃ t, exec (.crd p c tag 0 pa) s = .next t ∧
          t.cmds = answeredBy s (slotted .crd p c tag 0 pa 0 0) true (Resp.okData 1 0 (putPair 0 0 (pairAt d (pairOf pa % 16)))) ∧
          OnlyAnswers { s with rdp := t.rdp } t))) ∧
  ∀ (p : HPort) (c : HChan) (tag : BitVec 12) (pa : PA) (s : State), portOpen s p = true → pa.toNat % 16 = 0 →
    ((∃ e, fget s.cnt.entries (pairOf pa) = some e ∧ e.ecc = .double) →
      counterBad (entryCheck s (pairOf pa)) (sectorOf pa) = true) ∧
    ((∀ e, fget s.cnt.entries (pairOf pa) = some e → e.ecc = .good) →
    (∀ deltas : Word64, permits s p pa .counter 1 = true →
      (counterBad s (sectorOf pa) = true →
        AnswersOnly (.cadd p c tag 0 pa deltas) (slotted .cadd p c tag 0 pa deltas 0) s false (Resp.bad .poison 1 0)) ∧
      (∀ e, counterBad s (sectorOf pa) = false → fget s.cnt.entries (pairOf pa) = some e →
        ∃ t, exec (.cadd p c tag 0 pa deltas) s = .next t ∧
          t.cmds = answeredBy s (slotted .cadd p c tag 0 pa deltas 0) true (Resp.plain .ok 0) ∧
          fget t.cnt.entries (pairOf pa) = some { e with delta :=
            { packets := e.delta.packets + (deltas >>> 48)
              bytes := e.delta.bytes + (deltas &&& 0xFFFFFFFFFFFF) } } ∧
          t.cnt = { s.cnt with entries := fput s.cnt.entries (pairOf pa) ((fget t.cnt.entries (pairOf pa)).getD e) } ∧
          OnlyAnswers { s with cnt := t.cnt } t)) ∧
    (permits s p pa .counter 0 = true →
      (counterBad s (sectorOf pa) = true →
        AnswersOnly (.crd p c tag 0 pa) (slotted .crd p c tag 0 pa 0 0) s true (Resp.bad .poison 1 1)) ∧
      (∀ y, counterBad s (sectorOf pa) = false → slotAt s (sectorOf pa) = some y → y.holds = true →
        let pending := match fget s.cnt.entries (pairOf pa) with | some e => e.delta | none => Pair.zero
        AnswersOnly (.crd p c tag 0 pa) (slotted .crd p c tag 0 pa 0 0) s true
          (Resp.okData 1 0 (putPair 0 0 ((pairAt y.data (pairOf pa % 16)).add pending))))))

/-- LKUP: MALFORMED, NO_PROFILE without a profile for the port; MALFORMED, DU_MISMATCH when DU does not fit the profile's key; with
no engine in service OK with RUN 0; and, where no search needs a leaf from the medium or meets a bad word of the tier, OK with the
searches of the table set in force, evaluated against one version; one whose engine holds 64 already waits, the model's choice (log
entry 74) (R122 to R124, R231, R240, R241, R244, R256). -/
def Obligations.lookups : Prop :=
  ∀ (p : HPort) (c : HChan) (tag : BitVec 12) (du : BitVec 3) (addr : BitVec 40) (operand : Word64) (data : BitVec 2048) (s : State),
    portOpen s p = true → du.toNat ≤ 4 →
    let x := slotted .lkup p c tag du addr operand data
    let y := acceptedCmd s x
    (fget s.lke.cur.profiles (lkupProfile y) = none →
      AnswersOnly (.lkup p c tag du addr operand data) x s false (Resp.plain .malformed 6)) ∧
    (∀ f, fget s.lke.cur.profiles (lkupProfile y) = some f →
      (bitOf (byteOf f 2) p.val = false →
        AnswersOnly (.lkup p c tag du addr operand data) x s false (Resp.plain .malformed 6)) ∧
      (bitOf (byteOf f 2) p.val = true →
        (du.toNat ≠ duOfKey (profKeyLen f) →
          AnswersOnly (.lkup p c tag du addr operand data) x s false (Resp.plain .malformed 2)) ∧
        (du.toNat = duOfKey (profKeyLen f) →
          ((∀ e : Engine, engineServes s e.val = false) →
            AnswersOnly (.lkup p c tag du addr operand data) x s true (lkupResp [] 0 s.lke.cur.version)) ∧
          (∀ e, pickEngine s = some e → profSteps f ≤ 4 → (∀ k, k < profSteps f → stageOf f 4 k ≤ 4) →
            (∀ d ∈ evalLkup s.lke.cur f y, d.leaves = [] ∧ tierHit s s.lke.cur.version.toNat d = false) →
            (∀ j ∈ s.lke.jobs, j.cmd ≠ s.nextCmd) → enginesFull s = false →
            ∃ t, exec (.lkup p c tag du addr operand data) s = .next t ∧
              t.cmds = answeredBy s x true (lkupResp (evalLkup s.lke.cur f y) e.val s.lke.cur.version) ∧
              t.lke.cur = s.lke.cur ∧ OnlyAnswers { s with lke := t.lke } t) ∧
          (enginesFull s = true → ∀ z : HostCmd, cmdAt s z.id = some z → z.op = .lkup → z.port = p → z.du = du.toNat →
            lkupProfile z = lkupProfile y → startLkup s z.id = stageCmd s z.id .waiting))))

/-- Queue commands. (1) QSTAT reports its queue; DEQ of a queue without a complete packet answers EMPTY; a refused queue command
answers QERR with the first cause that holds, and changes no queue (R128, R130, R263). (2) Queue data moves: an ENQ that continues
its stream's open packet within its last sector, whose kerf slot and descriptor carry charge already, adds its bytes to the packet,
and with EOP ends it; a DEQ of such a sector returns the head packet's next segment and takes it off; a QFLUSH of a queue without an
open packet discards its complete packets and says how many (R126, R127, R129, R262, R265, R266). -/
def Obligations.queue_commands : Prop :=
  (∀ (p : HPort) (c : HChan) (tag : BitVec 12) (addr : BitVec 40) (s : State), portOpen s p = true →
     let q := qidOf addr
     let v := queueAt s q
     (∀ w : Fin 3, v.ecc[w] = .good) →
     AnswersOnly (.qstat p c tag 0 addr) (slotted .qstat p c tag 0 addr 0 0) s true
       (Resp.okData 1 (BitVec.ofNat 64 (queueBytes v)) (qstatUnit v)) ∧
     (v.error = false → v.enable = true → bitOf v.deqPorts p.val = true → v.packets = [] →
       AnswersOnly (.deq p c tag 0 addr) (slotted .deq p c tag 0 addr 0 0) s false ⟨.empty, 0, 0, 0x8000000000000000, 0⟩) ∧
     (v.error = true → AnswersOnly (.deq p c tag 0 addr) (slotted .deq p c tag 0 addr 0 0) s false (Resp.plain .qerr 7)) ∧
     (v.error = false → v.enable = false →
       AnswersOnly (.deq p c tag 0 addr) (slotted .deq p c tag 0 addr 0 0) s false (Resp.plain .qerr 1)) ∧
     (v.enable = true → bitOf v.deqPorts p.val = false →
       AnswersOnly (.qflush p c tag 0 addr) (slotted .qflush p c tag 0 addr 0 0) s false (Resp.plain .qerr 2)) ∧
     (∀ (du : BitVec 3) (operand : Word64) (data : BitVec 2048) (d : Nat),
       du.toNat = (enqBytes addr + 63) / 64 → enqBytes addr ≠ 0 → enqBytes addr ≤ 256 →
       let x := slotted .enq p c tag du addr operand data
       enqCheck s (acceptedCmd s x) v = some d →
       AnswersOnly (.enq p c tag du addr operand data) x s false (Resp.plain .qerr d))) ∧
  (∀ (p : HPort) (c : HChan) (tag : BitVec 12) (addr : BitVec 40) (s : State), portOpen s p = true →
     let q := qidOf addr
     let v := queueAt s q
     (∀ w : Fin 3, v.ecc[w] = .good) → v.error = false → v.enable = true → v.charged = true →
     (∀ (du : BitVec 3) (operand : Word64) (data : BitVec 2048) (pk : Packet) (n : BitVec 32) (b : Nat) (y : Slot),
       du.toNat = (enqBytes addr + 63) / 64 → bitOf addr 17 = false → bitOf v.enqPorts p.val = true → (poolRegions s).isEmpty = false →
       v.opened = some (pk, streamOf p c) → pk.sectors.getLast? = some (n, b) → v.flushes = [] →
       0 < enqBytes addr → b + enqBytes addr ≤ 256 → b < 256 →
       slotAt s n.toNat = some y → y.holds = true → (regionAt s (lsaRegion n.toNat)).lost = false →
       s.krf.bitmap.contains (lsaRegion n.toNat) = true →
       let grown : Packet := { pk with
         length := pk.length + enqBytes addr, sectors := pk.sectors.dropLast ++ [(n, b + enqBytes addr)] }
       ∃ t, exec (.enq p c tag du addr operand data) s = .next t ∧
         t.cmds = answeredBy s (slotted .enq p c tag du addr operand data) true (Resp.plain .ok 0) ∧
         (queueAt t q).packets = (if bitOf addr 18 then v.packets ++ [grown] else v.packets) ∧
         (queueAt t q).opened = (if bitOf addr 18 then none else some (grown, streamOf p c)) ∧
         (slotAt t n.toNat).map (·.data) = some (placeBytes v.tail b data 0 (enqBytes addr))) ∧
     (∀ (pk : Packet) (ps : List Packet) (n : BitVec 32) (b : Nat) (rest : List (BitVec 32 × Nat)) (y : Slot),
       bitOf v.deqPorts p.val = true → v.packets = pk :: ps → pk.sectors = (n, b) :: rest → b < 512 →
       slotAt s n.toNat = some y → y.holds = true → (regionAt s (lsaRegion n.toNat)).lost = false →
       ∃ t, exec (.deq p c tag 0 addr) s = .next t ∧
         t.cmds = answeredBy s (slotted .deq p c tag 0 addr 0 0) true
           (Resp.okData ((b + 15) / 16)
             ((if pk.whole then fld pk.data.toNat 0 else 0) ||| fld b 48 ||| flag pk.whole 57 ||| flag rest.isEmpty 58)
             (segmentData y.data b)) ∧
         (queueAt t q).packets = (if rest.isEmpty then ps else { pk with whole := false, sectors := rest } :: ps)) ∧
     (bitOf v.deqPorts p.val = true → v.opened = none →
       ∃ t, exec (.qflush p c tag 0 addr) s = .next t ∧
         t.cmds = answeredBy s (slotted .qflush p c tag 0 addr 0 0) true
           (Resp.okData 0 (BitVec.ofNat 64 (sat 32 v.packets.length)) 0) ∧
         (queueAt t q).packets = []))

/-- Commands that wait. (1) FENCE and PERSIST wait for what came before them: the FENCE has no other effect, and the PERSIST puts
the slots that hold its stream's writes ahead in the drain; once nothing before the FENCE is unperformed, or nothing the PERSIST
covers is uncommitted, each is answered; a 65th PERSIST of a port is answered RETRY, PERSIST_LIMIT (R62, R69, R131, R152). (2) What
holds a command up lets it go on: the reservation of charge that has waited longest is granted once it fits, and waits on at its
place where it does not; a held command of a stream takes the tokens of throttling or of the steady rest once there are enough; the
next burst of a response packet leaves when the host's calendar, the link and the limiter allow it, at most 256 bytes of it, and
ends the commands whose responses have left whole with it (R84, R87, R89, R92, R94, R142, R187, R426). -/
def Obligations.ordering_commands_and_held_commands : Prop :=
  (∀ (p : HPort) (c : HChan) (tag : BitVec 12) (s : State),
     (portOpen s p = true →
       (∃ t, exec (.fence p c tag 0) s = .next t ∧
         t.cmds = [{ acceptedCmd s (slotted .fence p c tag 0 0 0 0) with stage := .waiting }] ∧ OnlyAnswers s t) ∧
       (∃ t, exec (.persist p c tag 0) s = .next t ∧
         t.cmds = [{ acceptedCmd s (slotted .persist p c tag 0 0 0 0) with stage := .waiting }] ∧
         (∀ k, slotAt t k = (slotAt s k).map fun e =>
           if slotOwes (acceptedCmd s (slotted .persist p c tag 0 0 0 0)) e then { e with wanted := true } else e) ∧
         OnlyAnswers { s with krf := t.krf } t)) ∧
     (∀ x, fenceReady s p c = some x →
       exec (.fencePerformed p c) s = .next (fin (settle (refuse s x.id (Resp.plain .ok 0))))) ∧
     (∀ x, persistReady s p c tag = some x → exec (.persistComplete p c tag) s =
       .next (fin (settle (refuse s x.id (if persistLost s x then Resp.bad .poison 2 0 else Resp.plain .ok 0))))) ∧
     (∀ x, x.op = .persist → 64 ≤ persistsBefore s x → perform s x = refuse s x.id (Resp.plain .retry 1))) ∧
  (∀ (p : HPort) (c : HChan) (s : State),
     (∀ w rest, s.krf.waiters = w :: rest →
       let t := askAgain { s with krf := { s.krf with waiters := [] } } w
       (leftLine s t w = true ∨ holdsGrant t w = true → exec .chargeReservationGrant s = .next (fin (settle { t with
         krf := { t.krf with waiters := rest ++ t.krf.waiters.filter fun x => !rest.contains x } }))) ∧
       (leftLine s t w = false → holdsGrant t w = false →
         exec .chargeReservationGrant s = .next (fin { s with krf := { s.krf with bitmapAsk := t.krf.bitmapAsk } }))) ∧
     (∀ x, heldAt s p c .throttled = some x → s.krf.running = none →
       exec (.throttleTokensAvailable p c) s =
         .next (fin (if throttlePasses s x then settle (restStep (throttleCharge s x) x.id) else s))) ∧
     (∀ x, heldAt s p c .rested = some x → s.krf.running = none →
       exec (.restTokensAvailable p c) s = .next (fin (if restPasses s x then settle (dispatchCmd (restCharge s x) x.id) else s))) ∧
     (∀ (tags : List (BitVec 12)) (k : TxPacket), packetFor s p c tags = some k → maySend s p c (nextBurst s k).length = true →
       let last := decide ((txBytes s k).length ≤ k.sent + (nextBurst s k).length)
       exec (.responseSend p c tags) s = .next (fin (settle (sendBurst s p c k))) ∧
       nextBurst s k = ((txBytes s k).drop k.sent).take 256 ∧
       Emit.burst p c (!k.begun) last (calWord s p s.ports[p].calTx) (nextBurst s k) (cfgBit s (Reg.HP_ERR_INJECT p.val) 6) ∈
         (sendBurst s p c k).out ∧
       let sent := (splitSent s (k.sent + (nextBurst s k).length) k.ids).1
       (sendBurst s p c k).cmds = s.cmds.filter (fun y => !sent.contains y.id) ∧ (last = true → sent = k.ids) ∧
       (∃ rest, k.ids = sent ++ rest) ∧
       ∀ before i after, k.ids = before ++ i :: after →
         (before.length < sent.length ↔ ((before ++ [i]).flatMap (txOf s)).length ≤ k.sent + (nextBurst s k).length)))

/-! ### The kerf buffer and the read path (chapters 5 and 6) -/

/-- Writes that wait. (1) The dirty-region bitmap: a program sets every bit that was asked for and lets its commands go on; a clear
takes away the bits it names that are set and whose regions hold no charged state, and no other; each is one program under the
internal key, alternately to two places; below −58 °C neither is done (R144, R145, R207, R285). (2) The fetch of a merge ends: an
opened or stale sector makes its slot CLEAN with those bytes, a marker makes it POISONED, and the queue runs in order; a sector
whose tag fails or that is uncorrectable poisons the slot first, and the write that heads the queue completes with INTEG or UNCORR;
a marker that fails its own check stays a marker, and its place is retired (R76, R146, R149, R151, R216). -/
def Obligations.kerf_buffer_fills : Prop :=
  (∀ s : State, coreUp s = true →
     (s.thm.coldHold = true → exec .dirtyBitmapProgramDone s = .next (fin s) ∧
       ∀ rs, exec (.dirtyBitmapClear rs) s = .next (fin s)) ∧
     (s.thm.coldHold = false →
       (saveBitmap s).krf = { s.krf with bitmapTurn := !s.krf.bitmapTurn } ∧
       (s.krf.bitmapAsk ≠ [] →
         exec .dirtyBitmapProgramDone s = .next (fin (settle { saveBitmap s with krf := { (saveBitmap s).krf with
           bitmap := mergeRegions s.krf.bitmap s.krf.bitmapAsk, bitmapAsk := [] } })) ∧
         (∀ r, r < 480 →
           ((mergeRegions s.krf.bitmap s.krf.bitmapAsk).contains r = true ↔ r ∈ s.krf.bitmap ∨ r ∈ s.krf.bitmapAsk))) ∧
       (∀ rs : List (BitVec 9), ∃ m : List Nat,
         let u := if (clearable s rs).isEmpty then s else saveBitmap s
         exec (.dirtyBitmapClear rs) s = .next (fin { u with krf := { u.krf with bitmap := m } }) ∧
         ∀ r, r ∈ m ↔ r ∈ s.krf.bitmap ∧ ¬ (r ∈ rs.map (·.toNat) ∧ regionCharged s r = false)))) ∧
  (∀ (lsa : BitVec 32) (out : ReadOutcome) (s : State) (q : MedReq) (slot : Slot), coreUp s = true →
     fetchOf s lsa.toNat = some q → slotAt s lsa.toNat = some slot → slot.state = .fetching → blankAnswers s q = true →
     exec (.mergeFetchReturn lsa out) s = .next (fin (settle
       (mergeReturns (excessRule (endReq s q) q (decodeRead s q out)) lsa.toNat slot (decodeRead s q out)))) ∧
     (∀ (t : State) (dec : Decoded),
       let r := openSector t lsa.toNat dec
       let m := markerCare (openCount (noteDecode t lsa.toNat dec) .kfetch lsa.toNat r) lsa.toNat r
       let u := m.2
       let back := mergeReturns t lsa.toNat slot dec
       (((r = .tagFail ∨ r = .lsaFail) ∧ markedInMedium (openCount (noteDecode t lsa.toNat dec) .kfetch lsa.toNat r) lsa.toNat = true) →
         m.1 = .poison) ∧
       (¬ ((r = .tagFail ∨ r = .lsaFail) ∧
         markedInMedium (openCount (noteDecode t lsa.toNat dec) .kfetch lsa.toNat r) lsa.toNat = true) →
         m = (r, openCount (noteDecode t lsa.toNat dec) .kfetch lsa.toNat r)) ∧
       ((slotAt u lsa.toNat).isSome = true →
         (∀ d, m.1 = .data d →
           back = runQueue (putSlot u lsa.toNat { slot with state := .clean, data := d, queue := [] }) lsa.toNat slot.queue) ∧
         (m.1 = .stale →
           back = runQueue (putSlot u lsa.toNat { slot with state := .clean, data := 0, queue := [] }) lsa.toNat slot.queue) ∧
         (m.1 = .poison → back =
           runQueue (takeStamp (putSlot u lsa.toNat { slot with state := .poisoned, queue := [], stamp := nextStamp u })) lsa.toNat
             slot.queue) ∧
         (m.1 = .uncorr → back = mergeFails u lsa.toNat slot true) ∧
         (m.1 = .tagFail ∨ m.1 = .lsaFail → back = mergeFails u lsa.toNat slot false))))

/-- The drain. (1) AGE_US makes a DIRTY slot eligible for drain; FLUSH is set; LIMIT takes the value written, brought within 64 to
MAX, and a value that had to be brought within raises the clamp's cause (R152, R157). (2) A slot's drain ends: a slot that was not
written since its snapshot is CLEAN, one that was is DIRTY again with its newer bytes, eligible as it was by then or by an AGE_US of
0, and the slot of a marker is freed; no other slot changes (R152, R153, R250). -/
def Obligations.kerf_buffer_drains : Prop :=
  (∀ s : State,
     (∀ (lsa : BitVec 32) (x : Slot), slotAt s lsa.toNat = some x → x.state = .dirty →
       exec (.drainAgeTimer lsa) s = .next (fin (putSlot s lsa.toNat { x with aged := true }))) ∧
     (coreUp s = true →
       exec .krfFlush s = .next (fin (settle (setCfg (touch s Reg.KRF_CTRL) Reg.KRF_CTRL (putBit (cfg s Reg.KRF_CTRL) 0 true))))) ∧
     (∀ n : BitVec 11, coreUp s = true → canonical s = true →
       let max := bitsOf (hwGet s Reg.KRF_DIRTY_MAX) 0 11
       exec (.krfDirtyLimitWrite n) s = .next (fin (settle (writeLimit (touch s Reg.KRF_DIRTY_LIMIT) n.toNat))) ∧
       cfgFld (writeLimit s n.toNat) Reg.KRF_DIRTY_LIMIT 0 11 =
         (if n.toNat < 64 then 64 else if n.toNat ≤ max then n.toNat else max) ∧
       (64 ≤ n.toNat → n.toNat ≤ max → (writeLimit s n.toNat).evr = s.evr ∧ (writeLimit s n.toNat).hw = s.hw) ∧
       ((n.toNat < 64 ∨ max < n.toNat) → (hwGet (writeLimit s n.toNat) Reg.KRF_INT_STATUS).getLsbD 4 = true))) ∧
  (∀ (s : State) (lsa : Nat) (x : Slot), slotAt s lsa = some x →
     (x.state = .draining → ∀ marker : Bool, ∃ y, slotAt (settleSlot s lsa marker) lsa = some y ∧ y.data = x.data ∧
       y.snapshot = none ∧ y.state = (if x.rewritten then .dirty else .clean) ∧ y.writers = x.writers ∧ y.snapWriters = [] ∧
       (x.rewritten = true → y.aged = (x.aged || agedAtOnce s))) ∧
     (x.state = .poisoned → fwf s.krf.slots = true →
       slotAt (settleSlot s lsa true) lsa = none ∧ settleSlot s lsa false = s) ∧
     (∀ k, k ≠ lsa → ∀ marker : Bool, fwf s.krf.slots = true → slotAt (settleSlot s lsa marker) k = slotAt s k))

/-- Arbitration of the channels. (1) A grant decision goes to the highest rank with a request that can run: no class with such a
request has a higher one, and the class has one itself. While the last grant of a channel lasts its holder's further requests join
it; a controller that serves two channels decides for the one whose turn it is (R181, R222). (2) CUT_IN: with CUTIN_EN, a rank-0
request runs although an operation of another rank stands in its way: a program on its bank is suspended, a read there gives way.
With DRAIN at rank 0, the first slot that is eligible raises such a request where no other can cut in (R184). That it acts where no
class holds the grant, that the oldest request goes first, and the drain after it, are the model's choices (log entries 23 and 63).
(3) Ranks are committed whole: GO captures the shadow, which ARB_RANK_ACTIVE then shows, and gives every channel the new ranks to
apply, which the deadline does where no grant decision has; after it every channel that had them to apply ranks by what was
captured, and the others as before (R183, R195). That a GO while a commit is pending replaces what the channels have to apply is the
model's choice (log entry 63). -/
def Obligations.arbitration : Prop :=
  ((∀ (ch : Chan) (s : State), coreUp s = true → medAwake s = true →
     let w := grantRule (wakeBanks s ch.val) ch.val
     ((chanAt w ch.val).arb.holder = none → turnOf w ch.val = true →
       exec (.arbiterGrant ch) s = .next (fin (settle (grantStep w ch.val)))) ∧
     ((chanAt w ch.val).arb.holder = none → turnOf w ch.val = false → exec (.arbiterGrant ch) s = .next (fin (settle w))) ∧
     ((chanAt w ch.val).arb.holder ≠ none → exec (.arbiterGrant ch) s = .next (fin (settle (extendGrant w ch.val))))) ∧
   (∀ (ch : Nat) (s : State) (c : Machine.Class), pickClass s ch = some c →
     hasRequest s ch c = true ∧ ∀ d : Machine.Class, hasRequest s ch d = true → classRank s ch c ≤ classRank s ch d) ∧
   (∀ (ch : Nat) (s : State), pickClass s ch = none → ∀ d : Machine.Class, hasRequest s ch d = false)) ∧
  (∀ (ch : Chan) (s t : State) (q : MedReq), cutter t ch.val = some q →
     (t = s ∨ ∃ lsa, cutter s ch.val = none ∧ cutDrain s ch.val = some lsa ∧ t = addReq s .drain true lsa .drain) →
     coreUp t = true → medAwake t = true → cfgBit t Reg.ARB_CTRL 0 = true → cutNeeded t ch.val q = true →
     let g := (bankHolders t ch.val (bankOf t q)).foldl giveWay t
     exec (.cutIn ch) s = .next (fin (settle (grantRule
       (runOp (pmcCount (hwAdd g Reg.ARB_CUTINS 1) 0x410 (some ch.val) 1) q) ch.val))) ∧
     classRank t ch.val q.cls = 0 ∧ ∀ h ∈ bankHolders t ch.val (bankOf t q), classRank t ch.val h.cls ≠ 0) ∧
  ((∀ s : State, coreUp s = true → exec .arbCommit s = .next (fin (commitRanks (touch s Reg.ARB_COMMIT)))) ∧
   (∀ s : State, exec .arbRankApplyDeadline s = .next (fin ((List.range 64).foldl applyRanks s))) ∧
   (∀ (s : State) (k : Nat), fwf s.med.channels = true → fwf s.hw = true → k < 64 →
     hwGet (commitRanks s) Reg.ARB_RANK_ACTIVE = cfg s Reg.ARB_RANK_SHADOW &&& 0x777777777777 ∧
     (chanAt ((List.range 64).foldl applyRanks (commitRanks s)) k).arb.ranks = cfg s Reg.ARB_RANK_SHADOW &&& 0x777777777777 ∧
     (chanAt (commitRanks s) k).arb.pending = true ∧
     (chanAt (commitRanks s) k).arb.ranks = (chanAt s k).arb.ranks ∧
     (chanAt ((List.range 64).foldl applyRanks s) k).arb.pending = false ∧
     (chanAt ((List.range 64).foldl applyRanks s) k).arb.ranks =
       if (chanAt s k).arb.pending then hwGet s Reg.ARB_RANK_ACTIVE else (chanAt s k).arb.ranks))

/-- The read path. (1) A medium read that runs ends: it leaves its bank, is decoded and opened, and is delivered to what asked for
it (R205). (2) Locks: a LOCK or a PIN outside user space ends with result 5, of a region that is not GENERAL or TABLE, or LOST, with
3, of a marked sector with 4, and in a channel that holds 32 with 2; an UNLOCK of a sector that is not held ends with 1; a command
while one runs is ignored (R172, R173). That the tests are made in the order 5, 3, 4, 2 is the model's choice (log entry 22). (3) A
range invalidation drops every ordinary and pinned entry of its range, and the locked ones too when it says so, and every
side-buffer entry of the range, and no entry outside the range; each waits for the one that runs. CACHE_EN cleared drops every
ordinary entry and every side-buffer entry and keeps the held ones (R175, R179, R194). -/
def Obligations.reads_of_the_medium_and_caches : Prop :=
  (∀ (req : Nat) (out : ReadOutcome) (s : State) (q : MedReq), reqAt s req = some q → coreUp s = true → q.state = .running →
     q.program = false → q.purpose ≠ .fetch → blankAnswers s q = true →
     exec (.mediumReadDone req out) s = .next (fin (settle (readDone s q out)))) ∧
  (∀ (lsa : BitVec 32) (s : State), coreUp s = true →
     exec (.rdpLock lsa) s = .next (fin (settle (lockGo (touch s Reg.RDP_LOCK_CMD) lsa.toNat 0))) ∧
     exec (.rdpPin lsa) s = .next (fin (settle (lockGo (touch s Reg.RDP_LOCK_CMD) lsa.toNat 1))) ∧
     exec (.rdpUnlock lsa) s = .next (fin (lockGo (touch s Reg.RDP_LOCK_CMD) lsa.toNat 2)) ∧
     (s.rdp.lock ≠ none → ∀ op, lockGo s lsa.toNat op = s) ∧
     (∀ pin : Bool,
       let r := regionAt s (lsaRegion lsa.toNat)
       (0xF0000000 ≤ lsa.toNat → startLock s lsa.toNat pin = endLock s lsa.toNat 5) ∧
       (lsa.toNat < 0xF0000000 → ((r.use ≠ .general ∧ r.use ≠ .table) ∨ r.lost = true) →
         startLock s lsa.toNat pin = endLock s lsa.toNat 3) ∧
       (lsa.toNat < 0xF0000000 → (r.use = .general ∨ r.use = .table) → r.lost = false → isMarked s lsa.toNat = true →
         startLock s lsa.toNat pin = endLock s lsa.toNat 4) ∧
       (lsa.toNat < 0xF0000000 → (r.use = .general ∨ r.use = .table) → r.lost = false → isMarked s lsa.toNat = false →
         32 ≤ heldWays s (lsaChannel lsa.toNat) → startLock s lsa.toNat pin = endLock s lsa.toNat 2)) ∧
     (cacheFind s lsa.toNat = none → unlockEntry s lsa.toNat = endLock s lsa.toNat 1)) ∧
  ((∀ (locked : Bool) (s : State), coreUp s = true → exec (.rangeInvalidation locked) s = .next (fin (invalGo (touch s Reg.RDP_INVAL_CTRL) locked))) ∧
   (∀ (s : State) (i : Inval) (rest : List Inval), s.rdp.invals = i :: rest →
     (rest = [] → exec .invalidationDone s =
       .next (fin (raise (modRdp s fun r => { r with invals := [] }) Reg.RDP_INT_STATUS 0))) ∧
     (∀ j more, rest = j :: more → exec .invalidationDone s =
       .next (fin (dropRange (raise (modRdp s fun r => { r with invals := rest }) Reg.RDP_INT_STATUS 0) j)))) ∧
   (∀ (s : State) (lo hi : Nat) (locked : Bool) (e : Nat × CacheEntry),
     (e ∈ (invalidate s lo hi locked).rdp.cache ↔
       e ∈ s.rdp.cache ∧ (e.2.lsa.toNat < lo ∨ hi < e.2.lsa.toNat ∨ (locked = false ∧ e.2.hold = .locked)))) ∧
   (∀ (s : State) (lo hi : Nat) (locked : Bool) (ch : Nat) (e : SideEntry), fwf s.rdp.side = true →
     (e ∈ sideOf (invalidate s lo hi locked) ch ↔ e ∈ sideOf s ch ∧ (e.lsa.toNat < lo ∨ hi < e.lsa.toNat))) ∧
   (∀ (s : State) (ch : Nat), fwf s.rdp.side = true → sideOf (setCacheEn s false) ch = []) ∧
   (∀ (on : Bool) (s : State), coreUp s = true →
     exec (.cacheEn on) s = .next (fin (setCacheEn (touch s Reg.RDP_CTRL) on)) ∧
     (∀ e, e ∈ (setCacheEn s on).rdp.cache ↔ e ∈ s.rdp.cache ∧ (on = true ∨ e.2.hold ≠ .ordinary))))

/-! ### Medium care (chapters 6 and 7) -/

/-- Medium care. (1) A program that runs ends: verified, it leaves its bank and what waited for it is told; failed twice at its
slot, the slot is retired and the program goes to the spare, at once or, where no program runs, when it can start again, and without
a spare it is tried once more in place and then given up; a retirement takes another spare, and so does the copy of a block (R153,
R207, R216, R217, R218). (2) The scrub of a channel takes its next sector, once its request is granted; at the end of a cycle the
alias guard of the channel ends and the weak sectors of the cycle are forgotten. A sector that is DRAINING, under a program,
exhausted or held is skipped; a DIRTY slot is programmed from the kerf buffer; the sectors of the reserved area are taken alike; a
sector that is not the next one is not taken (R181, R203, R206, R208, R209, R210, R292). -/
def Obligations.programs_and_scrub : Prop :=
  (∀ (req : Nat) (s : State) (q : MedReq), reqAt s req = some q → coreUp s = true → q.state = .running → q.program = true →
     blankAnswers s q = true →
     exec (.mediumProgramDone req .verified) s = .next (fin (settle (programVerified (endReq s q) q))) ∧
     exec (.mediumProgramDone req .failed) s = .next (fin (settle (programFailed s q))) ∧
     ∃ ok t, programFailed s q = (if ok then (if programsRun s then t else restartOp t q)
         else if q.fails = 0 then modReq t q.id fun q => { q with fails := 1 } else giveUp (endReq t q) q) ∧
       (q.purpose ≠ .retire → (∀ b, q.purpose ≠ .block b) → (ok, t) = retireSlot s q.ch.val (levelledSlot s q.lsa.toNat)) ∧
       (∀ b, q.purpose = .block b → (ok, t) = blockSpare s q b) ∧
       (q.purpose = .retire → (∀ k u, takeSectorSpare s q.ch.val = some (k, u) → (ok, t) = (true, u)) ∧
         (takeSectorSpare s q.ch.val = none → (ok, t) = (false, raise s (Reg.MCH_CAUSE q.ch.val) 7)))) ∧
  (∀ (ch : Chan) (lsa : BitVec 32) (out : ReadOutcome) (s : State), stepRuns s lsa.toNat = true →
     cfgBit s (Reg.BLK_CTRL (ch.val / 8)) 0 = true →
     (scrubNext s ch.val lsa.toNat = true → scrubRuns s ch.val lsa.toNat = true →
       let t := scrubSector s lsa.toNat out
       exec (.scrubStep ch lsa out false) s = .next (fin (settle (passScrub t ch.val lsa.toNat))) ∧
       exec (.scrubStep ch lsa out true) s = .next (fin (settle (endCycle t ch.val)))) ∧
     (scrubNext s ch.val lsa.toNat = false → ∀ last : Bool, exec (.scrubStep ch lsa out last) s = .next (fin s)) ∧
     (scrubSkips (slotCheck s lsa.toNat) lsa.toNat = true → scrubSector s lsa.toNat out = slotCheck s lsa.toNat) ∧
     (scrubSkips (slotCheck s lsa.toNat) lsa.toNat = false →
       let v := stepGrant (slotCheck s lsa.toNat) .scrub 2 [lsa.toNat]
       let dec := decodeNow (slotCheck s lsa.toNat) lsa.toNat out
       (∀ x, slotAt v lsa.toNat = some x → x.state = .dirty → scrubSector s lsa.toNat out =
         stepProgram (beginDrain v lsa.toNat) lsa.toNat dec.programs fun u => drainVerified u lsa.toNat (some x.data)) ∧
       (∀ x, slotAt v lsa.toNat = some x → x.state = .poisoned → scrubSector s lsa.toNat out =
         stepProgram v lsa.toNat dec.programs fun u => drainVerified u lsa.toNat none) ∧
       (slotAt v lsa.toNat = none → scrubSector s lsa.toNat out = scrubMedium v lsa.toNat dec)) ∧
     (∀ t : State, fwf t.med.channels = true →
       (chanAt (endCycle t ch.val) ch.val).guard = false ∧ (chanAt (endCycle t ch.val) ch.val).weak = []))

/-- The level of the steady rest: HARD while an input is at its HARD threshold, else SOFT while one is at its SOFT threshold, else
NONE once every input is below its CLEAR threshold; in between HARD falls to SOFT, and any other level stays (R186). -/
def Obligations.steady_rest_level : Prop :=
  ∀ s : State,
    let v := restInputs s
    let hard := ∃ k, k < 4 ∧ (restThresholds s k).2.1 ≤ v.getD k 0
    let soft := ∃ k, k < 4 ∧ (restThresholds s k).1 ≤ v.getD k 0
    let held := ∃ k, k < 4 ∧ (restThresholds s k).2.2 ≤ v.getD k 0
    (coreUp s = true → exec .steadyRestEval s = .next (fin (settle (changeLevel s (restLevel s).1 (restLevel s).2)))) ∧
    (hard → (restLevel s).1 = .hard) ∧
    (¬ hard → soft → (restLevel s).1 = .soft) ∧
    (¬ hard → ¬ soft → ¬ held → (restLevel s).1 = .none) ∧
    (¬ hard → ¬ soft → held → (restLevel s).1 = if s.med.level = .hard then .soft else s.med.level)

/-- GAP_STEP: a due step of a domain moves one sector into the gap: the logical sector that lay in the gap's neighbour lies in the
old gap afterwards, every other one stays where it was, and no two sectors share a slot. A step that is not due, or whose banks are
taken, does nothing (R213, R214, R215, R479). -/
def Obligations.gap_step_moves_one_sector : Prop :=
  (∀ (d : Fin 3968) (out : ReadOutcome) (s : State),
    (gapReady s d.val = true → exec (.gapStep d out) s = .next (fin (settle (gapStep s d.val out)))) ∧
    (gapReady s d.val = false → exec (.gapStep d out) s = .next (fin s))) ∧
  (∀ (v : Domain), v.gap ≤ domainSectors → v.start < domainSectors →
    (∀ i j, i < domainSectors → j < domainSectors → levelSlot v i = levelSlot v j → i = j) ∧
    (∀ i, i < domainSectors → levelSlot v i ≠ v.gap ∧ levelSlot v i ≤ domainSectors) ∧
    (∀ i, i < domainSectors →
      levelSlot (gapMoved v) i = if levelSlot v i = gapSource v then v.gap else levelSlot v i) ∧
    (gapMoved v).gap ≤ domainSectors ∧ (gapMoved v).start < domainSectors)

/-- Settling. (1) The alias guard of a channel begins once it is called for, with its event; every blank whose pass is late is
reported at 4 s (R203, R212). (2) A channel's settling pass ends: its samples, as many as the pass takes and at most one of each 2
MiB, are decoded at the SETTLED reference, those that needed a ladder step are sensed again at the nine offsets of −4 to +4, the
channel is settled with the offset that shows the fewest symbols in error, its bad samples are cared for, and once every channel has
settled BOUNDS is set, and a FWD_READY device is OPERATIONAL (R34, R211, R226). -/
def Obligations.settling : Prop :=
  (∀ s : State, coreUp s = true →
     (∀ ch : Chan, guardDue s (chanAt s ch.val) = true → (chanAt s ch.val).guard = false →
       exec (.aliasGuardBegin ch) s = .next (fin (evt (raise (modChan s ch.val fun c => { c with guard := true })
         (Reg.BLK_INT_STATUS (ch.val / 8)) 8) Ev.BLK_ALIAS_GUARD (ch.val / 8) 0))) ∧
     (s.glb.bounds = false → s.glb.state ≠ .boot →
       exec .settleLate s = .next (fin (((List.range 8).filter fun b => !(List.range 8).all fun j => settledOrLost s (8 * b + j)).foldl
         (fun s b => evt (raise s (Reg.BLK_INT_STATUS b) 5) Ev.BLK_SETTLE_LATE b 0) s)))) ∧
  ((∀ (ch : Chan) (samples : List (BitVec 32)) (first again : List ReadOutcome) (s : State), passRuns s ch.val samples = true →
     samplesFit s ch.val samples first = true →
     let ds := sampleDecodes s ch.val samples first
     let more := samplesAgain ds again
     let offset := settleOffset s (settledCode s ch.val) more
     let t := settleCare (modChan s ch.val fun c => { c with settled := true, offset := BitVec.ofInt 8 offset }) ch.val ds more.length
     exec (.settlingPassDone ch samples first again) s = .next (fin (settle (boundsRule
       (if (List.range 8).all fun j => settledOrLost t (8 * (ch.val / 8) + j) then raise t (Reg.BLK_INT_STATUS (ch.val / 8)) 4 else t)))) ∧
     samples.length = settleSamples s ∧ (samples.map fun x => pieceOf x.toNat).Nodup ∧ -4 ≤ offset ∧ offset ≤ 4 ∧
     ∀ d : Int, -4 ≤ d → d ≤ 4 →
       (more.map fun e => settleErrors s e.1 (settledCode s ch.val) e.2 offset).sum ≤
         (more.map fun e => settleErrors s e.1 (settledCode s ch.val) e.2 d).sum) ∧
   (∀ s : State, s.glb.bounds = false → (List.range 64).all (settledOrLost s) = true →
     (boundsRule s).glb = { s.glb with bounds := true, state := if s.glb.state = .fwdReady then .operational else s.glb.state }) ∧
   (∀ s : State, (List.range 64).all (settledOrLost s) = false → boundsRule s = s))

/-- Failures in the medium. (1) A channel controller fails, by its watchdog, its datapath, or FORCE_FAIL in OPERATIONAL; one that
has failed fails no more; a failed spare that serves nothing is reported (R219, R220). (2) Dies and blanks: the first failed die of
a blank degrades it, a second fails it; an outage holds its operations through up to three resets; the reset it answers restores it,
the third one without answer fails it. A blank whose content alone is lost has outages too, and stays FAILED (R223 to R225). -/
def Obligations.medium_failures : Prop :=
  (∀ (m : Mch) (s : State), coreUp s = true →
     (holdsWork s m.val = true → exec (.mchWatchdogExpiry m) s = .next (fin (settle (mchFail s m 1)))) ∧
     exec (.mchDatapathError m) s = .next (fin (settle (mchFail s m 2))) ∧
     (s.glb.state = .operational →
       exec (.mchForceFail m) s = .next (fin (settle (mchFail (touch s (Reg.MCH_CTRL m.val)) m 3)))) ∧
     (s.glb.state ≠ .operational → exec (.mchForceFail m) s = .next (fin (settle (touch s (Reg.MCH_CTRL m.val))))) ∧
     (m ∈ s.med.failed → ∀ k, mchFail s m k = s) ∧
     (m ∉ s.med.failed → servedBy s m.val = [] → 64 ≤ m.val → ∀ k, mchFail s m k =
       evt (raise (raise (saveInner (modMed s fun x => { x with failed := x.failed ++ [m] }) .failures) (Reg.MCH_CAUSE m.val) k)
         (Reg.MCH_CAUSE m.val) 10) Ev.MCH_SPARE_LOST m.val 0)) ∧
  (∀ (b : Blank) (s : State), coreUp s = true →
     let v := s.med.blanks[b]
     (∀ die : Fin 18, exec (.diePortFault b die) s = .next (fin (settle (dieFail s b die))) ∧
       (v.die = none → dieFail s b die = evt (raise (saveInner (modBlank s b fun v =>
         { v with die := some die, state := if v.state = .normal then .degraded else v.state }) .failures) (Reg.BLK_INT_STATUS b.val) 0)
         Ev.BLK_DIE_FAILED b.val 0) ∧
       (v.die = some die → dieFail s b die = s) ∧
       (∀ d, v.die = some d → d ≠ die →
         dieFail s b die = blankFail (evt (raise s (Reg.BLK_INT_STATUS b.val) 0) Ev.BLK_DIE_FAILED b.val 0) b false)) ∧
     (v.state = .normal ∨ v.state = .degraded →
       exec (.blankOutage b) s = .next (fin (settle (evt (raise (modBlank s b fun v => { v with state := .outage, resets := 0 })
         (Reg.BLK_INT_STATUS b.val) 1) Ev.BLK_OUTAGE b.val 0)))) ∧
     (v.state = .failed → v.hwOk = true → v.down = false →
       exec (.blankOutage b) s = .next (fin (evt (raise (modBlank s b fun v => { v with down := true, resets := 0 })
         (Reg.BLK_INT_STATUS b.val) 1) Ev.BLK_OUTAGE b.val 0))) ∧
     (v.state = .failed → v.down = true →
       exec (.blankResetTimeout b true) s = .next (fin (settle (evt (raise
         ((List.range 8).foldl (fun s j => restartOps s (8 * b.val + j)) (modBlank s b fun v => { v with down := false, resets := 0 }))
         (Reg.BLK_INT_STATUS b.val) 2) Ev.BLK_RECOVERED b.val 0)))) ∧
     (v.state = .outage →
       exec (.blankResetTimeout b true) s = .next (fin (settle (evt (raise
         ((List.range 8).foldl (fun s j => restartOps s (8 * b.val + j))
           (modBlank s b fun v => { v with state := if v.die.isSome then .degraded else .normal, down := false, resets := 0 }))
         (Reg.BLK_INT_STATUS b.val) 2) Ev.BLK_RECOVERED b.val 0))) ∧
       (v.resets < 2 →
         exec (.blankResetTimeout b false) s = .next (fin (modBlank s b fun v => { v with resets := v.resets + 1 }))) ∧
       (2 ≤ v.resets → exec (.blankResetTimeout b false) s = .next (fin (settle (blankFail s b false))))))

/-- A blank that fails is LOST: each of its regions is LOST, none of its sectors keeps a slot, a pending delta, a fold or a request
at the medium, and the regions, slots, deltas and folds of other blanks are as before. A lock command that runs on one of its
sectors ends with result 3; the host commands that wait on it, and those whose reads were under way, complete with POISON and DETAIL
LOST; a LOST region that a peer owes records will be stale, and a port whose journal lies there is in overflow (R173, R225, R321,
R331). -/
def Obligations.failed_blank_is_lost : Prop :=
  ∀ (b : Blank) (hwOk : Bool) (s : State), s.med.blanks[b].state ≠ .failed → fwf s.regions = true → fwf s.hw = true →
    (∃ u : State, u.cmds = s.cmds ∧ u.mir.ports = s.mir.ports ∧
      (∀ r, r < 480 → (r % 8 = b.val → (regionAt u r).lost = true ∧ (regionAt u r).rebuilding = false) ∧
        (r % 8 ≠ b.val → regionAt u r = regionAt s r)) ∧
      u.krf.slots = s.krf.slots.filter (fun e => !inBlank b e.1) ∧
      u.cnt.entries = s.cnt.entries.filter (fun e => !inBlank b (pairSector e.1)) ∧
      u.cnt.folds = s.cnt.folds.filter (fun e => !inBlank b e.1) ∧
      u.med.reqs = s.med.reqs.filter (fun q => !inBlank b q.lsa.toNat) ∧
      u.med.blanks[b].state = .failed ∧ u.med.blanks[b].hwOk = hwOk ∧
      (∀ l, s.rdp.lock = some l → (inBlank b l.lsa.toNat = true → u.rdp.lock = none ∧ bitsOf (hwGet u Reg.RDP_LOCK_STATUS) 0 4 = 3) ∧
        (inBlank b l.lsa.toNat = false → u.rdp.lock = some l)) ∧
      let w := (s.cmds.filter (waitsOn b)).foldl endLost u
      let v := (s.med.reqs.filter fun q => inBlank b q.lsa.toNat).foldl
        (fun s q => (q.purpose :: q.joined.map (·.2)).foldl (fun s p => endRead s q.lsa.toNat p) s) w
      blankFail s b hwOk = [(0 : Fin 2), 1].foldl (fun s n => if journalOn s.mir.ports[n] b then mirOverflow s n else s)
        (markStale v ((v.mir.ports.toList.flatMap owedRegions).filter fun r =>
          ((List.range 60).map fun k => 8 * k + b.val).contains r && isPrimary v))) ∧
    (∀ (u : State) (x : HostCmd) (p : HPort) (c : HChan), x.origin = .stream p c →
      endLost u x = complete { u with krf := { u.krf with waiters := u.krf.waiters.filter fun w => w != .cmd x.id } } x.id
        (Resp.bad .poison 2 x.op.rlen)) ∧
    (∀ (u : State) (lsa id : Nat) (x : HostCmd), cmdAt u id = some x → x.op.isPa = true →
      endRead u lsa (.cmd id) = complete u id (Resp.bad .poison 2 x.op.rlen)) ∧
    (s.cmds = [] →
      let t := blankFail s b hwOk
      (∀ r, r < 480 → (r % 8 = b.val → (regionAt t r).lost = true) ∧ (r % 8 ≠ b.val → regionAt t r = regionAt s r)) ∧
      t.krf.slots = s.krf.slots.filter (fun e => !inBlank b e.1) ∧
      t.cnt.entries = s.cnt.entries.filter (fun e => !inBlank b (pairSector e.1)) ∧
      t.cnt.folds = s.cnt.folds.filter (fun e => !inBlank b e.1) ∧
      t.med.reqs = s.med.reqs.filter (fun q => !inBlank b q.lsa.toNat) ∧
      t.med.blanks[b].state = .failed ∧ t.med.blanks[b].hwOk = hwOk)

/-! ### Re-keys, lookups, queues and counters (chapters 8 to 10) -/

/-- Engines at work on their own. (1) A forced re-key starts on a free walk unit for the lowest region that waits; a walk unit
re-seals the next 64 sectors of its region and PARTING advances past them; at the region's end the re-key is over (R291, R302,
R304). FORCED_REKEY_START and REKEY_WALK_GROUP complete so under the conditions stated. (2) TIER_RELOAD, LKE_WATCHDOG_EXPIRY,
LKE_DATAPATH_ERROR, LKE_FORCE_FAIL and TBL_COMMIT_SWITCH complete: a table's bad tier words are reloaded, but for one that fails
again; an engine fails by its watchdog while it holds work, by its datapath, and by FORCE_FAIL in OPERATIONAL, which is recorded and
ignored for an engine that has failed; the staged set becomes current once its leaves have verified and no version before the
current one is held (R17, R227, R244, R250, R254, R257). (3) The buffer pool: a BUFFER region whose link area has been written joins
the pool with every chunk free; a sweep frees the chunks that no queue and no DEQ owns, and no other, and a boot that waited for it
goes on; a charged descriptor is checked and written back, and its charge is released. POOL_FORMAT_DONE, ORPHAN_SWEEP,
ORPHAN_SWEEP_DONE and QUEUE_DESC_WRITEBACK complete so under the conditions stated (R17, R258, R270, R271, R272). -/
def Obligations.rekeys_engines_and_pool : Prop :=
  ((∀ (s : State) (u : Fin 4) (r : Nat) (k : Fin 64), freeUnit s = some u → nextForced s = some (r, k) → coreUp s = true →
     s.glb.state.serves = true → exec .forcedRekeyStart s = .next (fin (settle (startRekey s u r k true)))) ∧
   (∀ (u : Fin 4) (outs : List ReadOutcome) (s : State) (r : BitVec 9) (k : Rekey) (key : BitVec 256),
     s.sealing.units[u] = some r → (regionAt s r.toNat).rekey = some k → slotKey s (regionAt s r.toNat).slot = some key →
     walkRuns s r.toNat k = true → 64 ≤ outs.length →
     let g := groupOf r.toNat k.parting
     let todo := g.filter fun n => !walkSkips s n
     exec (.rekeyWalkGroup u outs) s = .next (fin (settle (advanceParting
       ((g.zip outs).foldl (fun s e => walkSector s e.1 key e.2)
         (((todo.map lsaChannel).eraseDups).foldl (fun s ch => stepGrant s .rekey 2 (todo.filter fun n => lsaChannel n == ch)) s))
       r.toNat k)))) ∧
   (∀ (s : State) (r : Nat) (k : Rekey), k.parting + 64 < regionSectors → (regionAt s r).rekey = some k → fwf s.regions = true →
     ∃ k', (regionAt (advanceParting s r k) r).rekey = some k' ∧ k'.parting = k.parting + 64) ∧
   (∀ (s : State) (r : Nat) (k : Rekey), regionSectors ≤ k.parting + 64 → advanceParting s r k = endRekey s r)) ∧
  (∀ s : State, coreUp s = true →
     (∀ table : BitVec 8,
       exec (.tierReload table) s = .next (fin (modLke (loadItems s [.table table.toNat]) fun l =>
         { l with tierBad := l.tierBad.filterMap (reloaded table.toNat) })) ∧
       ∀ f : TierFault, reloaded table.toNat f =
         if f.table ≠ table.toNat then some f else if f.again then some { f with again := false } else none) ∧
     (∀ e : Engine,
       let u := touch s Reg.LKE_CTRL
       let w := setCfg u Reg.LKE_CTRL (putBits (cfg s Reg.LKE_CTRL) 16 4 e.val)
       (inFlight s e.val ≠ 0 → exec (.lkeWatchdogExpiry e) s = .next (fin (settle (engineFail s e 0)))) ∧
       exec (.lkeDatapathError e) s = .next (fin (settle (engineFail s e 1))) ∧
       (fhas s.lke.failed e.val = true → exec (.lkeForceFail e) s = .next (fin (settle (badAccess u Reg.LKE_CTRL)))) ∧
       (fhas s.lke.failed e.val = false → s.glb.state = .operational →
         exec (.lkeForceFail e) s = .next (fin (settle (engineFail w e 2)))) ∧
       (fhas s.lke.failed e.val = false → s.glb.state ≠ .operational → exec (.lkeForceFail e) s = .next (fin (settle w)))) ∧
     (∀ c, s.lke.commit = some c → c.wait = [] → s.lke.prev = none → s.glb.state.serves = true →
       exec .tblCommitSwitch s = .next (fin (settle (tblSwitch s c))))) ∧
  (∀ s : State, coreUp s = true →
     (∀ region : BitVec 9, (regionAt s region.toNat).formatting = true → (regionAt s region.toNat).use = .buffer →
       (regionAt s region.toNat).lost = false → programsRun s = true →
       exec (.poolFormatDone region) s = .next (fin (settle (evt (raise
         (modPool (modRegion (saveInner (formatArea s region.toNat) (.pool region.toNat)) region.toNat fun x => { x with formatting := false }) region.toNat
           fun _ => { formatted := true, alloc := true, used := [] }) Reg.DBQ_INT_STATUS 6) Ev.DBQ_POOL_ADD noInst 0)))) ∧
     exec .orphanSweep s = .next (fin (askSweep (setCfg (touch s Reg.DBQ_CTRL) Reg.DBQ_CTRL (putBit (cfg s Reg.DBQ_CTRL) 0 true)))) ∧
     (s.dbq.sweeping = true → nextSweep s = none → exec .orphanSweepDone s = .next (fin (settle
       (if s.glb.state = .restore ∧ s.dbq.sweepAgain = false then releaseForwarding (sweepEnd s) else sweepEnd s)))) ∧
     (∀ r c, (regionAt s r).lost = false → (fhas s.dbq.pool r = true) →
       (c ∈ (poolAt (sweepEnd s) r).used ↔ c ∈ (poolAt s r).used ∧ chunkOwned s r c = true)) ∧
     (∀ qid : BitVec 17, (queueAt s qid.toNat).charged = true → programsRun s = true →
       let u := descCheck s qid.toNat
       let w := { queueAt u qid.toNat with charged := false }
       exec (.queueDescWriteback qid) s = .next (fin (settle (hwAdd
         (saveInner (modDbq (putQueue u qid.toNat w) fun d => { d with saved := fputD d.saved qid.toNat Queue.initial w })
           (.queue (qid.toNat / 2))) Reg.DBQ_DESC_WB 1)))))

/-- FOLD_TIMER, CNT_FOLD_ALL, FOLD_SWITCH and CNT_CLEAR_SECTOR complete: a timer or FOLD_ALL starts folds, the switch puts the sums
in place and takes the snapshot out of the deltas, in the charged kerf slot of the sector or by the program that has verified in the
medium; a CNT_CLEAR goes on sector by sector, each left with zero bytes and no pending delta (R17, R275, R276, R279). -/
def Obligations.folds_and_clears : Prop :=
  ∀ s : State,
    (∀ lsa : BitVec 32, foldsRun s = true → sectorEntries s lsa.toNat ≠ [] → foldOf s lsa.toNat = none →
      let t := startFold s lsa.toNat
      exec (.foldTimer lsa) s =
        .next (fin (settle (if (foldOf t lsa.toNat).isSome then hwAdd t Reg.CNT_TIMER_FOLDS 1 else t)))) ∧
    (coreUp s = true →
      exec .cntFoldAll s = .next (fin (settle (setCfg (touch s Reg.CNT_CTRL) Reg.CNT_CTRL (putBit (cfg s Reg.CNT_CTRL) 0 true))))) ∧
    (∀ (lsa : BitVec 32) (j : FoldJob) (v : Sector), foldOf s lsa.toNat = some j → j.value = some v → j.ready = true →
      foldsRun s = true → exec (.foldSwitch lsa) s = .next (fin (settle (foldSwitch s lsa.toNat v j)))) ∧
    (∀ (lsa : Nat) (j : FoldJob) (v : Sector), fwf s.krf.slots = true → fwf s.cnt.folds = true →
      let t := entriesCheck (slotCheck s lsa) lsa
      let w := foldSwitch s lsa v j
      ((foldOf t lsa).isNone = true → w = t) ∧
      ((foldOf t lsa).isSome = true →
        w.cnt.entries = subSnapshot t.cnt.entries j.snapshot s.time.toNat ∧ foldOf w lsa = none ∧
        (∀ x, slotAt t lsa = some x → ∃ y, slotAt w lsa = some y ∧
          y.data = addDeltas (if x.charged then x.data else v) j.snapshot) ∧
        (slotAt t lsa = none → ∀ p, sealPlan (cacheWrite t lsa (addDeltas v j.snapshot)) lsa = some p →
          foldLand t lsa v j = programmed (countPsi (landProgram (cacheWrite t lsa (addDeltas v j.snapshot)) lsa
            (some (addDeltas v j.snapshot)) p) lsa) lsa ∧ w.med.cells = (foldLand t lsa v j).med.cells))) ∧
    (∀ m : Mbx, foldsRun s = true → exec (.cntClearSector m) s = .next (fin (settle (clearStep s m)))) ∧
    (∀ lsa : Nat, fwf s.krf.slots = true → ∃ y, slotAt (clearSector s lsa) lsa = some y ∧ y.data = 0 ∧
      sectorEntries (clearSector s lsa) lsa = [])

/-- No count is lost in a fold: the sector after a switch plus the deltas that stay pending equal the sector before it plus the
deltas before it, pair by pair and modulo 2^64, whatever CADDs came after the snapshot (R120, R275 to R277). -/
def Obligations.folds_lose_no_count : Prop :=
  ∀ (d : Sector) (entries : FMap FoldEntry) (lsa now k : Nat) (snap : FMap Pair),
    fwf entries = true → fwf snap = true → (∀ e ∈ snap, pairSector e.1 = lsa) → (∀ e ∈ snap, fhas entries e.1 = true) →
    pairSector k = lsa →
    let pending := fun (m : FMap FoldEntry) => match fget m k with | some e => e.delta | none => Pair.zero
    ((pairAt (addDeltas d snap) (k % 16)).add (pending (subSnapshot entries snap now))) =
      ((pairAt d (k % 16)).add (pending entries))

/-- Sealing. (1) What a program seals, a read opens: a sector whose program took the plan p for its place reads back its data while
the region's major is the plan's; a poison marker reads as poison; and once the region's majors have moved past it, a sector of user
space is stale and reads as zero, with no error. A sector of the reserved area opens under the internal key (R283, R285, R287, R289,
R303). (2) No minor is used twice: under one major, the minor that a program takes is higher than the one its sector carries, and
with unknown history, which is also that of a sector whose metadata does not decode, it is higher than the ceiling; the new ceiling
is not below it, where no minor was above the old one. In the reserved area each program takes the next count of the internal
programs as its major and minor (R285, R289, R290). -/
def Obligations.sealed_sectors_open : Prop :=
  (∀ (s : State) (lsa : Nat) (p : SealPlan) (out : Decoded), lsa < 2 ^ 32 → sealPlan s lsa = some p → fhas s.med.marks lsa = false →
     (∀ k, (regionAt s (lsaRegion lsa)).rekey = some k → k.oldMajor ≠ (regionAt s (lsaRegion lsa)).major) →
     out.step.isSome = true → out.faithful = true → out.lsaOk = true →
     (∀ d : Sector,
       let t := putCell s (placeOf s lsa) (plannedCell s lsa p (some d))
       openSector t lsa out = .data d ∧
       (isInner lsa = false → ∀ x : Region, x.rekey = none → x.major ≠ p.major →
         openSector { t with regions := fput t.regions (lsaRegion lsa) x } lsa out = .stale ∧
         (openSector { t with regions := fput t.regions (lsaRegion lsa) x } lsa out).bytes = 0)) ∧
     openSector (putCell s (placeOf s lsa) (plannedCell s lsa p none)) lsa out = .poison) ∧
  ((∀ (s : State) (lsa : Nat) (p : SealPlan), sealPlan s lsa = some p → isInner lsa = true →
     p.major.toNat * 2 ^ 20 + p.minor = s.sealing.internal.toNat + 1 ∧ p.minor < 2 ^ 20 ∧
     (landProgram s lsa none p).sealing.internal = s.sealing.internal + 1) ∧
   ∀ (s : State) (lsa : Nat) (p : SealPlan), sealPlan s lsa = some p → isInner lsa = false →
     let c := cellAt s lsa
     let x := regionAt s (lsaRegion lsa)
     let ceiling := if p.old then (x.rekey.map (·.oldCeiling)).getD 0 else x.ceiling
     let known := fget s.med.marks lsa ≠ some true
     (known → c.lsa.toNat = lsa → c.major = p.major → p.minor = c.minor.toNat + 1) ∧
     (known → c.lsa.toNat = lsa → c.major ≠ p.major → p.minor = 0) ∧
     (¬ known ∨ c.lsa.toNat ≠ lsa → p.minor = ceiling + 1 ∧ p.ceiling = ceiling + 4096) ∧
     ceiling ≤ p.ceiling ∧ ((c.lsa.toNat = lsa → c.minor.toNat ≤ ceiling) → p.minor ≤ p.ceiling))

/-! ### The mirror (chapter 11) -/

/-- A mirror port's link and its session. PCS lock brings the link up. A frame that is discarded is counted with its cause: a bad
FCS before all else, then an address that is not the mate's, then a frame without a SecTAG where PROTECT is 1 (the order is the
model's, log entry 69). A paired device sends HELLO. A HELLO that fits starts the session; one with the same role, or with a higher
PROMO_GEN than a primary's, does not and is recorded as ROLE; a MATE adopts the higher PROMO_GEN and starts no session by it. The
link's loss and the loss timeout end the session (R311 to R313, R324). -/
def Obligations.mirror_links_and_sessions : Prop :=
  ∀ (n : MPort) (s : State), coreUp s = true →
    let x := s.mir.ports[n]
    (mirMayLink s n = true → x.linkUp = false →
      exec (.mirPcsLock n) s = .next (fin (raise (modMir s n fun x => { x with linkUp := true, helloSent := none })
        (Reg.MIR_INT_STATUS n.val) 0))) ∧
    (x.linkUp = true →
      (∀ v : RxFrame,
        (∀ cause, frameCause s n v.env v.fcsOk v.headerOk = some cause →
          exec (.rxDiscard n v) s = .next (fin (discardFrame (fecSeen s n v.fec) n cause))) ∧
        (frameCause s n v.env v.fcsOk v.headerOk = none → exec (.rxDiscard n v) s = .next (fin s)) ∧
        (v.fcsOk = false → frameCause s n v.env v.fcsOk v.headerOk = some .fcs) ∧
        (v.fcsOk = true → v.env.etype ≠ 0x888E → v.env.etype ≠ 0x8808 → v.env.sa ≠ (txEnvelope s n).da →
          frameCause s n v.env v.fcsOk v.headerOk = some .address) ∧
        (v.fcsOk = true → v.env.etype ≠ 0x888E → v.env.etype ≠ 0x8808 → v.env.da = (txEnvelope s n).sa → v.env.sa = (txEnvelope s n).da →
          v.env.vlan = false → v.env.sec = none → macsecOn s n = true →
          frameCause s n v.env v.fcsOk v.headerOk = some .unprotected)) ∧
      (∀ cause : RxCause, (fwf s.hw = true → (hwGet (discardFrame s n cause) (Reg.MIR_RX_DISCARD n.val)).toNat =
          min ((hwGet s (Reg.MIR_RX_DISCARD n.val)).toNat + 1) 0xFFFFFFFF) ∧
        discardFrame s n cause = { s with hw := (discardFrame s n cause).hw }) ∧
      (∀ p, s.mir.pairId = some p → txReady s n = true → exec (.helloTimer n) s =
        .next (fin (sendNote (modMir s n fun x => { x with helloSent := some (retainedOf x) }) n (.hello (helloBody s n p))))) ∧
      (∀ (f : MirFrame) (b : HelloFrame), f.port = n →
        (frameFault s f true = none → exec (.hello f b) s = .next (fin (settle (helloIn (frameTaken s f) n b)))) ∧
        (∀ cause, frameFault s f true = some cause → exec (.hello f b) s = .next (fin (discardFrame (fecSeen s n f.fec) n cause)))) ∧
      exec (.mirLinkDown n) s = .next (fin (settle (endSession
        (raise (modMir s n fun x => { x with linkUp := false, helloSent := none }) (Reg.MIR_INT_STATUS n.val) 1) n)))) ∧
    (∀ b : HelloFrame,
      (s.mir.pairId ≠ some b.pairId → helloIn s n b = s) ∧
      (s.mir.pairId = some b.pairId → b.mate = s.mir.mate → helloIn s n b = mirErr s n 11) ∧
      (s.mir.pairId = some b.pairId → s.mir.mate = false → s.mir.promoGen.toNat < b.promoGen.toNat →
        helloIn s n b = mirErr s n 11) ∧
      (s.mir.pairId = some b.pairId → s.mir.mate = true → b.mate = false → s.mir.promoGen.toNat < b.promoGen.toNat →
        (helloIn s n b).mir.promoGen = b.promoGen ∧ ((helloIn s n b).mir.ports[n]).session = x.session) ∧
      (∀ retained, s.mir.pairId = some b.pairId → b.mate ≠ s.mir.mate → s.mir.promoGen = b.promoGen → x.helloSent = some retained →
        x.session = false →
        ((helloIn s n b).mir.ports[n]).session = true ∧
        ((helloIn s n b).mir.ports[n]).lastSession = some (s.mir.resets, b.session))) ∧
    exec (.sessionLossTimeout n) s = .next (fin (settle (endSession s n))) ∧
    ((endSession s n).mir.ports[n]).session = false

/-- Frames, records and acknowledgements. A frame is sent with the next packet number where PROTECT is 1, and not at all without a
SAK. An ACKSEQ that lies in what was sent frees the records before it and keeps the rest in order; a NAK sends the rest again, in
order, under the same numbers, before anything new. A record in sequence is taken, one already taken is passed over; at a gap, or
while a record waits to be admitted, the rest is discarded and asked for again (R312, R317 to R319). -/
def Obligations.mirror_records_and_acknowledgements : Prop :=
  ∀ (n : MPort) (a : BitVec 48) (s : State), inSession s n = true →
    let x := s.mir.ports[n]
    (∀ (seq : BitVec 48) (b : MirBody),
      (txReady s n = false → sendFrame s n seq b = s) ∧
      (macsecOn s n = true → txReady s n = true → sendFrame s n seq b =
        modMir (emit s (.frame n (txEnvelope s n) seq (ackSeqOf s n) b)) n fun x =>
          { x with txPn := fput x.txPn (txAn s n) (nextPn x.txPn (txAn s n) + 1) })) ∧
    (ackFits x a = false → takeAck s n a = s) ∧
    (ackFits x a = true → ((dropAcked s n a).mir.ports[n]).acked = a ∧
      ((dropAcked s n a).mir.ports[n]).out = x.out.filter fun t => !ackedBy a t) ∧
    (macsecOn s n = false → (resend s n).out =
      (x.out.filterMap fun t => t.seq.map fun q => Emit.frame n (txEnvelope s n) q (ackSeqOf s n) (.data [t.record])).reverse ++ s.out) ∧
    (∀ f : MirFrame, f.port = n → x.linkUp = true →
      let u := frameTaken s f
      (∀ refused : List (BitVec 9), frameFault s f (decide (refused.length ≤ 64)) = none → exec (.ack f a refused) s =
        .next (fin (settle (reachSync (takeAck (refused.foldl (fun s r => detach s n r.toNat) u) n a) n)))) ∧
      (frameFault s f true = none → ackFits x a = true → exec (.nak f a) s =
        .next (fin (settle (afterAck (resend (dropAcked u n a) n) n)))) ∧
      (∀ (seq : BitVec 48) (rs : List Record), frameFault s f (dataFits rs) = none →
        (∀ t, takeRecords (takeAck u n a) n seq rs = (none, t) → exec (.data f seq a rs) s = .next (fin (settle t))) ∧
        (∀ t, takeRecords (takeAck u n a) n seq rs = (some false, t) →
          exec (.data f seq a rs) s = .next (fin (settle (sendNote t n .nak)))) ∧
        (∀ t, takeRecords (takeAck u n a) n seq rs = (some true, t) →
          exec (.data f seq a rs) s = .next (fin (settle (sendNote (mirErr t n 9) n .nak)))))) ∧
    (∀ (r : Record) (rs : List Record),
      (s.glb.state.serves = true → recordWaits s n = false →
        let t := modMir s n fun x => { x with inbox := [(x.rxSeq, r)], rxSeq := x.rxSeq + 1 }
        takeRecords s n x.rxSeq (r :: rs) = takeRecords (if staged t then applyInbox 1 t n else t) n (x.rxSeq + 1) rs) ∧
      (recordWaits s n = true → takeRecords s n x.rxSeq (r :: rs) = (some false, s)) ∧
      (∀ seq : BitVec 48, seqBefore seq x.rxSeq = true → takeRecords s n seq (r :: rs) = takeRecords s n (seq + 1) rs) ∧
      (∀ seq : BitVec 48, seqBefore x.rxSeq seq = true → takeRecords s n seq (r :: rs) = (some true, s)))

/-- The two devices and their regions. (1) What the two devices tell each other of their regions, and the intent bitmap: the peer's
latest REGION_STATE body of 480 bytes is kept, another length is discarded as malformed; the bits asked for are set once they are
programmed, and a bit of an extent that owes the peer nothing is cleared, with a session or without; neither below −58 °C (R207,
R313, R314, R322). (2) Copies for the peer: REPAIR_REQ is answered sector by sector, and by a mate only while it is IN_SYNC;
SEED_REQ starts the seeds of the regions named that are MIRRORED and whole here; a catch-up and a seed read the next sector and send
its value, or POISON, on the port their region uses, and go over to the other port when the region does (R320, R323, R329, R331). -/
def Obligations.mirror_state_and_copies : Prop :=
  (∀ s : State, coreUp s = true →
     (∀ (f : MirFrame) (a : BitVec 48) (body : List Byte), inSession s f.port = true → (s.mir.ports[f.port]).linkUp = true →
       frameFault s f true = none →
       (body.length = 480 → exec (.regionState f (a, body)) s =
         .next (fin (settle (regionStateIn (frameTaken s f) f.port a body))) ∧
         regionStateIn s f.port a body = { takeAck s f.port a with mir := { (takeAck s f.port a).mir with peer := some body } }) ∧
       (body.length ≠ 480 → exec (.regionState f (a, body)) s =
         .next (fin (discardFrame (fecSeen s f.port f.fec) f.port .malformed)))) ∧
     (∀ n : MPort, inSession s n = true →
       exec (.regionStateTimer n) s = .next (fin (sendNote s n (.regionState (stateBody s))))) ∧
     (s.thm.coldHold = true → exec .intentBitmapProgramDone s = .next (fin s) ∧
       ∀ region extent, exec (.intentBitClear region extent) s = .next (fin s)) ∧
     (s.thm.coldHold = false →
       (∃ m, (let u := if s.mir.intentAsk.isEmpty then s else saveInner s .intent
           exec .intentBitmapProgramDone s = .next (fin (settle { u with mir := { u.mir with intent := m, intentAsk := [] } }))) ∧
         ∀ k, fhas m k = (fhas s.mir.intent k || s.mir.intentAsk.contains k)) ∧
       (∀ region extent : BitVec 9,
         let key := region.toNat * 512 + extent.toNat
         let u := saveInner s .intent
         fhas s.mir.intent key = true → owesExtent s 0 key = false → owesExtent s 1 key = false →
         (∀ x ∈ s.cmds, x.mateWait = true → intentKey (sectorOf x.addr) ≠ key) →
         exec (.intentBitClear region extent) s =
           .next (fin (settle { u with mir := { u.mir with intent := fdel s.mir.intent key } }))))) ∧
  (∀ (n : MPort) (s : State), inSession s n = true →
     let x := s.mir.ports[n]
     (∀ f : MirFrame, f.port = n → x.linkUp = true →
       (∀ (a : BitVec 48) (pas : List PA), frameFault s f (decide (pas.length ≤ 64)) = none →
         (takeAck (frameTaken s f) n a).glb.state.serves = true →
         exec (.repairReq f (a, pas)) s =
           .next (fin (settle (pas.foldl (fun s pa => supplyOne s n pa) (takeAck (frameTaken s f) n a))))) ∧
       (∀ (a : BitVec 48) (regions : List (BitVec 9)), frameFault s f (decide (regions.length ≤ 480)) = none →
         let t := takeAck (frameTaken s f) n a
         exec (.seedReq f (a, regions)) s = .next (fin (settle
           ((regions.filter fun r => (regionAt t r.toNat).mirrored && !(regionAt t r.toNat).lost).foldl
             (fun s r => askSeed s r.toNat (isMate s)) t))))) ∧
     (∀ pa : PA, s.mir.mate = true → x.inSync = false → supplyOne s n pa = s) ∧
     (∀ (out : ReadOutcome) (key : Nat) (rest : List Nat), x.catchup = key :: rest → mirrors s (key / 512) = true →
       (mirRegion s (key / 512)).detached = false → (regionAt s (key / 512)).lost = false →
       (∀ o, portFor s (key / 512) = o → o ≠ n →
         exec (.catchupSector n out) s = .next (fin (settle (reachSync (handExtent s n o key) n)))) ∧
       let lsa := regionBase (key / 512) + key % 512 * 16384 + x.catchAt
       (portFor s (key / 512) = n → mirRoom s n = true → mateReads s lsa = true →
         let t := mirSend (modMir (mateRead s lsa out).2 n fun x => { x with catchAt := x.catchAt + 1 }) n
           (match (mateRead s lsa out).1 with
             | some d => liveRecord .sector (paOf lsa) d
             | none => liveRecord .poison (paOf lsa) 0) none
         exec (.catchupSector n out) s = .next (fin (settle (if x.catchAt = 16383 then reachSync (skipExtent t n) n else t))))) ∧
     (∀ (out : ReadOutcome) (d : SeedOut), x.seed = some d → (regionAt s d.region.toNat).mirrored = true →
       (regionAt s d.region.toNat).lost = false →
       (∀ o, portFor s d.region.toNat = o → o ≠ n →
         exec (.seedSectorSend n out) s = .next (fin (settle (handSeed s n o d)))) ∧
       let lsa := regionBase d.region.toNat + d.next
       (portFor s d.region.toNat = n → mirRoom s n = true → mateReads s lsa = true →
         let t := mirSend (mateRead s lsa out).2 n (match (mateRead s lsa out).1 with
           | some v => seedRecord .sector d.rebuild (paOf lsa) v
           | none => seedRecord .poison d.rebuild (paOf lsa) 0) none
         (d.next + 1 < regionSectors → exec (.seedSectorSend n out) s =
           .next (fin (settle (modMir t n fun x => { x with seed := some { d with next := d.next + 1 } })))) ∧
         (regionSectors ≤ d.next + 1 → exec (.seedSectorSend n out) s =
           .next (fin (settle (mirSend (modMir t n fun x => { x with seed := none }) n
             (seedRecord .seedEnd d.rebuild (paOf (regionBase d.region.toNat)) 0) none)))))))

/-! ### The mailboxes (chapter 12)

A clause about a row speaks of c, the state in which its command has been captured: the request stands in the buffer and the mailbox is
BUSY; nothing else has changed. -/

/-- The exchange. (1) The exchange: GO at a mailbox that is not IDLE is one bad access; a command is captured whole, and waits while
the operating point moves, HS_OPP_SET apart; its checks of readiness, state and opcode come first; a request longer than the buffer
is BAD_LENGTH, a Firmware command while another runs is BUSY, one whose structure is lost in both its copies is INTERNAL (log entry
70; that these three come before the command's own checks is the model's choice, log entry 74); one that names an object of an
earlier command waits, and any other is performed at once (R227, R341, R342, R345, R346, R348, R416). (2) The end of a command: DONE
with its CODE, REASON and response, one more ticket, and every other mailbox as before; RELEASE makes the mailbox IDLE, and the
request stays in its buffer; ABORT stops a REGION_RECREATE or a CNT_CLEAR, begun or not, and nothing else (R279, R342, R344, R352).
-/
def Obligations.mailbox_exchange : Prop :=
  (∀ (i : Instr) (m : Mbx) (op : Nat) (req : List Byte) (irq flash : Bool) (s : State), mbxRow i = some (m, op, req, irq, flash) →
     coreUp s = true →
     let c := captured s m op req irq
     let keys := (op / 256 = 3 ∧ s.sealing.ready = false) ∨ (op / 256 = 1 ∧ s.lke.ready = false)
     let still := s.clk.move = none ∨ op = 0x0A03
     (s.mbx[m].state ≠ .idle → exec i s = .next (fin (badAccess s (Reg.MBX_CTRL m.val)))) ∧
     (s.mbx[m].state = .idle → req.length ≤ 4096 →
       mbxReq c m = req ∧ mbxOp c m = op ∧ c.mbx[m].state = .busy ∧
       (still → ∀ k, mbxGate c op = some k → exec i s = .next (fin (settle (mbxFinish c m k 0 [])))) ∧
       (¬ still → exec i s = .next (fin (settle c))) ∧
       (still → mbxGate c op = none → mbxBar c m = none → mbxBlocked c m = true → exec i s = .next (fin (settle c))) ∧
       (mbxStart i s = some c → exec i s = .next (fin (settle (mbxSettle m (mbxPerform c m flash))))) ∧
       (∀ k, k ≠ m → mbxBusy s.mbx[k] = true → isFwCommand (mbxOp s k) = true → isFwCommand op = true → mbxBar c m = some 7) ∧
       (∀ k, structureOf op = some k → structureLost s k = true → isFwCommand op = false → mbxBar c m = some 9)) ∧
     (s.mbx[m].state = .idle → still → ∀ k, mbxGate c op = none → mbxBar c m = some k →
       exec i s = .next (fin (settle (mbxFinish c m k 0 [])))) ∧
     (4096 < req.length → mbxBar c m = some 3) ∧
     (s.glb.mbx = false → mbxGate c op = some 5) ∧
     (s.glb.mbx = true →
       ((s.glb.state = .boot ∨ s.glb.state = .restore) → op ∉ readCommands → mbxGate c op = some 5) ∧
       (keys → mbxGate c op = some 5) ∧
       ((s.glb.state = .commit ∨ s.glb.state = .dump ∨ s.glb.state = .stopped) → op ∉ readCommands → ¬ keys → mbxGate c op = some 6) ∧
       ((s.glb.state = .fwdReady ∨ s.glb.state = .operational) → ¬ keys →
         mbxGate c op = if op ∈ catalogue then none else some 2))) ∧
  (∀ (m : Mbx) (s : State), coreUp s = true →
     let x := s.mbx[m]
     (∀ (code : BitVec 8) (reason : BitVec 16) (resp : List Byte),
       let y := (mbxFinish s m code.toNat reason.toNat resp).mbx[m]
       y.state = .done ∧ y.code = code ∧ y.reason = reason ∧ bufBytes y.rsp y.rspLen = resp ∧ y.ticket = x.ticket + 1 ∧ y.req = x.req ∧
       ∀ k, k ≠ m → (mbxFinish s m code.toNat reason.toNat resp).mbx[k] = s.mbx[k]) ∧
     (x.state = .done → exec (.mbxRelease m) s =
       .next (fin (modMbx s m fun x => { x with state := .idle, code := 0, reason := 0 }))) ∧
     (x.state ≠ .done → exec (.mbxRelease m) s = .next (fin (badAccess s (Reg.MBX_CTRL m.val)))) ∧
     (x.state ≠ .busy ∨ (x.opcode ≠ 0x0208 ∧ x.opcode ≠ 0x0012) → exec (.mbxAbort m) s = .next (fin (settle s))) ∧
     (x.state = .busy → x.waits = true →
       (x.opcode = 0x0208 → exec (.mbxAbort m) s = .next (fin (settle (mbxFinish s m 8 0 (leBytes 4 0))))) ∧
       (x.opcode = 0x0012 →
         exec (.mbxAbort m) s = .next (fin (settle (mbxFinish s m 8 0 (descriptor s (leAt (mbxReq s m) 0 2))))))) ∧
     (x.state = .busy → x.waits = false →
       (x.opcode = 0x0208 → ∀ first left cleared wait, clearOf s m = some (first, left, cleared, wait) →
         exec (.mbxAbort m) s = .next (fin (settle (endClear s m cleared true))) ∧
         (endClear s m cleared true).mbx[m].code = 8) ∧
       (x.opcode = 0x0012 →
         (∀ q ∈ s.med.reqs, ¬ (inRegion (leAt (mbxReq s m) 0 2) q.lsa.toNat = true ∧ q.purpose = .rebuild ∧ q.state ≠ .raised)) →
         exec (.mbxAbort m) s = .next (fin (settle (endRecreate s m (leAt (mbxReq s m) 0 2) true)))) ∧
       (x.opcode = 0x0012 → ∀ q ∈ s.med.reqs, inRegion (leAt (mbxReq s m) 0 2) q.lsa.toNat = true → q.purpose = .rebuild →
         q.state ≠ .raised → exec (.mbxAbort m) s = .next (fin (settle (modMbx s m fun x => { x with state := .aborting }))))))

/-- The lengths of the catalogue: a request that is not of the length its command has is BAD_LENGTH and changes nothing; every
command that is DONE at once has the response length that the catalogue gives (R346, R350). -/
def Obligations.mailbox_lengths : Prop :=
  (∀ (i : Instr) (m : Mbx) (op : Nat) (req : List Byte) (irq flash : Bool) (s c : State) (n : Nat),
    mbxRow i = some (m, op, req, irq, flash) → mbxStart i s = some c → requestLength op = some n → req.length ≠ n →
    MbxEnds i s c 3 0 []) ∧
  (∀ (s t : State) (m : Mbx) (flash : Bool) (resp : List Byte) (n : Nat), mbxPerform s m flash = (.fin 0 0 resp, t) →
    responseLength (mbxReq s m) (mbxOp s m) = some n → resp.length = n)

/-- The Device group: what the device tells of itself, the echo, region descriptors read and set, REGION_RECREATE, and FORCE_FAIL
with its refusals (R49, R51, R53, R350, R352, R353). -/
def Obligations.mailbox_device_group : Prop :=
  ∀ (m : Mbx) (req : List Byte) (irq : Bool) (s c : State),
    let r := leAt req 0 2
    (mbxStart (.devInfo m req irq) s = some c → req = [] → MbxDone (.devInfo m req irq) s c
      (leBytes 4 (hwGet c Reg.GLB_ID).toNat ++ leBytes 4 (hwGet c Reg.GLB_STEPPING).toNat ++
        leBytes 4 (hwGet c Reg.GLB_FW_VERSION).toNat ++ leBytes 4 (hwGet c Reg.GLB_CAPS).toNat ++ leBytes 8 Config.serial.toNat ++
        leBytes 1 ((c.fw.running.map (·.val)).getD 0) ++ leBytes 1 c.fw.trial.toNat ++
        leBytes 2 (bitsOf (hwGet c Reg.GLB_PROFILE) 0 16) ++ leBytes 4 c.glb.state.code)) ∧
    (mbxStart (.devEcho m req irq) s = some c → MbxDone (.devEcho m req irq) s c req) ∧
    (mbxStart (.regionGet m req irq) s = some c → req.length = 2 →
      (r < 480 → MbxDone (.regionGet m req irq) s c (descriptor c r)) ∧
      (480 ≤ r → MbxEnds (.regionGet m req irq) s c 4 0 [])) ∧
    (mbxStart (.regionSet m req irq) s = some c → req.length = 40 →
      (regionAsk req = none → MbxEnds (.regionSet m req irq) s c 4 0 []) ∧
      (∀ a, regionAsk req = some a →
        (∀ k, regionRefused c r a = some k → MbxRefused (.regionSet m req irq) s c k) ∧
        (regionRefused c r a = none →
          let t := saveInner (regionApply c r a) (.descriptor r)
          MbxDone (.regionSet m req irq) s t (descriptor t r)) ∧
        (fwf c.regions = true →
          let x := regionAt (regionApply c r a) r
          x.use = a.use ∧ x.mirrored = a.mirrored ∧ x.syncAck = a.syncAck ∧ x.rekeyLive = a.rekeyLive ∧ x.levelRate = a.levelRate ∧
          x.rights = a.rights ∧ x.slot = (regionAt c r).slot ∧ ∀ k, k ≠ r → regionAt (regionApply c r a) k = regionAt c k))) ∧
    (mbxStart (.regionRecreate m req irq) s = some c → req.length = 2 → r < 480 →
      let x := regionAt c r
      (x.lost = false → MbxRefused (.regionRecreate m req irq) s c 7) ∧
      (x.lost = true → (c.med.blanks[blankOf r]).hwOk = false → MbxRefused (.regionRecreate m req irq) s c 8) ∧
      (x.lost = true → (c.med.blanks[blankOf r]).hwOk = true →
        ((x.mirrored = true ∧ isMate c = true) ∨ x.rebuilding = true → MbxRefused (.regionRecreate m req irq) s c 9) ∧
        (x.rebuilding = false → (x.mirrored = false ∨ isMate c = false) →
          MbxRuns (.regionRecreate m req irq) s (askErase c r (.recreate m))))) ∧
    (mbxStart (.forceFail m req irq) s = some c → req.length = 2 →
      (∀ h : Mch, leAt req 0 1 = 0 → leAt req 1 1 = h.val →
        (h ∈ c.med.failed → MbxRefused (.forceFail m req irq) s c 10) ∧
        (h ∉ c.med.failed → c.glb.state ≠ .operational → MbxRefused (.forceFail m req irq) s c 11) ∧
        (h ∉ c.med.failed → c.glb.state = .operational → servedBy c h.val ≠ [] → replaceable c h.val = false →
          MbxRefused (.forceFail m req irq) s c 12) ∧
        (h ∉ c.med.failed → c.glb.state = .operational → (servedBy c h.val = [] ∨ replaceable c h.val = true) →
          MbxDone (.forceFail m req irq) s (mchFail c h 3) [])) ∧
      (∀ e : Engine, leAt req 0 1 = 1 → leAt req 1 1 = e.val → fhas c.lke.failed e.val = false → c.glb.state = .operational →
        c.lke.failed.length ≠ 15 → MbxDone (.forceFail m req irq) s (engineFail c e 2) []))

/-- The Tables group: a table or a profile is staged, changed or taken away in the staged version, with the refusals in their order;
a commit of a complete version begins; what was staged is discarded on TBL_ABORT; reads tell the current version (R232, R233, R239,
R247 to R250, R350, R351). -/
def Obligations.mailbox_tables_group : Prop :=
  ∀ (m : Mbx) (req : List Byte) (irq : Bool) (s c : State),
    let set := stagedSet c
    let n := leAt req 0 1
    (mbxStart (.tblCreate m req irq) s = some c → req.length = 40 → ∀ t, createdTable req = some t →
      (fhas set.tables n = true → MbxRefused (.tblCreate m req irq) s c 6) ∧
      (fhas set.tables n = false →
        (badRegions c t = true → MbxRefused (.tblCreate m req irq) s c 8) ∧
        (badRegions c t = false → noSpace c t = true → MbxRefused (.tblCreate m req irq) s c 7) ∧
        (badRegions c t = false → noSpace c t = false →
          MbxDone (.tblCreate m req irq) s (putStaged c
            { set with tables := fput set.tables n { t with room := roomFor c t } })
            (leBytes 4 (unitsUp (tierBytes t) 65536) ++ leBytes 4 (unitsUp (mediumBytes t) 1048576))))) ∧
    (mbxStart (.tblDelete m req irq) s = some c → req.length = 4 → zeroAt req 1 3 = true →
      (fhas set.tables n = true → MbxDone (.tblDelete m req irq) s (putStaged c { set with tables := fdel set.tables n }) []) ∧
      (fhas set.tables n = false → MbxRefused (.tblDelete m req irq) s c 1)) ∧
    (mbxStart (.tblUpdate m req irq) s = some c → req.length = 16 + 48 * leAt req 0 2 → leAt req 0 2 ≠ 0 → leAt req 0 2 ≤ 80 →
      leAt req 2 1 ≤ 1 → zeroAt req 3 13 = true → ∀ applied fail t,
      stageAll ((List.range (leAt req 0 2)).map fun k => slice req (16 + 48 * k) 48) c 0 = (applied, fail, t) →
      (fail ≠ 0 → MbxEnds (.tblUpdate m req irq) s t 1 fail (updateResp applied fail 0)) ∧
      (fail = 0 → leAt req 2 1 = 0 → MbxDone (.tblUpdate m req irq) s t (updateResp applied 0 0)) ∧
      (fail = 0 → leAt req 2 1 = 1 → namesMissing (stagedSet t) = false →
        MbxRuns (.tblUpdate m req irq) s (startTblCommit t m)) ∧
      (fail = 0 → leAt req 2 1 = 1 → namesMissing (stagedSet t) = true →
        MbxEnds (.tblUpdate m req irq) s t 1 10 (updateResp applied 0 0))) ∧
    (mbxStart (.tblCommit m req irq) s = some c → req = [] →
      (c.lke.staged = none → MbxDone (.tblCommit m req irq) s c (leBytes 4 c.lke.cur.version.toNat)) ∧
      (∀ t, c.lke.staged = some t →
        (namesMissing t = true → MbxRefused (.tblCommit m req irq) s c 10) ∧
        (namesMissing t = false → MbxRuns (.tblCommit m req irq) s (startTblCommit c m)))) ∧
    (mbxStart (.tblAbort m req irq) s = some c → req = [] → MbxDone (.tblAbort m req irq) s
      { c with lke := { c.lke with staged := none, records := 0, changed := [] } } (leBytes 4 c.lke.records)) ∧
    (mbxStart (.tblQuery m req irq) s = some c → req.length = 48 → n = 0 → zeroAt req 8 8 = true → ∀ t,
      fget c.lke.cur.tables (leAt req 1 1) = some t → recordFits t req = true →
      MbxDone (.tblQuery m req irq) s c (match t.entries.find? (sameEntry (recordEntry req)) with
        | some e => leBytes 8 e.action.toNat ++ leBytes 4 1
        | none => leBytes 12 0)) ∧
    (mbxStart (.tblInfo m req irq) s = some c → req.length = 4 → zeroAt req 1 3 = true →
      (fget c.lke.cur.tables n = none → MbxRefused (.tblInfo m req irq) s c 1) ∧
      (∀ t, fget c.lke.cur.tables n = some t → ∃ resp, MbxDone (.tblInfo m req irq) s c resp ∧
        leAt resp 0 1 = t.kind.code ∧ leAt resp 1 1 = t.medium.toNat ∧ leAt resp 2 1 = t.dual.toNat ∧
        (t.capacity < 2 ^ 32 → leAt resp 8 4 = t.capacity) ∧ (t.entries.length < 2 ^ 32 → leAt resp 12 4 = t.entries.length) ∧
        leAt resp 40 8 = t.defaultAction.toNat)) ∧
    (mbxStart (.profileSet m req irq) s = some c → req.length = 64 →
      let p := wordOf 512 req
      (profByte p 0 < 64 → profSteps p = 0 →
        MbxDone (.profileSet m req irq) s (putStaged c { set with profiles := fdel set.profiles (profByte p 0) }) []) ∧
      (profByte p 0 < 64 → profSteps p ≠ 0 → profSteps p ≤ 4 → profKeyLen p ≠ 0 → profKeyLen p ≤ 264 →
        (profileOk set p = false → MbxRefused (.profileSet m req irq) s c 9) ∧
        (profileOk set p = true →
          MbxDone (.profileSet m req irq) s (putStaged c { set with profiles := fput set.profiles (profByte p 0) p }) []))) ∧
    (mbxStart (.profileGet m req irq) s = some c → req.length = 4 → n < 64 → zeroAt req 1 3 = true →
      MbxDone (.profileGet m req irq) s c (match fget c.lke.cur.profiles n with
        | some p => bytesOf p 64
        | none => leBytes 1 n ++ leBytes 63 0))

/-- The Queues group: a BUFFER region gives or withholds chunks; a queue takes its configuration record, once its descriptor's
charge and region bits are there, and errors of its words are met first; a CNT_CLEAR begins in one COUNTER region that clears
nothing else; pool, queue and counters are told (R259, R261, R270, R271, R279, R350). -/
def Obligations.mailbox_queues_group : Prop :=
  ∀ (m : Mbx) (req : List Byte) (irq : Bool) (s c : State),
    (mbxStart (.poolSet m req irq) s = some c → req.length = 4 → leAt req 0 2 < 480 → leAt req 2 1 ≤ 1 → zeroAt req 3 1 = true →
      ((regionAt c (leAt req 0 2)).use = .buffer → MbxDone (.poolSet m req irq) s
        (modPool (saveInner c (.pool (leAt req 0 2))) (leAt req 0 2) fun p => { p with alloc := leAt req 2 1 == 1 }) []) ∧
      ((regionAt c (leAt req 0 2)).use ≠ .buffer → MbxRefused (.poolSet m req irq) s c 1)) ∧
    (mbxStart (.poolInfo m req irq) s = some c → req = [] → MbxDone (.poolInfo m req irq) s c
      (let rs := (c.regions.filter fun e => decide (e.2.use = .buffer)).map (·.1)
       leBytes 2 rs.length ++ leBytes 2 0 ++ rs.flatMap (poolBytes c))) ∧
    (mbxStart (.queueSet m req irq) s = some c → req.length = 16 → recordOk req = true →
      let q := leAt req 0 4
      ((queueAt c q).charged = true ∨ holdsGrant c (.queueSet m) = true ∨ mayReserve c 128 = true) → (descRegions c (queueAt c q)).all (c.krf.bitmap.contains ·) = true →
      let u := descCheck (ungrant c (.queueSet m)) q
      MbxDone (.queueSet m req irq) s (notePeak (setQueue u q req)) [] ∧
      (leAt req 4 1 = 1 → fwf c.dbq.queues = true → queueAt (notePeak (setQueue u q req)) q =
        { queueAt u q with
          enable := true, enqPorts := BitVec.ofNat 4 (leAt req 5 1 % 16), deqPorts := BitVec.ofNat 4 (leAt req 5 1 / 16)
          maxChunks := leAt req 8 4, charged := true })) ∧
    (mbxStart (.queueGet m req irq) s = some c → req.length = 4 → leAt req 0 4 < 131072 →
      let u := descCheck c (leAt req 0 4)
      MbxDone (.queueGet m req irq) s u
      (let v := queueAt u (leAt req 0 4)
       queueRecord (leAt req 0 4) v ++ bytesOf (qstatUnit v) 16 ++ leBytes 8 (queueBytes v))) ∧
    (mbxStart (.cntClear m req irq) s = some c → req.length = 16 → leAt req 0 8 < 2 ^ 40 → leAt req 0 8 % 256 = 0 →
      leAt req 8 4 ≠ 0 → leAt req 8 4 ≤ 8388608 → zeroAt req 12 4 = true →
      let first := leAt req 0 8 / 256
      let r := lsaRegion first
      (lsaRegion (first + leAt req 8 4 - 1) ≠ r ∨ (regionAt c r).use ≠ .counter → MbxRefused (.cntClear m req irq) s c 2) ∧
      (lsaRegion (first + leAt req 8 4 - 1) = r → (regionAt c r).use = .counter →
        (clearing c r = true → MbxRefused (.cntClear m req irq) s c 3) ∧
        (clearing c r = false → MbxRuns (.cntClear m req irq) s
          { c with cnt := { c.cnt with clears := c.cnt.clears ++ [(m, first, leAt req 8 4, 0, [])] } }))) ∧
    (mbxStart (.cntInfo m req irq) s = some c → req = [] → MbxDone (.cntInfo m req irq) s c
      (let rs := (c.regions.filter fun e => decide (e.2.use = .counter)).map (·.1)
       leBytes 1 rs.length ++ leBytes 3 0 ++ rs.flatMap (cntBytes c)))

/-- The Keys group: the device key, slots loaded from wrapped keys and zeroised, and the binding of regions; each change of what
persists is programmed in two copies (R227, log entry 66). At a bind the region gets a new nonce (free, log entry 2) and a MAJOR one
higher; a change is a live re-key or an erase; refusals keep their order (R293 to R297, R350). -/
def Obligations.mailbox_keys_group : Prop :=
  ∀ (m : Mbx) (req : List Byte) (irq : Bool) (s c : State),
    let r := leAt req 0 2
    let k := leAt req 2 1
    (mbxStart (.devkeyInstall m req irq) s = some c → req.length = 32 →
      (c.sealing.devKey = none → MbxDone (.devkeyInstall m req irq) s
        (modSeal (saveInner c .deviceKey) fun v => { v with devKey := some (wordOf 256 req) }) (leBytes 4 (kcv (wordOf 256 req)))) ∧
      (c.sealing.devKey.isSome = true → MbxRefused (.devkeyInstall m req irq) s c 2)) ∧
    (mbxStart (.devkeyZeroise m req irq) s = some c → req = [] →
      ((∀ e ∈ c.regions, e.2.slot = none) → MbxDone (.devkeyZeroise m req irq) s
        (modSeal ((fkeys c.sealing.keys).foldl (fun s k => saveInner s (.keySlot k)) (saveInner c .deviceKey))
          fun v => { v with devKey := none, keys := [] }) []) ∧
      ((∃ e ∈ c.regions, e.2.slot.isSome = true) → MbxRefused (.devkeyZeroise m req irq) s c 5)) ∧
    (mbxStart (.keyLoad m req irq) s = some c → req.length = 48 → leAt req 0 1 < 64 → zeroAt req 1 7 = true →
      (c.sealing.devKey = none → MbxRefused (.keyLoad m req irq) s c 1) ∧
      (∀ kek, c.sealing.devKey = some kek →
        (kwUnwrap kek (slice req 8 40) = none → MbxEnds (.keyLoad m req irq) s (unwrapFail c) 1 3 []) ∧
        (∀ key, kwUnwrap kek (slice req 8 40) = some key →
          (slotState c (leAt req 0 1) ≠ 0 → MbxRefused (.keyLoad m req irq) s c 4) ∧
          (slotState c (leAt req 0 1) = 0 → MbxDone (.keyLoad m req irq) s
            (hwSat (modSeal (saveInner c (.keySlot (leAt req 0 1))) fun v => { v with keys := fput v.keys (leAt req 0 1) key }) Reg.SEAL_KEY_LOADS 32 1)
            (leBytes 4 (kcv key)))))) ∧
    (mbxStart (.keyBind m req irq) s = some c → req.length = 4 → bindFields req = true →
      (bindable c k = false → MbxRefused (.keyBind m req irq) s c 4) ∧
      (bindable c k = true → ((regionAt c r).slot.isSome = true ∨ (regionAt c r).use ≠ .none) →
        MbxRefused (.keyBind m req irq) s c 5) ∧
      (bindable c k = true → (regionAt c r).slot = none → (regionAt c r).use = .none →
        (rekeyBusy c (some r) (some k) = true → MbxRefused (.keyBind m req irq) s c 6) ∧
        (rekeyBusy c (some r) (some k) = false → MbxDone (.keyBind m req irq) s (freeNext (setRegion (saveInner c (.descriptor r)) r
          { regionAt c r with nonce := (freeNow c).setWidth 32, major := (regionAt c r).major + 1, ceiling := 4096
                              dataMajor := (regionAt c r).major + 1, slot := some (slotNo k), poisoned := 0 })) []))) ∧
    (mbxStart (.keyChange m req irq) s = some c → req.length = 4 → bindFields req = true → bindable c k = true →
      (regionAt c r).slot.isSome = true → rekeyBusy c (some r) (some k) = false →
      ((regionAt c r).rekeyLive = true →
        (∀ u, freeUnit c = some u → forcedWaiting c = [] →
          MbxDone (.keyChange m req irq) s (startRekey c u r (slotNo k) false) []) ∧
        (freeUnit c = none ∨ forcedWaiting c ≠ [] → MbxRefused (.keyChange m req irq) s c 8)) ∧
      ((regionAt c r).rekeyLive = false →
        (eraseBlocked c r = true → MbxRefused (.keyChange m req irq) s c 7) ∧
        (eraseBlocked c r = false → MbxRuns (.keyChange m req irq) s (askErase c r (.change m (slotNo k)))))) ∧
    (mbxStart (.keyUnbind m req irq) s = some c → req.length = 4 → r < 480 → zeroAt req 2 2 = true →
      ((regionAt c r).slot = none ∨ (regionAt c r).use ≠ .none → MbxRefused (.keyUnbind m req irq) s c 5) ∧
      ((regionAt c r).slot.isSome = true → (regionAt c r).use = .none →
        (rekeyBusy c (some r) none = true → MbxRefused (.keyUnbind m req irq) s c 6) ∧
        (rekeyBusy c (some r) none = false → MbxRuns (.keyUnbind m req irq) s (askErase c r (.unbind m))))) ∧
    (mbxStart (.keyRetire m req irq) s = some c → req.length = 4 → leAt req 0 1 < 64 → zeroAt req 1 3 = true →
      let k := leAt req 0 1
      (bindable c k = false → MbxRefused (.keyRetire m req irq) s c 4) ∧
      (bindable c k = true → boundRegions c k = [] →
        MbxDone (.keyRetire m req irq) s (zeroiseSlot c k) (leBytes 4 0) ∧
          (fwf c.sealing.keys = true → fget (zeroiseSlot c k).sealing.keys k = none)) ∧
      (bindable c k = true → boundRegions c k ≠ [] → (∀ r ∈ boundRegions c k, (regionAt c r).use = .none) →
        rekeyBusy c none (some k) = false → MbxRuns (.keyRetire m req irq) s
          ((boundRegions c k).foldl (fun s r => askErase s r (.retire (some m) (slotNo k))) c))) ∧
    (mbxStart (.keyInfo m req irq) s = some c → req.length = 4 → zeroAt req 1 1 = true →
      (leAt req 0 1 = 1 → leAt req 2 2 < 64 → ∃ resp, MbxDone (.keyInfo m req irq) s c resp ∧
        leAt resp 0 1 = slotState c (leAt req 2 2) ∧
        leAt resp 1 3 = (match fget c.sealing.keys (leAt req 2 2) with | some key => kcv key | none => 0)) ∧
      (leAt req 0 1 = 0 → leAt req 2 2 < 480 → ∃ resp, MbxDone (.keyInfo m req irq) s c resp ∧
        leAt resp 0 1 = ((regionAt c (leAt req 2 2)).slot.map (·.val)).getD 0 ∧
        leAt resp 8 8 = (regionAt c (leAt req 2 2)).major.toNat))

/-- The Parameter store group: a record slot is read and written under its passwords, eight failures lock it, 100,000 writes wear
it, and a write goes to the copy not in force with the next number; areas that Ulward writes are refused; a monotonic counter only
rises (R362, R364 to R366, R368 to R372). -/
def Obligations.mailbox_store_group : Prop :=
  ∀ (m : Mbx) (req : List Byte) (irq : Bool) (s c : State),
    let area := leAt req 0 1
    let k := leAt req 1 1
    let v := pstSlotAt c k
    let n := leAt req 4 2
    (mbxStart (.pstInfo m req irq) s = some c → req = [] → ∃ resp, MbxDone (.pstInfo m req irq) s c resp ∧
      ∀ j, j < 32 → leAt resp (8 * j) 1 = (if (pstSlotAt c j).locked then 3 else if (pstSlotAt c j).worn then 2
        else if (pstSlotAt c j).record.isSome then 1 else 0)) ∧
    (mbxStart (.pstRead m req irq) s = some c → req.length = 24 → pstHeaderOk req = true → n ≠ 0 → n ≤ 4096 → ∀ content,
      pstContent c area k = some content →
      (content.length < leAt req 2 2 + n → MbxEnds (.pstRead m req irq) s c 4 0 []) ∧
      (leAt req 2 2 + n ≤ content.length →
        (area = 3 → v.locked = true → MbxRefused (.pstRead m req irq) s c 2) ∧
        (area = 3 → v.locked = false → pwMatches v k 0 (leAt req 8 16) true = false →
          MbxEnds (.pstRead m req irq) s (pwFailure c k 0) 1 1 []) ∧
        (area ≠ 3 ∨ (v.locked = false ∧ pwMatches v k 0 (leAt req 8 16) true = true) →
          MbxDone (.pstRead m req irq) s c ((content.drop (leAt req 2 2)).take n)))) ∧
    (mbxStart (.pstRead m req irq) s = some c → req.length = 24 → pstHeaderOk req = true → n ≠ 0 → n ≤ 4096 →
      pstContent c area k = none →
      (pstCapacity area < leAt req 2 2 + n → MbxEnds (.pstRead m req irq) s c 4 0 []) ∧
      (leAt req 2 2 + n ≤ pstCapacity area → area ≠ 3 → MbxRefused (.pstRead m req irq) s c 4)) ∧
    (mbxStart (.pstWrite m req irq) s = some c → req.length = 24 + n → 1 ≤ n → n ≤ 4072 → pstHeaderOk req = true →
      (area = 0 ∨ area = 2 → MbxRefused (.pstWrite m req irq) s c 5) ∧
      (area = 3 → leAt req 2 2 = 0 → n ≤ 2032 →
        (v.locked = true → MbxRefused (.pstWrite m req irq) s c 2) ∧
        (v.locked = false → pwMatches v k 1 (leAt req 8 16) true = false →
          MbxEnds (.pstWrite m req irq) s (pwFailure c k 1) 1 1 []) ∧
        (v.locked = false → pwMatches v k 1 (leAt req 8 16) true = true →
          (v.worn = true → MbxRefused (.pstWrite m req irq) s c 3) ∧
          (v.worn = false → ∃ t, MbxDone (.pstWrite m req irq) s t (leBytes 4 (writeCopy v.copy0 v.copy1 (req.drop 24)).2.2) ∧
            (fwf c.pst.slots = true → (pstSlotAt t k).record = some (req.drop 24) ∧
              (pstSlotAt t k).copy0 = (writeCopy v.copy0 v.copy1 (req.drop 24)).1 ∧
              (pstSlotAt t k).copy1 = (writeCopy v.copy0 v.copy1 (req.drop 24)).2.1 ∧
              (pstSlotAt t k).writes = v.writes + 1 ∧ ∀ j, j ≠ k → pstSlotAt t j = pstSlotAt c j))))) ∧
    (mbxStart (.pstPassword m req irq) s = some c → req.length = 40 → leAt req 0 1 < 32 → k ≤ 1 → zeroAt req 2 6 = true →
      let w := pstSlotAt c (leAt req 0 1)
      let old := leAt req 8 16
      (w.locked = true → MbxRefused (.pstPassword m req irq) s c 2) ∧
      (w.locked = false → pwMatches w (leAt req 0 1) k old (old == 0) = false →
        MbxEnds (.pstPassword m req irq) s (pwFailure c (leAt req 0 1) k) 1 1 []) ∧
      (w.locked = false → pwMatches w (leAt req 0 1) k old (old == 0) = true → w.worn = false → ∃ t,
        MbxDone (.pstPassword m req irq) s t [] ∧ (fwf c.pst.slots = true → (pstSlotAt t (leAt req 0 1)).pw k =
          if leAt req 24 16 = 0 then none else some (pwDigest (leAt req 0 1) k (leAt req 24 16))))) ∧
    (∀ (c0 c1 x : PstCopy) (i : Fin 2) (content : List Byte), inForce c0 c1 = some (i, x) →
      let w := writeCopy c0 c1 content
      w.2.2 = x.seq + 1 ∧ (i = 0 → w.1 = c0) ∧ (i ≠ 0 → w.2.1 = c1) ∧ (inForce w.1 w.2.1).map (·.2.content) = some content) ∧
    (mbxStart (.pstCtrRead m req irq) s = some c → req.length = 4 → leAt req 0 1 < 16 → zeroAt req 1 3 = true →
      MbxDone (.pstCtrRead m req irq) s c (leBytes 8 (pstCtrAt c (leAt req 0 1)).value)) ∧
    (mbxStart (.pstCtrInc m req irq) s = some c → req.length = 16 → leAt req 0 1 < 16 → zeroAt req 1 7 = true → leAt req 8 8 ≠ 0 →
      let x := pstCtrAt c (leAt req 0 1)
      (pstWrites ≤ x.incs → MbxRefused (.pstCtrInc m req irq) s c 3) ∧
      (x.incs < pstWrites →
        (2 ^ 64 ≤ x.value + leAt req 8 8 → MbxRefused (.pstCtrInc m req irq) s c 8) ∧
        (x.value + leAt req 8 8 < 2 ^ 64 → ∃ t, MbxDone (.pstCtrInc m req irq) s t (leBytes 8 (x.value + leAt req 8 8)) ∧
          (fwf c.pst.ctrs = true → (pstCtrAt t (leAt req 0 1)).value = x.value + leAt req 8 8 ∧
            (pstCtrAt t (leAt req 0 1)).incs = x.incs + 1))))

/-- The Events and Dump groups: a freeze holds what reads see, until a thaw; entries are read while they are there; a clear needs
slot 31's write password; a code's rate limit is set and told; the oldest dump is told, read and released (R391 to R396, R404,
R350). -/
def Obligations.mailbox_events_and_dump_groups : Prop :=
  ∀ (m : Mbx) (req : List Byte) (irq : Bool) (s c : State),
    let code := leAt req 0 2
    (mbxStart (.evtFreeze m req irq) s = some c → req = [] →
      (c.evr.frozen = true →
        MbxDone (.evtFreeze m req irq) s c (bytesOf c.evr.frozenAt.1 4 ++ leBytes 4 c.evr.frozenAt.2)) ∧
      (c.evr.frozen = false → ∃ t, t.evr.frozen = true ∧ t.evr.range = (c.evr.newest, c.evr.held) ∧ t = { c with evr := t.evr } ∧
        MbxDone (.evtFreeze m req irq) s t (bytesOf c.evr.newest 4 ++ leBytes 4 c.evr.held))) ∧
    (mbxStart (.evtThaw m req irq) s = some c → req = [] →
      MbxDone (.evtThaw m req irq) s (endFreeze c false) [] ∧ (endFreeze c false).evr.frozen = false) ∧
    (mbxStart (.evtRead m req irq) s = some c → req.length = 8 → leAt req 4 4 ≠ 0 → leAt req 4 4 ≤ 127 →
      let start := BitVec.ofNat 32 (leAt req 0 4)
      let behind := (c.evr.range.1 - start).toNat
      (c.evr.range.2 ≤ behind ∨ behind + 1 < leAt req 4 4 → MbxRefused (.evtRead m req irq) s c 1) ∧
      (behind < c.evr.range.2 → leAt req 4 4 ≤ behind + 1 → MbxDone (.evtRead m req irq) s
        (loadItems c ((((List.range (leAt req 4 4)).map fun k => (start + BitVec.ofNat 32 k).toNat % 8192 / 8).eraseDups).map .ring))
        ((List.range (leAt req 4 4)).flatMap fun k => match c.evr.find (start + BitVec.ofNat 32 k) with
          | some x => entryBytes x
          | none => absentBytes (start + BitVec.ofNat 32 k)))) ∧
    (mbxStart (.evtClear m req irq) s = some c → req.length = 24 → zeroAt req 0 8 = true →
      let v := pstSlotAt c 31
      (v.locked = true → MbxEnds (.evtClear m req irq) s (clearDenied c 4).2 1 4 []) ∧
      (v.locked = false → v.writePw = none → MbxEnds (.evtClear m req irq) s (clearDenied c 3).2 1 3 []) ∧
      (v.locked = false → v.writePw.isSome = true →
        (pwMatches v 31 1 (leAt req 8 16) false = false →
          MbxEnds (.evtClear m req irq) s (clearDenied (pwFailure c 31 1) 2).2 1 2 []) ∧
        (pwMatches v 31 1 (leAt req 8 16) false = true →
          (c.evr.frozen = true → MbxRefused (.evtClear m req irq) s c 5) ∧
          (c.evr.frozen = false → MbxDone (.evtClear m req irq) s (clearRing c) [] ∧ (clearRing c).evr.ring = [])))) ∧
    (mbxStart (.evtLimitSet m req irq) s = some c → req.length = 16 → zeroAt req 2 2 = true →
      (leAt req 4 4 = 0 ∨ (1000 ≤ leAt req 8 8 ∧ leAt req 8 8 ≤ 1000000000000)) →
      (evtSev code = none → MbxRefused (.evtLimitSet m req irq) s c 6) ∧
      (∀ sev, evtSev code = some sev → ∃ t, MbxDone (.evtLimitSet m req irq) s t [] ∧ (fwf c.evr.limits = true →
        fget t.evr.limits code = if leAt req 4 4 = 0 then none else some (leAt req 4 4, leAt req 8 8)))) ∧
    (mbxStart (.evtLimitGet m req irq) s = some c → req.length = 4 → zeroAt req 2 2 = true → (evtSev code).isSome = true →
      ∀ limit window, fget c.evr.limits code = some (limit, window) →
      MbxDone (.evtLimitGet m req irq) s c (leBytes 2 code ++ leBytes 2 0 ++ leBytes 4 limit ++ leBytes 8 window)) ∧
    (mbxStart (.dumpInfo m req irq) s = some c → req = [] →
      (c.dumps.held = [] → MbxDone (.dumpInfo m req irq) s c (leBytes 32 0)) ∧
      (∀ d rest, c.dumps.held = d :: rest → ∃ resp, MbxDone (.dumpInfo m req irq) s c resp ∧
        leAt resp 0 1 = 1 ∧ leAt resp 8 8 = d.time.toNat ∧ leAt resp 16 8 = d.gen.toNat)) ∧
    (mbxStart (.dumpRead m req irq) s = some c → req.length = 16 → leAt req 0 8 % 8 = 0 → leAt req 8 4 % 8 = 0 → leAt req 8 4 ≠ 0 →
      leAt req 8 4 ≤ 4096 → zeroAt req 12 4 = true →
      (c.dumps.held = [] → MbxRefused (.dumpRead m req irq) s c 1) ∧
      (∀ d rest, c.dumps.held = d :: rest →
        (d.size < leAt req 0 8 + leAt req 8 4 → MbxRefused (.dumpRead m req irq) s c 2) ∧
        (leAt req 0 8 + leAt req 8 4 ≤ d.size → MbxDone (.dumpRead m req irq) s (loadDump c d (leAt req 0 8) (leAt req 8 4))
          ((List.range (leAt req 8 4)).map fun k => dumpByte d (dumpHeader d) (leAt req 0 8 + k))))) ∧
    (mbxStart (.dumpRelease m req irq) s = some c → req = [] →
      (c.dumps.held = [] → MbxRefused (.dumpRelease m req irq) s c 1) ∧
      (∀ d rest, c.dumps.held = d :: rest →
        let u := saveInner c (dumpItem d 0)
        u.dumps = c.dumps ∧ MbxDone (.dumpRelease m req irq) s { u with dumps := { u.dumps with held := rest } } []))

/-- The Mirror group: a pair is made, ended or promoted only as its regions and role allow; MACsec associations of a port are
loaded, their packet numbers starting afresh (log entry 69), and cleared unless transmission uses them; a region's mirroring is
told, and its seed asked for (R308, R312, R331, R332, R350). -/
def Obligations.mailbox_mirror_group : Prop :=
  ∀ (m : Mbx) (req : List Byte) (irq : Bool) (s c : State),
    let n := leAt req 0 1
    let an := leAt req 1 1
    let r := leAt req 0 2
    let unpaired := c.mir.pairId = none
    let leftBy := fun t : State =>
      t = { c with mir := t.mir, cmds := t.cmds, med := { c.med with reqs := t.med.reqs },
                   sealing := { c.sealing with erasing := t.sealing.erasing } } ∧
      t.cmds = c.cmds.filter (fun x => match x.origin with | .mate _ _ _ _ => false | .stream _ _ => true) ∧
      t.sealing.erasing = c.sealing.erasing.filter fun j => match j.why with | .mate _ _ => false | _ => true
    (mbxStart (.mirPair m req irq) s = some c → req.length = 8 → leAt req 4 1 ≤ 1 → zeroAt req 5 3 = true →
      (anyMirrored c = true → MbxRefused (.mirPair m req irq) s c 2) ∧
      (anyMirrored c = false → ∃ t, MbxDone (.mirPair m req irq) s t [] ∧ t.mir.pairId = some (BitVec.ofNat 32 (leAt req 0 4)) ∧
        t.mir.mate = (leAt req 4 1 == 1) ∧ t.mir.peer = none ∧ leftBy t)) ∧
    (mbxStart (.mirUnpair m req irq) s = some c → req = [] →
      (unpaired → MbxRefused (.mirUnpair m req irq) s c 1) ∧
      (¬ unpaired → anyMirrored c = true → MbxRefused (.mirUnpair m req irq) s c 2) ∧
      (¬ unpaired → anyMirrored c = false → ∃ t, MbxDone (.mirUnpair m req irq) s t [] ∧ t.mir.pairId = none ∧
        leftBy t)) ∧
    (mbxStart (.mirPromote m req irq) s = some c → req = [] →
      (unpaired → MbxRefused (.mirPromote m req irq) s c 1) ∧
      (¬ unpaired → c.mir.mate = false → MbxRefused (.mirPromote m req irq) s c 3) ∧
      (¬ unpaired → c.mir.mate = true → ∃ t, MbxDone (.mirPromote m req irq) s t (bytesOf (c.mir.promoGen + 1) 2 ++ leBytes 2 0) ∧
        t.mir.mate = false ∧ t.mir.promoGen = c.mir.promoGen + 1 ∧ leftBy t)) ∧
    (mbxStart (.mirSak m req irq) s = some c → req.length = 64 → n ≤ 1 → an ≤ 3 → zeroAt req 2 2 = true → zeroAt req 20 4 = true →
      (unpaired → MbxRefused (.mirSak m req irq) s c 1) ∧
      (¬ unpaired → c.sealing.devKey = none → MbxRefused (.mirSak m req irq) s c 6) ∧
      (∀ kek, ¬ unpaired → c.sealing.devKey = some kek →
        (anInUse c n an = true → MbxRefused (.mirSak m req irq) s c 7) ∧
        (anInUse c n an = false →
          (kwUnwrap kek (slice req 24 40) = none → MbxEnds (.mirSak m req irq) s (unwrapFail c) 1 5 []) ∧
          (∀ key, kwUnwrap kek (slice req 24 40) = some key →
            let sa : Sa := ⟨key, BitVec.ofNat 32 (beAt req 4 4), BitVec.ofNat 96 (beAt req 8 12)⟩
            MbxDone (.mirSak m req irq) s (modMir c (mirPort n) fun x => { x with
              rxSa := fput x.rxSa an sa, txSa := fput x.txSa an sa, rxPn := fdel x.rxPn an, txPn := fdel x.txPn an }) (leBytes 4 (kcv key)))))) ∧
    (mbxStart (.mirSakClear m req irq) s = some c → req.length = 4 → n ≤ 1 → an ≤ 3 → zeroAt req 2 2 = true → ¬ unpaired →
      (anInUse c n an = true → MbxRefused (.mirSakClear m req irq) s c 7) ∧
      (anInUse c n an = false → MbxDone (.mirSakClear m req irq) s (modMir c (mirPort n) fun x => { x with
        rxSa := fdel x.rxSa an, txSa := fdel x.txSa an }) [])) ∧
    (mbxStart (.mirInfo m req irq) s = some c → req.length = 4 → r < 480 → zeroAt req 2 2 = true →
      (unpaired → MbxRefused (.mirInfo m req irq) s c 1) ∧
      (¬ unpaired → ∃ resp, MbxDone (.mirInfo m req irq) s (freeNext c) resp ∧
        leAt resp 1 1 = (if (c.mir.ports[portFor c r]).session then (portFor c r).val else 255) ∧
        ((regionAt c r).mirrored = false → leAt resp 0 1 = 0) ∧
        ((regionAt c r).mirrored = true → (mirRegion c r).detached = true → leAt resp 0 1 = 4))) ∧
    (mbxStart (.mirReseed m req irq) s = some c → req.length = 4 → r < 480 → zeroAt req 2 2 = true →
      (unpaired → MbxRefused (.mirReseed m req irq) s c 1) ∧
      (¬ unpaired → c.mir.mate = true → MbxRefused (.mirReseed m req irq) s c 3) ∧
      (¬ unpaired → c.mir.mate = false → (regionAt c r).mirrored = false → MbxRefused (.mirReseed m req irq) s c 4) ∧
      (¬ unpaired → c.mir.mate = false → (regionAt c r).mirrored = true → MbxDone (.mirReseed m req irq) s (askSeed c r false) []))

/-- The Firmware group: an image is staged in order into the slot that does not run, checked before it may be booted, confirmed,
rolled back from and copied to the flash, each refused as R354 to R357 say; the device floor rises only with a confirmed image. From
the first erase of a copy to the flash until its verification has ended the SPI image reads INVALID (R349, R357); the time that it
takes is free. -/
def Obligations.mailbox_firmware_group : Prop :=
  ∀ (m : Mbx) (req : List Byte) (irq : Bool) (s c : State),
    let k := fwInternal (stagingSlot c)
    let v := c.fw.slots[k]
    (mbxStart (.fwInfo m req irq) s = some c → req = [] → ∃ resp, MbxDone (.fwInfo m req irq) s c resp ∧
      (∀ j : Fin 3, leAt resp (16 * j.val) 1 = (c.fw.slots[j]).state.code ∧
        leAt resp (16 * j.val + 4) 4 = (c.fw.slots[j]).version.toNat % 2 ^ 32) ∧ leAt resp 48 2 = c.fw.floor.toNat) ∧
    (mbxStart (.fwWrite m req irq) s = some c → 17 ≤ req.length → req.length = 16 + leAt req 4 4 → req.length ≤ 4080 →
      leAt req 8 1 ≤ 1 → zeroAt req 9 7 = true →
      let held := if leAt req 8 1 = 1 then [] else v.bytes
      (trialRuns c = true → MbxRefused (.fwWrite m req irq) s c 6) ∧
      (trialRuns c = false →
        (leAt req 0 4 ≠ held.length ∨ (leAt req 8 1 = 0 ∧ v.state ≠ .staging) → MbxRefused (.fwWrite m req irq) s c 1) ∧
        (leAt req 0 4 = held.length → (leAt req 8 1 = 1 ∨ v.state = .staging) →
          (fwMax < leAt req 0 4 + leAt req 4 4 → MbxRefused (.fwWrite m req irq) s c 2) ∧
          (leAt req 0 4 + leAt req 4 4 ≤ fwMax →
            let bytes := held ++ req.drop 16
            MbxDone (.fwWrite m req irq) s (modFwSlot c k fun _ =>
              { state := .staging, bytes := bytes, version := 0, length := bytes.length, floor := 0 })
              (leBytes 4 bytes.length))))) ∧
    (mbxStart (.fwActivate m req irq) s = some c → req.length = 4 → fwFlags req = true →
      (v.state ≠ .staging → MbxRefused (.fwActivate m req irq) s c 9) ∧
      (v.state = .staging →
        (∀ reason, fwCheck c v.bytes = some reason →
          MbxEnds (.fwActivate m req irq) s (modFwSlot c k fun v => { v with state := .invalid }) 1 reason []) ∧
        (fwCheck c v.bytes = none → ∃ t, MbxDone (.fwActivate m req irq) s t (leBytes 4 (Config.fwVersion v.bytes).toNat) ∧
          t = { saveImage (modFwSlot c k fun v =>
            { v with state := .trial, version := Config.fwVersion v.bytes, floor := Config.fwFloor v.bytes }) k with fw := t.fw } ∧ (t.fw.slots[k]).state = .trial ∧ t.fw.nextBoot = some (stagingSlot c) ∧
          t.fw.floor = c.fw.floor ∧ t.fw.resetNow = (c.fw.resetNow || leAt req 0 1 == 1)))) ∧
    (mbxStart (.fwConfirm m req irq) s = some c → req = [] →
      (trialRuns c = false → MbxRefused (.fwConfirm m req irq) s c 7) ∧
      (∀ j, c.fw.running = some j → trialRuns c = true → ∃ t, MbxDone (.fwConfirm m req irq) s t [] ∧
        (t.fw.slots[j]).state = .confirmed ∧ t.fw.trial = false ∧
        t.fw.floor.toNat = max c.fw.floor.toNat (c.fw.slots[j]).floor.toNat)) ∧
    (mbxStart (.fwRollback m req irq) s = some c → req.length = 4 → fwFlags req = true →
      (rollbackTo c = none → MbxRefused (.fwRollback m req irq) s c 8) ∧
      (∀ j, rollbackTo c = some j → ∃ t, MbxDone (.fwRollback m req irq) s t (leBytes 4 (c.fw.slots[fwInternal j]).version.toNat) ∧
        t.fw.nextBoot = some j ∧ (c.fw.slots[fwInternal j]).state = .confirmed ∧ t = { c with fw := t.fw })) ∧
    (∀ ok : Bool, mbxStart (.fwToSpi m req irq ok) s = some c → req = [] →
      (trialRuns c = true → MbxRefused (.fwToSpi m req irq ok) s c 6) ∧
      (trialRuns c = false → (c.fw.running = none ∨ c.fw.flash = none) → MbxRefused (.fwToSpi m req irq ok) s c 10) ∧
      (∀ j u, trialRuns c = false → c.fw.running = some j → c.fw.flash = some u → ∃ left,
        MbxRuns (.fwToSpi m req irq ok) s (freeNext (modFw (modFwSlot c 2 fun v => { v with state := .invalid }) fun w =>
          { w with copying := some { mbx := m, ok := ok, image := c.fw.slots[j], erases := unitsUp (c.fw.slots[j]).length u.eraseSize,
                                     pages := unitsUp (c.fw.slots[j]).length u.pageSize, left := left } })))) ∧
    (∀ j : SpiCopy, c.fw.copying = some j → j.left = 0 →
      (j.erases ≠ 0 ∨ j.pages ≠ 0 → ∃ e : SpiCopy, (spiTick c).fw = { c.fw with copying := some e } ∧ e.mbx = j.mbx ∧ e.ok = j.ok ∧
        e.image = j.image ∧ e.erases + e.pages + 1 = j.erases + j.pages) ∧
      (j.erases = 0 → j.pages = 0 →
        let u := modFw c fun w => { w with copying := none }
        (j.ok = true → spiTick c = mbxFinish (modFwSlot u 2 fun _ => j.image) j.mbx 0 0 []) ∧
        (j.ok = false → spiTick c = mbxFinish u j.mbx 1 10 [])))

/-- The Calibration and the Power and thermal groups, and an opcode outside the catalogue: a parameter's five values are told; a
user offset is stored, and the effective value is factory plus user, clamped; tolerances, the throttle threshold and the operating
point are set within their ranges (R346, R374 to R376, R415, R416, R418, R425). -/
def Obligations.mailbox_calibration_and_power_groups : Prop :=
  ∀ (m : Mbx) (req : List Byte) (irq : Bool) (s c : State),
    let param := leAt req 0 2
    let index := leAt req 2 2
    (mbxStart (.calGet m req irq) s = some c → req.length = 4 →
      (calKnown param index = true → MbxDone (.calGet m req irq) s c (calBytes c param index)) ∧
      (calKnown param index = false → MbxEnds (.calGet m req irq) s c 4 0 [])) ∧
    (mbxStart (.calSet m req irq) s = some c → req.length = 8 → calKnown param index = true →
      (pstWrites ≤ c.pst.user.writes → MbxRefused (.calSet m req irq) s c 1) ∧
      (c.pst.user.writes < pstWrites → ∃ t, MbxDone (.calSet m req irq) s t (calBytes t param index) ∧
        (fwf c.pst.offsets = true → userOffset t param index = (BitVec.ofNat 32 (leAt req 4 4)).toInt) ∧
        t.pst.user.writes = c.pst.user.writes + 1)) ∧
    (∀ lo hi size, calRange param = some (size, lo, hi) → ∀ user : Int, lo ≤ clampCal param index user ∧
      clampCal param index user ≤ hi ∧
      (let x := Config.factoryValue (param * 65536 + index) + user
       lo ≤ x → x ≤ hi → clampCal param index user = x)) ∧
    (mbxStart (.pwrInfo m req irq) s = some c → req = [] → MbxDone (.pwrInfo m req irq) s c
      (leBytes 1 c.pwr.cur.val ++ leBytes 1 c.thm.band ++ bytesOf (BitVec.ofInt 16 c.thm.temp) 2 ++ leBytes 2 c.thm.vdd ++
        leBytes 1 c.clk.opp.toNat ++ leBytes 1 0 ++ leBytes 4 c.thm.slowest.toNat ++ leBytes 4 0)) ∧
    (mbxStart (.pwrLtrSet m req irq) s = some c → req.length = 20 → ∃ t, MbxDone (.pwrLtrSet m req irq) s t [] ∧
      t.pwr.ltrG = BitVec.ofNat 32 (leAt req 0 4) ∧ (∀ p : HPort, t.pwr.ltrP[p] = BitVec.ofNat 32 (leAt req (4 + 4 * p.val) 4)) ∧
      t = { c with pwr := { c.pwr with ltrG := t.pwr.ltrG, ltrP := t.pwr.ltrP } }) ∧
    (mbxStart (.thmSet m req irq) s = some c → req.length = 4 → zeroAt req 2 2 = true →
      (param < 85 ∨ 115 < param → MbxEnds (.thmSet m req irq) s c 4 0 []) ∧
      (85 ≤ param → param ≤ 115 →
        (c.thm.crit = true → MbxRefused (.thmSet m req irq) s c 1) ∧
        (c.thm.crit = false → MbxDone (.thmSet m req irq) s { c with thm := { c.thm with threshold := param } } []))) ∧
    (mbxStart (.hsOppSet m req irq) s = some c → req.length = 4 → leAt req 0 1 ≤ 3 → zeroAt req 1 3 = true →
      (c.clk.move.isSome = true → MbxRefused (.hsOppSet m req irq) s c 2) ∧
      (c.clk.move = none → othersBusy c m = false →
        (c.clk.opp.toNat = leAt req 0 1 → MbxDone (.hsOppSet m req irq) s c []) ∧
        (c.clk.opp.toNat ≠ leAt req 0 1 → MbxRuns (.hsOppSet m req irq) s
          { c with clk := { c.clk with move := some { target := BitVec.ofNat 2 (leAt req 0 1), mbx := m } } }))) ∧
    (∀ opcode : BitVec 16, opcode.toNat ∉ catalogue → s.glb.mbx = true → s.glb.state.serves = true → s.sealing.ready = true →
      s.lke.ready = true → s.clk.move = none → coreUp s = true → s.mbx[m].state = .idle → MbxEnds (.mbxBadOpcode m opcode req irq) s
        (captured s m opcode.toNat req irq) 2 0 [])

/-! ### The recorder (chapter 14) -/

/-- Rate limits: within a window the first LIMIT events of a code are recorded and every later one is only counted as suppressed; an
event at or after the window's end opens the next one. A window never records more than LIMIT (R389, R390). -/
def Obligations.rate_limits : Prop :=
  ∀ (irq : Nat) (v : Evr) (hw : FMap Word64) (e : EvtEntry) (limit window : Nat),
    fget v.limits e.code.toNat = some (limit, window) → 0 < limit → 0 < window →
    let r := recLimited irq (v, hw) e
    (∀ w, fget v.windows e.code.toNat = some w → e.time.toNat < w.start + window →
      (limit ≤ w.recorded → r.1.front = v.front ∧ r.1.ring = v.ring ∧ r.1.nextIndex = v.nextIndex ∧
        fget r.1.windows e.code.toNat = some { w with suppressed := w.suppressed + 1 }) ∧
      (w.recorded < limit →
        fget r.1.windows e.code.toNat = some { w with recorded := w.recorded + 1 } ∧
        (v.frozen = false → r.1.nextIndex = v.nextIndex + 1))) ∧
    (∀ w, fget v.windows e.code.toNat = some w → w.start + window ≤ e.time.toNat →
      fget r.1.windows e.code.toNat = some ⟨e.time.toNat, 1, 0⟩ ∧
      (v.frozen = false → r.1.nextIndex = v.nextIndex + (if w.suppressed = 0 then 1 else 2))) ∧
    (∀ w x, fget v.windows e.code.toNat = some w → w.recorded ≤ limit →
      fget r.1.windows e.code.toNat = some x → x.recorded ≤ limit)

end
end

