-- ==== Sys2Proof/Laws/Maps.lean ====
section
/-! SUPPORT. Sparse maps: what a read gives after an update, and that every update keeps the canonical form. -/

namespace Sys2Proof.Machine

variable {α β : Type}

/-- Every key of a map is above a bound. -/
def above (k : Nat) : FMap α → Prop
  | [] => True
  | (j, _) :: _ => k < j

theorem fwf_cons {j : Nat} {v : α} {m : FMap α} : fwf ((j, v) :: m) = true ↔ above j m ∧ fwf m = true := by
  cases m with
  | nil => simp [fwf, above]
  | cons e m => obtain ⟨k, w⟩ := e; simp [fwf, above]

theorem fwf_above {j : Nat} {m : FMap α} (h : fwf m = true) (ha : above j m) : ∀ e ∈ m, j < e.1 := by
  induction m generalizing j with
  | nil => simp
  | cons e m ih =>
    obtain ⟨k, w⟩ := e
    rw [fwf_cons] at h
    intro e he
    rcases List.mem_cons.1 he with rfl | he
    · exact ha
    · exact Nat.lt_trans ha (ih h.2 h.1 e he)

theorem above_of {j : Nat} {m : FMap α} (h : ∀ e ∈ m, j < e.1) : above j m := by
  cases m with
  | nil => trivial
  | cons e m => obtain ⟨k, w⟩ := e; exact h (k, w) (by simp)

theorem fwf_filter {p : Nat × α → Bool} {m : FMap α} (h : fwf m = true) : fwf (m.filter p) = true := by
  induction m with
  | nil => rfl
  | cons e m ih =>
    obtain ⟨k, w⟩ := e
    have ha := fwf_above (fwf_cons.1 h).2 (fwf_cons.1 h).1
    have ih := ih (fwf_cons.1 h).2
    rw [List.filter_cons]
    split
    · exact fwf_cons.2 ⟨above_of fun e he => ha e (List.mem_filter.1 he).1, ih⟩
    · exact ih

theorem fwf_map {f : Nat × α → Nat × β} (hf : ∀ e, (f e).1 = e.1) {m : FMap α} (h : fwf m = true) : fwf (m.map f) = true := by
  induction m with
  | nil => rfl
  | cons e m ih =>
    have hc := fwf_cons.1 h
    have : f e = (e.1, (f e).2) := Prod.ext (hf e) rfl
    rw [List.map_cons, this]
    refine fwf_cons.2 ⟨above_of ?_, ih hc.2⟩
    intro x hx
    obtain ⟨y, hy, rfl⟩ := List.mem_map.1 hx
    rw [hf]
    exact fwf_above hc.2 hc.1 y hy

theorem fwf_fmapv {f : Nat → α → β} {m : FMap α} (h : fwf m = true) : fwf (fmapv f m) = true :=
  fwf_map (f := fun e => (e.1, f e.1 e.2)) (fun _ => rfl) h

theorem mem_fput {m : FMap α} {k : Nat} {v : α} {e : Nat × α} (h : e ∈ fput m k v) : e = (k, v) ∨ e ∈ m := by
  induction m with
  | nil => simp [fput] at h; exact .inl h
  | cons x m ih =>
    obtain ⟨j, w⟩ := x
    rw [fput] at h
    split at h
    · rcases List.mem_cons.1 h with rfl | h
      · exact .inl rfl
      · exact .inr (List.mem_cons_of_mem _ h)
    · split at h
      · rcases List.mem_cons.1 h with rfl | h
        · exact .inl rfl
        · exact .inr h
      · rcases List.mem_cons.1 h with rfl | h
        · exact .inr (by simp)
        · rcases ih h with h | h
          · exact .inl h
          · exact .inr (List.mem_cons_of_mem _ h)

theorem mem_fdel {m : FMap α} {k : Nat} {e : Nat × α} (h : e ∈ fdel m k) : e ∈ m := by
  induction m with
  | nil => simp [fdel] at h
  | cons x m ih =>
    obtain ⟨j, w⟩ := x
    rw [fdel] at h
    split at h
    · exact List.mem_cons_of_mem _ h
    · split at h
      · exact h
      · rcases List.mem_cons.1 h with rfl | h
        · simp
        · exact List.mem_cons_of_mem _ (ih h)

theorem fwf_fput {m : FMap α} {k : Nat} {v : α} (h : fwf m = true) : fwf (fput m k v) = true := by
  induction m with
  | nil => rfl
  | cons x m ih =>
    obtain ⟨j, w⟩ := x
    have hc := fwf_cons.1 h
    have ha := fwf_above hc.2 hc.1
    rw [fput]
    split
    · subst k; exact fwf_cons.2 ⟨hc.1, hc.2⟩
    · split
      · exact fwf_cons.2 ⟨by assumption, h⟩
      · refine fwf_cons.2 ⟨above_of fun e he => ?_, ih hc.2⟩
        rcases mem_fput he with rfl | h1
        · simp only; omega
        · exact ha e h1

theorem fwf_fdel {m : FMap α} {k : Nat} (h : fwf m = true) : fwf (fdel m k) = true := by
  induction m with
  | nil => rfl
  | cons x m ih =>
    obtain ⟨j, w⟩ := x
    have hc := fwf_cons.1 h
    rw [fdel]
    split
    · exact hc.2
    · split
      · exact h
      · exact fwf_cons.2 ⟨above_of fun e he => fwf_above hc.2 hc.1 e (mem_fdel he), ih hc.2⟩

theorem fwf_foldl {γ : Type} {f : FMap α → γ → FMap α} (hf : ∀ m a, fwf m = true → fwf (f m a) = true) {l : List γ} {m : FMap α}
    (h : fwf m = true) : fwf (l.foldl f m) = true := by
  induction l generalizing m with
  | nil => exact h
  | cons a l ih => exact ih (hf m a h)

theorem fwf_fputD [DecidableEq α] {m : FMap α} {k : Nat} {d v : α} (h : fwf m = true) : fwf (fputD m k d v) = true := by
  rw [fputD]; split
  · exact fwf_fdel h
  · exact fwf_fput h

theorem fget_none {m : FMap α} {k : Nat} (h : ∀ e ∈ m, k < e.1) : fget m k = none := by
  cases m with
  | nil => rfl
  | cons x m =>
    obtain ⟨j, w⟩ := x
    have := h (j, w) (by simp)
    simp only at this
    rw [fget, if_neg (by omega), if_pos this]

/-- A read after a write to the same key gives the value written. -/
theorem fget_fput_self (m : FMap α) (k : Nat) (v : α) : fget (fput m k v) k = some v := by
  induction m with
  | nil => simp [fput, fget]
  | cons x m ih =>
    obtain ⟨j, w⟩ := x
    rw [fput]
    split
    · simp [fget]
    · split
      · simp [fget]
      · rw [fget, if_neg (by assumption), if_neg (by assumption), ih]

/-- A write leaves every other key alone. -/
theorem fget_fput_ne (m : FMap α) {k i : Nat} (v : α) (h : i ≠ k) : fget (fput m k v) i = fget m i := by
  induction m with
  | nil => simp [fput, fget, h]
  | cons x m ih =>
    obtain ⟨j, w⟩ := x
    rw [fput]
    split
    · subst k; simp [fget, h]
    · rename_i hj
      split
      · rename_i hl
        by_cases h1 : i < k
        · simp only [fget]
          rw [if_neg h, if_pos h1, if_neg (by omega), if_pos (by omega)]
        · simp only [fget]
          rw [if_neg h, if_neg h1]
      · simp only [fget, ih]

/-- A key that was taken out is not listed. -/
theorem fget_fdel_self {m : FMap α} (h : fwf m = true) (k : Nat) : fget (fdel m k) k = none := by
  induction m with
  | nil => rfl
  | cons x m ih =>
    obtain ⟨j, w⟩ := x
    have hc := fwf_cons.1 h
    rw [fdel]
    split
    · subst k; exact fget_none (fwf_above hc.2 hc.1)
    · split
      · rw [fget, if_neg (by assumption), if_pos (by assumption)]
      · rw [fget, if_neg (by assumption), if_neg (by assumption), ih hc.2]

/-- Taking a key out leaves every other key alone. -/
theorem fget_fdel_ne {m : FMap α} (h : fwf m = true) {k i : Nat} (hi : i ≠ k) : fget (fdel m k) i = fget m i := by
  induction m with
  | nil => rfl
  | cons x m ih =>
    obtain ⟨j, w⟩ := x
    have hc := fwf_cons.1 h
    rw [fdel]
    split
    · subst k
      by_cases h1 : i < j
      · rw [fget, if_neg hi, if_pos h1]
        exact fget_none fun e he => Nat.lt_trans h1 (fwf_above hc.2 hc.1 e he)
      · rw [fget, if_neg hi, if_neg h1]
    · split
      · rfl
      · simp only [fget, ih hc.2]

/-- A read of a map with a default after a write to the same key. -/
theorem fgetD_fputD_self [DecidableEq α] {m : FMap α} (h : fwf m = true) (k : Nat) (d v : α) : fgetD (fputD m k d v) k d = v := by
  rw [fgetD, fputD]; split
  · rw [fget_fdel_self h]; simp [*]
  · rw [fget_fput_self]; rfl

/-- A write to a map with a default leaves every other key alone. -/
theorem fgetD_fputD_ne [DecidableEq α] {m : FMap α} (h : fwf m = true) {k i : Nat} (d d' v : α) (hi : i ≠ k) :
    fgetD (fputD m k d v) i d' = fgetD m i d' := by
  rw [fgetD, fgetD, fputD]; split
  · rw [fget_fdel_ne h hi]
  · rw [fget_fput_ne m v hi]

end Sys2Proof.Machine
end

