-- ==== Sys2Proof/Laws/Calm.lean ====
section
/-! SUPPORT. What follows an effect in a calm state: nothing but the calendars (`settle_calm`), and what a command does that a calm state
takes (`settle_one`). -/

namespace Sys2Proof.Machine

/-- The calendars change only the ports and the registers that follow them. -/
theorem calAll_frame (s : State) : calAll s = { s with ports := (calAll s).ports, hw := (calAll s).hw } := rfl

theorem calAll_cmds (s : State) : (calAll s).cmds = s.cmds := rfl

theorem calm_calAll (s : State) : calm (calAll s) = calm s := rfl

theorem calm_coreUp {s : State} (h : calm s = true) : coreUp s = true := by
  simp only [calm, Bool.and_eq_true] at h
  exact h.1.1.1.1.1.1.1.1.1.1.1.1.1.1.1.1.1.1.1

/-- A command at rest goes on by nothing. -/
theorem advance_rests (s : State) (id : Nat) (h : ∀ x ∈ s.cmds, stageRests x.stage = true) : advance s id = s := by
  unfold advance
  cases hx : cmdAt s id with
  | none => rfl
  | some x =>
    have hm : x ∈ s.cmds := List.mem_of_find?_eq_some hx
    have := h x hm
    cases hg : x.stage <;> simp_all [stageRests]

theorem advanceAll_rests (s : State) (h : ∀ x ∈ s.cmds, stageRests x.stage = true) : advanceAll s = s := by
  unfold advanceAll
  generalize s.cmds.map (·.id) = l
  induction l with
  | nil => rfl
  | cons a l ih => rw [List.foldl_cons, advance_rests s a h, ih]

/-- The facts of a calm state, one by one. -/
structure CalmFacts (s : State) : Prop where
  up      : coreUp s = true
  pair    : s.mir.pairId.isNone = true
  lost    : s.mir.lost = false
  session : anySession s = false
  cmds    : ∀ x ∈ s.cmds, stageRests x.stage = true ∧ persistWaits x = false ∧ lkupWaits x = false
  writes  : s.lke.writes = []
  fold    : cfgBit s Reg.CNT_CTRL 0 = false
  lag     : s.cnt.lagging = decide (cfgFld s Reg.CNT_CFG 16 14 ≤ oldestMs s)
  flush   : cfgBit s Reg.KRF_CTRL 0 = false
  erase   : s.sealing.erasing = []
  inbox   : ∀ n : MPort, s.mir.ports[n].inbox = []
  mbx     : ∀ m : Mbx, s.mbx[m].state = .busy → s.mbx[m].waits = false
  create  : ∀ m : Mbx, mbxBusy s.mbx[m] = true → s.mbx[m].opcode.toNat ≠ 0x0012
  dump    : s.dumps.trigger = none
  line    : s.krf.waiters = []
  granted : s.krf.granted = []
  bit     : queueBitRests s = true
  low     : s.dbq.low = decide (poolFree s < cfgFld s Reg.DBQ_POOL_LOW 0 27)
  sweep   : s.dbq.sweeping = false
  moves   : s.med.moves = []
  saves   : s.sealing.toSave = []

theorem calm_facts {s : State} (h : calm s = true) : CalmFacts s := by
  simp only [calm, Bool.and_eq_true] at h
  obtain ⟨⟨⟨⟨⟨⟨⟨⟨⟨⟨⟨⟨⟨⟨⟨⟨⟨⟨⟨h1, h2⟩, h3⟩, h4⟩, h6⟩, h7⟩, h8⟩, h9⟩, h10⟩, h11⟩, h12⟩, h13⟩, h14⟩, h15⟩, h19⟩, h16⟩, h17⟩, h18⟩, h20⟩, h21⟩ := h
  have hm (m : Mbx) := (Vector.all_eq_true.mp h13) m.val m.isLt
  refine ⟨h1, h2, by simpa using h3, by simpa using h4, ?_, by simpa using h7, by simpa using h8, by simpa using h9,
    by simpa using h10, by simpa using h11, ?_, ?_, ?_, by simpa using h14, by simpa using h15, by simpa using h19, h16, by simpa using h17,
    by simpa using h18, by simpa using h20, by simpa using h21⟩
  · intro x hx
    have := List.all_eq_true.mp h6 x hx
    simpa [and_assoc] using this
  · intro n
    have := (Vector.all_eq_true.mp h12) n.val n.isLt
    simpa using this
  · intro m hb
    have := hm m
    simp only [Bool.and_eq_true] at this
    simpa [show s.mbx[m.val].state = .busy from hb] using this.1
  · intro m hb
    have := hm m
    simp only [Bool.and_eq_true] at this
    simpa [show mbxBusy s.mbx[m.val] = true from hb] using this.2

theorem releaseOks_rests (s : State) (h : ∀ x ∈ s.cmds, stageRests x.stage = true) : releaseOks s = s := by
  unfold releaseOks
  have : s.cmds.filter (okReady s) = [] := by
    rw [List.filter_eq_nil_iff]
    intro x hx
    have := h x hx
    cases hg : x.stage <;> simp_all [stageRests, okReady]
  rw [this]; rfl

/-- Without a pair no region is stranded. -/
theorem syncRule_unpaired {s : State} (h : s.mir.pairId.isNone = true) : syncRule s = s := by
  have hn : ∀ r, syncStranded s r = false := by
    intro r
    unfold syncStranded mirrors isPrimary
    cases hp : s.mir.pairId <;> simp_all
  unfold syncRule dropSync
  simp [hn]

theorem lineRule_calm {s : State} (h : calm s = true) : lineRule s = s := by
  unfold lineRule; rw [(calm_facts h).line, (calm_facts h).granted]; rfl

theorem poolLowRule_calm {s : State} (h : calm s = true) : poolLowRule s = s := by
  unfold poolLowRule; rw [(calm_facts h).low]; simp

theorem queueBitRule_calm {s : State} (h : calm s = true) : queueBitRule s = s := by
  have b := (calm_facts h).bit
  unfold queueBitRests at b
  unfold queueBitRule
  split at b <;> simp_all

theorem sweepRule_calm {s : State} (h : calm s = true) : sweepRule s = s := by
  unfold sweepRule; simp [(calm_facts h).sweep]

/-- What the programs of the reserved area leave: everything but the medium's cells, marks and domains, the program counts, and what is counted
or recorded; and of the medium what is the user's. -/
structure Saved (s t : State) : Prop where
  rest : ∃ H E P C M D a b, t = { s with
    hw := H, evr := E, pmc := P, med := { s.med with cells := C, marks := M, domains := D }
    sealing := { s.sealing with internal := a, reserved := b } }
  user : UserKept s t

theorem UserKept.of_med {s t : State} (h : t.med = s.med) : UserKept s t := by
  have p (lsa : Nat) : placeOf t lsa = placeOf s lsa := by simp only [placeOf, levelledSlot, domAt, h]
  exact ⟨by rw [h], fun x y => ⟨by rw [h]; exact x, by rw [h]; exact y, p, fun _ _ => by rw [h], fun _ _ => by rw [h]⟩⟩

theorem UserKept.trans {s t u : State} (h : UserKept s t) (k : UserKept t u) : UserKept s u := by
  refine ⟨by rw [k.1, h.1], fun x y => ?_⟩
  obtain ⟨a1, a2, a3, a4, a5⟩ := h.2 x y
  obtain ⟨b1, b2, b3, b4, b5⟩ := k.2 a1 a2
  exact ⟨b1, b2, fun l => (b3 l).trans (a3 l), fun c hc => (b4 c fun l hl => by rw [a3]; exact hc l hl).trans (a4 c hc),
    fun l hl => (b5 l hl).trans (a5 l hl)⟩

theorem Saved.refl (s : State) : Saved s s := ⟨⟨_, _, _, _, _, _, _, _, rfl⟩, .of_med rfl⟩

theorem Saved.trans {s t u : State} (h : Saved s t) (k : Saved t u) : Saved s u := by
  refine ⟨?_, h.user.trans k.user⟩
  obtain ⟨_, _, _, _, _, _, _, _, rfl⟩ := h.rest
  obtain ⟨_, _, _, _, _, _, _, _, rfl⟩ := k.rest
  exact ⟨_, _, _, _, _, _, _, _, rfl⟩

theorem takeCounts_saved (s : State) (n : Nat) : Saved s (takeCounts s n) := ⟨⟨_, _, _, _, _, _, _, _, rfl⟩, .of_med rfl⟩

theorem countSeal_saved (s : State) (ch n : Nat) : Saved s (countSeal s ch n) := by
  have p (s : State) (a : Nat) (b : Option Nat) : Saved s (pmcCount s a b n) := ⟨⟨_, _, _, _, _, _, _, _, rfl⟩, .of_med rfl⟩
  have q (s : State) (o : Nat) : Saved s (hwAdd s o n) := ⟨⟨_, _, _, _, _, _, _, _, rfl⟩, .of_med rfl⟩
  exact (((q _ _).trans (q _ _)).trans (p _ _ _)).trans (p _ _ _)

theorem landInner_saved (s : State) (lsa : Nat) (d : Option Sector) (hi : isInner lsa = true) : Saved s (landInner s lsa d) := by
  unfold landInner
  dsimp only
  generalize plannedCell s lsa (innerPlan s) d = c
  have k (t : State) (e : t.med = s.med) :
      Saved t (modMed t fun m => { m with cells := fput m.cells (placeOf s lsa) c, marks := fdel m.marks lsa }) := by
    refine ⟨⟨_, _, _, _, _, _, _, _, rfl⟩, rfl, fun x y => ⟨x, fwf_fdel y, fun _ => rfl, fun i hi' => ?_, fun l hl => ?_⟩⟩
    · have hp : placeOf t lsa = placeOf s lsa := by simp only [placeOf, levelledSlot, domAt, e]
      exact fget_fput_ne _ _ fun h => hi' lsa hi (hp.trans h.symm)
    · exact fget_fdel_ne y fun h => by rw [h, hi] at hl; cases hl
  exact ((takeCounts_saved s 1).trans (k _ rfl)).trans (countSeal_saved _ _ _)

theorem putDom_saved (s : State) (d : Nat) (v : Domain) (h : v.start = (domAt s d).start ∧ v.gap = (domAt s d).gap ∧ v.key = (domAt s d).key) :
    Saved s (putDom s d v) := by
  refine ⟨⟨_, _, _, _, _, _, _, _, rfl⟩, rfl, fun x y => ⟨fwf_fputD x, y, fun lsa => ?_, fun _ _ => rfl, fun _ _ => rfl⟩⟩
  have e : levelSlot (domAt (putDom s d v) (domainOf lsa)) (logicalIndex lsa) = levelSlot (domAt s (domainOf lsa)) (logicalIndex lsa) := by
    by_cases hd : domainOf lsa = d
    · have : domAt (putDom s d v) (domainOf lsa) = v := by rw [hd]; exact fgetD_fputD_self x _ _ _
      rw [this, hd]
      simp only [levelSlot, h.1, h.2.1, h.2.2]
    · have : domAt (putDom s d v) (domainOf lsa) = domAt s (domainOf lsa) := fgetD_fputD_ne x _ _ _ hd
      rw [this]
  unfold placeOf levelledSlot
  rw [e]
  rfl

theorem countPsi_saved (s : State) (lsa : Nat) : Saved s (countPsi s lsa) := by
  unfold countPsi
  dsimp only
  repeat' first
    | exact putDom_saved _ _ _ ⟨rfl, rfl, rfl⟩
    | split

theorem place_inner (i : Inner) (c : Nat) : isInner (i.place c) = true := by
  simp [isInner, Inner.place]

theorem saveBytes_saved (s : State) (i : Inner) (d : Sector) : Saved s (saveBytes s i d) :=
  (((landInner_saved s _ _ (place_inner i 0)).trans (countPsi_saved _ _)).trans (landInner_saved _ _ _ (place_inner i 1))).trans
    (countPsi_saved _ _)

/-- Sealing entries into the ring wakes nothing. -/
theorem ringRule_saved (s : State) : Saved s (ringRule s) := by
  unfold ringRule
  split
  · exact .refl s
  · have key (l : List Nat) (t : State) : Saved t (l.foldl (fun s n => saveBytes s (.ring n) (ringBytes s n)) t) := by
      induction l generalizing t with
      | nil => exact .refl t
      | cons n l ih => exact (saveBytes_saved t _ _).trans (ih _)
    have h : Saved s (modEvr s fun e => { e with toSeal := [] }) := ⟨⟨_, _, _, _, _, _, _, _, rfl⟩, .of_med rfl⟩
    exact h.trans (key _ _)

theorem calm_ringRule {s : State} (h : calm s = true) : calm (ringRule s) = true := by
  obtain ⟨_, _, _, _, _, _, _, _, e⟩ := (ringRule_saved s).rest
  rw [e]; exact h

theorem blockRules_calm {s : State} (h : calm s = true) : blockRules s = s := by
  unfold blockRules; rw [(calm_facts h).moves]; rfl

theorem saveRule_calm {s : State} (h : calm s = true) : saveRule s = s := by
  unfold saveRule
  split
  · rfl
  · rw [(calm_facts h).saves]
    show ({ s with sealing := { s.sealing with toSave := [] } } : State) = s
    rw [← (calm_facts h).saves]

theorem seedRule_calm {s : State} (h : calm s = true) : seedRule s = s := by
  unfold seedRule; rw [(calm_facts h).pair]; rfl

theorem recreateRule_calm {s : State} (h : calm s = true) : recreateRule s = s := by
  have c := (calm_facts h).create
  have hn (r : Nat) (m : Mbx) : recreating s r ≠ some m := by
    intro e
    have k := List.find?_some e
    simp only [Bool.and_eq_true, beq_iff_eq] at k
    exact c m k.1.1.1 k.1.2
  have key (l : List Mbx) : l.foldl (fun s m =>
      let r := leAt (mbxReq s m) 0 2
      if recreating s r = some m ∧ !(s.sealing.erasing.any fun j => decide (j.why = .recreate m)) ∧
          !(s.med.reqs.any fun q => inRegion r q.lsa.toNat && decide (q.purpose = .rebuild)) then endRecreate s m r true
      else s) s = s := by
    induction l with
    | nil => rfl
    | cons m l ih =>
      rw [List.foldl_cons]
      dsimp only
      rw [if_neg fun e => hn _ m e.1]
      exact ih
  exact key _

/-- No LKUP waits: none is dispatched. -/
theorem dispatchLkups_none {s : State} (h : ∀ x ∈ s.cmds, lkupWaits x = false) : dispatchLkups s = s := by
  unfold dispatchLkups
  rw [List.filter_eq_nil_iff.2 fun x hx => by simp [h x hx]]
  rfl

theorem settlePorts_calm {s : State} (h : calm s = true) : settlePorts s = calAll s := by
  have c := calm_facts h
  have hr : ∀ x ∈ s.cmds, stageRests x.stage = true := fun x hx => (c.cmds x hx).1
  have hp : s.cmds.filter persistWaits = [] := by
    rw [List.filter_eq_nil_iff]; intro x hx; simp [(c.cmds x hx).2.1]
  unfold settlePorts
  have e1 : syncRule s = s := syncRule_unpaired c.pair
  have e2 : writeLeaves s = s := by unfold writeLeaves; rw [c.writes]; rfl
  have e3 : foldAllRule s = s := by unfold foldAllRule; rw [c.fold]; rfl
  have e4 : lagRule s = s := by unfold lagRule; simp [← c.lag]
  have e5 : markWanted s = s := by unfold markWanted; simp [hp]
  have e6 : flushRule s = s := by unfold flushRule; simp [c.flush]
  rw [e1, releaseOks_rests s hr, dispatchLkups_none fun x hx => (c.cmds x hx).2.2, lineRule_calm h, advanceAll_rests s hr, e2, e3, e4, e5, e6]

theorem runErases_calm {s : State} (h : calm s = true) : runErases s = s := by
  unfold runErases; rw [(calm_facts h).erase]; rfl

theorem applyRecords_calm {s : State} (h : calm s = true) : applyRecords s = s := by
  have c := calm_facts h
  have h0 := c.inbox 0
  have h1 := c.inbox 1
  unfold applyRecords
  simp only [List.foldl_cons, List.foldl_nil, h0, h1, List.length_nil, applyInbox]

theorem nextSeed_calm {s : State} (h : calm s = true) (n : MPort) : nextSeed s n = s := by
  have c := (calm_facts h).session
  unfold anySession at c
  rw [Bool.or_eq_false_iff] at c
  have hn : (s.mir.ports[n]).session = false := by
    match n with
    | ⟨0, _⟩ => exact c.1
    | ⟨1, _⟩ => exact c.2
  unfold nextSeed
  simp only [hn, Bool.not_false, true_or, if_true]

theorem mbxRetry_calm {s : State} (h : calm s = true) : mbxRetry s = s := by
  have c := (calm_facts h).mbx
  unfold mbxRetry
  have : (List.finRange 8).filter (fun m => decide ((s.mbx[m]).state = .busy) && (s.mbx[m]).waits) = [] := by
    rw [List.filter_eq_nil_iff]; intro m _; simpa using c m
  rw [this]; rfl

theorem nakRule_calm {s : State} (h : calm s = true) : nakRule s = s := by
  have c := (calm_facts h).session
  unfold anySession at c
  rw [Bool.or_eq_false_iff] at c
  have h0 : (s.mir.ports[(0 : MPort)]).session = false := c.1
  have h1 : (s.mir.ports[(1 : MPort)]).session = false := c.2
  unfold nakRule
  simp only [List.foldl_cons, List.foldl_nil, h0, h1, Bool.false_eq_true, false_and, and_false, if_false]

theorem tail_calm {s : State} (h : calm s = true) :
    saveRule (sweepRule (queueBitRule (poolLowRule (ringRule (blockRules (captureRule (tellRule (settlePorts
      (nextSeed (nextSeed (mbxRetry (seedRule (recreateRule s))) 0) 1))))))))) = ringRule (calAll s) := by
  rw [recreateRule_calm h, seedRule_calm h, mbxRetry_calm h, nextSeed_calm h 0, nextSeed_calm h 1, settlePorts_calm h]
  have h' : calm (calAll s) = true := h
  have c := calm_facts h'
  have e : tellRule (calAll s) = calAll s := by unfold tellRule; rw [c.session]; rfl
  have hq : calm (ringRule (calAll s)) = true := calm_ringRule h'
  have k : captureRule (calAll s) = calAll s := by unfold captureRule; rw [c.dump]
  rw [e, k, blockRules_calm h', poolLowRule_calm hq, queueBitRule_calm hq, sweepRule_calm hq, saveRule_calm hq]

theorem lossRule_calm {s : State} (h : calm s = true) : lossRule s = s := by
  have c := calm_facts h
  unfold lossRule
  simp [c.pair, c.lost]

/-- Once nothing waits, what follows an effect is the calendars and the event ring alone. -/
theorem settle_calm {s : State} (h : calm s = true) : settle s = ringRule (calAll (calAll s)) := by
  have c := calm_facts h
  unfold settle
  rw [c.up, lossRule_calm h, settlePorts_calm h]
  have h' : calm (calAll s) = true := h
  simp only [Bool.not_true, Bool.false_eq_true, if_false, runErases_calm h', applyRecords_calm h', nakRule_calm h', ite_self]
  exact tail_calm h'

/-- A state that is calm but for the one command it has taken: the command goes on once, and if that leaves a calm state the calendars
follow. -/
theorem settle_one {s : State} {x : HostCmd} (h : calm { s with cmds := [] } = true) (hx : s.cmds = [x]) (hs : x.stage = .buffered)
    (hc : calm (advance s x.id) = true) : settle s = ringRule (calAll (calAll (advance s x.id))) := by
  have c := calm_facts h
  have up : coreUp s = true := c.up
  have e0 : lossRule s = s := by
    have h1 : s.mir.pairId.isNone = true := c.pair
    have h2 : s.mir.lost = false := c.lost
    unfold lossRule; simp [h1, h2]
  have e1 : syncRule s = s := syncRule_unpaired c.pair
  have e2 : releaseOks s = s := by
    unfold releaseOks
    have : s.cmds.filter (okReady s) = [] := by
      rw [List.filter_eq_nil_iff, hx]; intro y hy; simp only [List.mem_singleton] at hy; subst hy; simp [okReady, hs]
    rw [this]; rfl
  have e3 : advanceAll s = advance s x.id := by unfold advanceAll; rw [hx]; rfl
  have el : lineRule s = s := by unfold lineRule; rw [show s.krf.waiters = [] from c.line, show s.krf.granted = [] from c.granted]; rfl
  have ed : dispatchLkups s = s := dispatchLkups_none fun y hy => by rw [hx] at hy; cases List.mem_singleton.1 hy; simp [lkupWaits, hs]
  have e4 : settlePorts s = settlePorts (advance s x.id) := by
    have c' := calm_facts hc
    have hr : ∀ y ∈ (advance s x.id).cmds, stageRests y.stage = true := fun y hy => (c'.cmds y hy).1
    have f1 : syncRule (advance s x.id) = advance s x.id := syncRule_unpaired c'.pair
    unfold settlePorts
    rw [e1, e2, ed, el, e3, f1, releaseOks_rests _ hr, dispatchLkups_none fun y hy => (c'.cmds y hy).2.2, lineRule_calm hc,
      advanceAll_rests _ hr]
  have h' : calm (calAll (advance s x.id)) = true := hc
  unfold settle
  rw [up, e0, e4, settlePorts_calm hc]
  simp only [Bool.not_true, Bool.false_eq_true, if_false, runErases_calm h', applyRecords_calm h', nakRule_calm h', ite_self]
  exact tail_calm h'

end Sys2Proof.Machine
end

