-- ==== Sys2Proof/Laws/Keeps.lean ====
section
/-! SUPPORT. What every command keeps: the relations `Keeps` and `Stays` as preorders, and the operations that update a memory. -/

namespace Sys2Proof.Machine

variable {s0 s t u : State}

theorem canonical_iff : canonical s = true ↔ fwf s.regs = true ∧ fwf s.hw = true ∧ fwf s.med.cells = true ∧ fwf s.krf.slots = true ∧
    ∀ x ∈ s.mbx, bufWf x.req = true ∧ bufWf x.rsp = true := by
  have hv : (s.mbx.all fun x => bufWf x.req && bufWf x.rsp) = true ↔ ∀ x ∈ s.mbx, bufWf x.req = true ∧ bufWf x.rsp = true := by
    rw [Vector.all_eq_true]
    refine ⟨fun h x hx => ?_, fun h i hi => by simpa using h _ (Vector.getElem_mem hi)⟩
    obtain ⟨i, hi, rfl⟩ := Vector.getElem_of_mem hx
    simpa using h i hi
  simp only [canonical, Bool.and_eq_true, hv, and_assoc]

theorem GlbStays.refl (g : Glb) : GlbStays g g := ⟨rfl, Nat.le_refl _, id, id, fun _ => ⟨rfl, rfl, rfl⟩⟩

theorem GlbStays.trans {f g h : Glb} (x : GlbStays f g) (y : GlbStays g h) : GlbStays f h :=
  ⟨y.reset.trans x.reset, Nat.le_trans x.order y.order, y.fwd ∘ x.fwd, y.bounds ∘ x.bounds, fun r => by
    have a := x.held r
    have b := y.held (x.reset.trans r)
    exact ⟨b.1.trans a.1, b.2.1.trans a.2.1, b.2.2.trans a.2.2⟩⟩

/-- A change of the other fields of GLB. -/
theorem GlbStays.of {g h : Glb} (h1 : h.inReset = g.inReset) (h2 : h.state = g.state) (h3 : h.fwd = g.fwd) (h4 : h.bounds = g.bounds) :
    GlbStays g h := ⟨h1, h2 ▸ Nat.le_refl _, fun x => h3.trans x, fun x => h4.trans x, fun _ => ⟨h2, h3, h4⟩⟩

theorem GlbReset.stays {g h : Glb} (x : GlbReset g) (y : GlbStays g h) : GlbReset h := by
  obtain ⟨a, b, c⟩ := y.held x.1
  exact ⟨y.reset.trans x.1, a.trans x.2.1, b.trans x.2.2.1, c.trans x.2.2.2⟩

theorem Base.refl (s : State) : Base s s := ⟨rfl, rfl, Nat.le_refl _, id⟩

theorem Base.trans (h : Base s t) (k : Base t u) : Base s u :=
  ⟨k.pending.trans h.pending, k.factory.trans h.factory, Nat.le_trans h.floor k.floor, k.canon ∘ h.canon⟩

theorem Keeps.refl (s : State) : Keeps s s := ⟨Base.refl s, .inl (.refl _)⟩

theorem Keeps.trans (h : Keeps s t) (k : Keeps t u) : Keeps s u :=
  ⟨h.toBase.trans k.toBase, match h.glb, k.glb with
    | _, .inr r => .inr r
    | .inl x, .inl y => .inl (x.trans y)
    | .inr r, .inl y => .inr (r.stays y)⟩

theorem Stays.refl (s : State) : Stays s s := ⟨Base.refl s, .refl _, rfl⟩

theorem Stays.trans (h : Stays s t) (k : Stays t u) : Stays s u := ⟨h.toBase.trans k.toBase, h.glb.trans k.glb, k.seq.trans h.seq⟩

theorem Stays.toKeeps (h : Stays s t) : Keeps s t := ⟨h.toBase, .inl h.glb⟩

theorem base_canon {t u : State} (c : canonical t = true) (h3 : fwf t.regs = true → fwf u.regs = true)
    (h4 : fwf t.hw = true → fwf u.hw = true) (h5 : fwf t.med.cells = true → fwf u.med.cells = true)
    (h6 : fwf t.krf.slots = true → fwf u.krf.slots = true)
    (h7 : (∀ x ∈ t.mbx, bufWf x.req = true ∧ bufWf x.rsp = true) → ∀ x ∈ u.mbx, bufWf x.req = true ∧ bufWf x.rsp = true) :
    canonical u = true :=
  have c := canonical_iff.1 c
  canonical_iff.2 ⟨h3 c.1, h4 c.2.1, h5 c.2.2.1, h6 c.2.2.2.1, h7 c.2.2.2.2⟩

/-- An update of fields that the relations do not speak of, and of memories that stay canonical. -/
theorem stays_mk (h : Stays s0 t) {fresh regs hw latches busRead time glb clk thm pwr pcie ports cmds nextCmd krf rdp med regions
    sealing lke dbq cnt mir mbx fw pst evr dumps pmc jtag out} (h0 : GlbStays t.glb glb)
    (h1 : pst.factory = t.pst.factory) (h2 : t.fw.floor.toNat ≤ fw.floor.toNat)
    (h3 : fwf t.regs = true → fwf regs = true) (h4 : fwf t.hw = true → fwf hw = true)
    (h5 : fwf t.med.cells = true → fwf med.cells = true) (h6 : fwf t.krf.slots = true → fwf krf.slots = true)
    (h7 : (∀ x ∈ t.mbx, bufWf x.req = true ∧ bufWf x.rsp = true) → ∀ x ∈ mbx, bufWf x.req = true ∧ bufWf x.rsp = true) :
    Stays s0 (State.mk t.pending fresh regs hw latches busRead time glb t.seq clk thm pwr pcie ports cmds nextCmd krf rdp med
      regions sealing lke dbq cnt mir mbx fw pst evr dumps pmc jtag out) :=
  h.trans ⟨⟨rfl, h1, h2, fun c => base_canon c h3 h4 h5 h6 h7⟩, h0, rfl⟩

/-- The same, for what touches the Tailstock or takes a reset. -/
theorem keeps_mk (h : Keeps s0 t) {fresh regs hw latches busRead time glb seq clk thm pwr pcie ports cmds nextCmd krf rdp med regions
    sealing lke dbq cnt mir mbx fw pst evr dumps pmc jtag out} (h0 : GlbStays t.glb glb ∨ GlbReset glb)
    (h1 : pst.factory = t.pst.factory) (h2 : t.fw.floor.toNat ≤ fw.floor.toNat)
    (h3 : fwf t.regs = true → fwf regs = true) (h4 : fwf t.hw = true → fwf hw = true)
    (h5 : fwf t.med.cells = true → fwf med.cells = true) (h6 : fwf t.krf.slots = true → fwf krf.slots = true)
    (h7 : (∀ x ∈ t.mbx, bufWf x.req = true ∧ bufWf x.rsp = true) → ∀ x ∈ mbx, bufWf x.req = true ∧ bufWf x.rsp = true) :
    Keeps s0 (State.mk t.pending fresh regs hw latches busRead time glb seq clk thm pwr pcie ports cmds nextCmd krf rdp med
      regions sealing lke dbq cnt mir mbx fw pst evr dumps pmc jtag out) :=
  h.trans ⟨⟨rfl, h1, h2, fun c => base_canon c h3 h4 h5 h6 h7⟩, h0⟩

/-- The same, for a boot. -/
theorem base_mk (h : Base s0 t) {fresh regs hw latches busRead time glb seq clk thm pwr pcie ports cmds nextCmd krf rdp med regions
    sealing lke dbq cnt mir mbx fw pst evr dumps pmc jtag out}
    (h1 : pst.factory = t.pst.factory) (h2 : t.fw.floor.toNat ≤ fw.floor.toNat)
    (h3 : fwf t.regs = true → fwf regs = true) (h4 : fwf t.hw = true → fwf hw = true)
    (h5 : fwf t.med.cells = true → fwf med.cells = true) (h6 : fwf t.krf.slots = true → fwf krf.slots = true)
    (h7 : (∀ x ∈ t.mbx, bufWf x.req = true ∧ bufWf x.rsp = true) → ∀ x ∈ mbx, bufWf x.req = true ∧ bufWf x.rsp = true) :
    Base s0 (State.mk t.pending fresh regs hw latches busRead time glb seq clk thm pwr pcie ports cmds nextCmd krf rdp med
      regions sealing lke dbq cnt mir mbx fw pst evr dumps pmc jtag out) :=
  h.trans ⟨rfl, h1, h2, fun c => base_canon c h3 h4 h5 h6 h7⟩

theorem stays_foldl {γ : Type} {f : State → γ → State} (hf : ∀ s a, Stays s0 s → Stays s0 (f s a)) {l : List γ} (h : Stays s0 s) :
    Stays s0 (l.foldl f s) := by
  induction l generalizing s with
  | nil => exact h
  | cons a l ih => exact ih (hf s a h)

theorem keeps_foldl {γ : Type} {f : State → γ → State} (hf : ∀ s a, Keeps s0 s → Keeps s0 (f s a)) {l : List γ} (h : Keeps s0 s) :
    Keeps s0 (l.foldl f s) := by
  induction l generalizing s with
  | nil => exact h
  | cons a l ih => exact ih (hf s a h)

/-- A fold over pairs of a state and something else. -/
theorem stays_foldl_fst {γ δ : Type} {f : State × δ → γ → State × δ} (hf : ∀ x a, Stays s0 x.1 → Stays s0 (f x a).1) {l : List γ}
    {x : State × δ} (h : Stays s0 x.1) : Stays s0 (l.foldl f x).1 := by
  induction l generalizing x with
  | nil => exact h
  | cons a l ih => exact ih (hf x a h)

theorem stays_foldl_snd {γ δ : Type} {f : δ × State → γ → δ × State} (hf : ∀ x a, Stays s0 x.2 → Stays s0 (f x a).2) {l : List γ}
    {x : δ × State} (h : Stays s0 x.2) : Stays s0 (l.foldl f x).2 := by
  induction l generalizing x with
  | nil => exact h
  | cons a l ih => exact ih (hf x a h)

/-- What stays may follow what is kept. -/
theorem Keeps.step (h : Keeps s0 s) (k : Stays s t) : Keeps s0 t := h.trans k.toKeeps

theorem Base.step (h : Base s0 s) (k : Stays s t) : Base s0 t := h.trans k.toBase

theorem Base.keep (h : Base s0 s) (k : Keeps s t) : Base s0 t := h.trans k.toBase

/-- The state a pair holds, once a match has named it. -/
theorem stays_snd {α : Type} {r : α × State} {x : α} (e : r = (x, t)) (h : Stays s0 r.2) : Stays s0 t := by
  subst e
  exact h

theorem stays_fst {α : Type} {r : State × α} {x : α} (e : r = (t, x)) (h : Stays s0 r.1) : Stays s0 t := by
  subst e
  exact h

theorem keeps_snd {α : Type} {r : α × State} {x : α} (e : r = (x, t)) (h : Keeps s0 r.2) : Keeps s0 t := by
  subst e
  exact h

theorem keeps_fst {α : Type} {r : State × α} {x : α} (e : r = (t, x)) (h : Keeps s0 r.1) : Keeps s0 t := by
  subst e
  exact h

/-! ### Leaves -/

theorem setCfg_keeps (o : Nat) (v : Word64) (hk : Stays s0 s) : Stays s0 (setCfg s o v) :=
  stays_mk hk (.refl _) rfl (Nat.le_refl _) fwf_fputD id id id id

theorem hwSet_keeps (o : Nat) (v : Word64) (hk : Stays s0 s) : Stays s0 (hwSet s o v) :=
  stays_mk hk (.refl _) rfl (Nat.le_refl _) id fwf_fputD id id id

theorem hwAdd_keeps (o n : Nat) (hk : Stays s0 s) : Stays s0 (hwAdd s o n) := hwSet_keeps _ _ hk
theorem hwSat_keeps (o w n : Nat) (hk : Stays s0 s) : Stays s0 (hwSat s o w n) := hwSet_keeps _ _ hk
theorem hwOr_keeps (o : Nat) (m : Word64) (hk : Stays s0 s) : Stays s0 (hwOr s o m) := hwSet_keeps _ _ hk
theorem raise_keeps (o k : Nat) (hk : Stays s0 s) : Stays s0 (raise s o k) := hwSet_keeps _ _ hk
theorem hwFldPut_keeps (o lo w v : Nat) (hk : Stays s0 s) : Stays s0 (hwFldPut s o lo w v) := hwSet_keeps _ _ hk
theorem hwPeak_keeps (o lo w v : Nat) (hk : Stays s0 s) : Stays s0 (hwPeak s o lo w v) := hwSet_keeps _ _ hk

theorem freeNext_keeps (hk : Stays s0 s) : Stays s0 (freeNext s) := stays_mk hk (.refl _) rfl (Nat.le_refl _) id id id id id

theorem emit_keeps (e : Emit) (hk : Stays s0 s) : Stays s0 (emit s e) := stays_mk hk (.refl _) rfl (Nat.le_refl _) id id id id id

/-! ### The recorder -/

theorem fwf_hwPut {m : FMap Word64} {o : Nat} {v : Word64} (h : fwf m = true) : fwf (hwPut m o v) = true := fwf_fputD h

theorem recLost_wf (r : Rec) (h : fwf r.2 = true) : fwf (recLost r).2 = true := fwf_hwPut (fwf_hwPut h)

theorem recStore_wf (irq : Nat) (r : Rec) (e : EvtEntry) (h : fwf r.2 = true) : fwf (recStore irq r e).2 = true := by
  unfold recStore
  dsimp only
  split
  · exact recLost_wf r h
  · exact fwf_hwPut (fwf_hwPut h)

theorem recClose_wf (irq : Nat) (time : BitVec 64) (pw : BitVec 16) (code sev : Nat) (r : Rec) (h : fwf r.2 = true) :
    fwf (recClose irq time pw code sev r).2 = true := by
  unfold recClose
  dsimp only
  split
  · exact h
  · split
    · exact h
    · exact recStore_wf _ _ _ h

theorem recLimited_wf (irq : Nat) (r : Rec) (e : EvtEntry) (h : fwf r.2 = true) : fwf (recLimited irq r e).2 = true := by
  unfold recLimited
  dsimp only
  split
  · exact recStore_wf _ _ _ h
  · split
    · exact recStore_wf _ _ _ h
    · split
      · exact recStore_wf _ _ _ (recClose_wf _ _ _ _ _ _ h)
      · split
        · exact recStore_wf _ _ _ h
        · exact fwf_hwPut h

theorem recEvent_wf (irq : Nat) (r : Rec) (e : EvtEntry) (h : fwf r.2 = true) : fwf (recEvent irq r e).2 = true := by
  unfold recEvent
  split
  · exact recLimited_wf _ _ _ h
  · split
    · exact h
    · exact recLost_wf r h

theorem evtFull_keeps (ev : Nat × Nat) (inst data count : Nat) (hk : Stays s0 s) : Stays s0 (evtFull s ev inst data count) :=
  stays_mk hk (.refl _) rfl (Nat.le_refl _) id (recEvent_wf _ (_, _) _) id id id

theorem evt_keeps (ev : Nat × Nat) (inst data : Nat) (hk : Stays s0 s) : Stays s0 (evt s ev inst data) := evtFull_keeps _ _ _ _ hk

theorem badAccess_keeps (off : Nat) (hk : Stays s0 s) : Stays s0 (badAccess s off) := evt_keeps _ _ _ hk

theorem closeWindow_keeps (code : Nat) (hk : Stays s0 s) : Stays s0 (closeWindow s code) :=
  stays_mk hk (.refl _) rfl (Nat.le_refl _) id (recClose_wf _ _ _ _ _ (_, _)) id id id

theorem nmi_keeps (k : Nat) (hk : Stays s0 s) : Stays s0 (nmi s k) :=
  stays_mk (raise_keeps _ _ (evt_keeps _ _ _ hk)) (.refl _) rfl (Nat.le_refl _) id id id id id

/-! ### The performance counters -/

theorem pmcReport_wf (s : State) (u : Fin 6) (w : BitVec 8) (r : Rec) (h : fwf r.2 = true) : fwf (pmcReport s u w r).2 = true := by
  unfold pmcReport
  generalize List.range 8 = l
  induction l generalizing r with
  | nil => exact h
  | cons k l ih =>
    rw [List.foldl_cons]
    apply ih
    split
    · exact recEvent_wf _ _ _ h
    · exact h

theorem pmcAll_keeps (own : Fin 6 → Fin 8 → Nat) (hk : Stays s0 s) : Stays s0 (pmcAll s own) := by
  refine stays_mk hk (.refl _) rfl (Nat.le_refl _) id (fun hw => ?_) id id id
  generalize List.finRange 6 = l
  have key : ∀ x : Vector Pmc 6 × Rec, fwf x.2.2 = true → fwf (l.foldl (fun (x : Vector Pmc 6 × Rec) u =>
      if x.1[u].en then (x.1.set u (pmcAdd x.1[u] (own u)).1, pmcReport s u (pmcAdd x.1[u] (own u)).2 x.2) else x) x).2.2 = true := by
    induction l with
    | nil => exact fun x h => h
    | cons u l ih =>
      intro x hx
      rw [List.foldl_cons]
      apply ih
      split
      · exact pmcReport_wf _ _ _ _ hx
      · exact hx
  exact key (s.pmc, (s.evr, s.hw)) hw

theorem pmcCount_keeps (sel : Nat) (inst : Option Nat) (n : Nat) (hk : Stays s0 s) : Stays s0 (pmcCount s sel inst n) := pmcAll_keeps _ hk

/-! ### Updates of a part -/

theorem modMed_keeps {f : Medium → Medium} (hf : ∀ m, fwf m.cells = true → fwf (f m).cells = true) (hk : Stays s0 s) :
    Stays s0 (modMed s f) := stays_mk hk (.refl _) rfl (Nat.le_refl _) id id (hf _) id id

theorem modMbx_keeps {m : Mbx} {f : MbxS → MbxS}
    (hf : ∀ x, bufWf x.req = true ∧ bufWf x.rsp = true → bufWf (f x).req = true ∧ bufWf (f x).rsp = true) (hk : Stays s0 s) :
    Stays s0 (modMbx s m f) := by
  refine stays_mk hk (.refl _) rfl (Nat.le_refl _) id id id id fun hm x hx => ?_
  rw [vmod] at hx
  obtain ⟨i, hi, rfl⟩ := Vector.getElem_of_mem hx
  rw [Vector.getElem_set]
  split
  · exact hf _ (hm _ (Vector.getElem_mem _))
  · exact hm _ (Vector.getElem_mem _)

theorem modFw_keeps {f : Fw → Fw} (hf : ∀ w, w.floor.toNat ≤ (f w).floor.toNat) (hk : Stays s0 s) : Stays s0 (modFw s f) :=
  stays_mk hk (.refl _) rfl (hf _) id id id id id

theorem modPst_keeps {f : Pst → Pst} (hf : ∀ p, (f p).factory = p.factory) (hk : Stays s0 s) : Stays s0 (modPst s f) :=
  stays_mk hk (.refl _) (hf _) (Nat.le_refl _) id id id id id

theorem modSeq_keeps {f : Seq → Seq} (hk : Keeps s0 s) : Keeps s0 (modSeq s f) :=
  keeps_mk hk (.inl (.refl _)) rfl (Nat.le_refl _) id id id id id

theorem putSlot_keeps (lsa : Nat) (x : Slot) (hk : Stays s0 s) : Stays s0 (putSlot s lsa x) :=
  stays_mk hk (.refl _) rfl (Nat.le_refl _) id id id fwf_fput id

theorem freeSlot_keeps (lsa : Nat) (hk : Stays s0 s) : Stays s0 (freeSlot s lsa) :=
  stays_mk hk (.refl _) rfl (Nat.le_refl _) id id id fwf_fdel id

/-! ### Mailbox buffers -/

theorem cellsOf_wf (l : List Byte) : bufWf (cellsOf l) = true := by
  have key : ∀ (l : List Byte) (n : Nat), fwf (((l.zipIdx n).filter fun e => e.1 != 0).map fun e => (e.2, e.1)) = true ∧
      ∀ e ∈ ((l.zipIdx n).filter fun e => e.1 != 0).map (fun e => (e.2, e.1)), n ≤ e.1 ∧ e.2 ≠ 0 := by
    intro l
    induction l with
    | nil => intro n; simp [fwf]
    | cons b l ih =>
      intro n
      rw [List.zipIdx_cons, List.filter_cons]
      have hr := ih (n + 1)
      split
      · rename_i hb
        refine ⟨?_, ?_⟩
        · rw [List.map_cons]
          exact fwf_cons.2 ⟨above_of fun e he => (hr.2 e he).1, hr.1⟩
        · intro e he
          rw [List.map_cons, List.mem_cons] at he
          rcases he with rfl | he
          · exact ⟨Nat.le_refl _, by simpa using hb⟩
          · exact ⟨Nat.le_of_succ_le (hr.2 e he).1, (hr.2 e he).2⟩
      · exact ⟨hr.1, fun e he => ⟨Nat.le_of_succ_le (hr.2 e he).1, (hr.2 e he).2⟩⟩
  have := key l 0
  rw [bufWf, cellsOf, Bool.and_eq_true, List.all_eq_true]
  exact ⟨this.1, fun e he => by simpa using (this.2 e he).2⟩

theorem cellsOf_lt (l : List Byte) : ∀ e ∈ cellsOf l, e.1 < l.length := by
  intro e he
  rw [cellsOf, List.mem_map] at he
  obtain ⟨x, hx, rfl⟩ := he
  have := List.mem_zipIdx (List.mem_filter.1 hx).1
  simpa using this.2.1

theorem fwf_append {α : Type} {a b : FMap α} (ha : fwf a = true) (hb : fwf b = true) (h : ∀ x ∈ a, ∀ y ∈ b, x.1 < y.1) :
    fwf (a ++ b) = true := by
  induction a with
  | nil => exact hb
  | cons e a ih =>
    obtain ⟨k, w⟩ := e
    have hc := fwf_cons.1 ha
    rw [List.cons_append]
    refine fwf_cons.2 ⟨above_of fun x hx => ?_, ih hc.2 fun x hx => h x (List.mem_cons_of_mem _ hx)⟩
    rcases List.mem_append.1 hx with hx | hx
    · exact fwf_above hc.2 hc.1 x hx
    · exact h (k, w) (by simp) x hx

theorem bufWrite_wf {m : List Host.Cell} (l : List Byte) (h : bufWf m = true) : bufWf (bufWrite m l) = true := by
  have hc := cellsOf_wf l
  simp only [bufWf, Bool.and_eq_true, List.all_eq_true] at h hc ⊢
  refine ⟨fwf_append hc.1 (fwf_filter h.1) fun x hx y hy => ?_, fun e he => ?_⟩
  · have := cellsOf_lt l x hx
    have := (List.mem_filter.1 hy).2
    simp only [decide_eq_true_eq] at this
    omega
  · rw [bufWrite, List.mem_append] at he
    rcases he with he | he
    · exact hc.2 e he
    · exact h.2 e (List.mem_filter.1 he).1

theorem fputD_wf {m : List Host.Cell} (k : Nat) (b : Byte) (h : bufWf m = true) : bufWf (fputD m k 0 b) = true := by
  simp only [bufWf, Bool.and_eq_true, List.all_eq_true] at h ⊢
  refine ⟨fwf_fputD h.1, fun e he => ?_⟩
  rw [fputD] at he
  split at he
  · exact h.2 e (mem_fdel he)
  · rename_i hb
    rcases mem_fput he with rfl | he
    · simpa using hb
    · exact h.2 e he

/-! ### Outcomes -/

theorem fin_keeps (hk : Stays s0 s) : Stays s0 (fin s) := stays_mk hk (.refl _) rfl (Nat.le_refl _) id id id id id

theorem stays_done (h : Stays s0 s) : StaysOut s0 (done s) := fin_keeps h

theorem base_done (h : Base s0 s) : BaseOut s0 (done s) := h.step (fin_keeps (Stays.refl _))

theorem keeps_done (h : Keeps s0 s) : KeepsOut s0 (done s) := h.step (fin_keeps (Stays.refl _))

end Sys2Proof.Machine
end

