-- ==== Sys2Proof/Laws/KeepsA.lean ====
section
/-! SUPPORT. What every command keeps, operation by operation: Ops, Operands, Flags, CmdOps, CacheOps, SealOps, ReqOps, MirOps, KrfOps, ReadOps. -/

namespace Sys2Proof.Machine

theorem touch_keeps {s0 : State} (s : State) (o : Nat) (hk : Stays s0 s) :
    Stays s0 (touch s o) := by
  unfold touch
  try dsimp only
  repeat' first
    | with_reducible exact hk | with_reducible exact fun x => x | split
    | with_reducible refine stays_mk ?_ ?_ ?_ ?_ ?_ ?_ ?_ ?_ ?_  | with_reducible exact GlbStays.refl _ | with_reducible rfl

theorem setRegion_keeps {s0 : State} (s : State) (r : Nat) (v : Region) (hk : Stays s0 s) :
    Stays s0 (setRegion s r v) := by
  unfold setRegion
  try dsimp only
  repeat' first
    | with_reducible exact hk | with_reducible exact fun x => x | with_reducible refine stays_mk ?_ ?_ ?_ ?_ ?_ ?_ ?_ ?_ ?_
    | with_reducible exact GlbStays.refl _ | with_reducible rfl

theorem modRegion_keeps {s0 : State} (s : State) (r : Nat) (f : Region → Region) (hk : Stays s0 s) :
    Stays s0 (modRegion s r f) := by
  unfold modRegion
  try dsimp only
  repeat' first
    | with_reducible exact hk | with_reducible apply setRegion_keeps

theorem setChan_keeps {s0 : State} (s : State) (k : Nat) (v : Channel) (hk : Stays s0 s) :
    Stays s0 (setChan s k v) := by
  unfold setChan
  try dsimp only
  repeat' first
    | with_reducible exact hk | with_reducible exact fun x => x | with_reducible refine stays_mk ?_ ?_ ?_ ?_ ?_ ?_ ?_ ?_ ?_
    | with_reducible exact GlbStays.refl _ | with_reducible rfl

theorem modChan_keeps {s0 : State} (s : State) (k : Nat) (f : Channel → Channel) (hk : Stays s0 s) :
    Stays s0 (modChan s k f) := by
  unfold modChan
  try dsimp only
  repeat' first
    | with_reducible exact hk | with_reducible apply setChan_keeps

theorem modBlank_keeps {s0 : State} (s : State) (b : Blank) (f : BlankS → BlankS) (hk : Stays s0 s) :
    Stays s0 (modBlank s b f) := by
  unfold modBlank
  try dsimp only
  repeat' first
    | with_reducible exact hk | with_reducible exact fun x => x | with_reducible refine stays_mk ?_ ?_ ?_ ?_ ?_ ?_ ?_ ?_ ?_
    | with_reducible exact GlbStays.refl _ | with_reducible rfl

theorem modPort_keeps {s0 : State} (s : State) (p : HPort) (f : Port → Port) (hk : Stays s0 s) :
    Stays s0 (modPort s p f) := by
  unfold modPort
  try dsimp only
  repeat' first
    | with_reducible exact hk | with_reducible exact fun x => x | with_reducible refine stays_mk ?_ ?_ ?_ ?_ ?_ ?_ ?_ ?_ ?_
    | with_reducible exact GlbStays.refl _ | with_reducible rfl

theorem modMir_keeps {s0 : State} (s : State) (n : MPort) (f : MirPort → MirPort) (hk : Stays s0 s) :
    Stays s0 (modMir s n f) := by
  unfold modMir
  try dsimp only
  repeat' first
    | with_reducible exact hk | with_reducible exact fun x => x | with_reducible refine stays_mk ?_ ?_ ?_ ?_ ?_ ?_ ?_ ?_ ?_
    | with_reducible exact GlbStays.refl _ | with_reducible rfl

theorem modSlot_keeps {s0 : State} (s : State) (lsa : Nat) (f : Slot → Slot) (hk : Stays s0 s) :
    Stays s0 (modSlot s lsa f) := by
  unfold modSlot
  try dsimp only
  repeat' first
    | with_reducible exact hk | with_reducible apply putSlot_keeps | split

theorem modCmd_keeps {s0 : State} (s : State) (id : Nat) (f : HostCmd → HostCmd) (hk : Stays s0 s) :
    Stays s0 (modCmd s id f) := by
  unfold modCmd
  try dsimp only
  repeat' first
    | with_reducible exact hk | with_reducible exact fun x => x | with_reducible refine stays_mk ?_ ?_ ?_ ?_ ?_ ?_ ?_ ?_ ?_
    | with_reducible exact GlbStays.refl _ | with_reducible rfl

theorem delCmd_keeps {s0 : State} (s : State) (id : Nat) (hk : Stays s0 s) :
    Stays s0 (delCmd s id) := by
  unfold delCmd
  try dsimp only
  repeat' first
    | with_reducible exact hk | with_reducible exact fun x => x | with_reducible refine stays_mk ?_ ?_ ?_ ?_ ?_ ?_ ?_ ?_ ?_
    | with_reducible exact GlbStays.refl _ | with_reducible rfl

theorem stageCmd_keeps {s0 : State} (s : State) (id : Nat) (g : Stage) (hk : Stays s0 s) :
    Stays s0 (stageCmd s id g) := by
  unfold stageCmd
  try dsimp only
  repeat' first
    | with_reducible exact hk | with_reducible apply modCmd_keeps

theorem calUpdate_keeps {s0 : State} (s : State) (p : HPort) (hk : Stays s0 s) :
    Stays s0 (calUpdate s p) := by
  unfold calUpdate
  try dsimp only
  repeat' first
    | with_reducible exact hk | with_reducible apply hwPeak_keeps | with_reducible exact fun x => x | split
    | with_reducible refine stays_mk ?_ ?_ ?_ ?_ ?_ ?_ ?_ ?_ ?_  | with_reducible exact GlbStays.refl _ | with_reducible rfl

theorem discardResp_keeps {s0 : State} (s : State) (p : HPort) (hk : Stays s0 s) :
    Stays s0 (discardResp s p) := by
  unfold discardResp
  try dsimp only
  repeat' first
    | with_reducible exact hk | with_reducible apply hwSat_keeps | with_reducible apply raise_keeps

theorem answer_keeps {s0 : State} (s : State) (id : Nat) (performed : Bool) (r : Resp) (hk : Stays s0 s) :
    Stays s0 (answer s id performed r) := by
  unfold answer
  try dsimp only
  repeat' first
    | with_reducible exact hk | with_reducible apply delCmd_keeps | with_reducible apply discardResp_keeps
    | with_reducible apply modCmd_keeps | split

theorem refuse_keeps {s0 : State} (s : State) (id : Nat) (r : Resp) (hk : Stays s0 s) :
    Stays s0 (refuse s id r) := by
  unfold refuse
  try dsimp only
  repeat' first
    | with_reducible exact hk | with_reducible apply answer_keeps

theorem complete_keeps {s0 : State} (s : State) (id : Nat) (r : Resp) (hk : Stays s0 s) :
    Stays s0 (complete s id r) := by
  unfold complete
  try dsimp only
  repeat' first
    | with_reducible exact hk | with_reducible apply answer_keeps

theorem sendResp_keeps {s0 : State} (s : State) (p : HPort) (x : HostCmd) (hk : Stays s0 s) :
    Stays s0 (sendResp s p x) := by
  unfold sendResp
  try dsimp only
  repeat' first
    | with_reducible exact hk | with_reducible exact Stays.refl _ | with_reducible assumption
    | with_reducible apply delCmd_keeps | with_reducible apply hwAdd_keeps | with_reducible apply pmcCount_keeps
    | with_reducible exact fun x => x | split | intro _ _ _ | with_reducible exact GlbStays.refl _ | with_reducible rfl
    | with_reducible exact Nat.le_refl _ | (intro _ h; with_reducible exact h) | (intro _; with_reducible rfl)
    | (intro _; with_reducible exact Nat.le_refl _)

theorem discardAll_keeps {s0 : State} (s : State) (p : HPort) (hk : Stays s0 s) :
    Stays s0 (discardAll s p) := by
  unfold discardAll
  try dsimp only
  repeat' first
    | with_reducible exact hk | with_reducible assumption | with_reducible apply delCmd_keeps
    | with_reducible apply discardResp_keeps | with_reducible apply stays_foldl | intro _ _ _

theorem dropRecord_keeps {s0 : State} (s : State) (xs : List HostCmd) (n : MPort) (hk : Stays s0 s) :
    Stays s0 (dropRecord s xs n) := by
  unfold dropRecord
  try dsimp only
  repeat' first
    | with_reducible exact hk | with_reducible exact Stays.refl _ | with_reducible assumption
    | with_reducible apply modMir_keeps | with_reducible exact fun x => x | split | intro _ _ _
    | with_reducible refine stays_mk ?_ ?_ ?_ ?_ ?_ ?_ ?_ ?_ ?_  | with_reducible exact GlbStays.refl _ | with_reducible rfl
    | with_reducible exact Nat.le_refl _ | (intro _ h; with_reducible exact h) | (intro _; with_reducible rfl)
    | (intro _; with_reducible exact Nat.le_refl _)

theorem retryUndispatched_keeps {s0 : State} (s : State) (hk : Stays s0 s) :
    Stays s0 (retryUndispatched s) := by
  unfold retryUndispatched
  try dsimp only
  repeat' first
    | with_reducible exact hk | with_reducible exact Stays.refl _ | with_reducible assumption
    | with_reducible apply dropRecord_keeps | with_reducible apply refuse_keeps | with_reducible apply stays_foldl
    | with_reducible exact fun x => x | split | intro _ _ _ | with_reducible refine stays_mk ?_ ?_ ?_ ?_ ?_ ?_ ?_ ?_ ?_
    | with_reducible exact GlbStays.refl _ | with_reducible rfl | with_reducible exact Nat.le_refl _
    | (intro _ h; with_reducible exact h) | (intro _; with_reducible rfl) | (intro _; with_reducible exact Nat.le_refl _)

theorem endFolds_keeps {s0 : State} (s : State) (hk : Stays s0 s) :
    Stays s0 (endFolds s) := by
  unfold endFolds
  try dsimp only
  repeat' first
    | with_reducible exact hk | with_reducible exact Stays.refl _ | with_reducible assumption | with_reducible exact fun x => x
    | split | intro _ _ _ | with_reducible refine stays_mk ?_ ?_ ?_ ?_ ?_ ?_ ?_ ?_ ?_  | with_reducible exact GlbStays.refl _
    | with_reducible rfl | with_reducible exact Nat.le_refl _ | (intro _ h; with_reducible exact h)
    | (intro _; with_reducible rfl) | (intro _; with_reducible exact Nat.le_refl _)

theorem startCommit_keeps {s0 : State} (s : State) (why : CommitWhy) (hk : Stays s0 s) :
    Stays s0 (startCommit s why) := by
  unfold startCommit
  split
  · exact hk
  · rename_i h
    have hr : s.glb.inReset = false := by simpa using fun x => h (.inr (.inr (.inl x)))
    have hd : s.glb.state.rank ≤ 4 := by
      cases hs : s.glb.state
      case dump => exact absurd (.inr (.inr (.inr (.inl hs)))) h
      case stopped => exact absurd (.inr (.inr (.inr (.inr hs)))) h
      all_goals decide
    have h1 : Stays s0 { s with glb := { s.glb with prevState := s.glb.state, state := if why = .fatal then .dump else .commit } } := by
      refine stays_mk hk ⟨rfl, ?_, id, id, fun x => by simp [hr] at x⟩ rfl (Nat.le_refl _) id id id id id
      dsimp only
      split
      · exact Nat.le_trans hd (by decide)
      · exact hd
    exact stays_mk (retryUndispatched_keeps _ h1) (.refl _) rfl (Nat.le_refl _) id id id id id

theorem beginDump_keeps {s0 : State} (s : State) (hk : Stays s0 s) :
    Stays s0 (beginDump s) := by
  unfold beginDump
  try dsimp only
  repeat' first
    | with_reducible exact hk | with_reducible exact Stays.refl _ | with_reducible assumption | with_reducible exact fun x => x
    | split | intro _ _ _ | with_reducible refine stays_mk ?_ ?_ ?_ ?_ ?_ ?_ ?_ ?_ ?_  | with_reducible exact GlbStays.refl _
    | with_reducible rfl | with_reducible exact Nat.le_refl _ | (intro _ h; with_reducible exact h)
    | (intro _; with_reducible rfl) | (intro _; with_reducible exact Nat.le_refl _)

theorem setFatal_keeps {s0 : State} (s : State) (k : Nat) (hk : Stays s0 s) :
    Stays s0 (setFatal s k) := by
  unfold setFatal
  try dsimp only
  repeat' first
    | with_reducible exact hk | with_reducible exact Stays.refl _ | with_reducible assumption
    | with_reducible apply beginDump_keeps | with_reducible apply evt_keeps | with_reducible apply raise_keeps
    | with_reducible apply startCommit_keeps | with_reducible exact fun x => x | split | intro _ _ _
    | with_reducible refine stays_mk ?_ ?_ ?_ ?_ ?_ ?_ ?_ ?_ ?_  | with_reducible exact GlbStays.refl _ | with_reducible rfl
    | with_reducible exact Nat.le_refl _ | (intro _ h; with_reducible exact h) | (intro _; with_reducible rfl)
    | (intro _; with_reducible exact Nat.le_refl _)

theorem modRdp_keeps {s0 : State} (s : State) (f : Rdp → Rdp) (hk : Stays s0 s) :
    Stays s0 (modRdp s f) := by
  unfold modRdp
  try dsimp only
  repeat' first
    | with_reducible exact hk | with_reducible exact fun x => x | with_reducible refine stays_mk ?_ ?_ ?_ ?_ ?_ ?_ ?_ ?_ ?_
    | with_reducible exact GlbStays.refl _ | with_reducible rfl

theorem putSide_keeps {s0 : State} (s : State) (ch : Nat) (l : List SideEntry) (hk : Stays s0 s) :
    Stays s0 (putSide s ch l) := by
  unfold putSide
  try dsimp only
  repeat' first
    | with_reducible exact hk | with_reducible apply modRdp_keeps

theorem putEntry_keeps {s0 : State} (s : State) (key : Nat) (e : CacheEntry) (hk : Stays s0 s) :
    Stays s0 (putEntry s key e) := by
  unfold putEntry
  try dsimp only
  repeat' first
    | with_reducible exact hk | with_reducible apply modRdp_keeps

theorem touchEntry_keeps {s0 : State} (s : State) (key : Nat) (e : CacheEntry) (hk : Stays s0 s) :
    Stays s0 (touchEntry s key e) := by
  unfold touchEntry
  try dsimp only
  repeat' first
    | with_reducible exact hk | with_reducible apply modRdp_keeps

theorem cachePlace_keeps {s0 : State} (s : State) (mask : Nat) (lsa : Nat) (data : Sector) (hold : Hold) (hk : Stays s0 s) :
    Stays s0 (cachePlace s mask lsa data hold) := by
  unfold cachePlace
  try dsimp only
  repeat' first
    | with_reducible exact hk | with_reducible apply modRdp_keeps | split

theorem cacheFill_keeps {s0 : State} (s : State) (cls : Class) (lsa : Nat) (data : Sector) (hk : Stays s0 s) :
    Stays s0 (cacheFill s cls lsa data) := by
  unfold cacheFill
  try dsimp only
  repeat' first
    | with_reducible exact hk | with_reducible apply cachePlace_keeps | split

theorem wasted_keeps {s0 : State} (s : State) (ch : Nat) (n : Nat) (hk : Stays s0 s) :
    Stays s0 (wasted s ch n) := by
  unfold wasted
  try dsimp only
  repeat' first
    | with_reducible exact hk | with_reducible apply hwAdd_keeps | with_reducible apply pmcCount_keeps | split

theorem sidePush_keeps {s0 : State} (s : State) (lsa : Nat) (data : Sector) (hk : Stays s0 s) :
    Stays s0 (sidePush s lsa data) := by
  unfold sidePush
  try dsimp only
  repeat' first
    | with_reducible exact hk | with_reducible apply putSide_keeps | with_reducible apply wasted_keeps

theorem cacheWrite_keeps {s0 : State} (s : State) (lsa : Nat) (data : Sector) (hk : Stays s0 s) :
    Stays s0 (cacheWrite s lsa data) := by
  unfold cacheWrite
  try dsimp only
  repeat' first
    | with_reducible exact hk | with_reducible apply hwAdd_keeps | with_reducible apply putEntry_keeps
    | with_reducible apply putSide_keeps | split

theorem cacheProbe_keeps {s0 t : State} {s : State} {cls : Class} {lsa : Nat} {d : Sector} (e : cacheProbe s cls lsa = some (d, t))
    (hk : Stays s0 s) : Stays s0 t := by
  unfold cacheProbe at e
  dsimp only at e
  repeat' split at e
  all_goals
    cases e
    repeat' first
    | with_reducible exact hk | with_reducible apply pmcCount_keeps | with_reducible apply hwAdd_keeps
    | with_reducible apply cachePlace_keeps | with_reducible apply touchEntry_keeps | with_reducible apply putSide_keeps

theorem invalidate_keeps {s0 : State} (s : State) (lo : Nat) (hi : Nat) (locked : Bool) (hk : Stays s0 s) :
    Stays s0 (invalidate s lo hi locked) := by
  unfold invalidate
  try dsimp only
  repeat' first
    | with_reducible exact hk | with_reducible assumption | with_reducible apply modRdp_keeps
    | with_reducible apply putSide_keeps | with_reducible apply wasted_keeps | with_reducible apply stays_foldl | intro _ _ _

theorem cacheDrop_keeps {s0 : State} (s : State) (lsa : Nat) (hk : Stays s0 s) :
    Stays s0 (cacheDrop s lsa) := by
  unfold cacheDrop
  try dsimp only
  repeat' first
    | with_reducible exact hk | with_reducible apply evt_keeps | with_reducible apply modRdp_keeps
    | with_reducible apply putSide_keeps | with_reducible apply raise_keeps | with_reducible apply wasted_keeps | split

theorem dropHeld_keeps {s0 : State} (s : State) (r : Nat) (hk : Stays s0 s) :
    Stays s0 (dropHeld s r) := by
  unfold dropHeld
  try dsimp only
  repeat' first
    | with_reducible exact hk | with_reducible assumption | with_reducible apply cacheDrop_keeps
    | with_reducible apply stays_foldl | intro _ _ _

theorem putDom_keeps {s0 : State} (s : State) (d : Nat) (v : Domain) (hk : Stays s0 s) :
    Stays s0 (putDom s d v) := by
  unfold putDom
  try dsimp only
  repeat' first
    | with_reducible exact hk | with_reducible apply modMed_keeps | (intro _ h; with_reducible exact h)

theorem putCell_keeps {s0 : State} (s : State) (n : Nat) (c : Cell) (hk : Stays s0 s) : Stays s0 (putCell s n c) :=
  modMed_keeps (fun _ => fwf_fput) hk

theorem takeCounts_keeps {s0 : State} (s : State) (n : Nat) (hk : Stays s0 s) :
    Stays s0 (takeCounts s n) := by
  unfold takeCounts
  try dsimp only
  repeat' first
    | with_reducible exact hk | with_reducible exact Stays.refl _ | with_reducible assumption | with_reducible exact fun x => x
    | split | intro _ _ _ | with_reducible refine stays_mk ?_ ?_ ?_ ?_ ?_ ?_ ?_ ?_ ?_  | with_reducible exact GlbStays.refl _
    | with_reducible rfl | with_reducible exact Nat.le_refl _ | (intro _ h; with_reducible exact h)
    | (intro _; with_reducible rfl) | (intro _; with_reducible exact Nat.le_refl _)

theorem domPrograms_keeps {s0 : State} (s : State) (d : Nat) (psi : Nat) (n : Nat) (hk : Stays s0 s) :
    Stays s0 (domPrograms s d psi n) := by
  unfold domPrograms
  try dsimp only
  repeat' first
    | with_reducible exact hk | with_reducible exact Stays.refl _ | with_reducible assumption
    | with_reducible apply putDom_keeps | with_reducible exact fun x => x | split | intro _ _ _
    | with_reducible refine stays_mk ?_ ?_ ?_ ?_ ?_ ?_ ?_ ?_ ?_  | with_reducible exact GlbStays.refl _ | with_reducible rfl
    | with_reducible exact Nat.le_refl _ | (intro _ h; with_reducible exact h) | (intro _; with_reducible rfl)
    | (intro _; with_reducible exact Nat.le_refl _)

theorem sealFail_keeps {s0 : State} (s : State) (cls : Class) (lsa : Nat) (isLsa : Bool) (hk : Stays s0 s) :
    Stays s0 (sealFail s cls lsa isLsa) := by
  unfold sealFail
  try dsimp only
  repeat' first
    | with_reducible exact hk | with_reducible apply evt_keeps | with_reducible apply hwSat_keeps
    | with_reducible apply hwSet_keeps | with_reducible apply pmcCount_keeps | with_reducible apply raise_keeps | split

theorem openCount_keeps {s0 : State} (s : State) (cls : Class) (lsa : Nat) (o : Opened) (hk : Stays s0 s) :
    Stays s0 (openCount s cls lsa o) := by
  unfold openCount
  split
  · exact pmcCount_keeps _ _ _ (hwAdd_keeps _ _ hk)
  · exact pmcCount_keeps _ _ _ (hwAdd_keeps _ _ hk)
  · exact sealFail_keeps _ _ _ _ hk
  · exact sealFail_keeps _ _ _ _ hk
  · exact hk
  · exact hk

theorem forceRekey_keeps {s0 : State} (s : State) (r : Nat) (hk : Stays s0 s) :
    Stays s0 (forceRekey s r) := by
  unfold forceRekey
  try dsimp only
  repeat' first
    | with_reducible exact hk | with_reducible apply evt_keeps | with_reducible apply modRegion_keeps
    | with_reducible apply raise_keeps | split

theorem countSeal_keeps {s0 : State} (s : State) (ch : Nat) (n : Nat) (hk : Stays s0 s) :
    Stays s0 (countSeal s ch n) := by
  unfold countSeal
  try dsimp only
  repeat' first
    | with_reducible exact hk | with_reducible exact Stays.refl _ | with_reducible assumption
    | with_reducible apply hwAdd_keeps | with_reducible apply pmcCount_keeps | with_reducible exact fun x => x | split
    | intro _ _ _ | with_reducible exact GlbStays.refl _ | with_reducible rfl | with_reducible exact Nat.le_refl _
    | (intro _ h; with_reducible exact h) | (intro _; with_reducible rfl) | (intro _; with_reducible exact Nat.le_refl _)

theorem landInner_keeps {s0 : State} (s : State) (lsa : Nat) (data : Option Sector) (hk : Stays s0 s) :
    Stays s0 (landInner s lsa data) := by
  unfold landInner
  try dsimp only
  repeat' first
    | with_reducible exact hk | with_reducible exact Stays.refl _ | with_reducible assumption
    | with_reducible apply countSeal_keeps | with_reducible apply modMed_keeps | with_reducible apply takeCounts_keeps
    | (intro h; with_reducible first | exact fwf_fput h | exact fwf_fdel h | exact fwf_fput (fwf_fdel h))
    | (intro _ h; with_reducible first | exact fwf_fput h | exact fwf_fdel h | exact fwf_fput (fwf_fdel h))
    | with_reducible exact fun x => x | split | intro _ _ _ | with_reducible refine stays_mk ?_ ?_ ?_ ?_ ?_ ?_ ?_ ?_ ?_
    | with_reducible exact GlbStays.refl _ | with_reducible rfl | with_reducible exact Nat.le_refl _
    | (intro _ h; with_reducible exact h) | (intro _; with_reducible rfl) | (intro _; with_reducible exact Nat.le_refl _)

theorem countPsi_keeps {s0 : State} (s : State) (lsa : Nat) (hk : Stays s0 s) :
    Stays s0 (countPsi s lsa) := by
  unfold countPsi
  try dsimp only
  repeat' first
    | with_reducible exact hk | with_reducible apply putDom_keeps | split

theorem writeInner_keeps {s0 : State} (s : State) (lsa : Nat) (d : Sector) (hk : Stays s0 s) :
    Stays s0 (writeInner s lsa d) := by
  unfold writeInner
  try dsimp only
  repeat' first
    | with_reducible exact hk | with_reducible exact Stays.refl _ | with_reducible assumption
    | with_reducible apply countPsi_keeps | with_reducible apply landInner_keeps | with_reducible exact fun x => x | split
    | intro _ _ _ | with_reducible exact GlbStays.refl _ | with_reducible rfl | with_reducible exact Nat.le_refl _
    | (intro _ h; with_reducible exact h) | (intro _; with_reducible rfl) | (intro _; with_reducible exact Nat.le_refl _)

theorem saveBytes_keeps {s0 : State} (s : State) (i : Inner) (d : Sector) (hk : Stays s0 s) :
    Stays s0 (saveBytes s i d) := by
  unfold saveBytes
  try dsimp only
  repeat' first
    | with_reducible exact hk | with_reducible exact Stays.refl _ | with_reducible assumption
    | with_reducible apply writeInner_keeps | with_reducible exact fun x => x | split | intro _ _ _
    | with_reducible exact GlbStays.refl _ | with_reducible rfl | with_reducible exact Nat.le_refl _
    | (intro _ h; with_reducible exact h) | (intro _; with_reducible rfl) | (intro _; with_reducible exact Nat.le_refl _)

theorem saveInner_keeps {s0 : State} (s : State) (i : Inner) (hk : Stays s0 s) :
    Stays s0 (saveInner s i) := by
  unfold saveInner
  try dsimp only
  repeat' first
    | with_reducible exact hk | with_reducible exact Stays.refl _ | with_reducible assumption
    | with_reducible apply saveBytes_keeps | with_reducible exact fun x => x | split | intro _ _ _
    | with_reducible refine stays_mk ?_ ?_ ?_ ?_ ?_ ?_ ?_ ?_ ?_  | with_reducible exact GlbStays.refl _ | with_reducible rfl
    | with_reducible exact Nat.le_refl _ | (intro _ h; with_reducible exact h) | (intro _; with_reducible rfl)
    | (intro _; with_reducible exact Nat.le_refl _)

theorem saveRule_keeps {s0 : State} (s : State) (hk : Stays s0 s) :
    Stays s0 (saveRule s) := by
  unfold saveRule
  try dsimp only
  repeat' first
    | with_reducible exact hk | with_reducible exact Stays.refl _ | with_reducible assumption
    | with_reducible apply saveInner_keeps | with_reducible apply stays_foldl | with_reducible exact fun x => x | split
    | intro _ _ _ | with_reducible refine stays_mk ?_ ?_ ?_ ?_ ?_ ?_ ?_ ?_ ?_  | with_reducible exact GlbStays.refl _
    | with_reducible rfl | with_reducible exact Nat.le_refl _ | (intro _ h; with_reducible exact h)
    | (intro _; with_reducible rfl) | (intro _; with_reducible exact Nat.le_refl _)

theorem openCopy_keeps {s0 : State} (s : State) (i : Inner) (copy : Nat) (hk : Stays s0 s) :
    Stays s0 (openCopy s i copy).2 := by
  unfold openCopy
  try dsimp only
  repeat' first
    | with_reducible exact hk | with_reducible exact Stays.refl _ | with_reducible assumption
    | with_reducible apply openCount_keeps | with_reducible exact fun x => x | split | intro _ _ _
    | with_reducible exact GlbStays.refl _ | with_reducible rfl | with_reducible exact Nat.le_refl _
    | (intro _ h; with_reducible exact h) | (intro _; with_reducible rfl) | (intro _; with_reducible exact Nat.le_refl _)

theorem loadInner_keeps {s0 : State} (s : State) (i : Inner) (hk : Stays s0 s) :
    Stays s0 (loadInner s i).2 := by
  unfold loadInner
  try dsimp only
  repeat' first
    | with_reducible exact hk | with_reducible exact Stays.refl _ | with_reducible assumption
    | with_reducible apply openCopy_keeps | with_reducible refine stays_snd (by assumption) ?_
    | with_reducible exact fun x => x | split | intro _ _ _ | with_reducible exact GlbStays.refl _ | with_reducible rfl
    | with_reducible exact Nat.le_refl _ | (intro _ h; with_reducible exact h) | (intro _; with_reducible rfl)
    | (intro _; with_reducible exact Nat.le_refl _)

theorem loadItems_keeps {s0 : State} (s : State) (l : List Inner) (hk : Stays s0 s) :
    Stays s0 (loadItems s l) := by
  unfold loadItems
  try dsimp only
  repeat' first
    | with_reducible exact hk | with_reducible exact Stays.refl _ | with_reducible assumption
    | with_reducible apply loadInner_keeps | with_reducible apply stays_foldl | with_reducible apply stays_foldl_snd
    | with_reducible refine stays_snd (by assumption) ?_ | with_reducible exact fun x => x | split | intro _ _ _
    | with_reducible exact GlbStays.refl _ | with_reducible rfl | with_reducible exact Nat.le_refl _
    | (intro _ h; with_reducible exact h) | (intro _; with_reducible rfl) | (intro _; with_reducible exact Nat.le_refl _)

theorem noteCeiling_keeps {s0 : State} (s : State) (r : Nat) (p : SealPlan) (hk : Stays s0 s) :
    Stays s0 (noteCeiling s r p) := by
  unfold noteCeiling
  try dsimp only
  repeat' first
    | with_reducible exact hk | with_reducible exact Stays.refl _ | with_reducible assumption
    | with_reducible apply forceRekey_keeps | with_reducible apply saveInner_keeps | with_reducible apply setRegion_keeps
    | with_reducible exact fun x => x | split | intro _ _ _ | with_reducible refine stays_mk ?_ ?_ ?_ ?_ ?_ ?_ ?_ ?_ ?_
    | with_reducible exact GlbStays.refl _ | with_reducible rfl | with_reducible exact Nat.le_refl _
    | (intro _ h; with_reducible exact h) | (intro _; with_reducible rfl) | (intro _; with_reducible exact Nat.le_refl _)

theorem modReq_keeps {s0 : State} (s : State) (id : Nat) (f : MedReq → MedReq) (hk : Stays s0 s) :
    Stays s0 (modReq s id f) := by
  unfold modReq
  try dsimp only
  repeat' first
    | with_reducible exact hk | with_reducible apply modMed_keeps | (intro _ h; with_reducible exact h)

theorem dropReqs_keeps {s0 : State} (s : State) (p : MedReq → Bool) (hk : Stays s0 s) :
    Stays s0 (dropReqs s p) := by
  unfold dropReqs
  try dsimp only
  repeat' first
    | with_reducible exact hk | with_reducible apply modMed_keeps | (intro _ h; with_reducible exact h)

theorem delReq_keeps {s0 : State} (s : State) (id : Nat) (hk : Stays s0 s) :
    Stays s0 (delReq s id) := by
  unfold delReq
  try dsimp only
  repeat' first
    | with_reducible exact hk | with_reducible apply dropReqs_keeps

theorem noteDepth_keeps {s0 : State} (s : State) (ch : Nat) (hk : Stays s0 s) :
    Stays s0 (noteDepth s ch) := by
  unfold noteDepth
  try dsimp only
  repeat' first
    | with_reducible exact hk | with_reducible apply hwSet_keeps | split

theorem addReq_keeps {s0 : State} (s : State) (cls : Class) (program : Bool) (lsa : Nat) (purpose : Purpose) (hk : Stays s0 s) :
    Stays s0 (addReq s cls program lsa purpose) := by
  unfold addReq
  try dsimp only
  repeat' first
    | with_reducible exact hk | with_reducible apply modMed_keeps | with_reducible apply noteDepth_keeps
    | (intro _ h; with_reducible exact h)

theorem prefetchOne_keeps {s0 : State} (s : State) (lsa : Nat) (hk : Stays s0 s) :
    Stays s0 (prefetchOne s lsa) := by
  unfold prefetchOne
  try dsimp only
  repeat' first
    | with_reducible exact hk | with_reducible apply addReq_keeps | with_reducible apply pmcCount_keeps | split

theorem notedMiss_keeps {s0 : State} (s : State) (c : Class) (lsa : Nat) (hk : Stays s0 s) :
    Stays s0 (notedMiss s c lsa) := by
  unfold notedMiss
  try dsimp only
  repeat' first
    | with_reducible exact hk | with_reducible assumption | with_reducible apply modRdp_keeps
    | with_reducible apply prefetchOne_keeps | with_reducible apply stays_foldl | split | intro _ _ _

theorem requestRead_keeps {s0 : State} (s : State) (c : Class) (lsa : Nat) (purpose : Purpose) (hk : Stays s0 s) :
    Stays s0 (requestRead s c lsa purpose) := by
  unfold requestRead
  try dsimp only
  repeat' first
    | with_reducible exact hk | with_reducible exact Stays.refl _ | with_reducible assumption
    | with_reducible apply addReq_keeps | with_reducible apply hwAdd_keeps | with_reducible apply notedMiss_keeps
    | with_reducible apply pmcCount_keeps | with_reducible exact fun x => x | split | intro _ _ _
    | with_reducible exact GlbStays.refl _ | with_reducible rfl | with_reducible exact Nat.le_refl _
    | (intro _ h; with_reducible exact h) | (intro _; with_reducible rfl) | (intro _; with_reducible exact Nat.le_refl _)

theorem askMedium_keeps {s0 : State} (s : State) (c : Class) (lsa : Nat) (purpose : Purpose) (hk : Stays s0 s) :
    Stays s0 (askMedium s c lsa purpose) := by
  unfold askMedium
  try dsimp only
  repeat' first
    | with_reducible exact hk | with_reducible exact Stays.refl _ | with_reducible assumption
    | with_reducible apply delReq_keeps | with_reducible apply modReq_keeps | with_reducible apply requestRead_keeps
    | with_reducible exact fun x => x | split | intro _ _ _ | with_reducible refine stays_mk ?_ ?_ ?_ ?_ ?_ ?_ ?_ ?_ ?_
    | with_reducible exact GlbStays.refl _ | with_reducible rfl | with_reducible exact Nat.le_refl _
    | (intro _ h; with_reducible exact h) | (intro _; with_reducible rfl) | (intro _; with_reducible exact Nat.le_refl _)

theorem countPoison_keeps {s0 : State} (s : State) (r : Nat) (up : Bool) (hk : Stays s0 s) :
    Stays s0 (countPoison s r up) := by
  unfold countPoison
  try dsimp only
  repeat' first
    | with_reducible exact hk | with_reducible apply modRegion_keeps

theorem counterPoison_keeps {s0 : State} (s : State) (lsa : Nat) (cause : Nat) (hk : Stays s0 s) :
    Stays s0 (counterPoison s lsa cause) := by
  unfold counterPoison
  try dsimp only
  repeat' first
    | with_reducible exact hk | with_reducible apply dropReqs_keeps | with_reducible apply evt_keeps
    | with_reducible apply hwSat_keeps | with_reducible apply hwSet_keeps | with_reducible apply raise_keeps
    | with_reducible exact fun x => x | split | with_reducible refine stays_mk ?_ ?_ ?_ ?_ ?_ ?_ ?_ ?_ ?_
    | with_reducible exact GlbStays.refl _ | with_reducible rfl

theorem poisonSlot_keeps {s0 : State} (s : State) (lsa : Nat) (x : Slot) (cause : Nat) (hk : Stays s0 s) :
    Stays s0 (poisonSlot s lsa x cause) := by
  unfold poisonSlot
  try dsimp only
  repeat' first
    | with_reducible exact hk | with_reducible apply cacheDrop_keeps | with_reducible apply countPoison_keeps
    | with_reducible apply counterPoison_keeps | with_reducible apply putSlot_keeps | split

theorem modMirRegion_keeps {s0 : State} (s : State) (r : Nat) (f : MirRegion → MirRegion) (hk : Stays s0 s) :
    Stays s0 (modMirRegion s r f) := by
  unfold modMirRegion
  try dsimp only
  repeat' first
    | with_reducible exact hk | with_reducible exact fun x => x | with_reducible refine stays_mk ?_ ?_ ?_ ?_ ?_ ?_ ?_ ?_ ?_
    | with_reducible exact GlbStays.refl _ | with_reducible rfl

theorem sendFrame_keeps {s0 : State} (s : State) (n : MPort) (seq : BitVec 48) (b : MirBody) (hk : Stays s0 s) :
    Stays s0 (sendFrame s n seq b) := by
  unfold sendFrame
  try dsimp only
  repeat' first
    | with_reducible exact hk | with_reducible exact Stays.refl _ | with_reducible assumption | with_reducible apply emit_keeps
    | with_reducible apply modMir_keeps | with_reducible exact fun x => x | split | intro _ _ _
    | with_reducible refine stays_mk ?_ ?_ ?_ ?_ ?_ ?_ ?_ ?_ ?_  | with_reducible exact GlbStays.refl _ | with_reducible rfl
    | with_reducible exact Nat.le_refl _ | (intro _ h; with_reducible exact h) | (intro _; with_reducible rfl)
    | (intro _; with_reducible exact Nat.le_refl _)

theorem sendNote_keeps {s0 : State} (s : State) (n : MPort) (b : MirBody) (hk : Stays s0 s) :
    Stays s0 (sendNote s n b) := by
  unfold sendNote
  try dsimp only
  repeat' first
    | with_reducible exact hk | with_reducible exact Stays.refl _ | with_reducible assumption
    | with_reducible apply sendFrame_keeps | with_reducible exact fun x => x | split | intro _ _ _
    | with_reducible exact GlbStays.refl _ | with_reducible rfl | with_reducible exact Nat.le_refl _
    | (intro _ h; with_reducible exact h) | (intro _; with_reducible rfl) | (intro _; with_reducible exact Nat.le_refl _)

theorem sendRecords_keeps {s0 : State} (s : State) (n : MPort) (l : List (BitVec 48 × Record)) (hk : Stays s0 s) :
    Stays s0 (sendRecords s n l) := by
  unfold sendRecords
  try dsimp only
  repeat' first
    | with_reducible exact hk | with_reducible exact Stays.refl _ | with_reducible assumption
    | with_reducible apply sendFrame_keeps | with_reducible apply stays_foldl | with_reducible apply stays_foldl_fst
    | with_reducible apply stays_foldl_snd | with_reducible exact fun x => x | split | intro _ _ _
    | with_reducible exact GlbStays.refl _ | with_reducible rfl | with_reducible exact Nat.le_refl _
    | (intro _ h; with_reducible exact h) | (intro _; with_reducible rfl) | (intro _; with_reducible exact Nat.le_refl _)

theorem journalRead_keeps {s0 : State} (s : State) (n : MPort) (held : Nat) (taken : Nat) (hk : Stays s0 s) :
    Stays s0 (journalRead s n held taken) := by
  unfold journalRead
  try dsimp only
  repeat' first
    | with_reducible exact hk | with_reducible exact Stays.refl _ | with_reducible assumption
    | with_reducible apply openCount_keeps | with_reducible apply stays_foldl | with_reducible exact fun x => x | split
    | intro _ _ _ | with_reducible exact GlbStays.refl _ | with_reducible rfl | with_reducible exact Nat.le_refl _
    | (intro _ h; with_reducible exact h) | (intro _; with_reducible rfl) | (intro _; with_reducible exact Nat.le_refl _)

theorem mirPump_keeps {s0 : State} (s : State) (n : MPort) (held : Nat) (hk : Stays s0 s) :
    Stays s0 (mirPump s n held) := by
  unfold mirPump
  try dsimp only
  repeat' first
    | with_reducible exact hk | with_reducible exact Stays.refl _ | with_reducible assumption
    | with_reducible apply hwAdd_keeps | with_reducible apply journalRead_keeps | with_reducible apply modMir_keeps
    | with_reducible apply pmcCount_keeps | with_reducible apply sendRecords_keeps | with_reducible exact fun x => x | split
    | intro _ _ _ | with_reducible refine stays_mk ?_ ?_ ?_ ?_ ?_ ?_ ?_ ?_ ?_  | with_reducible exact GlbStays.refl _
    | with_reducible rfl | with_reducible exact Nat.le_refl _ | (intro _ h; with_reducible exact h)
    | (intro _; with_reducible rfl) | (intro _; with_reducible exact Nat.le_refl _)

theorem markStale_keeps {s0 : State} (s : State) (rs : List Nat) (hk : Stays s0 s) :
    Stays s0 (markStale s rs) := by
  unfold markStale
  try dsimp only
  repeat' first
    | with_reducible exact hk | with_reducible exact Stays.refl _ | with_reducible assumption
    | with_reducible apply modMirRegion_keeps | with_reducible apply stays_foldl | with_reducible exact fun x => x | split
    | intro _ _ _ | with_reducible refine stays_mk ?_ ?_ ?_ ?_ ?_ ?_ ?_ ?_ ?_  | with_reducible exact GlbStays.refl _
    | with_reducible rfl | with_reducible exact Nat.le_refl _ | (intro _ h; with_reducible exact h)
    | (intro _; with_reducible rfl) | (intro _; with_reducible exact Nat.le_refl _)

theorem mirOverflow_keeps {s0 : State} (s : State) (n : MPort) (hk : Stays s0 s) :
    Stays s0 (mirOverflow s n) := by
  unfold mirOverflow
  try dsimp only
  repeat' first
    | with_reducible exact hk | with_reducible exact Stays.refl _ | with_reducible assumption | with_reducible apply evt_keeps
    | with_reducible apply markStale_keeps | with_reducible apply modMir_keeps | with_reducible apply raise_keeps
    | with_reducible exact fun x => x | split | intro _ _ _ | with_reducible refine stays_mk ?_ ?_ ?_ ?_ ?_ ?_ ?_ ?_ ?_
    | with_reducible exact GlbStays.refl _ | with_reducible rfl | with_reducible exact Nat.le_refl _
    | (intro _ h; with_reducible exact h) | (intro _; with_reducible rfl) | (intro _; with_reducible exact Nat.le_refl _)

theorem journalAppend_keeps {s0 : State} (s : State) (n : MPort) (bytes : Nat) (hk : Stays s0 s) :
    Stays s0 (journalAppend s n bytes) := by
  unfold journalAppend
  try dsimp only
  repeat' first
    | with_reducible exact hk | with_reducible exact Stays.refl _ | with_reducible assumption
    | with_reducible apply addReq_keeps | with_reducible apply mirOverflow_keeps | with_reducible apply modMir_keeps
    | with_reducible apply stays_foldl | with_reducible exact fun x => x | split | intro _ _ _
    | with_reducible refine stays_mk ?_ ?_ ?_ ?_ ?_ ?_ ?_ ?_ ?_  | with_reducible exact GlbStays.refl _ | with_reducible rfl
    | with_reducible exact Nat.le_refl _ | (intro _ h; with_reducible exact h) | (intro _; with_reducible rfl)
    | (intro _; with_reducible exact Nat.le_refl _)

theorem mirPut_keeps {s0 : State} (s : State) (n : MPort) (ts : List TxRecord) (hk : Stays s0 s) :
    Stays s0 (mirPut s n ts) := by
  unfold mirPut
  try dsimp only
  repeat' first
    | with_reducible exact hk | with_reducible exact Stays.refl _ | with_reducible assumption
    | with_reducible apply journalAppend_keeps | with_reducible apply markStale_keeps | with_reducible apply mirOverflow_keeps
    | with_reducible apply mirPump_keeps | with_reducible apply modMir_keeps | with_reducible exact fun x => x | split
    | intro _ _ _ | with_reducible refine stays_mk ?_ ?_ ?_ ?_ ?_ ?_ ?_ ?_ ?_  | with_reducible exact GlbStays.refl _
    | with_reducible rfl | with_reducible exact Nat.le_refl _ | (intro _ h; with_reducible exact h)
    | (intro _; with_reducible rfl) | (intro _; with_reducible exact Nat.le_refl _)

theorem mirAppend_keeps {s0 : State} (s : State) (n : MPort) (rec : Record) (cmd : Option Nat) (hk : Stays s0 s) :
    Stays s0 (mirAppend s n rec cmd) := by
  unfold mirAppend
  try dsimp only
  repeat' first
    | with_reducible exact hk | with_reducible exact Stays.refl _ | with_reducible assumption
    | with_reducible apply mirPut_keeps | with_reducible exact fun x => x | split | intro _ _ _
    | with_reducible exact GlbStays.refl _ | with_reducible rfl | with_reducible exact Nat.le_refl _
    | (intro _ h; with_reducible exact h) | (intro _; with_reducible rfl) | (intro _; with_reducible exact Nat.le_refl _)

theorem mirSend_keeps {s0 : State} (s : State) (n : MPort) (rec : Record) (cmd : Option Nat) (hk : Stays s0 s) :
    Stays s0 (mirSend s n rec cmd) := by
  unfold mirSend
  try dsimp only
  repeat' first
    | with_reducible exact hk | with_reducible exact Stays.refl _ | with_reducible assumption
    | with_reducible apply mirAppend_keeps | with_reducible apply modMirRegion_keeps | with_reducible exact fun x => x | split
    | intro _ _ _ | with_reducible refine stays_mk ?_ ?_ ?_ ?_ ?_ ?_ ?_ ?_ ?_  | with_reducible exact GlbStays.refl _
    | with_reducible rfl | with_reducible exact Nat.le_refl _ | (intro _ h; with_reducible exact h)
    | (intro _; with_reducible rfl) | (intro _; with_reducible exact Nat.le_refl _)

theorem askIntent_keeps {s0 : State} (s : State) (lsa : Nat) (hk : Stays s0 s) :
    Stays s0 (askIntent s lsa) := by
  unfold askIntent
  try dsimp only
  repeat' first
    | with_reducible exact hk | with_reducible exact Stays.refl _ | with_reducible assumption | with_reducible exact fun x => x
    | split | intro _ _ _ | with_reducible refine stays_mk ?_ ?_ ?_ ?_ ?_ ?_ ?_ ?_ ?_  | with_reducible exact GlbStays.refl _
    | with_reducible rfl | with_reducible exact Nat.le_refl _ | (intro _ h; with_reducible exact h)
    | (intro _; with_reducible rfl) | (intro _; with_reducible exact Nat.le_refl _)

theorem formRecord_keeps {s0 : State} (s : State) (rec : Record) (cmd : Option Nat) (hk : Stays s0 s) :
    Stays s0 (formRecord s rec cmd) := by
  unfold formRecord
  try dsimp only
  repeat' first
    | with_reducible exact hk | with_reducible exact Stays.refl _ | with_reducible assumption
    | with_reducible apply mirSend_keeps | with_reducible exact fun x => x | split | intro _ _ _
    | with_reducible exact GlbStays.refl _ | with_reducible rfl | with_reducible exact Nat.le_refl _
    | (intro _ h; with_reducible exact h) | (intro _; with_reducible rfl) | (intro _; with_reducible exact Nat.le_refl _)

theorem askRepair_keeps {s0 : State} (s : State) (lsa : Nat) (hk : Stays s0 s) :
    Stays s0 (askRepair s lsa) := by
  unfold askRepair
  try dsimp only
  repeat' first
    | with_reducible exact hk | with_reducible exact Stays.refl _ | with_reducible assumption
    | with_reducible apply sendNote_keeps | with_reducible exact fun x => x | split | intro _ _ _
    | with_reducible exact GlbStays.refl _ | with_reducible rfl | with_reducible exact Nat.le_refl _
    | (intro _ h; with_reducible exact h) | (intro _; with_reducible rfl) | (intro _; with_reducible exact Nat.le_refl _)

theorem askSeeds_keeps {s0 : State} (s : State) (rs : List Nat) (hk : Stays s0 s) :
    Stays s0 (askSeeds s rs) := by
  unfold askSeeds
  try dsimp only
  repeat' first
    | with_reducible exact hk | with_reducible exact Stays.refl _ | with_reducible assumption
    | with_reducible apply modMirRegion_keeps | with_reducible apply sendNote_keeps | with_reducible apply stays_foldl
    | with_reducible exact fun x => x | split | intro _ _ _ | with_reducible refine stays_mk ?_ ?_ ?_ ?_ ?_ ?_ ?_ ?_ ?_
    | with_reducible exact GlbStays.refl _ | with_reducible rfl | with_reducible exact Nat.le_refl _
    | (intro _ h; with_reducible exact h) | (intro _; with_reducible rfl) | (intro _; with_reducible exact Nat.le_refl _)

theorem notePeak_keeps {s0 : State} (s : State) (hk : Stays s0 s) :
    Stays s0 (notePeak s) := by
  unfold notePeak
  try dsimp only
  repeat' first
    | with_reducible exact hk | with_reducible apply hwPeak_keeps

theorem reserve_keeps {s0 : State} (s : State) (id : Nat) (n : Nat) (hk : Stays s0 s) :
    Stays s0 (reserve s id n) := by
  unfold reserve
  try dsimp only
  repeat' first
    | with_reducible exact hk | with_reducible apply modCmd_keeps | with_reducible apply notePeak_keeps

theorem joinLine_keeps {s0 : State} (s : State) (w : Waiter) (hk : Stays s0 s) :
    Stays s0 (joinLine s w) := by
  unfold joinLine
  try dsimp only
  repeat' first
    | with_reducible exact hk | with_reducible exact Stays.refl _ | with_reducible assumption
    | with_reducible apply raise_keeps | with_reducible exact fun x => x | split | intro _ _ _
    | with_reducible refine stays_mk ?_ ?_ ?_ ?_ ?_ ?_ ?_ ?_ ?_  | with_reducible exact GlbStays.refl _ | with_reducible rfl
    | with_reducible exact Nat.le_refl _ | (intro _ h; with_reducible exact h) | (intro _; with_reducible rfl)
    | (intro _; with_reducible exact Nat.le_refl _)

theorem ungrant_keeps {s0 : State} (s : State) (w : Waiter) (hk : Stays s0 s) :
    Stays s0 (ungrant s w) := by
  unfold ungrant
  try dsimp only
  repeat' first
    | with_reducible exact hk | with_reducible exact Stays.refl _ | with_reducible assumption | with_reducible exact fun x => x
    | split | intro _ _ _ | with_reducible refine stays_mk ?_ ?_ ?_ ?_ ?_ ?_ ?_ ?_ ?_  | with_reducible exact GlbStays.refl _
    | with_reducible rfl | with_reducible exact Nat.le_refl _ | (intro _ h; with_reducible exact h)
    | (intro _; with_reducible rfl) | (intro _; with_reducible exact Nat.le_refl _)

theorem grantCharge_keeps {s0 : State} (s : State) (w : Waiter) (n : Nat) (hk : Stays s0 s) :
    Stays s0 (grantCharge s w n) := by
  unfold grantCharge
  try dsimp only
  repeat' first
    | with_reducible exact hk | with_reducible exact Stays.refl _ | with_reducible assumption
    | with_reducible apply notePeak_keeps | with_reducible exact fun x => x | split | intro _ _ _
    | with_reducible refine stays_mk ?_ ?_ ?_ ?_ ?_ ?_ ?_ ?_ ?_  | with_reducible exact GlbStays.refl _ | with_reducible rfl
    | with_reducible exact Nat.le_refl _ | (intro _ h; with_reducible exact h) | (intro _; with_reducible rfl)
    | (intro _; with_reducible exact Nat.le_refl _)

theorem waitCharge_keeps {s0 : State} (s : State) (id : Nat) (hk : Stays s0 s) :
    Stays s0 (waitCharge s id) := by
  unfold waitCharge
  try dsimp only
  repeat' first
    | with_reducible exact hk | with_reducible exact Stays.refl _ | with_reducible assumption
    | with_reducible apply joinLine_keeps | with_reducible apply refuse_keeps | with_reducible apply stageCmd_keeps
    | with_reducible exact fun x => x | split | intro _ _ _ | with_reducible exact GlbStays.refl _ | with_reducible rfl
    | with_reducible exact Nat.le_refl _ | (intro _ h; with_reducible exact h) | (intro _; with_reducible rfl)
    | (intro _; with_reducible exact Nat.le_refl _)

theorem makeRoom_keeps {s0 : State} (s : State) (hk : Stays s0 s) :
    Stays s0 (makeRoom s) := by
  unfold makeRoom
  try dsimp only
  repeat' first
    | with_reducible exact hk | with_reducible apply freeSlot_keeps | split

theorem takeStamp_keeps {s0 : State} (s : State) (hk : Stays s0 s) :
    Stays s0 (takeStamp s) := by
  unfold takeStamp
  try dsimp only
  repeat' first
    | with_reducible exact hk | with_reducible exact fun x => x | with_reducible refine stays_mk ?_ ?_ ?_ ?_ ?_ ?_ ?_ ?_ ?_
    | with_reducible exact GlbStays.refl _ | with_reducible rfl

theorem slotCheck_keeps {s0 : State} (s : State) (lsa : Nat) (hk : Stays s0 s) :
    Stays s0 (slotCheck s lsa) := by
  unfold slotCheck
  try dsimp only
  repeat' first
    | with_reducible exact hk | with_reducible exact Stays.refl _ | with_reducible assumption | with_reducible apply evt_keeps
    | with_reducible apply freeSlot_keeps | with_reducible apply poisonSlot_keeps | with_reducible apply putSlot_keeps
    | with_reducible apply setFatal_keeps | with_reducible exact fun x => x | split | intro _ _ _
    | with_reducible refine stays_mk ?_ ?_ ?_ ?_ ?_ ?_ ?_ ?_ ?_  | with_reducible exact GlbStays.refl _ | with_reducible rfl
    | with_reducible exact Nat.le_refl _ | (intro _ h; with_reducible exact h) | (intro _; with_reducible rfl)
    | (intro _; with_reducible exact Nat.le_refl _)

theorem useSlot_keeps {s0 : State} (s : State) (lsa : Nat) (hk : Stays s0 s) :
    Stays s0 (useSlot s lsa) := by
  unfold useSlot
  try dsimp only
  repeat' first
    | with_reducible exact hk | with_reducible apply modSlot_keeps | with_reducible apply takeStamp_keeps

theorem releaseOks_keeps {s0 : State} (s : State) (hk : Stays s0 s) :
    Stays s0 (releaseOks s) := by
  unfold releaseOks
  try dsimp only
  repeat' first
    | with_reducible exact hk | with_reducible assumption | with_reducible apply complete_keeps
    | with_reducible apply stays_foldl | split | intro _ _ _

theorem dropSync_keeps {s0 : State} (s : State) (hk : Stays s0 s) :
    Stays s0 (dropSync s) := by
  unfold dropSync
  try dsimp only
  repeat' first
    | with_reducible exact hk | with_reducible exact Stays.refl _ | with_reducible assumption | with_reducible apply evt_keeps
    | with_reducible apply modRegion_keeps | with_reducible apply raise_keeps | with_reducible apply releaseOks_keeps
    | with_reducible apply saveInner_keeps | with_reducible apply stays_foldl | with_reducible exact fun x => x | split
    | intro _ _ _ | with_reducible refine stays_mk ?_ ?_ ?_ ?_ ?_ ?_ ?_ ?_ ?_  | with_reducible exact GlbStays.refl _
    | with_reducible rfl | with_reducible exact Nat.le_refl _ | (intro _ h; with_reducible exact h)
    | (intro _; with_reducible rfl) | (intro _; with_reducible exact Nat.le_refl _)

theorem syncRule_keeps {s0 : State} (s : State) (hk : Stays s0 s) :
    Stays s0 (syncRule s) := by
  unfold syncRule
  try dsimp only
  repeat' first
    | with_reducible exact hk | with_reducible exact Stays.refl _ | with_reducible assumption
    | with_reducible apply dropSync_keeps | with_reducible exact fun x => x | split | intro _ _ _
    | with_reducible exact GlbStays.refl _ | with_reducible rfl | with_reducible exact Nat.le_refl _
    | (intro _ h; with_reducible exact h) | (intro _; with_reducible rfl) | (intro _; with_reducible exact Nat.le_refl _)

theorem sendAck_keeps {s0 : State} (s : State) (n : MPort) (hk : Stays s0 s) :
    Stays s0 (sendAck s n) := by
  unfold sendAck
  try dsimp only
  repeat' first
    | with_reducible exact hk | with_reducible exact Stays.refl _ | with_reducible assumption
    | with_reducible apply modMir_keeps | with_reducible apply sendFrame_keeps | with_reducible exact fun x => x | split
    | intro _ _ _ | with_reducible refine stays_mk ?_ ?_ ?_ ?_ ?_ ?_ ?_ ?_ ?_  | with_reducible exact GlbStays.refl _
    | with_reducible rfl | with_reducible exact Nat.le_refl _ | (intro _ h; with_reducible exact h)
    | (intro _; with_reducible rfl) | (intro _; with_reducible exact Nat.le_refl _)

theorem finishWrite_keeps {s0 : State} (s : State) (id : Nat) (r : Resp) (hk : Stays s0 s) :
    Stays s0 (finishWrite s id r) := by
  unfold finishWrite
  try dsimp only
  repeat' first
    | with_reducible exact hk | with_reducible exact Stays.refl _ | with_reducible assumption
    | with_reducible apply askIntent_keeps | with_reducible apply complete_keeps | with_reducible apply delCmd_keeps
    | with_reducible apply hwAdd_keeps | with_reducible apply modCmd_keeps | with_reducible apply sendAck_keeps
    | with_reducible exact fun x => x | split | intro _ _ _ | with_reducible refine stays_mk ?_ ?_ ?_ ?_ ?_ ?_ ?_ ?_ ?_
    | with_reducible exact GlbStays.refl _ | with_reducible rfl | with_reducible exact Nat.le_refl _
    | (intro _ h; with_reducible exact h) | (intro _; with_reducible rfl) | (intro _; with_reducible exact Nat.le_refl _)

theorem countMerge_keeps {s0 : State} (s : State) (x : HostCmd) (hk : Stays s0 s) :
    Stays s0 (countMerge s x) := by
  unfold countMerge
  try dsimp only
  repeat' first
    | with_reducible exact hk | with_reducible apply hwAdd_keeps | with_reducible apply pmcCount_keeps | split

theorem countJoin_keeps {s0 : State} (s : State) (hk : Stays s0 s) :
    Stays s0 (countJoin s) := by
  unfold countJoin
  try dsimp only
  repeat' first
    | with_reducible exact hk | with_reducible apply hwAdd_keeps | with_reducible apply pmcCount_keeps

theorem landWrite_keeps {s0 : State} (s : State) (x : HostCmd) (lsa : Nat) (slot : Slot) (hk : Stays s0 s) :
    Stays s0 (landWrite s x lsa slot) := by
  unfold landWrite
  try dsimp only
  repeat' first
    | with_reducible exact hk | with_reducible exact Stays.refl _ | with_reducible assumption
    | with_reducible apply cacheWrite_keeps | with_reducible apply countMerge_keeps | with_reducible apply finishWrite_keeps
    | with_reducible apply formRecord_keeps | with_reducible apply modCmd_keeps | with_reducible apply notePeak_keeps
    | with_reducible apply putSlot_keeps | with_reducible apply takeStamp_keeps | with_reducible exact fun x => x | split
    | intro _ _ _ | with_reducible refine stays_mk ?_ ?_ ?_ ?_ ?_ ?_ ?_ ?_ ?_  | with_reducible exact GlbStays.refl _
    | with_reducible rfl | with_reducible exact Nat.le_refl _ | (intro _ h; with_reducible exact h)
    | (intro _; with_reducible rfl) | (intro _; with_reducible exact Nat.le_refl _)

theorem clearMark_keeps {s0 : State} (s : State) (lsa : Nat) (hk : Stays s0 s) :
    Stays s0 (clearMark s lsa) := by
  unfold clearMark
  try dsimp only
  repeat' first
    | with_reducible exact hk | with_reducible exact Stays.refl _ | with_reducible assumption
    | with_reducible apply countPoison_keeps | with_reducible apply modMed_keeps | with_reducible exact fun x => x | split
    | intro _ _ _ | with_reducible refine stays_mk ?_ ?_ ?_ ?_ ?_ ?_ ?_ ?_ ?_  | with_reducible exact GlbStays.refl _
    | with_reducible rfl | with_reducible exact Nat.le_refl _ | (intro _ h; with_reducible exact h)
    | (intro _; with_reducible rfl) | (intro _; with_reducible exact Nat.le_refl _)

theorem startFetch_keeps {s0 : State} (s : State) (x : HostCmd) (lsa : Nat) (hk : Stays s0 s) :
    Stays s0 (startFetch s x lsa) := by
  unfold startFetch
  try dsimp only
  repeat' first
    | with_reducible exact hk | with_reducible exact Stays.refl _ | with_reducible assumption
    | with_reducible apply askMedium_keeps | with_reducible refine cacheProbe_keeps (by assumption) ?_
    | with_reducible apply hwAdd_keeps | with_reducible apply landWrite_keeps | with_reducible apply makeRoom_keeps
    | with_reducible apply modCmd_keeps | with_reducible apply notePeak_keeps | with_reducible apply pmcCount_keeps
    | with_reducible apply putSlot_keeps | with_reducible exact fun x => x | split | intro _ _ _
    | with_reducible refine stays_mk ?_ ?_ ?_ ?_ ?_ ?_ ?_ ?_ ?_  | with_reducible exact GlbStays.refl _ | with_reducible rfl
    | with_reducible exact Nat.le_refl _ | (intro _ h; with_reducible exact h) | (intro _; with_reducible rfl)
    | (intro _; with_reducible exact Nat.le_refl _)

theorem refuseWrite_keeps {s0 : State} (s : State) (x : HostCmd) (r : Resp) (hk : Stays s0 s) :
    Stays s0 (refuseWrite s x r) := by
  unfold refuseWrite
  try dsimp only
  repeat' first
    | with_reducible exact hk | with_reducible apply delCmd_keeps | with_reducible apply refuse_keeps
    | with_reducible apply sendAck_keeps | split

theorem applyWrite_keeps {s0 : State} (s : State) (id : Nat) (hk : Stays s0 s) :
    Stays s0 (applyWrite s id) := by
  unfold applyWrite
  try dsimp only
  repeat' first
    | with_reducible exact hk | with_reducible exact Stays.refl _ | with_reducible assumption
    | with_reducible apply clearMark_keeps | with_reducible apply countJoin_keeps | with_reducible apply landWrite_keeps
    | with_reducible apply makeRoom_keeps | with_reducible apply modCmd_keeps | with_reducible apply putSlot_keeps
    | with_reducible apply refuseWrite_keeps | with_reducible apply slotCheck_keeps | with_reducible apply startFetch_keeps
    | with_reducible exact fun x => x | split | intro _ _ _ | with_reducible refine stays_mk ?_ ?_ ?_ ?_ ?_ ?_ ?_ ?_ ?_
    | with_reducible exact GlbStays.refl _ | with_reducible rfl | with_reducible exact Nat.le_refl _
    | (intro _ h; with_reducible exact h) | (intro _; with_reducible rfl) | (intro _; with_reducible exact Nat.le_refl _)

theorem bitmapStep_keeps {s0 : State} (s : State) (id : Nat) (hk : Stays s0 s) :
    Stays s0 (bitmapStep s id) := by
  unfold bitmapStep
  try dsimp only
  repeat' first
    | with_reducible exact hk | with_reducible apply applyWrite_keeps | with_reducible apply stageCmd_keeps
    | with_reducible exact fun x => x | split | with_reducible refine stays_mk ?_ ?_ ?_ ?_ ?_ ?_ ?_ ?_ ?_
    | with_reducible exact GlbStays.refl _ | with_reducible rfl

theorem admitWrite_keeps {s0 : State} (s : State) (id : Nat) (hk : Stays s0 s) :
    Stays s0 (admitWrite s id) := by
  unfold admitWrite
  try dsimp only
  repeat' first
    | with_reducible exact hk | with_reducible exact Stays.refl _ | with_reducible assumption
    | with_reducible apply applyWrite_keeps | with_reducible apply bitmapStep_keeps | with_reducible apply modCmd_keeps
    | with_reducible apply refuse_keeps | with_reducible apply reserve_keeps | with_reducible apply syncRule_keeps
    | with_reducible apply waitCharge_keeps | with_reducible exact fun x => x | split | intro _ _ _
    | with_reducible refine stays_mk ?_ ?_ ?_ ?_ ?_ ?_ ?_ ?_ ?_  | with_reducible exact GlbStays.refl _ | with_reducible rfl
    | with_reducible exact Nat.le_refl _ | (intro _ h; with_reducible exact h) | (intro _; with_reducible rfl)
    | (intro _; with_reducible exact Nat.le_refl _)

theorem finishRead_keeps {s0 : State} (s : State) (x : HostCmd) (d : Sector) (source : Nat) (ladder : Nat) (hk : Stays s0 s) :
    Stays s0 (finishRead s x d source ladder) := by
  unfold finishRead
  try dsimp only
  repeat' first
    | with_reducible exact hk | with_reducible apply complete_keeps

theorem runQueued_keeps {s0 : State} (s : State) (lsa : Nat) (id : Nat) (hk : Stays s0 s) :
    Stays s0 (runQueued s lsa id) := by
  unfold runQueued
  try dsimp only
  repeat' first
    | with_reducible exact hk | with_reducible exact Stays.refl _ | with_reducible assumption
    | with_reducible apply clearMark_keeps | with_reducible apply complete_keeps | with_reducible apply finishRead_keeps
    | with_reducible apply landWrite_keeps | with_reducible apply refuseWrite_keeps | with_reducible exact fun x => x | split
    | intro _ _ _ | with_reducible exact GlbStays.refl _ | with_reducible rfl | with_reducible exact Nat.le_refl _
    | (intro _ h; with_reducible exact h) | (intro _; with_reducible rfl) | (intro _; with_reducible exact Nat.le_refl _)

theorem runQueue_keeps {s0 : State} (s : State) (lsa : Nat) (q : List Nat) (hk : Stays s0 s) :
    Stays s0 (runQueue s lsa q) := by
  unfold runQueue
  try dsimp only
  repeat' first
    | with_reducible exact hk | with_reducible assumption | with_reducible apply runQueued_keeps
    | with_reducible apply stays_foldl | intro _ _ _

theorem probe_keeps {s0 : State} (s : State) (cls : Class) (lsa : Nat) (hk : Stays s0 s) :
    Stays s0 (probe s cls lsa).2 := by
  unfold probe
  try dsimp only
  repeat' first
    | with_reducible exact hk | with_reducible refine cacheProbe_keeps (by assumption) ?_
    | with_reducible apply slotCheck_keeps | with_reducible apply useSlot_keeps | split

theorem missRead_keeps {s0 : State} (s : State) (c : Class) (lsa : Nat) (id : Nat) (hk : Stays s0 s) :
    Stays s0 (missRead s c lsa id) := by
  unfold missRead
  try dsimp only
  repeat' first
    | with_reducible exact hk | with_reducible apply askMedium_keeps | with_reducible apply modCmd_keeps
    | with_reducible apply modReq_keeps | split

theorem startRead_keeps {s0 : State} (s : State) (id : Nat) (hk : Stays s0 s) :
    Stays s0 (startRead s id) := by
  unfold startRead
  try dsimp only
  repeat' first
    | with_reducible exact hk | with_reducible apply complete_keeps | with_reducible apply finishRead_keeps
    | with_reducible apply missRead_keeps | with_reducible apply modCmd_keeps | with_reducible apply modSlot_keeps
    | with_reducible apply probe_keeps | with_reducible refine stays_snd (by assumption) ?_ | split

end Sys2Proof.Machine
end

