-- ==== Sys2Proof/Laws/KeepsB.lean ====
section
/-! SUPPORT. What every command keeps, operation by operation: LkeOps, CntOps, DbqOps, FailOps, HostOps. -/

namespace Sys2Proof.Machine

theorem putSector_keeps {s0 : State} (s : State) (lsa : Nat) (d : Sector) (aged : Bool) (hk : Stays s0 s) :
    Stays s0 (putSector s lsa d aged) := by
  unfold putSector
  try dsimp only
  repeat' first
    | with_reducible exact hk | with_reducible apply cacheWrite_keeps | with_reducible apply clearMark_keeps
    | with_reducible apply countJoin_keeps | with_reducible apply makeRoom_keeps | with_reducible apply notePeak_keeps
    | with_reducible apply putSlot_keeps | with_reducible apply takeStamp_keeps | split

theorem askBitmap_keeps {s0 : State} (s : State) (r : Nat) (hk : Stays s0 s) :
    Stays s0 (askBitmap s r) := by
  unfold askBitmap
  try dsimp only
  repeat' first
    | with_reducible exact hk | with_reducible exact fun x => x | split
    | with_reducible refine stays_mk ?_ ?_ ?_ ?_ ?_ ?_ ?_ ?_ ?_  | with_reducible exact GlbStays.refl _ | with_reducible rfl

theorem admitSector_keeps {s0 : State} (s : State) (w : Waiter) (lsa : Nat) (hk : Stays s0 s) :
    Stays s0 (admitSector s w lsa).2 := by
  unfold admitSector
  try dsimp only
  repeat' first
    | with_reducible exact hk | with_reducible exact Stays.refl _ | with_reducible assumption
    | with_reducible apply askBitmap_keeps | with_reducible apply grantCharge_keeps | with_reducible apply joinLine_keeps
    | with_reducible apply ungrant_keeps | with_reducible exact fun x => x | split | intro _ _ _
    | with_reducible exact GlbStays.refl _ | with_reducible rfl | with_reducible exact Nat.le_refl _
    | (intro _ h; with_reducible exact h) | (intro _; with_reducible rfl) | (intro _; with_reducible exact Nat.le_refl _)

theorem modLke_keeps {s0 : State} (s : State) (f : Lke → Lke) (hk : Stays s0 s) :
    Stays s0 (modLke s f) := by
  unfold modLke
  try dsimp only
  repeat' first
    | with_reducible exact hk | with_reducible exact fun x => x | with_reducible refine stays_mk ?_ ?_ ?_ ?_ ?_ ?_ ?_ ?_ ?_
    | with_reducible exact GlbStays.refl _ | with_reducible rfl

theorem dropPrev_keeps {s0 : State} (s : State) (hk : Stays s0 s) :
    Stays s0 (dropPrev s) := by
  unfold dropPrev
  try dsimp only
  repeat' first
    | with_reducible exact hk | with_reducible apply modLke_keeps | split

theorem endJob_keeps {s0 : State} (s : State) (id : Nat) (hk : Stays s0 s) :
    Stays s0 (endJob s id) := by
  unfold endJob
  try dsimp only
  repeat' first
    | with_reducible exact hk | with_reducible apply dropPrev_keeps | with_reducible apply modLke_keeps

theorem leafBad_keeps {s0 : State} (s : State) (x : HostCmd) (e : Engine) (table : Nat) (lsa : Nat) (lost : Bool) (tier : Bool) (hk : Stays s0 s) :
    Stays s0 (leafBad s x e table lsa lost tier) := by
  unfold leafBad
  try dsimp only
  repeat' first
    | with_reducible exact hk | with_reducible apply evt_keeps | with_reducible apply hwSat_keeps
    | with_reducible apply hwSet_keeps | with_reducible apply raise_keeps

theorem noteBad_keeps {s0 : State} (s : State) (x : HostCmd) (k : Nat) (table : Nat) (lsa : Nat) (hk : Stays s0 s) :
    Stays s0 (noteBad s x k table lsa) := by
  unfold noteBad
  try dsimp only
  repeat' first
    | with_reducible exact hk | with_reducible exact Stays.refl _ | with_reducible assumption
    | with_reducible apply leafBad_keeps | with_reducible apply modLke_keeps | with_reducible exact fun x => x | split
    | intro _ _ _ | with_reducible refine stays_mk ?_ ?_ ?_ ?_ ?_ ?_ ?_ ?_ ?_  | with_reducible exact GlbStays.refl _
    | with_reducible rfl | with_reducible exact Nat.le_refl _ | (intro _ h; with_reducible exact h)
    | (intro _; with_reducible rfl) | (intro _; with_reducible exact Nat.le_refl _)

theorem lkupPoison_keeps {s0 : State} (s : State) (id : Nat) (hk : Stays s0 s) :
    Stays s0 (lkupPoison s id) := by
  unfold lkupPoison
  try dsimp only
  repeat' first
    | with_reducible exact hk | with_reducible apply complete_keeps | with_reducible apply endJob_keeps

theorem askLeafWrite_keeps {s0 : State} (s : State) (lsa : Nat) (hk : Stays s0 s) :
    Stays s0 (askLeafWrite s lsa) := by
  unfold askLeafWrite
  try dsimp only
  repeat' first
    | with_reducible exact hk | with_reducible apply modLke_keeps | split

theorem lookLeaf_keeps {s0 : State} (s : State) (x : HostCmd) (e : Engine) (lsa : Nat) (hk : Stays s0 s) :
    Stays s0 (lookLeaf s x e lsa).2 := by
  unfold lookLeaf
  try dsimp only
  repeat' first
    | with_reducible exact hk | with_reducible apply hwAdd_keeps | with_reducible apply missRead_keeps
    | with_reducible apply pmcCount_keeps | with_reducible apply probe_keeps
    | with_reducible refine stays_snd (by assumption) ?_ | split

theorem repairLeaf_keeps {s0 : State} (s : State) (lsa : Nat) (hk : Stays s0 s) :
    Stays s0 (repairLeaf s lsa) := by
  unfold repairLeaf
  try dsimp only
  repeat' first
    | with_reducible exact hk | with_reducible apply askLeafWrite_keeps | split

theorem readSecond_keeps {s0 : State} (s : State) (x : HostCmd) (e : Engine) (k : Nat) (tn : Nat) (t : Table) (lsa : Nat) (hk : Stays s0 s) :
    Stays s0 (readSecond s x e k tn t lsa).2 := by
  unfold readSecond
  try dsimp only
  repeat' first
    | with_reducible exact hk | with_reducible exact Stays.refl _ | with_reducible assumption
    | with_reducible apply lookLeaf_keeps | with_reducible apply noteBad_keeps | with_reducible apply repairLeaf_keeps
    | with_reducible refine stays_snd (by assumption) ?_ | with_reducible exact fun x => x | split | intro _ _ _
    | with_reducible exact GlbStays.refl _ | with_reducible rfl | with_reducible exact Nat.le_refl _
    | (intro _ h; with_reducible exact h) | (intro _; with_reducible rfl) | (intro _; with_reducible exact Nat.le_refl _)

theorem readLeaf_keeps {s0 : State} (s : State) (x : HostCmd) (e : Engine) (k : Nat) (tn : Nat) (t : Table) (lsa : Nat) (hk : Stays s0 s) :
    Stays s0 (readLeaf s x e k tn t lsa).2 := by
  unfold readLeaf
  try dsimp only
  repeat' first
    | with_reducible exact hk | with_reducible exact Stays.refl _ | with_reducible assumption
    | with_reducible apply lookLeaf_keeps | with_reducible apply readSecond_keeps
    | with_reducible refine stays_snd (by assumption) ?_ | with_reducible exact fun x => x | split | intro _ _ _
    | with_reducible exact GlbStays.refl _ | with_reducible rfl | with_reducible exact Nat.le_refl _
    | (intro _ h; with_reducible exact h) | (intro _; with_reducible rfl) | (intro _; with_reducible exact Nat.le_refl _)

theorem readLeaves_keeps {s0 : State} (x : HostCmd) (e : Engine) (k tn : Nat) (t : Table) (acc : Bool × State) (leaves : List Nat)
    (hk : Stays s0 acc.2) : Stays s0 (readLeaves x e k tn t acc leaves).2 := by
  unfold readLeaves
  refine stays_foldl_snd (fun a lsa h => ?_) hk
  exact readLeaf_keeps a.2 x e k tn t lsa h

theorem runStages_keeps {s0 : State} (fuel : Nat) (s : State) (id : Nat) (hk : Stays s0 s) : Stays s0 (runStages fuel s id) := by
  induction fuel generalizing s with
  | zero => exact hk
  | succ fuel ih =>
    unfold runStages
    dsimp only
    repeat' first
    | with_reducible assumption | with_reducible apply ih | with_reducible apply endJob_keeps | with_reducible apply complete_keeps
    | with_reducible apply lkupPoison_keeps | with_reducible apply leafBad_keeps | with_reducible apply pmcCount_keeps
    | with_reducible apply hwAdd_keeps | with_reducible apply readLeaves_keeps | with_reducible apply stays_foldl_snd
    | with_reducible apply stays_foldl | with_reducible apply modLke_keeps | with_reducible apply modCmd_keeps | split
    | intro _ _ _

theorem startLkup_keeps {s0 : State} (s : State) (id : Nat) (hk : Stays s0 s) :
    Stays s0 (startLkup s id) := by
  unfold startLkup
  try dsimp only
  repeat' first
    | with_reducible exact hk | with_reducible exact Stays.refl _ | with_reducible assumption
    | with_reducible apply complete_keeps | with_reducible apply modCmd_keeps | with_reducible apply modLke_keeps
    | with_reducible apply refuse_keeps | with_reducible apply runStages_keeps | with_reducible apply stageCmd_keeps
    | with_reducible exact fun x => x | split | intro _ _ _ | with_reducible refine stays_mk ?_ ?_ ?_ ?_ ?_ ?_ ?_ ?_ ?_
    | with_reducible exact GlbStays.refl _ | with_reducible rfl | with_reducible exact Nat.le_refl _
    | (intro _ h; with_reducible exact h) | (intro _; with_reducible rfl) | (intro _; with_reducible exact Nat.le_refl _)

theorem dispatchLkups_keeps {s0 : State} (s : State) (hk : Stays s0 s) :
    Stays s0 (dispatchLkups s) := by
  unfold dispatchLkups
  try dsimp only
  repeat' first
    | with_reducible exact hk | with_reducible exact Stays.refl _ | with_reducible assumption
    | with_reducible apply startLkup_keeps | with_reducible apply stays_foldl | with_reducible exact fun x => x | split
    | intro _ _ _ | with_reducible exact GlbStays.refl _ | with_reducible rfl | with_reducible exact Nat.le_refl _
    | (intro _ h; with_reducible exact h) | (intro _; with_reducible rfl) | (intro _; with_reducible exact Nat.le_refl _)

theorem leafReturned_keeps {s0 : State} (s : State) (id : Nat) (lsa : Nat) (good : Bool) (hk : Stays s0 s) :
    Stays s0 (leafReturned s id lsa good) := by
  unfold leafReturned
  try dsimp only
  repeat' first
    | with_reducible exact hk | with_reducible exact Stays.refl _ | with_reducible assumption
    | with_reducible apply lkupPoison_keeps | with_reducible apply modCmd_keeps | with_reducible apply readSecond_keeps
    | with_reducible apply repairLeaf_keeps | with_reducible apply runStages_keeps
    | with_reducible refine stays_snd (by assumption) ?_ | with_reducible exact fun x => x | split | intro _ _ _
    | with_reducible refine stays_mk ?_ ?_ ?_ ?_ ?_ ?_ ?_ ?_ ?_  | with_reducible exact GlbStays.refl _ | with_reducible rfl
    | with_reducible exact Nat.le_refl _ | (intro _ h; with_reducible exact h) | (intro _; with_reducible rfl)
    | (intro _; with_reducible exact Nat.le_refl _)

theorem modCnt_keeps {s0 : State} (s : State) (f : Cnt → Cnt) (hk : Stays s0 s) :
    Stays s0 (modCnt s f) := by
  unfold modCnt
  try dsimp only
  repeat' first
    | with_reducible exact hk | with_reducible exact fun x => x | with_reducible refine stays_mk ?_ ?_ ?_ ?_ ?_ ?_ ?_ ?_ ?_
    | with_reducible exact GlbStays.refl _ | with_reducible rfl

theorem poisonEntry_keeps {s0 : State} (s : State) (lsa : Nat) (hk : Stays s0 s) :
    Stays s0 (poisonEntry s lsa) := by
  unfold poisonEntry
  try dsimp only
  repeat' first
    | with_reducible exact hk | with_reducible exact Stays.refl _ | with_reducible assumption
    | with_reducible apply makeRoom_keeps | with_reducible apply notePeak_keeps | with_reducible apply poisonSlot_keeps
    | with_reducible apply takeStamp_keeps | with_reducible exact fun x => x | split | intro _ _ _
    | with_reducible refine stays_mk ?_ ?_ ?_ ?_ ?_ ?_ ?_ ?_ ?_  | with_reducible exact GlbStays.refl _ | with_reducible rfl
    | with_reducible exact Nat.le_refl _ | (intro _ h; with_reducible exact h) | (intro _; with_reducible rfl)
    | (intro _; with_reducible exact Nat.le_refl _)

theorem entryCheck_keeps {s0 : State} (s : State) (k : Nat) (hk : Stays s0 s) :
    Stays s0 (entryCheck s k) := by
  unfold entryCheck
  try dsimp only
  repeat' first
    | with_reducible exact hk | with_reducible exact Stays.refl _ | with_reducible assumption
    | with_reducible apply modCnt_keeps | with_reducible apply poisonEntry_keeps | with_reducible exact fun x => x | split
    | intro _ _ _ | with_reducible refine stays_mk ?_ ?_ ?_ ?_ ?_ ?_ ?_ ?_ ?_  | with_reducible exact GlbStays.refl _
    | with_reducible rfl | with_reducible exact Nat.le_refl _ | (intro _ h; with_reducible exact h)
    | (intro _; with_reducible rfl) | (intro _; with_reducible exact Nat.le_refl _)

theorem entriesCheck_keeps {s0 : State} (s : State) (lsa : Nat) (hk : Stays s0 s) :
    Stays s0 (entriesCheck s lsa) := by
  unfold entriesCheck
  try dsimp only
  repeat' first
    | with_reducible exact hk | with_reducible exact Stays.refl _ | with_reducible assumption
    | with_reducible apply entryCheck_keeps | with_reducible apply stays_foldl | with_reducible apply stays_foldl_fst
    | with_reducible exact fun x => x | split | intro _ _ _ | with_reducible exact GlbStays.refl _ | with_reducible rfl
    | with_reducible exact Nat.le_refl _ | (intro _ h; with_reducible exact h) | (intro _; with_reducible rfl)
    | (intro _; with_reducible exact Nat.le_refl _)

theorem putFold_keeps {s0 : State} (s : State) (lsa : Nat) (j : FoldJob) (hk : Stays s0 s) :
    Stays s0 (putFold s lsa j) := by
  unfold putFold
  try dsimp only
  repeat' first
    | with_reducible exact hk | with_reducible apply modCnt_keeps

theorem foldValue_keeps {s0 : State} (s : State) (lsa : Nat) (j : FoldJob) (d : Sector) (hk : Stays s0 s) :
    Stays s0 (foldValue s lsa j d) := by
  unfold foldValue
  try dsimp only
  repeat' first
    | with_reducible exact hk | with_reducible apply addReq_keeps | with_reducible apply putFold_keeps | split

theorem startFold_keeps {s0 : State} (s : State) (lsa : Nat) (hk : Stays s0 s) :
    Stays s0 (startFold s lsa) := by
  unfold startFold
  try dsimp only
  repeat' first
    | with_reducible exact hk | with_reducible exact Stays.refl _ | with_reducible assumption
    | with_reducible apply askMedium_keeps | with_reducible apply entriesCheck_keeps | with_reducible apply foldValue_keeps
    | with_reducible apply probe_keeps | with_reducible apply putFold_keeps
    | with_reducible refine stays_snd (by assumption) ?_ | with_reducible exact fun x => x | split | intro _ _ _
    | with_reducible exact GlbStays.refl _ | with_reducible rfl | with_reducible exact Nat.le_refl _
    | (intro _ h; with_reducible exact h) | (intro _; with_reducible rfl) | (intro _; with_reducible exact Nat.le_refl _)

theorem foldEverything_keeps {s0 : State} (s : State) (hk : Stays s0 s) :
    Stays s0 (foldEverything s) := by
  unfold foldEverything
  try dsimp only
  repeat' first
    | with_reducible exact hk | with_reducible apply startFold_keeps | with_reducible apply stays_foldl

theorem abandonFold_keeps {s0 : State} (s : State) (lsa : Nat) (hk : Stays s0 s) :
    Stays s0 (abandonFold s lsa) := by
  unfold abandonFold
  try dsimp only
  repeat' first
    | with_reducible exact hk | with_reducible apply dropReqs_keeps | with_reducible apply modCnt_keeps

theorem landCadd_keeps {s0 : State} (s : State) (x : HostCmd) (hk : Stays s0 s) :
    Stays s0 (landCadd s x) := by
  unfold landCadd
  try dsimp only
  repeat' first
    | with_reducible exact hk | with_reducible apply complete_keeps | with_reducible apply hwAdd_keeps
    | with_reducible apply modCmd_keeps | with_reducible apply modCnt_keeps | with_reducible apply notePeak_keeps
    | with_reducible apply pmcCount_keeps

theorem evictFold_keeps {s0 : State} (s : State) (lsa : Nat) (hk : Stays s0 s) :
    Stays s0 (evictFold s lsa) := by
  unfold evictFold
  try dsimp only
  repeat' first
    | with_reducible exact hk | with_reducible exact Stays.refl _ | with_reducible assumption
    | with_reducible apply hwAdd_keeps | with_reducible apply startFold_keeps | with_reducible exact fun x => x | split
    | intro _ _ _ | with_reducible exact GlbStays.refl _ | with_reducible rfl | with_reducible exact Nat.le_refl _
    | (intro _ h; with_reducible exact h) | (intro _; with_reducible rfl) | (intro _; with_reducible exact Nat.le_refl _)

theorem startCadd_keeps {s0 : State} (s : State) (id : Nat) (hk : Stays s0 s) :
    Stays s0 (startCadd s id) := by
  unfold startCadd
  try dsimp only
  repeat' first
    | with_reducible exact hk | with_reducible exact Stays.refl _ | with_reducible assumption
    | with_reducible apply askBitmap_keeps | with_reducible apply entryCheck_keeps | with_reducible apply evictFold_keeps
    | with_reducible apply landCadd_keeps | with_reducible apply refuse_keeps | with_reducible apply reserve_keeps
    | with_reducible apply stageCmd_keeps | with_reducible apply waitCharge_keeps | with_reducible exact fun x => x | split
    | intro _ _ _ | with_reducible exact GlbStays.refl _ | with_reducible rfl | with_reducible exact Nat.le_refl _
    | (intro _ h; with_reducible exact h) | (intro _; with_reducible rfl) | (intro _; with_reducible exact Nat.le_refl _)

theorem finishCrd_keeps {s0 : State} (s : State) (x : HostCmd) (d : Sector) (hk : Stays s0 s) :
    Stays s0 (finishCrd s x d) := by
  unfold finishCrd
  try dsimp only
  repeat' first
    | with_reducible exact hk | with_reducible exact Stays.refl _ | with_reducible assumption
    | with_reducible apply complete_keeps | with_reducible apply entryCheck_keeps | with_reducible apply hwAdd_keeps
    | with_reducible apply pmcCount_keeps | with_reducible exact fun x => x | split | intro _ _ _
    | with_reducible exact GlbStays.refl _ | with_reducible rfl | with_reducible exact Nat.le_refl _
    | (intro _ h; with_reducible exact h) | (intro _; with_reducible rfl) | (intro _; with_reducible exact Nat.le_refl _)

theorem startCrd_keeps {s0 : State} (s : State) (id : Nat) (hk : Stays s0 s) :
    Stays s0 (startCrd s id) := by
  unfold startCrd
  try dsimp only
  repeat' first
    | with_reducible exact hk | with_reducible apply complete_keeps | with_reducible apply finishCrd_keeps
    | with_reducible apply missRead_keeps | with_reducible apply probe_keeps
    | with_reducible refine stays_snd (by assumption) ?_ | split

theorem foldAllRule_keeps {s0 : State} (s : State) (hk : Stays s0 s) :
    Stays s0 (foldAllRule s) := by
  unfold foldAllRule
  try dsimp only
  repeat' first
    | with_reducible exact hk | with_reducible apply foldEverything_keeps | with_reducible apply raise_keeps
    | with_reducible apply setCfg_keeps | split

theorem lagRule_keeps {s0 : State} (s : State) (hk : Stays s0 s) :
    Stays s0 (lagRule s) := by
  unfold lagRule
  try dsimp only
  repeat' first
    | with_reducible exact hk | with_reducible apply evt_keeps | with_reducible apply modCnt_keeps
    | with_reducible apply raise_keeps | split

theorem modDbq_keeps {s0 : State} (s : State) (f : Dbq → Dbq) (hk : Stays s0 s) :
    Stays s0 (modDbq s f) := by
  unfold modDbq
  try dsimp only
  repeat' first
    | with_reducible exact hk | with_reducible exact fun x => x | with_reducible refine stays_mk ?_ ?_ ?_ ?_ ?_ ?_ ?_ ?_ ?_
    | with_reducible exact GlbStays.refl _ | with_reducible rfl

theorem putQueue_keeps {s0 : State} (s : State) (q : Nat) (v : Queue) (hk : Stays s0 s) :
    Stays s0 (putQueue s q v) := by
  unfold putQueue
  try dsimp only
  repeat' first
    | with_reducible exact hk | with_reducible apply modDbq_keeps

theorem modQueue_keeps {s0 : State} (s : State) (q : Nat) (f : Queue → Queue) (hk : Stays s0 s) :
    Stays s0 (modQueue s q f) := by
  unfold modQueue
  try dsimp only
  repeat' first
    | with_reducible exact hk | with_reducible apply putQueue_keeps

theorem modPool_keeps {s0 : State} (s : State) (r : Nat) (f : PoolRegion → PoolRegion) (hk : Stays s0 s) :
    Stays s0 (modPool s r f) := by
  unfold modPool
  try dsimp only
  repeat' first
    | with_reducible exact hk | with_reducible apply modDbq_keeps

theorem takeChunk_keeps {s0 : State} (s : State) (r : Nat) (c : Nat) (hk : Stays s0 s) :
    Stays s0 (takeChunk s r c) := by
  unfold takeChunk
  try dsimp only
  repeat' first
    | with_reducible exact hk | with_reducible apply freeNext_keeps | with_reducible apply hwAdd_keeps
    | with_reducible apply hwPeak_keeps | with_reducible apply modDbq_keeps | with_reducible apply modPool_keeps
    | with_reducible apply raise_keeps | split

theorem poolLowRule_keeps {s0 : State} (s : State) (hk : Stays s0 s) :
    Stays s0 (poolLowRule s) := by
  unfold poolLowRule
  try dsimp only
  repeat' first
    | with_reducible exact hk | with_reducible exact Stays.refl _ | with_reducible assumption
    | with_reducible apply modDbq_keeps | with_reducible apply raise_keeps | with_reducible exact fun x => x | split
    | intro _ _ _ | with_reducible refine stays_mk ?_ ?_ ?_ ?_ ?_ ?_ ?_ ?_ ?_  | with_reducible exact GlbStays.refl _
    | with_reducible rfl | with_reducible exact Nat.le_refl _ | (intro _ h; with_reducible exact h)
    | (intro _; with_reducible rfl) | (intro _; with_reducible exact Nat.le_refl _)

theorem giveChunk_keeps {s0 : State} (s : State) (lsa : Nat) (hk : Stays s0 s) :
    Stays s0 (giveChunk s lsa) := by
  unfold giveChunk
  try dsimp only
  repeat' first
    | with_reducible exact hk | with_reducible apply hwAdd_keeps | with_reducible apply modPool_keeps

theorem freeDead_keeps {s0 : State} (s : State) (q : Nat) (hk : Stays s0 s) :
    Stays s0 (freeDead s q) := by
  unfold freeDead
  try dsimp only
  repeat' first
    | with_reducible exact hk | with_reducible assumption | with_reducible apply giveChunk_keeps
    | with_reducible apply putQueue_keeps | with_reducible apply stays_foldl | split | intro _ _ _

theorem killSector_keeps {s0 : State} (s : State) (lsa : Nat) (hk : Stays s0 s) :
    Stays s0 (killSector s lsa) := by
  unfold killSector
  try dsimp only
  repeat' first
    | with_reducible exact hk | with_reducible apply freeSlot_keeps | with_reducible apply hwAdd_keeps
    | with_reducible apply pmcCount_keeps | split

theorem queueBitRule_keeps {s0 : State} (s : State) (hk : Stays s0 s) :
    Stays s0 (queueBitRule s) := by
  unfold queueBitRule
  try dsimp only
  repeat' first
    | with_reducible exact hk | with_reducible exact Stays.refl _ | with_reducible assumption
    | with_reducible apply askBitmap_keeps | with_reducible apply modDbq_keeps | with_reducible exact fun x => x | split
    | intro _ _ _ | with_reducible refine stays_mk ?_ ?_ ?_ ?_ ?_ ?_ ?_ ?_ ?_  | with_reducible exact GlbStays.refl _
    | with_reducible rfl | with_reducible exact Nat.le_refl _ | (intro _ h; with_reducible exact h)
    | (intro _; with_reducible rfl) | (intro _; with_reducible exact Nat.le_refl _)

theorem queueError_keeps {s0 : State} (s : State) (q : Nat) (hk : Stays s0 s) :
    Stays s0 (queueError s q) := by
  unfold queueError
  try dsimp only
  repeat' first
    | with_reducible exact hk | with_reducible apply modQueue_keeps | with_reducible apply raise_keeps

theorem descCheck_keeps {s0 : State} (s : State) (q : Nat) (hk : Stays s0 s) :
    Stays s0 (descCheck s q) := by
  unfold descCheck
  try dsimp only
  repeat' first
    | with_reducible exact hk | with_reducible assumption | with_reducible apply evt_keeps | with_reducible apply hwSat_keeps
    | with_reducible apply hwSet_keeps | with_reducible apply putQueue_keeps | with_reducible apply queueError_keeps
    | with_reducible apply raise_keeps | with_reducible apply setFatal_keeps | with_reducible apply stays_foldl | split
    | intro _ _ _

theorem queueRefuse_keeps {s0 : State} (s : State) (x : HostCmd) (detail : Nat) (hk : Stays s0 s) :
    Stays s0 (queueRefuse s x detail) := by
  unfold queueRefuse
  try dsimp only
  repeat' first
    | with_reducible exact hk | with_reducible exact Stays.refl _ | with_reducible assumption
    | with_reducible apply hwAdd_keeps | with_reducible apply hwSat_keeps | with_reducible apply hwSet_keeps
    | with_reducible apply raise_keeps | with_reducible apply refuse_keeps | with_reducible exact fun x => x | split
    | intro _ _ _ | with_reducible exact GlbStays.refl _ | with_reducible rfl | with_reducible exact Nat.le_refl _
    | (intro _ h; with_reducible exact h) | (intro _; with_reducible rfl) | (intro _; with_reducible exact Nat.le_refl _)

theorem queueReady_keeps {s0 : State} (s : State) (x : HostCmd) (n : Nat) (regions : List Nat) (hk : Stays s0 s) :
    Stays s0 (queueReady s x n regions).2 := by
  unfold queueReady
  try dsimp only
  repeat' first
    | with_reducible exact hk | with_reducible apply askBitmap_keeps | with_reducible apply reserve_keeps
    | with_reducible apply stageCmd_keeps | with_reducible apply waitCharge_keeps | with_reducible apply stays_foldl | split

theorem carry_keeps {s0 : State} (s : State) (id : Nat) (hk : Stays s0 s) :
    Stays s0 (carry s id) := by
  unfold carry
  try dsimp only
  repeat' first
    | with_reducible exact hk | with_reducible apply modCmd_keeps | with_reducible apply notePeak_keeps

theorem flushNow_keeps {s0 : State} (s : State) (q : Nat) (hk : Stays s0 s) :
    Stays s0 (flushNow s q).2 := by
  unfold flushNow
  try dsimp only
  repeat' first
    | with_reducible exact hk | with_reducible assumption | with_reducible apply freeDead_keeps
    | with_reducible apply hwAdd_keeps | with_reducible apply killSector_keeps | with_reducible apply putQueue_keeps
    | with_reducible apply stays_foldl | intro _ _ _

theorem flushDone_keeps {s0 : State} (s : State) (id : Nat) (n : Nat) (hk : Stays s0 s) :
    Stays s0 (flushDone s id n) := by
  unfold flushDone
  try dsimp only
  repeat' first
    | with_reducible exact hk | with_reducible apply complete_keeps | with_reducible apply hwAdd_keeps

theorem runFlushes_keeps {s0 : State} (s : State) (q : Nat) (hk : Stays s0 s) :
    Stays s0 (runFlushes s q) := by
  unfold runFlushes
  try dsimp only
  repeat' first
    | with_reducible exact hk | with_reducible assumption | with_reducible apply flushDone_keeps
    | with_reducible apply flushNow_keeps | with_reducible apply putQueue_keeps | with_reducible apply stays_foldl | split
    | intro _ _ _

theorem askSweep_keeps {s0 : State} (s : State) (hk : Stays s0 s) :
    Stays s0 (askSweep s) := by
  unfold askSweep
  try dsimp only
  repeat' first
    | with_reducible exact hk | with_reducible apply modDbq_keeps

theorem sweepRule_keeps {s0 : State} (s : State) (hk : Stays s0 s) :
    Stays s0 (sweepRule s) := by
  unfold sweepRule
  try dsimp only
  repeat' first
    | with_reducible exact hk | with_reducible exact Stays.refl _ | with_reducible assumption
    | with_reducible apply addReq_keeps | with_reducible exact fun x => x | split | intro _ _ _
    | with_reducible exact GlbStays.refl _ | with_reducible rfl | with_reducible exact Nat.le_refl _
    | (intro _ h; with_reducible exact h) | (intro _; with_reducible rfl) | (intro _; with_reducible exact Nat.le_refl _)

theorem writeQueueSector_keeps {s0 : State} (s : State) (lsa : Nat) (d : Sector) (hk : Stays s0 s) :
    Stays s0 (writeQueueSector s lsa d) := by
  unfold writeQueueSector
  try dsimp only
  repeat' first
    | with_reducible exact hk | with_reducible apply putSector_keeps | split

theorem landEnq_keeps {s0 : State} (s : State) (x : HostCmd) (fresh : Option Nat) (hk : Stays s0 s) :
    Stays s0 (landEnq s x fresh) := by
  unfold landEnq
  try dsimp only
  repeat' first
    | with_reducible exact hk | with_reducible exact Stays.refl _ | with_reducible assumption
    | with_reducible apply carry_keeps | with_reducible apply complete_keeps | with_reducible apply freeDead_keeps
    | with_reducible apply hwAdd_keeps | with_reducible apply modQueue_keeps | with_reducible apply pmcCount_keeps
    | with_reducible apply runFlushes_keeps | with_reducible apply writeQueueSector_keeps | with_reducible exact fun x => x
    | split | intro _ _ _ | with_reducible refine stays_mk ?_ ?_ ?_ ?_ ?_ ?_ ?_ ?_ ?_  | with_reducible exact GlbStays.refl _
    | with_reducible rfl | with_reducible exact Nat.le_refl _ | (intro _ h; with_reducible exact h)
    | (intro _; with_reducible rfl) | (intro _; with_reducible exact Nat.le_refl _)

theorem writeLink_keeps {s0 : State} (s : State) (lsa : Nat) (hk : Stays s0 s) :
    Stays s0 (writeLink s lsa) := by
  unfold writeLink
  try dsimp only
  repeat' first
    | with_reducible exact hk | with_reducible exact Stays.refl _ | with_reducible assumption
    | with_reducible apply freeNext_keeps | with_reducible apply putSector_keeps | with_reducible exact fun x => x | split
    | intro _ _ _ | with_reducible exact GlbStays.refl _ | with_reducible rfl | with_reducible exact Nat.le_refl _
    | (intro _ h; with_reducible exact h) | (intro _; with_reducible rfl) | (intro _; with_reducible exact Nat.le_refl _)

theorem startEnq_keeps {s0 : State} (s : State) (id : Nat) (hk : Stays s0 s) :
    Stays s0 (startEnq s id) := by
  unfold startEnq
  try dsimp only
  repeat' first
    | with_reducible exact hk | with_reducible exact Stays.refl _ | with_reducible assumption
    | with_reducible apply descCheck_keeps | with_reducible apply evt_keeps | with_reducible apply hwAdd_keeps
    | with_reducible apply hwSat_keeps | with_reducible apply landEnq_keeps | with_reducible apply modDbq_keeps
    | with_reducible apply modQueue_keeps | with_reducible apply queueReady_keeps | with_reducible apply queueRefuse_keeps
    | with_reducible apply raise_keeps | with_reducible apply refuse_keeps | with_reducible apply takeChunk_keeps
    | with_reducible apply writeLink_keeps | with_reducible apply stays_foldl | with_reducible apply stays_foldl_fst
    | with_reducible apply stays_foldl_snd | with_reducible refine stays_snd (by assumption) ?_
    | with_reducible exact fun x => x | split | intro _ _ _ | with_reducible refine stays_mk ?_ ?_ ?_ ?_ ?_ ?_ ?_ ?_ ?_
    | with_reducible exact GlbStays.refl _ | with_reducible rfl | with_reducible exact Nat.le_refl _
    | (intro _ h; with_reducible exact h) | (intro _; with_reducible rfl) | (intro _; with_reducible exact Nat.le_refl _)

theorem deqPoison_keeps {s0 : State} (s : State) (x : HostCmd) (lsa : Nat) (rlen : Nat) (lost : Bool) (hk : Stays s0 s) :
    Stays s0 (deqPoison s x lsa rlen lost) := by
  unfold deqPoison
  try dsimp only
  repeat' first
    | with_reducible exact hk | with_reducible apply complete_keeps | with_reducible apply evt_keeps
    | with_reducible apply hwSat_keeps | with_reducible apply hwSet_keeps | with_reducible apply raise_keeps

theorem finishDeq_keeps {s0 : State} (s : State) (x : HostCmd) (d : Sector) (r : Resp) (hk : Stays s0 s) :
    Stays s0 (finishDeq s x d r) := by
  unfold finishDeq
  try dsimp only
  repeat' first
    | with_reducible exact hk | with_reducible exact Stays.refl _ | with_reducible assumption
    | with_reducible apply complete_keeps | with_reducible apply hwAdd_keeps | with_reducible exact fun x => x | split
    | intro _ _ _ | with_reducible refine stays_mk ?_ ?_ ?_ ?_ ?_ ?_ ?_ ?_ ?_  | with_reducible exact GlbStays.refl _
    | with_reducible rfl | with_reducible exact Nat.le_refl _ | (intro _ h; with_reducible exact h)
    | (intro _; with_reducible rfl) | (intro _; with_reducible exact Nat.le_refl _)

theorem chainRule_keeps {s0 : State} (s : State) (q : Nat) (lsa : Nat) (hk : Stays s0 s) :
    Stays s0 (chainRule s q lsa) := by
  unfold chainRule
  try dsimp only
  repeat' first
    | with_reducible exact hk | with_reducible apply queueError_keeps | split

theorem deqRead_keeps {s0 : State} (s : State) (x : HostCmd) (lsa : Nat) (resp : Resp) (hk : Stays s0 s) :
    Stays s0 (deqRead s x lsa resp) := by
  unfold deqRead
  try dsimp only
  repeat' first
    | with_reducible exact hk | with_reducible apply deqPoison_keeps | with_reducible apply finishDeq_keeps
    | with_reducible apply missRead_keeps | with_reducible apply probe_keeps
    | with_reducible refine stays_snd (by assumption) ?_ | split

theorem startDeq_keeps {s0 : State} (s : State) (id : Nat) (hk : Stays s0 s) :
    Stays s0 (startDeq s id) := by
  unfold startDeq
  try dsimp only
  repeat' first
    | with_reducible exact hk | with_reducible apply carry_keeps | with_reducible apply chainRule_keeps
    | with_reducible apply deqRead_keeps | with_reducible apply descCheck_keeps | with_reducible apply freeDead_keeps
    | with_reducible apply hwAdd_keeps | with_reducible apply killSector_keeps | with_reducible apply modCmd_keeps
    | with_reducible apply modQueue_keeps | with_reducible apply pmcCount_keeps | with_reducible apply queueReady_keeps
    | with_reducible apply queueRefuse_keeps | with_reducible apply refuse_keeps | split

theorem startQflush_keeps {s0 : State} (s : State) (id : Nat) (hk : Stays s0 s) :
    Stays s0 (startQflush s id) := by
  unfold startQflush
  try dsimp only
  repeat' first
    | with_reducible exact hk | with_reducible assumption | with_reducible apply askSweep_keeps
    | with_reducible apply carry_keeps | with_reducible apply descCheck_keeps | with_reducible apply flushDone_keeps
    | with_reducible apply flushNow_keeps | with_reducible apply killSector_keeps | with_reducible apply modQueue_keeps
    | with_reducible apply putQueue_keeps | with_reducible apply queueReady_keeps | with_reducible apply queueRefuse_keeps
    | with_reducible apply stageCmd_keeps | with_reducible apply stays_foldl | split | intro _ _ _

theorem startQstat_keeps {s0 : State} (s : State) (id : Nat) (hk : Stays s0 s) :
    Stays s0 (startQstat s id) := by
  unfold startQstat
  try dsimp only
  repeat' first
    | with_reducible exact hk | with_reducible apply complete_keeps | with_reducible apply descCheck_keeps
    | with_reducible apply hwAdd_keeps | split

theorem landProgram_keeps {s0 : State} (s : State) (lsa : Nat) (data : Option Sector) (p : SealPlan) (hk : Stays s0 s) :
    Stays s0 (landProgram s lsa data p) := by
  unfold landProgram
  try dsimp only
  repeat' first
    | with_reducible exact hk | with_reducible exact Stays.refl _ | with_reducible assumption
    | with_reducible apply countSeal_keeps | with_reducible apply landInner_keeps | with_reducible apply modMed_keeps
    | with_reducible apply noteCeiling_keeps
    | (intro h; with_reducible first | exact fwf_fput h | exact fwf_fdel h | exact fwf_fput (fwf_fdel h))
    | (intro _ h; with_reducible first | exact fwf_fput h | exact fwf_fdel h | exact fwf_fput (fwf_fdel h))
    | with_reducible exact fun x => x | split | intro _ _ _ | with_reducible refine stays_mk ?_ ?_ ?_ ?_ ?_ ?_ ?_ ?_ ?_
    | with_reducible exact GlbStays.refl _ | with_reducible rfl | with_reducible exact Nat.le_refl _
    | (intro _ h; with_reducible exact h) | (intro _; with_reducible rfl) | (intro _; with_reducible exact Nat.le_refl _)

theorem landRaw_keeps {s0 : State} (s : State) (lsa : Nat) (c : Cell) (hk : Stays s0 s) :
    Stays s0 (landRaw s lsa c) := by
  unfold landRaw
  try dsimp only
  repeat' first
    | with_reducible exact hk | with_reducible exact Stays.refl _ | with_reducible assumption
    | with_reducible apply countSeal_keeps | with_reducible apply modMed_keeps
    | (intro h; with_reducible first | exact fwf_fput h | exact fwf_fdel h | exact fwf_fput (fwf_fdel h))
    | (intro _ h; with_reducible first | exact fwf_fput h | exact fwf_fdel h | exact fwf_fput (fwf_fdel h))
    | with_reducible exact fun x => x | split | intro _ _ _ | with_reducible refine stays_mk ?_ ?_ ?_ ?_ ?_ ?_ ?_ ?_ ?_
    | with_reducible exact GlbStays.refl _ | with_reducible rfl | with_reducible exact Nat.le_refl _
    | (intro _ h; with_reducible exact h) | (intro _; with_reducible rfl) | (intro _; with_reducible exact Nat.le_refl _)

theorem setBad_keeps {s0 : State} (s : State) (lsa : Nat) (lost : Bool) (hk : Stays s0 s) :
    Stays s0 (setBad s lsa lost) := by
  unfold setBad
  try dsimp only
  repeat' first
    | with_reducible exact hk | with_reducible exact Stays.refl _ | with_reducible assumption
    | with_reducible apply modMed_keeps | with_reducible exact fun x => x | split | intro _ _ _
    | with_reducible refine stays_mk ?_ ?_ ?_ ?_ ?_ ?_ ?_ ?_ ?_  | with_reducible exact GlbStays.refl _ | with_reducible rfl
    | with_reducible exact Nat.le_refl _ | (intro _ h; with_reducible exact h) | (intro _; with_reducible rfl)
    | (intro _; with_reducible exact Nat.le_refl _)

theorem setMark_keeps {s0 : State} (s : State) (lsa : Nat) (cause : Nat) (lost : Bool) (hk : Stays s0 s) :
    Stays s0 (setMark s lsa cause lost) := by
  unfold setMark
  try dsimp only
  repeat' first
    | with_reducible exact hk | with_reducible exact Stays.refl _ | with_reducible assumption
    | with_reducible apply cacheDrop_keeps | with_reducible apply countPoison_keeps | with_reducible apply counterPoison_keeps
    | with_reducible apply freeSlot_keeps | with_reducible apply setBad_keeps | with_reducible exact fun x => x | split
    | intro _ _ _ | with_reducible exact GlbStays.refl _ | with_reducible rfl | with_reducible exact Nat.le_refl _
    | (intro _ h; with_reducible exact h) | (intro _; with_reducible rfl) | (intro _; with_reducible exact Nat.le_refl _)

theorem reportMark_keeps {s0 : State} (before : State) (s : State) (lsa : Nat) (hk : Stays s0 s) :
    Stays s0 (reportMark before s lsa) := by
  unfold reportMark
  split
  · exact evt_keeps _ _ _ (raise_keeps _ _ hk)
  · exact hk

theorem landCopy_keeps {s0 : State} (s : State) (lsa : Nat) (old : Option Cell) (data : Option Sector) (raw : Cell) (hk : Stays s0 s) :
    Stays s0 (landCopy s lsa old data raw) := by
  unfold landCopy
  try dsimp only
  repeat' first
    | with_reducible exact hk | with_reducible exact Stays.refl _ | with_reducible assumption
    | with_reducible apply landProgram_keeps | with_reducible apply landRaw_keeps | with_reducible exact fun x => x | split
    | intro _ _ _ | with_reducible exact GlbStays.refl _ | with_reducible rfl | with_reducible exact Nat.le_refl _
    | (intro _ h; with_reducible exact h) | (intro _; with_reducible rfl) | (intro _; with_reducible exact Nat.le_refl _)

theorem holdSector_keeps {s0 : State} (s : State) (lsa : Nat) (hk : Stays s0 s) :
    Stays s0 (holdSector s lsa) := by
  unfold holdSector
  try dsimp only
  repeat' first
    | with_reducible exact hk | with_reducible exact Stays.refl _ | with_reducible assumption | with_reducible apply evt_keeps
    | with_reducible apply forceRekey_keeps | with_reducible apply raise_keeps | with_reducible exact fun x => x | split
    | intro _ _ _ | with_reducible refine stays_mk ?_ ?_ ?_ ?_ ?_ ?_ ?_ ?_ ?_  | with_reducible exact GlbStays.refl _
    | with_reducible rfl | with_reducible exact Nat.le_refl _ | (intro _ h; with_reducible exact h)
    | (intro _; with_reducible rfl) | (intro _; with_reducible exact Nat.le_refl _)

theorem copySector_keeps {s0 : State} (s : State) (lsa : Nat) (out : Decoded) (remap : State → State)
    (hr : ∀ t, Stays s0 t → Stays s0 (remap t)) (hk : Stays s0 s) : Stays s0 (copySector s lsa out remap) := by
  unfold copySector
  dsimp only
  have h := openCount_keeps s .move lsa (openSector s lsa out) hk
  repeat' first
    | with_reducible exact h | with_reducible apply landCopy_keeps | with_reducible apply holdSector_keeps | with_reducible apply hr
    | with_reducible apply reportMark_keeps | with_reducible apply setMark_keeps | split

theorem useSpareBlock_keeps {s0 : State} (s : State) (ch : Nat) (hk : Stays s0 s) :
    Stays s0 (useSpareBlock s ch) := by
  unfold useSpareBlock
  try dsimp only
  repeat' first
    | with_reducible exact hk | with_reducible apply evt_keeps | with_reducible apply modChan_keeps
    | with_reducible apply raise_keeps | split

theorem noteMap_keeps {s0 : State} (s : State) (ch : Nat) (hk : Stays s0 s) :
    Stays s0 (noteMap s ch) := by
  unfold noteMap
  try dsimp only
  repeat' first
    | with_reducible exact hk | with_reducible apply evt_keeps | with_reducible apply raise_keeps | split

theorem takeSectorSpare_keeps {s0 t : State} {s : State} {ch n : Nat} (e : takeSectorSpare s ch = some (n, t)) (hk : Stays s0 s) :
    Stays s0 t := by
  unfold takeSectorSpare at e
  dsimp only at e
  repeat' split at e
  all_goals cases e
  · exact modChan_keeps _ _ _ hk
  · exact modChan_keeps _ _ _ (useSpareBlock_keeps _ _ hk)

theorem remapSlot_keeps {s0 : State} (s : State) (n : Nat) (f : Medium → Medium)
    (hf : ∀ m, fwf m.cells = true → fwf (f m).cells = true) (hk : Stays s0 s) : Stays s0 (remapSlot s n f) := by
  unfold remapSlot
  refine modMed_keeps (fun m h => ?_) hk
  have h := hf { m with cells := fdel m.cells (retiredSlot m n) } (fwf_fdel h)
  dsimp only
  split
  · exact fwf_fput h
  · exact h

theorem blockRule_keeps {s0 : State} (s : State) (j : BlockMove) (hk : Stays s0 s) :
    Stays s0 (blockRule s j) := by
  unfold blockRule
  try dsimp only
  repeat' first
    | with_reducible exact hk | with_reducible exact Stays.refl _ | with_reducible assumption
    | with_reducible apply addReq_keeps | with_reducible apply modChan_keeps | with_reducible apply modMed_keeps
    | with_reducible apply raise_keeps | with_reducible apply saveInner_keeps | with_reducible exact fun x => x | split
    | intro _ _ _ | with_reducible refine stays_mk ?_ ?_ ?_ ?_ ?_ ?_ ?_ ?_ ?_  | with_reducible exact GlbStays.refl _
    | with_reducible rfl | with_reducible exact Nat.le_refl _ | (intro _ h; with_reducible exact h)
    | (intro _; with_reducible rfl) | (intro _; with_reducible exact Nat.le_refl _)

theorem blockRules_keeps {s0 : State} (s : State) (hk : Stays s0 s) :
    Stays s0 (blockRules s) := by
  unfold blockRules
  try dsimp only
  repeat' first
    | with_reducible exact hk | with_reducible exact Stays.refl _ | with_reducible assumption
    | with_reducible apply blockRule_keeps | with_reducible apply stays_foldl | with_reducible exact fun x => x | split
    | intro _ _ _ | with_reducible exact GlbStays.refl _ | with_reducible rfl | with_reducible exact Nat.le_refl _
    | (intro _ h; with_reducible exact h) | (intro _; with_reducible rfl) | (intro _; with_reducible exact Nat.le_refl _)

theorem retireBlock_keeps {s0 : State} (s : State) (ch : Nat) (b : Nat) (hk : Stays s0 s) :
    Stays s0 (retireBlock s ch b).2 := by
  unfold retireBlock
  try dsimp only
  repeat' first
    | with_reducible exact hk | with_reducible exact Stays.refl _ | with_reducible assumption
    | with_reducible apply blockRule_keeps | with_reducible apply modMed_keeps | with_reducible apply useSpareBlock_keeps
    | with_reducible exact fun x => x | split | intro _ _ _ | with_reducible refine stays_mk ?_ ?_ ?_ ?_ ?_ ?_ ?_ ?_ ?_
    | with_reducible exact GlbStays.refl _ | with_reducible rfl | with_reducible exact Nat.le_refl _
    | (intro _ h; with_reducible exact h) | (intro _; with_reducible rfl) | (intro _; with_reducible exact Nat.le_refl _)

theorem retireSlot_keeps {s0 : State} (s : State) (ch : Nat) (n : Nat) (hk : Stays s0 s) :
    Stays s0 (retireSlot s ch n).2 := by
  unfold retireSlot
  try dsimp only
  repeat' first
    | with_reducible exact hk | with_reducible exact Stays.refl _ | with_reducible assumption | exact fun _ h => h
    | with_reducible apply modChan_keeps | with_reducible apply noteMap_keeps | with_reducible apply raise_keeps
    | with_reducible apply remapSlot_keeps | with_reducible apply retireBlock_keeps | with_reducible apply saveInner_keeps
    | with_reducible refine takeSectorSpare_keeps (by assumption) ?_ | with_reducible refine stays_snd (by assumption) ?_
    | with_reducible exact fun x => x | split | intro _ _ _ | with_reducible refine stays_mk ?_ ?_ ?_ ?_ ?_ ?_ ?_ ?_ ?_
    | with_reducible exact GlbStays.refl _ | with_reducible rfl | with_reducible exact Nat.le_refl _
    | (intro _ h; with_reducible exact h) | (intro _; with_reducible rfl) | (intro _; with_reducible exact Nat.le_refl _)

theorem spareExhausted_keeps {s0 : State} (s : State) (lsa : Nat) (hk : Stays s0 s) :
    Stays s0 (spareExhausted s lsa) := by
  unfold spareExhausted
  try dsimp only
  repeat' first
    | with_reducible exact hk | with_reducible apply evt_keeps | with_reducible apply raise_keeps

theorem retireCare_keeps {s0 : State} (s : State) (lsa : Nat) (hk : Stays s0 s) :
    Stays s0 (retireCare s lsa) := by
  unfold retireCare
  try dsimp only
  repeat' first
    | with_reducible exact hk | with_reducible exact Stays.refl _ | with_reducible assumption
    | with_reducible apply addReq_keeps | with_reducible apply retireAt_keeps | with_reducible exact fun x => x | split
    | intro _ _ _ | with_reducible exact GlbStays.refl _ | with_reducible rfl | with_reducible exact Nat.le_refl _
    | (intro _ h; with_reducible exact h) | (intro _; with_reducible rfl) | (intro _; with_reducible exact Nat.le_refl _)

theorem putMarker_keeps {s0 : State} (s : State) (lsa : Nat) (hk : Stays s0 s) :
    Stays s0 (putMarker s lsa) := by
  unfold putMarker
  try dsimp only
  repeat' first
    | with_reducible exact hk | with_reducible exact Stays.refl _ | with_reducible assumption
    | with_reducible apply landCopy_keeps | with_reducible apply retireCare_keeps | with_reducible apply setBad_keeps
    | with_reducible exact fun x => x | split | intro _ _ _ | with_reducible refine stays_mk ?_ ?_ ?_ ?_ ?_ ?_ ?_ ?_ ?_
    | with_reducible exact GlbStays.refl _ | with_reducible rfl | with_reducible exact Nat.le_refl _
    | (intro _ h; with_reducible exact h) | (intro _; with_reducible rfl) | (intro _; with_reducible exact Nat.le_refl _)

theorem retireAt_keeps {s0 : State} (s : State) (lsa : Nat) (hk : Stays s0 s) :
    Stays s0 (retireAt s lsa) := by
  unfold retireAt
  try dsimp only
  repeat' first
    | with_reducible exact hk | with_reducible exact Stays.refl _ | with_reducible assumption | exact fun _ h => h
    | with_reducible apply copySector_keeps | with_reducible apply holdSector_keeps | with_reducible apply putMarker_keeps
    | with_reducible apply retireCare_keeps | with_reducible apply retireSlot_keeps | with_reducible apply spareExhausted_keeps
    | with_reducible refine stays_snd (by assumption) ?_ | with_reducible exact fun x => x | split | intro _ _ _
    | with_reducible exact GlbStays.refl _ | with_reducible rfl | with_reducible exact Nat.le_refl _
    | (intro _ h; with_reducible exact h) | (intro _; with_reducible rfl) | (intro _; with_reducible exact Nat.le_refl _)

theorem markerCare_keeps {s0 : State} (s : State) (lsa : Nat) (r : Opened) (hk : Stays s0 s) :
    Stays s0 (markerCare s lsa r).2 := by
  unfold markerCare
  try dsimp only
  repeat' first
    | with_reducible exact hk | with_reducible exact Stays.refl _ | with_reducible assumption
    | with_reducible apply retireCare_keeps | with_reducible apply setBad_keeps | with_reducible exact fun x => x | split
    | intro _ _ _ | with_reducible exact GlbStays.refl _ | with_reducible rfl | with_reducible exact Nat.le_refl _
    | (intro _ h; with_reducible exact h) | (intro _; with_reducible rfl) | (intro _; with_reducible exact Nat.le_refl _)

theorem markMedium_keeps {s0 : State} (s : State) (lsa : Nat) (cause : Nat) (lost : Bool) (hk : Stays s0 s) :
    Stays s0 (markMedium s lsa cause lost) := by
  unfold markMedium
  try dsimp only
  repeat' first
    | with_reducible exact hk | with_reducible exact Stays.refl _ | with_reducible assumption
    | with_reducible apply retireCare_keeps | with_reducible apply setMark_keeps | with_reducible exact fun x => x | split
    | intro _ _ _ | with_reducible exact GlbStays.refl _ | with_reducible rfl | with_reducible exact Nat.le_refl _
    | (intro _ h; with_reducible exact h) | (intro _; with_reducible rfl) | (intro _; with_reducible exact Nat.le_refl _)

theorem foundBad_keeps {s0 : State} (s : State) (lsa : Nat) (cause : Nat) (lost : Bool) (hk : Stays s0 s) :
    Stays s0 (foundBad s lsa cause lost) := by
  unfold foundBad
  try dsimp only
  repeat' first
    | with_reducible exact hk | with_reducible exact Stays.refl _ | with_reducible assumption
    | with_reducible apply askRepair_keeps | with_reducible apply markMedium_keeps | with_reducible exact fun x => x | split
    | intro _ _ _ | with_reducible exact GlbStays.refl _ | with_reducible rfl | with_reducible exact Nat.le_refl _
    | (intro _ h; with_reducible exact h) | (intro _; with_reducible rfl) | (intro _; with_reducible exact Nat.le_refl _)

theorem careBad_keeps {s0 : State} (s : State) (lsa : Nat) (lost : Bool) (hk : Stays s0 s) :
    Stays s0 (careBad s lsa lost) := by
  unfold careBad
  try dsimp only
  repeat' first
    | with_reducible exact hk | with_reducible exact Stays.refl _ | with_reducible assumption
    | with_reducible apply foundBad_keeps | with_reducible apply reportMark_keeps | with_reducible exact fun x => x | split
    | intro _ _ _ | with_reducible exact GlbStays.refl _ | with_reducible rfl | with_reducible exact Nat.le_refl _
    | (intro _ h; with_reducible exact h) | (intro _; with_reducible rfl) | (intro _; with_reducible exact Nat.le_refl _)

theorem endLost_keeps {s0 : State} (s : State) (x : HostCmd) (hk : Stays s0 s) :
    Stays s0 (endLost s x) := by
  unfold endLost
  try dsimp only
  repeat' first
    | with_reducible exact hk | with_reducible apply complete_keeps | with_reducible apply delCmd_keeps
    | with_reducible apply modMir_keeps | with_reducible apply sendAck_keeps | with_reducible exact fun x => x | split
    | with_reducible refine stays_mk ?_ ?_ ?_ ?_ ?_ ?_ ?_ ?_ ?_  | with_reducible exact GlbStays.refl _ | with_reducible rfl

theorem endLock_keeps {s0 : State} (s : State) (lsa : Nat) (result : Nat) (hk : Stays s0 s) :
    Stays s0 (endLock s lsa result) := by
  unfold endLock
  try dsimp only
  repeat' first
    | with_reducible exact hk | with_reducible apply hwSet_keeps | with_reducible apply modRdp_keeps
    | with_reducible apply raise_keeps | with_reducible apply setCfg_keeps

theorem endRead_keeps {s0 : State} (s : State) (lsa : Nat) (p : Purpose) (hk : Stays s0 s) :
    Stays s0 (endRead s lsa p) := by
  unfold endRead
  try dsimp only
  repeat' first
    | with_reducible exact hk | with_reducible exact Stays.refl _ | with_reducible assumption
    | with_reducible apply complete_keeps | with_reducible apply deqPoison_keeps | with_reducible apply leafReturned_keeps
    | with_reducible exact fun x => x | split | intro _ _ _ | with_reducible exact GlbStays.refl _ | with_reducible rfl
    | with_reducible exact Nat.le_refl _ | (intro _ h; with_reducible exact h) | (intro _; with_reducible rfl)
    | (intro _; with_reducible exact Nat.le_refl _)

theorem blankFail_keeps {s0 : State} (s : State) (b : Blank) (hwOk : Bool) (hk : Stays s0 s) :
    Stays s0 (blankFail s b hwOk) := by
  unfold blankFail
  try dsimp only
  repeat' first
    | with_reducible exact hk | with_reducible exact Stays.refl _ | with_reducible assumption
    | with_reducible apply dropHeld_keeps | with_reducible apply dropReqs_keeps | with_reducible apply endLock_keeps
    | with_reducible apply endLost_keeps | with_reducible apply endRead_keeps | with_reducible apply evt_keeps
    | with_reducible apply invalidate_keeps | with_reducible apply markStale_keeps | with_reducible apply mirOverflow_keeps
    | with_reducible apply modCnt_keeps | with_reducible apply modLke_keeps | with_reducible apply modMed_keeps
    | with_reducible apply modMirRegion_keeps | with_reducible apply modRegion_keeps | with_reducible apply raise_keeps
    | with_reducible apply stays_foldl | with_reducible apply stays_foldl_fst | with_reducible apply stays_foldl_snd
    | (intro h; with_reducible first | exact fwf_filter h) | (intro _ h; with_reducible first | exact fwf_filter h)
    | with_reducible exact fun x => x | split | intro _ _ _ | with_reducible refine stays_mk ?_ ?_ ?_ ?_ ?_ ?_ ?_ ?_ ?_
    | with_reducible exact GlbStays.refl _ | with_reducible rfl | with_reducible exact Nat.le_refl _
    | (intro _ h; with_reducible exact h) | (intro _; with_reducible rfl) | (intro _; with_reducible exact Nat.le_refl _)

theorem dieFail_keeps {s0 : State} (s : State) (b : Blank) (die : Fin 18) (hk : Stays s0 s) :
    Stays s0 (dieFail s b die) := by
  unfold dieFail
  try dsimp only
  repeat' first
    | with_reducible exact hk | with_reducible exact Stays.refl _ | with_reducible assumption
    | with_reducible apply blankFail_keeps | with_reducible apply evt_keeps | with_reducible apply modBlank_keeps
    | with_reducible apply raise_keeps | with_reducible apply saveInner_keeps | with_reducible exact fun x => x | split
    | intro _ _ _ | with_reducible refine stays_mk ?_ ?_ ?_ ?_ ?_ ?_ ?_ ?_ ?_  | with_reducible exact GlbStays.refl _
    | with_reducible rfl | with_reducible exact Nat.le_refl _ | (intro _ h; with_reducible exact h)
    | (intro _; with_reducible rfl) | (intro _; with_reducible exact Nat.le_refl _)

theorem noteDie_keeps {s0 : State} (s : State) (b : Blank) (dies : List (Fin 18)) (hk : Stays s0 s) :
    Stays s0 (noteDie s b dies) := by
  unfold noteDie
  try dsimp only
  repeat' first
    | with_reducible exact hk | with_reducible exact Stays.refl _ | with_reducible assumption
    | with_reducible apply dieFail_keeps | with_reducible apply modBlank_keeps | with_reducible apply stays_foldl
    | with_reducible apply stays_foldl_fst | with_reducible apply stays_foldl_snd | with_reducible exact fun x => x | split
    | intro _ _ _ | with_reducible refine stays_mk ?_ ?_ ?_ ?_ ?_ ?_ ?_ ?_ ?_  | with_reducible exact GlbStays.refl _
    | with_reducible rfl | with_reducible exact Nat.le_refl _ | (intro _ h; with_reducible exact h)
    | (intro _; with_reducible rfl) | (intro _; with_reducible exact Nat.le_refl _)

theorem countDecode_keeps {s0 : State} (s : State) (ch : Nat) (out : Decoded) (hk : Stays s0 s) :
    Stays s0 (countDecode s ch out) := by
  unfold countDecode
  try dsimp only
  repeat' first
    | with_reducible exact hk | with_reducible exact Stays.refl _ | with_reducible assumption
    | with_reducible apply hwSet_keeps | with_reducible apply noteDie_keeps | with_reducible apply pmcCount_keeps
    | with_reducible apply raise_keeps | with_reducible exact fun x => x | split | intro _ _ _
    | with_reducible exact GlbStays.refl _ | with_reducible rfl | with_reducible exact Nat.le_refl _
    | (intro _ h; with_reducible exact h) | (intro _; with_reducible rfl) | (intro _; with_reducible exact Nat.le_refl _)

theorem askRefresh_keeps {s0 : State} (s : State) (lsa : Nat) (hk : Stays s0 s) :
    Stays s0 (askRefresh s lsa) := by
  unfold askRefresh
  try dsimp only
  repeat' first
    | with_reducible exact hk | with_reducible apply addReq_keeps | split

theorem careAfter_keeps {s0 : State} (s : State) (lsa : Nat) (out : Decoded) (hk : Stays s0 s) :
    Stays s0 (careAfter s lsa out) := by
  unfold careAfter
  try dsimp only
  repeat' first
    | with_reducible exact hk | with_reducible exact Stays.refl _ | with_reducible assumption
    | with_reducible apply askRefresh_keeps | with_reducible apply modChan_keeps | with_reducible apply retireCare_keeps
    | with_reducible apply setBad_keeps | with_reducible exact fun x => x | split | intro _ _ _
    | with_reducible refine stays_mk ?_ ?_ ?_ ?_ ?_ ?_ ?_ ?_ ?_  | with_reducible exact GlbStays.refl _ | with_reducible rfl
    | with_reducible exact Nat.le_refl _ | (intro _ h; with_reducible exact h) | (intro _; with_reducible rfl)
    | (intro _; with_reducible exact Nat.le_refl _)

theorem noteDecode_keeps {s0 : State} (s : State) (lsa : Nat) (out : Decoded) (hk : Stays s0 s) :
    Stays s0 (noteDecode s lsa out) := by
  unfold noteDecode
  try dsimp only
  repeat' first
    | with_reducible exact hk | with_reducible exact Stays.refl _ | with_reducible assumption
    | with_reducible apply careAfter_keeps | with_reducible apply countDecode_keeps | with_reducible exact fun x => x | split
    | intro _ _ _ | with_reducible exact GlbStays.refl _ | with_reducible rfl | with_reducible exact Nat.le_refl _
    | (intro _ h; with_reducible exact h) | (intro _; with_reducible rfl) | (intro _; with_reducible exact Nat.le_refl _)

theorem undoDrain_keeps {s0 : State} (s : State) (lsa : Nat) (hk : Stays s0 s) :
    Stays s0 (undoDrain s lsa) := by
  unfold undoDrain
  try dsimp only
  repeat' first
    | with_reducible exact hk | with_reducible apply modSlot_keeps

theorem restartOp_keeps {s0 : State} (s : State) (q : MedReq) (hk : Stays s0 s) :
    Stays s0 (restartOp s q) := by
  unfold restartOp
  try dsimp only
  repeat' first
    | with_reducible exact hk | with_reducible exact Stays.refl _ | with_reducible assumption
    | with_reducible apply abandonFold_keeps | with_reducible apply delReq_keeps | with_reducible apply modReq_keeps
    | with_reducible apply startFold_keeps | with_reducible apply undoDrain_keeps | with_reducible exact fun x => x | split
    | intro _ _ _ | with_reducible refine stays_mk ?_ ?_ ?_ ?_ ?_ ?_ ?_ ?_ ?_  | with_reducible exact GlbStays.refl _
    | with_reducible rfl | with_reducible exact Nat.le_refl _ | (intro _ h; with_reducible exact h)
    | (intro _; with_reducible rfl) | (intro _; with_reducible exact Nat.le_refl _)

theorem restartOps_keeps {s0 : State} (s : State) (ch : Nat) (hk : Stays s0 s) :
    Stays s0 (restartOps s ch) := by
  unfold restartOps
  try dsimp only
  repeat' first
    | with_reducible exact hk | with_reducible exact Stays.refl _ | with_reducible assumption
    | with_reducible apply modChan_keeps | with_reducible apply restartOp_keeps | with_reducible apply stays_foldl
    | with_reducible exact fun x => x | split | intro _ _ _ | with_reducible refine stays_mk ?_ ?_ ?_ ?_ ?_ ?_ ?_ ?_ ?_
    | with_reducible exact GlbStays.refl _ | with_reducible rfl | with_reducible exact Nat.le_refl _
    | (intro _ h; with_reducible exact h) | (intro _; with_reducible rfl) | (intro _; with_reducible exact Nat.le_refl _)

theorem mchFail_keeps {s0 : State} (s : State) (m : Mch) (cause : Nat) (hk : Stays s0 s) :
    Stays s0 (mchFail s m cause) := by
  unfold mchFail
  try dsimp only
  repeat' first
    | with_reducible exact hk | with_reducible exact Stays.refl _ | with_reducible assumption
    | with_reducible apply blankFail_keeps | with_reducible apply evt_keeps | with_reducible apply modChan_keeps
    | with_reducible apply modMed_keeps | with_reducible apply raise_keeps | with_reducible apply restartOps_keeps
    | with_reducible apply saveInner_keeps | with_reducible apply stays_foldl | with_reducible exact fun x => x | split
    | intro _ _ _ | with_reducible refine stays_mk ?_ ?_ ?_ ?_ ?_ ?_ ?_ ?_ ?_  | with_reducible exact GlbStays.refl _
    | with_reducible rfl | with_reducible exact Nat.le_refl _ | (intro _ h; with_reducible exact h)
    | (intro _; with_reducible rfl) | (intro _; with_reducible exact Nat.le_refl _)

theorem lastDiscard_keeps {s0 : State} (s : State) (p : HPort) (c : HChan) (cause : Nat) (hk : Stays s0 s) :
    Stays s0 (lastDiscard s p c cause) := by
  unfold lastDiscard
  try dsimp only
  repeat' first
    | with_reducible exact hk | with_reducible apply hwSet_keeps

theorem countLost_keeps {s0 : State} (s : State) (p : HPort) (n : Nat) (hk : Stays s0 s) :
    Stays s0 (countLost s p n) := by
  unfold countLost
  try dsimp only
  repeat' first
    | with_reducible exact hk | with_reducible exact Stays.refl _ | with_reducible assumption
    | with_reducible apply hwSat_keeps | with_reducible apply pmcCount_keeps | with_reducible exact fun x => x | split
    | intro _ _ _ | with_reducible exact GlbStays.refl _ | with_reducible rfl | with_reducible exact Nat.le_refl _
    | (intro _ h; with_reducible exact h) | (intro _; with_reducible rfl) | (intro _; with_reducible exact Nat.le_refl _)

theorem countDiscard_keeps {s0 : State} (s : State) (p : HPort) (c : HChan) (cause : Nat) (n : Nat) (hk : Stays s0 s) :
    Stays s0 (countDiscard s p c cause n) := by
  unfold countDiscard
  try dsimp only
  repeat' first
    | with_reducible exact hk | with_reducible exact Stays.refl _ | with_reducible assumption
    | with_reducible apply countLost_keeps | with_reducible apply lastDiscard_keeps | with_reducible exact fun x => x | split
    | intro _ _ _ | with_reducible exact GlbStays.refl _ | with_reducible rfl | with_reducible exact Nat.le_refl _
    | (intro _ h; with_reducible exact h) | (intro _; with_reducible rfl) | (intro _; with_reducible exact Nat.le_refl _)

theorem discardCmds_keeps {s0 : State} (s : State) (p : HPort) (c : HChan) (cause : Nat) (n : Nat) (hk : Stays s0 s) :
    Stays s0 (discardCmds s p c cause n) := by
  unfold discardCmds
  try dsimp only
  repeat' first
    | with_reducible exact hk | with_reducible apply evt_keeps | with_reducible apply countDiscard_keeps
    | with_reducible apply raise_keeps | split

theorem putCmd_keeps {s0 : State} (s : State) (x : HostCmd) (hk : Stays s0 s) :
    Stays s0 (putCmd s x) := by
  unfold putCmd
  try dsimp only
  repeat' first
    | with_reducible exact hk | with_reducible exact fun x => x | with_reducible refine stays_mk ?_ ?_ ?_ ?_ ?_ ?_ ?_ ?_ ?_
    | with_reducible exact GlbStays.refl _ | with_reducible rfl

theorem accept_keeps {s0 : State} (s : State) (x : Slotted) (hk : Stays s0 s) :
    Stays s0 (accept s x) := by
  unfold accept
  try dsimp only
  repeat' first
    | with_reducible exact hk | with_reducible apply discardCmds_keeps | with_reducible apply hwAdd_keeps
    | with_reducible apply pmcCount_keeps | with_reducible apply putCmd_keeps | split

theorem throttleCharge_keeps {s0 : State} (s : State) (x : HostCmd) (hk : Stays s0 s) :
    Stays s0 (throttleCharge s x) := by
  unfold throttleCharge
  try dsimp only
  repeat' first
    | with_reducible exact hk | with_reducible apply modPort_keeps | split

theorem restCharge_keeps {s0 : State} (s : State) (x : HostCmd) (hk : Stays s0 s) :
    Stays s0 (restCharge s x) := by
  unfold restCharge
  try dsimp only
  repeat' first
    | with_reducible exact hk | with_reducible apply modPort_keeps | split

theorem fillBuckets_keeps {s0 : State} (s : State) (hk : Stays s0 s) :
    Stays s0 (fillBuckets s) := by
  unfold fillBuckets
  try dsimp only
  repeat' first
    | with_reducible exact hk | with_reducible assumption | with_reducible apply modPort_keeps
    | with_reducible apply stays_foldl | intro _ _ _

theorem perform_keeps {s0 : State} (s : State) (x : HostCmd) (hk : Stays s0 s) :
    Stays s0 (perform s x) := by
  unfold perform
  try dsimp only
  repeat' first
    | with_reducible exact hk | with_reducible apply admitWrite_keeps | with_reducible apply refuse_keeps
    | with_reducible apply stageCmd_keeps | with_reducible apply startCadd_keeps | with_reducible apply startCrd_keeps
    | with_reducible apply startDeq_keeps | with_reducible apply startEnq_keeps | with_reducible apply startLkup_keeps
    | with_reducible apply startQflush_keeps | with_reducible apply startQstat_keeps | with_reducible apply startRead_keeps
    | split

theorem dispatchCmd_keeps {s0 : State} (s : State) (id : Nat) (hk : Stays s0 s) :
    Stays s0 (dispatchCmd s id) := by
  unfold dispatchCmd
  try dsimp only
  repeat' first
    | with_reducible exact hk | with_reducible apply complete_keeps | with_reducible apply perform_keeps
    | with_reducible apply refuse_keeps | with_reducible apply stageCmd_keeps | split

theorem restStep_keeps {s0 : State} (s : State) (id : Nat) (hk : Stays s0 s) :
    Stays s0 (restStep s id) := by
  unfold restStep
  try dsimp only
  repeat' first
    | with_reducible exact hk | with_reducible apply dispatchCmd_keeps | with_reducible apply hwAdd_keeps
    | with_reducible apply pmcCount_keeps | with_reducible apply restCharge_keeps | with_reducible apply stageCmd_keeps | split

theorem throttleStep_keeps {s0 : State} (s : State) (id : Nat) (hk : Stays s0 s) :
    Stays s0 (throttleStep s id) := by
  unfold throttleStep
  try dsimp only
  repeat' first
    | with_reducible exact hk | with_reducible apply refuse_keeps | with_reducible apply restStep_keeps
    | with_reducible apply stageCmd_keeps | with_reducible apply throttleCharge_keeps | split

theorem resume_keeps {s0 : State} (s : State) (x : HostCmd) (hk : Stays s0 s) :
    Stays s0 (resume s x) := by
  unfold resume
  try dsimp only
  repeat' first
    | with_reducible exact hk | with_reducible apply bitmapStep_keeps | with_reducible apply startCadd_keeps
    | with_reducible apply startDeq_keeps | with_reducible apply startEnq_keeps | with_reducible apply startQflush_keeps
    | split

theorem advance_keeps {s0 : State} (s : State) (id : Nat) (hk : Stays s0 s) :
    Stays s0 (advance s id) := by
  unfold advance
  try dsimp only
  repeat' first
    | with_reducible exact hk | with_reducible apply dispatchCmd_keeps | with_reducible apply resume_keeps
    | with_reducible apply throttleStep_keeps | split

theorem advanceAll_keeps {s0 : State} (s : State) (hk : Stays s0 s) :
    Stays s0 (advanceAll s) := by
  unfold advanceAll
  try dsimp only
  repeat' first
    | with_reducible exact hk | with_reducible apply advance_keeps | with_reducible apply stays_foldl

theorem writeLeaves_keeps {s0 : State} (s : State) (hk : Stays s0 s) :
    Stays s0 (writeLeaves s) := by
  unfold writeLeaves
  try dsimp only
  repeat' first
    | with_reducible exact hk | with_reducible exact Stays.refl _ | with_reducible assumption
    | with_reducible apply admitSector_keeps | with_reducible apply modLke_keeps | with_reducible apply putSector_keeps
    | with_reducible apply stays_foldl | with_reducible apply stays_foldl_fst | with_reducible apply stays_foldl_snd
    | with_reducible refine stays_snd (by assumption) ?_ | with_reducible exact fun x => x | split | intro _ _ _
    | with_reducible refine stays_mk ?_ ?_ ?_ ?_ ?_ ?_ ?_ ?_ ?_  | with_reducible exact GlbStays.refl _ | with_reducible rfl
    | with_reducible exact Nat.le_refl _ | (intro _ h; with_reducible exact h) | (intro _; with_reducible rfl)
    | (intro _; with_reducible exact Nat.le_refl _)

theorem markWanted_keeps {s0 : State} (s : State) (hk : Stays s0 s) :
    Stays s0 (markWanted s) := by
  unfold markWanted
  try dsimp only
  repeat' first
    | with_reducible exact hk | (intro h; with_reducible first | exact fwf_filter h | exact fwf_fmapv h)
    | with_reducible exact fun x => x | split | with_reducible refine stays_mk ?_ ?_ ?_ ?_ ?_ ?_ ?_ ?_ ?_
    | with_reducible exact GlbStays.refl _ | with_reducible rfl

theorem calAll_keeps {s0 : State} (s : State) (hk : Stays s0 s) :
    Stays s0 (calAll s) := by
  unfold calAll
  try dsimp only
  repeat' first
    | with_reducible exact hk | with_reducible apply calUpdate_keeps | with_reducible apply stays_foldl

theorem flushRule_keeps {s0 : State} (s : State) (hk : Stays s0 s) :
    Stays s0 (flushRule s) := by
  unfold flushRule
  try dsimp only
  repeat' first
    | with_reducible exact hk | with_reducible apply raise_keeps | with_reducible apply setCfg_keeps | split

theorem lineRule_keeps {s0 : State} (s : State) (hk : Stays s0 s) :
    Stays s0 (lineRule s) := by
  unfold lineRule
  try dsimp only
  repeat' first
    | with_reducible exact hk | with_reducible exact Stays.refl _ | with_reducible assumption | with_reducible exact fun x => x
    | split | intro _ _ _ | with_reducible refine stays_mk ?_ ?_ ?_ ?_ ?_ ?_ ?_ ?_ ?_  | with_reducible exact GlbStays.refl _
    | with_reducible rfl | with_reducible exact Nat.le_refl _ | (intro _ h; with_reducible exact h)
    | (intro _; with_reducible rfl) | (intro _; with_reducible exact Nat.le_refl _)

theorem settlePorts_keeps {s0 : State} (s : State) (hk : Stays s0 s) :
    Stays s0 (settlePorts s) := by
  unfold settlePorts
  try dsimp only
  repeat' first
    | with_reducible exact hk | with_reducible exact Stays.refl _ | with_reducible assumption
    | with_reducible apply advanceAll_keeps | with_reducible apply calAll_keeps | with_reducible apply dispatchLkups_keeps
    | with_reducible apply flushRule_keeps | with_reducible apply foldAllRule_keeps | with_reducible apply lagRule_keeps
    | with_reducible apply lineRule_keeps | with_reducible apply markWanted_keeps | with_reducible apply releaseOks_keeps
    | with_reducible apply syncRule_keeps | with_reducible apply writeLeaves_keeps | with_reducible exact fun x => x | split
    | intro _ _ _ | with_reducible exact GlbStays.refl _ | with_reducible rfl | with_reducible exact Nat.le_refl _
    | (intro _ h; with_reducible exact h) | (intro _; with_reducible rfl) | (intro _; with_reducible exact Nat.le_refl _)

end Sys2Proof.Machine
end

