-- ==== Sys2Proof/Laws/KeepsC.lean ====
section
/-! SUPPORT. What every command keeps, operation by operation: MbxOps, KeyOps, SeedOps, TblOps, DevOps, QueOps, PstOps. -/

namespace Sys2Proof.Machine

theorem badLen_keeps {s0 : State} (s : State) (hk : Stays s0 s) :
    Stays s0 (badLen s).2 := by
  unfold badLen
  try dsimp only
  repeat' first
    | with_reducible exact hk

theorem badField_keeps {s0 : State} (s : State) (hk : Stays s0 s) :
    Stays s0 (badField s).2 := by
  unfold badField
  try dsimp only
  repeat' first
    | with_reducible exact hk

theorem refusedFor_keeps {s0 : State} (s : State) (reason : Nat) (hk : Stays s0 s) :
    Stays s0 (refusedFor s reason).2 := by
  unfold refusedFor
  try dsimp only
  repeat' first
    | with_reducible exact hk

theorem doneWith_keeps {s0 : State} (s : State) (resp : List Byte) (hk : Stays s0 s) :
    Stays s0 (doneWith s resp).2 := by
  unfold doneWith
  try dsimp only
  repeat' first
    | with_reducible exact hk

theorem mbxFinish_keeps {s0 : State} (s : State) (m : Mbx) (code reason : Nat) (resp : List Byte) (hk : Stays s0 s) :
    Stays s0 (mbxFinish s m code reason resp) :=
  modMbx_keeps (fun _ h => ⟨h.1, cellsOf_wf resp⟩) hk

theorem mbxSettle_keeps {s0 : State} (m : Mbx) (r : MbxOut × State) (hk : Stays s0 r.2) : Stays s0 (mbxSettle m r) := by
  unfold mbxSettle
  split
  · exact mbxFinish_keeps _ _ _ _ _ hk
  · exact modMbx_keeps (fun _ h => h) hk
  · exact modMbx_keeps (fun _ h => h) hk

theorem mbxCapture_keeps {s0 : State} (s : State) (m : Mbx) (op : Nat) (reqLen : Nat) (irq : Bool) (hk : Stays s0 s) :
    Stays s0 (mbxCapture s m op reqLen irq) := by
  unfold mbxCapture
  try dsimp only
  repeat' first
    | with_reducible exact hk | with_reducible apply modMbx_keeps | (intro _ h; with_reducible exact h)

theorem mbxPlace_keeps {s0 : State} (s : State) (m : Mbx) (op : Nat) (req : List Byte) (irq : Bool) (hk : Stays s0 s) :
    Stays s0 (mbxPlace s m op req irq) :=
  setCfg_keeps _ _ (modMbx_keeps (fun _ h => ⟨bufWrite_wf req h.1, h.2⟩) hk)

theorem dropRekey_keeps {s0 : State} (s : State) (r : Nat) (hk : Stays s0 s) :
    Stays s0 (dropRekey s r) := by
  unfold dropRekey
  try dsimp only
  repeat' first
    | with_reducible exact hk | with_reducible exact Stays.refl _ | with_reducible assumption
    | with_reducible apply modRegion_keeps | with_reducible exact fun x => x | split | intro _ _ _
    | with_reducible refine stays_mk ?_ ?_ ?_ ?_ ?_ ?_ ?_ ?_ ?_  | with_reducible exact GlbStays.refl _ | with_reducible rfl
    | with_reducible exact Nat.le_refl _ | (intro _ h; with_reducible exact h) | (intro _; with_reducible rfl)
    | (intro _; with_reducible exact Nat.le_refl _)

theorem eraseRegion_keeps {s0 : State} (s : State) (r : Nat) (slot : Option (Fin 64)) (hk : Stays s0 s) :
    Stays s0 (eraseRegion s r slot) := by
  unfold eraseRegion
  try dsimp only
  repeat' first
    | with_reducible exact hk | with_reducible exact Stays.refl _ | with_reducible assumption
    | with_reducible apply dropRekey_keeps | with_reducible apply dropReqs_keeps | with_reducible apply evt_keeps
    | with_reducible apply formRecord_keeps | with_reducible apply freeNext_keeps | with_reducible apply hwSat_keeps
    | with_reducible apply invalidate_keeps | with_reducible apply modCnt_keeps | with_reducible apply modMed_keeps
    | with_reducible apply raise_keeps | with_reducible apply saveInner_keeps | with_reducible apply setRegion_keeps
    | (intro h; with_reducible first | exact fwf_filter h) | (intro _ h; with_reducible first | exact fwf_filter h)
    | with_reducible exact fun x => x | split | intro _ _ _ | with_reducible refine stays_mk ?_ ?_ ?_ ?_ ?_ ?_ ?_ ?_ ?_
    | with_reducible exact GlbStays.refl _ | with_reducible rfl | with_reducible exact Nat.le_refl _
    | (intro _ h; with_reducible exact h) | (intro _; with_reducible rfl) | (intro _; with_reducible exact Nat.le_refl _)

theorem zeroiseSlot_keeps {s0 : State} (s : State) (k : Nat) (hk : Stays s0 s) :
    Stays s0 (zeroiseSlot s k) := by
  unfold zeroiseSlot
  try dsimp only
  repeat' first
    | with_reducible exact hk | with_reducible exact Stays.refl _ | with_reducible assumption
    | with_reducible apply saveInner_keeps | with_reducible exact fun x => x | split | intro _ _ _
    | with_reducible refine stays_mk ?_ ?_ ?_ ?_ ?_ ?_ ?_ ?_ ?_  | with_reducible exact GlbStays.refl _ | with_reducible rfl
    | with_reducible exact Nat.le_refl _ | (intro _ h; with_reducible exact h) | (intro _; with_reducible rfl)
    | (intro _; with_reducible exact Nat.le_refl _)

theorem askErase_keeps {s0 : State} (s : State) (r : Nat) (why : EraseWhy) (hk : Stays s0 s) :
    Stays s0 (askErase s r why) := by
  unfold askErase
  try dsimp only
  repeat' first
    | with_reducible exact hk | with_reducible exact fun x => x | with_reducible refine stays_mk ?_ ?_ ?_ ?_ ?_ ?_ ?_ ?_ ?_
    | with_reducible exact GlbStays.refl _ | with_reducible rfl

theorem dropErase_keeps {s0 : State} (s : State) (why : EraseWhy) (hk : Stays s0 s) :
    Stays s0 (dropErase s why) := by
  unfold dropErase
  try dsimp only
  repeat' first
    | with_reducible exact hk | with_reducible exact fun x => x | with_reducible refine stays_mk ?_ ?_ ?_ ?_ ?_ ?_ ?_ ?_ ?_
    | with_reducible exact GlbStays.refl _ | with_reducible rfl

theorem rebuildWrite_keeps {s0 : State} (s : State) (lsa : Nat) (d : Option Sector) (hk : Stays s0 s) :
    Stays s0 (rebuildWrite s lsa d) := by
  unfold rebuildWrite
  try dsimp only
  repeat' first
    | with_reducible exact hk | with_reducible exact Stays.refl _ | with_reducible assumption
    | with_reducible apply addReq_keeps | with_reducible apply modReq_keeps | with_reducible exact fun x => x | split
    | intro _ _ _ | with_reducible refine stays_mk ?_ ?_ ?_ ?_ ?_ ?_ ?_ ?_ ?_  | with_reducible exact GlbStays.refl _
    | with_reducible rfl | with_reducible exact Nat.le_refl _ | (intro _ h; with_reducible exact h)
    | (intro _; with_reducible rfl) | (intro _; with_reducible exact Nat.le_refl _)

theorem recreateNext_keeps {s0 : State} (s : State) (r : Nat) (k : Nat) (hk : Stays s0 s) :
    Stays s0 (recreateNext s r k) := by
  unfold recreateNext
  try dsimp only
  repeat' first
    | with_reducible exact hk | with_reducible exact Stays.refl _ | with_reducible assumption
    | with_reducible apply modBlank_keeps | with_reducible apply rebuildWrite_keeps | with_reducible exact fun x => x | split
    | intro _ _ _ | with_reducible refine stays_mk ?_ ?_ ?_ ?_ ?_ ?_ ?_ ?_ ?_  | with_reducible exact GlbStays.refl _
    | with_reducible rfl | with_reducible exact Nat.le_refl _ | (intro _ h; with_reducible exact h)
    | (intro _; with_reducible rfl) | (intro _; with_reducible exact Nat.le_refl _)

theorem tryErase_keeps {s0 : State} (s : State) (why : EraseWhy) (hk : Stays s0 s) :
    Stays s0 (tryErase s why) := by
  unfold tryErase
  try dsimp only
  repeat' first
    | with_reducible exact hk | with_reducible exact Stays.refl _ | with_reducible assumption
    | with_reducible apply dropErase_keeps | with_reducible apply eraseRegion_keeps | with_reducible apply hwAdd_keeps
    | with_reducible apply mbxFinish_keeps | with_reducible apply modMir_keeps | with_reducible apply recreateNext_keeps
    | with_reducible apply sendAck_keeps | with_reducible apply zeroiseSlot_keeps | with_reducible apply stays_foldl
    | with_reducible apply stays_foldl_fst | with_reducible exact fun x => x | split | intro _ _ _
    | with_reducible refine stays_mk ?_ ?_ ?_ ?_ ?_ ?_ ?_ ?_ ?_  | with_reducible exact GlbStays.refl _ | with_reducible rfl
    | with_reducible exact Nat.le_refl _ | (intro _ h; with_reducible exact h) | (intro _; with_reducible rfl)
    | (intro _; with_reducible exact Nat.le_refl _)

theorem runErases_keeps {s0 : State} (s : State) (hk : Stays s0 s) :
    Stays s0 (runErases s) := by
  unfold runErases
  try dsimp only
  repeat' first
    | with_reducible exact hk | with_reducible apply tryErase_keeps | with_reducible apply stays_foldl

theorem modSeal_keeps {s0 : State} (s : State) (f : Seal → Seal) (hk : Stays s0 s) :
    Stays s0 (modSeal s f) := by
  unfold modSeal
  try dsimp only
  repeat' first
    | with_reducible exact hk | with_reducible exact fun x => x | with_reducible refine stays_mk ?_ ?_ ?_ ?_ ?_ ?_ ?_ ?_ ?_
    | with_reducible exact GlbStays.refl _ | with_reducible rfl

theorem startRekey_keeps {s0 : State} (s : State) (u : Fin 4) (r : Nat) (slot : Fin 64) (forced : Bool) (hk : Stays s0 s) :
    Stays s0 (startRekey s u r slot forced) := by
  unfold startRekey
  try dsimp only
  repeat' first
    | with_reducible exact hk | with_reducible exact Stays.refl _ | with_reducible assumption
    | with_reducible apply hwSat_keeps | with_reducible apply modSeal_keeps | with_reducible apply saveInner_keeps
    | with_reducible apply setRegion_keeps | with_reducible exact fun x => x | split | intro _ _ _
    | with_reducible refine stays_mk ?_ ?_ ?_ ?_ ?_ ?_ ?_ ?_ ?_  | with_reducible exact GlbStays.refl _ | with_reducible rfl
    | with_reducible exact Nat.le_refl _ | (intro _ h; with_reducible exact h) | (intro _; with_reducible rfl)
    | (intro _; with_reducible exact Nat.le_refl _)

theorem endRekey_keeps {s0 : State} (s : State) (r : Nat) (hk : Stays s0 s) :
    Stays s0 (endRekey s r) := by
  unfold endRekey
  try dsimp only
  repeat' first
    | with_reducible exact hk | with_reducible exact Stays.refl _ | with_reducible assumption | with_reducible apply evt_keeps
    | with_reducible apply hwSat_keeps | with_reducible apply modRegion_keeps | with_reducible apply modSeal_keeps
    | with_reducible apply raise_keeps | with_reducible apply saveInner_keeps | with_reducible exact fun x => x | split
    | intro _ _ _ | with_reducible refine stays_mk ?_ ?_ ?_ ?_ ?_ ?_ ?_ ?_ ?_  | with_reducible exact GlbStays.refl _
    | with_reducible rfl | with_reducible exact Nat.le_refl _ | (intro _ h; with_reducible exact h)
    | (intro _; with_reducible rfl) | (intro _; with_reducible exact Nat.le_refl _)

theorem opDevkeyInstall_keeps {s0 : State} (s : State) (req : List Byte) (hk : Stays s0 s) :
    Stays s0 (opDevkeyInstall s req).2 := by
  unfold opDevkeyInstall
  try dsimp only
  repeat' first
    | with_reducible exact hk | with_reducible exact Stays.refl _ | with_reducible assumption
    | with_reducible apply badLen_keeps | with_reducible apply doneWith_keeps | with_reducible apply modSeal_keeps
    | with_reducible apply refusedFor_keeps | with_reducible apply saveInner_keeps
    | with_reducible refine stays_snd (by assumption) ?_ | with_reducible exact fun x => x | split | intro _ _ _
    | with_reducible refine stays_mk ?_ ?_ ?_ ?_ ?_ ?_ ?_ ?_ ?_  | with_reducible exact GlbStays.refl _ | with_reducible rfl
    | with_reducible exact Nat.le_refl _ | (intro _ h; with_reducible exact h) | (intro _; with_reducible rfl)
    | (intro _; with_reducible exact Nat.le_refl _)

theorem opDevkeyZeroise_keeps {s0 : State} (s : State) (req : List Byte) (hk : Stays s0 s) :
    Stays s0 (opDevkeyZeroise s req).2 := by
  unfold opDevkeyZeroise
  try dsimp only
  repeat' first
    | with_reducible exact hk | with_reducible exact Stays.refl _ | with_reducible assumption
    | with_reducible apply badLen_keeps | with_reducible apply doneWith_keeps | with_reducible apply modSeal_keeps
    | with_reducible apply refusedFor_keeps | with_reducible apply saveInner_keeps | with_reducible apply stays_foldl
    | with_reducible apply stays_foldl_snd | with_reducible refine stays_snd (by assumption) ?_
    | with_reducible exact fun x => x | split | intro _ _ _ | with_reducible refine stays_mk ?_ ?_ ?_ ?_ ?_ ?_ ?_ ?_ ?_
    | with_reducible exact GlbStays.refl _ | with_reducible rfl | with_reducible exact Nat.le_refl _
    | (intro _ h; with_reducible exact h) | (intro _; with_reducible rfl) | (intro _; with_reducible exact Nat.le_refl _)

theorem unwrapFail_keeps {s0 : State} (s : State) (hk : Stays s0 s) :
    Stays s0 (unwrapFail s) := by
  unfold unwrapFail
  try dsimp only
  repeat' first
    | with_reducible exact hk | with_reducible apply evt_keeps | with_reducible apply hwSat_keeps
    | with_reducible apply raise_keeps

theorem keyLoaded_keeps {s0 : State} (s : State) (k : Nat) (r : Option (BitVec 256)) (hk : Stays s0 s) :
    Stays s0 (keyLoaded s k r).2 := by
  unfold keyLoaded
  try dsimp only
  repeat' first
    | with_reducible exact hk | with_reducible exact Stays.refl _ | with_reducible assumption
    | with_reducible apply doneWith_keeps | with_reducible apply hwSat_keeps | with_reducible apply modSeal_keeps
    | with_reducible apply refusedFor_keeps | with_reducible apply saveInner_keeps | with_reducible apply unwrapFail_keeps
    | with_reducible refine stays_snd (by assumption) ?_ | with_reducible exact fun x => x | split | intro _ _ _
    | with_reducible refine stays_mk ?_ ?_ ?_ ?_ ?_ ?_ ?_ ?_ ?_  | with_reducible exact GlbStays.refl _ | with_reducible rfl
    | with_reducible exact Nat.le_refl _ | (intro _ h; with_reducible exact h) | (intro _; with_reducible rfl)
    | (intro _; with_reducible exact Nat.le_refl _)

theorem opKeyLoad_keeps {s0 : State} (s : State) (req : List Byte) (hk : Stays s0 s) :
    Stays s0 (opKeyLoad s req).2 := by
  unfold opKeyLoad
  try dsimp only
  repeat' first
    | with_reducible exact hk | with_reducible apply badField_keeps | with_reducible apply badLen_keeps
    | with_reducible apply keyLoaded_keeps | with_reducible apply refusedFor_keeps | split

theorem opKeyBind_keeps {s0 : State} (s : State) (req : List Byte) (hk : Stays s0 s) :
    Stays s0 (opKeyBind s req).2 := by
  unfold opKeyBind
  try dsimp only
  repeat' first
    | with_reducible exact hk | with_reducible exact Stays.refl _ | with_reducible assumption
    | with_reducible apply badField_keeps | with_reducible apply badLen_keeps | with_reducible apply doneWith_keeps
    | with_reducible apply freeNext_keeps | with_reducible apply refusedFor_keeps | with_reducible apply saveInner_keeps
    | with_reducible apply setRegion_keeps | with_reducible refine stays_snd (by assumption) ?_
    | with_reducible exact fun x => x | split | intro _ _ _ | with_reducible refine stays_mk ?_ ?_ ?_ ?_ ?_ ?_ ?_ ?_ ?_
    | with_reducible exact GlbStays.refl _ | with_reducible rfl | with_reducible exact Nat.le_refl _
    | (intro _ h; with_reducible exact h) | (intro _; with_reducible rfl) | (intro _; with_reducible exact Nat.le_refl _)

theorem opKeyChange_keeps {s0 : State} (s : State) (m : Mbx) (req : List Byte) (hk : Stays s0 s) :
    Stays s0 (opKeyChange s m req).2 := by
  unfold opKeyChange
  try dsimp only
  repeat' first
    | with_reducible exact hk | with_reducible apply askErase_keeps | with_reducible apply badField_keeps
    | with_reducible apply badLen_keeps | with_reducible apply doneWith_keeps | with_reducible apply refusedFor_keeps
    | with_reducible apply startRekey_keeps | split

theorem opKeyUnbind_keeps {s0 : State} (s : State) (m : Mbx) (req : List Byte) (hk : Stays s0 s) :
    Stays s0 (opKeyUnbind s m req).2 := by
  unfold opKeyUnbind
  try dsimp only
  repeat' first
    | with_reducible exact hk | with_reducible apply askErase_keeps | with_reducible apply badField_keeps
    | with_reducible apply badLen_keeps | with_reducible apply refusedFor_keeps | split

theorem opKeyRetire_keeps {s0 : State} (s : State) (m : Mbx) (req : List Byte) (hk : Stays s0 s) :
    Stays s0 (opKeyRetire s m req).2 := by
  unfold opKeyRetire
  try dsimp only
  repeat' first
    | with_reducible exact hk | with_reducible assumption | with_reducible apply askErase_keeps
    | with_reducible apply badField_keeps | with_reducible apply badLen_keeps | with_reducible apply doneWith_keeps
    | with_reducible apply refusedFor_keeps | with_reducible apply zeroiseSlot_keeps | with_reducible apply stays_foldl | split
    | intro _ _ _

theorem opKeyInfo_keeps {s0 : State} (s : State) (req : List Byte) (hk : Stays s0 s) :
    Stays s0 (opKeyInfo s req).2 := by
  unfold opKeyInfo
  try dsimp only
  repeat' first
    | with_reducible exact hk | with_reducible apply badField_keeps | with_reducible apply badLen_keeps
    | with_reducible apply doneWith_keeps | split

theorem nextSeed_keeps {s0 : State} (s : State) (n : MPort) (hk : Stays s0 s) :
    Stays s0 (nextSeed s n) := by
  unfold nextSeed
  try dsimp only
  repeat' first
    | with_reducible exact hk | with_reducible exact Stays.refl _ | with_reducible assumption
    | with_reducible apply mirSend_keeps | with_reducible apply modMir_keeps | with_reducible apply modMirRegion_keeps
    | with_reducible exact fun x => x | split | intro _ _ _ | with_reducible refine stays_mk ?_ ?_ ?_ ?_ ?_ ?_ ?_ ?_ ?_
    | with_reducible exact GlbStays.refl _ | with_reducible rfl | with_reducible exact Nat.le_refl _
    | (intro _ h; with_reducible exact h) | (intro _; with_reducible rfl) | (intro _; with_reducible exact Nat.le_refl _)

theorem askSeed_keeps {s0 : State} (s : State) (r : Nat) (rebuild : Bool) (hk : Stays s0 s) :
    Stays s0 (askSeed s r rebuild) := by
  unfold askSeed
  try dsimp only
  repeat' first
    | with_reducible exact hk | with_reducible apply modMir_keeps | with_reducible apply nextSeed_keeps

theorem clearLost_keeps {s0 : State} (s : State) (r : Nat) (hk : Stays s0 s) :
    Stays s0 (clearLost s r) := by
  unfold clearLost
  try dsimp only
  repeat' first
    | with_reducible exact hk | with_reducible apply endRekey_keeps | with_reducible apply evt_keeps
    | with_reducible apply modBlank_keeps | with_reducible apply modRegion_keeps | with_reducible apply raise_keeps | split

theorem takeRecord_keeps {s0 : State} (s : State) (n : MPort) (hk : Stays s0 s) :
    Stays s0 (takeRecord s n) := by
  unfold takeRecord
  try dsimp only
  repeat' first
    | with_reducible exact hk | with_reducible exact Stays.refl _ | with_reducible assumption
    | with_reducible apply modMir_keeps | with_reducible apply ungrant_keeps | with_reducible exact fun x => x | split
    | intro _ _ _ | with_reducible refine stays_mk ?_ ?_ ?_ ?_ ?_ ?_ ?_ ?_ ?_  | with_reducible exact GlbStays.refl _
    | with_reducible rfl | with_reducible exact Nat.le_refl _ | (intro _ h; with_reducible exact h)
    | (intro _; with_reducible rfl) | (intro _; with_reducible exact Nat.le_refl _)

theorem popRecord_keeps {s0 : State} (s : State) (n : MPort) (hk : Stays s0 s) :
    Stays s0 (popRecord s n) := by
  unfold popRecord
  try dsimp only
  repeat' first
    | with_reducible exact hk | with_reducible exact Stays.refl _ | with_reducible assumption
    | with_reducible apply hwAdd_keeps | with_reducible apply takeRecord_keeps | with_reducible exact fun x => x | split
    | intro _ _ _ | with_reducible exact GlbStays.refl _ | with_reducible rfl | with_reducible exact Nat.le_refl _
    | (intro _ h; with_reducible exact h) | (intro _; with_reducible rfl) | (intro _; with_reducible exact Nat.le_refl _)

theorem passRecord_keeps {s0 : State} (s : State) (n : MPort) (hk : Stays s0 s) :
    Stays s0 (passRecord s n) := by
  unfold passRecord
  try dsimp only
  repeat' first
    | with_reducible exact hk | with_reducible exact Stays.refl _ | with_reducible assumption
    | with_reducible apply sendAck_keeps | with_reducible apply takeRecord_keeps | with_reducible exact fun x => x | split
    | intro _ _ _ | with_reducible exact GlbStays.refl _ | with_reducible rfl | with_reducible exact Nat.le_refl _
    | (intro _ h; with_reducible exact h) | (intro _; with_reducible rfl) | (intro _; with_reducible exact Nat.le_refl _)

theorem writeRecordIn_keeps {s0 : State} (s : State) (n : MPort) (seq : BitVec 48) (rec : Record) (hk : Stays s0 s) :
    Stays s0 (writeRecordIn s n seq rec) := by
  unfold writeRecordIn
  try dsimp only
  repeat' first
    | with_reducible exact hk | with_reducible exact Stays.refl _ | with_reducible assumption
    | with_reducible apply dispatchCmd_keeps | with_reducible apply putCmd_keeps | with_reducible apply takeRecord_keeps
    | with_reducible exact fun x => x | split | intro _ _ _ | with_reducible exact GlbStays.refl _ | with_reducible rfl
    | with_reducible exact Nat.le_refl _ | (intro _ h; with_reducible exact h) | (intro _; with_reducible rfl)
    | (intro _; with_reducible exact Nat.le_refl _)

theorem passSeed_keeps {s0 : State} (s : State) (lsa : Nat) (hk : Stays s0 s) :
    Stays s0 (passSeed s lsa) := by
  unfold passSeed
  try dsimp only
  repeat' first
    | with_reducible exact hk | with_reducible apply modMirRegion_keeps

theorem noteGap_keeps {s0 : State} (s : State) (r : Nat) (hk : Stays s0 s) :
    Stays s0 (noteGap s r) := by
  unfold noteGap
  try dsimp only
  repeat' first
    | with_reducible exact hk | with_reducible exact Stays.refl _ | with_reducible assumption
    | with_reducible apply modMirRegion_keeps | with_reducible exact fun x => x | split | intro _ _ _
    | with_reducible refine stays_mk ?_ ?_ ?_ ?_ ?_ ?_ ?_ ?_ ?_  | with_reducible exact GlbStays.refl _ | with_reducible rfl
    | with_reducible exact Nat.le_refl _ | (intro _ h; with_reducible exact h) | (intro _; with_reducible rfl)
    | (intro _; with_reducible exact Nat.le_refl _)

theorem poisonRecord_keeps {s0 : State} (s : State) (n : MPort) (lsa : Nat) (hk : Stays s0 s) :
    Stays s0 (poisonRecord s n lsa).2 := by
  unfold poisonRecord
  try dsimp only
  repeat' first
    | with_reducible exact hk | with_reducible exact Stays.refl _ | with_reducible assumption
    | with_reducible apply admitSector_keeps | with_reducible apply makeRoom_keeps | with_reducible apply passRecord_keeps
    | with_reducible apply poisonSlot_keeps | with_reducible apply popRecord_keeps | with_reducible apply sendAck_keeps
    | with_reducible refine stays_snd (by assumption) ?_ | with_reducible exact fun x => x | split | intro _ _ _
    | with_reducible refine stays_mk ?_ ?_ ?_ ?_ ?_ ?_ ?_ ?_ ?_  | with_reducible exact GlbStays.refl _ | with_reducible rfl
    | with_reducible exact Nat.le_refl _ | (intro _ h; with_reducible exact h) | (intro _; with_reducible rfl)
    | (intro _; with_reducible exact Nat.le_refl _)

theorem seedEnd_keeps {s0 : State} (s : State) (n : MPort) (r : Nat) (hk : Stays s0 s) :
    Stays s0 (seedEnd s n r) := by
  unfold seedEnd
  try dsimp only
  repeat' first
    | with_reducible exact hk | with_reducible exact Stays.refl _ | with_reducible assumption
    | with_reducible apply askSeeds_keeps | with_reducible apply clearLost_keeps | with_reducible apply evt_keeps
    | with_reducible apply modMirRegion_keeps | with_reducible apply popRecord_keeps | with_reducible apply raise_keeps
    | with_reducible apply sendAck_keeps | with_reducible exact fun x => x | split | intro _ _ _
    | with_reducible refine stays_mk ?_ ?_ ?_ ?_ ?_ ?_ ?_ ?_ ?_  | with_reducible exact GlbStays.refl _ | with_reducible rfl
    | with_reducible exact Nat.le_refl _ | (intro _ h; with_reducible exact h) | (intro _; with_reducible rfl)
    | (intro _; with_reducible exact Nat.le_refl _)

theorem applySector_keeps {s0 : State} (s : State) (n : MPort) (seq : BitVec 48) (rec : Record) (hk : Stays s0 s) :
    Stays s0 (applySector s n seq rec).2 := by
  unfold applySector
  try dsimp only
  repeat' first
    | with_reducible exact hk | with_reducible exact Stays.refl _ | with_reducible assumption
    | with_reducible apply passRecord_keeps | with_reducible apply passSeed_keeps | with_reducible apply poisonRecord_keeps
    | with_reducible apply rebuildWrite_keeps | with_reducible apply writeRecordIn_keeps
    | with_reducible refine stays_snd (by assumption) ?_ | with_reducible exact fun x => x | split | intro _ _ _
    | with_reducible exact GlbStays.refl _ | with_reducible rfl | with_reducible exact Nat.le_refl _
    | (intro _ h; with_reducible exact h) | (intro _; with_reducible rfl) | (intro _; with_reducible exact Nat.le_refl _)

theorem applyRecord_keeps {s0 : State} (s : State) (n : MPort) (hk : Stays s0 s) :
    Stays s0 (applyRecord s n).2 := by
  unfold applyRecord
  try dsimp only
  repeat' first
    | with_reducible exact hk | with_reducible exact Stays.refl _ | with_reducible assumption
    | with_reducible apply applySector_keeps | with_reducible apply askErase_keeps | with_reducible apply modBlank_keeps
    | with_reducible apply modMir_keeps | with_reducible apply modMirRegion_keeps | with_reducible apply modRegion_keeps
    | with_reducible apply passRecord_keeps | with_reducible apply popRecord_keeps | with_reducible apply seedEnd_keeps
    | with_reducible apply sendAck_keeps | with_reducible refine stays_snd (by assumption) ?_ | with_reducible exact fun x => x
    | split | intro _ _ _ | with_reducible refine stays_mk ?_ ?_ ?_ ?_ ?_ ?_ ?_ ?_ ?_  | with_reducible exact GlbStays.refl _
    | with_reducible rfl | with_reducible exact Nat.le_refl _ | (intro _ h; with_reducible exact h)
    | (intro _; with_reducible rfl) | (intro _; with_reducible exact Nat.le_refl _)

theorem applyInbox_keeps {s0 : State} (fuel : Nat) (s : State) (n : MPort) (hk : Stays s0 s) : Stays s0 (applyInbox fuel s n) := by
  induction fuel generalizing s with
  | zero => exact hk
  | succ fuel ih =>
    unfold applyInbox
    dsimp only
    split
    · exact ih _ (applyRecord_keeps _ _ hk)
    · exact applyRecord_keeps _ _ hk

theorem applyRecords_keeps {s0 : State} (s : State) (hk : Stays s0 s) :
    Stays s0 (applyRecords s) := by
  unfold applyRecords
  try dsimp only
  repeat' first
    | with_reducible exact hk | with_reducible assumption | with_reducible apply applyInbox_keeps
    | with_reducible apply stays_foldl | intro _ _ _

theorem rebuildRecord_keeps {s0 : State} (s : State) (lsa : Nat) (verified : Bool) (hk : Stays s0 s) :
    Stays s0 (rebuildRecord s lsa verified) := by
  unfold rebuildRecord
  try dsimp only
  repeat' first
    | with_reducible exact hk | with_reducible exact Stays.refl _ | with_reducible assumption | with_reducible apply evt_keeps
    | with_reducible apply modBlank_keeps | with_reducible apply passRecord_keeps | with_reducible apply passSeed_keeps
    | with_reducible apply popRecord_keeps | with_reducible apply raise_keeps | with_reducible apply sendAck_keeps
    | with_reducible apply stays_foldl | with_reducible exact fun x => x | split | intro _ _ _
    | with_reducible refine stays_mk ?_ ?_ ?_ ?_ ?_ ?_ ?_ ?_ ?_  | with_reducible exact GlbStays.refl _ | with_reducible rfl
    | with_reducible exact Nat.le_refl _ | (intro _ h; with_reducible exact h) | (intro _; with_reducible rfl)
    | (intro _; with_reducible exact Nat.le_refl _)

theorem putStaged_keeps {s0 : State} (s : State) (t : TableSet) (hk : Stays s0 s) :
    Stays s0 (putStaged s t) := by
  unfold putStaged
  try dsimp only
  repeat' first
    | with_reducible exact hk | with_reducible apply modLke_keeps

theorem opTblCreate_keeps {s0 : State} (s : State) (req : List Byte) (hk : Stays s0 s) :
    Stays s0 (opTblCreate s req).2 := by
  unfold opTblCreate
  try dsimp only
  repeat' first
    | with_reducible exact hk | with_reducible apply badField_keeps | with_reducible apply badLen_keeps
    | with_reducible apply doneWith_keeps | with_reducible apply putStaged_keeps | with_reducible apply refusedFor_keeps
    | split

theorem opTblDelete_keeps {s0 : State} (s : State) (req : List Byte) (hk : Stays s0 s) :
    Stays s0 (opTblDelete s req).2 := by
  unfold opTblDelete
  try dsimp only
  repeat' first
    | with_reducible exact hk | with_reducible apply badField_keeps | with_reducible apply badLen_keeps
    | with_reducible apply doneWith_keeps | with_reducible apply putStaged_keeps | with_reducible apply refusedFor_keeps
    | split

theorem stageRecord_keeps {s0 : State} (s : State) (rec : List Byte) (hk : Stays s0 s) :
    Stays s0 (stageRecord s rec).2 := by
  unfold stageRecord
  try dsimp only
  repeat' first
    | with_reducible exact hk | with_reducible apply freeNext_keeps | with_reducible apply modLke_keeps | split

theorem stageAll_keeps {s0 : State} (l : List (List Byte)) (s : State) (n : Nat) (hk : Stays s0 s) :
    Stays s0 (stageAll l s n).2.2 := by
  induction l generalizing s n with
  | nil => exact hk
  | cons r rs ih =>
    unfold stageAll
    dsimp only
    split
    · exact ih _ _ (stageRecord_keeps _ _ hk)
    · exact stageRecord_keeps _ _ hk

theorem startTblCommit_keeps {s0 : State} (s : State) (m : Mbx) (hk : Stays s0 s) :
    Stays s0 (startTblCommit s m) := by
  unfold startTblCommit
  try dsimp only
  repeat' first
    | with_reducible exact hk | with_reducible apply modLke_keeps

theorem opTblCommit_keeps {s0 : State} (s : State) (m : Mbx) (req : List Byte) (hk : Stays s0 s) :
    Stays s0 (opTblCommit s m req).2 := by
  unfold opTblCommit
  try dsimp only
  repeat' first
    | with_reducible exact hk | with_reducible apply badLen_keeps | with_reducible apply doneWith_keeps
    | with_reducible apply refusedFor_keeps | with_reducible apply startTblCommit_keeps | split

theorem opTblUpdate_keeps {s0 : State} (s : State) (m : Mbx) (req : List Byte) (hk : Stays s0 s) :
    Stays s0 (opTblUpdate s m req).2 := by
  unfold opTblUpdate
  try dsimp only
  repeat' first
    | with_reducible exact hk | with_reducible apply badField_keeps | with_reducible apply badLen_keeps
    | with_reducible apply doneWith_keeps | with_reducible apply stageAll_keeps | with_reducible apply startTblCommit_keeps
    | split

theorem tblSwitch_keeps {s0 : State} (s : State) (c : TblCommit) (hk : Stays s0 s) :
    Stays s0 (tblSwitch s c) := by
  unfold tblSwitch
  try dsimp only
  repeat' first
    | with_reducible exact hk | with_reducible exact Stays.refl _ | with_reducible assumption
    | with_reducible apply mbxFinish_keeps | with_reducible apply modLke_keeps | with_reducible apply raise_keeps
    | with_reducible apply saveInner_keeps | with_reducible apply stays_foldl | with_reducible exact fun x => x | split
    | intro _ _ _ | with_reducible refine stays_mk ?_ ?_ ?_ ?_ ?_ ?_ ?_ ?_ ?_  | with_reducible exact GlbStays.refl _
    | with_reducible rfl | with_reducible exact Nat.le_refl _ | (intro _ h; with_reducible exact h)
    | (intro _; with_reducible rfl) | (intro _; with_reducible exact Nat.le_refl _)

theorem opTblAbort_keeps {s0 : State} (s : State) (req : List Byte) (hk : Stays s0 s) :
    Stays s0 (opTblAbort s req).2 := by
  unfold opTblAbort
  try dsimp only
  repeat' first
    | with_reducible exact hk | with_reducible apply badLen_keeps | with_reducible apply doneWith_keeps
    | with_reducible apply modLke_keeps | split

theorem opTblQuery_keeps {s0 : State} (s : State) (req : List Byte) (hk : Stays s0 s) :
    Stays s0 (opTblQuery s req).2 := by
  unfold opTblQuery
  try dsimp only
  repeat' first
    | with_reducible exact hk | with_reducible apply badField_keeps | with_reducible apply badLen_keeps
    | with_reducible apply doneWith_keeps | with_reducible apply refusedFor_keeps | split

theorem opTblInfo_keeps {s0 : State} (s : State) (req : List Byte) (hk : Stays s0 s) :
    Stays s0 (opTblInfo s req).2 := by
  unfold opTblInfo
  try dsimp only
  repeat' first
    | with_reducible exact hk | with_reducible apply badField_keeps | with_reducible apply badLen_keeps
    | with_reducible apply doneWith_keeps | with_reducible apply refusedFor_keeps | split

theorem opProfileSet_keeps {s0 : State} (s : State) (req : List Byte) (hk : Stays s0 s) :
    Stays s0 (opProfileSet s req).2 := by
  unfold opProfileSet
  try dsimp only
  repeat' first
    | with_reducible exact hk | with_reducible apply badField_keeps | with_reducible apply badLen_keeps
    | with_reducible apply doneWith_keeps | with_reducible apply putStaged_keeps | with_reducible apply refusedFor_keeps
    | split

theorem opProfileGet_keeps {s0 : State} (s : State) (req : List Byte) (hk : Stays s0 s) :
    Stays s0 (opProfileGet s req).2 := by
  unfold opProfileGet
  try dsimp only
  repeat' first
    | with_reducible exact hk | with_reducible apply badField_keeps | with_reducible apply badLen_keeps
    | with_reducible apply doneWith_keeps | split

theorem reissue_keeps {s0 : State} (s : State) (id : Nat) (hk : Stays s0 s) :
    Stays s0 (reissue s id) := by
  unfold reissue
  try dsimp only
  repeat' first
    | with_reducible exact hk | with_reducible apply dropReqs_keeps | with_reducible apply endJob_keeps
    | with_reducible apply hwSat_keeps | with_reducible apply modCmd_keeps | with_reducible apply modMed_keeps
    | with_reducible apply startLkup_keeps | (intro _ h; with_reducible exact h)

theorem engineFail_keeps {s0 : State} (s : State) (e : Engine) (cause : Nat) (hk : Stays s0 s) :
    Stays s0 (engineFail s e cause) := by
  unfold engineFail
  try dsimp only
  repeat' first
    | with_reducible exact hk | with_reducible apply evt_keeps | with_reducible apply modLke_keeps
    | with_reducible apply pmcCount_keeps | with_reducible apply raise_keeps | with_reducible apply reissue_keeps
    | with_reducible apply stays_foldl | split

theorem opDevInfo_keeps {s0 : State} (s : State) (req : List Byte) (hk : Stays s0 s) :
    Stays s0 (opDevInfo s req).2 := by
  unfold opDevInfo
  try dsimp only
  repeat' first
    | with_reducible exact hk | with_reducible apply badLen_keeps | with_reducible apply doneWith_keeps | split

theorem opDevEcho_keeps {s0 : State} (s : State) (req : List Byte) (hk : Stays s0 s) :
    Stays s0 (opDevEcho s req).2 := by
  unfold opDevEcho
  try dsimp only
  repeat' first
    | with_reducible exact hk | with_reducible apply doneWith_keeps

theorem opRegionGet_keeps {s0 : State} (s : State) (req : List Byte) (hk : Stays s0 s) :
    Stays s0 (opRegionGet s req).2 := by
  unfold opRegionGet
  try dsimp only
  repeat' first
    | with_reducible exact hk | with_reducible apply badField_keeps | with_reducible apply badLen_keeps
    | with_reducible apply doneWith_keeps | split

theorem redrawDomain_keeps {s0 : State} (s : State) (d : Nat) (hk : Stays s0 s) : Stays s0 (redrawDomain s d) := by
  unfold redrawDomain
  refine modMed_keeps (fun m h => ?_) (freeNext_keeps (putDom_keeps _ _ _ hk))
  exact fwf_foldl (fun _ _ => fwf_fput) (fwf_filter h)

theorem drawKeys_keeps {s0 : State} (s : State) (r : Nat) (hk : Stays s0 s) :
    Stays s0 (drawKeys s r) := by
  unfold drawKeys
  try dsimp only
  repeat' first
    | with_reducible exact hk | with_reducible exact Stays.refl _ | with_reducible assumption
    | with_reducible apply redrawDomain_keeps | with_reducible apply stays_foldl | with_reducible exact fun x => x | split
    | intro _ _ _ | with_reducible exact GlbStays.refl _ | with_reducible rfl | with_reducible exact Nat.le_refl _
    | (intro _ h; with_reducible exact h) | (intro _; with_reducible rfl) | (intro _; with_reducible exact Nat.le_refl _)

theorem remapCounters_keeps {s0 : State} (s : State) (r : Nat) (hk : Stays s0 s) :
    Stays s0 (remapCounters s r) := by
  unfold remapCounters
  try dsimp only
  repeat' first
    | with_reducible exact hk | with_reducible exact Stays.refl _ | with_reducible assumption
    | with_reducible apply modCnt_keeps | with_reducible apply stays_foldl | with_reducible exact fun x => x | split
    | intro _ _ _ | with_reducible refine stays_mk ?_ ?_ ?_ ?_ ?_ ?_ ?_ ?_ ?_  | with_reducible exact GlbStays.refl _
    | with_reducible rfl | with_reducible exact Nat.le_refl _ | (intro _ h; with_reducible exact h)
    | (intro _; with_reducible rfl) | (intro _; with_reducible exact Nat.le_refl _)

theorem regionApply_keeps {s0 : State} (s : State) (r : Nat) (a : RegionAsk) (hk : Stays s0 s) :
    Stays s0 (regionApply s r a) := by
  unfold regionApply
  try dsimp only
  repeat' first
    | with_reducible exact hk | with_reducible exact Stays.refl _ | with_reducible assumption
    | with_reducible apply askSeed_keeps | with_reducible apply drawKeys_keeps | with_reducible apply modDbq_keeps
    | with_reducible apply remapCounters_keeps | with_reducible apply setRegion_keeps | with_reducible exact fun x => x | split
    | intro _ _ _ | with_reducible refine stays_mk ?_ ?_ ?_ ?_ ?_ ?_ ?_ ?_ ?_  | with_reducible exact GlbStays.refl _
    | with_reducible rfl | with_reducible exact Nat.le_refl _ | (intro _ h; with_reducible exact h)
    | (intro _; with_reducible rfl) | (intro _; with_reducible exact Nat.le_refl _)

theorem opRegionSet_keeps {s0 : State} (s : State) (req : List Byte) (hk : Stays s0 s) :
    Stays s0 (opRegionSet s req).2 := by
  unfold opRegionSet
  try dsimp only
  repeat' first
    | with_reducible exact hk | with_reducible exact Stays.refl _ | with_reducible assumption
    | with_reducible apply badField_keeps | with_reducible apply badLen_keeps | with_reducible apply doneWith_keeps
    | with_reducible apply refusedFor_keeps | with_reducible apply regionApply_keeps | with_reducible apply saveInner_keeps
    | with_reducible refine stays_snd (by assumption) ?_ | with_reducible exact fun x => x | split | intro _ _ _
    | with_reducible exact GlbStays.refl _ | with_reducible rfl | with_reducible exact Nat.le_refl _
    | (intro _ h; with_reducible exact h) | (intro _; with_reducible rfl) | (intro _; with_reducible exact Nat.le_refl _)

theorem opRegionRecreate_keeps {s0 : State} (s : State) (m : Mbx) (req : List Byte) (hk : Stays s0 s) :
    Stays s0 (opRegionRecreate s m req).2 := by
  unfold opRegionRecreate
  try dsimp only
  repeat' first
    | with_reducible exact hk | with_reducible apply askErase_keeps | with_reducible apply badField_keeps
    | with_reducible apply badLen_keeps | with_reducible apply refusedFor_keeps | split

theorem endRecreate_keeps {s0 : State} (s : State) (m : Mbx) (r : Nat) (aborted : Bool) (hk : Stays s0 s) :
    Stays s0 (endRecreate s m r aborted) := by
  unfold endRecreate
  try dsimp only
  repeat' first
    | with_reducible exact hk | with_reducible apply dropErase_keeps | with_reducible apply dropReqs_keeps
    | with_reducible apply mbxFinish_keeps | with_reducible apply modBlank_keeps

theorem recreateStep_keeps {s0 : State} (s : State) (m : Mbx) (r : Nat) (lsa : Nat) (hk : Stays s0 s) :
    Stays s0 (recreateStep s m r lsa) := by
  unfold recreateStep
  try dsimp only
  repeat' first
    | with_reducible exact hk | with_reducible apply askSeed_keeps | with_reducible apply clearLost_keeps
    | with_reducible apply endRecreate_keeps | with_reducible apply recreateNext_keeps | split

theorem recreateAgain_keeps {s0 : State} (s : State) (m : Mbx) (r : Nat) (lsa : Nat) (hk : Stays s0 s) :
    Stays s0 (recreateAgain s m r lsa) := by
  unfold recreateAgain
  try dsimp only
  repeat' first
    | with_reducible exact hk | with_reducible exact Stays.refl _ | with_reducible assumption
    | with_reducible apply endRecreate_keeps | with_reducible apply recreateNext_keeps | with_reducible exact fun x => x
    | split | intro _ _ _ | with_reducible exact GlbStays.refl _ | with_reducible rfl | with_reducible exact Nat.le_refl _
    | (intro _ h; with_reducible exact h) | (intro _; with_reducible rfl) | (intro _; with_reducible exact Nat.le_refl _)

theorem opForceFail_keeps {s0 : State} (s : State) (req : List Byte) (hk : Stays s0 s) :
    Stays s0 (opForceFail s req).2 := by
  unfold opForceFail
  try dsimp only
  repeat' first
    | with_reducible exact hk | with_reducible apply badField_keeps | with_reducible apply badLen_keeps
    | with_reducible apply doneWith_keeps | with_reducible apply engineFail_keeps | with_reducible apply mchFail_keeps
    | with_reducible apply refusedFor_keeps | split

theorem opPoolSet_keeps {s0 : State} (s : State) (req : List Byte) (hk : Stays s0 s) :
    Stays s0 (opPoolSet s req).2 := by
  unfold opPoolSet
  try dsimp only
  repeat' first
    | with_reducible exact hk | with_reducible exact Stays.refl _ | with_reducible assumption
    | with_reducible apply badField_keeps | with_reducible apply badLen_keeps | with_reducible apply doneWith_keeps
    | with_reducible apply modPool_keeps | with_reducible apply refusedFor_keeps | with_reducible apply saveInner_keeps
    | with_reducible refine stays_snd (by assumption) ?_ | with_reducible exact fun x => x | split | intro _ _ _
    | with_reducible refine stays_mk ?_ ?_ ?_ ?_ ?_ ?_ ?_ ?_ ?_  | with_reducible exact GlbStays.refl _ | with_reducible rfl
    | with_reducible exact Nat.le_refl _ | (intro _ h; with_reducible exact h) | (intro _; with_reducible rfl)
    | (intro _; with_reducible exact Nat.le_refl _)

theorem opPoolInfo_keeps {s0 : State} (s : State) (req : List Byte) (hk : Stays s0 s) :
    Stays s0 (opPoolInfo s req).2 := by
  unfold opPoolInfo
  try dsimp only
  repeat' first
    | with_reducible exact hk | with_reducible apply badLen_keeps | with_reducible apply doneWith_keeps | split

theorem opQueueGet_keeps {s0 : State} (s : State) (req : List Byte) (hk : Stays s0 s) :
    Stays s0 (opQueueGet s req).2 := by
  unfold opQueueGet
  try dsimp only
  repeat' first
    | with_reducible exact hk | with_reducible exact Stays.refl _ | with_reducible assumption
    | with_reducible apply badField_keeps | with_reducible apply badLen_keeps | with_reducible apply descCheck_keeps
    | with_reducible apply doneWith_keeps | with_reducible refine stays_snd (by assumption) ?_
    | with_reducible exact fun x => x | split | intro _ _ _ | with_reducible exact GlbStays.refl _ | with_reducible rfl
    | with_reducible exact Nat.le_refl _ | (intro _ h; with_reducible exact h) | (intro _; with_reducible rfl)
    | (intro _; with_reducible exact Nat.le_refl _)

theorem dropOpen_keeps {s0 : State} (s : State) (q : Nat) (hk : Stays s0 s) :
    Stays s0 (dropOpen s q) := by
  unfold dropOpen
  try dsimp only
  repeat' first
    | with_reducible exact hk | with_reducible assumption | with_reducible apply freeDead_keeps
    | with_reducible apply killSector_keeps | with_reducible apply modQueue_keeps | with_reducible apply stays_foldl | split
    | intro _ _ _

theorem setQueue_keeps {s0 : State} (s : State) (q : Nat) (req : List Byte) (hk : Stays s0 s) :
    Stays s0 (setQueue s q req) := by
  unfold setQueue
  try dsimp only
  repeat' first
    | with_reducible exact hk | with_reducible apply dropOpen_keeps | with_reducible apply modDbq_keeps
    | with_reducible apply modQueue_keeps | with_reducible apply runFlushes_keeps | split

theorem opQueueSet_keeps {s0 : State} (s : State) (m : Mbx) (req : List Byte) (hk : Stays s0 s) :
    Stays s0 (opQueueSet s m req).2 := by
  unfold opQueueSet
  try dsimp only
  repeat' first
    | with_reducible exact hk | with_reducible exact Stays.refl _ | with_reducible assumption
    | with_reducible apply askBitmap_keeps | with_reducible apply badField_keeps | with_reducible apply badLen_keeps
    | with_reducible apply descCheck_keeps | with_reducible apply doneWith_keeps | with_reducible apply grantCharge_keeps
    | with_reducible apply joinLine_keeps | with_reducible apply notePeak_keeps | with_reducible apply setQueue_keeps
    | with_reducible apply ungrant_keeps | with_reducible apply stays_foldl | with_reducible apply stays_foldl_snd
    | with_reducible refine stays_snd (by assumption) ?_ | with_reducible exact fun x => x | split | intro _ _ _
    | with_reducible exact GlbStays.refl _ | with_reducible rfl | with_reducible exact Nat.le_refl _
    | (intro _ h; with_reducible exact h) | (intro _; with_reducible rfl) | (intro _; with_reducible exact Nat.le_refl _)

theorem opCntClear_keeps {s0 : State} (s : State) (m : Mbx) (req : List Byte) (hk : Stays s0 s) :
    Stays s0 (opCntClear s m req).2 := by
  unfold opCntClear
  try dsimp only
  repeat' first
    | with_reducible exact hk | with_reducible apply badField_keeps | with_reducible apply badLen_keeps
    | with_reducible apply modCnt_keeps | with_reducible apply refusedFor_keeps | split

theorem putClear_keeps {s0 : State} (s : State) (m : Mbx) (v : Nat × Nat × Nat × List (BitVec 32)) (hk : Stays s0 s) :
    Stays s0 (putClear s m v) := by
  unfold putClear
  try dsimp only
  repeat' first
    | with_reducible exact hk | with_reducible apply modCnt_keeps

theorem endClear_keeps {s0 : State} (s : State) (m : Mbx) (cleared : Nat) (aborted : Bool) (hk : Stays s0 s) :
    Stays s0 (endClear s m cleared aborted) := by
  unfold endClear
  try dsimp only
  repeat' first
    | with_reducible exact hk | with_reducible apply mbxFinish_keeps | with_reducible apply modCnt_keeps

theorem clearSector_keeps {s0 : State} (s : State) (lsa : Nat) (hk : Stays s0 s) :
    Stays s0 (clearSector s lsa) := by
  unfold clearSector
  try dsimp only
  repeat' first
    | with_reducible exact hk | with_reducible exact Stays.refl _ | with_reducible assumption
    | with_reducible apply askIntent_keeps | with_reducible apply formRecord_keeps | with_reducible apply modCnt_keeps
    | with_reducible apply putSector_keeps | with_reducible exact fun x => x | split | intro _ _ _
    | with_reducible refine stays_mk ?_ ?_ ?_ ?_ ?_ ?_ ?_ ?_ ?_  | with_reducible exact GlbStays.refl _ | with_reducible rfl
    | with_reducible exact Nat.le_refl _ | (intro _ h; with_reducible exact h) | (intro _; with_reducible rfl)
    | (intro _; with_reducible exact Nat.le_refl _)

theorem clearStep_keeps {s0 : State} (s : State) (m : Mbx) (hk : Stays s0 s) :
    Stays s0 (clearStep s m) := by
  unfold clearStep
  try dsimp only
  repeat' first
    | with_reducible exact hk | with_reducible exact Stays.refl _ | with_reducible assumption
    | with_reducible apply admitSector_keeps | with_reducible apply clearSector_keeps | with_reducible apply putClear_keeps
    | with_reducible refine stays_snd (by assumption) ?_ | with_reducible exact fun x => x | split | intro _ _ _
    | with_reducible exact GlbStays.refl _ | with_reducible rfl | with_reducible exact Nat.le_refl _
    | (intro _ h; with_reducible exact h) | (intro _; with_reducible rfl) | (intro _; with_reducible exact Nat.le_refl _)

theorem clearVerified_keeps {s0 : State} (s : State) (lsa : Nat) (hk : Stays s0 s) :
    Stays s0 (clearVerified s lsa) := by
  unfold clearVerified
  try dsimp only
  repeat' first
    | with_reducible exact hk | with_reducible assumption | with_reducible apply endClear_keeps
    | with_reducible apply putClear_keeps | with_reducible apply stays_foldl | split | intro _ _ _

theorem opCntInfo_keeps {s0 : State} (s : State) (req : List Byte) (hk : Stays s0 s) :
    Stays s0 (opCntInfo s req).2 := by
  unfold opCntInfo
  try dsimp only
  repeat' first
    | with_reducible exact hk | with_reducible apply badLen_keeps | with_reducible apply doneWith_keeps | split

theorem pstPrograms_keeps {s0 : State} (s : State) (n : Nat) (hk : Stays s0 s) :
    Stays s0 (pstPrograms s n) := by
  unfold pstPrograms
  try dsimp only
  repeat' first
    | with_reducible exact hk | with_reducible apply hwAdd_keeps

theorem ctlWrite_keeps {s0 : State} (s : State) (hk : Stays s0 s) :
    Stays s0 (ctlWrite s) := by
  unfold ctlWrite
  try dsimp only
  repeat' first
    | with_reducible exact hk | with_reducible exact Stays.refl _ | with_reducible assumption
    | (intro p; unfold ctlNext; split <;> rfl) | with_reducible apply modPst_keeps | with_reducible apply pstPrograms_keeps
    | with_reducible exact fun x => x | split | intro _ _ _ | with_reducible exact GlbStays.refl _ | with_reducible rfl
    | with_reducible exact Nat.le_refl _ | (intro _ h; with_reducible exact h) | (intro _; with_reducible rfl)
    | (intro _; with_reducible exact Nat.le_refl _)

theorem putPstSlot_keeps {s0 : State} (s : State) (k : Nat) (v : PstSlot) (hk : Stays s0 s) :
    Stays s0 (putPstSlot s k v) := by
  unfold putPstSlot
  try dsimp only
  repeat' first
    | with_reducible exact hk | with_reducible apply modPst_keeps | (intro _; with_reducible rfl)

theorem pstWorn_keeps {s0 : State} (s : State) (hk : Stays s0 s) :
    Stays s0 (pstWorn s) := by
  unfold pstWorn
  try dsimp only
  repeat' first
    | with_reducible exact hk | with_reducible apply evt_keeps | with_reducible apply raise_keeps

theorem wearSlot_keeps {s0 : State} (s : State) (k : Nat) (hk : Stays s0 s) :
    Stays s0 (wearSlot s k) := by
  unfold wearSlot
  try dsimp only
  repeat' first
    | with_reducible exact hk | with_reducible apply pstWorn_keeps | with_reducible apply putPstSlot_keeps | split

theorem pwFailure_keeps {s0 : State} (s : State) (k : Nat) (which : Nat) (hk : Stays s0 s) :
    Stays s0 (pwFailure s k which) := by
  unfold pwFailure
  try dsimp only
  repeat' first
    | with_reducible exact hk | with_reducible apply evt_keeps | with_reducible apply hwSat_keeps
    | with_reducible apply hwSet_keeps | with_reducible apply putPstSlot_keeps | with_reducible apply raise_keeps | split

theorem opPstInfo_keeps {s0 : State} (s : State) (req : List Byte) (hk : Stays s0 s) :
    Stays s0 (opPstInfo s req).2 := by
  unfold opPstInfo
  try dsimp only
  repeat' first
    | with_reducible exact hk | with_reducible apply badLen_keeps | with_reducible apply doneWith_keeps | split

theorem opPstRead_keeps {s0 : State} (s : State) (req : List Byte) (hk : Stays s0 s) :
    Stays s0 (opPstRead s req).2 := by
  unfold opPstRead
  try dsimp only
  repeat' first
    | with_reducible exact hk | with_reducible apply badField_keeps | with_reducible apply badLen_keeps
    | with_reducible apply doneWith_keeps | with_reducible apply pwFailure_keeps | with_reducible apply refusedFor_keeps
    | split

theorem writeRecordSlot_keeps {s0 : State} (s : State) (k : Nat) (content : List Byte) (hk : Stays s0 s) :
    Stays s0 (writeRecordSlot s k content).2 := by
  unfold writeRecordSlot
  try dsimp only
  repeat' first
    | with_reducible exact hk | with_reducible exact Stays.refl _ | with_reducible assumption
    | with_reducible apply ctlWrite_keeps | with_reducible apply doneWith_keeps | with_reducible apply pstPrograms_keeps
    | with_reducible apply putPstSlot_keeps | with_reducible apply wearSlot_keeps
    | with_reducible refine stays_snd (by assumption) ?_ | with_reducible exact fun x => x | split | intro _ _ _
    | with_reducible refine stays_mk ?_ ?_ ?_ ?_ ?_ ?_ ?_ ?_ ?_  | with_reducible exact GlbStays.refl _ | with_reducible rfl
    | with_reducible exact Nat.le_refl _ | (intro _ h; with_reducible exact h) | (intro _; with_reducible rfl)
    | (intro _; with_reducible exact Nat.le_refl _)

theorem sealProfile_keeps {s0 : State} (s : State) (c : List Byte) (hk : Stays s0 s) :
    Stays s0 (sealProfile s c).2 := by
  unfold sealProfile
  try dsimp only
  repeat' first
    | with_reducible exact hk | with_reducible exact Stays.refl _ | with_reducible assumption
    | with_reducible apply ctlWrite_keeps | with_reducible apply doneWith_keeps | with_reducible apply evt_keeps
    | with_reducible apply modPst_keeps | with_reducible apply pstPrograms_keeps | with_reducible apply pstWorn_keeps
    | with_reducible apply raise_keeps | with_reducible apply refusedFor_keeps | with_reducible apply setCfg_keeps
    | with_reducible refine stays_snd (by assumption) ?_ | with_reducible exact fun x => x | split | intro _ _ _
    | with_reducible refine stays_mk ?_ ?_ ?_ ?_ ?_ ?_ ?_ ?_ ?_  | with_reducible exact GlbStays.refl _ | with_reducible rfl
    | with_reducible exact Nat.le_refl _ | (intro _ h; with_reducible exact h) | (intro _; with_reducible rfl)
    | (intro _; with_reducible exact Nat.le_refl _)

theorem writeProfile_keeps {s0 : State} (s : State) (off : Nat) (l : List Byte) (hk : Stays s0 s) :
    Stays s0 (writeProfile s off l).2 := by
  unfold writeProfile
  try dsimp only
  repeat' first
    | with_reducible exact hk | with_reducible apply doneWith_keeps | with_reducible apply modPst_keeps
    | with_reducible apply refusedFor_keeps | with_reducible apply sealProfile_keeps | split | (intro _; with_reducible rfl)

theorem opPstWrite_keeps {s0 : State} (s : State) (req : List Byte) (hk : Stays s0 s) :
    Stays s0 (opPstWrite s req).2 := by
  unfold opPstWrite
  try dsimp only
  repeat' first
    | with_reducible exact hk | with_reducible apply badField_keeps | with_reducible apply badLen_keeps
    | with_reducible apply pwFailure_keeps | with_reducible apply refusedFor_keeps | with_reducible apply writeProfile_keeps
    | with_reducible apply writeRecordSlot_keeps | split

theorem opPstPassword_keeps {s0 : State} (s : State) (req : List Byte) (hk : Stays s0 s) :
    Stays s0 (opPstPassword s req).2 := by
  unfold opPstPassword
  try dsimp only
  repeat' first
    | with_reducible exact hk | with_reducible exact Stays.refl _ | with_reducible assumption
    | with_reducible apply badField_keeps | with_reducible apply badLen_keeps | with_reducible apply ctlWrite_keeps
    | with_reducible apply doneWith_keeps | with_reducible apply putPstSlot_keeps | with_reducible apply pwFailure_keeps
    | with_reducible apply refusedFor_keeps | with_reducible apply wearSlot_keeps
    | with_reducible refine stays_snd (by assumption) ?_ | with_reducible exact fun x => x | split | intro _ _ _
    | with_reducible refine stays_mk ?_ ?_ ?_ ?_ ?_ ?_ ?_ ?_ ?_  | with_reducible exact GlbStays.refl _ | with_reducible rfl
    | with_reducible exact Nat.le_refl _ | (intro _ h; with_reducible exact h) | (intro _; with_reducible rfl)
    | (intro _; with_reducible exact Nat.le_refl _)

theorem putPstCtr_keeps {s0 : State} (s : State) (i : Nat) (v : PstCtr) (hk : Stays s0 s) :
    Stays s0 (putPstCtr s i v) := by
  unfold putPstCtr
  try dsimp only
  repeat' first
    | with_reducible exact hk | with_reducible apply modPst_keeps | (intro _; with_reducible rfl)

theorem opPstCtrRead_keeps {s0 : State} (s : State) (req : List Byte) (hk : Stays s0 s) :
    Stays s0 (opPstCtrRead s req).2 := by
  unfold opPstCtrRead
  try dsimp only
  repeat' first
    | with_reducible exact hk | with_reducible apply badField_keeps | with_reducible apply badLen_keeps
    | with_reducible apply doneWith_keeps | split

theorem opPstCtrInc_keeps {s0 : State} (s : State) (req : List Byte) (hk : Stays s0 s) :
    Stays s0 (opPstCtrInc s req).2 := by
  unfold opPstCtrInc
  try dsimp only
  repeat' first
    | with_reducible exact hk | with_reducible exact Stays.refl _ | with_reducible assumption
    | with_reducible apply badField_keeps | with_reducible apply badLen_keeps | with_reducible apply ctlWrite_keeps
    | with_reducible apply doneWith_keeps | with_reducible apply pstPrograms_keeps | with_reducible apply pstWorn_keeps
    | with_reducible apply putPstCtr_keeps | with_reducible apply refusedFor_keeps
    | with_reducible refine stays_snd (by assumption) ?_ | with_reducible exact fun x => x | split | intro _ _ _
    | with_reducible refine stays_mk ?_ ?_ ?_ ?_ ?_ ?_ ?_ ?_ ?_  | with_reducible exact GlbStays.refl _ | with_reducible rfl
    | with_reducible exact Nat.le_refl _ | (intro _ h; with_reducible exact h) | (intro _; with_reducible rfl)
    | (intro _; with_reducible exact Nat.le_refl _)

theorem opCalGet_keeps {s0 : State} (s : State) (req : List Byte) (hk : Stays s0 s) :
    Stays s0 (opCalGet s req).2 := by
  unfold opCalGet
  try dsimp only
  repeat' first
    | with_reducible exact hk | with_reducible apply badField_keeps | with_reducible apply badLen_keeps
    | with_reducible apply doneWith_keeps | split

theorem opCalSet_keeps {s0 : State} (s : State) (req : List Byte) (hk : Stays s0 s) :
    Stays s0 (opCalSet s req).2 := by
  unfold opCalSet
  try dsimp only
  repeat' first
    | with_reducible exact hk | with_reducible exact Stays.refl _ | with_reducible assumption
    | with_reducible apply badField_keeps | with_reducible apply badLen_keeps | with_reducible apply ctlWrite_keeps
    | with_reducible apply doneWith_keeps | with_reducible apply modPst_keeps | with_reducible apply pstPrograms_keeps
    | with_reducible apply pstWorn_keeps | with_reducible apply refusedFor_keeps
    | with_reducible refine stays_snd (by assumption) ?_ | with_reducible exact fun x => x | split | intro _ _ _
    | with_reducible refine stays_mk ?_ ?_ ?_ ?_ ?_ ?_ ?_ ?_ ?_  | with_reducible exact GlbStays.refl _ | with_reducible rfl
    | with_reducible exact Nat.le_refl _ | (intro _ h; with_reducible exact h) | (intro _; with_reducible rfl)
    | (intro _; with_reducible exact Nat.le_refl _)

theorem tieFound_keeps {s0 : State} (s : State) (area : Nat) (slot : Nat) (hk : Stays s0 s) :
    Stays s0 (tieFound s area slot) := by
  unfold tieFound
  try dsimp only
  repeat' first
    | with_reducible exact hk | with_reducible exact Stays.refl _ | with_reducible assumption | with_reducible apply evt_keeps
    | with_reducible apply raise_keeps | with_reducible exact fun x => x | split | intro _ _ _
    | with_reducible exact GlbStays.refl _ | with_reducible rfl | with_reducible exact Nat.le_refl _
    | (intro _ h; with_reducible exact h) | (intro _; with_reducible rfl) | (intro _; with_reducible exact Nat.le_refl _)

theorem tieWritten_keeps {s0 : State} (s : State) (writes : Nat) (hk : Stays s0 s) :
    Stays s0 (tieWritten s writes) := by
  unfold tieWritten
  try dsimp only
  repeat' first
    | with_reducible exact hk | with_reducible exact Stays.refl _ | with_reducible assumption
    | with_reducible apply ctlWrite_keeps | with_reducible apply pstPrograms_keeps | with_reducible apply pstWorn_keeps
    | with_reducible exact fun x => x | split | intro _ _ _ | with_reducible exact GlbStays.refl _ | with_reducible rfl
    | with_reducible exact Nat.le_refl _ | (intro _ h; with_reducible exact h) | (intro _; with_reducible rfl)
    | (intro _; with_reducible exact Nat.le_refl _)

theorem tieRewrite_keeps {s0 : State} (s : State) (area : Nat) (slot : Nat) (hk : Stays s0 s) :
    Stays s0 (tieRewrite s area slot) := by
  unfold tieRewrite
  try dsimp only
  repeat' first
    | with_reducible exact hk | with_reducible exact Stays.refl _ | with_reducible assumption
    | with_reducible apply ctlWrite_keeps | with_reducible apply modPst_keeps | with_reducible apply pstPrograms_keeps
    | with_reducible apply putPstSlot_keeps | with_reducible apply tieWritten_keeps | with_reducible apply wearSlot_keeps
    | with_reducible exact fun x => x | split | intro _ _ _ | with_reducible refine stays_mk ?_ ?_ ?_ ?_ ?_ ?_ ?_ ?_ ?_
    | with_reducible exact GlbStays.refl _ | with_reducible rfl | with_reducible exact Nat.le_refl _
    | (intro _ h; with_reducible exact h) | (intro _; with_reducible rfl) | (intro _; with_reducible exact Nat.le_refl _)

theorem intentDone_keeps {s0 : State} (s : State) (x : Fin 16 × Word64 × Bool) (hk : Stays s0 s) :
    Stays s0 (intentDone s x) := by
  unfold intentDone
  try dsimp only
  repeat' first
    | with_reducible exact hk | with_reducible exact Stays.refl _ | with_reducible assumption
    | with_reducible apply ctlWrite_keeps | with_reducible apply hwFldPut_keeps | with_reducible apply pstPrograms_keeps
    | with_reducible apply putPstCtr_keeps | with_reducible exact fun x => x | split | intro _ _ _
    | with_reducible exact GlbStays.refl _ | with_reducible rfl | with_reducible exact Nat.le_refl _
    | (intro _ h; with_reducible exact h) | (intro _; with_reducible rfl) | (intro _; with_reducible exact Nat.le_refl _)

theorem intentScan_keeps {s0 : State} (s : State) (hk : Stays s0 s) :
    Stays s0 (intentScan s) := by
  unfold intentScan
  try dsimp only
  repeat' first
    | with_reducible exact hk | with_reducible exact Stays.refl _ | with_reducible assumption
    | with_reducible apply intentDone_keeps | with_reducible apply modPst_keeps | with_reducible apply stays_foldl
    | with_reducible exact fun x => x | split | intro _ _ _ | with_reducible refine stays_mk ?_ ?_ ?_ ?_ ?_ ?_ ?_ ?_ ?_
    | with_reducible exact GlbStays.refl _ | with_reducible rfl | with_reducible exact Nat.le_refl _
    | (intro _ h; with_reducible exact h) | (intro _; with_reducible rfl) | (intro _; with_reducible exact Nat.le_refl _)

theorem tieScan_keeps {s0 : State} (s : State) (tie : Bool) (area : Nat) (slot : Nat) (hk : Stays s0 s) :
    Stays s0 (tieScan s tie area slot) := by
  unfold tieScan
  try dsimp only
  repeat' first
    | with_reducible exact hk | with_reducible exact Stays.refl _ | with_reducible assumption | with_reducible apply hwOr_keeps
    | with_reducible apply tieFound_keeps | with_reducible exact fun x => x | split | intro _ _ _
    | with_reducible exact GlbStays.refl _ | with_reducible rfl | with_reducible exact Nat.le_refl _
    | (intro _ h; with_reducible exact h) | (intro _; with_reducible rfl) | (intro _; with_reducible exact Nat.le_refl _)

theorem pstScan_keeps {s0 : State} (s : State) (hk : Stays s0 s) :
    Stays s0 (pstScan s) := by
  unfold pstScan
  try dsimp only
  repeat' first
    | with_reducible exact hk | with_reducible exact Stays.refl _ | with_reducible assumption | (intro p; unfold takeBook; rfl)
    | with_reducible apply evt_keeps | with_reducible apply hwFldPut_keeps | with_reducible apply intentScan_keeps
    | with_reducible apply modPst_keeps | with_reducible apply raise_keeps | with_reducible apply tieScan_keeps
    | with_reducible apply stays_foldl | with_reducible apply stays_foldl_fst | with_reducible apply stays_foldl_snd
    | (intro h; with_reducible first | exact fwf_filter h | exact fwf_fmapv h)
    | (intro _ h; with_reducible first | exact fwf_filter h | exact fwf_fmapv h) | with_reducible exact fun x => x | split
    | intro _ _ _ | with_reducible refine stays_mk ?_ ?_ ?_ ?_ ?_ ?_ ?_ ?_ ?_  | with_reducible exact GlbStays.refl _
    | with_reducible rfl | with_reducible exact Nat.le_refl _ | (intro _ h; with_reducible exact h)
    | (intro _; with_reducible rfl) | (intro _; with_reducible exact Nat.le_refl _)

end Sys2Proof.Machine
end

