-- ==== Sys2Proof/Laws/KeepsD.lean ====
section
/-! SUPPORT. What every command keeps, operation by operation: EvtOps, PairOps, SysOps, View, MbxRun, ArbOps, Kerf, ReadPath. -/

namespace Sys2Proof.Machine

theorem modEvr_keeps {s0 : State} (s : State) (f : Evr → Evr) (hk : Stays s0 s) :
    Stays s0 (modEvr s f) := by
  unfold modEvr
  try dsimp only
  repeat' first
    | with_reducible exact hk | with_reducible exact fun x => x | with_reducible refine stays_mk ?_ ?_ ?_ ?_ ?_ ?_ ?_ ?_ ?_
    | with_reducible exact GlbStays.refl _ | with_reducible rfl

theorem opEvtFreeze_keeps {s0 : State} (s : State) (req : List Byte) (hk : Stays s0 s) :
    Stays s0 (opEvtFreeze s req).2 := by
  unfold opEvtFreeze
  try dsimp only
  repeat' first
    | with_reducible exact hk | with_reducible apply badLen_keeps | with_reducible apply doneWith_keeps
    | with_reducible apply modEvr_keeps | split

theorem endFreeze_keeps {s0 : State} (s : State) (auto : Bool) (hk : Stays s0 s) :
    Stays s0 (endFreeze s auto) := by
  unfold endFreeze
  try dsimp only
  repeat' first
    | with_reducible exact hk | with_reducible apply evt_keeps | with_reducible apply evtFull_keeps
    | with_reducible apply modEvr_keeps | with_reducible apply raise_keeps | split

theorem opEvtThaw_keeps {s0 : State} (s : State) (req : List Byte) (hk : Stays s0 s) :
    Stays s0 (opEvtThaw s req).2 := by
  unfold opEvtThaw
  try dsimp only
  repeat' first
    | with_reducible exact hk | with_reducible apply badLen_keeps | with_reducible apply doneWith_keeps
    | with_reducible apply endFreeze_keeps | split

theorem opEvtRead_keeps {s0 : State} (s : State) (req : List Byte) (hk : Stays s0 s) :
    Stays s0 (opEvtRead s req).2 := by
  unfold opEvtRead
  try dsimp only
  repeat' first
    | with_reducible exact hk | with_reducible exact Stays.refl _ | with_reducible assumption
    | with_reducible apply badField_keeps | with_reducible apply badLen_keeps | with_reducible apply doneWith_keeps
    | with_reducible apply loadItems_keeps | with_reducible apply refusedFor_keeps
    | with_reducible refine stays_snd (by assumption) ?_ | with_reducible exact fun x => x | split | intro _ _ _
    | with_reducible exact GlbStays.refl _ | with_reducible rfl | with_reducible exact Nat.le_refl _
    | (intro _ h; with_reducible exact h) | (intro _; with_reducible rfl) | (intro _; with_reducible exact Nat.le_refl _)

theorem clearDenied_keeps {s0 : State} (s : State) (reason : Nat) (hk : Stays s0 s) :
    Stays s0 (clearDenied s reason).2 := by
  unfold clearDenied
  try dsimp only
  repeat' first
    | with_reducible exact hk | with_reducible apply evt_keeps | with_reducible apply raise_keeps

theorem clearRing_keeps {s0 : State} (s : State) (hk : Stays s0 s) :
    Stays s0 (clearRing s) := by
  unfold clearRing
  try dsimp only
  repeat' first
    | with_reducible exact hk | with_reducible apply evt_keeps | with_reducible apply modEvr_keeps
    | with_reducible apply raise_keeps

theorem opEvtClear_keeps {s0 : State} (s : State) (req : List Byte) (hk : Stays s0 s) :
    Stays s0 (opEvtClear s req).2 := by
  unfold opEvtClear
  try dsimp only
  repeat' first
    | with_reducible exact hk | with_reducible apply badField_keeps | with_reducible apply badLen_keeps
    | with_reducible apply clearDenied_keeps | with_reducible apply clearRing_keeps | with_reducible apply doneWith_keeps
    | with_reducible apply pwFailure_keeps | with_reducible apply refusedFor_keeps | split

theorem opEvtLimitSet_keeps {s0 : State} (s : State) (req : List Byte) (hk : Stays s0 s) :
    Stays s0 (opEvtLimitSet s req).2 := by
  unfold opEvtLimitSet
  try dsimp only
  repeat' first
    | with_reducible exact hk | exact recClose_wf _ _ _ _ _ (_, _) | with_reducible apply badField_keeps
    | with_reducible apply badLen_keeps | with_reducible apply doneWith_keeps | with_reducible apply modEvr_keeps
    | with_reducible apply refusedFor_keeps | with_reducible exact fun x => x | split
    | with_reducible refine stays_mk ?_ ?_ ?_ ?_ ?_ ?_ ?_ ?_ ?_  | with_reducible exact GlbStays.refl _ | with_reducible rfl

theorem opEvtLimitGet_keeps {s0 : State} (s : State) (req : List Byte) (hk : Stays s0 s) :
    Stays s0 (opEvtLimitGet s req).2 := by
  unfold opEvtLimitGet
  try dsimp only
  repeat' first
    | with_reducible exact hk | with_reducible apply badField_keeps | with_reducible apply badLen_keeps
    | with_reducible apply doneWith_keeps | with_reducible apply freeNext_keeps | with_reducible apply refusedFor_keeps | split

theorem saveDump_keeps {s0 : State} (s : State) (d : Dump) (hk : Stays s0 s) :
    Stays s0 (saveDump s d) := by
  unfold saveDump
  try dsimp only
  repeat' first
    | with_reducible exact hk | with_reducible exact Stays.refl _ | with_reducible assumption
    | with_reducible apply saveBytes_keeps | with_reducible apply stays_foldl | with_reducible exact fun x => x | split
    | intro _ _ _ | with_reducible exact GlbStays.refl _ | with_reducible rfl | with_reducible exact Nat.le_refl _
    | (intro _ h; with_reducible exact h) | (intro _; with_reducible rfl) | (intro _; with_reducible exact Nat.le_refl _)

theorem loadDump_keeps {s0 : State} (s : State) (d : Dump) (off : Nat) (n : Nat) (hk : Stays s0 s) :
    Stays s0 (loadDump s d off n) := by
  unfold loadDump
  try dsimp only
  repeat' first
    | with_reducible exact hk | with_reducible exact Stays.refl _ | with_reducible assumption
    | with_reducible apply loadItems_keeps | with_reducible exact fun x => x | split | intro _ _ _
    | with_reducible exact GlbStays.refl _ | with_reducible rfl | with_reducible exact Nat.le_refl _
    | (intro _ h; with_reducible exact h) | (intro _; with_reducible rfl) | (intro _; with_reducible exact Nat.le_refl _)

theorem opDumpInfo_keeps {s0 : State} (s : State) (req : List Byte) (hk : Stays s0 s) :
    Stays s0 (opDumpInfo s req).2 := by
  unfold opDumpInfo
  try dsimp only
  repeat' first
    | with_reducible exact hk | with_reducible apply badLen_keeps | with_reducible apply doneWith_keeps | split

theorem opDumpRead_keeps {s0 : State} (s : State) (req : List Byte) (hk : Stays s0 s) :
    Stays s0 (opDumpRead s req).2 := by
  unfold opDumpRead
  try dsimp only
  repeat' first
    | with_reducible exact hk | with_reducible exact Stays.refl _ | with_reducible assumption
    | with_reducible apply badField_keeps | with_reducible apply badLen_keeps | with_reducible apply doneWith_keeps
    | with_reducible apply loadDump_keeps | with_reducible apply refusedFor_keeps
    | with_reducible refine stays_snd (by assumption) ?_ | with_reducible exact fun x => x | split | intro _ _ _
    | with_reducible exact GlbStays.refl _ | with_reducible rfl | with_reducible exact Nat.le_refl _
    | (intro _ h; with_reducible exact h) | (intro _; with_reducible rfl) | (intro _; with_reducible exact Nat.le_refl _)

theorem opDumpRelease_keeps {s0 : State} (s : State) (req : List Byte) (hk : Stays s0 s) :
    Stays s0 (opDumpRelease s req).2 := by
  unfold opDumpRelease
  try dsimp only
  repeat' first
    | with_reducible exact hk | with_reducible exact Stays.refl _ | with_reducible assumption
    | with_reducible apply badLen_keeps | with_reducible apply doneWith_keeps | with_reducible apply refusedFor_keeps
    | with_reducible apply saveInner_keeps | with_reducible refine stays_snd (by assumption) ?_
    | with_reducible exact fun x => x | split | intro _ _ _ | with_reducible refine stays_mk ?_ ?_ ?_ ?_ ?_ ?_ ?_ ?_ ?_
    | with_reducible exact GlbStays.refl _ | with_reducible rfl | with_reducible exact Nat.le_refl _
    | (intro _ h; with_reducible exact h) | (intro _; with_reducible rfl) | (intro _; with_reducible exact Nat.le_refl _)

theorem lossRule_keeps {s0 : State} (s : State) (hk : Stays s0 s) :
    Stays s0 (lossRule s) := by
  unfold lossRule
  try dsimp only
  repeat' first
    | with_reducible exact hk | with_reducible apply evt_keeps | with_reducible apply raise_keeps
    | with_reducible exact fun x => x | split | with_reducible refine stays_mk ?_ ?_ ?_ ?_ ?_ ?_ ?_ ?_ ?_
    | with_reducible exact GlbStays.refl _ | with_reducible rfl

theorem reachSync_keeps {s0 : State} (s : State) (n : MPort) (hk : Stays s0 s) :
    Stays s0 (reachSync s n) := by
  unfold reachSync
  try dsimp only
  repeat' first
    | with_reducible exact hk | with_reducible apply evt_keeps | with_reducible apply modMir_keeps
    | with_reducible apply raise_keeps | split

theorem startCatchup_keeps {s0 : State} (s : State) (n : MPort) (hk : Stays s0 s) :
    Stays s0 (startCatchup s n) := by
  unfold startCatchup
  try dsimp only
  repeat' first
    | with_reducible exact hk | with_reducible apply modMir_keeps | with_reducible apply reachSync_keeps

theorem moveOver_keeps {s0 : State} (s : State) (n : MPort) (hk : Stays s0 s) :
    Stays s0 (moveOver s n) := by
  unfold moveOver
  try dsimp only
  repeat' first
    | with_reducible exact hk | with_reducible exact Stays.refl _ | with_reducible assumption
    | with_reducible apply mirPut_keeps | with_reducible apply modMir_keeps | with_reducible apply modMirRegion_keeps
    | with_reducible apply stays_foldl | with_reducible exact fun x => x | split | intro _ _ _
    | with_reducible refine stays_mk ?_ ?_ ?_ ?_ ?_ ?_ ?_ ?_ ?_  | with_reducible exact GlbStays.refl _ | with_reducible rfl
    | with_reducible exact Nat.le_refl _ | (intro _ h; with_reducible exact h) | (intro _; with_reducible rfl)
    | (intro _; with_reducible exact Nat.le_refl _)

theorem endSession_keeps {s0 : State} (s : State) (n : MPort) (hk : Stays s0 s) :
    Stays s0 (endSession s n) := by
  unfold endSession
  try dsimp only
  repeat' first
    | with_reducible exact hk | with_reducible apply modMir_keeps | with_reducible apply moveOver_keeps | split

theorem mirLinkLost_keeps {s0 : State} (s : State) (n : MPort) (hk : Stays s0 s) :
    Stays s0 (mirLinkLost s n) := by
  unfold mirLinkLost
  try dsimp only
  repeat' first
    | with_reducible exact hk | with_reducible apply endSession_keeps | with_reducible apply modMir_keeps
    | with_reducible apply raise_keeps | split

theorem clearPort_keeps {s0 : State} (s : State) (n : MPort) (hk : Stays s0 s) :
    Stays s0 (clearPort s n) := by
  unfold clearPort
  try dsimp only
  repeat' first
    | with_reducible exact hk | with_reducible apply modMir_keeps

theorem dropMate_keeps {s0 : State} (s : State) (hk : Stays s0 s) :
    Stays s0 (dropMate s) := by
  unfold dropMate
  try dsimp only
  repeat' first
    | with_reducible exact hk | with_reducible exact Stays.refl _ | with_reducible assumption
    | with_reducible apply dropReqs_keeps | with_reducible exact fun x => x | split | intro _ _ _
    | with_reducible refine stays_mk ?_ ?_ ?_ ?_ ?_ ?_ ?_ ?_ ?_  | with_reducible exact GlbStays.refl _ | with_reducible rfl
    | with_reducible exact Nat.le_refl _ | (intro _ h; with_reducible exact h) | (intro _; with_reducible rfl)
    | (intro _; with_reducible exact Nat.le_refl _)

theorem forgetPeer_keeps {s0 : State} (s : State) (hk : Stays s0 s) :
    Stays s0 (forgetPeer s) := by
  unfold forgetPeer
  try dsimp only
  repeat' first
    | with_reducible exact hk | with_reducible exact Stays.refl _ | with_reducible assumption
    | with_reducible apply clearPort_keeps | with_reducible apply dropMate_keeps | with_reducible exact fun x => x | split
    | intro _ _ _ | with_reducible refine stays_mk ?_ ?_ ?_ ?_ ?_ ?_ ?_ ?_ ?_  | with_reducible exact GlbStays.refl _
    | with_reducible rfl | with_reducible exact Nat.le_refl _ | (intro _ h; with_reducible exact h)
    | (intro _; with_reducible rfl) | (intro _; with_reducible exact Nat.le_refl _)

theorem opMirPair_keeps {s0 : State} (s : State) (req : List Byte) (hk : Stays s0 s) :
    Stays s0 (opMirPair s req).2 := by
  unfold opMirPair
  try dsimp only
  repeat' first
    | with_reducible exact hk | with_reducible apply badField_keeps | with_reducible apply badLen_keeps
    | with_reducible apply doneWith_keeps | with_reducible apply forgetPeer_keeps | with_reducible apply refusedFor_keeps
    | with_reducible exact fun x => x | split | with_reducible refine stays_mk ?_ ?_ ?_ ?_ ?_ ?_ ?_ ?_ ?_
    | with_reducible exact GlbStays.refl _ | with_reducible rfl

theorem opMirUnpair_keeps {s0 : State} (s : State) (req : List Byte) (hk : Stays s0 s) :
    Stays s0 (opMirUnpair s req).2 := by
  unfold opMirUnpair
  try dsimp only
  repeat' first
    | with_reducible exact hk | with_reducible apply badLen_keeps | with_reducible apply doneWith_keeps
    | with_reducible apply forgetPeer_keeps | with_reducible apply refusedFor_keeps | with_reducible exact fun x => x | split
    | with_reducible refine stays_mk ?_ ?_ ?_ ?_ ?_ ?_ ?_ ?_ ?_  | with_reducible exact GlbStays.refl _ | with_reducible rfl

theorem opMirPromote_keeps {s0 : State} (s : State) (req : List Byte) (hk : Stays s0 s) :
    Stays s0 (opMirPromote s req).2 := by
  unfold opMirPromote
  try dsimp only
  repeat' first
    | with_reducible exact hk | with_reducible exact Stays.refl _ | with_reducible assumption
    | with_reducible apply badLen_keeps | with_reducible apply clearPort_keeps | with_reducible apply doneWith_keeps
    | with_reducible apply dropMate_keeps | with_reducible apply refusedFor_keeps
    | with_reducible refine stays_snd (by assumption) ?_ | with_reducible exact fun x => x | split | intro _ _ _
    | with_reducible refine stays_mk ?_ ?_ ?_ ?_ ?_ ?_ ?_ ?_ ?_  | with_reducible exact GlbStays.refl _ | with_reducible rfl
    | with_reducible exact Nat.le_refl _ | (intro _ h; with_reducible exact h) | (intro _; with_reducible rfl)
    | (intro _; with_reducible exact Nat.le_refl _)

theorem sakLoaded_keeps {s0 : State} (s : State) (n : MPort) (an : Nat) (ssci : BitVec 32) (salt : BitVec 96) (r : Option (BitVec 256)) (hk : Stays s0 s) :
    Stays s0 (sakLoaded s n an ssci salt r).2 := by
  unfold sakLoaded
  try dsimp only
  repeat' first
    | with_reducible exact hk | with_reducible apply doneWith_keeps | with_reducible apply modMir_keeps
    | with_reducible apply refusedFor_keeps | with_reducible apply unwrapFail_keeps | split

theorem opMirSak_keeps {s0 : State} (s : State) (req : List Byte) (hk : Stays s0 s) :
    Stays s0 (opMirSak s req).2 := by
  unfold opMirSak
  try dsimp only
  repeat' first
    | with_reducible exact hk | with_reducible apply badField_keeps | with_reducible apply badLen_keeps
    | with_reducible apply refusedFor_keeps | with_reducible apply sakLoaded_keeps | split

theorem opMirSakClear_keeps {s0 : State} (s : State) (req : List Byte) (hk : Stays s0 s) :
    Stays s0 (opMirSakClear s req).2 := by
  unfold opMirSakClear
  try dsimp only
  repeat' first
    | with_reducible exact hk | with_reducible apply badField_keeps | with_reducible apply badLen_keeps
    | with_reducible apply doneWith_keeps | with_reducible apply modMir_keeps | with_reducible apply refusedFor_keeps | split

theorem opMirInfo_keeps {s0 : State} (s : State) (req : List Byte) (hk : Stays s0 s) :
    Stays s0 (opMirInfo s req).2 := by
  unfold opMirInfo
  try dsimp only
  repeat' first
    | with_reducible exact hk | with_reducible apply badField_keeps | with_reducible apply badLen_keeps
    | with_reducible apply doneWith_keeps | with_reducible apply freeNext_keeps | with_reducible apply refusedFor_keeps | split

theorem opMirReseed_keeps {s0 : State} (s : State) (req : List Byte) (hk : Stays s0 s) :
    Stays s0 (opMirReseed s req).2 := by
  unfold opMirReseed
  try dsimp only
  repeat' first
    | with_reducible exact hk | with_reducible apply askSeed_keeps | with_reducible apply badField_keeps
    | with_reducible apply badLen_keeps | with_reducible apply doneWith_keeps | with_reducible apply refusedFor_keeps | split

theorem modFwSlot_keeps {s0 : State} (s : State) (k : Fin 3) (f : FwSlot → FwSlot) (hk : Stays s0 s) :
    Stays s0 (modFwSlot s k f) := by
  unfold modFwSlot
  try dsimp only
  repeat' first
    | with_reducible exact hk | with_reducible apply modFw_keeps | (intro _; with_reducible rfl)

theorem opFwInfo_keeps {s0 : State} (s : State) (req : List Byte) (hk : Stays s0 s) :
    Stays s0 (opFwInfo s req).2 := by
  unfold opFwInfo
  try dsimp only
  repeat' first
    | with_reducible exact hk | with_reducible apply badLen_keeps | with_reducible apply doneWith_keeps | split

theorem opFwWrite_keeps {s0 : State} (s : State) (req : List Byte) (hk : Stays s0 s) :
    Stays s0 (opFwWrite s req).2 := by
  unfold opFwWrite
  try dsimp only
  repeat' first
    | with_reducible exact hk | with_reducible apply badField_keeps | with_reducible apply badLen_keeps
    | with_reducible apply doneWith_keeps | with_reducible apply modFwSlot_keeps | with_reducible apply refusedFor_keeps
    | split

theorem saveImage_keeps {s0 : State} (s : State) (k : Fin 3) (hk : Stays s0 s) :
    Stays s0 (saveImage s k) := by
  unfold saveImage
  try dsimp only
  repeat' first
    | with_reducible exact hk | with_reducible exact Stays.refl _ | with_reducible assumption
    | with_reducible apply saveInner_keeps | with_reducible apply stays_foldl | with_reducible exact fun x => x | split
    | intro _ _ _ | with_reducible exact GlbStays.refl _ | with_reducible rfl | with_reducible exact Nat.le_refl _
    | (intro _ h; with_reducible exact h) | (intro _; with_reducible rfl) | (intro _; with_reducible exact Nat.le_refl _)

theorem askResetNow_keeps {s0 : State} (s : State) (req : List Byte) (hk : Stays s0 s) :
    Stays s0 (askResetNow s req) := by
  unfold askResetNow
  try dsimp only
  repeat' first
    | with_reducible exact hk | with_reducible apply modFw_keeps | split | (intro _; with_reducible rfl)

theorem opFwActivate_keeps {s0 : State} (s : State) (req : List Byte) (hk : Stays s0 s) :
    Stays s0 (opFwActivate s req).2 := by
  unfold opFwActivate
  try dsimp only
  repeat' first
    | with_reducible exact hk | with_reducible exact Stays.refl _ | with_reducible assumption
    | with_reducible apply askResetNow_keeps | with_reducible apply badField_keeps | with_reducible apply badLen_keeps
    | with_reducible apply doneWith_keeps | with_reducible apply modFw_keeps | with_reducible apply modFwSlot_keeps
    | with_reducible apply refusedFor_keeps | with_reducible apply saveImage_keeps
    | with_reducible refine stays_snd (by assumption) ?_ | with_reducible exact fun x => x | split | intro _ _ _
    | with_reducible refine stays_mk ?_ ?_ ?_ ?_ ?_ ?_ ?_ ?_ ?_  | with_reducible exact GlbStays.refl _ | with_reducible rfl
    | with_reducible exact Nat.le_refl _ | (intro _ h; with_reducible exact h) | (intro _; with_reducible rfl)
    | (intro _; with_reducible exact Nat.le_refl _)

theorem opFwConfirm_keeps {s0 : State} (s : State) (req : List Byte) (hk : Stays s0 s) :
    Stays s0 (opFwConfirm s req).2 := by
  unfold opFwConfirm
  try dsimp only
  repeat' first
    | with_reducible exact hk | (intro w; dsimp only; split <;> omega) | with_reducible apply badLen_keeps
    | with_reducible apply doneWith_keeps | with_reducible apply evt_keeps | with_reducible apply modFw_keeps
    | with_reducible apply modFwSlot_keeps | with_reducible apply refusedFor_keeps | split

theorem opFwRollback_keeps {s0 : State} (s : State) (req : List Byte) (hk : Stays s0 s) :
    Stays s0 (opFwRollback s req).2 := by
  unfold opFwRollback
  try dsimp only
  repeat' first
    | with_reducible exact hk | with_reducible apply askResetNow_keeps | with_reducible apply badField_keeps
    | with_reducible apply badLen_keeps | with_reducible apply doneWith_keeps | with_reducible apply modFw_keeps
    | with_reducible apply refusedFor_keeps | split | (intro _; with_reducible rfl)

theorem opFwToSpi_keeps {s0 : State} (s : State) (m : Mbx) (req : List Byte) (ok : Bool) (hk : Stays s0 s) :
    Stays s0 (opFwToSpi s m req ok).2 := by
  unfold opFwToSpi
  try dsimp only
  repeat' first
    | with_reducible exact hk | with_reducible exact Stays.refl _ | with_reducible assumption
    | with_reducible apply badLen_keeps | with_reducible apply freeNext_keeps | with_reducible apply modFw_keeps
    | with_reducible apply modFwSlot_keeps | with_reducible apply refusedFor_keeps
    | with_reducible refine stays_snd (by assumption) ?_ | with_reducible exact fun x => x | split | intro _ _ _
    | with_reducible refine stays_mk ?_ ?_ ?_ ?_ ?_ ?_ ?_ ?_ ?_  | with_reducible exact GlbStays.refl _ | with_reducible rfl
    | with_reducible exact Nat.le_refl _ | (intro _ h; with_reducible exact h) | (intro _; with_reducible rfl)
    | (intro _; with_reducible exact Nat.le_refl _)

theorem spiNext_keeps {s0 : State} (s : State) (c : SpiCopy) (hk : Stays s0 s) :
    Stays s0 (spiNext s c) := by
  unfold spiNext
  try dsimp only
  repeat' first
    | with_reducible exact hk | with_reducible exact Stays.refl _ | with_reducible assumption
    | with_reducible apply freeNext_keeps | with_reducible apply mbxFinish_keeps | with_reducible apply modFw_keeps
    | with_reducible apply modFwSlot_keeps | with_reducible exact fun x => x | split | intro _ _ _
    | with_reducible refine stays_mk ?_ ?_ ?_ ?_ ?_ ?_ ?_ ?_ ?_  | with_reducible exact GlbStays.refl _ | with_reducible rfl
    | with_reducible exact Nat.le_refl _ | (intro _ h; with_reducible exact h) | (intro _; with_reducible rfl)
    | (intro _; with_reducible exact Nat.le_refl _)

theorem spiTick_keeps {s0 : State} (s : State) (hk : Stays s0 s) :
    Stays s0 (spiTick s) := by
  unfold spiTick
  try dsimp only
  repeat' first
    | with_reducible exact hk | with_reducible exact Stays.refl _ | with_reducible assumption
    | with_reducible apply modFw_keeps | with_reducible apply spiNext_keeps | with_reducible exact fun x => x | split
    | intro _ _ _ | with_reducible refine stays_mk ?_ ?_ ?_ ?_ ?_ ?_ ?_ ?_ ?_  | with_reducible exact GlbStays.refl _
    | with_reducible rfl | with_reducible exact Nat.le_refl _ | (intro _ h; with_reducible exact h)
    | (intro _; with_reducible rfl) | (intro _; with_reducible exact Nat.le_refl _)

theorem fwBoot_keeps {s0 : State} (s : State) (bad : List (Fin 3)) (hk : Stays s0 s) :
    Stays s0 (fwBoot s bad) := by
  unfold fwBoot
  try dsimp only
  repeat' first
    | with_reducible exact hk | with_reducible exact Stays.refl _ | with_reducible assumption | with_reducible apply evt_keeps
    | with_reducible apply loadItems_keeps | with_reducible apply modFw_keeps | with_reducible apply modFwSlot_keeps
    | with_reducible apply saveImage_keeps | with_reducible exact fun x => x | split | intro _ _ _
    | with_reducible refine stays_mk ?_ ?_ ?_ ?_ ?_ ?_ ?_ ?_ ?_  | with_reducible exact GlbStays.refl _ | with_reducible rfl
    | with_reducible exact Nat.le_refl _ | (intro _ h; with_reducible exact h) | (intro _; with_reducible rfl)
    | (intro _; with_reducible exact Nat.le_refl _)

theorem opPwrInfo_keeps {s0 : State} (s : State) (req : List Byte) (hk : Stays s0 s) :
    Stays s0 (opPwrInfo s req).2 := by
  unfold opPwrInfo
  try dsimp only
  repeat' first
    | with_reducible exact hk | with_reducible apply badLen_keeps | with_reducible apply doneWith_keeps | split

theorem opPwrLtrSet_keeps {s0 : State} (s : State) (req : List Byte) (hk : Stays s0 s) :
    Stays s0 (opPwrLtrSet s req).2 := by
  unfold opPwrLtrSet
  try dsimp only
  repeat' first
    | with_reducible exact hk | with_reducible apply badLen_keeps | with_reducible apply doneWith_keeps
    | with_reducible exact fun x => x | split | with_reducible refine stays_mk ?_ ?_ ?_ ?_ ?_ ?_ ?_ ?_ ?_
    | with_reducible exact GlbStays.refl _ | with_reducible rfl

theorem opThmSet_keeps {s0 : State} (s : State) (req : List Byte) (hk : Stays s0 s) :
    Stays s0 (opThmSet s req).2 := by
  unfold opThmSet
  try dsimp only
  repeat' first
    | with_reducible exact hk | with_reducible apply badField_keeps | with_reducible apply badLen_keeps
    | with_reducible apply doneWith_keeps | with_reducible apply refusedFor_keeps | with_reducible exact fun x => x | split
    | with_reducible refine stays_mk ?_ ?_ ?_ ?_ ?_ ?_ ?_ ?_ ?_  | with_reducible exact GlbStays.refl _ | with_reducible rfl

theorem opHsOppSet_keeps {s0 : State} (s : State) (m : Mbx) (req : List Byte) (hk : Stays s0 s) :
    Stays s0 (opHsOppSet s m req).2 := by
  unfold opHsOppSet
  try dsimp only
  repeat' first
    | with_reducible exact hk | with_reducible apply badField_keeps | with_reducible apply badLen_keeps
    | with_reducible apply doneWith_keeps | with_reducible apply refusedFor_keeps | with_reducible exact fun x => x | split
    | with_reducible refine stays_mk ?_ ?_ ?_ ?_ ?_ ?_ ?_ ?_ ?_  | with_reducible exact GlbStays.refl _ | with_reducible rfl

theorem captureRule_keeps {s0 : State} (s : State) (hk : Stays s0 s) :
    Stays s0 (captureRule s) := by
  unfold captureRule
  try dsimp only
  repeat' first
    | with_reducible exact hk | with_reducible exact fun x => x | split
    | with_reducible refine stays_mk ?_ ?_ ?_ ?_ ?_ ?_ ?_ ?_ ?_  | with_reducible exact GlbStays.refl _ | with_reducible rfl

theorem mbxPerform_keeps {s0 : State} (s : State) (m : Mbx) (flash : Bool) (hk : Stays s0 s) :
    Stays s0 (mbxPerform s m flash).2 := by
  unfold mbxPerform
  try dsimp only
  repeat' first
    | with_reducible exact hk | with_reducible exact Stays.refl _ | with_reducible assumption
    | with_reducible apply opCalGet_keeps | with_reducible apply opCalSet_keeps | with_reducible apply opCntClear_keeps
    | with_reducible apply opCntInfo_keeps | with_reducible apply opDevEcho_keeps | with_reducible apply opDevInfo_keeps
    | with_reducible apply opDevkeyInstall_keeps | with_reducible apply opDevkeyZeroise_keeps
    | with_reducible apply opDumpInfo_keeps | with_reducible apply opDumpRead_keeps | with_reducible apply opDumpRelease_keeps
    | with_reducible apply opEvtClear_keeps | with_reducible apply opEvtFreeze_keeps | with_reducible apply opEvtLimitGet_keeps
    | with_reducible apply opEvtLimitSet_keeps | with_reducible apply opEvtRead_keeps | with_reducible apply opEvtThaw_keeps
    | with_reducible apply opForceFail_keeps | with_reducible apply opFwActivate_keeps | with_reducible apply opFwConfirm_keeps
    | with_reducible apply opFwInfo_keeps | with_reducible apply opFwRollback_keeps | with_reducible apply opFwToSpi_keeps
    | with_reducible apply opFwWrite_keeps | with_reducible apply opHsOppSet_keeps | with_reducible apply opKeyBind_keeps
    | with_reducible apply opKeyChange_keeps | with_reducible apply opKeyInfo_keeps | with_reducible apply opKeyLoad_keeps
    | with_reducible apply opKeyRetire_keeps | with_reducible apply opKeyUnbind_keeps | with_reducible apply opMirInfo_keeps
    | with_reducible apply opMirPair_keeps | with_reducible apply opMirPromote_keeps | with_reducible apply opMirReseed_keeps
    | with_reducible apply opMirSak_keeps | with_reducible apply opMirSakClear_keeps | with_reducible apply opMirUnpair_keeps
    | with_reducible apply opPoolInfo_keeps | with_reducible apply opPoolSet_keeps | with_reducible apply opProfileGet_keeps
    | with_reducible apply opProfileSet_keeps | with_reducible apply opPstCtrInc_keeps
    | with_reducible apply opPstCtrRead_keeps | with_reducible apply opPstInfo_keeps | with_reducible apply opPstPassword_keeps
    | with_reducible apply opPstRead_keeps | with_reducible apply opPstWrite_keeps | with_reducible apply opPwrInfo_keeps
    | with_reducible apply opPwrLtrSet_keeps | with_reducible apply opQueueGet_keeps | with_reducible apply opQueueSet_keeps
    | with_reducible apply opRegionGet_keeps | with_reducible apply opRegionRecreate_keeps
    | with_reducible apply opRegionSet_keeps | with_reducible apply opTblAbort_keeps | with_reducible apply opTblCommit_keeps
    | with_reducible apply opTblCreate_keeps | with_reducible apply opTblDelete_keeps | with_reducible apply opTblInfo_keeps
    | with_reducible apply opTblQuery_keeps | with_reducible apply opTblUpdate_keeps | with_reducible apply opThmSet_keeps
    | with_reducible refine stays_snd (by assumption) ?_ | with_reducible exact fun x => x | split | intro _ _ _
    | with_reducible exact GlbStays.refl _ | with_reducible rfl | with_reducible exact Nat.le_refl _
    | (intro _ h; with_reducible exact h) | (intro _; with_reducible rfl) | (intro _; with_reducible exact Nat.le_refl _)

theorem mbxTry_keeps {s0 : State} (s : State) (m : Mbx) (flash : Bool) (hk : Stays s0 s) :
    Stays s0 (mbxTry s m flash) := by
  unfold mbxTry
  try dsimp only
  repeat' first
    | with_reducible exact hk | with_reducible apply mbxFinish_keeps | with_reducible apply mbxPerform_keeps
    | with_reducible apply mbxSettle_keeps | split

theorem mbxRetry_keeps {s0 : State} (s : State) (hk : Stays s0 s) :
    Stays s0 (mbxRetry s) := by
  unfold mbxRetry
  try dsimp only
  repeat' first
    | with_reducible exact hk | with_reducible assumption | with_reducible apply freeNext_keeps
    | with_reducible apply mbxTry_keeps | with_reducible apply stays_foldl | split | intro _ _ _

theorem tellRule_keeps {s0 : State} (s : State) (hk : Stays s0 s) :
    Stays s0 (tellRule s) := by
  unfold tellRule
  try dsimp only
  repeat' first
    | with_reducible exact hk | with_reducible exact Stays.refl _ | with_reducible assumption
    | with_reducible apply sendNote_keeps | with_reducible apply stays_foldl | with_reducible exact fun x => x | split
    | intro _ _ _ | with_reducible refine stays_mk ?_ ?_ ?_ ?_ ?_ ?_ ?_ ?_ ?_  | with_reducible exact GlbStays.refl _
    | with_reducible rfl | with_reducible exact Nat.le_refl _ | (intro _ h; with_reducible exact h)
    | (intro _; with_reducible rfl) | (intro _; with_reducible exact Nat.le_refl _)

theorem ringRule_keeps {s0 : State} (s : State) (hk : Stays s0 s) :
    Stays s0 (ringRule s) := by
  unfold ringRule
  try dsimp only
  repeat' first
    | with_reducible exact hk | with_reducible exact Stays.refl _ | with_reducible assumption
    | with_reducible apply modEvr_keeps | with_reducible apply saveBytes_keeps | with_reducible apply stays_foldl
    | with_reducible exact fun x => x | split | intro _ _ _ | with_reducible refine stays_mk ?_ ?_ ?_ ?_ ?_ ?_ ?_ ?_ ?_
    | with_reducible exact GlbStays.refl _ | with_reducible rfl | with_reducible exact Nat.le_refl _
    | (intro _ h; with_reducible exact h) | (intro _; with_reducible rfl) | (intro _; with_reducible exact Nat.le_refl _)

theorem seedRule_keeps {s0 : State} (s : State) (hk : Stays s0 s) :
    Stays s0 (seedRule s) := by
  unfold seedRule
  try dsimp only
  repeat' first
    | with_reducible exact hk | with_reducible exact Stays.refl _ | with_reducible assumption
    | with_reducible apply askSeeds_keeps | with_reducible exact fun x => x | split | intro _ _ _
    | with_reducible exact GlbStays.refl _ | with_reducible rfl | with_reducible exact Nat.le_refl _
    | (intro _ h; with_reducible exact h) | (intro _; with_reducible rfl) | (intro _; with_reducible exact Nat.le_refl _)

theorem recreateRule_keeps {s0 : State} (s : State) (hk : Stays s0 s) :
    Stays s0 (recreateRule s) := by
  unfold recreateRule
  try dsimp only
  repeat' first
    | with_reducible exact hk | with_reducible exact Stays.refl _ | with_reducible assumption
    | with_reducible apply endRecreate_keeps | with_reducible apply stays_foldl | with_reducible exact fun x => x | split
    | intro _ _ _ | with_reducible exact GlbStays.refl _ | with_reducible rfl | with_reducible exact Nat.le_refl _
    | (intro _ h; with_reducible exact h) | (intro _; with_reducible rfl) | (intro _; with_reducible exact Nat.le_refl _)

theorem nakRule_keeps {s0 : State} (s : State) (hk : Stays s0 s) :
    Stays s0 (nakRule s) := by
  unfold nakRule
  try dsimp only
  repeat' first
    | with_reducible exact hk | with_reducible exact Stays.refl _ | with_reducible assumption
    | with_reducible apply modMir_keeps | with_reducible apply sendNote_keeps | with_reducible apply stays_foldl
    | with_reducible exact fun x => x | split | intro _ _ _ | with_reducible refine stays_mk ?_ ?_ ?_ ?_ ?_ ?_ ?_ ?_ ?_
    | with_reducible exact GlbStays.refl _ | with_reducible rfl | with_reducible exact Nat.le_refl _
    | (intro _ h; with_reducible exact h) | (intro _; with_reducible rfl) | (intro _; with_reducible exact Nat.le_refl _)

theorem settle_keeps {s0 : State} (s : State) (hk : Stays s0 s) :
    Stays s0 (settle s) := by
  unfold settle
  try dsimp only
  repeat' first
    | with_reducible exact hk | with_reducible exact Stays.refl _ | with_reducible assumption
    | with_reducible apply applyRecords_keeps | with_reducible apply blockRules_keeps | with_reducible apply captureRule_keeps
    | with_reducible apply lossRule_keeps | with_reducible apply mbxRetry_keeps | with_reducible apply nakRule_keeps
    | with_reducible apply nextSeed_keeps | with_reducible apply poolLowRule_keeps | with_reducible apply queueBitRule_keeps
    | with_reducible apply recreateRule_keeps | with_reducible apply ringRule_keeps | with_reducible apply runErases_keeps
    | with_reducible apply saveRule_keeps | with_reducible apply seedRule_keeps | with_reducible apply settlePorts_keeps
    | with_reducible apply sweepRule_keeps | with_reducible apply tellRule_keeps | with_reducible exact fun x => x | split
    | intro _ _ _ | with_reducible exact GlbStays.refl _ | with_reducible rfl | with_reducible exact Nat.le_refl _
    | (intro _ h; with_reducible exact h) | (intro _; with_reducible rfl) | (intro _; with_reducible exact Nat.le_refl _)

theorem beginDrain_keeps {s0 : State} (s : State) (lsa : Nat) (hk : Stays s0 s) :
    Stays s0 (beginDrain s lsa) := by
  unfold beginDrain
  try dsimp only
  repeat' first
    | with_reducible exact hk | with_reducible apply modSlot_keeps

theorem runOp_keeps {s0 : State} (s : State) (q : MedReq) (hk : Stays s0 s) :
    Stays s0 (runOp s q) := by
  unfold runOp
  try dsimp only
  repeat' first
    | with_reducible exact hk | with_reducible exact Stays.refl _ | with_reducible assumption
    | with_reducible apply beginDrain_keeps | with_reducible apply delReq_keeps | with_reducible apply holdSector_keeps
    | with_reducible apply modReq_keeps | with_reducible apply slotCheck_keeps | with_reducible exact fun x => x | split
    | intro _ _ _ | with_reducible refine stays_mk ?_ ?_ ?_ ?_ ?_ ?_ ?_ ?_ ?_  | with_reducible exact GlbStays.refl _
    | with_reducible rfl | with_reducible exact Nat.le_refl _ | (intro _ h; with_reducible exact h)
    | (intro _; with_reducible rfl) | (intro _; with_reducible exact Nat.le_refl _)

theorem startOp_keeps {s0 : State} (s : State) (id : Nat) (hk : Stays s0 s) :
    Stays s0 (startOp s id) := by
  unfold startOp
  try dsimp only
  repeat' first
    | with_reducible exact hk | with_reducible apply modReq_keeps | with_reducible apply runOp_keeps | split

theorem grantRule_keeps {s0 : State} (s : State) (ch : Nat) (hk : Stays s0 s) :
    Stays s0 (grantRule s ch) := by
  unfold grantRule
  try dsimp only
  repeat' first
    | with_reducible exact hk | with_reducible exact Stays.refl _ | with_reducible assumption
    | with_reducible apply modChan_keeps | with_reducible apply noteDepth_keeps | with_reducible exact fun x => x | split
    | intro _ _ _ | with_reducible refine stays_mk ?_ ?_ ?_ ?_ ?_ ?_ ?_ ?_ ?_  | with_reducible exact GlbStays.refl _
    | with_reducible rfl | with_reducible exact Nat.le_refl _ | (intro _ h; with_reducible exact h)
    | (intro _; with_reducible rfl) | (intro _; with_reducible exact Nat.le_refl _)

theorem freeBank_keeps {s0 : State} (s : State) (ch : Nat) (b : Fin 32) (hk : Stays s0 s) :
    Stays s0 (freeBank s ch b) := by
  unfold freeBank
  try dsimp only
  repeat' first
    | with_reducible exact hk | with_reducible apply grantRule_keeps | with_reducible apply modReq_keeps
    | with_reducible apply runOp_keeps | split

theorem endReq_keeps {s0 : State} (s : State) (q : MedReq) (hk : Stays s0 s) :
    Stays s0 (endReq s q) := by
  unfold endReq
  try dsimp only
  repeat' first
    | with_reducible exact hk | with_reducible apply delReq_keeps | with_reducible apply freeBank_keeps

theorem wakeBanks_keeps {s0 : State} (s : State) (ch : Nat) (hk : Stays s0 s) :
    Stays s0 (wakeBanks s ch) := by
  unfold wakeBanks
  try dsimp only
  repeat' first
    | with_reducible exact hk | with_reducible assumption | with_reducible apply freeBank_keeps
    | with_reducible apply stays_foldl | split | intro _ _ _

theorem excessRule_keeps {s0 : State} (s : State) (q : MedReq) (out : Decoded) (hk : Stays s0 s) :
    Stays s0 (excessRule s q out) := by
  unfold excessRule
  try dsimp only
  repeat' first
    | with_reducible exact hk | with_reducible exact Stays.refl _ | with_reducible assumption | with_reducible apply evt_keeps
    | with_reducible apply hwSat_keeps | with_reducible apply hwSet_keeps | with_reducible apply raise_keeps
    | with_reducible exact fun x => x | split | intro _ _ _ | with_reducible exact GlbStays.refl _ | with_reducible rfl
    | with_reducible exact Nat.le_refl _ | (intro _ h; with_reducible exact h) | (intro _; with_reducible rfl)
    | (intro _; with_reducible exact Nat.le_refl _)

theorem applyRanks_keeps {s0 : State} (s : State) (ch : Nat) (hk : Stays s0 s) :
    Stays s0 (applyRanks s ch) := by
  unfold applyRanks
  try dsimp only
  repeat' first
    | with_reducible exact hk | with_reducible exact Stays.refl _ | with_reducible assumption
    | with_reducible apply hwSat_keeps | with_reducible apply modChan_keeps | with_reducible apply noteDepth_keeps
    | with_reducible apply raise_keeps | with_reducible exact fun x => x | split | intro _ _ _
    | with_reducible refine stays_mk ?_ ?_ ?_ ?_ ?_ ?_ ?_ ?_ ?_  | with_reducible exact GlbStays.refl _ | with_reducible rfl
    | with_reducible exact Nat.le_refl _ | (intro _ h; with_reducible exact h) | (intro _; with_reducible rfl)
    | (intro _; with_reducible exact Nat.le_refl _)

theorem grantedOps_keeps {s0 : State} (s : State) (ch : Nat) (c : Class) (limit : Nat) (hk : Stays s0 s) :
    Stays s0 (grantedOps s ch c limit).2 := by
  unfold grantedOps
  try dsimp only
  repeat' first
    | with_reducible exact hk | with_reducible exact Stays.refl _ | with_reducible assumption
    | with_reducible apply addReq_keeps | with_reducible apply stays_foldl | with_reducible apply stays_foldl_snd
    | with_reducible exact fun x => x | split | intro _ _ _ | with_reducible exact GlbStays.refl _ | with_reducible rfl
    | with_reducible exact Nat.le_refl _ | (intro _ h; with_reducible exact h) | (intro _; with_reducible rfl)
    | (intro _; with_reducible exact Nat.le_refl _)

theorem noteTurn_keeps {s0 : State} (s : State) (ch : Nat) (hk : Stays s0 s) :
    Stays s0 (noteTurn s ch) := by
  unfold noteTurn
  try dsimp only
  repeat' first
    | with_reducible exact hk | with_reducible exact Stays.refl _ | with_reducible assumption
    | with_reducible apply modMed_keeps | with_reducible exact fun x => x | split | intro _ _ _
    | with_reducible refine stays_mk ?_ ?_ ?_ ?_ ?_ ?_ ?_ ?_ ?_  | with_reducible exact GlbStays.refl _ | with_reducible rfl
    | with_reducible exact Nat.le_refl _ | (intro _ h; with_reducible exact h) | (intro _; with_reducible rfl)
    | (intro _; with_reducible exact Nat.le_refl _)

theorem grantStep_keeps {s0 : State} (s : State) (ch : Nat) (hk : Stays s0 s) :
    Stays s0 (grantStep s ch) := by
  unfold grantStep
  try dsimp only
  repeat' first
    | with_reducible exact hk | with_reducible exact Stays.refl _ | with_reducible assumption
    | with_reducible apply applyRanks_keeps | with_reducible apply grantRule_keeps | with_reducible apply grantedOps_keeps
    | with_reducible apply hwAdd_keeps | with_reducible apply modChan_keeps | with_reducible apply noteTurn_keeps
    | with_reducible apply pmcCount_keeps | with_reducible apply startOp_keeps | with_reducible apply stays_foldl
    | with_reducible apply stays_foldl_fst | with_reducible apply stays_foldl_snd
    | with_reducible refine stays_snd (by assumption) ?_ | with_reducible exact fun x => x | split | intro _ _ _
    | with_reducible refine stays_mk ?_ ?_ ?_ ?_ ?_ ?_ ?_ ?_ ?_  | with_reducible exact GlbStays.refl _ | with_reducible rfl
    | with_reducible exact Nat.le_refl _ | (intro _ h; with_reducible exact h) | (intro _; with_reducible rfl)
    | (intro _; with_reducible exact Nat.le_refl _)

theorem extendGrant_keeps {s0 : State} (s : State) (ch : Nat) (hk : Stays s0 s) :
    Stays s0 (extendGrant s ch) := by
  unfold extendGrant
  try dsimp only
  repeat' first
    | with_reducible exact hk | with_reducible exact Stays.refl _ | with_reducible assumption
    | with_reducible apply grantRule_keeps | with_reducible apply grantedOps_keeps | with_reducible apply modChan_keeps
    | with_reducible apply startOp_keeps | with_reducible apply stays_foldl | with_reducible apply stays_foldl_fst
    | with_reducible apply stays_foldl_snd | with_reducible refine stays_snd (by assumption) ?_
    | with_reducible exact fun x => x | split | intro _ _ _ | with_reducible refine stays_mk ?_ ?_ ?_ ?_ ?_ ?_ ?_ ?_ ?_
    | with_reducible exact GlbStays.refl _ | with_reducible rfl | with_reducible exact Nat.le_refl _
    | (intro _ h; with_reducible exact h) | (intro _; with_reducible rfl) | (intro _; with_reducible exact Nat.le_refl _)

theorem saveBitmap_keeps {s0 : State} (s : State) (hk : Stays s0 s) :
    Stays s0 (saveBitmap s) := by
  unfold saveBitmap
  try dsimp only
  repeat' first
    | with_reducible exact hk | with_reducible exact Stays.refl _ | with_reducible assumption
    | with_reducible apply writeInner_keeps | with_reducible exact fun x => x | split | intro _ _ _
    | with_reducible refine stays_mk ?_ ?_ ?_ ?_ ?_ ?_ ?_ ?_ ?_  | with_reducible exact GlbStays.refl _ | with_reducible rfl
    | with_reducible exact Nat.le_refl _ | (intro _ h; with_reducible exact h) | (intro _; with_reducible rfl)
    | (intro _; with_reducible exact Nat.le_refl _)

theorem execDirtyBitmapProgramDone_keeps (s : State) : StaysOut s (execDirtyBitmapProgramDone s) := by
  unfold execDirtyBitmapProgramDone
  try dsimp only
  repeat' first
    | with_reducible exact Stays.refl _ | with_reducible assumption | with_reducible apply done_keeps
    | with_reducible apply saveBitmap_keeps | with_reducible apply settle_keeps | with_reducible apply stays_done
    | with_reducible exact fun x => x | split | intro _ _ _ | with_reducible refine stays_mk ?_ ?_ ?_ ?_ ?_ ?_ ?_ ?_ ?_
    | with_reducible exact GlbStays.refl _ | with_reducible rfl | with_reducible exact Nat.le_refl _
    | (intro _ h; with_reducible exact h) | (intro _; with_reducible rfl) | (intro _; with_reducible exact Nat.le_refl _)

theorem execDirtyBitmapClear_keeps (regions : List (BitVec 9)) (s : State) : StaysOut s (execDirtyBitmapClear regions s) := by
  unfold execDirtyBitmapClear
  try dsimp only
  repeat' first
    | with_reducible exact Stays.refl _ | with_reducible assumption | with_reducible apply done_keeps
    | with_reducible apply saveBitmap_keeps | with_reducible apply stays_done | with_reducible exact fun x => x | split
    | intro _ _ _ | with_reducible refine stays_mk ?_ ?_ ?_ ?_ ?_ ?_ ?_ ?_ ?_  | with_reducible exact GlbStays.refl _
    | with_reducible rfl | with_reducible exact Nat.le_refl _ | (intro _ h; with_reducible exact h)
    | (intro _; with_reducible rfl) | (intro _; with_reducible exact Nat.le_refl _)

theorem countMergeFail_keeps {s0 : State} (s : State) (x : HostCmd) (lsa : Nat) (uncorr : Bool) (hk : Stays s0 s) :
    Stays s0 (countMergeFail s x lsa uncorr) := by
  unfold countMergeFail
  try dsimp only
  repeat' first
    | with_reducible exact hk | with_reducible apply evt_keeps | with_reducible apply hwSat_keeps
    | with_reducible apply hwSet_keeps | with_reducible apply raise_keeps

theorem mergeFails_keeps {s0 : State} (s : State) (lsa : Nat) (slot : Slot) (uncorr : Bool) (hk : Stays s0 s) :
    Stays s0 (mergeFails s lsa slot uncorr) := by
  unfold mergeFails
  try dsimp only
  repeat' first
    | with_reducible exact hk | with_reducible exact Stays.refl _ | with_reducible assumption
    | with_reducible apply askIntent_keeps | with_reducible apply countMergeFail_keeps | with_reducible apply formRecord_keeps
    | with_reducible apply markMedium_keeps | with_reducible apply modMed_keeps | with_reducible apply poisonSlot_keeps
    | with_reducible apply refuseWrite_keeps | with_reducible apply runQueue_keeps | with_reducible apply takeStamp_keeps
    | with_reducible exact fun x => x | split | intro _ _ _ | with_reducible refine stays_mk ?_ ?_ ?_ ?_ ?_ ?_ ?_ ?_ ?_
    | with_reducible exact GlbStays.refl _ | with_reducible rfl | with_reducible exact Nat.le_refl _
    | (intro _ h; with_reducible exact h) | (intro _; with_reducible rfl) | (intro _; with_reducible exact Nat.le_refl _)

theorem mergeOpened_keeps {s0 : State} (s : State) (lsa : Nat) (slot : Slot) (r : Opened) (hk : Stays s0 s) :
    Stays s0 (mergeOpened s lsa slot r) := by
  unfold mergeOpened
  try dsimp only
  repeat' first
    | with_reducible exact hk | with_reducible exact Stays.refl _ | with_reducible assumption
    | with_reducible apply mergeFails_keeps | with_reducible apply putSlot_keeps | with_reducible apply runQueue_keeps
    | with_reducible apply takeStamp_keeps | with_reducible exact fun x => x | split | intro _ _ _
    | with_reducible refine stays_mk ?_ ?_ ?_ ?_ ?_ ?_ ?_ ?_ ?_  | with_reducible exact GlbStays.refl _ | with_reducible rfl
    | with_reducible exact Nat.le_refl _ | (intro _ h; with_reducible exact h) | (intro _; with_reducible rfl)
    | (intro _; with_reducible exact Nat.le_refl _)

theorem mergeReturns_keeps {s0 : State} (s : State) (lsa : Nat) (slot : Slot) (out : Decoded) (hk : Stays s0 s) :
    Stays s0 (mergeReturns s lsa slot out) := by
  unfold mergeReturns
  try dsimp only
  repeat' first
    | with_reducible exact hk | with_reducible exact Stays.refl _ | with_reducible assumption
    | with_reducible apply markerCare_keeps | with_reducible apply mergeOpened_keeps | with_reducible apply noteDecode_keeps
    | with_reducible apply openCount_keeps | with_reducible refine stays_snd (by assumption) ?_
    | with_reducible exact fun x => x | split | intro _ _ _ | with_reducible exact GlbStays.refl _ | with_reducible rfl
    | with_reducible exact Nat.le_refl _ | (intro _ h; with_reducible exact h) | (intro _; with_reducible rfl)
    | (intro _; with_reducible exact Nat.le_refl _)

theorem execMergeFetchReturn_keeps (lsa : BitVec 32) (out : ReadOutcome) (s : State) : StaysOut s (execMergeFetchReturn lsa out s) := by
  unfold execMergeFetchReturn
  try dsimp only
  repeat' first
    | with_reducible exact Stays.refl _ | with_reducible assumption | with_reducible apply done_keeps
    | with_reducible apply endReq_keeps | with_reducible apply excessRule_keeps | with_reducible apply mergeReturns_keeps
    | with_reducible apply settle_keeps | with_reducible apply stays_done | with_reducible exact fun x => x | split
    | intro _ _ _ | with_reducible exact GlbStays.refl _ | with_reducible rfl | with_reducible exact Nat.le_refl _
    | (intro _ h; with_reducible exact h) | (intro _; with_reducible rfl) | (intro _; with_reducible exact Nat.le_refl _)

theorem execDrainAgeTimer_keeps (lsa : BitVec 32) (s : State) : StaysOut s (execDrainAgeTimer lsa s) := by
  unfold execDrainAgeTimer
  try dsimp only
  repeat' first
    | with_reducible exact Stays.refl _ | with_reducible apply putSlot_keeps | with_reducible apply stays_done | split

theorem execKrfFlush_keeps (s : State) : StaysOut s (execKrfFlush s) := by
  unfold execKrfFlush
  try dsimp only
  repeat' first
    | with_reducible exact Stays.refl _ | with_reducible assumption | with_reducible apply done_keeps
    | with_reducible apply setCfg_keeps | with_reducible apply settle_keeps | with_reducible apply touch_keeps
    | with_reducible apply stays_done | with_reducible exact fun x => x | split | intro _ _ _
    | with_reducible exact GlbStays.refl _ | with_reducible rfl | with_reducible exact Nat.le_refl _
    | (intro _ h; with_reducible exact h) | (intro _; with_reducible rfl) | (intro _; with_reducible exact Nat.le_refl _)

theorem writeLimit_keeps {s0 : State} (s : State) (n : Nat) (hk : Stays s0 s) :
    Stays s0 (writeLimit s n) := by
  unfold writeLimit
  try dsimp only
  repeat' first
    | with_reducible exact hk | with_reducible apply evt_keeps | with_reducible apply raise_keeps
    | with_reducible apply setCfg_keeps | split

theorem execKrfDirtyLimitWrite_keeps (limit : BitVec 11) (s : State) : StaysOut s (execKrfDirtyLimitWrite limit s) := by
  unfold execKrfDirtyLimitWrite
  try dsimp only
  repeat' first
    | with_reducible exact Stays.refl _ | with_reducible assumption | with_reducible apply done_keeps
    | with_reducible apply settle_keeps | with_reducible apply touch_keeps | with_reducible apply writeLimit_keeps
    | with_reducible apply stays_done | with_reducible exact fun x => x | split | intro _ _ _
    | with_reducible exact GlbStays.refl _ | with_reducible rfl | with_reducible exact Nat.le_refl _
    | (intro _ h; with_reducible exact h) | (intro _; with_reducible rfl) | (intro _; with_reducible exact Nat.le_refl _)

theorem execArbiterGrant_keeps (ch : Chan) (s : State) : StaysOut s (execArbiterGrant ch s) := by
  unfold execArbiterGrant
  try dsimp only
  repeat' first
    | with_reducible exact Stays.refl _ | with_reducible assumption | with_reducible apply done_keeps
    | with_reducible apply extendGrant_keeps | with_reducible apply grantRule_keeps | with_reducible apply grantStep_keeps
    | with_reducible apply settle_keeps | with_reducible apply wakeBanks_keeps | with_reducible apply stays_done
    | with_reducible exact fun x => x | split | intro _ _ _ | with_reducible exact GlbStays.refl _ | with_reducible rfl
    | with_reducible exact Nat.le_refl _ | (intro _ h; with_reducible exact h) | (intro _; with_reducible rfl)
    | (intro _; with_reducible exact Nat.le_refl _)

theorem giveWay_keeps {s0 : State} (s : State) (h : MedReq) (hk : Stays s0 s) :
    Stays s0 (giveWay s h) := by
  unfold giveWay
  try dsimp only
  repeat' first
    | with_reducible exact hk | with_reducible apply hwAdd_keeps | with_reducible apply modReq_keeps
    | with_reducible apply pmcCount_keeps | split

theorem execCutIn_keeps (ch : Chan) (s : State) : StaysOut s (execCutIn ch s) := by
  unfold execCutIn
  try dsimp only
  repeat' first
    | with_reducible exact Stays.refl _ | with_reducible assumption | with_reducible apply addReq_keeps
    | with_reducible apply done_keeps | with_reducible apply giveWay_keeps | with_reducible apply grantRule_keeps
    | with_reducible apply hwAdd_keeps | with_reducible apply pmcCount_keeps | with_reducible apply runOp_keeps
    | with_reducible apply settle_keeps | with_reducible apply stays_done | with_reducible apply stays_foldl
    | with_reducible exact fun x => x | split | intro _ _ _ | with_reducible exact GlbStays.refl _ | with_reducible rfl
    | with_reducible exact Nat.le_refl _ | (intro _ h; with_reducible exact h) | (intro _; with_reducible rfl)
    | (intro _; with_reducible exact Nat.le_refl _)

theorem injected_keeps {s0 : State} (s : State) (q : MedReq) (r : Opened) (hk : Stays s0 s) :
    Stays s0 (injected s q r).2 := by
  unfold injected
  try dsimp only
  repeat' first
    | with_reducible exact hk | with_reducible apply setCfg_keeps | split

theorem raced_keeps {s0 : State} (s : State) (lsa : Nat) (d : Sector) (hk : Stays s0 s) :
    Stays s0 (raced s lsa d).2 := by
  unfold raced
  try dsimp only
  repeat' first
    | with_reducible exact hk | with_reducible apply freeNext_keeps | split

theorem fillRead_keeps {s0 : State} (s : State) (cls : Class) (lsa : Nat) (d : Sector) (hk : Stays s0 s) :
    Stays s0 (fillRead s cls lsa d) := by
  unfold fillRead
  try dsimp only
  repeat' first
    | with_reducible exact hk | with_reducible apply cacheFill_keeps | split

theorem readBad_keeps {s0 : State} (s : State) (lsa : Nat) (cause : Nat) (lost : Bool) (hk : Stays s0 s) :
    Stays s0 (readBad s lsa cause lost) := by
  unfold readBad
  try dsimp only
  repeat' first
    | with_reducible exact hk | with_reducible exact Stays.refl _ | with_reducible assumption
    | with_reducible apply foundBad_keeps | with_reducible apply markMedium_keeps | with_reducible apply retireCare_keeps
    | with_reducible exact fun x => x | split | intro _ _ _ | with_reducible exact GlbStays.refl _ | with_reducible rfl
    | with_reducible exact Nat.le_refl _ | (intro _ h; with_reducible exact h) | (intro _; with_reducible rfl)
    | (intro _; with_reducible exact Nat.le_refl _)

theorem deliver_keeps {s0 : State} (s : State) (x : HostCmd) (lsa : Nat) (d : Sector) (source : Nat) (ladder : Nat) (hk : Stays s0 s) :
    Stays s0 (deliver s x lsa d source ladder) := by
  unfold deliver
  try dsimp only
  repeat' first
    | with_reducible exact hk | with_reducible apply finishCrd_keeps | with_reducible apply finishDeq_keeps
    | with_reducible apply finishRead_keeps | with_reducible apply freeDead_keeps | with_reducible apply leafReturned_keeps
    | with_reducible apply raced_keeps | split

theorem deliverBad_keeps {s0 : State} (s : State) (x : HostCmd) (lsa : Nat) (st : Resp) (hk : Stays s0 s) :
    Stays s0 (deliverBad s x lsa st) := by
  unfold deliverBad
  try dsimp only
  repeat' first
    | with_reducible exact hk | with_reducible apply complete_keeps | with_reducible apply deqPoison_keeps
    | with_reducible apply freeDead_keeps | with_reducible apply leafReturned_keeps | split

theorem cmdRead_keeps {s0 : State} (s : State) (cls : Class) (lsa : Nat) (x : HostCmd) (r : Opened) (source : Nat) (ladder : Nat) (hk : Stays s0 s) :
    Stays s0 (cmdRead s cls lsa x r source ladder) := by
  unfold cmdRead
  try dsimp only
  repeat' first
    | with_reducible exact hk | with_reducible exact Stays.refl _ | with_reducible assumption
    | with_reducible apply deliver_keeps | with_reducible apply deliverBad_keeps | with_reducible apply fillRead_keeps
    | with_reducible apply readBad_keeps | with_reducible exact fun x => x | split | intro _ _ _
    | with_reducible exact GlbStays.refl _ | with_reducible rfl | with_reducible exact Nat.le_refl _
    | (intro _ h; with_reducible exact h) | (intro _; with_reducible rfl) | (intro _; with_reducible exact Nat.le_refl _)

theorem markEntry_keeps {s0 : State} (s : State) (lsa : Nat) (h : Hold) (hk : Stays s0 s) :
    Stays s0 (markEntry s lsa h) := by
  unfold markEntry
  try dsimp only
  repeat' first
    | with_reducible exact hk | with_reducible apply putEntry_keeps | split

theorem lockRead_keeps {s0 : State} (s : State) (lsa : Nat) (r : Opened) (hk : Stays s0 s) :
    Stays s0 (lockRead s lsa r) := by
  unfold lockRead
  try dsimp only
  repeat' first
    | with_reducible exact hk | with_reducible exact Stays.refl _ | with_reducible assumption
    | with_reducible apply cachePlace_keeps | with_reducible apply endLock_keeps | with_reducible apply markEntry_keeps
    | with_reducible apply readBad_keeps | with_reducible exact fun x => x | split | intro _ _ _
    | with_reducible exact GlbStays.refl _ | with_reducible rfl | with_reducible exact Nat.le_refl _
    | (intro _ h; with_reducible exact h) | (intro _; with_reducible rfl) | (intro _; with_reducible exact Nat.le_refl _)

theorem foldRead_keeps {s0 : State} (s : State) (lsa : Nat) (r : Opened) (hk : Stays s0 s) :
    Stays s0 (foldRead s lsa r) := by
  unfold foldRead
  try dsimp only
  repeat' first
    | with_reducible exact hk | with_reducible exact Stays.refl _ | with_reducible assumption
    | with_reducible apply abandonFold_keeps | with_reducible apply fillRead_keeps | with_reducible apply foldValue_keeps
    | with_reducible apply foundBad_keeps | with_reducible exact fun x => x | split | intro _ _ _
    | with_reducible exact GlbStays.refl _ | with_reducible rfl | with_reducible exact Nat.le_refl _
    | (intro _ h; with_reducible exact h) | (intro _; with_reducible rfl) | (intro _; with_reducible exact Nat.le_refl _)

theorem sendRepair_keeps {s0 : State} (s : State) (n : MPort) (lsa : Nat) (d : Option Sector) (hk : Stays s0 s) :
    Stays s0 (sendRepair s n lsa d) := by
  unfold sendRepair
  try dsimp only
  repeat' first
    | with_reducible exact hk | with_reducible exact Stays.refl _ | with_reducible assumption
    | with_reducible apply mirSend_keeps | with_reducible exact fun x => x | split | intro _ _ _
    | with_reducible refine stays_mk ?_ ?_ ?_ ?_ ?_ ?_ ?_ ?_ ?_  | with_reducible exact GlbStays.refl _ | with_reducible rfl
    | with_reducible exact Nat.le_refl _ | (intro _ h; with_reducible exact h) | (intro _; with_reducible rfl)
    | (intro _; with_reducible exact Nat.le_refl _)

theorem supplyRead_keeps {s0 : State} (s : State) (n : MPort) (lsa : Nat) (r : Opened) (hk : Stays s0 s) :
    Stays s0 (supplyRead s n lsa r) := by
  unfold supplyRead
  try dsimp only
  repeat' first
    | with_reducible exact hk | with_reducible exact Stays.refl _ | with_reducible assumption
    | with_reducible apply readBad_keeps | with_reducible apply sendRepair_keeps | with_reducible exact fun x => x | split
    | intro _ _ _ | with_reducible exact GlbStays.refl _ | with_reducible rfl | with_reducible exact Nat.le_refl _
    | (intro _ h; with_reducible exact h) | (intro _; with_reducible rfl) | (intro _; with_reducible exact Nat.le_refl _)

theorem sweepRead_keeps {s0 : State} (s : State) (lsa : Nat) (r : Opened) (hk : Stays s0 s) :
    Stays s0 (sweepRead s lsa r) := by
  unfold sweepRead
  try dsimp only
  repeat' first
    | with_reducible exact hk | with_reducible exact Stays.refl _ | with_reducible assumption
    | with_reducible apply modDbq_keeps | with_reducible apply readBad_keeps | with_reducible exact fun x => x | split
    | intro _ _ _ | with_reducible refine stays_mk ?_ ?_ ?_ ?_ ?_ ?_ ?_ ?_ ?_  | with_reducible exact GlbStays.refl _
    | with_reducible rfl | with_reducible exact Nat.le_refl _ | (intro _ h; with_reducible exact h)
    | (intro _; with_reducible rfl) | (intro _; with_reducible exact Nat.le_refl _)

theorem fetchRead_keeps {s0 : State} (s : State) (lsa : Nat) (r : Opened) (hk : Stays s0 s) :
    Stays s0 (fetchRead s lsa r) := by
  unfold fetchRead
  try dsimp only
  repeat' first
    | with_reducible exact hk | with_reducible exact Stays.refl _ | with_reducible assumption
    | with_reducible apply mergeOpened_keeps | with_reducible exact fun x => x | split | intro _ _ _
    | with_reducible exact GlbStays.refl _ | with_reducible rfl | with_reducible exact Nat.le_refl _
    | (intro _ h; with_reducible exact h) | (intro _; with_reducible rfl) | (intro _; with_reducible exact Nat.le_refl _)

theorem serveRead_keeps {s0 : State} (s : State) (cls : Class) (p : Purpose) (lsa : Nat) (r : Opened) (source : Nat) (ladder : Nat) (hk : Stays s0 s) :
    Stays s0 (serveRead s cls p lsa r source ladder) := by
  unfold serveRead
  try dsimp only
  repeat' first
    | with_reducible exact hk | with_reducible exact Stays.refl _ | with_reducible assumption
    | with_reducible apply cmdRead_keeps | with_reducible apply fetchRead_keeps | with_reducible apply foldRead_keeps
    | with_reducible apply lockRead_keeps | with_reducible apply supplyRead_keeps | with_reducible apply sweepRead_keeps
    | with_reducible exact fun x => x | split | intro _ _ _ | with_reducible exact GlbStays.refl _ | with_reducible rfl
    | with_reducible exact Nat.le_refl _ | (intro _ h; with_reducible exact h) | (intro _; with_reducible rfl)
    | (intro _; with_reducible exact Nat.le_refl _)

theorem serveJoined_keeps {s0 : State} (s : State) (lsa : Nat) (r : Opened) (j : Class × Purpose) (hk : Stays s0 s) :
    Stays s0 (serveJoined s lsa r j) := by
  unfold serveJoined
  dsimp only
  refine serveRead_keeps _ _ _ _ _ _ _ ?_
  generalize (if isMarked s lsa = true then Opened.poison else r) = o
  have h : Stays s0 (if j.1.counted = true then pmcCount (hwAdd s Reg.RDP_HITS 1) 0x301 (some (lsaChannel lsa)) 1 else s) := by
    split
    · exact pmcCount_keeps _ _ _ (hwAdd_keeps _ _ hk)
    · exact hk
  cases o
  · exact h
  · exact h
  · exact hk
  · exact hk
  · exact hk
  · exact hk

theorem prefetchRead_keeps {s0 : State} (s : State) (q : MedReq) (r : Opened) (hk : Stays s0 s) : Stays s0 (prefetchRead s q r) := by
  have good (d : Sector) : Stays s0 (if cacheOn s ∧ (cacheFind s q.lsa.toNat).isNone ∧ (sideFind s q.lsa.toNat).isNone ∧
      !isMarked s q.lsa.toNat then sidePush s q.lsa.toNat (currentBytes s q.lsa.toNat d) else s) := by
    split
    · exact sidePush_keeps _ _ _ hk
    · exact hk
  unfold prefetchRead
  dsimp only
  split
  · cases r
    · exact good _
    · exact good _
    · exact hk
    · exact readBad_keeps _ _ _ _ hk
    · exact readBad_keeps _ _ _ _ hk
    · exact readBad_keeps _ _ _ _ hk
  · refine stays_foldl (fun _ _ h => serveJoined_keeps _ _ _ _ h) ?_
    cases r
    · exact hwAdd_keeps _ _ hk
    · exact hwAdd_keeps _ _ hk
    · exact hk
    · exact hk
    · exact hk
    · exact hk

theorem readDone_keeps {s0 : State} (s : State) (q : MedReq) (cells : ReadOutcome) (hk : Stays s0 s) :
    Stays s0 (readDone s q cells) := by
  unfold readDone
  try dsimp only
  repeat' first
    | with_reducible exact hk | with_reducible exact Stays.refl _ | with_reducible assumption
    | with_reducible apply endReq_keeps | with_reducible apply excessRule_keeps | with_reducible apply injected_keeps
    | with_reducible apply markerCare_keeps | with_reducible apply noteDecode_keeps | with_reducible apply openCount_keeps
    | with_reducible apply prefetchRead_keeps | with_reducible apply serveRead_keeps | with_reducible apply slotCheck_keeps
    | with_reducible refine stays_snd (by assumption) ?_ | with_reducible exact fun x => x | split | intro _ _ _
    | with_reducible exact GlbStays.refl _ | with_reducible rfl | with_reducible exact Nat.le_refl _
    | (intro _ h; with_reducible exact h) | (intro _; with_reducible rfl) | (intro _; with_reducible exact Nat.le_refl _)

theorem execMediumReadDone_keeps (req : Nat) (out : ReadOutcome) (s : State) : StaysOut s (execMediumReadDone req out s) := by
  unfold execMediumReadDone
  try dsimp only
  repeat' first
    | with_reducible exact Stays.refl _ | with_reducible apply readDone_keeps | with_reducible apply settle_keeps
    | with_reducible apply stays_done | split

theorem commitRanks_keeps {s0 : State} (s : State) (hk : Stays s0 s) :
    Stays s0 (commitRanks s) := by
  unfold commitRanks
  try dsimp only
  repeat' first
    | with_reducible exact hk | with_reducible assumption | with_reducible apply hwSet_keeps
    | with_reducible apply modChan_keeps | with_reducible apply stays_foldl | intro _ _ _

theorem execArbCommit_keeps (s : State) : StaysOut s (execArbCommit s) := by
  unfold execArbCommit
  try dsimp only
  repeat' first
    | with_reducible exact Stays.refl _ | with_reducible assumption | with_reducible apply commitRanks_keeps
    | with_reducible apply done_keeps | with_reducible apply touch_keeps | with_reducible apply stays_done
    | with_reducible exact fun x => x | split | intro _ _ _ | with_reducible exact GlbStays.refl _ | with_reducible rfl
    | with_reducible exact Nat.le_refl _ | (intro _ h; with_reducible exact h) | (intro _; with_reducible rfl)
    | (intro _; with_reducible exact Nat.le_refl _)

theorem execArbRankApplyDeadline_keeps (s : State) : StaysOut s (execArbRankApplyDeadline s) := by
  unfold execArbRankApplyDeadline
  try dsimp only
  repeat' first
    | with_reducible exact Stays.refl _ | with_reducible apply applyRanks_keeps | with_reducible apply stays_done
    | with_reducible apply stays_foldl

theorem startLock_keeps {s0 : State} (s : State) (lsa : Nat) (pin : Bool) (hk : Stays s0 s) :
    Stays s0 (startLock s lsa pin) := by
  unfold startLock
  try dsimp only
  repeat' first
    | with_reducible exact hk | with_reducible apply askMedium_keeps | with_reducible apply cachePlace_keeps
    | with_reducible apply endLock_keeps | with_reducible apply hwAdd_keeps | with_reducible apply markEntry_keeps
    | with_reducible apply modRdp_keeps | with_reducible apply putSide_keeps | split

theorem unlockEntry_keeps {s0 : State} (s : State) (lsa : Nat) (hk : Stays s0 s) :
    Stays s0 (unlockEntry s lsa) := by
  unfold unlockEntry
  try dsimp only
  repeat' first
    | with_reducible exact hk | with_reducible apply endLock_keeps | with_reducible apply markEntry_keeps | split

theorem lockGo_keeps {s0 : State} (s : State) (lsa : Nat) (op : Nat) (hk : Stays s0 s) :
    Stays s0 (lockGo s lsa op) := by
  unfold lockGo
  try dsimp only
  repeat' first
    | with_reducible exact hk | with_reducible apply setCfg_keeps | with_reducible apply startLock_keeps
    | with_reducible apply unlockEntry_keeps | split

theorem execRdpLock_keeps (lsa : BitVec 32) (s : State) : StaysOut s (execRdpLock lsa s) := by
  unfold execRdpLock
  try dsimp only
  repeat' first
    | with_reducible exact Stays.refl _ | with_reducible assumption | with_reducible apply done_keeps
    | with_reducible apply lockGo_keeps | with_reducible apply settle_keeps | with_reducible apply touch_keeps
    | with_reducible apply stays_done | with_reducible exact fun x => x | split | intro _ _ _
    | with_reducible exact GlbStays.refl _ | with_reducible rfl | with_reducible exact Nat.le_refl _
    | (intro _ h; with_reducible exact h) | (intro _; with_reducible rfl) | (intro _; with_reducible exact Nat.le_refl _)

theorem execRdpPin_keeps (lsa : BitVec 32) (s : State) : StaysOut s (execRdpPin lsa s) := by
  unfold execRdpPin
  try dsimp only
  repeat' first
    | with_reducible exact Stays.refl _ | with_reducible assumption | with_reducible apply done_keeps
    | with_reducible apply lockGo_keeps | with_reducible apply settle_keeps | with_reducible apply touch_keeps
    | with_reducible apply stays_done | with_reducible exact fun x => x | split | intro _ _ _
    | with_reducible exact GlbStays.refl _ | with_reducible rfl | with_reducible exact Nat.le_refl _
    | (intro _ h; with_reducible exact h) | (intro _; with_reducible rfl) | (intro _; with_reducible exact Nat.le_refl _)

theorem execRdpUnlock_keeps (lsa : BitVec 32) (s : State) : StaysOut s (execRdpUnlock lsa s) := by
  unfold execRdpUnlock
  try dsimp only
  repeat' first
    | with_reducible exact Stays.refl _ | with_reducible assumption | with_reducible apply done_keeps
    | with_reducible apply lockGo_keeps | with_reducible apply touch_keeps | with_reducible apply stays_done
    | with_reducible exact fun x => x | split | intro _ _ _ | with_reducible exact GlbStays.refl _ | with_reducible rfl
    | with_reducible exact Nat.le_refl _ | (intro _ h; with_reducible exact h) | (intro _; with_reducible rfl)
    | (intro _; with_reducible exact Nat.le_refl _)

theorem dropRange_keeps {s0 : State} (s : State) (i : Inval) (hk : Stays s0 s) :
    Stays s0 (dropRange s i) := by
  unfold dropRange
  try dsimp only
  repeat' first
    | with_reducible exact hk | with_reducible apply invalidate_keeps

theorem invalGo_keeps {s0 : State} (s : State) (locked : Bool) (hk : Stays s0 s) :
    Stays s0 (invalGo s locked) := by
  unfold invalGo
  try dsimp only
  repeat' first
    | with_reducible exact hk | with_reducible apply dropRange_keeps | with_reducible apply modRdp_keeps
    | with_reducible apply setCfg_keeps | split

theorem execRangeInvalidation_keeps (includeLocked : Bool) (s : State) : StaysOut s (execRangeInvalidation includeLocked s) := by
  unfold execRangeInvalidation
  try dsimp only
  repeat' first
    | with_reducible exact Stays.refl _ | with_reducible assumption | with_reducible apply done_keeps
    | with_reducible apply invalGo_keeps | with_reducible apply touch_keeps | with_reducible apply stays_done
    | with_reducible exact fun x => x | split | intro _ _ _ | with_reducible exact GlbStays.refl _ | with_reducible rfl
    | with_reducible exact Nat.le_refl _ | (intro _ h; with_reducible exact h) | (intro _; with_reducible rfl)
    | (intro _; with_reducible exact Nat.le_refl _)

theorem execInvalidationDone_keeps (s : State) : StaysOut s (execInvalidationDone s) := by
  unfold execInvalidationDone
  try dsimp only
  repeat' first
    | with_reducible exact Stays.refl _ | with_reducible apply dropRange_keeps | with_reducible apply modRdp_keeps
    | with_reducible apply raise_keeps | with_reducible apply stays_done | split

theorem setCacheEn_keeps {s0 : State} (s : State) (on : Bool) (hk : Stays s0 s) :
    Stays s0 (setCacheEn s on) := by
  unfold setCacheEn
  try dsimp only
  repeat' first
    | with_reducible exact hk | with_reducible assumption | with_reducible apply dropReqs_keeps
    | with_reducible apply modRdp_keeps | with_reducible apply putSide_keeps | with_reducible apply setCfg_keeps
    | with_reducible apply wasted_keeps | with_reducible apply stays_foldl | split | intro _ _ _

theorem execCacheEn_keeps (on : Bool) (s : State) : StaysOut s (execCacheEn on s) := by
  unfold execCacheEn
  try dsimp only
  repeat' first
    | with_reducible exact Stays.refl _ | with_reducible assumption | with_reducible apply done_keeps
    | with_reducible apply setCacheEn_keeps | with_reducible apply touch_keeps | with_reducible apply stays_done
    | with_reducible exact fun x => x | split | intro _ _ _ | with_reducible exact GlbStays.refl _ | with_reducible rfl
    | with_reducible exact Nat.le_refl _ | (intro _ h; with_reducible exact h) | (intro _; with_reducible rfl)
    | (intro _; with_reducible exact Nat.le_refl _)

end Sys2Proof.Machine
end

