-- ==== Sys2Proof/Laws/KeepsE.lean ====
section
/-! SUPPORT. What every command keeps, operation by operation: MedOps, Medium, Walk, Mirror. -/

namespace Sys2Proof.Machine

theorem programmed_keeps {s0 : State} (s : State) (lsa : Nat) (hk : Stays s0 s) :
    Stays s0 (programmed s lsa) := by
  unfold programmed
  try dsimp only
  repeat' first
    | with_reducible exact hk | with_reducible exact Stays.refl _ | with_reducible assumption
    | with_reducible apply clearVerified_keeps | with_reducible apply modLke_keeps | with_reducible exact fun x => x | split
    | intro _ _ _ | with_reducible refine stays_mk ?_ ?_ ?_ ?_ ?_ ?_ ?_ ?_ ?_  | with_reducible exact GlbStays.refl _
    | with_reducible rfl | with_reducible exact Nat.le_refl _ | (intro _ h; with_reducible exact h)
    | (intro _; with_reducible rfl) | (intro _; with_reducible exact Nat.le_refl _)

theorem countDrain_keeps {s0 : State} (s : State) (hk : Stays s0 s) :
    Stays s0 (countDrain s) := by
  unfold countDrain
  try dsimp only
  repeat' first
    | with_reducible exact hk | with_reducible apply hwAdd_keeps | with_reducible apply pmcCount_keeps

theorem coverLost_keeps {s0 : State} (s : State) (lsa : Nat) (hk : Stays s0 s) :
    Stays s0 (coverLost s lsa) := by
  unfold coverLost
  try dsimp only
  repeat' first
    | with_reducible exact hk | with_reducible exact Stays.refl _ | with_reducible assumption | with_reducible exact fun x => x
    | split | intro _ _ _ | with_reducible refine stays_mk ?_ ?_ ?_ ?_ ?_ ?_ ?_ ?_ ?_  | with_reducible exact GlbStays.refl _
    | with_reducible rfl | with_reducible exact Nat.le_refl _ | (intro _ h; with_reducible exact h)
    | (intro _; with_reducible rfl) | (intro _; with_reducible exact Nat.le_refl _)

theorem settleSlot_keeps {s0 : State} (s : State) (lsa : Nat) (marker : Bool) (hk : Stays s0 s) :
    Stays s0 (settleSlot s lsa marker) := by
  unfold settleSlot
  try dsimp only
  repeat' first
    | with_reducible exact hk | with_reducible apply freeSlot_keeps | with_reducible apply putSlot_keeps
    | with_reducible apply takeStamp_keeps | split

theorem drainVerified_keeps {s0 : State} (s : State) (lsa : Nat) (data : Option Sector) (hk : Stays s0 s) :
    Stays s0 (drainVerified s lsa data) := by
  unfold drainVerified
  try dsimp only
  repeat' first
    | with_reducible exact hk | with_reducible exact Stays.refl _ | with_reducible assumption
    | with_reducible apply countDrain_keeps | with_reducible apply countPsi_keeps | with_reducible apply coverLost_keeps
    | with_reducible apply landProgram_keeps | with_reducible apply programmed_keeps | with_reducible apply settleSlot_keeps
    | with_reducible exact fun x => x | split | intro _ _ _ | with_reducible exact GlbStays.refl _ | with_reducible rfl
    | with_reducible exact Nat.le_refl _ | (intro _ h; with_reducible exact h) | (intro _; with_reducible rfl)
    | (intro _; with_reducible exact Nat.le_refl _)

theorem rewriteSector_keeps {s0 : State} (s : State) (lsa : Nat) (hk : Stays s0 s) :
    Stays s0 (rewriteSector s lsa) := by
  unfold rewriteSector
  try dsimp only
  repeat' first
    | with_reducible exact hk | with_reducible exact Stays.refl _ | with_reducible assumption
    | with_reducible apply countPsi_keeps | with_reducible apply landCopy_keeps | with_reducible exact fun x => x | split
    | intro _ _ _ | with_reducible exact GlbStays.refl _ | with_reducible rfl | with_reducible exact Nat.le_refl _
    | (intro _ h; with_reducible exact h) | (intro _; with_reducible rfl) | (intro _; with_reducible exact Nat.le_refl _)

theorem refreshSector_keeps {s0 : State} (s : State) (lsa : Nat) (hk : Stays s0 s) :
    Stays s0 (refreshSector s lsa) := by
  unfold refreshSector
  try dsimp only
  repeat' first
    | with_reducible exact hk | with_reducible exact Stays.refl _ | with_reducible assumption
    | with_reducible apply careBad_keeps | with_reducible apply markerCare_keeps | with_reducible apply openCount_keeps
    | with_reducible apply programmed_keeps | with_reducible apply rewriteSector_keeps
    | with_reducible refine stays_snd (by assumption) ?_ | with_reducible exact fun x => x | split | intro _ _ _
    | with_reducible exact GlbStays.refl _ | with_reducible rfl | with_reducible exact Nat.le_refl _
    | (intro _ h; with_reducible exact h) | (intro _; with_reducible rfl) | (intro _; with_reducible exact Nat.le_refl _)

theorem rebuildStep_keeps {s0 : State} (s : State) (lsa : Nat) (hk : Stays s0 s) :
    Stays s0 (rebuildStep s lsa) := by
  unfold rebuildStep
  try dsimp only
  repeat' first
    | with_reducible exact hk | with_reducible exact Stays.refl _ | with_reducible assumption
    | with_reducible apply rebuildRecord_keeps | with_reducible apply recreateStep_keeps | with_reducible exact fun x => x
    | split | intro _ _ _ | with_reducible exact GlbStays.refl _ | with_reducible rfl | with_reducible exact Nat.le_refl _
    | (intro _ h; with_reducible exact h) | (intro _; with_reducible rfl) | (intro _; with_reducible exact Nat.le_refl _)

theorem rebuildVerified_keeps {s0 : State} (s : State) (lsa : Nat) (d : Option Sector) (hk : Stays s0 s) :
    Stays s0 (rebuildVerified s lsa d) := by
  unfold rebuildVerified
  try dsimp only
  repeat' first
    | with_reducible exact hk | with_reducible exact Stays.refl _ | with_reducible assumption
    | with_reducible apply clearMark_keeps | with_reducible apply countPoison_keeps | with_reducible apply counterPoison_keeps
    | with_reducible apply landProgram_keeps | with_reducible apply programmed_keeps | with_reducible apply rebuildStep_keeps
    | with_reducible exact fun x => x | split | intro _ _ _ | with_reducible exact GlbStays.refl _ | with_reducible rfl
    | with_reducible exact Nat.le_refl _ | (intro _ h; with_reducible exact h) | (intro _; with_reducible rfl)
    | (intro _; with_reducible exact Nat.le_refl _)

theorem journalVerified_keeps {s0 : State} (s : State) (lsa : Nat) (hk : Stays s0 s) :
    Stays s0 (journalVerified s lsa) := by
  unfold journalVerified
  try dsimp only
  repeat' first
    | with_reducible exact hk | with_reducible exact Stays.refl _ | with_reducible assumption
    | with_reducible apply writeInner_keeps | with_reducible exact fun x => x | split | intro _ _ _
    | with_reducible exact GlbStays.refl _ | with_reducible rfl | with_reducible exact Nat.le_refl _
    | (intro _ h; with_reducible exact h) | (intro _; with_reducible rfl) | (intro _; with_reducible exact Nat.le_refl _)

theorem blockCopied_keeps {s0 : State} (s : State) (b : Nat) (lsa : Nat) (hk : Stays s0 s) :
    Stays s0 (blockCopied s b lsa) := by
  unfold blockCopied
  split
  · exact hk
  · split
    · exact blockRule_keeps _ _ hk
    · dsimp only
      split
      · exact blockRule_keeps _ _ hk
      · split
        · exact blockRule_keeps _ _ (holdSector_keeps _ _ hk)
        · exact blockRule_keeps _ _ (copySector_keeps _ _ _ _ (fun _ h => h) (remapSlot_keeps _ _ _ (fun _ h => h) hk))

theorem programVerified_keeps {s0 : State} (s : State) (q : MedReq) (hk : Stays s0 s) :
    Stays s0 (programVerified s q) := by
  unfold programVerified
  try dsimp only
  repeat' first
    | with_reducible exact hk | with_reducible exact Stays.refl _ | with_reducible assumption
    | with_reducible apply blockCopied_keeps | with_reducible apply drainVerified_keeps
    | with_reducible apply journalVerified_keeps | with_reducible apply putFold_keeps
    | with_reducible apply rebuildVerified_keeps | with_reducible apply refreshSector_keeps
    | with_reducible apply retireAt_keeps | with_reducible exact fun x => x | split | intro _ _ _
    | with_reducible refine stays_mk ?_ ?_ ?_ ?_ ?_ ?_ ?_ ?_ ?_  | with_reducible exact GlbStays.refl _ | with_reducible rfl
    | with_reducible exact Nat.le_refl _ | (intro _ h; with_reducible exact h) | (intro _; with_reducible rfl)
    | (intro _; with_reducible exact Nat.le_refl _)

theorem markInPlace_keeps {s0 : State} (s : State) (lsa : Nat) (was : Bool) (hk : Stays s0 s) :
    Stays s0 (markInPlace s lsa was) := by
  unfold markInPlace
  try dsimp only
  repeat' first
    | with_reducible exact hk | with_reducible exact Stays.refl _ | with_reducible assumption
    | with_reducible apply cacheDrop_keeps | with_reducible apply countPoison_keeps | with_reducible apply counterPoison_keeps
    | with_reducible apply putMarker_keeps | with_reducible apply setBad_keeps | with_reducible apply spareExhausted_keeps
    | with_reducible exact fun x => x | split | intro _ _ _ | with_reducible exact GlbStays.refl _ | with_reducible rfl
    | with_reducible exact Nat.le_refl _ | (intro _ h; with_reducible exact h) | (intro _; with_reducible rfl)
    | (intro _; with_reducible exact Nat.le_refl _)

theorem loseSlot_keeps {s0 : State} (s : State) (lsa : Nat) (hk : Stays s0 s) :
    Stays s0 (loseSlot s lsa) := by
  unfold loseSlot
  try dsimp only
  repeat' first
    | with_reducible exact hk | with_reducible exact Stays.refl _ | with_reducible assumption
    | with_reducible apply freeSlot_keeps | with_reducible exact fun x => x | split | intro _ _ _
    | with_reducible refine stays_mk ?_ ?_ ?_ ?_ ?_ ?_ ?_ ?_ ?_  | with_reducible exact GlbStays.refl _ | with_reducible rfl
    | with_reducible exact Nat.le_refl _ | (intro _ h; with_reducible exact h) | (intro _; with_reducible rfl)
    | (intro _; with_reducible exact Nat.le_refl _)

theorem skipSlot_keeps {s0 : State} (s : State) (b : Nat) (hk : Stays s0 s) :
    Stays s0 (skipSlot s b) := by
  unfold skipSlot
  try dsimp only
  repeat' first
    | with_reducible exact hk | with_reducible exact Stays.refl _ | with_reducible assumption
    | with_reducible apply blockRule_keeps | with_reducible apply modMed_keeps | with_reducible exact fun x => x | split
    | intro _ _ _ | with_reducible refine stays_mk ?_ ?_ ?_ ?_ ?_ ?_ ?_ ?_ ?_  | with_reducible exact GlbStays.refl _
    | with_reducible rfl | with_reducible exact Nat.le_refl _ | (intro _ h; with_reducible exact h)
    | (intro _; with_reducible rfl) | (intro _; with_reducible exact Nat.le_refl _)

theorem giveUp_keeps {s0 : State} (s : State) (q : MedReq) (hk : Stays s0 s) :
    Stays s0 (giveUp s q) := by
  unfold giveUp
  try dsimp only
  repeat' first
    | with_reducible exact hk | with_reducible exact Stays.refl _ | with_reducible assumption
    | with_reducible apply askLeafWrite_keeps | with_reducible apply loseSlot_keeps | with_reducible apply markInPlace_keeps
    | with_reducible apply mirOverflow_keeps | with_reducible apply noteGap_keeps | with_reducible apply putMarker_keeps
    | with_reducible apply rebuildRecord_keeps | with_reducible apply recreateAgain_keeps | with_reducible apply skipSlot_keeps
    | with_reducible apply spareExhausted_keeps | with_reducible exact fun x => x | split | intro _ _ _
    | with_reducible exact GlbStays.refl _ | with_reducible rfl | with_reducible exact Nat.le_refl _
    | (intro _ h; with_reducible exact h) | (intro _; with_reducible rfl) | (intro _; with_reducible exact Nat.le_refl _)

theorem blockSpare_keeps {s0 : State} (s : State) (q : MedReq) (b : Nat) (hk : Stays s0 s) :
    Stays s0 (blockSpare s q b).2 := by
  unfold blockSpare
  try dsimp only
  repeat' first
    | with_reducible exact hk | with_reducible exact Stays.refl _ | with_reducible assumption
    | with_reducible apply modMed_keeps | with_reducible apply modReq_keeps | with_reducible apply retireSlot_keeps
    | with_reducible refine stays_snd (by assumption) ?_ | with_reducible exact fun x => x | split | intro _ _ _
    | with_reducible refine stays_mk ?_ ?_ ?_ ?_ ?_ ?_ ?_ ?_ ?_  | with_reducible exact GlbStays.refl _ | with_reducible rfl
    | with_reducible exact Nat.le_refl _ | (intro _ h; with_reducible exact h) | (intro _; with_reducible rfl)
    | (intro _; with_reducible exact Nat.le_refl _)

theorem programFailed_keeps {s0 : State} (s : State) (q : MedReq) (hk : Stays s0 s) :
    Stays s0 (programFailed s q) := by
  unfold programFailed
  try dsimp only
  repeat' first
    | with_reducible exact hk | with_reducible exact Stays.refl _ | with_reducible assumption
    | with_reducible apply blockSpare_keeps | with_reducible apply endReq_keeps | with_reducible apply giveUp_keeps
    | with_reducible apply modReq_keeps | with_reducible apply raise_keeps | with_reducible apply restartOp_keeps
    | with_reducible apply retireSlot_keeps | with_reducible refine takeSectorSpare_keeps (by assumption) ?_
    | with_reducible refine stays_snd (by assumption) ?_ | with_reducible exact fun x => x | split | intro _ _ _
    | with_reducible refine stays_mk ?_ ?_ ?_ ?_ ?_ ?_ ?_ ?_ ?_  | with_reducible exact GlbStays.refl _ | with_reducible rfl
    | with_reducible exact Nat.le_refl _ | (intro _ h; with_reducible exact h) | (intro _; with_reducible rfl)
    | (intro _; with_reducible exact Nat.le_refl _)

theorem programDone_keeps {s0 : State} (s : State) (q : MedReq) (out : ProgramOutcome) (hk : Stays s0 s) :
    Stays s0 (programDone s q out) := by
  unfold programDone
  try dsimp only
  repeat' first
    | with_reducible exact hk | with_reducible exact Stays.refl _ | with_reducible assumption
    | with_reducible apply endReq_keeps | with_reducible apply programFailed_keeps | with_reducible apply programVerified_keeps
    | with_reducible exact fun x => x | split | intro _ _ _ | with_reducible exact GlbStays.refl _ | with_reducible rfl
    | with_reducible exact Nat.le_refl _ | (intro _ h; with_reducible exact h) | (intro _; with_reducible rfl)
    | (intro _; with_reducible exact Nat.le_refl _)

theorem ownGrant_keeps {s0 : State} (s : State) (ch : Nat) (c : Class) (n : Nat) (hk : Stays s0 s) :
    Stays s0 (ownGrant s ch c n) := by
  unfold ownGrant
  try dsimp only
  repeat' first
    | with_reducible exact hk | with_reducible exact Stays.refl _ | with_reducible assumption
    | with_reducible apply applyRanks_keeps | with_reducible apply hwAdd_keeps | with_reducible apply modChan_keeps
    | with_reducible apply noteTurn_keeps | with_reducible apply pmcCount_keeps | with_reducible exact fun x => x | split
    | intro _ _ _ | with_reducible refine stays_mk ?_ ?_ ?_ ?_ ?_ ?_ ?_ ?_ ?_  | with_reducible exact GlbStays.refl _
    | with_reducible rfl | with_reducible exact Nat.le_refl _ | (intro _ h; with_reducible exact h)
    | (intro _; with_reducible rfl) | (intro _; with_reducible exact Nat.le_refl _)

theorem cutStep_keeps {s0 : State} (s : State) (lsa : Nat) (hk : Stays s0 s) :
    Stays s0 (cutStep s lsa) := by
  unfold cutStep
  try dsimp only
  repeat' first
    | with_reducible exact hk | with_reducible exact Stays.refl _ | with_reducible assumption
    | with_reducible apply hwAdd_keeps | with_reducible apply pmcCount_keeps | with_reducible exact fun x => x | split
    | intro _ _ _ | with_reducible exact GlbStays.refl _ | with_reducible rfl | with_reducible exact Nat.le_refl _
    | (intro _ h; with_reducible exact h) | (intro _; with_reducible rfl) | (intro _; with_reducible exact Nat.le_refl _)

theorem stepGrant_keeps {s0 : State} (s : State) (c : Class) (n : Nat) (lsas : List Nat) (hk : Stays s0 s) :
    Stays s0 (stepGrant s c n lsas) := by
  unfold stepGrant
  split
  · exact hk
  · split
    · exact ownGrant_keeps _ _ _ _ hk
    · exact stays_foldl (fun _ _ h => cutStep_keeps _ _ h) hk

theorem tryProgram_keeps {s0 : State} (s : State) (ch n : Nat) (outs : List ProgramOutcome) (hk : Stays s0 s) :
    Stays s0 (tryProgram s ch n outs).2 := by
  induction outs generalizing s with
  | nil => exact hk
  | cons o outs ih =>
    cases o with
    | verified => exact hk
    | failed =>
      unfold tryProgram
      dsimp only
      have h := retireSlot_keeps s ch n hk
      split
      · exact ih _ h
      · split <;> exact h

theorem stepProgram_keeps {s0 : State} (s : State) (lsa : Nat) (outs : List ProgramOutcome) (land : State → State)
    (hl : ∀ t, Stays s0 t → Stays s0 (land t)) (hk : Stays s0 s) : Stays s0 (stepProgram s lsa outs land) := by
  unfold stepProgram
  have h := tryProgram_keeps s (lsaChannel lsa) (levelledSlot s lsa) outs hk
  dsimp only
  split
  · exact hl _ h
  · exact markInPlace_keeps _ _ _ (loseSlot_keeps _ _ h)

theorem gapStep_keeps {s0 : State} (s : State) (d : Nat) (cells : ReadOutcome) (hk : Stays s0 s) :
    Stays s0 (gapStep s d cells) := by
  unfold gapStep
  dsimp only
  generalize lsaOfSlot d (gapSource (domAt s d)) (domAt s d) = lsa
  generalize d * domainSlots + gapSource (domAt s d) = src
  generalize d * domainSlots + (domAt s d).gap = gap
  generalize decodeNow s lsa cells = out
  have h1 : Stays s0 (noteDecode (stepGrant s .move 2 [lsa]) lsa out) := noteDecode_keeps _ _ _ (stepGrant_keeps _ _ _ _ hk)
  generalize noteDecode (stepGrant s .move 2 [lsa]) lsa out = t at h1 ⊢
  have h2 := tryProgram_keeps t (lsaChannel lsa) gap out.programs h1
  generalize tryProgram t (lsaChannel lsa) gap out.programs = p at h2 ⊢
  have h3 := copySector_keeps p.2 lsa out _ (fun u hu => putDom_keeps _ d (gapMoved (domAt u d))
    (modMed_keeps (f := fun m => { m with cells := fdel m.cells (retiredSlot m src) }) (fun _ h => fwf_fdel h) hu)) h2
  repeat' first
    | with_reducible exact h3 | with_reducible apply retireSlot_keeps | with_reducible apply askRepair_keeps
    | with_reducible apply markInPlace_keeps | split

theorem countScrub_keeps {s0 : State} (s : State) (b : Blank) (uncorr : Bool) (hk : Stays s0 s) :
    Stays s0 (countScrub s b uncorr) := by
  unfold countScrub
  try dsimp only
  repeat' first
    | with_reducible exact hk | with_reducible apply blankFail_keeps | with_reducible apply modBlank_keeps | split

theorem scrubMedium_keeps {s0 : State} (s : State) (lsa : Nat) (out : Decoded) (hk : Stays s0 s) :
    Stays s0 (scrubMedium s lsa out) := by
  unfold scrubMedium
  try dsimp only
  repeat' first
    | with_reducible exact hk | with_reducible exact Stays.refl _ | with_reducible assumption | intro _ _
    | with_reducible apply careBad_keeps | with_reducible apply countScrub_keeps | with_reducible apply dropReqs_keeps
    | with_reducible apply markerCare_keeps | with_reducible apply noteDecode_keeps | with_reducible apply openCount_keeps
    | with_reducible apply programmed_keeps | with_reducible apply rewriteSector_keeps | with_reducible apply stepProgram_keeps
    | with_reducible refine stays_snd (by assumption) ?_ | with_reducible exact fun x => x | split | intro _ _ _
    | with_reducible exact GlbStays.refl _ | with_reducible rfl | with_reducible exact Nat.le_refl _
    | (intro _ h; with_reducible exact h) | (intro _; with_reducible rfl) | (intro _; with_reducible exact Nat.le_refl _)

theorem scrubSector_keeps {s0 : State} (s : State) (lsa : Nat) (cells : ReadOutcome) (hk : Stays s0 s) :
    Stays s0 (scrubSector s lsa cells) := by
  unfold scrubSector
  dsimp only
  have h1 : Stays s0 (slotCheck s lsa) := slotCheck_keeps _ _ hk
  generalize slotCheck s lsa = t at h1 ⊢
  split
  · exact h1
  · have h2 : Stays s0 (stepGrant t .scrub 2 [lsa]) := stepGrant_keeps _ _ _ _ h1
    generalize stepGrant t .scrub 2 [lsa] = u at h2 ⊢
    split
    · split
      · exact stepProgram_keeps _ _ _ _ (fun _ h => drainVerified_keeps _ _ _ h) (beginDrain_keeps _ _ h2)
      · exact stepProgram_keeps _ _ _ _ (fun _ h => drainVerified_keeps _ _ _ h) h2
      · exact scrubMedium_keeps _ _ _ h2
    · exact scrubMedium_keeps _ _ _ h2

theorem passScrub_keeps {s0 : State} (s : State) (ch : Nat) (lsa : Nat) (hk : Stays s0 s) :
    Stays s0 (passScrub s ch lsa) := by
  unfold passScrub
  try dsimp only
  repeat' first
    | with_reducible exact hk | with_reducible exact Stays.refl _ | with_reducible assumption
    | with_reducible apply modChan_keeps | with_reducible exact fun x => x | split | intro _ _ _
    | with_reducible refine stays_mk ?_ ?_ ?_ ?_ ?_ ?_ ?_ ?_ ?_  | with_reducible exact GlbStays.refl _ | with_reducible rfl
    | with_reducible exact Nat.le_refl _ | (intro _ h; with_reducible exact h) | (intro _; with_reducible rfl)
    | (intro _; with_reducible exact Nat.le_refl _)

theorem endCycle_keeps {s0 : State} (s : State) (ch : Nat) (hk : Stays s0 s) :
    Stays s0 (endCycle s ch) := by
  unfold endCycle
  try dsimp only
  repeat' first
    | with_reducible exact hk | with_reducible apply modChan_keeps

theorem changeLevel_keeps {s0 : State} (s : State) (new : Level) (input : Nat) (hk : Stays s0 s) :
    Stays s0 (changeLevel s new input) := by
  unfold changeLevel
  try dsimp only
  repeat' first
    | with_reducible exact hk | with_reducible assumption | with_reducible apply evt_keeps
    | with_reducible apply fillBuckets_keeps | with_reducible apply hwSet_keeps | with_reducible apply modMed_keeps
    | with_reducible apply modPort_keeps | with_reducible apply raise_keeps | with_reducible apply stays_foldl | split
    | intro _ _ _ | (intro _ h; with_reducible exact h)

theorem execMediumProgramDone_keeps (req : Nat) (out : ProgramOutcome) (s : State) : StaysOut s (execMediumProgramDone req out s) := by
  unfold execMediumProgramDone
  try dsimp only
  repeat' first
    | with_reducible exact Stays.refl _ | with_reducible apply programDone_keeps | with_reducible apply settle_keeps
    | with_reducible apply stays_done | split

theorem execSteadyRestEval_keeps (s : State) : StaysOut s (execSteadyRestEval s) := by
  unfold execSteadyRestEval
  try dsimp only
  repeat' first
    | with_reducible exact Stays.refl _ | with_reducible apply changeLevel_keeps | with_reducible apply settle_keeps
    | with_reducible apply stays_done | split

theorem execScrubStep_keeps (ch : Chan) (lsa : BitVec 32) (out : ReadOutcome) (cycleEnds : Bool) (s : State) : StaysOut s (execScrubStep ch lsa out cycleEnds s) := by
  unfold execScrubStep
  try dsimp only
  repeat' first
    | with_reducible exact Stays.refl _ | with_reducible assumption | with_reducible apply done_keeps
    | with_reducible apply endCycle_keeps | with_reducible apply passScrub_keeps | with_reducible apply scrubSector_keeps
    | with_reducible apply settle_keeps | with_reducible apply stays_done | with_reducible exact fun x => x | split
    | intro _ _ _ | with_reducible exact GlbStays.refl _ | with_reducible rfl | with_reducible exact Nat.le_refl _
    | (intro _ h; with_reducible exact h) | (intro _; with_reducible rfl) | (intro _; with_reducible exact Nat.le_refl _)

theorem execGapStep_keeps (domain : Fin 3968) (out : ReadOutcome) (s : State) : StaysOut s (execGapStep domain out s) := by
  unfold execGapStep
  try dsimp only
  repeat' first
    | with_reducible exact Stays.refl _ | with_reducible assumption | with_reducible apply done_keeps
    | with_reducible apply gapStep_keeps | with_reducible apply settle_keeps | with_reducible apply stays_done
    | with_reducible exact fun x => x | split | intro _ _ _ | with_reducible exact GlbStays.refl _ | with_reducible rfl
    | with_reducible exact Nat.le_refl _ | (intro _ h; with_reducible exact h) | (intro _; with_reducible rfl)
    | (intro _; with_reducible exact Nat.le_refl _)

theorem execAliasGuardBegin_keeps (ch : Chan) (s : State) : StaysOut s (execAliasGuardBegin ch s) := by
  unfold execAliasGuardBegin
  try dsimp only
  repeat' first
    | with_reducible exact Stays.refl _ | with_reducible apply evt_keeps | with_reducible apply modChan_keeps
    | with_reducible apply raise_keeps | with_reducible apply stays_done | split

theorem stateRule_keeps {s0 : State} (s : State) (hr : s.glb.inReset = false) (hk : Stays s0 s) : Stays s0 (stateRule s) := by
  unfold stateRule
  split
  · rename_i h
    have ho : s.glb.state.rank ≤ DevState.operational.rank := by rw [h.1]; decide
    exact stays_mk hk ⟨rfl, ho, id, id, fun x => by simp [hr] at x⟩ rfl (Nat.le_refl _) id id id id id
  · exact hk

theorem stateRule_base {s0 : State} (s : State) (hk : Base s0 s) : Base s0 (stateRule s) := by
  unfold stateRule
  split
  · exact base_mk hk rfl (Nat.le_refl _) id id id id id
  · exact hk

theorem releaseForwarding_keeps {s0 : State} (s : State) (hr : s.glb.inReset = false) (hs : s.glb.state = .restore) (hk : Stays s0 s) :
    Stays s0 (releaseForwarding s) := by
  have ho : s.glb.state.rank ≤ DevState.fwdReady.rank := by rw [hs]; decide
  exact stateRule_keeps _ hr (hwSet_keeps _ _
    (stays_mk hk ⟨rfl, ho, fun _ => rfl, id, fun x => by simp [hr] at x⟩ rfl (Nat.le_refl _) id id id id id))

theorem releaseForwarding_base {s0 : State} (s : State) (hk : Base s0 s) : Base s0 (releaseForwarding s) :=
  stateRule_base _ ((base_mk hk rfl (Nat.le_refl _) id id id id id).step (hwSet_keeps _ _ (Stays.refl _)))

theorem boundsRule_keeps {s0 : State} (s : State) (hr : s.glb.inReset = false) (hk : Stays s0 s) : Stays s0 (boundsRule s) := by
  unfold boundsRule
  split
  · exact hk
  · have h1 : Stays s0 { s with glb := { s.glb with bounds := true } } :=
      stays_mk hk ⟨rfl, Nat.le_refl _, id, fun _ => rfl, fun x => by simp [hr] at x⟩ rfl (Nat.le_refl _) id id id id id
    have h2 : Stays { s with glb := { s.glb with bounds := true } } ((List.range 8).foldl (fun s b => evt s Ev.BLK_SETTLE_DONE b 0)
        (hwSet { s with glb := { s.glb with bounds := true } } Reg.GLB_SETTLE_TIME
          (BitVec.ofNat 64 (sat 32 ((s.time - s.glb.releasedAt).toNat / 1000000))))) :=
      stays_foldl (fun _ _ h => evt_keeps _ _ _ h) (hwSet_keeps _ _ (Stays.refl _))
    exact stateRule_keeps _ (h2.glb.reset.trans hr) (h1.trans h2)

theorem settleSample_keeps {s0 : State} (s : State) (e : Nat × Decoded) (hk : Stays s0 s) :
    Stays s0 (settleSample s e) := by
  unfold settleSample
  try dsimp only
  repeat' first
    | with_reducible exact hk | with_reducible exact Stays.refl _ | with_reducible assumption
    | with_reducible apply careBad_keeps | with_reducible apply countDecode_keeps | with_reducible apply noteDecode_keeps
    | with_reducible exact fun x => x | split | intro _ _ _ | with_reducible exact GlbStays.refl _ | with_reducible rfl
    | with_reducible exact Nat.le_refl _ | (intro _ h; with_reducible exact h) | (intro _; with_reducible rfl)
    | (intro _; with_reducible exact Nat.le_refl _)

theorem settleCare_keeps {s0 : State} (s : State) (ch : Nat) (ds : List (Nat × Decoded)) (resensed : Nat) (hk : Stays s0 s) :
    Stays s0 (settleCare s ch ds resensed) := by
  unfold settleCare
  try dsimp only
  repeat' first
    | with_reducible exact hk | with_reducible exact Stays.refl _ | with_reducible assumption
    | with_reducible apply blankFail_keeps | with_reducible apply countDecode_keeps | with_reducible apply ownGrant_keeps
    | with_reducible apply settleSample_keeps | with_reducible apply stays_foldl | with_reducible apply stays_foldl_snd
    | with_reducible exact fun x => x | split | intro _ _ _ | with_reducible exact GlbStays.refl _ | with_reducible rfl
    | with_reducible exact Nat.le_refl _ | (intro _ h; with_reducible exact h) | (intro _; with_reducible rfl)
    | (intro _; with_reducible exact Nat.le_refl _)

theorem execSettlingPassDone_keeps (ch : Chan) (samples : List (BitVec 32)) (first again : List ReadOutcome) (s : State) :
    StaysOut s (execSettlingPassDone ch samples first again s) := by
  unfold execSettlingPassDone
  split
  · exact stays_done (Stays.refl _)
  · rename_i h
    have hr : s.glb.inReset = false := by
      have hc : passRuns s ch.val samples = true := by simpa using fun x => h (.inl x)
      simp only [passRuns, coreUp, Bool.and_eq_true, Bool.not_eq_true'] at hc
      exact hc.1.1.1.1.1.1.1.2
    dsimp only
    generalize settleOffset _ _ _ = off
    generalize sampleDecodes _ _ _ _ = ds
    generalize (samplesAgain ds again).length = k
    have h1 : Stays s (settleCare (modChan s ch.val fun c => { c with settled := true, offset := BitVec.ofInt 8 off }) ch.val ds k) :=
      settleCare_keeps _ _ _ _ (modChan_keeps _ _ _ (Stays.refl _))
    generalize settleCare _ _ _ _ = t at h1 ⊢
    refine stays_done (settle_keeps _ (boundsRule_keeps _ ?_ ?_))
    · split
      · exact (raise_keeps _ _ h1).glb.reset.trans hr
      · exact h1.glb.reset.trans hr
    · split
      · exact raise_keeps _ _ h1
      · exact h1

theorem execSettleLate_keeps (s : State) : StaysOut s (execSettleLate s) := by
  unfold execSettleLate
  try dsimp only
  repeat' first
    | with_reducible exact Stays.refl _ | with_reducible assumption | with_reducible apply evt_keeps
    | with_reducible apply raise_keeps | with_reducible apply stays_done | with_reducible apply stays_foldl | split
    | intro _ _ _

theorem execMchWatchdogExpiry_keeps (m : Mch) (s : State) : StaysOut s (execMchWatchdogExpiry m s) := by
  unfold execMchWatchdogExpiry
  try dsimp only
  repeat' first
    | with_reducible exact Stays.refl _ | with_reducible apply mchFail_keeps | with_reducible apply settle_keeps
    | with_reducible apply stays_done | split

theorem execMchDatapathError_keeps (m : Mch) (s : State) : StaysOut s (execMchDatapathError m s) := by
  unfold execMchDatapathError
  try dsimp only
  repeat' first
    | with_reducible exact Stays.refl _ | with_reducible apply mchFail_keeps | with_reducible apply settle_keeps
    | with_reducible apply stays_done | split

theorem forceMch_keeps {s0 : State} (s : State) (m : Mch) (hk : Stays s0 s) :
    Stays s0 (forceMch s m) := by
  unfold forceMch
  try dsimp only
  repeat' first
    | with_reducible exact hk | with_reducible apply mchFail_keeps | split

theorem execMchForceFail_keeps (m : Mch) (s : State) : StaysOut s (execMchForceFail m s) := by
  unfold execMchForceFail
  try dsimp only
  repeat' first
    | with_reducible exact Stays.refl _ | with_reducible assumption | with_reducible apply done_keeps
    | with_reducible apply forceMch_keeps | with_reducible apply settle_keeps | with_reducible apply touch_keeps
    | with_reducible apply stays_done | with_reducible exact fun x => x | split | intro _ _ _
    | with_reducible exact GlbStays.refl _ | with_reducible rfl | with_reducible exact Nat.le_refl _
    | (intro _ h; with_reducible exact h) | (intro _; with_reducible rfl) | (intro _; with_reducible exact Nat.le_refl _)

theorem execDiePortFault_keeps (b : Blank) (die : Fin 18) (s : State) : StaysOut s (execDiePortFault b die s) := by
  unfold execDiePortFault
  try dsimp only
  repeat' first
    | with_reducible exact Stays.refl _ | with_reducible apply dieFail_keeps | with_reducible apply settle_keeps
    | with_reducible apply stays_done | split

theorem execBlankOutage_keeps (b : Blank) (s : State) : StaysOut s (execBlankOutage b s) := by
  unfold execBlankOutage
  try dsimp only
  repeat' first
    | with_reducible exact Stays.refl _ | with_reducible apply evt_keeps | with_reducible apply modBlank_keeps
    | with_reducible apply raise_keeps | with_reducible apply settle_keeps | with_reducible apply stays_done | split

theorem execBlankResetTimeout_keeps (b : Blank) (answers : Bool) (s : State) : StaysOut s (execBlankResetTimeout b answers s) := by
  unfold execBlankResetTimeout
  try dsimp only
  repeat' first
    | with_reducible exact Stays.refl _ | with_reducible assumption | with_reducible apply blankFail_keeps
    | with_reducible apply evt_keeps | with_reducible apply modBlank_keeps | with_reducible apply raise_keeps
    | with_reducible apply restartOps_keeps | with_reducible apply settle_keeps | with_reducible apply stays_done
    | with_reducible apply stays_foldl | split | intro _ _ _

theorem execForcedRekeyStart_keeps (s : State) : StaysOut s (execForcedRekeyStart s) := by
  unfold execForcedRekeyStart
  try dsimp only
  repeat' first
    | with_reducible exact Stays.refl _ | with_reducible apply settle_keeps | with_reducible apply startRekey_keeps
    | with_reducible apply stays_done | split

theorem walkLand_keeps {s0 : State} (s : State) (lsa : Nat) (key : BitVec 256) (data : Option Sector) (hk : Stays s0 s) :
    Stays s0 (walkLand s lsa key data) := by
  unfold walkLand
  try dsimp only
  repeat' first
    | with_reducible exact hk | with_reducible apply hwAdd_keeps | with_reducible apply landProgram_keeps

theorem walkBad_keeps {s0 : State} (s : State) (lsa : Nat) (key : BitVec 256) (lost : Bool) (hk : Stays s0 s) :
    Stays s0 (walkBad s lsa key lost) := by
  unfold walkBad
  try dsimp only
  repeat' first
    | with_reducible exact hk | with_reducible exact Stays.refl _ | with_reducible assumption
    | with_reducible apply askRepair_keeps | with_reducible apply retireSlot_keeps | with_reducible apply setMark_keeps
    | with_reducible apply spareExhausted_keeps | with_reducible apply walkLand_keeps
    | with_reducible refine stays_snd (by assumption) ?_ | with_reducible exact fun x => x | split | intro _ _ _
    | with_reducible exact GlbStays.refl _ | with_reducible rfl | with_reducible exact Nat.le_refl _
    | (intro _ h; with_reducible exact h) | (intro _; with_reducible rfl) | (intro _; with_reducible exact Nat.le_refl _)

theorem walkMedium_keeps {s0 : State} (s : State) (lsa : Nat) (key : BitVec 256) (out : Decoded) (hk : Stays s0 s) :
    Stays s0 (walkMedium s lsa key out) := by
  unfold walkMedium
  try dsimp only
  repeat' first
    | with_reducible exact hk | with_reducible exact Stays.refl _ | with_reducible assumption | with_reducible apply evt_keeps
    | with_reducible apply noteDecode_keeps | with_reducible apply openCount_keeps | with_reducible apply walkBad_keeps
    | with_reducible apply walkLand_keeps | with_reducible exact fun x => x | split | intro _ _ _
    | with_reducible exact GlbStays.refl _ | with_reducible rfl | with_reducible exact Nat.le_refl _
    | (intro _ h; with_reducible exact h) | (intro _; with_reducible rfl) | (intro _; with_reducible exact Nat.le_refl _)

theorem walkSector_keeps {s0 : State} (s : State) (lsa : Nat) (key : BitVec 256) (cells : ReadOutcome) (hk : Stays s0 s) :
    Stays s0 (walkSector s lsa key cells) := by
  unfold walkSector
  try dsimp only
  repeat' first
    | with_reducible exact hk | with_reducible exact Stays.refl _ | with_reducible assumption | intro _ _
    | with_reducible apply beginDrain_keeps | with_reducible apply countDrain_keeps | with_reducible apply countPsi_keeps
    | with_reducible apply coverLost_keeps | with_reducible apply programmed_keeps | with_reducible apply settleSlot_keeps
    | with_reducible apply slotCheck_keeps | with_reducible apply stepProgram_keeps | with_reducible apply walkLand_keeps
    | with_reducible apply walkMedium_keeps | with_reducible exact fun x => x | split | intro _ _ _
    | with_reducible exact GlbStays.refl _ | with_reducible rfl | with_reducible exact Nat.le_refl _
    | (intro _ h; with_reducible exact h) | (intro _; with_reducible rfl) | (intro _; with_reducible exact Nat.le_refl _)

theorem advanceParting_keeps {s0 : State} (s : State) (r : Nat) (k : Rekey) (hk : Stays s0 s) :
    Stays s0 (advanceParting s r k) := by
  unfold advanceParting
  try dsimp only
  repeat' first
    | with_reducible exact hk | with_reducible exact Stays.refl _ | with_reducible assumption
    | with_reducible apply endRekey_keeps | with_reducible apply modRegion_keeps | with_reducible apply saveInner_keeps
    | with_reducible exact fun x => x | split | intro _ _ _ | with_reducible refine stays_mk ?_ ?_ ?_ ?_ ?_ ?_ ?_ ?_ ?_
    | with_reducible exact GlbStays.refl _ | with_reducible rfl | with_reducible exact Nat.le_refl _
    | (intro _ h; with_reducible exact h) | (intro _; with_reducible rfl) | (intro _; with_reducible exact Nat.le_refl _)

theorem execRekeyWalkGroup_keeps (unit : Fin 4) (outs : List ReadOutcome) (s : State) : StaysOut s (execRekeyWalkGroup unit outs s) := by
  unfold execRekeyWalkGroup
  try dsimp only
  repeat' first
    | with_reducible exact Stays.refl _ | with_reducible assumption | with_reducible apply advanceParting_keeps
    | with_reducible apply done_keeps | with_reducible apply settle_keeps | with_reducible apply stepGrant_keeps
    | with_reducible apply walkSector_keeps | with_reducible apply stays_done | with_reducible apply stays_foldl
    | with_reducible apply stays_foldl_fst | with_reducible apply stays_foldl_snd | with_reducible exact fun x => x | split
    | intro _ _ _ | with_reducible exact GlbStays.refl _ | with_reducible rfl | with_reducible exact Nat.le_refl _
    | (intro _ h; with_reducible exact h) | (intro _; with_reducible rfl) | (intro _; with_reducible exact Nat.le_refl _)

theorem execMirPcsLock_keeps (n : MPort) (s : State) : StaysOut s (execMirPcsLock n s) := by
  unfold execMirPcsLock
  try dsimp only
  repeat' first
    | with_reducible exact Stays.refl _ | with_reducible apply modMir_keeps | with_reducible apply raise_keeps
    | with_reducible apply stays_done | split

theorem execMirLinkDown_keeps (n : MPort) (s : State) : StaysOut s (execMirLinkDown n s) := by
  unfold execMirLinkDown
  try dsimp only
  repeat' first
    | with_reducible exact Stays.refl _ | with_reducible apply mirLinkLost_keeps | with_reducible apply settle_keeps
    | with_reducible apply stays_done

theorem mirErr_keeps {s0 : State} (s : State) (n : MPort) (cause : Nat) (hk : Stays s0 s) :
    Stays s0 (mirErr s n cause) := by
  unfold mirErr
  try dsimp only
  repeat' first
    | with_reducible exact hk | with_reducible apply hwSet_keeps

theorem discardFrame_keeps {s0 : State} (s : State) (n : MPort) (cause : RxCause) (hk : Stays s0 s) :
    Stays s0 (discardFrame s n cause) := by
  unfold discardFrame
  try dsimp only
  repeat' first
    | with_reducible exact hk | with_reducible apply hwSat_keeps | with_reducible apply mirErr_keeps
    | with_reducible apply raise_keeps | split

theorem fecSeen_keeps {s0 : State} (s : State) (n : MPort) (v : FecSeen) (hk : Stays s0 s) :
    Stays s0 (fecSeen s n v) := by
  unfold fecSeen
  try dsimp only
  repeat' first
    | with_reducible exact hk | with_reducible exact Stays.refl _ | with_reducible assumption
    | with_reducible apply hwSet_keeps | with_reducible exact fun x => x | split | intro _ _ _
    | with_reducible exact GlbStays.refl _ | with_reducible rfl | with_reducible exact Nat.le_refl _
    | (intro _ h; with_reducible exact h) | (intro _; with_reducible rfl) | (intro _; with_reducible exact Nat.le_refl _)

theorem notePn_keeps {s0 : State} (s : State) (n : MPort) (tag : Option SecTag) (hk : Stays s0 s) :
    Stays s0 (notePn s n tag) := by
  unfold notePn
  try dsimp only
  repeat' first
    | with_reducible exact hk | with_reducible exact Stays.refl _ | with_reducible assumption
    | with_reducible apply modMir_keeps | with_reducible exact fun x => x | split | intro _ _ _
    | with_reducible refine stays_mk ?_ ?_ ?_ ?_ ?_ ?_ ?_ ?_ ?_  | with_reducible exact GlbStays.refl _ | with_reducible rfl
    | with_reducible exact Nat.le_refl _ | (intro _ h; with_reducible exact h) | (intro _; with_reducible rfl)
    | (intro _; with_reducible exact Nat.le_refl _)

theorem frameBad_keeps {s0 : State} (s : State) (f : MirFrame) (c : RxCause) (hk : Stays s0 s) :
    Stays s0 (frameBad s f c) := by
  unfold frameBad
  try dsimp only
  repeat' first
    | with_reducible exact hk | with_reducible exact Stays.refl _ | with_reducible assumption
    | with_reducible apply discardFrame_keeps | with_reducible apply fecSeen_keeps | with_reducible exact fun x => x | split
    | intro _ _ _ | with_reducible exact GlbStays.refl _ | with_reducible rfl | with_reducible exact Nat.le_refl _
    | (intro _ h; with_reducible exact h) | (intro _; with_reducible rfl) | (intro _; with_reducible exact Nat.le_refl _)

theorem frameTaken_keeps {s0 : State} (s : State) (f : MirFrame) (hk : Stays s0 s) :
    Stays s0 (frameTaken s f) := by
  unfold frameTaken
  try dsimp only
  repeat' first
    | with_reducible exact hk | with_reducible exact Stays.refl _ | with_reducible assumption
    | with_reducible apply fecSeen_keeps | with_reducible apply notePn_keeps | with_reducible exact fun x => x | split
    | intro _ _ _ | with_reducible exact GlbStays.refl _ | with_reducible rfl | with_reducible exact Nat.le_refl _
    | (intro _ h; with_reducible exact h) | (intro _; with_reducible rfl) | (intro _; with_reducible exact Nat.le_refl _)

theorem execRxDiscard_keeps (n : MPort) (x : RxFrame) (s : State) : StaysOut s (execRxDiscard n x s) := by
  unfold execRxDiscard
  try dsimp only
  repeat' first
    | with_reducible exact Stays.refl _ | with_reducible assumption | with_reducible apply discardFrame_keeps
    | with_reducible apply done_keeps | with_reducible apply fecSeen_keeps | with_reducible apply stays_done
    | with_reducible exact fun x => x | split | intro _ _ _ | with_reducible exact GlbStays.refl _ | with_reducible rfl
    | with_reducible exact Nat.le_refl _ | (intro _ h; with_reducible exact h) | (intro _; with_reducible rfl)
    | (intro _; with_reducible exact Nat.le_refl _)

theorem freeAcked_keeps {s0 : State} (s : State) (ts : List TxRecord) (hk : Stays s0 s) :
    Stays s0 (freeAcked s ts) := by
  unfold freeAcked
  try dsimp only
  repeat' first
    | with_reducible exact hk | with_reducible exact fun x => x | split
    | with_reducible refine stays_mk ?_ ?_ ?_ ?_ ?_ ?_ ?_ ?_ ?_  | with_reducible exact GlbStays.refl _ | with_reducible rfl

theorem syncHeld_keeps {s0 : State} (s : State) (n : MPort) (hk : Stays s0 s) :
    Stays s0 (syncHeld s n) := by
  unfold syncHeld
  try dsimp only
  repeat' first
    | with_reducible exact hk | with_reducible exact fun x => x | split
    | with_reducible refine stays_mk ?_ ?_ ?_ ?_ ?_ ?_ ?_ ?_ ?_  | with_reducible exact GlbStays.refl _ | with_reducible rfl

theorem leaveOverflow_keeps {s0 : State} (s : State) (n : MPort) (hk : Stays s0 s) :
    Stays s0 (leaveOverflow s n) := by
  unfold leaveOverflow
  try dsimp only
  repeat' first
    | with_reducible exact hk | with_reducible apply modMir_keeps | with_reducible apply startCatchup_keeps | split

theorem dropAcked_keeps {s0 : State} (s : State) (n : MPort) (ackSeq : BitVec 48) (hk : Stays s0 s) :
    Stays s0 (dropAcked s n ackSeq) := by
  unfold dropAcked
  try dsimp only
  repeat' first
    | with_reducible exact hk | with_reducible exact Stays.refl _ | with_reducible assumption
    | with_reducible apply freeAcked_keeps | with_reducible apply modMir_keeps | with_reducible exact fun x => x | split
    | intro _ _ _ | with_reducible refine stays_mk ?_ ?_ ?_ ?_ ?_ ?_ ?_ ?_ ?_  | with_reducible exact GlbStays.refl _
    | with_reducible rfl | with_reducible exact Nat.le_refl _ | (intro _ h; with_reducible exact h)
    | (intro _; with_reducible rfl) | (intro _; with_reducible exact Nat.le_refl _)

theorem afterAck_keeps {s0 : State} (s : State) (n : MPort) (hk : Stays s0 s) :
    Stays s0 (afterAck s n) := by
  unfold afterAck
  try dsimp only
  repeat' first
    | with_reducible exact hk | with_reducible exact Stays.refl _ | with_reducible assumption
    | with_reducible apply leaveOverflow_keeps | with_reducible apply mirPump_keeps | with_reducible apply syncHeld_keeps
    | with_reducible exact fun x => x | split | intro _ _ _ | with_reducible exact GlbStays.refl _ | with_reducible rfl
    | with_reducible exact Nat.le_refl _ | (intro _ h; with_reducible exact h) | (intro _; with_reducible rfl)
    | (intro _; with_reducible exact Nat.le_refl _)

theorem takeAck_keeps {s0 : State} (s : State) (n : MPort) (ackSeq : BitVec 48) (hk : Stays s0 s) :
    Stays s0 (takeAck s n ackSeq) := by
  unfold takeAck
  try dsimp only
  repeat' first
    | with_reducible exact hk | with_reducible exact Stays.refl _ | with_reducible assumption
    | with_reducible apply afterAck_keeps | with_reducible apply dropAcked_keeps | with_reducible exact fun x => x | split
    | intro _ _ _ | with_reducible exact GlbStays.refl _ | with_reducible rfl | with_reducible exact Nat.le_refl _
    | (intro _ h; with_reducible exact h) | (intro _; with_reducible rfl) | (intro _; with_reducible exact Nat.le_refl _)

theorem detach_keeps {s0 : State} (s : State) (n : MPort) (r : Nat) (hk : Stays s0 s) :
    Stays s0 (detach s n r) := by
  unfold detach
  try dsimp only
  repeat' first
    | with_reducible exact hk | with_reducible apply modMir_keeps | with_reducible apply modMirRegion_keeps | split

theorem ackIn_keeps {s0 : State} (s : State) (n : MPort) (ackSeq : BitVec 48) (refused : List (BitVec 9)) (hk : Stays s0 s) :
    Stays s0 (ackIn s n ackSeq refused) := by
  unfold ackIn
  try dsimp only
  repeat' first
    | with_reducible exact hk | with_reducible exact Stays.refl _ | with_reducible assumption
    | with_reducible apply detach_keeps | with_reducible apply reachSync_keeps | with_reducible apply takeAck_keeps
    | with_reducible apply stays_foldl | with_reducible exact fun x => x | split | intro _ _ _
    | with_reducible exact GlbStays.refl _ | with_reducible rfl | with_reducible exact Nat.le_refl _
    | (intro _ h; with_reducible exact h) | (intro _; with_reducible rfl) | (intro _; with_reducible exact Nat.le_refl _)

theorem execAck_keeps (f : MirFrame) (ackSeq : BitVec 48) (refused : List (BitVec 9)) (s : State) : StaysOut s (execAck f ackSeq refused s) := by
  unfold execAck
  try dsimp only
  repeat' first
    | with_reducible exact Stays.refl _ | with_reducible assumption | with_reducible apply ackIn_keeps
    | with_reducible apply done_keeps | with_reducible apply frameBad_keeps | with_reducible apply frameTaken_keeps
    | with_reducible apply settle_keeps | with_reducible apply stays_done | with_reducible exact fun x => x | split
    | intro _ _ _ | with_reducible exact GlbStays.refl _ | with_reducible rfl | with_reducible exact Nat.le_refl _
    | (intro _ h; with_reducible exact h) | (intro _; with_reducible rfl) | (intro _; with_reducible exact Nat.le_refl _)

theorem resend_keeps {s0 : State} (s : State) (n : MPort) (hk : Stays s0 s) :
    Stays s0 (resend s n) := by
  unfold resend
  try dsimp only
  repeat' first
    | with_reducible exact hk | with_reducible exact Stays.refl _ | with_reducible assumption
    | with_reducible apply hwSat_keeps | with_reducible apply pmcCount_keeps | with_reducible apply sendRecords_keeps
    | with_reducible exact fun x => x | split | intro _ _ _ | with_reducible exact GlbStays.refl _ | with_reducible rfl
    | with_reducible exact Nat.le_refl _ | (intro _ h; with_reducible exact h) | (intro _; with_reducible rfl)
    | (intro _; with_reducible exact Nat.le_refl _)

theorem nakIn_keeps {s0 : State} (s : State) (n : MPort) (ackSeq : BitVec 48) (hk : Stays s0 s) :
    Stays s0 (nakIn s n ackSeq) := by
  unfold nakIn
  try dsimp only
  repeat' first
    | with_reducible exact hk | with_reducible exact Stays.refl _ | with_reducible assumption
    | with_reducible apply afterAck_keeps | with_reducible apply dropAcked_keeps | with_reducible apply resend_keeps
    | with_reducible exact fun x => x | split | intro _ _ _ | with_reducible exact GlbStays.refl _ | with_reducible rfl
    | with_reducible exact Nat.le_refl _ | (intro _ h; with_reducible exact h) | (intro _; with_reducible rfl)
    | (intro _; with_reducible exact Nat.le_refl _)

theorem execNak_keeps (f : MirFrame) (ackSeq : BitVec 48) (s : State) : StaysOut s (execNak f ackSeq s) := by
  unfold execNak
  try dsimp only
  repeat' first
    | with_reducible exact Stays.refl _ | with_reducible assumption | with_reducible apply done_keeps
    | with_reducible apply frameBad_keeps | with_reducible apply frameTaken_keeps | with_reducible apply nakIn_keeps
    | with_reducible apply settle_keeps | with_reducible apply stays_done | with_reducible exact fun x => x | split
    | intro _ _ _ | with_reducible exact GlbStays.refl _ | with_reducible rfl | with_reducible exact Nat.le_refl _
    | (intro _ h; with_reducible exact h) | (intro _; with_reducible rfl) | (intro _; with_reducible exact Nat.le_refl _)

theorem takeRecords_keeps {s0 : State} (s : State) (n : MPort) (seq : BitVec 48) (l : List Record) (hk : Stays s0 s) :
    Stays s0 (takeRecords s n seq l).2 := by
  induction l generalizing s seq with
  | nil => exact hk
  | cons r rs ih =>
    unfold takeRecords
    dsimp only
    split
    · split
      · exact hk
      · refine ih _ _ ?_
        split
        · exact applyInbox_keeps _ _ _ (modMir_keeps _ _ _ hk)
        · exact modMir_keeps _ _ _ hk
    · split
      · exact ih _ _ hk
      · exact hk

theorem dataIn_keeps {s0 : State} (s : State) (n : MPort) (seq : BitVec 48) (ackSeq : BitVec 48) (records : List Record) (hk : Stays s0 s) :
    Stays s0 (dataIn s n seq ackSeq records) := by
  unfold dataIn
  try dsimp only
  repeat' first
    | with_reducible exact hk | with_reducible exact Stays.refl _ | with_reducible assumption
    | with_reducible apply mirErr_keeps | with_reducible apply sendNote_keeps | with_reducible apply takeAck_keeps
    | with_reducible apply takeRecords_keeps | with_reducible refine stays_snd (by assumption) ?_
    | with_reducible exact fun x => x | split | intro _ _ _ | with_reducible exact GlbStays.refl _ | with_reducible rfl
    | with_reducible exact Nat.le_refl _ | (intro _ h; with_reducible exact h) | (intro _; with_reducible rfl)
    | (intro _; with_reducible exact Nat.le_refl _)

theorem execData_keeps (f : MirFrame) (seq : BitVec 48) (ackSeq : BitVec 48) (records : List Record) (s : State) : StaysOut s (execData f seq ackSeq records s) := by
  unfold execData
  try dsimp only
  repeat' first
    | with_reducible exact Stays.refl _ | with_reducible assumption | with_reducible apply dataIn_keeps
    | with_reducible apply done_keeps | with_reducible apply frameBad_keeps | with_reducible apply frameTaken_keeps
    | with_reducible apply settle_keeps | with_reducible apply stays_done | with_reducible exact fun x => x | split
    | intro _ _ _ | with_reducible exact GlbStays.refl _ | with_reducible rfl | with_reducible exact Nat.le_refl _
    | (intro _ h; with_reducible exact h) | (intro _; with_reducible rfl) | (intro _; with_reducible exact Nat.le_refl _)

theorem freshRx_keeps {s0 : State} (s : State) (n : MPort) (seq : BitVec 48) (hk : Stays s0 s) :
    Stays s0 (freshRx s n seq) := by
  unfold freshRx
  try dsimp only
  repeat' first
    | with_reducible exact hk | with_reducible apply modMir_keeps | with_reducible apply modSeal_keeps
    | with_reducible exact fun x => x | with_reducible refine stays_mk ?_ ?_ ?_ ?_ ?_ ?_ ?_ ?_ ?_
    | with_reducible exact GlbStays.refl _ | with_reducible rfl

theorem discardOut_keeps {s0 : State} (s : State) (n : MPort) (hk : Stays s0 s) :
    Stays s0 (discardOut s n) := by
  unfold discardOut
  try dsimp only
  repeat' first
    | with_reducible exact hk | with_reducible exact Stays.refl _ | with_reducible assumption
    | with_reducible apply markStale_keeps | with_reducible apply modMir_keeps | with_reducible exact fun x => x | split
    | intro _ _ _ | with_reducible refine stays_mk ?_ ?_ ?_ ?_ ?_ ?_ ?_ ?_ ?_  | with_reducible exact GlbStays.refl _
    | with_reducible rfl | with_reducible exact Nat.le_refl _ | (intro _ h; with_reducible exact h)
    | (intro _; with_reducible rfl) | (intro _; with_reducible exact Nat.le_refl _)

theorem takeOther_keeps {s0 : State} (s : State) (n : MPort) (hk : Stays s0 s) :
    Stays s0 (takeOther s n) := by
  unfold takeOther
  try dsimp only
  repeat' first
    | with_reducible exact hk | with_reducible exact Stays.refl _ | with_reducible assumption
    | with_reducible apply moveOver_keeps | with_reducible exact fun x => x | split | intro _ _ _
    | with_reducible exact GlbStays.refl _ | with_reducible rfl | with_reducible exact Nat.le_refl _
    | (intro _ h; with_reducible exact h) | (intro _; with_reducible rfl) | (intro _; with_reducible exact Nat.le_refl _)

theorem askAll_keeps {s0 : State} (s : State) (hk : Stays s0 s) :
    Stays s0 (askAll s) := by
  unfold askAll
  try dsimp only
  repeat' first
    | with_reducible exact hk | with_reducible exact Stays.refl _ | with_reducible assumption
    | with_reducible apply askSeeds_keeps | with_reducible exact fun x => x | split | intro _ _ _
    | with_reducible refine stays_mk ?_ ?_ ?_ ?_ ?_ ?_ ?_ ?_ ?_  | with_reducible exact GlbStays.refl _ | with_reducible rfl
    | with_reducible exact Nat.le_refl _ | (intro _ h; with_reducible exact h) | (intro _; with_reducible rfl)
    | (intro _; with_reducible exact Nat.le_refl _)

theorem freshSession_keeps {s0 : State} (s : State) (n : MPort) (f : HelloFrame) (retained : BitVec 48) (hk : Stays s0 s) :
    Stays s0 (freshSession s n f retained) := by
  unfold freshSession
  try dsimp only
  repeat' first
    | with_reducible exact hk | with_reducible exact Stays.refl _ | with_reducible assumption
    | with_reducible apply discardOut_keeps | with_reducible apply freshRx_keeps | with_reducible apply modMir_keeps
    | with_reducible apply modMirRegion_keeps | with_reducible apply stays_foldl | with_reducible exact fun x => x | split
    | intro _ _ _ | with_reducible refine stays_mk ?_ ?_ ?_ ?_ ?_ ?_ ?_ ?_ ?_  | with_reducible exact GlbStays.refl _
    | with_reducible rfl | with_reducible exact Nat.le_refl _ | (intro _ h; with_reducible exact h)
    | (intro _; with_reducible rfl) | (intro _; with_reducible exact Nat.le_refl _)

theorem newSession_keeps {s0 : State} (s : State) (n : MPort) (hk : Stays s0 s) :
    Stays s0 (newSession s n) := by
  unfold newSession
  try dsimp only
  repeat' first
    | with_reducible exact hk | with_reducible exact Stays.refl _ | with_reducible assumption
    | with_reducible apply askAll_keeps | with_reducible apply askSeeds_keeps | with_reducible apply startCatchup_keeps
    | with_reducible apply takeOther_keeps | with_reducible exact fun x => x | split | intro _ _ _
    | with_reducible exact GlbStays.refl _ | with_reducible rfl | with_reducible exact Nat.le_refl _
    | (intro _ h; with_reducible exact h) | (intro _; with_reducible rfl) | (intro _; with_reducible exact Nat.le_refl _)

theorem resumeSession_keeps {s0 : State} (s : State) (n : MPort) (f : HelloFrame) (hk : Stays s0 s) :
    Stays s0 (resumeSession s n f) := by
  unfold resumeSession
  try dsimp only
  repeat' first
    | with_reducible exact hk | with_reducible exact Stays.refl _ | with_reducible assumption
    | with_reducible apply afterAck_keeps | with_reducible apply askAll_keeps | with_reducible apply dropAcked_keeps
    | with_reducible apply reachSync_keeps | with_reducible apply resend_keeps | with_reducible apply takeOther_keeps
    | with_reducible exact fun x => x | split | intro _ _ _ | with_reducible exact GlbStays.refl _ | with_reducible rfl
    | with_reducible exact Nat.le_refl _ | (intro _ h; with_reducible exact h) | (intro _; with_reducible rfl)
    | (intro _; with_reducible exact Nat.le_refl _)

theorem startSession_keeps {s0 : State} (s : State) (n : MPort) (f : HelloFrame) (retained : BitVec 48) (hk : Stays s0 s) :
    Stays s0 (startSession s n f retained) := by
  unfold startSession
  try dsimp only
  repeat' first
    | with_reducible exact hk | with_reducible exact Stays.refl _ | with_reducible assumption
    | with_reducible apply freshSession_keeps | with_reducible apply modMir_keeps | with_reducible apply newSession_keeps
    | with_reducible apply raise_keeps | with_reducible apply resumeSession_keeps | with_reducible apply sendNote_keeps
    | with_reducible exact fun x => x | split | intro _ _ _ | with_reducible refine stays_mk ?_ ?_ ?_ ?_ ?_ ?_ ?_ ?_ ?_
    | with_reducible exact GlbStays.refl _ | with_reducible rfl | with_reducible exact Nat.le_refl _
    | (intro _ h; with_reducible exact h) | (intro _; with_reducible rfl) | (intro _; with_reducible exact Nat.le_refl _)

theorem adopt_keeps {s0 : State} (s : State) (gen : BitVec 16) (hk : Stays s0 s) :
    Stays s0 (adopt s gen) := by
  unfold adopt
  try dsimp only
  repeat' first
    | with_reducible exact hk | with_reducible exact Stays.refl _ | with_reducible assumption
    | with_reducible apply modMir_keeps | with_reducible exact fun x => x | split | intro _ _ _
    | with_reducible refine stays_mk ?_ ?_ ?_ ?_ ?_ ?_ ?_ ?_ ?_  | with_reducible exact GlbStays.refl _ | with_reducible rfl
    | with_reducible exact Nat.le_refl _ | (intro _ h; with_reducible exact h) | (intro _; with_reducible rfl)
    | (intro _; with_reducible exact Nat.le_refl _)

theorem helloFits_keeps {s0 : State} (s : State) (n : MPort) (f : HelloFrame) (hk : Stays s0 s) :
    Stays s0 (helloFits s n f) := by
  unfold helloFits
  try dsimp only
  repeat' first
    | with_reducible exact hk | with_reducible exact Stays.refl _ | with_reducible assumption
    | with_reducible apply startSession_keeps | with_reducible apply takeAck_keeps | with_reducible exact fun x => x | split
    | intro _ _ _ | with_reducible exact GlbStays.refl _ | with_reducible rfl | with_reducible exact Nat.le_refl _
    | (intro _ h; with_reducible exact h) | (intro _; with_reducible rfl) | (intro _; with_reducible exact Nat.le_refl _)

theorem helloIn_keeps {s0 : State} (s : State) (n : MPort) (f : HelloFrame) (hk : Stays s0 s) :
    Stays s0 (helloIn s n f) := by
  unfold helloIn
  try dsimp only
  repeat' first
    | with_reducible exact hk | with_reducible exact Stays.refl _ | with_reducible assumption
    | with_reducible apply adopt_keeps | with_reducible apply helloFits_keeps | with_reducible apply mirErr_keeps
    | with_reducible exact fun x => x | split | intro _ _ _ | with_reducible exact GlbStays.refl _ | with_reducible rfl
    | with_reducible exact Nat.le_refl _ | (intro _ h; with_reducible exact h) | (intro _; with_reducible rfl)
    | (intro _; with_reducible exact Nat.le_refl _)

theorem execHello_keeps (f : MirFrame) (b : HelloFrame) (s : State) : StaysOut s (execHello f b s) := by
  unfold execHello
  try dsimp only
  repeat' first
    | with_reducible exact Stays.refl _ | with_reducible assumption | with_reducible apply done_keeps
    | with_reducible apply frameBad_keeps | with_reducible apply frameTaken_keeps | with_reducible apply helloIn_keeps
    | with_reducible apply settle_keeps | with_reducible apply stays_done | with_reducible exact fun x => x | split
    | intro _ _ _ | with_reducible exact GlbStays.refl _ | with_reducible rfl | with_reducible exact Nat.le_refl _
    | (intro _ h; with_reducible exact h) | (intro _; with_reducible rfl) | (intro _; with_reducible exact Nat.le_refl _)

theorem execHelloTimer_keeps (n : MPort) (s : State) : StaysOut s (execHelloTimer n s) := by
  unfold execHelloTimer
  try dsimp only
  repeat' first
    | with_reducible exact Stays.refl _ | with_reducible assumption | with_reducible apply done_keeps
    | with_reducible apply modMir_keeps | with_reducible apply sendNote_keeps | with_reducible apply stays_done
    | with_reducible exact fun x => x | split | intro _ _ _ | with_reducible refine stays_mk ?_ ?_ ?_ ?_ ?_ ?_ ?_ ?_ ?_
    | with_reducible exact GlbStays.refl _ | with_reducible rfl | with_reducible exact Nat.le_refl _
    | (intro _ h; with_reducible exact h) | (intro _; with_reducible rfl) | (intro _; with_reducible exact Nat.le_refl _)

theorem execSessionLossTimeout_keeps (n : MPort) (s : State) : StaysOut s (execSessionLossTimeout n s) := by
  unfold execSessionLossTimeout
  try dsimp only
  repeat' first
    | with_reducible exact Stays.refl _ | with_reducible apply endSession_keeps | with_reducible apply settle_keeps
    | with_reducible apply stays_done

theorem regionStateIn_keeps {s0 : State} (s : State) (n : MPort) (ackSeq : BitVec 48) (body : List Byte) (hk : Stays s0 s) :
    Stays s0 (regionStateIn s n ackSeq body) := by
  unfold regionStateIn
  try dsimp only
  repeat' first
    | with_reducible exact hk | with_reducible exact Stays.refl _ | with_reducible assumption
    | with_reducible apply takeAck_keeps | with_reducible exact fun x => x | split | intro _ _ _
    | with_reducible refine stays_mk ?_ ?_ ?_ ?_ ?_ ?_ ?_ ?_ ?_  | with_reducible exact GlbStays.refl _ | with_reducible rfl
    | with_reducible exact Nat.le_refl _ | (intro _ h; with_reducible exact h) | (intro _; with_reducible rfl)
    | (intro _; with_reducible exact Nat.le_refl _)

theorem execRegionState_keeps (f : MirFrame) (body : BitVec 48 × List Byte) (s : State) : StaysOut s (execRegionState f body s) := by
  unfold execRegionState
  try dsimp only
  repeat' first
    | with_reducible exact Stays.refl _ | with_reducible assumption | with_reducible apply done_keeps
    | with_reducible apply frameBad_keeps | with_reducible apply frameTaken_keeps | with_reducible apply regionStateIn_keeps
    | with_reducible apply settle_keeps | with_reducible apply stays_done | with_reducible exact fun x => x | split
    | intro _ _ _ | with_reducible exact GlbStays.refl _ | with_reducible rfl | with_reducible exact Nat.le_refl _
    | (intro _ h; with_reducible exact h) | (intro _; with_reducible rfl) | (intro _; with_reducible exact Nat.le_refl _)

theorem execRegionStateTimer_keeps (n : MPort) (s : State) : StaysOut s (execRegionStateTimer n s) := by
  unfold execRegionStateTimer
  split
  · exact stays_done (sendNote_keeps _ _ _ (Stays.refl _))
  · exact stays_done (Stays.refl _)

theorem execIntentBitmapProgramDone_keeps (s : State) : StaysOut s (execIntentBitmapProgramDone s) := by
  unfold execIntentBitmapProgramDone
  try dsimp only
  repeat' first
    | with_reducible exact Stays.refl _ | with_reducible assumption | with_reducible apply done_keeps
    | with_reducible apply saveInner_keeps | with_reducible apply settle_keeps | with_reducible apply stays_done
    | with_reducible apply stays_foldl | with_reducible exact fun x => x | split | intro _ _ _
    | with_reducible refine stays_mk ?_ ?_ ?_ ?_ ?_ ?_ ?_ ?_ ?_  | with_reducible exact GlbStays.refl _ | with_reducible rfl
    | with_reducible exact Nat.le_refl _ | (intro _ h; with_reducible exact h) | (intro _; with_reducible rfl)
    | (intro _; with_reducible exact Nat.le_refl _)

theorem execIntentBitClear_keeps (region : BitVec 9) (extent : BitVec 9) (s : State) : StaysOut s (execIntentBitClear region extent s) := by
  unfold execIntentBitClear
  try dsimp only
  repeat' first
    | with_reducible exact Stays.refl _ | with_reducible assumption | with_reducible apply done_keeps
    | with_reducible apply saveInner_keeps | with_reducible apply settle_keeps | with_reducible apply stays_done
    | with_reducible exact fun x => x | split | intro _ _ _ | with_reducible refine stays_mk ?_ ?_ ?_ ?_ ?_ ?_ ?_ ?_ ?_
    | with_reducible exact GlbStays.refl _ | with_reducible rfl | with_reducible exact Nat.le_refl _
    | (intro _ h; with_reducible exact h) | (intro _; with_reducible rfl) | (intro _; with_reducible exact Nat.le_refl _)

theorem mateMedium_keeps {s0 : State} (s : State) (lsa : Nat) (cells : ReadOutcome) (hk : Stays s0 s) :
    Stays s0 (mateMedium s lsa cells).2 := by
  unfold mateMedium
  try dsimp only
  repeat' first
    | with_reducible exact hk | with_reducible exact Stays.refl _ | with_reducible assumption
    | with_reducible apply markerCare_keeps | with_reducible apply noteDecode_keeps | with_reducible apply openCount_keeps
    | with_reducible apply readBad_keeps | with_reducible apply stepGrant_keeps
    | with_reducible refine stays_snd (by assumption) ?_ | with_reducible exact fun x => x | split | intro _ _ _
    | with_reducible exact GlbStays.refl _ | with_reducible rfl | with_reducible exact Nat.le_refl _
    | (intro _ h; with_reducible exact h) | (intro _; with_reducible rfl) | (intro _; with_reducible exact Nat.le_refl _)

theorem mateRead_keeps {s0 : State} (s : State) (lsa : Nat) (out : ReadOutcome) (hk : Stays s0 s) :
    Stays s0 (mateRead s lsa out).2 := by
  unfold mateRead
  try dsimp only
  repeat' first
    | with_reducible exact hk | with_reducible apply mateMedium_keeps | with_reducible apply probe_keeps
    | with_reducible refine stays_snd (by assumption) ?_ | split

theorem supplyOne_keeps {s0 : State} (s : State) (n : MPort) (pa : PA) (hk : Stays s0 s) :
    Stays s0 (supplyOne s n pa) := by
  unfold supplyOne
  try dsimp only
  repeat' first
    | with_reducible exact hk | with_reducible exact Stays.refl _ | with_reducible assumption
    | with_reducible apply addReq_keeps | with_reducible apply askMedium_keeps | with_reducible apply probe_keeps
    | with_reducible apply sendRepair_keeps | with_reducible refine stays_snd (by assumption) ?_
    | with_reducible exact fun x => x | split | intro _ _ _ | with_reducible exact GlbStays.refl _ | with_reducible rfl
    | with_reducible exact Nat.le_refl _ | (intro _ h; with_reducible exact h) | (intro _; with_reducible rfl)
    | (intro _; with_reducible exact Nat.le_refl _)

theorem repairIn_keeps {s0 : State} (s : State) (n : MPort) (ackSeq : BitVec 48) (pas : List PA) (hk : Stays s0 s) :
    Stays s0 (repairIn s n ackSeq pas) := by
  unfold repairIn
  try dsimp only
  repeat' first
    | with_reducible exact hk | with_reducible exact Stays.refl _ | with_reducible assumption
    | with_reducible apply supplyOne_keeps | with_reducible apply takeAck_keeps | with_reducible apply stays_foldl
    | with_reducible exact fun x => x | split | intro _ _ _ | with_reducible exact GlbStays.refl _ | with_reducible rfl
    | with_reducible exact Nat.le_refl _ | (intro _ h; with_reducible exact h) | (intro _; with_reducible rfl)
    | (intro _; with_reducible exact Nat.le_refl _)

theorem execRepairReq_keeps (f : MirFrame) (pas : BitVec 48 × List PA) (s : State) : StaysOut s (execRepairReq f pas s) := by
  unfold execRepairReq
  try dsimp only
  repeat' first
    | with_reducible exact Stays.refl _ | with_reducible assumption | with_reducible apply done_keeps
    | with_reducible apply frameBad_keeps | with_reducible apply frameTaken_keeps | with_reducible apply repairIn_keeps
    | with_reducible apply settle_keeps | with_reducible apply stays_done | with_reducible exact fun x => x | split
    | intro _ _ _ | with_reducible exact GlbStays.refl _ | with_reducible rfl | with_reducible exact Nat.le_refl _
    | (intro _ h; with_reducible exact h) | (intro _; with_reducible rfl) | (intro _; with_reducible exact Nat.le_refl _)

theorem seedReqIn_keeps {s0 : State} (s : State) (n : MPort) (ackSeq : BitVec 48) (regions : List (BitVec 9)) (hk : Stays s0 s) :
    Stays s0 (seedReqIn s n ackSeq regions) := by
  unfold seedReqIn
  try dsimp only
  repeat' first
    | with_reducible exact hk | with_reducible exact Stays.refl _ | with_reducible assumption
    | with_reducible apply askSeed_keeps | with_reducible apply takeAck_keeps | with_reducible apply stays_foldl
    | with_reducible exact fun x => x | split | intro _ _ _ | with_reducible exact GlbStays.refl _ | with_reducible rfl
    | with_reducible exact Nat.le_refl _ | (intro _ h; with_reducible exact h) | (intro _; with_reducible rfl)
    | (intro _; with_reducible exact Nat.le_refl _)

theorem execSeedReq_keeps (f : MirFrame) (regions : BitVec 48 × List (BitVec 9)) (s : State) : StaysOut s (execSeedReq f regions s) := by
  unfold execSeedReq
  try dsimp only
  repeat' first
    | with_reducible exact Stays.refl _ | with_reducible assumption | with_reducible apply done_keeps
    | with_reducible apply frameBad_keeps | with_reducible apply frameTaken_keeps | with_reducible apply seedReqIn_keeps
    | with_reducible apply settle_keeps | with_reducible apply stays_done | with_reducible exact fun x => x | split
    | intro _ _ _ | with_reducible exact GlbStays.refl _ | with_reducible rfl | with_reducible exact Nat.le_refl _
    | (intro _ h; with_reducible exact h) | (intro _; with_reducible rfl) | (intro _; with_reducible exact Nat.le_refl _)

theorem skipExtent_keeps {s0 : State} (s : State) (n : MPort) (hk : Stays s0 s) :
    Stays s0 (skipExtent s n) := by
  unfold skipExtent
  try dsimp only
  repeat' first
    | with_reducible exact hk | with_reducible apply modMir_keeps

theorem handExtent_keeps {s0 : State} (s : State) (n : MPort) (o : MPort) (key : Nat) (hk : Stays s0 s) :
    Stays s0 (handExtent s n o key) := by
  unfold handExtent
  try dsimp only
  repeat' first
    | with_reducible exact hk | with_reducible exact Stays.refl _ | with_reducible assumption
    | with_reducible apply modMir_keeps | with_reducible apply skipExtent_keeps | with_reducible exact fun x => x | split
    | intro _ _ _ | with_reducible refine stays_mk ?_ ?_ ?_ ?_ ?_ ?_ ?_ ?_ ?_  | with_reducible exact GlbStays.refl _
    | with_reducible rfl | with_reducible exact Nat.le_refl _ | (intro _ h; with_reducible exact h)
    | (intro _; with_reducible rfl) | (intro _; with_reducible exact Nat.le_refl _)

theorem handSeed_keeps {s0 : State} (s : State) (n : MPort) (o : MPort) (d : SeedOut) (hk : Stays s0 s) :
    Stays s0 (handSeed s n o d) := by
  unfold handSeed
  try dsimp only
  repeat' first
    | with_reducible exact hk | with_reducible exact Stays.refl _ | with_reducible assumption
    | with_reducible apply modMir_keeps | with_reducible exact fun x => x | split | intro _ _ _
    | with_reducible refine stays_mk ?_ ?_ ?_ ?_ ?_ ?_ ?_ ?_ ?_  | with_reducible exact GlbStays.refl _ | with_reducible rfl
    | with_reducible exact Nat.le_refl _ | (intro _ h; with_reducible exact h) | (intro _; with_reducible rfl)
    | (intro _; with_reducible exact Nat.le_refl _)

theorem execCatchupSector_keeps (n : MPort) (out : ReadOutcome) (s : State) : StaysOut s (execCatchupSector n out s) := by
  unfold execCatchupSector
  dsimp only
  split
  · exact stays_done (Stays.refl _)
  · split
    · exact stays_done (Stays.refl _)
    · split
      · exact stays_done (settle_keeps _ (reachSync_keeps _ _ (skipExtent_keeps _ _ (Stays.refl _))))
      · split
        · exact stays_done (settle_keeps _ (reachSync_keeps _ _ (handExtent_keeps _ _ _ _ (Stays.refl _))))
        · split
          · exact stays_done (Stays.refl _)
          · have h (lsa : Nat) (r : Record) : Stays s (mirSend (modMir (mateRead s lsa out).2 n fun x => { x with catchAt := x.catchAt + 1 })
                n r none) := mirSend_keeps _ _ _ _ (modMir_keeps _ _ _ (mateRead_keeps _ _ _ (Stays.refl _)))
            split
            · exact stays_done (settle_keeps _ (reachSync_keeps _ _ (skipExtent_keeps _ _ (h _ _))))
            · exact stays_done (settle_keeps _ (h _ _))

theorem execSeedSectorSend_keeps (n : MPort) (out : ReadOutcome) (s : State) : StaysOut s (execSeedSectorSend n out s) := by
  unfold execSeedSectorSend
  split
  · exact stays_done (Stays.refl _)
  · dsimp only
    split
    · exact stays_done (settle_keeps _ (modMir_keeps _ _ _ (Stays.refl _)))
    · split
      · exact stays_done (settle_keeps _ (handSeed_keeps _ _ _ _ (Stays.refl _)))
      · split
        · exact stays_done (Stays.refl _)
        · have h (lsa : Nat) (r : Record) : Stays s (mirSend (mateRead s lsa out).2 n r none) :=
            mirSend_keeps _ _ _ _ (mateRead_keeps _ _ _ (Stays.refl _))
          split
          · exact stays_done (settle_keeps _ (modMir_keeps _ _ _ (h _ _)))
          · exact stays_done (settle_keeps _ (mirSend_keeps _ _ _ _ (modMir_keeps _ _ _ (h _ _))))

end Sys2Proof.Machine
end

