-- ==== Sys2Proof/Laws/KeepsF.lean ====
section
/-! SUPPORT. What every command keeps, operation by operation: ResetOps, Boot, CfgSpace, Rails, Endpoint, HostLink. -/

namespace Sys2Proof.Machine

theorem putArea_keeps {s0 : State} (s : State) (a : CommitArea) (hk : Stays s0 s) :
    Stays s0 (putArea s a) := by
  unfold putArea
  try dsimp only
  repeat' first
    | with_reducible exact hk | with_reducible exact Stays.refl _ | with_reducible assumption
    | with_reducible apply countSeal_keeps | with_reducible apply domPrograms_keeps | with_reducible apply modDbq_keeps
    | with_reducible apply takeCounts_keeps | with_reducible apply stays_foldl | with_reducible exact fun x => x | split
    | intro _ _ _ | with_reducible refine stays_mk ?_ ?_ ?_ ?_ ?_ ?_ ?_ ?_ ?_  | with_reducible exact GlbStays.refl _
    | with_reducible rfl | with_reducible exact Nat.le_refl _ | (intro _ h; with_reducible exact h)
    | (intro _; with_reducible rfl) | (intro _; with_reducible exact Nat.le_refl _)

theorem intentSave_keeps {s0 : State} (s : State) (hk : Stays s0 s) :
    Stays s0 (intentSave s) := by
  unfold intentSave
  try dsimp only
  repeat' first
    | with_reducible exact hk | with_reducible exact Stays.refl _ | with_reducible assumption
    | with_reducible apply saveBytes_keeps | with_reducible apply stays_foldl | with_reducible exact fun x => x | split
    | intro _ _ _ | with_reducible refine stays_mk ?_ ?_ ?_ ?_ ?_ ?_ ?_ ?_ ?_  | with_reducible exact GlbStays.refl _
    | with_reducible rfl | with_reducible exact Nat.le_refl _ | (intro _ h; with_reducible exact h)
    | (intro _; with_reducible rfl) | (intro _; with_reducible exact Nat.le_refl _)

theorem chargedCheck_keeps {s0 : State} (s : State) (hk : Stays s0 s) :
    Stays s0 (chargedCheck s) := by
  unfold chargedCheck
  try dsimp only
  repeat' first
    | with_reducible exact hk | with_reducible exact Stays.refl _ | with_reducible assumption
    | with_reducible apply slotCheck_keeps | with_reducible apply stays_foldl | with_reducible apply stays_foldl_fst
    | with_reducible apply stays_foldl_snd | with_reducible exact fun x => x | split | intro _ _ _
    | with_reducible exact GlbStays.refl _ | with_reducible rfl | with_reducible exact Nat.le_refl _
    | (intro _ h; with_reducible exact h) | (intro _; with_reducible rfl) | (intro _; with_reducible exact Nat.le_refl _)

theorem completeArea_keeps {s0 : State} (s : State) (us : BitVec 32) (hk : Stays s0 s) :
    Stays s0 (completeArea s us) := by
  unfold completeArea
  try dsimp only
  repeat' first
    | with_reducible exact hk | with_reducible exact Stays.refl _ | with_reducible assumption
    | with_reducible apply chargedCheck_keeps | with_reducible apply intentSave_keeps | with_reducible apply putArea_keeps
    | with_reducible exact fun x => x | split | intro _ _ _ | with_reducible exact GlbStays.refl _ | with_reducible rfl
    | with_reducible exact Nat.le_refl _ | (intro _ h; with_reducible exact h) | (intro _; with_reducible rfl)
    | (intro _; with_reducible exact Nat.le_refl _)

theorem tearCommit_keeps {s0 : State} (s : State) (p : CommitProgress) (hk : Stays s0 s) :
    Stays s0 (tearCommit s p) := by
  unfold tearCommit
  try dsimp only
  repeat' first
    | with_reducible exact hk | with_reducible exact Stays.refl _ | with_reducible assumption
    | with_reducible apply putArea_keeps | with_reducible exact fun x => x | split | intro _ _ _
    | with_reducible exact GlbStays.refl _ | with_reducible rfl | with_reducible exact Nat.le_refl _
    | (intro _ h; with_reducible exact h) | (intro _; with_reducible rfl) | (intro _; with_reducible exact Nat.le_refl _)

theorem cutCommit_keeps {s0 : State} (s : State) (hk : Stays s0 s) :
    Stays s0 (cutCommit s) := by
  unfold cutCommit
  try dsimp only
  repeat' first
    | with_reducible exact hk | with_reducible apply freeNext_keeps | with_reducible apply tearCommit_keeps | split

theorem regsAfter_wf (kind : ResetKind) (m : FMap Word64) : fwf (regsAfter kind m) = true := by
  have key : ∀ a : FMap Word64, fwf a = true → fwf (m.foldl (fun a e =>
      if inSeqWindow e.1 then fput a e.1 e.2
      else if kind = .warm then
        match regAt e.1 with
        | some r => fputD a e.1 (regReset e.1) ((e.2 &&& r.rws) ||| (regReset e.1 &&& ~~~ r.rws))
        | none => a
      else a) a) = true := by
    induction m with
    | nil => exact fun a h => h
    | cons e m ih =>
      intro a h
      rw [List.foldl_cons]
      apply ih
      split
      · exact fwf_fput h
      split
      · split
        · exact fwf_fputD h
        · exact h
      · exact h
  exact key [] rfl

theorem enterReset_keeps {s0 : State} (s : State) (ask : ResetAsk) (hk : Keeps s0 s) : Keeps s0 (enterReset s ask) := by
  unfold enterReset
  refine keeps_mk (hk.step (cutCommit_keeps _ (Stays.refl _))) (.inr ⟨rfl, rfl, rfl, rfl⟩) rfl (Nat.le_refl _) (fun _ => regsAfter_wf _ _) (fun h => ?_) id (fun _ => rfl) ?_
  · have hw : fwf (hwAfter (resetTaken (cutCommit s) ask).kind (cutCommit s).hw) = true := fwf_filter h
    split
    · exact fwf_hwPut hw
    · exact hw
  · intro _ x hx
    rw [Vector.mem_replicate] at hx
    rw [hx.2]
    exact ⟨rfl, rfl⟩

theorem latchFault_keeps {s0 : State} (s : State) (code : Nat) (ch : Nat) (shutdown : Bool) (hk : Stays s0 s) :
    Stays s0 (latchFault s code ch shutdown) := by
  unfold latchFault
  try dsimp only
  repeat' first
    | with_reducible exact hk | with_reducible apply hwSet_keeps | with_reducible apply raise_keeps | split

theorem nextRail_keeps {s0 : State} (s : State) (cs : List Rail) (hk : Keeps s0 s) :
    Keeps s0 (nextRail s cs) := by
  unfold nextRail
  try dsimp only
  repeat' first
    | with_reducible exact hk | with_reducible apply modSeq_keeps

theorem startPowerUp_keeps {s0 : State} (s : State) (restarted : Bool) (hk : Keeps s0 s) :
    Keeps s0 (startPowerUp s restarted) := by
  unfold startPowerUp
  try dsimp only
  repeat' first
    | with_reducible exact hk | with_reducible apply modSeq_keeps | with_reducible apply nextRail_keeps
    | with_reducible exact fun x => x | split | with_reducible refine keeps_mk ?_ ?_ ?_ ?_ ?_ ?_ ?_ ?_ ?_
    | with_reducible exact .inl (.of rfl rfl rfl rfl) | with_reducible rfl

theorem nextDown_keeps {s0 : State} (s : State) (hk : Keeps s0 s) :
    Keeps s0 (nextDown s) := by
  unfold nextDown
  try dsimp only
  repeat' first
    | with_reducible exact hk | with_reducible apply modSeq_keeps

theorem takeDown_keeps {s0 : State} (s : State) (latched : Bool) (hk : Keeps s0 s) :
    Keeps s0 (takeDown s latched) := by
  unfold takeDown
  try dsimp only
  repeat' first
    | with_reducible exact hk | with_reducible apply enterReset_keeps | with_reducible apply modSeq_keeps
    | with_reducible apply nextDown_keeps

theorem faultShutdown_keeps {s0 : State} (s : State) (code : Nat) (c : Rail) (hk : Keeps s0 s) :
    Keeps s0 (faultShutdown s code c) := by
  unfold faultShutdown
  try dsimp only
  repeat' first
    | with_reducible exact hk | with_reducible refine Keeps.step ?_ (latchFault_keeps _ _ _ _ (Stays.refl _))
    | with_reducible apply takeDown_keeps

theorem waitEnd_keeps {s0 : State} (s : State) (hk : Keeps s0 s) :
    Keeps s0 (waitEnd s) := by
  unfold waitEnd
  try dsimp only
  repeat' first
    | with_reducible exact hk | with_reducible apply modSeq_keeps | with_reducible apply takeDown_keeps | split

theorem powerFails_keeps {s0 : State} (s : State) (why : CommitWhy) (hk : Keeps s0 s) :
    Keeps s0 (powerFails s why) := by
  unfold powerFails
  try dsimp only
  repeat' first
    | with_reducible exact hk | with_reducible apply modSeq_keeps
    | with_reducible refine Keeps.step ?_ (settle_keeps _ (Stays.refl _))
    | with_reducible refine Keeps.step ?_ (startCommit_keeps _ _ (Stays.refl _)) | with_reducible apply waitEnd_keeps | split

theorem afterCommit_keeps {s0 : State} (s : State) (why : CommitWhy) (hk : Keeps s0 s) : Keeps s0 (afterCommit s why) := by
  unfold afterCommit
  dsimp only
  generalize hd : (s.dumps.trigger.isSome && !forPower why && coreUp s &&
    (decide (s.glb.state = .commit) || decide (s.glb.state = .dump))) = dump
  generalize ht : (if dump = true then _ else _ : State) = t
  have h : Keeps s0 t := by
    subst ht
    split
    · rename_i hx
      subst hd
      simp only [Bool.and_eq_true, Bool.or_eq_true, decide_eq_true_eq, coreUp, Bool.not_eq_true'] at hx
      have hr : s.glb.inReset = false := hx.1.2.2
      have ho : s.glb.state.rank ≤ DevState.dump.rank := by
        rcases hx.2 with e | e
        · rw [e]
          decide
        · rw [e]
      refine Keeps.step ?_ (beginDump_keeps _ (Stays.refl _))
      exact keeps_mk hk (.inl ⟨rfl, ho, id, id, fun x => by simp [hr] at x⟩) rfl (Nat.le_refl _) id id id id id
    · exact keeps_mk hk (.inl (.refl _)) rfl (Nat.le_refl _) id id id id id
  clear ht
  have h2 : Keeps s0 (if t.seq.commitWait = true then waitEnd t else t) := by
    split
    · exact waitEnd_keeps _ h
    · exact h
  generalize (if t.seq.commitWait = true then waitEnd t else t) = u at h2 ⊢
  split
  · exact h2
  · split
    · exact enterReset_keeps _ _ h2
    · exact h2

theorem askReset_keeps {s0 : State} (s : State) (r : ResetAsk) (hk : Keeps s0 s) :
    Keeps s0 (askReset s r) := by
  unfold askReset
  try dsimp only
  repeat' first
    | with_reducible exact hk | with_reducible apply enterReset_keeps
    | with_reducible refine Keeps.step ?_ (settle_keeps _ (Stays.refl _))
    | with_reducible refine Keeps.step ?_ (startCommit_keeps _ _ (Stays.refl _)) | with_reducible exact fun x => x | split
    | with_reducible refine keeps_mk ?_ ?_ ?_ ?_ ?_ ?_ ?_ ?_ ?_  | with_reducible exact .inl (.of rfl rfl rfl rfl)
    | with_reducible rfl

theorem endDump_keeps {s0 : State} (s : State) (truncated : List (Fin 10)) (hk : Stays s0 s) :
    Stays s0 (endDump s truncated) := by
  unfold endDump
  try dsimp only
  repeat' first
    | with_reducible exact hk | with_reducible exact Stays.refl _ | with_reducible assumption
    | with_reducible apply raise_keeps | with_reducible apply saveDump_keeps | with_reducible exact fun x => x | split
    | intro _ _ _ | with_reducible refine stays_mk ?_ ?_ ?_ ?_ ?_ ?_ ?_ ?_ ?_  | with_reducible exact GlbStays.refl _
    | with_reducible rfl | with_reducible exact Nat.le_refl _ | (intro _ h; with_reducible exact h)
    | (intro _; with_reducible rfl) | (intro _; with_reducible exact Nat.le_refl _)

theorem afterDump_keeps {s0 : State} (s : State) (hk : Keeps s0 s) :
    Keeps s0 (afterDump s) := by
  unfold afterDump
  try dsimp only
  repeat' first
    | with_reducible exact hk | with_reducible apply enterReset_keeps | split

theorem bootBudget_keeps {s0 : State} (s : State) (hk : Stays s0 s) :
    Stays s0 (bootBudget s) := by
  unfold bootBudget
  try dsimp only
  repeat' first
    | with_reducible exact hk | with_reducible apply hwSet_keeps | with_reducible apply setCfg_keeps
    | with_reducible exact fun x => x | with_reducible refine stays_mk ?_ ?_ ?_ ?_ ?_ ?_ ?_ ?_ ?_
    | with_reducible exact GlbStays.refl _ | with_reducible rfl

theorem fitPort_keeps {s0 : State} (s : State) (p : HPort) (hk : Stays s0 s) :
    Stays s0 (fitPort s p) := by
  unfold fitPort
  try dsimp only
  repeat' first
    | with_reducible exact hk | with_reducible apply modPort_keeps | with_reducible apply setCfg_keeps | split

theorem fitMir_keeps {s0 : State} (s : State) (n : MPort) (hk : Stays s0 s) :
    Stays s0 (fitMir s n) := by
  unfold fitMir
  try dsimp only
  repeat' first
    | with_reducible exact hk | with_reducible apply modMir_keeps | with_reducible apply setCfg_keeps | split

theorem bootProfile_keeps {s0 : State} (s : State) (hk : Keeps s0 s) : Keeps s0 (bootProfile s) := by
  unfold bootProfile
  dsimp only
  refine Keeps.step ?_ (bootBudget_keeps _ (fitMir_keeps _ _ (fitMir_keeps _ _ (stays_foldl (fun _ _ h => fitPort_keeps _ _ h) (Stays.refl _)))))
  refine keeps_mk (modSeq_keeps ?_) (.inl (.refl _)) rfl (Nat.le_refl _) id id id id id
  refine Keeps.step hk ?_
  have h : Stays s (modPst s fun v => { v with
      applied := profileInForce s
      copyUsed := (profileInForce s).isSome && decide ((inForce v.profile.copy0 v.profile.copy1).map (·.1) = some 1)
      pending := false }) := modPst_keeps (fun _ => rfl) (Stays.refl _)
  split
  · exact evt_keeps _ _ _ (raise_keeps _ _ h)
  · exact h

theorem bootFirmware_keeps {s0 : State} (s : State) (obs : BootObs) (hk : Stays s0 s) :
    Stays s0 (bootFirmware s obs) := by
  unfold bootFirmware
  try dsimp only
  repeat' first
    | with_reducible exact hk | with_reducible exact Stays.refl _ | with_reducible assumption
    | with_reducible apply fwBoot_keeps | with_reducible apply hwSet_keeps | with_reducible apply modFw_keeps
    | with_reducible exact fun x => x | split | intro _ _ _ | with_reducible refine stays_mk ?_ ?_ ?_ ?_ ?_ ?_ ?_ ?_ ?_
    | with_reducible exact GlbStays.of rfl rfl rfl rfl | with_reducible exact GlbStays.refl _ | with_reducible rfl
    | with_reducible exact Nat.le_refl _ | (intro _ h; with_reducible exact h) | (intro _; with_reducible rfl)
    | (intro _; with_reducible exact Nat.le_refl _)

theorem bootGuards_keeps {s0 : State} (s : State) (hk : Stays s0 s) :
    Stays s0 (bootGuards s) := by
  unfold bootGuards
  try dsimp only
  repeat' first
    | with_reducible exact hk | with_reducible assumption | with_reducible apply evt_keeps | with_reducible apply modChan_keeps
    | with_reducible apply raise_keeps | with_reducible apply stays_foldl | split | intro _ _ _

theorem bootWalks_keeps {s0 : State} (s : State) (hk : Stays s0 s) :
    Stays s0 (bootWalks s) := by
  unfold bootWalks
  try dsimp only
  repeat' first
    | with_reducible exact hk | with_reducible apply modSeal_keeps

theorem readCommit_keeps {s0 : State} (s : State) (bad : List (BitVec 9)) (hk : Stays s0 s) :
    Stays s0 (readCommit s bad) := by
  unfold readCommit
  try dsimp only
  repeat' first
    | with_reducible exact hk | with_reducible exact Stays.refl _ | with_reducible assumption
    | with_reducible apply sealFail_keeps | with_reducible apply stays_foldl | with_reducible apply stays_foldl_fst
    | with_reducible apply stays_foldl_snd | with_reducible exact fun x => x | split | intro _ _ _
    | with_reducible refine stays_mk ?_ ?_ ?_ ?_ ?_ ?_ ?_ ?_ ?_  | with_reducible exact GlbStays.refl _ | with_reducible rfl
    | with_reducible exact Nat.le_refl _ | (intro _ h; with_reducible exact h) | (intro _; with_reducible rfl)
    | (intro _; with_reducible exact Nat.le_refl _)

theorem restoreData_keeps {s0 : State} (s : State) (a : CommitArea) (hk : Stays s0 s) :
    Stays s0 (restoreData s a) := by
  unfold restoreData
  try dsimp only
  repeat' first
    | with_reducible exact hk | with_reducible exact Stays.refl _ | with_reducible assumption
    | with_reducible apply counterPoison_keeps | with_reducible apply hwAdd_keeps | with_reducible apply modCnt_keeps
    | with_reducible apply putSlot_keeps | with_reducible apply takeStamp_keeps | with_reducible apply stays_foldl
    | with_reducible apply stays_foldl_fst | with_reducible apply stays_foldl_snd | with_reducible exact fun x => x | split
    | intro _ _ _ | with_reducible refine stays_mk ?_ ?_ ?_ ?_ ?_ ?_ ?_ ?_ ?_  | with_reducible exact GlbStays.refl _
    | with_reducible rfl | with_reducible exact Nat.le_refl _ | (intro _ h; with_reducible exact h)
    | (intro _; with_reducible rfl) | (intro _; with_reducible exact Nat.le_refl _)

theorem markBreach_keeps {s0 : State} (s : State) (rs : List Nat) (gen : BitVec 64) (hk : Stays s0 s) :
    Stays s0 (markBreach s rs gen) := by
  unfold markBreach
  try dsimp only
  repeat' first
    | with_reducible exact hk | with_reducible assumption | with_reducible apply evtFull_keeps
    | with_reducible apply hwOr_keeps | with_reducible apply modRegion_keeps | with_reducible apply raise_keeps
    | with_reducible apply stays_foldl | with_reducible exact fun x => x | split | intro _ _ _
    | with_reducible refine stays_mk ?_ ?_ ?_ ?_ ?_ ?_ ?_ ?_ ?_  | with_reducible exact GlbStays.of rfl rfl rfl rfl
    | with_reducible rfl

theorem recountPoison_keeps {s0 : State} (s : State) (hk : Stays s0 s) :
    Stays s0 (recountPoison s) := by
  unfold recountPoison
  try dsimp only
  repeat' first
    | with_reducible exact hk | with_reducible exact fun x => x | with_reducible refine stays_mk ?_ ?_ ?_ ?_ ?_ ?_ ?_ ?_ ?_
    | with_reducible exact GlbStays.refl _ | with_reducible rfl

theorem commitReport_keeps {s0 : State} (s : State) (case : Nat) (n : Nat) (a : Option CommitArea) (hk : Stays s0 s) :
    Stays s0 (commitReport s case n a) := by
  unfold commitReport
  try dsimp only
  repeat' first
    | with_reducible exact hk | with_reducible apply hwSet_keeps | split

theorem recAll_wf (irq : Nat) (l : List EvtEntry) (r : Rec) (h : fwf r.2 = true) : fwf (l.foldl (recLimited irq) r).2 = true := by
  induction l generalizing r with
  | nil => exact h
  | cons e l ih => exact ih _ (recLimited_wf _ _ _ h)

theorem bootEvents_keeps {s0 : State} (s : State) (case : Nat) (a : Option CommitArea) (hk : Stays s0 s) :
    Stays s0 (bootEvents s case a) := by
  unfold bootEvents
  dsimp only
  have ht := modEvr_keeps s (fun e => { e with
    front := match a with
      | some a => if a.frontWritten then a.front.filter fun e => (s.evr.find e.index).isNone else []
      | none => []
    inFlight := []
    ready := true }) hk
  generalize modEvr s _ = t at ht ⊢
  split
  · exact evt_keeps _ _ _ (stays_mk ht (.refl _) rfl (Nat.le_refl _) id (fun hw => recAll_wf _ _ _ (recStore_wf _ (_, _) _ hw)) id id id)
  · exact stays_mk ht (.refl _) rfl (Nat.le_refl _) id (fun hw => recAll_wf _ _ _ (recStore_wf _ (_, _) _ hw)) id id id

theorem ownChunks_keeps {s0 : State} (s : State) (hk : Stays s0 s) :
    Stays s0 (ownChunks s) := by
  unfold ownChunks
  try dsimp only
  repeat' first
    | with_reducible exact hk | with_reducible assumption | with_reducible apply modPool_keeps
    | with_reducible apply stays_foldl | intro _ _ _

theorem queueBit_keeps {s0 : State} (s : State) (hk : Stays s0 s) :
    Stays s0 (queueBit s) := by
  unfold queueBit
  try dsimp only
  repeat' first
    | with_reducible exact hk | with_reducible exact fun x => x | split
    | with_reducible refine stays_mk ?_ ?_ ?_ ?_ ?_ ?_ ?_ ?_ ?_  | with_reducible exact GlbStays.refl _ | with_reducible rfl

theorem restoreQueue_keeps {s0 : State} (s : State) (q : Nat) (hk : Stays s0 s) :
    Stays s0 (restoreQueue s q) := by
  unfold restoreQueue
  try dsimp only
  repeat' first
    | with_reducible exact hk | with_reducible apply dropOpen_keeps | with_reducible apply flushNow_keeps
    | with_reducible apply modQueue_keeps | with_reducible apply putQueue_keeps | split

theorem resetQueue_keeps {s0 : State} (s : State) (q : Nat) (hk : Stays s0 s) :
    Stays s0 (resetQueue s q) := by
  unfold resetQueue
  try dsimp only
  repeat' first
    | with_reducible exact hk | with_reducible assumption | with_reducible apply killSector_keeps
    | with_reducible apply putQueue_keeps | with_reducible apply stays_foldl | intro _ _ _

theorem bootQueues_keeps {s0 : State} (s : State) (breach : Bool) (found : Bool) (hk : Stays s0 s) :
    Stays s0 (bootQueues s breach found) := by
  unfold bootQueues
  try dsimp only
  repeat' first
    | with_reducible exact hk | with_reducible apply askSweep_keeps | with_reducible apply evt_keeps
    | with_reducible apply hwSet_keeps | with_reducible apply modDbq_keeps | with_reducible apply ownChunks_keeps
    | with_reducible apply queueBit_keeps | with_reducible apply raise_keeps | with_reducible apply resetQueue_keeps
    | with_reducible apply restoreQueue_keeps | with_reducible apply stays_foldl | split

theorem bootRestore_keeps {s0 : State} (s : State) (hk : Stays s0 s) :
    Stays s0 (bootRestore s) := by
  unfold bootRestore
  try dsimp only
  repeat' first
    | with_reducible exact hk | with_reducible exact Stays.refl _ | with_reducible assumption
    | with_reducible apply addReq_keeps | with_reducible apply bootEvents_keeps | with_reducible apply bootQueues_keeps
    | with_reducible apply commitReport_keeps | with_reducible apply markBreach_keeps
    | with_reducible apply recountPoison_keeps | with_reducible apply restoreData_keeps | with_reducible apply stays_foldl
    | with_reducible apply stays_foldl_fst | with_reducible exact fun x => x | split | intro _ _ _
    | with_reducible refine stays_mk ?_ ?_ ?_ ?_ ?_ ?_ ?_ ?_ ?_  | with_reducible exact GlbStays.refl _ | with_reducible rfl
    | with_reducible exact Nat.le_refl _ | (intro _ h; with_reducible exact h) | (intro _; with_reducible rfl)
    | (intro _; with_reducible exact Nat.le_refl _)

theorem bootTables_keeps {s0 : State} (s : State) (ok : Bool) (hk : Stays s0 s) :
    Stays s0 (bootTables s ok) := by
  unfold bootTables
  try dsimp only
  repeat' first
    | with_reducible exact hk | with_reducible exact Stays.refl _ | with_reducible assumption | with_reducible apply evt_keeps
    | with_reducible apply freeNext_keeps | with_reducible apply hwOr_keeps | with_reducible apply loadItems_keeps
    | with_reducible apply modLke_keeps | with_reducible apply raise_keeps | with_reducible exact fun x => x | split
    | intro _ _ _ | with_reducible refine stays_mk ?_ ?_ ?_ ?_ ?_ ?_ ?_ ?_ ?_  | with_reducible exact GlbStays.refl _
    | with_reducible rfl | with_reducible exact Nat.le_refl _ | (intro _ h; with_reducible exact h)
    | (intro _; with_reducible rfl) | (intro _; with_reducible exact Nat.le_refl _)

theorem bootStops_keeps {s0 : State} (s : State) (hk : Base s0 s) :
    Base s0 (bootStops s) := by
  unfold bootStops
  try dsimp only
  repeat' first
    | with_reducible exact hk | with_reducible exact fun x => x | with_reducible refine base_mk ?_ ?_ ?_ ?_ ?_ ?_ ?_ ?_
    | with_reducible rfl

theorem bootStart_keeps {s0 : State} (s : State) (selfTestOk : Bool) (hk : Base s0 s) :
    Base s0 (bootStart s selfTestOk) := by
  unfold bootStart
  try dsimp only
  repeat' first
    | with_reducible exact hk | with_reducible exact Base.refl _ | with_reducible assumption
    | with_reducible apply bootStops_keeps | with_reducible refine Base.step ?_ (evt_keeps _ _ _ (Stays.refl _))
    | with_reducible refine Base.step ?_ (freeNext_keeps (Stays.refl _))
    | with_reducible refine Base.step ?_ (hwSet_keeps _ _ (Stays.refl _))
    | with_reducible refine Base.step ?_ (raise_keeps _ _ (Stays.refl _)) | with_reducible exact fun x => x | split
    | intro _ _ _ | with_reducible refine base_mk ?_ ?_ ?_ ?_ ?_ ?_ ?_ ?_  | with_reducible exact .inl (.of rfl rfl rfl rfl)
    | with_reducible exact .inl (.refl _) | with_reducible rfl | with_reducible exact Nat.le_refl _
    | (intro _ h; with_reducible exact h) | (intro _; with_reducible rfl) | (intro _; with_reducible exact Nat.le_refl _)

theorem bootSeq_keeps {s0 : State} (s : State) (hk : Stays s0 s) :
    Stays s0 (bootSeq s) := by
  unfold bootSeq
  try dsimp only
  repeat' first
    | with_reducible exact hk | with_reducible apply evt_keeps | with_reducible apply raise_keeps | split

theorem bootOn_keeps {s0 : State} (s : State) (tierImageOk : Bool) (hk : Base s0 s) : Base s0 (bootOn s tierImageOk) := by
  unfold bootOn
  have h : Base s0 { s with glb := { s.glb with state := .restore } } := base_mk hk rfl (Nat.le_refl _) id id id id id
  generalize ({ s with glb := { s.glb with state := .restore } } : State) = t at h ⊢
  dsimp only
  have h2 := h.step (bootSeq_keeps _ (bootTables_keeps _ (tierImageOk && !structureLost t 1)
    (bootRestore_keeps _ (bootWalks_keeps _ (bootGuards_keeps _ (loadItems_keeps t (bootItems t) (Stays.refl _)))))))
  generalize bootSeq _ = u at h2 ⊢
  split
  · exact h2
  · exact releaseForwarding_base _ h2

theorem boot_keeps {s0 : State} (s : State) (obs : BootObs) (hk : Base s0 s) : Base s0 (boot s obs) := by
  have h1 : Base s0 (bootStart s obs.selfTestOk) := bootStart_keeps _ _ hk
  unfold boot
  dsimp only
  generalize bootStart s obs.selfTestOk = t at h1 ⊢
  split
  · exact h1
  · have h2 : Base s0 (bootProfile (pstScan t)) := (h1.step (pstScan_keeps _ (Stays.refl _))).keep (bootProfile_keeps _ (Keeps.refl _))
    generalize bootProfile (pstScan t) = u at h2 ⊢
    generalize (factoryCopy u.pst).isNone = bad
    have h3 : Base s0 (bootFirmware (if bad = true then bootStops (evt u Ev.PST_FACTORY_BAD noInst 0) else u) obs) := by
      refine Base.step ?_ (bootFirmware_keeps _ _ (Stays.refl _))
      split
      · exact bootStops_keeps _ (h2.step (evt_keeps _ _ _ (Stays.refl _)))
      · exact h2
    generalize bootFirmware _ _ = v at h3 ⊢
    split
    · exact h3
    · exact bootOn_keeps _ _ (h3.step (readCommit_keeps _ _ (Stays.refl _)))

theorem execResetRelease_keeps (obs : BootObs) (s : State) : BaseOut s (execResetRelease obs s) := by
  unfold execResetRelease
  try dsimp only
  repeat' first
    | with_reducible exact Base.refl _ | with_reducible apply boot_keeps
    | with_reducible refine Base.step ?_ (settle_keeps _ (Stays.refl _)) | with_reducible apply base_done | split

theorem modCfg_keeps {s0 : State} (s : State) (f : PcieCfg → PcieCfg) (hk : Stays s0 s) :
    Stays s0 (modCfg s f) := by
  unfold modCfg
  try dsimp only
  repeat' first
    | with_reducible exact hk | with_reducible exact Stays.refl _ | with_reducible assumption | with_reducible exact fun x => x
    | split | intro _ _ _ | with_reducible refine stays_mk ?_ ?_ ?_ ?_ ?_ ?_ ?_ ?_ ?_  | with_reducible exact GlbStays.refl _
    | with_reducible rfl | with_reducible exact Nat.le_refl _ | (intro _ h; with_reducible exact h)
    | (intro _; with_reducible rfl) | (intro _; with_reducible exact Nat.le_refl _)

theorem pcieReset_keeps {s0 : State} (s : State) (hk : Stays s0 s) :
    Stays s0 (pcieReset s) := by
  unfold pcieReset
  try dsimp only
  repeat' first
    | with_reducible exact hk | with_reducible exact fun x => x | with_reducible refine stays_mk ?_ ?_ ?_ ?_ ?_ ?_ ?_ ?_ ?_
    | with_reducible exact GlbStays.refl _ | with_reducible rfl

theorem cfgWrite_keeps {s0 : State} (s : State) (r : CfgReg) (v : BitVec 32) (hk : Stays s0 s) :
    Stays s0 (cfgWrite s r v) := by
  unfold cfgWrite
  try dsimp only
  repeat' first
    | with_reducible exact hk | with_reducible exact Stays.refl _ | with_reducible assumption
    | with_reducible apply modCfg_keeps | with_reducible apply pcieReset_keeps | with_reducible exact fun x => x | split
    | intro _ _ _ | with_reducible refine stays_mk ?_ ?_ ?_ ?_ ?_ ?_ ?_ ?_ ?_  | with_reducible exact GlbStays.refl _
    | with_reducible rfl | with_reducible exact Nat.le_refl _ | (intro _ h; with_reducible exact h)
    | (intro _; with_reducible rfl) | (intro _; with_reducible exact Nat.le_refl _)

theorem unsupported_keeps {s0 : State} (s : State) (hk : Stays s0 s) :
    Stays s0 (unsupported s) := by
  unfold unsupported
  try dsimp only
  repeat' first
    | with_reducible exact hk | with_reducible exact Stays.refl _ | with_reducible assumption | with_reducible exact fun x => x
    | split | intro _ _ _ | with_reducible refine stays_mk ?_ ?_ ?_ ?_ ?_ ?_ ?_ ?_ ?_  | with_reducible exact GlbStays.refl _
    | with_reducible rfl | with_reducible exact Nat.le_refl _ | (intro _ h; with_reducible exact h)
    | (intro _; with_reducible rfl) | (intro _; with_reducible exact Nat.le_refl _)

theorem execVaonPowerOn_keeps (s : State) : KeepsOut s (execVaonPowerOn s) := by
  unfold execVaonPowerOn
  try dsimp only
  repeat' first
    | with_reducible exact Keeps.refl _ | with_reducible apply modSeq_keeps | with_reducible apply startPowerUp_keeps
    | with_reducible apply keeps_done | split

theorem execVaonPowerLoss_keeps (progress : CommitProgress) (s : State) : KeepsOut s (execVaonPowerLoss progress s) := by
  unfold execVaonPowerLoss
  split
  · exact keeps_done (Keeps.refl _)
  · have h : Stays s { tearCommit s progress with krf := { (tearCommit s progress).krf with running := none } } :=
      stays_mk (tearCommit_keeps _ _ (Stays.refl _)) (.refl _) rfl (Nat.le_refl _) id id id id id
    exact keeps_done (keeps_mk (enterReset_keeps _ _ h.toKeeps) (.inl (.of rfl rfl rfl rfl)) rfl (Nat.le_refl _) (fun _ => rfl) fwf_filter
      id id id)

theorem execSeqRailDelayExpiry_keeps (c : Rail) (s : State) : KeepsOut s (execSeqRailDelayExpiry c s) := by
  unfold execSeqRailDelayExpiry
  try dsimp only
  repeat' first
    | with_reducible exact Keeps.refl _ | with_reducible apply modSeq_keeps | with_reducible apply keeps_done | split

theorem countGlitch_keeps {s0 : State} (s : State) (c : Rail) (hk : Stays s0 s) :
    Stays s0 (countGlitch s c) := by
  unfold countGlitch
  try dsimp only
  repeat' first
    | with_reducible exact hk | with_reducible apply hwFldPut_keeps | with_reducible apply raise_keeps

theorem execSeqPgRise_keeps (c : Rail) (wasLong : Bool) (s : State) : KeepsOut s (execSeqPgRise c wasLong s) := by
  unfold execSeqPgRise
  try dsimp only
  repeat' first
    | with_reducible exact Keeps.refl _ | with_reducible refine Keeps.step ?_ (countGlitch_keeps _ _ (Stays.refl _))
    | with_reducible apply modSeq_keeps | with_reducible apply keeps_done | split

theorem execSeqPgFall_keeps (c : Rail) (s : State) : KeepsOut s (execSeqPgFall c s) := by
  unfold execSeqPgFall
  try dsimp only
  repeat' first
    | with_reducible exact Keeps.refl _ | with_reducible refine Keeps.step ?_ (latchFault_keeps _ _ _ _ (Stays.refl _))
    | with_reducible apply modSeq_keeps | with_reducible apply keeps_done | split

theorem execPgDeglitchedGood_keeps (c : Rail) (s : State) : KeepsOut s (execPgDeglitchedGood c s) := by
  unfold execPgDeglitchedGood
  try dsimp only
  repeat' first
    | with_reducible exact Keeps.refl _ | with_reducible apply modSeq_keeps | with_reducible apply keeps_done
    | with_reducible exact fun x => x | split | with_reducible refine keeps_mk ?_ ?_ ?_ ?_ ?_ ?_ ?_ ?_ ?_
    | with_reducible exact .inl (.refl _) | with_reducible rfl

theorem execPgTimeout_keeps (c : Rail) (s : State) : KeepsOut s (execPgTimeout c s) := by
  unfold execPgTimeout
  try dsimp only
  repeat' first
    | with_reducible exact Keeps.refl _ | with_reducible apply faultShutdown_keeps | with_reducible apply keeps_done | split

theorem execPgUnstable_keeps (c : Rail) (s : State) : KeepsOut s (execPgUnstable c s) := by
  unfold execPgUnstable
  try dsimp only
  repeat' first
    | with_reducible exact Keeps.refl _ | with_reducible apply faultShutdown_keeps | with_reducible apply keeps_done | split

theorem railLow_keeps {s0 : State} (s : State) (c : Rail) (hk : Keeps s0 s) : Keeps s0 (railLow s c) := modSeq_keeps hk

theorem execPgLost_keeps (c : Rail) (s : State) : KeepsOut s (execPgLost c s) := by
  unfold execPgLost
  try dsimp only
  repeat' first
    | with_reducible exact Keeps.refl _ | with_reducible apply faultShutdown_keeps | with_reducible apply railLow_keeps
    | with_reducible refine Keeps.step ?_ (latchFault_keeps _ _ _ _ (Stays.refl _)) | with_reducible apply modSeq_keeps
    | with_reducible apply powerFails_keeps | with_reducible apply keeps_done | split

theorem beginPhaseB_keeps {s0 : State} (s : State) (hk : Keeps s0 s) :
    Keeps s0 (beginPhaseB s) := by
  unfold beginPhaseB
  try dsimp only
  repeat' first
    | with_reducible exact hk | with_reducible apply modSeq_keeps | with_reducible apply nextRail_keeps

theorem powerUpComplete_keeps {s0 : State} (s : State) (hk : Keeps s0 s) :
    Keeps s0 (powerUpComplete s) := by
  unfold powerUpComplete
  try dsimp only
  repeat' first
    | with_reducible exact hk | with_reducible apply modSeq_keeps

theorem settleEnds_keeps {s0 : State} (s : State) (hk : Keeps s0 s) :
    Keeps s0 (settleEnds s) := by
  unfold settleEnds
  try dsimp only
  repeat' first
    | with_reducible exact hk | with_reducible apply beginPhaseB_keeps | with_reducible apply nextRail_keeps
    | with_reducible apply powerUpComplete_keeps | split

theorem execSettleWindowEnd_keeps (c : Rail) (s : State) : KeepsOut s (execSettleWindowEnd c s) := by
  unfold execSettleWindowEnd
  try dsimp only
  repeat' first
    | with_reducible exact Keeps.refl _ | with_reducible apply settleEnds_keeps | with_reducible apply keeps_done | split

theorem execDischargeDone_keeps (c : Rail) (s : State) : KeepsOut s (execDischargeDone c s) := by
  unfold execDischargeDone
  try dsimp only
  repeat' first
    | with_reducible exact Keeps.refl _ | with_reducible apply nextDown_keeps | with_reducible apply keeps_done | split

theorem execDischargeTimeout_keeps (c : Rail) (s : State) : KeepsOut s (execDischargeTimeout c s) := by
  unfold execDischargeTimeout
  try dsimp only
  repeat' first
    | with_reducible exact Keeps.refl _ | with_reducible refine Keeps.step ?_ (latchFault_keeps _ _ _ _ (Stays.refl _))
    | with_reducible apply nextDown_keeps | with_reducible apply keeps_done | split

theorem execPwrFailNFall_keeps (s : State) : KeepsOut s (execPwrFailNFall s) := by
  unfold execPwrFailNFall
  try dsimp only
  repeat' first
    | with_reducible exact Keeps.refl _ | with_reducible apply modSeq_keeps | with_reducible apply takeDown_keeps
    | with_reducible apply keeps_done | split

theorem execPwrFailNRise_keeps (s : State) : KeepsOut s (execPwrFailNRise s) := by
  unfold execPwrFailNRise
  try dsimp only
  repeat' first
    | with_reducible exact Keeps.refl _ | with_reducible apply modSeq_keeps | with_reducible apply startPowerUp_keeps
    | with_reducible apply keeps_done | split

theorem execPwrFailRecognised_keeps (s : State) : KeepsOut s (execPwrFailRecognised s) := by
  unfold execPwrFailRecognised
  try dsimp only
  repeat' first
    | with_reducible exact Keeps.refl _ | with_reducible refine Keeps.step ?_ (nmi_keeps _ (Stays.refl _))
    | with_reducible apply powerFails_keeps | with_reducible apply keeps_done | split

theorem execPowerUpRestartTimer_keeps (s : State) : KeepsOut s (execPowerUpRestartTimer s) := by
  unfold execPowerUpRestartTimer
  try dsimp only
  repeat' first
    | with_reducible exact Keeps.refl _ | with_reducible apply startPowerUp_keeps | with_reducible apply keeps_done | split

theorem execCommitDone_keeps (us : BitVec 32) (s : State) : KeepsOut s (execCommitDone us s) := by
  unfold execCommitDone
  try dsimp only
  repeat' first
    | with_reducible exact Keeps.refl _ | with_reducible apply afterCommit_keeps
    | with_reducible refine Keeps.step ?_ (completeArea_keeps _ _ (Stays.refl _))
    | with_reducible refine Keeps.step ?_ (settle_keeps _ (Stays.refl _)) | with_reducible apply keeps_done
    | with_reducible exact fun x => x | split | with_reducible refine keeps_mk ?_ ?_ ?_ ?_ ?_ ?_ ?_ ?_ ?_
    | with_reducible exact .inl (.refl _) | with_reducible rfl

theorem execCommitToExpiry_keeps (s : State) : KeepsOut s (execCommitToExpiry s) := by
  unfold execCommitToExpiry
  try dsimp only
  repeat' first
    | with_reducible exact Keeps.refl _ | with_reducible refine Keeps.step ?_ (latchFault_keeps _ _ _ _ (Stays.refl _))
    | with_reducible apply waitEnd_keeps | with_reducible apply keeps_done | split

theorem execResetNFall_keeps (s : State) : KeepsOut s (execResetNFall s) := by
  unfold execResetNFall
  try dsimp only
  repeat' first
    | with_reducible exact Keeps.refl _ | with_reducible apply modSeq_keeps | with_reducible apply keeps_done

theorem execResetNRecognised_keeps (s : State) : KeepsOut s (execResetNRecognised s) := by
  unfold execResetNRecognised
  try dsimp only
  repeat' first
    | with_reducible exact Keeps.refl _ | with_reducible apply askReset_keeps | with_reducible apply modSeq_keeps
    | with_reducible apply keeps_done | split

theorem execResetNRise_keeps (s : State) : KeepsOut s (execResetNRise s) := by
  unfold execResetNRise
  try dsimp only
  repeat' first
    | with_reducible exact Keeps.refl _ | with_reducible apply modSeq_keeps | with_reducible apply startPowerUp_keeps
    | with_reducible apply keeps_done | split

theorem overPcie_keeps {s0 : State} (s : State) (overSmbus : Bool) (o : Nat) (hk : Stays s0 s) :
    Stays s0 (overPcie s overSmbus o) := by
  unfold overPcie
  try dsimp only
  repeat' first
    | with_reducible exact hk | with_reducible exact Stays.refl _ | with_reducible assumption
    | with_reducible apply touch_keeps | with_reducible exact fun x => x | split | intro _ _ _
    | with_reducible exact GlbStays.refl _ | with_reducible rfl | with_reducible exact Nat.le_refl _
    | (intro _ h; with_reducible exact h) | (intro _; with_reducible rfl) | (intro _; with_reducible exact Nat.le_refl _)

theorem seqRestart_keeps {s0 : State} (s : State) (hk : Keeps s0 s) :
    Keeps s0 (seqRestart s) := by
  unfold seqRestart
  try dsimp only
  repeat' first
    | with_reducible exact hk | with_reducible apply startPowerUp_keeps | split

theorem seqDown_keeps {s0 : State} (s : State) (key : BitVec 16) (hk : Keeps s0 s) :
    Keeps s0 (seqDown s key) := by
  unfold seqDown
  try dsimp only
  repeat' first
    | with_reducible exact hk | with_reducible apply modSeq_keeps | with_reducible apply powerFails_keeps
    | with_reducible apply takeDown_keeps | split

theorem execSeqCtrlRestart_keeps (overSmbus : Bool) (s : State) : KeepsOut s (execSeqCtrlRestart overSmbus s) := by
  unfold execSeqCtrlRestart
  try dsimp only
  repeat' first
    | with_reducible exact Keeps.refl _ | with_reducible assumption
    | with_reducible refine Keeps.step ?_ (done_keeps _ (Stays.refl _))
    | with_reducible refine Keeps.step ?_ (overPcie_keeps _ _ _ (Stays.refl _)) | with_reducible apply seqRestart_keeps
    | with_reducible apply keeps_done | with_reducible exact fun x => x | split | intro _ _ _
    | with_reducible exact .inl (.refl _) | with_reducible rfl | with_reducible exact Nat.le_refl _
    | (intro _ h; with_reducible exact h) | (intro _; with_reducible rfl) | (intro _; with_reducible exact Nat.le_refl _)

theorem execSeqCtrlDown_keeps (key : BitVec 16) (overSmbus : Bool) (s : State) : KeepsOut s (execSeqCtrlDown key overSmbus s) := by
  unfold execSeqCtrlDown
  try dsimp only
  repeat' first
    | with_reducible exact Keeps.refl _ | with_reducible assumption
    | with_reducible refine Keeps.step ?_ (done_keeps _ (Stays.refl _))
    | with_reducible refine Keeps.step ?_ (overPcie_keeps _ _ _ (Stays.refl _)) | with_reducible apply seqDown_keeps
    | with_reducible apply keeps_done | with_reducible exact fun x => x | split | intro _ _ _
    | with_reducible exact .inl (.refl _) | with_reducible rfl | with_reducible exact Nat.le_refl _
    | (intro _ h; with_reducible exact h) | (intro _; with_reducible rfl) | (intro _; with_reducible exact Nat.le_refl _)

theorem execSeqFaultClear_keeps (overSmbus : Bool) (s : State) : StaysOut s (execSeqFaultClear overSmbus s) := by
  unfold execSeqFaultClear
  try dsimp only
  repeat' first
    | with_reducible exact Stays.refl _ | with_reducible assumption | with_reducible apply done_keeps
    | with_reducible apply hwSet_keeps | with_reducible apply overPcie_keeps | with_reducible apply stays_done
    | with_reducible exact fun x => x | split | intro _ _ _ | with_reducible exact GlbStays.refl _ | with_reducible rfl
    | with_reducible exact Nat.le_refl _ | (intro _ h; with_reducible exact h) | (intro _; with_reducible rfl)
    | (intro _; with_reducible exact Nat.le_refl _)

theorem softReset_keeps {s0 : State} (s : State) (key : BitVec 16) (kind : ResetKind) (hk : Keeps s0 s) :
    Keeps s0 (softReset s key kind) := by
  unfold softReset
  try dsimp only
  repeat' first
    | with_reducible exact hk | with_reducible apply askReset_keeps
    | with_reducible refine Keeps.step ?_ (badAccess_keeps _ (Stays.refl _)) | split

theorem execGlbSoftResetFull_keeps (key : BitVec 16) (s : State) : KeepsOut s (execGlbSoftResetFull key s) := by
  unfold execGlbSoftResetFull
  try dsimp only
  repeat' first
    | with_reducible exact Keeps.refl _ | with_reducible assumption
    | with_reducible refine Keeps.step ?_ (done_keeps _ (Stays.refl _)) | with_reducible apply softReset_keeps
    | with_reducible refine Keeps.step ?_ (touch_keeps _ _ (Stays.refl _)) | with_reducible apply keeps_done
    | with_reducible exact fun x => x | split | intro _ _ _ | with_reducible exact .inl (.refl _) | with_reducible rfl
    | with_reducible exact Nat.le_refl _ | (intro _ h; with_reducible exact h) | (intro _; with_reducible rfl)
    | (intro _; with_reducible exact Nat.le_refl _)

theorem execGlbSoftResetWarm_keeps (key : BitVec 16) (s : State) : KeepsOut s (execGlbSoftResetWarm key s) := by
  unfold execGlbSoftResetWarm
  try dsimp only
  repeat' first
    | with_reducible exact Keeps.refl _ | with_reducible assumption
    | with_reducible refine Keeps.step ?_ (done_keeps _ (Stays.refl _)) | with_reducible apply softReset_keeps
    | with_reducible refine Keeps.step ?_ (touch_keeps _ _ (Stays.refl _)) | with_reducible apply keeps_done
    | with_reducible exact fun x => x | split | intro _ _ _ | with_reducible exact .inl (.refl _) | with_reducible rfl
    | with_reducible exact Nat.le_refl _ | (intro _ h; with_reducible exact h) | (intro _; with_reducible rfl)
    | (intro _; with_reducible exact Nat.le_refl _)

theorem execFwResetNowTimer_keeps (s : State) : KeepsOut s (execFwResetNowTimer s) := by
  unfold execFwResetNowTimer
  split
  · exact keeps_done (softReset_keeps _ _ _ ((Keeps.refl _).step (modFw_keeps (fun _ => Nat.le_refl _) (Stays.refl _))))
  · exact keeps_done (Keeps.refl _)

theorem execHeadstockWatchdogExpiry_keeps (s : State) : StaysOut s (execHeadstockWatchdogExpiry s) := by
  unfold execHeadstockWatchdogExpiry
  try dsimp only
  repeat' first
    | with_reducible exact Stays.refl _ | with_reducible apply setFatal_keeps | with_reducible apply settle_keeps
    | with_reducible apply stays_done | with_reducible exact fun x => x | split
    | with_reducible refine stays_mk ?_ ?_ ?_ ?_ ?_ ?_ ?_ ?_ ?_  | with_reducible exact GlbStays.of rfl rfl rfl rfl
    | with_reducible rfl

theorem execFwAssert_keeps (s : State) : StaysOut s (execFwAssert s) := by
  unfold execFwAssert
  try dsimp only
  repeat' first
    | with_reducible exact Stays.refl _ | with_reducible apply setFatal_keeps | with_reducible apply settle_keeps
    | with_reducible apply stays_done | split

theorem execWatchdogResetTimeout_keeps (s : State) : KeepsOut s (execWatchdogResetTimeout s) := by
  unfold execWatchdogResetTimeout
  try dsimp only
  repeat' first
    | with_reducible exact Keeps.refl _ | with_reducible apply enterReset_keeps | with_reducible apply waitEnd_keeps
    | with_reducible apply keeps_done | split

theorem coolDown_keeps {s0 : State} (s : State) (hk : Stays s0 s) :
    Stays s0 (coolDown s) := by
  unfold coolDown
  try dsimp only
  repeat' first
    | with_reducible exact hk | with_reducible exact fun x => x | split
    | with_reducible refine stays_mk ?_ ?_ ?_ ?_ ?_ ?_ ?_ ?_ ?_  | with_reducible exact GlbStays.refl _ | with_reducible rfl

theorem execDumpComplete_keeps (truncated : List (Fin 10)) (s : State) : KeepsOut s (execDumpComplete truncated s) := by
  unfold execDumpComplete
  try dsimp only
  repeat' first
    | with_reducible exact Keeps.refl _ | with_reducible assumption | with_reducible apply afterDump_keeps
    | with_reducible refine Keeps.step ?_ (coolDown_keeps _ (Stays.refl _))
    | with_reducible refine Keeps.step ?_ (done_keeps _ (Stays.refl _))
    | with_reducible refine Keeps.step ?_ (endDump_keeps _ _ (Stays.refl _)) | with_reducible apply keeps_done
    | with_reducible exact fun x => x | split | intro _ _ _ | with_reducible exact .inl (.refl _) | with_reducible rfl
    | with_reducible exact Nat.le_refl _ | (intro _ h; with_reducible exact h) | (intro _; with_reducible rfl)
    | (intro _; with_reducible exact Nat.le_refl _)

theorem pcieLinkLost_keeps {s0 : State} (s : State) (hk : Stays s0 s) :
    Stays s0 (pcieLinkLost s) := by
  unfold pcieLinkLost
  try dsimp only
  repeat' first
    | with_reducible exact hk | with_reducible apply pcieReset_keeps | with_reducible exact fun x => x
    | with_reducible refine stays_mk ?_ ?_ ?_ ?_ ?_ ?_ ?_ ?_ ?_  | with_reducible exact GlbStays.refl _ | with_reducible rfl

theorem execMsixPendingSend_keeps (vec : Fin 32) (s : State) : StaysOut s (execMsixPendingSend vec s) := by
  unfold execMsixPendingSend
  try dsimp only
  repeat' first
    | with_reducible exact Stays.refl _ | with_reducible apply emit_keeps | with_reducible apply stays_done
    | with_reducible exact fun x => x | split | with_reducible refine stays_mk ?_ ?_ ?_ ?_ ?_ ?_ ?_ ?_ ?_
    | with_reducible exact GlbStays.refl _ | with_reducible rfl

theorem execPcieFlr_keeps (s : State) : StaysOut s (execPcieFlr s) := by
  unfold execPcieFlr
  try dsimp only
  repeat' first
    | with_reducible exact Stays.refl _ | with_reducible apply pcieReset_keeps | with_reducible apply stays_done | split

theorem execPcieHotReset_keeps (s : State) : StaysOut s (execPcieHotReset s) := by
  unfold execPcieHotReset
  try dsimp only
  repeat' first
    | with_reducible exact Stays.refl _ | with_reducible apply pcieLinkLost_keeps | with_reducible apply stays_done | split

theorem execPcieD3hotToD0_keeps (s : State) : StaysOut s (execPcieD3hotToD0 s) := by
  unfold execPcieD3hotToD0
  try dsimp only
  repeat' first
    | with_reducible exact Stays.refl _ | with_reducible apply pcieReset_keeps | with_reducible apply stays_done | split

theorem execPcieLinkDown_keeps (s : State) : StaysOut s (execPcieLinkDown s) := by
  unfold execPcieLinkDown
  try dsimp only
  repeat' first
    | with_reducible exact Stays.refl _ | with_reducible apply pcieLinkLost_keeps | with_reducible apply stays_done | split

theorem execPciePerstNAssert_keeps (s : State) : StaysOut s (execPciePerstNAssert s) := by
  unfold execPciePerstNAssert
  try dsimp only
  repeat' first
    | with_reducible exact Stays.refl _ | with_reducible apply pcieLinkLost_keeps | with_reducible apply stays_done
    | with_reducible exact fun x => x | with_reducible refine stays_mk ?_ ?_ ?_ ?_ ?_ ?_ ?_ ?_ ?_
    | with_reducible exact GlbStays.refl _ | with_reducible rfl

theorem execPcieLinkUp_keeps (busMaster : Bool) (s : State) : StaysOut s (execPcieLinkUp busMaster s) := by
  unfold execPcieLinkUp
  try dsimp only
  repeat' first
    | with_reducible exact Stays.refl _ | with_reducible assumption | with_reducible apply done_keeps
    | with_reducible apply stays_done | with_reducible exact fun x => x | split | intro _ _ _
    | with_reducible refine stays_mk ?_ ?_ ?_ ?_ ?_ ?_ ?_ ?_ ?_  | with_reducible exact GlbStays.refl _ | with_reducible rfl
    | with_reducible exact Nat.le_refl _ | (intro _ h; with_reducible exact h) | (intro _; with_reducible rfl)
    | (intro _; with_reducible exact Nat.le_refl _)

theorem dropPackets_keeps {s0 : State} (s : State) (p : HPort) (hk : Stays s0 s) :
    Stays s0 (dropPackets s p) := by
  unfold dropPackets
  try dsimp only
  repeat' first
    | with_reducible exact hk | with_reducible assumption | with_reducible apply discardCmds_keeps
    | with_reducible apply modPort_keeps | with_reducible apply stays_foldl | split | intro _ _ _

theorem unlockPort_keeps {s0 : State} (s : State) (p : HPort) (hk : Stays s0 s) :
    Stays s0 (unlockPort s p) := by
  unfold unlockPort
  try dsimp only
  repeat' first
    | with_reducible exact hk | with_reducible apply modPort_keeps

theorem portDown_keeps {s0 : State} (s : State) (p : HPort) (hk : Stays s0 s) :
    Stays s0 (portDown s p) := by
  unfold portDown
  try dsimp only
  repeat' first
    | with_reducible exact hk | with_reducible apply discardAll_keeps | with_reducible apply dropPackets_keeps
    | with_reducible apply evt_keeps | with_reducible apply hwSat_keeps | with_reducible apply raise_keeps
    | with_reducible apply unlockPort_keeps | split

theorem execHostSignalValid_keeps (p : HPort) (s : State) : StaysOut s (execHostSignalValid p s) := by
  unfold execHostSignalValid
  try dsimp only
  repeat' first
    | with_reducible exact Stays.refl _ | with_reducible apply modPort_keeps | with_reducible apply stays_done | split

theorem noteSkew_keeps {s0 : State} (s : State) (p : HPort) (skew : Vector Byte 8) (hk : Stays s0 s) :
    Stays s0 (noteSkew s p skew) := by
  unfold noteSkew
  try dsimp only
  repeat' first
    | with_reducible exact hk | with_reducible exact Stays.refl _ | with_reducible assumption
    | with_reducible apply hwFldPut_keeps | with_reducible apply stays_foldl | with_reducible exact fun x => x | split
    | intro _ _ _ | with_reducible exact GlbStays.refl _ | with_reducible rfl | with_reducible exact Nat.le_refl _
    | (intro _ h; with_reducible exact h) | (intro _; with_reducible rfl) | (intro _; with_reducible exact Nat.le_refl _)

theorem execCodewordLock_keeps (x : LockSeen) (s : State) : StaysOut s (execCodewordLock x s) := by
  unfold execCodewordLock
  try dsimp only
  repeat' first
    | with_reducible exact Stays.refl _ | with_reducible assumption | with_reducible apply done_keeps
    | with_reducible apply modPort_keeps | with_reducible apply noteSkew_keeps | with_reducible apply stays_done
    | with_reducible exact fun x => x | split | intro _ _ _ | with_reducible refine stays_mk ?_ ?_ ?_ ?_ ?_ ?_ ?_ ?_ ?_
    | with_reducible exact GlbStays.refl _ | with_reducible rfl | with_reducible exact Nat.le_refl _
    | (intro _ h; with_reducible exact h) | (intro _; with_reducible rfl) | (intro _; with_reducible exact Nat.le_refl _)

theorem countUncorr_keeps {s0 : State} (s : State) (p : HPort) (n : Nat) (hk : Stays s0 s) :
    Stays s0 (countUncorr s p n) := by
  unfold countUncorr
  try dsimp only
  repeat' first
    | with_reducible exact hk | with_reducible exact Stays.refl _ | with_reducible assumption
    | with_reducible apply hwAdd_keeps | with_reducible apply raise_keeps | with_reducible exact fun x => x | split
    | intro _ _ _ | with_reducible exact GlbStays.refl _ | with_reducible rfl | with_reducible exact Nat.le_refl _
    | (intro _ h; with_reducible exact h) | (intro _; with_reducible rfl) | (intro _; with_reducible exact Nat.le_refl _)

theorem execCodewordLockLost_keeps (p : HPort) (s : State) : StaysOut s (execCodewordLockLost p s) := by
  unfold execCodewordLockLost
  try dsimp only
  repeat' first
    | with_reducible exact Stays.refl _ | with_reducible assumption | with_reducible apply countUncorr_keeps
    | with_reducible apply done_keeps | with_reducible apply portDown_keeps | with_reducible apply settle_keeps
    | with_reducible apply stays_done | with_reducible exact fun x => x | split | intro _ _ _
    | with_reducible exact GlbStays.refl _ | with_reducible rfl | with_reducible exact Nat.le_refl _
    | (intro _ h; with_reducible exact h) | (intro _; with_reducible rfl) | (intro _; with_reducible exact Nat.le_refl _)

theorem execWordLock_keeps (p : HPort) (l : Lane) (s : State) : StaysOut s (execWordLock p l s) := by
  unfold execWordLock
  try dsimp only
  repeat' first
    | with_reducible exact Stays.refl _ | with_reducible apply modPort_keeps | with_reducible apply stays_done | split

theorem execWordLockLost_keeps (p : HPort) (l : Lane) (s : State) : StaysOut s (execWordLockLost p l s) := by
  unfold execWordLockLost
  try dsimp only
  repeat' first
    | with_reducible exact Stays.refl _ | with_reducible apply portDown_keeps | with_reducible apply settle_keeps
    | with_reducible apply stays_done | split

theorem execMetaframeLock_keeps (p : HPort) (l : Lane) (s : State) : StaysOut s (execMetaframeLock p l s) := by
  unfold execMetaframeLock
  try dsimp only
  repeat' first
    | with_reducible exact Stays.refl _ | with_reducible apply modPort_keeps | with_reducible apply stays_done | split

theorem execMetaframeLockLost_keeps (p : HPort) (l : Lane) (s : State) : StaysOut s (execMetaframeLockLost p l s) := by
  unfold execMetaframeLockLost
  try dsimp only
  repeat' first
    | with_reducible exact Stays.refl _ | with_reducible apply portDown_keeps | with_reducible apply settle_keeps
    | with_reducible apply stays_done | split

theorem linkComesUp_keeps {s0 : State} (s : State) (p : HPort) (alignNs : BitVec 32) (hk : Stays s0 s) :
    Stays s0 (linkComesUp s p alignNs) := by
  unfold linkComesUp
  try dsimp only
  repeat' first
    | with_reducible exact hk | with_reducible apply evt_keeps | with_reducible apply hwSet_keeps
    | with_reducible apply modPort_keeps | with_reducible apply raise_keeps

theorem execHpLinkUp_keeps (p : HPort) (alignNs : BitVec 32) (s : State) : StaysOut s (execHpLinkUp p alignNs s) := by
  unfold execHpLinkUp
  try dsimp only
  repeat' first
    | with_reducible exact Stays.refl _ | with_reducible apply linkComesUp_keeps | with_reducible apply settle_keeps
    | with_reducible apply stays_done | split

theorem setEnable_keeps {s0 : State} (s : State) (p : HPort) (on : Bool) (hk : Stays s0 s) :
    Stays s0 (setEnable s p on) := by
  unfold setEnable
  try dsimp only
  repeat' first
    | with_reducible exact hk | with_reducible apply portDown_keeps | with_reducible apply setCfg_keeps
    | with_reducible apply settle_keeps | split

theorem execHpCtrlEnable_keeps (p : HPort) (enable : Bool) (s : State) : StaysOut s (execHpCtrlEnable p enable s) := by
  unfold execHpCtrlEnable
  try dsimp only
  repeat' first
    | with_reducible exact Stays.refl _ | with_reducible assumption | with_reducible apply done_keeps
    | with_reducible apply setEnable_keeps | with_reducible apply touch_keeps | with_reducible apply stays_done
    | with_reducible exact fun x => x | split | intro _ _ _ | with_reducible exact GlbStays.refl _ | with_reducible rfl
    | with_reducible exact Nat.le_refl _ | (intro _ h; with_reducible exact h) | (intro _; with_reducible rfl)
    | (intro _; with_reducible exact Nat.le_refl _)

theorem setFarLoop_keeps {s0 : State} (s : State) (p : HPort) (on : Bool) (hk : Stays s0 s) :
    Stays s0 (setFarLoop s p on) := by
  unfold setFarLoop
  try dsimp only
  repeat' first
    | with_reducible exact hk | with_reducible apply portDown_keeps | with_reducible apply setCfg_keeps
    | with_reducible apply settle_keeps | split

theorem execHpFarLoop_keeps (p : HPort) (on : Bool) (s : State) : StaysOut s (execHpFarLoop p on s) := by
  unfold execHpFarLoop
  try dsimp only
  repeat' first
    | with_reducible exact Stays.refl _ | with_reducible assumption | with_reducible apply done_keeps
    | with_reducible apply setFarLoop_keeps | with_reducible apply touch_keeps | with_reducible apply stays_done
    | with_reducible exact fun x => x | split | intro _ _ _ | with_reducible exact GlbStays.refl _ | with_reducible rfl
    | with_reducible exact Nat.le_refl _ | (intro _ h; with_reducible exact h) | (intro _; with_reducible rfl)
    | (intro _; with_reducible exact Nat.le_refl _)

theorem putPacket_keeps {s0 : State} (s : State) (p : HPort) (c : HChan) (v : Option OpenPacket) (hk : Stays s0 s) :
    Stays s0 (putPacket s p c v) := by
  unfold putPacket
  try dsimp only
  repeat' first
    | with_reducible exact hk | with_reducible apply modPort_keeps

theorem countError_keeps {s0 : State} (s : State) (p : HPort) (k : Nat) (hk : Stays s0 s) :
    Stays s0 (countError s p k) := by
  unfold countError
  try dsimp only
  repeat' first
    | with_reducible exact hk | with_reducible apply evt_keeps | with_reducible apply hwAdd_keeps
    | with_reducible apply hwSat_keeps | with_reducible apply raise_keeps | split

theorem discardBurst_keeps {s0 : State} (s : State) (p : HPort) (c : HChan) (b : Burst) (was : OpenPacket) (cause : Fin 16) (hk : Stays s0 s) :
    Stays s0 (discardBurst s p c b was cause) := by
  unfold discardBurst
  try dsimp only
  repeat' first
    | with_reducible exact hk | with_reducible apply discardCmds_keeps | with_reducible apply countDiscard_keeps
    | with_reducible apply putPacket_keeps | split

theorem truncatedCmd_keeps {s0 : State} (s : State) (p : HPort) (c : HChan) (hk : Stays s0 s) :
    Stays s0 (truncatedCmd s p c) := by
  unfold truncatedCmd
  try dsimp only
  repeat' first
    | with_reducible exact hk | with_reducible apply countError_keeps | with_reducible apply discardCmds_keeps

theorem closeOpen_keeps {s0 : State} (s : State) (p : HPort) (c : HChan) (was : OpenPacket) (hk : Stays s0 s) :
    Stays s0 (closeOpen s p c was) := by
  unfold closeOpen
  try dsimp only
  repeat' first
    | with_reducible exact hk | with_reducible apply countError_keeps | with_reducible apply putPacket_keeps
    | with_reducible apply truncatedCmd_keeps | split

theorem cutOpen_keeps {s0 : State} (s : State) (p : HPort) (was : OpenPacket) (hk : Stays s0 s) :
    Stays s0 (cutOpen s p was) := by
  unfold cutOpen
  try dsimp only
  repeat' first
    | with_reducible exact hk | with_reducible exact Stays.refl _ | with_reducible assumption
    | with_reducible apply countLost_keeps | with_reducible exact fun x => x | split | intro _ _ _
    | with_reducible exact GlbStays.refl _ | with_reducible rfl | with_reducible exact Nat.le_refl _
    | (intro _ h; with_reducible exact h) | (intro _; with_reducible rfl) | (intro _; with_reducible exact Nat.le_refl _)

theorem takeBurst_keeps {s0 : State} (s : State) (p : HPort) (c : HChan) (b : Burst) (was : OpenPacket) (closed : Bool) (hk : Stays s0 s) :
    Stays s0 (takeBurst s p c b was closed) := by
  unfold takeBurst
  try dsimp only
  repeat' first
    | with_reducible exact hk | with_reducible exact Stays.refl _ | with_reducible assumption
    | with_reducible apply accept_keeps | with_reducible apply discardBurst_keeps | with_reducible apply lastDiscard_keeps
    | with_reducible apply putPacket_keeps | with_reducible apply truncatedCmd_keeps | with_reducible apply stays_foldl
    | with_reducible apply stays_foldl_fst | with_reducible apply stays_foldl_snd | with_reducible exact fun x => x | split
    | intro _ _ _ | with_reducible exact GlbStays.refl _ | with_reducible rfl | with_reducible exact Nat.le_refl _
    | (intro _ h; with_reducible exact h) | (intro _; with_reducible rfl) | (intro _; with_reducible exact Nat.le_refl _)

theorem seeLine_keeps {s0 : State} (s : State) (p : HPort) (b : Burst) (hk : Stays s0 s) :
    Stays s0 (seeLine s p b) := by
  unfold seeLine
  try dsimp only
  repeat' first
    | with_reducible exact hk | with_reducible exact Stays.refl _ | with_reducible assumption
    | with_reducible apply countUncorr_keeps | with_reducible apply hwAdd_keeps | with_reducible apply hwFldPut_keeps
    | with_reducible apply pmcCount_keeps | with_reducible apply stays_foldl | with_reducible exact fun x => x | split
    | intro _ _ _ | with_reducible exact GlbStays.refl _ | with_reducible rfl | with_reducible exact Nat.le_refl _
    | (intro _ h; with_reducible exact h) | (intro _; with_reducible rfl) | (intro _; with_reducible exact Nat.le_refl _)

theorem burstIn_keeps {s0 : State} (s : State) (p : HPort) (c : HChan) (b : Burst) (hk : Stays s0 s) :
    Stays s0 (burstIn s p c b) := by
  unfold burstIn
  try dsimp only
  repeat' first
    | with_reducible exact hk | with_reducible exact Stays.refl _ | with_reducible assumption
    | with_reducible apply closeOpen_keeps | with_reducible apply countError_keeps | with_reducible apply cutOpen_keeps
    | with_reducible apply discardBurst_keeps | with_reducible apply hwAdd_keeps | with_reducible apply seeLine_keeps
    | with_reducible apply takeBurst_keeps | with_reducible exact fun x => x | split | intro _ _ _
    | with_reducible exact GlbStays.refl _ | with_reducible rfl | with_reducible exact Nat.le_refl _
    | (intro _ h; with_reducible exact h) | (intro _; with_reducible rfl) | (intro _; with_reducible exact Nat.le_refl _)

theorem execBurstReceived_keeps (p : HPort) (c : HChan) (b : Burst) (s : State) : StaysOut s (execBurstReceived p c b s) := by
  unfold execBurstReceived
  try dsimp only
  repeat' first
    | with_reducible exact Stays.refl _ | with_reducible assumption | with_reducible apply burstIn_keeps
    | with_reducible apply done_keeps | with_reducible apply seeLine_keeps | with_reducible apply settle_keeps
    | with_reducible apply stays_done | with_reducible exact fun x => x | split | intro _ _ _
    | with_reducible exact GlbStays.refl _ | with_reducible rfl | with_reducible exact Nat.le_refl _
    | (intro _ h; with_reducible exact h) | (intro _; with_reducible rfl) | (intro _; with_reducible exact Nat.le_refl _)

theorem execHostCalendarReceived_keeps (p : HPort) (w : CalWord) (s : State) : StaysOut s (execHostCalendarReceived p w s) := by
  unfold execHostCalendarReceived
  try dsimp only
  repeat' first
    | with_reducible exact Stays.refl _ | with_reducible assumption | with_reducible apply done_keeps
    | with_reducible apply modPort_keeps | with_reducible apply stays_done | with_reducible exact fun x => x | split
    | intro _ _ _ | with_reducible exact GlbStays.refl _ | with_reducible rfl | with_reducible exact Nat.le_refl _
    | (intro _ h; with_reducible exact h) | (intro _; with_reducible rfl) | (intro _; with_reducible exact Nat.le_refl _)

end Sys2Proof.Machine
end

