-- ==== Sys2Proof/Laws/KeepsG.lean ====
section
/-! SUPPORT. What every command keeps, operation by operation: Clocks, HostCmd, Lookup, MbxCmd, Thermal, Power, Queues. -/

namespace Sys2Proof.Machine

theorem modClk_keeps {s0 : State} (s : State) (f : Clk → Clk) (hk : Stays s0 s) :
    Stays s0 (modClk s f) := by
  unfold modClk
  try dsimp only
  repeat' first
    | with_reducible exact hk | with_reducible exact fun x => x | with_reducible refine stays_mk ?_ ?_ ?_ ?_ ?_ ?_ ?_ ?_ ?_
    | with_reducible exact GlbStays.refl _ | with_reducible rfl

theorem putSrc_keeps {s0 : State} (s : State) (k : Nat) (v : ClkSrc) (hk : Stays s0 s) :
    Stays s0 (putSrc s k v) := by
  unfold putSrc
  try dsimp only
  repeat' first
    | with_reducible exact hk | with_reducible apply modClk_keeps

theorem portsLose_keeps {s0 : State} (s : State) (hk : Stays s0 s) :
    Stays s0 (portsLose s) := by
  unfold portsLose
  try dsimp only
  repeat' first
    | with_reducible exact hk | with_reducible assumption | with_reducible apply modPort_keeps
    | with_reducible apply portDown_keeps | with_reducible apply stays_foldl | intro _ _ _

theorem clkAction_keeps {s0 : State} (s : State) (k : Nat) (hk : Stays s0 s) :
    Stays s0 (clkAction s k) := by
  unfold clkAction
  try dsimp only
  repeat' first
    | with_reducible exact hk | with_reducible apply mirLinkLost_keeps | with_reducible apply modClk_keeps
    | with_reducible apply pcieLinkLost_keeps | with_reducible apply portsLose_keeps | split

theorem clkFail_keeps {s0 : State} (s : State) (k : Nat) (hk : Stays s0 s) :
    Stays s0 (clkFail s k) := by
  unfold clkFail
  try dsimp only
  repeat' first
    | with_reducible exact hk | with_reducible apply clkAction_keeps | with_reducible apply evt_keeps
    | with_reducible apply hwFldPut_keeps | with_reducible apply hwSet_keeps | with_reducible apply nmi_keeps
    | with_reducible apply raise_keeps

theorem clkRestore_keeps {s0 : State} (s : State) (k : Nat) (hk : Stays s0 s) :
    Stays s0 (clkRestore s k) := by
  unfold clkRestore
  try dsimp only
  repeat' first
    | with_reducible exact hk | with_reducible apply evt_keeps | with_reducible apply modClk_keeps
    | with_reducible apply raise_keeps | split

theorem clkWindow_keeps {s0 : State} (s : State) (k : Nat) (n : BitVec 16) (hk : Stays s0 s) :
    Stays s0 (clkWindow s k n) := by
  unfold clkWindow
  try dsimp only
  repeat' first
    | with_reducible exact hk | with_reducible apply clkFail_keeps | with_reducible apply clkRestore_keeps
    | with_reducible apply hwSet_keeps | with_reducible apply putSrc_keeps | split

theorem takeTrim_keeps {s0 : State} (s : State) (hk : Stays s0 s) :
    Stays s0 (takeTrim s) := by
  unfold takeTrim
  try dsimp only
  repeat' first
    | with_reducible exact hk | with_reducible exact Stays.refl _ | with_reducible assumption
    | with_reducible apply modClk_keeps | with_reducible exact fun x => x | split | intro _ _ _
    | with_reducible refine stays_mk ?_ ?_ ?_ ?_ ?_ ?_ ?_ ?_ ?_  | with_reducible exact GlbStays.refl _ | with_reducible rfl
    | with_reducible exact Nat.le_refl _ | (intro _ h; with_reducible exact h) | (intro _; with_reducible rfl)
    | (intro _; with_reducible exact Nat.le_refl _)

theorem execCrossCountWindowEnd_keeps (sys : BitVec 16) (hp : BitVec 16) (pcie : BitVec 16) (osc : BitVec 16) (s : State) : KeepsOut s (execCrossCountWindowEnd sys hp pcie osc s) := by
  unfold execCrossCountWindowEnd
  try dsimp only
  repeat' first
    | with_reducible exact Keeps.refl _ | with_reducible assumption
    | with_reducible refine Keeps.step ?_ (clkWindow_keeps _ _ _ (Stays.refl _))
    | with_reducible refine Keeps.step ?_ (done_keeps _ (Stays.refl _)) | with_reducible apply faultShutdown_keeps
    | with_reducible refine Keeps.step ?_ (settle_keeps _ (Stays.refl _))
    | with_reducible refine Keeps.step ?_ (takeTrim_keeps _ (Stays.refl _)) | with_reducible apply keeps_done
    | with_reducible exact fun x => x | split | intro _ _ _ | with_reducible exact .inl (.refl _) | with_reducible rfl
    | with_reducible exact Nat.le_refl _ | (intro _ h; with_reducible exact h) | (intro _; with_reducible rfl)
    | (intro _; with_reducible exact Nat.le_refl _)

theorem execOscRatioMeasure_keeps (ratio : BitVec 32) (s : State) : StaysOut s (execOscRatioMeasure ratio s) := by
  unfold execOscRatioMeasure
  try dsimp only
  repeat' first
    | with_reducible exact Stays.refl _ | with_reducible apply modClk_keeps | with_reducible apply stays_done | split

theorem execHsOppTransitionEnd_keeps (s : State) : StaysOut s (execHsOppTransitionEnd s) := by
  unfold execHsOppTransitionEnd
  try dsimp only
  repeat' first
    | with_reducible exact Stays.refl _ | with_reducible apply evt_keeps | with_reducible apply mbxFinish_keeps
    | with_reducible apply modClk_keeps | with_reducible apply raise_keeps | with_reducible apply settle_keeps
    | with_reducible apply stays_done | split

theorem modThm_keeps {s0 : State} (s : State) (f : Thm → Thm) (hk : Stays s0 s) :
    Stays s0 (modThm s f) := by
  unfold modThm
  try dsimp only
  repeat' first
    | with_reducible exact hk | with_reducible exact fun x => x | with_reducible refine stays_mk ?_ ?_ ?_ ?_ ?_ ?_ ?_ ?_ ?_
    | with_reducible exact GlbStays.refl _ | with_reducible rfl

theorem execPaceSample_keeps (slowest : BitVec 16) (s : State) : StaysOut s (execPaceSample slowest s) := by
  unfold execPaceSample
  try dsimp only
  repeat' first
    | with_reducible exact Stays.refl _ | with_reducible apply modThm_keeps | with_reducible apply stays_done | split

theorem execGovernorStep_keeps (s : State) : StaysOut s (execGovernorStep s) := by
  unfold execGovernorStep
  try dsimp only
  repeat' first
    | with_reducible exact Stays.refl _ | with_reducible apply modThm_keeps | with_reducible apply stays_done | split

theorem execPaceLowTimer_keeps (s : State) : StaysOut s (execPaceLowTimer s) := by
  unfold execPaceLowTimer
  try dsimp only
  repeat' first
    | with_reducible exact Stays.refl _ | with_reducible apply modThm_keeps | with_reducible apply raise_keeps
    | with_reducible apply stays_done | split

theorem hostCommand_keeps {s0 : State} (s : State) (x : Slotted) (hk : Stays s0 s) :
    Stays s0 (hostCommand s x) := by
  unfold hostCommand
  try dsimp only
  repeat' first
    | with_reducible exact hk | with_reducible apply accept_keeps | with_reducible apply hwAdd_keeps
    | with_reducible apply settle_keeps | split

theorem execNop_keeps (p : HPort) (c : HChan) (tag : BitVec 12) (du : BitVec 3) (s : State) : StaysOut s (execNop p c tag du s) := by
  unfold execNop
  try dsimp only
  repeat' first
    | with_reducible exact Stays.refl _ | with_reducible apply hostCommand_keeps | with_reducible apply stays_done

theorem execEcho_keeps (p : HPort) (c : HChan) (tag : BitVec 12) (du : BitVec 3) (operand : Word64) (data : BitVec 2048) (s : State) : StaysOut s (execEcho p c tag du operand data s) := by
  unfold execEcho
  try dsimp only
  repeat' first
    | with_reducible exact Stays.refl _ | with_reducible apply hostCommand_keeps | with_reducible apply stays_done

theorem execUnknownOpcode_keeps (p : HPort) (c : HChan) (tag : BitVec 12) (opcode : BitVec 8) (du : BitVec 3) (s : State) : StaysOut s (execUnknownOpcode p c tag opcode du s) := by
  unfold execUnknownOpcode
  try dsimp only
  repeat' first
    | with_reducible exact Stays.refl _ | with_reducible apply hostCommand_keeps | with_reducible apply stays_done

theorem execRd64_keeps (p : HPort) (c : HChan) (tag : BitVec 12) (du : BitVec 3) (pa : PA) (s : State) : StaysOut s (execRd64 p c tag du pa s) := by
  unfold execRd64
  try dsimp only
  repeat' first
    | with_reducible exact Stays.refl _ | with_reducible apply hostCommand_keeps | with_reducible apply stays_done

theorem execRd256_keeps (p : HPort) (c : HChan) (tag : BitVec 12) (du : BitVec 3) (pa : PA) (s : State) : StaysOut s (execRd256 p c tag du pa s) := by
  unfold execRd256
  try dsimp only
  repeat' first
    | with_reducible exact Stays.refl _ | with_reducible apply hostCommand_keeps | with_reducible apply stays_done

theorem execWr64_keeps (p : HPort) (c : HChan) (tag : BitVec 12) (du : BitVec 3) (pa : PA) (data : Line) (s : State) : StaysOut s (execWr64 p c tag du pa data s) := by
  unfold execWr64
  try dsimp only
  repeat' first
    | with_reducible exact Stays.refl _ | with_reducible apply hostCommand_keeps | with_reducible apply stays_done

theorem execWr256_keeps (p : HPort) (c : HChan) (tag : BitVec 12) (du : BitVec 3) (pa : PA) (data : Sector) (s : State) : StaysOut s (execWr256 p c tag du pa data s) := by
  unfold execWr256
  try dsimp only
  repeat' first
    | with_reducible exact Stays.refl _ | with_reducible apply hostCommand_keeps | with_reducible apply stays_done

theorem execWrm64_keeps (p : HPort) (c : HChan) (tag : BitVec 12) (du : BitVec 3) (pa : PA) (mask : BitVec 64) (data : Line) (s : State) : StaysOut s (execWrm64 p c tag du pa mask data s) := by
  unfold execWrm64
  try dsimp only
  repeat' first
    | with_reducible exact Stays.refl _ | with_reducible apply hostCommand_keeps | with_reducible apply stays_done

theorem execFadd64_keeps (p : HPort) (c : HChan) (tag : BitVec 12) (du : BitVec 3) (pa : PA) (addend : Word64) (s : State) : StaysOut s (execFadd64 p c tag du pa addend s) := by
  unfold execFadd64
  try dsimp only
  repeat' first
    | with_reducible exact Stays.refl _ | with_reducible apply hostCommand_keeps | with_reducible apply stays_done

theorem execCswap64_keeps (p : HPort) (c : HChan) (tag : BitVec 12) (du : BitVec 3) (pa : PA) (compare : Word64) (data : Line) (s : State) : StaysOut s (execCswap64 p c tag du pa compare data s) := by
  unfold execCswap64
  try dsimp only
  repeat' first
    | with_reducible exact Stays.refl _ | with_reducible apply hostCommand_keeps | with_reducible apply stays_done

theorem execCadd_keeps (p : HPort) (c : HChan) (tag : BitVec 12) (du : BitVec 3) (pa : PA) (deltas : Word64) (s : State) : StaysOut s (execCadd p c tag du pa deltas s) := by
  unfold execCadd
  try dsimp only
  repeat' first
    | with_reducible exact Stays.refl _ | with_reducible apply hostCommand_keeps | with_reducible apply stays_done

theorem execCrd_keeps (p : HPort) (c : HChan) (tag : BitVec 12) (du : BitVec 3) (pa : PA) (s : State) : StaysOut s (execCrd p c tag du pa s) := by
  unfold execCrd
  try dsimp only
  repeat' first
    | with_reducible exact Stays.refl _ | with_reducible apply hostCommand_keeps | with_reducible apply stays_done

theorem execLkup_keeps (p : HPort) (c : HChan) (tag : BitVec 12) (du : BitVec 3) (addr : BitVec 40) (operand : Word64) (data : BitVec 2048) (s : State) : StaysOut s (execLkup p c tag du addr operand data s) := by
  unfold execLkup
  try dsimp only
  repeat' first
    | with_reducible exact Stays.refl _ | with_reducible apply hostCommand_keeps | with_reducible apply stays_done

theorem execEnq_keeps (p : HPort) (c : HChan) (tag : BitVec 12) (du : BitVec 3) (addr : BitVec 40) (operand : Word64) (data : BitVec 2048) (s : State) : StaysOut s (execEnq p c tag du addr operand data s) := by
  unfold execEnq
  try dsimp only
  repeat' first
    | with_reducible exact Stays.refl _ | with_reducible apply hostCommand_keeps | with_reducible apply stays_done

theorem execDeq_keeps (p : HPort) (c : HChan) (tag : BitVec 12) (du : BitVec 3) (addr : BitVec 40) (s : State) : StaysOut s (execDeq p c tag du addr s) := by
  unfold execDeq
  try dsimp only
  repeat' first
    | with_reducible exact Stays.refl _ | with_reducible apply hostCommand_keeps | with_reducible apply stays_done

theorem execQflush_keeps (p : HPort) (c : HChan) (tag : BitVec 12) (du : BitVec 3) (addr : BitVec 40) (s : State) : StaysOut s (execQflush p c tag du addr s) := by
  unfold execQflush
  try dsimp only
  repeat' first
    | with_reducible exact Stays.refl _ | with_reducible apply hostCommand_keeps | with_reducible apply stays_done

theorem execQstat_keeps (p : HPort) (c : HChan) (tag : BitVec 12) (du : BitVec 3) (addr : BitVec 40) (s : State) : StaysOut s (execQstat p c tag du addr s) := by
  unfold execQstat
  try dsimp only
  repeat' first
    | with_reducible exact Stays.refl _ | with_reducible apply hostCommand_keeps | with_reducible apply stays_done

theorem execFence_keeps (p : HPort) (c : HChan) (tag : BitVec 12) (du : BitVec 3) (s : State) : StaysOut s (execFence p c tag du s) := by
  unfold execFence
  try dsimp only
  repeat' first
    | with_reducible exact Stays.refl _ | with_reducible apply hostCommand_keeps | with_reducible apply stays_done

theorem execPersist_keeps (p : HPort) (c : HChan) (tag : BitVec 12) (du : BitVec 3) (s : State) : StaysOut s (execPersist p c tag du s) := by
  unfold execPersist
  try dsimp only
  repeat' first
    | with_reducible exact Stays.refl _ | with_reducible apply hostCommand_keeps | with_reducible apply stays_done

theorem execFencePerformed_keeps (p : HPort) (c : HChan) (s : State) : StaysOut s (execFencePerformed p c s) := by
  unfold execFencePerformed
  try dsimp only
  repeat' first
    | with_reducible exact Stays.refl _ | with_reducible apply refuse_keeps | with_reducible apply settle_keeps
    | with_reducible apply stays_done | split

theorem execPersistComplete_keeps (p : HPort) (c : HChan) (tag : BitVec 12) (s : State) : StaysOut s (execPersistComplete p c tag s) := by
  unfold execPersistComplete
  try dsimp only
  repeat' first
    | with_reducible exact Stays.refl _ | with_reducible apply refuse_keeps | with_reducible apply settle_keeps
    | with_reducible apply stays_done | split

theorem readmit_keeps {s0 : State} (s : State) (id : Nat) (hk : Stays s0 s) :
    Stays s0 (readmit s id) := by
  unfold readmit
  try dsimp only
  repeat' first
    | with_reducible exact hk | with_reducible apply admitWrite_keeps | with_reducible apply resume_keeps | split

theorem askAgain_keeps {s0 : State} (s : State) (w : Waiter) (hk : Stays s0 s) : Stays s0 (askAgain s w) := by
  unfold askAgain
  split
  · exact readmit_keeps _ _ hk
  · exact mbxTry_keeps _ _ _ hk
  · exact clearStep_keeps _ _ hk
  · exact writeLeaves_keeps _ hk
  · exact applyInbox_keeps _ _ _ hk

theorem execChargeReservationGrant_keeps (s : State) : StaysOut s (execChargeReservationGrant s) := by
  unfold execChargeReservationGrant
  split
  · exact stays_done (Stays.refl _)
  · rename_i w rest _
    have h : Stays s (askAgain { s with krf := { s.krf with waiters := [] } } w) :=
      askAgain_keeps _ _ (stays_mk (Stays.refl s) (.refl _) rfl (Nat.le_refl _) id id id id id)
    dsimp only
    generalize askAgain { s with krf := { s.krf with waiters := [] } } w = t at h ⊢
    split
    · exact stays_done (settle_keeps _ (stays_mk h (.refl _) rfl (Nat.le_refl _) id id id id id))
    · exact stays_done (stays_mk (Stays.refl s) (.refl _) rfl (Nat.le_refl _) id id id id id)

theorem execRestTokensAvailable_keeps (p : HPort) (c : HChan) (s : State) : StaysOut s (execRestTokensAvailable p c s) := by
  unfold execRestTokensAvailable
  try dsimp only
  repeat' first
    | with_reducible exact Stays.refl _ | with_reducible apply dispatchCmd_keeps | with_reducible apply restCharge_keeps
    | with_reducible apply settle_keeps | with_reducible apply stays_done | split

theorem execThrottleTokensAvailable_keeps (p : HPort) (c : HChan) (s : State) : StaysOut s (execThrottleTokensAvailable p c s) := by
  unfold execThrottleTokensAvailable
  try dsimp only
  repeat' first
    | with_reducible exact Stays.refl _ | with_reducible apply restStep_keeps | with_reducible apply settle_keeps
    | with_reducible apply throttleCharge_keeps | with_reducible apply stays_done | split

theorem txCharge_keeps {s0 : State} (s : State) (p : HPort) (n : Nat) (hk : Stays s0 s) :
    Stays s0 (txCharge s p n) := by
  unfold txCharge
  try dsimp only
  repeat' first
    | with_reducible exact hk | with_reducible exact Stays.refl _ | with_reducible assumption
    | with_reducible apply modPort_keeps | with_reducible exact fun x => x | split | intro _ _ _
    | with_reducible refine stays_mk ?_ ?_ ?_ ?_ ?_ ?_ ?_ ?_ ?_  | with_reducible exact GlbStays.refl _ | with_reducible rfl
    | with_reducible exact Nat.le_refl _ | (intro _ h; with_reducible exact h) | (intro _; with_reducible rfl)
    | (intro _; with_reducible exact Nat.le_refl _)

theorem sendBurst_keeps {s0 : State} (s : State) (p : HPort) (c : HChan) (k : TxPacket) (hk : Stays s0 s) :
    Stays s0 (sendBurst s p c k) := by
  unfold sendBurst
  try dsimp only
  repeat' first
    | with_reducible exact hk | with_reducible exact Stays.refl _ | with_reducible assumption | with_reducible apply emit_keeps
    | with_reducible apply hwAdd_keeps | with_reducible apply modPort_keeps | with_reducible apply sendResp_keeps
    | with_reducible apply setCfg_keeps | with_reducible apply txCharge_keeps | with_reducible apply stays_foldl
    | with_reducible exact fun x => x | split | intro _ _ _ | with_reducible refine stays_mk ?_ ?_ ?_ ?_ ?_ ?_ ?_ ?_ ?_
    | with_reducible exact GlbStays.refl _ | with_reducible rfl | with_reducible exact Nat.le_refl _
    | (intro _ h; with_reducible exact h) | (intro _; with_reducible rfl) | (intro _; with_reducible exact Nat.le_refl _)

theorem execResponseSend_keeps (p : HPort) (c : HChan) (tags : List (BitVec 12)) (s : State) : StaysOut s (execResponseSend p c tags s) := by
  unfold execResponseSend
  try dsimp only
  repeat' first
    | with_reducible exact Stays.refl _ | with_reducible assumption | with_reducible apply done_keeps
    | with_reducible apply sendBurst_keeps | with_reducible apply settle_keeps | with_reducible apply stays_done
    | with_reducible exact fun x => x | split | intro _ _ _ | with_reducible exact GlbStays.refl _ | with_reducible rfl
    | with_reducible exact Nat.le_refl _ | (intro _ h; with_reducible exact h) | (intro _; with_reducible rfl)
    | (intro _; with_reducible exact Nat.le_refl _)

theorem execTierReload_keeps (table : BitVec 8) (s : State) : StaysOut s (execTierReload table s) := by
  unfold execTierReload
  try dsimp only
  repeat' first
    | with_reducible exact Stays.refl _ | with_reducible assumption | with_reducible apply done_keeps
    | with_reducible apply loadItems_keeps | with_reducible apply modLke_keeps | with_reducible apply stays_done
    | with_reducible exact fun x => x | split | intro _ _ _ | with_reducible refine stays_mk ?_ ?_ ?_ ?_ ?_ ?_ ?_ ?_ ?_
    | with_reducible exact GlbStays.refl _ | with_reducible rfl | with_reducible exact Nat.le_refl _
    | (intro _ h; with_reducible exact h) | (intro _; with_reducible rfl) | (intro _; with_reducible exact Nat.le_refl _)

theorem execLkeWatchdogExpiry_keeps (e : Engine) (s : State) : StaysOut s (execLkeWatchdogExpiry e s) := by
  unfold execLkeWatchdogExpiry
  try dsimp only
  repeat' first
    | with_reducible exact Stays.refl _ | with_reducible apply engineFail_keeps | with_reducible apply settle_keeps
    | with_reducible apply stays_done | split

theorem execLkeDatapathError_keeps (e : Engine) (s : State) : StaysOut s (execLkeDatapathError e s) := by
  unfold execLkeDatapathError
  try dsimp only
  repeat' first
    | with_reducible exact Stays.refl _ | with_reducible apply engineFail_keeps | with_reducible apply settle_keeps
    | with_reducible apply stays_done | split

theorem forceEngine_keeps {s0 : State} (s : State) (e : Engine) (hk : Stays s0 s) :
    Stays s0 (forceEngine s e) := by
  unfold forceEngine
  try dsimp only
  repeat' first
    | with_reducible exact hk | with_reducible apply engineFail_keeps | split

theorem execLkeForceFail_keeps (e : Engine) (s : State) : StaysOut s (execLkeForceFail e s) := by
  unfold execLkeForceFail
  try dsimp only
  repeat' first
    | with_reducible exact Stays.refl _ | with_reducible assumption | with_reducible apply badAccess_keeps
    | with_reducible apply done_keeps | with_reducible apply forceEngine_keeps | with_reducible apply setCfg_keeps
    | with_reducible apply settle_keeps | with_reducible apply touch_keeps | with_reducible apply stays_done
    | with_reducible exact fun x => x | split | intro _ _ _ | with_reducible exact GlbStays.refl _ | with_reducible rfl
    | with_reducible exact Nat.le_refl _ | (intro _ h; with_reducible exact h) | (intro _; with_reducible rfl)
    | (intro _; with_reducible exact Nat.le_refl _)

theorem execTblCommitSwitch_keeps (s : State) : StaysOut s (execTblCommitSwitch s) := by
  unfold execTblCommitSwitch
  try dsimp only
  repeat' first
    | with_reducible exact Stays.refl _ | with_reducible apply settle_keeps | with_reducible apply tblSwitch_keeps
    | with_reducible apply stays_done | split

theorem mbxGo_keeps {s0 : State} (s : State) (m : Mbx) (hk : Stays s0 s) :
    Stays s0 (mbxGo s m) := by
  unfold mbxGo
  try dsimp only
  repeat' first
    | with_reducible exact hk | with_reducible apply badAccess_keeps | with_reducible apply freeNext_keeps
    | with_reducible apply mbxCapture_keeps | with_reducible apply mbxTry_keeps | with_reducible apply settle_keeps | split

theorem mbxStop_keeps {s0 : State} (s : State) (m : Mbx) (hk : Stays s0 s) :
    Stays s0 (mbxStop s m) := by
  unfold mbxStop
  try dsimp only
  repeat' first
    | with_reducible exact hk | with_reducible exact Stays.refl _ | with_reducible assumption
    | with_reducible apply endClear_keeps | with_reducible apply endRecreate_keeps | with_reducible apply mbxFinish_keeps
    | with_reducible apply modMbx_keeps | with_reducible exact fun x => x | split | intro _ _ _
    | with_reducible refine stays_mk ?_ ?_ ?_ ?_ ?_ ?_ ?_ ?_ ?_  | with_reducible exact GlbStays.refl _ | with_reducible rfl
    | with_reducible exact Nat.le_refl _ | (intro _ h; with_reducible exact h) | (intro _; with_reducible rfl)
    | (intro _; with_reducible exact Nat.le_refl _)

theorem mbxFree_keeps {s0 : State} (s : State) (m : Mbx) (hk : Stays s0 s) :
    Stays s0 (mbxFree s m) := by
  unfold mbxFree
  try dsimp only
  repeat' first
    | with_reducible exact hk | with_reducible apply badAccess_keeps | with_reducible apply modMbx_keeps | split
    | (intro _ h; with_reducible exact h)

theorem mbxCommand_keeps {s0 : State} (s : State) (m : Mbx) (op : Nat) (req : List Byte) (irq : Bool) (flash : Bool) (hk : Stays s0 s) :
    Stays s0 (mbxCommand s m op req irq flash) := by
  unfold mbxCommand
  try dsimp only
  repeat' first
    | with_reducible exact hk | with_reducible apply badAccess_keeps | with_reducible apply mbxCapture_keeps
    | with_reducible apply mbxPlace_keeps | with_reducible apply mbxTry_keeps | with_reducible apply settle_keeps | split

theorem execMbxAbort_keeps (m : Mbx) (s : State) : StaysOut s (execMbxAbort m s) := by
  unfold execMbxAbort
  try dsimp only
  repeat' first
    | with_reducible exact Stays.refl _ | with_reducible apply mbxStop_keeps | with_reducible apply settle_keeps
    | with_reducible apply stays_done | split

theorem execMbxRelease_keeps (m : Mbx) (s : State) : StaysOut s (execMbxRelease m s) := by
  unfold execMbxRelease
  try dsimp only
  repeat' first
    | with_reducible exact Stays.refl _ | with_reducible apply mbxFree_keeps | with_reducible apply stays_done | split

theorem execMbxBadOpcode_keeps (m : Mbx) (opcode : BitVec 16) (req : List Byte) (irq : Bool) (s : State) : StaysOut s (execMbxBadOpcode m opcode req irq s) := by
  unfold execMbxBadOpcode
  try dsimp only
  repeat' first
    | with_reducible exact Stays.refl _ | with_reducible apply mbxCommand_keeps | with_reducible apply stays_done

theorem execFwToSpi_keeps (m : Mbx) (req : List Byte) (irq : Bool) (flashOk : Bool) (s : State) : StaysOut s (execFwToSpi m req irq flashOk s) := by
  unfold execFwToSpi
  try dsimp only
  repeat' first
    | with_reducible exact Stays.refl _ | with_reducible apply mbxCommand_keeps | with_reducible apply stays_done

theorem execDevInfo_keeps (m : Mbx) (req : List Byte) (irq : Bool) (s : State) : StaysOut s (execDevInfo m req irq s) := by
  unfold execDevInfo
  try dsimp only
  repeat' first
    | with_reducible exact Stays.refl _ | with_reducible apply mbxCommand_keeps | with_reducible apply stays_done

theorem execDevEcho_keeps (m : Mbx) (req : List Byte) (irq : Bool) (s : State) : StaysOut s (execDevEcho m req irq s) := by
  unfold execDevEcho
  try dsimp only
  repeat' first
    | with_reducible exact Stays.refl _ | with_reducible apply mbxCommand_keeps | with_reducible apply stays_done

theorem execRegionGet_keeps (m : Mbx) (req : List Byte) (irq : Bool) (s : State) : StaysOut s (execRegionGet m req irq s) := by
  unfold execRegionGet
  try dsimp only
  repeat' first
    | with_reducible exact Stays.refl _ | with_reducible apply mbxCommand_keeps | with_reducible apply stays_done

theorem execRegionSet_keeps (m : Mbx) (req : List Byte) (irq : Bool) (s : State) : StaysOut s (execRegionSet m req irq s) := by
  unfold execRegionSet
  try dsimp only
  repeat' first
    | with_reducible exact Stays.refl _ | with_reducible apply mbxCommand_keeps | with_reducible apply stays_done

theorem execRegionRecreate_keeps (m : Mbx) (req : List Byte) (irq : Bool) (s : State) : StaysOut s (execRegionRecreate m req irq s) := by
  unfold execRegionRecreate
  try dsimp only
  repeat' first
    | with_reducible exact Stays.refl _ | with_reducible apply mbxCommand_keeps | with_reducible apply stays_done

theorem execForceFail_keeps (m : Mbx) (req : List Byte) (irq : Bool) (s : State) : StaysOut s (execForceFail m req irq s) := by
  unfold execForceFail
  try dsimp only
  repeat' first
    | with_reducible exact Stays.refl _ | with_reducible apply mbxCommand_keeps | with_reducible apply stays_done

theorem execTblCreate_keeps (m : Mbx) (req : List Byte) (irq : Bool) (s : State) : StaysOut s (execTblCreate m req irq s) := by
  unfold execTblCreate
  try dsimp only
  repeat' first
    | with_reducible exact Stays.refl _ | with_reducible apply mbxCommand_keeps | with_reducible apply stays_done

theorem execTblDelete_keeps (m : Mbx) (req : List Byte) (irq : Bool) (s : State) : StaysOut s (execTblDelete m req irq s) := by
  unfold execTblDelete
  try dsimp only
  repeat' first
    | with_reducible exact Stays.refl _ | with_reducible apply mbxCommand_keeps | with_reducible apply stays_done

theorem execTblUpdate_keeps (m : Mbx) (req : List Byte) (irq : Bool) (s : State) : StaysOut s (execTblUpdate m req irq s) := by
  unfold execTblUpdate
  try dsimp only
  repeat' first
    | with_reducible exact Stays.refl _ | with_reducible apply mbxCommand_keeps | with_reducible apply stays_done

theorem execTblCommit_keeps (m : Mbx) (req : List Byte) (irq : Bool) (s : State) : StaysOut s (execTblCommit m req irq s) := by
  unfold execTblCommit
  try dsimp only
  repeat' first
    | with_reducible exact Stays.refl _ | with_reducible apply mbxCommand_keeps | with_reducible apply stays_done

theorem execTblAbort_keeps (m : Mbx) (req : List Byte) (irq : Bool) (s : State) : StaysOut s (execTblAbort m req irq s) := by
  unfold execTblAbort
  try dsimp only
  repeat' first
    | with_reducible exact Stays.refl _ | with_reducible apply mbxCommand_keeps | with_reducible apply stays_done

theorem execTblQuery_keeps (m : Mbx) (req : List Byte) (irq : Bool) (s : State) : StaysOut s (execTblQuery m req irq s) := by
  unfold execTblQuery
  try dsimp only
  repeat' first
    | with_reducible exact Stays.refl _ | with_reducible apply mbxCommand_keeps | with_reducible apply stays_done

theorem execTblInfo_keeps (m : Mbx) (req : List Byte) (irq : Bool) (s : State) : StaysOut s (execTblInfo m req irq s) := by
  unfold execTblInfo
  try dsimp only
  repeat' first
    | with_reducible exact Stays.refl _ | with_reducible apply mbxCommand_keeps | with_reducible apply stays_done

theorem execProfileSet_keeps (m : Mbx) (req : List Byte) (irq : Bool) (s : State) : StaysOut s (execProfileSet m req irq s) := by
  unfold execProfileSet
  try dsimp only
  repeat' first
    | with_reducible exact Stays.refl _ | with_reducible apply mbxCommand_keeps | with_reducible apply stays_done

theorem execProfileGet_keeps (m : Mbx) (req : List Byte) (irq : Bool) (s : State) : StaysOut s (execProfileGet m req irq s) := by
  unfold execProfileGet
  try dsimp only
  repeat' first
    | with_reducible exact Stays.refl _ | with_reducible apply mbxCommand_keeps | with_reducible apply stays_done

theorem execPoolSet_keeps (m : Mbx) (req : List Byte) (irq : Bool) (s : State) : StaysOut s (execPoolSet m req irq s) := by
  unfold execPoolSet
  try dsimp only
  repeat' first
    | with_reducible exact Stays.refl _ | with_reducible apply mbxCommand_keeps | with_reducible apply stays_done

theorem execPoolInfo_keeps (m : Mbx) (req : List Byte) (irq : Bool) (s : State) : StaysOut s (execPoolInfo m req irq s) := by
  unfold execPoolInfo
  try dsimp only
  repeat' first
    | with_reducible exact Stays.refl _ | with_reducible apply mbxCommand_keeps | with_reducible apply stays_done

theorem execQueueSet_keeps (m : Mbx) (req : List Byte) (irq : Bool) (s : State) : StaysOut s (execQueueSet m req irq s) := by
  unfold execQueueSet
  try dsimp only
  repeat' first
    | with_reducible exact Stays.refl _ | with_reducible apply mbxCommand_keeps | with_reducible apply stays_done

theorem execQueueGet_keeps (m : Mbx) (req : List Byte) (irq : Bool) (s : State) : StaysOut s (execQueueGet m req irq s) := by
  unfold execQueueGet
  try dsimp only
  repeat' first
    | with_reducible exact Stays.refl _ | with_reducible apply mbxCommand_keeps | with_reducible apply stays_done

theorem execCntClear_keeps (m : Mbx) (req : List Byte) (irq : Bool) (s : State) : StaysOut s (execCntClear m req irq s) := by
  unfold execCntClear
  try dsimp only
  repeat' first
    | with_reducible exact Stays.refl _ | with_reducible apply mbxCommand_keeps | with_reducible apply stays_done

theorem execCntInfo_keeps (m : Mbx) (req : List Byte) (irq : Bool) (s : State) : StaysOut s (execCntInfo m req irq s) := by
  unfold execCntInfo
  try dsimp only
  repeat' first
    | with_reducible exact Stays.refl _ | with_reducible apply mbxCommand_keeps | with_reducible apply stays_done

theorem execDevkeyInstall_keeps (m : Mbx) (req : List Byte) (irq : Bool) (s : State) : StaysOut s (execDevkeyInstall m req irq s) := by
  unfold execDevkeyInstall
  try dsimp only
  repeat' first
    | with_reducible exact Stays.refl _ | with_reducible apply mbxCommand_keeps | with_reducible apply stays_done

theorem execDevkeyZeroise_keeps (m : Mbx) (req : List Byte) (irq : Bool) (s : State) : StaysOut s (execDevkeyZeroise m req irq s) := by
  unfold execDevkeyZeroise
  try dsimp only
  repeat' first
    | with_reducible exact Stays.refl _ | with_reducible apply mbxCommand_keeps | with_reducible apply stays_done

theorem execKeyLoad_keeps (m : Mbx) (req : List Byte) (irq : Bool) (s : State) : StaysOut s (execKeyLoad m req irq s) := by
  unfold execKeyLoad
  try dsimp only
  repeat' first
    | with_reducible exact Stays.refl _ | with_reducible apply mbxCommand_keeps | with_reducible apply stays_done

theorem execKeyBind_keeps (m : Mbx) (req : List Byte) (irq : Bool) (s : State) : StaysOut s (execKeyBind m req irq s) := by
  unfold execKeyBind
  try dsimp only
  repeat' first
    | with_reducible exact Stays.refl _ | with_reducible apply mbxCommand_keeps | with_reducible apply stays_done

theorem execKeyChange_keeps (m : Mbx) (req : List Byte) (irq : Bool) (s : State) : StaysOut s (execKeyChange m req irq s) := by
  unfold execKeyChange
  try dsimp only
  repeat' first
    | with_reducible exact Stays.refl _ | with_reducible apply mbxCommand_keeps | with_reducible apply stays_done

theorem execKeyUnbind_keeps (m : Mbx) (req : List Byte) (irq : Bool) (s : State) : StaysOut s (execKeyUnbind m req irq s) := by
  unfold execKeyUnbind
  try dsimp only
  repeat' first
    | with_reducible exact Stays.refl _ | with_reducible apply mbxCommand_keeps | with_reducible apply stays_done

theorem execKeyRetire_keeps (m : Mbx) (req : List Byte) (irq : Bool) (s : State) : StaysOut s (execKeyRetire m req irq s) := by
  unfold execKeyRetire
  try dsimp only
  repeat' first
    | with_reducible exact Stays.refl _ | with_reducible apply mbxCommand_keeps | with_reducible apply stays_done

theorem execKeyInfo_keeps (m : Mbx) (req : List Byte) (irq : Bool) (s : State) : StaysOut s (execKeyInfo m req irq s) := by
  unfold execKeyInfo
  try dsimp only
  repeat' first
    | with_reducible exact Stays.refl _ | with_reducible apply mbxCommand_keeps | with_reducible apply stays_done

theorem execPstInfo_keeps (m : Mbx) (req : List Byte) (irq : Bool) (s : State) : StaysOut s (execPstInfo m req irq s) := by
  unfold execPstInfo
  try dsimp only
  repeat' first
    | with_reducible exact Stays.refl _ | with_reducible apply mbxCommand_keeps | with_reducible apply stays_done

theorem execPstRead_keeps (m : Mbx) (req : List Byte) (irq : Bool) (s : State) : StaysOut s (execPstRead m req irq s) := by
  unfold execPstRead
  try dsimp only
  repeat' first
    | with_reducible exact Stays.refl _ | with_reducible apply mbxCommand_keeps | with_reducible apply stays_done

theorem execPstWrite_keeps (m : Mbx) (req : List Byte) (irq : Bool) (s : State) : StaysOut s (execPstWrite m req irq s) := by
  unfold execPstWrite
  try dsimp only
  repeat' first
    | with_reducible exact Stays.refl _ | with_reducible apply mbxCommand_keeps | with_reducible apply stays_done

theorem execPstPassword_keeps (m : Mbx) (req : List Byte) (irq : Bool) (s : State) : StaysOut s (execPstPassword m req irq s) := by
  unfold execPstPassword
  try dsimp only
  repeat' first
    | with_reducible exact Stays.refl _ | with_reducible apply mbxCommand_keeps | with_reducible apply stays_done

theorem execPstCtrRead_keeps (m : Mbx) (req : List Byte) (irq : Bool) (s : State) : StaysOut s (execPstCtrRead m req irq s) := by
  unfold execPstCtrRead
  try dsimp only
  repeat' first
    | with_reducible exact Stays.refl _ | with_reducible apply mbxCommand_keeps | with_reducible apply stays_done

theorem execPstCtrInc_keeps (m : Mbx) (req : List Byte) (irq : Bool) (s : State) : StaysOut s (execPstCtrInc m req irq s) := by
  unfold execPstCtrInc
  try dsimp only
  repeat' first
    | with_reducible exact Stays.refl _ | with_reducible apply mbxCommand_keeps | with_reducible apply stays_done

theorem execEvtFreeze_keeps (m : Mbx) (req : List Byte) (irq : Bool) (s : State) : StaysOut s (execEvtFreeze m req irq s) := by
  unfold execEvtFreeze
  try dsimp only
  repeat' first
    | with_reducible exact Stays.refl _ | with_reducible apply mbxCommand_keeps | with_reducible apply stays_done

theorem execEvtThaw_keeps (m : Mbx) (req : List Byte) (irq : Bool) (s : State) : StaysOut s (execEvtThaw m req irq s) := by
  unfold execEvtThaw
  try dsimp only
  repeat' first
    | with_reducible exact Stays.refl _ | with_reducible apply mbxCommand_keeps | with_reducible apply stays_done

theorem execEvtRead_keeps (m : Mbx) (req : List Byte) (irq : Bool) (s : State) : StaysOut s (execEvtRead m req irq s) := by
  unfold execEvtRead
  try dsimp only
  repeat' first
    | with_reducible exact Stays.refl _ | with_reducible apply mbxCommand_keeps | with_reducible apply stays_done

theorem execEvtClear_keeps (m : Mbx) (req : List Byte) (irq : Bool) (s : State) : StaysOut s (execEvtClear m req irq s) := by
  unfold execEvtClear
  try dsimp only
  repeat' first
    | with_reducible exact Stays.refl _ | with_reducible apply mbxCommand_keeps | with_reducible apply stays_done

theorem execEvtLimitSet_keeps (m : Mbx) (req : List Byte) (irq : Bool) (s : State) : StaysOut s (execEvtLimitSet m req irq s) := by
  unfold execEvtLimitSet
  try dsimp only
  repeat' first
    | with_reducible exact Stays.refl _ | with_reducible apply mbxCommand_keeps | with_reducible apply stays_done

theorem execEvtLimitGet_keeps (m : Mbx) (req : List Byte) (irq : Bool) (s : State) : StaysOut s (execEvtLimitGet m req irq s) := by
  unfold execEvtLimitGet
  try dsimp only
  repeat' first
    | with_reducible exact Stays.refl _ | with_reducible apply mbxCommand_keeps | with_reducible apply stays_done

theorem execMirPair_keeps (m : Mbx) (req : List Byte) (irq : Bool) (s : State) : StaysOut s (execMirPair m req irq s) := by
  unfold execMirPair
  try dsimp only
  repeat' first
    | with_reducible exact Stays.refl _ | with_reducible apply mbxCommand_keeps | with_reducible apply stays_done

theorem execMirUnpair_keeps (m : Mbx) (req : List Byte) (irq : Bool) (s : State) : StaysOut s (execMirUnpair m req irq s) := by
  unfold execMirUnpair
  try dsimp only
  repeat' first
    | with_reducible exact Stays.refl _ | with_reducible apply mbxCommand_keeps | with_reducible apply stays_done

theorem execMirPromote_keeps (m : Mbx) (req : List Byte) (irq : Bool) (s : State) : StaysOut s (execMirPromote m req irq s) := by
  unfold execMirPromote
  try dsimp only
  repeat' first
    | with_reducible exact Stays.refl _ | with_reducible apply mbxCommand_keeps | with_reducible apply stays_done

theorem execMirSak_keeps (m : Mbx) (req : List Byte) (irq : Bool) (s : State) : StaysOut s (execMirSak m req irq s) := by
  unfold execMirSak
  try dsimp only
  repeat' first
    | with_reducible exact Stays.refl _ | with_reducible apply mbxCommand_keeps | with_reducible apply stays_done

theorem execMirSakClear_keeps (m : Mbx) (req : List Byte) (irq : Bool) (s : State) : StaysOut s (execMirSakClear m req irq s) := by
  unfold execMirSakClear
  try dsimp only
  repeat' first
    | with_reducible exact Stays.refl _ | with_reducible apply mbxCommand_keeps | with_reducible apply stays_done

theorem execMirInfo_keeps (m : Mbx) (req : List Byte) (irq : Bool) (s : State) : StaysOut s (execMirInfo m req irq s) := by
  unfold execMirInfo
  try dsimp only
  repeat' first
    | with_reducible exact Stays.refl _ | with_reducible apply mbxCommand_keeps | with_reducible apply stays_done

theorem execMirReseed_keeps (m : Mbx) (req : List Byte) (irq : Bool) (s : State) : StaysOut s (execMirReseed m req irq s) := by
  unfold execMirReseed
  try dsimp only
  repeat' first
    | with_reducible exact Stays.refl _ | with_reducible apply mbxCommand_keeps | with_reducible apply stays_done

theorem execDumpInfo_keeps (m : Mbx) (req : List Byte) (irq : Bool) (s : State) : StaysOut s (execDumpInfo m req irq s) := by
  unfold execDumpInfo
  try dsimp only
  repeat' first
    | with_reducible exact Stays.refl _ | with_reducible apply mbxCommand_keeps | with_reducible apply stays_done

theorem execDumpRead_keeps (m : Mbx) (req : List Byte) (irq : Bool) (s : State) : StaysOut s (execDumpRead m req irq s) := by
  unfold execDumpRead
  try dsimp only
  repeat' first
    | with_reducible exact Stays.refl _ | with_reducible apply mbxCommand_keeps | with_reducible apply stays_done

theorem execDumpRelease_keeps (m : Mbx) (req : List Byte) (irq : Bool) (s : State) : StaysOut s (execDumpRelease m req irq s) := by
  unfold execDumpRelease
  try dsimp only
  repeat' first
    | with_reducible exact Stays.refl _ | with_reducible apply mbxCommand_keeps | with_reducible apply stays_done

theorem execFwInfo_keeps (m : Mbx) (req : List Byte) (irq : Bool) (s : State) : StaysOut s (execFwInfo m req irq s) := by
  unfold execFwInfo
  try dsimp only
  repeat' first
    | with_reducible exact Stays.refl _ | with_reducible apply mbxCommand_keeps | with_reducible apply stays_done

theorem execFwWrite_keeps (m : Mbx) (req : List Byte) (irq : Bool) (s : State) : StaysOut s (execFwWrite m req irq s) := by
  unfold execFwWrite
  try dsimp only
  repeat' first
    | with_reducible exact Stays.refl _ | with_reducible apply mbxCommand_keeps | with_reducible apply stays_done

theorem execFwActivate_keeps (m : Mbx) (req : List Byte) (irq : Bool) (s : State) : StaysOut s (execFwActivate m req irq s) := by
  unfold execFwActivate
  try dsimp only
  repeat' first
    | with_reducible exact Stays.refl _ | with_reducible apply mbxCommand_keeps | with_reducible apply stays_done

theorem execFwConfirm_keeps (m : Mbx) (req : List Byte) (irq : Bool) (s : State) : StaysOut s (execFwConfirm m req irq s) := by
  unfold execFwConfirm
  try dsimp only
  repeat' first
    | with_reducible exact Stays.refl _ | with_reducible apply mbxCommand_keeps | with_reducible apply stays_done

theorem execFwRollback_keeps (m : Mbx) (req : List Byte) (irq : Bool) (s : State) : StaysOut s (execFwRollback m req irq s) := by
  unfold execFwRollback
  try dsimp only
  repeat' first
    | with_reducible exact Stays.refl _ | with_reducible apply mbxCommand_keeps | with_reducible apply stays_done

theorem execCalGet_keeps (m : Mbx) (req : List Byte) (irq : Bool) (s : State) : StaysOut s (execCalGet m req irq s) := by
  unfold execCalGet
  try dsimp only
  repeat' first
    | with_reducible exact Stays.refl _ | with_reducible apply mbxCommand_keeps | with_reducible apply stays_done

theorem execCalSet_keeps (m : Mbx) (req : List Byte) (irq : Bool) (s : State) : StaysOut s (execCalSet m req irq s) := by
  unfold execCalSet
  try dsimp only
  repeat' first
    | with_reducible exact Stays.refl _ | with_reducible apply mbxCommand_keeps | with_reducible apply stays_done

theorem execPwrInfo_keeps (m : Mbx) (req : List Byte) (irq : Bool) (s : State) : StaysOut s (execPwrInfo m req irq s) := by
  unfold execPwrInfo
  try dsimp only
  repeat' first
    | with_reducible exact Stays.refl _ | with_reducible apply mbxCommand_keeps | with_reducible apply stays_done

theorem execPwrLtrSet_keeps (m : Mbx) (req : List Byte) (irq : Bool) (s : State) : StaysOut s (execPwrLtrSet m req irq s) := by
  unfold execPwrLtrSet
  try dsimp only
  repeat' first
    | with_reducible exact Stays.refl _ | with_reducible apply mbxCommand_keeps | with_reducible apply stays_done

theorem execThmSet_keeps (m : Mbx) (req : List Byte) (irq : Bool) (s : State) : StaysOut s (execThmSet m req irq s) := by
  unfold execThmSet
  try dsimp only
  repeat' first
    | with_reducible exact Stays.refl _ | with_reducible apply mbxCommand_keeps | with_reducible apply stays_done

theorem execHsOppSet_keeps (m : Mbx) (req : List Byte) (irq : Bool) (s : State) : StaysOut s (execHsOppSet m req irq s) := by
  unfold execHsOppSet
  try dsimp only
  repeat' first
    | with_reducible exact Stays.refl _ | with_reducible apply mbxCommand_keeps | with_reducible apply stays_done

theorem followSensors_keeps {s0 : State} (s : State) (hk : Stays s0 s) :
    Stays s0 (followSensors s) := by
  unfold followSensors
  try dsimp only
  repeat' first
    | with_reducible exact hk | with_reducible exact Stays.refl _ | with_reducible assumption
    | with_reducible apply modThm_keeps | with_reducible exact fun x => x | split | intro _ _ _
    | with_reducible refine stays_mk ?_ ?_ ?_ ?_ ?_ ?_ ?_ ?_ ?_  | with_reducible exact GlbStays.refl _ | with_reducible rfl
    | with_reducible exact Nat.le_refl _ | (intro _ h; with_reducible exact h) | (intro _; with_reducible rfl)
    | (intro _; with_reducible exact Nat.le_refl _)

theorem takeTemp_keeps {s0 : State} (s : State) (hk : Stays s0 s) :
    Stays s0 (takeTemp s) := by
  unfold takeTemp
  try dsimp only
  repeat' first
    | with_reducible exact hk | with_reducible exact Stays.refl _ | with_reducible assumption
    | with_reducible apply followSensors_keeps | with_reducible apply modThm_keeps | with_reducible exact fun x => x | split
    | intro _ _ _ | with_reducible refine stays_mk ?_ ?_ ?_ ?_ ?_ ?_ ?_ ?_ ?_  | with_reducible exact GlbStays.refl _
    | with_reducible rfl | with_reducible exact Nat.le_refl _ | (intro _ h; with_reducible exact h)
    | (intro _; with_reducible rfl) | (intro _; with_reducible exact Nat.le_refl _)

theorem scrubFollows_keeps {s0 : State} (s : State) (new : Nat) (hk : Stays s0 s) :
    Stays s0 (scrubFollows s new) := by
  unfold scrubFollows
  try dsimp only
  repeat' first
    | with_reducible exact hk | with_reducible assumption | with_reducible apply modBlank_keeps
    | with_reducible apply stays_foldl | split | intro _ _ _

theorem takeBand_keeps {s0 : State} (s : State) (hk : Stays s0 s) :
    Stays s0 (takeBand s) := by
  unfold takeBand
  try dsimp only
  repeat' first
    | with_reducible exact hk | with_reducible apply evt_keeps | with_reducible apply modThm_keeps
    | with_reducible apply raise_keeps | with_reducible apply scrubFollows_keeps | split

theorem takeWave_keeps {s0 : State} (s : State) (hk : Stays s0 s) :
    Stays s0 (takeWave s) := by
  unfold takeWave
  try dsimp only
  repeat' first
    | with_reducible exact hk | with_reducible apply modThm_keeps

theorem takeThrottle_keeps {s0 : State} (s : State) (hk : Stays s0 s) :
    Stays s0 (takeThrottle s) := by
  unfold takeThrottle
  try dsimp only
  repeat' first
    | with_reducible exact hk | with_reducible apply evt_keeps | with_reducible apply fillBuckets_keeps
    | with_reducible apply modThm_keeps | with_reducible apply raise_keeps | split

theorem takeCritical_keeps {s0 : State} (s : State) (hk : Stays s0 s) :
    Stays s0 (takeCritical s) := by
  unfold takeCritical
  try dsimp only
  repeat' first
    | with_reducible exact hk | with_reducible apply evt_keeps | with_reducible apply modThm_keeps
    | with_reducible apply raise_keeps | with_reducible apply setFatal_keeps | split

theorem takeCold_keeps {s0 : State} (s : State) (hk : Stays s0 s) :
    Stays s0 (takeCold s) := by
  unfold takeCold
  try dsimp only
  repeat' first
    | with_reducible exact hk | with_reducible apply evt_keeps | with_reducible apply modThm_keeps
    | with_reducible apply raise_keeps | split

theorem takeSelfHeat_keeps {s0 : State} (s : State) (hk : Stays s0 s) :
    Stays s0 (takeSelfHeat s) := by
  unfold takeSelfHeat
  try dsimp only
  repeat' first
    | with_reducible exact hk | with_reducible apply evt_keeps | with_reducible apply modThm_keeps
    | with_reducible apply raise_keeps | split

theorem execSensorSample_keeps (raw : Vector Int 40) (s : State) : StaysOut s (execSensorSample raw s) := by
  unfold execSensorSample
  try dsimp only
  repeat' first
    | with_reducible exact Stays.refl _ | with_reducible apply modThm_keeps | with_reducible apply raise_keeps
    | with_reducible apply settle_keeps | with_reducible apply takeBand_keeps | with_reducible apply takeCold_keeps
    | with_reducible apply takeCritical_keeps | with_reducible apply takeSelfHeat_keeps | with_reducible apply takeTemp_keeps
    | with_reducible apply takeThrottle_keeps | with_reducible apply takeWave_keeps | with_reducible apply stays_done | split

theorem execRateOfRiseCompute_keeps (earlier : Int) (s : State) : StaysOut s (execRateOfRiseCompute earlier s) := by
  unfold execRateOfRiseCompute
  try dsimp only
  repeat' first
    | with_reducible exact Stays.refl _ | with_reducible apply evt_keeps | with_reducible apply modThm_keeps
    | with_reducible apply nmi_keeps | with_reducible apply raise_keeps | with_reducible apply stays_done | split

theorem execPreemptEnd_keeps (s : State) : StaysOut s (execPreemptEnd s) := by
  unfold execPreemptEnd
  try dsimp only
  repeat' first
    | with_reducible exact Stays.refl _ | with_reducible apply modThm_keeps | with_reducible apply stays_done | split

theorem modPwr_keeps {s0 : State} (s : State) (f : Pwr → Pwr) (hk : Stays s0 s) :
    Stays s0 (modPwr s f) := by
  unfold modPwr
  try dsimp only
  repeat' first
    | with_reducible exact hk | with_reducible exact fun x => x | with_reducible refine stays_mk ?_ ?_ ?_ ?_ ?_ ?_ ?_ ?_ ?_
    | with_reducible exact GlbStays.refl _ | with_reducible rfl

theorem pwrChanged_keeps {s0 : State} (s : State) (hk : Stays s0 s) :
    Stays s0 (pwrChanged s) := by
  unfold pwrChanged
  try dsimp only
  repeat' first
    | with_reducible exact hk | with_reducible apply raise_keeps

theorem writeBackQueues_keeps {s0 : State} (s : State) (hk : Stays s0 s) :
    Stays s0 (writeBackQueues s) := by
  unfold writeBackQueues
  try dsimp only
  repeat' first
    | with_reducible exact hk | with_reducible exact Stays.refl _ | with_reducible assumption
    | with_reducible apply descCheck_keeps | with_reducible apply hwAdd_keeps | with_reducible apply modDbq_keeps
    | with_reducible apply stays_foldl | with_reducible apply stays_foldl_fst | with_reducible apply stays_foldl_snd
    | with_reducible exact fun x => x | split | intro _ _ _ | with_reducible refine stays_mk ?_ ?_ ?_ ?_ ?_ ?_ ?_ ?_ ?_
    | with_reducible exact GlbStays.refl _ | with_reducible rfl | with_reducible exact Nat.le_refl _
    | (intro _ h; with_reducible exact h) | (intro _; with_reducible rfl) | (intro _; with_reducible exact Nat.le_refl _)

theorem enterL3_keeps {s0 : State} (s : State) (hk : Stays s0 s) :
    Stays s0 (enterL3 s) := by
  unfold enterL3
  try dsimp only
  repeat' first
    | with_reducible exact hk | exact fun _ => rfl | with_reducible apply writeBackQueues_keeps
    | with_reducible exact fun x => x | with_reducible refine stays_mk ?_ ?_ ?_ ?_ ?_ ?_ ?_ ?_ ?_
    | with_reducible exact GlbStays.refl _ | with_reducible rfl

theorem enterL4_keeps {s0 : State} (s : State) (hk : Stays s0 s) :
    Stays s0 (enterL4 s) := by
  unfold enterL4
  try dsimp only
  repeat' first
    | with_reducible exact hk | with_reducible apply modEvr_keeps | with_reducible apply writeBackQueues_keeps
    | with_reducible exact fun x => x | with_reducible refine stays_mk ?_ ?_ ?_ ?_ ?_ ?_ ?_ ?_ ?_
    | with_reducible exact GlbStays.refl _ | with_reducible rfl

theorem goDown_keeps {s0 : State} (s : State) (l : Fin 5) (hk : Stays s0 s) :
    Stays s0 (goDown s l) := by
  unfold goDown
  try dsimp only
  repeat' first
    | with_reducible exact hk | with_reducible apply enterL3_keeps | with_reducible apply enterL4_keeps
    | with_reducible apply modPwr_keeps | with_reducible apply modThm_keeps | with_reducible apply pwrChanged_keeps | split

theorem execPstateEntry_keeps (s : State) : StaysOut s (execPstateEntry s) := by
  unfold execPstateEntry
  try dsimp only
  repeat' first
    | with_reducible exact Stays.refl _ | with_reducible apply foldEverything_keeps | with_reducible apply goDown_keeps
    | with_reducible apply modPwr_keeps | with_reducible apply settle_keeps | with_reducible apply stays_done | split

theorem execPstateReturnL0_keeps (cause : ReturnCause) (s : State) : StaysOut s (execPstateReturnL0 cause s) := by
  unfold execPstateReturnL0
  try dsimp only
  repeat' first
    | with_reducible exact Stays.refl _ | with_reducible apply modPwr_keeps | with_reducible apply stays_done | split

theorem execPstateExitComplete_keeps (s : State) : StaysOut s (execPstateExitComplete s) := by
  unfold execPstateExitComplete
  try dsimp only
  repeat' first
    | with_reducible exact Stays.refl _ | with_reducible apply modPwr_keeps | with_reducible apply modThm_keeps
    | with_reducible apply pwrChanged_keeps | with_reducible apply settle_keeps | with_reducible apply stays_done | split

theorem execHousekeepingExcursion_keeps (s : State) : StaysOut s (execHousekeepingExcursion s) := by
  unfold execHousekeepingExcursion
  try dsimp only
  repeat' first
    | with_reducible exact Stays.refl _ | with_reducible apply modPwr_keeps | with_reducible apply modThm_keeps
    | with_reducible apply pwrChanged_keeps | with_reducible apply settle_keeps | with_reducible apply stays_done | split

theorem execHousekeepingExcursionEnd_keeps (s : State) : StaysOut s (execHousekeepingExcursionEnd s) := by
  unfold execHousekeepingExcursionEnd
  try dsimp only
  repeat' first
    | with_reducible exact Stays.refl _ | with_reducible apply goDown_keeps | with_reducible apply modPwr_keeps
    | with_reducible apply stays_done | split

theorem formatSector_keeps {s0 : State} (s : State) (lsa : Nat) (hk : Stays s0 s) :
    Stays s0 (formatSector s lsa) := by
  unfold formatSector
  try dsimp only
  repeat' first
    | with_reducible exact hk | with_reducible exact Stays.refl _ | with_reducible assumption
    | with_reducible apply clearMark_keeps | with_reducible apply freeNext_keeps | with_reducible apply holdSector_keeps
    | with_reducible apply landProgram_keeps | with_reducible apply putSector_keeps | with_reducible exact fun x => x | split
    | intro _ _ _ | with_reducible exact GlbStays.refl _ | with_reducible rfl | with_reducible exact Nat.le_refl _
    | (intro _ h; with_reducible exact h) | (intro _; with_reducible rfl) | (intro _; with_reducible exact Nat.le_refl _)

theorem formatArea_keeps {s0 : State} (s : State) (r : Nat) (hk : Stays s0 s) :
    Stays s0 (formatArea s r) := by
  unfold formatArea
  try dsimp only
  repeat' first
    | with_reducible exact hk | with_reducible exact Stays.refl _ | with_reducible assumption
    | with_reducible apply formatSector_keeps | with_reducible apply stays_foldl | with_reducible exact fun x => x | split
    | intro _ _ _ | with_reducible exact GlbStays.refl _ | with_reducible rfl | with_reducible exact Nat.le_refl _
    | (intro _ h; with_reducible exact h) | (intro _; with_reducible rfl) | (intro _; with_reducible exact Nat.le_refl _)

theorem execPoolFormatDone_keeps (region : BitVec 9) (s : State) : StaysOut s (execPoolFormatDone region s) := by
  unfold execPoolFormatDone
  try dsimp only
  repeat' first
    | with_reducible exact Stays.refl _ | with_reducible assumption | with_reducible apply done_keeps
    | with_reducible apply evt_keeps | with_reducible apply formatArea_keeps | with_reducible apply modPool_keeps
    | with_reducible apply modRegion_keeps | with_reducible apply raise_keeps | with_reducible apply saveInner_keeps
    | with_reducible apply settle_keeps | with_reducible apply stays_done | with_reducible exact fun x => x | split
    | intro _ _ _ | with_reducible refine stays_mk ?_ ?_ ?_ ?_ ?_ ?_ ?_ ?_ ?_  | with_reducible exact GlbStays.refl _
    | with_reducible rfl | with_reducible exact Nat.le_refl _ | (intro _ h; with_reducible exact h)
    | (intro _; with_reducible rfl) | (intro _; with_reducible exact Nat.le_refl _)

theorem sweepEnd_keeps {s0 : State} (s : State) (hk : Stays s0 s) :
    Stays s0 (sweepEnd s) := by
  unfold sweepEnd
  try dsimp only
  repeat' first
    | with_reducible exact hk | with_reducible apply hwAdd_keeps | with_reducible apply hwSet_keeps
    | with_reducible apply modDbq_keeps | with_reducible apply raise_keeps | with_reducible apply setCfg_keeps

theorem sweepGo_keeps {s0 : State} (s : State) (hk : Stays s0 s) :
    Stays s0 (sweepGo s) := by
  unfold sweepGo
  try dsimp only
  repeat' first
    | with_reducible exact hk | with_reducible apply askSweep_keeps | with_reducible apply setCfg_keeps

theorem execOrphanSweep_keeps (s : State) : StaysOut s (execOrphanSweep s) := by
  unfold execOrphanSweep
  try dsimp only
  repeat' first
    | with_reducible exact Stays.refl _ | with_reducible assumption | with_reducible apply done_keeps
    | with_reducible apply sweepGo_keeps | with_reducible apply touch_keeps | with_reducible apply stays_done
    | with_reducible exact fun x => x | split | intro _ _ _ | with_reducible exact GlbStays.refl _ | with_reducible rfl
    | with_reducible exact Nat.le_refl _ | (intro _ h; with_reducible exact h) | (intro _; with_reducible rfl)
    | (intro _; with_reducible exact Nat.le_refl _)

theorem execOrphanSweepDone_keeps (s : State) : StaysOut s (execOrphanSweepDone s) := by
  unfold execOrphanSweepDone
  split
  · exact stays_done (Stays.refl _)
  · rename_i h
    have hr : s.glb.inReset = false := by
      have hc : coreUp s = true := by simpa using fun x => h (.inl x)
      simp only [coreUp, Bool.and_eq_true, Bool.not_eq_true'] at hc
      exact hc.2
    have h1 := sweepEnd_keeps _ (Stays.refl s)
    refine stays_done (settle_keeps _ ?_)
    split
    · rename_i h2
      exact releaseForwarding_keeps _ (h1.glb.reset.trans hr) h2.1 h1
    · exact h1

theorem execQueueDescWriteback_keeps (qid : BitVec 17) (s : State) : StaysOut s (execQueueDescWriteback qid s) := by
  unfold execQueueDescWriteback
  try dsimp only
  repeat' first
    | with_reducible exact Stays.refl _ | with_reducible assumption | with_reducible apply descCheck_keeps
    | with_reducible apply done_keeps | with_reducible apply hwAdd_keeps | with_reducible apply modDbq_keeps
    | with_reducible apply putQueue_keeps | with_reducible apply saveInner_keeps | with_reducible apply settle_keeps
    | with_reducible apply stays_done | with_reducible exact fun x => x | split | intro _ _ _
    | with_reducible refine stays_mk ?_ ?_ ?_ ?_ ?_ ?_ ?_ ?_ ?_  | with_reducible exact GlbStays.refl _ | with_reducible rfl
    | with_reducible exact Nat.le_refl _ | (intro _ h; with_reducible exact h) | (intro _; with_reducible rfl)
    | (intro _; with_reducible exact Nat.le_refl _)

theorem execFoldTimer_keeps (lsa : BitVec 32) (s : State) : StaysOut s (execFoldTimer lsa s) := by
  unfold execFoldTimer
  try dsimp only
  repeat' first
    | with_reducible exact Stays.refl _ | with_reducible apply hwAdd_keeps | with_reducible apply settle_keeps
    | with_reducible apply startFold_keeps | with_reducible apply stays_done | split

theorem execCntFoldAll_keeps (s : State) : StaysOut s (execCntFoldAll s) := by
  unfold execCntFoldAll
  try dsimp only
  repeat' first
    | with_reducible exact Stays.refl _ | with_reducible assumption | with_reducible apply done_keeps
    | with_reducible apply setCfg_keeps | with_reducible apply settle_keeps | with_reducible apply touch_keeps
    | with_reducible apply stays_done | with_reducible exact fun x => x | split | intro _ _ _
    | with_reducible exact GlbStays.refl _ | with_reducible rfl | with_reducible exact Nat.le_refl _
    | (intro _ h; with_reducible exact h) | (intro _; with_reducible rfl) | (intro _; with_reducible exact Nat.le_refl _)

theorem foldLand_keeps {s0 : State} (s : State) (lsa : Nat) (base : Sector) (j : FoldJob) (hk : Stays s0 s) :
    Stays s0 (foldLand s lsa base j) := by
  unfold foldLand
  try dsimp only
  repeat' first
    | with_reducible exact hk | with_reducible apply cacheWrite_keeps | with_reducible apply countPsi_keeps
    | with_reducible apply landProgram_keeps | with_reducible apply programmed_keeps | with_reducible apply putSector_keeps
    | with_reducible apply putSlot_keeps | split

theorem foldSwitch_keeps {s0 : State} (s : State) (lsa : Nat) (base : Sector) (j : FoldJob) (hk : Stays s0 s) :
    Stays s0 (foldSwitch s lsa base j) := by
  unfold foldSwitch
  try dsimp only
  repeat' first
    | with_reducible exact hk | with_reducible exact Stays.refl _ | with_reducible assumption
    | with_reducible apply askIntent_keeps | with_reducible apply entriesCheck_keeps | with_reducible apply foldLand_keeps
    | with_reducible apply formRecord_keeps | with_reducible apply hwAdd_keeps | with_reducible apply modCnt_keeps
    | with_reducible apply pmcCount_keeps | with_reducible apply slotCheck_keeps | with_reducible exact fun x => x | split
    | intro _ _ _ | with_reducible refine stays_mk ?_ ?_ ?_ ?_ ?_ ?_ ?_ ?_ ?_  | with_reducible exact GlbStays.refl _
    | with_reducible rfl | with_reducible exact Nat.le_refl _ | (intro _ h; with_reducible exact h)
    | (intro _; with_reducible rfl) | (intro _; with_reducible exact Nat.le_refl _)

theorem execFoldSwitch_keeps (lsa : BitVec 32) (s : State) : StaysOut s (execFoldSwitch lsa s) := by
  unfold execFoldSwitch
  try dsimp only
  repeat' first
    | with_reducible exact Stays.refl _ | with_reducible assumption | with_reducible apply done_keeps
    | with_reducible apply foldSwitch_keeps | with_reducible apply settle_keeps | with_reducible apply stays_done
    | with_reducible exact fun x => x | split | intro _ _ _ | with_reducible exact GlbStays.refl _ | with_reducible rfl
    | with_reducible exact Nat.le_refl _ | (intro _ h; with_reducible exact h) | (intro _; with_reducible rfl)
    | (intro _; with_reducible exact Nat.le_refl _)

theorem execCntClearSector_keeps (m : Mbx) (s : State) : StaysOut s (execCntClearSector m s) := by
  unfold execCntClearSector
  try dsimp only
  repeat' first
    | with_reducible exact Stays.refl _ | with_reducible apply clearStep_keeps | with_reducible apply settle_keeps
    | with_reducible apply stays_done | split

end Sys2Proof.Machine
end

