-- ==== Sys2Proof/Laws/KeepsH.lean ====
section
/-! SUPPORT. What every command keeps, operation by operation: Units, Regs, Tick. -/

namespace Sys2Proof.Machine

theorem execPstTieRewrite_keeps (area : Fin 5) (slot : Fin 32) (s : State) : StaysOut s (execPstTieRewrite area slot s) := by
  unfold execPstTieRewrite
  try dsimp only
  repeat' first
    | with_reducible exact Stays.refl _ | with_reducible apply tieRewrite_keeps | with_reducible apply stays_done | split

theorem writePstCtrl_keeps {s0 : State} (s : State) (key : BitVec 16) (on : Bool) (hk : Stays s0 s) :
    Stays s0 (writePstCtrl s key on) := by
  unfold writePstCtrl
  try dsimp only
  repeat' first
    | with_reducible exact hk | with_reducible apply badAccess_keeps | with_reducible apply setCfg_keeps | split

theorem execPstProfileWe_keeps (key : BitVec 16) (on : Bool) (s : State) : StaysOut s (execPstProfileWe key on s) := by
  unfold execPstProfileWe
  try dsimp only
  repeat' first
    | with_reducible exact Stays.refl _ | with_reducible assumption | with_reducible apply done_keeps
    | with_reducible apply touch_keeps | with_reducible apply writePstCtrl_keeps | with_reducible apply stays_done
    | with_reducible exact fun x => x | split | intro _ _ _ | with_reducible exact GlbStays.refl _ | with_reducible rfl
    | with_reducible exact Nat.le_refl _ | (intro _ h; with_reducible exact h) | (intro _; with_reducible rfl)
    | (intro _; with_reducible exact Nat.le_refl _)

theorem execEventFrontWriteback_keeps (s : State) : StaysOut s (execEventFrontWriteback s) := by
  unfold execEventFrontWriteback
  try dsimp only
  repeat' first
    | with_reducible exact Stays.refl _ | with_reducible assumption | with_reducible apply done_keeps
    | with_reducible apply modEvr_keeps | with_reducible apply settle_keeps | with_reducible apply stays_done
    | with_reducible exact fun x => x | split | intro _ _ _ | with_reducible exact GlbStays.refl _ | with_reducible rfl
    | with_reducible exact Nat.le_refl _ | (intro _ h; with_reducible exact h) | (intro _; with_reducible rfl)
    | (intro _; with_reducible exact Nat.le_refl _)

theorem execRateLimitSweep_keeps (s : State) : StaysOut s (execRateLimitSweep s) := by
  unfold execRateLimitSweep
  try dsimp only
  repeat' first
    | with_reducible exact Stays.refl _ | with_reducible apply closeWindow_keeps | with_reducible apply stays_done
    | with_reducible apply stays_foldl | split

theorem execEvrAutoThaw_keeps (s : State) : StaysOut s (execEvrAutoThaw s) := by
  unfold execEvrAutoThaw
  try dsimp only
  repeat' first
    | with_reducible exact Stays.refl _ | with_reducible apply endFreeze_keeps | with_reducible apply stays_done | split

theorem modPmc_keeps {s0 : State} (s : State) (u : PmcUnit) (f : Pmc → Pmc) (hk : Stays s0 s) :
    Stays s0 (modPmc s u f) := by
  unfold modPmc
  try dsimp only
  repeat' first
    | with_reducible exact hk | with_reducible exact fun x => x | with_reducible refine stays_mk ?_ ?_ ?_ ?_ ?_ ?_ ?_ ?_ ?_
    | with_reducible exact GlbStays.refl _ | with_reducible rfl

theorem pmcControl_keeps {s0 : State} (s : State) (u : PmcUnit) (en : Bool) (freeze : Bool) (all : Bool) (hk : Stays s0 s) :
    Stays s0 (pmcControl s u en freeze all) := by
  unfold pmcControl
  try dsimp only
  repeat' first
    | with_reducible exact hk | with_reducible apply modPmc_keeps | with_reducible exact fun x => x | split
    | with_reducible refine stays_mk ?_ ?_ ?_ ?_ ?_ ?_ ?_ ?_ ?_  | with_reducible exact GlbStays.refl _ | with_reducible rfl

theorem pmcZero_keeps {s0 : State} (s : State) (u : PmcUnit) (hk : Stays s0 s) :
    Stays s0 (pmcZero s u) := by
  unfold pmcZero
  try dsimp only
  repeat' first
    | with_reducible exact hk | with_reducible apply modPmc_keeps

theorem execPmcEnable_keeps (u : PmcUnit) (en : Bool) (freeze : Bool) (all : Bool) (s : State) : StaysOut s (execPmcEnable u en freeze all s) := by
  unfold execPmcEnable
  try dsimp only
  repeat' first
    | with_reducible exact Stays.refl _ | with_reducible assumption | with_reducible apply done_keeps
    | with_reducible apply pmcControl_keeps | with_reducible apply touch_keeps | with_reducible apply stays_done
    | with_reducible exact fun x => x | split | intro _ _ _ | with_reducible exact GlbStays.refl _ | with_reducible rfl
    | with_reducible exact Nat.le_refl _ | (intro _ h; with_reducible exact h) | (intro _; with_reducible rfl)
    | (intro _; with_reducible exact Nat.le_refl _)

theorem execPmcClear_keeps (u : PmcUnit) (s : State) : StaysOut s (execPmcClear u s) := by
  unfold execPmcClear
  try dsimp only
  repeat' first
    | with_reducible exact Stays.refl _ | with_reducible assumption | with_reducible apply done_keeps
    | with_reducible apply pmcZero_keeps | with_reducible apply touch_keeps | with_reducible apply stays_done
    | with_reducible exact fun x => x | split | intro _ _ _ | with_reducible exact GlbStays.refl _ | with_reducible rfl
    | with_reducible exact Nat.le_refl _ | (intro _ h; with_reducible exact h) | (intro _; with_reducible rfl)
    | (intro _; with_reducible exact Nat.le_refl _)

theorem execPmcCounterWrap_keeps (u : PmcUnit) (k : Fin 8) (s : State) : StaysOut s (execPmcCounterWrap u k s) := by
  unfold execPmcCounterWrap
  try dsimp only
  repeat' first
    | with_reducible exact Stays.refl _ | with_reducible apply pmcAll_keeps | with_reducible apply stays_done | split

theorem clearRc_keeps {s0 : State} (s : State) (o : Nat) (mask : Word64) (hk : Stays s0 s) :
    Stays s0 (clearRc s o mask) := by
  unfold clearRc
  try dsimp only
  repeat' first
    | with_reducible exact hk | with_reducible exact Stays.refl _ | with_reducible assumption
    | with_reducible apply hwSet_keeps | with_reducible apply noteDepth_keeps | with_reducible apply notePeak_keeps
    | with_reducible apply stays_foldl | with_reducible exact fun x => x | split | intro _ _ _
    | with_reducible exact GlbStays.refl _ | with_reducible rfl | with_reducible exact Nat.le_refl _
    | (intro _ h; with_reducible exact h) | (intro _; with_reducible rfl) | (intro _; with_reducible exact Nat.le_refl _)

theorem readHalf_keeps {s0 : State} (s : State) (o : Nat) (r : RegDesc) (upper : Bool) (hk : Stays s0 s) :
    Stays s0 (readHalf s o r upper).2 := by
  unfold readHalf
  try dsimp only
  repeat' first
    | with_reducible exact hk | with_reducible apply clearRc_keeps | with_reducible apply touch_keeps
    | with_reducible exact fun x => x | split | with_reducible refine stays_mk ?_ ?_ ?_ ?_ ?_ ?_ ?_ ?_ ?_
    | with_reducible exact GlbStays.refl _ | with_reducible rfl

theorem read32_keeps {s0 : State} (s : State) (o : Nat) (hk : Stays s0 s) :
    Stays s0 (read32 s o).2 := by
  unfold read32
  try dsimp only
  repeat' first
    | with_reducible exact hk | with_reducible apply readHalf_keeps | split

theorem readPair_keeps {s0 : State} (s : State) (o : Nat) (hk : Stays s0 s) :
    Stays s0 (readPair s o).2 := by
  unfold readPair
  try dsimp only
  repeat' first
    | with_reducible exact hk | with_reducible apply read32_keeps

theorem readWide_keeps {s0 : State} (s : State) (o : Nat) (r : Option RegDesc) (hk : Stays s0 s) : Stays s0 (readWide s o r).2 := by
  unfold readWide
  split
  · split
    · exact clearRc_keeps _ _ _ (touch_keeps _ _ hk)
    · exact readPair_keeps _ _ hk
  · exact readPair_keeps _ _ hk

theorem readAt_keeps {s0 : State} (s : State) (o : Nat) (size : Nat) (hk : Stays s0 s) :
    Stays s0 (readAt s o size).2 := by
  unfold readAt
  try dsimp only
  repeat' first
    | with_reducible exact hk | with_reducible apply read32_keeps | with_reducible apply readWide_keeps | split

theorem busRead_keeps {s0 : State} (s : State) (o : Nat) (size : Nat) (hk : Stays s0 s) :
    Stays s0 (busRead s o size).2 := by
  unfold busRead
  try dsimp only
  repeat' first
    | with_reducible exact hk | with_reducible apply badAccess_keeps | with_reducible apply readAt_keeps | split

theorem barRead_keeps {s0 : State} (s : State) (x r : Nat × State) (h : barRead s x = some r) (hs : Stays s0 s) (hk : Stays s0 x.2) :
    Stays s0 r.2 := by
  unfold barRead at h
  split at h
  · cases h
  · split at h
    · obtain rfl := Option.some.inj h
      exact unsupported_keeps _ hs
    · obtain rfl := Option.some.inj h
      exact hk

theorem readFrom_keeps {s0 : State} (s : State) (size : Nat) (addr : BusAddr) (r : Nat × State) (h : readFrom s size addr = some r)
    (hk : Stays s0 s) : Stays s0 r.2 := by
  cases addr <;> simp only [readFrom] at h
  · exact barRead_keeps s _ r h hk (busRead_keeps _ _ _ hk)
  · refine barRead_keeps s _ r h hk ?_
    split
    · exact loadDump_keeps _ _ _ _ hk
    · exact hk
  · split at h
    · rw [Option.map_eq_some_iff] at h
      obtain ⟨_, _, rfl⟩ := h
      exact hk
    · cases h
  · split at h
    · obtain rfl := Option.some.inj h
      exact hk
    · cases h

theorem execRegisterReadClear_keeps (addr : BusAddr) (size : Nat) (s : State) : StaysOut s (execRegisterReadClear addr size s) := by
  unfold execRegisterReadClear
  split
  · rename_i r h
    exact stays_done (stays_mk (readFrom_keeps s size addr r h (Stays.refl _)) (.refl _) rfl (Nat.le_refl _) id id id id id)
  · exact stays_done (Stays.refl _)

theorem writeFields_keeps {s0 : State} (s : State) (o : Nat) (r : RegDesc) (v : Word64) (hk : Stays s0 s) :
    Stays s0 (writeFields s o r v) := by
  unfold writeFields
  try dsimp only
  repeat' first
    | with_reducible exact hk | with_reducible apply hwSet_keeps | with_reducible apply setCfg_keeps | split

theorem writeHpCtrl_keeps {s0 : State} (s : State) (p : HPort) (v : Word64) (hk : Stays s0 s) :
    Stays s0 (writeHpCtrl s p v) := by
  unfold writeHpCtrl
  try dsimp only
  repeat' first
    | with_reducible exact hk | with_reducible apply setCfg_keeps | with_reducible apply setEnable_keeps
    | with_reducible apply setFarLoop_keeps

theorem writeHp_keeps {s0 : State} (s : State) (p : HPort) (w : Nat) (o : Nat) (r : RegDesc) (v : Word64) (hk : Stays s0 s) :
    Stays s0 (writeHp s p w o r v) := by
  unfold writeHp
  try dsimp only
  repeat' first
    | with_reducible exact hk | with_reducible apply calUpdate_keeps | with_reducible apply modPort_keeps
    | with_reducible apply writeFields_keeps | with_reducible apply writeHpCtrl_keeps | split

theorem writeRdp_keeps {s0 : State} (s : State) (w : Nat) (o : Nat) (r : RegDesc) (v : Word64) (hk : Stays s0 s) :
    Stays s0 (writeRdp s w o r v) := by
  unfold writeRdp
  try dsimp only
  repeat' first
    | with_reducible exact hk | with_reducible apply invalGo_keeps | with_reducible apply lockGo_keeps
    | with_reducible apply setCacheEn_keeps | with_reducible apply setCfg_keeps | with_reducible apply writeFields_keeps
    | split

theorem writeArb_keeps {s0 : State} (s : State) (w : Nat) (o : Nat) (r : RegDesc) (v : Word64) (hk : Stays s0 s) :
    Stays s0 (writeArb s w o r v) := by
  unfold writeArb
  try dsimp only
  repeat' first
    | with_reducible exact hk | with_reducible apply commitRanks_keeps | with_reducible apply fillBuckets_keeps
    | with_reducible apply writeFields_keeps | split

theorem writeLkeCtrl_keeps {s0 : State} (s : State) (o : Nat) (r : RegDesc) (v : Word64) (hk : Stays s0 s) :
    Stays s0 (writeLkeCtrl s o r v) := by
  unfold writeLkeCtrl
  try dsimp only
  repeat' first
    | with_reducible exact hk | with_reducible apply forceEngine_keeps | with_reducible apply writeFields_keeps | split

theorem writeMirCtrl_keeps {s0 : State} (s : State) (n : MPort) (o : Nat) (r : RegDesc) (v : Word64) (hk : Stays s0 s) :
    Stays s0 (writeMirCtrl s n o r v) := by
  unfold writeMirCtrl
  try dsimp only
  repeat' first
    | with_reducible exact hk | with_reducible apply mirLinkLost_keeps | with_reducible apply writeFields_keeps | split

theorem writeMbx_keeps {s0 : State} (s : State) (m : Mbx) (w : Nat) (o : Nat) (r : RegDesc) (v : Word64) (hk : Stays s0 s) :
    Stays s0 (writeMbx s m w o r v) := by
  unfold writeMbx
  try dsimp only
  repeat' first
    | with_reducible exact hk | with_reducible apply mbxFree_keeps | with_reducible apply mbxGo_keeps
    | with_reducible apply mbxStop_keeps | with_reducible apply writeFields_keeps | split

theorem writePmc_keeps {s0 : State} (s : State) (u : PmcUnit) (w : Nat) (v : Word64) (hk : Stays s0 s) :
    Stays s0 (writePmc s u w v) := by
  unfold writePmc
  try dsimp only
  repeat' first
    | with_reducible exact hk | with_reducible apply modPmc_keeps | with_reducible apply pmcControl_keeps
    | with_reducible apply pmcZero_keeps | split

theorem seqCommand_keeps {s0 : State} (s : State) (v : Word64) (hk : Keeps s0 s) :
    Keeps s0 (seqCommand s v) := by
  unfold seqCommand
  try dsimp only
  repeat' first
    | with_reducible exact hk | with_reducible exact Keeps.refl _ | with_reducible assumption
    | with_reducible apply seqDown_keeps | with_reducible apply seqRestart_keeps | with_reducible exact fun x => x | split
    | intro _ _ _ | with_reducible exact .inl (.refl _) | with_reducible rfl | with_reducible exact Nat.le_refl _
    | (intro _ h; with_reducible exact h) | (intro _; with_reducible rfl) | (intro _; with_reducible exact Nat.le_refl _)

theorem writeSeq_keeps {s0 : State} (s : State) (o : Nat) (r : RegDesc) (v : Word64) (hk : Keeps s0 s) :
    Keeps s0 (writeSeq s o r v) := by
  unfold writeSeq
  try dsimp only
  repeat' first
    | with_reducible exact hk | with_reducible exact Keeps.refl _ | with_reducible assumption
    | with_reducible refine Keeps.step ?_ (hwSet_keeps _ _ (Stays.refl _)) | with_reducible apply seqCommand_keeps
    | with_reducible refine Keeps.step ?_ (writeFields_keeps _ _ _ _ (Stays.refl _)) | with_reducible exact fun x => x | split
    | intro _ _ _ | with_reducible exact .inl (.refl _) | with_reducible rfl | with_reducible exact Nat.le_refl _
    | (intro _ h; with_reducible exact h) | (intro _; with_reducible rfl) | (intro _; with_reducible exact Nat.le_refl _)

theorem writeMchCtrl_keeps {s0 : State} (s : State) (m : Mch) (o : Nat) (r : RegDesc) (v : Word64) (hk : Stays s0 s) :
    Stays s0 (writeMchCtrl s m o r v) := by
  unfold writeMchCtrl
  try dsimp only
  repeat' first
    | with_reducible exact hk | with_reducible apply forceMch_keeps | with_reducible apply writeFields_keeps | split

theorem writeEffect_keeps {s0 : State} (s : State) (o : Nat) (r : RegDesc) (v : Word64) (hk : Keeps s0 s) :
    Keeps s0 (writeEffect s o r v) := by
  unfold writeEffect
  try dsimp only
  repeat' first
    | with_reducible exact hk | with_reducible apply softReset_keeps
    | with_reducible refine Keeps.step ?_ (sweepGo_keeps _ (Stays.refl _))
    | with_reducible refine Keeps.step ?_ (writeArb_keeps _ _ _ _ _ (Stays.refl _))
    | with_reducible refine Keeps.step ?_ (writeFields_keeps _ _ _ _ (Stays.refl _))
    | with_reducible refine Keeps.step ?_ (writeHp_keeps _ _ _ _ _ _ (Stays.refl _))
    | with_reducible refine Keeps.step ?_ (writeLimit_keeps _ _ (Stays.refl _))
    | with_reducible refine Keeps.step ?_ (writeLkeCtrl_keeps _ _ _ _ (Stays.refl _))
    | with_reducible refine Keeps.step ?_ (writeMbx_keeps _ _ _ _ _ _ (Stays.refl _))
    | with_reducible refine Keeps.step ?_ (writeMchCtrl_keeps _ _ _ _ _ (Stays.refl _))
    | with_reducible refine Keeps.step ?_ (writeMirCtrl_keeps _ _ _ _ _ (Stays.refl _))
    | with_reducible refine Keeps.step ?_ (writePmc_keeps _ _ _ _ (Stays.refl _))
    | with_reducible refine Keeps.step ?_ (writePstCtrl_keeps _ _ _ (Stays.refl _))
    | with_reducible refine Keeps.step ?_ (writeRdp_keeps _ _ _ _ _ (Stays.refl _)) | with_reducible apply writeSeq_keeps
    | split

theorem regWrite_keeps {s0 : State} (s : State) (o : Nat) (r : RegDesc) (v : Word64) (hk : Keeps s0 s) :
    Keeps s0 (regWrite s o r v) := by
  unfold regWrite
  try dsimp only
  repeat' first
    | with_reducible exact hk | with_reducible refine Keeps.step ?_ (badAccess_keeps _ (Stays.refl _))
    | with_reducible apply writeEffect_keeps | split

theorem writeHalf_keeps {s0 : State} (s : State) (o : Nat) (r : RegDesc) (upper : Bool) (v : Nat) (hk : Keeps s0 s) :
    Keeps s0 (writeHalf s o r upper v) := by
  unfold writeHalf
  try dsimp only
  repeat' first
    | with_reducible exact hk | with_reducible refine Keeps.step ?_ (badAccess_keeps _ (Stays.refl _))
    | with_reducible apply regWrite_keeps | with_reducible refine Keeps.step ?_ (touch_keeps _ _ (Stays.refl _))
    | with_reducible exact fun x => x | split | with_reducible refine keeps_mk ?_ ?_ ?_ ?_ ?_ ?_ ?_ ?_ ?_
    | with_reducible exact .inl (.refl _) | with_reducible rfl

theorem mbxBufWrite_wf (x : MbxS) (i : Nat) (l : List Byte) (h : bufWf x.req = true ∧ bufWf x.rsp = true) :
    bufWf (mbxBufWrite x i l).req = true ∧ bufWf (mbxBufWrite x i l).rsp = true := by
  have key : ∀ (l : List (Byte × Nat)) (m : List Host.Cell), bufWf m = true →
      bufWf (l.foldl (fun m e => fputD m (i + e.2) 0 e.1) m) = true := by
    intro l
    induction l with
    | nil => exact fun m h => h
    | cons e l ih => exact fun m h => ih _ (fputD_wf _ _ h)
  unfold mbxBufWrite
  split
  · exact ⟨key _ _ h.1, h.2⟩
  · exact h

theorem writeBuffer_keeps {s0 : State} (s : State) (o : Nat) (m : Mbx) (i : Nat) (size : Nat) (v : Nat) (hk : Stays s0 s) :
    Stays s0 (writeBuffer s o m i size v) := by
  unfold writeBuffer
  split
  · exact badAccess_keeps _ hk
  · exact modMbx_keeps (fun x h => mbxBufWrite_wf x _ _ h) hk

theorem write32_keeps {s0 : State} (s : State) (o : Nat) (v : Nat) (hk : Keeps s0 s) :
    Keeps s0 (write32 s o v) := by
  unfold write32
  try dsimp only
  repeat' first
    | with_reducible exact hk | with_reducible apply writeHalf_keeps | with_reducible exact fun x => x | split
    | with_reducible refine keeps_mk ?_ ?_ ?_ ?_ ?_ ?_ ?_ ?_ ?_  | with_reducible exact .inl (.refl _) | with_reducible rfl

theorem writePair_keeps {s0 : State} (s : State) (o : Nat) (v : Nat) (hk : Keeps s0 s) :
    Keeps s0 (writePair s o v) := by
  unfold writePair
  try dsimp only
  repeat' first
    | with_reducible exact hk | with_reducible exact Keeps.refl _ | with_reducible assumption
    | with_reducible refine Keeps.step ?_ (fin_keeps (Stays.refl _))
    | with_reducible refine Keeps.step ?_ (settle_keeps _ (Stays.refl _)) | with_reducible apply write32_keeps
    | with_reducible exact fun x => x | split | intro _ _ _ | with_reducible exact .inl (.refl _) | with_reducible rfl
    | with_reducible exact Nat.le_refl _ | (intro _ h; with_reducible exact h) | (intro _; with_reducible rfl)
    | (intro _; with_reducible exact Nat.le_refl _)

theorem writeWide_keeps {s0 : State} (s : State) (o : Nat) (v : Nat) (r : Option RegDesc) (hk : Keeps s0 s) :
    Keeps s0 (writeWide s o v r) := by
  unfold writeWide
  split
  · split
    · exact regWrite_keeps _ _ _ _ (hk.step (stays_mk (touch_keeps _ _ (Stays.refl _)) (.refl _) rfl (Nat.le_refl _) id id id id id))
    · exact writePair_keeps _ _ _ hk
  · exact writePair_keeps _ _ _ hk

theorem writeAt_keeps {s0 : State} (s : State) (o : Nat) (size : Nat) (v : Nat) (hk : Keeps s0 s) : Keeps s0 (writeAt s o size v) := by
  unfold writeAt
  split
  · exact hk.step (writeBuffer_keeps _ _ _ _ _ _ (Stays.refl _))
  split
  · exact write32_keeps _ _ _ hk
  · exact writeWide_keeps _ _ _ _ hk

theorem busWrite_keeps {s0 : State} (s : State) (o : Nat) (size : Nat) (v : Nat) (hk : Keeps s0 s) :
    Keeps s0 (busWrite s o size v) := by
  unfold busWrite
  try dsimp only
  repeat' first
    | with_reducible exact hk | with_reducible refine Keeps.step ?_ (badAccess_keeps _ (Stays.refl _))
    | with_reducible apply writeAt_keeps | split

theorem sidebandWrite_keeps {s0 : State} (s : State) (c : Nat) (size : Nat) (v : BitVec 64) (hk : Keeps s0 s) :
    Keeps s0 (sidebandWrite s c size v) := by
  unfold sidebandWrite
  try dsimp only
  repeat' first
    | with_reducible exact hk | with_reducible exact Keeps.refl _ | with_reducible assumption
    | with_reducible refine Keeps.step ?_ (hwSet_keeps _ _ (Stays.refl _)) | with_reducible apply seqCommand_keeps
    | with_reducible exact fun x => x | split | intro _ _ _ | with_reducible exact .inl (.refl _) | with_reducible rfl
    | with_reducible exact Nat.le_refl _ | (intro _ h; with_reducible exact h) | (intro _; with_reducible rfl)
    | (intro _; with_reducible exact Nat.le_refl _)

theorem execRegisterWrite_keeps (off : BusAddr) (size : Nat) (value : BitVec 64) (s : State) : KeepsOut s (execRegisterWrite off size value s) := by
  unfold execRegisterWrite
  try dsimp only
  repeat' first
    | with_reducible exact Keeps.refl _ | with_reducible assumption | with_reducible apply busWrite_keeps
    | with_reducible refine Keeps.step ?_ (cfgWrite_keeps _ _ _ (Stays.refl _))
    | with_reducible refine Keeps.step ?_ (done_keeps _ (Stays.refl _))
    | with_reducible refine Keeps.step ?_ (settle_keeps _ (Stays.refl _)) | with_reducible apply sidebandWrite_keeps
    | with_reducible refine Keeps.step ?_ (unsupported_keeps _ (Stays.refl _)) | with_reducible apply keeps_done
    | with_reducible exact fun x => x | split | intro _ _ _ | with_reducible exact .inl (.refl _) | with_reducible rfl
    | with_reducible exact Nat.le_refl _ | (intro _ h; with_reducible exact h) | (intro _; with_reducible rfl)
    | (intro _; with_reducible exact Nat.le_refl _)

theorem pmcTick_keeps {s0 : State} (s : State) (hk : Stays s0 s) :
    Stays s0 (pmcTick s) := by
  unfold pmcTick
  try dsimp only
  repeat' first
    | with_reducible exact hk | with_reducible apply pmcAll_keeps | with_reducible exact fun x => x
    | with_reducible refine stays_mk ?_ ?_ ?_ ?_ ?_ ?_ ?_ ?_ ?_  | with_reducible exact GlbStays.refl _ | with_reducible rfl

theorem timeTick_keeps {s0 : State} (s : State) (hk : Stays s0 s) :
    Stays s0 (timeTick s) := by
  unfold timeTick
  try dsimp only
  repeat' first
    | with_reducible exact hk | with_reducible assumption | with_reducible apply hwAdd_keeps | with_reducible apply stays_foldl
    | split | intro _ _ _

theorem injectTick_keeps {s0 : State} (s : State) (p : HPort) (hk : Stays s0 s) :
    Stays s0 (injectTick s p) := by
  unfold injectTick
  try dsimp only
  repeat' first
    | with_reducible exact hk | with_reducible apply setCfg_keeps | split

theorem codewordTick_keeps {s0 : State} (s : State) (p : HPort) (hk : Stays s0 s) :
    Stays s0 (codewordTick s p) := by
  unfold codewordTick
  try dsimp only
  repeat' first
    | with_reducible exact hk | with_reducible exact Stays.refl _ | with_reducible assumption
    | with_reducible apply hwAdd_keeps | with_reducible exact fun x => x | split | intro _ _ _
    | with_reducible exact GlbStays.refl _ | with_reducible rfl | with_reducible exact Nat.le_refl _
    | (intro _ h; with_reducible exact h) | (intro _; with_reducible rfl) | (intro _; with_reducible exact Nat.le_refl _)

theorem portTick_keeps {s0 : State} (s : State) (p : HPort) (hk : Stays s0 s) :
    Stays s0 (portTick s p) := by
  unfold portTick
  try dsimp only
  repeat' first
    | with_reducible exact hk | with_reducible exact Stays.refl _ | with_reducible assumption
    | with_reducible apply codewordTick_keeps | with_reducible apply injectTick_keeps | with_reducible exact fun x => x | split
    | intro _ _ _ | with_reducible exact GlbStays.refl _ | with_reducible rfl | with_reducible exact Nat.le_refl _
    | (intro _ h; with_reducible exact h) | (intro _; with_reducible rfl) | (intro _; with_reducible exact Nat.le_refl _)

theorem coreTick_keeps {s0 : State} (s : State) (hk : Stays s0 s) :
    Stays s0 (coreTick s) := by
  unfold coreTick
  try dsimp only
  repeat' first
    | with_reducible exact hk | with_reducible exact Stays.refl _ | with_reducible assumption
    | with_reducible apply lagRule_keeps | with_reducible apply pmcTick_keeps | with_reducible apply portTick_keeps
    | with_reducible apply settle_keeps | with_reducible apply spiTick_keeps | with_reducible apply timeTick_keeps
    | with_reducible apply stays_foldl | with_reducible exact fun x => x | split | intro _ _ _
    | with_reducible exact GlbStays.refl _ | with_reducible rfl | with_reducible exact Nat.le_refl _
    | (intro _ h; with_reducible exact h) | (intro _; with_reducible rfl) | (intro _; with_reducible exact Nat.le_refl _)

theorem tick_keeps {s0 : State} (s : State) (hk : Keeps s0 s) :
    Keeps s0 (tick s) := by
  unfold tick
  try dsimp only
  repeat' first
    | with_reducible exact hk | with_reducible refine Keeps.step ?_ (coreTick_keeps _ (Stays.refl _))
    | with_reducible exact fun x => x | split | with_reducible refine keeps_mk ?_ ?_ ?_ ?_ ?_ ?_ ?_ ?_ ?_
    | with_reducible exact .inl (.refl _) | with_reducible rfl

end Sys2Proof.Machine
end

