-- ==== Sys2Proof/Laws/Exec.lean ====
section
/-! SUPPORT. What every command keeps: the dispatch. -/

namespace Sys2Proof.Machine

theorem StaysOut.keeps {s : State} {r : Host.Outcome State Fault Refusal} (h : StaysOut s r) : KeepsOut s r := by
  cases r with
  | next t => exact Stays.toKeeps h
  | fault f => exact h
  | refused f => exact h

theorem KeepsOut.base {s : State} {r : Host.Outcome State Fault Refusal} (h : KeepsOut s r) : BaseOut s r := by
  cases r with
  | next t => exact Keeps.toBase h
  | fault f => exact h
  | refused f => exact h

/-- Every command but a reset release. -/
theorem exec_keeps (i : Instr) (s : State) (hi : ∀ obs, i ≠ .resetRelease obs) : KeepsOut s (exec i s) := by
  cases i with
  | vaonPowerOn => exact execVaonPowerOn_keeps _
  | seqRailDelayExpiry _ => exact execSeqRailDelayExpiry_keeps _ _
  | seqPgRise _ _ => exact execSeqPgRise_keeps _ _ _
  | seqPgFall _ => exact execSeqPgFall_keeps _ _
  | pgDeglitchedGood _ => exact execPgDeglitchedGood_keeps _ _
  | pgLost _ => exact execPgLost_keeps _ _
  | pgUnstable _ => exact execPgUnstable_keeps _ _
  | pgTimeout _ => exact execPgTimeout_keeps _ _
  | settleWindowEnd _ => exact execSettleWindowEnd_keeps _ _
  | dischargeDone _ => exact execDischargeDone_keeps _ _
  | dischargeTimeout _ => exact execDischargeTimeout_keeps _ _
  | pwrFailNFall => exact execPwrFailNFall_keeps _
  | pwrFailNRise => exact execPwrFailNRise_keeps _
  | pwrFailRecognised => exact execPwrFailRecognised_keeps _
  | powerUpRestartTimer => exact execPowerUpRestartTimer_keeps _
  | commitDone _ => exact execCommitDone_keeps _ _
  | commitToExpiry => exact execCommitToExpiry_keeps _
  | resetNFall => exact execResetNFall_keeps _
  | resetNRecognised => exact execResetNRecognised_keeps _
  | resetNRise => exact execResetNRise_keeps _
  | resetRelease _ => exact absurd rfl (hi _)
  | settlingPassDone _ _ _ _ => exact StaysOut.keeps (execSettlingPassDone_keeps _ _ _ _ _)
  | settleLate => exact StaysOut.keeps (execSettleLate_keeps _)
  | seqCtrlRestart _ => exact execSeqCtrlRestart_keeps _ _
  | seqCtrlDown _ _ => exact execSeqCtrlDown_keeps _ _ _
  | seqFaultClear _ => exact StaysOut.keeps (execSeqFaultClear_keeps _ _)
  | glbSoftResetFull _ => exact execGlbSoftResetFull_keeps _ _
  | glbSoftResetWarm _ => exact execGlbSoftResetWarm_keeps _ _
  | headstockWatchdogExpiry => exact StaysOut.keeps (execHeadstockWatchdogExpiry_keeps _)
  | watchdogResetTimeout => exact execWatchdogResetTimeout_keeps _
  | dumpComplete _ => exact execDumpComplete_keeps _ _
  | registerWrite _ _ _ => exact execRegisterWrite_keeps _ _ _ _
  | registerReadClear _ _ => exact StaysOut.keeps (execRegisterReadClear_keeps _ _ _)
  | msixPendingSend _ => exact StaysOut.keeps (execMsixPendingSend_keeps _ _)
  | pcieFlr => exact StaysOut.keeps (execPcieFlr_keeps _)
  | pcieHotReset => exact StaysOut.keeps (execPcieHotReset_keeps _)
  | pcieLinkDown => exact StaysOut.keeps (execPcieLinkDown_keeps _)
  | pcieD3hotToD0 => exact StaysOut.keeps (execPcieD3hotToD0_keeps _)
  | pciePerstNAssert => exact StaysOut.keeps (execPciePerstNAssert_keeps _)
  | crossCountWindowEnd _ _ _ _ => exact execCrossCountWindowEnd_keeps _ _ _ _ _
  | oscRatioMeasure _ => exact StaysOut.keeps (execOscRatioMeasure_keeps _ _)
  | paceSample _ => exact StaysOut.keeps (execPaceSample_keeps _ _)
  | governorStep => exact StaysOut.keeps (execGovernorStep_keeps _)
  | paceLowTimer => exact StaysOut.keeps (execPaceLowTimer_keeps _)
  | hsOppTransitionEnd => exact StaysOut.keeps (execHsOppTransitionEnd_keeps _)
  | sensorSample _ => exact StaysOut.keeps (execSensorSample_keeps _ _)
  | rateOfRiseCompute _ => exact StaysOut.keeps (execRateOfRiseCompute_keeps _ _)
  | preemptEnd => exact StaysOut.keeps (execPreemptEnd_keeps _)
  | pstateEntry => exact StaysOut.keeps (execPstateEntry_keeps _)
  | pstateReturnL0 _ => exact StaysOut.keeps (execPstateReturnL0_keeps _ _)
  | pstateExitComplete => exact StaysOut.keeps (execPstateExitComplete_keeps _)
  | housekeepingExcursion => exact StaysOut.keeps (execHousekeepingExcursion_keeps _)
  | housekeepingExcursionEnd => exact StaysOut.keeps (execHousekeepingExcursionEnd_keeps _)
  | hostSignalValid _ => exact StaysOut.keeps (execHostSignalValid_keeps _ _)
  | codewordLock _ => exact StaysOut.keeps (execCodewordLock_keeps _ _)
  | codewordLockLost _ => exact StaysOut.keeps (execCodewordLockLost_keeps _ _)
  | wordLock _ _ => exact StaysOut.keeps (execWordLock_keeps _ _ _)
  | wordLockLost _ _ => exact StaysOut.keeps (execWordLockLost_keeps _ _ _)
  | metaframeLock _ _ => exact StaysOut.keeps (execMetaframeLock_keeps _ _ _)
  | metaframeLockLost _ _ => exact StaysOut.keeps (execMetaframeLockLost_keeps _ _ _)
  | hpLinkUp _ _ => exact StaysOut.keeps (execHpLinkUp_keeps _ _ _)
  | hpCtrlEnable _ _ => exact StaysOut.keeps (execHpCtrlEnable_keeps _ _ _)
  | hpFarLoop _ _ => exact StaysOut.keeps (execHpFarLoop_keeps _ _ _)
  | burstReceived _ _ _ => exact StaysOut.keeps (execBurstReceived_keeps _ _ _ _)
  | hostCalendarReceived _ _ => exact StaysOut.keeps (execHostCalendarReceived_keeps _ _ _)
  | responseSend _ _ _ => exact StaysOut.keeps (execResponseSend_keeps _ _ _ _)
  | nop _ _ _ _ => exact StaysOut.keeps (execNop_keeps _ _ _ _ _)
  | echo _ _ _ _ _ _ => exact StaysOut.keeps (execEcho_keeps _ _ _ _ _ _ _)
  | unknownOpcode _ _ _ _ _ => exact StaysOut.keeps (execUnknownOpcode_keeps _ _ _ _ _ _)
  | rd64 _ _ _ _ _ => exact StaysOut.keeps (execRd64_keeps _ _ _ _ _ _)
  | rd256 _ _ _ _ _ => exact StaysOut.keeps (execRd256_keeps _ _ _ _ _ _)
  | wr64 _ _ _ _ _ _ => exact StaysOut.keeps (execWr64_keeps _ _ _ _ _ _ _)
  | wr256 _ _ _ _ _ _ => exact StaysOut.keeps (execWr256_keeps _ _ _ _ _ _ _)
  | wrm64 _ _ _ _ _ _ _ => exact StaysOut.keeps (execWrm64_keeps _ _ _ _ _ _ _ _)
  | fadd64 _ _ _ _ _ _ => exact StaysOut.keeps (execFadd64_keeps _ _ _ _ _ _ _)
  | cswap64 _ _ _ _ _ _ _ => exact StaysOut.keeps (execCswap64_keeps _ _ _ _ _ _ _ _)
  | cadd _ _ _ _ _ _ => exact StaysOut.keeps (execCadd_keeps _ _ _ _ _ _ _)
  | crd _ _ _ _ _ => exact StaysOut.keeps (execCrd_keeps _ _ _ _ _ _)
  | lkup _ _ _ _ _ _ _ => exact StaysOut.keeps (execLkup_keeps _ _ _ _ _ _ _ _)
  | enq _ _ _ _ _ _ _ => exact StaysOut.keeps (execEnq_keeps _ _ _ _ _ _ _ _)
  | deq _ _ _ _ _ => exact StaysOut.keeps (execDeq_keeps _ _ _ _ _ _)
  | qflush _ _ _ _ _ => exact StaysOut.keeps (execQflush_keeps _ _ _ _ _ _)
  | qstat _ _ _ _ _ => exact StaysOut.keeps (execQstat_keeps _ _ _ _ _ _)
  | fence _ _ _ _ => exact StaysOut.keeps (execFence_keeps _ _ _ _ _)
  | fencePerformed _ _ => exact StaysOut.keeps (execFencePerformed_keeps _ _ _)
  | persist _ _ _ _ => exact StaysOut.keeps (execPersist_keeps _ _ _ _ _)
  | persistComplete _ _ _ => exact StaysOut.keeps (execPersistComplete_keeps _ _ _ _)
  | chargeReservationGrant => exact StaysOut.keeps (execChargeReservationGrant_keeps _)
  | restTokensAvailable _ _ => exact StaysOut.keeps (execRestTokensAvailable_keeps _ _ _)
  | throttleTokensAvailable _ _ => exact StaysOut.keeps (execThrottleTokensAvailable_keeps _ _ _)
  | dirtyBitmapProgramDone => exact StaysOut.keeps (execDirtyBitmapProgramDone_keeps _)
  | dirtyBitmapClear _ => exact StaysOut.keeps (execDirtyBitmapClear_keeps _ _)
  | mergeFetchReturn _ _ => exact StaysOut.keeps (execMergeFetchReturn_keeps _ _ _)
  | drainAgeTimer _ => exact StaysOut.keeps (execDrainAgeTimer_keeps _ _)
  | krfFlush => exact StaysOut.keeps (execKrfFlush_keeps _)
  | krfDirtyLimitWrite _ => exact StaysOut.keeps (execKrfDirtyLimitWrite_keeps _ _)
  | arbiterGrant _ => exact StaysOut.keeps (execArbiterGrant_keeps _ _)
  | cutIn _ => exact StaysOut.keeps (execCutIn_keeps _ _)
  | mediumReadDone _ _ => exact StaysOut.keeps (execMediumReadDone_keeps _ _ _)
  | mediumProgramDone _ _ => exact StaysOut.keeps (execMediumProgramDone_keeps _ _ _)
  | arbCommit => exact StaysOut.keeps (execArbCommit_keeps _)
  | arbRankApplyDeadline => exact StaysOut.keeps (execArbRankApplyDeadline_keeps _)
  | steadyRestEval => exact StaysOut.keeps (execSteadyRestEval_keeps _)
  | rdpLock _ => exact StaysOut.keeps (execRdpLock_keeps _ _)
  | rdpPin _ => exact StaysOut.keeps (execRdpPin_keeps _ _)
  | rdpUnlock _ => exact StaysOut.keeps (execRdpUnlock_keeps _ _)
  | rangeInvalidation _ => exact StaysOut.keeps (execRangeInvalidation_keeps _ _)
  | invalidationDone => exact StaysOut.keeps (execInvalidationDone_keeps _)
  | cacheEn _ => exact StaysOut.keeps (execCacheEn_keeps _ _)
  | scrubStep _ _ _ _ => exact StaysOut.keeps (execScrubStep_keeps _ _ _ _ _)
  | gapStep _ _ => exact StaysOut.keeps (execGapStep_keeps _ _ _)
  | mchWatchdogExpiry _ => exact StaysOut.keeps (execMchWatchdogExpiry_keeps _ _)
  | mchDatapathError _ => exact StaysOut.keeps (execMchDatapathError_keeps _ _)
  | mchForceFail _ => exact StaysOut.keeps (execMchForceFail_keeps _ _)
  | diePortFault _ _ => exact StaysOut.keeps (execDiePortFault_keeps _ _ _)
  | blankOutage _ => exact StaysOut.keeps (execBlankOutage_keeps _ _)
  | blankResetTimeout _ _ => exact StaysOut.keeps (execBlankResetTimeout_keeps _ _ _)
  | tierReload _ => exact StaysOut.keeps (execTierReload_keeps _ _)
  | lkeWatchdogExpiry _ => exact StaysOut.keeps (execLkeWatchdogExpiry_keeps _ _)
  | lkeDatapathError _ => exact StaysOut.keeps (execLkeDatapathError_keeps _ _)
  | lkeForceFail _ => exact StaysOut.keeps (execLkeForceFail_keeps _ _)
  | tblCommitSwitch => exact StaysOut.keeps (execTblCommitSwitch_keeps _)
  | poolFormatDone _ => exact StaysOut.keeps (execPoolFormatDone_keeps _ _)
  | queueDescWriteback _ => exact StaysOut.keeps (execQueueDescWriteback_keeps _ _)
  | orphanSweep => exact StaysOut.keeps (execOrphanSweep_keeps _)
  | orphanSweepDone => exact StaysOut.keeps (execOrphanSweepDone_keeps _)
  | foldTimer _ => exact StaysOut.keeps (execFoldTimer_keeps _ _)
  | cntFoldAll => exact StaysOut.keeps (execCntFoldAll_keeps _)
  | foldSwitch _ => exact StaysOut.keeps (execFoldSwitch_keeps _ _)
  | cntClearSector _ => exact StaysOut.keeps (execCntClearSector_keeps _ _)
  | forcedRekeyStart => exact StaysOut.keeps (execForcedRekeyStart_keeps _)
  | rekeyWalkGroup _ _ => exact StaysOut.keeps (execRekeyWalkGroup_keeps _ _ _)
  | mirPcsLock _ => exact StaysOut.keeps (execMirPcsLock_keeps _ _)
  | mirLinkDown _ => exact StaysOut.keeps (execMirLinkDown_keeps _ _)
  | hello _ _ => exact StaysOut.keeps (execHello_keeps _ _ _)
  | data _ _ _ _ => exact StaysOut.keeps (execData_keeps _ _ _ _ _)
  | ack _ _ _ => exact StaysOut.keeps (execAck_keeps _ _ _ _)
  | nak _ _ => exact StaysOut.keeps (execNak_keeps _ _ _)
  | repairReq _ _ => exact StaysOut.keeps (execRepairReq_keeps _ _ _)
  | seedReq _ _ => exact StaysOut.keeps (execSeedReq_keeps _ _ _)
  | regionState _ _ => exact StaysOut.keeps (execRegionState_keeps _ _ _)
  | helloTimer _ => exact StaysOut.keeps (execHelloTimer_keeps _ _)
  | sessionLossTimeout _ => exact StaysOut.keeps (execSessionLossTimeout_keeps _ _)
  | regionStateTimer _ => exact StaysOut.keeps (execRegionStateTimer_keeps _ _)
  | intentBitmapProgramDone => exact StaysOut.keeps (execIntentBitmapProgramDone_keeps _)
  | intentBitClear _ _ => exact StaysOut.keeps (execIntentBitClear_keeps _ _ _)
  | catchupSector _ _ => exact StaysOut.keeps (execCatchupSector_keeps _ _ _)
  | seedSectorSend _ _ => exact StaysOut.keeps (execSeedSectorSend_keeps _ _ _)
  | devInfo _ _ _ => exact StaysOut.keeps (execDevInfo_keeps _ _ _ _)
  | devEcho _ _ _ => exact StaysOut.keeps (execDevEcho_keeps _ _ _ _)
  | regionGet _ _ _ => exact StaysOut.keeps (execRegionGet_keeps _ _ _ _)
  | regionSet _ _ _ => exact StaysOut.keeps (execRegionSet_keeps _ _ _ _)
  | regionRecreate _ _ _ => exact StaysOut.keeps (execRegionRecreate_keeps _ _ _ _)
  | forceFail _ _ _ => exact StaysOut.keeps (execForceFail_keeps _ _ _ _)
  | tblCreate _ _ _ => exact StaysOut.keeps (execTblCreate_keeps _ _ _ _)
  | tblDelete _ _ _ => exact StaysOut.keeps (execTblDelete_keeps _ _ _ _)
  | tblUpdate _ _ _ => exact StaysOut.keeps (execTblUpdate_keeps _ _ _ _)
  | tblCommit _ _ _ => exact StaysOut.keeps (execTblCommit_keeps _ _ _ _)
  | tblAbort _ _ _ => exact StaysOut.keeps (execTblAbort_keeps _ _ _ _)
  | tblQuery _ _ _ => exact StaysOut.keeps (execTblQuery_keeps _ _ _ _)
  | tblInfo _ _ _ => exact StaysOut.keeps (execTblInfo_keeps _ _ _ _)
  | profileSet _ _ _ => exact StaysOut.keeps (execProfileSet_keeps _ _ _ _)
  | profileGet _ _ _ => exact StaysOut.keeps (execProfileGet_keeps _ _ _ _)
  | poolSet _ _ _ => exact StaysOut.keeps (execPoolSet_keeps _ _ _ _)
  | poolInfo _ _ _ => exact StaysOut.keeps (execPoolInfo_keeps _ _ _ _)
  | queueSet _ _ _ => exact StaysOut.keeps (execQueueSet_keeps _ _ _ _)
  | queueGet _ _ _ => exact StaysOut.keeps (execQueueGet_keeps _ _ _ _)
  | cntClear _ _ _ => exact StaysOut.keeps (execCntClear_keeps _ _ _ _)
  | cntInfo _ _ _ => exact StaysOut.keeps (execCntInfo_keeps _ _ _ _)
  | devkeyInstall _ _ _ => exact StaysOut.keeps (execDevkeyInstall_keeps _ _ _ _)
  | devkeyZeroise _ _ _ => exact StaysOut.keeps (execDevkeyZeroise_keeps _ _ _ _)
  | keyLoad _ _ _ => exact StaysOut.keeps (execKeyLoad_keeps _ _ _ _)
  | keyBind _ _ _ => exact StaysOut.keeps (execKeyBind_keeps _ _ _ _)
  | keyChange _ _ _ => exact StaysOut.keeps (execKeyChange_keeps _ _ _ _)
  | keyUnbind _ _ _ => exact StaysOut.keeps (execKeyUnbind_keeps _ _ _ _)
  | keyRetire _ _ _ => exact StaysOut.keeps (execKeyRetire_keeps _ _ _ _)
  | keyInfo _ _ _ => exact StaysOut.keeps (execKeyInfo_keeps _ _ _ _)
  | pstInfo _ _ _ => exact StaysOut.keeps (execPstInfo_keeps _ _ _ _)
  | pstRead _ _ _ => exact StaysOut.keeps (execPstRead_keeps _ _ _ _)
  | pstWrite _ _ _ => exact StaysOut.keeps (execPstWrite_keeps _ _ _ _)
  | pstPassword _ _ _ => exact StaysOut.keeps (execPstPassword_keeps _ _ _ _)
  | pstCtrRead _ _ _ => exact StaysOut.keeps (execPstCtrRead_keeps _ _ _ _)
  | pstCtrInc _ _ _ => exact StaysOut.keeps (execPstCtrInc_keeps _ _ _ _)
  | pstTieRewrite _ _ => exact StaysOut.keeps (execPstTieRewrite_keeps _ _ _)
  | pstProfileWe _ _ => exact StaysOut.keeps (execPstProfileWe_keeps _ _ _)
  | evtFreeze _ _ _ => exact StaysOut.keeps (execEvtFreeze_keeps _ _ _ _)
  | evtThaw _ _ _ => exact StaysOut.keeps (execEvtThaw_keeps _ _ _ _)
  | evtRead _ _ _ => exact StaysOut.keeps (execEvtRead_keeps _ _ _ _)
  | evtClear _ _ _ => exact StaysOut.keeps (execEvtClear_keeps _ _ _ _)
  | evtLimitSet _ _ _ => exact StaysOut.keeps (execEvtLimitSet_keeps _ _ _ _)
  | evtLimitGet _ _ _ => exact StaysOut.keeps (execEvtLimitGet_keeps _ _ _ _)
  | eventFrontWriteback => exact StaysOut.keeps (execEventFrontWriteback_keeps _)
  | rateLimitSweep => exact StaysOut.keeps (execRateLimitSweep_keeps _)
  | evrAutoThaw => exact StaysOut.keeps (execEvrAutoThaw_keeps _)
  | dumpInfo _ _ _ => exact StaysOut.keeps (execDumpInfo_keeps _ _ _ _)
  | dumpRead _ _ _ => exact StaysOut.keeps (execDumpRead_keeps _ _ _ _)
  | dumpRelease _ _ _ => exact StaysOut.keeps (execDumpRelease_keeps _ _ _ _)
  | mirPair _ _ _ => exact StaysOut.keeps (execMirPair_keeps _ _ _ _)
  | mirUnpair _ _ _ => exact StaysOut.keeps (execMirUnpair_keeps _ _ _ _)
  | mirPromote _ _ _ => exact StaysOut.keeps (execMirPromote_keeps _ _ _ _)
  | mirSak _ _ _ => exact StaysOut.keeps (execMirSak_keeps _ _ _ _)
  | mirSakClear _ _ _ => exact StaysOut.keeps (execMirSakClear_keeps _ _ _ _)
  | mirInfo _ _ _ => exact StaysOut.keeps (execMirInfo_keeps _ _ _ _)
  | mirReseed _ _ _ => exact StaysOut.keeps (execMirReseed_keeps _ _ _ _)
  | fwInfo _ _ _ => exact StaysOut.keeps (execFwInfo_keeps _ _ _ _)
  | fwWrite _ _ _ => exact StaysOut.keeps (execFwWrite_keeps _ _ _ _)
  | fwActivate _ _ _ => exact StaysOut.keeps (execFwActivate_keeps _ _ _ _)
  | fwConfirm _ _ _ => exact StaysOut.keeps (execFwConfirm_keeps _ _ _ _)
  | fwRollback _ _ _ => exact StaysOut.keeps (execFwRollback_keeps _ _ _ _)
  | fwToSpi _ _ _ _ => exact StaysOut.keeps (execFwToSpi_keeps _ _ _ _ _)
  | fwResetNowTimer => exact execFwResetNowTimer_keeps _
  | calGet _ _ _ => exact StaysOut.keeps (execCalGet_keeps _ _ _ _)
  | calSet _ _ _ => exact StaysOut.keeps (execCalSet_keeps _ _ _ _)
  | pwrInfo _ _ _ => exact StaysOut.keeps (execPwrInfo_keeps _ _ _ _)
  | pwrLtrSet _ _ _ => exact StaysOut.keeps (execPwrLtrSet_keeps _ _ _ _)
  | thmSet _ _ _ => exact StaysOut.keeps (execThmSet_keeps _ _ _ _)
  | hsOppSet _ _ _ => exact StaysOut.keeps (execHsOppSet_keeps _ _ _ _)
  | mbxBadOpcode _ _ _ _ => exact StaysOut.keeps (execMbxBadOpcode_keeps _ _ _ _ _)
  | mbxAbort _ => exact StaysOut.keeps (execMbxAbort_keeps _ _)
  | mbxRelease _ => exact StaysOut.keeps (execMbxRelease_keeps _ _)
  | pmcEnable _ _ _ _ => exact StaysOut.keeps (execPmcEnable_keeps _ _ _ _ _)
  | pmcClear _ => exact StaysOut.keeps (execPmcClear_keeps _ _)
  | pmcCounterWrap _ _ => exact StaysOut.keeps (execPmcCounterWrap_keeps _ _ _)
  | vaonPowerLoss _ => exact execVaonPowerLoss_keeps _ _
  | aliasGuardBegin _ => exact StaysOut.keeps (execAliasGuardBegin_keeps _ _)
  | fwAssert => exact StaysOut.keeps (execFwAssert_keeps _)
  | pcieLinkUp b => exact StaysOut.keeps (execPcieLinkUp_keeps _ _)
  | rxDiscard _ _ => exact StaysOut.keeps (execRxDiscard_keeps _ _ _)

/-- Every command. -/
theorem exec_base (i : Instr) (s : State) : BaseOut s (exec i s) := by
  by_cases h : ∃ obs, i = .resetRelease obs
  · obtain ⟨obs, rfl⟩ := h
    exact execResetRelease_keeps obs s
  · exact KeepsOut.base (exec_keeps i s fun obs e => h ⟨obs, e⟩)

/-- Every command that neither takes a reset nor belongs to the Tailstock. -/
theorem exec_stays (i : Instr) (s : State) (hi : powerCommand i = false) : StaysOut s (exec i s) := by
  cases i with
  | vaonPowerOn => exact nomatch (show true = false from hi)
  | seqRailDelayExpiry _ => exact nomatch (show true = false from hi)
  | seqPgRise _ _ => exact nomatch (show true = false from hi)
  | seqPgFall _ => exact nomatch (show true = false from hi)
  | pgDeglitchedGood _ => exact nomatch (show true = false from hi)
  | pgLost _ => exact nomatch (show true = false from hi)
  | pgUnstable _ => exact nomatch (show true = false from hi)
  | pgTimeout _ => exact nomatch (show true = false from hi)
  | settleWindowEnd _ => exact nomatch (show true = false from hi)
  | dischargeDone _ => exact nomatch (show true = false from hi)
  | dischargeTimeout _ => exact nomatch (show true = false from hi)
  | pwrFailNFall => exact nomatch (show true = false from hi)
  | pwrFailNRise => exact nomatch (show true = false from hi)
  | pwrFailRecognised => exact nomatch (show true = false from hi)
  | powerUpRestartTimer => exact nomatch (show true = false from hi)
  | commitDone _ => exact nomatch (show true = false from hi)
  | commitToExpiry => exact nomatch (show true = false from hi)
  | resetNFall => exact nomatch (show true = false from hi)
  | resetNRecognised => exact nomatch (show true = false from hi)
  | resetNRise => exact nomatch (show true = false from hi)
  | resetRelease _ => exact nomatch (show true = false from hi)
  | settlingPassDone _ _ _ _ => exact execSettlingPassDone_keeps _ _ _ _ _
  | settleLate => exact execSettleLate_keeps _
  | seqCtrlRestart _ => exact nomatch (show true = false from hi)
  | seqCtrlDown _ _ => exact nomatch (show true = false from hi)
  | seqFaultClear _ => exact execSeqFaultClear_keeps _ _
  | glbSoftResetFull _ => exact nomatch (show true = false from hi)
  | glbSoftResetWarm _ => exact nomatch (show true = false from hi)
  | headstockWatchdogExpiry => exact execHeadstockWatchdogExpiry_keeps _
  | watchdogResetTimeout => exact nomatch (show true = false from hi)
  | dumpComplete _ => exact nomatch (show true = false from hi)
  | registerWrite _ _ _ => exact nomatch (show true = false from hi)
  | registerReadClear _ _ => exact execRegisterReadClear_keeps _ _ _
  | msixPendingSend _ => exact execMsixPendingSend_keeps _ _
  | pcieFlr => exact execPcieFlr_keeps _
  | pcieHotReset => exact execPcieHotReset_keeps _
  | pcieLinkDown => exact execPcieLinkDown_keeps _
  | pcieD3hotToD0 => exact execPcieD3hotToD0_keeps _
  | pciePerstNAssert => exact execPciePerstNAssert_keeps _
  | crossCountWindowEnd _ _ _ _ => exact nomatch (show true = false from hi)
  | oscRatioMeasure _ => exact execOscRatioMeasure_keeps _ _
  | paceSample _ => exact execPaceSample_keeps _ _
  | governorStep => exact execGovernorStep_keeps _
  | paceLowTimer => exact execPaceLowTimer_keeps _
  | hsOppTransitionEnd => exact execHsOppTransitionEnd_keeps _
  | sensorSample _ => exact execSensorSample_keeps _ _
  | rateOfRiseCompute _ => exact execRateOfRiseCompute_keeps _ _
  | preemptEnd => exact execPreemptEnd_keeps _
  | pstateEntry => exact execPstateEntry_keeps _
  | pstateReturnL0 _ => exact execPstateReturnL0_keeps _ _
  | pstateExitComplete => exact execPstateExitComplete_keeps _
  | housekeepingExcursion => exact execHousekeepingExcursion_keeps _
  | housekeepingExcursionEnd => exact execHousekeepingExcursionEnd_keeps _
  | hostSignalValid _ => exact execHostSignalValid_keeps _ _
  | codewordLock _ => exact execCodewordLock_keeps _ _
  | codewordLockLost _ => exact execCodewordLockLost_keeps _ _
  | wordLock _ _ => exact execWordLock_keeps _ _ _
  | wordLockLost _ _ => exact execWordLockLost_keeps _ _ _
  | metaframeLock _ _ => exact execMetaframeLock_keeps _ _ _
  | metaframeLockLost _ _ => exact execMetaframeLockLost_keeps _ _ _
  | hpLinkUp _ _ => exact execHpLinkUp_keeps _ _ _
  | hpCtrlEnable _ _ => exact execHpCtrlEnable_keeps _ _ _
  | hpFarLoop _ _ => exact execHpFarLoop_keeps _ _ _
  | burstReceived _ _ _ => exact execBurstReceived_keeps _ _ _ _
  | hostCalendarReceived _ _ => exact execHostCalendarReceived_keeps _ _ _
  | responseSend _ _ _ => exact execResponseSend_keeps _ _ _ _
  | nop _ _ _ _ => exact execNop_keeps _ _ _ _ _
  | echo _ _ _ _ _ _ => exact execEcho_keeps _ _ _ _ _ _ _
  | unknownOpcode _ _ _ _ _ => exact execUnknownOpcode_keeps _ _ _ _ _ _
  | rd64 _ _ _ _ _ => exact execRd64_keeps _ _ _ _ _ _
  | rd256 _ _ _ _ _ => exact execRd256_keeps _ _ _ _ _ _
  | wr64 _ _ _ _ _ _ => exact execWr64_keeps _ _ _ _ _ _ _
  | wr256 _ _ _ _ _ _ => exact execWr256_keeps _ _ _ _ _ _ _
  | wrm64 _ _ _ _ _ _ _ => exact execWrm64_keeps _ _ _ _ _ _ _ _
  | fadd64 _ _ _ _ _ _ => exact execFadd64_keeps _ _ _ _ _ _ _
  | cswap64 _ _ _ _ _ _ _ => exact execCswap64_keeps _ _ _ _ _ _ _ _
  | cadd _ _ _ _ _ _ => exact execCadd_keeps _ _ _ _ _ _ _
  | crd _ _ _ _ _ => exact execCrd_keeps _ _ _ _ _ _
  | lkup _ _ _ _ _ _ _ => exact execLkup_keeps _ _ _ _ _ _ _ _
  | enq _ _ _ _ _ _ _ => exact execEnq_keeps _ _ _ _ _ _ _ _
  | deq _ _ _ _ _ => exact execDeq_keeps _ _ _ _ _ _
  | qflush _ _ _ _ _ => exact execQflush_keeps _ _ _ _ _ _
  | qstat _ _ _ _ _ => exact execQstat_keeps _ _ _ _ _ _
  | fence _ _ _ _ => exact execFence_keeps _ _ _ _ _
  | fencePerformed _ _ => exact execFencePerformed_keeps _ _ _
  | persist _ _ _ _ => exact execPersist_keeps _ _ _ _ _
  | persistComplete _ _ _ => exact execPersistComplete_keeps _ _ _ _
  | chargeReservationGrant => exact execChargeReservationGrant_keeps _
  | restTokensAvailable _ _ => exact execRestTokensAvailable_keeps _ _ _
  | throttleTokensAvailable _ _ => exact execThrottleTokensAvailable_keeps _ _ _
  | dirtyBitmapProgramDone => exact execDirtyBitmapProgramDone_keeps _
  | dirtyBitmapClear _ => exact execDirtyBitmapClear_keeps _ _
  | mergeFetchReturn _ _ => exact execMergeFetchReturn_keeps _ _ _
  | drainAgeTimer _ => exact execDrainAgeTimer_keeps _ _
  | krfFlush => exact execKrfFlush_keeps _
  | krfDirtyLimitWrite _ => exact execKrfDirtyLimitWrite_keeps _ _
  | arbiterGrant _ => exact execArbiterGrant_keeps _ _
  | cutIn _ => exact execCutIn_keeps _ _
  | mediumReadDone _ _ => exact execMediumReadDone_keeps _ _ _
  | mediumProgramDone _ _ => exact execMediumProgramDone_keeps _ _ _
  | arbCommit => exact execArbCommit_keeps _
  | arbRankApplyDeadline => exact execArbRankApplyDeadline_keeps _
  | steadyRestEval => exact execSteadyRestEval_keeps _
  | rdpLock _ => exact execRdpLock_keeps _ _
  | rdpPin _ => exact execRdpPin_keeps _ _
  | rdpUnlock _ => exact execRdpUnlock_keeps _ _
  | rangeInvalidation _ => exact execRangeInvalidation_keeps _ _
  | invalidationDone => exact execInvalidationDone_keeps _
  | cacheEn _ => exact execCacheEn_keeps _ _
  | scrubStep _ _ _ _ => exact execScrubStep_keeps _ _ _ _ _
  | gapStep _ _ => exact execGapStep_keeps _ _ _
  | mchWatchdogExpiry _ => exact execMchWatchdogExpiry_keeps _ _
  | mchDatapathError _ => exact execMchDatapathError_keeps _ _
  | mchForceFail _ => exact execMchForceFail_keeps _ _
  | diePortFault _ _ => exact execDiePortFault_keeps _ _ _
  | blankOutage _ => exact execBlankOutage_keeps _ _
  | blankResetTimeout _ _ => exact execBlankResetTimeout_keeps _ _ _
  | tierReload _ => exact execTierReload_keeps _ _
  | lkeWatchdogExpiry _ => exact execLkeWatchdogExpiry_keeps _ _
  | lkeDatapathError _ => exact execLkeDatapathError_keeps _ _
  | lkeForceFail _ => exact execLkeForceFail_keeps _ _
  | tblCommitSwitch => exact execTblCommitSwitch_keeps _
  | poolFormatDone _ => exact execPoolFormatDone_keeps _ _
  | queueDescWriteback _ => exact execQueueDescWriteback_keeps _ _
  | orphanSweep => exact execOrphanSweep_keeps _
  | orphanSweepDone => exact execOrphanSweepDone_keeps _
  | foldTimer _ => exact execFoldTimer_keeps _ _
  | cntFoldAll => exact execCntFoldAll_keeps _
  | foldSwitch _ => exact execFoldSwitch_keeps _ _
  | cntClearSector _ => exact execCntClearSector_keeps _ _
  | forcedRekeyStart => exact execForcedRekeyStart_keeps _
  | rekeyWalkGroup _ _ => exact execRekeyWalkGroup_keeps _ _ _
  | mirPcsLock _ => exact execMirPcsLock_keeps _ _
  | mirLinkDown _ => exact execMirLinkDown_keeps _ _
  | hello _ _ => exact execHello_keeps _ _ _
  | data _ _ _ _ => exact execData_keeps _ _ _ _ _
  | ack _ _ _ => exact execAck_keeps _ _ _ _
  | nak _ _ => exact execNak_keeps _ _ _
  | repairReq _ _ => exact execRepairReq_keeps _ _ _
  | seedReq _ _ => exact execSeedReq_keeps _ _ _
  | regionState _ _ => exact execRegionState_keeps _ _ _
  | helloTimer _ => exact execHelloTimer_keeps _ _
  | sessionLossTimeout _ => exact execSessionLossTimeout_keeps _ _
  | regionStateTimer _ => exact execRegionStateTimer_keeps _ _
  | intentBitmapProgramDone => exact execIntentBitmapProgramDone_keeps _
  | intentBitClear _ _ => exact execIntentBitClear_keeps _ _ _
  | catchupSector _ _ => exact execCatchupSector_keeps _ _ _
  | seedSectorSend _ _ => exact execSeedSectorSend_keeps _ _ _
  | devInfo _ _ _ => exact execDevInfo_keeps _ _ _ _
  | devEcho _ _ _ => exact execDevEcho_keeps _ _ _ _
  | regionGet _ _ _ => exact execRegionGet_keeps _ _ _ _
  | regionSet _ _ _ => exact execRegionSet_keeps _ _ _ _
  | regionRecreate _ _ _ => exact execRegionRecreate_keeps _ _ _ _
  | forceFail _ _ _ => exact execForceFail_keeps _ _ _ _
  | tblCreate _ _ _ => exact execTblCreate_keeps _ _ _ _
  | tblDelete _ _ _ => exact execTblDelete_keeps _ _ _ _
  | tblUpdate _ _ _ => exact execTblUpdate_keeps _ _ _ _
  | tblCommit _ _ _ => exact execTblCommit_keeps _ _ _ _
  | tblAbort _ _ _ => exact execTblAbort_keeps _ _ _ _
  | tblQuery _ _ _ => exact execTblQuery_keeps _ _ _ _
  | tblInfo _ _ _ => exact execTblInfo_keeps _ _ _ _
  | profileSet _ _ _ => exact execProfileSet_keeps _ _ _ _
  | profileGet _ _ _ => exact execProfileGet_keeps _ _ _ _
  | poolSet _ _ _ => exact execPoolSet_keeps _ _ _ _
  | poolInfo _ _ _ => exact execPoolInfo_keeps _ _ _ _
  | queueSet _ _ _ => exact execQueueSet_keeps _ _ _ _
  | queueGet _ _ _ => exact execQueueGet_keeps _ _ _ _
  | cntClear _ _ _ => exact execCntClear_keeps _ _ _ _
  | cntInfo _ _ _ => exact execCntInfo_keeps _ _ _ _
  | devkeyInstall _ _ _ => exact execDevkeyInstall_keeps _ _ _ _
  | devkeyZeroise _ _ _ => exact execDevkeyZeroise_keeps _ _ _ _
  | keyLoad _ _ _ => exact execKeyLoad_keeps _ _ _ _
  | keyBind _ _ _ => exact execKeyBind_keeps _ _ _ _
  | keyChange _ _ _ => exact execKeyChange_keeps _ _ _ _
  | keyUnbind _ _ _ => exact execKeyUnbind_keeps _ _ _ _
  | keyRetire _ _ _ => exact execKeyRetire_keeps _ _ _ _
  | keyInfo _ _ _ => exact execKeyInfo_keeps _ _ _ _
  | pstInfo _ _ _ => exact execPstInfo_keeps _ _ _ _
  | pstRead _ _ _ => exact execPstRead_keeps _ _ _ _
  | pstWrite _ _ _ => exact execPstWrite_keeps _ _ _ _
  | pstPassword _ _ _ => exact execPstPassword_keeps _ _ _ _
  | pstCtrRead _ _ _ => exact execPstCtrRead_keeps _ _ _ _
  | pstCtrInc _ _ _ => exact execPstCtrInc_keeps _ _ _ _
  | pstTieRewrite _ _ => exact execPstTieRewrite_keeps _ _ _
  | pstProfileWe _ _ => exact execPstProfileWe_keeps _ _ _
  | evtFreeze _ _ _ => exact execEvtFreeze_keeps _ _ _ _
  | evtThaw _ _ _ => exact execEvtThaw_keeps _ _ _ _
  | evtRead _ _ _ => exact execEvtRead_keeps _ _ _ _
  | evtClear _ _ _ => exact execEvtClear_keeps _ _ _ _
  | evtLimitSet _ _ _ => exact execEvtLimitSet_keeps _ _ _ _
  | evtLimitGet _ _ _ => exact execEvtLimitGet_keeps _ _ _ _
  | eventFrontWriteback => exact execEventFrontWriteback_keeps _
  | rateLimitSweep => exact execRateLimitSweep_keeps _
  | evrAutoThaw => exact execEvrAutoThaw_keeps _
  | dumpInfo _ _ _ => exact execDumpInfo_keeps _ _ _ _
  | dumpRead _ _ _ => exact execDumpRead_keeps _ _ _ _
  | dumpRelease _ _ _ => exact execDumpRelease_keeps _ _ _ _
  | mirPair _ _ _ => exact execMirPair_keeps _ _ _ _
  | mirUnpair _ _ _ => exact execMirUnpair_keeps _ _ _ _
  | mirPromote _ _ _ => exact execMirPromote_keeps _ _ _ _
  | mirSak _ _ _ => exact execMirSak_keeps _ _ _ _
  | mirSakClear _ _ _ => exact execMirSakClear_keeps _ _ _ _
  | mirInfo _ _ _ => exact execMirInfo_keeps _ _ _ _
  | mirReseed _ _ _ => exact execMirReseed_keeps _ _ _ _
  | fwInfo _ _ _ => exact execFwInfo_keeps _ _ _ _
  | fwWrite _ _ _ => exact execFwWrite_keeps _ _ _ _
  | fwActivate _ _ _ => exact execFwActivate_keeps _ _ _ _
  | fwConfirm _ _ _ => exact execFwConfirm_keeps _ _ _ _
  | fwRollback _ _ _ => exact execFwRollback_keeps _ _ _ _
  | fwToSpi _ _ _ _ => exact execFwToSpi_keeps _ _ _ _ _
  | fwResetNowTimer => exact nomatch (show true = false from hi)
  | calGet _ _ _ => exact execCalGet_keeps _ _ _ _
  | calSet _ _ _ => exact execCalSet_keeps _ _ _ _
  | pwrInfo _ _ _ => exact execPwrInfo_keeps _ _ _ _
  | pwrLtrSet _ _ _ => exact execPwrLtrSet_keeps _ _ _ _
  | thmSet _ _ _ => exact execThmSet_keeps _ _ _ _
  | hsOppSet _ _ _ => exact execHsOppSet_keeps _ _ _ _
  | mbxBadOpcode _ _ _ _ => exact execMbxBadOpcode_keeps _ _ _ _ _
  | mbxAbort _ => exact execMbxAbort_keeps _ _
  | mbxRelease _ => exact execMbxRelease_keeps _ _
  | pmcEnable _ _ _ _ => exact execPmcEnable_keeps _ _ _ _ _
  | pmcClear _ => exact execPmcClear_keeps _ _
  | pmcCounterWrap _ _ => exact execPmcCounterWrap_keeps _ _ _
  | vaonPowerLoss _ => exact nomatch (show true = false from hi)
  | aliasGuardBegin _ => exact execAliasGuardBegin_keeps _ _
  | fwAssert => exact execFwAssert_keeps _
  | pcieLinkUp b => exact execPcieLinkUp_keeps _ _
  | rxDiscard _ _ => exact execRxDiscard_keeps _ _ _

end Sys2Proof.Machine
end

