-- ==== Sys2Proof/Laws/Open.lean ====
section
/-! SUPPORT. What a command does that an open port takes (`portOpen`): the state it is performed in (`took`), and the claims that follow
once `perform` is known (`answers_performed`). -/

namespace Sys2Proof.Machine

/-- The rows of the port's opcodes are arrivals of their commands. -/
theorem exec_host {i : Instr} {x : Slotted} (h : hostRow i = some x) (s : State) : exec i s = .next (fin (hostCommand s x)) := by
  cases i <;> simp only [hostRow, Option.some.injEq, reduceCtorEq] at h <;> subst h <;> rfl

theorem pmcCount_frame (s : State) (a : Nat) (b : Option Nat) (c : Nat) :
    ∃ H E P, pmcCount s a b c = { s with hw := H, evr := E, pmc := P } := ⟨_, _, _, rfl⟩

theorem hwAdd_frame (s : State) (o n : Nat) : ∃ H, hwAdd s o n = { s with hw := H } := ⟨_, rfl⟩

theorem takenCmd_frame (s : State) (x : Slotted) :
    ∃ H E P, takenCmd s x = { s with
      cmds := s.cmds ++ [acceptedCmd s x], nextCmd := s.nextCmd + 1, hw := H, evr := E, pmc := P } := by
  unfold takenCmd
  obtain ⟨H1, h1⟩ := hwAdd_frame s (Reg.HP_RX_BYTES x.port.val) (16 + 64 * x.du)
  rw [h1]
  dsimp only
  obtain ⟨H2, h2⟩ := hwAdd_frame { s with cmds := s.cmds ++ [acceptedCmd { s with hw := H1 } x], nextCmd := s.nextCmd + 1, hw := H1 }
    (Reg.HP_RX_CMDS x.port.val) 1
  rw [h2]
  obtain ⟨H, E, P, h⟩ := pmcCount_frame { s with cmds := s.cmds ++ [acceptedCmd { s with hw := H1 } x], nextCmd := s.nextCmd + 1, hw := H2 } 0x100 (some x.port.val) 1
  exact ⟨H, E, P, h⟩

/-- The facts of an open port, one by one. -/
structure OpenFacts (s : State) (p : HPort) : Prop where
  calm : calm s = true
  cmds : s.cmds = []
  packets : (s.ports[p]).packets = []
  up : (s.ports[p]).linkUp = true
  loop : loopedBack s p = false
  serves : s.glb.state.serves = true
  fwd : s.glb.fwd = true
  running : s.krf.running = none
  staged : staged s = true
  wr : s.thm.writePct = 100
  rd : s.thm.readPct = 100
  level : s.med.level = .none

theorem open_facts {s : State} {p : HPort} (h : portOpen s p = true) : OpenFacts s p := by
  simp only [portOpen, Bool.and_eq_true] at h
  obtain ⟨⟨⟨⟨⟨⟨⟨⟨⟨⟨⟨h1, h2⟩, h0⟩, h3⟩, h4⟩, h5⟩, h6⟩, h7⟩, h8⟩, h9⟩, h10⟩, h11⟩ := h
  exact ⟨h1, by simpa using h2, by simpa using h0, h3, by simpa using h4, h5, h6, by simpa using h7, h8, by simpa using h9, by simpa using h10,
    by simpa using h11⟩

/-- A state that has taken a command without any other: what acceptance touches is left open. -/
abbrev took (s : State) (x : Slotted) (H : FMap Word64) (E : Evr) (P : Vector Pmc 6) : State :=
  { s with cmds := [acceptedCmd s x], nextCmd := s.nextCmd + 1, hw := H, evr := E, pmc := P }

theorem takenCmd_took {s : State} {x : Slotted} (h : s.cmds = []) : ∃ H E P, takenCmd s x = took s x H E P := by
  obtain ⟨H, E, P, e⟩ := takenCmd_frame s x
  refine ⟨H, E, P, ?_⟩
  rw [e, h]; rfl

theorem receiveUnits_none {s : State} {p : HPort} (h : s.cmds = []) : receiveUnits s p = 0 := by
  unfold receiveUnits receiveOf; rw [h]; rfl

theorem arrival_open {s : State} {x : Slotted} (h : portOpen s x.port = true) (hd : x.du ≤ 7) : arrival s x = some 0 := by
  have f := open_facts h
  have h2 : cmdUnits (acceptedCmd s x) ≤ 1024 := by
    unfold cmdUnits; show (16 + 64 * x.du + 255) / 256 ≤ 1024; omega
  have h3 : partUnits s x.port x.chan = 0 := by unfold partUnits; rw [f.packets]; rfl
  unfold arrival
  rw [receiveUnits_none f.cmds, h3, f.up, f.loop, f.serves, if_neg (by simp), if_neg (by simp), if_neg (by omega)]

theorem hostRow_du {i : Instr} {x : Slotted} (h : hostRow i = some x) : x.du ≤ 7 := by
  cases i <;> simp only [hostRow, Option.some.injEq, reduceCtorEq] at h <;> subst h <;> simp only [slotted] <;> omega

theorem hostCommand_taken {s : State} {x : Slotted} (h : arrival s x = some 0) : hostCommand s x = settle (takenCmd s x) := by
  unfold hostCommand
  rw [h]
  have : arrival (hwAdd s (Reg.HP_RX_BYTES x.port.val) (16 + 64 * x.du)) x = some 0 := h
  unfold accept
  dsimp only
  rw [this]
  rfl

theorem calm_other {s : State} {l : List HostCmd} {n : Nat} {H : FMap Word64} {E : Evr} {P : Vector Pmc 6} (h : calm s = true)
    (hl : l.all (fun x => stageRests x.stage && !persistWaits x && !lkupWaits x) = true) :
    calm { s with cmds := l, nextCmd := n, hw := H, evr := E, pmc := P } = true := by
  simp only [calm, Bool.and_eq_true] at h ⊢
  obtain ⟨⟨⟨⟨⟨⟨⟨⟨⟨⟨⟨⟨⟨⟨⟨⟨⟨⟨⟨h1, h2⟩, h3⟩, h4⟩, _⟩, h7⟩, h8⟩, h9⟩, h10⟩, h11⟩, h12⟩, h13⟩, h14⟩, h15⟩, h16⟩, h17⟩, h18⟩, h19⟩, h20⟩, h21⟩ := h
  exact ⟨⟨⟨⟨⟨⟨⟨⟨⟨⟨⟨⟨⟨⟨⟨⟨⟨⟨⟨h1, h2⟩, h3⟩, h4⟩, hl⟩, h7⟩, h8⟩, h9⟩, h10⟩, h11⟩, h12⟩, h13⟩, h14⟩, h15⟩, h16⟩, h17⟩, h18⟩, h19⟩, h20⟩, h21⟩

/-- A command that an open port takes, and that leaves nothing waiting. -/
theorem host_runs {i : Instr} {x : Slotted} {s : State} (hi : hostRow i = some x) (h : portOpen s x.port = true) :
    ∃ H E P, ∀ t, advance (took s x H E P) s.nextCmd = t → calm t = true → exec i s = .next (fin (ringRule (calAll (calAll t)))) := by
  have f := open_facts h
  obtain ⟨H, E, P, ht⟩ := takenCmd_took (x := x) f.cmds
  refine ⟨H, E, P, fun t e hc => ?_⟩
  subst e
  rw [exec_host hi, hostCommand_taken (arrival_open h (hostRow_du hi)), ht]
  have hk : calm { took s x H E P with cmds := [] } = true := calm_other (s := s) (l := []) f.calm rfl
  rw [settle_one (s := took s x H E P) (x := acceptedCmd s x) hk rfl rfl hc]
  rfl

theorem cmdAt_took (s : State) (x : Slotted) (H : FMap Word64) (E : Evr) (P : Vector Pmc 6) :
    cmdAt (took s x H E P) s.nextCmd = some (acceptedCmd s x) := by
  simp [cmdAt, acceptedCmd]

theorem earlier_took (s : State) (x : Slotted) (H : FMap Word64) (E : Evr) (P : Vector Pmc 6) :
    earlier (took s x H E P) (acceptedCmd s x) = [] := by
  simp [earlier]

/-- The accepted command leaves the receive buffer at once. -/
theorem advance_took {s : State} {x : Slotted} (H : FMap Word64) (E : Evr) (P : Vector Pmc 6) (h : portOpen s x.port = true) :
    advance (took s x H E P) s.nextCmd =
      match malformed (acceptedCmd s x) with
      | some d => refuse (took s x H E P) s.nextCmd (Resp.plain .malformed d)
      | none =>
        if (acceptedCmd s x).op.isPa then
          match checkPa s (acceptedCmd s x) with
          | some r => if r.status = .poison then complete (took s x H E P) s.nextCmd r else refuse (took s x H E P) s.nextCmd r
          | none => perform (took s x H E P) (acceptedCmd s x)
        else perform (took s x H E P) (acceptedCmd s x) := by
  have f := open_facts h
  unfold advance
  rw [cmdAt_took]
  have hm : mayDispatch (took s x H E P) (acceptedCmd s x) = true := by
    unfold mayDispatch
    rw [earlier_took]
    have h1 : (took s x H E P).glb.fwd = true := f.fwd
    have h2 : (took s x H E P).krf.running = none := f.running
    have h3 : Machine.staged (took s x H E P) = true := f.staged
    rw [h1, h2, h3]; rfl
  show (if mayDispatch (took s x H E P) (acceptedCmd s x) then throttleStep (took s x H E P) s.nextCmd else took s x H E P) = _
  rw [hm, if_pos rfl]
  unfold throttleStep
  rw [cmdAt_took]
  dsimp only
  cases malformed (acceptedCmd s x) with
  | some d => rfl
  | none =>
    dsimp only
    have tp : throttlePasses (took s x H E P) (acceptedCmd s x) = true := by
      unfold throttlePasses; split <;> simp [f.wr, f.rd]
    have tc : throttleCharge (took s x H E P) (acceptedCmd s x) = took s x H E P := by
      unfold throttleCharge; split <;> simp [f.wr, f.rd]
    rw [tp, if_pos rfl, tc]
    unfold restStep
    rw [cmdAt_took]
    have rt : restToll (took s x H E P) (acceptedCmd s x) = none := by
      unfold restToll; rw [show (took s x H E P).med.level = .none from f.level]; split <;> rfl
    have rp : restPasses (took s x H E P) (acceptedCmd s x) = true := by unfold restPasses; rw [rt]
    have rc : restCharge (took s x H E P) (acceptedCmd s x) = took s x H E P := by unfold restCharge; rw [rt]
    dsimp only
    rw [rp, if_pos rfl, rc]
    unfold dispatchCmd
    rw [cmdAt_took]
    dsimp only
    have eh : eraseHolds (took s x H E P) (acceptedCmd s x) = false := by
      unfold eraseHolds; rw [show (took s x H E P).sealing.erasing = [] from (calm_facts f.calm).erase]; simp
    rw [earlier_took, eh]
    rfl

/-- An answer to the command just taken, in a state that differs from the one it was taken in as it may. -/
theorem answer_took {s t : State} {x : Slotted} {p : Bool} {r : Resp} (h : portOpen s x.port = true) (ht : t.cmds = [acceptedCmd s x])
    (hp : t.ports = s.ports) :
    answer t s.nextCmd p r = { t with cmds := answeredBy s x p r } := by
  have f := open_facts h
  have hc : cmdAt t s.nextCmd = some (acceptedCmd s x) := by unfold cmdAt; rw [ht]; simp [acceptedCmd]
  have al : sessionAlive t (acceptedCmd s x) = true := by
    show ((t.ports[x.port]).linkUp && (s.ports[x.port]).session == (t.ports[x.port]).session) = true
    rw [hp, f.up]; simp
  unfold answer
  rw [hc]
  show (if sessionAlive t (acceptedCmd s x) = true then _ else _) = _
  rw [al, if_pos rfl]
  unfold modCmd
  rw [ht]
  simp [answeredBy, acceptedCmd]

theorem answered_rests (s : State) (x : Slotted) (p : Bool) (r : Resp) :
    (answeredBy s x p r).all (fun x => stageRests x.stage && !persistWaits x && !lkupWaits x) = true := by
  simp [answeredBy, stageRests, persistWaits, lkupWaits]

theorem OnlyAnswers.trans {s t u : State} (h : OnlyAnswers s t) (k : OnlyAnswers t u) : OnlyAnswers s u := by
  refine ⟨?_, h.2.trans k.2⟩
  have e := k.1
  rw [h.1] at e
  rw [e]

theorem Saved.only {s t : State} (h : Saved s t) : OnlyAnswers s t := by
  have u := h.user
  obtain ⟨_, _, _, _, _, _, _, _, e⟩ := h.rest
  subst e
  exact ⟨rfl, u⟩

theorem calAll_only (t : State) : OnlyAnswers t (calAll t) := by
  have e := calAll_frame t
  generalize (calAll t).ports = a at e
  generalize (calAll t).hw = b at e
  rw [e]
  exact ⟨rfl, .of_med rfl⟩

theorem fin_only (t : State) : OnlyAnswers t (fin t) := ⟨rfl, .of_med rfl⟩

theorem fin_calAll (t : State) : OnlyAnswers t (fin (ringRule (calAll (calAll t)))) :=
  (((calAll_only t).trans (calAll_only _)).trans (ringRule_saved _).only).trans (fin_only _)

theorem fin_calAll_cmds (t : State) : (fin (ringRule (calAll (calAll t)))).cmds = t.cmds := by
  have e (u : State) : (ringRule u).cmds = u.cmds := by
    obtain ⟨_, _, _, _, _, _, _, _, e⟩ := (ringRule_saved u).rest
    rw [e]
  have f (u : State) : (fin u).cmds = u.cmds := rfl
  rw [f, e, calAll_cmds, calAll_cmds]

/-- A command whose whole effect is its answer. -/
theorem answers_only {i : Instr} {x : Slotted} {s : State} {p : Bool} {r : Resp} (hi : hostRow i = some x)
    (h : portOpen s x.port = true)
    (ha : ∀ H E P, ∃ H' E' P', advance (took s x H E P) s.nextCmd =
      { s with cmds := answeredBy s x p r, nextCmd := s.nextCmd + 1, hw := H', evr := E', pmc := P' }) :
    AnswersOnly i x s p r := by
  obtain ⟨H, E, P, hr⟩ := host_runs hi h
  obtain ⟨H', E', P', ha⟩ := ha H E P
  generalize ht : ({ s with cmds := answeredBy s x p r, nextCmd := s.nextCmd + 1, hw := H', evr := E', pmc := P' } : State) = t at ha
  have hc : calm t = true := by
    rw [← ht]; exact calm_other (open_facts h).calm (answered_rests s x p r)
  have he := hr t ha hc
  have k := fin_calAll t
  refine ⟨_, he, ?_, ?_⟩
  · rw [fin_calAll_cmds, ← ht]
  · refine OnlyAnswers.trans ?_ k
    rw [← ht]
    exact ⟨rfl, .of_med rfl⟩

theorem dupTag_none {s : State} {x : Slotted} (h : portOpen s x.port = true) : (acceptedCmd s x).dupTag = false := by
  show tagOut s _ _ _ = false
  unfold tagOut; rw [(open_facts h).cmds]; rfl

/-- A well-formed command that has no PA, or one that its checks pass, is carried out. -/
theorem answers_performed {i : Instr} {x : Slotted} {s : State} {p : Bool} {r : Resp} (hi : hostRow i = some x)
    (h : portOpen s x.port = true) (hm : malformed (acceptedCmd s x) = none)
    (hc : (acceptedCmd s x).op.isPa = false ∨ checkPa s (acceptedCmd s x) = none)
    (ha : ∀ H E P, ∃ H' E' P', perform (took s x H E P) (acceptedCmd s x) =
      { s with cmds := answeredBy s x p r, nextCmd := s.nextCmd + 1, hw := H', evr := E', pmc := P' }) :
    AnswersOnly i x s p r := by
  refine answers_only hi h fun H E P => ?_
  obtain ⟨H', E', P', e⟩ := ha H E P
  refine ⟨H', E', P', ?_⟩
  rw [advance_took H E P h, hm]
  dsimp only
  rcases hc with hc | hc
  · rw [hc, if_neg (by simp)]; exact e
  · rw [hc]; dsimp only; rw [ite_self]; exact e

theorem malformed_none {x : HostCmd} {op : Op} (ho : x.op = op) (h1 : op ≠ .unknown) (h2 : duFits x = true) (h3 : x.dupTag = false)
    (h4 : op.isPa = true → x.addr.toNat % op.size = 0) (h5 : op = .wrm64 → x.operand ≠ 0)
    (h6 : op = .enq → enqBytes x.addr ≠ 0 ∧ enqBytes x.addr ≤ 256) : malformed x = none := by
  subst ho
  unfold malformed
  rw [if_neg h1, h2, h3, if_neg (by simp), if_neg (by simp), if_neg (fun h => h.2 (h4 h.1)), if_neg (fun h => h5 h.1 h.2),
    if_neg (fun h => by have := h6 h.1; omega)]

theorem permits_check {s : State} {p : HPort} {pa : PA} {u : Use} {k : Nat} {x : Slotted} (h : permits s p pa u k = true)
    (hp : x.port = p) (ha : x.addr = pa) (hr : rightNeeded u (opOfCode x.code.toNat) = some k) :
    checkPa s (acceptedCmd s x) = none := by
  subst hp; subst ha
  simp only [permits, Bool.and_eq_true, decide_eq_true_eq, Bool.not_eq_true'] at h
  obtain ⟨⟨⟨h1, h2⟩, h3⟩, h4⟩ := h
  show (if !inUser x.addr then _ else _) = _
  rw [h1]
  show (match rightNeeded (regionAt s (regionOf x.addr)).use (opOfCode x.code.toNat) with | none => _ | some k => _) = _
  rw [h2, hr]
  show (if !holdsRight s x.port (regionAt s (regionOf x.addr)) k then _ else if (regionAt s (regionOf x.addr)).lost then _ else _) = _
  rw [h3, h4]; rfl

theorem slotCheck_good {s : State} {lsa : Nat} {y : Slot} (h : slotAt s lsa = some y) (hg : y.ecc = .good) : slotCheck s lsa = s := by
  unfold slotCheck; rw [h]; dsimp only; rw [hg]; split <;> rfl

theorem holds_good {y : Slot} (h : y.holds = true) : y.ecc = .good ∧ (y.state = .dirty ∨ y.state = .draining) := by
  simpa [Slot.holds] using h

theorem probe_held {s : State} {c : Class} {lsa : Nat} {y : Slot} (h : slotAt s lsa = some y) (hy : y.holds = true) :
    probe s c lsa = (.kerf y.data, s) := by
  obtain ⟨hg, hs⟩ := holds_good hy
  unfold probe
  rw [slotCheck_good h hg]
  dsimp only
  rw [h]
  rcases hs with hs | hs <;> simp only [hs]

theorem probe_poisoned {s : State} {c : Class} {lsa : Nat} {y : Slot} (h : slotAt s lsa = some y) (hg : y.ecc = .good)
    (hs : y.state = .poisoned) : probe s c lsa = (.poisoned, s) := by
  unfold probe
  rw [slotCheck_good h hg]
  dsimp only
  rw [h]
  simp only [hs]

end Sys2Proof.Machine
end

