-- ==== Sys2Proof/Laws/State.lean ====
section
/-! SUPPORT. Each update of the state, field by field, and the reads that look at one field. -/

namespace Sys2Proof.Machine

variable (s : State)

/-! ### setCfg -/

section
variable (o : Nat) (v : Word64)
@[simp] theorem setCfg_pending : (setCfg s o v).pending = s.pending := rfl
@[simp] theorem setCfg_fresh : (setCfg s o v).fresh = s.fresh := rfl
@[simp] theorem setCfg_hw : (setCfg s o v).hw = s.hw := rfl
@[simp] theorem setCfg_latches : (setCfg s o v).latches = s.latches := rfl
@[simp] theorem setCfg_busRead : (setCfg s o v).busRead = s.busRead := rfl
@[simp] theorem setCfg_time : (setCfg s o v).time = s.time := rfl
@[simp] theorem setCfg_glb : (setCfg s o v).glb = s.glb := rfl
@[simp] theorem setCfg_seq : (setCfg s o v).seq = s.seq := rfl
@[simp] theorem setCfg_clk : (setCfg s o v).clk = s.clk := rfl
@[simp] theorem setCfg_thm : (setCfg s o v).thm = s.thm := rfl
@[simp] theorem setCfg_pwr : (setCfg s o v).pwr = s.pwr := rfl
@[simp] theorem setCfg_pcie : (setCfg s o v).pcie = s.pcie := rfl
@[simp] theorem setCfg_ports : (setCfg s o v).ports = s.ports := rfl
@[simp] theorem setCfg_cmds : (setCfg s o v).cmds = s.cmds := rfl
@[simp] theorem setCfg_nextCmd : (setCfg s o v).nextCmd = s.nextCmd := rfl
@[simp] theorem setCfg_krf : (setCfg s o v).krf = s.krf := rfl
@[simp] theorem setCfg_rdp : (setCfg s o v).rdp = s.rdp := rfl
@[simp] theorem setCfg_med : (setCfg s o v).med = s.med := rfl
@[simp] theorem setCfg_regions : (setCfg s o v).regions = s.regions := rfl
@[simp] theorem setCfg_sealing : (setCfg s o v).sealing = s.sealing := rfl
@[simp] theorem setCfg_lke : (setCfg s o v).lke = s.lke := rfl
@[simp] theorem setCfg_dbq : (setCfg s o v).dbq = s.dbq := rfl
@[simp] theorem setCfg_cnt : (setCfg s o v).cnt = s.cnt := rfl
@[simp] theorem setCfg_mir : (setCfg s o v).mir = s.mir := rfl
@[simp] theorem setCfg_mbx : (setCfg s o v).mbx = s.mbx := rfl
@[simp] theorem setCfg_fw : (setCfg s o v).fw = s.fw := rfl
@[simp] theorem setCfg_pst : (setCfg s o v).pst = s.pst := rfl
@[simp] theorem setCfg_evr : (setCfg s o v).evr = s.evr := rfl
@[simp] theorem setCfg_dumps : (setCfg s o v).dumps = s.dumps := rfl
@[simp] theorem setCfg_pmc : (setCfg s o v).pmc = s.pmc := rfl
@[simp] theorem setCfg_jtag : (setCfg s o v).jtag = s.jtag := rfl
@[simp] theorem setCfg_out : (setCfg s o v).out = s.out := rfl
@[simp] theorem setCfg_regs : (setCfg s o v).regs = fputD s.regs o (regReset o) v := rfl
end

/-! ### hwSet -/

section
variable (o : Nat) (v : Word64)
@[simp] theorem hwSet_pending : (hwSet s o v).pending = s.pending := rfl
@[simp] theorem hwSet_fresh : (hwSet s o v).fresh = s.fresh := rfl
@[simp] theorem hwSet_regs : (hwSet s o v).regs = s.regs := rfl
@[simp] theorem hwSet_latches : (hwSet s o v).latches = s.latches := rfl
@[simp] theorem hwSet_busRead : (hwSet s o v).busRead = s.busRead := rfl
@[simp] theorem hwSet_time : (hwSet s o v).time = s.time := rfl
@[simp] theorem hwSet_glb : (hwSet s o v).glb = s.glb := rfl
@[simp] theorem hwSet_seq : (hwSet s o v).seq = s.seq := rfl
@[simp] theorem hwSet_clk : (hwSet s o v).clk = s.clk := rfl
@[simp] theorem hwSet_thm : (hwSet s o v).thm = s.thm := rfl
@[simp] theorem hwSet_pwr : (hwSet s o v).pwr = s.pwr := rfl
@[simp] theorem hwSet_pcie : (hwSet s o v).pcie = s.pcie := rfl
@[simp] theorem hwSet_ports : (hwSet s o v).ports = s.ports := rfl
@[simp] theorem hwSet_cmds : (hwSet s o v).cmds = s.cmds := rfl
@[simp] theorem hwSet_nextCmd : (hwSet s o v).nextCmd = s.nextCmd := rfl
@[simp] theorem hwSet_krf : (hwSet s o v).krf = s.krf := rfl
@[simp] theorem hwSet_rdp : (hwSet s o v).rdp = s.rdp := rfl
@[simp] theorem hwSet_med : (hwSet s o v).med = s.med := rfl
@[simp] theorem hwSet_regions : (hwSet s o v).regions = s.regions := rfl
@[simp] theorem hwSet_sealing : (hwSet s o v).sealing = s.sealing := rfl
@[simp] theorem hwSet_lke : (hwSet s o v).lke = s.lke := rfl
@[simp] theorem hwSet_dbq : (hwSet s o v).dbq = s.dbq := rfl
@[simp] theorem hwSet_cnt : (hwSet s o v).cnt = s.cnt := rfl
@[simp] theorem hwSet_mir : (hwSet s o v).mir = s.mir := rfl
@[simp] theorem hwSet_mbx : (hwSet s o v).mbx = s.mbx := rfl
@[simp] theorem hwSet_fw : (hwSet s o v).fw = s.fw := rfl
@[simp] theorem hwSet_pst : (hwSet s o v).pst = s.pst := rfl
@[simp] theorem hwSet_evr : (hwSet s o v).evr = s.evr := rfl
@[simp] theorem hwSet_dumps : (hwSet s o v).dumps = s.dumps := rfl
@[simp] theorem hwSet_pmc : (hwSet s o v).pmc = s.pmc := rfl
@[simp] theorem hwSet_jtag : (hwSet s o v).jtag = s.jtag := rfl
@[simp] theorem hwSet_out : (hwSet s o v).out = s.out := rfl
@[simp] theorem hwSet_hw : (hwSet s o v).hw = hwPut s.hw o v := rfl
end

/-! ### hwAdd -/

section
variable (o : Nat) (n : Nat)
@[simp] theorem hwAdd_pending : (hwAdd s o n).pending = s.pending := rfl
@[simp] theorem hwAdd_fresh : (hwAdd s o n).fresh = s.fresh := rfl
@[simp] theorem hwAdd_regs : (hwAdd s o n).regs = s.regs := rfl
@[simp] theorem hwAdd_latches : (hwAdd s o n).latches = s.latches := rfl
@[simp] theorem hwAdd_busRead : (hwAdd s o n).busRead = s.busRead := rfl
@[simp] theorem hwAdd_time : (hwAdd s o n).time = s.time := rfl
@[simp] theorem hwAdd_glb : (hwAdd s o n).glb = s.glb := rfl
@[simp] theorem hwAdd_seq : (hwAdd s o n).seq = s.seq := rfl
@[simp] theorem hwAdd_clk : (hwAdd s o n).clk = s.clk := rfl
@[simp] theorem hwAdd_thm : (hwAdd s o n).thm = s.thm := rfl
@[simp] theorem hwAdd_pwr : (hwAdd s o n).pwr = s.pwr := rfl
@[simp] theorem hwAdd_pcie : (hwAdd s o n).pcie = s.pcie := rfl
@[simp] theorem hwAdd_ports : (hwAdd s o n).ports = s.ports := rfl
@[simp] theorem hwAdd_cmds : (hwAdd s o n).cmds = s.cmds := rfl
@[simp] theorem hwAdd_nextCmd : (hwAdd s o n).nextCmd = s.nextCmd := rfl
@[simp] theorem hwAdd_krf : (hwAdd s o n).krf = s.krf := rfl
@[simp] theorem hwAdd_rdp : (hwAdd s o n).rdp = s.rdp := rfl
@[simp] theorem hwAdd_med : (hwAdd s o n).med = s.med := rfl
@[simp] theorem hwAdd_regions : (hwAdd s o n).regions = s.regions := rfl
@[simp] theorem hwAdd_sealing : (hwAdd s o n).sealing = s.sealing := rfl
@[simp] theorem hwAdd_lke : (hwAdd s o n).lke = s.lke := rfl
@[simp] theorem hwAdd_dbq : (hwAdd s o n).dbq = s.dbq := rfl
@[simp] theorem hwAdd_cnt : (hwAdd s o n).cnt = s.cnt := rfl
@[simp] theorem hwAdd_mir : (hwAdd s o n).mir = s.mir := rfl
@[simp] theorem hwAdd_mbx : (hwAdd s o n).mbx = s.mbx := rfl
@[simp] theorem hwAdd_fw : (hwAdd s o n).fw = s.fw := rfl
@[simp] theorem hwAdd_pst : (hwAdd s o n).pst = s.pst := rfl
@[simp] theorem hwAdd_evr : (hwAdd s o n).evr = s.evr := rfl
@[simp] theorem hwAdd_dumps : (hwAdd s o n).dumps = s.dumps := rfl
@[simp] theorem hwAdd_pmc : (hwAdd s o n).pmc = s.pmc := rfl
@[simp] theorem hwAdd_jtag : (hwAdd s o n).jtag = s.jtag := rfl
@[simp] theorem hwAdd_out : (hwAdd s o n).out = s.out := rfl
end

/-! ### hwSat -/

section
variable (o : Nat) (w : Nat) (n : Nat)
@[simp] theorem hwSat_pending : (hwSat s o w n).pending = s.pending := rfl
@[simp] theorem hwSat_fresh : (hwSat s o w n).fresh = s.fresh := rfl
@[simp] theorem hwSat_regs : (hwSat s o w n).regs = s.regs := rfl
@[simp] theorem hwSat_latches : (hwSat s o w n).latches = s.latches := rfl
@[simp] theorem hwSat_busRead : (hwSat s o w n).busRead = s.busRead := rfl
@[simp] theorem hwSat_time : (hwSat s o w n).time = s.time := rfl
@[simp] theorem hwSat_glb : (hwSat s o w n).glb = s.glb := rfl
@[simp] theorem hwSat_seq : (hwSat s o w n).seq = s.seq := rfl
@[simp] theorem hwSat_clk : (hwSat s o w n).clk = s.clk := rfl
@[simp] theorem hwSat_thm : (hwSat s o w n).thm = s.thm := rfl
@[simp] theorem hwSat_pwr : (hwSat s o w n).pwr = s.pwr := rfl
@[simp] theorem hwSat_pcie : (hwSat s o w n).pcie = s.pcie := rfl
@[simp] theorem hwSat_ports : (hwSat s o w n).ports = s.ports := rfl
@[simp] theorem hwSat_cmds : (hwSat s o w n).cmds = s.cmds := rfl
@[simp] theorem hwSat_nextCmd : (hwSat s o w n).nextCmd = s.nextCmd := rfl
@[simp] theorem hwSat_krf : (hwSat s o w n).krf = s.krf := rfl
@[simp] theorem hwSat_rdp : (hwSat s o w n).rdp = s.rdp := rfl
@[simp] theorem hwSat_med : (hwSat s o w n).med = s.med := rfl
@[simp] theorem hwSat_regions : (hwSat s o w n).regions = s.regions := rfl
@[simp] theorem hwSat_sealing : (hwSat s o w n).sealing = s.sealing := rfl
@[simp] theorem hwSat_lke : (hwSat s o w n).lke = s.lke := rfl
@[simp] theorem hwSat_dbq : (hwSat s o w n).dbq = s.dbq := rfl
@[simp] theorem hwSat_cnt : (hwSat s o w n).cnt = s.cnt := rfl
@[simp] theorem hwSat_mir : (hwSat s o w n).mir = s.mir := rfl
@[simp] theorem hwSat_mbx : (hwSat s o w n).mbx = s.mbx := rfl
@[simp] theorem hwSat_fw : (hwSat s o w n).fw = s.fw := rfl
@[simp] theorem hwSat_pst : (hwSat s o w n).pst = s.pst := rfl
@[simp] theorem hwSat_evr : (hwSat s o w n).evr = s.evr := rfl
@[simp] theorem hwSat_dumps : (hwSat s o w n).dumps = s.dumps := rfl
@[simp] theorem hwSat_pmc : (hwSat s o w n).pmc = s.pmc := rfl
@[simp] theorem hwSat_jtag : (hwSat s o w n).jtag = s.jtag := rfl
@[simp] theorem hwSat_out : (hwSat s o w n).out = s.out := rfl
end

/-! ### raise -/

section
variable (o : Nat) (k : Nat)
@[simp] theorem raise_pending : (raise s o k).pending = s.pending := rfl
@[simp] theorem raise_fresh : (raise s o k).fresh = s.fresh := rfl
@[simp] theorem raise_regs : (raise s o k).regs = s.regs := rfl
@[simp] theorem raise_latches : (raise s o k).latches = s.latches := rfl
@[simp] theorem raise_busRead : (raise s o k).busRead = s.busRead := rfl
@[simp] theorem raise_time : (raise s o k).time = s.time := rfl
@[simp] theorem raise_glb : (raise s o k).glb = s.glb := rfl
@[simp] theorem raise_seq : (raise s o k).seq = s.seq := rfl
@[simp] theorem raise_clk : (raise s o k).clk = s.clk := rfl
@[simp] theorem raise_thm : (raise s o k).thm = s.thm := rfl
@[simp] theorem raise_pwr : (raise s o k).pwr = s.pwr := rfl
@[simp] theorem raise_pcie : (raise s o k).pcie = s.pcie := rfl
@[simp] theorem raise_ports : (raise s o k).ports = s.ports := rfl
@[simp] theorem raise_cmds : (raise s o k).cmds = s.cmds := rfl
@[simp] theorem raise_nextCmd : (raise s o k).nextCmd = s.nextCmd := rfl
@[simp] theorem raise_krf : (raise s o k).krf = s.krf := rfl
@[simp] theorem raise_rdp : (raise s o k).rdp = s.rdp := rfl
@[simp] theorem raise_med : (raise s o k).med = s.med := rfl
@[simp] theorem raise_regions : (raise s o k).regions = s.regions := rfl
@[simp] theorem raise_sealing : (raise s o k).sealing = s.sealing := rfl
@[simp] theorem raise_lke : (raise s o k).lke = s.lke := rfl
@[simp] theorem raise_dbq : (raise s o k).dbq = s.dbq := rfl
@[simp] theorem raise_cnt : (raise s o k).cnt = s.cnt := rfl
@[simp] theorem raise_mir : (raise s o k).mir = s.mir := rfl
@[simp] theorem raise_mbx : (raise s o k).mbx = s.mbx := rfl
@[simp] theorem raise_fw : (raise s o k).fw = s.fw := rfl
@[simp] theorem raise_pst : (raise s o k).pst = s.pst := rfl
@[simp] theorem raise_evr : (raise s o k).evr = s.evr := rfl
@[simp] theorem raise_dumps : (raise s o k).dumps = s.dumps := rfl
@[simp] theorem raise_pmc : (raise s o k).pmc = s.pmc := rfl
@[simp] theorem raise_jtag : (raise s o k).jtag = s.jtag := rfl
@[simp] theorem raise_out : (raise s o k).out = s.out := rfl
end

/-! ### freeNext -/

section
@[simp] theorem freeNext_pending : (freeNext s).pending = s.pending := rfl
@[simp] theorem freeNext_regs : (freeNext s).regs = s.regs := rfl
@[simp] theorem freeNext_hw : (freeNext s).hw = s.hw := rfl
@[simp] theorem freeNext_latches : (freeNext s).latches = s.latches := rfl
@[simp] theorem freeNext_busRead : (freeNext s).busRead = s.busRead := rfl
@[simp] theorem freeNext_time : (freeNext s).time = s.time := rfl
@[simp] theorem freeNext_glb : (freeNext s).glb = s.glb := rfl
@[simp] theorem freeNext_seq : (freeNext s).seq = s.seq := rfl
@[simp] theorem freeNext_clk : (freeNext s).clk = s.clk := rfl
@[simp] theorem freeNext_thm : (freeNext s).thm = s.thm := rfl
@[simp] theorem freeNext_pwr : (freeNext s).pwr = s.pwr := rfl
@[simp] theorem freeNext_pcie : (freeNext s).pcie = s.pcie := rfl
@[simp] theorem freeNext_ports : (freeNext s).ports = s.ports := rfl
@[simp] theorem freeNext_cmds : (freeNext s).cmds = s.cmds := rfl
@[simp] theorem freeNext_nextCmd : (freeNext s).nextCmd = s.nextCmd := rfl
@[simp] theorem freeNext_krf : (freeNext s).krf = s.krf := rfl
@[simp] theorem freeNext_rdp : (freeNext s).rdp = s.rdp := rfl
@[simp] theorem freeNext_med : (freeNext s).med = s.med := rfl
@[simp] theorem freeNext_regions : (freeNext s).regions = s.regions := rfl
@[simp] theorem freeNext_sealing : (freeNext s).sealing = s.sealing := rfl
@[simp] theorem freeNext_lke : (freeNext s).lke = s.lke := rfl
@[simp] theorem freeNext_dbq : (freeNext s).dbq = s.dbq := rfl
@[simp] theorem freeNext_cnt : (freeNext s).cnt = s.cnt := rfl
@[simp] theorem freeNext_mir : (freeNext s).mir = s.mir := rfl
@[simp] theorem freeNext_mbx : (freeNext s).mbx = s.mbx := rfl
@[simp] theorem freeNext_fw : (freeNext s).fw = s.fw := rfl
@[simp] theorem freeNext_pst : (freeNext s).pst = s.pst := rfl
@[simp] theorem freeNext_evr : (freeNext s).evr = s.evr := rfl
@[simp] theorem freeNext_dumps : (freeNext s).dumps = s.dumps := rfl
@[simp] theorem freeNext_pmc : (freeNext s).pmc = s.pmc := rfl
@[simp] theorem freeNext_jtag : (freeNext s).jtag = s.jtag := rfl
@[simp] theorem freeNext_out : (freeNext s).out = s.out := rfl
@[simp] theorem freeNext_fresh : (freeNext s).fresh = s.fresh + 1 := rfl
end

/-! ### emit -/

section
variable (e : Emit)
@[simp] theorem emit_pending : (emit s e).pending = s.pending := rfl
@[simp] theorem emit_fresh : (emit s e).fresh = s.fresh := rfl
@[simp] theorem emit_regs : (emit s e).regs = s.regs := rfl
@[simp] theorem emit_hw : (emit s e).hw = s.hw := rfl
@[simp] theorem emit_latches : (emit s e).latches = s.latches := rfl
@[simp] theorem emit_busRead : (emit s e).busRead = s.busRead := rfl
@[simp] theorem emit_time : (emit s e).time = s.time := rfl
@[simp] theorem emit_glb : (emit s e).glb = s.glb := rfl
@[simp] theorem emit_seq : (emit s e).seq = s.seq := rfl
@[simp] theorem emit_clk : (emit s e).clk = s.clk := rfl
@[simp] theorem emit_thm : (emit s e).thm = s.thm := rfl
@[simp] theorem emit_pwr : (emit s e).pwr = s.pwr := rfl
@[simp] theorem emit_pcie : (emit s e).pcie = s.pcie := rfl
@[simp] theorem emit_ports : (emit s e).ports = s.ports := rfl
@[simp] theorem emit_cmds : (emit s e).cmds = s.cmds := rfl
@[simp] theorem emit_nextCmd : (emit s e).nextCmd = s.nextCmd := rfl
@[simp] theorem emit_krf : (emit s e).krf = s.krf := rfl
@[simp] theorem emit_rdp : (emit s e).rdp = s.rdp := rfl
@[simp] theorem emit_med : (emit s e).med = s.med := rfl
@[simp] theorem emit_regions : (emit s e).regions = s.regions := rfl
@[simp] theorem emit_sealing : (emit s e).sealing = s.sealing := rfl
@[simp] theorem emit_lke : (emit s e).lke = s.lke := rfl
@[simp] theorem emit_dbq : (emit s e).dbq = s.dbq := rfl
@[simp] theorem emit_cnt : (emit s e).cnt = s.cnt := rfl
@[simp] theorem emit_mir : (emit s e).mir = s.mir := rfl
@[simp] theorem emit_mbx : (emit s e).mbx = s.mbx := rfl
@[simp] theorem emit_fw : (emit s e).fw = s.fw := rfl
@[simp] theorem emit_pst : (emit s e).pst = s.pst := rfl
@[simp] theorem emit_evr : (emit s e).evr = s.evr := rfl
@[simp] theorem emit_dumps : (emit s e).dumps = s.dumps := rfl
@[simp] theorem emit_pmc : (emit s e).pmc = s.pmc := rfl
@[simp] theorem emit_jtag : (emit s e).jtag = s.jtag := rfl
@[simp] theorem emit_out : (emit s e).out = e :: s.out := rfl
end

/-! ### fin -/

section
@[simp] theorem fin_pending : (fin s).pending = s.pending := rfl
@[simp] theorem fin_fresh : (fin s).fresh = s.fresh := rfl
@[simp] theorem fin_regs : (fin s).regs = s.regs := rfl
@[simp] theorem fin_hw : (fin s).hw = s.hw := rfl
@[simp] theorem fin_latches : (fin s).latches = s.latches := rfl
@[simp] theorem fin_busRead : (fin s).busRead = s.busRead := rfl
@[simp] theorem fin_time : (fin s).time = s.time := rfl
@[simp] theorem fin_glb : (fin s).glb = s.glb := rfl
@[simp] theorem fin_seq : (fin s).seq = s.seq := rfl
@[simp] theorem fin_clk : (fin s).clk = s.clk := rfl
@[simp] theorem fin_thm : (fin s).thm = s.thm := rfl
@[simp] theorem fin_pwr : (fin s).pwr = s.pwr := rfl
@[simp] theorem fin_ports : (fin s).ports = s.ports := rfl
@[simp] theorem fin_cmds : (fin s).cmds = s.cmds := rfl
@[simp] theorem fin_nextCmd : (fin s).nextCmd = s.nextCmd := rfl
@[simp] theorem fin_krf : (fin s).krf = s.krf := rfl
@[simp] theorem fin_rdp : (fin s).rdp = s.rdp := rfl
@[simp] theorem fin_med : (fin s).med = s.med := rfl
@[simp] theorem fin_regions : (fin s).regions = s.regions := rfl
@[simp] theorem fin_sealing : (fin s).sealing = s.sealing := rfl
@[simp] theorem fin_lke : (fin s).lke = s.lke := rfl
@[simp] theorem fin_dbq : (fin s).dbq = s.dbq := rfl
@[simp] theorem fin_cnt : (fin s).cnt = s.cnt := rfl
@[simp] theorem fin_mir : (fin s).mir = s.mir := rfl
@[simp] theorem fin_mbx : (fin s).mbx = s.mbx := rfl
@[simp] theorem fin_fw : (fin s).fw = s.fw := rfl
@[simp] theorem fin_pst : (fin s).pst = s.pst := rfl
@[simp] theorem fin_evr : (fin s).evr = s.evr := rfl
@[simp] theorem fin_dumps : (fin s).dumps = s.dumps := rfl
@[simp] theorem fin_pmc : (fin s).pmc = s.pmc := rfl
@[simp] theorem fin_jtag : (fin s).jtag = s.jtag := rfl
end

/-! ### evt -/

section
variable (ev : Nat × Nat) (inst : Nat) (data : Nat)
@[simp] theorem evt_pending : (evt s ev inst data).pending = s.pending := rfl
@[simp] theorem evt_fresh : (evt s ev inst data).fresh = s.fresh := rfl
@[simp] theorem evt_regs : (evt s ev inst data).regs = s.regs := rfl
@[simp] theorem evt_latches : (evt s ev inst data).latches = s.latches := rfl
@[simp] theorem evt_busRead : (evt s ev inst data).busRead = s.busRead := rfl
@[simp] theorem evt_time : (evt s ev inst data).time = s.time := rfl
@[simp] theorem evt_glb : (evt s ev inst data).glb = s.glb := rfl
@[simp] theorem evt_seq : (evt s ev inst data).seq = s.seq := rfl
@[simp] theorem evt_clk : (evt s ev inst data).clk = s.clk := rfl
@[simp] theorem evt_thm : (evt s ev inst data).thm = s.thm := rfl
@[simp] theorem evt_pwr : (evt s ev inst data).pwr = s.pwr := rfl
@[simp] theorem evt_pcie : (evt s ev inst data).pcie = s.pcie := rfl
@[simp] theorem evt_ports : (evt s ev inst data).ports = s.ports := rfl
@[simp] theorem evt_cmds : (evt s ev inst data).cmds = s.cmds := rfl
@[simp] theorem evt_nextCmd : (evt s ev inst data).nextCmd = s.nextCmd := rfl
@[simp] theorem evt_krf : (evt s ev inst data).krf = s.krf := rfl
@[simp] theorem evt_rdp : (evt s ev inst data).rdp = s.rdp := rfl
@[simp] theorem evt_med : (evt s ev inst data).med = s.med := rfl
@[simp] theorem evt_regions : (evt s ev inst data).regions = s.regions := rfl
@[simp] theorem evt_sealing : (evt s ev inst data).sealing = s.sealing := rfl
@[simp] theorem evt_lke : (evt s ev inst data).lke = s.lke := rfl
@[simp] theorem evt_dbq : (evt s ev inst data).dbq = s.dbq := rfl
@[simp] theorem evt_cnt : (evt s ev inst data).cnt = s.cnt := rfl
@[simp] theorem evt_mir : (evt s ev inst data).mir = s.mir := rfl
@[simp] theorem evt_mbx : (evt s ev inst data).mbx = s.mbx := rfl
@[simp] theorem evt_fw : (evt s ev inst data).fw = s.fw := rfl
@[simp] theorem evt_pst : (evt s ev inst data).pst = s.pst := rfl
@[simp] theorem evt_dumps : (evt s ev inst data).dumps = s.dumps := rfl
@[simp] theorem evt_pmc : (evt s ev inst data).pmc = s.pmc := rfl
@[simp] theorem evt_jtag : (evt s ev inst data).jtag = s.jtag := rfl
@[simp] theorem evt_out : (evt s ev inst data).out = s.out := rfl
end

/-! ### pmcAll -/

section
variable (own : Fin 6 → Fin 8 → Nat)
@[simp] theorem pmcAll_pending : (pmcAll s own).pending = s.pending := by simp only [pmcAll]
@[simp] theorem pmcAll_fresh : (pmcAll s own).fresh = s.fresh := by simp only [pmcAll]
@[simp] theorem pmcAll_regs : (pmcAll s own).regs = s.regs := by simp only [pmcAll]
@[simp] theorem pmcAll_latches : (pmcAll s own).latches = s.latches := by simp only [pmcAll]
@[simp] theorem pmcAll_busRead : (pmcAll s own).busRead = s.busRead := by simp only [pmcAll]
@[simp] theorem pmcAll_time : (pmcAll s own).time = s.time := by simp only [pmcAll]
@[simp] theorem pmcAll_glb : (pmcAll s own).glb = s.glb := by simp only [pmcAll]
@[simp] theorem pmcAll_seq : (pmcAll s own).seq = s.seq := by simp only [pmcAll]
@[simp] theorem pmcAll_clk : (pmcAll s own).clk = s.clk := by simp only [pmcAll]
@[simp] theorem pmcAll_thm : (pmcAll s own).thm = s.thm := by simp only [pmcAll]
@[simp] theorem pmcAll_pwr : (pmcAll s own).pwr = s.pwr := by simp only [pmcAll]
@[simp] theorem pmcAll_pcie : (pmcAll s own).pcie = s.pcie := by simp only [pmcAll]
@[simp] theorem pmcAll_ports : (pmcAll s own).ports = s.ports := by simp only [pmcAll]
@[simp] theorem pmcAll_cmds : (pmcAll s own).cmds = s.cmds := by simp only [pmcAll]
@[simp] theorem pmcAll_nextCmd : (pmcAll s own).nextCmd = s.nextCmd := by simp only [pmcAll]
@[simp] theorem pmcAll_krf : (pmcAll s own).krf = s.krf := by simp only [pmcAll]
@[simp] theorem pmcAll_rdp : (pmcAll s own).rdp = s.rdp := by simp only [pmcAll]
@[simp] theorem pmcAll_med : (pmcAll s own).med = s.med := by simp only [pmcAll]
@[simp] theorem pmcAll_regions : (pmcAll s own).regions = s.regions := by simp only [pmcAll]
@[simp] theorem pmcAll_sealing : (pmcAll s own).sealing = s.sealing := by simp only [pmcAll]
@[simp] theorem pmcAll_lke : (pmcAll s own).lke = s.lke := by simp only [pmcAll]
@[simp] theorem pmcAll_dbq : (pmcAll s own).dbq = s.dbq := by simp only [pmcAll]
@[simp] theorem pmcAll_cnt : (pmcAll s own).cnt = s.cnt := by simp only [pmcAll]
@[simp] theorem pmcAll_mir : (pmcAll s own).mir = s.mir := by simp only [pmcAll]
@[simp] theorem pmcAll_mbx : (pmcAll s own).mbx = s.mbx := by simp only [pmcAll]
@[simp] theorem pmcAll_fw : (pmcAll s own).fw = s.fw := by simp only [pmcAll]
@[simp] theorem pmcAll_pst : (pmcAll s own).pst = s.pst := by simp only [pmcAll]
@[simp] theorem pmcAll_dumps : (pmcAll s own).dumps = s.dumps := by simp only [pmcAll]
@[simp] theorem pmcAll_jtag : (pmcAll s own).jtag = s.jtag := by simp only [pmcAll]
@[simp] theorem pmcAll_out : (pmcAll s own).out = s.out := by simp only [pmcAll]
end

/-! ### pmcCount -/

section
variable (sel : Nat) (inst : Option Nat) (n : Nat)
@[simp] theorem pmcCount_pending : (pmcCount s sel inst n).pending = s.pending := pmcAll_pending s _
@[simp] theorem pmcCount_fresh : (pmcCount s sel inst n).fresh = s.fresh := pmcAll_fresh s _
@[simp] theorem pmcCount_regs : (pmcCount s sel inst n).regs = s.regs := pmcAll_regs s _
@[simp] theorem pmcCount_latches : (pmcCount s sel inst n).latches = s.latches := pmcAll_latches s _
@[simp] theorem pmcCount_busRead : (pmcCount s sel inst n).busRead = s.busRead := pmcAll_busRead s _
@[simp] theorem pmcCount_time : (pmcCount s sel inst n).time = s.time := pmcAll_time s _
@[simp] theorem pmcCount_glb : (pmcCount s sel inst n).glb = s.glb := pmcAll_glb s _
@[simp] theorem pmcCount_seq : (pmcCount s sel inst n).seq = s.seq := pmcAll_seq s _
@[simp] theorem pmcCount_clk : (pmcCount s sel inst n).clk = s.clk := pmcAll_clk s _
@[simp] theorem pmcCount_thm : (pmcCount s sel inst n).thm = s.thm := pmcAll_thm s _
@[simp] theorem pmcCount_pwr : (pmcCount s sel inst n).pwr = s.pwr := pmcAll_pwr s _
@[simp] theorem pmcCount_pcie : (pmcCount s sel inst n).pcie = s.pcie := pmcAll_pcie s _
@[simp] theorem pmcCount_ports : (pmcCount s sel inst n).ports = s.ports := pmcAll_ports s _
@[simp] theorem pmcCount_cmds : (pmcCount s sel inst n).cmds = s.cmds := pmcAll_cmds s _
@[simp] theorem pmcCount_nextCmd : (pmcCount s sel inst n).nextCmd = s.nextCmd := pmcAll_nextCmd s _
@[simp] theorem pmcCount_krf : (pmcCount s sel inst n).krf = s.krf := pmcAll_krf s _
@[simp] theorem pmcCount_rdp : (pmcCount s sel inst n).rdp = s.rdp := pmcAll_rdp s _
@[simp] theorem pmcCount_med : (pmcCount s sel inst n).med = s.med := pmcAll_med s _
@[simp] theorem pmcCount_regions : (pmcCount s sel inst n).regions = s.regions := pmcAll_regions s _
@[simp] theorem pmcCount_sealing : (pmcCount s sel inst n).sealing = s.sealing := pmcAll_sealing s _
@[simp] theorem pmcCount_lke : (pmcCount s sel inst n).lke = s.lke := pmcAll_lke s _
@[simp] theorem pmcCount_dbq : (pmcCount s sel inst n).dbq = s.dbq := pmcAll_dbq s _
@[simp] theorem pmcCount_cnt : (pmcCount s sel inst n).cnt = s.cnt := pmcAll_cnt s _
@[simp] theorem pmcCount_mir : (pmcCount s sel inst n).mir = s.mir := pmcAll_mir s _
@[simp] theorem pmcCount_mbx : (pmcCount s sel inst n).mbx = s.mbx := pmcAll_mbx s _
@[simp] theorem pmcCount_fw : (pmcCount s sel inst n).fw = s.fw := pmcAll_fw s _
@[simp] theorem pmcCount_pst : (pmcCount s sel inst n).pst = s.pst := pmcAll_pst s _
@[simp] theorem pmcCount_dumps : (pmcCount s sel inst n).dumps = s.dumps := pmcAll_dumps s _
@[simp] theorem pmcCount_jtag : (pmcCount s sel inst n).jtag = s.jtag := pmcAll_jtag s _
@[simp] theorem pmcCount_out : (pmcCount s sel inst n).out = s.out := pmcAll_out s _
end

/-! ### modSeq -/

section
variable (f : Seq → Seq)
@[simp] theorem modSeq_pending : (modSeq s f).pending = s.pending := rfl
@[simp] theorem modSeq_fresh : (modSeq s f).fresh = s.fresh := rfl
@[simp] theorem modSeq_regs : (modSeq s f).regs = s.regs := rfl
@[simp] theorem modSeq_hw : (modSeq s f).hw = s.hw := rfl
@[simp] theorem modSeq_latches : (modSeq s f).latches = s.latches := rfl
@[simp] theorem modSeq_busRead : (modSeq s f).busRead = s.busRead := rfl
@[simp] theorem modSeq_time : (modSeq s f).time = s.time := rfl
@[simp] theorem modSeq_glb : (modSeq s f).glb = s.glb := rfl
@[simp] theorem modSeq_clk : (modSeq s f).clk = s.clk := rfl
@[simp] theorem modSeq_thm : (modSeq s f).thm = s.thm := rfl
@[simp] theorem modSeq_pwr : (modSeq s f).pwr = s.pwr := rfl
@[simp] theorem modSeq_pcie : (modSeq s f).pcie = s.pcie := rfl
@[simp] theorem modSeq_ports : (modSeq s f).ports = s.ports := rfl
@[simp] theorem modSeq_cmds : (modSeq s f).cmds = s.cmds := rfl
@[simp] theorem modSeq_nextCmd : (modSeq s f).nextCmd = s.nextCmd := rfl
@[simp] theorem modSeq_krf : (modSeq s f).krf = s.krf := rfl
@[simp] theorem modSeq_rdp : (modSeq s f).rdp = s.rdp := rfl
@[simp] theorem modSeq_med : (modSeq s f).med = s.med := rfl
@[simp] theorem modSeq_regions : (modSeq s f).regions = s.regions := rfl
@[simp] theorem modSeq_sealing : (modSeq s f).sealing = s.sealing := rfl
@[simp] theorem modSeq_lke : (modSeq s f).lke = s.lke := rfl
@[simp] theorem modSeq_dbq : (modSeq s f).dbq = s.dbq := rfl
@[simp] theorem modSeq_cnt : (modSeq s f).cnt = s.cnt := rfl
@[simp] theorem modSeq_mir : (modSeq s f).mir = s.mir := rfl
@[simp] theorem modSeq_mbx : (modSeq s f).mbx = s.mbx := rfl
@[simp] theorem modSeq_fw : (modSeq s f).fw = s.fw := rfl
@[simp] theorem modSeq_pst : (modSeq s f).pst = s.pst := rfl
@[simp] theorem modSeq_evr : (modSeq s f).evr = s.evr := rfl
@[simp] theorem modSeq_dumps : (modSeq s f).dumps = s.dumps := rfl
@[simp] theorem modSeq_pmc : (modSeq s f).pmc = s.pmc := rfl
@[simp] theorem modSeq_jtag : (modSeq s f).jtag = s.jtag := rfl
@[simp] theorem modSeq_out : (modSeq s f).out = s.out := rfl
@[simp] theorem modSeq_seq : (modSeq s f).seq = f s.seq := rfl
end

/-! ### modClk -/

section
variable (f : Clk → Clk)
@[simp] theorem modClk_pending : (modClk s f).pending = s.pending := rfl
@[simp] theorem modClk_fresh : (modClk s f).fresh = s.fresh := rfl
@[simp] theorem modClk_regs : (modClk s f).regs = s.regs := rfl
@[simp] theorem modClk_hw : (modClk s f).hw = s.hw := rfl
@[simp] theorem modClk_latches : (modClk s f).latches = s.latches := rfl
@[simp] theorem modClk_busRead : (modClk s f).busRead = s.busRead := rfl
@[simp] theorem modClk_time : (modClk s f).time = s.time := rfl
@[simp] theorem modClk_glb : (modClk s f).glb = s.glb := rfl
@[simp] theorem modClk_seq : (modClk s f).seq = s.seq := rfl
@[simp] theorem modClk_thm : (modClk s f).thm = s.thm := rfl
@[simp] theorem modClk_pwr : (modClk s f).pwr = s.pwr := rfl
@[simp] theorem modClk_pcie : (modClk s f).pcie = s.pcie := rfl
@[simp] theorem modClk_ports : (modClk s f).ports = s.ports := rfl
@[simp] theorem modClk_cmds : (modClk s f).cmds = s.cmds := rfl
@[simp] theorem modClk_nextCmd : (modClk s f).nextCmd = s.nextCmd := rfl
@[simp] theorem modClk_krf : (modClk s f).krf = s.krf := rfl
@[simp] theorem modClk_rdp : (modClk s f).rdp = s.rdp := rfl
@[simp] theorem modClk_med : (modClk s f).med = s.med := rfl
@[simp] theorem modClk_regions : (modClk s f).regions = s.regions := rfl
@[simp] theorem modClk_sealing : (modClk s f).sealing = s.sealing := rfl
@[simp] theorem modClk_lke : (modClk s f).lke = s.lke := rfl
@[simp] theorem modClk_dbq : (modClk s f).dbq = s.dbq := rfl
@[simp] theorem modClk_cnt : (modClk s f).cnt = s.cnt := rfl
@[simp] theorem modClk_mir : (modClk s f).mir = s.mir := rfl
@[simp] theorem modClk_mbx : (modClk s f).mbx = s.mbx := rfl
@[simp] theorem modClk_fw : (modClk s f).fw = s.fw := rfl
@[simp] theorem modClk_pst : (modClk s f).pst = s.pst := rfl
@[simp] theorem modClk_evr : (modClk s f).evr = s.evr := rfl
@[simp] theorem modClk_dumps : (modClk s f).dumps = s.dumps := rfl
@[simp] theorem modClk_pmc : (modClk s f).pmc = s.pmc := rfl
@[simp] theorem modClk_jtag : (modClk s f).jtag = s.jtag := rfl
@[simp] theorem modClk_out : (modClk s f).out = s.out := rfl
@[simp] theorem modClk_clk : (modClk s f).clk = f s.clk := rfl
end

/-! ### modThm -/

section
variable (f : Thm → Thm)
@[simp] theorem modThm_pending : (modThm s f).pending = s.pending := rfl
@[simp] theorem modThm_fresh : (modThm s f).fresh = s.fresh := rfl
@[simp] theorem modThm_regs : (modThm s f).regs = s.regs := rfl
@[simp] theorem modThm_hw : (modThm s f).hw = s.hw := rfl
@[simp] theorem modThm_latches : (modThm s f).latches = s.latches := rfl
@[simp] theorem modThm_busRead : (modThm s f).busRead = s.busRead := rfl
@[simp] theorem modThm_time : (modThm s f).time = s.time := rfl
@[simp] theorem modThm_glb : (modThm s f).glb = s.glb := rfl
@[simp] theorem modThm_seq : (modThm s f).seq = s.seq := rfl
@[simp] theorem modThm_clk : (modThm s f).clk = s.clk := rfl
@[simp] theorem modThm_pwr : (modThm s f).pwr = s.pwr := rfl
@[simp] theorem modThm_pcie : (modThm s f).pcie = s.pcie := rfl
@[simp] theorem modThm_ports : (modThm s f).ports = s.ports := rfl
@[simp] theorem modThm_cmds : (modThm s f).cmds = s.cmds := rfl
@[simp] theorem modThm_nextCmd : (modThm s f).nextCmd = s.nextCmd := rfl
@[simp] theorem modThm_krf : (modThm s f).krf = s.krf := rfl
@[simp] theorem modThm_rdp : (modThm s f).rdp = s.rdp := rfl
@[simp] theorem modThm_med : (modThm s f).med = s.med := rfl
@[simp] theorem modThm_regions : (modThm s f).regions = s.regions := rfl
@[simp] theorem modThm_sealing : (modThm s f).sealing = s.sealing := rfl
@[simp] theorem modThm_lke : (modThm s f).lke = s.lke := rfl
@[simp] theorem modThm_dbq : (modThm s f).dbq = s.dbq := rfl
@[simp] theorem modThm_cnt : (modThm s f).cnt = s.cnt := rfl
@[simp] theorem modThm_mir : (modThm s f).mir = s.mir := rfl
@[simp] theorem modThm_mbx : (modThm s f).mbx = s.mbx := rfl
@[simp] theorem modThm_fw : (modThm s f).fw = s.fw := rfl
@[simp] theorem modThm_pst : (modThm s f).pst = s.pst := rfl
@[simp] theorem modThm_evr : (modThm s f).evr = s.evr := rfl
@[simp] theorem modThm_dumps : (modThm s f).dumps = s.dumps := rfl
@[simp] theorem modThm_pmc : (modThm s f).pmc = s.pmc := rfl
@[simp] theorem modThm_jtag : (modThm s f).jtag = s.jtag := rfl
@[simp] theorem modThm_out : (modThm s f).out = s.out := rfl
@[simp] theorem modThm_thm : (modThm s f).thm = f s.thm := rfl
end

/-! ### modPwr -/

section
variable (f : Pwr → Pwr)
@[simp] theorem modPwr_pending : (modPwr s f).pending = s.pending := rfl
@[simp] theorem modPwr_fresh : (modPwr s f).fresh = s.fresh := rfl
@[simp] theorem modPwr_regs : (modPwr s f).regs = s.regs := rfl
@[simp] theorem modPwr_hw : (modPwr s f).hw = s.hw := rfl
@[simp] theorem modPwr_latches : (modPwr s f).latches = s.latches := rfl
@[simp] theorem modPwr_busRead : (modPwr s f).busRead = s.busRead := rfl
@[simp] theorem modPwr_time : (modPwr s f).time = s.time := rfl
@[simp] theorem modPwr_glb : (modPwr s f).glb = s.glb := rfl
@[simp] theorem modPwr_seq : (modPwr s f).seq = s.seq := rfl
@[simp] theorem modPwr_clk : (modPwr s f).clk = s.clk := rfl
@[simp] theorem modPwr_thm : (modPwr s f).thm = s.thm := rfl
@[simp] theorem modPwr_pcie : (modPwr s f).pcie = s.pcie := rfl
@[simp] theorem modPwr_ports : (modPwr s f).ports = s.ports := rfl
@[simp] theorem modPwr_cmds : (modPwr s f).cmds = s.cmds := rfl
@[simp] theorem modPwr_nextCmd : (modPwr s f).nextCmd = s.nextCmd := rfl
@[simp] theorem modPwr_krf : (modPwr s f).krf = s.krf := rfl
@[simp] theorem modPwr_rdp : (modPwr s f).rdp = s.rdp := rfl
@[simp] theorem modPwr_med : (modPwr s f).med = s.med := rfl
@[simp] theorem modPwr_regions : (modPwr s f).regions = s.regions := rfl
@[simp] theorem modPwr_sealing : (modPwr s f).sealing = s.sealing := rfl
@[simp] theorem modPwr_lke : (modPwr s f).lke = s.lke := rfl
@[simp] theorem modPwr_dbq : (modPwr s f).dbq = s.dbq := rfl
@[simp] theorem modPwr_cnt : (modPwr s f).cnt = s.cnt := rfl
@[simp] theorem modPwr_mir : (modPwr s f).mir = s.mir := rfl
@[simp] theorem modPwr_mbx : (modPwr s f).mbx = s.mbx := rfl
@[simp] theorem modPwr_fw : (modPwr s f).fw = s.fw := rfl
@[simp] theorem modPwr_pst : (modPwr s f).pst = s.pst := rfl
@[simp] theorem modPwr_evr : (modPwr s f).evr = s.evr := rfl
@[simp] theorem modPwr_dumps : (modPwr s f).dumps = s.dumps := rfl
@[simp] theorem modPwr_pmc : (modPwr s f).pmc = s.pmc := rfl
@[simp] theorem modPwr_jtag : (modPwr s f).jtag = s.jtag := rfl
@[simp] theorem modPwr_out : (modPwr s f).out = s.out := rfl
@[simp] theorem modPwr_pwr : (modPwr s f).pwr = f s.pwr := rfl
end

/-! ### modPort -/

section
variable (p : HPort) (f : Port → Port)
@[simp] theorem modPort_pending : (modPort s p f).pending = s.pending := rfl
@[simp] theorem modPort_fresh : (modPort s p f).fresh = s.fresh := rfl
@[simp] theorem modPort_regs : (modPort s p f).regs = s.regs := rfl
@[simp] theorem modPort_hw : (modPort s p f).hw = s.hw := rfl
@[simp] theorem modPort_latches : (modPort s p f).latches = s.latches := rfl
@[simp] theorem modPort_busRead : (modPort s p f).busRead = s.busRead := rfl
@[simp] theorem modPort_time : (modPort s p f).time = s.time := rfl
@[simp] theorem modPort_glb : (modPort s p f).glb = s.glb := rfl
@[simp] theorem modPort_seq : (modPort s p f).seq = s.seq := rfl
@[simp] theorem modPort_clk : (modPort s p f).clk = s.clk := rfl
@[simp] theorem modPort_thm : (modPort s p f).thm = s.thm := rfl
@[simp] theorem modPort_pwr : (modPort s p f).pwr = s.pwr := rfl
@[simp] theorem modPort_pcie : (modPort s p f).pcie = s.pcie := rfl
@[simp] theorem modPort_cmds : (modPort s p f).cmds = s.cmds := rfl
@[simp] theorem modPort_nextCmd : (modPort s p f).nextCmd = s.nextCmd := rfl
@[simp] theorem modPort_krf : (modPort s p f).krf = s.krf := rfl
@[simp] theorem modPort_rdp : (modPort s p f).rdp = s.rdp := rfl
@[simp] theorem modPort_med : (modPort s p f).med = s.med := rfl
@[simp] theorem modPort_regions : (modPort s p f).regions = s.regions := rfl
@[simp] theorem modPort_sealing : (modPort s p f).sealing = s.sealing := rfl
@[simp] theorem modPort_lke : (modPort s p f).lke = s.lke := rfl
@[simp] theorem modPort_dbq : (modPort s p f).dbq = s.dbq := rfl
@[simp] theorem modPort_cnt : (modPort s p f).cnt = s.cnt := rfl
@[simp] theorem modPort_mir : (modPort s p f).mir = s.mir := rfl
@[simp] theorem modPort_mbx : (modPort s p f).mbx = s.mbx := rfl
@[simp] theorem modPort_fw : (modPort s p f).fw = s.fw := rfl
@[simp] theorem modPort_pst : (modPort s p f).pst = s.pst := rfl
@[simp] theorem modPort_evr : (modPort s p f).evr = s.evr := rfl
@[simp] theorem modPort_dumps : (modPort s p f).dumps = s.dumps := rfl
@[simp] theorem modPort_pmc : (modPort s p f).pmc = s.pmc := rfl
@[simp] theorem modPort_jtag : (modPort s p f).jtag = s.jtag := rfl
@[simp] theorem modPort_out : (modPort s p f).out = s.out := rfl
@[simp] theorem modPort_ports : (modPort s p f).ports = vmod s.ports p f := rfl
end

/-! ### putCmd -/

section
variable (x : HostCmd)
@[simp] theorem putCmd_pending : (putCmd s x).pending = s.pending := rfl
@[simp] theorem putCmd_fresh : (putCmd s x).fresh = s.fresh := rfl
@[simp] theorem putCmd_regs : (putCmd s x).regs = s.regs := rfl
@[simp] theorem putCmd_hw : (putCmd s x).hw = s.hw := rfl
@[simp] theorem putCmd_latches : (putCmd s x).latches = s.latches := rfl
@[simp] theorem putCmd_busRead : (putCmd s x).busRead = s.busRead := rfl
@[simp] theorem putCmd_time : (putCmd s x).time = s.time := rfl
@[simp] theorem putCmd_glb : (putCmd s x).glb = s.glb := rfl
@[simp] theorem putCmd_seq : (putCmd s x).seq = s.seq := rfl
@[simp] theorem putCmd_clk : (putCmd s x).clk = s.clk := rfl
@[simp] theorem putCmd_thm : (putCmd s x).thm = s.thm := rfl
@[simp] theorem putCmd_pwr : (putCmd s x).pwr = s.pwr := rfl
@[simp] theorem putCmd_pcie : (putCmd s x).pcie = s.pcie := rfl
@[simp] theorem putCmd_ports : (putCmd s x).ports = s.ports := rfl
@[simp] theorem putCmd_krf : (putCmd s x).krf = s.krf := rfl
@[simp] theorem putCmd_rdp : (putCmd s x).rdp = s.rdp := rfl
@[simp] theorem putCmd_med : (putCmd s x).med = s.med := rfl
@[simp] theorem putCmd_regions : (putCmd s x).regions = s.regions := rfl
@[simp] theorem putCmd_sealing : (putCmd s x).sealing = s.sealing := rfl
@[simp] theorem putCmd_lke : (putCmd s x).lke = s.lke := rfl
@[simp] theorem putCmd_dbq : (putCmd s x).dbq = s.dbq := rfl
@[simp] theorem putCmd_cnt : (putCmd s x).cnt = s.cnt := rfl
@[simp] theorem putCmd_mir : (putCmd s x).mir = s.mir := rfl
@[simp] theorem putCmd_mbx : (putCmd s x).mbx = s.mbx := rfl
@[simp] theorem putCmd_fw : (putCmd s x).fw = s.fw := rfl
@[simp] theorem putCmd_pst : (putCmd s x).pst = s.pst := rfl
@[simp] theorem putCmd_evr : (putCmd s x).evr = s.evr := rfl
@[simp] theorem putCmd_dumps : (putCmd s x).dumps = s.dumps := rfl
@[simp] theorem putCmd_pmc : (putCmd s x).pmc = s.pmc := rfl
@[simp] theorem putCmd_jtag : (putCmd s x).jtag = s.jtag := rfl
@[simp] theorem putCmd_out : (putCmd s x).out = s.out := rfl
end

/-! ### delCmd -/

section
variable (id : Nat)
@[simp] theorem delCmd_pending : (delCmd s id).pending = s.pending := rfl
@[simp] theorem delCmd_fresh : (delCmd s id).fresh = s.fresh := rfl
@[simp] theorem delCmd_regs : (delCmd s id).regs = s.regs := rfl
@[simp] theorem delCmd_hw : (delCmd s id).hw = s.hw := rfl
@[simp] theorem delCmd_latches : (delCmd s id).latches = s.latches := rfl
@[simp] theorem delCmd_busRead : (delCmd s id).busRead = s.busRead := rfl
@[simp] theorem delCmd_time : (delCmd s id).time = s.time := rfl
@[simp] theorem delCmd_glb : (delCmd s id).glb = s.glb := rfl
@[simp] theorem delCmd_seq : (delCmd s id).seq = s.seq := rfl
@[simp] theorem delCmd_clk : (delCmd s id).clk = s.clk := rfl
@[simp] theorem delCmd_thm : (delCmd s id).thm = s.thm := rfl
@[simp] theorem delCmd_pwr : (delCmd s id).pwr = s.pwr := rfl
@[simp] theorem delCmd_pcie : (delCmd s id).pcie = s.pcie := rfl
@[simp] theorem delCmd_ports : (delCmd s id).ports = s.ports := rfl
@[simp] theorem delCmd_nextCmd : (delCmd s id).nextCmd = s.nextCmd := rfl
@[simp] theorem delCmd_krf : (delCmd s id).krf = s.krf := rfl
@[simp] theorem delCmd_rdp : (delCmd s id).rdp = s.rdp := rfl
@[simp] theorem delCmd_med : (delCmd s id).med = s.med := rfl
@[simp] theorem delCmd_regions : (delCmd s id).regions = s.regions := rfl
@[simp] theorem delCmd_sealing : (delCmd s id).sealing = s.sealing := rfl
@[simp] theorem delCmd_lke : (delCmd s id).lke = s.lke := rfl
@[simp] theorem delCmd_dbq : (delCmd s id).dbq = s.dbq := rfl
@[simp] theorem delCmd_cnt : (delCmd s id).cnt = s.cnt := rfl
@[simp] theorem delCmd_mir : (delCmd s id).mir = s.mir := rfl
@[simp] theorem delCmd_mbx : (delCmd s id).mbx = s.mbx := rfl
@[simp] theorem delCmd_fw : (delCmd s id).fw = s.fw := rfl
@[simp] theorem delCmd_pst : (delCmd s id).pst = s.pst := rfl
@[simp] theorem delCmd_evr : (delCmd s id).evr = s.evr := rfl
@[simp] theorem delCmd_dumps : (delCmd s id).dumps = s.dumps := rfl
@[simp] theorem delCmd_pmc : (delCmd s id).pmc = s.pmc := rfl
@[simp] theorem delCmd_jtag : (delCmd s id).jtag = s.jtag := rfl
@[simp] theorem delCmd_out : (delCmd s id).out = s.out := rfl
@[simp] theorem delCmd_cmds : (delCmd s id).cmds = s.cmds.filter fun x => x.id != id := rfl
end

/-! ### modCmd -/

section
variable (id : Nat) (f : HostCmd → HostCmd)
@[simp] theorem modCmd_pending : (modCmd s id f).pending = s.pending := rfl
@[simp] theorem modCmd_fresh : (modCmd s id f).fresh = s.fresh := rfl
@[simp] theorem modCmd_regs : (modCmd s id f).regs = s.regs := rfl
@[simp] theorem modCmd_hw : (modCmd s id f).hw = s.hw := rfl
@[simp] theorem modCmd_latches : (modCmd s id f).latches = s.latches := rfl
@[simp] theorem modCmd_busRead : (modCmd s id f).busRead = s.busRead := rfl
@[simp] theorem modCmd_time : (modCmd s id f).time = s.time := rfl
@[simp] theorem modCmd_glb : (modCmd s id f).glb = s.glb := rfl
@[simp] theorem modCmd_seq : (modCmd s id f).seq = s.seq := rfl
@[simp] theorem modCmd_clk : (modCmd s id f).clk = s.clk := rfl
@[simp] theorem modCmd_thm : (modCmd s id f).thm = s.thm := rfl
@[simp] theorem modCmd_pwr : (modCmd s id f).pwr = s.pwr := rfl
@[simp] theorem modCmd_pcie : (modCmd s id f).pcie = s.pcie := rfl
@[simp] theorem modCmd_ports : (modCmd s id f).ports = s.ports := rfl
@[simp] theorem modCmd_nextCmd : (modCmd s id f).nextCmd = s.nextCmd := rfl
@[simp] theorem modCmd_krf : (modCmd s id f).krf = s.krf := rfl
@[simp] theorem modCmd_rdp : (modCmd s id f).rdp = s.rdp := rfl
@[simp] theorem modCmd_med : (modCmd s id f).med = s.med := rfl
@[simp] theorem modCmd_regions : (modCmd s id f).regions = s.regions := rfl
@[simp] theorem modCmd_sealing : (modCmd s id f).sealing = s.sealing := rfl
@[simp] theorem modCmd_lke : (modCmd s id f).lke = s.lke := rfl
@[simp] theorem modCmd_dbq : (modCmd s id f).dbq = s.dbq := rfl
@[simp] theorem modCmd_cnt : (modCmd s id f).cnt = s.cnt := rfl
@[simp] theorem modCmd_mir : (modCmd s id f).mir = s.mir := rfl
@[simp] theorem modCmd_mbx : (modCmd s id f).mbx = s.mbx := rfl
@[simp] theorem modCmd_fw : (modCmd s id f).fw = s.fw := rfl
@[simp] theorem modCmd_pst : (modCmd s id f).pst = s.pst := rfl
@[simp] theorem modCmd_evr : (modCmd s id f).evr = s.evr := rfl
@[simp] theorem modCmd_dumps : (modCmd s id f).dumps = s.dumps := rfl
@[simp] theorem modCmd_pmc : (modCmd s id f).pmc = s.pmc := rfl
@[simp] theorem modCmd_jtag : (modCmd s id f).jtag = s.jtag := rfl
@[simp] theorem modCmd_out : (modCmd s id f).out = s.out := rfl
end

/-! ### putSlot -/

section
variable (lsa : Nat) (x : Slot)
@[simp] theorem putSlot_pending : (putSlot s lsa x).pending = s.pending := rfl
@[simp] theorem putSlot_fresh : (putSlot s lsa x).fresh = s.fresh := rfl
@[simp] theorem putSlot_regs : (putSlot s lsa x).regs = s.regs := rfl
@[simp] theorem putSlot_hw : (putSlot s lsa x).hw = s.hw := rfl
@[simp] theorem putSlot_latches : (putSlot s lsa x).latches = s.latches := rfl
@[simp] theorem putSlot_busRead : (putSlot s lsa x).busRead = s.busRead := rfl
@[simp] theorem putSlot_time : (putSlot s lsa x).time = s.time := rfl
@[simp] theorem putSlot_glb : (putSlot s lsa x).glb = s.glb := rfl
@[simp] theorem putSlot_seq : (putSlot s lsa x).seq = s.seq := rfl
@[simp] theorem putSlot_clk : (putSlot s lsa x).clk = s.clk := rfl
@[simp] theorem putSlot_thm : (putSlot s lsa x).thm = s.thm := rfl
@[simp] theorem putSlot_pwr : (putSlot s lsa x).pwr = s.pwr := rfl
@[simp] theorem putSlot_pcie : (putSlot s lsa x).pcie = s.pcie := rfl
@[simp] theorem putSlot_ports : (putSlot s lsa x).ports = s.ports := rfl
@[simp] theorem putSlot_cmds : (putSlot s lsa x).cmds = s.cmds := rfl
@[simp] theorem putSlot_nextCmd : (putSlot s lsa x).nextCmd = s.nextCmd := rfl
@[simp] theorem putSlot_rdp : (putSlot s lsa x).rdp = s.rdp := rfl
@[simp] theorem putSlot_med : (putSlot s lsa x).med = s.med := rfl
@[simp] theorem putSlot_regions : (putSlot s lsa x).regions = s.regions := rfl
@[simp] theorem putSlot_sealing : (putSlot s lsa x).sealing = s.sealing := rfl
@[simp] theorem putSlot_lke : (putSlot s lsa x).lke = s.lke := rfl
@[simp] theorem putSlot_dbq : (putSlot s lsa x).dbq = s.dbq := rfl
@[simp] theorem putSlot_cnt : (putSlot s lsa x).cnt = s.cnt := rfl
@[simp] theorem putSlot_mir : (putSlot s lsa x).mir = s.mir := rfl
@[simp] theorem putSlot_mbx : (putSlot s lsa x).mbx = s.mbx := rfl
@[simp] theorem putSlot_fw : (putSlot s lsa x).fw = s.fw := rfl
@[simp] theorem putSlot_pst : (putSlot s lsa x).pst = s.pst := rfl
@[simp] theorem putSlot_evr : (putSlot s lsa x).evr = s.evr := rfl
@[simp] theorem putSlot_dumps : (putSlot s lsa x).dumps = s.dumps := rfl
@[simp] theorem putSlot_pmc : (putSlot s lsa x).pmc = s.pmc := rfl
@[simp] theorem putSlot_jtag : (putSlot s lsa x).jtag = s.jtag := rfl
@[simp] theorem putSlot_out : (putSlot s lsa x).out = s.out := rfl
end

/-! ### freeSlot -/

section
variable (lsa : Nat)
@[simp] theorem freeSlot_pending : (freeSlot s lsa).pending = s.pending := rfl
@[simp] theorem freeSlot_fresh : (freeSlot s lsa).fresh = s.fresh := rfl
@[simp] theorem freeSlot_regs : (freeSlot s lsa).regs = s.regs := rfl
@[simp] theorem freeSlot_hw : (freeSlot s lsa).hw = s.hw := rfl
@[simp] theorem freeSlot_latches : (freeSlot s lsa).latches = s.latches := rfl
@[simp] theorem freeSlot_busRead : (freeSlot s lsa).busRead = s.busRead := rfl
@[simp] theorem freeSlot_time : (freeSlot s lsa).time = s.time := rfl
@[simp] theorem freeSlot_glb : (freeSlot s lsa).glb = s.glb := rfl
@[simp] theorem freeSlot_seq : (freeSlot s lsa).seq = s.seq := rfl
@[simp] theorem freeSlot_clk : (freeSlot s lsa).clk = s.clk := rfl
@[simp] theorem freeSlot_thm : (freeSlot s lsa).thm = s.thm := rfl
@[simp] theorem freeSlot_pwr : (freeSlot s lsa).pwr = s.pwr := rfl
@[simp] theorem freeSlot_pcie : (freeSlot s lsa).pcie = s.pcie := rfl
@[simp] theorem freeSlot_ports : (freeSlot s lsa).ports = s.ports := rfl
@[simp] theorem freeSlot_cmds : (freeSlot s lsa).cmds = s.cmds := rfl
@[simp] theorem freeSlot_nextCmd : (freeSlot s lsa).nextCmd = s.nextCmd := rfl
@[simp] theorem freeSlot_rdp : (freeSlot s lsa).rdp = s.rdp := rfl
@[simp] theorem freeSlot_med : (freeSlot s lsa).med = s.med := rfl
@[simp] theorem freeSlot_regions : (freeSlot s lsa).regions = s.regions := rfl
@[simp] theorem freeSlot_sealing : (freeSlot s lsa).sealing = s.sealing := rfl
@[simp] theorem freeSlot_lke : (freeSlot s lsa).lke = s.lke := rfl
@[simp] theorem freeSlot_dbq : (freeSlot s lsa).dbq = s.dbq := rfl
@[simp] theorem freeSlot_cnt : (freeSlot s lsa).cnt = s.cnt := rfl
@[simp] theorem freeSlot_mir : (freeSlot s lsa).mir = s.mir := rfl
@[simp] theorem freeSlot_mbx : (freeSlot s lsa).mbx = s.mbx := rfl
@[simp] theorem freeSlot_fw : (freeSlot s lsa).fw = s.fw := rfl
@[simp] theorem freeSlot_pst : (freeSlot s lsa).pst = s.pst := rfl
@[simp] theorem freeSlot_evr : (freeSlot s lsa).evr = s.evr := rfl
@[simp] theorem freeSlot_dumps : (freeSlot s lsa).dumps = s.dumps := rfl
@[simp] theorem freeSlot_pmc : (freeSlot s lsa).pmc = s.pmc := rfl
@[simp] theorem freeSlot_jtag : (freeSlot s lsa).jtag = s.jtag := rfl
@[simp] theorem freeSlot_out : (freeSlot s lsa).out = s.out := rfl
end

/-! ### modRdp -/

section
variable (f : Rdp → Rdp)
@[simp] theorem modRdp_pending : (modRdp s f).pending = s.pending := rfl
@[simp] theorem modRdp_fresh : (modRdp s f).fresh = s.fresh := rfl
@[simp] theorem modRdp_regs : (modRdp s f).regs = s.regs := rfl
@[simp] theorem modRdp_hw : (modRdp s f).hw = s.hw := rfl
@[simp] theorem modRdp_latches : (modRdp s f).latches = s.latches := rfl
@[simp] theorem modRdp_busRead : (modRdp s f).busRead = s.busRead := rfl
@[simp] theorem modRdp_time : (modRdp s f).time = s.time := rfl
@[simp] theorem modRdp_glb : (modRdp s f).glb = s.glb := rfl
@[simp] theorem modRdp_seq : (modRdp s f).seq = s.seq := rfl
@[simp] theorem modRdp_clk : (modRdp s f).clk = s.clk := rfl
@[simp] theorem modRdp_thm : (modRdp s f).thm = s.thm := rfl
@[simp] theorem modRdp_pwr : (modRdp s f).pwr = s.pwr := rfl
@[simp] theorem modRdp_pcie : (modRdp s f).pcie = s.pcie := rfl
@[simp] theorem modRdp_ports : (modRdp s f).ports = s.ports := rfl
@[simp] theorem modRdp_cmds : (modRdp s f).cmds = s.cmds := rfl
@[simp] theorem modRdp_nextCmd : (modRdp s f).nextCmd = s.nextCmd := rfl
@[simp] theorem modRdp_krf : (modRdp s f).krf = s.krf := rfl
@[simp] theorem modRdp_med : (modRdp s f).med = s.med := rfl
@[simp] theorem modRdp_regions : (modRdp s f).regions = s.regions := rfl
@[simp] theorem modRdp_sealing : (modRdp s f).sealing = s.sealing := rfl
@[simp] theorem modRdp_lke : (modRdp s f).lke = s.lke := rfl
@[simp] theorem modRdp_dbq : (modRdp s f).dbq = s.dbq := rfl
@[simp] theorem modRdp_cnt : (modRdp s f).cnt = s.cnt := rfl
@[simp] theorem modRdp_mir : (modRdp s f).mir = s.mir := rfl
@[simp] theorem modRdp_mbx : (modRdp s f).mbx = s.mbx := rfl
@[simp] theorem modRdp_fw : (modRdp s f).fw = s.fw := rfl
@[simp] theorem modRdp_pst : (modRdp s f).pst = s.pst := rfl
@[simp] theorem modRdp_evr : (modRdp s f).evr = s.evr := rfl
@[simp] theorem modRdp_dumps : (modRdp s f).dumps = s.dumps := rfl
@[simp] theorem modRdp_pmc : (modRdp s f).pmc = s.pmc := rfl
@[simp] theorem modRdp_jtag : (modRdp s f).jtag = s.jtag := rfl
@[simp] theorem modRdp_out : (modRdp s f).out = s.out := rfl
@[simp] theorem modRdp_rdp : (modRdp s f).rdp = f s.rdp := rfl
end

/-! ### modMed -/

section
variable (f : Medium → Medium)
@[simp] theorem modMed_pending : (modMed s f).pending = s.pending := rfl
@[simp] theorem modMed_fresh : (modMed s f).fresh = s.fresh := rfl
@[simp] theorem modMed_regs : (modMed s f).regs = s.regs := rfl
@[simp] theorem modMed_hw : (modMed s f).hw = s.hw := rfl
@[simp] theorem modMed_latches : (modMed s f).latches = s.latches := rfl
@[simp] theorem modMed_busRead : (modMed s f).busRead = s.busRead := rfl
@[simp] theorem modMed_time : (modMed s f).time = s.time := rfl
@[simp] theorem modMed_glb : (modMed s f).glb = s.glb := rfl
@[simp] theorem modMed_seq : (modMed s f).seq = s.seq := rfl
@[simp] theorem modMed_clk : (modMed s f).clk = s.clk := rfl
@[simp] theorem modMed_thm : (modMed s f).thm = s.thm := rfl
@[simp] theorem modMed_pwr : (modMed s f).pwr = s.pwr := rfl
@[simp] theorem modMed_pcie : (modMed s f).pcie = s.pcie := rfl
@[simp] theorem modMed_ports : (modMed s f).ports = s.ports := rfl
@[simp] theorem modMed_cmds : (modMed s f).cmds = s.cmds := rfl
@[simp] theorem modMed_nextCmd : (modMed s f).nextCmd = s.nextCmd := rfl
@[simp] theorem modMed_krf : (modMed s f).krf = s.krf := rfl
@[simp] theorem modMed_rdp : (modMed s f).rdp = s.rdp := rfl
@[simp] theorem modMed_regions : (modMed s f).regions = s.regions := rfl
@[simp] theorem modMed_sealing : (modMed s f).sealing = s.sealing := rfl
@[simp] theorem modMed_lke : (modMed s f).lke = s.lke := rfl
@[simp] theorem modMed_dbq : (modMed s f).dbq = s.dbq := rfl
@[simp] theorem modMed_cnt : (modMed s f).cnt = s.cnt := rfl
@[simp] theorem modMed_mir : (modMed s f).mir = s.mir := rfl
@[simp] theorem modMed_mbx : (modMed s f).mbx = s.mbx := rfl
@[simp] theorem modMed_fw : (modMed s f).fw = s.fw := rfl
@[simp] theorem modMed_pst : (modMed s f).pst = s.pst := rfl
@[simp] theorem modMed_evr : (modMed s f).evr = s.evr := rfl
@[simp] theorem modMed_dumps : (modMed s f).dumps = s.dumps := rfl
@[simp] theorem modMed_pmc : (modMed s f).pmc = s.pmc := rfl
@[simp] theorem modMed_jtag : (modMed s f).jtag = s.jtag := rfl
@[simp] theorem modMed_out : (modMed s f).out = s.out := rfl
@[simp] theorem modMed_med : (modMed s f).med = f s.med := rfl
end

/-! ### modChan -/

section
variable (k : Nat) (f : Channel → Channel)
@[simp] theorem modChan_pending : (modChan s k f).pending = s.pending := rfl
@[simp] theorem modChan_fresh : (modChan s k f).fresh = s.fresh := rfl
@[simp] theorem modChan_regs : (modChan s k f).regs = s.regs := rfl
@[simp] theorem modChan_hw : (modChan s k f).hw = s.hw := rfl
@[simp] theorem modChan_latches : (modChan s k f).latches = s.latches := rfl
@[simp] theorem modChan_busRead : (modChan s k f).busRead = s.busRead := rfl
@[simp] theorem modChan_time : (modChan s k f).time = s.time := rfl
@[simp] theorem modChan_glb : (modChan s k f).glb = s.glb := rfl
@[simp] theorem modChan_seq : (modChan s k f).seq = s.seq := rfl
@[simp] theorem modChan_clk : (modChan s k f).clk = s.clk := rfl
@[simp] theorem modChan_thm : (modChan s k f).thm = s.thm := rfl
@[simp] theorem modChan_pwr : (modChan s k f).pwr = s.pwr := rfl
@[simp] theorem modChan_pcie : (modChan s k f).pcie = s.pcie := rfl
@[simp] theorem modChan_ports : (modChan s k f).ports = s.ports := rfl
@[simp] theorem modChan_cmds : (modChan s k f).cmds = s.cmds := rfl
@[simp] theorem modChan_nextCmd : (modChan s k f).nextCmd = s.nextCmd := rfl
@[simp] theorem modChan_krf : (modChan s k f).krf = s.krf := rfl
@[simp] theorem modChan_rdp : (modChan s k f).rdp = s.rdp := rfl
@[simp] theorem modChan_regions : (modChan s k f).regions = s.regions := rfl
@[simp] theorem modChan_sealing : (modChan s k f).sealing = s.sealing := rfl
@[simp] theorem modChan_lke : (modChan s k f).lke = s.lke := rfl
@[simp] theorem modChan_dbq : (modChan s k f).dbq = s.dbq := rfl
@[simp] theorem modChan_cnt : (modChan s k f).cnt = s.cnt := rfl
@[simp] theorem modChan_mir : (modChan s k f).mir = s.mir := rfl
@[simp] theorem modChan_mbx : (modChan s k f).mbx = s.mbx := rfl
@[simp] theorem modChan_fw : (modChan s k f).fw = s.fw := rfl
@[simp] theorem modChan_pst : (modChan s k f).pst = s.pst := rfl
@[simp] theorem modChan_evr : (modChan s k f).evr = s.evr := rfl
@[simp] theorem modChan_dumps : (modChan s k f).dumps = s.dumps := rfl
@[simp] theorem modChan_pmc : (modChan s k f).pmc = s.pmc := rfl
@[simp] theorem modChan_jtag : (modChan s k f).jtag = s.jtag := rfl
@[simp] theorem modChan_out : (modChan s k f).out = s.out := rfl
end

/-! ### modBlank -/

section
variable (b : Blank) (f : BlankS → BlankS)
@[simp] theorem modBlank_pending : (modBlank s b f).pending = s.pending := rfl
@[simp] theorem modBlank_fresh : (modBlank s b f).fresh = s.fresh := rfl
@[simp] theorem modBlank_regs : (modBlank s b f).regs = s.regs := rfl
@[simp] theorem modBlank_hw : (modBlank s b f).hw = s.hw := rfl
@[simp] theorem modBlank_latches : (modBlank s b f).latches = s.latches := rfl
@[simp] theorem modBlank_busRead : (modBlank s b f).busRead = s.busRead := rfl
@[simp] theorem modBlank_time : (modBlank s b f).time = s.time := rfl
@[simp] theorem modBlank_glb : (modBlank s b f).glb = s.glb := rfl
@[simp] theorem modBlank_seq : (modBlank s b f).seq = s.seq := rfl
@[simp] theorem modBlank_clk : (modBlank s b f).clk = s.clk := rfl
@[simp] theorem modBlank_thm : (modBlank s b f).thm = s.thm := rfl
@[simp] theorem modBlank_pwr : (modBlank s b f).pwr = s.pwr := rfl
@[simp] theorem modBlank_pcie : (modBlank s b f).pcie = s.pcie := rfl
@[simp] theorem modBlank_ports : (modBlank s b f).ports = s.ports := rfl
@[simp] theorem modBlank_cmds : (modBlank s b f).cmds = s.cmds := rfl
@[simp] theorem modBlank_nextCmd : (modBlank s b f).nextCmd = s.nextCmd := rfl
@[simp] theorem modBlank_krf : (modBlank s b f).krf = s.krf := rfl
@[simp] theorem modBlank_rdp : (modBlank s b f).rdp = s.rdp := rfl
@[simp] theorem modBlank_regions : (modBlank s b f).regions = s.regions := rfl
@[simp] theorem modBlank_sealing : (modBlank s b f).sealing = s.sealing := rfl
@[simp] theorem modBlank_lke : (modBlank s b f).lke = s.lke := rfl
@[simp] theorem modBlank_dbq : (modBlank s b f).dbq = s.dbq := rfl
@[simp] theorem modBlank_cnt : (modBlank s b f).cnt = s.cnt := rfl
@[simp] theorem modBlank_mir : (modBlank s b f).mir = s.mir := rfl
@[simp] theorem modBlank_mbx : (modBlank s b f).mbx = s.mbx := rfl
@[simp] theorem modBlank_fw : (modBlank s b f).fw = s.fw := rfl
@[simp] theorem modBlank_pst : (modBlank s b f).pst = s.pst := rfl
@[simp] theorem modBlank_evr : (modBlank s b f).evr = s.evr := rfl
@[simp] theorem modBlank_dumps : (modBlank s b f).dumps = s.dumps := rfl
@[simp] theorem modBlank_pmc : (modBlank s b f).pmc = s.pmc := rfl
@[simp] theorem modBlank_jtag : (modBlank s b f).jtag = s.jtag := rfl
@[simp] theorem modBlank_out : (modBlank s b f).out = s.out := rfl
end

/-! ### modRegion -/

section
variable (r : Nat) (f : Region → Region)
@[simp] theorem modRegion_pending : (modRegion s r f).pending = s.pending := rfl
@[simp] theorem modRegion_fresh : (modRegion s r f).fresh = s.fresh := rfl
@[simp] theorem modRegion_regs : (modRegion s r f).regs = s.regs := rfl
@[simp] theorem modRegion_hw : (modRegion s r f).hw = s.hw := rfl
@[simp] theorem modRegion_latches : (modRegion s r f).latches = s.latches := rfl
@[simp] theorem modRegion_busRead : (modRegion s r f).busRead = s.busRead := rfl
@[simp] theorem modRegion_time : (modRegion s r f).time = s.time := rfl
@[simp] theorem modRegion_glb : (modRegion s r f).glb = s.glb := rfl
@[simp] theorem modRegion_seq : (modRegion s r f).seq = s.seq := rfl
@[simp] theorem modRegion_clk : (modRegion s r f).clk = s.clk := rfl
@[simp] theorem modRegion_thm : (modRegion s r f).thm = s.thm := rfl
@[simp] theorem modRegion_pwr : (modRegion s r f).pwr = s.pwr := rfl
@[simp] theorem modRegion_pcie : (modRegion s r f).pcie = s.pcie := rfl
@[simp] theorem modRegion_ports : (modRegion s r f).ports = s.ports := rfl
@[simp] theorem modRegion_cmds : (modRegion s r f).cmds = s.cmds := rfl
@[simp] theorem modRegion_nextCmd : (modRegion s r f).nextCmd = s.nextCmd := rfl
@[simp] theorem modRegion_krf : (modRegion s r f).krf = s.krf := rfl
@[simp] theorem modRegion_rdp : (modRegion s r f).rdp = s.rdp := rfl
@[simp] theorem modRegion_med : (modRegion s r f).med = s.med := rfl
@[simp] theorem modRegion_sealing : (modRegion s r f).sealing = s.sealing := rfl
@[simp] theorem modRegion_lke : (modRegion s r f).lke = s.lke := rfl
@[simp] theorem modRegion_dbq : (modRegion s r f).dbq = s.dbq := rfl
@[simp] theorem modRegion_cnt : (modRegion s r f).cnt = s.cnt := rfl
@[simp] theorem modRegion_mir : (modRegion s r f).mir = s.mir := rfl
@[simp] theorem modRegion_mbx : (modRegion s r f).mbx = s.mbx := rfl
@[simp] theorem modRegion_fw : (modRegion s r f).fw = s.fw := rfl
@[simp] theorem modRegion_pst : (modRegion s r f).pst = s.pst := rfl
@[simp] theorem modRegion_evr : (modRegion s r f).evr = s.evr := rfl
@[simp] theorem modRegion_dumps : (modRegion s r f).dumps = s.dumps := rfl
@[simp] theorem modRegion_pmc : (modRegion s r f).pmc = s.pmc := rfl
@[simp] theorem modRegion_jtag : (modRegion s r f).jtag = s.jtag := rfl
@[simp] theorem modRegion_out : (modRegion s r f).out = s.out := rfl
end

/-! ### modSeal -/

section
variable (f : Seal → Seal)
@[simp] theorem modSeal_pending : (modSeal s f).pending = s.pending := rfl
@[simp] theorem modSeal_fresh : (modSeal s f).fresh = s.fresh := rfl
@[simp] theorem modSeal_regs : (modSeal s f).regs = s.regs := rfl
@[simp] theorem modSeal_hw : (modSeal s f).hw = s.hw := rfl
@[simp] theorem modSeal_latches : (modSeal s f).latches = s.latches := rfl
@[simp] theorem modSeal_busRead : (modSeal s f).busRead = s.busRead := rfl
@[simp] theorem modSeal_time : (modSeal s f).time = s.time := rfl
@[simp] theorem modSeal_glb : (modSeal s f).glb = s.glb := rfl
@[simp] theorem modSeal_seq : (modSeal s f).seq = s.seq := rfl
@[simp] theorem modSeal_clk : (modSeal s f).clk = s.clk := rfl
@[simp] theorem modSeal_thm : (modSeal s f).thm = s.thm := rfl
@[simp] theorem modSeal_pwr : (modSeal s f).pwr = s.pwr := rfl
@[simp] theorem modSeal_pcie : (modSeal s f).pcie = s.pcie := rfl
@[simp] theorem modSeal_ports : (modSeal s f).ports = s.ports := rfl
@[simp] theorem modSeal_cmds : (modSeal s f).cmds = s.cmds := rfl
@[simp] theorem modSeal_nextCmd : (modSeal s f).nextCmd = s.nextCmd := rfl
@[simp] theorem modSeal_krf : (modSeal s f).krf = s.krf := rfl
@[simp] theorem modSeal_rdp : (modSeal s f).rdp = s.rdp := rfl
@[simp] theorem modSeal_med : (modSeal s f).med = s.med := rfl
@[simp] theorem modSeal_regions : (modSeal s f).regions = s.regions := rfl
@[simp] theorem modSeal_lke : (modSeal s f).lke = s.lke := rfl
@[simp] theorem modSeal_dbq : (modSeal s f).dbq = s.dbq := rfl
@[simp] theorem modSeal_cnt : (modSeal s f).cnt = s.cnt := rfl
@[simp] theorem modSeal_mir : (modSeal s f).mir = s.mir := rfl
@[simp] theorem modSeal_mbx : (modSeal s f).mbx = s.mbx := rfl
@[simp] theorem modSeal_fw : (modSeal s f).fw = s.fw := rfl
@[simp] theorem modSeal_pst : (modSeal s f).pst = s.pst := rfl
@[simp] theorem modSeal_evr : (modSeal s f).evr = s.evr := rfl
@[simp] theorem modSeal_dumps : (modSeal s f).dumps = s.dumps := rfl
@[simp] theorem modSeal_pmc : (modSeal s f).pmc = s.pmc := rfl
@[simp] theorem modSeal_jtag : (modSeal s f).jtag = s.jtag := rfl
@[simp] theorem modSeal_out : (modSeal s f).out = s.out := rfl
@[simp] theorem modSeal_sealing : (modSeal s f).sealing = f s.sealing := rfl
end

/-! ### modLke -/

section
variable (f : Lke → Lke)
@[simp] theorem modLke_pending : (modLke s f).pending = s.pending := rfl
@[simp] theorem modLke_fresh : (modLke s f).fresh = s.fresh := rfl
@[simp] theorem modLke_regs : (modLke s f).regs = s.regs := rfl
@[simp] theorem modLke_hw : (modLke s f).hw = s.hw := rfl
@[simp] theorem modLke_latches : (modLke s f).latches = s.latches := rfl
@[simp] theorem modLke_busRead : (modLke s f).busRead = s.busRead := rfl
@[simp] theorem modLke_time : (modLke s f).time = s.time := rfl
@[simp] theorem modLke_glb : (modLke s f).glb = s.glb := rfl
@[simp] theorem modLke_seq : (modLke s f).seq = s.seq := rfl
@[simp] theorem modLke_clk : (modLke s f).clk = s.clk := rfl
@[simp] theorem modLke_thm : (modLke s f).thm = s.thm := rfl
@[simp] theorem modLke_pwr : (modLke s f).pwr = s.pwr := rfl
@[simp] theorem modLke_pcie : (modLke s f).pcie = s.pcie := rfl
@[simp] theorem modLke_ports : (modLke s f).ports = s.ports := rfl
@[simp] theorem modLke_cmds : (modLke s f).cmds = s.cmds := rfl
@[simp] theorem modLke_nextCmd : (modLke s f).nextCmd = s.nextCmd := rfl
@[simp] theorem modLke_krf : (modLke s f).krf = s.krf := rfl
@[simp] theorem modLke_rdp : (modLke s f).rdp = s.rdp := rfl
@[simp] theorem modLke_med : (modLke s f).med = s.med := rfl
@[simp] theorem modLke_regions : (modLke s f).regions = s.regions := rfl
@[simp] theorem modLke_sealing : (modLke s f).sealing = s.sealing := rfl
@[simp] theorem modLke_dbq : (modLke s f).dbq = s.dbq := rfl
@[simp] theorem modLke_cnt : (modLke s f).cnt = s.cnt := rfl
@[simp] theorem modLke_mir : (modLke s f).mir = s.mir := rfl
@[simp] theorem modLke_mbx : (modLke s f).mbx = s.mbx := rfl
@[simp] theorem modLke_fw : (modLke s f).fw = s.fw := rfl
@[simp] theorem modLke_pst : (modLke s f).pst = s.pst := rfl
@[simp] theorem modLke_evr : (modLke s f).evr = s.evr := rfl
@[simp] theorem modLke_dumps : (modLke s f).dumps = s.dumps := rfl
@[simp] theorem modLke_pmc : (modLke s f).pmc = s.pmc := rfl
@[simp] theorem modLke_jtag : (modLke s f).jtag = s.jtag := rfl
@[simp] theorem modLke_out : (modLke s f).out = s.out := rfl
@[simp] theorem modLke_lke : (modLke s f).lke = f s.lke := rfl
end

/-! ### modDbq -/

section
variable (f : Dbq → Dbq)
@[simp] theorem modDbq_pending : (modDbq s f).pending = s.pending := rfl
@[simp] theorem modDbq_fresh : (modDbq s f).fresh = s.fresh := rfl
@[simp] theorem modDbq_regs : (modDbq s f).regs = s.regs := rfl
@[simp] theorem modDbq_hw : (modDbq s f).hw = s.hw := rfl
@[simp] theorem modDbq_latches : (modDbq s f).latches = s.latches := rfl
@[simp] theorem modDbq_busRead : (modDbq s f).busRead = s.busRead := rfl
@[simp] theorem modDbq_time : (modDbq s f).time = s.time := rfl
@[simp] theorem modDbq_glb : (modDbq s f).glb = s.glb := rfl
@[simp] theorem modDbq_seq : (modDbq s f).seq = s.seq := rfl
@[simp] theorem modDbq_clk : (modDbq s f).clk = s.clk := rfl
@[simp] theorem modDbq_thm : (modDbq s f).thm = s.thm := rfl
@[simp] theorem modDbq_pwr : (modDbq s f).pwr = s.pwr := rfl
@[simp] theorem modDbq_pcie : (modDbq s f).pcie = s.pcie := rfl
@[simp] theorem modDbq_ports : (modDbq s f).ports = s.ports := rfl
@[simp] theorem modDbq_cmds : (modDbq s f).cmds = s.cmds := rfl
@[simp] theorem modDbq_nextCmd : (modDbq s f).nextCmd = s.nextCmd := rfl
@[simp] theorem modDbq_krf : (modDbq s f).krf = s.krf := rfl
@[simp] theorem modDbq_rdp : (modDbq s f).rdp = s.rdp := rfl
@[simp] theorem modDbq_med : (modDbq s f).med = s.med := rfl
@[simp] theorem modDbq_regions : (modDbq s f).regions = s.regions := rfl
@[simp] theorem modDbq_sealing : (modDbq s f).sealing = s.sealing := rfl
@[simp] theorem modDbq_lke : (modDbq s f).lke = s.lke := rfl
@[simp] theorem modDbq_cnt : (modDbq s f).cnt = s.cnt := rfl
@[simp] theorem modDbq_mir : (modDbq s f).mir = s.mir := rfl
@[simp] theorem modDbq_mbx : (modDbq s f).mbx = s.mbx := rfl
@[simp] theorem modDbq_fw : (modDbq s f).fw = s.fw := rfl
@[simp] theorem modDbq_pst : (modDbq s f).pst = s.pst := rfl
@[simp] theorem modDbq_evr : (modDbq s f).evr = s.evr := rfl
@[simp] theorem modDbq_dumps : (modDbq s f).dumps = s.dumps := rfl
@[simp] theorem modDbq_pmc : (modDbq s f).pmc = s.pmc := rfl
@[simp] theorem modDbq_jtag : (modDbq s f).jtag = s.jtag := rfl
@[simp] theorem modDbq_out : (modDbq s f).out = s.out := rfl
@[simp] theorem modDbq_dbq : (modDbq s f).dbq = f s.dbq := rfl
end

/-! ### modCnt -/

section
variable (f : Cnt → Cnt)
@[simp] theorem modCnt_pending : (modCnt s f).pending = s.pending := rfl
@[simp] theorem modCnt_fresh : (modCnt s f).fresh = s.fresh := rfl
@[simp] theorem modCnt_regs : (modCnt s f).regs = s.regs := rfl
@[simp] theorem modCnt_hw : (modCnt s f).hw = s.hw := rfl
@[simp] theorem modCnt_latches : (modCnt s f).latches = s.latches := rfl
@[simp] theorem modCnt_busRead : (modCnt s f).busRead = s.busRead := rfl
@[simp] theorem modCnt_time : (modCnt s f).time = s.time := rfl
@[simp] theorem modCnt_glb : (modCnt s f).glb = s.glb := rfl
@[simp] theorem modCnt_seq : (modCnt s f).seq = s.seq := rfl
@[simp] theorem modCnt_clk : (modCnt s f).clk = s.clk := rfl
@[simp] theorem modCnt_thm : (modCnt s f).thm = s.thm := rfl
@[simp] theorem modCnt_pwr : (modCnt s f).pwr = s.pwr := rfl
@[simp] theorem modCnt_pcie : (modCnt s f).pcie = s.pcie := rfl
@[simp] theorem modCnt_ports : (modCnt s f).ports = s.ports := rfl
@[simp] theorem modCnt_cmds : (modCnt s f).cmds = s.cmds := rfl
@[simp] theorem modCnt_nextCmd : (modCnt s f).nextCmd = s.nextCmd := rfl
@[simp] theorem modCnt_krf : (modCnt s f).krf = s.krf := rfl
@[simp] theorem modCnt_rdp : (modCnt s f).rdp = s.rdp := rfl
@[simp] theorem modCnt_med : (modCnt s f).med = s.med := rfl
@[simp] theorem modCnt_regions : (modCnt s f).regions = s.regions := rfl
@[simp] theorem modCnt_sealing : (modCnt s f).sealing = s.sealing := rfl
@[simp] theorem modCnt_lke : (modCnt s f).lke = s.lke := rfl
@[simp] theorem modCnt_dbq : (modCnt s f).dbq = s.dbq := rfl
@[simp] theorem modCnt_mir : (modCnt s f).mir = s.mir := rfl
@[simp] theorem modCnt_mbx : (modCnt s f).mbx = s.mbx := rfl
@[simp] theorem modCnt_fw : (modCnt s f).fw = s.fw := rfl
@[simp] theorem modCnt_pst : (modCnt s f).pst = s.pst := rfl
@[simp] theorem modCnt_evr : (modCnt s f).evr = s.evr := rfl
@[simp] theorem modCnt_dumps : (modCnt s f).dumps = s.dumps := rfl
@[simp] theorem modCnt_pmc : (modCnt s f).pmc = s.pmc := rfl
@[simp] theorem modCnt_jtag : (modCnt s f).jtag = s.jtag := rfl
@[simp] theorem modCnt_out : (modCnt s f).out = s.out := rfl
@[simp] theorem modCnt_cnt : (modCnt s f).cnt = f s.cnt := rfl
end

/-! ### modMir -/

section
variable (n : MPort) (f : MirPort → MirPort)
@[simp] theorem modMir_pending : (modMir s n f).pending = s.pending := rfl
@[simp] theorem modMir_fresh : (modMir s n f).fresh = s.fresh := rfl
@[simp] theorem modMir_regs : (modMir s n f).regs = s.regs := rfl
@[simp] theorem modMir_hw : (modMir s n f).hw = s.hw := rfl
@[simp] theorem modMir_latches : (modMir s n f).latches = s.latches := rfl
@[simp] theorem modMir_busRead : (modMir s n f).busRead = s.busRead := rfl
@[simp] theorem modMir_time : (modMir s n f).time = s.time := rfl
@[simp] theorem modMir_glb : (modMir s n f).glb = s.glb := rfl
@[simp] theorem modMir_seq : (modMir s n f).seq = s.seq := rfl
@[simp] theorem modMir_clk : (modMir s n f).clk = s.clk := rfl
@[simp] theorem modMir_thm : (modMir s n f).thm = s.thm := rfl
@[simp] theorem modMir_pwr : (modMir s n f).pwr = s.pwr := rfl
@[simp] theorem modMir_pcie : (modMir s n f).pcie = s.pcie := rfl
@[simp] theorem modMir_ports : (modMir s n f).ports = s.ports := rfl
@[simp] theorem modMir_cmds : (modMir s n f).cmds = s.cmds := rfl
@[simp] theorem modMir_nextCmd : (modMir s n f).nextCmd = s.nextCmd := rfl
@[simp] theorem modMir_krf : (modMir s n f).krf = s.krf := rfl
@[simp] theorem modMir_rdp : (modMir s n f).rdp = s.rdp := rfl
@[simp] theorem modMir_med : (modMir s n f).med = s.med := rfl
@[simp] theorem modMir_regions : (modMir s n f).regions = s.regions := rfl
@[simp] theorem modMir_sealing : (modMir s n f).sealing = s.sealing := rfl
@[simp] theorem modMir_lke : (modMir s n f).lke = s.lke := rfl
@[simp] theorem modMir_dbq : (modMir s n f).dbq = s.dbq := rfl
@[simp] theorem modMir_cnt : (modMir s n f).cnt = s.cnt := rfl
@[simp] theorem modMir_mbx : (modMir s n f).mbx = s.mbx := rfl
@[simp] theorem modMir_fw : (modMir s n f).fw = s.fw := rfl
@[simp] theorem modMir_pst : (modMir s n f).pst = s.pst := rfl
@[simp] theorem modMir_evr : (modMir s n f).evr = s.evr := rfl
@[simp] theorem modMir_dumps : (modMir s n f).dumps = s.dumps := rfl
@[simp] theorem modMir_pmc : (modMir s n f).pmc = s.pmc := rfl
@[simp] theorem modMir_jtag : (modMir s n f).jtag = s.jtag := rfl
@[simp] theorem modMir_out : (modMir s n f).out = s.out := rfl
end

/-! ### modMbx -/

section
variable (m : Mbx) (f : MbxS → MbxS)
@[simp] theorem modMbx_pending : (modMbx s m f).pending = s.pending := rfl
@[simp] theorem modMbx_fresh : (modMbx s m f).fresh = s.fresh := rfl
@[simp] theorem modMbx_regs : (modMbx s m f).regs = s.regs := rfl
@[simp] theorem modMbx_hw : (modMbx s m f).hw = s.hw := rfl
@[simp] theorem modMbx_latches : (modMbx s m f).latches = s.latches := rfl
@[simp] theorem modMbx_busRead : (modMbx s m f).busRead = s.busRead := rfl
@[simp] theorem modMbx_time : (modMbx s m f).time = s.time := rfl
@[simp] theorem modMbx_glb : (modMbx s m f).glb = s.glb := rfl
@[simp] theorem modMbx_seq : (modMbx s m f).seq = s.seq := rfl
@[simp] theorem modMbx_clk : (modMbx s m f).clk = s.clk := rfl
@[simp] theorem modMbx_thm : (modMbx s m f).thm = s.thm := rfl
@[simp] theorem modMbx_pwr : (modMbx s m f).pwr = s.pwr := rfl
@[simp] theorem modMbx_pcie : (modMbx s m f).pcie = s.pcie := rfl
@[simp] theorem modMbx_ports : (modMbx s m f).ports = s.ports := rfl
@[simp] theorem modMbx_cmds : (modMbx s m f).cmds = s.cmds := rfl
@[simp] theorem modMbx_nextCmd : (modMbx s m f).nextCmd = s.nextCmd := rfl
@[simp] theorem modMbx_krf : (modMbx s m f).krf = s.krf := rfl
@[simp] theorem modMbx_rdp : (modMbx s m f).rdp = s.rdp := rfl
@[simp] theorem modMbx_med : (modMbx s m f).med = s.med := rfl
@[simp] theorem modMbx_regions : (modMbx s m f).regions = s.regions := rfl
@[simp] theorem modMbx_sealing : (modMbx s m f).sealing = s.sealing := rfl
@[simp] theorem modMbx_lke : (modMbx s m f).lke = s.lke := rfl
@[simp] theorem modMbx_dbq : (modMbx s m f).dbq = s.dbq := rfl
@[simp] theorem modMbx_cnt : (modMbx s m f).cnt = s.cnt := rfl
@[simp] theorem modMbx_mir : (modMbx s m f).mir = s.mir := rfl
@[simp] theorem modMbx_fw : (modMbx s m f).fw = s.fw := rfl
@[simp] theorem modMbx_pst : (modMbx s m f).pst = s.pst := rfl
@[simp] theorem modMbx_evr : (modMbx s m f).evr = s.evr := rfl
@[simp] theorem modMbx_dumps : (modMbx s m f).dumps = s.dumps := rfl
@[simp] theorem modMbx_pmc : (modMbx s m f).pmc = s.pmc := rfl
@[simp] theorem modMbx_jtag : (modMbx s m f).jtag = s.jtag := rfl
@[simp] theorem modMbx_out : (modMbx s m f).out = s.out := rfl
@[simp] theorem modMbx_mbx : (modMbx s m f).mbx = vmod s.mbx m f := rfl
end

/-! ### mbxFinish -/

section
variable (m : Mbx) (code : Nat) (reason : Nat) (resp : List Byte)
@[simp] theorem mbxFinish_pending : (mbxFinish s m code reason resp).pending = s.pending := rfl
@[simp] theorem mbxFinish_fresh : (mbxFinish s m code reason resp).fresh = s.fresh := rfl
@[simp] theorem mbxFinish_regs : (mbxFinish s m code reason resp).regs = s.regs := rfl
@[simp] theorem mbxFinish_hw : (mbxFinish s m code reason resp).hw = s.hw := rfl
@[simp] theorem mbxFinish_latches : (mbxFinish s m code reason resp).latches = s.latches := rfl
@[simp] theorem mbxFinish_busRead : (mbxFinish s m code reason resp).busRead = s.busRead := rfl
@[simp] theorem mbxFinish_time : (mbxFinish s m code reason resp).time = s.time := rfl
@[simp] theorem mbxFinish_glb : (mbxFinish s m code reason resp).glb = s.glb := rfl
@[simp] theorem mbxFinish_seq : (mbxFinish s m code reason resp).seq = s.seq := rfl
@[simp] theorem mbxFinish_clk : (mbxFinish s m code reason resp).clk = s.clk := rfl
@[simp] theorem mbxFinish_thm : (mbxFinish s m code reason resp).thm = s.thm := rfl
@[simp] theorem mbxFinish_pwr : (mbxFinish s m code reason resp).pwr = s.pwr := rfl
@[simp] theorem mbxFinish_pcie : (mbxFinish s m code reason resp).pcie = s.pcie := rfl
@[simp] theorem mbxFinish_ports : (mbxFinish s m code reason resp).ports = s.ports := rfl
@[simp] theorem mbxFinish_cmds : (mbxFinish s m code reason resp).cmds = s.cmds := rfl
@[simp] theorem mbxFinish_nextCmd : (mbxFinish s m code reason resp).nextCmd = s.nextCmd := rfl
@[simp] theorem mbxFinish_krf : (mbxFinish s m code reason resp).krf = s.krf := rfl
@[simp] theorem mbxFinish_rdp : (mbxFinish s m code reason resp).rdp = s.rdp := rfl
@[simp] theorem mbxFinish_med : (mbxFinish s m code reason resp).med = s.med := rfl
@[simp] theorem mbxFinish_regions : (mbxFinish s m code reason resp).regions = s.regions := rfl
@[simp] theorem mbxFinish_sealing : (mbxFinish s m code reason resp).sealing = s.sealing := rfl
@[simp] theorem mbxFinish_lke : (mbxFinish s m code reason resp).lke = s.lke := rfl
@[simp] theorem mbxFinish_dbq : (mbxFinish s m code reason resp).dbq = s.dbq := rfl
@[simp] theorem mbxFinish_cnt : (mbxFinish s m code reason resp).cnt = s.cnt := rfl
@[simp] theorem mbxFinish_mir : (mbxFinish s m code reason resp).mir = s.mir := rfl
@[simp] theorem mbxFinish_fw : (mbxFinish s m code reason resp).fw = s.fw := rfl
@[simp] theorem mbxFinish_pst : (mbxFinish s m code reason resp).pst = s.pst := rfl
@[simp] theorem mbxFinish_evr : (mbxFinish s m code reason resp).evr = s.evr := rfl
@[simp] theorem mbxFinish_dumps : (mbxFinish s m code reason resp).dumps = s.dumps := rfl
@[simp] theorem mbxFinish_pmc : (mbxFinish s m code reason resp).pmc = s.pmc := rfl
@[simp] theorem mbxFinish_jtag : (mbxFinish s m code reason resp).jtag = s.jtag := rfl
@[simp] theorem mbxFinish_out : (mbxFinish s m code reason resp).out = s.out := rfl
end

/-! ### modFw -/

section
variable (f : Fw → Fw)
@[simp] theorem modFw_pending : (modFw s f).pending = s.pending := rfl
@[simp] theorem modFw_fresh : (modFw s f).fresh = s.fresh := rfl
@[simp] theorem modFw_regs : (modFw s f).regs = s.regs := rfl
@[simp] theorem modFw_hw : (modFw s f).hw = s.hw := rfl
@[simp] theorem modFw_latches : (modFw s f).latches = s.latches := rfl
@[simp] theorem modFw_busRead : (modFw s f).busRead = s.busRead := rfl
@[simp] theorem modFw_time : (modFw s f).time = s.time := rfl
@[simp] theorem modFw_glb : (modFw s f).glb = s.glb := rfl
@[simp] theorem modFw_seq : (modFw s f).seq = s.seq := rfl
@[simp] theorem modFw_clk : (modFw s f).clk = s.clk := rfl
@[simp] theorem modFw_thm : (modFw s f).thm = s.thm := rfl
@[simp] theorem modFw_pwr : (modFw s f).pwr = s.pwr := rfl
@[simp] theorem modFw_pcie : (modFw s f).pcie = s.pcie := rfl
@[simp] theorem modFw_ports : (modFw s f).ports = s.ports := rfl
@[simp] theorem modFw_cmds : (modFw s f).cmds = s.cmds := rfl
@[simp] theorem modFw_nextCmd : (modFw s f).nextCmd = s.nextCmd := rfl
@[simp] theorem modFw_krf : (modFw s f).krf = s.krf := rfl
@[simp] theorem modFw_rdp : (modFw s f).rdp = s.rdp := rfl
@[simp] theorem modFw_med : (modFw s f).med = s.med := rfl
@[simp] theorem modFw_regions : (modFw s f).regions = s.regions := rfl
@[simp] theorem modFw_sealing : (modFw s f).sealing = s.sealing := rfl
@[simp] theorem modFw_lke : (modFw s f).lke = s.lke := rfl
@[simp] theorem modFw_dbq : (modFw s f).dbq = s.dbq := rfl
@[simp] theorem modFw_cnt : (modFw s f).cnt = s.cnt := rfl
@[simp] theorem modFw_mir : (modFw s f).mir = s.mir := rfl
@[simp] theorem modFw_mbx : (modFw s f).mbx = s.mbx := rfl
@[simp] theorem modFw_pst : (modFw s f).pst = s.pst := rfl
@[simp] theorem modFw_evr : (modFw s f).evr = s.evr := rfl
@[simp] theorem modFw_dumps : (modFw s f).dumps = s.dumps := rfl
@[simp] theorem modFw_pmc : (modFw s f).pmc = s.pmc := rfl
@[simp] theorem modFw_jtag : (modFw s f).jtag = s.jtag := rfl
@[simp] theorem modFw_out : (modFw s f).out = s.out := rfl
@[simp] theorem modFw_fw : (modFw s f).fw = f s.fw := rfl
end

/-! ### modPst -/

section
variable (f : Pst → Pst)
@[simp] theorem modPst_pending : (modPst s f).pending = s.pending := rfl
@[simp] theorem modPst_fresh : (modPst s f).fresh = s.fresh := rfl
@[simp] theorem modPst_regs : (modPst s f).regs = s.regs := rfl
@[simp] theorem modPst_hw : (modPst s f).hw = s.hw := rfl
@[simp] theorem modPst_latches : (modPst s f).latches = s.latches := rfl
@[simp] theorem modPst_busRead : (modPst s f).busRead = s.busRead := rfl
@[simp] theorem modPst_time : (modPst s f).time = s.time := rfl
@[simp] theorem modPst_glb : (modPst s f).glb = s.glb := rfl
@[simp] theorem modPst_seq : (modPst s f).seq = s.seq := rfl
@[simp] theorem modPst_clk : (modPst s f).clk = s.clk := rfl
@[simp] theorem modPst_thm : (modPst s f).thm = s.thm := rfl
@[simp] theorem modPst_pwr : (modPst s f).pwr = s.pwr := rfl
@[simp] theorem modPst_pcie : (modPst s f).pcie = s.pcie := rfl
@[simp] theorem modPst_ports : (modPst s f).ports = s.ports := rfl
@[simp] theorem modPst_cmds : (modPst s f).cmds = s.cmds := rfl
@[simp] theorem modPst_nextCmd : (modPst s f).nextCmd = s.nextCmd := rfl
@[simp] theorem modPst_krf : (modPst s f).krf = s.krf := rfl
@[simp] theorem modPst_rdp : (modPst s f).rdp = s.rdp := rfl
@[simp] theorem modPst_med : (modPst s f).med = s.med := rfl
@[simp] theorem modPst_regions : (modPst s f).regions = s.regions := rfl
@[simp] theorem modPst_sealing : (modPst s f).sealing = s.sealing := rfl
@[simp] theorem modPst_lke : (modPst s f).lke = s.lke := rfl
@[simp] theorem modPst_dbq : (modPst s f).dbq = s.dbq := rfl
@[simp] theorem modPst_cnt : (modPst s f).cnt = s.cnt := rfl
@[simp] theorem modPst_mir : (modPst s f).mir = s.mir := rfl
@[simp] theorem modPst_mbx : (modPst s f).mbx = s.mbx := rfl
@[simp] theorem modPst_fw : (modPst s f).fw = s.fw := rfl
@[simp] theorem modPst_evr : (modPst s f).evr = s.evr := rfl
@[simp] theorem modPst_dumps : (modPst s f).dumps = s.dumps := rfl
@[simp] theorem modPst_pmc : (modPst s f).pmc = s.pmc := rfl
@[simp] theorem modPst_jtag : (modPst s f).jtag = s.jtag := rfl
@[simp] theorem modPst_out : (modPst s f).out = s.out := rfl
@[simp] theorem modPst_pst : (modPst s f).pst = f s.pst := rfl
end

/-! ### modEvr -/

section
variable (f : Evr → Evr)
@[simp] theorem modEvr_pending : (modEvr s f).pending = s.pending := rfl
@[simp] theorem modEvr_fresh : (modEvr s f).fresh = s.fresh := rfl
@[simp] theorem modEvr_regs : (modEvr s f).regs = s.regs := rfl
@[simp] theorem modEvr_hw : (modEvr s f).hw = s.hw := rfl
@[simp] theorem modEvr_latches : (modEvr s f).latches = s.latches := rfl
@[simp] theorem modEvr_busRead : (modEvr s f).busRead = s.busRead := rfl
@[simp] theorem modEvr_time : (modEvr s f).time = s.time := rfl
@[simp] theorem modEvr_glb : (modEvr s f).glb = s.glb := rfl
@[simp] theorem modEvr_seq : (modEvr s f).seq = s.seq := rfl
@[simp] theorem modEvr_clk : (modEvr s f).clk = s.clk := rfl
@[simp] theorem modEvr_thm : (modEvr s f).thm = s.thm := rfl
@[simp] theorem modEvr_pwr : (modEvr s f).pwr = s.pwr := rfl
@[simp] theorem modEvr_pcie : (modEvr s f).pcie = s.pcie := rfl
@[simp] theorem modEvr_ports : (modEvr s f).ports = s.ports := rfl
@[simp] theorem modEvr_cmds : (modEvr s f).cmds = s.cmds := rfl
@[simp] theorem modEvr_nextCmd : (modEvr s f).nextCmd = s.nextCmd := rfl
@[simp] theorem modEvr_krf : (modEvr s f).krf = s.krf := rfl
@[simp] theorem modEvr_rdp : (modEvr s f).rdp = s.rdp := rfl
@[simp] theorem modEvr_med : (modEvr s f).med = s.med := rfl
@[simp] theorem modEvr_regions : (modEvr s f).regions = s.regions := rfl
@[simp] theorem modEvr_sealing : (modEvr s f).sealing = s.sealing := rfl
@[simp] theorem modEvr_lke : (modEvr s f).lke = s.lke := rfl
@[simp] theorem modEvr_dbq : (modEvr s f).dbq = s.dbq := rfl
@[simp] theorem modEvr_cnt : (modEvr s f).cnt = s.cnt := rfl
@[simp] theorem modEvr_mir : (modEvr s f).mir = s.mir := rfl
@[simp] theorem modEvr_mbx : (modEvr s f).mbx = s.mbx := rfl
@[simp] theorem modEvr_fw : (modEvr s f).fw = s.fw := rfl
@[simp] theorem modEvr_pst : (modEvr s f).pst = s.pst := rfl
@[simp] theorem modEvr_dumps : (modEvr s f).dumps = s.dumps := rfl
@[simp] theorem modEvr_pmc : (modEvr s f).pmc = s.pmc := rfl
@[simp] theorem modEvr_jtag : (modEvr s f).jtag = s.jtag := rfl
@[simp] theorem modEvr_out : (modEvr s f).out = s.out := rfl
@[simp] theorem modEvr_evr : (modEvr s f).evr = f s.evr := rfl
end

/-! ### modPmc -/

section
variable (u : PmcUnit) (f : Pmc → Pmc)
@[simp] theorem modPmc_pending : (modPmc s u f).pending = s.pending := rfl
@[simp] theorem modPmc_fresh : (modPmc s u f).fresh = s.fresh := rfl
@[simp] theorem modPmc_regs : (modPmc s u f).regs = s.regs := rfl
@[simp] theorem modPmc_hw : (modPmc s u f).hw = s.hw := rfl
@[simp] theorem modPmc_latches : (modPmc s u f).latches = s.latches := rfl
@[simp] theorem modPmc_busRead : (modPmc s u f).busRead = s.busRead := rfl
@[simp] theorem modPmc_time : (modPmc s u f).time = s.time := rfl
@[simp] theorem modPmc_glb : (modPmc s u f).glb = s.glb := rfl
@[simp] theorem modPmc_seq : (modPmc s u f).seq = s.seq := rfl
@[simp] theorem modPmc_clk : (modPmc s u f).clk = s.clk := rfl
@[simp] theorem modPmc_thm : (modPmc s u f).thm = s.thm := rfl
@[simp] theorem modPmc_pwr : (modPmc s u f).pwr = s.pwr := rfl
@[simp] theorem modPmc_pcie : (modPmc s u f).pcie = s.pcie := rfl
@[simp] theorem modPmc_ports : (modPmc s u f).ports = s.ports := rfl
@[simp] theorem modPmc_cmds : (modPmc s u f).cmds = s.cmds := rfl
@[simp] theorem modPmc_nextCmd : (modPmc s u f).nextCmd = s.nextCmd := rfl
@[simp] theorem modPmc_krf : (modPmc s u f).krf = s.krf := rfl
@[simp] theorem modPmc_rdp : (modPmc s u f).rdp = s.rdp := rfl
@[simp] theorem modPmc_med : (modPmc s u f).med = s.med := rfl
@[simp] theorem modPmc_regions : (modPmc s u f).regions = s.regions := rfl
@[simp] theorem modPmc_sealing : (modPmc s u f).sealing = s.sealing := rfl
@[simp] theorem modPmc_lke : (modPmc s u f).lke = s.lke := rfl
@[simp] theorem modPmc_dbq : (modPmc s u f).dbq = s.dbq := rfl
@[simp] theorem modPmc_cnt : (modPmc s u f).cnt = s.cnt := rfl
@[simp] theorem modPmc_mir : (modPmc s u f).mir = s.mir := rfl
@[simp] theorem modPmc_mbx : (modPmc s u f).mbx = s.mbx := rfl
@[simp] theorem modPmc_fw : (modPmc s u f).fw = s.fw := rfl
@[simp] theorem modPmc_pst : (modPmc s u f).pst = s.pst := rfl
@[simp] theorem modPmc_evr : (modPmc s u f).evr = s.evr := rfl
@[simp] theorem modPmc_dumps : (modPmc s u f).dumps = s.dumps := rfl
@[simp] theorem modPmc_jtag : (modPmc s u f).jtag = s.jtag := rfl
@[simp] theorem modPmc_out : (modPmc s u f).out = s.out := rfl
@[simp] theorem modPmc_pmc : (modPmc s u f).pmc = vmod s.pmc u f := rfl
end

/-! ### Reads that look at one field -/

section
variable {s t : State}
theorem cfg_congr (h : t.regs = s.regs) (o : Nat) : cfg t o = cfg s o := by simp only [cfg, h]
theorem cfgBit_congr (h : t.regs = s.regs) (o k : Nat) : cfgBit t o k = cfgBit s o k := by simp only [cfgBit, cfg, h]
theorem cfgFld_congr (h : t.regs = s.regs) (o lo w : Nat) : cfgFld t o lo w = cfgFld s o lo w := by simp only [cfgFld, cfg, h]
theorem hwGet_congr (h : t.hw = s.hw) (o : Nat) : hwGet t o = hwGet s o := by simp only [hwGet, h]
theorem coreUp_congr (h : t.seq = s.seq) (k : t.glb = s.glb) : coreUp t = coreUp s := by simp only [coreUp, h, k]
theorem regionAt_congr (h : t.regions = s.regions) (r : Nat) : regionAt t r = regionAt s r := by simp only [regionAt, h]
theorem slotAt_congr (h : t.krf = s.krf) (lsa : Nat) : slotAt t lsa = slotAt s lsa := by simp only [slotAt, h]
theorem cmdAt_congr (h : t.cmds = s.cmds) (id : Nat) : cmdAt t id = cmdAt s id := by simp only [cmdAt, h]
theorem chanAt_congr (h : t.med = s.med) (k : Nat) : chanAt t k = chanAt s k := by simp only [chanAt, h]
end

/-! ### Read after write -/

theorem cfg_setCfg (h : fwf s.regs = true) (o : Nat) (v : Word64) : cfg (setCfg s o v) o = v := fgetD_fputD_self h _ _ _

theorem cfg_setCfg_ne (h : fwf s.regs = true) {o i : Nat} (v : Word64) (hi : i ≠ o) : cfg (setCfg s o v) i = cfg s i :=
  fgetD_fputD_ne h _ _ _ hi

theorem hwGet_hwSet (h : fwf s.hw = true) (o : Nat) (v : Word64) : hwGet (hwSet s o v) o = v := fgetD_fputD_self h _ _ _

theorem hwGet_hwSet_ne (h : fwf s.hw = true) {o i : Nat} (v : Word64) (hi : i ≠ o) : hwGet (hwSet s o v) i = hwGet s i :=
  fgetD_fputD_ne h _ _ _ hi

theorem slotAt_putSlot (lsa : Nat) (x : Slot) : slotAt (putSlot s lsa x) lsa = some x := fget_fput_self _ _ _

theorem slotAt_putSlot_ne {lsa i : Nat} (x : Slot) (hi : i ≠ lsa) : slotAt (putSlot s lsa x) i = slotAt s i := fget_fput_ne _ _ hi

theorem regionAt_modRegion (h : fwf s.regions = true) (r : Nat) (f : Region → Region) :
    regionAt (modRegion s r f) r = f (regionAt s r) := fgetD_fputD_self h _ _ _

theorem regionAt_modRegion_ne (h : fwf s.regions = true) {r i : Nat} (f : Region → Region) (hi : i ≠ r) :
    regionAt (modRegion s r f) i = regionAt s i := fgetD_fputD_ne h _ _ _ hi

/-! ### Vectors -/

theorem vmod_self {α : Type} {n : Nat} (v : Vector α n) (i : Fin n) (f : α → α) : (vmod v i f)[i] = f v[i] := by
  simp [vmod]

theorem vmod_ne {α : Type} {n : Nat} (v : Vector α n) {i j : Fin n} (f : α → α) (h : j ≠ i) : (vmod v i f)[j] = v[j] := by
  have hij : i.val ≠ j.val := fun e => h (Fin.ext e.symm)
  simp [vmod, Vector.getElem_set_ne, hij]

end Sys2Proof.Machine
end

