-- ==== Sys2Proof/Machine/Jtag.lean ====
section
/-! DEFINITION. The JTAG port (chapter 17): its TAP controller, its 12-bit instruction register and its data registers, as IEEE 1149.1, which
R462 names, has them. No row of the opcode table drives TCK, so no command's meaning clocks it (log entry 71). -/

namespace Sys2Proof.Machine

/-- The TAP controller after a rise of TCK (IEEE 1149.1). -/
def tapNext (t : TapState) (tms : Bool) : TapState :=
  match t with
  | .testLogicReset => if tms then .testLogicReset else .runTestIdle
  | .runTestIdle | .updateDr | .updateIr => if tms then .selectDr else .runTestIdle
  | .selectDr => if tms then .selectIr else .captureDr
  | .captureDr | .shiftDr => if tms then .exit1Dr else .shiftDr
  | .exit1Dr => if tms then .updateDr else .pauseDr
  | .pauseDr => if tms then .exit2Dr else .pauseDr
  | .exit2Dr => if tms then .updateDr else .shiftDr
  | .selectIr => if tms then .testLogicReset else .captureIr
  | .captureIr | .shiftIr => if tms then .exit1Ir else .shiftIr
  | .exit1Ir => if tms then .updateIr else .pauseIr
  | .pauseIr => if tms then .exit2Ir else .pauseIr
  | .exit2Ir => if tms then .updateIr else .shiftIr

/-- The IDCODE: version 1 for stepping B0, part number 0x9960, manufacturer field 0x5B7 (R462). -/
abbrev jtagIdcode : BitVec 32 := 0x19960B6F

/-- Bits of a value, the least significant first. -/
def bitList {n : Nat} (v : BitVec n) : List Bool := (List.range n).map v.getLsbD

/-- The instruction that 12 bits name: all ones is BYPASS; the other codes are the BSDL file's, and every code that is none of theirs, a private
one too, responds as BYPASS (R462). -/
def jtagInstr (v : BitVec 12) : JtagInstr :=
  if v = 0xFFF then .bypass
  else if v = Config.jtagCode 0 then .idcode
  else if v = Config.jtagCode 1 then .samplePreload
  else if v = Config.jtagCode 2 then .extest
  else if v = Config.jtagCode 3 then .clamp
  else if v = Config.jtagCode 4 then .highz
  else if v = Config.jtagCode 5 then .extestPulse
  else if v = Config.jtagCode 6 then .extestTrain
  else .bypass

/-- The level of a low-speed ball that the state holds (R458): 0 RESET_N, 1 PWR_FAIL_N, 2 PCIE_PERST_N, 3 to 14 SEQ_PG, 15 to 26 SEQ_EN,
27 FAULT_N (log entry 71). -/
def ballOf (s : State) (b : Nat) : Option Bool :=
  if b = 0 then some s.seq.resetN
  else if b = 1 then some s.seq.pwrFailN
  else if b = 2 then some s.pcie.perstN
  else if b < 15 then some (s.seq.pg.getLsbD (b - 3))
  else if b < 27 then some (s.seq.enabled.any fun c => c.val == b - 15)
  else if b = 27 then some (!faultN s)
  else none

/-- The ball is an output (R458): a SEQ_EN, or FAULT_N. -/
def ballOut (b : Nat) : Bool := decide (15 ≤ b ∧ b < 28)

/-- The boundary register as a capture finds it: the levels of the BSDL file's balls (log entry 71). -/
def boundaryCapture (s : State) : List Bool :=
  Config.boundaryBalls.map fun b => (ballOf s b).getD (Config.ballLevel b s.time.toNat)

/-- What the device drives on an output ball: what its cell holds under EXTEST, its AC-coupled forms and CLAMP; nothing under HIGHZ; else what
the device itself gives it (R462, IEEE 1149.1 and 1149.6). -/
def ballDriven (s : State) (b : Nat) : Option Bool :=
  if !ballOut b then none else
  match s.jtag.instr with
  | .highz => none
  | .extest | .extestPulse | .extestTrain | .clamp =>
    ((Config.boundaryBalls.zip s.jtag.cells).find? fun e => e.1 == b).map (·.2)
  | .bypass | .idcode | .samplePreload => ballOf s b

/-- What Capture-DR loads: the data register that the instruction in force selects (IEEE 1149.1). -/
def captureDr (s : State) : List Bool :=
  match s.jtag.instr with
  | .idcode => bitList jtagIdcode
  | .samplePreload | .extest | .extestPulse | .extestTrain => boundaryCapture s
  | .bypass | .clamp | .highz => [false]

/-- Twelve bits shifted in, the first the least significant. -/
def irOf (l : List Bool) : BitVec 12 := BitVec.ofNat 12 (bitsFrom l)

/-- A rise of TCK with TMS and TDI: the JTAG port after it (R462, IEEE 1149.1). -/
def tapClock (s : State) (tms tdi : Bool) : Jtag :=
  let j := s.jtag
  let j := match j.tap with
    | .testLogicReset => { j with instr := .idcode, shift := [] }
    | .captureDr => { j with shift := captureDr s }
    | .captureIr => { j with shift := bitList (1 : BitVec 12) }
    | .shiftDr | .shiftIr => { j with shift := j.shift.drop 1 ++ [tdi] }
    | .updateDr =>
      match j.instr with
      | .samplePreload | .extest | .extestPulse | .extestTrain => { j with cells := j.shift }
      | _ => j
    | .updateIr => { j with instr := jtagInstr (irOf j.shift) }
    | _ => j
  { j with tap := tapNext j.tap tms }

/-- TDO, driven only while a register is shifted. -/
def tdo (j : Jtag) : Option Bool :=
  match j.tap with
  | .shiftDr | .shiftIr => j.shift.head?
  | _ => none

/-- TRST_N low: Test-Logic-Reset (IEEE 1149.1). -/
def tapReset (j : Jtag) : Jtag := { Jtag.initial with cells := j.cells }

end Sys2Proof.Machine
end

