-- ==== Sys2Proof/WellFormed.lean ====
section
/-! DEFINITION. Which commands are well formed: the limits that the manual puts on a command's operands and that their types do
not already hold. `exec` is total on every command; these checks say which terms stand for something the outside can send. -/

namespace Sys2Proof

/-- A request fits the request buffer of 4 KiB (R341). -/
def wfRequest (req : List Byte) : Bool := decide (req.length ≤ 4096)

/-- A bus access is of 1, 2, 4 or 8 bytes (R30: all but 4 and 8 are answered without effect). -/
def wfAccess (size : Nat) : Bool := size == 1 || size == 2 || size == 4 || size == 8

/-- A user region number (R46). -/
def wfRegion (r : BitVec 9) : Bool := decide (r.toNat < 480)

/-- Bytes of a record: its header and its data (R315). -/
def wfRecordBytes (r : Record) : Nat :=
  match r.kind with
  | .line => 72
  | .sector => 264
  | _ => 8

/-- The body of a DATA frame is of at most 8,192 bytes (R313). -/
def wfRecords (rs : List Record) : Bool := decide ((rs.map wfRecordBytes).sum ≤ 8192)

/-- The operands of a command stand within the manual's limits. -/
def Instr.wellFormed : Instr → Bool
  | .registerWrite _ size _ => wfAccess size
  | .registerReadClear _ size => wfAccess size
  | .dirtyBitmapClear rs => rs.all wfRegion
  | .poolFormatDone r => wfRegion r
  | .intentBitClear r _ => wfRegion r
  | .rekeyWalkGroup _ outs => decide (outs.length ≤ 64)
  | .data _ _ _ rs => wfRecords rs
  | .ack _ _ rs => rs.all wfRegion && decide (rs.length ≤ 64)
  | .repairReq _ pas => decide (pas.2.length ≤ 64)
  | .seedReq _ rs => rs.2.all wfRegion && decide (rs.2.length ≤ 480)
  | .resetRelease obs => obs.commitUnread.all wfRegion && decide (0 < obs.sfdp.page)
  | .regionState _ body => decide (body.2.length = 480)
  | .devInfo _ req _ | .devEcho _ req _ | .regionGet _ req _ | .regionSet _ req _ | .regionRecreate _ req _
  | .forceFail _ req _ | .tblCreate _ req _ | .tblDelete _ req _ | .tblUpdate _ req _ | .tblCommit _ req _
  | .tblAbort _ req _ | .tblQuery _ req _ | .tblInfo _ req _ | .profileSet _ req _ | .profileGet _ req _
  | .poolSet _ req _ | .poolInfo _ req _ | .queueSet _ req _ | .queueGet _ req _ | .cntClear _ req _
  | .cntInfo _ req _ | .devkeyInstall _ req _ | .devkeyZeroise _ req _ | .keyLoad _ req _ | .keyBind _ req _
  | .keyChange _ req _ | .keyUnbind _ req _ | .keyRetire _ req _ | .keyInfo _ req _ | .pstInfo _ req _
  | .pstRead _ req _ | .pstWrite _ req _ | .pstPassword _ req _ | .pstCtrRead _ req _ | .pstCtrInc _ req _
  | .evtFreeze _ req _ | .evtThaw _ req _ | .evtRead _ req _ | .evtClear _ req _ | .evtLimitSet _ req _
  | .evtLimitGet _ req _ | .dumpInfo _ req _ | .dumpRead _ req _ | .dumpRelease _ req _ | .mirPair _ req _
  | .mirUnpair _ req _ | .mirPromote _ req _ | .mirSak _ req _ | .mirSakClear _ req _ | .mirInfo _ req _
  | .mirReseed _ req _ | .fwInfo _ req _ | .fwWrite _ req _ | .fwActivate _ req _ | .fwConfirm _ req _
  | .fwRollback _ req _ | .fwToSpi _ req _ _ | .calGet _ req _ | .calSet _ req _ | .pwrInfo _ req _
  | .pwrLtrSet _ req _ | .thmSet _ req _ | .hsOppSet _ req _ => wfRequest req
  | .mbxBadOpcode _ _ req _ => wfRequest req
  | _ => true

end Sys2Proof
end

