-- ==== Sys2Proof/Tests/Slice0.lean ====
section
/-! SUPPORT. Tests: ill-formed commands that WellFormed refuses, one step of commands of every family, and for every claim states and
operands that meet its hypotheses. Expected values are taken from the manual's tables and sums, none from a run. -/

namespace Sys2Proof.Tests

open Sys2Proof Sys2Proof.Machine

-- One theorem at a time: in the package as one text, each `decide +kernel` that waits for the kernel holds a thread of its own.
set_option Elab.async false

/-- The next state has a property. -/
def after (o : Host.Outcome State Fault Refusal) (p : State → Bool) : Bool := match o with | .next t => p t | _ => false

/-- The reset state with another Tailstock. -/
def tail (q : Seq) : State := { State.reset with seq := q }

/-- The Tailstock with its supply and every rail up. -/
def seqOn : Seq :=
  { Seq.initial with vaon := true, phase := .on, pg := 0xFFF, good := 0xFFF, pwrFailN := true, resetN := true, first := false
                     enabled := [11, 10, 9, 8, 7, 6, 5, 4, 3, 2, 1, 0] }

/-- A device that is up and OPERATIONAL, as shipped. -/
def on : State :=
  { State.reset with
    seq := seqOn
    glb := { State.reset.glb with state := .operational, fwd := true, bounds := true, mbx := true, inReset := false }
    sealing := { State.reset.sealing with ready := true }
    lke := { State.reset.lke with ready := true } }

/-! ### Ill-formed commands -/

/-- A frame of the mate on mirror port 1, as a device configures it at reset. -/
def frame1 : MirFrame := { port := 1, env := ⟨0, 0, false, none, 0⟩, version := 1, fec := ⟨0, 0⟩ }

theorem test_refused_access : Instr.wellFormed (.registerWrite (.bar0 0) 3 0) = false ∧ Instr.wellFormed (.registerReadClear (.smbus 0) 16) = false := by
  decide
theorem test_refused_regions : Instr.wellFormed (.dirtyBitmapClear [0, 480]) = false ∧ Instr.wellFormed (.poolFormatDone 511) = false ∧
    Instr.wellFormed (.intentBitClear 480 0) = false ∧ Instr.wellFormed (.ack frame1 0 [480]) = false ∧
    Instr.wellFormed (.seedReq frame1 (0, [479, 480])) = false ∧
    Instr.wellFormed (.resetRelease ⟨true, true, [], ⟨true, true, true, true, true, 256⟩, [480], 20⟩) = false := by decide
theorem test_refused_lengths : Instr.wellFormed (.rekeyWalkGroup 0 (List.replicate 65 .clean)) = false ∧
    Instr.wellFormed (.data frame1 0 0 (List.replicate 32 ⟨.sector, false, false, false, 0, 0⟩)) = false ∧
    Instr.wellFormed (.regionState frame1 (0, [0])) = false ∧ Instr.wellFormed (.repairReq frame1 (0, List.replicate 65 0)) = false := by decide +kernel
theorem test_refused_requests : Instr.wellFormed (.devEcho 0 (List.replicate 4097 0) false) = false ∧
    Instr.wellFormed (.mbxBadOpcode 0 0x0B00 (List.replicate 4097 0) false) = false ∧
    Instr.wellFormed (.devEcho 0 (List.replicate 4096 0) false) = true := by decide +kernel

/-! ### The step and the whole machine -/

theorem test_step_takes_front : after (step { on with pending := [.resetNFall, .resetNRise] })
    (fun t => t.pending == [.resetNRise] && !t.seq.resetN) = true := by decide +kernel
theorem test_idle_tick : after (step on) (fun t => t.time == 1) = true ∧ on.pending = [] ∧ coreUp State.reset = false := by decide +kernel
theorem wit_state_moves : after (exec (.rdpUnlock 0) on) (fun t => !t.glb.inReset && decide (t.glb.state = .operational)) = true ∧
    powerCommand (.rdpUnlock 0) = false := by decide +kernel
theorem wit_address_map : 472 + 8 ≤ 480 ∧ lsaChannel (sectorOf 0x0080001000) = 8 * 1 + 1 := by decide
theorem wit_sealed : let s := { on with regions := [(0, { Region.shipped with slot := some 3 })]
                                        sealing := { on.sealing with keys := [(3, 7)] } }
    (sealPlan s 5).isSome = true ∧ (regionAt s 0).rekey = none ∧ fhas s.med.marks 5 = false ∧ fget s.med.marks 5 ≠ some true ∧
    fget (modMed s fun m => { m with marks := [(5, true)] }).med.marks 5 = some true ∧ Decoded.clean.step.isSome = true ∧
    isInner 0xF0000005 = true ∧ (sealPlan s 0xF0000005).isSome = true ∧ fhas s.med.marks 0xF0000005 = false ∧
    (regionAt s (lsaRegion 0xF0000005)).rekey = none ∧ isInner 5 = false ∧ (0xF0000005 : Nat) < 2 ^ 32 ∧ Decoded.clean.faithful = true ∧
    Decoded.clean.lsaOk = true := by decide +kernel
theorem wit_rate_limits : let v : Evr := { Evr.shipped with limits := [(0x0001, (16, 1000000))], windows := [(0x0001, ⟨0, 16, 0⟩)] }
    fget v.limits 1 = some (16, 1000000) ∧ fget v.windows 1 = some ⟨0, 16, 0⟩ ∧ 999999 < 0 + 1000000 ∧ 0 + 1000000 ≤ 1000000 := by
  decide +kernel

/-! ### The Tailstock -/

theorem test_delay_expiry : after (exec (.seqRailDelayExpiry 3) (tail { Seq.initial with step := .delay 3 }))
    (fun t => t.seq.enabled == [3] && decide (t.seq.step = .ramp 3)) = true := by decide +kernel
theorem wit_rail_comes_up :
    (tail { Seq.initial with step := .ramp 3, pg := 8 }).seq.step = .ramp 3 ∧ bitOf (tail { Seq.initial with pg := 8 }).seq.pg 3 = true ∧
    (let s := tail { Seq.initial with step := .settle 3, transitions := 8, todo := [4], phase := .phaseA }
     s.seq.step = .settle 3 ∧ s.seq.transitions ≤ 8 ∧ s.seq.todo = 4 :: [] ∧ s.seq.phase = .phaseA) ∧
    (let s := tail { Seq.initial with step := .settle 3, phase := .phaseB }
     s.seq.todo = [] ∧ s.seq.phase ≠ .phaseA) := by decide +kernel
theorem wit_rails_go_down : (tail { Seq.initial with step := .discharge 3, enabled := [2, 1] }).seq.enabled = 2 :: [1] ∧
    (tail { Seq.initial with step := .discharge 3 }).seq.enabled = [] ∧
    bitOf (tail { Seq.initial with step := .discharge 3, enabled := [2, 1] }).seq.lostDown (2 : Rail).val = false ∧
    bitOf (tail { Seq.initial with step := .discharge 3, enabled := [2, 1], lostDown := 4 }).seq.lostDown (2 : Rail).val = true ∧
    (3 : Rail).val < 9 ∧ bitOf Seq.initial.pg (9 : Rail).val = false ∧ bitOf ({ Seq.initial with pg := 0x200 } : Seq).pg (9 : Rail).val = true ∧
    9 ≤ (9 : Rail).val := by decide +kernel
/-- R442: with SEQ2 lost before its EN was withdrawn, the discharge of SEQ3 is followed by that of SEQ1. -/
theorem test_lost_rail_is_not_waited_for :
    after (exec (.dischargeDone 3) (tail { Seq.initial with phase := .down, step := .discharge 3, enabled := [2, 1], lostDown := 4 }))
      (fun t => decide (t.seq.step = .discharge 1) && t.seq.enabled == []) = true := by decide +kernel
theorem wit_rail_pins :
    (let s := tail { seqOn with pg := 0xFF7 }
     s.seq.vaon = true ∧ bitOf s.seq.pg 3 = false ∧ monitored s 3 = true ∧ goingDown s = false) ∧
    (let s := tail { seqOn with phase := .down }
     bitOf s.seq.pg 3 = true ∧ goingDown s = true ∧ (3 : Rail) ∈ s.seq.enabled) ∧ goingDown (tail seqOn) = false ∧ bitOf seqOn.pg 3 = true ∧
    monitored (tail { Seq.initial with vaon := true }) 3 = false := by decide +kernel
theorem wit_rail_faults :
    (let s := tail { seqOn with pg := 0xFF7 }
     (3 : Rail) ∈ s.seq.enabled ∧ bitOf s.seq.good 3 = true ∧ bitOf s.seq.pg 3 = false ∧ s.seq.phase = .on ∧ (3 : Rail).val ∉ [0, 1, 6, 7]) ∧
    (let s := tail { seqOn with pg := 0xFFE }
     (0 : Rail) ∈ s.seq.enabled ∧ bitOf s.seq.pg 0 = false ∧ (0 : Rail).val ∈ [0, 1, 6, 7]) ∧
    (tail { Seq.initial with step := .settle 3, transitions := 9 }).seq.transitions = 9 ∧
    (tail { Seq.initial with step := .ramp 3 }).seq.step = .ramp 3 := by decide +kernel
theorem wit_power_pins : State.reset.seq.vaon = false ∧ poweringUp (tail { Seq.initial with phase := .phaseA }) = true ∧
    poweringUp on = false ∧ on.seq.first = false ∧ Seq.initial.first = true ∧ Seq.initial.phase = .off ∧
    coreUp { on with seq := { seqOn with pwrFailN := false } } = true := by decide +kernel
theorem wit_commit_ends :
    commitQuiet { on with krf := { on.krf with running := some (.pwrFail, 3) } } = true ∧
    (let s := tail { seqOn with commitWait := true }
     s.seq.commitWait = true ∧ s.seq.toLatched = false ∧ s.seq.downAsked = false ∧ s.seq.pwrFailN = true) ∧
    (tail { seqOn with commitWait := true, pwrFailN := false }).seq.pwrFailN = false := by decide +kernel
theorem wit_resets_asked_for :
    (let s := tail { seqOn with resetN := false }
     s.seq.vaon = true ∧ s.seq.resetN = false ∧ s.seq.phase = .on) ∧
    (let s := tail { seqOn with resetN := false, resetSeen := true, phase := .latched }
     s.seq.phase ≠ .on ∧ s.seq.resetSeen = true ∧ s.seq.phase = .latched ∧ s.seq.pwrFailN = true) ∧
    coreUp on = true ∧ on.glb.asked = none ∧ ({ on with fw := { on.fw with resetNow := true } } : State).fw.resetNow = true ∧
    (0xC3A4 : BitVec 16) ≠ 0xC3A5 ∧ poweringUp (tail { seqOn with phase := .phaseB }) = true := by decide +kernel
theorem wit_fatal_and_boot : bitOf (hwGet on Reg.GLB_FATAL_STATUS) 2 = false ∧
    ({ on with fw := { on.fw with running := some 0 } } : State).fw.running.isSome = true ∧
    ({ on with dumps := { on.dumps with writing := true } } : State).dumps.writing = true ∧
    (let s := { on with glb := { on.glb with wdogPending := true } }
     s.glb.wdogPending = true ∧ s.seq.commitWait = false ∧ s.glb.asked = none) ∧
    (let s := tail seqOn
     s.seq.phase = .on ∧ s.glb.inReset = true ∧ s.seq.resetN = true ∧ bitOf s.glb.held.causes 4 = false) := by decide +kernel

/-- What a boot sees where everything is in order, but for some image slots. -/
def obsOf (bad : List (Fin 3)) : BootObs := ⟨true, true, bad, ⟨true, true, true, true, true, 256⟩, [], 20⟩

/-- The device about to boot, with a factory area that verifies. -/
def cold : State := { tail seqOn with pst := { State.reset.pst with factory := (sealedCopy 1 [], sealedCopy 1 []) } }
/-- The same with neither factory copy good. -/
def spoilt : State := { cold with pst := { cold.pst with factory := ({ sealedCopy 1 [] with crc := 0 }, { sealedCopy 1 [] with crc := 0 }) } }
/-- The same with a BUFFER region in the dirty-region bitmap and no commit to restore. -/
def breached : State :=
  { cold with regions := [(5, { Region.shipped with use := .buffer, slot := some 3 })], krf := { cold.krf with bitmap := [5] }
              sealing := { cold.sealing with keys := [(3, 7)] } }
/-- The state after step 1 of a boot, with the hardware-held registers given. -/
def started (s : State) (h : FMap Word64) : State := { bootStart s true with hw := h }
/-- The hardware-held registers in step 1, but for SEAL_SELFTEST. -/
def startHw (s : State) : FMap Word64 := (hwSet s Reg.GLB_RESET_CAUSE (s.glb.held.causes.setWidth 64)).hw
/-- What SEAL_SELFTEST shows of the self-test's duration, which the manual does not give. -/
def testTime : Word64 := fld (bitsOf (Config.freeWord 0) 0 16) 16
/-- The boot after step 1. -/
def bootRest (obs : BootObs) (s : State) : State :=
  let s := bootProfile (pstScan s)
  let bad := (factoryCopy s.pst).isNone
  let s := bootFirmware (if bad then bootStops (evt s Ev.PST_FACTORY_BAD noInst 0) else s) obs
  if bad ∨ s.fw.running.isNone then s else bootOn (readCommit s obs.commitUnread) obs.tierImageOk
/-- A property of the state after a boot holds if it does whether the self-test's duration is 0 or not. -/
theorem after_boot (s : State) (obs : BootObs) (P : State → Prop) (hs : s.fresh = 0) (ok : obs.selfTestOk = true)
    (h0 : P (bootRest obs (started s (fdel (startHw s) Reg.SEAL_SELFTEST))))
    (h1 : P (bootRest obs (started s (fput (startHw s) Reg.SEAL_SELFTEST testTime)))) : P (boot s obs) := by
  have e : boot s obs = bootRest obs (started s (fputD (startHw s) Reg.SEAL_SELFTEST (regReset Reg.SEAL_SELFTEST) testTime)) := by
    simp [boot, bootRest, ok, started, startHw, bootStart, hwSet, hwPut, freeNext, freeNow, hs, testTime]
  rw [e]
  unfold fputD
  split
  · exact h0
  · exact h1

theorem wit_boot : tooHot cold 20 = false ∧ cold.glb.inReset = true ∧ cold.glb.state = .boot ∧ cold.glb.fwd = false ∧
    cold.glb.bounds = false ∧ (factoryCopy cold.pst).isSome = true ∧ factoryCopy spoilt.pst = none := by decide +kernel
theorem wit_boot_good : (boot cold (obsOf [])).fw.running ≠ none ∧ (boot cold (obsOf [])).dbq.sweeping = false :=
  after_boot cold (obsOf []) (fun t => t.fw.running ≠ none ∧ t.dbq.sweeping = false) rfl rfl (by decide +kernel) (by decide +kernel)
theorem wit_boot_no_image : (boot cold (obsOf [0, 1, 2])).fw.running = none :=
  after_boot cold (obsOf [0, 1, 2]) (fun t => t.fw.running = none) rfl rfl (by decide +kernel) (by decide +kernel)
theorem wit_boot_spoilt : (boot spoilt (obsOf [])).fw.running ≠ none :=
  after_boot spoilt (obsOf []) (fun t => t.fw.running ≠ none) rfl rfl (by decide +kernel) (by decide +kernel)
theorem wit_boot_sweeps : (boot breached (obsOf [])).fw.running ≠ none ∧ (boot breached (obsOf [])).dbq.sweeping = true :=
  after_boot breached (obsOf []) (fun t => t.fw.running ≠ none ∧ t.dbq.sweeping = true) rfl rfl (by decide +kernel) (by decide +kernel)
/-- R354, R356, R449: image A fails its checks, slot B holds none, and the boot goes on to FWD_READY with the one in the flash. -/
theorem test_boot_from_flash : (boot cold (obsOf [0])).glb.state = .fwdReady ∧ (boot cold (obsOf [0])).fw.running = some 2 :=
  after_boot cold (obsOf [0]) (fun t => t.glb.state = .fwdReady ∧ t.fw.running = some 2) rfl rfl (by decide +kernel) (by decide +kernel)
theorem test_soft_reset_needs_its_key : after (exec (.glbSoftResetFull 0) on) (fun t => t.glb.asked == none && !t.glb.inReset) = true := by
  decide +kernel

/-! ### PCIe and registers -/

/-- The device with its PCIe link up. -/
def linked : State := { on with pcie := { on.pcie with linkUp := true, pba := 2 } }

theorem wit_pcie : linked.pcie.linkUp = true ∧
    (let s := { on with clk := { on.clk with pcie := { on.clk.pcie with ok := true } } }
     s.clk.pcie.ok = true ∧ s.clk.pcie.failed = false ∧ s.seq.phase = .on) ∧
    (let s := { linked with pcie := { linked.pcie with cfg := { PcieCfg.initial with busMaster := true, msixOn := true }, msix := [(1, ⟨0xFEE00000, 1, false⟩)] } }
     bitOf s.pcie.pba 1 = true ∧ vectorFree s.pcie 1 = true) ∧
    (let s := { linked with pcie := { linked.pcie with cfg := { PcieCfg.initial with d3hot := true } } }
     endpointUp s = true ∧ s.pcie.cfg.d3hot = true ∧ bitsOf (8 : BitVec 64) 0 2 = 0) ∧ linked.pcie.cfg.d3hot = false := by decide +kernel
/-- R338: in D3hot a read of BAR0 is answered as an unsupported request, with no data. -/
theorem test_d3hot_answers_nothing :
    after (exec (.registerReadClear (.bar0 0) 4) { linked with pcie := { linked.pcie with cfg := { PcieCfg.initial with d3hot := true } } })
      (fun t => t.busRead != 0x99601F7D && t.latches == linked.latches) = true := by decide +kernel
theorem wit_registers : coreUp linked = true ∧ endpointUp linked = true ∧ inWindow 0x2 = true ∧ aligned32or64 0x2 4 = false ∧
    inWindow 0xF000 = false ∧ inWindow 0xFFFFFF = false ∧ (regAt 0x10014).isSome = true ∧ fwf linked.hw = true ∧
    (regAt 0x48).map (·.width) = some 64 ∧ (regHalf 0x4C).map (fun h => (h.1, h.2.2)) = some (0x48, true) ∧
    linked.dumps.held = [] ∧ linked.seq.vaon = true ∧ sidebandReg 0x10 = some Reg.THM_STATUS ∧ sidebandReg 0x00 = some Reg.SEQ_STATUS ∧
    inSeqWindow Reg.SEQ_STATUS = true ∧ inSeqWindow Reg.THM_STATUS = false ∧ linked.seq.good.getLsbD 0 = true ∧
    ({ seqOn with good := 0xFFE } : Seq).good.getLsbD 0 = false ∧ writeFits linked 0x10014 0 = false ∧ writeFits linked 0x10014 17 = false ∧ writeFits linked 0x10014 16 = true := by decide +kernel
/-- R103: HPn_METAFRAME takes 2,048 to 16,384 in steps of 64. -/
theorem test_metaframe_limits : hpFits 0x10 2048 = true ∧ hpFits 0x10 16384 = true ∧ hpFits 0x10 2047 = false ∧
    hpFits 0x10 2080 = false ∧ hpFits 0x10 16448 = false := by decide +kernel
theorem test_register_write : after (exec (.registerWrite (.bar0 0x10014) 4 9) linked) (fun t => cfg t 0x10014 == 9) = true := by decide +kernel
theorem wit_windows : (regAt Reg.KRF_CHARGE_PEAK).map (·.width) = some 32 ∧ inWindow Reg.KRF_CHARGE_PEAK = true ∧
    0x1FFC < 0x2000 ∧ 0x1FFC % 4 = 0 ∧ (linked.mbx.all fun x => fwf x.req && !mbxBusy x) = true ∧
    mbxBusy (linked.mbx[(3 : Mbx)]) = false ∧ mbxBusy { linked.mbx[(3 : Mbx)] with state := .busy } = true ∧
    fwf linked.pcie.msix = true ∧ linked.seq.vaon = true ∧ fwf linked.latches = true ∧ fwf linked.regs = true := by decide +kernel
/-- R341: a request byte that is written is read back at its place in the window of mailbox 3. -/
theorem test_request_buffer : (let t := busWrite linked 0x86010 4 0xA1B2C3D4
    ((busRead t 0x86010 4).1, (busRead t 0x86014 4).1, (busRead t 0x84010 4).1) == (0xA1B2C3D4, 0, 0)) = true := by decide +kernel
/-- R167: the peak of the kerf charge, read, starts again from the charge held: the 256 KiB of the event-ring front (R141), 4 units
of 64 KiB. -/
theorem test_charge_peak : (let t := hwSet linked Reg.KRF_CHARGE_PEAK 1500
    let r := busRead t Reg.KRF_CHARGE_PEAK 4
    r.1 == 1500 && (busRead r.2 Reg.KRF_CHARGE_PEAK 4).1 == 4) = true := by decide +kernel
theorem test_register_outside : after (exec (.registerReadClear (.bar0 0xF000) 4) linked) (fun t => t.busRead == 0) = true := by decide +kernel

/-! ### Clocks, pace, temperature, power states -/

theorem wit_clocks :
    clkPresent on 0 = true ∧ clkPass on 0 250 = true ∧ clkPass on 0 0 = false ∧ (clkSrc on 0).failed = false ∧
    (let s := { on with clk := { on.clk with sys := { ok := true, failed := true, bad := 0, good := 99 } } }
     (clkSrc s 0).failed = true ∧ clkPass s 0 250 = true) ∧
    (let s := { on with clk := { on.clk with sys := { ok := true, failed := false, bad := 0, good := 0 } } }
     s.clk.sys.ok = true ∧ s.clk.sys.failed = false) := by decide +kernel
theorem wit_pace : governs on = true ∧ coreUp on = true ∧ on.thm.crit = false ∧
    (let s := { on with thm := { on.thm with vdd := 850, slowest := 0 } }
     s.thm.paceLow = false ∧ s.pwr.cur = 0 ∧ s.thm.vdd = 850 ∧ s.thm.slowest.toNat < floorPace s) ∧
    (let s := { on with thm := { on.thm with paceLow := true, slowest := 2400 } }
     s.thm.paceLow = true ∧ floorPace s ≤ s.thm.slowest.toNat) ∧
    ({ on with clk := { on.clk with move := some ⟨2, 1⟩ } } : State).clk.move = some ⟨2, 1⟩ := by decide +kernel
/-- R408: at a pace 1 % below 2,400 the governor adds nothing; below that it adds 5 mV. -/
theorem test_governor : governorSetting { on with thm := { on.thm with slowest := 2376, setting := 700 } } = 700 ∧
    governorSetting { on with thm := { on.thm with slowest := 2375, setting := 700 } } = 705 ∧
    governorSetting { on with thm := { on.thm with slowest := 2449, setting := 700 } } = 695 := by decide +kernel
/-- R425: at 15 °C above the threshold writes are at 10 %, reads at 40 %. -/
theorem test_throttle : pctOf 15 = 10 ∧ pctOf (15 - 5) = 40 ∧ pctOf 0 = 100 ∧ pctOf 1 = 94 := by decide
theorem wit_rate_of_rise :
    (let s (past : List Int) := { on with thm := { on.thm with temp := 20, past := past } }
     tempEarlier (s [20, 3]) = 3 ∧ tempEarlier (s (20 :: List.replicate 249 19 ++ [3, 77])) = 3 ∧ tempEarlier (s []) = 20 ∧
     64 < ((s []).thm.temp - 3) * 4 ∧ (s []).thm.alarm = false ∧ ((s []).thm.temp - 13) * 4 < 32 ∧ 32 ≤ ((s []).thm.temp - 12) * 4 ∧
     ((s []).thm.temp - 4) * 4 ≤ 64) ∧
    ({ on with thm := { on.thm with preempt := true, rate := 31 } } : State).thm.rate < 32 := by decide +kernel
theorem wit_band : let s := { on with thm := { on.thm with band := 4, temp := bandFloor 4 - hystOf on } }
    s.thm.band ≤ 4 ∧ 0 ≤ hystOf s ∧ bandFloor s.thm.band - hystOf s ≤ s.thm.temp ∧
    (s.thm.temp - 1 < bandFloor s.thm.band - hystOf s) := by decide +kernel
/-- The device with a tolerance of 20 ms and nothing to do. -/
def restful : State := { on with pwr := { on.pwr with ltrG := 20000000, ltrP := Vector.replicate 4 20000000 }, time := 100000000000 }

theorem wit_power_states :
    (nextState restful = some 1 ∧ pwrSteady restful = true ∧ idle restful = true ∧ mayEnter restful 1 = true) ∧
    (let s := { restful with pwr := { restful.pwr with cur := 2 } }
     nextState s = some 3 ∧ pwrSteady s = true ∧ idle s = true ∧ mayEnter s 3 = true ∧ drained s = true ∧
     drained { s with cnt := { s.cnt with entries := [(5, ⟨⟨1, 1⟩, 0, .good⟩)] } } = false) ∧
    causeHolds { on with thm := { on.thm with coldHold := true } } .coldHold = true ∧
    (let s := { restful with pwr := { restful.pwr with cur := 2 }
                             med := { restful.med with reqs := [⟨0, 0, .scrub, false, 0, .refresh, .raised, none, 0, [], [], 0, 0⟩] } }
     pwrSteady s = true ∧ 2 ≤ s.pwr.cur.val ∧ workWaits s = true) ∧
    (let s := { restful with pwr := { restful.pwr with excursion := some (2, false) } }
     coreUp s = true ∧ idle s = true ∧ excursionOver s false = true) := by decide +kernel
theorem wit_store_and_recorder :
    (let s := { on with pst := { on.pst with ready := true }, evr := { on.evr with ready := true } }
     coreUp s = true ∧ s.pst.ready = true ∧ s.evr.ready = true ∧ s.evr.frozen = false) ∧
    ({ on with evr := { on.evr with frozen := true } } : State).evr.frozen = true ∧ (0 : BitVec 16) ≠ 0x5A3C := by decide +kernel
theorem wit_counter_units : on.pmc[(1 : PmcUnit)].en = false ∧
    (let p : Pmc := { Pmc.initial with en := true, cnt := Vector.replicate 8 0xFFFFFFFFFFFF }
     let s := { on with pmc := Vector.replicate 6 p }
     s.pmc[(1 : PmcUnit)].en = true ∧ s.pmc[(1 : PmcUnit)].cnt[(0 : Fin 8)] = 0xFFFFFFFFFFFF ∧
     bitOf s.pmc[(1 : PmcUnit)].cfg[(7 : Fin 8)] 13 = false) := by decide +kernel

/-! ### Host ports -/

/-- A host port that is up. -/
def portUp : Port :=
  { Port.initial with fitted := true, signal := true, cwLock := true, wordLock := 0xFF, mfLock := 0xFF, linkUp := true, session := 1 }

/-- The device with every host port enabled and up. -/
def open4 : State := { on with ports := Vector.replicate 4 portUp, regs := [(0x10000, 1), (0x11000, 1), (0x12000, 1), (0x13000, 1)]
                               clk := { on.clk with hp := { ok := true, failed := false, bad := 0, good := 0 } } }

theorem wit_host_links :
    portRuns open4 1 = true ∧ open4.ports[(1 : HPort)].signal = true ∧ open4.ports[(1 : HPort)].cwLock = true ∧
    open4.ports[(1 : HPort)].wordLock = 0xFF ∧ open4.ports[(1 : HPort)].mfLock = 0xFF ∧ open4.ports[(1 : HPort)].linkUp = true ∧
    (let s := { open4 with ports := Vector.replicate 4 { portUp with linkUp := false } }
     s.ports[(1 : HPort)].linkUp = false ∧ portRuns s 1 = true ∧ s.ports[(1 : HPort)].mfLock = 0xFF) ∧
    cfgFld open4 (Reg.HP_CAL 1) 0 5 = portUp.calLen ∧ 0 < portUp.calLen ∧ portUp.calRx = none ∧ portUp.cwLock = true ∧
    bitOf open4.ports[(1 : HPort)].wordLock 7 = true ∧ cfgBit open4 (Reg.HP_CTRL 1) 1 ≠ true ∧ open4.ports[(1 : HPort)].fitted = true := by
  decide +kernel
theorem wit_link_loss : let x : HostCmd := acceptedCmd open4 (slotted .nop 1 0 7 0 0 0 0)
    let s := { open4 with cmds := [x] }
    s.ports[(1 : HPort)].linkUp = true ∧ x ∈ s.cmds ∧ answeredAt 1 x = false := by decide +kernel
theorem wit_delimited : let x : WireCmd := ⟨0xFF, 1, 3, 0, 0, List.replicate 64 9⟩
    x.fits = true ∧ slotLength x.bytes = some 80 ∧ slotLength (x.bytes.take 15) = none := by decide +kernel
theorem wit_arrival :
    arrival open4 (slotted .rd64 1 0 7 0 64 0 0) = some 0 ∧
    arrival { open4 with glb := { open4.glb with state := .commit } } (slotted .rd64 1 0 7 0 64 0 0) = some 5 ∧
    arrival on (slotted .rd64 1 0 7 0 64 0 0) = none ∧
    (let b : Burst := ⟨true, true, List.replicate 16 0, false, false, false, .clean⟩
     b.fecBad = false ∧ b.crcBad = false ∧ b.ctrlBad = false ∧ b.sop = true ∧ b.bytes.length ≤ 256 ∧ b.bytes.length % 16 = 0) ∧
    loopedBack open4 1 = false ∧
    (let w : OpenPacket := { OpenPacket.start with len := 4080 }
     fget ({ portUp with packets := [(0, w)] } : Port).packets 0 = some w ∧ w.dropping = none ∧ w.len + 16 ≤ 4096 ∧ (w.len + 16) % 16 = 0) ∧
    fget open4.ports[(1 : HPort)].packets 0 = none := by decide +kernel
/-- R89: the first entry of a calendar word is its highest bit, and 0 holds the channel up. -/
theorem test_calendar_word : (calendarIn { portUp with calLen := 1 } ⟨true, 0x7FFF⟩).hostXoff.getLsbD 0 = true ∧
    (calendarIn { portUp with calLen := 1 } ⟨true, 0x7FFF⟩).hostXoff.getLsbD 1 = false := by decide +kernel
/-- R100, R103: a burst that an uncorrectable codeword touched is discarded, and the codewords are counted. -/
theorem test_uncorrectable_burst : after (exec (.burstReceived 1 0
      ⟨true, true, List.replicate 16 0, true, false, false, { LineSeen.clean with uncorrCw := 2 }⟩) open4)
    (fun t => hwGet t (Reg.HP_FEC_UNCORR_CW 1) == 2 && (t.ports[(1 : HPort)]).packets.isEmpty) = true := by decide +kernel
theorem wit_host_row : hostRow (.rd64 1 0 7 0 64) = some (slotted .rd64 1 0 7 0 64 0 0) := rfl
/-- Region 0 for general use and region 1 for counters, all rights on every port, with a staged sector in each. -/
def stocked : State :=
  { open4 with
    regions := [(0, { Region.shipped with use := .general, rights := 0xFFF, slot := some 0 }),
                (1, { Region.shipped with use := .counter, rights := 0xFFF, slot := some 0 })]
    krf := { open4.krf with slots := [(2, ⟨.dirty, .good, 0x1122, [], 0, false, false, false, none, [], [], 0⟩),
                                      (3, ⟨.poisoned, .good, 0, [], 0, false, false, false, none, [], [], 0⟩),
                                      (8388608, ⟨.dirty, .good, 5, [], 0, false, false, false, none, [], [], 0⟩)] } }

theorem wit_port_open : portOpen stocked 1 = true ∧ calm stocked = true := by decide +kernel
theorem wit_refused_commands :
    malformed (acceptedCmd stocked (slotted .rd64 1 0 7 0 65 0 0)) = some 4 ∧
    malformed (acceptedCmd stocked (slotted .rd64 1 0 7 1 64 0 0)) = some 2 ∧
    malformed (acceptedCmd stocked (slotted .wrm64 1 0 7 1 64 0 0)) = some 5 ∧
    malformed (acceptedCmd stocked (slotted .rd64 1 0 7 0 64 0 0)) = none ∧
    inUser 0xF000000000 = false ∧ inUser 0xEFFFFFFFC0 = true ∧
    rightNeeded .counter .rd64 = none ∧ rightNeeded .general .rd64 = some 0 ∧
    holdsRight stocked 1 (regionAt stocked 0) 0 = true ∧ holdsRight stocked 1 Region.shipped 0 = false ∧
    (0x12 : BitVec 8).toNat ∉ [0x00, 0x01, 0x10, 0x11, 0x18, 0x19, 0x1A, 0x20, 0x21, 0x22, 0x23, 0x30, 0x40, 0x41, 0x42, 0x43, 0x50, 0x51] := by
  decide +kernel
theorem wit_staged_sectors : permits stocked 1 0x240 .general 0 = true ∧ permits stocked 1 0x240 .general 1 = true ∧
    permits stocked 1 0x208 .general 2 = true ∧ sectorOf 0x240 = 2 ∧ (slotAt stocked 2).map Slot.holds = some true ∧
    (slotAt stocked 3).map (fun y => decide (y.state = .poisoned)) = some true ∧ permits stocked 1 0x300 .general 1 = true := by decide +kernel
/-- The same with the bits of both regions set. -/
def missing : State := { stocked with krf := { stocked.krf with bitmap := [0, 1] } }
/-- A request for sector 4 of channel 0 that prefetches it. -/
def prefetching : MedReq := ⟨7, 0, .pref, false, 4, .prefetch, .running, none, 0, [], [], 0, 0⟩

theorem wit_misses : uncached missing 4 = true ∧ slotAt missing 4 = none ∧ mayReserve missing 256 = true ∧ slotFree missing = true ∧
    missing.krf.bitmap.contains (regionOf 0x400) = true ∧ permits missing 1 0x400 .general 0 = true ∧
    permits missing 1 0x400 .general 1 = true ∧ permits missing 1 0x400 .general 2 = true ∧ portOpen missing 1 = true ∧
    ((cacheProbe { missing with rdp := { missing.rdp with cache := [(0, ⟨4, 9, .ordinary, 0⟩)] } } .hrd 4).map (·.1)) = some 9 ∧
    (let s := { missing with med := { missing.med with reqs := [prefetching] } }
     prefetchOf s 4 = some prefetching ∧ (cacheProbe s .hrd 4).isNone = true ∧ prefetching.state ≠ .raised ∧ slotAt s 4 = none) ∧
    (let y : Slot := ⟨.clean, .good, 5, [], 0, false, false, false, none, [], [], 0⟩
     slotAt { missing with krf := { missing.krf with slots := [(4, y)] } } 4 = some y ∧ y.ecc = .good ∧ y.state = .clean) := by decide +kernel
/-- R116, R181: a read that finds its sector nowhere waits, and the medium is asked for that sector. -/
theorem test_rd64_misses : after (exec (.rd64 1 0 7 0 0x400) missing)
    (fun t => t.cmds.map (·.stage) == [.medium] && t.med.reqs.map (·.lsa) == [4]) = true := by decide +kernel
/-- R146: a partial write of it waits in a FETCHING slot. -/
theorem test_wr64_fetches : after (exec (.wr64 1 0 7 1 0x400 5) missing)
    (fun t => t.cmds.map (·.stage) == [.slotQueue] && (slotAt t 4).map (·.state) == some .fetching) = true := by decide +kernel
theorem test_rd64_of_staged : after (exec (.rd64 1 0 7 0 0x200) stocked)
    (fun t => (t.cmds.map (·.resp)) == [some (Resp.okData 4 0 0x1122)]) = true := by decide +kernel
theorem test_fadd64_wraps : after (exec (.fadd64 1 0 7 0 0x200 0xFFFFFFFFFFFFFFFF) stocked)
    (fun t => (slotAt t 2).map (·.data) == some 0x1121 && (t.cmds.map (·.resp)) == [some (Resp.okData 0 0x1122 0)]) = true := by decide +kernel
theorem test_cswap64_differs : after (exec (.cswap64 1 0 7 1 0x200 1 9) stocked)
    (fun t => (slotAt t 2).map (·.data) == some 0x1122) = true := by decide +kernel
/-- R118: byte i of the line is written where OPERAND[i] is 1. -/
theorem test_wrm64_mask : after (exec (.wrm64 1 0 7 1 0x200 2 0xFFFF) stocked)
    (fun t => (slotAt t 2).map (·.data) == some 0xFF22) = true := by decide +kernel
theorem wit_counter_commands : permits stocked 1 0x80000010 .counter 1 = true ∧ permits stocked 1 0x80000010 .counter 0 = true ∧
    counterBad stocked (sectorOf 0x80000010) = false ∧
    counterBad { stocked with cnt := { stocked.cnt with poison := [(8388608, ())] } } 8388608 = true ∧
    (let s := { stocked with cnt := { stocked.cnt with entries := [(pairOf 0x80000010, ⟨⟨1, 2⟩, 0, .good⟩)] } }
     portOpen s 1 = true ∧ fget s.cnt.entries (pairOf 0x80000010) = some ⟨⟨1, 2⟩, 0, .good⟩ ∧
     fget { stocked.cnt with entries := [(pairOf 0x80000010, ⟨⟨1, 2⟩, 0, .double⟩)] }.entries (pairOf 0x80000010) =
       some ⟨⟨1, 2⟩, 0, .double⟩) ∧
    (permits missing 1 0x80000400 .counter 0 = true ∧ permits missing 1 0x80000400 .counter 1 = true ∧ mayReserve missing 16 = true ∧
     counterBad missing (sectorOf 0x80000400) = false ∧ fget missing.cnt.entries (pairOf 0x80000400) = none ∧
     wayFree missing (pairOf 0x80000400) = true ∧ missing.krf.bitmap.contains (regionOf 0x80000400) = true ∧
     uncached missing (sectorOf 0x80000400) = true ∧ slotAt missing (sectorOf 0x80000400) = none ∧
     (cacheProbe { missing with rdp := { missing.rdp with cache := [(384, ⟨8388612, 9, .ordinary, 0⟩)] } } .ctr 8388612).isSome = true) := by
  decide +kernel
/-- The device with profile 0 for port 1, no step and a key of 4 bytes. -/
def lookingUp : State :=
  { stocked with lke := { stocked.lke with cur := { stocked.lke.cur with profiles := [(0, BitVec.ofNat 512 (2 * 2 ^ 16 + 4 * 2 ^ 32))] } }
                 regs := stocked.regs ++ [(0x30000, 0xFFFF)] }

theorem wit_lookups :
    let x := slotted .lkup 1 0 7 0 0 0 0
    fget stocked.lke.cur.profiles (lkupProfile (acceptedCmd stocked x)) = none ∧ portOpen lookingUp 1 = true ∧
    (fget lookingUp.lke.cur.profiles (lkupProfile (acceptedCmd lookingUp x))).any (fun f =>
      bitOf (byteOf f 2) 1 && !bitOf (byteOf f 2) 0 && decide (profSteps f ≤ 4) && (evalLkup lookingUp.lke.cur f (acceptedCmd lookingUp x)).isEmpty) ∧
    (pickEngine lookingUp).isSome = true ∧ enginesFull lookingUp = false ∧
    enginesFull { lookingUp with lke := { lookingUp.lke with
      failed := (List.range 15).map fun k => (k + 1, 1), jobs := List.replicate 64 ⟨1000, 0, 0, 0, []⟩ } } = true := by decide +kernel
/-- Queue 5 of every port, with its configuration. -/
def queue5 : Queue := { Queue.initial with enable := true, enqPorts := 15, deqPorts := 15, maxChunks := 100, charged := true }

theorem wit_queues :
    (let s := { stocked with dbq := { stocked.dbq with queues := [(5, queue5)] } }
     portOpen s 1 = true ∧ qidOf 5 = 5 ∧ (queueAt s 5).error = false ∧ (queueAt s 5).enable = true ∧ bitOf (queueAt s 5).deqPorts 1 = true ∧
     (queueAt s 5).packets = [] ∧ (queueAt s 5).opened = none ∧ (∀ w : Fin 3, (queueAt s 5).ecc[w] = .good)) ∧
    (queueAt stocked 5).enable = false ∧
    (let s := { stocked with dbq := { stocked.dbq with queues := [(5, { queue5 with deqPorts := 0 })] } }
     (queueAt s 5).enable = true ∧ bitOf (queueAt s 5).deqPorts 1 = false) := by decide +kernel
theorem wit_waiting_commands :
    (let x := { acceptedCmd stocked (slotted .fence 1 0 7 0 0 0 0) with stage := .waiting }
     (fenceReady { stocked with cmds := [x] } 1 0).isSome = true) ∧
    (let x := { acceptedCmd stocked (slotted .persist 1 0 7 0 0 0 0) with stage := .waiting }
     (persistReady { stocked with cmds := [x] } 1 0 7).isSome = true) ∧
    (let x := { acceptedCmd stocked (slotted .wr64 1 0 7 1 0x200 0 0) with stage := .throttled }
     (heldAt { stocked with cmds := [x] } 1 0 .throttled).isSome = true ∧
     (heldAt { stocked with cmds := [{ x with stage := .rested }] } 1 0 .rested).isSome = true) ∧
    (let x := { acceptedCmd stocked (slotted .nop 1 0 7 0 0 0 0) with stage := .answered, resp := some (Resp.plain .ok 0) }
     let s := { stocked with cmds := [x] }
     (responseAt s 1 0 7).isSome = true ∧ packetFor s 1 0 [7] = some ⟨[7], [0], 0, false⟩ ∧ (nextBurst s ⟨[7], [0], 0, false⟩).length = 16 ∧
     maySend s 1 0 16 = true ∧ txLimited stocked 1 = false) ∧
    (let x := { acceptedCmd stocked (slotted .wr64 1 0 7 1 0x200 0 0) with stage := .charge }
     let s := { stocked with cmds := [x], krf := { stocked.krf with waiters := [.cmd 0] } }
     s.krf.waiters = .cmd 0 :: [] ∧ leftLine s (askAgain { s with krf := { s.krf with waiters := [] } } (.cmd 0)) (.cmd 0) = true ∧
     (let t := { s with cmds := [{ x with addr := 0x400 }, { x with id := 1, reserved := 2 ^ 30 }], krf := { s.krf with bitmap := [0] } }
      leftLine t (askAgain { t with krf := { t.krf with waiters := [] } } (.cmd 0)) (.cmd 0) = false)) := by decide +kernel

/-! ### Kerf buffer, arbiters, read path -/

/-- A request of channel 0 for sector 0, whose blank answers. -/
def request (c : Machine.Class) (program : Bool) (p : Purpose) (st : MedState) : MedReq :=
  ⟨7, 0, c, program, 0, p, st, none, 0, [], [], 0, 0⟩

/-- The device with some requests at the medium. -/
def asking (qs : List MedReq) : State := { stocked with med := { stocked.med with reqs := qs } }

/-- R222: a controller that serves two channels, whose turn is the other one's. -/
def twoChannels : State :=
  let s := asking [request .hrd false .prefetch .raised, { request .hrd false .prefetch .raised with id := 8, ch := 1 }]
  modMed (modChan (modChan s 0 fun c => { c with server := 64 }) 1 fun c => { c with server := 64 }) fun m => { m with turns := [(64, 0)] }

theorem wit_kerf :
    (let s := { on with krf := { on.krf with bitmapAsk := [479, 0], bitmap := [3] } }
     s.krf.bitmapAsk ≠ [] ∧ mergeRegions s.krf.bitmap s.krf.bitmapAsk = [0, 3, 479] ∧ regionCharged stocked 0 = true ∧
     regionCharged stocked 479 = false) ∧
    (let s := { asking [request .kfetch false .fetch .running] with
                krf := { stocked.krf with slots := [(0, ⟨.fetching, .good, 0, [], 0, false, false, false, none, [], [], 0⟩)] } }
     (fetchOf s 0).any (blankAnswers s) = true ∧ (slotAt s 0).any (fun x => decide (x.state = .fetching)) = true) ∧
    ({ on with thm := { on.thm with coldHold := true } } : State).thm.coldHold = true ∧ on.thm.coldHold = false ∧
    (slotAt { on with krf := { on.krf with slots := [(4, ⟨.draining, .good, 5, [], 0, false, false, true, none, [], [], 0⟩)] } } 4).any
      (fun x => decide (x.state = .draining) && x.rewritten) = true ∧ fwf stocked.krf.slots = true ∧
    (slotAt stocked 3).any (fun x => decide (x.state = .poisoned)) = true ∧
    (slotAt stocked 2).any (fun x => decide (x.state = .dirty)) = true ∧ canonical on = true ∧
    bitsOf (hwGet on Reg.KRF_DIRTY_MAX) 0 11 ≤ 2047 := by decide +kernel
theorem wit_grants :
    medAwake on = true ∧ (chanAt (grantRule (wakeBanks on 3) 3) 3).arb.holder = none ∧ pickClass on 3 = none ∧ turnOf on 3 = true ∧
    (servedBy twoChannels 64 = [0, 1] ∧ turnOf twoChannels 0 = false ∧ turnOf twoChannels 1 = true) ∧
    (let s := { stocked with regs := fput stocked.regs Reg.ARB_RANK_ACTIVE 0 }
     cutter s 2 = none ∧ (classRank s 2 .drain = 0 → cutDrain s 2 = (drainQueue s 2).head?)) ∧
    (let r : Word64 := 0x777770777777
     let u := modChan stocked 0 fun c => { c with arb := { c.arb with holder := some ⟨.scrub, 0, r⟩, ranks := r } }
     let s := { u with krf := { u.krf with slots := [(2, ⟨.dirty, .good, 5, [], 0, true, false, false, none, [], [], 0⟩)] } }
     let t := addReq s .drain true 2 .drain
     cutter s 0 = none ∧ cutDrain s 0 = some 2 ∧ (cutter t 0).any (cutNeeded t 0) = true ∧ medAwake t = true ∧ cfgBit t Reg.ARB_CTRL 0 = true) ∧
    (let s := asking [request .scrub false .refresh .raised, request .hrd false .prefetch .raised]
     pickClass s 0 = some .hrd ∧ hasRequest s 0 .scrub = true) ∧
    (let q := request .hrd false .prefetch .raised
     let s := modChan (asking [q]) 0 fun c => { c with arb := { c.arb with holder := some ⟨.scrub, 0, c.arb.ranks⟩ } }
     (cutter s 0 = some q ∧ cfgBit s Reg.ARB_CTRL 0 = true ∧ cutNeeded s 0 q = true)) ∧
    (let s := asking [request .pref false .prefetch .running]
     (reqAt s 7).any (fun q => decide (q.state = .running) && !q.program && decide (q.purpose ≠ .fetch) && blankAnswers s q) = true) ∧
    (let s := asking [request .drain true .refresh .running]
     (reqAt s 7).any (fun q => decide (q.state = .running) && q.program && blankAnswers s q) = true) ∧
    fwf on.med.channels = true ∧ fwf on.hw = true := by decide +kernel
/-- R181: of two classes of one rank the one after the class last granted goes first. -/
theorem test_round_robin :
    (let s := asking [request .hrd false .prefetch .raised, request .lkr false .prefetch .raised]
     pickClass (modChan s 0 fun c => { c with arb := { c.arb with last := [(0, .hrd)] } }) 0) = some .lkr := by decide +kernel
theorem wit_locks :
    on.rdp.lock = none ∧ ({ on with rdp := { on.rdp with lock := some ⟨0, false⟩ } } : State).rdp.lock ≠ none ∧
    0xF0000000 ≤ (0xF0000000 : BitVec 32).toNat ∧ (0xEFFFFFFF : BitVec 32).toNat < 0xF0000000 ∧
    (regionAt on 0).use = .none ∧ (regionAt stocked 0).use = .general ∧ (regionAt stocked 0).lost = false ∧
    isMarked stocked 3 = true ∧ cacheFind on 0 = none ∧
    (let s := { stocked with rdp := { stocked.rdp with cache := (List.range 32).map fun k => (k, ⟨BitVec.ofNat 32 (1024 + k), 0, .locked, 0⟩) } }
     heldWays s (lsaChannel 4) = 32 ∧ isMarked s 4 = false ∧ (regionAt s (lsaRegion 4)).use = .general) := by decide +kernel
theorem wit_invalidations :
    (let s := { on with rdp := { on.rdp with
                  invals := [⟨0, 9, false⟩, ⟨4, 4, true⟩], cache := [(0, ⟨4, 0, .ordinary, 0⟩), (1, ⟨5, 0, .locked, 0⟩)] } }
     s.rdp.invals = ⟨0, 9, false⟩ :: [⟨4, 4, true⟩] ∧ (invalidate s 0 9 false).rdp.cache = [(1, ⟨5, 0, .locked, 0⟩)] ∧
     (invalidate s 5 9 true).rdp.cache = [(0, ⟨4, 0, .ordinary, 0⟩)]) ∧
    ({ on with rdp := { on.rdp with invals := [⟨0, 9, false⟩] } } : State).rdp.invals = ⟨0, 9, false⟩ :: [] ∧
    (let s := { on with rdp := { on.rdp with side := [(0, [⟨4, 9⟩, ⟨20, 9⟩])] } }
     fwf s.rdp.side = true ∧ sideOf s 0 ≠ [] ∧ (sideOf (invalidate s 0 9 false) 0).map (·.lsa) = [20]) := by decide +kernel

/-! ### The medium -/

theorem wit_scrub : stepRuns on 8 = true ∧ cfgBit on (Reg.BLK_CTRL 1) 0 = true ∧ lsaChannel 0x800000 = 8 ∧
    scrubSkips on 0x800000 = false ∧ scrubNext on 8 0x800000 = true ∧ scrubRuns on 8 0x800000 = true ∧ scrubNext on 0 0xF0000000 = true ∧
    scrubRuns on 0 0xF0000000 = true ∧ scrubSkips on 0xF0000000 = true ∧ scrubNext (modChan on 8 fun c => { c with scrubAt := 0x800001 }) 8 0x800000 = false ∧
    scrubSkips { on with sealing := { on.sealing with held := [0x800000] } } 0x800000 = true ∧ stepRuns stocked 2 = true ∧
    (([2, 3, 4].all fun n => !scrubSkips (slotCheck stocked n) n) = true) ∧
    (slotAt (stepGrant (slotCheck stocked 2) .scrub 2 [2]) 2).any (fun x => decide (x.state = .dirty)) = true ∧
    (slotAt (stepGrant (slotCheck stocked 3) .scrub 2 [3]) 3).any (fun x => decide (x.state = .poisoned)) = true ∧
    slotAt (stepGrant (slotCheck stocked 4) .scrub 2 [4]) 4 = none ∧ fwf stocked.med.channels = true := by decide +kernel
/-- R211: after a warm reset a pass takes 512 samples, at most one of each 2 MiB of its channel. -/
theorem wit_settling_pass :
    let s := { on with glb := { on.glb with held := { kind := .warm, causes := 4 } } }
    let samples := (List.range 512).map fun k => BitVec.ofNat 32 (k / 128 * 8 * 2 ^ 23 + k % 128 * 65536)
    passRuns s 0 samples = true ∧ samplesFit s 0 samples (List.replicate 512 .clean) = true ∧
    samplesFit s 0 (List.replicate 512 0) (List.replicate 512 .clean) = false ∧ samplesFit s 0 [] [] = false := by decide +kernel
theorem wit_levels : (⟨0, 0, 0, 0, 0⟩ : Domain).gap ≤ domainSectors ∧ (⟨domainSectors - 1, domainSectors, 0, 0, 0⟩ : Domain).start < domainSectors ∧
    gapMoved ⟨5, 0, 0, 0, 0⟩ = ⟨6, domainSectors, 0, 0, 0⟩ := by decide +kernel
theorem wit_guard_and_settling : guardDue { on with glb := { on.glb with powerOns := 255 } } (chanAt on 0) = true ∧
    (chanAt on 0).guard = false ∧ ({ on with glb := { on.glb with bounds := false } } : State).glb.state ≠ .boot ∧
    settledOrLost on 63 = false ∧ coreUp on = true ∧ on.glb.state ≠ .boot ∧
    (let s := { on with glb := { on.glb with bounds := false, state := .fwdReady }
                        med := { on.med with blanks := Vector.replicate 8 { BlankS.initial with state := .failed } } }
     s.glb.bounds = false ∧ (List.range 64).all (settledOrLost s) = true) := by decide +kernel
/-- R186: an input at its HARD threshold. -/
theorem wit_steady_rest : (restThresholds on 0).2.2 ≤ (restThresholds on 0).1 ∧ (restThresholds on 0).1 ≤ (restThresholds on 0).2.1 ∧
    (restInputs on).length = 4 ∧ (restLevel on).1 = .none := by decide +kernel
theorem wit_controllers : holdsWork (asking [request .pref false .prefetch .running]) 0 = true ∧ on.glb.state = .operational ∧
    State.reset.glb.state ≠ .operational ∧ (5 : Mch) ∈ ({ on with med := { on.med with failed := [5] } } : State).med.failed ∧
    (71 : Mch) ∉ on.med.failed ∧ servedBy on 71 = [] := by decide +kernel
theorem wit_blanks :
    (on.med.blanks[(3 : Fin 8)]).die = none ∧ (on.med.blanks[(3 : Fin 8)]).state = .normal ∧
    (let s := modBlank on 3 fun v => { v with die := some 17, state := .outage, resets := 1 }
     (s.med.blanks[(3 : Fin 8)]).die = some 17 ∧ (s.med.blanks[(3 : Fin 8)]).state = .outage ∧ (s.med.blanks[(3 : Fin 8)]).resets < 2) ∧
    (let s := modBlank on 3 fun v => { v with state := .failed, hwOk := true }
     (s.med.blanks[(3 : Fin 8)]).state = .failed ∧ (s.med.blanks[(3 : Fin 8)]).hwOk = true ∧ (s.med.blanks[(3 : Fin 8)]).down = false) ∧
    ((modBlank on 3 fun v => { v with state := .failed, hwOk := true, down := true }).med.blanks[(3 : Fin 8)]).down = true ∧
    (let x := acceptedCmd stocked (slotted .rd64 1 0 7 0 0x240 0 0)
     let s := { stocked with cmds := [{ x with stage := .medium }], rdp := { stocked.rdp with lock := some ⟨4, false⟩ } }
     (s.cmds.filter (waitsOn 0)).length = 1 ∧ x.origin = .stream 1 0 ∧ (cmdAt s x.id).any (·.op.isPa) = true ∧ inBlank 0 4 = true ∧
     inBlank 1 4 = false ∧ fwf s.hw = true ∧ fwf s.regions = true ∧ s.med.blanks[(0 : Fin 8)].state ≠ .failed) ∧
    2 ≤ ((modBlank on 3 fun v => { v with state := .outage, resets := 2 }).med.blanks[(3 : Fin 8)]).resets ∧
    (let s := { stocked with cmds := [] }
     s.med.blanks[(0 : Fin 8)].state ≠ .failed ∧ fwf s.regions = true ∧ s.mir.pairId = none ∧ s.cmds = [] ∧ s.rdp.lock = none) := by
  decide +kernel
/-- R224: a blank's first two resets without an answer leave it in outage. -/
theorem test_blank_reset : after (exec (.blankResetTimeout 3 false) (modBlank on 3 fun v => { v with state := .outage, resets := 1 }))
    (fun t => (t.med.blanks[(3 : Fin 8)]).resets == 2) = true := by decide +kernel

/-! ### Re-keys, lookups, queues, counters -/

theorem wit_rekeys :
    (let s := { on with regions := [(9, { Region.shipped with slot := some 3, forcedWait := true })] }
     freeUnit s = some 0 ∧ nextForced s = some (9, 3) ∧ s.glb.state.serves = true) ∧
    (let k : Rekey := ⟨3, 1, 0, 0, 0, false⟩
     let s := { on with regions := [(9, { Region.shipped with slot := some 3, rekey := some k })]
                        sealing := { on.sealing with keys := [(3, 7)], units := Vector.replicate 4 (some 9) } }
     s.sealing.units[(2 : Fin 4)] = some 9 ∧ (regionAt s 9).rekey = some k ∧ slotKey s (regionAt s 9).slot = some 7 ∧
     walkRuns s 9 k = true ∧ k.parting + 64 < regionSectors ∧ fwf s.regions = true ∧ regionSectors ≤ (regionSectors - 64) + 64 ∧
     64 ≤ (List.replicate 64 ReadOutcome.clean).length) := by
  decide +kernel
theorem wit_engines : coreUp on = true ∧ on.glb.state.serves = true ∧ on.glb.state = .operational ∧ fhas on.lke.failed 4 = false ∧
    (let s := { on with lke := { on.lke with failed := [(4, 1)] }, glb := { on.glb with state := .fwdReady } }
     fhas s.lke.failed 4 = true ∧ fhas s.lke.failed 5 = false ∧ s.glb.state ≠ .operational) ∧ inFlight { on with lke := { on.lke with jobs := [⟨1, 4, 0, 0, []⟩] } } 4 ≠ 0 ∧
    (let s := { on with lke := { on.lke with commit := some ⟨2, []⟩ } }
     s.lke.commit = some ⟨2, []⟩ ∧ s.lke.prev = none) := by decide +kernel
theorem wit_pool :
    (let s := { on with regions := [(5, { Region.shipped with use := .buffer, formatting := true })] }
     (regionAt s 5).formatting = true ∧ (regionAt s 5).use = .buffer ∧ (regionAt s 5).lost = false ∧ programsRun s = true) ∧
    (let s := { on with dbq := { on.dbq with sweeping := true, pool := [(5, ⟨true, true, [0, 7]⟩)], queues := [(131071, queue5)] } }
     s.dbq.sweeping = true ∧ nextSweep { s with dbq := { s.dbq with sweepAt := 6 * linkSectors } } = none ∧ fhas s.dbq.pool 5 = true ∧ (7 ∈ (poolAt s 5).used) ∧
     (queueAt s 131071).charged = true ∧ s.krf.running = none ∧ (regionAt s 5).lost = false) ∧ programsRun on = true := by decide +kernel
/-- A sector of counters with a delta, at pair 0 of sector 8,388,608. -/
def counting : State := { stocked with cnt := { stocked.cnt with entries := [(pairBase 8388608, ⟨⟨1, 64⟩, 0, .good⟩)] } }

theorem wit_folds : foldsRun counting = true ∧ sectorEntries counting 8388608 ≠ [] ∧ foldOf counting 8388608 = none ∧
    (let j : FoldJob := ⟨[(pairBase 8388608, ⟨1, 64⟩)], some 0, true⟩
     let s := { counting with cnt := { counting.cnt with folds := [(8388608, j)] } }
     foldOf s 8388608 = some j ∧ j.value = some 0 ∧ fwf j.snapshot = true ∧ fhas counting.cnt.entries (pairBase 8388608) = true ∧
     pairSector (pairBase 8388608) = 8388608 ∧ fwf s.krf.slots = true ∧ fwf s.cnt.folds = true ∧
     (foldOf (entriesCheck (slotCheck s 8388608) 8388608) 8388608).isSome = true ∧
     (slotAt (entriesCheck (slotCheck s 8388608) 8388608) 8388608).any (·.charged) = true ∧
     (foldOf (entriesCheck (slotCheck s 4) 4) 4).isNone = true ∧
     (let u := { s with krf := { s.krf with slots := [] }, sealing := { s.sealing with keys := [(0, 7)] } }
      (foldOf (entriesCheck (slotCheck u 8388608) 8388608) 8388608).isSome = true ∧ slotAt u 8388608 = none ∧
      (sealPlan (cacheWrite u 8388608 (addDeltas 0 j.snapshot)) 8388608).isSome = true)) := by decide +kernel
/-- R126, R262: the open packet of stream 1, channel 0 on queue 5 ends in a sector with 100 bytes. -/
theorem wit_queue_data :
    (let pk : Packet := ⟨0, 100, true, [(2, 100)]⟩
     let s := { stocked with
       dbq := { stocked.dbq with queues := [(5, { queue5 with opened := some (pk, streamOf 1 0), chunks := [2] })]
                                 pool := [(0, ⟨true, true, [0]⟩)], bitRegion := some 0, low := false }
       krf := { stocked.krf with bitmap := [0] }
       regions := fput stocked.regions 0 { Region.shipped with use := .buffer, slot := some 0 } }
     let addr : BitVec 40 := BitVec.ofNat 40 (5 + (156 - 0) * 2 ^ 20)
     portOpen s 1 = true ∧ (queueAt s (qidOf addr)).opened = some (pk, streamOf 1 0) ∧ pk.sectors.getLast? = some (2, 100) ∧
     (poolRegions s).isEmpty = false ∧ (slotAt s 2).any Slot.holds = true ∧ s.krf.bitmap.contains (lsaRegion 2) = true) := by
  decide +kernel

/-- R244: a reload of table 4 keeps the faults of other tables, and one that fails again once more. -/
theorem test_tier_reload :
    after (exec (.tierReload 4) { on with lke := { on.lke with tierBad := [⟨4, 0, false⟩, ⟨4, 9, true⟩, ⟨5, 0, false⟩] } })
      (fun t => t.lke.tierBad == [⟨4, 9, false⟩, ⟨5, 0, false⟩]) = true := by decide +kernel
/-- R276: a switch adds the snapshot to the pairs of the sector and takes it from the deltas. -/
theorem test_fold_switch :
    (let j : FoldJob := ⟨[(pairBase 8388608, ⟨1, 64⟩)], some 0, true⟩
     after (exec (.foldSwitch 8388608) { counting with cnt := { counting.cnt with folds := [(8388608, j)] } })
       (fun t => t.cnt.entries.isEmpty && t.cnt.folds.isEmpty)) = true := by decide +kernel

/-! ### The mirror -/

/-- A mirror port in a session. -/
def mirUp : MirPort :=
  { MirPort.initial with fitted := true, linkUp := true, session := true, helloSent := some 3, inSync := true
                         txSeq := 5, acked := 3, rxSeq := 9
                         out := [⟨some 3, liveRecord .sector 0 1, 0, none⟩, ⟨some 4, liveRecord .sector 0x200 2, 0, none⟩] }

/-- The primary of a pair, both ports in session, region 0 mirrored. -/
def paired : State :=
  { on with regions := [(0, { Region.shipped with use := .general, mirrored := true, rights := 0xFFF, slot := some 0 })]
            mir := { on.mir with pairId := some 77, ports := Vector.replicate 2 mirUp }
            regs := [(Reg.MIR_CTRL 0, 0x40000001), (Reg.MIR_CTRL 1, 0x40000001)]
            clk := { on.clk with hp := { ok := true, failed := false, bad := 0, good := 0 } } }

/-- A frame of the mate that both ports take. -/
def good1 : MirFrame := { frame1 with env := ⟨0, 0, false, none, 0x88B5⟩ }

theorem wit_mirror_links :
    mirMayLink paired 1 = true ∧ txReady paired 1 = true ∧ hears paired 1 = true ∧ frameFault paired good1 true = none ∧
    frameFault paired frame1 true = some .etherType ∧
    (let f : RxFrame := ⟨⟨0, 0, false, none, 0x88B5⟩, true, true, ⟨0, 0⟩⟩
     frameCause paired 1 f.env f.fcsOk f.headerOk = none ∧ f.env.etype ≠ 0x888E ∧ f.env.etype ≠ 0x8808 ∧ f.env.da = (txEnvelope paired 1).sa ∧
     f.env.sa = (txEnvelope paired 1).da ∧ (1 : BitVec 48) ≠ (txEnvelope paired 1).da) ∧
    macsecOn { paired with regs := paired.regs ++ [(Reg.MIR_MACSEC_CTRL 1, 1)] } 1 = true ∧
    txReady { paired with regs := paired.regs ++ [(Reg.MIR_MACSEC_CTRL 1, 1)] } 1 = false ∧
    txReady (modMir { paired with regs := paired.regs ++ [(Reg.MIR_MACSEC_CTRL 1, 1)] } 1 fun x => { x with txSa := [(0, ⟨1, 2, 3⟩)] }) 1 = true ∧ paired.mir.ports[(1 : MPort)].linkUp = true ∧
    (modMir paired 1 fun x => { x with linkUp := false }).mir.ports[(1 : MPort)].linkUp = false ∧ fwf paired.hw = true ∧
    (let f : HelloFrame := ⟨77, true, false, 0, 9, 1, 0, 9⟩
     let s := modMir paired 1 fun x => { x with session := false }
     s.mir.pairId = some f.pairId ∧ f.mate ≠ s.mir.mate ∧ s.mir.promoGen = f.promoGen ∧ s.mir.ports[(1 : MPort)].helloSent = some 3 ∧
     s.mir.ports[(1 : MPort)].session = false) ∧
    on.mir.pairId ≠ some 77 ∧ paired.mir.promoGen.toNat < 1 := by decide +kernel
theorem wit_mirror_records : inSession paired 1 = true ∧
    (let x := paired.mir.ports[(1 : MPort)]
     seqBefore x.txSeq 5 = false ∧ seqBefore 5 x.acked = false ∧ x.overflow = false ∧ seqBefore x.rxSeq 10 = true) ∧
    ackFits paired.mir.ports[(1 : MPort)] 4 = true ∧ ackFits paired.mir.ports[(1 : MPort)] 6 = false ∧ macsecOn paired 1 = false ∧
    frameFault paired good1 (dataFits [liveRecord .sector 0 1]) = none ∧ recordWaits paired 1 = false ∧
    recordWaits (modMir paired 1 fun x => { x with inbox := [(9, liveRecord .sector 0 1)] }) 1 = true ∧
    seqBefore 8 paired.mir.ports[(1 : MPort)].rxSeq = true ∧ paired.glb.state.serves = true ∧ (takeRecords paired 1 9 []).1 = none ∧
    (takeRecords paired 1 10 [liveRecord .sector 0 1]).1 = some true ∧
    (takeRecords (modMir paired 1 fun x => { x with inbox := [(8, liveRecord .sector 0 1)] }) 1 9 [liveRecord .sector 0 1]).1 = some false := by
  decide +kernel
/-- R318: an ACKSEQ of 4 frees the record numbered 3 and keeps the one numbered 4. -/
theorem test_ack_frees : ((takeAck paired 1 4).mir.ports[(1 : MPort)]).out.map (·.seq) = [some 4] := by decide +kernel
theorem wit_region_state : (List.replicate 480 (0 : Byte)).length = 480 ∧ (List.replicate 479 (0 : Byte)).length ≠ 480 ∧
    owesExtent paired 0 (479 * 512 + 511) = false ∧ owesExtent paired 1 (479 * 512 + 511) = false ∧ anySession paired = true ∧
    inSession paired 1 = true ∧ frameFault paired good1 true = none ∧ paired.cmds = [] ∧ owesExtent paired 1 0 = true ∧
    fhas ({ paired.mir with intent := [(479 * 512 + 511, ())] } : Mir).intent (479 * 512 + 511) = true ∧ paired.thm.coldHold = false ∧
    on.mir.intentAsk.isEmpty = true := by decide +kernel
theorem wit_mirror_copies :
    (takeAck (frameTaken paired good1) 1 4).glb.state.serves = true ∧
    (let s := modMir { paired with mir := { paired.mir with mate := true } } 1 fun x => { x with inSync := false }
     inSession s 1 = true ∧ s.mir.mate = true ∧ s.mir.pairId.isSome = true ∧ s.mir.ports[(1 : MPort)].inSync = false) ∧
    (let s := modMir paired 0 fun x => { x with catchup := [0 * 512 + 511], catchAt := 16383 }
     inSession s 0 = true ∧ s.mir.ports[(0 : MPort)].catchup = 511 :: [] ∧ mirrors s 0 = true ∧ (mirRegion s 0).detached = false ∧
     (regionAt s 0).lost = false ∧ portFor s 0 = 0 ∧ mirRoom s 0 = true ∧ mateReads s (511 * 16384 + 16383) = true) ∧
    (let s := modMir paired 1 fun x => { x with catchup := [511] }
     inSession s 1 = true ∧ s.mir.ports[(1 : MPort)].catchup = 511 :: [] ∧ mirrors s 0 = true ∧ portFor s 0 ≠ 1) ∧
    (let d : SeedOut := ⟨0, regionSectors - 1, false⟩
     let s := modMir paired 0 fun x => { x with seed := some d }
     s.mir.ports[(0 : MPort)].seed = some d ∧ (regionAt s 0).mirrored = true ∧ portFor s 0 = 0 ∧ mirRoom s 0 = true ∧
     mateReads s (regionBase 0 + d.next) = true ∧ regionSectors ≤ d.next + 1) := by decide +kernel

/-! ### The mailboxes -/

/-- A row's command is performed at once, in a captured state with a property. -/
def starts (i : Instr) (s : State) (p : State → Bool := fun _ => true) : Bool := (mbxStart i s).any p

theorem wit_mailbox_exchange :
    starts (.devEcho 3 [1, 2] true) on = true ∧ State.reset.glb.mbx = false ∧
    ((modMbx on 3 fun x => { x with state := .done }).mbx[(3 : Mbx)]).state ≠ .idle ∧
    mbxGate { on with glb := { on.glb with state := .boot } } 0x0011 = some 5 ∧
    mbxGate { on with glb := { on.glb with state := .commit } } 0x0011 = some 6 ∧
    mbxGate { on with sealing := { on.sealing with ready := false } } 0x0300 = some 5 ∧
    mbxBar (captured on 3 0x0805 [] false) 3 = none ∧ mbxBar (captured on 3 0x0001 (List.replicate 4097 0) false) 3 = some 3 ∧
    (let s := modMbx on 2 fun x => { x with state := .busy, opcode := 0x0801 }
     mbxBusy s.mbx[(2 : Mbx)] = true ∧ isFwCommand (mbxOp s 2) = true ∧ isFwCommand 0x0805 = true ∧
     mbxBar (captured s 3 0x0805 [] false) 3 = some 7) ∧ structureOf 0x0010 = some 0 ∧ isFwCommand 0x0010 = false ∧
    mbxGate on 0x0B00 = some 2 ∧ mbxGate on 0x0011 = none ∧ 0x0011 ∉ readCommands ∧ 0x0011 ∈ catalogue ∧ 0x0B00 ∉ catalogue ∧
    mbxGate { on with lke := { on.lke with ready := false } } 0x0100 = some 5 ∧ on.clk.move = none ∧
    mbxGate { on with glb := { on.glb with state := .restore } } 0x0011 = some 5 ∧
    (let s := captured on 2 0x0012 [5, 0] false
     mbxBlocked (captured s 3 0x0011 (leBytes 2 5 ++ leBytes 38 0) false) 3 = true ∧
     mbxGate (captured s 3 0x0011 (leBytes 2 5 ++ leBytes 38 0) false) 0x0011 = none ∧
     mbxBar (captured s 3 0x0011 (leBytes 2 5 ++ leBytes 38 0) false) 3 = none) := by
  decide +kernel
/-- With every blank failed both copies of a structure are lost, wherever they lie. -/
theorem wit_structure_lost :
    structureLost { on with med := { on.med with blanks := on.med.blanks.map fun v => { v with state := .failed } } } 0 = true := by
  have all : ∀ k : Fin 8, (failedBlanks { on with med := { on.med with blanks := on.med.blanks.map fun v => { v with state := .failed } } }).contains
      k.val = true := by decide +kernel
  exact Bool.and_eq_true_iff.mpr ⟨all _, all ⟨_, Nat.mod_lt _ (by decide)⟩⟩
/-- R342, R344: ECHO gives back its bytes and one more ticket. -/
theorem test_echo : after (exec (.devEcho 3 [1, 2] true) on)
    (fun t => let x := t.mbx[(3 : Mbx)]
              decide (x.state = .done) && bufBytes x.rsp x.rspLen == [1, 2] && x.ticket == 1 && x.code == 0) = true := by decide +kernel
theorem wit_mailbox_ends :
    (let busy (op : BitVec 16) := modMbx on 3 fun x => { x with state := .busy, opcode := op }
     ((busy 0x0208 |> fun s => modMbx s 3 fun x => { x with waits := true }).mbx[(3 : Mbx)]).waits = true ∧
     (busy 0x0208).mbx[(3 : Mbx)].state = .busy ∧ (busy 0x0208).mbx[(3 : Mbx)].waits = false ∧
     clearOf { busy 0x0208 with cnt := { on.cnt with clears := [(3, 8388608, 4, 1, [])] } } 3 = some (8388608, 4, 1, []) ∧
     (busy 0x0012).mbx[(3 : Mbx)].opcode = 0x0012 ∧ (busy 0x0012).med.reqs = []) ∧
    (let q := request .rebuild true .rebuild .running
     inRegion 0 q.lsa.toNat = true ∧ q.purpose = .rebuild ∧ q.state ≠ .raised) := by decide +kernel
theorem wit_mailbox_lengths : starts (.devInfo 0 [1] false) on = true ∧ requestLength 0x0000 = some 0 ∧
    starts (.regionGet 0 [5, 0] false) on (fun c => (mbxPerform c 0 false).1 == .fin 0 0 (descriptor c 5)) = true ∧
    responseLength [5, 0] 0x0010 = some 32 := by decide +kernel
/-- A REGION_SET request for region 5: GENERAL, with all rights. -/
def setRequest (use : Nat) : List Byte := leBytes 2 5 ++ leBytes 6 0 ++ leBytes 8 (use * 2 ^ 16) ++ leBytes 8 0x7777 ++ leBytes 16 0

theorem wit_mailbox_device :
    starts (.devInfo 0 [] false) on = true ∧ starts (.devEcho 0 [] false) on = true ∧ starts (.regionGet 7 [0xDF, 1] true) on = true ∧
    leAt [0xDF, 1] 0 2 = 479 ∧ leAt [0xE0, 1] 0 2 = 480 ∧ (setRequest 1).length = 40 ∧ (regionAsk (setRequest 1)).isSome = true ∧
    (regionAsk (setRequest 7)).isNone = true ∧
    starts (.regionSet 0 (setRequest 1) false) stocked (fun c => (regionAsk (setRequest 1)).any fun a =>
      (regionRefused c 5 a).isSome && (regionRefused { c with regions := [(5, { Region.shipped with slot := some 0 })] } 5 a).isNone) = true ∧
    starts (.regionRecreate 0 [5, 0] false) on (fun c => !(regionAt c 5).lost) = true ∧
    starts (.regionRecreate 0 [5, 0] false) { on with regions := [(5, { Region.shipped with lost := true })]
                                                      med := { on.med with blanks := Vector.replicate 8 { BlankS.initial with hwOk := true } } }
      (fun c => (regionAt c 5).lost && (c.med.blanks[blankOf 5]).hwOk && !(regionAt c 5).rebuilding && !(regionAt c 5).mirrored) = true ∧
    starts (.forceFail 0 [0, 71] false) on (fun c => decide ((71 : Mch) ∉ c.med.failed) && (servedBy c 71).isEmpty) = true ∧
    starts (.forceFail 0 [1, 15] false) on (fun c => !fhas c.lke.failed 15 && c.lke.failed.length != 15) = true := by decide +kernel
/-- A TBL_CREATE request: table 4, EM, 16 bytes of key, 1,024 entries, in the tier SRAM. -/
def createRequest : List Byte := [4, 2, 0, 0, 16, 0, 0, 0] ++ leBytes 4 1024 ++ leBytes 28 0
/-- A device with an LPM4 table 4 in its table set, and one staged as well. -/
def tabled : State :=
  let t : Table := { kind := .lpm4, medium := false, capacity := 16, keyLen := 4, defaultAction := 9, dual := false, fresh := false
                     regions := [], room := [], entries := [⟨0, 0, 0, 1⟩] }
  { on with lke := { on.lke with cur := { on.lke.cur with tables := [(4, t)] }
                                 staged := some { on.lke.cur with version := 1, tables := [(4, t)] } } }

theorem wit_mailbox_tables :
    starts (.tblCreate 0 createRequest false) on (fun c => (createdTable createRequest).any fun t =>
      !fhas (stagedSet c).tables 4 && !badRegions c t && !noSpace c t) = true ∧
    starts (.tblCreate 0 createRequest false) tabled (fun c => fhas (stagedSet c).tables 4) = true ∧
    starts (.tblDelete 0 [4, 0, 0, 0] false) tabled = true ∧ starts (.tblDelete 0 [5, 0, 0, 0] false) tabled (fun c => !fhas (stagedSet c).tables 5) = true ∧
    starts (.tblUpdate 0 (leBytes 2 1 ++ leBytes 62 0) false) tabled = true ∧
    starts (.tblCommit 0 [] false) tabled (fun c => c.lke.staged.any fun t => !namesMissing t) = true ∧
    starts (.tblCommit 0 [] false) { tabled with lke := { tabled.lke with staged := some { tabled.lke.cur with
      version := 1, tables := [], profiles := [(0, BitVec.ofNat 512 (2 ^ 8 + 4 * 2 ^ 128))] } } } (fun c => c.lke.staged.any namesMissing) = true ∧
    starts (.tblAbort 0 [] false) tabled = true ∧
    starts (.tblQuery 0 ([0, 4] ++ leBytes 46 0) false) tabled (fun c => (fget c.lke.cur.tables 4).any fun t =>
      recordFits t ([0, 4] ++ leBytes 46 0)) = true ∧
    starts (.tblInfo 0 [4, 0, 0, 0] false) tabled = true ∧
    starts (.profileSet 0 ([63, 15, 0, 0, 4] ++ leBytes 59 0) false) tabled (fun _ =>
      profSteps (wordOf 512 ([63, 0, 0, 0, 0] ++ leBytes 59 0)) == 0) = true ∧
    starts (.profileGet 0 [63, 0, 0, 0] false) tabled = true := by decide +kernel
theorem wit_mailbox_queues :
    starts (.poolSet 0 [0xDF, 1, 1, 0] false) { on with regions := [(479, { Region.shipped with use := .buffer })] } (fun c =>
      decide ((regionAt c 479).use = .buffer)) = true ∧ starts (.poolInfo 0 [] false) on = true ∧
    starts (.queueSet 0 (leBytes 4 131071 ++ [1, 0x21, 0, 0] ++ leBytes 4 100 ++ leBytes 4 0) false) on (fun c =>
      recordOk (leBytes 4 131071 ++ [1, 0x21, 0, 0] ++ leBytes 4 100 ++ leBytes 4 0) && mayReserve c 128 &&
        (descRegions c (queueAt c 131071)).all (c.krf.bitmap.contains ·)) = true ∧
    starts (.queueGet 0 (leBytes 4 131071) false) on = true ∧
    starts (.cntClear 0 (leBytes 8 0x80000000 ++ leBytes 4 8388608 ++ leBytes 4 0) false) stocked (fun c =>
      lsaRegion (8388608 + 8388608 - 1) == 1 && decide ((regionAt c 1).use = .counter) && !clearing c 1) = true ∧
    lsaRegion (8388609 + 8388608 - 1) ≠ 1 ∧ starts (.cntInfo 0 [] false) on = true := by decide +kernel
/-- A device with a device key, key slot 3 loaded and region 5 bound to it. -/
def keyed : State :=
  { on with sealing := { on.sealing with devKey := some 1, keys := [(3, 7), (4, 8)] }
            regions := [(5, { Region.shipped with slot := some 3 }), (6, { Region.shipped with slot := some 3, rekeyLive := true })] }

theorem wit_mailbox_keys :
    starts (.devkeyInstall 0 (leBytes 32 1) false) on (fun c => c.sealing.devKey.isNone) = true ∧
    starts (.devkeyZeroise 0 [] false) on (fun c => c.regions.isEmpty) = true ∧
    starts (.keyLoad 0 ([63] ++ leBytes 47 0) false) keyed (fun c => slotState c 63 == 0) = true ∧
    starts (.keyBind 0 [7, 0, 3, 0] false) keyed (fun c => bindable c 3 && (regionAt c 7).slot.isNone && !rekeyBusy c (some 7) (some 3)) = true ∧
    bindFields [7, 0, 3, 0] = true ∧
    starts (.keyChange 0 [5, 0, 4, 0] false) keyed (fun c => bindable c 4 && !rekeyBusy c (some 5) (some 4) && !eraseBlocked c 5) = true ∧
    starts (.keyChange 0 [6, 0, 4, 0] false) keyed (fun c => (regionAt c 6).rekeyLive && (freeUnit c).isSome && (forcedWaiting c).isEmpty) = true ∧
    starts (.keyUnbind 0 [5, 0, 0, 0] false) keyed (fun c => !rekeyBusy c (some 5) none) = true ∧
    starts (.keyRetire 0 [4, 0, 0, 0] false) keyed (fun c => bindable c 4 && (boundRegions c 4).isEmpty) = true ∧
    starts (.keyRetire 0 [3, 0, 0, 0] false) keyed (fun c => boundRegions c 3 == [5, 6] && !rekeyBusy c none (some 3)) = true ∧
    starts (.keyInfo 0 [1, 0, 63, 0] false) keyed = true ∧ starts (.keyInfo 0 [0, 0, 0xDF, 1] false) keyed = true := by decide +kernel
theorem wit_mailbox_store :
    starts (.pstInfo 0 [] false) on = true ∧
    starts (.pstRead 0 ([3, 0, 0, 0, 1, 0, 0, 0] ++ leBytes 16 0) false)
      { on with pst := { on.pst with slots := [(0, { pstSlotAt on 0 with copy0 := sealedCopy 1 [9] })] } } (fun c =>
        (pstContent c 3 0) == some [9] && pwMatches (pstSlotAt c 0) 0 0 0 true) = true ∧
    starts (.pstRead 0 ([1, 0, 0, 0, 1, 0, 0, 0] ++ leBytes 16 0) false) on (fun c =>
      (pstContent c 1 0).isNone && decide (0 + 1 ≤ pstCapacity 1)) = true ∧
    pstCapacity 1 < leAt ([1, 0, 0xF0, 0x1F, 1, 0, 0, 0] ++ leBytes 16 0) 2 2 + 1 ∧
    inForce (sealedCopy 7 [9]) (sealedCopy 6 [8]) = some (0, sealedCopy 7 [9]) ∧
    starts (.pstWrite 0 ([3, 31, 0, 0, 1, 0, 0, 0] ++ leBytes 16 0 ++ [9]) false) on (fun c =>
      pstHeaderOk ([3, 31, 0, 0, 1, 0, 0, 0] ++ leBytes 16 0 ++ [9]) && !(pstSlotAt c 31).locked && !(pstSlotAt c 31).worn &&
        pwMatches (pstSlotAt c 31) 31 1 0 true) = true ∧
    starts (.pstPassword 0 ([31, 1] ++ leBytes 38 0) false) on (fun c => pwMatches (pstSlotAt c 31) 31 1 0 true) = true ∧
    starts (.pstCtrRead 0 [15, 0, 0, 0] false) on = true ∧
    starts (.pstCtrInc 0 ([15] ++ leBytes 7 0 ++ leBytes 8 (2 ^ 64 - 1)) false) on (fun c =>
      decide ((pstCtrAt c 15).value + (2 ^ 64 - 1) < 2 ^ 64) && decide ((pstCtrAt c 15).incs < pstWrites)) = true := by decide +kernel
theorem wit_mailbox_events_and_dumps :
    starts (.evtFreeze 0 [] false) on (fun c => !c.evr.frozen) = true ∧ starts (.evtThaw 0 [] false) on = true ∧
    starts (.evtRead 0 ([0, 0, 0, 0] ++ leBytes 4 127) false)
      { on with evr := { on.evr with frozen := true, frozenAt := (126, 127) } } (fun c => c.evr.range == (126, 127)) = true ∧
    starts (.evtClear 0 (leBytes 24 0) false) on (fun c => !(pstSlotAt c 31).locked && (pstSlotAt c 31).writePw.isNone) = true ∧
    starts (.evtLimitSet 0 (leBytes 2 0x0001 ++ leBytes 14 0) false) on = true ∧ (evtSev 0x0001).isSome = true ∧ evtSev 0xFFFF = none ∧
    starts (.evtLimitGet 0 (leBytes 4 0x0001) false) { on with evr := { on.evr with limits := [(0x0001, (16, 1000000))] } } = true ∧
    starts (.dumpInfo 0 [] false) on (fun c => c.dumps.held.isEmpty) = true ∧
    (let d : Dump := ⟨1, 2, 4, 0, 0, 0, 0, 0, 1, true, true, 4, [], [], [], []⟩
     starts (.dumpRead 0 (leBytes 8 0 ++ leBytes 4 8 ++ leBytes 4 0) false) { on with dumps := { on.dumps with held := [d] } } (fun c =>
       c.dumps.held == [d]) = true) ∧
    starts (.dumpRead 0 (leBytes 8 0 ++ leBytes 4 4096 ++ leBytes 4 0) false) on = true ∧ starts (.dumpRelease 0 [] false) on = true := by
  decide +kernel
theorem wit_mailbox_mirror :
    starts (.mirPair 0 (leBytes 4 77 ++ [1, 0, 0, 0]) false) on (fun c => !anyMirrored c) = true ∧
    starts (.mirUnpair 0 [] false) { paired with regions := [] } (fun c => !anyMirrored c && c.mir.pairId.isSome) = true ∧
    starts (.mirPromote 0 [] false) { paired with mir := { paired.mir with mate := true } } = true ∧
    starts (.mirSak 0 ([1, 3] ++ leBytes 62 0) false) { paired with sealing := keyed.sealing } (fun c => !anInUse c 1 3) = true ∧
    starts (.mirSakClear 0 [1, 3, 0, 0] false) paired (fun c => !anInUse c 1 3) = true ∧
    starts (.mirInfo 0 [0xDF, 1, 0, 0] false) paired = true ∧ starts (.mirReseed 0 [0, 0, 0, 0] false) paired = true := by decide +kernel
theorem wit_mailbox_firmware :
    starts (.fwInfo 0 [] false) on = true ∧
    starts (.fwWrite 0 (leBytes 4 0 ++ leBytes 4 1 ++ [1] ++ leBytes 7 0 ++ [0xAA]) false) on (fun c => !trialRuns c) = true ∧
    (let v : FwSlot := { state := .staging, bytes := [1], version := 0, length := 1, floor := 0 }
     starts (.fwActivate 0 [1, 0, 0, 0] false) { on with fw := { on.fw with slots := #v[v, v, v] } } (fun c =>
       decide ((c.fw.slots[fwInternal (stagingSlot c)]).state = .staging)) = true) ∧
    starts (.fwConfirm 0 [] false) { on with fw := { on.fw with running := some 0, trial := true } } trialRuns = true ∧
    starts (.fwRollback 0 [0, 0, 0, 0] false) on (fun c => (rollbackTo c).isSome || (rollbackTo c).isNone) = true ∧
    starts (.fwToSpi 0 [] false true) { on with fw := { on.fw with running := some 0, flash := some ⟨4, 4, 4, 65536, 256⟩ } } (fun c =>
      !trialRuns c && c.fw.flash.isSome) = true ∧
    (let j (e n : Nat) : SpiCopy := { mbx := 0, ok := true, image := on.fw.slots[0], erases := e, pages := n, left := 0 }
     ({ on with fw := { on.fw with copying := some (j 1 1) } } : State).fw.copying = some (j 1 1) ∧ (j 1 1).left = 0 ∧ (j 1 1).erases ≠ 0 ∧
     (j 0 0).erases = 0 ∧ (j 0 0).pages = 0) := by
  decide +kernel
theorem wit_mailbox_calibration_and_power :
    starts (.calGet 0 [0xFF, 0xFF, 0, 0] false) on (fun _ => !calKnown 0xFFFF 0) = true ∧ (List.range 16).any (fun p => calKnown p 0) = true ∧
    starts (.calSet 0 (leBytes 8 0) false) on (fun c => decide (c.pst.user.writes < pstWrites)) = true ∧
    starts (.pwrInfo 0 [] false) on = true ∧ starts (.pwrLtrSet 0 (leBytes 20 0) false) on = true ∧
    starts (.thmSet 0 [115, 0, 0, 0] false) on (fun c => !c.thm.crit) = true ∧ starts (.thmSet 0 [116, 0, 0, 0] false) on = true ∧
    starts (.hsOppSet 0 [3, 0, 0, 0] false) on (fun c => c.clk.move.isNone && !othersBusy c 0) = true ∧ 0x0B00 ∉ catalogue := by
  decide +kernel

/-- A device one of whose domains owes a gap step. -/
def gapping : State := { on with med := { on.med with domains := [(0, ⟨5, 9, 0, 0, 1⟩)] } }

theorem wit_gap_ready : gapReady gapping 0 = true := by
  have blanks : ∀ b : Fin 8, (gapping.med.blanks[b]).state = .normal := by decide +kernel
  have takes : ∀ l, blankTakes gapping l .refresh = true := fun l => by simp only [blankTakes, blanks]
  have runs : (coreUp gapping && medAwake gapping && programsRun gapping) = true := by decide +kernel
  have due : 0 < (domAt gapping 0).due := by decide +kernel
  have free : ∀ ch k, bankFree gapping ch k = true := fun _ _ => rfl
  have each : ∀ ch : Fin 64, stepPicked gapping ch.val .move = true := by decide +kernel
  have picked : ∀ l, stepPicked gapping (lsaChannel l) .move = true := fun l => each ⟨lsaChannel l, by unfold lsaChannel; omega⟩
  have programs : ∀ l, canProgram gapping l = true := fun l => by
    simp only [Bool.and_eq_true] at runs
    have exhausted : isExhausted gapping l = false := by
      unfold isExhausted sealPlan sealPlanAt
      split
      · rfl
      · rfl
    have busy : programRuns gapping l = false := rfl
    have held : gapping.sealing.held = [] := rfl
    simp [canProgram, runs, exhausted, busy, held]
  simp only [gapReady, stepRuns, stepGranted, takes, runs, due, free, picked, programs, Bool.and_self, Bool.true_or, decide_true]

/-- The JTAG port after rises of TCK with these TMS, TDI low. -/
def clocked (tms : List Bool) : Jtag := tms.foldl (fun j m => tapClock { State.reset with jtag := j } m false) Jtag.initial

/-- R462: from Test-Logic-Reset a scan of the data register gives IDCODE 0x1996_0B6F. -/
theorem test_jtag_idcode :
    (clocked [false, true, false, false]).shift = bitList (0x19960B6F : BitVec 32) ∧ tdo (clocked [false, true, false, false]) = some true := by
  decide

end Sys2Proof.Tests
end

section
/-! Proofs of the scope family: the reset state, and what asks for a reset. -/

namespace Sys2Proof.Machine

/-! ### The reset state -/

/-- No register is listed at reset, so each reads its Reset column. -/
theorem reset_reads_column (o : Nat) : cfg State.reset o = regReset o ∧ hwGet State.reset o = regReset o := ⟨rfl, rfl⟩

theorem reset_mbx (m : Mbx) : State.reset.mbx[m] = MbxS.initial := Vector.getElem_replicate _

theorem bufBytes_empty (n : Nat) : bufBytes [] n = List.replicate n 0 := by
  rw [bufBytes, show bufByte [] = fun _ => 0 from rfl, List.map_const', List.length_range]

/-- The Reset columns that the statement writes out (R12, R34, R170, R195, R405). -/
theorem reset_columns : ∀ e ∈ ([(Reg.GLB_ID, 0x99601F7D), (Reg.GLB_STEPPING, 0x42), (Reg.GLB_CAPS, 0x1E05048), (Reg.ARB_CTRL, 1),
      (Reg.ARB_RANK_SHADOW, 0x776643512100), (Reg.ARB_RANK_ACTIVE, 0x776643512100), (Reg.ARB_BURST 0, 4), (Reg.ARB_BURST 11, 8),
      (Reg.ARB_REST_KERF, 0xA0F0C0), (Reg.ARB_REST_RATE, 0x500410), (Reg.EVR_CTRL, 0xA2), (Reg.KRF_CTRL, 0)] : List (Nat × Word64)),
    regReset e.1 = e.2 := by decide +kernel

theorem canonical_reset : canonical State.reset = true := by decide +kernel

/-- Settles O4: nothing is listed in a memory at reset, so a register reads its Reset column and a buffer reads zero. -/
theorem reset_state : Obligations.reset_state := by
  refine ⟨canonical_reset, rfl, ⟨rfl, rfl, rfl, rfl⟩, rfl, reset_reads_column, fun e he => ?_, fun m => ?_, rfl, fun p => ?_, rfl⟩
  · obtain ⟨hc, hh⟩ := reset_reads_column e.1
    have hr := reset_columns e he
    exact ⟨hc.trans hr, hh.trans hr⟩
  · rw [reset_mbx]
    exact ⟨rfl, rfl, bufBytes_empty⟩
  · exact congrArg Port.linkUp (Vector.getElem_replicate _)

/-! ### RESET_N (R440, R447) -/

/-- What RESET_N_RISE asks before it restarts power-up (R440). -/
theorem exec_resetNRise (s : State) : exec .resetNRise s =
    done (if s.seq.vaon && s.seq.resetSeen && decide (s.seq.phase = .latched) && s.seq.pwrFailN then
        startPowerUp (modSeq s fun q => { q with resetN := true, resetSeen := false }) true
      else modSeq s fun q => { q with resetN := true, resetSeen := false }) := rfl

/-- RESET_N_RECOGNISED with the pin low and VAON up (R447). -/
theorem exec_resetNRecognised {s : State} (hv : s.seq.vaon = true) (hr : s.seq.resetN = false) : exec .resetNRecognised s =
    done (if s.seq.phase = .on then askReset (modSeq s fun q => { q with resetSeen := true }) { kind := .full, causes := 2 }
      else modSeq s fun q => { q with resetSeen := true }) := by
  show execResetNRecognised s = _
  rw [execResetNRecognised, hv, hr, if_neg (by simp)]
  rfl

/-! ### Resets that software asks for (R36, R357) -/

theorem exec_glbSoftResetFull {s : State} (h : coreUp s = true) (key : BitVec 16) :
    exec (.glbSoftResetFull key) s = done (softReset (touch s Reg.GLB_SOFT_RESET) key .full) := if_pos h

theorem exec_glbSoftResetWarm {s : State} (h : coreUp s = true) (key : BitVec 16) :
    exec (.glbSoftResetWarm key) s = done (softReset (touch s Reg.GLB_SOFT_RESET) key .warm) := if_pos h

theorem exec_fwResetNowTimer {s : State} (h : coreUp s = true) (hn : s.fw.resetNow = true) :
    exec .fwResetNowTimer s = done (softReset (modFw s fun w => { w with resetNow := false }) 0xA5C3 .warm) := if_pos ⟨hn, h⟩

theorem softReset_wrong_key {s : State} {key : BitVec 16} (h : key ≠ 0xA5C3) (kind : ResetKind) :
    softReset s key kind = badAccess s 0x24 := if_pos h

theorem softReset_asked {s : State} (h : s.glb.asked.isSome = true) (kind : ResetKind) : softReset s 0xA5C3 kind = s := by
  rw [softReset, if_neg (by simp), if_pos h]

theorem softReset_free {s : State} (h : s.glb.asked = none) (kind : ResetKind) :
    softReset s 0xA5C3 kind = askReset s { kind := kind, causes := 4 } := by
  rw [softReset, if_neg (by simp), if_neg (by simp [h])]

/-! ### SEQ_CTRL and SEQ_FAULT (R440, R444, R453) -/

/-- An access over either bus moves the latches of R17 alone. -/
theorem overPcie_frame (s : State) (smbus : Bool) (o : Nat) :
    overPcie s smbus o = { s with latches := (overPcie s smbus o).latches } := by
  cases smbus <;> rfl

@[simp] theorem overPcie_seq (s : State) (smbus : Bool) (o : Nat) : (overPcie s smbus o).seq = s.seq := by rw [overPcie_frame]

@[simp] theorem poweringUp_overPcie (s : State) (smbus : Bool) (o : Nat) : poweringUp (overPcie s smbus o) = poweringUp s := by
  simp only [poweringUp, overPcie_seq]

theorem seqWritable_of {s : State} {smbus : Bool} (hv : s.seq.vaon = true) (hb : smbus = true ∨ coreUp s = true) :
    seqWritable s smbus = true := by
  rw [seqWritable, hv, Bool.true_and, Bool.or_eq_true]
  exact hb

section
variable {s : State} {smbus : Bool} (h : seqWritable s smbus = true)
include h

theorem exec_seqCtrlRestart : exec (.seqCtrlRestart smbus) s = done (seqRestart (overPcie s smbus Reg.SEQ_CTRL)) := if_pos h

theorem exec_seqCtrlDown (key : BitVec 16) :
    exec (.seqCtrlDown key smbus) s = done (seqDown (overPcie s smbus Reg.SEQ_CTRL) key) := if_pos h

theorem exec_seqFaultClear :
    exec (.seqFaultClear smbus) s = done (hwSet (overPcie s smbus Reg.SEQ_FAULT) Reg.SEQ_FAULT 0) := if_pos h
end

theorem seqRestart_starts {s : State} (hp : s.seq.pwrFailN = true) (hq : s.seq.phase = .off ∨ s.seq.phase = .latched) :
    seqRestart s = startPowerUp s (decide (s.seq.phase = .latched)) := if_pos ⟨hp, hq⟩

theorem seqDown_wrong_key {s : State} {key : BitVec 16} (h : key ≠ 0xC3A5) : seqDown s key = s := if_pos h

theorem seqDown_on {s : State} (h : s.seq.phase = .on) :
    seqDown s 0xC3A5 = powerFails (modSeq s fun q => { q with downAsked := true }) .down := by
  rw [seqDown, if_neg (by simp), if_pos h]

theorem seqDown_poweringUp {s : State} (h : poweringUp s = true) : seqDown s 0xC3A5 = takeDown s false := by
  have hon : s.seq.phase ≠ .on := fun e => by simp [poweringUp, e] at h
  rw [seqDown, if_neg (by simp), if_neg hon, if_pos h]

/-- Settles O10: each command is its guard and one shared operation, whose cases the statement's hypotheses pick. -/
theorem resets_asked_for : Obligations.resets_asked_for := by
  refine ⟨fun s => ?resetN, fun s hup => ?software, fun s smbus hv hb => ?sequencer⟩
  case resetN =>
    refine ⟨rfl, fun hv hr hp => ?_, fun hv hr hp => ?_, fun hn => ?_, fun hv hs hp hw => ?_⟩
    · rw [exec_resetNRecognised hv hr, if_pos hp]; rfl
    · rw [exec_resetNRecognised hv hr, if_neg hp]; rfl
    · rw [exec_resetNRise, if_neg (by simpa [and_assoc] using hn)]; rfl
    · rw [exec_resetNRise, if_pos (by simp [hv, hs, hp, hw])]; rfl
  case software =>
    refine ⟨fun hn => ⟨?_, ?_, fun hr => ?_⟩, fun ha => ⟨?_, ?_⟩, fun key hk => ⟨?_, ?_⟩⟩
    · rw [exec_glbSoftResetFull hup, softReset_free (by exact hn)]; rfl
    · rw [exec_glbSoftResetWarm hup, softReset_free (by exact hn)]; rfl
    · rw [exec_fwResetNowTimer hup hr, softReset_free (by exact hn)]; rfl
    · rw [exec_glbSoftResetFull hup, softReset_asked (by exact ha)]; rfl
    · rw [exec_glbSoftResetWarm hup, softReset_asked (by exact ha)]; rfl
    · rw [exec_glbSoftResetFull hup, softReset_wrong_key hk]; rfl
    · rw [exec_glbSoftResetWarm hup, softReset_wrong_key hk]; rfl
  case sequencer =>
    have hw := seqWritable_of hv hb
    refine ⟨fun hp hq => ?_, fun hon => ?_, fun hpu => ?_, fun key hk => ?_, ?_, overPcie_frame s smbus⟩
    · rw [exec_seqCtrlRestart hw, seqRestart_starts (by simpa using hp) (by simpa using hq), overPcie_seq]; rfl
    · rw [exec_seqCtrlDown hw, seqDown_on (by simpa using hon)]
      simp only [modSeq, overPcie_seq]; rfl
    · rw [exec_seqCtrlDown hw, seqDown_poweringUp (by simpa using hpu)]; rfl
    · rw [exec_seqCtrlDown hw, seqDown_wrong_key hk]; rfl
    · rw [exec_seqFaultClear hw]; cases smbus <;> rfl

end Sys2Proof.Machine
end

section
/-! Proofs of the scope family: re-keys, lookup engines, the table set and the buffer pool. -/

namespace Sys2Proof.Machine

/-! ### Walks of a re-key (R291, R302, R304) -/

/-- Programs of the reserved area move no region. -/
theorem saveInner_regions (s : State) (i : Inner) : (saveInner s i).regions = s.regions := by
  unfold saveInner
  split
  · split <;> rfl
  · obtain ⟨_, _, _, _, _, _, _, _, e⟩ := (saveBytes_saved s i (itemBytes s i)).rest
    rw [e]

/-- Short of the region's end, PARTING advances by the 64 sectors of the group (R302). -/
theorem advanceParting_parting {s : State} {r : Nat} {k : Rekey} (hp : k.parting + 64 < regionSectors)
    (hk : (regionAt s r).rekey = some k) (hw : fwf s.regions = true) :
    ∃ k', (regionAt (advanceParting s r k) r).rekey = some k' ∧ k'.parting = k.parting + 64 := by
  unfold advanceParting
  dsimp only
  rw [if_neg (by omega)]
  refine ⟨{ k with parting := k.parting + 64, recorded := if (k.parting + 64) % 4096 = 0 then k.parting + 64 else k.recorded }, ?_, rfl⟩
  split
  · rw [regionAt_congr (saveInner_regions _ _), regionAt_modRegion _ hw, hk]; rfl
  · rw [regionAt_modRegion _ hw, hk]; rfl

theorem exec_forcedRekeyStart {s : State} {u : Fin 4} {r : Nat} {k : Fin 64} (hu : freeUnit s = some u)
    (hf : nextForced s = some (r, k)) (hup : coreUp s = true) (hs : s.glb.state.serves = true) :
    exec .forcedRekeyStart s = done (settle (startRekey s u r k true)) := by
  show execForcedRekeyStart s = _
  rw [execForcedRekeyStart, hu, hf]
  exact if_pos ⟨hup, hs⟩

theorem exec_rekeyWalkGroup {s : State} {u : Fin 4} {outs : List ReadOutcome} {r : BitVec 9} {k : Rekey} {key : BitVec 256}
    (hu : s.sealing.units[u] = some r) (hk : (regionAt s r.toNat).rekey = some k)
    (hy : slotKey s (regionAt s r.toNat).slot = some key) (hw : walkRuns s r.toNat k = true) (hl : 64 ≤ outs.length) :
    exec (.rekeyWalkGroup u outs) s =
      let g := groupOf r.toNat k.parting
      let todo := g.filter fun n => !walkSkips s n
      done (settle (advanceParting
        ((g.zip outs).foldl (fun s e => walkSector s e.1 key e.2)
          (((todo.map lsaChannel).eraseDups).foldl (fun s ch => stepGrant s .rekey 2 (todo.filter fun n => lsaChannel n == ch)) s))
        r.toNat k)) := by
  show execRekeyWalkGroup u outs s = _
  rw [execRekeyWalkGroup, hu]
  dsimp only
  rw [hk, hy]
  exact if_pos ⟨hw, hl⟩

/-! ### Lookup engines and the table set (R244, R250, R254, R257) -/

section
variable {s : State} (hup : coreUp s = true)
include hup

theorem exec_tierReload (table : BitVec 8) : exec (.tierReload table) s =
    done (modLke (loadItems s [.table table.toNat]) fun l => { l with tierBad := l.tierBad.filterMap (reloaded table.toNat) }) :=
  if_pos hup

theorem exec_lkeWatchdogExpiry {e : Engine} (h : inFlight s e.val ≠ 0) :
    exec (.lkeWatchdogExpiry e) s = done (settle (engineFail s e 0)) := if_pos ⟨hup, h⟩

theorem exec_lkeDatapathError (e : Engine) : exec (.lkeDatapathError e) s = done (settle (engineFail s e 1)) := if_pos hup

theorem exec_lkeForceFail (e : Engine) : exec (.lkeForceFail e) s =
    if fhas s.lke.failed e.val then done (settle (badAccess (touch s Reg.LKE_CTRL) Reg.LKE_CTRL))
    else done (settle (forceEngine
      (setCfg (touch s Reg.LKE_CTRL) Reg.LKE_CTRL (putBits (cfg s Reg.LKE_CTRL) 16 4 e.val)) e)) := by
  show execLkeForceFail e s = _
  rw [execLkeForceFail, hup, if_neg (by simp)]
  rfl

theorem exec_tblCommitSwitch {c : TblCommit} (hc : s.lke.commit = some c) (hw : c.wait = []) (hp : s.lke.prev = none)
    (hs : s.glb.state.serves = true) : exec .tblCommitSwitch s = done (settle (tblSwitch s c)) := by
  show execTblCommitSwitch s = _
  rw [execTblCommitSwitch, hc]
  exact if_pos ⟨hup, hw, by rw [hp]; rfl, hs⟩

/-! ### The buffer pool (R258, R270 to R272) -/

theorem exec_orphanSweepDone (hs : s.dbq.sweeping = true) (hn : nextSweep s = none) :
    exec .orphanSweepDone s =
      done (settle (if s.glb.state = .restore ∧ s.dbq.sweepAgain = false then releaseForwarding (sweepEnd s) else sweepEnd s)) := by
  have again : (sweepEnd s).dbq.sweeping = s.dbq.sweepAgain := rfl
  show execOrphanSweepDone s = _
  rw [execOrphanSweepDone, if_neg (by simp [hup, hs, hn])]
  simp only [again, Bool.not_eq_true']
  rfl

end

theorem fget_fmapv {α β : Type} (f : Nat → α → β) (m : FMap α) (k : Nat) : fget (fmapv f m) k = (fget m k).map (f k) := by
  induction m with
  | nil => rfl
  | cons e m ih =>
    obtain ⟨j, v⟩ := e
    simp only [fmapv, List.map_cons, fget] at ih ⊢
    split
    · subst k; rfl
    · split
      · rfl
      · exact ih

/-- A sweep keeps, of a region that can be read, the chunks that something owns (R270). -/
theorem sweepEnd_used {s : State} {r : Nat} (hl : (regionAt s r).lost = false) (hp : fhas s.dbq.pool r = true) :
    (poolAt (sweepEnd s) r).used = (poolAt s r).used.filter (chunkOwned s r) := by
  obtain ⟨p, hp⟩ := Option.isSome_iff_exists.1 hp
  have hq : (sweepEnd s).dbq.pool = fmapv (sweptRegion s) s.dbq.pool := rfl
  simp only [poolAt, fgetD, hq, fget_fmapv, hp, Option.map_some, Option.getD_some, sweptRegion, hl, Bool.false_eq_true, if_false]

/-- Settles O42: each command is its guard and the operation named; PARTING and the sweep are `advanceParting_parting` and
`sweepEnd_used`. -/
theorem rekeys_engines_and_pool : Obligations.rekeys_engines_and_pool := by
  refine ⟨⟨?start, ?walk, ?parting, ?complete⟩,
    fun s hup => ⟨fun table => ⟨exec_tierReload hup table, fun f => rfl⟩, fun e => ?engine, ?switch⟩,
    fun s hup => ⟨?format, ?sweep, exec_orphanSweepDone hup, ?freed, ?descriptor⟩⟩
  case start => exact fun s u r k hu hf hup hs => exec_forcedRekeyStart hu hf hup hs
  case walk => exact fun u outs s r k key hu hk hy hw hl => exec_rekeyWalkGroup hu hk hy hw hl
  case parting => exact fun s r k hp hk hw => advanceParting_parting hp hk hw
  case complete => exact fun s r k hp => if_pos hp
  case engine =>
    refine ⟨exec_lkeWatchdogExpiry hup, exec_lkeDatapathError hup e, fun hf => ?_, fun hf ho => ?_, fun hf ho => ?_⟩
    · rw [exec_lkeForceFail hup, if_pos hf]; rfl
    · rw [exec_lkeForceFail hup, if_neg (by simp [hf]), forceEngine, if_pos (by exact ho)]; rfl
    · rw [exec_lkeForceFail hup, if_neg (by simp [hf]), forceEngine, if_neg (by exact ho)]; rfl
  case switch => exact fun c hc hw hp hs => exec_tblCommitSwitch hup hc hw hp hs
  case format => exact fun region hf hu hl hr => if_pos ⟨hup, hf, hu, by simp [hl], hr⟩
  case sweep => exact if_pos hup
  case freed => exact fun r c hl hp => by rw [sweepEnd_used hl hp, List.mem_filter]
  case descriptor => exact fun qid hc hr => if_pos ⟨hup, hc, hr⟩

end Sys2Proof.Machine
end

section
/-! Proofs of the scope family: folds and counter clears. First what the operations of a switch or a clear leave alone, as
relations between the states before and after, then what stands in the sector's slot. -/

namespace Sys2Proof.Machine

/-! ### Frames -/

/-- Time, the counter folder, the kerf buffer and the cells of the medium are left alone. -/
structure Beside (s t : State) : Prop where
  time  : t.time = s.time
  cnt   : t.cnt = s.cnt
  krf   : t.krf = s.krf
  cells : t.med.cells = s.med.cells

/-- Time, the pending deltas and the folds are left alone. -/
structure DeltasStay (s t : State) : Prop where
  time    : t.time = s.time
  entries : t.cnt.entries = s.cnt.entries
  folds   : t.cnt.folds = s.cnt.folds

/-- The kerf slots are left alone too. -/
structure CountsStay (s t : State) : Prop extends DeltasStay s t where
  slots : t.krf.slots = s.krf.slots

/-- What a check that may poison a sector or start a dump leaves: the time, and a canonical list of folds (R140, R278). -/
structure ChecksKeep (s t : State) : Prop where
  time  : t.time = s.time
  folds : fwf s.cnt.folds = true → fwf t.cnt.folds = true

section
variable {s t u : State}

theorem Beside.refl (s : State) : Beside s s := ⟨rfl, rfl, rfl, rfl⟩

theorem Beside.trans (h : Beside s t) (k : Beside t u) : Beside s u :=
  ⟨k.time.trans h.time, k.cnt.trans h.cnt, k.krf.trans h.krf, k.cells.trans h.cells⟩

theorem DeltasStay.trans (h : DeltasStay s t) (k : DeltasStay t u) : DeltasStay s u :=
  ⟨k.time.trans h.time, k.entries.trans h.entries, k.folds.trans h.folds⟩

theorem CountsStay.refl (s : State) : CountsStay s s := ⟨⟨rfl, rfl, rfl⟩, rfl⟩

theorem CountsStay.trans (h : CountsStay s t) (k : CountsStay t u) : CountsStay s u :=
  ⟨h.toDeltasStay.trans k.toDeltasStay, k.slots.trans h.slots⟩

theorem ChecksKeep.refl (s : State) : ChecksKeep s s := ⟨rfl, id⟩

theorem ChecksKeep.trans (h : ChecksKeep s t) (k : ChecksKeep t u) : ChecksKeep s u := ⟨k.time.trans h.time, k.folds ∘ h.folds⟩

theorem Beside.counts (h : Beside s t) : CountsStay s t := ⟨⟨h.time, by rw [h.cnt], by rw [h.cnt]⟩, by rw [h.krf]⟩

theorem DeltasStay.checks (h : DeltasStay s t) : ChecksKeep s t := ⟨h.time, fun w => by rw [h.folds]; exact w⟩

theorem CountsStay.slotAt (h : CountsStay s t) (lsa : Nat) : slotAt t lsa = slotAt s lsa := by
  simp only [Machine.slotAt, h.slots]

/-- A program of the reserved area leaves them. -/
theorem Saved.counts (h : Saved s t) : CountsStay s t := by
  obtain ⟨_, _, _, _, _, _, _, _, e⟩ := h.rest
  rw [e]
  exact ⟨⟨rfl, rfl, rfl⟩, rfl⟩

section
variable {c : Prop} [Decidable c]

theorem Beside.ite (h : Beside s t) (k : Beside s u) : Beside s (if c then t else u) := by
  split <;> assumption

theorem DeltasStay.ite (h : DeltasStay s t) (k : DeltasStay s u) : DeltasStay s (if c then t else u) := by
  split <;> assumption

theorem CountsStay.ite (h : CountsStay s t) (k : CountsStay s u) : CountsStay s (if c then t else u) := by
  split <;> assumption

theorem ChecksKeep.ite (h : ChecksKeep s t) (k : ChecksKeep s u) : ChecksKeep s (if c then t else u) := by
  split <;> assumption
end

section
variable {γ : Type} {f : State → γ → State}

theorem Beside.foldl (hf : ∀ s a, Beside s (f s a)) (l : List γ) (s : State) : Beside s (l.foldl f s) :=
  List.foldlRecOn l f (.refl s) fun _ h a _ => h.trans (hf _ a)

theorem CountsStay.foldl (hf : ∀ s a, CountsStay s (f s a)) (l : List γ) (s : State) : CountsStay s (l.foldl f s) :=
  List.foldlRecOn l f (.refl s) fun _ h a _ => h.trans (hf _ a)

theorem ChecksKeep.foldl (hf : ∀ s a, ChecksKeep s (f s a)) (l : List γ) (s : State) : ChecksKeep s (l.foldl f s) :=
  List.foldlRecOn l f (.refl s) fun _ h a _ => h.trans (hf _ a)
end

/-! ### Registers, counters and the line caches -/

theorem hwSet_beside (s : State) (o : Nat) (v : Word64) : Beside s (hwSet s o v) := ⟨rfl, rfl, rfl, rfl⟩

theorem hwAdd_beside (s : State) (o n : Nat) : Beside s (hwAdd s o n) := hwSet_beside s _ _

theorem raise_beside (s : State) (o k : Nat) : Beside s (raise s o k) := hwSet_beside s _ _

theorem pmcCount_beside (s : State) (a : Nat) (b : Option Nat) (n : Nat) : Beside s (pmcCount s a b n) :=
  ⟨pmcCount_time .., pmcCount_cnt .., pmcCount_krf .., by rw [pmcCount_med]⟩

theorem evt_beside (s : State) (e : Nat × Nat) (i d : Nat) : Beside s (evt s e i d) := ⟨rfl, rfl, rfl, rfl⟩

theorem modRdp_beside (s : State) (f : Rdp → Rdp) : Beside s (modRdp s f) := ⟨rfl, rfl, rfl, rfl⟩

theorem raised_beside (s : State) (o k : Nat) (e : Nat × Nat) (i d : Nat) : Beside s (evt (raise s o k) e i d) :=
  (raise_beside s o k).trans (evt_beside _ e i d)

theorem cacheWrite_beside (s : State) (lsa : Nat) (d : Sector) : Beside s (cacheWrite s lsa d) := by
  have hold (s : State) (f : Rdp → Rdp) : Beside s (hwAdd (modRdp s f) Reg.RDP_WRITE_UPDATES 1) :=
    (modRdp_beside s f).trans (hwAdd_beside _ _ _)
  unfold cacheWrite
  dsimp only
  split <;> split
  · exact .refl s
  · exact hold _ _
  · exact hold _ _
  · exact (hold _ _).trans (hold _ _)

theorem cacheDrop_beside (s : State) (lsa : Nat) : Beside s (cacheDrop s lsa) := by
  have side (s : State) (f : Rdp → Rdp) (ch : Nat) : Beside s (wasted (modRdp s f) ch 1) :=
    ((modRdp_beside s f).trans (hwAdd_beside _ _ _)).trans (pmcCount_beside _ _ _ _)
  unfold cacheDrop
  cases cacheFind s lsa with
  | none =>
    dsimp only
    split
    · exact .refl s
    · exact side s _ _
  | some found =>
    have line : Beside s (if found.2.hold = .ordinary then modRdp s fun r => { r with cache := fdel r.cache found.1 }
        else evt (raise (modRdp s fun r => { r with cache := fdel r.cache found.1 }) Reg.RDP_INT_STATUS 3) Ev.RDP_LOCK_DROPPED noInst
          (lsa * 256)) :=
      .ite (modRdp_beside s _) ((modRdp_beside s _).trans (raised_beside _ _ _ _ _ _))
    dsimp only
    split
    · exact line
    · exact line.trans (side _ _ _)

/-! ### The records and the intent bit of a MIRRORED region (R316, R322) -/

theorem sealFail_beside (s : State) (c : Class) (lsa : Nat) (b : Bool) : Beside s (sealFail s c lsa b) := by
  have seen : ∀ (e : Nat × Nat) (o k : Nat) (v : Word64),
      Beside s (evt (hwSet (raise (hwSat s o 32 1) Reg.SEAL_INT_STATUS k) Reg.SEAL_LAST_FAIL v) e (lsaChannel lsa) 0) := fun e o k v =>
    (((hwSet_beside s o _).trans (raise_beside _ _ k)).trans (hwSet_beside _ _ v)).trans (evt_beside _ e _ _)
  exact .ite (seen _ _ _ _) ((seen _ _ _ _).trans (pmcCount_beside _ _ _ _))

theorem openCount_beside (s : State) (c : Class) (lsa : Nat) (o : Opened) : Beside s (openCount s c lsa o) := by
  cases o with
  | data => exact (hwAdd_beside s _ _).trans (pmcCount_beside _ _ _ _)
  | stale => exact (hwAdd_beside s _ _).trans (pmcCount_beside _ _ _ _)
  | tagFail => exact sealFail_beside s c lsa false
  | lsaFail => exact sealFail_beside s c lsa true
  | poison => exact .refl s
  | uncorr => exact .refl s

theorem modMir_beside (s : State) (n : MPort) (f : MirPort → MirPort) : Beside s (modMir s n f) := ⟨rfl, rfl, rfl, rfl⟩

theorem modMirRegion_beside (s : State) (r : Nat) (f : MirRegion → MirRegion) : Beside s (modMirRegion s r f) := ⟨rfl, rfl, rfl, rfl⟩

theorem markStale_beside (s : State) (rs : List Nat) : Beside s (markStale s rs) := .foldl (fun s _ => modMirRegion_beside s _ _) _ s

theorem sendFrame_beside (s : State) (n : MPort) (q : BitVec 48) (b : MirBody) : Beside s (sendFrame s n q b) := by
  have sent (e : Emit) : Beside s (emit s e) := ⟨rfl, rfl, rfl, rfl⟩
  exact .ite (.refl s) (.ite ((sent _).trans (modMir_beside _ n _)) (sent _))

theorem mirPump_beside (s : State) (n : MPort) (held : Nat) : Beside s (mirPump s n held) := by
  have read (s : State) (a b : Nat) : Beside s (journalRead s n a b) := .foldl (fun s _ => openCount_beside s _ _ _) _ s
  have send (s : State) (l : List (BitVec 48 × Record)) : Beside s (sendRecords s n l) :=
    .foldl (fun s _ => sendFrame_beside s _ _ _) l s
  exact .ite (.refl s)
    (((((modMir_beside s n _).trans (read _ _ _)).trans (send _ _)).trans (hwAdd_beside _ _ _)).trans (pmcCount_beside _ _ _ _))

theorem mirOverflow_beside (s : State) (n : MPort) : Beside s (mirOverflow s n) :=
  ((markStale_beside s _).trans (modMir_beside _ n _)).trans (.ite (.refl _) (raised_beside _ _ _ _ _ _))

theorem addReq_beside (s : State) (c : Class) (p : Bool) (lsa : Nat) (w : Purpose) : Beside s (addReq s c p lsa w) := by
  have asked (f : Medium → Medium) (hf : (f s.med).cells = s.med.cells) : Beside s (modMed s f) := ⟨rfl, rfl, rfl, hf⟩
  exact (asked _ rfl).trans (.ite (hwSet_beside _ _ _) (.refl _))

theorem journalAppend_beside (s : State) (n : MPort) (b : Nat) : Beside s (journalAppend s n b) :=
  ((modMir_beside s n _).trans (.foldl (fun s _ => addReq_beside s _ _ _ _) _ _)).trans (.ite (mirOverflow_beside _ n) (.refl _))

theorem mirPut_beside (s : State) (n : MPort) (ts : List TxRecord) : Beside s (mirPut s n ts) :=
  .ite ((modMir_beside s n _).trans (markStale_beside _ _))
    (((modMir_beside s n _).trans (mirPump_beside _ n _)).trans (.ite (mirOverflow_beside _ n) (journalAppend_beside _ n _)))

theorem formRecord_beside (s : State) (rec : Record) (cmd : Option Nat) : Beside s (formRecord s rec cmd) :=
  .ite (.refl s) ((modMirRegion_beside s _ _).trans (mirPut_beside _ _ _))

theorem askIntent_beside (s : State) (lsa : Nat) : Beside s (askIntent s lsa) :=
  .ite (.refl s) ⟨rfl, rfl, rfl, rfl⟩

/-- The mate is told of a sector's new bytes (R316, R322). -/
theorem told_beside (s : State) (lsa : Nat) (rec : Record) : Beside s (askIntent (formRecord s rec none) lsa) :=
  (formRecord_beside s rec none).trans (askIntent_beside _ lsa)

/-! ### A program of a sector, and what waited for it (R70, R276, R279, R290) -/

theorem saveInner_counts (s : State) (i : Inner) : CountsStay s (saveInner s i) :=
  .ite (.ite (.refl s) ⟨⟨rfl, rfl, rfl⟩, rfl⟩) (saveBytes_saved s i _).counts

theorem noteCeiling_counts (s : State) (r : Nat) (p : SealPlan) : CountsStay s (noteCeiling s r p) := by
  have set (s : State) (v : Region) : CountsStay s (setRegion s r v) := ⟨⟨rfl, rfl, rfl⟩, rfl⟩
  have force (s : State) : CountsStay s (forceRekey s r) := ⟨⟨rfl, rfl, rfl⟩, rfl⟩
  exact ((CountsStay.ite (saveInner_counts s _) (.refl s)).trans (.ite (set _ _) (set _ _))).trans (.ite (force _) (.refl _))

theorem landProgram_counts (s : State) (lsa : Nat) (d : Option Sector) (p : SealPlan) : CountsStay s (landProgram s lsa d p) := by
  have cell (s : State) (f : Medium → Medium) : CountsStay s (modMed s f) := ⟨⟨rfl, rfl, rfl⟩, rfl⟩
  unfold landProgram
  dsimp only
  split
  case isTrue hi => exact (landInner_saved s lsa d hi).counts
  case isFalse => exact ((noteCeiling_counts s _ p).trans (cell _ _)).trans (countSeal_saved _ _ _).counts

theorem clearVerified_counts (s : State) (lsa : Nat) : CountsStay s (clearVerified s lsa) := by
  have ended (s : State) (m : Mbx) (n : Nat) : CountsStay s (endClear s m n false) := ⟨⟨rfl, rfl, rfl⟩, rfl⟩
  have left (s : State) (m : Mbx) (v : Nat × Nat × Nat × List (BitVec 32)) : CountsStay s (putClear s m v) :=
    ⟨⟨rfl, rfl, rfl⟩, rfl⟩
  exact .foldl (fun s _ => .ite (ended s _ _) (left s _ _)) s.cnt.clears s

theorem programmed_counts (s : State) (lsa : Nat) : CountsStay s (programmed s lsa) := by
  have told (f : Lke → Lke) : CountsStay s (modLke s f) := ⟨⟨rfl, rfl, rfl⟩, rfl⟩
  exact .ite (.refl s) ((told _).trans (clearVerified_counts _ _))

/-- A program of class FOLD that verifies. -/
theorem foldProgram_counts (s : State) (lsa : Nat) (d : Option Sector) (p : SealPlan) :
    CountsStay s (programmed (countPsi (landProgram s lsa d p) lsa) lsa) :=
  ((landProgram_counts s lsa d p).trans (countPsi_saved _ _).counts).trans (programmed_counts _ _)

/-! ### The bytes of a sector enter its slot (R139, R279) -/

/-- A sector's slot is left with the bytes d, and no delta, no fold and no time has moved. -/
structure Puts (s t : State) (lsa : Nat) (d : Sector) : Prop extends DeltasStay s t where
  slot : ∃ y, slotAt t lsa = some y ∧ y.data = d

theorem Puts.of_deltas {lsa : Nat} {d : Sector} (h : DeltasStay s t) (k : Puts t u lsa d) : Puts s u lsa d :=
  ⟨h.trans k.toDeltasStay, k.slot⟩

theorem Puts.andThen {lsa : Nat} {d : Sector} (h : Puts s t lsa d) (k : CountsStay t u) : Puts s u lsa d :=
  ⟨h.toDeltasStay.trans k.toDeltasStay, by rw [k.slotAt]; exact h.slot⟩

theorem putSlot_puts (s : State) (lsa : Nat) (x : Slot) : Puts s (putSlot s lsa x) lsa x.data :=
  ⟨⟨rfl, rfl, rfl⟩, x, slotAt_putSlot s lsa x, rfl⟩

/-- A CLEAN slot may go to make room (R139). -/
theorem makeRoom_deltas (s : State) : DeltasStay s (makeRoom s) := by
  refine .ite ⟨rfl, rfl, rfl⟩ ?_
  split <;> exact ⟨rfl, rfl, rfl⟩

theorem putSector_puts (s : State) (lsa : Nat) (d : Sector) (aged : Bool) : Puts s (putSector s lsa d aged) lsa d := by
  have cleared : DeltasStay s (if isMarked s lsa then clearMark s lsa else s) := .ite ⟨rfl, rfl, rfl⟩ ⟨rfl, rfl, rfl⟩
  have joined (s : State) : CountsStay s (countJoin s) := ((hwAdd_beside s _ _).trans (pmcCount_beside _ _ _ _)).counts
  have stamped (s : State) : CountsStay s (takeStamp s) := ⟨⟨rfl, rfl, rfl⟩, rfl⟩
  have written (s : State) : CountsStay s (notePeak (cacheWrite (takeStamp s) lsa d)) :=
    ((stamped s).trans (cacheWrite_beside _ lsa d).counts).trans (hwSet_beside _ _ _).counts
  exact .of_deltas (cleared.trans (.ite (joined _).toDeltasStay (makeRoom_deltas _))) ((putSlot_puts _ lsa _).andThen (written _))

/-! ### The checks of a slot and of the fold cache (R140, R278) -/

theorem refuse_checks (s : State) (id : Nat) (r : Resp) : ChecksKeep s (refuse s id r) := by
  have left (s : State) (l : List HostCmd) : ChecksKeep s { s with cmds := l } := ⟨rfl, fun w => w⟩
  have gone (s : State) (p : HPort) : ChecksKeep s (discardResp s p) := ((hwSet_beside s _ _).trans (raise_beside _ _ 6)).counts.checks
  unfold refuse answer
  split
  case h_1 => exact .refl s
  case h_2 =>
    split
    · exact left s _
    · exact .ite (left s _) ((gone s _).trans (left _ _))

theorem dropRecord_checks (s : State) (xs : List HostCmd) (n : MPort) : ChecksKeep s (dropRecord s xs n) := by
  unfold dropRecord
  split <;> exact ⟨rfl, id⟩

theorem retryUndispatched_checks (s : State) : ChecksKeep s (retryUndispatched s) := by
  have unlined (s : State) (l : List Waiter) : ChecksKeep s { s with krf := { s.krf with waiters := l } } := ⟨rfl, id⟩
  exact (((dropRecord_checks s _ 0).trans (dropRecord_checks _ _ 1)).trans (.foldl (fun s _ => refuse_checks s _ _) _ _)).trans
    (unlined _ _)

/-- The commit of a fatal condition abandons every fold (R159). -/
theorem startCommit_checks (s : State) (why : CommitWhy) : ChecksKeep s (startCommit s why) := by
  have moved (s : State) (g : Glb) : ChecksKeep s { s with glb := g } := ⟨rfl, id⟩
  have abandoned (s : State) : ChecksKeep s (endFolds s) := ⟨rfl, fun _ => rfl⟩
  have runs (s : State) (x : Option (CommitWhy × Nat)) : ChecksKeep s { s with krf := { s.krf with running := x } } := ⟨rfl, id⟩
  exact .ite (.refl s) ((((moved s _).trans (retryUndispatched_checks _)).trans (abandoned _)).trans (runs _ _))

theorem setFatal_checks (s : State) (k : Nat) : ChecksKeep s (setFatal s k) := by
  have dumps (s : State) (d : Dumps) : ChecksKeep s { s with dumps := d } := ⟨rfl, id⟩
  have dump (s : State) : ChecksKeep s (beginDump s) := dumps s _
  have seen (o : Nat) (e : Nat × Nat) (d : Nat) : ChecksKeep s (evt (raise s o k) e noInst d) := (raised_beside s _ _ _ _ _).counts.checks
  exact .ite (.refl s) ((seen _ _ _).trans (.ite (.refl _) (.ite (.ite ((dumps _ _).trans (dump _)) (.refl _))
    ((dumps _ _).trans (startCommit_checks _ _)))))

theorem counterPoison_checks (s : State) (lsa cause : Nat) : ChecksKeep s (counterPoison s lsa cause) := by
  have dropped (s : State) (p : MedReq → Bool) : ChecksKeep s (dropReqs s p) := ⟨rfl, id⟩
  have folded (s : State) (e : FMap FoldEntry) (b : FMap Unit) :
      ChecksKeep s { s with cnt := { s.cnt with entries := e, folds := fdel s.cnt.folds lsa, poison := b } } := ⟨rfl, fwf_fdel⟩
  have noted (s : State) (o : Nat) (v : Word64) : ChecksKeep s (hwSet s o v) := (hwSet_beside s o v).counts.checks
  have said (s : State) (o k : Nat) (e : Nat × Nat) : ChecksKeep s (evt (raise s o k) e noInst 0) :=
    (raised_beside s _ _ _ _ _).counts.checks
  have lost (s : State) (e : Nat × Nat) : ChecksKeep s (evt s e noInst 0) := (evt_beside s e _ _).counts.checks
  exact .ite (.refl s) ((((dropped s _).trans (folded _ _ _)).trans (noted _ _ _)).trans
    (.ite ((noted _ _ _).trans (said _ _ _ _)) (.ite (said _ _ _ _) (.ite (lost _ _) (.refl _)))))

theorem poisonSlot_checks (s : State) (lsa : Nat) (x : Slot) (c : Nat) : ChecksKeep s (poisonSlot s lsa x c) := by
  have stored (s : State) (x : Slot) : ChecksKeep s (putSlot s lsa x) := ⟨rfl, id⟩
  have counted (s : State) : ChecksKeep s (countPoison s (lsaRegion lsa) true) := ⟨rfl, id⟩
  exact (((stored s _).trans (.ite (.refl _) (counted _))).trans (cacheDrop_beside _ lsa).counts.checks).trans
    (counterPoison_checks _ lsa c)

theorem slotCheck_checks (s : State) (lsa : Nat) : ChecksKeep s (slotCheck s lsa) := by
  unfold slotCheck
  split
  case h_1 => exact .refl s
  case h_2 x _ =>
    refine .ite (.refl s) ?_
    cases x.ecc with
    | good => exact .refl s
    | single => exact ⟨rfl, id⟩
    | double => exact .ite ⟨rfl, id⟩ ((poisonSlot_checks s lsa x 3).trans (setFatal_checks _ 0))

theorem poisonEntry_checks (s : State) (lsa : Nat) : ChecksKeep s (poisonEntry s lsa) := by
  have stamped (s : State) : ChecksKeep s (takeStamp s) := ⟨rfl, id⟩
  have peak (s : State) : ChecksKeep s (notePeak s) := (hwSet_beside s _ _).counts.checks
  exact (((makeRoom_deltas s).checks.trans (poisonSlot_checks _ lsa _ 2)).trans (stamped _)).trans (peak _)

theorem entryCheck_checks (s : State) (k : Nat) : ChecksKeep s (entryCheck s k) := by
  unfold entryCheck
  split
  case h_1 => exact .refl s
  case h_2 e _ =>
    cases e.ecc with
    | good => exact .refl s
    | single => exact ⟨rfl, id⟩
    | double => exact poisonEntry_checks s _

theorem entriesCheck_checks (s : State) (lsa : Nat) : ChecksKeep s (entriesCheck s lsa) :=
  .foldl (fun s (e : Nat × FoldEntry) => entryCheck_checks s e.1) (sectorEntries s lsa) s

/-! ### A switch of a fold (R275, R276) -/

/-- The bytes that a fold leaves stand in its sector's slot, if it has one. -/
theorem foldLand_slot {lsa : Nat} {x : Slot} (h : slotAt s lsa = some x) (v : Sector) (j : FoldJob) :
    Puts s (foldLand s lsa v j) lsa (addDeltas (if x.charged then x.data else v) j.snapshot) := by
  unfold foldLand
  rw [h]
  dsimp only
  cases hc : x.charged with
  | true => exact putSector_puts s lsa _ _
  | false =>
    have stored := (putSlot_puts s lsa { x with data := addDeltas v j.snapshot }).andThen
      (cacheWrite_beside _ lsa (addDeltas v j.snapshot)).counts
    simp only [Bool.false_eq_true, if_false]
    split
    · exact stored.andThen (foldProgram_counts _ _ _ _)
    · exact stored

/-- A sector without a slot takes its fold in the medium (R276). -/
theorem foldLand_medium {lsa : Nat} {v : Sector} {j : FoldJob} {p : SealPlan} (h : slotAt s lsa = none)
    (hp : sealPlan (cacheWrite s lsa (addDeltas v j.snapshot)) lsa = some p) :
    foldLand s lsa v j = programmed (countPsi (landProgram (cacheWrite s lsa (addDeltas v j.snapshot)) lsa
      (some (addDeltas v j.snapshot)) p) lsa) lsa := by
  unfold foldLand
  rw [h]
  dsimp only
  rw [hp]

theorem foldLand_deltas (s : State) (lsa : Nat) (v : Sector) (j : FoldJob) : DeltasStay s (foldLand s lsa v j) := by
  cases h : slotAt s lsa with
  | some x => exact (foldLand_slot h v j).toDeltasStay
  | none =>
    have written := (cacheWrite_beside s lsa (addDeltas v j.snapshot)).counts
    unfold foldLand
    rw [h]
    dsimp only
    split
    · exact (written.trans (foldProgram_counts _ _ _ _)).toDeltasStay
    · exact written.toDeltasStay

/-- The snapshot is out of the deltas, and the fold is over (R276). -/
def snapshotOut (s : State) (lsa : Nat) (j : FoldJob) : State :=
  modCnt s fun c => { c with entries := subSnapshot c.entries j.snapshot s.time.toNat, folds := fdel c.folds lsa }

/-- What follows in a switch is counts of folds, and the mate, which is told. -/
theorem foldSwitch_beside {lsa : Nat} (v : Sector) (j : FoldJob)
    (h : (foldOf (entriesCheck (slotCheck s lsa) lsa) lsa).isSome = true) :
    Beside (snapshotOut (foldLand (entriesCheck (slotCheck s lsa) lsa) lsa v j) lsa j) (foldSwitch s lsa v j) := by
  unfold foldSwitch
  dsimp only
  rw [if_neg (by simpa using Option.isSome_iff_ne_none.1 h)]
  exact ((hwAdd_beside _ _ _).trans (pmcCount_beside _ _ _ _)).trans (told_beside _ lsa _)

/-! ### The clearing instant (R279) -/

/-- The pairs of a range that has been cut out of a map are gone. -/
theorem frange_fcut {α : Type} (m : FMap α) (lo hi : Nat) : frange (fcut m lo hi) lo hi = [] := by
  rw [frange, fcut, List.filter_filter, List.filter_eq_nil_iff]
  intro e _
  simp

theorem clearSector_puts (s : State) (lsa : Nat) :
    Puts (modCnt s fun c => { c with entries := fcut c.entries (pairBase lsa) (pairBase lsa + 16) }) (clearSector s lsa) lsa 0 := by
  have unmarked (s : State) : CountsStay s (modCnt s fun c => { c with poison := fdel c.poison lsa }) := ⟨⟨rfl, rfl, rfl⟩, rfl⟩
  exact (putSector_puts _ lsa 0 _).andThen ((unmarked _).trans (told_beside _ lsa _).counts)

theorem clearSector_entries (s : State) (lsa : Nat) : sectorEntries (clearSector s lsa) lsa = [] := by
  rw [sectorEntries, (clearSector_puts s lsa).entries]
  exact frange_fcut _ _ _

/-! ### The commands -/

theorem exec_foldTimer {lsa : BitVec 32} (hr : foldsRun s = true) (he : sectorEntries s lsa.toNat ≠ []) (hf : foldOf s lsa.toNat = none) :
    exec (.foldTimer lsa) s = done (settle (if (foldOf (startFold s lsa.toNat) lsa.toNat).isSome
      then hwAdd (startFold s lsa.toNat) Reg.CNT_TIMER_FOLDS 1 else startFold s lsa.toNat)) :=
  if_pos ⟨hr, by simpa using he, by rw [hf]; rfl⟩

theorem exec_foldSwitch {lsa : BitVec 32} {j : FoldJob} {v : Sector} (hj : foldOf s lsa.toNat = some j) (hv : j.value = some v)
    (hd : j.ready = true) (hr : foldsRun s = true) : exec (.foldSwitch lsa) s = done (settle (foldSwitch s lsa.toNat v j)) := by
  show execFoldSwitch lsa s = _
  rw [execFoldSwitch, hj]
  dsimp only
  rw [hv]
  exact if_pos ⟨hr, hd⟩

theorem foldSwitch_of_isNone {lsa : Nat} (v : Sector) (j : FoldJob)
    (h : (foldOf (entriesCheck (slotCheck s lsa) lsa) lsa).isNone = true) :
    foldSwitch s lsa v j = entriesCheck (slotCheck s lsa) lsa := if_pos h

end

/-- Settles O43: the commands are their guards; a switch is `foldLand` followed by what leaves slots and cells alone, and a clear is a
WR256 of zero after the cut of the sector's deltas. -/
theorem folds_and_clears : Obligations.folds_and_clears := by
  intro s
  refine ⟨fun lsa hr he hf => exec_foldTimer hr he hf, fun hup => if_pos hup, fun lsa j v hj hv hd hr => exec_foldSwitch hj hv hd hr,
    fun lsa j v _ hw => ?switch, fun m hr => if_pos hr, fun lsa _ => ?clear⟩
  case clear =>
    obtain ⟨y, hy, hd⟩ := (clearSector_puts s lsa).slot
    exact ⟨y, hy, hd, clearSector_entries s lsa⟩
  case switch =>
    refine ⟨foldSwitch_of_isNone v j, fun h => ?_⟩
    have checks := (slotCheck_checks s lsa).trans (entriesCheck_checks _ lsa)
    have after := foldSwitch_beside v j h
    generalize entriesCheck (slotCheck s lsa) lsa = t at checks after h ⊢
    have land := foldLand_deltas t lsa v j
    refine ⟨?entries, ?ended, fun x hx => ?slot, fun hn p hp => ⟨foldLand_medium hn hp, after.cells⟩⟩
    case entries =>
      rw [after.cnt, ← checks.time, ← land.time, ← land.entries]
      rfl
    case ended =>
      rw [foldOf, after.cnt]
      exact fget_fdel_self (by rw [land.folds]; exact checks.folds hw) lsa
    case slot =>
      obtain ⟨y, hy, hd⟩ := (foldLand_slot hx v j).slot
      exact ⟨y, (slotAt_congr after.krf lsa).trans hy, hd⟩

end Sys2Proof.Machine
end

section
/-! Proofs of the architecture family: what commands leave alone, offsets outside every window, and the settling pass. -/

namespace Sys2Proof.Machine

section
variable {s t : State}

/-! ### What a command leaves alone (R34, R435 to R448) -/

/-- `exec_keeps` of a next state. -/
theorem keeps_of_exec {i : Instr} (hi : ∀ obs, i ≠ .resetRelease obs) (h : exec i s = .next t) : Keeps s t :=
  (congrArg (KeepsOut s) h).mp (exec_keeps i s hi)

/-- `exec_stays` of a next state. -/
theorem stays_of_exec {i : Instr} (hi : powerCommand i = false) (h : exec i s = .next t) : Stays s t :=
  (congrArg (StaysOut s) h).mp (exec_stays i s hi)

/-! ### Offsets outside every window (R29) -/

theorem busRead_outside {o : Nat} (h : inWindow o = false) (s : State) (size : Nat) : busRead s o size = (0, s) := by
  rw [busRead, h]
  rfl

theorem busWrite_outside {o : Nat} (h : inWindow o = false) (s : State) (size v : Nat) : busWrite s o size v = s := by
  rw [busWrite, h]
  rfl

theorem exec_registerReadClear_bar0 (he : endpointUp s = true) (hd : s.pcie.cfg.d3hot = false) (off : BitVec 24) (size : Nat) :
    exec (.registerReadClear (.bar0 off) size) s =
      done { (busRead s off.toNat size).2 with busRead := BitVec.ofNat 64 (busRead s off.toNat size).1 } := by
  show execRegisterReadClear (.bar0 off) size s = _
  have answered : readFrom s size (.bar0 off) = some (busRead s off.toNat size) := by
    rw [readFrom, barRead, he, hd]
    rfl
  rw [execRegisterReadClear, answered]

theorem exec_registerWrite_bar0 (hc : coreUp s = true) (he : endpointUp s = true) (hd : s.pcie.cfg.d3hot = false) (off : BitVec 24)
    (size : Nat) (value : BitVec 64) :
    exec (.registerWrite (.bar0 off) size value) s =
      done (settle (busWrite s off.toNat size (if size = 4 then value.toNat % 2 ^ 32 else value.toNat))) :=
  (if_neg (by simp [hd])).trans (if_pos ⟨hc, he⟩)

/-! ### The alias guard and late settling (R203, R212) -/

theorem exec_aliasGuardBegin {ch : Chan} (hc : coreUp s = true) (hd : guardDue s (chanAt s ch.val) = true)
    (hg : (chanAt s ch.val).guard = false) :
    exec (.aliasGuardBegin ch) s = done (evt (raise (modChan s ch.val fun c => { c with guard := true })
      (Reg.BLK_INT_STATUS (ch.val / 8)) 8) Ev.BLK_ALIAS_GUARD (ch.val / 8) 0) :=
  if_pos ⟨hc, hd, by rw [hg]; rfl⟩

theorem exec_settleLate (hc : coreUp s = true) (hb : s.glb.bounds = false) (hs : s.glb.state ≠ .boot) :
    exec .settleLate s = done (((List.range 8).filter fun b => !(List.range 8).all fun j => settledOrLost s (8 * b + j)).foldl
      (fun s b => evt (raise s (Reg.BLK_INT_STATUS b) 5) Ev.BLK_SETTLE_LATE b 0) s) :=
  if_neg (by simp [hc, hb, hs])

/-! ### The samples of a settling pass (R211) -/

theorem pairwise_of_rising : ∀ {l : List Nat}, rising l = true → l.Pairwise (· < ·)
  | [], _ => .nil
  | [_], _ => List.pairwise_singleton _ _
  | a :: b :: l, h => by
    rw [rising, Bool.and_eq_true, decide_eq_true_eq] at h
    obtain ⟨hab, hl⟩ := h
    have ordered := pairwise_of_rising hl
    refine List.pairwise_cons.2 ⟨fun x hx => ?_, ordered⟩
    rcases List.mem_cons.1 hx with rfl | hx
    · exact hab
    · exact hab.trans (List.rel_of_pairwise_cons ordered hx)

/-- A pass takes its number of samples, no two of them of one 2 MiB. -/
theorem samplesFit_spread {ch : Nat} {samples : List (BitVec 32)} {first : List ReadOutcome} (h : samplesFit s ch samples first = true) :
    samples.length = settleSamples s ∧ (samples.map fun x => pieceOf x.toNat).Nodup := by
  simp only [samplesFit, Bool.and_eq_true, decide_eq_true_eq] at h
  obtain ⟨⟨⟨count, _⟩, _⟩, rises⟩ := h
  exact ⟨count, (pairwise_of_rising rises).imp Nat.ne_of_lt⟩

/-! ### The offset of a channel (R211) -/

/-- The first least candidate by a measure, of one in hand and a list of further ones. -/
def leastOf {α : Type} (f : α → Nat) (b : α) (l : List α) : α := l.foldl (fun best d => if f d < f best then d else best) b

theorem leastOf_cons {α : Type} (f : α → Nat) (b a : α) (l : List α) :
    leastOf f b (a :: l) = leastOf f (if f a < f b then a else b) l := rfl

theorem leastOf_mem {α : Type} (f : α → Nat) (l : List α) (b : α) : leastOf f b l ∈ b :: l := by
  induction l generalizing b with
  | nil => exact List.mem_singleton.2 rfl
  | cons a l ih =>
    rw [leastOf_cons]
    split
    · exact List.mem_cons_of_mem b (ih a)
    · exact List.cons_subset_cons b (List.subset_cons_self a l) (ih b)

theorem leastOf_le {α : Type} (f : α → Nat) (l : List α) (b : α) : ∀ d ∈ b :: l, f (leastOf f b l) ≤ f d := by
  induction l generalizing b with
  | nil => exact fun d hd => (List.mem_singleton.1 hd) ▸ Nat.le_refl _
  | cons a l ih =>
    have next := ih (if f a < f b then a else b)
    have kept := next _ List.mem_cons_self
    rw [← leastOf_cons] at next kept
    intro d hd
    rcases List.mem_cons.1 hd with rfl | hd
    · split at kept <;> omega
    · rcases List.mem_cons.1 hd with rfl | hd
      · split at kept <;> omega
      · exact next d (List.mem_cons_of_mem _ hd)

/-- The symbols in error at an offset, summed over the samples sensed again. -/
def settleTotal (s : State) (code : Nat) (more : List (Nat × ReadOutcome)) (d : Int) : Nat :=
  (more.map fun e => settleErrors s e.1 code e.2 d).sum

theorem settleOffset_eq (s : State) (code : Nat) (more : List (Nat × ReadOutcome)) :
    settleOffset s code more = leastOf (settleTotal s code more) 0 settleOffsets := rfl

theorem mem_settleOffsets {d : Int} : d ∈ settleOffsets ↔ -4 ≤ d ∧ d ≤ 4 := by
  simp only [settleOffsets, List.mem_cons, List.not_mem_nil, or_false]
  omega

theorem settleOffset_mem (s : State) (code : Nat) (more : List (Nat × ReadOutcome)) : settleOffset s code more ∈ settleOffsets := by
  rw [settleOffset_eq]
  rcases List.mem_cons.1 (leastOf_mem (settleTotal s code more) settleOffsets 0) with h | h
  · rw [h]
    decide
  · exact h

theorem settleOffset_least (s : State) (code : Nat) (more : List (Nat × ReadOutcome)) {d : Int} (hd : d ∈ settleOffsets) :
    settleTotal s code more (settleOffset s code more) ≤ settleTotal s code more d := by
  rw [settleOffset_eq]
  exact leastOf_le _ _ _ d (List.mem_cons_of_mem 0 hd)

/-! ### The end of a pass, and BOUNDS (R34, R211) -/

theorem exec_settlingPassDone {ch : Chan} {samples : List (BitVec 32)} {first : List ReadOutcome} (again : List ReadOutcome)
    (hr : passRuns s ch.val samples = true) (hf : samplesFit s ch.val samples first = true) :
    exec (.settlingPassDone ch samples first again) s =
      let ds := sampleDecodes s ch.val samples first
      let more := samplesAgain ds again
      let offset := settleOffset s (settledCode s ch.val) more
      let t := settleCare (modChan s ch.val fun c => { c with settled := true, offset := BitVec.ofInt 8 offset }) ch.val ds more.length
      done (settle (boundsRule
        (if (List.range 8).all fun j => settledOrLost t (8 * (ch.val / 8) + j) then raise t (Reg.BLK_INT_STATUS (ch.val / 8)) 4 else t))) :=
  if_neg (by simp [hr, hf])

theorem foldl_evt_glb (ev : Nat × Nat) (data : Nat) (l : List Nat) (s : State) :
    (l.foldl (fun s b => evt s ev b data) s).glb = s.glb := by
  induction l generalizing s with
  | nil => rfl
  | cons b l ih => rw [List.foldl_cons, ih, evt_glb]

theorem stateRule_glb (s : State) :
    (stateRule s).glb = if s.glb.state = .fwdReady ∧ s.glb.bounds = true then { s.glb with state := .operational } else s.glb := by
  unfold stateRule
  split <;> rfl

theorem boundsRule_glb (hb : s.glb.bounds = false) (hs : (List.range 64).all (settledOrLost s) = true) :
    (boundsRule s).glb = { s.glb with bounds := true, state := if s.glb.state = .fwdReady then .operational else s.glb.state } := by
  rw [boundsRule, if_neg (by simp [hb, hs])]
  simp only [stateRule_glb, foldl_evt_glb, hwSet_glb, and_true]
  split <;> rfl

theorem boundsRule_of_unsettled (hs : (List.range 64).all (settledOrLost s) = false) : boundsRule s = s := by
  rw [boundsRule, if_pos (by simp [hs])]

end

/-- Settles O5: what every command keeps, and what stays where it takes no power, give each clause of a next state. -/
theorem commands_that_leave_state_and_sequencer : Obligations.commands_that_leave_state_and_sequencer := by
  refine ⟨fun i s t hi h hn => ?_, fun i s t hi h => ?_⟩
  · obtain ⟨_, stays | reset⟩ := keeps_of_exec hi h
    · exact ⟨stays.reset, stays.order, stays.fwd, stays.bounds, stays.held⟩
    · exact absurd reset hn
  · obtain ⟨_, glb, seq⟩ := stays_of_exec hi h
    exact ⟨seq, glb.reset, glb.order⟩

/-- Settles O14: outside every window neither a read nor a write of the bus does anything. -/
theorem offsets_outside_every_window : Obligations.offsets_outside_every_window := by
  intro off size value s hc he hd hw
  constructor
  · rw [exec_registerReadClear_bar0 he hd, busRead_outside hw]
    rfl
  · rw [exec_registerWrite_bar0 hc he hd, busWrite_outside hw]
    rfl

/-- Settles O39: the commands are their guards, the offset is the least of a search over the nine, and BOUNDS follows the channels. -/
theorem settling : Obligations.settling := by
  refine ⟨fun s hc => ⟨fun ch hd hg => exec_aliasGuardBegin hc hd hg, fun hb hs => exec_settleLate hc hb hs⟩,
    fun ch samples first again s hr hf => ?pass, fun s => boundsRule_glb, fun s => boundsRule_of_unsettled⟩
  case pass =>
    intro ds more offset t
    obtain ⟨count, spread⟩ := samplesFit_spread hf
    obtain ⟨low, high⟩ := mem_settleOffsets.1 (settleOffset_mem s (settledCode s ch.val) more)
    exact ⟨exec_settlingPassDone again hr hf, count, spread, low, high,
      fun d hl hh => settleOffset_least s (settledCode s ch.val) more (mem_settleOffsets.2 ⟨hl, hh⟩)⟩

end Sys2Proof.Machine
end

section
/-! Proofs of the address space family: where a sector lies, and the bytes that a write replaces. -/

namespace Sys2Proof.Machine

/-! ### Addresses (R41, R45) -/

theorem regionOf_eq (pa : PA) : regionOf pa = pa.toNat / 2 ^ 31 := by
  have := pa.isLt
  unfold regionOf bitsOf
  omega

theorem sectorOf_eq (pa : PA) : sectorOf pa = pa.toNat / 2 ^ 8 := by
  have := pa.isLt
  unfold sectorOf bitsOf
  omega

theorem lsaRegion_sectorOf (pa : PA) : lsaRegion (sectorOf pa) = regionOf pa := by
  rw [lsaRegion, sectorOf_eq, regionOf_eq]
  omega

theorem lsaChannel_sectorOf (pa : PA) :
    lsaChannel (sectorOf pa) = 8 * (regionOf pa % 8) + pa.toNat / 2 ^ 12 % 2 ^ 19 % 8 := by
  rw [lsaChannel, lsaRegion_sectorOf, lsaChunk, sectorOf_eq]
  omega

/-- The first byte of chunk c of region r. -/
def chunkPa (r c : Nat) : PA := BitVec.ofNat 40 (r * 2 ^ 31 + c * 2 ^ 12)

theorem toNat_chunkPa {r c : Nat} (hr : r < 480) (hc : c < 2 ^ 19) : (chunkPa r c).toNat = r * 2 ^ 31 + c * 2 ^ 12 := by
  rw [chunkPa, BitVec.toNat_ofNat]
  omega

/-- Of eight adjacent regions one lies on each blank. -/
theorem exists_region_of_blank (n : Nat) {b : Nat} (hb : b < 8) : ∃ r, n ≤ r ∧ r < n + 8 ∧ r % 8 = b :=
  ⟨n + (b + 8 - n % 8) % 8, by omega, by omega, by omega⟩

/-- Settles O6: the fields of an address are quotients, and the chunk ch mod 8 of a region on the blank ch / 8 lies on channel ch. -/
theorem address_map : Obligations.address_map := by
  refine ⟨fun pa => ⟨lsaRegion_sectorOf pa, regionOf_eq pa, lsaChannel_sectorOf pa, ?blank⟩, fun n ch hn hch => ?covers⟩
  case blank =>
    rw [lsaChannel_sectorOf, regionBlank]
    omega
  case covers =>
    obtain ⟨r, low, high, blank⟩ := exists_region_of_blank n (b := ch / 8) (by omega)
    have value := toNat_chunkPa (r := r) (c := ch % 8) (by omega) (by omega)
    have region : regionOf (chunkPa r (ch % 8)) = r := by
      rw [regionOf_eq, value]
      omega
    refine ⟨chunkPa r (ch % 8), ?_, by omega, by omega, ?_⟩
    · rw [inUser, value, decide_eq_true_eq]
      omega
    · rw [lsaChannel_sectorOf, region, value]
      omega

/-! ### Bytes of a sector (R42, R118) -/

theorem getLsbD_maskOf (n lo w k : Nat) : (maskOf n lo w).getLsbD k = decide (k < n ∧ lo ≤ k ∧ k < lo + w) := by
  rw [maskOf, BitVec.getLsbD_ofNat, Nat.testBit_mul_two_pow, Nat.testBit_two_pow_sub_one, Bool.eq_iff_iff]
  simp only [Bool.and_eq_true, decide_eq_true_eq]
  omega

theorem getLsbD_byteOf {n : Nat} (x : BitVec n) (i b : Nat) : (byteOf x i).getLsbD b = (decide (b < 8) && x.getLsbD (8 * i + b)) :=
  BitVec.getLsbD_extractLsb' ..

theorem getLsbD_putField (d v : Sector) {lo w k : Nat} (hw : lo + w ≤ 2048) (hk : k < 2048) :
    (putField d lo w v).getLsbD k = if lo ≤ k ∧ k < lo + w then v.getLsbD (k - lo) else d.getLsbD k := by
  have inside : (decide (k < 2048) : Bool) = true := decide_eq_true hk
  simp only [putField, BitVec.getLsbD_or, BitVec.getLsbD_and, BitVec.getLsbD_not, BitVec.getLsbD_shiftLeft, getLsbD_maskOf, inside,
    Bool.true_and]
  by_cases low : lo ≤ k
  · by_cases high : k < lo + w
    · simp [low, high, hk, show k - lo < 2048 by omega, show k - lo < w by omega]
    · simp [low, high, hk, show ¬ k - lo < w by omega]
  · simp [low, Nat.lt_of_not_le low]

/-- A field of whole bytes replaces its own bytes of a sector, and no other. -/
theorem byteOf_putField (d v : Sector) {lo n j : Nat} (hn : lo + n ≤ 256) (hj : j < 256) :
    byteOf (putField d (8 * lo) (8 * n) v) j = if lo ≤ j ∧ j < lo + n then byteOf v (j - lo) else byteOf d j := by
  refine BitVec.eq_of_getLsbD_eq fun b hb => ?_
  rw [getLsbD_byteOf, getLsbD_putField d v (by omega) (by omega)]
  by_cases within : lo ≤ j ∧ j < lo + n
  · rw [if_pos (by omega), if_pos within, getLsbD_byteOf, show 8 * (j - lo) + b = 8 * j + b - 8 * lo by omega]
  · rw [if_neg (by omega), if_neg within, getLsbD_byteOf]

theorem byteOf_setWidth {n m : Nat} (x : BitVec n) {i : Nat} (h : 8 * i + 8 ≤ m) : byteOf (x.setWidth m) i = byteOf x i := by
  refine BitVec.eq_of_getLsbD_eq fun b hb => ?_
  rw [getLsbD_byteOf, getLsbD_byteOf, BitVec.getLsbD_setWidth, decide_eq_true (by omega : 8 * i + b < m), Bool.true_and]

theorem byteOf_putLine (d : Sector) (l : Line) {k j : Nat} (hk : k < 4) (hj : j < 256) :
    byteOf (putLine d k l) j = if j / 64 = k then byteOf l (j % 64) else byteOf d j := by
  rw [putLine, show 512 * k = 8 * (64 * k) by omega]
  refine (byteOf_putField d _ (n := 64) (by omega) hj).trans ?_
  by_cases own : j / 64 = k
  · rw [if_pos (by omega), if_pos own, byteOf_setWidth l (by omega), show j - 64 * k = j % 64 by omega]
  · rw [if_neg (by omega), if_neg own]

theorem byteOf_putWord (d : Sector) (w : Word64) {k j : Nat} (hk : k < 32) (hj : j < 256) :
    byteOf (putWord d k w) j = if j / 8 = k then byteOf w (j % 8) else byteOf d j := by
  rw [putWord, show 64 * k = 8 * (8 * k) by omega]
  refine (byteOf_putField d _ (n := 8) (by omega) hj).trans ?_
  by_cases own : j / 8 = k
  · rw [if_pos (by omega), if_pos own, byteOf_setWidth w (by omega), show j - 8 * k = j % 8 by omega]
  · rw [if_neg (by omega), if_neg own]

/-- The low n bytes that a byte mask selects, as a number (R118). -/
def maskSum (m : BitVec 64) (n : Nat) : Nat := ((List.range n).map fun i => if m.getLsbD i then 255 * 2 ^ (8 * i) else 0).sum

theorem byteMask_eq (m : BitVec 64) : byteMask m = BitVec.ofNat 512 (maskSum m 64) := rfl

theorem maskSum_succ (m : BitVec 64) (n : Nat) :
    maskSum m (n + 1) = 2 ^ (8 * n) * (if m.getLsbD n then 255 else 0) + maskSum m n := by
  rw [maskSum, List.range_succ, List.map_append, List.sum_append, ← maskSum, Nat.add_comm]
  split <;> simp_all [Nat.mul_comm]

theorem maskSum_lt (m : BitVec 64) (n : Nat) : maskSum m n < 2 ^ (8 * n) := by
  induction n with
  | zero => exact Nat.one_pos
  | succ n ih =>
    rw [maskSum_succ, show 8 * (n + 1) = 8 * n + 8 from rfl, Nat.pow_add]
    split <;> omega

theorem testBit_maskSum (m : BitVec 64) (n k : Nat) : (maskSum m n).testBit k = (decide (k < 8 * n) && m.getLsbD (k / 8)) := by
  induction n with
  | zero => simp [maskSum]
  | succ n ih =>
    rw [maskSum_succ, Nat.testBit_two_pow_mul_add _ (maskSum_lt m n), ih]
    by_cases low : k < 8 * n
    · rw [if_pos low, decide_eq_true low, decide_eq_true (by omega : k < 8 * (n + 1))]
    · rw [if_neg low]
      by_cases own : k < 8 * (n + 1)
      · rw [decide_eq_true own, show k / 8 = n by omega]
        cases m.getLsbD n with
        | false => simp
        | true =>
          rw [if_pos rfl, show (255 : Nat) = 2 ^ 8 - 1 from rfl, Nat.testBit_two_pow_sub_one]
          exact decide_eq_true (by omega)
      · rw [decide_eq_false own, Bool.false_and]
        have small : (if m.getLsbD n then 255 else 0) < 2 ^ 8 := by split <;> decide
        exact Nat.testBit_lt_two_pow (small.trans_le (Nat.pow_le_pow_right (by decide) (by omega)))

theorem getLsbD_byteMask (m : BitVec 64) {k : Nat} (h : k < 512) : (byteMask m).getLsbD k = m.getLsbD (k / 8) := by
  rw [byteMask_eq, BitVec.getLsbD_ofNat, testBit_maskSum, decide_eq_true h, Bool.true_and, Bool.true_and]

/-- A byte mask selects whole bytes. -/
theorem byteOf_merge (m : BitVec 64) (a b : Line) {j : Nat} (hj : j < 64) :
    byteOf ((a &&& ~~~ byteMask m) ||| (b &&& byteMask m)) j = if m.getLsbD j then byteOf b j else byteOf a j := by
  refine BitVec.eq_of_getLsbD_eq fun k hk => ?_
  have place : 8 * j + k < 512 := by omega
  rw [getLsbD_byteOf, BitVec.getLsbD_or, BitVec.getLsbD_and, BitVec.getLsbD_and, BitVec.getLsbD_not, getLsbD_byteMask m place,
    show (8 * j + k) / 8 = j by omega]
  cases m.getLsbD j <;> simp [getLsbD_byteOf, place]

/-- Settles O27: each write replaces a field of whole bytes. -/
theorem writes_change_their_bytes_only : Obligations.writes_change_their_bytes_only :=
  ⟨fun d l _ _ hk hj => byteOf_putLine d l hk hj, fun d w _ _ hk hj => byteOf_putWord d w hk hj, fun m a b _ hj => byteOf_merge m a b hj⟩

end Sys2Proof.Machine
end

section
/-! Proofs of the address space family: a mailbox command that is performed at once, and the Device group. -/

namespace Sys2Proof.Machine

/-! ### A captured request (R341, R342) -/

/-- The cells of a list of bytes whose first has number n. -/
def cellsFrom (l : List Byte) (n : Nat) : List Host.Cell := ((l.zipIdx n).filter fun e => e.1 != 0).map fun e => (e.2, e.1)

theorem cellsFrom_cons (b : Byte) (l : List Byte) (n : Nat) :
    cellsFrom (b :: l) n = if b = 0 then cellsFrom l (n + 1) else (n, b) :: cellsFrom l (n + 1) := by
  unfold cellsFrom
  rw [List.zipIdx_cons, List.filter_cons]
  by_cases h : b = 0#8 <;> simp [h]

theorem le_of_mem_cellsFrom {l : List Byte} {n : Nat} {e : Host.Cell} (h : e ∈ cellsFrom l n) : n ≤ e.1 := by
  rw [cellsFrom, List.mem_map] at h
  obtain ⟨x, hx, rfl⟩ := h
  exact (List.mem_zipIdx (List.mem_filter.1 hx).1).1

/-- A byte of a buffer that begins with the cells of a list, before any other cell, is that of the list. -/
theorem bufByte_cellsFrom (l : List Byte) (n : Nat) {m : List Host.Cell} (hm : ∀ e ∈ m, n + l.length ≤ e.1) (i : Nat) (hi : i < l.length) :
    bufByte (cellsFrom l n ++ m) (n + i) = l[i] := by
  induction l generalizing n i with
  | nil => exact absurd hi (Nat.not_lt_zero i)
  | cons b l ih =>
    rw [List.length_cons] at hm hi
    have later : ∀ e ∈ cellsFrom l (n + 1) ++ m, n < e.1 := fun e he => by
      rcases List.mem_append.1 he with he | he
      · exact le_of_mem_cellsFrom he
      · have := hm e he
        omega
    rw [cellsFrom_cons]
    cases i with
    | zero =>
      split
      case isTrue zero => simp [bufByte, fgetD, fget_none later, zero]
      case isFalse => simp [bufByte, fgetD, fget]
    | succ i =>
      have rest := ih (n + 1) (fun e he => by have := hm e he; omega) i (by omega)
      rw [show n + 1 + i = n + (i + 1) by omega] at rest
      split
      case isTrue => exact rest
      case isFalse =>
        rw [List.cons_append, bufByte, fgetD, fget, if_neg (by omega), if_neg (by omega)]
        exact rest

/-- What is written to a buffer is read back. -/
theorem bufBytes_bufWrite (m : List Host.Cell) (l : List Byte) : bufBytes (bufWrite m l) l.length = l := by
  have later : ∀ e ∈ m.filter fun e => decide (l.length ≤ e.1), 0 + l.length ≤ e.1 := fun e he => by
    simpa using (List.mem_filter.1 he).2
  refine List.ext_getElem (by simp [bufBytes]) fun i hi hl => ?_
  have read := bufByte_cellsFrom l 0 later i hl
  rw [Nat.zero_add] at read
  rw [← read]
  simp only [bufBytes, List.getElem_map, List.getElem_range]
  rfl

section
variable (s : State) (m : Mbx) (op : Nat) (req : List Byte) (irq : Bool)

theorem mbxReq_captured : mbxReq (captured s m op req irq) m = req := by
  simp only [mbxReq, captured, mbxCapture, mbxPlace, modMbx_mbx, setCfg_mbx, vmod_self, bufBytes_bufWrite]

theorem mbxOp_captured {op : Nat} (h : op < 2 ^ 16) : mbxOp (captured s m op req irq) m = op := by
  simp only [mbxOp, captured, mbxCapture, modMbx_mbx, vmod_self, BitVec.toNat_ofNat, Nat.mod_eq_of_lt h]

theorem captured_state : ((captured s m op req irq).mbx[m]).state = .busy := by
  simp only [captured, mbxCapture, modMbx_mbx, vmod_self]

theorem captured_waits : ((captured s m op req irq).mbx[m]).waits = true := by
  simp only [captured, mbxCapture, modMbx_mbx, vmod_self]
end

/-! ### A command that is performed at once (R342 to R346) -/

section
variable {i : Instr} {m : Mbx} {op : Nat} {req : List Byte} {irq flash : Bool} {s c : State}
variable (hr : mbxRow i = some (m, op, req, irq, flash))
include hr

/-- The rows of the mailboxes write their command and send it. -/
theorem exec_mbx (s : State) : exec i s = done (mbxCommand s m op req irq flash) := by
  cases i <;> simp only [mbxRow, Option.some.injEq, Prod.mk.injEq, reduceCtorEq] at hr <;> obtain ⟨rfl, rfl, rfl, rfl, rfl⟩ := hr <;> rfl

theorem mbxRow_op_lt : op < 2 ^ 16 := by
  cases i <;> simp only [mbxRow, Option.some.injEq, Prod.mk.injEq, reduceCtorEq] at hr <;> obtain ⟨-, rfl, -⟩ := hr <;> omega

/-- What `mbxStart` says of a row. -/
theorem mbxStart_facts (hs : mbxStart i s = some c) : c = captured s m op req irq ∧ coreUp s = true ∧ (s.mbx[m]).state = .idle ∧
    mbxGate c op = none ∧ mbxBar c m = none ∧ mbxBlocked c m = false ∧ (s.clk.move = none ∨ op = 0x0A03) := by
  rw [mbxStart, hr] at hs
  dsimp only at hs
  split at hs
  case isFalse => cases hs
  case isTrue h =>
    cases hs
    simp only [Bool.and_eq_true, Bool.or_eq_true, decide_eq_true_eq, Option.isNone_iff_eq_none, Bool.not_eq_true', beq_iff_eq] at h
    obtain ⟨⟨⟨⟨⟨⟨up, idle⟩, -⟩, gate⟩, bar⟩, free⟩, still⟩ := h
    exact ⟨rfl, up, idle, gate, bar, free, still⟩

/-- A row whose command starts is performed in the state that has captured it. -/
theorem exec_mbxStart (hs : mbxStart i s = some c) :
    exec i s = .next (fin (settle (mbxSettle m (mbxPerform c m flash)))) := by
  obtain ⟨rfl, up, idle, gate, bar, free, still⟩ := mbxStart_facts hr hs
  have code := mbxOp_captured s m req irq (mbxRow_op_lt hr)
  have moves : ¬ ((captured s m op req irq).clk.move.isSome = true ∧ op ≠ 0x0A03) := by
    rintro ⟨moving, other⟩
    rcases still with still | still
    · rw [show (captured s m op req irq).clk = s.clk from rfl, still] at moving
      cases moving
    · exact other still
  rw [exec_mbx hr, mbxCommand, up, if_neg (by simp), if_neg (not_not.2 idle)]
  show done (settle (mbxTry (captured s m op req irq) m flash)) = _
  rw [mbxTry, captured_state, captured_waits, code, if_neg (by simpa using moves), gate, bar, free]
  rfl

theorem mbxEnds_of {t : State} {code reason : Nat} {resp : List Byte} (hs : mbxStart i s = some c)
    (hp : mbxPerform c m flash = (.fin code reason resp, t)) : MbxEnds i s t code reason resp := by
  rw [MbxEnds, hr]
  dsimp only
  rw [exec_mbxStart hr hs, hp]
  rfl

theorem mbxRuns_of {t : State} (hs : mbxStart i s = some c) (hp : mbxPerform c m flash = (.runs, t)) : MbxRuns i s t := by
  rw [MbxRuns, hr]
  dsimp only
  rw [exec_mbxStart hr hs, hp]
  rfl

theorem mbxReq_of_start (hs : mbxStart i s = some c) : mbxReq c m = req := by
  obtain ⟨rfl, -⟩ := mbxStart_facts hr hs
  exact mbxReq_captured s m op req irq

theorem mbxOp_of_start (hs : mbxStart i s = some c) : mbxOp c m = op := by
  obtain ⟨rfl, -⟩ := mbxStart_facts hr hs
  exact mbxOp_captured s m req irq (mbxRow_op_lt hr)
end

/-! ### What a command leaves of the regions -/

section
variable (s : State)

theorem foldl_regions {γ : Type} {f : State → γ → State} (hf : ∀ s a, (f s a).regions = s.regions) (l : List γ) :
    (l.foldl f s).regions = s.regions :=
  List.foldlRecOn (motive := fun t => t.regions = s.regions) l f rfl fun t h a _ => (hf t a).trans h

theorem ite_regions {p : Prop} [Decidable p] {t u : State} (ht : t.regions = s.regions) (hu : u.regions = s.regions) :
    (if p then t else u).regions = s.regions := by
  split <;> assumption

theorem modMirRegion_regions (r : Nat) (f : MirRegion → MirRegion) : (modMirRegion s r f).regions = s.regions := rfl

theorem sealFail_regions (c : Class) (lsa : Nat) (b : Bool) : (sealFail s c lsa b).regions = s.regions := by
  unfold sealFail
  exact ite_regions s rfl (pmcCount_regions ..)

theorem openCount_regions (c : Class) (lsa : Nat) (o : Opened) : (openCount s c lsa o).regions = s.regions := by
  cases o with
  | data => exact pmcCount_regions ..
  | stale => exact pmcCount_regions ..
  | tagFail => exact sealFail_regions s c lsa false
  | lsaFail => exact sealFail_regions s c lsa true
  | poison => rfl
  | uncorr => rfl

theorem markStale_regions (rs : List Nat) : (markStale s rs).regions = s.regions :=
  foldl_regions s (fun s r => modMirRegion_regions s r _) _

theorem sendFrame_regions (n : MPort) (q : BitVec 48) (b : MirBody) : (sendFrame s n q b).regions = s.regions :=
  ite_regions s rfl (ite_regions s rfl rfl)

theorem addReq_regions (c : Class) (p : Bool) (lsa : Nat) (w : Purpose) : (addReq s c p lsa w).regions = s.regions :=
  ite_regions s rfl rfl

theorem mirPump_regions (n : MPort) (held : Nat) : (mirPump s n held).regions = s.regions := by
  have sent (l : List (BitVec 48 × Record)) (s : State) : (sendRecords s n l).regions = s.regions :=
    foldl_regions s (fun s _ => sendFrame_regions s n _ _) l
  have read (a b : Nat) (s : State) : (journalRead s n a b).regions = s.regions :=
    foldl_regions s (fun s _ => openCount_regions s _ _ _) _
  exact ite_regions s rfl (((pmcCount_regions ..).trans (hwAdd_regions ..)).trans ((sent _ _).trans (read _ _ _)))

theorem mirOverflow_regions (n : MPort) : (mirOverflow s n).regions = s.regions :=
  ite_regions s (markStale_regions s _) (markStale_regions s _)

theorem journalAppend_regions (n : MPort) (b : Nat) : (journalAppend s n b).regions = s.regions := by
  have asked (l : List Nat) (s : State) :
      (l.foldl (fun s k => addReq s .drain true (journalLsa n k) (.journal n)) s).regions = s.regions :=
    foldl_regions s (fun s _ => addReq_regions s _ _ _ _) l
  exact ite_regions s ((mirOverflow_regions _ n).trans (asked _ _)) (asked _ _)

theorem mirPut_regions (n : MPort) (ts : List TxRecord) : (mirPut s n ts).regions = s.regions := by
  have pumped (h : Nat) (f : MirPort → MirPort) : (mirPump (modMir s n f) n h).regions = s.regions := mirPump_regions _ n h
  exact ite_regions s (markStale_regions _ _) (ite_regions s ((mirOverflow_regions _ n).trans (pumped _ _))
    ((journalAppend_regions _ n _).trans (pumped _ _)))

theorem nextSeed_regions (n : MPort) : (nextSeed s n).regions = s.regions := by
  refine ite_regions s rfl ?_
  split
  · rfl
  · exact mirPut_regions _ n _

theorem askSeed_regions (r : Nat) (b : Bool) : (askSeed s r b).regions = s.regions := nextSeed_regions _ _

theorem remapCounters_regions (r : Nat) : (remapCounters s r).regions = s.regions := rfl

theorem redrawDomain_regions (d : Nat) : (redrawDomain s d).regions = s.regions := rfl

theorem drawKeys_regions (r : Nat) : (drawKeys s r).regions = s.regions :=
  foldl_regions s (fun s _ => redrawDomain_regions s _) _

end

/-- The region that a REGION_SET leaves (R53). -/
def regionSet (x : Region) (a : RegionAsk) : Region :=
  { x with use := a.use, mirrored := a.mirrored, syncAck := a.syncAck, rekeyLive := a.rekeyLive, levelRate := a.levelRate,
           rights := a.rights, formatting := x.formatting || (decide (a.use = .buffer) && decide (x.use ≠ .buffer)) }

/-- Of the regions a REGION_SET changes its own alone. -/
theorem regionApply_regions (s : State) (r : Nat) (a : RegionAsk) :
    (regionApply s r a).regions = (setRegion s r (regionSet (regionAt s r) a)).regions := by
  simp only [regionApply, apply_ite State.regions, askSeed_regions, remapCounters_regions, drawKeys_regions, modDbq_regions, ite_self]
  rfl

theorem regionApply_self {s : State} (h : fwf s.regions = true) (r : Nat) (a : RegionAsk) :
    regionAt (regionApply s r a) r = regionSet (regionAt s r) a :=
  (regionAt_congr (regionApply_regions s r a) r).trans (fgetD_fputD_self h _ _ _)

theorem regionApply_ne {s : State} (h : fwf s.regions = true) {r k : Nat} (a : RegionAsk) (hk : k ≠ r) :
    regionAt (regionApply s r a) k = regionAt s k :=
  (regionAt_congr (regionApply_regions s r a) k).trans (fgetD_fputD_ne h _ _ _ hk)

/-! ### The commands of the Device group (R49, R51, R350, R352, R353) -/

section
variable {s : State} {req : List Byte}

theorem opRegionGet_in (hl : req.length = 2) (hr : leAt req 0 2 < 480) :
    opRegionGet s req = doneWith s (descriptor s (leAt req 0 2)) := by
  rw [opRegionGet, if_neg (by simp [hl]), if_neg (by omega)]

theorem opRegionGet_out (hl : req.length = 2) (hr : 480 ≤ leAt req 0 2) : opRegionGet s req = badField s := by
  rw [opRegionGet, if_neg (by simp [hl]), if_pos hr]

theorem opRegionSet_bad (hl : req.length = 40) (ha : regionAsk req = none) : opRegionSet s req = badField s := by
  rw [opRegionSet, if_neg (by simp [hl]), ha]

theorem opRegionSet_refused {a : RegionAsk} {k : Nat} (hl : req.length = 40) (ha : regionAsk req = some a)
    (hk : regionRefused s (leAt req 0 2) a = some k) : opRegionSet s req = refusedFor s k := by
  rw [opRegionSet, if_neg (by simp [hl]), ha]
  dsimp only
  rw [hk]

theorem opRegionSet_done {a : RegionAsk} (hl : req.length = 40) (ha : regionAsk req = some a)
    (hk : regionRefused s (leAt req 0 2) a = none) :
    opRegionSet s req = doneWith (saveInner (regionApply s (leAt req 0 2) a) (.descriptor (leAt req 0 2)))
      (descriptor (saveInner (regionApply s (leAt req 0 2) a) (.descriptor (leAt req 0 2))) (leAt req 0 2)) := by
  rw [opRegionSet, if_neg (by simp [hl]), ha]
  dsimp only
  rw [hk]

/-- The refusals of REGION_RECREATE, in their order (R352). -/
theorem opRegionRecreate_eq (m : Mbx) (hl : req.length = 2) (hr : leAt req 0 2 < 480) : opRegionRecreate s m req =
    if (regionAt s (leAt req 0 2)).lost = false then refusedFor s 7
    else if (s.med.blanks[blankOf (leAt req 0 2)]).hwOk = false then refusedFor s 8
    else if ((regionAt s (leAt req 0 2)).mirrored = true ∧ isMate s = true) ∨ (regionAt s (leAt req 0 2)).rebuilding = true then
      refusedFor s 9
    else (.runs, askErase s (leAt req 0 2) (.recreate m)) := by
  rw [opRegionRecreate, if_neg (by simp [hl]), if_neg (by omega)]
  simp only [Bool.not_eq_true']

/-- The refusals of FORCE_FAIL of a controller, in their order (R353). -/
theorem opForceFail_controller {h : Mch} (hl : req.length = 2) (hk : leAt req 0 1 = 0) (hi : leAt req 1 1 = h.val) :
    opForceFail s req =
      if h ∈ s.med.failed then refusedFor s 10
      else if s.glb.state ≠ .operational then refusedFor s 11
      else if servedBy s h.val ≠ [] ∧ replaceable s h.val = false then refusedFor s 12
      else doneWith (mchFail s h 3) [] := by
  have lt := h.isLt
  have same : (⟨h.val % 72, Nat.mod_lt _ (by decide)⟩ : Mch) = h := Fin.ext (Nat.mod_eq_of_lt lt)
  rw [opForceFail]
  simp only [hk, hi]
  rw [if_neg (by simp [hl]), if_neg (by omega), if_pos trivial, same]
  simp only [List.contains_eq_mem, decide_eq_true_eq, Bool.not_eq_true', List.isEmpty_eq_false_iff]

theorem opForceFail_engine {e : Engine} (hl : req.length = 2) (hk : leAt req 0 1 = 1) (hi : leAt req 1 1 = e.val)
    (hf : fhas s.lke.failed e.val = false) (hs : s.glb.state = .operational) (hn : s.lke.failed.length ≠ 15) :
    opForceFail s req = doneWith (engineFail s e 2) [] := by
  have lt := e.isLt
  have same : (⟨e.val % 16, Nat.mod_lt _ (by decide)⟩ : Engine) = e := Fin.ext (Nat.mod_eq_of_lt lt)
  rw [opForceFail]
  simp only [hk, hi]
  rw [if_neg (by simp [hl]), if_neg (by omega), if_neg (by decide), same, if_neg (by simp [hf]), if_neg (by simp [hs]),
    if_neg hn]

end

section
variable {s : State} {m : Mbx}

theorem mbxPerform_devInfo (h : mbxOp s m = 0x0000) (f : Bool) : mbxPerform s m f = opDevInfo s (mbxReq s m) := by
  rw [mbxPerform, h]; rfl
theorem mbxPerform_devEcho (h : mbxOp s m = 0x0001) (f : Bool) : mbxPerform s m f = opDevEcho s (mbxReq s m) := by
  rw [mbxPerform, h]; rfl
theorem mbxPerform_regionGet (h : mbxOp s m = 0x0010) (f : Bool) : mbxPerform s m f = opRegionGet s (mbxReq s m) := by
  rw [mbxPerform, h]; rfl
theorem mbxPerform_regionSet (h : mbxOp s m = 0x0011) (f : Bool) : mbxPerform s m f = opRegionSet s (mbxReq s m) := by
  rw [mbxPerform, h]; rfl
theorem mbxPerform_regionRecreate (h : mbxOp s m = 0x0012) (f : Bool) : mbxPerform s m f = opRegionRecreate s m (mbxReq s m) := by
  rw [mbxPerform, h]; rfl
theorem mbxPerform_forceFail (h : mbxOp s m = 0x0020) (f : Bool) : mbxPerform s m f = opForceFail s (mbxReq s m) := by
  rw [mbxPerform, h]; rfl
end

/-- Settles O51: a command that starts is its operation on the request (`mbxEnds_of`), whose cases are the lemmas above. -/
theorem mailbox_device_group : Obligations.mailbox_device_group := by
  intro m req irq s c
  refine ⟨fun hs hq => ?info, fun hs => ?echo, fun hs hl => ?get, fun hs hl => ?set, fun hs hl hr => ?recreate, fun hs hl => ?fail⟩
  case info =>
    refine mbxEnds_of rfl hs ?_
    rw [mbxPerform_devInfo (mbxOp_of_start rfl hs), mbxReq_of_start rfl hs, hq]
    rfl
  case echo =>
    refine mbxEnds_of rfl hs ?_
    rw [mbxPerform_devEcho (mbxOp_of_start rfl hs), mbxReq_of_start rfl hs]
    rfl
  case get =>
    have performed := mbxPerform_regionGet (mbxOp_of_start rfl hs) false
    rw [mbxReq_of_start rfl hs] at performed
    exact ⟨fun hr => mbxEnds_of rfl hs (performed.trans (opRegionGet_in hl hr)),
      fun hr => mbxEnds_of rfl hs (performed.trans (opRegionGet_out hl hr))⟩
  case set =>
    have performed := mbxPerform_regionSet (mbxOp_of_start rfl hs) false
    rw [mbxReq_of_start rfl hs] at performed
    refine ⟨fun ha => mbxEnds_of rfl hs (performed.trans (opRegionSet_bad hl ha)), fun a ha =>
      ⟨fun k hk => mbxEnds_of rfl hs (performed.trans (opRegionSet_refused hl ha hk)),
       fun hk => mbxEnds_of rfl hs (performed.trans (opRegionSet_done hl ha hk)), fun hw => ?_⟩⟩
    intro x
    have set : x = regionSet (regionAt c (leAt req 0 2)) a := regionApply_self hw _ a
    rw [set]
    exact ⟨rfl, rfl, rfl, rfl, rfl, rfl, rfl, fun k hk => regionApply_ne hw a hk⟩
  case recreate =>
    have performed := mbxPerform_regionRecreate (mbxOp_of_start rfl hs) false
    rw [mbxReq_of_start rfl hs, opRegionRecreate_eq m hl hr] at performed
    intro x
    refine ⟨fun h => mbxEnds_of rfl hs ?_, fun h hb => mbxEnds_of rfl hs ?_,
      fun h hb => ⟨fun hm => mbxEnds_of rfl hs ?_, fun hb' hm => mbxRuns_of rfl hs ?_⟩⟩
    · rw [performed, if_pos h]; rfl
    · rw [performed, if_neg (ne_false_of_eq_true h), if_pos hb]; rfl
    · rw [performed, if_neg (ne_false_of_eq_true h), if_neg (ne_false_of_eq_true hb), if_pos hm]; rfl
    · have free : ¬ (((regionAt c (leAt req 0 2)).mirrored = true ∧ isMate c = true) ∨ (regionAt c (leAt req 0 2)).rebuilding = true) := by
        rintro (⟨mirrored, mate⟩ | rebuilding)
        · rcases hm with hm | hm
          · exact ne_false_of_eq_true mirrored hm
          · exact ne_false_of_eq_true mate hm
        · exact ne_false_of_eq_true rebuilding hb'
      rw [performed, if_neg (ne_false_of_eq_true h), if_neg (ne_false_of_eq_true hb), if_neg free]
  case fail =>
    have performed := mbxPerform_forceFail (mbxOp_of_start rfl hs) false
    rw [mbxReq_of_start rfl hs] at performed
    refine ⟨fun h hk hi => ?_, fun e hk hi hf ho hn => mbxEnds_of rfl hs (performed.trans (opForceFail_engine hl hk hi hf ho hn))⟩
    rw [opForceFail_controller hl hk hi] at performed
    refine ⟨fun hf => mbxEnds_of rfl hs ?_, fun hf ho => mbxEnds_of rfl hs ?_, fun hf ho hv hp => mbxEnds_of rfl hs ?_,
      fun hf ho hv => mbxEnds_of rfl hs ?_⟩
    · rw [performed, if_pos hf]; rfl
    · rw [performed, if_neg hf, if_pos ho]; rfl
    · rw [performed, if_neg hf, if_neg (by simp [ho]), if_pos ⟨hv, hp⟩]; rfl
    · have served : ¬ (servedBy c h.val ≠ [] ∧ replaceable c h.val = false) := by
        rintro ⟨some, none⟩
        rcases hv with hv | hv
        · exact some hv
        · rw [hv] at none; cases none
      rw [performed, if_neg hf, if_neg (by simp [ho]), if_neg served]; rfl

end Sys2Proof.Machine
end

section
/-! Proofs of the address space family: the checks of a command of a host port. -/

namespace Sys2Proof.Machine

/-! ### Check 1 (R54, R114, R135) -/

theorem opOfCode_unlisted {n : Nat}
    (h : n ∉ [0x00, 0x01, 0x10, 0x11, 0x18, 0x19, 0x1A, 0x20, 0x21, 0x22, 0x23, 0x30, 0x40, 0x41, 0x42, 0x43, 0x50, 0x51]) :
    opOfCode n = .unknown := by
  unfold opOfCode
  split
  case h_19 => rfl
  all_goals exact absurd (by decide) h

/-- The first MALFORMED cause of a command whose TAG is free (R135). -/
theorem malformed_eq {x : HostCmd} (ht : x.dupTag = false) : malformed x =
    if x.op = .unknown then some 1
    else if duFits x = false then some 2
    else if x.op.isPa = true ∧ x.addr.toNat % x.op.size ≠ 0 then some 4
    else if (x.op = .wrm64 ∧ x.operand = 0) ∨ (x.op = .enq ∧ (enqBytes x.addr = 0 ∨ 256 < enqBytes x.addr)) then some 5
    else none := by
  rw [malformed, ht, ite_or]
  simp only [Bool.not_eq_true', Bool.false_eq_true, if_false]

theorem duFits_wrm64 {x : HostCmd} (h : x.op = .wrm64) : duFits x = true ↔ x.du = 1 := by
  rw [duFits, h]
  exact beq_iff_eq

theorem duFits_enq {x : HostCmd} (h : x.op = .enq) : duFits x = true ↔ x.du = (enqBytes x.addr + 63) / 64 := by
  rw [duFits, h]
  exact beq_iff_eq

/-- The causes of MALFORMED in their order, each behind those before it. -/
theorem malformed_iff {x : HostCmd} (ht : x.dupTag = false) (d : Nat) : malformed x = some d ↔
    (x.op = .unknown ∧ d = 1) ∨ (x.op ≠ .unknown ∧ duFits x = false ∧ d = 2) ∨
    (x.op ≠ .unknown ∧ duFits x = true ∧ x.op.isPa = true ∧ x.addr.toNat % x.op.size ≠ 0 ∧ d = 4) ∨
    (x.op = .wrm64 ∧ x.du = 1 ∧ x.addr.toNat % 64 = 0 ∧ x.operand = 0 ∧ d = 5) ∨
    (x.op = .enq ∧ x.du = (enqBytes x.addr + 63) / 64 ∧ (enqBytes x.addr = 0 ∨ 256 < enqBytes x.addr) ∧ d = 5) := by
  rw [@eq_comm _ (malformed x), malformed_eq ht]
  by_cases wrm : x.op = .wrm64
  · have du := duFits_wrm64 wrm
    rw [← du, wrm]
    cases duFits x <;> by_cases align : x.addr.toNat % 64 = 0 <;> by_cases mask : x.operand = 0 <;>
      simp [Op.isPa, Op.size, align, mask]
  by_cases enq : x.op = .enq
  · have du := duFits_enq enq
    rw [← du, enq]
    cases duFits x <;> by_cases bytes : enqBytes x.addr = 0 ∨ 256 < enqBytes x.addr <;> simp [Op.isPa, bytes]
  · by_cases unknown : x.op = .unknown
    · simp [unknown]
    · cases duFits x <;> cases x.op.isPa <;> by_cases align : x.addr.toNat % x.op.size = 0 <;> simp [wrm, enq, unknown, align]

section
variable {i : Instr} {x : Slotted} {s : State} (hi : hostRow i = some x) (h : portOpen s x.port = true)
include hi h

/-- A command that check 1 refuses is answered MALFORMED, and has no effect. -/
theorem answers_malformed {d : Nat} (hm : malformed (acceptedCmd s x) = some d) : AnswersOnly i x s false (Resp.plain .malformed d) :=
  answers_only hi h fun H E P => ⟨H, E, P, by rw [advance_took H E P h, hm]; exact answer_took h rfl rfl⟩

/-! ### Checks 2 to 4 (R54) -/

/-- A PA-addressed command that fails one of the checks 2 to 4 is answered, and has no effect; only a POISON counts as performed. -/
theorem answers_checked {r : Resp} (hp : (opOfCode x.code.toNat).isPa = true) (hm : malformed (acceptedCmd s x) = none)
    (hc : checkPa s (acceptedCmd s x) = some r) : AnswersOnly i x s (decide (r.status = .poison)) r := by
  refine answers_only hi h fun H E P => ⟨H, E, P, ?_⟩
  rw [advance_took H E P h, hm]
  dsimp only
  rw [if_pos (by exact hp), hc]
  dsimp only
  split
  case isTrue poison => rw [decide_eq_true poison]; exact answer_took h rfl rfl
  case isFalse other => rw [decide_eq_false other]; exact answer_took h rfl rfl
end

section
variable {s : State} {x : Slotted}

/-- The checks 2 to 4 of a command of a host (R54). -/
theorem checkPa_eq (s : State) (x : Slotted) : checkPa s (acceptedCmd s x) =
    if inUser x.addr = false then some (Resp.plain .range 0)
    else match rightNeeded (regionAt s (regionOf x.addr)).use (opOfCode x.code.toNat) with
      | none => some (Resp.plain .denied 1)
      | some k =>
        if holdsRight s x.port (regionAt s (regionOf x.addr)) k = false then some (Resp.plain .denied 2)
        else if (regionAt s (regionOf x.addr)).lost then some (Resp.bad .poison 2 (opOfCode x.code.toNat).rlen) else none := by
  simp only [checkPa, acceptedCmd, Bool.not_eq_true']
  rfl

theorem checkPa_range (hu : inUser x.addr = false) : checkPa s (acceptedCmd s x) = some (Resp.plain .range 0) := by
  rw [checkPa_eq, if_pos hu]

section
variable (hu : inUser x.addr = true)
include hu

theorem checkPa_use (hn : rightNeeded (regionAt s (regionOf x.addr)).use (opOfCode x.code.toNat) = none) :
    checkPa s (acceptedCmd s x) = some (Resp.plain .denied 1) := by
  rw [checkPa_eq, if_neg (ne_false_of_eq_true hu), hn]

variable {k : Nat} (hn : rightNeeded (regionAt s (regionOf x.addr)).use (opOfCode x.code.toNat) = some k)
include hn

theorem checkPa_right (hr : holdsRight s x.port (regionAt s (regionOf x.addr)) k = false) :
    checkPa s (acceptedCmd s x) = some (Resp.plain .denied 2) := by
  rw [checkPa_eq, if_neg (ne_false_of_eq_true hu), hn]
  exact if_pos hr

theorem checkPa_lost (hr : holdsRight s x.port (regionAt s (regionOf x.addr)) k = true) (hl : (regionAt s (regionOf x.addr)).lost = true) :
    checkPa s (acceptedCmd s x) = some (Resp.bad .poison 2 (opOfCode x.code.toNat).rlen) := by
  rw [checkPa_eq, if_neg (ne_false_of_eq_true hu), hn]
  exact (if_neg (ne_false_of_eq_true hr)).trans (if_pos hl)
end
end

/-- Settles O23: an open port dispatches what it takes at once, and the first check that fails answers it. -/
theorem commands_that_are_refused : Obligations.commands_that_are_refused := by
  refine ⟨fun i x s d hi ho => ⟨answers_malformed hi ho, ?cause⟩, fun p c tag v du s ho hv => ?unlisted,
    fun i x s hi ho hp hm => ⟨fun hu => ?range, fun hu hn => ?use, fun k hu hn => ⟨fun hr => ?right, fun hr hl => ?lost⟩⟩⟩
  case cause => exact malformed_iff (dupTag_none ho) d
  case unlisted => 
    have row : hostRow (.unknownOpcode p c tag v du) = some { slotted .unknown p c tag du 0 0 0 with code := v } := rfl
    have unknown : malformed (acceptedCmd s { slotted .unknown p c tag du 0 0 0 with code := v }) = some 1 :=
      if_pos (opOfCode_unlisted (n := v.toNat) hv)
    exact answers_malformed row ho unknown
  case range => exact answers_checked hi ho hp hm (checkPa_range hu)
  case use => exact answers_checked hi ho hp hm (checkPa_use hu hn)
  case right => exact answers_checked hi ho hp hm (checkPa_right hu hn hr)
  case lost => exact answers_checked hi ho hp hm (checkPa_lost hu hn hr hl)

end Sys2Proof.Machine
end

section
/-! Proofs of the address space family: commands that wait, and what lets them go on. -/

namespace Sys2Proof.Machine

/-! ### A state in which commands alone wait

`calm` lets no PERSIST wait. Where one does, what follows an effect marks the slots that hold its stream's writes (R152), and nothing
else besides: every other rule looks at what waits beside the commands, of which there is nothing. -/

section
variable {s : State} (h : calm { s with cmds := [] } = true)
include h

theorem lossRule_besides : lossRule s = s := by
  have pair : s.mir.pairId.isNone = true := (calm_facts h).pair
  have lost : s.mir.lost = false := (calm_facts h).lost
  rw [lossRule, if_pos (.inl pair), lost]
  rfl

theorem syncRule_besides : syncRule s = s := syncRule_unpaired (s := s) (calm_facts h).pair

theorem lineRule_besides : lineRule s = s := by
  have line : s.krf.waiters = [] := (calm_facts h).line
  have granted : s.krf.granted = [] := (calm_facts h).granted
  rw [lineRule, line, granted]
  rfl

theorem writeLeaves_besides : writeLeaves s = s := by
  have writes : s.lke.writes = [] := (calm_facts h).writes
  rw [writeLeaves, writes]
  rfl

theorem foldAllRule_besides : foldAllRule s = s := by
  have fold : cfgBit s Reg.CNT_CTRL 0 = false := (calm_facts h).fold
  rw [foldAllRule, fold]
  rfl

theorem lagRule_besides : lagRule s = s := if_pos (Eq.symm (calm_facts h).lag)

theorem flushRule_besides : flushRule s = s := if_neg fun e => ne_false_of_eq_true e.1 (calm_facts h).flush

theorem runErases_besides : runErases s = s := by
  have erase : s.sealing.erasing = [] := (calm_facts h).erase
  rw [runErases, erase]
  rfl

theorem applyRecords_besides : applyRecords s = s := by
  have inbox (n : MPort) : (s.mir.ports[n]).inbox = [] := (calm_facts h).inbox n
  simp only [applyRecords, List.foldl_cons, List.foldl_nil, inbox, List.length_nil, applyInbox]

theorem session_besides (n : MPort) : (s.mir.ports[n]).session = false := by
  have none := (calm_facts h).session
  rw [anySession, Bool.or_eq_false_iff] at none
  match n with
  | ⟨0, _⟩ => exact none.1
  | ⟨1, _⟩ => exact none.2

theorem nakRule_besides : nakRule s = s := by
  simp only [nakRule, List.foldl_cons, List.foldl_nil, session_besides h, Bool.false_eq_true, false_and, and_false, if_false]

theorem recreateRule_besides : recreateRule s = s := by
  have none (r : Nat) (m : Mbx) : recreating s r ≠ some m := fun e => by
    have found := List.find?_some e
    simp only [Bool.and_eq_true, beq_iff_eq] at found
    exact (calm_facts h).create m found.1.1.1 found.1.2
  exact List.foldlRecOn (motive := fun t => t = s) _ _ rfl fun t e m _ => by
    subst e
    exact if_neg fun k => none _ m k.1

theorem seedRule_besides : seedRule s = s := if_pos (calm_facts h).pair

theorem mbxRetry_besides : mbxRetry s = s := by
  have none : (List.finRange 8).filter (fun m => decide ((s.mbx[m]).state = .busy) && (s.mbx[m]).waits) = [] :=
    List.filter_eq_nil_iff.2 fun m _ => by simpa using (calm_facts h).mbx m
  rw [mbxRetry, none]
  rfl

theorem nextSeed_besides (n : MPort) : nextSeed s n = s := if_pos (.inl (by rw [session_besides h]; rfl))

theorem tellRule_besides : tellRule s = s := by
  have none : anySession s = false := (calm_facts h).session
  rw [tellRule, none]
  rfl

theorem captureRule_besides : captureRule s = s := by
  have dump : s.dumps.trigger = none := (calm_facts h).dump
  rw [captureRule, dump]

theorem blockRules_besides : blockRules s = s := by
  have moves : s.med.moves = [] := (calm_facts h).moves
  rw [blockRules, moves]
  rfl

theorem poolLowRule_besides : poolLowRule s = s := by
  have low : s.dbq.low = decide (poolFree s < cfgFld s Reg.DBQ_POOL_LOW 0 27) := (calm_facts h).low
  rw [poolLowRule, low]
  exact if_pos rfl

theorem queueBitRule_besides : queueBitRule s = s := by
  have rests : queueBitRests s = true := (calm_facts h).bit
  unfold queueBitRests at rests
  unfold queueBitRule
  split at rests <;> simp_all

theorem sweepRule_besides : sweepRule s = s := by
  have sweep : s.dbq.sweeping = false := (calm_facts h).sweep
  rw [sweepRule, sweep]
  rfl

theorem saveRule_besides : saveRule s = s := by
  have saves : s.sealing.toSave = [] := (calm_facts h).saves
  have same : ({ s with sealing := { s.sealing with toSave := [] } } : State) = s := by rw [← saves]
  rw [saveRule, saves, same]
  exact ite_self s

end

/-- Nothing waits but commands at rest, of which none is a LKUP that waits for an engine. -/
structure Quiet (s : State) : Prop where
  besides : calm { s with cmds := [] } = true
  rests   : ∀ x ∈ s.cmds, stageRests x.stage = true
  lkups   : ∀ x ∈ s.cmds, lkupWaits x = false

section
variable {s : State}

theorem markWanted_frame (s : State) : markWanted s = { s with krf := { s.krf with slots := (markWanted s).krf.slots } } := by
  unfold markWanted
  dsimp only
  split <;> rfl

theorem Quiet.calAll (h : Quiet s) : Quiet (calAll s) := ⟨h.besides, h.rests, h.lkups⟩

theorem Quiet.markWanted (h : Quiet s) : Quiet (markWanted s) := by
  rw [markWanted_frame]
  exact ⟨h.besides, h.rests, h.lkups⟩

theorem Quiet.ringRule (h : Quiet s) : Quiet (ringRule s) := by
  obtain ⟨_, _, _, _, _, _, _, _, e⟩ := (ringRule_saved s).rest
  rw [e]
  exact ⟨h.besides, h.rests, h.lkups⟩

/-- In the ports only the slots of PERSISTs and the calendars follow. -/
theorem settlePorts_quiet (h : Quiet s) : settlePorts s = calAll (markWanted s) := by
  rw [settlePorts, syncRule_besides h.besides, releaseOks_rests s h.rests, dispatchLkups_none h.lkups, lineRule_besides h.besides,
    advanceAll_rests s h.rests, writeLeaves_besides h.besides, foldAllRule_besides h.besides, lagRule_besides h.besides,
    flushRule_besides h.markWanted.besides]

/-- What follows a quiet state: its ports settle, twice. -/
theorem settle_quiet (h : Quiet s) : settle s = ringRule (calAll (markWanted (calAll (markWanted s)))) := by
  have up : coreUp s = true := (calm_facts h.besides).up
  rw [settle, up, lossRule_besides h.besides, settlePorts_quiet h]
  have h := h.markWanted.calAll
  generalize calAll (markWanted s) = t at h
  dsimp only
  rw [if_neg (by decide), runErases_besides h.besides, applyRecords_besides h.besides, nakRule_besides h.besides, ite_self,
    recreateRule_besides h.besides, seedRule_besides h.besides, mbxRetry_besides h.besides, nextSeed_besides h.besides,
    nextSeed_besides h.besides, settlePorts_quiet h]
  have h := h.markWanted.calAll
  generalize calAll (markWanted t) = u at h
  rw [tellRule_besides h.besides, captureRule_besides h.besides, blockRules_besides h.besides]
  have h := h.ringRule
  rw [poolLowRule_besides h.besides, queueBitRule_besides h.besides, sweepRule_besides h.besides, saveRule_besides h.besides]

/-- The one command of a state goes on, and with it the state settles. -/
theorem settle_taken {x : HostCmd} (h : calm { s with cmds := [] } = true) (hx : s.cmds = [x]) (hs : x.stage = .buffered)
    (hq : Quiet (advance s x.id)) : settle s = settle (advance s x.id) := by
  have up : coreUp s = true := (calm_facts h).up
  have up' : coreUp (advance s x.id) = true := (calm_facts hq.besides).up
  have oks : releaseOks s = s := by
    have none : s.cmds.filter (okReady s) = [] := by
      rw [hx, List.filter_eq_nil_iff]
      intro y hy
      rw [List.mem_singleton.1 hy, okReady, hs]
      simp
    rw [releaseOks, none]
    rfl
  have lkups : dispatchLkups s = s := dispatchLkups_none fun y hy => by
    rw [hx] at hy
    rw [List.mem_singleton.1 hy, lkupWaits, hs]
    simp
  have all : advanceAll s = advance s x.id := by
    rw [advanceAll, hx]
    rfl
  have ports : settlePorts s = settlePorts (advance s x.id) := by
    rw [settlePorts, syncRule_besides h, oks, lkups, lineRule_besides h, all, settlePorts, syncRule_besides hq.besides,
      releaseOks_rests _ hq.rests, dispatchLkups_none hq.lkups, lineRule_besides hq.besides, advanceAll_rests _ hq.rests]
  rw [settle, settle, up, up', lossRule_besides h, lossRule_besides hq.besides, ports]
  rfl

end

/-! ### The command that an open port takes -/

theorem modCmd_one {t : State} {y : HostCmd} {id : Nat} (hc : t.cmds = [y]) (hid : y.id = id) (f : HostCmd → HostCmd) :
    modCmd t id f = { t with cmds := [f y] } := by
  rw [modCmd, hc, List.map_singleton, if_pos hid]

theorem cmdAt_one {t : State} {y : HostCmd} {id : Nat} (hc : t.cmds = [y]) (hid : y.id = id) : cmdAt t id = some y := by
  rw [cmdAt, hc, List.find?_singleton, if_pos (beq_iff_eq.2 hid)]

theorem cmdAt_id {t : State} {y : HostCmd} {id : Nat} (h : cmdAt t id = some y) : y.id = id := by
  have found := List.find?_some h
  exact beq_iff_eq.1 found

section
variable {s : State} {x : Slotted} (h : portOpen s x.port = true) (H : FMap Word64) (E : Evr) (P : Vector Pmc 6)
include h

/-- A well-formed command that has no PA, or that passes its checks, is carried out at once. -/
theorem advance_performs (hm : malformed (acceptedCmd s x) = none)
    (hc : (acceptedCmd s x).op.isPa = false ∨ checkPa s (acceptedCmd s x) = none) :
    advance (took s x H E P) s.nextCmd = perform (took s x H E P) (acceptedCmd s x) := by
  rw [advance_took H E P h, hm]
  dsimp only
  rcases hc with hc | hc
  · rw [hc]
    rfl
  · rw [hc]
    exact ite_self _

/-- A command without any other leaves a quiet state where it rests. -/
theorem quiet_one {y : HostCmd} (hs : stageRests y.stage = true) (hl : lkupWaits y = false) :
    Quiet { took s x H E P with cmds := [y] } where
  besides := calm_other (s := s) (l := []) (open_facts h).calm rfl
  rests z hz := by rw [List.mem_singleton.1 hz]; exact hs
  lkups z hz := by rw [List.mem_singleton.1 hz]; exact hl
end

/-- A command that an open port takes, and that leaves a quiet state. -/
theorem exec_quiet {i : Instr} {x : Slotted} {s : State} (hi : hostRow i = some x) (h : portOpen s x.port = true) :
    ∃ H E P, ∀ t, advance (took s x H E P) s.nextCmd = t → Quiet t → exec i s = .next (fin (settle t)) := by
  have f := open_facts h
  obtain ⟨H, E, P, taken⟩ := takenCmd_took (x := x) f.cmds
  refine ⟨H, E, P, fun t ht hq => ?_⟩
  have alone : calm { took s x H E P with cmds := [] } = true := calm_other (s := s) (l := []) f.calm rfl
  rw [exec_host hi, hostCommand_taken (arrival_open h (hostRow_du hi)), taken,
    settle_taken (x := acceptedCmd s x) alone rfl rfl (by rw [← ht] at hq; exact hq)]
  rw [← ht]
  rfl

/-! ### FENCE (R62) -/

theorem exec_fence {p : HPort} {s : State} (h : portOpen s p = true) (c : HChan) (tag : BitVec 12) :
    ∃ t, exec (.fence p c tag 0) s = .next t ∧
      t.cmds = [{ acceptedCmd s (slotted .fence p c tag 0 0 0 0) with stage := .waiting }] ∧ OnlyAnswers s t := by
  obtain ⟨H, E, P, run⟩ := host_runs (i := .fence p c tag 0) rfl h
  have wellFormed : malformed (acceptedCmd s (slotted .fence p c tag 0 0 0 0)) = none :=
    malformed_none (op := .fence) rfl nofun rfl (dupTag_none (x := slotted .fence p c tag 0 0 0 0) h) nofun nofun nofun
  have waits := (advance_performs (x := slotted .fence p c tag 0 0 0 0) h H E P wellFormed (.inl rfl)).trans
    (modCmd_one (y := acceptedCmd s (slotted .fence p c tag 0 0 0 0)) rfl rfl _)
  refine ⟨_, run _ waits (calm_other (s := s) (open_facts h).calm rfl), fin_calAll_cmds _, OnlyAnswers.trans ?_ (fin_calAll _)⟩
  exact ⟨rfl, .of_med rfl⟩

/-! ### PERSIST (R69, R152) -/

/-- A slot that a PERSIST waits for is drained ahead of the others. -/
def wantedBy (x : HostCmd) (e : Slot) : Slot := if slotOwes x e then { e with wanted := true } else e

theorem wantedBy_twice (x : HostCmd) (e : Slot) : wantedBy x (wantedBy x e) = wantedBy x e := by
  unfold wantedBy
  split
  case isTrue owes => exact if_pos owes
  case isFalse => rfl

theorem markWanted_slots {s : State} {x : HostCmd} (hc : s.cmds = [x]) (hx : persistWaits x = true) :
    (markWanted s).krf.slots = fmapv (fun _ => wantedBy x) s.krf.slots := by
  have one : s.cmds.filter persistWaits = [x] := by rw [hc, List.filter_singleton, hx]; rfl
  rw [markWanted, one]
  simp only [List.isEmpty_cons, Bool.false_eq_true, if_false, List.any_cons, List.any_nil, Bool.or_false]
  rfl

theorem slotAt_markWanted {s : State} {x : HostCmd} (hc : s.cmds = [x]) (hx : persistWaits x = true) (k : Nat) :
    slotAt (markWanted s) k = (slotAt s k).map (wantedBy x) := by
  rw [slotAt, markWanted_slots hc hx, fget_fmapv]
  rfl

theorem markWanted_cmds (s : State) : (markWanted s).cmds = s.cmds := by
  rw [markWanted_frame]

/-- A quiet state with one PERSIST that waits: its slots are marked, and nothing else differs but the slots. -/
theorem settle_persist {t : State} {x : HostCmd} (hq : Quiet t) (hc : t.cmds = [x]) (hx : persistWaits x = true) :
    (fin (settle t)).cmds = [x] ∧ (∀ k, slotAt (fin (settle t)) k = (slotAt t k).map (wantedBy x)) ∧
      OnlyAnswers { t with krf := (fin (settle t)).krf } (fin (settle t)) := by
  rw [settle_quiet hq]
  have once : (calAll (markWanted t)).cmds = [x] := (markWanted_cmds t).trans hc
  have slots (k : Nat) : slotAt (markWanted (calAll (markWanted t))) k = (slotAt t k).map (wantedBy x) := by
    rw [slotAt_markWanted once hx, show slotAt (calAll (markWanted t)) k = slotAt (markWanted t) k from rfl, slotAt_markWanted hc hx,
      Option.map_map]
    exact congrFun (congrArg Option.map (funext fun e => wantedBy_twice x e)) _
  have ended (u : State) : (fin (ringRule (calAll u))).cmds = u.cmds ∧ (fin (ringRule (calAll u))).krf = u.krf := by
    obtain ⟨_, _, _, _, _, _, _, _, e⟩ := (ringRule_saved (calAll u)).rest
    rw [e]
    exact ⟨rfl, rfl⟩
  obtain ⟨cmds, krf⟩ := ended (markWanted (calAll (markWanted t)))
  refine ⟨cmds.trans ((markWanted_cmds _).trans once), fun k => (slotAt_congr krf k).trans (slots k), ?_⟩
  rw [krf]
  refine OnlyAnswers.trans ?_ (((calAll_only _).trans (ringRule_saved _).only).trans (fin_only _))
  generalize hu : markWanted (calAll (markWanted t)) = u
  rw [markWanted_frame, calAll_frame, markWanted_frame t] at hu
  rw [← hu]
  exact ⟨rfl, .of_med rfl⟩

theorem exec_persist {p : HPort} {s : State} (h : portOpen s p = true) (c : HChan) (tag : BitVec 12) :
    ∃ t, exec (.persist p c tag 0) s = .next t ∧
      t.cmds = [{ acceptedCmd s (slotted .persist p c tag 0 0 0 0) with stage := .waiting }] ∧
      (∀ k, slotAt t k = (slotAt s k).map (wantedBy (acceptedCmd s (slotted .persist p c tag 0 0 0 0)))) ∧
      OnlyAnswers { s with krf := t.krf } t := by
  obtain ⟨H, E, P, run⟩ := exec_quiet (i := .persist p c tag 0) rfl h
  have wellFormed : malformed (acceptedCmd s (slotted .persist p c tag 0 0 0 0)) = none :=
    malformed_none (op := .persist) rfl nofun rfl (dupTag_none (x := slotted .persist p c tag 0 0 0 0) h) nofun nofun nofun
  have first : persistsBefore (took s (slotted .persist p c tag 0 0 0 0) H E P) (acceptedCmd s (slotted .persist p c tag 0 0 0 0)) = 0 := by
    simp [persistsBefore]
  have performed : perform (took s (slotted .persist p c tag 0 0 0 0) H E P) (acceptedCmd s (slotted .persist p c tag 0 0 0 0)) =
      stageCmd (took s (slotted .persist p c tag 0 0 0 0) H E P) s.nextCmd .waiting := if_neg (by rw [first]; decide)
  have waits := ((advance_performs (x := slotted .persist p c tag 0 0 0 0) h H E P wellFormed (.inl rfl)).trans performed).trans
    (modCmd_one (y := acceptedCmd s (slotted .persist p c tag 0 0 0 0)) rfl rfl _)
  have quiet := quiet_one (x := slotted .persist p c tag 0 0 0 0) h H E P
    (y := { acceptedCmd s (slotted .persist p c tag 0 0 0 0) with stage := .waiting }) rfl rfl
  obtain ⟨cmds, slots, only⟩ := settle_persist quiet rfl rfl
  exact ⟨_, run _ waits quiet, cmds, slots, OnlyAnswers.trans ⟨rfl, .of_med rfl⟩ only⟩

/-! ### Events that let a command go on (R62, R69, R142, R187, R426) -/

section
variable {s : State}

theorem exec_fencePerformed {p : HPort} {c : HChan} {x : HostCmd} (h : fenceReady s p c = some x) :
    exec (.fencePerformed p c) s = done (settle (refuse s x.id (Resp.plain .ok 0))) := by
  show execFencePerformed p c s = _
  rw [execFencePerformed, h]

theorem exec_persistComplete {p : HPort} {c : HChan} {tag : BitVec 12} {x : HostCmd} (h : persistReady s p c tag = some x) :
    exec (.persistComplete p c tag) s =
      done (settle (refuse s x.id (if persistLost s x then Resp.bad .poison 2 0 else Resp.plain .ok 0))) := by
  show execPersistComplete p c tag s = _
  rw [execPersistComplete, h]

/-- A 65th PERSIST of a port (R131). -/
theorem perform_persist_over {x : HostCmd} (ho : x.op = .persist) (hn : 64 ≤ persistsBefore s x) :
    perform s x = refuse s x.id (Resp.plain .retry 1) := by
  rw [perform, ho]
  exact if_pos hn

theorem exec_chargeReservationGrant {w : Waiter} {rest : List Waiter} (h : s.krf.waiters = w :: rest) :
    exec .chargeReservationGrant s =
      let t := askAgain { s with krf := { s.krf with waiters := [] } } w
      if leftLine s t w ∨ holdsGrant t w then
        done (settle { t with krf := { t.krf with waiters := rest ++ t.krf.waiters.filter fun x => !rest.contains x } })
      else done { s with krf := { s.krf with bitmapAsk := t.krf.bitmapAsk } } := by
  show execChargeReservationGrant s = _
  rw [execChargeReservationGrant, h]

theorem exec_throttleTokensAvailable {p : HPort} {c : HChan} {x : HostCmd} (h : heldAt s p c .throttled = some x)
    (hr : s.krf.running = none) : exec (.throttleTokensAvailable p c) s =
      done (if throttlePasses s x then settle (restStep (throttleCharge s x) x.id) else s) := by
  show execThrottleTokensAvailable p c s = _
  rw [execThrottleTokensAvailable, h, hr]
  cases passes : throttlePasses s x <;> simp [passes]

theorem exec_restTokensAvailable {p : HPort} {c : HChan} {x : HostCmd} (h : heldAt s p c .rested = some x)
    (hr : s.krf.running = none) : exec (.restTokensAvailable p c) s =
      done (if restPasses s x then settle (dispatchCmd (restCharge s x) x.id) else s) := by
  show execRestTokensAvailable p c s = _
  rw [execRestTokensAvailable, h, hr]
  cases passes : restPasses s x <;> simp [passes]

theorem exec_responseSend {p : HPort} {c : HChan} {tags : List (BitVec 12)} {k : TxPacket} (h : packetFor s p c tags = some k)
    (hm : maySend s p c (nextBurst s k).length = true) : exec (.responseSend p c tags) s = done (settle (sendBurst s p c k)) := by
  show execResponseSend p c tags s = _
  rw [execResponseSend, h]
  exact if_pos hm

end

/-! ### The responses that have left whole (R87) -/

section
variable (s : State)

theorem splitSent_fits {n i : Nat} (is : List Nat) (h : (txOf s i).length ≤ n) :
    (splitSent s n (i :: is)).1 = i :: (splitSent s (n - (txOf s i).length) is).1 := by
  rw [splitSent]
  dsimp only
  rw [if_pos h]

theorem splitSent_short {n i : Nat} (is : List Nat) (h : ¬ (txOf s i).length ≤ n) : (splitSent s n (i :: is)).1 = [] := by
  rw [splitSent]
  dsimp only
  rw [if_neg h]

theorem splitSent_prefix (n : Nat) (ids : List Nat) : (splitSent s n ids).1 <+: ids := by
  induction ids generalizing n with
  | nil => exact List.prefix_rfl
  | cons i is ih =>
    by_cases fits : (txOf s i).length ≤ n
    · rw [splitSent_fits s is fits]
      exact (List.prefix_cons_inj i).2 (ih _)
    · rw [splitSent_short s is fits]
      exact List.nil_prefix

/-- A response has left whole where the bytes up to its end have left. -/
theorem splitSent_iff (n : Nat) (before after : List Nat) (i : Nat) :
    before.length < (splitSent s n (before ++ i :: after)).1.length ↔ ((before ++ [i]).flatMap (txOf s)).length ≤ n := by
  induction before generalizing n with
  | nil =>
    by_cases fits : (txOf s i).length ≤ n
    · simp [splitSent_fits s after fits, fits]
    · simp [splitSent_short s after fits, fits]
  | cons b before ih =>
    rw [List.cons_append, List.cons_append, List.flatMap_cons, List.length_append]
    by_cases fits : (txOf s b).length ≤ n
    · rw [splitSent_fits s _ fits, List.length_cons, List.length_cons, Nat.add_lt_add_iff_right, ih]
      omega
    · rw [splitSent_short s _ fits]
      simp only [List.length_nil]
      omega

theorem splitSent_all {n : Nat} (ids : List Nat) (h : (ids.flatMap (txOf s)).length ≤ n) : (splitSent s n ids).1 = ids := by
  rcases List.eq_nil_or_concat ids with rfl | ⟨before, i, rfl⟩
  · rfl
  · rw [List.concat_eq_append] at h ⊢
    have last := (splitSent_iff s n before [] i).2 h
    exact (splitSent_prefix s n _).eq_of_length_le (by rw [List.length_append, List.length_singleton]; exact last)

end

/-- A response has left whole, and its command is over. -/
def sendWhole (p : HPort) (t : State) (i : Nat) : State :=
  match cmdAt t i with
  | some x => sendResp t p x
  | none => t

theorem sendWhole_cmds (p : HPort) (t : State) (i : Nat) : (sendWhole p t i).cmds = t.cmds.filter fun y => y.id != i := by
  unfold sendWhole
  split
  case h_1 x hx =>
    rw [sendResp, pmcCount_cmds, delCmd_cmds, hwAdd_cmds, cmdAt_id hx]
  case h_2 none =>
    refine (List.filter_eq_self.2 fun y hy => ?_).symm
    rw [bne_iff_ne]
    exact fun e => List.find?_eq_none.1 none y hy (beq_iff_eq.2 e)

theorem sendWhole_out (p : HPort) (t : State) (i : Nat) : (sendWhole p t i).out = t.out := by
  unfold sendWhole
  split
  · rw [sendResp, pmcCount_out, delCmd_out, hwAdd_out]
  · rfl

theorem foldl_sendWhole_cmds (p : HPort) (l : List Nat) (t : State) :
    (l.foldl (sendWhole p) t).cmds = t.cmds.filter fun y => !l.contains y.id := by
  induction l generalizing t with
  | nil => exact (List.filter_eq_self.2 fun _ _ => rfl).symm
  | cons i l ih =>
    rw [List.foldl_cons, ih, sendWhole_cmds, List.filter_filter]
    refine List.filter_congr fun y _ => ?_
    rw [List.contains_cons, Bool.not_or, Bool.and_comm]
    rfl

theorem foldl_sendWhole_out (p : HPort) (l : List Nat) (t : State) : (l.foldl (sendWhole p) t).out = t.out :=
  List.foldlRecOn (motive := fun u => u.out = t.out) l _ rfl fun u h i _ => (sendWhole_out p u i).trans h

section
variable (s : State) (p : HPort) (c : HChan) (k : TxPacket)

/-- The responses of a packet that have left whole with its next burst. -/
def sentWith : List Nat := (splitSent s (k.sent + (nextBurst s k).length) k.ids).1

theorem txCharge_cmds (n : Nat) : (txCharge s p n).cmds = s.cmds := by
  unfold txCharge
  split <;> rfl

/-- A burst leaves first, and then the responses that it ends. -/
theorem sendBurst_eq : ∃ t : State, sendBurst s p c k = (sentWith s k).foldl (sendWhole p) t ∧ t.cmds = s.cmds ∧
    Emit.burst p c (!k.begun) (decide ((txBytes s k).length ≤ k.sent + (nextBurst s k).length)) (calWord s p s.ports[p].calTx)
      (nextBurst s k) (cfgBit s (Reg.HP_ERR_INJECT p.val) 6) ∈ t.out :=
  ⟨_, rfl, txCharge_cmds s p _, List.mem_cons_self⟩

theorem sendBurst_cmds : (sendBurst s p c k).cmds = s.cmds.filter fun y => !(sentWith s k).contains y.id := by
  obtain ⟨t, sent, cmds, -⟩ := sendBurst_eq s p c k
  rw [sent, foldl_sendWhole_cmds, cmds]

theorem sendBurst_out : Emit.burst p c (!k.begun) (decide ((txBytes s k).length ≤ k.sent + (nextBurst s k).length))
    (calWord s p s.ports[p].calTx) (nextBurst s k) (cfgBit s (Reg.HP_ERR_INJECT p.val) 6) ∈ (sendBurst s p c k).out := by
  obtain ⟨t, sent, -, out⟩ := sendBurst_eq s p c k
  rw [sent, foldl_sendWhole_out]
  exact out
end

/-- Settles O31: what a FENCE and a PERSIST leave, the events by their guards, and a burst by what `splitSent` says has left whole. -/
theorem ordering_commands_and_held_commands : Obligations.ordering_commands_and_held_commands := by
  refine ⟨fun p c tag s => ⟨fun h => ⟨exec_fence h c tag, exec_persist h c tag⟩, fun x hx => exec_fencePerformed hx,
    fun x hx => exec_persistComplete hx, fun x ho hn => perform_persist_over ho hn⟩, fun p c s => ⟨fun w rest hw => ?grant,
    fun x hx hr => exec_throttleTokensAvailable hx hr, fun x hx hr => exec_restTokensAvailable hx hr, fun tags k hk hm => ?send⟩⟩
  case grant =>
    intro t
    have granted := exec_chargeReservationGrant hw
    dsimp only at granted
    refine ⟨fun fits => granted.trans (if_pos fits), fun left holds => granted.trans (if_neg ?_)⟩
    rintro (h | h)
    · exact ne_false_of_eq_true h left
    · exact ne_false_of_eq_true h holds
  case send =>
    intro last
    refine ⟨exec_responseSend hk hm, rfl, sendBurst_out s p c k, sendBurst_cmds s p c k, fun whole => ?_, ?_, fun before i after ids => ?_⟩
    · exact splitSent_all s k.ids (of_decide_eq_true whole)
    · obtain ⟨rest, ids⟩ := splitSent_prefix s (k.sent + (nextBurst s k).length) k.ids
      exact ⟨rest, ids.symm⟩
    · rw [ids]
      exact splitSent_iff s _ before after i

end Sys2Proof.Machine
end

section
/-! Proofs of the address space family: commands that an open port performs at once, and reads of a sector that the kerf buffer, a cache
or the medium holds. -/

namespace Sys2Proof.Machine

/-! ### What the performance of a command may touch -/

/-- Nothing differs but commands, kerf slots and their stamps, the read path, the requests at the medium, and what counts and records. -/
def Staged (s t : State) : Prop :=
  ∃ l n H E P D S m Q j, t = { s with
    cmds := l, nextCmd := n, hw := H, evr := E, pmc := P, rdp := D
    krf := { s.krf with slots := S, stamp := m }
    med := { s.med with reqs := Q, nextReq := j } }

/-- A state with the kerf buffer, the read path and the requests of another. -/
def withStaged (s t : State) : State := { withAsked s t with krf := t.krf }

/-- Two states show the same commands, kerf buffer, read path and requests. -/
structure SameStaged (u t : State) : Prop where
  cmds    : t.cmds = u.cmds
  krf     : t.krf = u.krf
  rdp     : t.rdp = u.rdp
  reqs    : t.med.reqs = u.med.reqs
  nextReq : t.med.nextReq = u.med.nextReq

section
variable {s t u : State}

theorem Staged.refl (s : State) : Staged s s := ⟨_, _, _, _, _, _, _, _, _, _, rfl⟩

theorem Staged.trans (h : Staged s t) (k : Staged t u) : Staged s u := by
  obtain ⟨_, _, _, _, _, _, _, _, _, _, rfl⟩ := h
  obtain ⟨_, _, _, _, _, _, _, _, _, _, rfl⟩ := k
  exact ⟨_, _, _, _, _, _, _, _, _, _, rfl⟩

theorem Staged.ite {c : Prop} [Decidable c] (h : Staged s t) (k : Staged s u) : Staged s (if c then t else u) := by
  split <;> assumption

theorem Staged.only (h : Staged s t) : OnlyAnswers (withStaged s t) t := by
  obtain ⟨_, _, _, _, _, _, _, _, _, _, rfl⟩ := h
  exact ⟨rfl, .of_med rfl⟩

/-- Nothing comes to wait but the commands themselves. -/
theorem Staged.calm (h : Staged s t) (hs : calm s = true)
    (hl : t.cmds.all (fun x => stageRests x.stage && !persistWaits x && !lkupWaits x) = true) : calm t = true := by
  obtain ⟨l, _, _, _, _, _, _, _, _, _, rfl⟩ := h
  simp only [Machine.calm, Bool.and_eq_true] at hs ⊢
  obtain ⟨⟨⟨⟨⟨⟨⟨⟨⟨⟨⟨⟨⟨⟨⟨⟨⟨⟨⟨h1, h2⟩, h3⟩, h4⟩, _⟩, h7⟩, h8⟩, h9⟩, h10⟩, h11⟩, h12⟩, h13⟩, h14⟩, h15⟩, h16⟩, h17⟩, h18⟩, h19⟩, h20⟩, h21⟩ := hs
  exact ⟨⟨⟨⟨⟨⟨⟨⟨⟨⟨⟨⟨⟨⟨⟨⟨⟨⟨⟨h1, h2⟩, h3⟩, h4⟩, hl⟩, h7⟩, h8⟩, h9⟩, h10⟩, h11⟩, h12⟩, h13⟩, h14⟩, h15⟩, h16⟩, h17⟩, h18⟩, h19⟩, h20⟩, h21⟩

theorem OnlyAnswers.krf (h : OnlyAnswers s t) : t.krf = s.krf := by rw [h.1]

theorem OnlyAnswers.rdp (h : OnlyAnswers s t) : t.rdp = s.rdp := by rw [h.1]

theorem OnlyAnswers.reqs (h : OnlyAnswers s t) : t.med.reqs = s.med.reqs := by rw [h.2.1]

theorem OnlyAnswers.nextReq (h : OnlyAnswers s t) : t.med.nextReq = s.med.nextReq := by rw [h.2.1]

/-- What an answer touches is no part of what stages a sector. -/
theorem OnlyAnswers.withStaged (h : OnlyAnswers u t) : withStaged s t = withStaged s u := by
  rw [Machine.withStaged, Machine.withStaged, withAsked, withAsked, h.krf, h.rdp, h.reqs, h.nextReq]

theorem withStaged_krf (hr : t.rdp = s.rdp) (hq : t.med.reqs = s.med.reqs) (hn : t.med.nextReq = s.med.nextReq) :
    withStaged s t = { s with krf := t.krf } := by
  rw [Machine.withStaged, withAsked, hr, hq, hn]

theorem withStaged_rdp (hk : t.krf = s.krf) (hq : t.med.reqs = s.med.reqs) (hn : t.med.nextReq = s.med.nextReq) :
    withStaged s t = { s with rdp := t.rdp } := by
  rw [Machine.withStaged, withAsked, hk, hq, hn]

theorem withStaged_krf_rdp (hq : t.med.reqs = s.med.reqs) (hn : t.med.nextReq = s.med.nextReq) :
    withStaged s t = { s with krf := t.krf, rdp := t.rdp } := by
  rw [Machine.withStaged, withAsked, hq, hn]

theorem withStaged_asked (hk : t.krf = s.krf) : withStaged s t = withAsked s t := by
  rw [Machine.withStaged, hk, withAsked]

end

/-! ### A command that is performed at once -/

/-- A row sends a command that an open port takes and that passes every check before it is performed. -/
structure Admits (i : Instr) (x : Slotted) (s : State) : Prop where
  row    : hostRow i = some x
  opened : portOpen s x.port = true
  formed : malformed (acceptedCmd s x) = none
  passes : checkPa s (acceptedCmd s x) = none

section
variable {i : Instr} {x : Slotted} {s : State}

theorem took_staged (H : FMap Word64) (E : Evr) (P : Vector Pmc 6) : Staged s (took s x H E P) := ⟨_, _, _, _, _, _, _, _, _, _, rfl⟩

/-- A command that is admitted is carried out at once, and what its performance leaves is answered and no more. -/
theorem Admits.runs (h : Admits i x s) : ∃ H E P, ∀ u, perform (took s x H E P) (acceptedCmd s x) = u →
    calm u = true → ∃ t, exec i s = .next t ∧ t.cmds = u.cmds ∧ OnlyAnswers u t := by
  obtain ⟨H, E, P, run⟩ := host_runs h.row h.opened
  exact ⟨H, E, P, fun u hu hc => ⟨_, run u ((advance_performs h.opened H E P h.formed (.inr h.passes)).trans hu) hc, fin_calAll_cmds u,
    fin_calAll u⟩⟩

/-- A command that stays within the staging of sectors, and then rests or is answered. -/
theorem Admits.runs_staged (h : Admits i x s) : ∃ H E P, ∀ u, perform (took s x H E P) (acceptedCmd s x) = u →
    Staged s u → u.cmds.all (fun x => stageRests x.stage && !persistWaits x && !lkupWaits x) = true →
    ∃ t, exec i s = .next t ∧ SameStaged u t ∧ OnlyAnswers (withStaged s t) t := by
  obtain ⟨H, E, P, run⟩ := h.runs
  refine ⟨H, E, P, fun u hu hs hl => ?_⟩
  obtain ⟨t, ran, cmds, only⟩ := run u hu (hs.calm (open_facts h.opened).calm hl)
  refine ⟨t, ran, ⟨cmds, only.krf, only.rdp, only.reqs, only.nextReq⟩, ?_⟩
  rw [only.withStaged]
  exact hs.only.trans only

end

/-! ### The caches and the medium (R168, R178, R179) -/

section
variable {s t : State}

theorem cacheFind_congr (h : t.rdp = s.rdp) (lsa : Nat) : cacheFind t lsa = cacheFind s lsa := by simp only [cacheFind, waysOf, h]

theorem sideFind_congr (h : t.rdp = s.rdp) (lsa : Nat) : sideFind t lsa = sideFind s lsa := by simp only [sideFind, sideOf, h]

/-- A hit touches nothing but the read path and what is counted. -/
structure Hit (s t : State) : Prop where
  staged : Staged s t
  cmds   : t.cmds = s.cmds
  ports  : t.ports = s.ports
  krf    : t.krf = s.krf
  med    : t.med = s.med
  mir    : t.mir = s.mir

theorem Hit.refl (s : State) : Hit s s := ⟨.refl s, rfl, rfl, rfl, rfl, rfl⟩

theorem Hit.trans {u : State} (h : Hit s t) (k : Hit t u) : Hit s u :=
  ⟨h.staged.trans k.staged, k.cmds.trans h.cmds, k.ports.trans h.ports, k.krf.trans h.krf, k.med.trans h.med, k.mir.trans h.mir⟩

theorem Hit.ite {u : State} {c : Prop} [Decidable c] (h : Hit s t) (k : Hit s u) : Hit s (if c then t else u) := by
  split <;> assumption

theorem hwSet_hit (s : State) (o : Nat) (v : Word64) : Hit s (hwSet s o v) :=
  ⟨⟨_, _, _, _, _, _, _, _, _, _, rfl⟩, rfl, rfl, rfl, rfl, rfl⟩

theorem hwAdd_hit (s : State) (o n : Nat) : Hit s (hwAdd s o n) := hwSet_hit s _ _

theorem pmcCount_hit (s : State) (a : Nat) (b : Option Nat) (n : Nat) : Hit s (pmcCount s a b n) := by
  obtain ⟨_, _, _, e⟩ := pmcCount_frame s a b n
  rw [e]
  exact ⟨⟨_, _, _, _, _, _, _, _, _, _, rfl⟩, rfl, rfl, rfl, rfl, rfl⟩

theorem modRdp_hit (s : State) (f : Rdp → Rdp) : Hit s (modRdp s f) := ⟨⟨_, _, _, _, _, _, _, _, _, _, rfl⟩, rfl, rfl, rfl, rfl, rfl⟩

theorem cachePlace_hit (s : State) (mask lsa : Nat) (d : Sector) (h : Hold) : Hit s (cachePlace s mask lsa d h) := by
  unfold cachePlace
  dsimp only
  split
  · exact .refl s
  · exact modRdp_hit s _

theorem cacheProbe_hit {c : Class} {lsa : Nat} {d : Sector} (h : cacheProbe s c lsa = some (d, t)) : Hit s t := by
  have count (s : State) : Hit s (if c.counted then hwAdd s Reg.RDP_HITS 1 else s) := .ite (hwAdd_hit s _ _) (.refl s)
  unfold cacheProbe at h
  dsimp only at h
  split at h
  · cases h
    exact ((modRdp_hit s _).trans (count _)).trans (pmcCount_hit _ _ _ _)
  · split at h
    · cases h
    · cases h
      exact ((((modRdp_hit s _).trans (count _)).trans (hwAdd_hit _ _ _)).trans (pmcCount_hit _ _ _ _)).trans (cachePlace_hit _ _ _ _ _)

/-- What a probe finds is a matter of the read path alone. -/
theorem cacheProbe_data (h : t.rdp = s.rdp) (c : Class) (lsa : Nat) :
    (cacheProbe t c lsa).map (·.1) = (cacheProbe s c lsa).map (·.1) := by
  unfold cacheProbe
  rw [cacheFind_congr h, sideFind_congr h]
  cases cacheFind s lsa with
  | some e => rfl
  | none => cases sideFind s lsa <;> rfl

theorem cacheProbe_none (c : Class) {lsa : Nat} (hf : cacheFind s lsa = none) (hs : sideFind s lsa = none) :
    cacheProbe s c lsa = none := by
  rw [cacheProbe, hf, hs]

theorem uncached_iff {lsa : Nat} : uncached s lsa = true ↔ cacheFind s lsa = none ∧ sideFind s lsa = none ∧ prefetchOf s lsa = none := by
  simp only [uncached, Bool.and_eq_true, Option.isNone_iff_eq_none, and_assoc]

/-- Reads are asked of the medium: earlier requests stand, and nothing else is touched but the read path and what is counted. -/
structure Asked (s t : State) : Prop where
  staged : Staged s t
  cmds   : t.cmds = s.cmds
  krf    : t.krf = s.krf
  reqs   : s.med.reqs ⊆ t.med.reqs

theorem Asked.refl (s : State) : Asked s s := ⟨.refl s, rfl, rfl, List.Subset.refl _⟩

theorem Asked.trans {u : State} (h : Asked s t) (k : Asked t u) : Asked s u :=
  ⟨h.staged.trans k.staged, k.cmds.trans h.cmds, k.krf.trans h.krf, List.Subset.trans h.reqs k.reqs⟩

theorem Asked.ite {u : State} {c : Prop} [Decidable c] (h : Asked s t) (k : Asked s u) : Asked s (if c then t else u) := by
  split <;> assumption

theorem Hit.asked (h : Hit s t) : Asked s t := ⟨h.staged, h.cmds, h.krf, by rw [h.med]; exact List.Subset.refl _⟩

/-- The request that a read raises at the arbiter of its sector's channel. -/
def raisedReq (s : State) (c : Class) (program : Bool) (lsa : Nat) (purpose : Purpose) : MedReq where
  id := s.med.nextReq
  ch := chanOf (lsaChannel lsa)
  cls := c
  program := program
  lsa := BitVec.ofNat 32 lsa
  purpose := purpose
  state := .raised
  data := none
  fails := 0
  joined := []
  refs := []
  since := s.time.toNat
  depth := rank0Reads s (lsaChannel lsa) + 1

theorem addReq_reqs (s : State) (c : Class) (p : Bool) (lsa : Nat) (w : Purpose) :
    (addReq s c p lsa w).med.reqs = s.med.reqs ++ [raisedReq s c p lsa w] := by
  unfold addReq noteDepth
  dsimp only
  split <;> rfl

theorem addReq_asked (s : State) (c : Class) (p : Bool) (lsa : Nat) (w : Purpose) : Asked s (addReq s c p lsa w) where
  staged := .ite ⟨_, _, _, _, _, _, _, _, _, _, rfl⟩ ⟨_, _, _, _, _, _, _, _, _, _, rfl⟩
  cmds := by unfold addReq noteDepth; dsimp only; split <;> rfl
  krf := by unfold addReq noteDepth; dsimp only; split <;> rfl
  reqs := by rw [addReq_reqs]; exact List.subset_append_left _ _

theorem prefetchOne_asked (s : State) (lsa : Nat) : Asked s (prefetchOne s lsa) :=
  .ite ((addReq_asked s _ _ _ _).trans (pmcCount_hit _ _ _ _).asked) (.refl s)

theorem notedMiss_asked (s : State) (c : Class) (lsa : Nat) : Asked s (notedMiss s c lsa) := by
  have ahead (l : List Nat) (s : State) : Asked s (l.foldl (fun s k => prefetchOne s (lsa + 1 + k)) s) :=
    List.foldlRecOn (motive := Asked s) l _ (.refl s) fun _ h _ _ => h.trans (prefetchOne_asked _ _)
  have noted := (modRdp_hit s fun r => { r with misses := fput r.misses (missKey (lsaChannel lsa) c) (BitVec.ofNat 32 lsa) }).asked
  exact .ite (noted.trans (ahead _ _)) noted

theorem requestRead_asked (s : State) (c : Class) (lsa : Nat) (w : Purpose) : Asked s (requestRead s c lsa w) := by
  have counted : Hit s (if c.counted then pmcCount (hwAdd s Reg.RDP_MISSES 1) 0x302 (some (lsaChannel lsa)) 1 else s) :=
    .ite ((hwAdd_hit s _ _).trans (pmcCount_hit _ _ _ _)) (.refl s)
  exact (counted.asked.trans (addReq_asked _ _ _ _ _)).trans (notedMiss_asked _ _ _)

/-- A read that is asked for stands at its arbiter, with every request before it. -/
theorem requestRead_asks (s : State) (c : Class) (lsa : Nat) (w : Purpose) : Asks s (requestRead s c lsa w) c lsa w := by
  have counted : Hit s (if c.counted then pmcCount (hwAdd s Reg.RDP_MISSES 1) 0x302 (some (lsaChannel lsa)) 1 else s) :=
    .ite ((hwAdd_hit s _ _).trans (pmcCount_hit _ _ _ _)) (.refl s)
  refine ⟨(requestRead_asked s c lsa w).reqs, ?_⟩
  unfold requestRead
  generalize (if c.counted then pmcCount (hwAdd s Reg.RDP_MISSES 1) 0x302 (some (lsaChannel lsa)) 1 else s) = a at counted
  refine ⟨raisedReq a c false lsa w, (notedMiss_asked _ c lsa).reqs ?_, ?_, rfl, rfl, rfl, rfl, rfl, rfl⟩
  · rw [addReq_reqs]
    exact List.mem_append_right _ (List.mem_singleton.2 rfl)
  · show a.med.nextReq = s.med.nextReq
    rw [counted.med]

theorem askMedium_none {lsa : Nat} (h : prefetchOf s lsa = none) (c : Class) (w : Purpose) :
    askMedium s c lsa w = requestRead s c lsa w := by
  rw [askMedium, h]

/-- A read of a sector whose prefetch runs waits for it (R179). -/
theorem askMedium_joins {lsa : Nat} {q : MedReq} (h : prefetchOf s lsa = some q) (hq : q.state ≠ .raised) (c : Class) (w : Purpose) :
    askMedium s c lsa w = modReq s q.id fun q => { q with joined := q.joined ++ [(c, w)] } := by
  rw [askMedium, h]
  exact if_neg fun e => hq e.1

theorem mem_modReq {q : MedReq} (h : q ∈ s.med.reqs) (f : MedReq → MedReq) : f q ∈ (modReq s q.id f).med.reqs :=
  List.mem_map.2 ⟨q, h, if_pos rfl⟩

end

/-- The state in which a command is performed, with the command as its performance has left it so far. -/
abbrev tookAs (s : State) (y : HostCmd) (H : FMap Word64) (E : Evr) (P : Vector Pmc 6) : State :=
  { s with cmds := [y], nextCmd := s.nextCmd + 1, hw := H, evr := E, pmc := P }

/-- A command alone that is at rest in a stage. -/
theorem rests_one {y : HostCmd} (hs : stageRests y.stage = true) (hw : y.stage ≠ .waiting) :
    [y].all (fun x => stageRests x.stage && !persistWaits x && !lkupWaits x) = true := by
  simp [persistWaits, lkupWaits, hs, hw]

/-- What is asked for in a state is asked for in those that show the same requests. -/
theorem Asks.congr {s s' t t' : State} {c : Class} {lsa : Nat} {w : Purpose} (h : Asks s t c lsa w) (hs : s'.med = s.med)
    (ht : t'.med.reqs = t.med.reqs) : Asks s' t' c lsa w := by
  unfold Asks at h ⊢
  rw [hs, ht]
  exact h

/-! ### The checks that a command of a general region passes (R50, R54, R135) -/

theorem admits_general {i : Instr} {x : Slotted} {s : State} {op : Op} {k : Nat} (row : hostRow i = some x)
    (ho : portOpen s x.port = true) (hp : permits s x.port x.addr .general k = true) (hop : (acceptedCmd s x).op = op)
    (hr : rightNeeded .general op = some k) (hd : duFits (acceptedCmd s x) = true) (ha : x.addr.toNat % op.size = 0)
    (hm : op = .wrm64 → x.operand ≠ 0) : Admits i x s where
  row := row
  opened := ho
  formed := by
    refine malformed_none hop ?_ hd (dupTag_none ho) (fun _ => ha) hm ?_
    · rintro rfl
      cases hr
    · rintro rfl
      cases hr
  passes := permits_check hp rfl rfl (by rw [← hop] at hr; exact hr)

section
variable {s : State} {p : HPort} {pa : PA} (ho : portOpen s p = true) (c : HChan) (tag : BitVec 12)
include ho

theorem admits_rd64 (hp : permits s p pa .general 0 = true) (ha : pa.toNat % 64 = 0) :
    Admits (.rd64 p c tag 0 pa) (slotted .rd64 p c tag 0 pa 0 0) s :=
  admits_general (op := .rd64) rfl ho hp rfl rfl rfl ha nofun

theorem admits_rd256 (hp : permits s p pa .general 0 = true) (ha : pa.toNat % 256 = 0) :
    Admits (.rd256 p c tag 0 pa) (slotted .rd256 p c tag 0 pa 0 0) s :=
  admits_general (op := .rd256) rfl ho hp rfl rfl rfl ha nofun
end

/-! ### Where a read finds its sector (R139, R168) -/

section
variable {s : State} {lsa : Nat}

theorem slotCheck_none (h : slotAt s lsa = none) : slotCheck s lsa = s := by
  rw [slotCheck, h]

theorem probe_clean {c : Class} {y : Slot} (h : slotAt s lsa = some y) (hg : y.ecc = .good) (hs : y.state = .clean) :
    probe s c lsa = (.kerf y.data, useSlot s lsa) := by
  simp only [probe, slotCheck_good h hg, h, hs]

theorem probe_cached {c : Class} {d : Sector} {t : State} (h : slotAt s lsa = none) (hp : cacheProbe s c lsa = some (d, t)) :
    probe s c lsa = (.cache d, t) := by
  rw [probe, slotCheck_none h]
  rw [h, hp]

theorem probe_missed {c : Class} (h : slotAt s lsa = none) (hp : cacheProbe s c lsa = none) : probe s c lsa = (.miss, s) := by
  rw [probe, slotCheck_none h]
  rw [h, hp]

/-- A slot is used by a read (R139). -/
theorem useSlot_eq {y : Slot} (h : slotAt s lsa = some y) :
    useSlot s lsa = { s with krf := { s.krf with slots := fput s.krf.slots lsa { y with used := nextStamp s }, stamp := s.krf.stamp + 1 } } := by
  rw [useSlot, modSlot, h]
  rfl
end

/-! ### RD64 and RD256 (R116, R139, R168, R171, R179) -/

/-- The command of a row is RD64 or RD256. -/
def isRead (s : State) (x : Slotted) : Prop := (acceptedCmd s x).op = .rd64 ∨ (acceptedCmd s x).op = .rd256

/-- The read of a row that waits for the medium. -/
def waitingRead (s : State) (x : Slotted) : HostCmd := { acceptedCmd s x with stage := .medium, reads := [sectorOf x.addr] }

/-- The answer to a read that finds its sector, or its poison, in the kerf buffer or a cache. -/
def foundResp (x : HostCmd) : Found → Option Resp
  | .kerf d => some (readResp x d 0 0)
  | .cache d => some (readResp x d 1 0)
  | .poisoned => some (Resp.bad .poison 1 x.op.rlen)
  | .fetching | .miss => none

section
variable {i : Instr} {x : Slotted} {s : State} {H : FMap Word64} {E : Evr} {P : Vector Pmc 6}

theorem perform_read (hr : isRead s x) : perform (took s x H E P) (acceptedCmd s x) = startRead (took s x H E P) s.nextCmd := by
  unfold perform
  rcases hr with hr | hr <;> rw [hr] <;> rfl

/-- A read that finds its sector is answered in the state that its probe leaves. -/
theorem read_found (h : Admits i x s) (hr : isRead s x) {f : Found} {a : State} {r : Resp}
    (hp : probe (took s x H E P) .hrd (sectorOf x.addr) = (f, a)) (hf : foundResp (acceptedCmd s x) f = some r)
    (hc : a.cmds = [acceptedCmd s x]) (hq : a.ports = s.ports) :
    perform (took s x H E P) (acceptedCmd s x) = { a with cmds := answeredBy s x true r } := by
  rw [perform_read hr, startRead, cmdAt_took]
  dsimp only
  rw [show probe (took s x H E P) .hrd (sectorOf (acceptedCmd s x).addr) = (f, a) from hp, ← answer_took h.opened hc hq]
  cases f <;> cases hf <;> rfl

/-- A read that finds its sector nowhere asks the medium, and waits. -/
theorem read_missed (hr : isRead s x) (hp : probe (took s x H E P) .hrd (sectorOf x.addr) = (.miss, took s x H E P)) :
    perform (took s x H E P) (acceptedCmd s x) =
      askMedium (tookAs s (waitingRead s x) H E P) .hrd (sectorOf x.addr) (.cmd s.nextCmd) := by
  rw [perform_read hr, startRead, cmdAt_took]
  dsimp only
  rw [show probe (took s x H E P) .hrd (sectorOf (acceptedCmd s x).addr) = (.miss, took s x H E P) from hp]
  dsimp only
  rw [missRead, modCmd_one (y := acceptedCmd s x) (id := s.nextCmd) rfl rfl]
  rfl

variable (h : Admits i x s) (hr : isRead s x)
include h hr

/-- A read of a slot that carries charge touches nothing. -/
theorem read_held {y : Slot} (hy : slotAt s (sectorOf x.addr) = some y) (hh : y.holds = true) :
    AnswersOnly i x s true (readResp (acceptedCmd s x) y.data 0 0) :=
  answers_performed h.row h.opened h.formed (.inr h.passes) fun H E P =>
    ⟨H, E, P, read_found h hr (probe_held (s := took s x H E P) hy hh) rfl rfl rfl⟩

theorem read_poisoned {y : Slot} (hy : slotAt s (sectorOf x.addr) = some y) (hg : y.ecc = .good) (hs : y.state = .poisoned) :
    AnswersOnly i x s true (Resp.bad .poison 1 (acceptedCmd s x).op.rlen) :=
  answers_performed h.row h.opened h.formed (.inr h.passes) fun H E P =>
    ⟨H, E, P, read_found h hr (probe_poisoned (s := took s x H E P) hy hg hs) rfl rfl rfl⟩

/-- A read of a CLEAN slot moves its place among the slots to reclaim. -/
theorem read_clean {y : Slot} (hy : slotAt s (sectorOf x.addr) = some y) (hg : y.ecc = .good) (hs : y.state = .clean) :
    ∃ t, exec i s = .next t ∧ t.cmds = answeredBy s x true (readResp (acceptedCmd s x) y.data 0 0) ∧ OnlyAnswers { s with krf := t.krf } t := by
  obtain ⟨H, E, P, run⟩ := h.runs_staged
  have used := useSlot_eq (s := took s x H E P) hy
  have found := read_found h hr (probe_clean (s := took s x H E P) hy hg hs) rfl (by rw [used]) (by rw [used])
  rw [used] at found
  obtain ⟨t, ran, same, only⟩ := run _ found ⟨_, _, _, _, _, _, _, _, _, _, rfl⟩ (answered_rests s x true _)
  exact ⟨t, ran, same.cmds, by rwa [withStaged_krf (s := s) same.rdp same.reqs same.nextReq] at only⟩

/-- A read that hits a cache. -/
theorem read_cached {d : Sector} {u : State} (hn : slotAt s (sectorOf x.addr) = none)
    (hc : cacheProbe s .hrd (sectorOf x.addr) = some (d, u)) :
    ∃ t, exec i s = .next t ∧ t.cmds = answeredBy s x true (readResp (acceptedCmd s x) d 1 0) ∧ OnlyAnswers { s with rdp := t.rdp } t := by
  obtain ⟨H, E, P, run⟩ := h.runs_staged
  have data := cacheProbe_data (s := s) (t := took s x H E P) rfl .hrd (sectorOf x.addr)
  rw [hc] at data
  obtain ⟨⟨d', a⟩, probed, rfl⟩ := Option.map_eq_some_iff.1 data
  have hit := cacheProbe_hit probed
  have found := read_found h hr (probe_cached (s := took s x H E P) hn probed) rfl hit.cmds hit.ports
  have answered : Staged a { a with cmds := answeredBy s x true (readResp (acceptedCmd s x) d' 1 0) } :=
    ⟨_, _, _, _, _, _, _, _, _, _, rfl⟩
  obtain ⟨t, ran, same, only⟩ := run _ found (((took_staged H E P).trans hit.staged).trans answered) (answered_rests s x true _)
  refine ⟨t, ran, same.cmds, ?_⟩
  rwa [withStaged_rdp (s := s) (same.krf.trans hit.krf) (same.reqs.trans (congrArg Medium.reqs hit.med))
    (same.nextReq.trans (congrArg Medium.nextReq hit.med))] at only

/-- A read whose sector is nowhere asks the medium for it (R171, R179). -/
theorem read_misses (hn : slotAt s (sectorOf x.addr) = none) (hu : uncached s (sectorOf x.addr) = true) :
    Misses i x s .hrd (sectorOf x.addr) := by
  obtain ⟨cache, side, prefetch⟩ := uncached_iff.1 hu
  obtain ⟨H, E, P, run⟩ := h.runs_staged
  have asked := requestRead_asked (tookAs s (waitingRead s x) H E P) .hrd (sectorOf x.addr) (.cmd s.nextCmd)
  have asks := requestRead_asks (tookAs s (waitingRead s x) H E P) .hrd (sectorOf x.addr) (.cmd s.nextCmd)
  have missed := (read_missed hr (probe_missed (s := took s x H E P) hn (cacheProbe_none .hrd cache side))).trans
    (askMedium_none (s := tookAs s (waitingRead s x) H E P) prefetch _ _)
  have waiting : Staged s (tookAs s (waitingRead s x) H E P) := ⟨_, _, _, _, _, _, _, _, _, _, rfl⟩
  obtain ⟨t, ran, same, only⟩ := run _ missed (waiting.trans asked.staged) (by rw [asked.cmds]; exact rests_one rfl nofun)
  refine ⟨t, ran, same.cmds.trans asked.cmds, asks.congr rfl same.reqs, ?_⟩
  rwa [withStaged_asked (s := s) (same.krf.trans asked.krf)] at only

/-- A read whose sector is being prefetched waits for it (R179). -/
theorem read_joins {q : MedReq} (hn : slotAt s (sectorOf x.addr) = none) (hc : cacheProbe s .hrd (sectorOf x.addr) = none)
    (hq : prefetchOf s (sectorOf x.addr) = some q) (hs : q.state ≠ .raised) :
    ∃ t, exec i s = .next t ∧ t.cmds = [waitingRead s x] ∧
      ∃ r ∈ t.med.reqs, r.id = q.id ∧ (Class.hrd, Purpose.cmd s.nextCmd) ∈ r.joined := by
  obtain ⟨H, E, P, run⟩ := h.runs_staged
  have probed : cacheProbe (took s x H E P) .hrd (sectorOf x.addr) = none := by
    have data := cacheProbe_data (s := s) (t := took s x H E P) rfl .hrd (sectorOf x.addr)
    rw [hc] at data
    exact Option.map_eq_none_iff.1 data
  have joins := (read_missed hr (probe_missed (s := took s x H E P) hn probed)).trans
    (askMedium_joins (s := tookAs s (waitingRead s x) H E P) hq hs _ _)
  obtain ⟨t, ran, same, -⟩ := run _ joins ⟨_, _, _, _, _, _, _, _, _, _, rfl⟩ (rests_one (y := waitingRead s x) rfl nofun)
  refine ⟨t, ran, same.cmds, { q with joined := q.joined ++ [(.hrd, .cmd s.nextCmd)] }, ?_, rfl, by simp⟩
  rw [same.reqs]
  exact mem_modReq (s := tookAs s (waitingRead s x) H E P) (List.mem_of_find?_eq_some hq) _

end

/-- Settles O25: what the probe of a read finds gives its answer (`read_found`), or it waits for the medium (`read_missed`). -/
theorem reads_of_staged_sectors : Obligations.reads_of_staged_sectors := by
  refine ⟨fun p c tag pa s ho hp => ?elsewhere, fun p c tag pa s y ho hp hy => ?charged⟩
  case elsewhere =>
    intro lsa x64 x256
    refine ⟨fun y hy hg hs => ⟨fun ha => ?_, fun ha => ?_⟩, fun hn => ⟨fun d u hd => ⟨fun ha => ?_, fun ha => ?_⟩,
      fun hu => ⟨fun ha => ?_, fun ha => ?_⟩, fun q hc hq hs ha => ?_⟩⟩
    · exact read_clean (admits_rd64 ho c tag hp ha) (.inl rfl) hy hg hs
    · exact read_clean (admits_rd256 ho c tag hp ha) (.inr rfl) hy hg hs
    · exact read_cached (admits_rd64 ho c tag hp ha) (.inl rfl) hn hd
    · exact read_cached (admits_rd256 ho c tag hp ha) (.inr rfl) hn hd
    · exact read_misses (admits_rd64 ho c tag hp ha) (.inl rfl) hn hu
    · exact read_misses (admits_rd256 ho c tag hp ha) (.inr rfl) hn hu
    · exact read_joins (admits_rd64 ho c tag hp ha) (.inl rfl) hn hc hq hs
  case charged =>
    refine ⟨fun ha => ⟨fun hh => ?_, fun hg hs => ?_⟩, fun ha => ⟨fun hh => ?_, fun hg hs => ?_⟩⟩
    · exact read_held (admits_rd64 ho c tag hp ha) (.inl rfl) hy hh
    · exact read_poisoned (admits_rd64 ho c tag hp ha) (.inl rfl) hy hg hs
    · exact read_held (admits_rd256 ho c tag hp ha) (.inr rfl) hy hh
    · exact read_poisoned (admits_rd256 ho c tag hp ha) (.inr rfl) hy hg hs

end Sys2Proof.Machine
end

section
/-! Proofs of the address space family: writes of a sector, at its visibility point in a slot or before a merge fetch. -/

namespace Sys2Proof.Machine

/-! ### Room in the kerf buffer (R139) -/

theorem fget_of_mem {α : Type} {m : FMap α} (hw : fwf m = true) {e : Nat × α} (he : e ∈ m) : fget m e.1 = some e.2 := by
  induction m with
  | nil => exact absurd he List.not_mem_nil
  | cons a m ih =>
    obtain ⟨j, v⟩ := a
    obtain ⟨first, rest⟩ := fwf_cons.1 hw
    rcases List.mem_cons.1 he with rfl | he
    · exact if_pos rfl
    · have later := fwf_above rest first e he
      rw [fget, if_neg (by omega), if_neg (by omega)]
      exact ih rest he

/-- The slot that is reclaimed is a CLEAN one. -/
theorem oldestClean_clean {m : FMap Slot} {k : Nat} (h : oldestClean m = some k) : ∃ e ∈ m, e.1 = k ∧ e.2.state = .clean := by
  obtain ⟨b, hb, rfl⟩ := Option.map_eq_some_iff.1 h
  refine List.foldlRecOn (motive := fun best => ∀ b, best = some b → ∃ e ∈ m, e.1 = b.1 ∧ e.2.state = .clean) m _ nofun ?_ b hb
  intro best ih e he b hb
  split at hb
  case isTrue => exact ih b hb
  case isFalse clean =>
    have own : ∃ f ∈ m, f.1 = e.1 ∧ f.2.state = .clean := ⟨e, he, rfl, not_not.1 clean⟩
    split at hb
    · cases hb
      exact own
    · split at hb
      · cases hb
        exact own
      · exact ih b hb

/-- Making room takes the place of one CLEAN slot at most. -/
theorem makeRoom_frame (s : State) : ∃ S, makeRoom s = { s with krf := { s.krf with slots := S } } ∧
    (fwf s.krf.slots = true → ∀ k z, fget s.krf.slots k = some z → z.state ≠ .clean → fget S k = some z) := by
  unfold makeRoom
  split
  · exact ⟨_, rfl, fun _ _ _ h _ => h⟩
  · split
    · exact ⟨_, rfl, fun _ _ _ h _ => h⟩
    case h_2 j old =>
      refine ⟨_, rfl, fun hw k z hz hs => ?_⟩
      obtain ⟨e, he, rfl, clean⟩ := oldestClean_clean old
      refine (fget_fdel_ne hw ?_).trans hz
      rintro rfl
      rw [fget_of_mem hw he] at hz
      cases hz
      exact hs clean

/-! ### The command of a write (R50, R142) -/

theorem isWrite_cases {op : Op} (h : op.isWrite = true) : op = .wr64 ∨ op = .wr256 ∨ op = .wrm64 ∨ op = .fadd64 ∨ op = .cswap64 := by
  cases op <;> simp_all [Op.isWrite]

theorem mirrors_unpaired {s : State} (h : s.mir.pairId.isNone = true) (r : Nat) : mirrors s r = false := by
  rw [mirrors, isPrimary, Option.isNone_iff_eq_none.1 h]
  rfl

theorem notePeak_hit (s : State) : Hit s (notePeak s) := hwSet_hit s _ _

/-- Nothing holds up a write to a sector without a slot: charge and a slot are to be had, and the bit of its region is set. -/
structure Room (s : State) (x : Slotted) : Prop where
  empty  : slotAt s (sectorOf x.addr) = none
  charge : mayReserve s 256 = true
  slot   : slotFree s = true
  bit    : s.krf.bitmap.contains (regionOf x.addr) = true

section
variable {i : Instr} {x : Slotted} {s : State} {H : FMap Word64} {E : Evr} {P : Vector Pmc 6}

theorem perform_write (hw : (acceptedCmd s x).op.isWrite = true) :
    perform (took s x H E P) (acceptedCmd s x) = admitWrite (took s x H E P) s.nextCmd := by
  unfold perform
  rcases isWrite_cases hw with h | h | h | h | h <;> rw [h] <;> rfl

/-- A write of a host on a device that is not paired reaches admission (R142). -/
theorem admitWrite_took (h : portOpen s x.port = true) : admitWrite (took s x H E P) s.nextCmd =
    if (slotAt s (sectorOf x.addr)).any Slot.charged then applyWrite (took s x H E P) s.nextCmd
    else if mayReserve (took s x H E P) 256 ∧ slotFree (took s x H E P) then
      bitmapStep (reserve (took s x H E P) s.nextCmd 256) s.nextCmd
    else waitCharge (took s x H E P) s.nextCmd := by
  have pair : (took s x H E P).mir.pairId.isNone = true := (calm_facts (open_facts h).calm).pair
  have stranded (r : Nat) : syncStranded (took s x H E P) r = false := by rw [syncStranded, mirrors_unpaired pair]; rfl
  rw [admitWrite, syncRule_unpaired pair, cmdAt_took]
  dsimp only
  rw [stranded, mirrors_unpaired pair, if_neg (by simp)]
  rw [modCmd_one (t := took s x H E P) (y := acceptedCmd s x) (id := s.nextCmd) rfl rfl]
  rfl

/-- A write to a sector whose slot carries charge is carried out at once (R142, R146). -/
theorem perform_write_charged (h : portOpen s x.port = true) (hw : (acceptedCmd s x).op.isWrite = true) {y : Slot}
    (hy : slotAt s (sectorOf x.addr) = some y) (hc : y.state ≠ .clean) :
    perform (took s x H E P) (acceptedCmd s x) = applyWrite (took s x H E P) s.nextCmd := by
  rw [perform_write hw, admitWrite_took h, hy, if_pos (by simpa [Slot.charged] using hc)]

/-- A write that reserves its charge, and whose region's bit is set, is carried out at once (R142, R144). -/
theorem perform_write_free (h : portOpen s x.port = true) (hw : (acceptedCmd s x).op.isWrite = true) (room : Room s x)
    (H : FMap Word64) (E : Evr) (P : Vector Pmc 6) :
    ∃ H', perform (took s x H E P) (acceptedCmd s x) = applyWrite (tookAs s { acceptedCmd s x with reserved := 256 } H' E P) s.nextCmd := by
  obtain ⟨hn, hr, hf, hb⟩ := room
  have cmds := (open_facts h).cmds
  have reserved : reservedCharge (took s x H E P) = reservedCharge s := by
    rw [reservedCharge, reservedCharge, cmds]
    rfl
  have may : mayReserve (took s x H E P) 256 = true := by
    unfold mayReserve totalCharge at hr ⊢
    rw [reserved]
    exact hr
  have free : slotFree (took s x H E P) = true := by
    simpa [slotFree, slotsFree, chargedSlots, cmds, acceptedCmd] using hf
  refine ⟨(reserve (took s x H E P) s.nextCmd 256).hw, ?_⟩
  rw [perform_write hw, admitWrite_took h, hn, if_neg (by simp), if_pos ⟨may, free⟩]
  have charged : reserve (took s x H E P) s.nextCmd 256 =
      tookAs s { acceptedCmd s x with reserved := 256 } (reserve (took s x H E P) s.nextCmd 256).hw E P := by
    rw [reserve, modCmd_one (t := took s x H E P) (y := acceptedCmd s x) (id := s.nextCmd) rfl rfl]
    rfl
  rw [bitmapStep, charged, cmdAt_one (y := { acceptedCmd s x with reserved := 256 }) (id := s.nextCmd) rfl rfl]
  exact if_pos hb
end

/-! ### The visibility point (R146, R153) -/

/-- The slot that a write leaves. -/
def landedSlot (s : State) (x : HostCmd) (slot : Slot) : Slot :=
  { slot with
    data := (applyOp x slot.data).1
    state := if slot.state = .draining then .draining else .dirty
    rewritten := slot.rewritten || decide (slot.state = .draining)
    stamp := if decide (slot.state ≠ .dirty) && decide (slot.state ≠ .draining) then nextStamp s else slot.stamp
    aged := if decide (slot.state ≠ .dirty) && decide (slot.state ≠ .draining) then agedAtOnce s else slot.aged
    writers := addWriter slot.writers x
    used := nextStamp s }

/-- A write of a host that is alone, on a device that is not paired, with its link up. -/
structure Alone (t : State) (y : HostCmd) : Prop where
  cmds  : t.cmds = [y]
  host  : ∃ p c, y.origin = .stream p c
  alive : sessionAlive t y = true
  pair  : t.mir.pairId.isNone = true

/-- The command y, performed and answered. -/
def answeredCmd (y : HostCmd) (r : Resp) : HostCmd := { y with resp := some r, stage := .answered, performed := true, reserved := 0 }

theorem sessionAlive_congr {t u : State} (h : u.ports = t.ports) (y : HostCmd) : sessionAlive u y = sessionAlive t y := by
  unfold sessionAlive
  rw [h]

theorem complete_alone {t : State} {y : HostCmd} (h : Alone t y) (r : Resp) :
    complete t y.id r = { t with cmds := [answeredCmd y r] } := by
  obtain ⟨p, c, host⟩ := h.host
  rw [complete, answer, cmdAt_one h.cmds rfl]
  dsimp only
  rw [host]
  dsimp only
  rw [h.alive, if_pos rfl, modCmd_one h.cmds rfl, Bool.or_true]
  rfl

theorem finishWrite_alone {t : State} {y : HostCmd} (h : Alone t y) (r : Resp) :
    finishWrite t y.id r = { t with cmds := [answeredCmd y r] } := by
  obtain ⟨p, c, host⟩ := h.host
  rw [finishWrite, cmdAt_one h.cmds rfl]
  dsimp only
  rw [host]
  dsimp only
  rw [mirrors_unpaired h.pair]
  exact complete_alone h r

theorem cacheWrite_hit (s : State) (lsa : Nat) (d : Sector) : Hit s (cacheWrite s lsa d) := by
  have hold (s : State) (f : Rdp → Rdp) : Hit s (hwAdd (modRdp s f) Reg.RDP_WRITE_UPDATES 1) :=
    (modRdp_hit s f).trans (hwAdd_hit _ _ _)
  unfold cacheWrite
  dsimp only
  split <;> split
  · exact .refl s
  · exact hold _ _
  · exact hold _ _
  · exact (hold _ _).trans (hold _ _)

theorem countMerge_hit (s : State) (x : HostCmd) : Hit s (countMerge s x) :=
  .ite (.refl s) ((hwAdd_hit s _ _).trans (pmcCount_hit _ _ _ _))

theorem countJoin_hit (s : State) : Hit s (countJoin s) := (hwAdd_hit s _ _).trans (pmcCount_hit _ _ _ _)

theorem Hit.alone {t u : State} {y : HostCmd} (h : Hit t u) (k : Alone t y) : Alone u y :=
  ⟨h.cmds.trans k.cmds, k.host, by rw [sessionAlive_congr h.ports]; exact k.alive, by rw [h.mir]; exact k.pair⟩

/-- What a write leaves at its visibility point. -/
structure Landed (t : State) (y : HostCmd) (lsa : Nat) (slot : Slot) (u : State) : Prop where
  staged : Staged t u
  cmds   : u.cmds = [answeredCmd y (applyOp y slot.data).2]
  slots  : u.krf.slots = fput t.krf.slots lsa (landedSlot t y slot)
  med    : u.med = t.med

theorem formRecord_unpaired {t : State} (h : t.mir.pairId.isNone = true) (rec : Record) (cmd : Option Nat) : formRecord t rec cmd = t :=
  if_pos (.inl (by rw [mirrors_unpaired h]; rfl))

/-- The state of a write at its visibility point, before it is answered. -/
def landing (t : State) (y : HostCmd) (lsa : Nat) (slot : Slot) : State :=
  countMerge (cacheWrite (notePeak (modCmd (takeStamp (putSlot t lsa (landedSlot t y slot))) y.id fun y =>
    { y with performed := true, reserved := 0 })) lsa (applyOp y slot.data).1) y

theorem landing_hit {t : State} {y : HostCmd} (h : t.cmds = [y]) (lsa : Nat) (slot : Slot) :
    Hit { takeStamp (putSlot t lsa (landedSlot t y slot)) with cmds := [{ y with performed := true, reserved := 0 }] }
      (landing t y lsa slot) := by
  rw [landing, modCmd_one (t := takeStamp (putSlot t lsa (landedSlot t y slot))) (y := y) (id := y.id) h rfl]
  exact ((notePeak_hit _).trans (cacheWrite_hit _ _ _)).trans (countMerge_hit _ _)

theorem landWrite_eq {t : State} {y : HostCmd} (h : Alone t y) (lsa : Nat) (slot : Slot) :
    landWrite t y lsa slot = { landing t y lsa slot with cmds := [answeredCmd y (applyOp y slot.data).2] } := by
  obtain ⟨p, c, host⟩ := h.host
  have alone : Alone (landing t y lsa slot) { y with performed := true, reserved := 0 } :=
    (landing_hit h.cmds lsa slot).alone ⟨rfl, ⟨p, c, host⟩, h.alive, h.pair⟩
  unfold landWrite
  rw [host]
  exact (congrArg (finishWrite · y.id _) (formRecord_unpaired alone.pair _ _)).trans (finishWrite_alone alone _)

/-- A write of a host lands in its slot, and is answered. -/
theorem landWrite_landed {t : State} {y : HostCmd} (h : Alone t y) (lsa : Nat) (slot : Slot) :
    Landed t y lsa slot (landWrite t y lsa slot) := by
  have hit := landing_hit h.cmds lsa slot
  have placed : Staged t { takeStamp (putSlot t lsa (landedSlot t y slot)) with cmds := [{ y with performed := true, reserved := 0 }] } :=
    ⟨_, _, _, _, _, _, _, _, _, _, rfl⟩
  have answered : Staged (landing t y lsa slot) { landing t y lsa slot with cmds := [answeredCmd y (applyOp y slot.data).2] } :=
    ⟨_, _, _, _, _, _, _, _, _, _, rfl⟩
  rw [landWrite_eq h]
  exact ⟨(placed.trans hit.staged).trans answered, rfl, congrArg Krf.slots hit.krf, hit.med⟩

theorem Staged.slotsOnly {s t : State} (h : Staged s t) : t.krf = { s.krf with slots := t.krf.slots, stamp := t.krf.stamp } := by
  obtain ⟨_, _, _, _, _, _, _, _, _, _, rfl⟩ := h
  rfl

theorem alone_took {x : Slotted} {s : State} (h : portOpen s x.port = true) (n : Nat) (H : FMap Word64) (E : Evr) (P : Vector Pmc 6) :
    Alone (tookAs s { acceptedCmd s x with reserved := n } H E P) { acceptedCmd s x with reserved := n } where
  cmds := rfl
  host := ⟨_, _, rfl⟩
  alive := by
    show ((s.ports[x.port]).linkUp && (s.ports[x.port]).session == (s.ports[x.port]).session) = true
    rw [(open_facts h).up, beq_self_eq_true]
    rfl
  pair := (calm_facts (open_facts h).calm).pair

/-! ### Writes of a slot that carries charge (R117 to R119, R146) -/

section
variable {t : State} {y : HostCmd} {z : Slot}

/-- A write of a slot that carries charge lands in it. -/
theorem applyWrite_held (h : Alone t y) (hz : slotAt t (sectorOf y.addr) = some z) (hh : z.holds = true) :
    applyWrite t y.id = landWrite (countJoin t) y (sectorOf y.addr) z := by
  obtain ⟨good, state⟩ := holds_good hh
  unfold applyWrite
  rw [cmdAt_one h.cmds rfl]
  dsimp only
  rw [slotCheck_good hz good, hz]
  dsimp only
  rcases state with e | e <;> rw [e]

theorem applyWrite_poisoned (h : Alone t y) (hz : slotAt t (sectorOf y.addr) = some z) (hg : z.ecc = .good) (hs : z.state = .poisoned)
    (hp : y.op ≠ .wr256) : applyWrite t y.id = answer t y.id false (Resp.bad .poison 1 0) := by
  obtain ⟨p, c, host⟩ := h.host
  unfold applyWrite
  rw [cmdAt_one h.cmds rfl]
  dsimp only
  rw [slotCheck_good hz hg, hz]
  dsimp only
  rw [hs]
  dsimp only
  rw [if_neg hp, refuseWrite, host, refuse]

/-- A whole sector makes a poisoned slot good. -/
theorem applyWrite_restores (h : Alone t y) (hz : slotAt t (sectorOf y.addr) = some z) (hg : z.ecc = .good) (hs : z.state = .poisoned)
    (hp : y.op = .wr256) :
    applyWrite t y.id = landWrite (clearMark (countJoin t) (sectorOf y.addr)) y (sectorOf y.addr) z := by
  unfold applyWrite
  rw [cmdAt_one h.cmds rfl]
  dsimp only
  rw [slotCheck_good hz hg, hz]
  dsimp only
  rw [hs]
  exact if_pos hp

end

section
variable {i : Instr} {x : Slotted} {s : State} {y : Slot}

/-- What a write leaves in a slot that carries charge, and what it returns. -/
theorem stores_held (h : Admits i x s) (hw : (acceptedCmd s x).op.isWrite = true) (hy : slotAt s (sectorOf x.addr) = some y)
    (hh : y.holds = true) {d : Sector} {r : Resp} (he : applyOp (acceptedCmd s x) y.data = (d, r)) :
    Stores i x s (sectorOf x.addr) y d r := by
  obtain ⟨H, E, P, run⟩ := h.runs_staged
  obtain ⟨good, state⟩ := holds_good hh
  have charged : y.state ≠ .clean := by rcases state with e | e <;> rw [e] <;> nofun
  have alone : Alone (took s x H E P) (acceptedCmd s x) := alone_took h.opened 0 H E P
  have join := countJoin_hit (took s x H E P)
  have landed := landWrite_landed (join.alone alone) (sectorOf x.addr) y
  have staged := ((took_staged (x := x) H E P).trans join.staged).trans landed.staged
  have performed := (perform_write_charged h.opened hw hy charged).trans (applyWrite_held alone hy hh)
  obtain ⟨t, ran, same, only⟩ := run _ performed staged (landed.cmds ▸ rests_one rfl nofun)
  have slots : t.krf.slots = fput s.krf.slots (sectorOf x.addr) (landedSlot (countJoin (took s x H E P)) (acceptedCmd s x) y) := by
    rw [same.krf]
    exact landed.slots.trans (by rw [join.krf])
  have med := landed.med.trans join.med
  refine ⟨t, ran, ?_, ⟨landedSlot (countJoin (took s x H E P)) (acceptedCmd s x) y, ?_, ?_, ?_, good, rfl, rfl⟩, fun k hk => ?_, ?_, ?_⟩
  · rw [same.cmds]
    refine landed.cmds.trans ?_
    rw [he]
    rfl
  · rw [slotAt, slots]
    exact fget_fput_self _ _ _
  · exact congrArg Prod.fst he
  · show (if y.state = .draining then SlotState.draining else .dirty) = y.state
    rcases state with e | e <;> rw [e] <;> rfl
  · rw [slotAt, slots]
    exact fget_fput_ne _ _ hk
  · rwa [withStaged_krf_rdp (s := s) (same.reqs.trans (congrArg Medium.reqs med)) (same.nextReq.trans (congrArg Medium.nextReq med))] at only
  · rw [same.krf]
    exact staged.slotsOnly

/-- A partial write of a poisoned sector changes nothing. -/
theorem refuses_poisoned (h : Admits i x s) (hw : (acceptedCmd s x).op.isWrite = true) (hp : (acceptedCmd s x).op ≠ .wr256)
    (hy : slotAt s (sectorOf x.addr) = some y) (hg : y.ecc = .good) (hs : y.state = .poisoned) :
    AnswersOnly i x s false (Resp.bad .poison 1 0) := by
  refine answers_performed h.row h.opened h.formed (.inr h.passes) fun H E P => ⟨H, E, P, ?_⟩
  rw [perform_write_charged h.opened hw hy (by rw [hs]; nofun)]
  exact (applyWrite_poisoned (alone_took h.opened 0 H E P) hy hg hs hp).trans (answer_took h.opened rfl rfl)

end

/-! ### A sector that is made good (R222) -/

theorem find_fput_of_not {α : Type} {m : FMap α} {k : Nat} {v w : α} {f : Nat × α → Bool} (hk : fget m k = some w)
    (hw : f (k, w) = false) (hv : f (k, v) = false) : (fput m k v).find? f = m.find? f := by
  induction m with
  | nil => nomatch hk
  | cons e m ih =>
    obtain ⟨j, u⟩ := e
    rw [fget] at hk
    rw [fput]
    split at hk
    case isTrue same =>
      cases hk
      subst same
      rw [if_pos rfl, List.find?_cons, List.find?_cons, hv, hw]
    case isFalse other =>
      split at hk
      case isTrue => nomatch hk
      case isFalse above => rw [if_neg other, if_neg above, List.find?_cons, List.find?_cons, ih hk]

/-- A region of data is no queue buffer, and its count of poisoned sectors makes it none. -/
theorem firstBuffer_clearMark {s : State} {lsa : Nat} (h : (regionAt s (lsaRegion lsa)).use = .general) :
    firstBuffer (clearMark s lsa) = firstBuffer s := by
  have here : fget s.regions (lsaRegion lsa) = some (regionAt s (lsaRegion lsa)) := by
    rw [regionAt, fgetD] at h ⊢
    cases found : fget s.regions (lsaRegion lsa) with
    | none =>
      rw [found] at h
      nomatch h
    | some r => rfl
  have kept : ({ regionAt s (lsaRegion lsa) with poisoned := (regionAt s (lsaRegion lsa)).poisoned - 1 } : Region) ≠ Region.shipped := by
    intro e
    have use := congrArg Region.use e
    dsimp only at use
    rw [h] at use
    nomatch use
  have counted : (clearMark s lsa).regions = fput s.regions (lsaRegion lsa)
      { regionAt s (lsaRegion lsa) with poisoned := (regionAt s (lsaRegion lsa)).poisoned - 1 } := by
    rw [clearMark, modMed, countPoison, modRegion, setRegion]
    dsimp only
    rw [if_neg Bool.false_ne_true, fputD, if_neg kept]
  rw [firstBuffer, counted, find_fput_of_not here (by simp [h]) (by simp [h]), firstBuffer]

theorem clearMark_frame (s : State) (lsa : Nat) : ∃ R M T, clearMark s lsa =
    { s with regions := R, med := { s.med with merged := M }, cnt := { s.cnt with poison := T } } := ⟨_, _, _, rfl⟩

theorem calm_clearMark {s : State} {lsa : Nat} (hs : calm s = true) (h : (regionAt s (lsaRegion lsa)).use = .general) :
    calm (clearMark s lsa) = true := by
  have first := firstBuffer_clearMark h
  obtain ⟨R, M, T, e⟩ := clearMark_frame s lsa
  rw [e] at first ⊢
  unfold calm queueBitRests at hs ⊢
  rw [first]
  exact hs

theorem Alone.clearMark {t : State} {y : HostCmd} (h : Alone t y) (lsa : Nat) : Alone (clearMark t lsa) y := by
  obtain ⟨R, M, T, e⟩ := clearMark_frame t lsa
  rw [e]
  exact ⟨h.cmds, h.host, h.alive, h.pair⟩

theorem permits_use {s : State} {p : HPort} {pa : PA} {u : Use} {k : Nat} (h : permits s p pa u k = true) :
    (regionAt s (lsaRegion (sectorOf pa))).use = u := by
  simp only [permits, Bool.and_eq_true, decide_eq_true_eq] at h
  obtain ⟨⟨⟨_, use⟩, _⟩, _⟩ := h
  rwa [lsaRegion_sectorOf]

theorem isMarked_dirty {s : State} {lsa : Nat} {z : Slot} (h : slotAt s lsa = some z) (hz : z.state = .dirty) :
    isMarked s lsa = false := by
  unfold isMarked
  rw [h]
  dsimp only
  rw [hz]
  rfl

theorem clearMark_staged {s t : State} (h : Staged s t) (lsa : Nat) : Staged (clearMark s lsa) (clearMark t lsa) := by
  obtain ⟨l, n, H, E, P, D, S, m, Q, j, rfl⟩ := h
  exact ⟨l, n, H, E, P, D, S, m, Q, j, rfl⟩

/-! ### A whole sector (R117, R144, R147) -/

section
variable {i : Instr} {x : Slotted} {s : State}

/-- A WR256 whose performance puts its sector in a slot leaves the slot DIRTY. -/
theorem whole_lands (h : Admits i x s) (hop : (acceptedCmd s x).op = .wr256) {b : State} (hb : calm b = true)
    (hl : ∀ H E P, ∃ a n z, Staged b a ∧ Alone a { acceptedCmd s x with reserved := n } ∧ z.ecc = .good ∧ z.state ≠ .draining ∧
      perform (took s x H E P) (acceptedCmd s x) = landWrite a { acceptedCmd s x with reserved := n } (sectorOf x.addr) z) :
    ∃ t, exec i s = .next t ∧ t.cmds = answeredBy s x true (Resp.plain .ok 0) ∧
      ∃ z, slotAt t (sectorOf x.addr) = some z ∧ z.data = x.data ∧ z.state = .dirty ∧ z.ecc = .good := by
  obtain ⟨H, E, P, run⟩ := h.runs
  obtain ⟨a, n, z, staged, alone, good, still, performed⟩ := hl H E P
  have landed := landWrite_landed alone (sectorOf x.addr) z
  have whole : applyOp { acceptedCmd s x with reserved := n } z.data = (x.data, Resp.plain .ok 0) := by
    unfold applyOp
    dsimp only
    rw [hop]
    rfl
  obtain ⟨t, ran, cmds, only⟩ := run _ performed ((staged.trans landed.staged).calm hb (landed.cmds ▸ rests_one rfl nofun))
  refine ⟨t, ran, ?_, landedSlot a { acceptedCmd s x with reserved := n } z, ?_, congrArg Prod.fst whole, if_neg still, good⟩
  · rw [cmds, landed.cmds, whole]
    rfl
  · rw [slotAt, only.krf, landed.slots]
    exact fget_fput_self _ _ _

/-- A WR256 of a poisoned slot makes its sector good. -/
theorem whole_restores (h : Admits i x s) (hop : (acceptedCmd s x).op = .wr256)
    (hu : (regionAt s (lsaRegion (sectorOf x.addr))).use = .general) {y : Slot} (hy : slotAt s (sectorOf x.addr) = some y)
    (hg : y.ecc = .good) (hs : y.state = .poisoned) :
    ∃ t, exec i s = .next t ∧ t.cmds = answeredBy s x true (Resp.plain .ok 0) ∧
      ∃ z, slotAt t (sectorOf x.addr) = some z ∧ z.data = x.data ∧ z.state = .dirty ∧ z.ecc = .good := by
  refine whole_lands h hop (calm_clearMark (open_facts h.opened).calm hu) fun H E P => ?_
  have alone : Alone (took s x H E P) (acceptedCmd s x) := alone_took h.opened 0 H E P
  have join := (countJoin_hit (took s x H E P)).alone alone
  refine ⟨clearMark (countJoin (took s x H E P)) (sectorOf x.addr), 0, y,
    clearMark_staged ((took_staged H E P).trans (countJoin_hit _).staged) _, join.clearMark _, hg, by rw [hs]; nofun, ?_⟩
  rw [perform_write_charged h.opened (by rw [hop]; rfl) hy (by rw [hs]; nofun)]
  exact applyWrite_restores alone hy hg hs hop

/-- The state in which a WR256 without a slot takes one: the place of its sector is marked no longer. -/
def unmarked (s : State) (lsa : Nat) : State := if markedInMedium s lsa then clearMark s lsa else s

theorem calm_unmarked {lsa : Nat} (hs : calm s = true) (h : (regionAt s (lsaRegion lsa)).use = .general) :
    calm (unmarked s lsa) = true := by
  rw [unmarked]
  split
  · exact calm_clearMark hs h
  · exact hs

theorem unmarked_tookAs (y : HostCmd) (H : FMap Word64) (E : Evr) (P : Vector Pmc 6) (lsa : Nat) :
    Staged (unmarked s lsa) (unmarked (tookAs s y H E P) lsa) := by
  have took : Staged s (tookAs s y H E P) := ⟨_, _, _, _, _, _, _, _, _, _, rfl⟩
  have marked : markedInMedium (tookAs s y H E P) lsa = markedInMedium s lsa := rfl
  rw [unmarked, unmarked, marked]
  split
  · exact clearMark_staged took lsa
  · exact took

theorem Alone.unmarked {t : State} {y : HostCmd} (h : Alone t y) (lsa : Nat) : Alone (unmarked t lsa) y := by
  rw [Machine.unmarked]
  split
  · exact h.clearMark lsa
  · exact h

theorem makeRoom_staged (s : State) : Staged s (makeRoom s) := by
  obtain ⟨S, room, -⟩ := makeRoom_frame s
  rw [room]
  exact ⟨_, _, _, _, _, _, _, _, _, _, rfl⟩

theorem Alone.makeRoom {t : State} {y : HostCmd} (h : Alone t y) : Alone (makeRoom t) y := by
  obtain ⟨S, room, -⟩ := makeRoom_frame t
  rw [room]
  exact ⟨h.cmds, h.host, h.alive, h.pair⟩

theorem applyWrite_whole {t : State} {y : HostCmd} (h : Alone t y) (hn : slotAt t (sectorOf y.addr) = none) (hp : y.op = .wr256) :
    applyWrite t y.id = landWrite (makeRoom (unmarked t (sectorOf y.addr))) y (sectorOf y.addr) (Slot.blank .clean) := by
  unfold applyWrite
  rw [cmdAt_one h.cmds rfl]
  dsimp only
  rw [slotCheck_none hn, hn]
  exact if_pos hp

/-- A WR256 takes a slot at once. -/
theorem whole_takes (h : Admits i x s) (hop : (acceptedCmd s x).op = .wr256)
    (hu : (regionAt s (lsaRegion (sectorOf x.addr))).use = .general) (hr : Room s x) :
    ∃ t, exec i s = .next t ∧ t.cmds = answeredBy s x true (Resp.plain .ok 0) ∧
      ∃ z, slotAt t (sectorOf x.addr) = some z ∧ z.data = x.data ∧ z.state = .dirty ∧ z.ecc = .good := by
  refine whole_lands h hop (calm_unmarked (open_facts h.opened).calm hu) fun H E P => ?_
  obtain ⟨H', performed⟩ := perform_write_free h.opened (by rw [hop]; rfl) hr H E P
  have alone := alone_took h.opened 256 H' E P
  exact ⟨_, 256, Slot.blank .clean, (unmarked_tookAs _ _ _ _ _).trans (makeRoom_staged _), (alone.unmarked _).makeRoom, rfl, nofun,
    performed.trans (applyWrite_whole alone hr.empty hop)⟩

end

/-! ### Merge fetches (R75, R144) -/

/-- The FETCHING slot of a write. -/
def fetchingSlot (id : Nat) : Slot := { Slot.blank .fetching with queue := [id] }

theorem applyWrite_part {t : State} {y : HostCmd} (h : Alone t y) (hn : slotAt t (sectorOf y.addr) = none) (hp : y.op ≠ .wr256) :
    applyWrite t y.id = startFetch t y (sectorOf y.addr) := by
  unfold applyWrite
  rw [cmdAt_one h.cmds rfl]
  dsimp only
  rw [slotCheck_none hn, hn]
  exact if_neg hp

/-- A write that waits in a slot for the fetch of its sector. -/
def fetchedBy (t : State) (y : HostCmd) (lsa : Nat) (S : FMap Slot) (H : FMap Word64) (E : Evr) (P : Vector Pmc 6) : State :=
  { t with
    cmds := [{ y with stage := .slotQueue, reserved := 0 }], hw := H, evr := E, pmc := P
    krf := { t.krf with slots := fput S lsa (fetchingSlot y.id) } }

/-- A merge fetch asks the medium once its write waits in a FETCHING slot. -/
theorem startFetch_asks {t : State} {y : HostCmd} (h : Alone t y) {lsa : Nat} (hu : uncached t lsa = true) :
    ∃ u S, startFetch t y lsa = requestRead u .kfetch lsa .fetch ∧ Staged t u ∧ u.cmds = [{ y with stage := .slotQueue, reserved := 0 }] ∧
      u.krf.slots = fput S lsa (fetchingSlot y.id) ∧ u.med = t.med ∧
      (fwf t.krf.slots = true → ∀ k z, fget t.krf.slots k = some z → z.state ≠ .clean → fget S k = some z) := by
  obtain ⟨cache, side, prefetch⟩ := uncached_iff.1 hu
  obtain ⟨S, room, kept⟩ := makeRoom_frame t
  have waits := modCmd_one (t := putSlot (makeRoom t) lsa (fetchingSlot y.id)) (y := y) (id := y.id) (by rw [room]; exact h.cmds) rfl
    fun y => { y with stage := .slotQueue, reserved := 0 }
  rw [room] at waits
  have counted : ∃ H E P, pmcCount (hwAdd (notePeak (modCmd (putSlot (makeRoom t) lsa (fetchingSlot y.id)) y.id fun y =>
      { y with stage := .slotQueue, reserved := 0 })) Reg.KRF_MERGE_FETCH 1) 0x201 none 1 = fetchedBy t y lsa S H E P := by
    rw [room, waits]
    exact ⟨_, _, _, rfl⟩
  obtain ⟨H, E, P, counted⟩ := counted
  have probed : cacheProbe (fetchedBy t y lsa S H E P) .kfetch lsa = none := cacheProbe_none _ cache side
  refine ⟨fetchedBy t y lsa S H E P, S, ?_, ⟨_, _, _, _, _, _, _, _, _, _, rfl⟩, rfl, rfl, rfl, kept⟩
  unfold startFetch
  dsimp only
  rw [show ({ Slot.blank .fetching with queue := [y.id] } : Slot) = fetchingSlot y.id from rfl, counted, probed]
  exact askMedium_none (s := fetchedBy t y lsa S H E P) prefetch _ _

/-- A partial write of a sector that is nowhere waits in a FETCHING slot for its merge fetch. -/
theorem part_fetches {i : Instr} {x : Slotted} {s : State} (h : Admits i x s) (hw : (acceptedCmd s x).op.isWrite = true)
    (hp : (acceptedCmd s x).op ≠ .wr256) (hr : Room s x) (hu : uncached s (sectorOf x.addr) = true) :
    Fetches i x s (sectorOf x.addr) := by
  obtain ⟨H, E, P, run⟩ := h.runs_staged
  obtain ⟨H₁, performed⟩ := perform_write_free h.opened hw hr H E P
  have alone := alone_took h.opened 256 H₁ E P
  obtain ⟨u, S, asks, fetching, cmds, placed, med, kept⟩ := startFetch_asks alone (lsa := sectorOf x.addr) hu
  have fetched := performed.trans ((applyWrite_part alone hr.empty hp).trans asks)
  have asked := requestRead_asked u .kfetch (sectorOf x.addr) .fetch
  have stands := requestRead_asks u .kfetch (sectorOf x.addr) .fetch
  have took : Staged s (tookAs s { acceptedCmd s x with reserved := 256 } H₁ E P) := ⟨_, _, _, _, _, _, _, _, _, _, rfl⟩
  have waits := asked.cmds.trans cmds
  obtain ⟨t, ran, same, only⟩ := run _ fetched ((took.trans fetching).trans asked.staged) (waits ▸ rests_one rfl nofun)
  have slots : t.krf.slots = fput S (sectorOf x.addr) (fetchingSlot s.nextCmd) := by
    rw [same.krf, asked.krf, placed]
    rfl
  refine ⟨t, ran, ⟨(acceptedCmd s x).sync, same.cmds.trans waits⟩, ⟨fetchingSlot s.nextCmd, ?_, rfl, rfl⟩, fun wf k z hk hz hs => ?_,
    stands.congr med.symm same.reqs, only⟩
  · rw [slotAt, slots]
    exact fget_fput_self _ _ _
  · rw [slotAt, slots]
    exact (fget_fput_ne _ _ hk).trans (kept wf k z hz hs)

/-! ### The commands of the writes pass their checks (R50, R54, R135) -/

section
variable {s : State} {p : HPort} {pa : PA} (ho : portOpen s p = true) (c : HChan) (tag : BitVec 12)
include ho

theorem admits_wr64 (data : Line) (hp : permits s p pa .general 1 = true) (ha : pa.toNat % 64 = 0) :
    Admits (.wr64 p c tag 1 pa data) (slotted .wr64 p c tag 1 pa 0 (data.setWidth 2048)) s :=
  admits_general (op := .wr64) rfl ho hp rfl rfl rfl ha nofun

theorem admits_wr256 (data : Sector) (hp : permits s p pa .general 1 = true) (ha : pa.toNat % 256 = 0) :
    Admits (.wr256 p c tag 4 pa data) (slotted .wr256 p c tag 4 pa 0 data) s :=
  admits_general (op := .wr256) rfl ho hp rfl rfl rfl ha nofun

theorem admits_wrm64 {mask : BitVec 64} (data : Line) (hp : permits s p pa .general 1 = true) (ha : pa.toNat % 64 = 0) (hm : mask ≠ 0) :
    Admits (.wrm64 p c tag 1 pa mask data) (slotted .wrm64 p c tag 1 pa mask (data.setWidth 2048)) s :=
  admits_general (op := .wrm64) rfl ho hp rfl rfl rfl ha fun _ => hm

theorem admits_fadd64 (addend : Word64) (hp : permits s p pa .general 2 = true) (ha : pa.toNat % 8 = 0) :
    Admits (.fadd64 p c tag 0 pa addend) (slotted .fadd64 p c tag 0 pa addend 0) s :=
  admits_general (op := .fadd64) rfl ho hp rfl rfl rfl ha nofun

theorem admits_cswap64 (compare : Word64) (data : Line) (hp : permits s p pa .general 2 = true) (ha : pa.toNat % 8 = 0) :
    Admits (.cswap64 p c tag 1 pa compare data) (slotted .cswap64 p c tag 1 pa compare (data.setWidth 2048)) s :=
  admits_general (op := .cswap64) rfl ho hp rfl rfl rfl ha nofun
end

theorem line_of_data (data : Line) : (data.setWidth 2048).setWidth 512 = data := by
  rw [BitVec.setWidth_setWidth_of_le _ (by omega), BitVec.setWidth_eq]

theorem word_of_data (data : Line) : (data.setWidth 2048).setWidth 64 = data.setWidth 64 :=
  BitVec.setWidth_setWidth_of_le _ (by omega)

theorem applyOp_swaps {x : HostCmd} (hx : x.op = .cswap64) {d : Sector} (h : wordAt d (wordOfPa x.addr) = x.operand) :
    applyOp x d = (putWord d (wordOfPa x.addr) (x.data.setWidth 64), ⟨.ok, 1, 0, wordAt d (wordOfPa x.addr), 0⟩) := by
  unfold applyOp
  rw [hx]
  exact if_pos (decide_eq_true h)

theorem applyOp_differs {x : HostCmd} (hx : x.op = .cswap64) {d : Sector} (h : wordAt d (wordOfPa x.addr) ≠ x.operand) :
    applyOp x d = (d, Resp.okData 0 (wordAt d (wordOfPa x.addr)) 0) := by
  unfold applyOp
  rw [hx]
  exact if_neg fun e => h (of_decide_eq_true e)

/-- Settles O26: a write lands in the slot that holds its sector (`stores_held`), a WR256 takes a slot or makes one good
(`whole_takes`, `whole_restores`), and a partial write waits for its merge fetch (`part_fetches`) or meets poison
(`refuses_poisoned`). -/
theorem writes_of_staged_sectors : Obligations.writes_of_staged_sectors := by
  refine ⟨fun p c tag pa s ho empty charge slot bit =>
    ⟨fun hp => ⟨fun data ha => ?whole, fun hu ha data => ⟨?line, fun mask hm => ?masked⟩⟩, fun hp hu ha => ⟨fun addend => ?added, fun compare data => ?swapped⟩⟩, fun p c tag pa s y ho hy => ?staged⟩
  case whole =>
    obtain ⟨t, ran, cmds, slot⟩ := whole_takes (admits_wr256 ho c tag data hp ha) rfl (permits_use hp) ⟨empty, charge, slot, bit⟩
    exact ⟨t, ran, ⟨_, cmds⟩, slot⟩
  case line => exact part_fetches (admits_wr64 ho c tag data hp ha) rfl nofun ⟨empty, charge, slot, bit⟩ hu
  case masked => exact part_fetches (admits_wrm64 ho c tag data hp ha hm) rfl nofun ⟨empty, charge, slot, bit⟩ hu
  case added => exact part_fetches (admits_fadd64 ho c tag addend hp ha) rfl nofun ⟨empty, charge, slot, bit⟩ hu
  case swapped => exact part_fetches (admits_cswap64 ho c tag compare data hp ha) rfl nofun ⟨empty, charge, slot, bit⟩ hu
  case staged =>
    refine ⟨fun hp hh => ⟨fun data ha => ?_, fun data ha => ?_, fun mask data ha hm => ?_⟩,
      fun hp hh ha => ⟨fun addend => ?_, fun compare data => ?_⟩,
      fun hg hs => ⟨fun hp ha data => ⟨?_, fun mask hm => ?_⟩, fun hp ha => ⟨fun addend => ?_, fun compare data => ?_⟩,
        fun hp ha data => ?_⟩⟩
    · refine stores_held (admits_wr64 ho c tag data hp ha) rfl hy hh ?_
      exact congrArg (fun l => (putLine y.data (lineOf pa) l, Resp.plain .ok 0)) (line_of_data data)
    · exact stores_held (admits_wr256 ho c tag data hp ha) rfl hy hh rfl
    · refine stores_held (admits_wrm64 ho c tag data hp ha hm) rfl hy hh ?_
      exact congrArg (fun l => (putLine y.data (lineOf pa) ((lineAt y.data (lineOf pa) &&& ~~~ byteMask mask) ||| (l &&& byteMask mask)),
        Resp.plain .ok 0)) (line_of_data data)
    · exact stores_held (admits_fadd64 ho c tag addend hp ha) rfl hy hh rfl
    · refine stores_held (admits_cswap64 ho c tag compare data hp ha) rfl hy hh ?_
      by_cases equal : wordAt y.data (wordOfPa pa) = compare
      · rw [if_pos equal, if_pos equal, ← word_of_data data]
        exact applyOp_swaps rfl equal
      · rw [if_neg equal, if_neg equal]
        exact applyOp_differs rfl equal
    · exact refuses_poisoned (admits_wr64 ho c tag data hp ha) rfl nofun hy hg hs
    · exact refuses_poisoned (admits_wrm64 ho c tag data hp ha hm) rfl nofun hy hg hs
    · exact refuses_poisoned (admits_fadd64 ho c tag addend hp ha) rfl nofun hy hg hs
    · exact refuses_poisoned (admits_cswap64 ho c tag compare data hp ha) rfl nofun hy hg hs
    · obtain ⟨t, ran, cmds, z, hz, data, dirty, -⟩ := whole_restores (admits_wr256 ho c tag data hp ha) rfl (permits_use hp) hy hg hs
      exact ⟨t, ran, cmds, ⟨z, hz, data, dirty⟩, isMarked_dirty hz dirty⟩

end Sys2Proof.Machine
end

section
/-! Proofs of the host-port family: bring-up and loss of the links, and what arrives on them. -/

namespace Sys2Proof.Machine

/-! ### What counts and records -/

/-- Nothing differs but hardware-held registers, the recorder and the performance counters. -/
def Counted (s t : State) : Prop := ∃ H E P, t = { s with hw := H, evr := E, pmc := P }

section
variable {s t u : State}

theorem Counted.refl (s : State) : Counted s s := ⟨_, _, _, rfl⟩

theorem Counted.trans (h : Counted s t) (k : Counted t u) : Counted s u := by
  obtain ⟨_, _, _, rfl⟩ := h
  obtain ⟨_, _, _, rfl⟩ := k
  exact ⟨_, _, _, rfl⟩

theorem Counted.ite {c : Prop} [Decidable c] (h : Counted s t) (k : Counted s u) : Counted s (if c then t else u) := by
  split <;> assumption

theorem Counted.foldl {γ : Type} {f : State → γ → State} (hf : ∀ s a, Counted s (f s a)) (l : List γ) (s : State) :
    Counted s (l.foldl f s) :=
  List.foldlRecOn l f (.refl s) fun _ h a _ => h.trans (hf _ a)

theorem Counted.cmds (h : Counted s t) : t.cmds = s.cmds := by
  obtain ⟨_, _, _, rfl⟩ := h
  rfl
end

theorem hwSet_counted (s : State) (o : Nat) (v : Word64) : Counted s (hwSet s o v) := ⟨_, _, _, rfl⟩

theorem raised_counted (s : State) (o k : Nat) (e : Nat × Nat) (i d : Nat) : Counted s (evt (raise s o k) e i d) := ⟨_, _, _, rfl⟩

theorem pmcCount_counted (s : State) (a : Nat) (b : Option Nat) (n : Nat) : Counted s (pmcCount s a b n) := pmcCount_frame s a b n

theorem discardCmds_counted (s : State) (p : HPort) (c : HChan) (cause n : Nat) : Counted s (discardCmds s p c cause n) :=
  have lost : Counted s (countDiscard s p c cause n) :=
    ((hwSet_counted s _ _).trans (pmcCount_counted _ _ _ _)).trans (hwSet_counted _ _ _)
  .ite (lost.trans (raised_counted _ _ _ _ _ _)) lost

/-! ### The loss of a link (R96, R97) -/

/-- A port without its locks, its link and what it was sending. -/
def unlocked (q : Port) : Port :=
  { q with cwLock := false, wordLock := 0, mfLock := 0, linkUp := false, txPackets := [] }

/-- A port that loses its link: one that was up drops what it had received in part. -/
def unlinked (q : Port) : Port := { unlocked q with packets := if q.linkUp then [] else q.packets }

theorem unlinked_down {q : Port} (h : q.linkUp = false) : unlinked q = unlocked q := by
  rw [unlinked, h]
  rfl

theorem unlinked_up {q : Port} (h : q.linkUp = true) : unlinked q = { unlocked q with packets := [] } := by
  rw [unlinked, h]
  rfl

theorem unlockPort_eq (s : State) (p : HPort) : unlockPort s p = modPort s p unlocked := rfl

/-- The commands that the loss of a port's link leaves: none with the number of a response that waits at a port whose link was up. -/
def keptCmds (s : State) (p : HPort) : List HostCmd :=
  if s.ports[p].linkUp then s.cmds.filter fun x => (s.cmds.filter (answeredAt p)).all fun y => x.id != y.id else s.cmds

theorem vmod_vmod {α : Type} {n : Nat} (v : Vector α n) (i : Fin n) (f g : α → α) :
    vmod (vmod v i f) i g = vmod v i fun a => g (f a) := by
  simp [vmod]

theorem vmod_congr {α : Type} {n : Nat} {v : Vector α n} {i : Fin n} {f g : α → α} (h : f v[i] = g v[i]) : vmod v i f = vmod v i g := by
  rw [vmod, h, vmod]

/-- Partly received commands are dropped with the packets, and counted. -/
theorem dropPackets_counted (s : State) (p : HPort) :
    Counted (modPort s p fun q => { q with packets := [] }) (dropPackets s p) := by
  have lost : ∀ (t : State) (e : Nat × OpenPacket),
      Counted t (if e.2.partialBytes.isEmpty ∨ e.2.dropping.isSome then t else discardCmds t p (BitVec.ofNat 8 e.1) 4 1) :=
    fun t e => .ite (.refl t) (discardCmds_counted t p _ 4 1)
  obtain ⟨_, _, _, e⟩ := Counted.foldl lost (s.ports[p]).packets s
  rw [dropPackets, e]
  exact ⟨_, _, _, rfl⟩

/-- Responses that are discarded go with their numbers, and are counted. -/
theorem discardResps_counted (p : HPort) (l : List HostCmd) (s : State) :
    Counted { s with cmds := s.cmds.filter fun x => l.all fun y => x.id != y.id }
      (l.foldl (fun s x => delCmd (discardResp s p) x.id) s) := by
  induction l generalizing s with
  | nil => exact ⟨s.hw, s.evr, s.pmc, by simp⟩
  | cons y l ih =>
    obtain ⟨H, E, P, e⟩ := ih (delCmd (discardResp s p) y.id)
    refine ⟨H, E, P, ?_⟩
    rw [List.foldl_cons, e]
    simp only [delCmd, List.filter_filter, List.all_cons, Bool.and_comm]
    rfl

theorem portDown_down {s : State} {p : HPort} (h : s.ports[p].linkUp = false) : portDown s p = unlockPort s p := by
  rw [portDown, h]
  rfl

theorem portDown_up {s : State} {p : HPort} (h : s.ports[p].linkUp = true) :
    Counted (discardAll (dropPackets (unlockPort s p) p) p) (portDown s p) := by
  rw [portDown, h]
  exact (hwSet_counted _ _ _).trans (raised_counted _ _ _ _ _ _)

/-- All that the loss of a link changes. -/
theorem portDown_counted (s : State) (p : HPort) :
    Counted { s with ports := vmod s.ports p unlinked, cmds := keptCmds s p } (portDown s p) := by
  cases up : s.ports[p].linkUp with
  | false =>
    have same : vmod s.ports p unlinked = vmod s.ports p unlocked := vmod_congr (unlinked_down up)
    rw [portDown_down up, same, keptCmds, up]
    exact .refl _
  | true =>
    have same : vmod s.ports p unlinked = (modPort (unlockPort s p) p fun q => { q with packets := [] }).ports := by
      rw [unlockPort_eq, modPort_ports, modPort_ports, vmod_vmod]
      exact vmod_congr (unlinked_up up)
    obtain ⟨_, _, _, drop⟩ := dropPackets_counted (unlockPort s p) p
    have discard := discardResps_counted p ((dropPackets (unlockPort s p) p).cmds.filter (answeredAt p)) (dropPackets (unlockPort s p) p)
    have all := discard.trans (portDown_up up)
    rw [drop] at all
    rw [same, keptCmds, up]
    obtain ⟨_, _, _, e⟩ := all
    exact ⟨_, _, _, e⟩

/-- Settles O20: a lost link changes its port alone, leaves what waits for no response (`portDown_counted`), and is counted. -/
theorem link_loss_keeps_accepted_commands : Obligations.link_loss_keeps_accepted_commands := by
  intro p s
  obtain ⟨H, E, P, e⟩ := portDown_counted s p
  rw [e]
  refine ⟨vmod_self _ _ _, fun q hq => vmod_ne _ _ hq, fun up => ?silent, fun x hx rests alone => ?kept, fun x hx => ?came, rfl⟩
  case silent =>
    show (keptCmds s p).any (answeredAt p) = false
    rw [keptCmds, if_pos up, List.any_eq_false]
    intro x hx waits
    obtain ⟨mem, other⟩ := List.mem_filter.1 hx
    have differs := List.all_eq_true.1 other x (List.mem_filter.2 ⟨mem, waits⟩)
    exact bne_iff_ne.1 differs rfl
  case kept =>
    show x ∈ keptCmds s p
    rw [keptCmds]
    split
    · refine List.mem_filter.2 ⟨hx, List.all_eq_true.2 fun y hy => bne_iff_ne.2 fun same => ?_⟩
      obtain ⟨mem, waits⟩ := List.mem_filter.1 hy
      rw [alone y mem same.symm, rests] at waits
      exact Bool.false_ne_true waits
    · exact hx
  case came =>
    change x ∈ keptCmds s p at hx
    rw [keptCmds] at hx
    split at hx
    · exact (List.mem_filter.1 hx).1
    · exact hx

/-! ### Bring-up of a link (R81, R82, R85, R95) -/

section
variable {s : State} {p : HPort}

theorem exec_hostSignalValid (h : portRuns s p = true) :
    exec (.hostSignalValid p) s = done (modPort s p fun q => { q with signal := true }) := if_pos h

theorem exec_codewordLock (h : portRuns s p = true) (signal : s.ports[p].signal = true) (skew : Vector Byte 8) :
    exec (.codewordLock ⟨p, skew⟩) s = done (noteSkew (modPort s p fun q => { q with cwLock := true }) p skew) := if_pos ⟨h, signal⟩

theorem exec_wordLock (h : s.ports[p].cwLock = true) (l : Lane) :
    exec (.wordLock p l) s = done (modPort s p fun q => { q with wordLock := q.wordLock ||| BitVec.ofNat 8 (2 ^ l.val) }) := if_pos h

theorem exec_metaframeLock (h : s.ports[p].wordLock = 0xFF) (l : Lane) :
    exec (.metaframeLock p l) s = done (modPort s p fun q => { q with mfLock := q.mfLock ||| BitVec.ofNat 8 (2 ^ l.val) }) := if_pos h

theorem exec_hpLinkUp (lock : s.ports[p].mfLock = 0xFF) (down : s.ports[p].linkUp = false) (h : portRuns s p = true) (ns : BitVec 32) :
    exec (.hpLinkUp p ns) s = done (settle (linkComesUp s p ns)) := if_pos ⟨lock, by rw [down]; rfl, h⟩

/-- What the port that comes up starts from. -/
theorem linkComesUp_self (s : State) (p : HPort) (ns : BitVec 32) :
    (linkComesUp s p ns).ports[p] = { s.ports[p] with
      linkUp := true, session := s.ports[p].session + 1, metaframe := cfgFld s (Reg.HP_METAFRAME p.val) 0 15
      calLen := cfgFld s (Reg.HP_CAL p.val) 0 5, packets := [], txPackets := [], hostXoff := 0, calRx := none, calTx := 0
      xoff := refold s.ports[p] (cfgFld s (Reg.HP_CAL p.val) 0 5) } :=
  vmod_self s.ports p _

theorem linkComesUp_ne (s : State) {p q : HPort} (ns : BitVec 32) (h : q ≠ p) : (linkComesUp s p ns).ports[q] = s.ports[q] :=
  vmod_ne s.ports _ h

theorem refold_same {q : Port} {len : Nat} (h : len = q.calLen) : refold q len = q.xoff := if_pos h

/-! ### The host's calendar (R89) -/

theorem getLsbD_putBit {n : Nat} (x : BitVec n) {k j : Nat} (b : Bool) (hk : k < n) :
    (putBit x k b).getLsbD j = if j = k then b else x.getLsbD j := by
  have placed : (BitVec.ofNat n (b.toNat % 2 ^ 1 * 2 ^ k)).getLsbD j = (decide (j = k) && b) := by
    cases b with
    | false => simp
    | true =>
      rw [show true.toNat % 2 ^ 1 * 2 ^ k = 2 ^ k by simp, BitVec.getLsbD_ofNat, Nat.testBit_two_pow, Bool.and_true,
        ← Bool.decide_and, decide_eq_decide]
      omega
  rw [putBit, putBits, BitVec.getLsbD_or, BitVec.getLsbD_and, BitVec.getLsbD_not, getLsbD_maskOf, placed]
  by_cases h : j = k
  · subst h; simp [hk]
  · have outside : ¬ (j < n ∧ k ≤ j ∧ j < k + 1) := by omega
    rw [decide_eq_false outside]
    by_cases hj : j < n
    · simp [h, hj]
    · simp [h, BitVec.getLsbD_of_ge x j (by omega)]

/-- Bits put one after another from bit k on stand where they were put. -/
theorem getLsbD_putBits_range {w : Nat} (x : BitVec w) (k : Nat) (g : Nat → Bool) {n e : Nat} (hn : k + n ≤ w) (he : e < n) :
    ((List.range n).foldl (fun a j => putBit a (k + j) (g j)) x).getLsbD (k + e) = g e := by
  induction n with
  | zero => omega
  | succ n ih =>
    rw [List.range_succ, List.foldl_append, List.foldl_cons, List.foldl_nil, getLsbD_putBit _ _ (by omega)]
    by_cases h : e = n
    · rw [if_pos (by omega), h]
    · rw [if_neg (by omega), ih (by omega) (by omega)]

theorem calendarIn_reset {q : Port} {w : CalWord} (reset : w.reset = true) (h : 0 < q.calLen) :
    calendarIn q w = { q with hostXoff := takeCalWord q.hostXoff 0 w.field, calRx := some 1 } := by
  rw [calendarIn, reset]
  exact if_pos h

theorem calendarIn_unstarted {q : Port} {w : CalWord} (reset : w.reset = false) (h : q.calRx = none) : calendarIn q w = q := by
  rw [calendarIn, reset, h]
  rfl

theorem bitOf_takeCalWord_zero (xoff : BitVec 256) (field : BitVec 16) {e : Nat} (h : e < 16) :
    bitOf (takeCalWord xoff 0 field) e = !bitOf field (15 - e) := by
  have put := getLsbD_putBits_range xoff 0 (fun j => !bitOf field (15 - j)) (by omega) h
  rwa [Nat.zero_add] at put

theorem exec_hostCalendarReceived (h : s.ports[p].linkUp = true) (w : CalWord) :
    exec (.hostCalendarReceived p w) s = done (modPort s p fun q => calendarIn q w) := if_pos h

/-! ### What takes a link down (R81, R96, R102) -/

theorem exec_codewordLockLost (h : s.ports[p].cwLock = true) :
    exec (.codewordLockLost p) s = done (settle (portDown (countUncorr s p 3) p)) := if_pos h

theorem exec_wordLockLost {l : Lane} (h : bitOf s.ports[p].wordLock l.val = true) :
    exec (.wordLockLost p l) s = done (settle (portDown s p)) := if_pos h

theorem exec_metaframeLockLost {l : Lane} (h : bitOf s.ports[p].mfLock l.val = true) :
    exec (.metaframeLockLost p l) s = done (settle (portDown s p)) := if_pos h

theorem exec_hpCtrlEnable (up : coreUp s = true) (on : Bool) :
    exec (.hpCtrlEnable p on) s = done (setEnable (touch s (Reg.HP_CTRL p.val)) p on) := if_pos up

theorem setEnable_set (h : s.ports[p].fitted = true) :
    setEnable s p true = setCfg s (Reg.HP_CTRL p.val) (putBit (cfg s (Reg.HP_CTRL p.val)) 0 true) := by
  rw [setEnable, h]
  rfl

theorem setEnable_cleared (h : s.ports[p].fitted = true) :
    setEnable s p false =
      settle (portDown (setCfg s (Reg.HP_CTRL p.val) (putBit (cfg s (Reg.HP_CTRL p.val)) 0 false)) p) := by
  rw [setEnable, h]
  rfl

theorem exec_hpFarLoop (up : coreUp s = true) (on : Bool) :
    exec (.hpFarLoop p on) s = done (setFarLoop (touch s (Reg.HP_CTRL p.val)) p on) := if_pos up

theorem setFarLoop_changed {on : Bool} (h : cfgBit s (Reg.HP_CTRL p.val) 1 ≠ on) :
    setFarLoop s p on =
      settle (portDown (setCfg s (Reg.HP_CTRL p.val) (putBit (cfg s (Reg.HP_CTRL p.val)) 1 on)) p) := if_neg h

end

/-- Settles O19: each step of bring-up has its guard, and every loss takes the port down. -/
theorem host_links_come_up_and_go_down : Obligations.host_links_come_up_and_go_down := by
  refine ⟨fun p l s => ⟨exec_hostSignalValid, exec_codewordLock, (exec_wordLock · l), (exec_metaframeLock · l),
      fun ns lock down runs => ⟨exec_hpLinkUp lock down runs ns, linkComesUp_self s p ns, fun same => ?kept, fun q => linkComesUp_ne s ns⟩,
      fun w up => ⟨exec_hostCalendarReceived up w, fun reset len e he => ?entry, calendarIn_unstarted⟩⟩,
    fun p l s => ⟨exec_codewordLockLost, exec_wordLockLost, exec_metaframeLockLost, fun up fitted => ⟨?disabled, ?enabled⟩, fun on up differs => ?looped⟩⟩
  case kept => rw [linkComesUp_self, refold_same same]
  case entry => rw [calendarIn_reset reset len, bitOf_takeCalWord_zero _ _ he]
  case disabled => rw [exec_hpCtrlEnable up, setEnable_cleared (by exact fitted)]; rfl
  case enabled => rw [exec_hpCtrlEnable up, setEnable_set (by exact fitted)]; rfl
  case looped => rw [exec_hpFarLoop up, setFarLoop_changed (by exact differs)]; rfl

/-! ### What the line showed (R84, R102, R103) -/

theorem countUncorr_counted (s : State) (p : HPort) (n : Nat) : Counted s (countUncorr s p n) :=
  .ite (.refl s) ((hwSet_counted s _ _).trans (hwSet_counted _ _ _))

theorem seeLine_counted (s : State) (p : HPort) (b : Burst) : Counted s (seeLine s p b) :=
  have corrected : Counted s (hwAdd (hwAdd s (Reg.HP_FEC_CORR_CW p.val) b.line.corrCw) (Reg.HP_FEC_CORR_SYM p.val) b.line.corrSym) :=
    (hwSet_counted s _ _).trans (hwSet_counted _ _ _)
  have uncorrectable := (pmcCount_counted _ 0x103 (some p.val) b.line.corrCw).trans (countUncorr_counted _ p (burstUncorr b))
  (corrected.trans uncorrectable).trans (.foldl (fun _ _ => hwSet_counted _ _ _) _ _)

section
variable {s : State} {p : HPort}

theorem exec_burstReceived_looped (loop : loopedBack s p = true) (lock : s.ports[p].cwLock = true) (c : HChan) (b : Burst) :
    exec (.burstReceived p c b) s = done (seeLine s p b) := by
  show execBurstReceived p c b s = _
  rw [execBurstReceived, if_pos loop, if_pos lock]

theorem exec_burstReceived_up (up : s.ports[p].linkUp = true) (loop : loopedBack s p = false) (c : HChan) (b : Burst) :
    exec (.burstReceived p c b) s = done (settle (burstIn s p c b)) := by
  show execBurstReceived p c b s = _
  rw [execBurstReceived, if_neg (by rw [loop]; exact Bool.false_ne_true), if_pos up]

end

/-! ### The error of a burst (R100, R101) -/

section
variable {b : Burst} {was : Option OpenPacket}

theorem burstError_fec (fec : b.fecBad = true) : burstError b was = some 0 := if_pos fec

theorem burstError_crc (fec : b.fecBad = false) (crc : b.crcBad = true) : burstError b was = some 1 := by
  simp [burstError, fec, crc]

/-- A burst outside a packet that opens none is a protocol error. -/
theorem burstError_outside (fec : b.fecBad = false) (crc : b.crcBad = false) (sop : b.sop = false) : burstError b none = some 2 := by
  simp [burstError, fec, crc, sop]

/-- A burst that no layer marks is without error in its place in its packet. -/
theorem burstError_none (fec : b.fecBad = false) (crc : b.crcBad = false) (ctrl : b.ctrlBad = false) (short : b.bytes.length ≤ 256)
    {len : Nat} (place : (b.sop = true ∧ len = 0) ∨ (b.sop = false ∧ was.map (·.len) = some len))
    (fits : len + b.bytes.length ≤ 4096) (whole : b.eop = true → (len + b.bytes.length) % 16 = 0) : burstError b was = none := by
  have opens : ¬(b.sop = false ∧ was = none) := by
    rintro ⟨sop, rfl⟩
    simp [sop] at place
  have start : (if b.sop then 0 else (was.map (·.len)).getD 0) = len := by
    rcases place with ⟨sop, rfl⟩ | ⟨sop, h⟩
    · rw [sop]; rfl
    · rw [sop, h]; rfl
  simp only [burstError, start, fec, crc, ctrl]
  rw [if_neg (by simp), if_neg (by simp), if_neg]
  simp only [Bool.false_eq_true, Bool.not_eq_true', Option.isNone_iff_eq_none, false_or, not_or]
  exact ⟨by omega, opens, by omega, fun h => h.2 (whole h.1)⟩

end

/-! ### A burst in its packet (R86, R88) -/

/-- A burst has been seen on the line: what the line showed and its payload are counted (R103). -/
def burstSeen (s : State) (p : HPort) (b : Burst) : State := hwAdd (seeLine s p b) (Reg.HP_RX_BYTES p.val) b.bytes.length

section
variable {s : State} {p : HPort} {c : HChan} {b : Burst}

/-- Where no packet is open a burst in error discards what it brings, from its own start on. -/
theorem burstIn_error (closed : fget s.ports[p].packets c.toNat = none) {k : Nat} (error : burstError b none = some k) :
    burstIn s p c b = discardBurst (countError (burstSeen s p b) p k) p c b OpenPacket.start (if k = 2 then 2 else 1) := by
  simp only [burstIn, closed, error, Option.getD_none, ite_self]
  rfl

theorem burstIn_starts (closed : fget s.ports[p].packets c.toNat = none) (sound : burstError b none = none) :
    burstIn s p c b = takeBurst (burstSeen s p b) p c b OpenPacket.start false := by
  simp only [burstIn, closed, sound, Option.getD_none, ite_self]
  rfl

/-- A SOP on an open packet closes it first. -/
theorem burstIn_restarts {w : OpenPacket} (opened : fget s.ports[p].packets c.toNat = some w) (sound : burstError b (some w) = none)
    (sop : b.sop = true) :
    burstIn s p c b = takeBurst (closeOpen (burstSeen s p b) p c w) p c b OpenPacket.start true := by
  simp only [burstIn, opened, sound, sop]
  rfl

theorem burstIn_goes_on {w : OpenPacket} (opened : fget s.ports[p].packets c.toNat = some w) (sound : burstError b (some w) = none)
    (sop : b.sop = false) (keeps : w.dropping = none) :
    burstIn s p c b = takeBurst (burstSeen s p b) p c b w false := by
  simp only [burstIn, opened, sound, sop, Option.getD_some, Bool.false_eq_true, if_false, keeps]
  rfl

end

/-! ### The arrival of a command (R88, R91, R97, R99, R102) -/

section
variable {s : State} {x : Slotted}

theorem arrival_accepted_iff : arrival s x = some 0 ↔
    s.ports[x.port].linkUp = true ∧ loopedBack s x.port = false ∧ s.glb.state.serves = true ∧
      receiveUnits s x.port + partUnits s x.port x.chan + (16 + 64 * x.du + 255) / 256 ≤ 1024 := by
  have units : cmdUnits (acceptedCmd s x) = (16 + 64 * x.du + 255) / 256 := rfl
  unfold arrival
  rw [units]
  split_ifs with away stopped full
  · refine iff_of_false nofun fun ⟨up, loop, _, _⟩ => ?_
    rw [up, loop] at away
    simp at away
  · refine iff_of_false (by simp) fun ⟨_, _, serves, _⟩ => ?_
    rw [serves] at stopped
    cases stopped
  · exact iff_of_false (by simp) fun ⟨_, _, _, room⟩ => by omega
  · simp only [not_or, Bool.not_eq_true', Bool.not_eq_false, Bool.not_eq_true] at away stopped
    exact iff_of_true rfl ⟨away.1, away.2, stopped, by omega⟩

theorem arrival_cause {k : Nat} (h : arrival s x = some k) (hk : k ≠ 0) : k = 3 ∨ k = 5 := by
  unfold arrival at h
  split_ifs at h
  · cases h; exact .inr rfl
  · cases h; exact .inl rfl
  · cases h; exact absurd rfl hk

theorem hostCommand_nothing (h : arrival s x = none) : hostCommand s x = settle s := by
  rw [hostCommand, h]

theorem accept_discards {k : Nat} (h : arrival s x = some k) (hk : k ≠ 0) : accept s x = discardCmds s x.port x.chan k 1 := by
  obtain ⟨k, rfl⟩ := Nat.exists_eq_succ_of_ne_zero hk
  rw [accept, h]
  rfl

/-- A command that is not accepted leaves its payload count and its discard. -/
theorem hostCommand_discards {k : Nat} (h : arrival s x = some k) (hk : k ≠ 0) :
    hostCommand s x = settle (discardCmds (hwAdd s (Reg.HP_RX_BYTES x.port.val) (16 + 64 * x.du)) x.port x.chan k 1) := by
  have again : arrival (hwAdd s (Reg.HP_RX_BYTES x.port.val) (16 + 64 * x.du)) x = some k := h
  rw [hostCommand, h, ← accept_discards again hk]

end

/-- Settles O22: the first error of a burst, or its place in its packet, decides what becomes of it (`burstIn_error`, `burstIn_starts`,
`burstIn_restarts`, `burstIn_goes_on`), and `arrival` what becomes of a command. The units of the receive buffer are the model's choice
(log entry 7), and so is a burst with neither SOP nor EOP outside a packet as a protocol error (log entry 60). -/
theorem host_commands_arrive : Obligations.host_commands_arrive := by
  refine ⟨⟨fun p c b s loop lock => ⟨exec_burstReceived_looped loop lock c b, (seeLine_counted s p b).cmds⟩,
      fun p c b s up loop => ⟨exec_burstReceived_up up loop c b, fun fec _ closed => ?fec, fun fec crc _ closed => ?crc,
        fun fec crc ctrl short => ⟨fun sop whole => ?opens, fun sop w opened keeps fits whole => ?goesOn, fun sop closed => ?outside⟩⟩⟩,
    fun i x s row => ⟨arrival_accepted_iff, fun taken => ?taken⟩, fun i x s row => ⟨fun none => ?nothing, fun k hk lost => ?lost⟩⟩
  case fec => exact burstIn_error closed (burstError_fec fec)
  case crc => exact burstIn_error closed (burstError_crc fec crc)
  case outside => exact burstIn_error closed (burstError_outside fec crc sop)
  case opens =>
    have sound (was : Option OpenPacket) : burstError b was = none :=
      burstError_none fec crc ctrl short (.inl ⟨sop, rfl⟩) (by omega) (by simpa using whole)
    exact ⟨fun closed => burstIn_starts closed (sound none), fun w opened => burstIn_restarts opened (sound (some w)) sop⟩
  case goesOn =>
    exact burstIn_goes_on opened (burstError_none fec crc ctrl short (.inr ⟨sop, rfl⟩) fits whole) sop keeps
  case taken => rw [exec_host row, hostCommand_taken taken]
  case nothing => rw [exec_host row, hostCommand_nothing none]
  case lost => exact ⟨arrival_cause lost hk, by rw [exec_host row, hostCommand_discards lost hk]⟩

end Sys2Proof.Machine
end

section
/-! Proofs of the port command family: the bytes of a row of commands, and the commands that have no operands in the device. -/

namespace Sys2Proof.Machine

/-! ### A command without a PA -/

/-- A row sends a command without a PA that an open port takes, and that is well-formed. -/
structure Takes (i : Instr) (x : Slotted) (s : State) : Prop where
  row    : hostRow i = some x
  opened : portOpen s x.port = true
  formed : malformed (acceptedCmd s x) = none
  noPa   : (acceptedCmd s x).op.isPa = false

section
variable {i : Instr} {x : Slotted} {s : State} (h : Takes i x s)
include h

/-- It is carried out at once, and what its performance leaves is answered and no more. -/
theorem Takes.runs : ∃ H E P, ∀ u, perform (took s x H E P) (acceptedCmd s x) = u →
    calm u = true → ∃ t, exec i s = .next t ∧ t.cmds = u.cmds ∧ OnlyAnswers u t := by
  obtain ⟨H, E, P, run⟩ := host_runs h.row h.opened
  exact ⟨H, E, P, fun u hu hc => ⟨_, run u ((advance_performs h.opened H E P h.formed (.inl h.noPa)).trans hu) hc, fin_calAll_cmds u,
    fin_calAll u⟩⟩

/-- Where its performance is its answer, nothing else differs. -/
theorem Takes.answers {p : Bool} {r : Resp}
    (hp : ∀ H E P, perform (took s x H E P) (acceptedCmd s x) = answer (took s x H E P) s.nextCmd p r) : AnswersOnly i x s p r :=
  answers_performed h.row h.opened h.formed (.inl h.noPa) fun H E P => ⟨H, E, P, (hp H E P).trans (answer_took h.opened rfl rfl)⟩
end

/-- The checks before a command without a PA, other than ENQ. -/
theorem takes_of {i : Instr} {x : Slotted} {s : State} {op : Op} (row : hostRow i = some x) (ho : portOpen s x.port = true)
    (hop : (acceptedCmd s x).op = op) (known : op ≠ .unknown) (noPa : op.isPa = false) (enq : op ≠ .enq)
    (hd : duFits (acceptedCmd s x) = true) : Takes i x s where
  row := row
  opened := ho
  formed := by
    refine malformed_none hop known hd (dupTag_none ho) (fun pa => absurd pa (ne_true_of_eq_false noPa)) ?_ (fun e => absurd e enq)
    rintro rfl
    cases noPa
  noPa := by rw [hop, noPa]

/-! ### NOP and ECHO (R132) -/

section
variable {s : State} {p : HPort} (ho : portOpen s p = true) (c : HChan) (tag : BitVec 12)
include ho

theorem takes_nop : Takes (.nop p c tag 0) (slotted .nop p c tag 0 0 0 0) s := takes_of (op := .nop) rfl ho rfl nofun rfl nofun rfl

theorem takes_echo {du : BitVec 3} (hd : du.toNat ≤ 4) (operand : Word64) (data : BitVec 2048) :
    Takes (.echo p c tag du operand data) (slotted .echo p c tag du 0 operand data) s :=
  takes_of (op := .echo) rfl ho rfl nofun rfl nofun (decide_eq_true hd)
end

/-- Settles O24: the performance of either is its answer. -/
theorem nop_and_echo : Obligations.nop_and_echo := by
  intro p c tag s ho
  refine ⟨?nop, fun du operand data hd => ?echo⟩
  case nop => exact (takes_nop ho c tag).answers fun _ _ _ => rfl
  case echo => exact (takes_echo ho c tag hd operand data).answers fun _ _ _ => rfl

/-! ### The layout of a command slot (R104) -/

theorem length_leBytes (k v : Nat) : (leBytes k v).length = k := by
  induction k generalizing v with
  | zero => rfl
  | succ k ih => rw [leBytes, List.length_cons, ih]

theorem leNat_leBytes (k v : Nat) : leNat (leBytes k v) = v % 256 ^ k := by
  induction k generalizing v with
  | zero => rw [Nat.pow_zero, Nat.mod_one]; rfl
  | succ k ih => rw [leBytes, leNat, ih, Nat.pow_succ', Nat.mod_mul]; rfl

/-- A number laid out in k bytes is read back from where it stands. -/
theorem leAt_leBytes {l a c : List Byte} {off k v : Nat} (hl : l = a ++ (leBytes k v ++ c)) (ha : a.length = off) :
    leAt l off k = v % 256 ^ k := by
  subst hl ha
  have whole : slice (a ++ (leBytes k v ++ c)) a.length k = leBytes k v := by
    simp [slice, length_leBytes]
  rw [leAt, whole, leNat_leBytes]

section
variable (x : WireCmd)

/-- Bytes 0 to 2 of a slot as a number: OPCODE, DU and TAG. -/
def WireCmd.word (x : WireCmd) : Nat := x.code.toNat + x.du.toNat * 256 + x.tag.toNat * 4096

theorem WireCmd.word_lt : x.word < 256 ^ 3 := by
  have code := x.code.isLt
  have du := x.du.isLt
  have tag := x.tag.isLt
  unfold word
  omega

/-- The slot of a command, without its data. -/
def WireCmd.head (x : WireCmd) : List Byte := leBytes 3 x.word ++ leBytes 5 x.addr.toNat ++ leBytes 8 x.operand.toNat

theorem WireCmd.bytes_eq : x.bytes = x.head ++ x.data := rfl

theorem WireCmd.length_head : x.head.length = 16 := by simp only [head, List.length_append, length_leBytes]

theorem WireCmd.head_word (l : List Byte) : leAt (x.head ++ l) 0 3 = x.word := by
  have read : leAt (x.head ++ l) 0 3 = x.word % 256 ^ 3 :=
    leAt_leBytes (a := []) (c := leBytes 5 x.addr.toNat ++ leBytes 8 x.operand.toNat ++ l) (by simp [head]) rfl
  rw [read, Nat.mod_eq_of_lt x.word_lt]

theorem WireCmd.head_opcode (l : List Byte) : leAt (x.head ++ l) 0 1 = x.code.toNat := by
  have read : leAt (x.head ++ l) 0 1 = x.word % 256 ^ 1 :=
    leAt_leBytes (a := []) (c := leBytes 2 (x.word / 256) ++ leBytes 5 x.addr.toNat ++ leBytes 8 x.operand.toNat ++ l) rfl rfl
  have code := x.code.isLt
  rw [read, word]
  omega

theorem WireCmd.head_du (l : List Byte) : leAt (x.head ++ l) 1 1 % 8 = x.du.toNat := by
  have read : leAt (x.head ++ l) 1 1 = x.word / 256 % 256 ^ 1 :=
    leAt_leBytes (a := leBytes 1 x.word)
      (c := leBytes 1 (x.word / 256 / 256) ++ leBytes 5 x.addr.toNat ++ leBytes 8 x.operand.toNat ++ l) rfl rfl
  have code := x.code.isLt
  have du := x.du.isLt
  rw [read, word]
  omega

theorem WireCmd.head_addr (l : List Byte) : leAt (x.head ++ l) 3 5 = x.addr.toNat := by
  have read : leAt (x.head ++ l) 3 5 = x.addr.toNat % 256 ^ 5 :=
    leAt_leBytes (a := leBytes 3 x.word) (c := leBytes 8 x.operand.toNat ++ l) (by simp [head]) rfl
  exact read.trans (Nat.mod_eq_of_lt x.addr.isLt)

theorem WireCmd.head_operand (l : List Byte) : leAt (x.head ++ l) 8 8 = x.operand.toNat := by
  have read : leAt (x.head ++ l) 8 8 = x.operand.toNat % 256 ^ 8 :=
    leAt_leBytes (a := leBytes 3 x.word ++ leBytes 5 x.addr.toNat) (c := l) (by simp [head]) rfl
  exact read.trans (Nat.mod_eq_of_lt x.operand.isLt)

/-- What stands after the slot is read from its own beginning. -/
theorem WireCmd.head_data (l : List Byte) : leAt (x.head ++ l) 16 256 = leAt l 0 256 := by
  have rest : (x.head ++ l).drop 16 = l := List.drop_left' x.length_head
  rw [leAt, leAt, slice, slice, rest]
  rfl

/-- The bytes of a command, taken apart, give its slot. -/
theorem slotOf_bytes (p : HPort) (c : HChan) : slotOf p c x.bytes = x.slot p c := by
  have word : x.word / 4096 = x.tag.toNat := by
    have code := x.code.isLt
    have du := x.du.isLt
    unfold WireCmd.word
    omega
  rw [x.bytes_eq, slotOf, x.head_opcode, x.head_du, x.head_word, x.head_addr, x.head_operand, x.head_data, word]
  simp only [BitVec.ofNat_toNat, BitVec.setWidth_eq, WireCmd.slot]

/-- The length of a command shows as soon as its slot has arrived (R105). -/
theorem slotLength_bytes (rest : List Byte) : slotLength (x.bytes ++ rest) = some (16 + 64 * x.du.toNat) := by
  rw [slotLength, x.bytes_eq, List.append_assoc, x.head_du, if_neg (by rw [List.length_append, x.length_head]; omega)]

theorem WireCmd.length_bytes (h : x.fits = true) : x.bytes.length = 16 + 64 * x.du.toNat := by
  rw [x.bytes_eq, List.length_append, x.length_head, of_decide_eq_true h]
end

/-! ### A row of commands (R105) -/

/-- Bytes that hold no whole command wait. -/
theorem slotsOf_waits (p : HPort) (c : HChan) (fuel : Nat) {tail : List Byte}
    (h : ∀ n, slotLength tail = some n → tail.length < n) : slotsOf p c fuel tail = ([], tail) := by
  cases fuel with
  | zero => rfl
  | succ fuel =>
    rw [slotsOf]
    cases length : slotLength tail with
    | none => rfl
    | some n => exact if_pos (h n length)

/-- The first command of a row is taken off. -/
theorem slotsOf_bytes (p : HPort) (c : HChan) (fuel : Nat) {x : WireCmd} (h : x.fits = true) (rest : List Byte) :
    slotsOf p c (fuel + 1) (x.bytes ++ rest) = (x.slot p c :: (slotsOf p c fuel rest).1, (slotsOf p c fuel rest).2) := by
  have length := x.length_bytes h
  rw [slotsOf, slotLength_bytes]
  dsimp only
  rw [if_neg (by rw [List.length_append]; omega), List.take_left' length, List.drop_left' length, slotOf_bytes]

/-- A row of commands is taken apart, given fuel for each. -/
theorem slotsOf_row (p : HPort) (c : HChan) {tail : List Byte} (h : ∀ n, slotLength tail = some n → tail.length < n)
    (xs : List WireCmd) (fits : ∀ x ∈ xs, x.fits = true) (fuel : Nat) (hf : xs.length ≤ fuel) :
    slotsOf p c fuel (xs.flatMap WireCmd.bytes ++ tail) = (xs.map (WireCmd.slot p c), tail) := by
  induction xs generalizing fuel with
  | nil => exact slotsOf_waits p c fuel h
  | cons x xs ih =>
    obtain ⟨first, others⟩ := List.forall_mem_cons.1 fits
    obtain ⟨fuel, rfl⟩ := Nat.exists_eq_add_of_le' (Nat.lt_of_lt_of_le (Nat.zero_lt_succ _) hf)
    rw [List.flatMap_cons, List.append_assoc, slotsOf_bytes p c fuel first, ih others fuel (Nat.le_of_succ_le_succ hf)]
    rfl

/-- The commands of a row take 16 bytes each, and more. -/
theorem length_row (xs : List WireCmd) : 16 * xs.length ≤ (xs.flatMap WireCmd.bytes).length := by
  induction xs with
  | nil => exact Nat.le_refl _
  | cons x xs ih =>
    rw [List.flatMap_cons, List.length_append, x.bytes_eq, List.length_append, x.length_head, List.length_cons]
    omega

/-- Settles O21: each command is taken off the row by its own DU (`slotsOf_bytes`), and the bytes are fuel enough (`length_row`). -/
theorem commands_are_delimited_by_du : Obligations.commands_are_delimited_by_du := by
  intro p c xs tail fits waits
  have room := length_row xs
  refine slotsOf_row p c (fun n length => ?_) xs fits _ (by rw [List.length_append]; omega)
  rw [length] at waits
  exact waits

end Sys2Proof.Machine
end

section
/-! Proofs of the port command family: a fold moves counts from the deltas to the sector and loses none. -/

namespace Sys2Proof.Machine

/-! ### Words and pairs of a sector (R41, R120) -/

theorem getLsbD_wordAt (d : Sector) (i b : Nat) : (wordAt d i).getLsbD b = (decide (b < 64) && d.getLsbD (64 * i + b)) :=
  BitVec.getLsbD_extractLsb' ..

theorem wordAt_putWord (d : Sector) (w : Word64) {i j : Nat} (hi : i < 32) (hj : j < 32) :
    wordAt (putWord d i w) j = if j = i then w else wordAt d j := by
  refine BitVec.eq_of_getLsbD_eq fun b hb => ?_
  rw [getLsbD_wordAt, putWord, getLsbD_putField d _ (by omega) (by omega), decide_eq_true hb, Bool.true_and]
  by_cases own : j = i
  · subst own
    rw [if_pos rfl, if_pos (by omega), Nat.add_sub_cancel_left, BitVec.getLsbD_setWidth, decide_eq_true (by omega), Bool.true_and]
  · rw [if_neg own, if_neg (by omega), getLsbD_wordAt, decide_eq_true hb, Bool.true_and]

theorem pairAt_putPair (d : Sector) (v : Pair) {i j : Nat} (hi : i < 16) (hj : j < 16) :
    pairAt (putPair d i v) j = if j = i then v else pairAt d j := by
  simp only [pairAt, putPair, wordAt_putWord _ _ (by omega : 2 * i < 32) (by omega : 2 * j < 32),
    wordAt_putWord _ _ (by omega : 2 * i + 1 < 32) (by omega : 2 * j < 32),
    wordAt_putWord _ _ (by omega : 2 * i < 32) (by omega : 2 * j + 1 < 32),
    wordAt_putWord _ _ (by omega : 2 * i + 1 < 32) (by omega : 2 * j + 1 < 32)]
  by_cases own : j = i
  · subst own
    simp
  · simp [own, show ¬ 2 * j = 2 * i + 1 by omega, show ¬ 2 * j + 1 = 2 * i by omega]

/-- A fold takes from the delta what it adds to the sector. -/
theorem Pair.add_add_sub (a b v : Pair) : (a.add b).add (v.sub b) = a.add v := by
  simp only [Pair.add, Pair.sub, Pair.mk.injEq]
  constructor <;> ring

/-! ### A pending delta (R274, R276) -/

/-- The delta that the fold cache holds of a pair. -/
def pendingOf (m : FMap FoldEntry) (k : Nat) : Pair :=
  match fget m k with
  | some e => e.delta
  | none => Pair.zero

theorem pendingOf_some {m : FMap FoldEntry} {k : Nat} {e : FoldEntry} (h : fget m k = some e) : pendingOf m k = e.delta := by
  rw [pendingOf, h]

theorem pendingOf_none {m : FMap FoldEntry} {k : Nat} (h : fget m k = none) : pendingOf m k = Pair.zero := by
  rw [pendingOf, h]

theorem pendingOf_congr {m n : FMap FoldEntry} {k : Nat} (h : fget n k = fget m k) : pendingOf n k = pendingOf m k := by
  rw [pendingOf, pendingOf, h]

/-- One pair of a snapshot is taken out of its delta. -/
def takeDelta (now : Nat) (m : FMap FoldEntry) (e : Nat × Pair) : FMap FoldEntry :=
  match fget m e.1 with
  | none => m
  | some x => if x.delta.sub e.2 = Pair.zero then fdel m e.1 else fput m e.1 { delta := x.delta.sub e.2, since := now, ecc := .good }

/-- One pair of a snapshot is added to its sector. -/
def giveDelta (d : Sector) (e : Nat × Pair) : Sector := putPair d (e.1 % 16) ((pairAt d (e.1 % 16)).add e.2)

theorem subSnapshot_cons (m : FMap FoldEntry) (e : Nat × Pair) (snap : FMap Pair) (now : Nat) :
    subSnapshot m (e :: snap) now = subSnapshot (takeDelta now m e) snap now := rfl

theorem addDeltas_cons (d : Sector) (e : Nat × Pair) (snap : FMap Pair) : addDeltas d (e :: snap) = addDeltas (giveDelta d e) snap := rfl

section
variable {m : FMap FoldEntry} (hw : fwf m = true) (now : Nat) (e : Nat × Pair)
include hw

theorem fwf_takeDelta : fwf (takeDelta now m e) = true := by
  unfold takeDelta
  split
  · exact hw
  · split
    · exact fwf_fdel hw
    · exact fwf_fput hw

theorem fget_takeDelta_ne {k : Nat} (hk : k ≠ e.1) : fget (takeDelta now m e) k = fget m k := by
  unfold takeDelta
  split
  · rfl
  · split
    · exact fget_fdel_ne hw hk
    · exact fget_fput_ne m _ hk

/-- What stays of a delta, whether or not its entry is freed. -/
theorem pendingOf_takeDelta (he : fhas m e.1 = true) : pendingOf (takeDelta now m e) e.1 = (pendingOf m e.1).sub e.2 := by
  obtain ⟨x, hx⟩ := Option.isSome_iff_exists.1 he
  rw [pendingOf_some hx, takeDelta, hx]
  dsimp only
  split
  case isTrue zero => rw [pendingOf_none (fget_fdel_self hw e.1), zero]
  case isFalse => exact pendingOf_some (fget_fput_self m e.1 _)

/-- A pair of the snapshot moves from the delta to the sector: the sum of a pair of that sector stays. -/
theorem moves_one (he : fhas m e.1 = true) {k : Nat} (hk : pairSector k = pairSector e.1) (d : Sector) :
    (pairAt (giveDelta d e) (k % 16)).add (pendingOf (takeDelta now m e) k) = (pairAt d (k % 16)).add (pendingOf m k) := by
  rw [giveDelta, pairAt_putPair d _ (Nat.mod_lt _ (by decide)) (Nat.mod_lt _ (by decide))]
  by_cases own : k = e.1
  · subst own
    rw [if_pos rfl, pendingOf_takeDelta hw now e he, Pair.add_add_sub]
  · unfold pairSector at hk
    rw [if_neg (by omega), pendingOf_congr (fget_takeDelta_ne hw now e own)]
end

/-- What a fold adds to a sector it takes from the deltas, whatever has been added to them since the snapshot. -/
theorem fold_moves {lsa k : Nat} (hk : pairSector k = lsa) (now : Nat) {snap : FMap Pair} (hs : fwf snap = true)
    (hl : ∀ e ∈ snap, pairSector e.1 = lsa) {m : FMap FoldEntry} (hw : fwf m = true) (hh : ∀ e ∈ snap, fhas m e.1 = true) (d : Sector) :
    (pairAt (addDeltas d snap) (k % 16)).add (pendingOf (subSnapshot m snap now) k) = (pairAt d (k % 16)).add (pendingOf m k) := by
  induction snap generalizing m d with
  | nil => rfl
  | cons e snap ih =>
    obtain ⟨first, rest⟩ := fwf_cons.1 hs
    obtain ⟨here, others⟩ := List.forall_mem_cons.1 hl
    obtain ⟨held, stay⟩ := List.forall_mem_cons.1 hh
    have later : ∀ a ∈ snap, fhas (takeDelta now m e) a.1 = true := fun a ha => by
      have beyond := fwf_above rest first a ha
      rw [fhas, fget_takeDelta_ne hw now e (by omega)]
      exact stay a ha
    rw [subSnapshot_cons, addDeltas_cons, ih rest others (fwf_takeDelta hw now e) later, moves_one hw now e held (by rw [hk, here])]

/-- Settles O44: each pair of the snapshot moves from its delta to its sector (`moves_one`). -/
theorem folds_lose_no_count : Obligations.folds_lose_no_count :=
  fun d _ _ now _ _ hw hs hl hh hk => fold_moves hk now hs hl hw hh d

end Sys2Proof.Machine
end

section
/-! Proofs of the port command family: CADD and CRD. -/

namespace Sys2Proof.Machine

/-! ### The pair of an address (R120) -/

theorem pairSector_pairOf (pa : PA) : pairSector (pairOf pa) = sectorOf pa := by
  simp only [pairSector, pairOf, sectorOf, bitsOf]
  omega

theorem caddPair_eq (deltas : Word64) : caddPair deltas = ⟨deltas >>> 48, deltas &&& 0xFFFFFFFFFFFF⟩ := by
  have bound := deltas.isLt
  have packets : BitVec.ofNat 64 (bitsOf deltas 48 16) = deltas >>> 48 := by
    refine BitVec.eq_of_toNat_eq ?_
    rw [BitVec.toNat_ofNat, BitVec.toNat_ushiftRight, Nat.shiftRight_eq_div_pow, bitsOf]
    omega
  have bytes : BitVec.ofNat 64 (bitsOf deltas 0 48) = deltas &&& 0xFFFFFFFFFFFF := by
    refine BitVec.eq_of_toNat_eq ?_
    rw [BitVec.toNat_ofNat, BitVec.toNat_and, show (0xFFFFFFFFFFFF : Word64).toNat = 2 ^ 48 - 1 from rfl, Nat.and_two_pow_sub_one_eq_mod,
      bitsOf]
    omega
  rw [caddPair, packets, bytes]

theorem Pair.zero_add (v : Pair) : Pair.zero.add v = v := by
  simp [Pair.zero, Pair.add]

theorem Pair.add_zero (v : Pair) : v.add Pair.zero = v := by
  simp [Pair.zero, Pair.add]

/-! ### The oldest delta (R282) -/

/-- Two fold caches whose oldest entries are of one time. -/
def SameOldest (now : Nat) (m n : FMap FoldEntry) : Prop :=
  ∀ a ≤ now, n.foldl (fun a e => min a e.2.since) a = m.foldl (fun a e => min a e.2.since) a

/-- A delta that grows keeps its age, and one that begins now is not the oldest. -/
theorem sameOldest_fput {now k : Nat} {v : FoldEntry} {m : FMap FoldEntry}
    (h : v.since = ((fget m k).map FoldEntry.since).getD now) : SameOldest now m (fput m k v) := by
  induction m with
  | nil =>
    intro a ha
    have fresh : v.since = now := h
    exact (congrArg (min a) fresh).trans (Nat.min_eq_left ha)
  | cons e m ih =>
    obtain ⟨j, w⟩ := e
    intro a ha
    rw [fget] at h
    rw [fput]
    split at h
    case isTrue same =>
      have kept : v.since = w.since := h
      rw [if_pos same, List.foldl_cons, List.foldl_cons]
      exact congrArg (fun b => m.foldl _ (min a b)) kept
    case isFalse other =>
      rw [if_neg other]
      split at h
      case isTrue before =>
        have fresh : v.since = now := h
        rw [if_pos before, List.foldl_cons]
        exact congrArg (fun b => List.foldl _ b _) ((congrArg (min a) fresh).trans (Nat.min_eq_left ha))
      case isFalse after =>
        rw [if_neg after, List.foldl_cons, List.foldl_cons]
        exact ih h _ ((Nat.min_le_left _ _).trans ha)

/-- A state with other pending deltas. -/
def withEntries (s : State) (m : FMap FoldEntry) : State := { s with cnt := { s.cnt with entries := m } }

theorem oldestMs_withEntries {s : State} {m : FMap FoldEntry} (h : SameOldest s.time.toNat s.cnt.entries m) :
    oldestMs (withEntries s m) = oldestMs s := by
  have waited (t : State) :
      oldestMs t = (t.time.toNat - t.cnt.entries.foldl (fun a e => min a e.2.since) t.time.toNat) / 1000000 := by
    unfold oldestMs
    split
    case h_1 empty => rw [empty]; simp
    case h_2 => rfl
  rw [waited, waited]
  exact congrArg (fun b => (s.time.toNat - b) / 1000000) (h _ (Nat.le_refl _))

theorem calm_withEntries {s : State} {m : FMap FoldEntry} (hs : calm s = true) (h : SameOldest s.time.toNat s.cnt.entries m) :
    calm (withEntries s m) = true := by
  have oldest := oldestMs_withEntries h
  unfold calm at hs ⊢
  rw [oldest]
  exact hs

/-! ### The checks that a command of a counter region passes (R50, R54, R135) -/

section
variable {s : State} {p : HPort} {pa : PA} (ho : portOpen s p = true) (c : HChan) (tag : BitVec 12) (ha : pa.toNat % 16 = 0)
include ho ha

theorem admits_cadd (deltas : Word64) (hp : permits s p pa .counter 1 = true) :
    Admits (.cadd p c tag 0 pa deltas) (slotted .cadd p c tag 0 pa deltas 0) s where
  row := rfl
  opened := ho
  formed := malformed_none (op := .cadd) rfl nofun rfl (dupTag_none ho) (fun _ => ha) nofun nofun
  passes := permits_check hp rfl rfl rfl

theorem admits_crd (hp : permits s p pa .counter 0 = true) :
    Admits (.crd p c tag 0 pa) (slotted .crd p c tag 0 pa 0 0) s where
  row := rfl
  opened := ho
  formed := malformed_none (op := .crd) rfl nofun rfl (dupTag_none ho) (fun _ => ha) nofun nofun
  passes := permits_check hp rfl rfl rfl
end

/-! ### Poison of a counter sector (R278) -/

/-- The entry of a pair reads without error. -/
def readsWell (s : State) (k : Nat) : Prop := ∀ e, fget s.cnt.entries k = some e → e.ecc = .good

theorem entryCheck_good {s : State} {k : Nat} (h : readsWell s k) : entryCheck s k = s := by
  unfold entryCheck
  split
  case h_1 => rfl
  case h_2 e found => rw [h e found]

theorem counterPoison_krf (s : State) (lsa cause : Nat) : (counterPoison s lsa cause).krf = s.krf := by
  unfold counterPoison
  dsimp only
  split
  · rfl
  · split
    · rfl
    · split
      · rfl
      · split <;> rfl

theorem poisonSlot_slot (s : State) (lsa : Nat) (x : Slot) (cause : Nat) :
    ∃ y, slotAt (poisonSlot s lsa x cause) lsa = some y ∧ y.state = .poisoned := by
  refine ⟨{ x with state := .poisoned, data := 0, ecc := .good, rewritten := false, aged := false }, ?_, rfl⟩
  have counted (t : State) (c : Prop) [Decidable c] : (if c then t else countPoison t (lsaRegion lsa) true).krf = t.krf := by
    split <;> rfl
  unfold poisonSlot
  rw [slotAt, counterPoison_krf, (cacheDrop_beside _ _).krf, counted]
  exact slotAt_putSlot s lsa _

theorem isMarked_poisoned {s : State} {lsa : Nat} {y : Slot} (h : slotAt s lsa = some y) (hy : y.state = .poisoned) :
    isMarked s lsa = true := by
  rw [isMarked, h]
  simp [hy]

/-- The order stamp and the peak of the charge move no slot. -/
theorem slotAt_stamped (s : State) (lsa : Nat) : slotAt (notePeak (takeStamp s)) lsa = slotAt s lsa := rfl

/-- An entry with a double-bit error poisons its sector when it is read. -/
theorem entryCheck_double {s : State} {k : Nat} {e : FoldEntry} (h : fget s.cnt.entries k = some e) (he : e.ecc = .double) :
    counterBad (entryCheck s k) (pairSector k) = true := by
  have poisoned : entryCheck s k = poisonEntry s (pairSector k) := by
    unfold entryCheck
    rw [h]
    dsimp only
    rw [he]
  obtain ⟨y, hy, bad⟩ := poisonSlot_slot (makeRoom s) (pairSector k)
    { (slotAt (makeRoom s) (pairSector k)).getD (Slot.blank .clean) with stamp := nextStamp (makeRoom s) } 2
  rw [poisoned, counterBad, poisonEntry, isMarked_poisoned ((slotAt_stamped _ _).trans hy) bad, Bool.or_true]

/-- A hit moves nothing that tells whether a sector is poisoned. -/
theorem Hit.counterBad {s t : State} (h : Hit s t) (lsa : Nat) : counterBad t lsa = counterBad s lsa := by
  have slots := congrArg Krf.slots h.krf
  have med := h.med
  obtain ⟨_, _, _, _, _, _, _, _, _, _, rfl⟩ := h.staged
  dsimp only at slots med
  subst slots
  rfl

/-! ### CADD (R120, R142, R274) -/

/-- The entry that a CADD leaves to its pair. -/
def caddEntry (s : State) (x : HostCmd) : FoldEntry :=
  let e := (fget s.cnt.entries (pairOf x.addr)).getD { delta := Pair.zero, since := s.time.toNat, ecc := .good }
  { e with delta := e.delta.add (caddPair x.operand) }

theorem caddEntry_none {s : State} {x : HostCmd} (h : fget s.cnt.entries (pairOf x.addr) = none) :
    caddEntry s x = ⟨⟨x.operand >>> 48, x.operand &&& 0xFFFFFFFFFFFF⟩, s.time.toNat, .good⟩ := by
  rw [caddEntry, h]
  dsimp only [Option.getD_none]
  rw [Pair.zero_add, caddPair_eq]

theorem caddEntry_some {s : State} {x : HostCmd} {e : FoldEntry} (h : fget s.cnt.entries (pairOf x.addr) = some e) :
    caddEntry s x = { e with delta := { packets := e.delta.packets + (x.operand >>> 48)
                                        bytes := e.delta.bytes + (x.operand &&& 0xFFFFFFFFFFFF) } } := by
  rw [caddEntry, h]
  dsimp only [Option.getD_some]
  rw [caddPair_eq]
  rfl

/-- A CADD at its visibility point is performed and answered. -/
theorem landCadd_alone {t : State} {y : HostCmd} (h : Alone t y) : ∃ H E P, landCadd t y =
    withEntries { t with cmds := [answeredCmd y (Resp.plain .ok 0)], hw := H, evr := E, pmc := P }
      (fput t.cnt.entries (pairOf y.addr) (caddEntry t y)) := by
  have left := modCmd_one (t := withEntries t (fput t.cnt.entries (pairOf y.addr) (caddEntry t y))) (id := y.id) h.cmds rfl fun y =>
    { y with reserved := 0 }
  have counted (t : State) : Counted t (pmcCount (hwAdd (notePeak t) Reg.CNT_CADDS 1) 0x700 none 1) :=
    ((hwSet_counted t _ _).trans (hwSet_counted _ _ _)).trans (pmcCount_counted _ _ _ _)
  unfold landCadd
  dsimp only
  obtain ⟨H, E, P, e⟩ := counted { withEntries t (fput t.cnt.entries (pairOf y.addr) (caddEntry t y)) with
    cmds := [{ y with reserved := 0 }] }
  refine ⟨H, E, P, ?_⟩
  rw [← left] at e
  refine (congrArg (complete · y.id (Resp.plain .ok 0)) e).trans ?_
  rw [left]
  have alone : Alone { withEntries t (fput t.cnt.entries (pairOf y.addr) (caddEntry t y)) with
      cmds := [{ y with reserved := 0 }], hw := H, evr := E, pmc := P } { y with reserved := 0 } := ⟨rfl, h.host, h.alive, h.pair⟩
  exact complete_alone alone _

section
variable {i : Instr} {x : Slotted} {s : State}

/-- A CADD that lands is answered, and nothing but its entry differs. -/
theorem cadd_lands (h : Admits i x s) {n : Nat} (hl : ∀ H E P, ∃ H', perform (took s x H E P) (acceptedCmd s x) =
      landCadd (tookAs s { acceptedCmd s x with reserved := n } H' E P) { acceptedCmd s x with reserved := n }) :
    ∃ t, exec i s = .next t ∧ t.cmds = answeredBy s x true (Resp.plain .ok 0) ∧
      t.cnt = { s.cnt with entries := fput s.cnt.entries (pairOf x.addr) (caddEntry s (acceptedCmd s x)) } ∧
      OnlyAnswers { s with cnt := t.cnt } t := by
  obtain ⟨H, E, P, run⟩ := h.runs
  obtain ⟨H₁, performed⟩ := hl H E P
  obtain ⟨H₂, E₂, P₂, landed⟩ := landCadd_alone (alone_took h.opened n H₁ E P)
  have since : (caddEntry s (acceptedCmd s x)).since =
      ((fget s.cnt.entries (pairOf x.addr)).map FoldEntry.since).getD s.time.toNat := by
    show ((fget s.cnt.entries (pairOf x.addr)).getD _).since = _
    cases fget s.cnt.entries (pairOf x.addr) <;> rfl
  have rests := calm_other (l := answeredBy s x true (Resp.plain .ok 0)) (n := s.nextCmd + 1) (H := H₂) (E := E₂) (P := P₂)
    (open_facts h.opened).calm (answered_rests s x true _)
  obtain ⟨t, ran, cmds, only⟩ := run _ (performed.trans landed) (calm_withEntries rests (sameOldest_fput since))
  have cnt : t.cnt = _ := congrArg State.cnt only.1
  refine ⟨t, ran, cmds, cnt, ?_⟩
  rw [cnt]
  exact OnlyAnswers.trans ⟨rfl, .of_med rfl⟩ only

/-- Charge that may be reserved before a command comes may be reserved by it. -/
theorem mayReserve_took (h : s.cmds = []) (H : FMap Word64) (E : Evr) (P : Vector Pmc 6) (n : Nat) :
    mayReserve (took s x H E P) n = mayReserve s n := by
  have reserved : reservedCharge (took s x H E P) = reservedCharge s := by
    rw [reservedCharge, reservedCharge, h]
    rfl
  unfold mayReserve totalCharge
  rw [reserved]
  rfl

theorem reserve_took (H : FMap Word64) (E : Evr) (P : Vector Pmc 6) (n : Nat) :
    ∃ H', reserve (took s x H E P) s.nextCmd n = tookAs s { acceptedCmd s x with reserved := 0 + n } H' E P := by
  refine ⟨(reserve (took s x H E P) s.nextCmd n).hw, ?_⟩
  rw [reserve, modCmd_one (t := took s x H E P) (y := acceptedCmd s x) (id := s.nextCmd) rfl rfl]
  rfl

/-- What becomes of a CADD whose entry reads without error (R142, R274, R278). -/
theorem startCadd_took (hw : readsWell s (pairOf x.addr)) (H : FMap Word64) (E : Evr) (P : Vector Pmc 6) :
    (counterBad s (sectorOf x.addr) = true →
      startCadd (took s x H E P) s.nextCmd = refuse (took s x H E P) s.nextCmd (Resp.bad .poison 1 0)) ∧
    (counterBad s (sectorOf x.addr) = false → fhas s.cnt.entries (pairOf x.addr) = true →
      startCadd (took s x H E P) s.nextCmd = landCadd (took s x H E P) (acceptedCmd s x)) ∧
    (counterBad s (sectorOf x.addr) = false → fhas s.cnt.entries (pairOf x.addr) = false →
      mayReserve (took s x H E P) 16 = true → wayFree s (pairOf x.addr) = true → s.krf.bitmap.contains (regionOf x.addr) = true →
      startCadd (took s x H E P) s.nextCmd = landCadd (reserve (took s x H E P) s.nextCmd 16) (acceptedCmd s x)) := by
  unfold startCadd
  rw [cmdAt_took]
  dsimp only
  rw [entryCheck_good (s := took s x H E P) (k := pairOf (acceptedCmd s x).addr) hw, pairSector_pairOf]
  refine ⟨fun bad => if_pos bad, fun good held => (if_neg (ne_true_of_eq_false good)).trans (if_pos held),
    fun good free may way bit => (if_neg (ne_true_of_eq_false good)).trans ((if_neg (ne_true_of_eq_false free)).trans ?_)⟩
  rw [if_neg (by simp [may]), if_pos (show (acceptedCmd s x).reserved < 16 from Nat.zero_lt_succ 15)]
  exact (if_neg (show ¬ (!wayFree s (pairOf x.addr)) = true by simp [way])).trans (if_pos bit)

theorem perform_cadd (hop : (acceptedCmd s x).op = .cadd) (H : FMap Word64) (E : Evr) (P : Vector Pmc 6) :
    perform (took s x H E P) (acceptedCmd s x) = startCadd (took s x H E P) s.nextCmd := by
  unfold perform
  rw [hop]
  rfl

section
variable (h : Admits i x s) (hop : (acceptedCmd s x).op = .cadd) (hw : readsWell s (pairOf x.addr))
include h hop hw

/-- A CADD of a poisoned sector is refused. -/
theorem cadd_poisoned (hb : counterBad s (sectorOf x.addr) = true) : AnswersOnly i x s false (Resp.bad .poison 1 0) := by
  refine answers_performed h.row h.opened h.formed (.inr h.passes) fun H E P => ⟨H, E, P, ?_⟩
  obtain ⟨poisoned, -, -⟩ := startCadd_took hw H E P
  exact ((perform_cadd hop H E P).trans (poisoned hb)).trans (answer_took h.opened rfl rfl)

/-- A CADD of a pair that the fold cache holds. -/
theorem cadd_held (hb : counterBad s (sectorOf x.addr) = false) (he : fhas s.cnt.entries (pairOf x.addr) = true) :
    ∃ t, exec i s = .next t ∧ t.cmds = answeredBy s x true (Resp.plain .ok 0) ∧
      t.cnt = { s.cnt with entries := fput s.cnt.entries (pairOf x.addr) (caddEntry s (acceptedCmd s x)) } ∧
      OnlyAnswers { s with cnt := t.cnt } t := by
  refine cadd_lands h (n := 0) fun H E P => ⟨H, ?_⟩
  obtain ⟨-, lands, -⟩ := startCadd_took hw H E P
  exact (perform_cadd hop H E P).trans (lands hb he)

/-- A CADD of another pair takes a free way of its set. -/
theorem cadd_free (hb : counterBad s (sectorOf x.addr) = false) (he : fhas s.cnt.entries (pairOf x.addr) = false)
    (may : mayReserve s 16 = true) (way : wayFree s (pairOf x.addr) = true) (bit : s.krf.bitmap.contains (regionOf x.addr) = true) :
    ∃ t, exec i s = .next t ∧ t.cmds = answeredBy s x true (Resp.plain .ok 0) ∧
      t.cnt = { s.cnt with entries := fput s.cnt.entries (pairOf x.addr) (caddEntry s (acceptedCmd s x)) } ∧
      OnlyAnswers { s with cnt := t.cnt } t := by
  refine cadd_lands h (n := 0 + 16) fun H E P => ?_
  obtain ⟨-, -, lands⟩ := startCadd_took hw H E P
  obtain ⟨H₁, reserved⟩ := reserve_took (s := s) (x := x) H E P 16
  refine ⟨H₁, ((perform_cadd hop H E P).trans
    (lands hb he ((mayReserve_took (open_facts h.opened).cmds H E P 16).trans may) way bit)).trans ?_⟩
  rw [reserved]
  rfl
end

/-! ### CRD (R121, R168, R277) -/

/-- A command that asks the medium for its sector, and waits for it. -/
theorem misses_of (h : Admits i x s) {c : Class} (hu : uncached s (sectorOf x.addr) = true)
    (hp : ∀ H E P, perform (took s x H E P) (acceptedCmd s x) =
      askMedium (tookAs s (waitingRead s x) H E P) c (sectorOf x.addr) (.cmd s.nextCmd)) : Misses i x s c (sectorOf x.addr) := by
  obtain ⟨-, -, prefetch⟩ := uncached_iff.1 hu
  obtain ⟨H, E, P, run⟩ := h.runs_staged
  have asked := requestRead_asked (tookAs s (waitingRead s x) H E P) c (sectorOf x.addr) (.cmd s.nextCmd)
  have asks := requestRead_asks (tookAs s (waitingRead s x) H E P) c (sectorOf x.addr) (.cmd s.nextCmd)
  have waiting : Staged s (tookAs s (waitingRead s x) H E P) := ⟨_, _, _, _, _, _, _, _, _, _, rfl⟩
  obtain ⟨t, ran, same, only⟩ := run _ ((hp H E P).trans (askMedium_none (s := tookAs s (waitingRead s x) H E P) prefetch _ _))
    (waiting.trans asked.staged) (by rw [asked.cmds]; exact rests_one rfl nofun)
  refine ⟨t, ran, same.cmds.trans asked.cmds, asks.congr rfl same.reqs, ?_⟩
  rwa [withStaged_asked (s := s) (same.krf.trans asked.krf)] at only

/-- The answer of a CRD whose sector holds d: the pair, and what is pending of it. -/
def crdResp (m : FMap FoldEntry) (k : Nat) (d : Sector) : Resp :=
  Resp.okData 1 0 (putPair 0 0 ((pairAt d (k % 16)).add (pendingOf m k)))

theorem crdResp_none {m : FMap FoldEntry} {k : Nat} (h : fget m k = none) (d : Sector) :
    crdResp m k d = Resp.okData 1 0 (putPair 0 0 (pairAt d (k % 16))) := by
  rw [crdResp, pendingOf_none h, Pair.add_zero]

/-- A CRD that has its sector's bytes is answered, and nothing more happens. -/
theorem finishCrd_alone {t : State} {y : HostCmd} (h : Alone t y) (hw : readsWell t (pairOf y.addr))
    (hb : counterBad t (sectorOf y.addr) = false) (d : Sector) : ∃ H E P, finishCrd t y d =
      { t with cmds := [answeredCmd y (crdResp t.cnt.entries (pairOf y.addr) d)], hw := H, evr := E, pmc := P } := by
  obtain ⟨H, E, P, counted⟩ : Counted t (pmcCount (hwAdd t Reg.CNT_CRDS 1) 0x701 none 1) :=
    (hwSet_counted t _ _).trans (pmcCount_counted _ _ _ _)
  have alone : Alone { t with hw := H, evr := E, pmc := P } y := ⟨h.cmds, h.host, h.alive, h.pair⟩
  refine ⟨H, E, P, ?_⟩
  unfold finishCrd
  dsimp only
  rw [entryCheck_good hw, pairSector_pairOf, if_neg (ne_true_of_eq_false hb), counted]
  exact complete_alone alone _

theorem perform_crd (hop : (acceptedCmd s x).op = .crd) (H : FMap Word64) (E : Evr) (P : Vector Pmc 6) :
    perform (took s x H E P) (acceptedCmd s x) = startCrd (took s x H E P) s.nextCmd := by
  unfold perform
  rw [hop]
  rfl

/-- What becomes of a CRD, by what the probe of its sector finds (R168, R278). -/
theorem startCrd_took (H : FMap Word64) (E : Evr) (P : Vector Pmc 6) :
    (counterBad s (sectorOf x.addr) = true →
      startCrd (took s x H E P) s.nextCmd = complete (took s x H E P) s.nextCmd (Resp.bad .poison 1 1)) ∧
    (counterBad s (sectorOf x.addr) = false → ∀ f a, probe (took s x H E P) .ctr (sectorOf x.addr) = (f, a) →
      (∀ d, f = .kerf d ∨ f = .cache d → startCrd (took s x H E P) s.nextCmd = finishCrd a (acceptedCmd s x) d) ∧
      (f = .miss → startCrd (took s x H E P) s.nextCmd = missRead a .ctr (sectorOf x.addr) s.nextCmd)) := by
  unfold startCrd
  rw [cmdAt_took]
  refine ⟨fun bad => if_pos bad, fun good f a found => ?_⟩
  dsimp only
  rw [show probe (took s x H E P) .ctr (sectorOf (acceptedCmd s x).addr) = (f, a) from found]
  refine ⟨fun d data => (if_neg (ne_true_of_eq_false good)).trans ?_, fun missed => (if_neg (ne_true_of_eq_false good)).trans ?_⟩
  · rcases data with rfl | rfl <;> rfl
  · rw [missed]
    rfl

theorem Hit.cnt {s t : State} (h : Hit s t) : t.cnt = s.cnt := by
  obtain ⟨_, _, _, _, _, _, _, _, _, _, rfl⟩ := h.staged
  rfl

section
variable (h : Admits i x s) (hop : (acceptedCmd s x).op = .crd)
include h hop

/-- A CRD of a poisoned sector. -/
theorem crd_poisoned (hb : counterBad s (sectorOf x.addr) = true) : AnswersOnly i x s true (Resp.bad .poison 1 1) := by
  refine answers_performed h.row h.opened h.formed (.inr h.passes) fun H E P => ⟨H, E, P, ?_⟩
  obtain ⟨poisoned, -⟩ := startCrd_took (s := s) (x := x) H E P
  exact ((perform_crd hop H E P).trans (poisoned hb)).trans (answer_took h.opened rfl rfl)

variable (hb : counterBad s (sectorOf x.addr) = false)
include hb

/-- A CRD that finds its sector is answered in the state that its probe leaves. -/
theorem crd_found (hw : readsWell s (pairOf x.addr)) {H : FMap Word64} {E : Evr} {P : Vector Pmc 6} {f : Found} {d : Sector} {a : State}
    (hp : probe (took s x H E P) .ctr (sectorOf x.addr) = (f, a)) (hf : f = .kerf d ∨ f = .cache d) (hit : Hit (took s x H E P) a) :
    ∃ H' E' P', perform (took s x H E P) (acceptedCmd s x) = { a with
      cmds := answeredBy s x true (crdResp s.cnt.entries (pairOf x.addr) d), hw := H', evr := E', pmc := P' } := by
  obtain ⟨-, finds⟩ := startCrd_took (s := s) (x := x) H E P
  obtain ⟨finishes, -⟩ := finds hb f a hp
  have cnt : a.cnt = s.cnt := hit.cnt
  have reads : readsWell a (pairOf x.addr) := by
    rw [readsWell, cnt]
    exact hw
  obtain ⟨H₁, E₁, P₁, done⟩ := finishCrd_alone (hit.alone (alone_took h.opened 0 H E P)) reads ((hit.counterBad _).trans hb) d
  refine ⟨H₁, E₁, P₁, (perform_crd hop H E P).trans ((finishes d hf).trans (done.trans ?_))⟩
  rw [cnt]
  rfl

/-- A CRD of a slot that carries charge touches nothing. -/
theorem crd_held (hw : readsWell s (pairOf x.addr)) {y : Slot} (hy : slotAt s (sectorOf x.addr) = some y) (hh : y.holds = true) :
    AnswersOnly i x s true (crdResp s.cnt.entries (pairOf x.addr) y.data) :=
  answers_performed h.row h.opened h.formed (.inr h.passes) fun H E P =>
    crd_found h hop hb hw (probe_held (s := took s x H E P) hy hh) (.inl rfl) (.refl _)

/-- A CRD that hits a cache. -/
theorem crd_cached (hw : readsWell s (pairOf x.addr)) {d : Sector} {u : State} (hn : slotAt s (sectorOf x.addr) = none)
    (hc : cacheProbe s .ctr (sectorOf x.addr) = some (d, u)) :
    ∃ t, exec i s = .next t ∧ t.cmds = answeredBy s x true (crdResp s.cnt.entries (pairOf x.addr) d) ∧
      OnlyAnswers { s with rdp := t.rdp } t := by
  obtain ⟨H, E, P, run⟩ := h.runs_staged
  have data := cacheProbe_data (s := s) (t := took s x H E P) rfl .ctr (sectorOf x.addr)
  rw [hc] at data
  obtain ⟨⟨d', a⟩, probed, rfl⟩ := Option.map_eq_some_iff.1 data
  have hit := cacheProbe_hit probed
  obtain ⟨H₁, E₁, P₁, found⟩ := crd_found h hop hb hw (probe_cached (s := took s x H E P) hn probed) (.inr rfl) hit
  have answered : Staged a { a with
      cmds := answeredBy s x true (crdResp s.cnt.entries (pairOf x.addr) d'), hw := H₁, evr := E₁, pmc := P₁ } :=
    ⟨_, _, _, _, _, _, _, _, _, _, rfl⟩
  obtain ⟨t, ran, same, only⟩ := run _ found (((took_staged H E P).trans hit.staged).trans answered) (answered_rests s x true _)
  refine ⟨t, ran, same.cmds, ?_⟩
  rwa [withStaged_rdp (s := s) (same.krf.trans hit.krf) (same.reqs.trans (congrArg Medium.reqs hit.med))
    (same.nextReq.trans (congrArg Medium.nextReq hit.med))] at only

/-- A CRD whose sector is nowhere asks the medium for it. -/
theorem crd_misses (hn : slotAt s (sectorOf x.addr) = none) (hu : uncached s (sectorOf x.addr) = true) :
    Misses i x s .ctr (sectorOf x.addr) := by
  obtain ⟨cache, side, -⟩ := uncached_iff.1 hu
  refine misses_of h hu fun H E P => ?_
  obtain ⟨-, finds⟩ := startCrd_took (s := s) (x := x) H E P
  obtain ⟨-, missed⟩ := finds hb _ _ (probe_missed (s := took s x H E P) hn (cacheProbe_none .ctr cache side))
  rw [perform_crd hop, missed rfl, missRead, modCmd_one (y := acceptedCmd s x) (id := s.nextCmd) rfl rfl]
  rfl
end
end

theorem readsWell_none {s : State} {k : Nat} (h : fget s.cnt.entries k = none) : readsWell s k := fun e he => by
  rw [h] at he
  cases he

theorem fhas_some {α : Type} {m : FMap α} {k : Nat} {v : α} (h : fget m k = some v) : fhas m k = true := by
  rw [fhas, h]
  rfl

theorem fhas_none {α : Type} {m : FMap α} {k : Nat} (h : fget m k = none) : fhas m k = false := by
  rw [fhas, h]
  rfl

/-- Settles O28: a CADD lands in its entry (`cadd_held`, `cadd_free`), and a CRD adds what is pending to the pair that it finds
(`crd_held`, `crd_cached`) or waits for the medium (`crd_misses`). -/
theorem counter_commands : Obligations.counter_commands := by
  refine ⟨fun p c tag pa s ho ha hb he => ⟨fun deltas hp may way bit => ?free, fun hp hn => ⟨fun hu => ?missed, fun d u hd => ?cached⟩⟩,
    fun p c tag pa s ho ha => ⟨fun ⟨e, he, double⟩ => ?double,
      fun hw => ⟨fun deltas hp => ⟨fun hb => ?refused, fun e hb he => ?held⟩, fun hp => ⟨fun hb => ?poisoned, fun y hb hy hh => ?staged⟩⟩⟩⟩
  case free =>
    obtain ⟨t, ran, cmds, cnt, only⟩ := cadd_free (admits_cadd ho c tag ha deltas hp) rfl (readsWell_none he) hb (fhas_none he) may way bit
    rw [caddEntry_none (x := acceptedCmd s (slotted .cadd p c tag 0 pa deltas 0)) he] at cnt
    exact ⟨t, ran, cmds, cnt, only⟩
  case missed => exact crd_misses (admits_crd ho c tag ha hp) rfl hb hn hu
  case cached =>
    obtain ⟨t, ran, cmds, only⟩ := crd_cached (admits_crd ho c tag ha hp) rfl hb (readsWell_none he) hn hd
    exact ⟨t, ran, cmds.trans (congrArg _ (crdResp_none he d)), only⟩
  case double =>
    rw [← pairSector_pairOf]
    exact entryCheck_double he double
  case refused => exact cadd_poisoned (admits_cadd ho c tag ha deltas hp) rfl hw hb
  case held =>
    obtain ⟨t, ran, cmds, cnt, only⟩ := cadd_held (admits_cadd ho c tag ha deltas hp) rfl hw hb (fhas_some he)
    rw [caddEntry_some (x := acceptedCmd s (slotted .cadd p c tag 0 pa deltas 0)) he] at cnt
    have entry := (congrArg (fun v : Cnt => fget v.entries (pairOf pa)) cnt).trans (fget_fput_self _ _ _)
    refine ⟨t, ran, cmds, entry, ?_, only⟩
    rw [show fget t.cnt.entries (pairOf pa) = _ from entry]
    exact cnt
  case poisoned => exact crd_poisoned (admits_crd ho c tag ha hp) rfl hb
  case staged => exact crd_held (admits_crd ho c tag ha hp) rfl hb hw hy hh

end Sys2Proof.Machine
end

section
/-! Proofs of the port command family: LKUP. -/

namespace Sys2Proof.Machine

/-! ### How a LKUP is judged (R122, R123, R240, R256) -/

theorem profBit_iff (f : BitVec 512) (k : Nat) : profByte f 2 / 2 ^ k % 2 = 1 ↔ bitOf (byteOf f 2) k = true := by
  rw [profByte, bitOf, BitVec.getLsbD, Nat.testBit_eq_decide_div_mod_eq, decide_eq_true_iff]

/-- A LKUP that its profile admits goes to an engine, where one serves (R241). -/
def dispatchLkup (s : State) (id : Nat) : State :=
  match pickEngine s with
  | none => complete s id (lkupResp [] 0 s.lke.cur.version)
  | some e =>
    runStages 5 (modCmd (modLke s fun l =>
      { l with jobs := l.jobs ++ [{ cmd := id, engine := e, version := s.lke.cur.version, stage := 1, met := [] }] }) id
      fun y => { y with stage := .medium, reads := [] }) id

section
variable {t : State} {id : Nat} {y : HostCmd} (hy : cmdAt t id = some y)
include hy

theorem startLkup_unknown (hf : fget t.lke.cur.profiles (lkupProfile y) = none) :
    startLkup t id = refuse t id (Resp.plain .malformed 6) := by
  unfold startLkup
  rw [hy]
  dsimp only
  rw [hf]

variable {f : BitVec 512} (hf : fget t.lke.cur.profiles (lkupProfile y) = some f)
include hf

theorem startLkup_barred (hb : bitOf (byteOf f 2) y.port.val = false) : startLkup t id = refuse t id (Resp.plain .malformed 6) := by
  unfold startLkup
  rw [hy]
  dsimp only
  rw [hf]
  dsimp only
  rw [if_neg (fun one => ne_true_of_eq_false hb ((profBit_iff f _).1 one))]

theorem startLkup_admitted (hb : bitOf (byteOf f 2) y.port.val = true) : startLkup t id =
    if y.du ≠ duOfKey (profKeyLen f) then refuse t id (Resp.plain .malformed 2)
    else if enginesFull t then stageCmd t id .waiting else dispatchLkup t id := by
  unfold startLkup
  rw [hy]
  dsimp only
  rw [hf]
  dsimp only
  rw [if_pos ((profBit_iff f _).2 hb)]
  rfl
end

/-! ### The engine (R241) -/

/-- No engine is picked where none serves. -/
theorem pickEngine_none {s : State} (h : ∀ e : Engine, engineServes s e.val = false) : pickEngine s = none := by
  rw [pickEngine, Option.map_eq_none_iff]
  refine List.foldlRecOn (motive := fun best => best = none) (List.finRange 16) _ rfl fun best none e _ => ?_
  rw [h e, none]
  rfl

theorem enginesFull_none {s : State} (h : pickEngine s = none) : enginesFull s = false := by
  rw [enginesFull, h]
  rfl

theorem dispatchLkup_none {s : State} {id : Nat} (h : pickEngine s = none) :
    dispatchLkup s id = complete s id (lkupResp [] 0 s.lke.cur.version) := by
  rw [dispatchLkup, h]

theorem dispatchLkup_some {s : State} {id : Nat} {e : Engine} (h : pickEngine s = some e) :
    dispatchLkup s id = runStages 5 (modCmd (modLke s fun l =>
      { l with jobs := l.jobs ++ [{ cmd := id, engine := e, version := s.lke.cur.version, stage := 1, met := [] }] }) id
      fun y => { y with stage := .medium, reads := [] }) id := by
  rw [dispatchLkup, h]

/-- A command that no engine holds a LKUP of is no matter to the choice of an engine. -/
theorem pickEngine_congr {s t : State} (hr : t.regs = s.regs) (hl : t.lke = s.lke) (hc : ∀ j ∈ s.lke.jobs, cmdAt t j.cmd = cmdAt s j.cmd) :
    pickEngine t = pickEngine s := by
  have serves (e : Nat) : engineServes t e = engineServes s e := by
    rw [engineServes, engineServes, cfgBit_congr hr, hl]
  have searches (e : Nat) : searchesAt t e = searchesAt s e := by
    rw [searchesAt, searchesAt, hl]
    refine congrArg List.sum (List.map_congr_left fun j hj => ?_)
    rw [hc j (List.mem_of_mem_filter hj), setOf, setOf, hl]
  simp only [pickEngine, serves, searches]

/-! ### The stages of a LKUP (R239, R243, R244) -/

/-- The last stage of a profile. -/
def lastStage (f : BitVec 512) : Nat := (List.range (profSteps f)).foldl (fun m k => max m (stageOf f 4 k)) 0

theorem lastStage_le {f : BitVec 512} {n : Nat} (h : ∀ k, k < profSteps f → stageOf f 4 k ≤ n) : lastStage f ≤ n :=
  List.foldlRecOn (motive := fun m => m ≤ n) _ _ (Nat.zero_le n) fun _ low k hk => Nat.max_le.2 ⟨low, h k (List.mem_range.1 hk)⟩

/-- The steps of a stage are among the steps of their LKUP. -/
theorem mem_of_stageSteps {f : BitVec 512} {steps : List StepDone} {stage : Nat} {d : Nat × StepDone}
    (h : d ∈ stageSteps f steps stage) : d.2 ∈ steps := by
  obtain ⟨k, -, found⟩ := List.mem_filterMap.1 h
  split at found
  case h_1 step at_k =>
    split at found
    · cases found
      exact List.mem_of_getElem? at_k
    · cases found
  case h_2 => cases found

/-- A LKUP alone at an engine: nothing differs but its record, the jobs, and what counts and records. -/
structure Searching (t u : State) (y : HostCmd) (j : LkupJob) : Prop where
  frame : ∃ J H E P, u = { t with cmds := [y], hw := H, evr := E, pmc := P, lke := { t.lke with jobs := J } }
  job   : jobOf u y.id = some j

/-- Another stage of the job of a LKUP. -/
def LkupJob.next (j : LkupJob) : LkupJob := { j with stage := j.stage + 1 }

/-- The jobs, with that of a LKUP at its next stage. -/
def nextStage (l : Lke) (id : Nat) : Lke := { l with jobs := l.jobs.map fun k => if k.cmd = id then { k with stage := k.stage + 1 } else k }

theorem jobOf_nextStage {s : State} {id : Nat} {j : LkupJob} (h : jobOf s id = some j) :
    jobOf (modLke s fun l => nextStage l id) id = some j.next := by
  have same : (fun k : LkupJob => k.cmd == id) ∘ (fun k => if k.cmd = id then { k with stage := k.stage + 1 } else k) =
      fun k => k.cmd == id := by
    funext k
    simp only [Function.comp]
    split <;> rfl
  have found : s.lke.jobs.find? (fun k => k.cmd == id) = some j := h
  have mine : j.cmd = id := beq_iff_eq.1 (List.find?_some (p := fun k : LkupJob => k.cmd == id) found)
  show ((s.lke.jobs.map _).find? _) = _
  rw [List.find?_map, same, found, Option.map_some, if_pos mine]
  rfl

section
variable {t u w : State} {y : HostCmd} {j : LkupJob}

theorem Searching.cmds (h : Searching t u y j) : u.cmds = [y] := by
  obtain ⟨_, _, _, _, rfl⟩ := h.frame
  rfl

theorem Searching.setOf (h : Searching t u y j) (hv : j.version = t.lke.cur.version) : setOf u j.version = t.lke.cur := by
  obtain ⟨_, _, _, _, rfl⟩ := h.frame
  exact if_pos hv.symm

theorem Searching.tierHit (h : Searching t u y j) (n : Nat) (d : StepDone) : tierHit u n d = tierHit t n d := by
  obtain ⟨_, _, _, _, rfl⟩ := h.frame
  rfl

theorem Searching.counted (h : Searching t u y j) (k : Counted u w) : Searching t w y j := by
  obtain ⟨_, _, _, _, rfl⟩ := h.frame
  obtain ⟨_, _, _, rfl⟩ := k
  exact ⟨⟨_, _, _, _, rfl⟩, h.job⟩

theorem Searching.goes_on (h : Searching t u y j) : Searching t (modLke u fun l => nextStage l y.id) y j.next := by
  refine ⟨?_, jobOf_nextStage h.job⟩
  obtain ⟨_, _, _, _, rfl⟩ := h.frame
  exact ⟨_, _, _, _, rfl⟩
end

/-- The searches of a stage are counted (R246). -/
def searched (s : State) (e : Engine) (now : List (Nat × StepDone)) : State :=
  pmcCount (hwAdd (pmcCount (hwAdd (hwAdd s Reg.LKE_SEARCHES now.length) (Reg.LKEE_SEARCHES e.val) now.length) 0x500 (some e.val)
    now.length) Reg.LKE_HITS (now.filter (·.2.hit)).length) 0x501 (some e.val) (now.filter (·.2.hit)).length

theorem searched_counted (s : State) (e : Engine) (now : List (Nat × StepDone)) : Counted s (searched s e now) :=
  ((((hwSet_counted s _ _).trans (hwSet_counted _ _ _)).trans (pmcCount_counted _ _ _ _)).trans (hwSet_counted _ _ _)).trans
    (pmcCount_counted _ _ _ _)

/-- A fold whose every step leaves its start leaves it. -/
theorem foldl_stays {α β : Type} {g : β → α → β} {b : β} {l : List α} (h : ∀ a ∈ l, g b a = b) : l.foldl g b = b :=
  List.foldlRecOn (motive := fun c => c = b) l g rfl fun c same a ha => by rw [same, h a ha]

section
variable {t u : State} {y : HostCmd} {j : LkupJob} {f : BitVec 512} (h : Searching t u y j)
  (hf : fget t.lke.cur.profiles (lkupProfile y) = some f) (hv : j.version = t.lke.cur.version)
include h hf hv

theorem runStages_finished (fuel : Nat) (hs : lastStage f < j.stage) : runStages (fuel + 1) u y.id =
    endJob (complete u y.id (lkupResp (evalLkup t.lke.cur f y) j.engine.val j.version)) y.id := by
  rw [runStages, cmdAt_one h.cmds rfl, h.job]
  dsimp only
  rw [h.setOf hv, hf]
  exact if_pos hs

variable (hq : ∀ d ∈ evalLkup t.lke.cur f y, d.leaves = [] ∧ tierHit t t.lke.cur.version.toNat d = false) (hr : y.reads = [])
include hq hr

/-- A stage whose steps need nothing of the medium and meet no bad word goes on to the next. -/
theorem runStages_goes_on (fuel : Nat) (hs : ¬ lastStage f < j.stage) :
    ∃ v, runStages (fuel + 1) u y.id = runStages fuel v y.id ∧ Searching t v y j.next := by
  have searching := h.counted (searched_counted u j.engine (stageSteps f (evalLkup t.lke.cur f y) j.stage))
  have step {d : Nat × StepDone} (hd : d ∈ stageSteps f (evalLkup t.lke.cur f y) j.stage) := hq d.2 (mem_of_stageSteps hd)
  have more : ¬ (List.range (profSteps f)).foldl (fun m k => max m (stageOf f 4 k)) 0 < j.stage := hs
  refine ⟨_, ?_, searching.goes_on⟩
  rw [runStages, cmdAt_one h.cmds rfl, h.job]
  dsimp only
  rw [h.setOf hv, hf]
  dsimp only
  rw [if_neg more, if_neg, foldl_stays]
  · refine (if_neg Bool.false_ne_true).trans ?_
    rw [cmdAt_one (y := y) (id := y.id) ?_ rfl]
    · dsimp only
      rw [hr]
      rfl
    · exact searching.cmds
  · intro d hd
    obtain ⟨noLeaf, -⟩ := step hd
    rw [noLeaf]
    split <;> rfl
  · have none : ∀ d ∈ stageSteps f (evalLkup t.lke.cur f y) j.stage, ¬ tierHit (searched u j.engine
        (stageSteps f (evalLkup t.lke.cur f y) j.stage)) t.lke.cur.version.toNat d.2 = true := fun d hd => by
      obtain ⟨-, noHit⟩ := step hd
      rw [searching.tierHit, noHit]
      exact Bool.false_ne_true
    exact ne_true_of_eq_false (congrArg not (List.isEmpty_iff.2 (List.filter_eq_nil_iff.2 none)))

/-- Stages that need nothing of the medium and meet no bad word run to the last. -/
theorem runStages_finishes (fuel : Nat) (hs : lastStage f < j.stage + fuel) :
    ∃ v i, runStages (fuel + 1) u y.id = endJob (complete v y.id (lkupResp (evalLkup t.lke.cur f y) j.engine.val t.lke.cur.version)) y.id ∧
      Searching t v y i := by
  induction fuel generalizing u j with
  | zero => exact ⟨u, j, by rw [runStages_finished h hf hv 0 hs, hv], h⟩
  | succ fuel ih =>
    by_cases last : lastStage f < j.stage
    · exact ⟨u, j, by rw [runStages_finished h hf hv _ last, hv], h⟩
    · obtain ⟨v, goes, next⟩ := runStages_goes_on h hf hv hq hr (fuel + 1) last
      rw [goes]
      have nextOne : j.next.stage = j.stage + 1 := rfl
      exact ih (j := j.next) next hv (by omega)
end

/-! ### The end of a LKUP (R124, R250) -/

/-- Nothing differs but commands, what counts and records, and the jobs and the version before the current one. -/
def Looked (s t : State) : Prop :=
  ∃ l n H E P J v, t = { s with cmds := l, nextCmd := n, hw := H, evr := E, pmc := P, lke := { s.lke with jobs := J, prev := v } }

theorem endJob_looked (s : State) (id : Nat) : Looked s (endJob s id) := by
  unfold endJob dropPrev
  split
  · exact ⟨_, _, _, _, _, _, _, rfl⟩
  · split <;> exact ⟨_, _, _, _, _, _, _, rfl⟩

theorem endJob_cmds (s : State) (id : Nat) : (endJob s id).cmds = s.cmds := by
  unfold endJob dropPrev
  split
  · rfl
  · split <;> rfl

theorem Looked.trans {s t u : State} (h : Looked s t) (k : Looked t u) : Looked s u := by
  obtain ⟨_, _, _, _, _, _, _, rfl⟩ := h
  obtain ⟨_, _, _, _, _, _, _, rfl⟩ := k
  exact ⟨_, _, _, _, _, _, _, rfl⟩

theorem Looked.calm {s t : State} (h : Looked s t) (hs : calm s = true)
    (hl : t.cmds.all (fun x => stageRests x.stage && !persistWaits x && !lkupWaits x) = true) : calm t = true := by
  obtain ⟨l, n, H, E, P, J, v, rfl⟩ := h
  exact calm_other (n := n) (H := H) (E := E) (P := P) hs hl

theorem Looked.only {s t : State} (h : Looked s t) : OnlyAnswers { s with lke := t.lke } t := by
  obtain ⟨l, n, H, E, P, J, v, rfl⟩ := h
  exact ⟨rfl, .of_med rfl⟩

theorem Looked.cur {s t : State} (h : Looked s t) : t.lke.cur = s.lke.cur := by
  obtain ⟨l, n, H, E, P, J, v, rfl⟩ := h
  rfl

/-- A LKUP that ends is answered, and leaves its engine. -/
theorem Searching.ends {t u : State} {y : HostCmd} {j : LkupJob} (h : Searching t u y j) (k : Alone { t with cmds := [y] } y) (r : Resp) :
    Looked t (endJob (complete u y.id r) y.id) ∧ (endJob (complete u y.id r) y.id).cmds = [answeredCmd y r] := by
  obtain ⟨J, H, E, P, rfl⟩ := h.frame
  have alone : Alone { t with cmds := [y], hw := H, evr := E, pmc := P, lke := { t.lke with jobs := J } } y :=
    ⟨rfl, k.host, k.alive, k.pair⟩
  rw [endJob_cmds, complete_alone alone r]
  exact ⟨.trans ⟨_, _, _, _, _, _, _, rfl⟩ (endJob_looked _ _), rfl⟩

/-! ### The answers of a LKUP -/

theorem takes_lkup {s : State} {p : HPort} (ho : portOpen s p = true) (c : HChan) (tag : BitVec 12) {du : BitVec 3} (hd : du.toNat ≤ 4)
    (addr : BitVec 40) (operand : Word64) (data : BitVec 2048) :
    Takes (.lkup p c tag du addr operand data) (slotted .lkup p c tag du addr operand data) s :=
  takes_of (op := .lkup) rfl ho rfl nofun rfl nofun (decide_eq_true hd)

section
variable {i : Instr} {x : Slotted} {s : State}

theorem perform_lkup (hop : (acceptedCmd s x).op = .lkup) (H : FMap Word64) (E : Evr) (P : Vector Pmc 6) :
    perform (took s x H E P) (acceptedCmd s x) = startLkup (took s x H E P) s.nextCmd := by
  unfold perform
  rw [hop]
  rfl

/-- The choice of an engine does not hang on the command that has just come. -/
theorem pickEngine_took (hc : s.cmds = []) (hj : ∀ j ∈ s.lke.jobs, j.cmd ≠ s.nextCmd) (H : FMap Word64) (E : Evr) (P : Vector Pmc 6) :
    pickEngine (took s x H E P) = pickEngine s := by
  refine pickEngine_congr rfl rfl fun j own => ?_
  have other : (s.nextCmd == j.cmd) = false := beq_eq_false_iff_ne.2 (hj j own).symm
  rw [cmdAt, cmdAt, hc]
  simp [acceptedCmd, other]

/-- A LKUP that an engine takes, and that needs no leaf of the medium. -/
theorem lkup_searches (h : Takes i x s) (hop : (acceptedCmd s x).op = .lkup) {f : BitVec 512} {e : Engine}
    (hf : fget s.lke.cur.profiles (lkupProfile (acceptedCmd s x)) = some f) (hb : bitOf (byteOf f 2) x.port.val = true)
    (hd : x.du = duOfKey (profKeyLen f)) (he : pickEngine s = some e) (hs : lastStage f ≤ 4)
    (hq : ∀ d ∈ evalLkup s.lke.cur f (acceptedCmd s x), d.leaves = [] ∧ tierHit s s.lke.cur.version.toNat d = false)
    (hj : ∀ j ∈ s.lke.jobs, j.cmd ≠ s.nextCmd) (room : enginesFull s = false) :
    ∃ t, exec i s = .next t ∧ t.cmds = answeredBy s x true (lkupResp (evalLkup s.lke.cur f (acceptedCmd s x)) e.val s.lke.cur.version) ∧
      t.lke.cur = s.lke.cur ∧ OnlyAnswers { s with lke := t.lke } t := by
  obtain ⟨H, E, P, run⟩ := h.runs
  have pick : pickEngine (took s x H E P) = some e := (pickEngine_took (open_facts h.opened).cmds hj H E P).trans he
  have free : ¬ enginesFull (took s x H E P) = true := by
    rw [enginesFull, pick, ← he]
    exact ne_true_of_eq_false room
  have start : Searching (took s x H E P) (modCmd (modLke (took s x H E P) fun l =>
      { l with jobs := l.jobs ++ [{ cmd := s.nextCmd, engine := e, version := s.lke.cur.version, stage := 1, met := [] }] }) s.nextCmd
      fun y => { y with stage := .medium, reads := [] }) { acceptedCmd s x with stage := .medium, reads := [] }
      { cmd := s.nextCmd, engine := e, version := s.lke.cur.version, stage := 1, met := [] } := by
    rw [modCmd_one (y := acceptedCmd s x) (id := s.nextCmd) rfl rfl]
    refine ⟨⟨_, _, _, _, rfl⟩, ?_⟩
    show (s.lke.jobs ++ [_]).find? (fun j : LkupJob => j.cmd == s.nextCmd) = _
    rw [List.find?_append, List.find?_eq_none.2 fun j own => by simpa using hj j own]
    simp
  obtain ⟨v, i, ends, searching⟩ := runStages_finishes start hf rfl hq rfl 4 (by dsimp only; omega)
  have base := alone_took (x := x) h.opened 0 H E P
  obtain ⟨looked, answered⟩ := searching.ends ⟨rfl, base.host, base.alive, base.pair⟩
    (lkupResp (evalLkup s.lke.cur f (acceptedCmd s x)) e.val s.lke.cur.version)
  have left := Looked.trans (s := s) ⟨_, _, _, _, _, _, _, rfl⟩ looked
  have performed := (perform_lkup hop H E P).trans ((startLkup_admitted (cmdAt_took s x H E P) hf hb).trans
    ((if_neg (not_not.2 hd)).trans ((if_neg free).trans ((dispatchLkup_some pick).trans ends))))
  obtain ⟨t, ran, cmds, only⟩ := run _ performed (left.calm (open_facts h.opened).calm (by rw [answered]; exact answered_rests s x true _))
  have lke : t.lke = _ := congrArg State.lke only.1
  refine ⟨t, ran, cmds.trans answered, (congrArg Lke.cur lke).trans left.cur, ?_⟩
  rw [lke]
  exact left.only.trans only
end

/-- Settles O29: what a profile makes of a LKUP (`startLkup_unknown` and those after it), and the stages that its searches take
(`runStages_finishes`). -/
theorem lookups : Obligations.lookups := by
  intro p c tag du addr operand data s ho hd x y
  have takes := takes_lkup ho c tag hd addr operand data
  have judged (H : FMap Word64) (E : Evr) (P : Vector Pmc 6) : perform (took s x H E P) y = startLkup (took s x H E P) s.nextCmd :=
    perform_lkup (x := x) rfl H E P
  refine ⟨fun hf => takes.answers fun H E P => ?unknown, fun f hf => ⟨fun hb => takes.answers fun H E P => ?barred, fun hb =>
    ⟨fun hk => takes.answers fun H E P => ?mismatch, fun hk => ⟨fun idle => takes.answers fun H E P => ?idle,
      fun e he hn hs hq hj room => ?searches, fun full z hz _ port du prof => ?full⟩⟩⟩⟩
  case unknown => exact (judged H E P).trans (startLkup_unknown (cmdAt_took s x H E P) hf)
  case barred => exact (judged H E P).trans (startLkup_barred (cmdAt_took s x H E P) hf hb)
  case mismatch => exact (judged H E P).trans ((startLkup_admitted (cmdAt_took s x H E P) hf hb).trans (if_pos hk))
  case idle =>
    have none : pickEngine (took s x H E P) = none := pickEngine_none idle
    exact (judged H E P).trans ((startLkup_admitted (cmdAt_took s x H E P) hf hb).trans
      ((if_neg (not_not.2 hk)).trans ((if_neg (ne_true_of_eq_false (enginesFull_none none))).trans (dispatchLkup_none none))))
  case searches => exact lkup_searches takes rfl hf hb hk he (lastStage_le hs) hq hj room
  case full =>
    subst port
    rw [← prof] at hf
    exact (startLkup_admitted hz hf hb).trans ((if_neg (not_not.2 (du.trans hk))).trans (if_pos full))

end Sys2Proof.Machine
end

section
/-! Proofs of the port command family: the free chunks of the pool may change with a command. The state that the command leaves is calm
but for POOL_LOW, which follows them (R281). -/

namespace Sys2Proof.Machine

/-! ### What each rule looks at before it does anything -/

section
variable {s : State}

theorem lossRule_found (pair : s.mir.pairId.isNone = true) (lost : s.mir.lost = false) : lossRule s = s := by
  rw [lossRule, if_pos (.inl pair), lost]
  rfl

theorem lineRule_empty (line : s.krf.waiters = []) (granted : s.krf.granted = []) : lineRule s = s := by
  rw [lineRule, line, granted]
  rfl

theorem writeLeaves_none (h : s.lke.writes = []) : writeLeaves s = s := by
  rw [writeLeaves, h]
  rfl

theorem foldAllRule_off (h : cfgBit s Reg.CNT_CTRL 0 = false) : foldAllRule s = s := by
  rw [foldAllRule, h]
  rfl

theorem markWanted_none (h : ∀ x ∈ s.cmds, persistWaits x = false) : markWanted s = s := by
  have none : s.cmds.filter persistWaits = [] := List.filter_eq_nil_iff.2 fun x hx => ne_true_of_eq_false (h x hx)
  rw [markWanted, none]
  rfl

theorem flushRule_off (h : cfgBit s Reg.KRF_CTRL 0 = false) : flushRule s = s := if_neg fun e => ne_false_of_eq_true e.1 h

theorem runErases_none (h : s.sealing.erasing = []) : runErases s = s := by
  rw [runErases, h]
  rfl

theorem applyRecords_none (h : ∀ n : MPort, (s.mir.ports[n]).inbox = []) : applyRecords s = s := by
  simp only [applyRecords, List.foldl_cons, List.foldl_nil, h, List.length_nil, applyInbox]

theorem session_none (h : anySession s = false) (n : MPort) : (s.mir.ports[n]).session = false := by
  rw [anySession, Bool.or_eq_false_iff] at h
  match n with
  | ⟨0, _⟩ => exact h.1
  | ⟨1, _⟩ => exact h.2

theorem nakRule_none (h : anySession s = false) : nakRule s = s := by
  simp only [nakRule, List.foldl_cons, List.foldl_nil, session_none h, Bool.false_eq_true, false_and, and_false, if_false]

theorem nextSeed_none (h : anySession s = false) (n : MPort) : nextSeed s n = s := if_pos (.inl (by rw [session_none h]; rfl))

theorem tellRule_none (h : anySession s = false) : tellRule s = s := by
  rw [tellRule, h]
  rfl

theorem recreateRule_none (h : ∀ m : Mbx, mbxBusy s.mbx[m] = true → s.mbx[m].opcode.toNat ≠ 0x0012) : recreateRule s = s := by
  have none (r : Nat) (m : Mbx) : recreating s r ≠ some m := fun e => by
    have found := List.find?_some e
    simp only [Bool.and_eq_true, beq_iff_eq] at found
    exact h m found.1.1.1 found.1.2
  exact foldl_stays fun m _ => if_neg fun k => none _ m k.1

theorem mbxRetry_none (h : ∀ m : Mbx, s.mbx[m].state = .busy → s.mbx[m].waits = false) : mbxRetry s = s := by
  have none : (List.finRange 8).filter (fun m => decide ((s.mbx[m]).state = .busy) && (s.mbx[m]).waits) = [] :=
    List.filter_eq_nil_iff.2 fun m _ => by simpa using h m
  rw [mbxRetry, none]
  rfl

theorem captureRule_none (h : s.dumps.trigger = none) : captureRule s = s := by
  rw [captureRule, h]

theorem blockRules_none (h : s.med.moves = []) : blockRules s = s := by
  rw [blockRules, h]
  rfl
end

/-! ### A state that is calm but for POOL_LOW -/

/-- POOL_LOW as the free chunks have it. -/
def lowFollows (s : State) : State := modDbq s fun d => { d with low := decide (poolFree s < cfgFld s Reg.DBQ_POOL_LOW 0 27) }

/-- The rule of POOL_LOW moves nothing but its level and what it raises. -/
theorem poolLowRule_frame (s : State) : ∃ H, poolLowRule s = { lowFollows s with hw := H } := by
  unfold poolLowRule
  dsimp only
  split
  case isTrue same =>
    refine ⟨s.hw, ?_⟩
    rw [lowFollows, modDbq, same]
  case isFalse =>
    split
    · exact ⟨_, rfl⟩
    · exact ⟨_, rfl⟩

/-- What follows where a state is calm but for POOL_LOW: the calendars, the event ring and POOL_LOW. -/
def lowSettled (s : State) : State := poolLowRule (ringRule (calAll (calAll s)))

section
variable {s u : State} (hu : calm (lowFollows u) = true)
include hu

theorem settlePorts_low : settlePorts u = calAll u := by
  have c := calm_facts hu
  have rests : ∀ x ∈ u.cmds, stageRests x.stage = true := fun x hx => (c.cmds x hx).1
  have lkups : ∀ x ∈ u.cmds, lkupWaits x = false := fun x hx => (c.cmds x hx).2.2
  have persists : ∀ x ∈ u.cmds, persistWaits x = false := fun x hx => (c.cmds x hx).2.1
  have lag : lagRule u = u := if_pos (Eq.symm c.lag)
  rw [settlePorts, syncRule_unpaired (s := u) c.pair, releaseOks_rests u rests, dispatchLkups_none lkups,
    lineRule_empty (s := u) c.line c.granted, advanceAll_rests u rests, writeLeaves_none (s := u) c.writes,
    foldAllRule_off (s := u) c.fold, lag, markWanted_none persists, flushRule_off (s := u) c.flush]

theorem calm_lowFollows_calAll : calm (lowFollows (calAll u)) = true := hu

theorem calm_lowFollows_ringRule : calm (lowFollows (ringRule u)) = true := by
  obtain ⟨_, _, _, _, _, _, _, _, k⟩ := (ringRule_saved u).rest
  rw [k]
  exact hu

theorem calm_poolLowRule : calm (poolLowRule u) = true := by
  obtain ⟨H, e⟩ := poolLowRule_frame u
  rw [e]
  exact hu

/-- Once nothing waits but POOL_LOW, that is what follows. -/
theorem settle_low : settle u = lowSettled u := by
  have up : coreUp u = true := (calm_facts hu).up
  have c := calm_facts hu
  rw [settle, up, lossRule_found (s := u) c.pair c.lost, settlePorts_low hu, lowSettled]
  have hu := calm_lowFollows_calAll hu
  clear c up
  generalize calAll u = t at hu
  have c := calm_facts hu
  have pair : t.mir.pairId.isNone = true := c.pair
  have session : anySession t = false := c.session
  dsimp only
  rw [if_neg (by decide), runErases_none (s := t) c.erase, applyRecords_none (s := t) c.inbox, nakRule_none session, ite_self,
    recreateRule_none (s := t) c.create, seedRule, if_pos pair, mbxRetry_none (s := t) c.mbx, nextSeed_none session,
    nextSeed_none session, settlePorts_low hu]
  have hu := calm_lowFollows_calAll hu
  clear c pair session
  generalize calAll t = v at hu
  have c := calm_facts hu
  rw [tellRule_none (s := v) c.session, captureRule_none (s := v) c.dump, blockRules_none (s := v) c.moves]
  have h := calm_poolLowRule (calm_lowFollows_ringRule hu)
  rw [queueBitRule_calm h, sweepRule_calm h, saveRule_calm h]

/-- The one command of a state goes on, and with it the state settles. -/
theorem settle_one_low {x : HostCmd} (h : calm { s with cmds := [] } = true) (hx : s.cmds = [x]) (hs : x.stage = .buffered)
    (ha : advance s x.id = u) : settle s = lowSettled u := by
  have c := calm_facts hu
  have up : coreUp s = true := (calm_facts h).up
  have up' : coreUp u = true := c.up
  have rests : ∀ x ∈ u.cmds, stageRests x.stage = true := fun x hx => (c.cmds x hx).1
  have lkups : ∀ x ∈ u.cmds, lkupWaits x = false := fun x hx => (c.cmds x hx).2.2
  have oks : releaseOks s = s := by
    have none : s.cmds.filter (okReady s) = [] := by
      rw [hx, List.filter_eq_nil_iff]
      intro y hy
      rw [List.mem_singleton.1 hy, okReady, hs]
      simp
    rw [releaseOks, none]
    rfl
  have own : dispatchLkups s = s := dispatchLkups_none fun y hy => by
    rw [hx] at hy
    rw [List.mem_singleton.1 hy, lkupWaits, hs]
    simp
  have all : advanceAll s = u := by
    rw [advanceAll, hx]
    exact ha
  have ports : settlePorts s = settlePorts u := by
    rw [settlePorts, syncRule_besides h, oks, own, lineRule_besides h, all, settlePorts, syncRule_unpaired (s := u) c.pair,
      releaseOks_rests u rests, dispatchLkups_none lkups, lineRule_empty (s := u) c.line c.granted, advanceAll_rests u rests]
  rw [← settle_low hu, settle, settle, up, up', lossRule_besides h, lossRule_found (s := u) c.pair c.lost, ports]
  rfl
end

end Sys2Proof.Machine
end

section
/-! Proofs of the port command family: what the commands of the packet queues move. -/

namespace Sys2Proof.Machine

/-! ### What a queue command moves -/

/-- Nothing differs but commands, kerf slots and their stamps, the read path, queues and chunks, and what counts and records. -/
def Moved (s t : State) : Prop :=
  ∃ l n H E P D S m Q L, t = { s with
    cmds := l, nextCmd := n, hw := H, evr := E, pmc := P, rdp := D
    krf := { s.krf with slots := S, stamp := m }
    dbq := { s.dbq with queues := Q, pool := L } }

section
variable {s t u : State}

theorem Moved.refl (s : State) : Moved s s := ⟨_, _, _, _, _, _, _, _, _, _, rfl⟩

theorem Moved.trans (h : Moved s t) (k : Moved t u) : Moved s u := by
  obtain ⟨_, _, _, _, _, _, _, _, _, _, rfl⟩ := h
  obtain ⟨_, _, _, _, _, _, _, _, _, _, rfl⟩ := k
  exact ⟨_, _, _, _, _, _, _, _, _, _, rfl⟩

theorem Moved.commands (h : Moved s t) (l : List HostCmd) : Moved s { t with cmds := l } :=
  h.trans ⟨_, _, _, _, _, _, _, _, _, _, rfl⟩

theorem Counted.moved (h : Counted s t) : Moved s t := by
  obtain ⟨_, _, _, rfl⟩ := h
  exact ⟨_, _, _, _, _, _, _, _, _, _, rfl⟩

theorem Hit.moved (h : Hit s t) : Moved s t := by
  obtain ⟨l, n, H, E, P, D, S, m, Q, j, e⟩ := h.staged
  have med : t = { s with
      cmds := l, nextCmd := n, hw := H, evr := E, pmc := P, rdp := D, krf := { s.krf with slots := S, stamp := m }, med := t.med } := by
    rw [e]
  rw [h.med] at med
  exact ⟨_, _, _, _, _, _, _, _, _, _, med⟩

/-- What a queue command moves leaves a calm state calm but for POOL_LOW, once the commands rest. -/
theorem Moved.calm (h : Moved s t) (hs : calm s = true)
    (ht : t.cmds.all (fun x => stageRests x.stage && !persistWaits x && !lkupWaits x) = true) : calm (lowFollows t) = true := by
  obtain ⟨l, n, H, E, P, D, S, m, Q, L, rfl⟩ := h
  unfold Machine.calm at hs ⊢
  simp only [Bool.and_eq_true] at hs ⊢
  obtain ⟨⟨⟨⟨⟨⟨⟨⟨⟨⟨⟨⟨⟨⟨⟨⟨⟨⟨⟨h1, h2⟩, h3⟩, h4⟩, _⟩, h7⟩, h8⟩, h9⟩, h10⟩, h11⟩, h12⟩, h13⟩, h14⟩, h15⟩, h16⟩, h17⟩, _⟩, h19⟩, h20⟩, h21⟩ :=
    hs
  exact ⟨⟨⟨⟨⟨⟨⟨⟨⟨⟨⟨⟨⟨⟨⟨⟨⟨⟨⟨h1, h2⟩, h3⟩, h4⟩, ht⟩, h7⟩, h8⟩, h9⟩, h10⟩, h11⟩, h12⟩, h13⟩, h14⟩, h15⟩, h16⟩, h17⟩,
    beq_self_eq_true _⟩, h19⟩, h20⟩, h21⟩

/-- A command of an open port, alone in a state that a queue command moves. -/
theorem Moved.alone {x : Slotted} (h : Moved s t) (hs : portOpen s x.port = true) {y : HostCmd} (hc : t.cmds = [y])
    (ho : y.origin = (acceptedCmd s x).origin) (hn : y.session = (acceptedCmd s x).session) : Alone t y where
  cmds := hc
  host := ⟨_, _, ho⟩
  alive := by
    have base := (alone_took hs 0 s.hw s.evr s.pmc).alive
    obtain ⟨_, _, _, _, _, _, _, _, _, _, rfl⟩ := h
    rw [sessionAlive, ho, hn]
    exact base
  pair := by
    obtain ⟨_, _, _, _, _, _, _, _, _, _, rfl⟩ := h
    exact (calm_facts (open_facts hs).calm).pair

end

/-- Commands, queues and slots are the same. -/
structure KeepsData (s t : State) : Prop where
  cmds   : t.cmds = s.cmds
  queues : t.dbq.queues = s.dbq.queues
  slots  : t.krf.slots = s.krf.slots

theorem KeepsData.trans {s t u : State} (h : KeepsData s t) (k : KeepsData t u) : KeepsData s u :=
  ⟨k.cmds.trans h.cmds, k.queues.trans h.queues, k.slots.trans h.slots⟩

theorem calAll_keepsData (s : State) : KeepsData s (calAll s) := ⟨rfl, rfl, rfl⟩

theorem ringRule_keepsData (s : State) : KeepsData s (ringRule s) := by
  obtain ⟨_, _, _, _, _, _, _, _, e⟩ := (ringRule_saved s).rest
  rw [e]
  exact ⟨rfl, rfl, rfl⟩

theorem poolLowRule_keepsData (s : State) : KeepsData s (poolLowRule s) := by
  obtain ⟨_, e⟩ := poolLowRule_frame s
  rw [e]
  exact ⟨rfl, rfl, rfl⟩

theorem fin_keepsData (s : State) : KeepsData s (fin s) := ⟨rfl, rfl, rfl⟩

theorem lowSettled_keepsData (s : State) : KeepsData s (lowSettled s) :=
  (((calAll_keepsData s).trans (calAll_keepsData _)).trans (ringRule_keepsData _)).trans (poolLowRule_keepsData _)

/-- A command whose performance moves queues and slots and leaves commands at rest: what follows keeps them. -/
theorem Takes.moves {i : Instr} {x : Slotted} {s : State} (h : Takes i x s) : ∃ H E P, ∀ u,
    perform (took s x H E P) (acceptedCmd s x) = u → Moved s u →
    u.cmds.all (fun x => stageRests x.stage && !persistWaits x && !lkupWaits x) = true →
    ∃ t, exec i s = .next t ∧ KeepsData u t := by
  have f := open_facts h.opened
  obtain ⟨H, E, P, taken⟩ := takenCmd_took (x := x) f.cmds
  refine ⟨H, E, P, fun u hu moved rests => ⟨_, ?_, (lowSettled_keepsData u).trans (fin_keepsData _)⟩⟩
  have alone : calm { took s x H E P with cmds := [] } = true := calm_other (s := s) (l := []) f.calm rfl
  have goes_on : advance (took s x H E P) s.nextCmd = u := (advance_performs h.opened H E P h.formed (.inl h.noPa)).trans hu
  rw [exec_host h.row, hostCommand_taken (arrival_open h.opened (hostRow_du h.row)), taken,
    settle_one_low (s := took s x H E P) (x := acceptedCmd s x) (moved.calm f.calm rests) alone rfl rfl goes_on]

end Sys2Proof.Machine
end

section
/-! Proofs of the port command family: the operations of the packet queues. -/

namespace Sys2Proof.Machine

/-! ### Queues (R261) -/

/-- Two queues hold the same packets. -/
structure SameData (v w : Queue) : Prop where
  packets : w.packets = v.packets
  opened  : w.opened = v.opened
  flushes : w.flushes = v.flushes
  charged : w.charged = v.charged

theorem queueAt_congr {s t : State} (h : t.dbq.queues = s.dbq.queues) (q : Nat) : queueAt t q = queueAt s q := by
  unfold queueAt
  rw [h]

/-- A queue that is charged is not as shipped: it is listed. -/
theorem queueAt_putQueue {s : State} {q : Nat} {v : Queue} (h : v.charged = true) : queueAt (putQueue s q v) q = v := by
  have listed : v ≠ Queue.initial := by
    rintro rfl
    cases h
  show fgetD (fputD s.dbq.queues q Queue.initial v) q Queue.initial = v
  rw [fputD, if_neg listed, fgetD, fget_fput_self]
  rfl

/-- Space that a queue left is given up: no command differs, and where the queue is charged, it holds the same packets. -/
structure Releases (q : Nat) (s t : State) : Prop where
  moved : Moved s t
  cmds  : t.cmds = s.cmds
  data  : (queueAt s q).charged = true → SameData (queueAt s q) (queueAt t q)

section
variable {q : Nat} {s t u : State}

theorem Releases.refl (s : State) : Releases q s s := ⟨.refl s, rfl, fun _ => ⟨rfl, rfl, rfl, rfl⟩⟩

theorem Releases.trans (h : Releases q s t) (k : Releases q t u) : Releases q s u where
  moved := h.moved.trans k.moved
  cmds := k.cmds.trans h.cmds
  data hq := by
    have a := h.data hq
    have b := k.data (a.charged.trans hq)
    exact ⟨b.packets.trans a.packets, b.opened.trans a.opened, b.flushes.trans a.flushes, b.charged.trans a.charged⟩

theorem Releases.of_queues (hm : Moved s t) (hc : t.cmds = s.cmds) (hq : t.dbq.queues = s.dbq.queues) : Releases q s t where
  moved := hm
  cmds := hc
  data _ := by
    rw [queueAt_congr hq]
    exact ⟨rfl, rfl, rfl, rfl⟩

theorem Releases.foldl {γ : Type} {f : State → γ → State} (hf : ∀ s a, Releases q s (f s a)) (l : List γ) (s : State) :
    Releases q s (l.foldl f s) :=
  List.foldlRecOn l f (.refl s) fun _ h a _ => h.trans (hf _ a)

theorem Counted.releases (h : Counted s t) : Releases q s t := .of_queues h.moved h.cmds (by obtain ⟨_, _, _, rfl⟩ := h; rfl)

theorem hwAdd_releases (s : State) (o n : Nat) : Releases q s (hwAdd s o n) := (hwSet_counted s _ _).releases

theorem putQueue_releases (s : State) {v : Queue} (hv : SameData (queueAt s q) v) : Releases q s (putQueue s q v) where
  moved := ⟨_, _, _, _, _, _, _, _, _, _, rfl⟩
  cmds := rfl
  data hq := by
    rw [queueAt_putQueue (hv.charged.trans hq)]
    exact hv

theorem queueError_releases (s : State) (q : Nat) : Releases q s (queueError s q) :=
  (putQueue_releases (v := { queueAt s q with error := true }) s ⟨rfl, rfl, rfl, rfl⟩).trans (hwSet_counted _ _ _).releases

theorem modPool_releases (s : State) (r : Nat) (f : PoolRegion → PoolRegion) : Releases q s (modPool s r f) :=
  .of_queues ⟨_, _, _, _, _, _, _, _, _, _, rfl⟩ rfl rfl

theorem giveChunk_releases (s : State) (lsa : Nat) : Releases q s (giveChunk s lsa) := (modPool_releases s _ _).trans (hwAdd_releases _ _ _)

theorem freeSlot_releases (s : State) (lsa : Nat) : Releases q s (freeSlot s lsa) :=
  .of_queues ⟨_, _, _, _, _, _, _, _, _, _, rfl⟩ rfl rfl

theorem killSector_releases (s : State) (lsa : Nat) : Releases q s (killSector s lsa) := by
  unfold killSector
  split
  · split
    · exact ((freeSlot_releases s lsa).trans (hwAdd_releases _ _ _)).trans (pmcCount_counted _ _ _ _).releases
    · exact .refl s
  · exact .refl s

theorem freeDead_releases (s : State) (q : Nat) : Releases q s (freeDead s q) := by
  unfold freeDead
  dsimp only
  refine Releases.trans ?_ (.foldl (fun s (c : BitVec 32) => giveChunk_releases s c.toNat) _ _)
  split
  · exact .refl s
  · exact putQueue_releases s ⟨rfl, rfl, rfl, rfl⟩

theorem chainRule_releases (s : State) (q lsa : Nat) : Releases q s (chainRule s q lsa) := by
  unfold chainRule
  dsimp only
  split
  · exact .refl s
  · split
    · exact queueError_releases s q
    · exact .refl s

/-- The chunks that are freed take no slot with them. -/
theorem freeDead_krf (s : State) (q : Nat) : (freeDead s q).krf = s.krf := by
  unfold freeDead
  dsimp only
  refine List.foldlRecOn (motive := fun t : State => t.krf = s.krf) _ _ ?_ fun t ht c _ => ht
  split <;> rfl

/-- No flush waits: none takes effect. -/
theorem runFlushes_none {s : State} {q : Nat} (h : (queueAt s q).flushes = []) : runFlushes s q = s := by
  rw [runFlushes]
  dsimp only
  rw [h]
end

/-! ### The whole bytes of a sector (R139, R262) -/

theorem Hit.dbq {s t : State} (h : Hit s t) : t.dbq = s.dbq := by
  obtain ⟨_, _, _, _, _, _, _, _, _, _, rfl⟩ := h.staged
  rfl

/-- A write of a sector whose slot carries charge changes slots, the read path and what counts. -/
structure Written (s t : State) : Prop where
  moved : Moved s t
  cmds  : t.cmds = s.cmds
  dbq   : t.dbq = s.dbq

theorem Written.trans {s t u : State} (h : Written s t) (k : Written t u) : Written s u :=
  ⟨h.moved.trans k.moved, k.cmds.trans h.cmds, k.dbq.trans h.dbq⟩

theorem Hit.written {s t : State} (h : Hit s t) : Written s t := ⟨h.moved, h.cmds, h.dbq⟩

theorem putSlot_written (s : State) (lsa : Nat) (z : Slot) : Written s (takeStamp (putSlot s lsa z)) :=
  ⟨⟨_, _, _, _, _, _, _, _, _, _, rfl⟩, rfl, rfl⟩

theorem Slot.holds_charged {z : Slot} (h : z.holds = true) : z.charged = true := by
  rcases (holds_good h).2 with e | e <;> rw [charged, e] <;> rfl

theorem isMarked_held {s : State} {lsa : Nat} {z : Slot} (h : slotAt s lsa = some z) (hz : z.holds = true) : isMarked s lsa = false := by
  rw [isMarked, h]
  dsimp only
  rcases (holds_good hz).2 with e | e <;> rw [e] <;> rfl

theorem putSector_held {s : State} {lsa : Nat} {z : Slot} (h : slotAt s lsa = some z) (hz : z.holds = true) (d : Sector) (aged : Bool) :
    Written s (putSector s lsa d aged) := by
  unfold putSector
  dsimp only
  rw [isMarked_held h hz, if_neg Bool.false_ne_true, h, Option.getD_some, if_pos (Slot.holds_charged hz)]
  exact (((countJoin_hit s).written.trans (putSlot_written _ lsa _)).trans (cacheWrite_hit _ lsa d).written).trans (notePeak_hit _).written

end Sys2Proof.Machine
end

section
/-! Proofs of the port command family: the commands of the packet queues. -/

namespace Sys2Proof.Machine

/-! ### The steps of a queue command (R263 to R266, R270) -/

/-- The words of a descriptor without an error are read, and nothing follows. -/
theorem descCheck_good {t : State} {q : Nat} (h : ∀ w : Fin 3, (queueAt t q).ecc[w] = .good) : descCheck t q = t :=
  foldl_stays fun w _ => by
    dsimp only
    rw [h w]

/-- A command whose charge is carried already, and whose regions have their bits, goes on. -/
theorem queueReady_carried {t : State} {y : HostCmd} {rs : List Nat} (h : ∀ r ∈ rs, t.krf.bitmap.contains r = true) :
    queueReady t y 0 rs = (true, t) := by
  have none : rs.filter (fun r => !t.krf.bitmap.contains r) = [] :=
    List.filter_eq_nil_iff.2 fun r hr => ne_true_of_eq_false (congrArg not (h r hr))
  have carried : ¬ y.reserved < 0 := Nat.not_lt_zero _
  unfold queueReady
  rw [if_neg fun k : y.reserved < 0 ∧ _ => carried k.1, if_neg carried]
  dsimp only
  rw [none]
  exact ite_self _

/-- A refusal counts, and answers. -/
theorem queueRefuse_counts (t : State) (y : HostCmd) (d : Nat) :
    ∃ u, Counted t u ∧ queueRefuse t y d = refuse u y.id (Resp.plain .qerr d) :=
  ⟨_, ((((hwSet_counted t _ _).trans (hwSet_counted _ _ _)).trans (hwSet_counted _ _ _)).trans (hwSet_counted _ _ _)), rfl⟩

/-- A command of the queue v, whose descriptor reads well. -/
structure Finds (t : State) (id : Nat) (y : HostCmd) (v : Queue) : Prop where
  cmd   : cmdAt t id = some y
  queue : queueAt t (qidOf y.addr) = v
  good  : ∀ w : Fin 3, v.ecc[w] = .good

section
variable {t : State} {id : Nat} {y : HostCmd} {v : Queue} (h : Finds t id y v)
include h

theorem Finds.checked : descCheck t (qidOf y.addr) = t := descCheck_good (by rw [h.queue]; exact h.good)

theorem startQstat_counts : startQstat t id = complete (hwAdd t Reg.DBQ_QSTAT_CMDS 1) id
    (Resp.okData 1 (BitVec.ofNat 64 (queueBytes v)) (qstatUnit v)) := by
  rw [startQstat, h.cmd]
  dsimp only
  rw [h.checked, h.queue]

theorem startEnq_refused {d : Nat} (hd : enqCheck t y v = some d) : startEnq t id = queueRefuse t y d := by
  rw [startEnq, h.cmd]
  dsimp only
  rw [h.checked, h.queue, hd]

theorem startDeq_error (he : v.error = true) : startDeq t id = queueRefuse t y 7 := by
  rw [startDeq, h.cmd]
  dsimp only
  rw [h.checked, h.queue, if_pos he]

theorem startDeq_disabled (he : v.error = false) (hn : v.enable = false) :
    startDeq t id = queueRefuse t y 1 := by
  rw [startDeq, h.cmd]
  dsimp only
  rw [h.checked, h.queue, he, hn]
  rfl

theorem startDeq_empty (he : v.error = false) (hn : v.enable = true)
    (hp : bitOf v.deqPorts y.port.val = true) (hk : v.packets = []) :
    startDeq t id = refuse (pmcCount (pmcCount (hwAdd (hwAdd t Reg.DBQ_DEQ_CMDS 1) Reg.DBQ_EMPTY 1) 0x601 none 1) 0x602 none 1) id
      ⟨.empty, 0, 0, 0x8000000000000000, 0⟩ := by
  rw [startDeq, h.cmd]
  dsimp only
  rw [h.checked, h.queue, he, hn, hp, hk]
  rfl

theorem startQflush_barred (hn : v.enable = true) (hp : bitOf v.deqPorts y.port.val = false) :
    startQflush t id = queueRefuse t y 2 := by
  rw [startQflush, h.cmd]
  dsimp only
  rw [h.checked, h.queue, hn, hp]
  rfl
end

/-! ### The answers of queue commands (R128, R130, R263) -/

section
variable {i : Instr} {x : Slotted} {s : State}

/-- Where the performance of a command counts and answers, nothing else differs. -/
theorem Takes.answers_counted (h : Takes i x s) {p : Bool} {r : Resp} (hp : ∀ H E P, ∃ t, Counted (took s x H E P) t ∧
    perform (took s x H E P) (acceptedCmd s x) = answer t s.nextCmd p r) : AnswersOnly i x s p r :=
  answers_performed h.row h.opened h.formed (.inl h.noPa) fun H E P => by
    obtain ⟨t, ⟨H', E', P', rfl⟩, e⟩ := hp H E P
    exact ⟨H', E', P', e.trans (answer_took h.opened rfl rfl)⟩

/-- A queue command that is refused changes no queue (R263). -/
theorem Takes.refuses (h : Takes i x s) {d : Nat} (hp : ∀ H E P, perform (took s x H E P) (acceptedCmd s x) =
    queueRefuse (took s x H E P) (acceptedCmd s x) d) : AnswersOnly i x s false (Resp.plain .qerr d) :=
  h.answers_counted fun H E P => by
    obtain ⟨u, counted, e⟩ := queueRefuse_counts (took s x H E P) (acceptedCmd s x) d
    exact ⟨u, counted, (hp H E P).trans e⟩

/-- The command finds the descriptor of its queue as it was. -/
theorem finds_took (h : ∀ w : Fin 3, (queueAt s (qidOf x.addr)).ecc[w] = .good) (H : FMap Word64) (E : Evr) (P : Vector Pmc 6) :
    Finds (took s x H E P) s.nextCmd (acceptedCmd s x) (queueAt s (qidOf x.addr)) := ⟨cmdAt_took s x H E P, rfl, h⟩

end

section
variable {s : State} {p : HPort} (ho : portOpen s p = true) (c : HChan) (tag : BitVec 12) (addr : BitVec 40)
include ho

theorem takes_qstat : Takes (.qstat p c tag 0 addr) (slotted .qstat p c tag 0 addr 0 0) s :=
  takes_of (op := .qstat) rfl ho rfl nofun rfl nofun rfl

theorem takes_deq : Takes (.deq p c tag 0 addr) (slotted .deq p c tag 0 addr 0 0) s :=
  takes_of (op := .deq) rfl ho rfl nofun rfl nofun rfl

theorem takes_qflush : Takes (.qflush p c tag 0 addr) (slotted .qflush p c tag 0 addr 0 0) s :=
  takes_of (op := .qflush) rfl ho rfl nofun rfl nofun rfl

theorem takes_enq {du : BitVec 3} (hd : du.toNat = (enqBytes addr + 63) / 64) (h0 : enqBytes addr ≠ 0) (h256 : enqBytes addr ≤ 256)
    (operand : Word64) (data : BitVec 2048) : Takes (.enq p c tag du addr operand data) (slotted .enq p c tag du addr operand data) s where
  row := rfl
  opened := ho
  formed := malformed_none (op := .enq) rfl nofun (beq_iff_eq.2 hd) (dupTag_none ho) nofun nofun fun _ => ⟨h0, h256⟩
  noPa := rfl

variable (hg : ∀ w : Fin 3, (queueAt s (qidOf addr)).ecc[w] = .good)
include hg

theorem qstat_answers : AnswersOnly (.qstat p c tag 0 addr) (slotted .qstat p c tag 0 addr 0 0) s true
    (Resp.okData 1 (BitVec.ofNat 64 (queueBytes (queueAt s (qidOf addr)))) (qstatUnit (queueAt s (qidOf addr)))) :=
  (takes_qstat ho c tag addr).answers_counted fun H E P =>
    ⟨hwAdd (took s (slotted .qstat p c tag 0 addr 0 0) H E P) Reg.DBQ_QSTAT_CMDS 1, hwSet_counted _ _ _,
      startQstat_counts (finds_took (x := slotted .qstat p c tag 0 addr 0 0) hg H E P)⟩

theorem deq_empty (he : (queueAt s (qidOf addr)).error = false) (hn : (queueAt s (qidOf addr)).enable = true)
    (hp : bitOf (queueAt s (qidOf addr)).deqPorts p.val = true) (hk : (queueAt s (qidOf addr)).packets = []) :
    AnswersOnly (.deq p c tag 0 addr) (slotted .deq p c tag 0 addr 0 0) s false ⟨.empty, 0, 0, 0x8000000000000000, 0⟩ :=
  (takes_deq ho c tag addr).answers_counted fun H E P =>
    ⟨_, (((hwSet_counted _ _ _).trans (hwSet_counted _ _ _)).trans (pmcCount_counted _ _ _ _)).trans (pmcCount_counted _ _ _ _),
      startDeq_empty (finds_took (x := slotted .deq p c tag 0 addr 0 0) hg H E P) he hn hp hk⟩

theorem deq_error (he : (queueAt s (qidOf addr)).error = true) :
    AnswersOnly (.deq p c tag 0 addr) (slotted .deq p c tag 0 addr 0 0) s false (Resp.plain .qerr 7) :=
  (takes_deq ho c tag addr).refuses fun H E P => startDeq_error (finds_took (x := slotted .deq p c tag 0 addr 0 0) hg H E P) he

theorem deq_disabled (he : (queueAt s (qidOf addr)).error = false) (hn : (queueAt s (qidOf addr)).enable = false) :
    AnswersOnly (.deq p c tag 0 addr) (slotted .deq p c tag 0 addr 0 0) s false (Resp.plain .qerr 1) :=
  (takes_deq ho c tag addr).refuses fun H E P => startDeq_disabled (finds_took (x := slotted .deq p c tag 0 addr 0 0) hg H E P) he hn

theorem qflush_barred (hn : (queueAt s (qidOf addr)).enable = true) (hp : bitOf (queueAt s (qidOf addr)).deqPorts p.val = false) :
    AnswersOnly (.qflush p c tag 0 addr) (slotted .qflush p c tag 0 addr 0 0) s false (Resp.plain .qerr 2) :=
  (takes_qflush ho c tag addr).refuses fun H E P => startQflush_barred (finds_took (x := slotted .qflush p c tag 0 addr 0 0) hg H E P) hn hp

theorem enq_refused {du : BitVec 3} (hd : du.toNat = (enqBytes addr + 63) / 64) (h0 : enqBytes addr ≠ 0) (h256 : enqBytes addr ≤ 256)
    (operand : Word64) (data : BitVec 2048) {d : Nat}
    (hc : enqCheck s (acceptedCmd s (slotted .enq p c tag du addr operand data)) (queueAt s (qidOf addr)) = some d) :
    AnswersOnly (.enq p c tag du addr operand data) (slotted .enq p c tag du addr operand data) s false (Resp.plain .qerr d) :=
  (takes_enq ho c tag addr hd h0 h256 operand data).refuses fun H E P =>
    startEnq_refused (finds_took (x := slotted .enq p c tag du addr operand data) hg H E P) hc
end

end Sys2Proof.Machine
end

section
/-! Proofs of the port command family: the commands of the packet queues that move data. -/

namespace Sys2Proof.Machine

/-! ### A queue command that is carried out -/

/-- The command y, alone, has been carried out so far on a state s: its queue q, which is charged, holds the data of v. -/
structure Serving (s : State) (q : Nat) (v : Queue) (y : HostCmd) (t : State) : Prop where
  moved   : Moved s t
  cmds    : t.cmds = [y]
  data    : SameData v (queueAt t q)
  charged : v.charged = true

section
variable {s t u : State} {q : Nat} {v w : Queue} {y : HostCmd} (h : Serving s q v y t)
include h

theorem Serving.releases (k : Releases q t u) : Serving s q v y u where
  moved := h.moved.trans k.moved
  cmds := k.cmds.trans h.cmds
  data := by
    have a := h.data
    have b := k.data (a.charged.trans h.charged)
    exact ⟨b.packets.trans a.packets, b.opened.trans a.opened, b.flushes.trans a.flushes, b.charged.trans a.charged⟩
  charged := h.charged

theorem Serving.written (k : Written t u) : Serving s q v y u := h.releases (.of_queues k.moved k.cmds (congrArg Dbq.queues k.dbq))

theorem Serving.hit (k : Hit t u) : Serving s q v y u := h.written k.written

/-- The queue takes other data. -/
theorem Serving.putQueue {u : Queue} (hw : SameData w u) (hc : w.charged = true) : Serving s q w y (putQueue t q u) where
  moved := h.moved.trans ⟨_, _, _, _, _, _, _, _, _, _, rfl⟩
  cmds := h.cmds
  data := by
    rw [queueAt_putQueue (hw.charged.trans hc)]
    exact hw
  charged := hc

theorem Serving.modCmd {id : Nat} (hid : y.id = id) (f : HostCmd → HostCmd) : Serving s q v (f y) (modCmd t id f) := by
  rw [modCmd_one h.cmds hid]
  exact ⟨h.moved.commands _, rfl, h.data, h.charged⟩

theorem Serving.carry {id : Nat} (hid : y.id = id) : Serving s q v { y with reserved := 0 } (carry t id) :=
  (h.modCmd hid fun y => { y with reserved := 0 }).hit (notePeak_hit _)

theorem Serving.complete {x : Slotted} (ho : portOpen s x.port = true) (hy : y.origin = (acceptedCmd s x).origin)
    (hn : y.session = (acceptedCmd s x).session) {id : Nat} (hid : y.id = id) (r : Resp) :
    Serving s q v (answeredCmd y r) (complete t id r) := by
  subst hid
  rw [complete_alone (h.moved.alone ho h.cmds hy hn) r]
  exact ⟨h.moved.commands _, rfl, h.data, h.charged⟩

theorem Serving.complete_krf {x : Slotted} (ho : portOpen s x.port = true) (hy : y.origin = (acceptedCmd s x).origin)
    (hn : y.session = (acceptedCmd s x).session) {id : Nat} (hid : y.id = id) (r : Resp) : (Machine.complete t id r).krf = t.krf := by
  subst hid
  rw [complete_alone (h.moved.alone ho h.cmds hy hn) r]
end

section
variable {i : Instr} {x : Slotted} {s : State}

theorem serving_took (hc : (queueAt s (qidOf x.addr)).charged = true) (H : FMap Word64) (E : Evr) (P : Vector Pmc 6) :
    Serving s (qidOf x.addr) (queueAt s (qidOf x.addr)) (acceptedCmd s x) (took s x H E P) where
  moved := ⟨_, _, _, _, _, _, _, _, _, _, rfl⟩
  cmds := rfl
  data := ⟨rfl, rfl, rfl, rfl⟩
  charged := hc

/-- A command that is carried out at once, and answered: its queue holds what it was left with. -/
theorem Takes.serves (h : Takes i x s) {v : Queue} {r : Resp} {S : FMap Slot → Prop} (hp : ∀ H E P, ∃ u,
      perform (took s x H E P) (acceptedCmd s x) = u ∧ Serving s (qidOf x.addr) v (answeredCmd (acceptedCmd s x) r) u ∧ S u.krf.slots) :
    ∃ t, exec i s = .next t ∧ t.cmds = answeredBy s x true r ∧ SameData v (queueAt t (qidOf x.addr)) ∧ S t.krf.slots := by
  obtain ⟨H, E, P, run⟩ := h.moves
  obtain ⟨u, performed, serving, slots⟩ := hp H E P
  have cmds : u.cmds = answeredBy s x true r := serving.cmds
  obtain ⟨t, ran, kept⟩ := run u performed serving.moved (by rw [cmds]; exact answered_rests s x true r)
  refine ⟨t, ran, kept.cmds.trans cmds, ?_, by rw [kept.slots]; exact slots⟩
  rw [queueAt_congr kept.queues]
  exact serving.data
end

/-! ### QFLUSH (R129, R266) -/

section
variable {s t : State} {q : Nat} {v : Queue} {y : HostCmd}

/-- Every complete packet of a queue is discarded, and the number of them is the result. -/
theorem flushNow_serving (h : Serving s q v y t) : (flushNow t q).1 = v.packets.length ∧
    Serving s q { v with packets := [] } y (flushNow t q).2 := by
  have emptied : Serving s q { v with packets := [] } y (putQueue t q { queueAt t q with packets := [] }) :=
    h.putQueue ⟨rfl, h.data.opened, h.data.flushes, h.data.charged⟩ h.charged
  have killed (u : State) (ps : List Packet) : Releases q u
      (ps.foldl (fun s p => p.sectors.foldl (fun s e => killSector s e.1.toNat) s) u) :=
    .foldl (fun u p => .foldl (fun u (e : BitVec 32 × Nat) => killSector_releases u e.1.toNat) p.sectors u) ps u
  exact ⟨congrArg List.length h.data.packets,
    ((emptied.releases (killed _ _)).releases (freeDead_releases _ q)).releases (hwAdd_releases _ _ _)⟩

/-- The charge of a descriptor that carries it already. -/
theorem queueReady_charged (hc : v.charged = true) : queueReady t y (descNeed v) (descRegions t v) = (true, t) := by
  rw [descNeed, descRegions, hc]
  exact queueReady_carried (List.forall_mem_nil _)

theorem startQflush_closed {id : Nat} (h : Finds t id y v) (hn : v.enable = true) (hp : bitOf v.deqPorts y.port.val = true)
    (hc : v.charged = true) (he : v.error = false) (ho : v.opened = none) : startQflush t id =
      let f := flushNow (carry (modQueue t (qidOf y.addr) fun v => { v with charged := true }) id) (qidOf y.addr)
      flushDone f.2 id f.1 := by
  rw [startQflush, h.cmd]
  dsimp only
  rw [h.checked, h.queue, hn, hp, queueReady_charged hc, he, ho]
  rfl

/-- A QFLUSH of a queue without an open packet is carried out. -/
theorem startQflush_serving {x : Slotted} (hs : portOpen s x.port = true) (h : Serving s (qidOf x.addr) v (acceptedCmd s x) t)
    (k : Finds t s.nextCmd (acceptedCmd s x) v) (hn : v.enable = true) (hp : bitOf v.deqPorts x.port.val = true)
    (he : v.error = false) (ho : v.opened = none) :
    Serving s (qidOf x.addr) { v with packets := [] } (answeredCmd (acceptedCmd s x)
      (Resp.okData 0 (BitVec.ofNat 64 (sat 32 v.packets.length)) 0)) (startQflush t s.nextCmd) := by
  have carried := (h.putQueue (w := v) (u := { queueAt t (qidOf x.addr) with charged := true })
    ⟨h.data.packets, h.data.opened, h.data.flushes, h.charged.symm⟩ h.charged).carry (id := s.nextCmd) rfl
  obtain ⟨number, flushed⟩ := flushNow_serving carried
  rw [startQflush_closed k hn hp h.charged he ho, ← number]
  exact (flushed.releases (hwAdd_releases _ Reg.DBQ_FLUSH_CMDS 1)).complete hs rfl rfl rfl _

end

theorem qflush_discards {s : State} {p : HPort} (ho : portOpen s p = true) (c : HChan) (tag : BitVec 12) (addr : BitVec 40)
    (hg : ∀ w : Fin 3, (queueAt s (qidOf addr)).ecc[w] = .good) (he : (queueAt s (qidOf addr)).error = false)
    (hn : (queueAt s (qidOf addr)).enable = true) (hc : (queueAt s (qidOf addr)).charged = true)
    (hp : bitOf (queueAt s (qidOf addr)).deqPorts p.val = true) (hd : (queueAt s (qidOf addr)).opened = none) :
    ∃ t, exec (.qflush p c tag 0 addr) s = .next t ∧ t.cmds = answeredBy s (slotted .qflush p c tag 0 addr 0 0) true
        (Resp.okData 0 (BitVec.ofNat 64 (sat 32 (queueAt s (qidOf addr)).packets.length)) 0) ∧
      (queueAt t (qidOf addr)).packets = [] := by
  obtain ⟨t, ran, cmds, data, -⟩ := (takes_qflush ho c tag addr).serves (S := fun _ => True) fun H E P =>
    ⟨_, rfl, startQflush_serving ho (serving_took (x := slotted .qflush p c tag 0 addr 0 0) hc H E P)
      (finds_took (x := slotted .qflush p c tag 0 addr 0 0) hg H E P) hn hp he hd, trivial⟩
  exact ⟨t, ran, cmds, data.packets⟩

end Sys2Proof.Machine
end

section
/-! Proofs of the port command family: DEQ and ENQ. -/

namespace Sys2Proof.Machine

/-! ### DEQ (R127, R128, R265) -/

theorem testBit_flag {b : Bool} {k : Nat} (hk : k < 64) (i : Nat) : (flag b k).getLsbD i = (b && decide (k = i)) := by
  cases b with
  | false => exact BitVec.getLsbD_zero
  | true =>
    rw [flag, if_pos rfl, BitVec.getLsbD_ofNat, Nat.testBit_two_pow, Bool.true_and]
    rcases Decidable.em (k = i) with rfl | ne
    · simp [hk]
    · simp [ne]

theorem getLsbD_fld {v k i : Nat} (hi : k + i < 64) : (fld v k).getLsbD (k + i) = v.testBit i := by
  rw [fld, BitVec.getLsbD_ofNat, Nat.testBit_mul_two_pow]
  simp [hi]

/-- The bytes of a segment stand in bits 56 to 48 of its result (R128). -/
theorem bitsOf_segment (a : BitVec 48) (w : Bool) {b : Nat} (hb : b < 512) (whole last : Bool) :
    bitsOf ((if w then fld a.toNat 0 else 0) ||| fld b 48 ||| flag whole 57 ||| flag last 58) 48 9 = b := by
  refine Nat.eq_of_testBit_eq fun i => ?_
  rw [bitsOf, Nat.testBit_mod_two_pow, Nat.testBit_div_two_pow]
  rcases Nat.lt_or_ge i 9 with low | high
  · have none : (if w then fld a.toNat 0 else 0 : Word64).getLsbD (48 + i) = false := by
      cases w with
      | false => exact BitVec.getLsbD_zero
      | true =>
        have above := getLsbD_fld (v := a.toNat) (k := 0) (i := 48 + i) (by omega)
        rw [Nat.zero_add] at above
        exact above.trans (Nat.testBit_lt_two_pow (Nat.lt_of_lt_of_le a.isLt (Nat.pow_le_pow_right (by decide) (Nat.le_add_right _ _))))
    have bits : (((if w then fld a.toNat 0 else 0) ||| fld b 48 ||| flag whole 57 ||| flag last 58 : Word64)).getLsbD (48 + i) = b.testBit i := by
      rw [BitVec.getLsbD_or, BitVec.getLsbD_or, BitVec.getLsbD_or, none, getLsbD_fld (by omega), testBit_flag (by decide), testBit_flag (by decide)]
      simp only [Bool.false_or, show ¬ 57 = 48 + i by omega, show ¬ 58 = 48 + i by omega, decide_false, Bool.and_false, Bool.or_false]
    rw [decide_eq_true low, Bool.true_and, Nat.add_comm]
    exact bits
  · rw [decide_eq_false (by omega), Bool.false_and]
    exact (Nat.testBit_lt_two_pow (Nat.lt_of_lt_of_le hb (Nat.pow_le_pow_right (n := 2) (by decide) high))).symm

/-- The response of a DEQ but for its data. -/
def segmentResp (pk : Packet) (b : Nat) (last : Bool) : Resp :=
  Resp.okData ((b + 15) / 16) ((if pk.whole then fld pk.data.toNat 0 else 0) ||| fld b 48 ||| flag pk.whole 57 ||| flag last 58) 0

/-- What counts a DEQ. -/
def deqCounted (s : State) (last : Bool) : State :=
  let s := hwAdd s Reg.DBQ_DEQ_CMDS 1
  pmcCount (if last then hwAdd s Reg.DBQ_DEQ_PKTS 1 else s) 0x601 none 1

theorem deqCounted_hit (s : State) (last : Bool) : Hit s (deqCounted s last) :=
  ((hwAdd_hit s _ _).trans (.ite (hwAdd_hit _ _ _) (.refl _))).trans (pmcCount_hit _ _ _ _)

/-- What a packet leaves in its queue once its next segment is taken off, after which there are the sectors `rest`. -/
def afterSegment (pk : Packet) (ps : List Packet) (rest : List (BitVec 32 × Nat)) : List Packet :=
  if rest.isEmpty then ps else { pk with whole := false, sectors := rest } :: ps

/-- A segment is taken off a queue, which leaves it the packets `left`: the DEQ is performed, and has the response r but for its data. -/
def segmentTaken (s : State) (q id : Nat) (left : List Packet) (last : Bool) (r : Resp) : State :=
  modCmd (carry (deqCounted (modQueue s q fun v => { v with packets := left, charged := true }) last) id) id
    fun y => { y with performed := true, resp := some r }

theorem Moved.regionAt {s t : State} (h : Moved s t) (r : Nat) : regionAt t r = regionAt s r := by
  obtain ⟨_, _, _, _, _, _, _, _, _, _, rfl⟩ := h
  rfl

section
variable {s t : State} {q : Nat} {v : Queue} {y : HostCmd}

theorem carry_krf (t : State) (id : Nat) : (carry t id).krf = t.krf := rfl

theorem modQueue_krf (t : State) (q : Nat) (f : Queue → Queue) : (modQueue t q f).krf = t.krf := rfl

theorem segmentTaken_krf (t : State) (q id : Nat) (left : List Packet) (last : Bool) (r : Resp) :
    (segmentTaken t q id left last r).krf = t.krf := by
  rw [segmentTaken, modCmd_krf, carry_krf, (deqCounted_hit _ last).krf, modQueue_krf]

theorem segmentTaken_serving {id : Nat} (h : Serving s q v y t) (hid : y.id = id) (left : List Packet) (last : Bool) (r : Resp) :
    Serving s q { v with packets := left } { y with reserved := 0, performed := true, resp := some r }
      (segmentTaken t q id left last r) := by
  have put : Serving s q { v with packets := left } y (modQueue t q fun v => { v with packets := left, charged := true }) :=
    h.putQueue ⟨rfl, h.data.opened, h.data.flushes, h.charged.symm⟩ h.charged
  have carried : Serving s q { v with packets := left } { y with reserved := 0 } (carry (deqCounted (modQueue t q fun v =>
    { v with packets := left, charged := true }) last) id) := (put.hit (deqCounted_hit _ last)).carry hid
  exact carried.modCmd hid fun y => { y with performed := true, resp := some r }

/-- A DEQ of a segment, up to the read of its sector. -/
theorem startDeq_segment {id : Nat} {pk : Packet} {ps : List Packet} {n : BitVec 32} {b : Nat} {rest : List (BitVec 32 × Nat)}
    (h : Finds t id y v) (hn : v.enable = true) (hp : bitOf v.deqPorts y.port.val = true) (hc : v.charged = true) (he : v.error = false)
    (hk : v.packets = pk :: ps) (hb : pk.sectors = (n, b) :: rest) : startDeq t id =
      let r := segmentResp pk b rest.isEmpty
      let u := segmentTaken t (qidOf y.addr) id (afterSegment pk ps rest) rest.isEmpty r
      chainRule (freeDead (killSector (deqRead u y n.toNat r) n.toNat) (qidOf y.addr)) (qidOf y.addr) n.toNat := by
  unfold segmentTaken afterSegment deqCounted segmentResp
  rw [startDeq, h.cmd]
  dsimp only
  rw [h.checked, h.queue, he, hn, hp, hk]
  dsimp only
  rw [hb]
  dsimp only
  rw [queueReady_charged hc]
  dsimp only
  rw [if_neg Bool.false_ne_true, if_neg (by decide), if_neg (by decide), if_neg (by decide)]

/-- The sector of a segment is read from its slot, and the DEQ is answered. -/
theorem deqRead_serving {x : Slotted} {lsa b : Nat} {z : Slot} {r : Resp} {y' : HostCmd} (hs : portOpen s x.port = true)
    (h : Serving s q v y t) (hy : y.origin = (acceptedCmd s x).origin) (hn : y.session = (acceptedCmd s x).session) (hid : y.id = y'.id)
    (hl : (regionAt s (lsaRegion lsa)).lost = false) (hz : slotAt t lsa = some z) (hh : z.holds = true)
    (hb : bitsOf r.result 48 9 = b) :
    Serving s q v (answeredCmd y { r with data := segmentData z.data b }) (deqRead t y' lsa r) := by
  rw [deqRead, h.moved.regionAt, hl, if_neg Bool.false_ne_true, probe_held hz hh]
  dsimp only
  rw [finishDeq, hb]
  exact (h.hit (hwAdd_hit _ _ _)).complete hs hy hn hid _

/-- A DEQ of a segment whose slot carries charge is carried out. -/
theorem startDeq_serving {x : Slotted} {pk : Packet} {ps : List Packet} {n : BitVec 32} {b : Nat} {rest : List (BitVec 32 × Nat)} {z : Slot}
    (hs : portOpen s x.port = true) (h : Serving s (qidOf x.addr) v (acceptedCmd s x) t) (k : Finds t s.nextCmd (acceptedCmd s x) v)
    (hn : v.enable = true) (hp : bitOf v.deqPorts x.port.val = true) (he : v.error = false)
    (hk : v.packets = pk :: ps) (hb : pk.sectors = (n, b) :: rest) (h512 : b < 512)
    (hl : (regionAt s (lsaRegion n.toNat)).lost = false) (hz : slotAt t n.toNat = some z) (hh : z.holds = true) :
    Serving s (qidOf x.addr) { v with packets := afterSegment pk ps rest }
      (answeredCmd (acceptedCmd s x) { segmentResp pk b rest.isEmpty with data := segmentData z.data b }) (startDeq t s.nextCmd) := by
  rw [startDeq_segment k hn hp h.charged he hk hb]
  have taken := segmentTaken_serving h (id := s.nextCmd) rfl (afterSegment pk ps rest) rest.isEmpty (segmentResp pk b rest.isEmpty)
  have slot : slotAt (segmentTaken t (qidOf x.addr) s.nextCmd (afterSegment pk ps rest) rest.isEmpty (segmentResp pk b rest.isEmpty)) n.toNat =
      some z := by
    rw [slotAt, segmentTaken_krf]
    exact hz
  have read := deqRead_serving (y' := acceptedCmd s x) (r := segmentResp pk b rest.isEmpty) hs taken rfl rfl rfl hl slot hh
    (bitsOf_segment pk.data pk.whole h512 pk.whole rest.isEmpty)
  exact ((read.releases (killSector_releases _ _)).releases (freeDead_releases _ _)).releases (chainRule_releases _ _ _)

end

theorem deq_segment {s : State} {p : HPort} (ho : portOpen s p = true) (c : HChan) (tag : BitVec 12) (addr : BitVec 40)
    (hg : ∀ w : Fin 3, (queueAt s (qidOf addr)).ecc[w] = .good) (he : (queueAt s (qidOf addr)).error = false)
    (hn : (queueAt s (qidOf addr)).enable = true) (hc : (queueAt s (qidOf addr)).charged = true)
    {pk : Packet} {ps : List Packet} {n : BitVec 32} {b : Nat} {rest : List (BitVec 32 × Nat)} {z : Slot}
    (hp : bitOf (queueAt s (qidOf addr)).deqPorts p.val = true) (hk : (queueAt s (qidOf addr)).packets = pk :: ps)
    (hb : pk.sectors = (n, b) :: rest) (h512 : b < 512) (hz : slotAt s n.toNat = some z) (hh : z.holds = true)
    (hl : (regionAt s (lsaRegion n.toNat)).lost = false) :
    ∃ t, exec (.deq p c tag 0 addr) s = .next t ∧ t.cmds = answeredBy s (slotted .deq p c tag 0 addr 0 0) true
        { segmentResp pk b rest.isEmpty with data := segmentData z.data b } ∧
      (queueAt t (qidOf addr)).packets = afterSegment pk ps rest := by
  obtain ⟨t, ran, cmds, data, -⟩ := (takes_deq ho c tag addr).serves (S := fun _ => True) fun H E P =>
    ⟨_, rfl, startDeq_serving ho (serving_took (x := slotted .deq p c tag 0 addr 0 0) hc H E P)
      (finds_took (x := slotted .deq p c tag 0 addr 0 0) hg H E P) hn hp he hk hb h512 hl hz hh, trivial⟩
  exact ⟨t, ran, cmds, data.packets⟩

end Sys2Proof.Machine
end

section
/-! Proofs of the port command family: ENQ into the last sector of the open packet. -/

namespace Sys2Proof.Machine

/-! ### ENQ (R126, R262) -/

/-- What counts an ENQ of k bytes. -/
def enqCounted (s : State) (k : Nat) (eop : Bool) : State :=
  let s := hwAdd (hwAdd s Reg.DBQ_ENQ_CMDS 1) Reg.DBQ_ENQ_BYTES k
  pmcCount (if eop then hwAdd s Reg.DBQ_ENQ_PKTS 1 else s) 0x600 none 1

theorem enqCounted_hit (s : State) (k : Nat) (eop : Bool) : Hit s (enqCounted s k eop) :=
  (((hwAdd_hit s _ _).trans (hwAdd_hit _ _ _)).trans (.ite (hwAdd_hit _ _ _) (.refl _))).trans (pmcCount_hit _ _ _ _)

/-- A queue whose packet p, of the stream o, has taken an ENQ, which ends it with `eop`. -/
def enqueued (v : Queue) (eop : Bool) (p : Packet) (o : Nat) (tail : Sector) : Queue :=
  { v with packets := if eop then v.packets ++ [p] else v.packets, opened := if eop then none else some (p, o)
           tail := if eop then 0 else tail, charged := true }

/-- An ENQ of k bytes leaves its queue so, and is counted and answered. -/
def enqAnswered (t : State) (q id k : Nat) (eop : Bool) (p : Packet) (o : Nat) (tail : Sector) : State :=
  freeDead (complete (carry (enqCounted (modQueue t q fun v => enqueued v eop p o tail) k eop) id) id (Resp.plain .ok 0)) q

/-- A packet with k bytes more in its last sector, which holds b and is n. -/
def grown (pk : Packet) (n : BitVec 32) (b k : Nat) : Packet :=
  { pk with length := pk.length + k, sectors := pk.sectors.dropLast ++ [(n, b + k)] }

/-- An ENQ continues the packet pk of the stream o, whose last sector n holds b bytes and takes all that it brings. -/
structure Continues (v : Queue) (y : HostCmd) (pk : Packet) (o : Nat) (n : BitVec 32) (b : Nat) : Prop where
  opened : v.opened = some (pk, o)
  last   : pk.sectors.getLast? = some (n, b)
  sop    : bitOf y.addr 17 = false
  brings : 0 < enqBytes y.addr
  fits   : b + enqBytes y.addr ≤ 256
  room   : b < 256

section
variable {t : State} {v : Queue} {y : HostCmd} {pk : Packet} {o : Nat} {n : BitVec 32} {b : Nat} (h : Continues v y pk o n b)
include h

theorem Continues.tailRoom_eq : tailRoom v = some (n, b) := by
  rw [tailRoom, h.opened]
  dsimp only
  rw [h.last]
  exact if_pos h.room

theorem Continues.enqSplit_eq : enqSplit v y = (enqBytes y.addr, 0) := by
  have all : min (enqBytes y.addr) (256 - b) = enqBytes y.addr := Nat.min_eq_left (by have := h.fits; omega)
  rw [enqSplit, h.sop, h.tailRoom_eq]
  dsimp only
  rw [all, Nat.sub_self]
  rfl

theorem Continues.landEnq_eq (hq : queueAt t (qidOf y.addr) = v) : landEnq t y none =
    let tail := placeBytes v.tail b y.data 0 (enqBytes y.addr)
    let u := enqAnswered (writeQueueSector t n.toNat tail) (qidOf y.addr) y.id (enqBytes y.addr) (bitOf y.addr 18)
      (grown pk n b (enqBytes y.addr)) o tail
    if bitOf y.addr 18 then runFlushes u (qidOf y.addr) else u := by
  have some_bytes : ¬ enqBytes y.addr = 0 := Nat.pos_iff_ne_zero.1 h.brings
  have written : ¬ (enqBytes y.addr = 0 ∨ false = true) := fun e => e.elim some_bytes nofun
  unfold landEnq enqAnswered enqCounted enqueued grown
  dsimp only
  rw [hq, h.enqSplit_eq, h.tailRoom_eq, h.opened, h.sop]
  dsimp only
  rw [if_neg some_bytes, if_neg some_bytes, if_neg written, h.last, Option.map_some, Option.toList_some, if_pos (rfl : 0 = 0)]

theorem Continues.enqCheck_none (he : v.error = false) (hn : v.enable = true) (hp : bitOf v.enqPorts y.port.val = true)
    (hr : (poolRegions t).isEmpty = false) (ho : y.stream = some o) : enqCheck t y v = none := by
  rw [enqCheck, he, hn, hp, hr, h.sop, h.opened, ho]
  simp

/-- The slot of the last sector and the descriptor carry charge already: the ENQ needs none. -/
theorem Continues.startEnq_eq {id : Nat} {z : Slot} (k : Finds t id y v) (hc : v.charged = true) (hd : enqCheck t y v = none)
    (hl : (regionAt t (lsaRegion n.toNat)).lost = false) (hz : slotAt t n.toNat = some z) (hh : z.holds = true)
    (hb : t.krf.bitmap.contains (lsaRegion n.toNat) = true) : startEnq t id = landEnq t y none := by
  have some_bytes : ¬ enqBytes y.addr = 0 := Nat.pos_iff_ne_zero.1 h.brings
  have need : slotNeed t n.toNat = 0 := by
    rw [slotNeed, hz, Option.any_some, Slot.holds_charged hh]
    rfl
  have ready : queueReady t y 0 [lsaRegion n.toNat] = (true, t) := queueReady_carried (List.forall_mem_singleton.2 hb)
  rw [startEnq, k.cmd]
  dsimp only
  rw [k.checked, k.queue, hd]
  dsimp only
  rw [h.enqSplit_eq, h.tailRoom_eq, h.sop, descNeed, descRegions, hc]
  simp only [ne_eq, not_true_eq_false, decide_false, Bool.false_and, Bool.false_eq_true, if_false, if_true, some_bytes, hl, or_false,
    Option.toList_none, List.filter_nil, List.append_nil, List.nil_append, List.map_cons, List.map_nil, need, List.sum_cons, List.sum_nil,
    Nat.add_zero, ready, Bool.not_true]
  rfl

end

theorem writeQueueSector_held {t : State} {lsa : Nat} {z : Slot} (hl : (regionAt t (lsaRegion lsa)).lost = false)
    (hz : slotAt t lsa = some z) (hh : z.holds = true) (d : Sector) : Written t (writeQueueSector t lsa d) ∧
    (slotAt (writeQueueSector t lsa d) lsa).map (·.data) = some d := by
  rw [writeQueueSector, hl, if_neg Bool.false_ne_true]
  obtain ⟨z', slot, data⟩ := (putSector_puts t lsa d (agedAtOnce t)).slot
  refine ⟨putSector_held hz hh d _, ?_⟩
  rw [slot, Option.map_some, data]

section
variable {s t : State} {q : Nat} {v : Queue} {y : HostCmd}

/-- The queue takes what an ENQ makes of it. -/
theorem enqueued_serving (h : Serving s q v y t) (eop : Bool) (p : Packet) (o : Nat) (tail : Sector) :
    Serving s q (enqueued v eop p o tail) y (modQueue t q fun v => enqueued v eop p o tail) := by
  have packets : (enqueued (queueAt t q) eop p o tail).packets = (enqueued v eop p o tail).packets := by
    rw [enqueued, enqueued, h.data.packets]
  exact h.putQueue ⟨packets, rfl, h.data.flushes, rfl⟩ rfl

theorem enqAnswered_serving {x : Slotted} (hs : portOpen s x.port = true) (h : Serving s q v (acceptedCmd s x) t) (k : Nat) (eop : Bool)
    (p : Packet) (o : Nat) (tail : Sector) : Serving s q (enqueued v eop p o tail) (answeredCmd (acceptedCmd s x) (Resp.plain .ok 0))
      (enqAnswered t q s.nextCmd k eop p o tail) ∧ (enqAnswered t q s.nextCmd k eop p o tail).krf = t.krf := by
  have counted := enqCounted_hit (modQueue t q fun v => enqueued v eop p o tail) k eop
  have carried := ((enqueued_serving h eop p o tail).hit counted).carry (id := s.nextCmd) rfl
  refine ⟨(carried.complete hs rfl rfl rfl _).releases (freeDead_releases _ q), ?_⟩
  rw [enqAnswered, freeDead_krf, carried.complete_krf hs rfl rfl (id := s.nextCmd) rfl, carry_krf, counted.krf, modQueue_krf]
end

section
variable {s t : State} {v : Queue} {x : Slotted} {pk : Packet} {o : Nat} {n : BitVec 32} {b : Nat} {z : Slot}

/-- An ENQ into the last sector of the open packet is carried out. -/
theorem landEnq_serving (hs : portOpen s x.port = true) (h : Serving s (qidOf x.addr) v (acceptedCmd s x) t)
    (c : Continues v (acceptedCmd s x) pk o n b) (hq : queueAt t (qidOf x.addr) = v) (hf : v.flushes = [])
    (hl : (regionAt t (lsaRegion n.toNat)).lost = false) (hz : slotAt t n.toNat = some z) (hh : z.holds = true) :
    Serving s (qidOf x.addr) (enqueued v (bitOf x.addr 18) (grown pk n b (enqBytes x.addr)) o (placeBytes v.tail b x.data 0 (enqBytes x.addr)))
      (answeredCmd (acceptedCmd s x) (Resp.plain .ok 0)) (landEnq t (acceptedCmd s x) none) ∧
    (slotAt (landEnq t (acceptedCmd s x) none) n.toNat).map (·.data) = some (placeBytes v.tail b x.data 0 (enqBytes x.addr)) := by
  obtain ⟨written, bytes⟩ := writeQueueSector_held hl hz hh (placeBytes v.tail b x.data 0 (enqBytes x.addr))
  obtain ⟨serving, krf⟩ := enqAnswered_serving hs (h.written written) (enqBytes x.addr) (bitOf x.addr 18)
    (grown pk n b (enqBytes x.addr)) o (placeBytes v.tail b x.data 0 (enqBytes x.addr))
  have landed : landEnq t (acceptedCmd s x) none = enqAnswered (writeQueueSector t n.toNat (placeBytes v.tail b x.data 0 (enqBytes x.addr)))
      (qidOf x.addr) s.nextCmd (enqBytes x.addr) (bitOf x.addr 18) (grown pk n b (enqBytes x.addr)) o
      (placeBytes v.tail b x.data 0 (enqBytes x.addr)) := by
    refine (c.landEnq_eq hq).trans ?_
    exact (congrArg (ite _ · _) (runFlushes_none (serving.data.flushes.trans hf))).trans (ite_self _)
  rw [landed]
  refine ⟨serving, ?_⟩
  rw [slotAt, krf]
  exact bytes

/-- An ENQ that continues its packet is carried out, and leaves the bytes in the packet's last sector. -/
theorem startEnq_serving (hs : portOpen s x.port = true) (h : Serving s (qidOf x.addr) v (acceptedCmd s x) t)
    (k : Finds t s.nextCmd (acceptedCmd s x) v) (c : Continues v (acceptedCmd s x) pk o n b) (hd : enqCheck t (acceptedCmd s x) v = none)
    (hf : v.flushes = []) (hl : (regionAt t (lsaRegion n.toNat)).lost = false) (hz : slotAt t n.toNat = some z) (hh : z.holds = true)
    (hb : t.krf.bitmap.contains (lsaRegion n.toNat) = true) :
    Serving s (qidOf x.addr) (enqueued v (bitOf x.addr 18) (grown pk n b (enqBytes x.addr)) o (placeBytes v.tail b x.data 0 (enqBytes x.addr)))
      (answeredCmd (acceptedCmd s x) (Resp.plain .ok 0)) (startEnq t s.nextCmd) ∧
    (slotAt (startEnq t s.nextCmd) n.toNat).map (·.data) = some (placeBytes v.tail b x.data 0 (enqBytes x.addr)) := by
  rw [c.startEnq_eq k h.charged hd hl hz hh hb]
  exact landEnq_serving hs h c k.queue hf hl hz hh
end

section
variable {s : State} {p : HPort} (ho : portOpen s p = true) (c : HChan) (tag : BitVec 12) (addr : BitVec 40)
include ho

theorem enq_continues {du : BitVec 3} (hd : du.toNat = (enqBytes addr + 63) / 64) (operand : Word64) (data : BitVec 2048)
    (hg : ∀ w : Fin 3, (queueAt s (qidOf addr)).ecc[w] = .good) (he : (queueAt s (qidOf addr)).error = false)
    (hn : (queueAt s (qidOf addr)).enable = true) (hc : (queueAt s (qidOf addr)).charged = true)
    (hp : bitOf (queueAt s (qidOf addr)).enqPorts p.val = true) (hr : (poolRegions s).isEmpty = false)
    {pk : Packet} {n : BitVec 32} {b : Nat} {z : Slot}
    (k : Continues (queueAt s (qidOf addr)) (acceptedCmd s (slotted .enq p c tag du addr operand data)) pk (streamOf p c) n b)
    (hf : (queueAt s (qidOf addr)).flushes = []) (hz : slotAt s n.toNat = some z) (hh : z.holds = true)
    (hl : (regionAt s (lsaRegion n.toNat)).lost = false) (hb : s.krf.bitmap.contains (lsaRegion n.toNat) = true) :
    ∃ t, exec (.enq p c tag du addr operand data) s = .next t ∧
      t.cmds = answeredBy s (slotted .enq p c tag du addr operand data) true (Resp.plain .ok 0) ∧
      SameData (enqueued (queueAt s (qidOf addr)) (bitOf addr 18) (grown pk n b (enqBytes addr)) (streamOf p c)
        (placeBytes (queueAt s (qidOf addr)).tail b data 0 (enqBytes addr))) (queueAt t (qidOf addr)) ∧
      (slotAt t n.toNat).map (·.data) = some (placeBytes (queueAt s (qidOf addr)).tail b data 0 (enqBytes addr)) := by
  have brings : 0 < enqBytes addr := k.brings
  have fits : b + enqBytes addr ≤ 256 := k.fits
  refine (takes_enq ho c tag addr hd (by omega) (by omega) operand data).serves (S := fun S =>
    (fget S n.toNat).map (·.data) = some (placeBytes (queueAt s (qidOf addr)).tail b data 0 (enqBytes addr))) fun H E P => ?_
  exact ⟨_, rfl, startEnq_serving ho (serving_took (x := slotted .enq p c tag du addr operand data) hc H E P)
    (finds_took (x := slotted .enq p c tag du addr operand data) hg H E P) k (k.enqCheck_none he hn hp hr rfl) hf hl hz hh hb⟩
end

/-- Settles O30: what a queue command answers (`startQstat_counts` and those after it), and what ENQ, DEQ and QFLUSH leave in their queue
(`startEnq_serving`, `startDeq_serving`, `startQflush_serving`). -/
theorem queue_commands : Obligations.queue_commands := by
  refine ⟨?answers, ?moves⟩
  case answers =>
    intro p c tag addr s ho q v hg
    refine ⟨qstat_answers ho c tag addr hg, deq_empty ho c tag addr hg, deq_error ho c tag addr hg, deq_disabled ho c tag addr hg,
      qflush_barred ho c tag addr hg, ?_⟩
    intro du operand data d hd h0 h256 x hx
    exact enq_refused ho c tag addr hg hd h0 h256 operand data hx
  case moves =>
    intro p c tag addr s ho q v hg he hn hc
    refine ⟨?enq, ?deq, qflush_discards ho c tag addr hg he hn hc⟩
    case enq =>
      intro du operand data pk n b y hd sop hp hr opened last hf brings fits room hz hh hl hb grown
      obtain ⟨t, ran, cmds, data, bytes⟩ := enq_continues ho c tag addr hd operand data hg he hn hc hp hr
        ⟨opened, last, sop, brings, fits, room⟩ hf hz hh hl hb
      exact ⟨t, ran, cmds, data.packets, data.opened, bytes⟩
    case deq =>
      intro pk ps n b rest y hp hk hb h512 hz hh hl
      exact deq_segment ho c tag addr hg he hn hc hp hk hb h512 hz hh hl

end Sys2Proof.Machine
end

section
/-! Proofs of the persistence family: the supply's pins and the end of a commit. -/

namespace Sys2Proof.Machine

/-! ### PWR_FAIL_N and VAON's power-on (R437, R441, R443) -/

section
variable {s : State}

theorem exec_vaonPowerOn (hv : s.seq.vaon = false) : exec .vaonPowerOn s =
    done (if s.seq.pwrFailN then startPowerUp (modSeq s fun q => { q with vaon := true, tsNs := 0 }) false
      else modSeq s fun q => { q with vaon := true, tsNs := 0 }) := if_neg (by simp [hv])

theorem exec_pwrFailNFall (s : State) : exec .pwrFailNFall s =
    done (if poweringUp s then takeDown (modSeq s fun q => { q with pwrFailN := false }) false
      else modSeq s fun q => { q with pwrFailN := false }) := rfl

theorem exec_pwrFailNRise (s : State) : exec .pwrFailNRise s =
    done (if s.seq.vaon ∧ s.seq.phase = .off ∧ s.seq.first then startPowerUp (modSeq s fun q => { q with pwrFailN := true }) false
      else modSeq s fun q => { q with pwrFailN := true }) := rfl

theorem exec_pwrFailRecognised (hp : s.seq.phase = .on) (hn : s.seq.pwrFailN = false) :
    exec .pwrFailRecognised s = done (powerFails (if coreUp s then nmi s 1 else s) .pwrFail) := if_pos ⟨hp, by simp [hn]⟩

theorem exec_powerUpRestartTimer (hv : s.seq.vaon = true) (hp : s.seq.phase = .off) (hn : s.seq.pwrFailN = true) :
    exec .powerUpRestartTimer s = done (startPowerUp s false) := if_pos ⟨hv, hp, hn⟩
end

/-! ### What a commit area leaves alone (R159, R163) -/

/-- Two states with the same Tailstock, cells of the medium and keys. -/
structure Enduring (s t : State) : Prop where
  seq   : t.seq = s.seq
  cells : t.med.cells = s.med.cells
  keys  : t.sealing.keys = s.sealing.keys

section
variable {s t u : State}

theorem Enduring.refl (s : State) : Enduring s s := ⟨rfl, rfl, rfl⟩

theorem Enduring.trans (h : Enduring s t) (k : Enduring t u) : Enduring s u :=
  ⟨k.seq.trans h.seq, k.cells.trans h.cells, k.keys.trans h.keys⟩

theorem Enduring.ite {c : Prop} [Decidable c] (h : Enduring s t) (k : Enduring s u) : Enduring s (if c then t else u) := by
  split <;> assumption

theorem Enduring.foldl {γ : Type} {f : State → γ → State} (hf : ∀ s a, Enduring s (f s a)) (l : List γ) (s : State) :
    Enduring s (l.foldl f s) :=
  List.foldlRecOn l f (.refl s) fun _ h a _ => h.trans (hf _ a)
end

theorem countSeal_enduring (s : State) (ch n : Nat) : Enduring s (countSeal s ch n) := by
  have adds (s : State) (o : Nat) : Enduring s (hwAdd s o n) := ⟨rfl, rfl, rfl⟩
  have counts (s : State) (sel : Nat) : Enduring s (pmcCount s sel (some ch) n) := by
    obtain ⟨_, _, _, e⟩ := pmcCount_frame s sel (some ch) n
    rw [e]
    exact ⟨rfl, rfl, rfl⟩
  exact (((adds _ _).trans (adds _ _)).trans (counts _ _)).trans (counts _ _)

/-- An area is written beside the user's sectors: its programs are counted and no cell changes. -/
theorem putArea_enduring (s : State) (a : CommitArea) : Enduring s (putArea s a) := by
  have taken (n : Nat) : Enduring s (takeCounts s n) := ⟨rfl, rfl, rfl⟩
  have landed (s : State) (d n : Nat) : Enduring s (domPrograms s d 16 n) := ⟨rfl, rfl, rfl⟩
  have stored (s : State) (k : Krf) (m : FMap Region) : Enduring s { s with krf := k, regions := m } := ⟨rfl, rfl, rfl⟩
  have queues {t : State} (h : Enduring s t) (sealedQueues : Bool) :
      Enduring s (if sealedQueues then modDbq t fun d => { d with saved := d.queues } else t) := .ite (h.trans ⟨rfl, rfl, rfl⟩) h
  exact queues (((taken _).trans (.foldl (fun s ch => (landed s (3904 + ch) _).trans (countSeal_enduring _ ch _)) _ _)).trans
    (stored _ _ _)) _

theorem tearCommit_enduring (s : State) (p : CommitProgress) : Enduring s (tearCommit s p) := .ite (.refl s) (putArea_enduring _ _)

/-! ### The loss of VAON (R163, R444) -/

/-- A reset that a power-on reset merges with is a power-on reset (R445). -/
theorem resetTaken_powerOn (s : State) (causes : BitVec 6) : (resetTaken s { kind := .powerOn, causes := causes }).kind = .powerOn := by
  have deepest (k : ResetKind) : deeperReset k .powerOn = .powerOn := by cases k <;> rfl
  unfold resetTaken
  split <;> split <;> simp only [mergeAsk, deepest]

/-- What the loss of VAON leaves: nothing that is volatile, the pins' levels, and what the medium and the keys hold. -/
theorem vaonPowerLoss_leaves {s : State} (hv : s.seq.vaon = true) (p : CommitProgress) : ∃ t, exec (.vaonPowerLoss p) s = .next t ∧
    t.seq = { Seq.initial with pg := s.seq.pg, pwrFailN := s.seq.pwrFailN, resetN := s.seq.resetN } ∧ t.regs = [] ∧
    t.cmds = [] ∧ t.krf.slots = [] ∧ t.cnt.entries = [] ∧ t.time = 0 ∧ GlbReset t.glb ∧ t.med.cells = s.med.cells ∧
    t.sealing.keys = s.sealing.keys ∧ t.glb.held = { kind := .powerOn, causes := 1 } := by
  obtain ⟨seq, cells, keys⟩ := tearCommit_enduring s p
  refine ⟨_, if_neg (by simp [hv]), ?pins, rfl, rfl, rfl, rfl, ?time, ⟨rfl, rfl, rfl, rfl⟩, cells, keys, rfl⟩
  case pins => rw [← seq]; rfl
  case time => exact if_pos (resetTaken_powerOn _ 1)

/-! ### The end of a commit, and of the wait for it (R159, R161, R162, R441) -/

section
variable {s : State}

theorem exec_commitDone {why : CommitWhy} {charge : Nat} (us : BitVec 32) (hr : s.krf.running = some (why, charge))
    (hq : commitQuiet s = true) : exec (.commitDone us) s =
      done (afterCommit (settle { completeArea s us with krf := { (completeArea s us).krf with running := none, done := true } }) why) := by
  show execCommitDone us s = _
  rw [execCommitDone, hr]
  exact if_neg (by simp [hq])

theorem exec_commitToExpiry (hw : s.seq.commitWait = true) : exec .commitToExpiry s = done (waitEnd (latchFault s 5 0 false)) := if_pos hw

/-- With PWR_FAIL_N high again the rails stay up (R162). -/
theorem waitEnd_stays (hl : s.seq.toLatched = false) (hd : s.seq.downAsked = false) (hp : s.seq.pwrFailN = true) :
    waitEnd s = modSeq s fun q => { q with commitWait := false } := by
  rw [waitEnd, if_neg (by simp [hl]), if_neg (by simp [hd, hp])]

/-- With PWR_FAIL_N low they go down (R441). -/
theorem waitEnd_down (hl : s.seq.toLatched = false) (hp : s.seq.pwrFailN = false) : waitEnd s = takeDown s false := by
  rw [waitEnd, if_neg (by simp [hl]), if_pos (by simp [hp])]
end

/-- Settles O9: each pin's command is its guard and one shared operation, a commit that is cut off writes its area alone, and the end of
the wait goes by the pin. -/
theorem supply_pins_and_commit_end : Obligations.supply_pins_and_commit_end := by
  refine ⟨fun s => ⟨exec_vaonPowerOn, fun hu => ?fall, fun hu => ?fallInPowerUp, fun hv hp hf => ?first, fun hf => ?later,
    exec_powerUpRestartTimer, fun hp hn hc => ?recognised, vaonPowerLoss_leaves⟩,
    fun s => ⟨?commitDone, fun hw => ⟨exec_commitToExpiry hw, ?stays, waitEnd_down⟩⟩⟩
  case fall => rw [exec_pwrFailNFall, if_neg (by simp [hu])]; rfl
  case fallInPowerUp => rw [exec_pwrFailNFall, if_pos hu]; rfl
  case first => rw [exec_pwrFailNRise, if_pos ⟨hv, hp, hf⟩]; rfl
  case later => rw [exec_pwrFailNRise, if_neg (by simp [hf])]; rfl
  case recognised => rw [exec_pwrFailRecognised hp hn, if_pos hc]; rfl
  case commitDone => exact fun why charge us hr hq => exec_commitDone us hr hq
  case stays =>
    intro hl hd hp
    rw [waitEnd_stays hl hd hp]
    exact ⟨rfl, rfl, rfl⟩

end Sys2Proof.Machine
end

section
/-! Proofs of the persistence family: what makes a slot drain, and what its program leaves of it. -/

namespace Sys2Proof.Machine

/-! ### An event changes no register but the recorder's (R385, R390, R393) -/

/-- The registers that recording an event may change. -/
def recorderRegs : List Nat := [Reg.EVR_LOST, Reg.EVR_INT_STATUS, Reg.EVR_RECORDED, Reg.EVR_SUPPRESSED]

theorem hwAt_hwPut_ne {m : FMap Word64} (h : fwf m = true) {o i : Nat} (v : Word64) (hi : i ≠ o) : hwAt (hwPut m o v) i = hwAt m i :=
  fgetD_fputD_ne h _ _ _ hi

section
variable {o : Nat} (ho : o ∉ recorderRegs)
include ho

theorem hwAt_recLost (r : Rec) (h : fwf r.2 = true) : hwAt (recLost r).2 o = hwAt r.2 o := by
  simp only [recorderRegs, List.mem_cons, not_or] at ho
  obtain ⟨lost, cause, _⟩ := ho
  exact (hwAt_hwPut_ne (fwf_hwPut h) _ cause).trans (hwAt_hwPut_ne h _ lost)

theorem hwAt_recStore (irq : Nat) (r : Rec) (e : EvtEntry) (h : fwf r.2 = true) : hwAt (recStore irq r e).2 o = hwAt r.2 o := by
  unfold recStore
  dsimp only
  split
  · exact hwAt_recLost ho r h
  · simp only [recorderRegs, List.mem_cons, not_or] at ho
    obtain ⟨_, cause, recorded, _⟩ := ho
    exact (hwAt_hwPut_ne (fwf_hwPut h) _ cause).trans (hwAt_hwPut_ne h _ recorded)

theorem hwAt_recClose (irq : Nat) (time : BitVec 64) (on : BitVec 16) (code sev : Nat) (r : Rec) (h : fwf r.2 = true) :
    hwAt (recClose irq time on code sev r).2 o = hwAt r.2 o := by
  unfold recClose
  split
  · rfl
  · dsimp only
    split
    · rfl
    · exact hwAt_recStore ho _ (_, _) _ h

theorem hwAt_recLimited (irq : Nat) (r : Rec) (e : EvtEntry) (h : fwf r.2 = true) : hwAt (recLimited irq r e).2 o = hwAt r.2 o := by
  have store (q : Rec) (hq : fwf q.2 = true) (v : Evr) : hwAt (recStore irq (v, q.2) e).2 o = hwAt q.2 o :=
    hwAt_recStore ho _ (v, q.2) _ hq
  unfold recLimited
  dsimp only
  split
  · exact store r h _
  · split
    · exact store r h _
    · have closed := recClose_wf irq e.time e.powerOn e.code.toNat e.sev.toNat r h
      split
      · exact (store _ closed _).trans (hwAt_recClose ho _ _ _ _ _ r h)
      · split
        · exact store r h _
        · simp only [recorderRegs, List.mem_cons, not_or] at ho
          obtain ⟨_, _, _, suppressed, _⟩ := ho
          exact hwAt_hwPut_ne h _ suppressed

theorem hwAt_recEvent (irq : Nat) (r : Rec) (e : EvtEntry) (h : fwf r.2 = true) : hwAt (recEvent irq r e).2 o = hwAt r.2 o := by
  unfold recEvent
  split
  · exact hwAt_recLimited ho irq r e h
  · split
    · rfl
    · exact hwAt_recLost ho r h

theorem hwGet_evt {s : State} (h : fwf s.hw = true) (ev : Nat × Nat) (inst data : Nat) : hwGet (evt s ev inst data) o = hwGet s o :=
  hwAt_recEvent ho _ (_, _) _ h
end

/-- A cause that is raised stands. -/
theorem hwGet_raise {s : State} (h : fwf s.hw = true) (o : Nat) {k : Nat} (hk : k < 64) :
    (hwGet (raise s o k) o).getLsbD k = true := by
  rw [raise, hwOr, hwGet_hwSet _ h, BitVec.getLsbD_or, testBit_flag hk]
  simp

/-! ### LIMIT (R157) -/

/-- A field that was written reads back. -/
theorem bitsOf_putBits {n : Nat} (x : BitVec n) {lo w v : Nat} (hn : lo + w ≤ n) (hv : v < 2 ^ w) :
    bitsOf (putBits x lo w v) lo w = v := by
  refine Nat.eq_of_testBit_eq fun i => ?_
  rw [bitsOf, Nat.testBit_mod_two_pow, Nat.testBit_div_two_pow, ← BitVec.getLsbD, putBits, BitVec.getLsbD_or, BitVec.getLsbD_and,
    BitVec.getLsbD_not, getLsbD_maskOf, BitVec.getLsbD_ofNat, Nat.mod_eq_of_lt hv, Nat.testBit_mul_two_pow]
  rcases Nat.lt_or_ge i w with low | high
  · have within : lo + i < n := by omega
    simp [low, within, Nat.add_comm]
  · simp [Nat.not_lt.2 high, Nat.testBit_lt_two_pow (hv.trans_le (Nat.pow_le_pow_right (by decide) high))]

section
variable {s : State}

/-- The greatest LIMIT there may be. -/
def limitMax (s : State) : Nat := bitsOf (hwGet s Reg.KRF_DIRTY_MAX) 0 11

theorem clampLimit_eq (n : Nat) : clampLimit s n = if n < 64 then 64 else if n ≤ limitMax s then n else limitMax s := by
  rw [clampLimit, Nat.min_def, limitMax]

theorem clampLimit_lt (s : State) {n : Nat} (h : n < 2 ^ 11) : clampLimit s n < 2 ^ 11 := by
  unfold clampLimit
  split <;> omega

theorem clampLimit_same {n : Nat} (low : 64 ≤ n) (high : n ≤ limitMax s) : clampLimit s n = n := by
  rw [clampLimit_eq, if_neg (by omega), if_pos high]

theorem clampLimit_moves {n : Nat} (h : n < 64 ∨ limitMax s < n) : clampLimit s n ≠ n := by
  rw [clampLimit_eq]
  split
  · omega
  · rw [if_neg (by omega)]
    omega

/-- LIMIT as it is stored, within its bounds. -/
def limitStored (s : State) (n : Nat) : State :=
  setCfg s Reg.KRF_DIRTY_LIMIT (putBits (cfg s Reg.KRF_DIRTY_LIMIT) 0 11 (clampLimit s n))

theorem writeLimit_kept {n : Nat} (h : clampLimit s n = n) : writeLimit s n = limitStored s n := if_pos h

theorem writeLimit_clamped {n : Nat} (h : clampLimit s n ≠ n) :
    writeLimit s n = evt (raise (limitStored s n) Reg.KRF_INT_STATUS 4) Ev.KRF_LIMIT_CLAMP noInst 0 := if_neg h

theorem writeLimit_regs (s : State) (n : Nat) : (writeLimit s n).regs = (limitStored s n).regs := by
  by_cases h : clampLimit s n = n
  · rw [writeLimit_kept h]
  · rw [writeLimit_clamped h, evt_regs, raise_regs]

theorem limit_writeLimit (hc : canonical s = true) {n : Nat} (hn : n < 2 ^ 11) :
    cfgFld (writeLimit s n) Reg.KRF_DIRTY_LIMIT 0 11 = clampLimit s n := by
  obtain ⟨regs, -⟩ := canonical_iff.1 hc
  rw [cfgFld_congr (writeLimit_regs s n), cfgFld, limitStored, cfg_setCfg _ regs,
    bitsOf_putBits _ (by decide) (clampLimit_lt s hn)]

/-- A LIMIT that was brought within its bounds is reported. -/
theorem cause_writeLimit (hc : canonical s = true) {n : Nat} (h : clampLimit s n ≠ n) :
    (hwGet (writeLimit s n) Reg.KRF_INT_STATUS).getLsbD 4 = true := by
  obtain ⟨-, hw, -⟩ := canonical_iff.1 hc
  rw [writeLimit_clamped h, hwGet_evt (by decide) (fwf_hwPut hw)]
  exact hwGet_raise hw _ (by decide)
end

/-! ### AGE_US, and the end of a drain (R152, R153, R250) -/

theorem exec_drainAgeTimer {s : State} {lsa : BitVec 32} {x : Slot} (hx : slotAt s lsa.toNat = some x) (hd : x.state = .dirty) :
    exec (.drainAgeTimer lsa) s = done (putSlot s lsa.toNat { x with aged := true }) := by
  show execDrainAgeTimer lsa s = _
  rw [execDrainAgeTimer, hx]
  exact if_pos hd

section
variable {s : State} {lsa : Nat} {x : Slot} (hx : slotAt s lsa = some x)
include hx

/-- A slot that was written since its snapshot is DIRTY again. -/
theorem settleSlot_rewritten (hs : x.state = .draining) (hr : x.rewritten = true) (marker : Bool) : settleSlot s lsa marker =
    takeStamp (putSlot s lsa { x with state := .dirty, snapshot := none, snapWriters := [], rewritten := false, stamp := nextStamp s,
                                      aged := x.aged || agedAtOnce s }) := by
  simp only [settleSlot, hx, hs, hr, if_true]

/-- A slot that was not is CLEAN. -/
theorem settleSlot_clean (hs : x.state = .draining) (hr : x.rewritten = false) (marker : Bool) : settleSlot s lsa marker =
    takeStamp (putSlot s lsa { x with state := .clean, snapshot := none, snapWriters := [], used := nextStamp s }) := by
  simp only [settleSlot, hx, hs, hr, Bool.false_eq_true, if_false]

theorem settleSlot_poisoned (hs : x.state = .poisoned) (marker : Bool) :
    settleSlot s lsa marker = if marker then freeSlot s lsa else s := by
  simp only [settleSlot, hx, hs]

/-- A slot in no drain stays as it is. -/
theorem settleSlot_rests (hd : x.state ≠ .draining) (hp : x.state ≠ .poisoned) (marker : Bool) : settleSlot s lsa marker = s := by
  cases hs : x.state with
  | draining => exact absurd hs hd
  | poisoned => exact absurd hs hp
  | fetching | clean | dirty => simp only [settleSlot, hx, hs]

theorem settleSlot_drained (hs : x.state = .draining) (marker : Bool) : ∃ y, slotAt (settleSlot s lsa marker) lsa = some y ∧
    y.data = x.data ∧ y.snapshot = none ∧ y.state = (if x.rewritten then .dirty else .clean) ∧ y.writers = x.writers ∧
    y.snapWriters = [] ∧ (x.rewritten = true → y.aged = (x.aged || agedAtOnce s)) := by
  cases hr : x.rewritten with
  | true =>
    rw [settleSlot_rewritten hx hs hr]
    exact ⟨_, slotAt_putSlot s lsa _, rfl, rfl, rfl, rfl, rfl, fun _ => rfl⟩
  | false =>
    rw [settleSlot_clean hx hs hr]
    exact ⟨_, slotAt_putSlot s lsa _, rfl, rfl, rfl, rfl, rfl, nofun⟩

theorem slotAt_settleSlot_ne {k : Nat} (hk : k ≠ lsa) (marker : Bool) (hw : fwf s.krf.slots = true) :
    slotAt (settleSlot s lsa marker) k = slotAt s k := by
  cases hs : x.state with
  | draining =>
    cases hr : x.rewritten with
    | true => rw [settleSlot_rewritten hx hs hr]; exact slotAt_putSlot_ne s _ hk
    | false => rw [settleSlot_clean hx hs hr]; exact slotAt_putSlot_ne s _ hk
  | poisoned =>
    rw [settleSlot_poisoned hx hs]
    cases marker with
    | true => exact fget_fdel_ne hw hk
    | false => rfl
  | fetching | clean | dirty => rw [settleSlot_rests hx (by simp [hs]) (by simp [hs])]
end

/-- Settles O33: AGE_US marks its slot, LIMIT is clamped as it is stored, and a drain's end writes its own slot alone. -/
theorem kerf_buffer_drains : Obligations.kerf_buffer_drains := by
  refine ⟨fun s => ⟨fun lsa x hx hd => exec_drainAgeTimer hx hd, fun hu => if_pos hu, fun n hu hc => ?limit⟩,
    fun s lsa x hx => ⟨settleSlot_drained hx, fun hs hw => ?marker, fun k hk marker hw => slotAt_settleSlot_ne hx hk marker hw⟩⟩
  case limit =>
    refine ⟨if_pos hu, (limit_writeLimit hc n.isLt).trans (clampLimit_eq n.toNat), fun low high => ?_,
      fun moved => cause_writeLimit hc (clampLimit_moves moved)⟩
    rw [writeLimit_kept (clampLimit_same low high)]
    exact ⟨rfl, rfl⟩
  case marker =>
    rw [settleSlot_poisoned hx hs, settleSlot_poisoned hx hs]
    exact ⟨fget_fdel_self hw lsa, rfl⟩

end Sys2Proof.Machine
end

section
/-! Proofs of the persistence family: the end of a program, and the scrub. -/

namespace Sys2Proof.Machine

/-! ### The end of a program (R153, R207, R216 to R218) -/

section
variable {s : State} {q : MedReq}

theorem exec_mediumProgramDone {req : Nat} (hq : reqAt s req = some q) (hc : coreUp s = true) (hr : q.state = .running)
    (hp : q.program = true) (hb : blankAnswers s q = true) (out : ProgramOutcome) :
    exec (.mediumProgramDone req out) s = done (settle (programDone s q out)) := by
  show execMediumProgramDone req out s = _
  rw [execMediumProgramDone, hq]
  exact if_pos ⟨hc, hr, hp, hb⟩

/-- The place that a program goes to whose two attempts have failed, if there is one: the spare of a block's slot, another spare for a
retirement, and for any other program the spare that its slot is retired to (R216, R217). -/
def sparePlace (s : State) (q : MedReq) : Bool × State :=
  match q.purpose with
  | .retire =>
    match takeSectorSpare s q.ch.val with
    | some (_, t) => (true, t)
    | none => (false, raise s (Reg.MCH_CAUSE q.ch.val) 7)
  | .block b => blockSpare s q b
  | _ => retireSlot s q.ch.val (levelledSlot s q.lsa.toNat)

theorem programFailed_eq (s : State) (q : MedReq) : programFailed s q =
    if (sparePlace s q).1 then (if programsRun s then (sparePlace s q).2 else restartOp (sparePlace s q).2 q)
    else if q.fails = 0 then modReq (sparePlace s q).2 q.id fun q => { q with fails := 1 }
    else giveUp (endReq (sparePlace s q).2 q) q := by
  unfold programFailed sparePlace
  cases q.purpose <;> rfl

theorem sparePlace_retireSlot (hr : q.purpose ≠ .retire) (hb : ∀ b, q.purpose ≠ .block b) :
    sparePlace s q = retireSlot s q.ch.val (levelledSlot s q.lsa.toNat) := by
  unfold sparePlace
  cases hp : q.purpose with
  | retire => exact absurd hp hr
  | block b => exact absurd hp (hb b)
  | _ => rfl

theorem sparePlace_block {b : Nat} (hb : q.purpose = .block b) : sparePlace s q = blockSpare s q b := by
  unfold sparePlace
  rw [hb]

theorem sparePlace_retire (hr : q.purpose = .retire) {k : Nat} {u : State} (hk : takeSectorSpare s q.ch.val = some (k, u)) :
    sparePlace s q = (true, u) := by
  unfold sparePlace
  rw [hr]
  dsimp only
  rw [hk]

theorem sparePlace_retire_none (hr : q.purpose = .retire) (hk : takeSectorSpare s q.ch.val = none) :
    sparePlace s q = (false, raise s (Reg.MCH_CAUSE q.ch.val) 7) := by
  unfold sparePlace
  rw [hr]
  dsimp only
  rw [hk]
end

/-! ### The scrub (R208, R210) -/

section
variable {s : State} {ch : Chan} {lsa : BitVec 32}

theorem exec_scrubStep (hr : stepRuns s lsa.toNat = true) (he : cfgBit s (Reg.BLK_CTRL (ch.val / 8)) 0 = true)
    (hn : scrubNext s ch.val lsa.toNat = true) (hs : scrubRuns s ch.val lsa.toNat = true) (out : ReadOutcome) (last : Bool) :
    exec (.scrubStep ch lsa out last) s =
      let t := scrubSector s lsa.toNat out
      done (settle (if last then endCycle t ch.val else passScrub t ch.val lsa.toNat)) := if_neg (by simp [hr, he, hn, hs])

/-- A sector that is not the next one is not taken. -/
theorem exec_scrubStep_elsewhere (hn : scrubNext s ch.val lsa.toNat = false) (out : ReadOutcome) (last : Bool) :
    exec (.scrubStep ch lsa out last) s = done s := if_pos (by simp [hn])
end

section
variable {s : State} {lsa : Nat}

theorem scrubSector_skipped (h : scrubSkips (slotCheck s lsa) lsa = true) (out : ReadOutcome) : scrubSector s lsa out = slotCheck s lsa :=
  if_pos h

section
variable (h : scrubSkips (slotCheck s lsa) lsa = false) (out : ReadOutcome)
include h

theorem scrubSector_dirty {x : Slot} (hx : slotAt (stepGrant (slotCheck s lsa) .scrub 2 [lsa]) lsa = some x) (hs : x.state = .dirty) :
    scrubSector s lsa out = stepProgram (beginDrain (stepGrant (slotCheck s lsa) .scrub 2 [lsa]) lsa) lsa
      (decodeNow (slotCheck s lsa) lsa out).programs fun u => drainVerified u lsa (some x.data) := by
  unfold scrubSector
  dsimp only
  rw [if_neg (by simp [h]), hx]
  dsimp only
  rw [hs]

theorem scrubSector_poisoned {x : Slot} (hx : slotAt (stepGrant (slotCheck s lsa) .scrub 2 [lsa]) lsa = some x)
    (hs : x.state = .poisoned) : scrubSector s lsa out = stepProgram (stepGrant (slotCheck s lsa) .scrub 2 [lsa]) lsa
      (decodeNow (slotCheck s lsa) lsa out).programs fun u => drainVerified u lsa none := by
  unfold scrubSector
  dsimp only
  rw [if_neg (by simp [h]), hx]
  dsimp only
  rw [hs]

theorem scrubSector_medium (hx : slotAt (stepGrant (slotCheck s lsa) .scrub 2 [lsa]) lsa = none) :
    scrubSector s lsa out = scrubMedium (stepGrant (slotCheck s lsa) .scrub 2 [lsa]) lsa (decodeNow (slotCheck s lsa) lsa out) := by
  unfold scrubSector
  dsimp only
  rw [if_neg (by simp [h]), hx]
end
end

/-- A cycle's end leaves its channel without its guard and its weak sectors (R203, R206). -/
theorem chanAt_endCycle {s : State} (h : fwf s.med.channels = true) (ch : Nat) : chanAt (endCycle s ch) ch =
    { chanAt s ch with guard := false, weak := [], scrubAt := 0, cycleOn := s.glb.powerOns, cycleAt := s.time.toNat / 65536000000 } :=
  fgetD_fputD_self h _ _ _

/-- Settles O36: a failed program goes where `sparePlace` says, and a scrub step is its guard and `scrubSector`, by what the slot holds. -/
theorem programs_and_scrub : Obligations.programs_and_scrub := by
  refine ⟨fun req s q hq hc hr hp hb => ⟨exec_mediumProgramDone hq hc hr hp hb .verified,
    exec_mediumProgramDone hq hc hr hp hb .failed, (sparePlace s q).1, (sparePlace s q).2, programFailed_eq s q,
    sparePlace_retireSlot, fun b => sparePlace_block, fun h => ⟨fun k u => sparePlace_retire h, sparePlace_retire_none h⟩⟩,
    fun ch lsa out s hr he => ⟨fun hn hs => ?taken, fun hn last => exec_scrubStep_elsewhere hn out last,
      fun h => scrubSector_skipped h out, fun h => ?sector, fun t ht => ?cycle⟩⟩
  case taken => exact ⟨exec_scrubStep hr he hn hs out false, exec_scrubStep hr he hn hs out true⟩
  case sector =>
    exact ⟨fun x => scrubSector_dirty h out, fun x => scrubSector_poisoned h out, scrubSector_medium h out⟩
  case cycle =>
    rw [chanAt_endCycle ht]
    exact ⟨rfl, rfl⟩

end Sys2Proof.Machine
end

section
/-! Proofs of the bounded-read family: a step for each of some keys. -/

namespace Sys2Proof.Machine

/-- Steps that each change what is read at their own key change it once at every key listed, where a second change adds nothing. -/
theorem read_foldl {α γ : Type} {P : State → Prop} {read : State → Nat → α} {step : State → γ → State} {key : γ → Nat} {g : α → α}
    (hP : ∀ s j, P s → P (step s j))
    (hstep : ∀ s j k, P s → read (step s j) k = if k = key j then g (read s k) else read s k) (hg : ∀ a, g (g a) = g a)
    (l : List γ) {s : State} (h : P s) (k : Nat) :
    P (l.foldl step s) ∧ read (l.foldl step s) k = if k ∈ l.map key then g (read s k) else read s k := by
  induction l generalizing s with
  | nil => exact ⟨h, rfl⟩
  | cons j l ih =>
    obtain ⟨hkept, hread⟩ := ih (hP s j h)
    refine ⟨hkept, hread.trans ?_⟩
    rw [hstep s j k h]
    by_cases hj : k = key j
    · simp [hj, hg]
    · simp [hj]

end Sys2Proof.Machine
end

section
/-! Proofs of the bounded-read family: one rail of a power-up, and one of a down-sequence. -/

namespace Sys2Proof.Machine

section
variable {s : State} {c : Rail}

/-! ### One channel of a power-up (R180, R437, R438) -/

theorem exec_seqRailDelayExpiry (h : s.seq.step = .delay c) : exec (.seqRailDelayExpiry c) s =
    done (modSeq s fun q => { q with enabled := c :: q.enabled, step := .ramp c }) := if_pos h

/-- The line caches are ready once SEQ0 is good. -/
theorem exec_pgDeglitchedGood (h : s.seq.step = .ramp c) (hp : bitOf s.seq.pg c.val = true) : exec (.pgDeglitchedGood c) s =
    done { s with seq := { s.seq with step := .settle c, good := s.seq.good ||| railBit c, transitions := 0 },
                  rdp := { s.rdp with ready := s.rdp.ready || c == 0 } } := by
  refine (if_pos ⟨h, hp⟩).trans (congrArg done ?_)
  by_cases hc : c = 0
  · simp [hc, modSeq]
  · rw [if_neg hc, beq_eq_false_iff_ne.2 hc, Bool.or_false]
    rfl

theorem exec_settleWindowEnd (h : s.seq.step = .settle c) (ht : s.seq.transitions ≤ 8) :
    exec (.settleWindowEnd c) s = done (settleEnds s) := if_pos ⟨h, by simpa [unstable] using ht⟩

theorem settleEnds_next {d : Rail} {rest : List Rail} (h : s.seq.todo = d :: rest) :
    settleEnds s = { s with seq := { s.seq with step := .delay d, todo := rest } } := by
  simp [settleEnds, nextRail, modSeq, h]

/-- With no channel left to enable the phase has nothing in hand. -/
theorem nextRail_nil (h : s.seq.todo = []) : nextRail s [] = { s with seq := { s.seq with step := .idle } } := by
  rw [← h]
  simp [nextRail, modSeq, h]

theorem settleEnds_phaseA (h : s.seq.todo = []) (hp : s.seq.phase = .phaseA) :
    settleEnds s = beginPhaseB { s with seq := { s.seq with step := .idle } } := by
  unfold settleEnds
  rw [h, nextRail_nil h]
  simp [hp]

theorem settleEnds_complete (h : s.seq.todo = []) (hp : s.seq.phase ≠ .phaseA) :
    settleEnds s = powerUpComplete { s with seq := { s.seq with step := .idle } } := by
  unfold settleEnds
  rw [h, nextRail_nil h]
  simp [hp]

/-! ### The rails down (R433, R439, R441, R442) -/

/-- Which rails are still enabled a down-sequence takes from its list alone. -/
theorem downFrom_enabled (q : Seq) (l cs : List Rail) : downFrom { q with enabled := l } cs = downFrom q cs := by
  induction cs generalizing q with
  | nil => rfl
  | cons c cs ih =>
    simp only [downFrom]
    rw [ih { q with good := q.good &&& ~~~ BitVec.ofNat 12 (2 ^ c.val) }]

theorem nextDown_withdraws {d : Rail} {rest : List Rail} (h : s.seq.enabled = d :: rest) (hl : bitOf s.seq.lostDown d.val = false) :
    nextDown s = { s with seq := { s.seq with enabled := rest, step := .discharge d, good := s.seq.good &&& ~~~ railBit d } } := by
  simp [nextDown, modSeq, h, downFrom, hl, railBit]

/-- A rail that was lost before is not waited for. -/
theorem nextDown_passes {d : Rail} {rest : List Rail} (h : s.seq.enabled = d :: rest) (hl : bitOf s.seq.lostDown d.val = true) :
    nextDown s = nextDown { s with seq := { s.seq with enabled := rest, good := s.seq.good &&& ~~~ railBit d } } := by
  have hd : downFrom s.seq s.seq.enabled = downFrom { s.seq with enabled := rest, good := s.seq.good &&& ~~~ railBit d } rest := by
    rw [h, downFrom, if_pos hl]
    exact (downFrom_enabled { s.seq with good := s.seq.good &&& ~~~ railBit d } rest rest).symm
  exact congrArg (fun q : Seq => { s with seq := q }) hd

theorem nextDown_ends (h : s.seq.enabled = []) : nextDown s = { s with seq := { s.seq with
    phase := if s.seq.toLatched then .latched else .off, step := .idle, toLatched := false, downAsked := false, todo := [],
    lostDown := 0 } } := by
  simp [nextDown, modSeq, h, downFrom]

/-- The sense of a board rail is SEQ_PG low (R433). -/
theorem exec_dischargeDone_good (hb : 9 ≤ c.val) (hp : bitOf s.seq.pg c.val = true) : exec (.dischargeDone c) s = done s :=
  if_neg fun hs => by simp [dischargeSense, hp, Nat.not_lt.2 hb] at hs

section
variable (h : s.seq.step = .discharge c)
include h

theorem exec_dischargeDone (hd : c.val < 9 ∨ bitOf s.seq.pg c.val = false) : exec (.dischargeDone c) s = done (nextDown s) :=
  if_pos ⟨h, by simpa [dischargeSense] using hd⟩

theorem exec_dischargeTimeout : exec (.dischargeTimeout c) s = done (nextDown (latchFault s 6 c.val false)) := if_pos h

theorem exec_dischargeDone_passes (hd : c.val < 9 ∨ bitOf s.seq.pg c.val = false) {d : Rail} {rest : List Rail}
    (he : s.seq.enabled = d :: rest) (hl : bitOf s.seq.lostDown d.val = true) : exec (.dischargeDone c) s =
      exec (.dischargeDone c) { s with seq := { s.seq with enabled := rest, good := s.seq.good &&& ~~~ railBit d } } := by
  rw [exec_dischargeDone h hd, nextDown_passes he hl]
  exact (exec_dischargeDone (s := { s with seq := { s.seq with enabled := rest, good := s.seq.good &&& ~~~ railBit d } }) h hd).symm
end
end

/-- Settles O7: a power-up takes its channels from the front of `todo`, a down-sequence from that of `enabled`. -/
theorem rails_go_up_and_down : Obligations.rails_go_up_and_down := by
  refine ⟨fun c s => ⟨exec_seqRailDelayExpiry, exec_pgDeglitchedGood, fun h ht => ?settled⟩, fun c s h =>
    ⟨fun hd => ?discharged, exec_dischargeDone_good, exec_dischargeTimeout h⟩⟩
  case settled =>
    rw [exec_settleWindowEnd h ht]
    exact ⟨fun d rest he => congrArg done (settleEnds_next he), fun he hp => congrArg done (settleEnds_phaseA he hp),
      fun he hp => congrArg done (settleEnds_complete he hp)⟩
  case discharged =>
    refine ⟨fun d rest he hl => ?_, fun d rest => exec_dischargeDone_passes h hd, fun he => ?_⟩
    · rw [exec_dischargeDone h hd, nextDown_withdraws he hl]; rfl
    · rw [exec_dischargeDone h hd, nextDown_ends he]; rfl

end Sys2Proof.Machine
end

section
/-! Proofs of the bounded-read family: grants by rank, cut-in, and ranks that are committed. -/

namespace Sys2Proof.Machine

/-! ### Grants (R181, R222) -/

section
variable {ch : Chan} {s : State} (hc : coreUp s = true) (hm : medAwake s = true)
include hc hm

theorem exec_arbiterGrant_lasts (hh : (chanAt (grantRule (wakeBanks s ch.val) ch.val) ch.val).arb.holder ≠ none) :
    exec (.arbiterGrant ch) s = done (settle (extendGrant (grantRule (wakeBanks s ch.val) ch.val) ch.val)) :=
  (if_neg (by simp [hc, hm])).trans (if_pos hh)

variable (hh : (chanAt (grantRule (wakeBanks s ch.val) ch.val) ch.val).arb.holder = none)
include hh

theorem exec_arbiterGrant_decides (ht : turnOf (grantRule (wakeBanks s ch.val) ch.val) ch.val = true) :
    exec (.arbiterGrant ch) s = done (settle (grantStep (grantRule (wakeBanks s ch.val) ch.val) ch.val)) :=
  ((if_neg (by simp [hc, hm])).trans (if_neg (not_not.2 hh))).trans (if_pos ht)

theorem exec_arbiterGrant_waits (ht : turnOf (grantRule (wakeBanks s ch.val) ch.val) ch.val = false) :
    exec (.arbiterGrant ch) s = done (settle (grantRule (wakeBanks s ch.val) ch.val)) :=
  ((if_neg (by simp [hc, hm])).trans (if_neg (not_not.2 hh))).trans (if_neg (by simp [ht]))
end

section
variable {s : State} {ch : Nat}

theorem mem_class_all (c : Class) : c ∈ Class.all := by cases c <;> decide

/-- The rotation of a rank turns its classes, and leaves none out. -/
theorem mem_rotation {rank : Nat} {c : Class} : c ∈ rotation s ch rank ↔ classRank s ch c = rank := by
  unfold rotation
  dsimp only
  split
  · simp [mem_class_all]
  · next l _ =>
    simp only [List.mem_append, List.mem_filter, mem_class_all, true_and, decide_eq_true_eq, beq_iff_eq]
    have := Nat.lt_or_ge l.num c.num
    tauto

theorem classRank_lt (c : Class) : classRank s ch c < 8 := Nat.mod_lt _ (by decide)

/-- The class picked has a request, and no class with a request stands before it. -/
theorem pickClass_some {c : Class} (h : pickClass s ch = some c) :
    hasRequest s ch c = true ∧ ∀ d : Class, hasRequest s ch d = true → classRank s ch c ≤ classRank s ch d := by
  obtain ⟨before, rank, after, hl, hf, hb⟩ := List.findSome?_eq_some_iff.1 h
  have hc : classRank s ch c = rank := mem_rotation.1 (List.mem_of_find?_eq_some hf)
  refine ⟨List.find?_some hf, fun d hd => ?_⟩
  have hsorted : (before ++ rank :: after).Pairwise (· < ·) := hl ▸ List.pairwise_lt_range
  have hmem : classRank s ch d ∈ before ++ rank :: after := hl ▸ List.mem_range.2 (classRank_lt d)
  rcases List.mem_append.1 hmem with hd' | hd'
  · exact absurd hd (List.find?_eq_none.1 (hb _ hd') d (mem_rotation.2 rfl))
  · rcases List.mem_cons.1 hd' with he | ha
    · exact (hc.trans he.symm).le
    · exact hc ▸ (List.rel_of_pairwise_cons (List.pairwise_append.1 hsorted).2.1 ha).le

theorem pickClass_none (h : pickClass s ch = none) (d : Class) : hasRequest s ch d = false :=
  Bool.eq_false_iff.2 (List.find?_eq_none.1 (List.findSome?_eq_none_iff.1 h _ (List.mem_range.2 (classRank_lt d))) d (mem_rotation.2 rfl))
end

/-! ### Cut-in (R184) -/

section
variable {s t : State} {ch : Chan} {q : MedReq}

/-- A rank-0 request cuts in, in the state that holds it: as it stands, or with the drain that is raised for it. -/
theorem exec_cutIn (hq : cutter t ch.val = some q)
    (ht : t = s ∨ ∃ lsa, cutter s ch.val = none ∧ cutDrain s ch.val = some lsa ∧ t = addReq s .drain true lsa .drain)
    (hc : coreUp t = true) (hm : medAwake t = true) (he : cfgBit t Reg.ARB_CTRL 0 = true) (hn : cutNeeded t ch.val q = true) :
    exec (.cutIn ch) s = done (settle (grantRule (runOp (pmcCount (hwAdd
      ((bankHolders t ch.val (bankOf t q)).foldl giveWay t) Reg.ARB_CUTINS 1) 0x410 (some ch.val) 1) q) ch.val)) := by
  have hall : ¬ (!coreUp t ∨ !medAwake t ∨ !cfgBit t Reg.ARB_CTRL 0 ∨ !cutNeeded t ch.val q) := by simp [hc, hm, he, hn]
  show execCutIn ch s = _
  unfold execCutIn
  rcases ht with rfl | ⟨lsa, hnone, hdrain, rfl⟩
  · simp only [hq]
    exact if_neg hall
  · simp only [hnone, hdrain, hq]
    exact if_neg hall

theorem cutter_some {ch : Nat} (h : cutter t ch = some q) :
    classRank t ch q.cls = 0 ∧ ∀ o ∈ bankHolders t ch (bankOf t q), classRank t ch o.cls ≠ 0 := by
  have hp := List.find?_some h
  simp only [Bool.and_eq_true, beq_iff_eq, List.all_eq_true, bne_iff_ne] at hp
  exact ⟨hp.1.1.1, hp.2⟩
end

/-! ### Ranks (R183, R195) -/

section
variable {s : State} {k : Nat}

theorem chanAt_modChan (h : fwf s.med.channels = true) (j k : Nat) (f : Channel → Channel) :
    chanAt (modChan s j f) k = if k = j then f (chanAt s k) else chanAt s k := by
  split
  · next e => rw [e]; exact fgetD_fputD_self h _ _ _
  · next e => exact fgetD_fputD_ne h _ _ _ e

/-- The channels and the registers are canonical, and `ARB_RANK_ACTIVE` shows the ranks given. -/
structure RanksShown (a : Word64) (s : State) : Prop where
  channels : fwf s.med.channels = true
  hw       : fwf s.hw = true
  active   : hwGet s Reg.ARB_RANK_ACTIVE = a

namespace RanksShown
variable {a : Word64} (h : RanksShown a s)
include h

theorem hwSet {o : Nat} (ho : Reg.ARB_RANK_ACTIVE ≠ o) (v : Word64) : RanksShown a (hwSet s o v) :=
  ⟨h.channels, fwf_hwPut h.hw, (hwGet_hwSet_ne s h.hw v ho).trans h.active⟩

theorem modChan (j : Nat) (f : Channel → Channel) : RanksShown a (modChan s j f) := ⟨fwf_fputD h.channels, h.hw, h.active⟩

theorem noteDepth (j : Nat) : RanksShown a (noteDepth s j) := by
  unfold Machine.noteDepth
  dsimp only
  split
  · exact h.hwSet (by decide) _
  · exact h

theorem applyRanks (j : Nat) : RanksShown a (applyRanks s j) := by
  have hdone (f : Channel → Channel) := (h.modChan j f).noteDepth j
  unfold Machine.applyRanks
  dsimp only
  split
  · exact h
  · split
    · exact hdone _
    · exact ((hdone _).hwSet (by decide) _).hwSet (by decide) _
end RanksShown

/-- A channel that has new ranks to apply ranks by them. -/
def ranksApplied (a : Word64) (c : Channel) : Channel :=
  if c.arb.pending then { c with arb := { c.arb with ranks := a, pending := false } } else c

/-- A channel has new ranks to apply. -/
def ranksPending (c : Channel) : Channel := { c with arb := { c.arb with pending := true } }

theorem ranksApplied_pending (a : Word64) (c : Channel) : (ranksApplied a c).arb.pending = false := by
  unfold ranksApplied
  split
  · rfl
  · next h => simpa using h

theorem ranksApplied_ranks (a : Word64) (c : Channel) : (ranksApplied a c).arb.ranks = if c.arb.pending then a else c.arb.ranks := by
  unfold ranksApplied
  split <;> rfl

theorem ranksApplied_twice (a : Word64) (c : Channel) : ranksApplied a (ranksApplied a c) = ranksApplied a c :=
  if_neg (by simp [ranksApplied_pending])

theorem noteDepth_med (s : State) (j : Nat) : (noteDepth s j).med = s.med := by
  unfold noteDepth
  dsimp only
  split <;> rfl

theorem chanAt_applyRanks {a : Word64} (h : RanksShown a s) (j k : Nat) :
    chanAt (applyRanks s j) k = if k = j then ranksApplied a (chanAt s k) else chanAt s k := by
  by_cases hp : (chanAt s j).arb.pending = true
  · have hmed : (applyRanks s j).med = (modChan s j fun c => { c with arb := { c.arb with
        ranks := hwGet s Reg.ARB_RANK_ACTIVE, pending := false } }).med := by
      unfold applyRanks
      rw [if_neg (by simp [hp])]
      dsimp only
      split
      · exact noteDepth_med _ _
      · exact noteDepth_med _ _
    rw [chanAt_congr hmed, chanAt_modChan h.channels, h.active]
    split
    · next e => rw [e, ranksApplied, if_pos hp]
    · rfl
  · have hsame : applyRanks s j = s := if_pos (by simp [hp])
    rw [hsame]
    split
    · next e => rw [e, ranksApplied, if_neg hp]
    · rfl

theorem applyRanks_all {a : Word64} (h : RanksShown a s) (hk : k < 64) :
    chanAt ((List.range 64).foldl applyRanks s) k = ranksApplied a (chanAt s k) :=
  (read_foldl (key := id) (fun _ j h => h.applyRanks j) (fun _ j k h => chanAt_applyRanks h j k) (ranksApplied_twice a) _ h k).2.trans
    (if_pos (by simpa using hk))

/-- GO shows what it captures, and gives every channel its new ranks to apply. -/
theorem commitRanks_all (hm : fwf s.med.channels = true) (hw : fwf s.hw = true) (hk : k < 64) :
    RanksShown (cfg s Reg.ARB_RANK_SHADOW &&& 0x777777777777) (commitRanks s) ∧
      chanAt (commitRanks s) k = ranksPending (chanAt s k) := by
  have hset : RanksShown (cfg s Reg.ARB_RANK_SHADOW &&& 0x777777777777)
      (hwSet s Reg.ARB_RANK_ACTIVE (cfg s Reg.ARB_RANK_SHADOW &&& 0x777777777777)) := ⟨hm, fwf_hwPut hw, hwGet_hwSet s hw _ _⟩
  have hall := read_foldl (key := id) (step := fun s j => modChan s j ranksPending) (fun _ j h => h.modChan j ranksPending)
    (fun _ j k h => chanAt_modChan h.channels j k ranksPending) (fun _ => rfl) (List.range 64) hset k
  exact ⟨hall.1, hall.2.trans (if_pos (by simpa using hk))⟩
end

/-- Settles O34: the ranks are gone through from 0, and a class is found in the rotation of its own rank; a commit and its deadline change
each channel once. -/
theorem arbitration : Obligations.arbitration := by
  refine ⟨⟨fun ch s hc hm => ⟨exec_arbiterGrant_decides hc hm, exec_arbiterGrant_waits hc hm, exec_arbiterGrant_lasts hc hm⟩,
    fun ch s c => pickClass_some, fun ch s => pickClass_none⟩,
    fun ch s t q hq ht hc hm he hn => ⟨exec_cutIn hq ht hc hm he hn, cutter_some hq⟩,
    fun s hc => if_pos hc, fun s => rfl, fun s k hm hw hk => ?ranks⟩
  case ranks =>
    obtain ⟨hshown, hpending⟩ := commitRanks_all hm hw hk
    rw [applyRanks_all hshown hk, applyRanks_all ⟨hm, hw, rfl⟩ hk, hpending]
    exact ⟨hshown.active, ranksApplied_ranks _ _, rfl, rfl, ranksApplied_pending _ _, ranksApplied_ranks _ _⟩

end Sys2Proof.Machine
end

section
/-! Proofs of the bounded-read family: the end of an array read, cache locks and invalidations. -/

namespace Sys2Proof.Machine

/-! ### The end of an array read (R205) -/

theorem exec_mediumReadDone {s : State} {q : MedReq} {req : Nat} (hq : reqAt s req = some q) (hc : coreUp s = true)
    (hr : q.state = .running) (hp : q.program = false) (hf : q.purpose ≠ .fetch) (hb : blankAnswers s q = true) (out : ReadOutcome) :
    exec (.mediumReadDone req out) s = done (settle (readDone s q out)) := by
  show execMediumReadDone req out s = _
  rw [execMediumReadDone, hq]
  exact if_pos ⟨hc, hr, by rw [hp]; rfl, hf, hb⟩

/-! ### Locks (R172, R173) -/

section
variable {s : State}

theorem lockGo_busy {lsa op : Nat} (h : s.rdp.lock ≠ none) : lockGo s lsa op = s :=
  if_pos (Option.isSome_iff_ne_none.2 h)

section
variable {lsa : Nat}

theorem region_serves_lock (hu : (regionAt s (lsaRegion lsa)).use = .general ∨ (regionAt s (lsaRegion lsa)).use = .table)
    (hl : (regionAt s (lsaRegion lsa)).lost = false) :
    ¬ (((regionAt s (lsaRegion lsa)).use ≠ .general ∧ (regionAt s (lsaRegion lsa)).use ≠ .table) ∨
      (regionAt s (lsaRegion lsa)).lost = true) := by
  rw [hl]
  rcases hu with hu | hu <;> simp [hu]

variable (pin : Bool)

theorem startLock_outside (h : 0xF0000000 ≤ lsa) : startLock s lsa pin = endLock s lsa 5 := if_pos h

section
variable (h : lsa < 0xF0000000)
include h

theorem startLock_wrong_region (hr : ((regionAt s (lsaRegion lsa)).use ≠ .general ∧ (regionAt s (lsaRegion lsa)).use ≠ .table) ∨
    (regionAt s (lsaRegion lsa)).lost = true) : startLock s lsa pin = endLock s lsa 3 :=
  (if_neg (Nat.not_le.2 h)).trans (if_pos hr)

variable (hu : (regionAt s (lsaRegion lsa)).use = .general ∨ (regionAt s (lsaRegion lsa)).use = .table)
  (hl : (regionAt s (lsaRegion lsa)).lost = false)
include hu hl

theorem startLock_marked (hm : isMarked s lsa = true) : startLock s lsa pin = endLock s lsa 4 :=
  ((if_neg (Nat.not_le.2 h)).trans (if_neg (region_serves_lock hu hl))).trans (if_pos hm)

/-- A channel that holds its 32 takes no more, whether or not the sector is cached. -/
theorem startLock_full (hm : isMarked s lsa = false) (hw : 32 ≤ heldWays s (lsaChannel lsa)) :
    startLock s lsa pin = endLock s lsa 2 := by
  unfold startLock
  dsimp only
  rw [if_neg (Nat.not_le.2 h), if_neg (region_serves_lock hu hl), if_neg (by simp [hm])]
  cases hf : cacheFind s lsa with
  | some e => simp [hf, hw]
  | none => cases sideFind s lsa <;> simp [hf, hw, Nat.not_lt.2 hw]
end

theorem unlockEntry_missing (h : cacheFind s lsa = none) : unlockEntry s lsa = endLock s lsa 1 := by
  rw [unlockEntry, h]
end

/-! ### The side buffers under a step for each (R175, R179) -/

theorem wasted_rdp (s : State) (ch n : Nat) : (wasted s ch n).rdp = s.rdp := by
  unfold wasted
  split
  · rfl
  · rw [pmcCount_rdp, hwAdd_rdp]

theorem fget_eq_none {α : Type} {m : FMap α} {k : Nat} (h : k ∉ m.map (·.1)) : fget m k = none := by
  induction m with
  | nil => rfl
  | cons e m ih =>
    obtain ⟨j, v⟩ := e
    simp only [List.map_cons, List.mem_cons, not_or] at h
    rw [fget, if_neg h.1]
    split
    · rfl
    · exact ih h.2

theorem sideOf_of_not_listed {ch : Nat} (h : ch ∉ s.rdp.side.map (·.1)) : sideOf s ch = [] := by
  rw [sideOf, fgetD, fget_eq_none h]; rfl

section
variable {f : State → Nat × List SideEntry → State} {p : SideEntry → Bool}
  (hf : ∀ s e, (f s e).rdp = (putSide s e.1 ((sideOf s e.1).filter p)).rdp)
include hf

theorem sideStep_cache (l : FMap (List SideEntry)) (s : State) : (l.foldl f s).rdp.cache = s.rdp.cache :=
  List.foldlRecOn (motive := fun t => t.rdp.cache = s.rdp.cache) l f rfl fun t h e _ => by rw [hf]; exact h

theorem sideOf_sideStep {s : State} (h : fwf s.rdp.side = true) (e : Nat × List SideEntry) (ch : Nat) :
    sideOf (f s e) ch = if ch = e.1 then (sideOf s ch).filter p else sideOf s ch := by
  have hside : (f s e).rdp.side = fputD s.rdp.side e.1 [] ((sideOf s e.1).filter p) := by rw [hf]; rfl
  rw [sideOf, hside]
  split
  · next he => rw [he]; exact fgetD_fputD_self h _ _ _
  · next he => exact fgetD_fputD_ne h _ _ _ he

/-- Every channel keeps the entries that meet `p`: one that is not listed has none. -/
theorem sideOf_foldl_side (h : fwf s.rdp.side = true) (ch : Nat) :
    sideOf (s.rdp.side.foldl f s) ch = (sideOf s ch).filter p := by
  have hkept (s : State) (e : Nat × List SideEntry) (h : fwf s.rdp.side = true) : fwf (f s e).rdp.side = true := by
    rw [hf]; exact fwf_fputD h
  rw [(read_foldl (g := List.filter p) hkept (fun _ e ch h => sideOf_sideStep hf h e ch) (by simp) _ h ch).2]
  split
  · rfl
  · next hn => rw [sideOf_of_not_listed hn]; rfl
end

/-! ### Range invalidation (R175) -/

/-- The ordinary and pinned lines of a range are dropped, and the locked ones where they are meant too. -/
def dropLines (s : State) (lo hi : Nat) (locked : Bool) : State :=
  modRdp s fun r => { r with cache := r.cache.filter fun e =>
    !((decide (lo ≤ e.2.lsa.toNat) && decide (e.2.lsa.toNat ≤ hi)) && (locked || decide (e.2.hold ≠ .locked))) }

/-- The side-buffer entries of a range are dropped in one channel. -/
def dropSide (lo hi : Nat) (s : State) (e : Nat × List SideEntry) : State :=
  let keep := (sideOf s e.1).filter fun x => !(decide (lo ≤ x.lsa.toNat) && decide (x.lsa.toNat ≤ hi))
  wasted (putSide s e.1 keep) e.1 ((sideOf s e.1).length - keep.length)

theorem invalidate_eq (s : State) (lo hi : Nat) (locked : Bool) :
    invalidate s lo hi locked = s.rdp.side.foldl (dropSide lo hi) (dropLines s lo hi locked) := rfl

theorem dropSide_rdp (lo hi : Nat) (s : State) (e : Nat × List SideEntry) : (dropSide lo hi s e).rdp =
    (putSide s e.1 ((sideOf s e.1).filter fun x => !(decide (lo ≤ x.lsa.toNat) && decide (x.lsa.toNat ≤ hi)))).rdp :=
  wasted_rdp _ _ _

theorem mem_cache_invalidate (s : State) (lo hi : Nat) (locked : Bool) (e : Nat × CacheEntry) :
    e ∈ (invalidate s lo hi locked).rdp.cache ↔
      e ∈ s.rdp.cache ∧ (e.2.lsa.toNat < lo ∨ hi < e.2.lsa.toNat ∨ (locked = false ∧ e.2.hold = .locked)) := by
  rw [invalidate_eq, sideStep_cache (dropSide_rdp lo hi)]
  refine List.mem_filter.trans (and_congr_right fun _ => ?_)
  simp only [Bool.not_eq_true', Bool.and_eq_false_iff, Bool.or_eq_false_iff, decide_eq_false_iff_not, not_le, not_not, or_assoc]

theorem mem_sideOf_invalidate {s : State} (h : fwf s.rdp.side = true) (lo hi : Nat) (locked : Bool) (ch : Nat) (e : SideEntry) :
    e ∈ sideOf (invalidate s lo hi locked) ch ↔ e ∈ sideOf s ch ∧ (e.lsa.toNat < lo ∨ hi < e.lsa.toNat) := by
  have hside := sideOf_foldl_side (dropSide_rdp lo hi) (s := dropLines s lo hi locked) h ch
  rw [invalidate_eq]
  refine (iff_of_eq (congrArg (e ∈ ·) hside)).trans (List.mem_filter.trans (and_congr_right fun _ => ?_))
  simp only [Bool.not_eq_true', Bool.and_eq_false_iff, decide_eq_false_iff_not, not_le]

theorem exec_invalidationDone_last {i : Inval} (h : s.rdp.invals = [i]) : exec .invalidationDone s =
    done (raise (modRdp s fun r => { r with invals := [] }) Reg.RDP_INT_STATUS 0) := by
  show execInvalidationDone s = _
  rw [execInvalidationDone, h]

theorem exec_invalidationDone_next {i j : Inval} {more : List Inval} (h : s.rdp.invals = i :: j :: more) : exec .invalidationDone s =
    done (dropRange (raise (modRdp s fun r => { r with invals := j :: more }) Reg.RDP_INT_STATUS 0) j) := by
  show execInvalidationDone s = _
  rw [execInvalidationDone, h]

/-! ### CACHE_EN (R179, R194) -/

theorem setCacheEn_step_rdp (s : State) (e : Nat × List SideEntry) :
    (wasted (putSide s e.1 []) e.1 e.2.length).rdp = (putSide s e.1 ((sideOf s e.1).filter fun _ => false)).rdp := by
  rw [wasted_rdp, List.filter_false]

theorem sideOf_setCacheEn_off (h : fwf s.rdp.side = true) (ch : Nat) : sideOf (setCacheEn s false) ch = [] := by
  refine (sideOf_foldl_side (s := modRdp (setCfg s _ _) _) setCacheEn_step_rdp ?_ ch).trans (List.filter_false _)
  exact h

theorem mem_cache_setCacheEn (on : Bool) (e : Nat × CacheEntry) :
    e ∈ (setCacheEn s on).rdp.cache ↔ e ∈ s.rdp.cache ∧ (on = true ∨ e.2.hold ≠ .ordinary) := by
  cases on with
  | true => simp [setCacheEn]
  | false =>
    have hcache : (setCacheEn s false).rdp.cache = s.rdp.cache.filter fun e => decide (e.2.hold ≠ .ordinary) :=
      sideStep_cache setCacheEn_step_rdp _ _
    simp [hcache]
end

/-- Settles O35: the locks by the order of their tests; an invalidation and CACHE_EN filter the caches, channel by channel. -/
theorem reads_of_the_medium_and_caches : Obligations.reads_of_the_medium_and_caches := by
  refine ⟨fun req out s q hq hc hr hp hf hb => exec_mediumReadDone hq hc hr hp hf hb out,
    fun lsa s hc => ⟨if_pos hc, if_pos hc, if_pos hc, fun h op => lockGo_busy h, fun pin => ⟨startLock_outside pin,
      startLock_wrong_region pin, startLock_marked pin, startLock_full pin⟩, unlockEntry_missing⟩,
    fun locked s hc => if_pos hc, fun s i rest h => ⟨?last, ?next⟩, mem_cache_invalidate,
    fun s lo hi locked ch e h => mem_sideOf_invalidate h lo hi locked ch e, fun s ch h => sideOf_setCacheEn_off h ch,
    fun on s hc => ⟨if_pos hc, mem_cache_setCacheEn on⟩⟩
  case last =>
    rintro rfl
    exact exec_invalidationDone_last h
  case next =>
    rintro j more rfl
    exact exec_invalidationDone_next h

end Sys2Proof.Machine
end

section
/-! Proofs of the bounded-read family: the level of the steady rest. -/

namespace Sys2Proof.Machine

/-! ### The level of the steady rest (R186) -/

section
variable {s : State}

/-- Some input of the steady rest is at its threshold of a kind. -/
def restReached (s : State) (f : Nat × Nat × Nat → Nat) : Prop := ∃ k, k < 4 ∧ f (restThresholds s k) ≤ (restInputs s).getD k 0

theorem firstInput_eq_none {f : Nat × Nat × Nat → Nat} : firstInput s (fun x t => decide (f t ≤ x)) = none ↔ ¬ restReached s f := by
  simp [firstInput, restReached]

theorem firstInput_of_reached {f : Nat × Nat × Nat → Nat} (h : restReached s f) :
    ∃ k, firstInput s (fun x t => decide (f t ≤ x)) = some k :=
  Option.ne_none_iff_exists'.1 fun hn => firstInput_eq_none.1 hn h

theorem restLevel_hard (hh : restReached s (·.2.1)) : (restLevel s).1 = .hard := by
  obtain ⟨k, hk⟩ := firstInput_of_reached hh
  simp only [restLevel, hk]

section
variable (hh : ¬ restReached s (·.2.1))
include hh

theorem restLevel_soft (hs : restReached s (·.1)) : (restLevel s).1 = .soft := by
  obtain ⟨k, hk⟩ := firstInput_of_reached hs
  simp only [restLevel, firstInput_eq_none.2 hh, hk]

variable (hs : ¬ restReached s (·.1))
include hs

theorem restLevel_clear (hc : ¬ restReached s (·.2.2)) : (restLevel s).1 = .none := by
  simp only [restLevel, firstInput_eq_none.2 hh, firstInput_eq_none.2 hs, firstInput_eq_none.2 hc, Option.isNone_none, if_true]

theorem restLevel_between (hc : restReached s (·.2.2)) : (restLevel s).1 = if s.med.level = .hard then .soft else s.med.level := by
  obtain ⟨k, hk⟩ := firstInput_of_reached hc
  simp only [restLevel, firstInput_eq_none.2 hh, firstInput_eq_none.2 hs, hk, Option.isNone_some, Bool.false_eq_true, if_false]
  exact apply_ite Prod.fst _ _ _
end

theorem exec_steadyRestEval (h : coreUp s = true) :
    exec .steadyRestEval s = done (settle (changeLevel s (restLevel s).1 (restLevel s).2)) := if_pos h
end

/-- Settles O37: the thresholds are looked at in the order HARD, SOFT, CLEAR. -/
theorem steady_rest_level : Obligations.steady_rest_level := fun _ =>
  ⟨exec_steadyRestEval, restLevel_hard, restLevel_soft, restLevel_clear, restLevel_between⟩

end Sys2Proof.Machine
end

section
/-! Proofs of the bounded-read family: gap steps. -/

namespace Sys2Proof.Machine

/-! ### Levelling (R213 to R215) -/

section
variable {s : State} {d : Fin 3968}

theorem exec_gapStep (h : gapReady s d.val = true) (out : ReadOutcome) :
    exec (.gapStep d out) s = done (settle (gapStep s d.val out)) := if_pos h

theorem exec_gapStep_not_ready (h : gapReady s d.val = false) (out : ReadOutcome) : exec (.gapStep d out) s = done s :=
  if_neg (by simp [h])
end

/-- Place of a logical index among the sectors of its domain, which turn as the gap comes round; the gap is not counted (R213). -/
def levelPlace (v : Domain) (i : Nat) : Nat :=
  ((Config.permute v.key ⟨i % 1048576, Nat.mod_lt _ (by decide)⟩).val + v.start) % domainSectors

section
variable {v : Domain}

theorem levelSlot_eq (v : Domain) (i : Nat) :
    levelSlot v i = if v.gap ≤ levelPlace v i then levelPlace v i + 1 else levelPlace v i := rfl

theorem levelPlace_lt (v : Domain) (i : Nat) : levelPlace v i < domainSectors := Nat.mod_lt _ (by decide)

/-- The permutation of a domain and its start part the sectors. -/
theorem levelPlace_injOn {i j : Nat} (hi : i < domainSectors) (hj : j < domainSectors) (h : levelPlace v i = levelPlace v j) : i = j := by
  have hp := Nat.ModEq.eq_of_lt_of_lt (Nat.ModEq.add_right_cancel' v.start h) (Fin.is_lt _) (Fin.is_lt _)
  have hm := Fin.mk.inj ((Config.permute v.key).injective (Fin.ext hp))
  rwa [Nat.mod_eq_of_lt hi, Nat.mod_eq_of_lt hj] at hm

/-- A gap step turns the sectors on by one as the gap starts a new round, and not otherwise. -/
theorem levelPlace_gapMoved (v : Domain) (i : Nat) :
    levelPlace (gapMoved v) i = if v.gap = 0 then (levelPlace v i + 1) % domainSectors else levelPlace v i := by
  unfold levelPlace gapMoved
  split <;> simp [Nat.add_assoc]

theorem levelSlot_injOn {i j : Nat} (hi : i < domainSectors) (hj : j < domainSectors) (h : levelSlot v i = levelSlot v j) : i = j := by
  rw [levelSlot_eq, levelSlot_eq] at h
  exact levelPlace_injOn (v := v) hi hj (by split at h <;> split at h <;> omega)

theorem levelSlot_ne_gap (v : Domain) (i : Nat) : levelSlot v i ≠ v.gap := by
  rw [levelSlot_eq]
  split <;> omega

theorem levelSlot_le (v : Domain) (i : Nat) : levelSlot v i ≤ domainSectors := by
  have := levelPlace_lt v i
  rw [levelSlot_eq]
  split <;> omega

/-- The sector in the gap's neighbour goes into the gap, and no other one moves: where the gap starts a new round, the turn of the
sectors makes up for the new place of the gap. -/
theorem levelSlot_gapMoved (v : Domain) (i : Nat) :
    levelSlot (gapMoved v) i = if levelSlot v i = gapSource v then v.gap else levelSlot v i := by
  have hp := levelPlace_lt v i
  have hg : (gapMoved v).gap = gapSource v := rfl
  rw [levelSlot_eq, levelPlace_gapMoved, hg, levelSlot_eq v]
  unfold gapSource
  by_cases h0 : v.gap = 0
  · rw [if_pos h0, if_pos h0, h0]
    rcases Nat.lt_or_ge (levelPlace v i + 1) domainSectors with hlt | hge
    · rw [Nat.mod_eq_of_lt hlt]
      simp only [Nat.zero_le, if_true]
      rw [if_neg (by omega), if_neg (by omega)]
    · have : levelPlace v i + 1 = domainSectors := by omega
      simp [this]
  · rw [if_neg h0, if_neg h0]
    split_ifs <;> omega

theorem gapMoved_gap_le (h : v.gap ≤ domainSectors) : (gapMoved v).gap ≤ domainSectors := by
  show gapSource v ≤ _
  unfold gapSource
  split <;> omega

theorem gapMoved_start_lt (h : v.start < domainSectors) : (gapMoved v).start < domainSectors := by
  unfold gapMoved
  split
  · exact Nat.mod_lt _ (by decide)
  · exact h
end

/-- Settles O38: `levelSlot` steps over the gap, so it parts the sectors, and a gap step changes it at one of them. -/
theorem gap_step_moves_one_sector : Obligations.gap_step_moves_one_sector :=
  ⟨fun _ out _ => ⟨fun h => exec_gapStep h out, fun h => exec_gapStep_not_ready h out⟩,
    fun v hg hs => ⟨fun _ _ => levelSlot_injOn, fun i _ => ⟨levelSlot_ne_gap v i, levelSlot_le v i⟩, fun i _ => levelSlot_gapMoved v i,
      gapMoved_gap_le hg, gapMoved_start_lt hs⟩⟩

end Sys2Proof.Machine
end

section
/-! Proofs of the bounded-read family: what the failure of a blank loses, and what it leaves. -/

namespace Sys2Proof.Machine

/-! ### Frames: the content of the medium, and the line caches -/

/-- The regions, the kerf buffer, the counter folder and the medium are left alone. -/
structure ContentStays (s t : State) : Prop where
  regions : t.regions = s.regions
  krf     : t.krf = s.krf
  cnt     : t.cnt = s.cnt
  med     : t.med = s.med

/-- The commands and the mirror are left alone too, and the registers stay canonical. -/
structure HostStays (s t : State) : Prop extends ContentStays s t where
  cmds : t.cmds = s.cmds
  mir  : t.mir = s.mir
  hw   : fwf s.hw = true → fwf t.hw = true

/-- A lock command that runs is left alone too. -/
structure LockStays (s t : State) : Prop extends HostStays s t where
  lock : t.rdp.lock = s.rdp.lock

section
variable {s t u : State} {γ : Type} {f : State → γ → State} {c : Prop} [Decidable c]

theorem ContentStays.refl (s : State) : ContentStays s s := ⟨rfl, rfl, rfl, rfl⟩

theorem ContentStays.trans (h : ContentStays s t) (k : ContentStays t u) : ContentStays s u :=
  ⟨k.regions.trans h.regions, k.krf.trans h.krf, k.cnt.trans h.cnt, k.med.trans h.med⟩

theorem ContentStays.ite (h : ContentStays s t) (k : ContentStays s u) : ContentStays s (if c then t else u) := by
  split <;> assumption

theorem ContentStays.foldl (hf : ∀ s a, ContentStays s (f s a)) (l : List γ) (s : State) : ContentStays s (l.foldl f s) :=
  List.foldlRecOn l f (.refl s) fun _ h a _ => h.trans (hf _ a)

theorem HostStays.trans (h : HostStays s t) (k : HostStays t u) : HostStays s u :=
  ⟨h.toContentStays.trans k.toContentStays, k.cmds.trans h.cmds, k.mir.trans h.mir, k.hw ∘ h.hw⟩

theorem LockStays.refl (s : State) : LockStays s s := ⟨⟨.refl s, rfl, rfl, id⟩, rfl⟩

theorem LockStays.trans (h : LockStays s t) (k : LockStays t u) : LockStays s u :=
  ⟨h.toHostStays.trans k.toHostStays, k.lock.trans h.lock⟩

theorem LockStays.ite (h : LockStays s t) (k : LockStays s u) : LockStays s (if c then t else u) := by
  split <;> assumption

theorem LockStays.foldl (hf : ∀ s a, LockStays s (f s a)) (l : List γ) (s : State) : LockStays s (l.foldl f s) :=
  List.foldlRecOn l f (.refl s) fun _ h a _ => h.trans (hf _ a)
end

theorem fwf_pmcCount {s : State} (h : fwf s.hw = true) (a : Nat) (b : Option Nat) (n : Nat) : fwf (pmcCount s a b n).hw = true :=
  List.foldlRecOn (motive := fun x : Vector Pmc 6 × Rec => fwf x.2.2 = true) _ _ h fun x hx u _ => by
    dsimp only
    split
    · exact pmcReport_wf _ _ _ _ hx
    · exact hx

section
variable (s : State)

theorem hwSet_lockStays (o : Nat) (v : Word64) : LockStays s (hwSet s o v) := ⟨⟨⟨rfl, rfl, rfl, rfl⟩, rfl, rfl, fwf_hwPut⟩, rfl⟩

theorem raised_lockStays (o k : Nat) (e : Nat × Nat) (i d : Nat) : LockStays s (evt (raise s o k) e i d) :=
  (hwSet_lockStays s _ _).trans ⟨⟨⟨rfl, rfl, rfl, rfl⟩, rfl, rfl, recEvent_wf _ (_, _) _⟩, rfl⟩

theorem pmcCount_lockStays (a : Nat) (b : Option Nat) (n : Nat) : LockStays s (pmcCount s a b n) :=
  ⟨⟨⟨pmcCount_regions .., pmcCount_krf .., pmcCount_cnt .., pmcCount_med ..⟩, pmcCount_cmds .., pmcCount_mir ..,
    fun h => fwf_pmcCount h a b n⟩, by rw [pmcCount_rdp]⟩

theorem putSide_lockStays (ch : Nat) (l : List SideEntry) : LockStays s (putSide s ch l) := ⟨⟨⟨rfl, rfl, rfl, rfl⟩, rfl, rfl, id⟩, rfl⟩

theorem modCache_lockStays (f : FMap CacheEntry → FMap CacheEntry) : LockStays s (modRdp s fun r => { r with cache := f r.cache }) :=
  ⟨⟨⟨rfl, rfl, rfl, rfl⟩, rfl, rfl, id⟩, rfl⟩

theorem wasted_lockStays (ch n : Nat) : LockStays s (wasted s ch n) :=
  .ite (.refl s) ((hwSet_lockStays s _ _).trans (pmcCount_lockStays _ _ _ _))

theorem cacheDrop_lockStays (lsa : Nat) : LockStays s (cacheDrop s lsa) := by
  have side (s : State) (ch : Nat) (l : List SideEntry) : LockStays s (wasted (putSide s ch l) ch 1) :=
    (putSide_lockStays s ch l).trans (wasted_lockStays _ _ _)
  unfold cacheDrop
  cases cacheFind s lsa with
  | none =>
    dsimp only
    split
    · exact .refl s
    · exact side s _ _
  | some found =>
    have taken := modCache_lockStays s fun m => fdel m found.1
    have line : LockStays s (if found.2.hold = .ordinary then modRdp s fun r => { r with cache := fdel r.cache found.1 }
        else evt (raise (modRdp s fun r => { r with cache := fdel r.cache found.1 }) Reg.RDP_INT_STATUS 3) Ev.RDP_LOCK_DROPPED noInst
          (lsa * 256)) :=
      .ite taken (taken.trans (raised_lockStays _ _ _ _ _ _))
    dsimp only
    split
    · exact line
    · exact line.trans (side _ _ _)

theorem dropHeld_lockStays (r : Nat) : LockStays s (dropHeld s r) := .foldl (fun s _ => cacheDrop_lockStays s _) _ s

theorem invalidate_lockStays (lo hi : Nat) (locked : Bool) : LockStays s (invalidate s lo hi locked) :=
  (modCache_lockStays s _).trans (.foldl (fun s _ => (putSide_lockStays s _ _).trans (wasted_lockStays _ _ _)) _ _)

theorem endLock_hostStays (lsa result : Nat) : HostStays s (endLock s lsa result) :=
  ⟨⟨rfl, rfl, rfl, rfl⟩, rfl, rfl, fun h => fwf_hwPut (fwf_hwPut h)⟩

theorem modMirRegion_content (r : Nat) (f : MirRegion → MirRegion) : ContentStays s (modMirRegion s r f) := ⟨rfl, rfl, rfl, rfl⟩

theorem markStale_content (rs : List Nat) : ContentStays s (markStale s rs) := .foldl (fun s _ => modMirRegion_content s _ _) _ s

theorem mirOverflow_content (n : MPort) : ContentStays s (mirOverflow s n) := by
  have owed (f : MirPort → MirPort) (rs : List Nat) : ContentStays s (modMir (markStale s rs) n f) :=
    (markStale_content s rs).trans ⟨rfl, rfl, rfl, rfl⟩
  exact .ite (owed _ _) ((owed _ _).trans (raised_lockStays _ _ _ _ _ _).toContentStays)
end

/-! ### What a blank loses, part by part (R225) -/

/-- The regions of a blank. -/
def blankRegions (b : Blank) : List Nat := (List.range 60).map fun k => 8 * k + b.val

/-- A region is LOST, and neither rebuilt nor formatted. -/
def regionLost (x : Region) : Region := { x with lost := true, rebuilding := false, formatting := false }

/-- A blank loses its regions. -/
def loseRegions (s : State) (b : Blank) : State := (blankRegions b).foldl (fun s r => modRegion s r regionLost) s

/-- A blank loses the kerf slots of its sectors; the writes they held are noted (R71). -/
def loseSlots (s : State) (b : Blank) : State :=
  { s with krf := { s.krf with
    lostWrites := (s.krf.slots.filter fun e => inBlank b e.1).foldl (fun m e => noteLost m e.1 e.2) s.krf.lostWrites
    slots := s.krf.slots.filter fun e => !inBlank b e.1 } }

/-- A blank loses the deltas and folds of its sectors. -/
def loseCounts (s : State) (b : Blank) : State :=
  modCnt s fun c => { c with entries := c.entries.filter fun e => !inBlank b (pairSector e.1),
                             folds := c.folds.filter fun e => !inBlank b e.1 }

/-- A blank loses the leaves that firmware would write there, and a commit waits for them no more. -/
def loseLeaves (s : State) (b : Blank) : State :=
  modLke s fun l => { l with writes := l.writes.filter fun n => !inBlank b n.toNat,
                             commit := l.commit.map fun c => { c with wait := c.wait.filter fun n => !inBlank b n.toNat } }

/-- No sector of a blank is held for its seal, and no re-creation of its regions goes on. -/
def loseSeals (s : State) (b : Blank) : State :=
  { s with sealing := { s.sealing with
    held := s.sealing.held.filter fun n => !inBlank b n.toNat
    erasing := s.sealing.erasing.filter fun j =>
      match j.why with
      | .recreate _ => j.region.toNat % 8 != b.val
      | _ => true } }

/-- What the device holds of a blank's sectors is lost. -/
def loseHeld (s : State) (b : Blank) : State := loseSeals (loseLeaves (loseCounts (loseSlots s b) b) b) b

/-- No seed, gap or asked copy of the regions of a blank stands at the mirror. -/
def loseSeeds (s : State) (b : Blank) : State :=
  ((blankRegions b).filter fun r => fhas s.mir.regions r).foldl (fun s r => modMirRegion s r fun m =>
    { m with seedIn := none, gaps := false, asked := false }) s

/-- A blank loses its requests at the medium, and is FAILED. -/
def loseRequests (s : State) (b : Blank) (hwOk : Bool) : State :=
  modMed (dropReqs s fun q => inBlank b q.lsa.toNat) fun m =>
    { m with blanks := vmod m.blanks b fun v => { v with state := .failed, hwOk := hwOk, down := false, rebuild := none, catchUp := none } }

/-- What a blank loses of what the device holds, but for the line caches. -/
def loseContent (s : State) (b : Blank) (hwOk : Bool) : State := loseRequests (loseSeeds (loseHeld (loseRegions s b) b) b) b hwOk

/-- A blank loses its lines. -/
def loseLines (s : State) (b : Blank) : State :=
  (blankRegions b).foldl (fun s r => invalidate s (regionBase r) (regionBase r + regionSectors - 1) true)
    ((blankRegions b).foldl dropHeld s)

/-- A lock command that runs on a sector of a blank ends (R173). -/
def loseLock (s : State) (b : Blank) : State :=
  match s.rdp.lock with
  | some l => if inBlank b l.lsa.toNat then endLock s l.lsa.toNat 3 else s
  | none => s

/-- A blank has failed, and that is reported; what waits on it has still to end. -/
def blankLost (s : State) (b : Blank) (hwOk : Bool) : State :=
  evt (raise (loseLock (loseLines (loseContent s b hwOk) b) b) (Reg.BLK_INT_STATUS b.val) 3) Ev.BLK_FAILED b.val 0

/-- The reads that were under way end for what waits for them. -/
def endReads (reqs : List MedReq) (s : State) : State :=
  reqs.foldl (fun s q => (q.purpose :: q.joined.map (·.2)).foldl (fun s p => endRead s q.lsa.toNat p) s) s

/-- The mirror is told of a failed blank: of LOST regions that a peer is owed, and of journals (R321, R331). -/
def tellMirror (s : State) (b : Blank) : State :=
  [(0 : Fin 2), 1].foldl (fun s n => if journalOn s.mir.ports[n] b then mirOverflow s n else s)
    (markStale s ((s.mir.ports.toList.flatMap owedRegions).filter fun r => (blankRegions b).contains r && isPrimary s))

section
variable {s : State} {b : Blank} {hwOk : Bool}

theorem mem_blankRegions {r : Nat} (hr : r < 480) : r ∈ blankRegions b ↔ r % 8 = b.val := by
  have hb := b.isLt
  simp only [blankRegions, List.mem_map, List.mem_range]
  exact ⟨fun ⟨k, _, e⟩ => by omega, fun h => ⟨r / 8, by omega, by omega⟩⟩

theorem regionAt_loseRegions (h : fwf s.regions = true) (r : Nat) :
    regionAt (loseRegions s b) r = if r ∈ blankRegions b then regionLost (regionAt s r) else regionAt s r := by
  have hstep (s : State) (j k : Nat) (h : fwf s.regions = true) :
      regionAt (modRegion s j regionLost) k = if k = j then regionLost (regionAt s k) else regionAt s k := by
    split
    · next e => rw [e]; exact regionAt_modRegion s h j _
    · next e => exact regionAt_modRegion_ne s h _ e
  have hall := (read_foldl (key := id) (fun _ _ => fwf_fputD) hstep (fun _ => rfl) (blankRegions b) h r).2
  rwa [List.map_id] at hall

theorem loseRegions_frame (s : State) (b : Blank) : ∃ R, loseRegions s b = { s with regions := R } :=
  List.foldlRecOn (motive := fun t => ∃ R, t = { s with regions := R }) _ _ ⟨_, rfl⟩ fun _ ⟨_, e⟩ _ _ => ⟨_, by rw [e]; rfl⟩

theorem loseSeeds_frame (s : State) (b : Blank) : ∃ R, loseSeeds s b = { s with mir := { s.mir with regions := R } } :=
  List.foldlRecOn (motive := fun t => ∃ R, t = { s with mir := { s.mir with regions := R } }) _ _ ⟨_, rfl⟩
    fun _ ⟨_, e⟩ _ _ => ⟨_, by rw [e]; rfl⟩

theorem loseHeld_frame (s : State) (b : Blank) : ∃ L K S, loseHeld s b = { s with
    krf := { s.krf with lostWrites := L, slots := s.krf.slots.filter fun e => !inBlank b e.1 }
    cnt := { s.cnt with entries := s.cnt.entries.filter fun e => !inBlank b (pairSector e.1)
                        folds := s.cnt.folds.filter fun e => !inBlank b e.1 }
    lke := K, sealing := S } := ⟨_, _, _, rfl⟩

/-- The blank's requests and its state, and of every other part what other blanks hold. -/
theorem loseContent_frame (s : State) (b : Blank) (hwOk : Bool) : ∃ L K S M, loseContent s b hwOk = { s with
    regions := (loseRegions s b).regions
    krf := { s.krf with lostWrites := L, slots := s.krf.slots.filter fun e => !inBlank b e.1 }
    cnt := { s.cnt with entries := s.cnt.entries.filter fun e => !inBlank b (pairSector e.1)
                        folds := s.cnt.folds.filter fun e => !inBlank b e.1 }
    lke := K, sealing := S, mir := { s.mir with regions := M }
    med := { s.med with
      reqs := s.med.reqs.filter fun q => !inBlank b q.lsa.toNat
      blanks := vmod s.med.blanks b fun v =>
        { v with state := .failed, hwOk := hwOk, down := false, rebuild := none, catchUp := none } } } := by
  obtain ⟨R, hR⟩ := loseRegions_frame s b
  obtain ⟨L, K, S, hH⟩ := loseHeld_frame (loseRegions s b) b
  obtain ⟨M, hM⟩ := loseSeeds_frame (loseHeld (loseRegions s b) b) b
  rw [loseContent, hM, hH, hR]
  exact ⟨_, _, _, _, rfl⟩

/-- The regions, slots, deltas, folds and requests of a blank are gone, those of other blanks are as they were, and the blank is FAILED. -/
structure BlankGone (s : State) (b : Blank) (hwOk : Bool) (t : State) : Prop where
  lost    : ∀ r, r < 480 → r % 8 = b.val → (regionAt t r).lost = true ∧ (regionAt t r).rebuilding = false
  kept    : ∀ r, r < 480 → r % 8 ≠ b.val → regionAt t r = regionAt s r
  slots   : t.krf.slots = s.krf.slots.filter (fun e => !inBlank b e.1)
  entries : t.cnt.entries = s.cnt.entries.filter (fun e => !inBlank b (pairSector e.1))
  folds   : t.cnt.folds = s.cnt.folds.filter (fun e => !inBlank b e.1)
  reqs    : t.med.reqs = s.med.reqs.filter (fun q => !inBlank b q.lsa.toNat)
  failed  : t.med.blanks[b].state = .failed
  serves  : t.med.blanks[b].hwOk = hwOk

theorem loseContent_gone (h : fwf s.regions = true) : BlankGone s b hwOk (loseContent s b hwOk) := by
  have hregion (r : Nat) := regionAt_loseRegions (b := b) h r
  obtain ⟨L, K, S, M, e⟩ := loseContent_frame s b hwOk
  have hat (r : Nat) : regionAt (loseContent s b hwOk) r = regionAt (loseRegions s b) r := regionAt_congr (by rw [e]) r
  refine ⟨fun r hr hb => ?lost, fun r hr hb => ?kept, by rw [e], by rw [e], by rw [e], by rw [e], ?failed, ?serves⟩
  case lost =>
    rw [hat, hregion, if_pos ((mem_blankRegions hr).2 hb)]
    exact ⟨rfl, rfl⟩
  case kept => rw [hat, hregion, if_neg (mt (mem_blankRegions hr).1 hb)]
  case failed => rw [e]; exact congrArg BlankS.state (vmod_self _ _ _)
  case serves => rw [e]; exact congrArg BlankS.hwOk (vmod_self _ _ _)

theorem BlankGone.of_content {t u : State} (h : BlankGone s b hwOk t) (k : ContentStays t u) : BlankGone s b hwOk u := by
  have hat (r : Nat) : regionAt u r = regionAt t r := regionAt_congr k.regions r
  exact ⟨fun r => by rw [hat]; exact h.lost r, fun r => by rw [hat]; exact h.kept r, by rw [k.krf, h.slots], by rw [k.cnt, h.entries],
    by rw [k.cnt, h.folds], by rw [k.med, h.reqs], by rw [k.med, h.failed], by rw [k.med, h.serves]⟩

/-! ### The lock command, and what waits (R173, R225) -/

theorem loseLines_lockStays (s : State) (b : Blank) : LockStays s (loseLines s b) :=
  (LockStays.foldl (fun s _ => dropHeld_lockStays s _) _ s).trans (.foldl (fun s _ => invalidate_lockStays s _ _ _) _ _)

theorem eq_loseLock {t : State} (hn : s.rdp.lock = none → t = s)
    (hs : ∀ l, s.rdp.lock = some l → t = if inBlank b l.lsa.toNat then endLock s l.lsa.toNat 3 else s) : t = loseLock s b := by
  unfold loseLock
  split
  · next l hl => exact hs l hl
  · next hl => exact hn hl

theorem loseLock_hostStays (s : State) (b : Blank) : HostStays s (loseLock s b) := by
  unfold loseLock
  split
  · split
    · exact endLock_hostStays s _ _
    · exact (LockStays.refl s).toHostStays
  · exact (LockStays.refl s).toHostStays

theorem blankLost_hostStays (s : State) (b : Blank) (hwOk : Bool) : HostStays (loseContent s b hwOk) (blankLost s b hwOk) :=
  ((loseLines_lockStays _ b).toHostStays.trans (loseLock_hostStays _ b)).trans (raised_lockStays _ _ _ _ _ _).toHostStays

theorem blankLost_gone (h : fwf s.regions = true) : BlankGone s b hwOk (blankLost s b hwOk) :=
  (loseContent_gone h).of_content (blankLost_hostStays s b hwOk).toContentStays

theorem loseContent_cmds (s : State) (b : Blank) (hwOk : Bool) : (loseContent s b hwOk).cmds = s.cmds := by
  obtain ⟨_, _, _, _, e⟩ := loseContent_frame s b hwOk
  rw [e]

theorem loseContent_ports (s : State) (b : Blank) (hwOk : Bool) : (loseContent s b hwOk).mir.ports = s.mir.ports := by
  obtain ⟨_, _, _, _, e⟩ := loseContent_frame s b hwOk
  rw [e]

theorem loseContent_rdp (s : State) (b : Blank) (hwOk : Bool) : (loseContent s b hwOk).rdp = s.rdp := by
  obtain ⟨_, _, _, _, e⟩ := loseContent_frame s b hwOk
  rw [e]

theorem loseContent_hw (s : State) (b : Blank) (hwOk : Bool) : (loseContent s b hwOk).hw = s.hw := by
  obtain ⟨_, _, _, _, e⟩ := loseContent_frame s b hwOk
  rw [e]

/-- RDP_LOCK_STATUS shows the result of a lock command that has ended. -/
theorem bitsOf_lockStatus {result : Nat} (hr : result < 16) (count ch : Nat) :
    bitsOf (fld result 0 ||| fld count 4 ||| fld ch 10) 0 4 = result := by
  simp only [bitsOf, fld, BitVec.toNat_or, BitVec.toNat_ofNat, Nat.pow_zero, Nat.div_one, Nat.or_mod_two_pow]
  have h4 : count * 2 ^ 4 % 2 ^ 64 % 2 ^ 4 = 0 := by omega
  have h10 : ch * 2 ^ 10 % 2 ^ 64 % 2 ^ 4 = 0 := by omega
  rw [h4, h10, Nat.or_zero, Nat.or_zero]
  omega

theorem endLock_result {s : State} (h : fwf s.hw = true) (lsa : Nat) {result : Nat} (hr : result < 16) :
    bitsOf (hwGet (endLock s lsa result) Reg.RDP_LOCK_STATUS) 0 4 = result := by
  unfold endLock
  dsimp only
  rw [raise, hwOr, hwGet_hwSet_ne _ (fwf_hwPut h) _ (by decide), hwGet_hwSet]
  · exact bitsOf_lockStatus hr _ _
  · exact h

section
variable {l : LockCmd} (hl : s.rdp.lock = some l)
include hl

theorem loseLines_lock : (loseLines (loseContent s b hwOk) b).rdp.lock = some l := by
  rw [(loseLines_lockStays _ b).lock, loseContent_rdp, hl]

theorem blankLost_lock_ends (h : fwf s.hw = true) (hb : inBlank b l.lsa.toNat = true) :
    (blankLost s b hwOk).rdp.lock = none ∧ bitsOf (hwGet (blankLost s b hwOk) Reg.RDP_LOCK_STATUS) 0 4 = 3 := by
  have hends : loseLock (loseLines (loseContent s b hwOk) b) b = endLock (loseLines (loseContent s b hwOk) b) l.lsa.toNat 3 := by
    rw [loseLock, loseLines_lock hl]
    exact if_pos hb
  have hwf := (loseLines_lockStays (loseContent s b hwOk) b).hw (by rw [loseContent_hw]; exact h)
  have hwf' := (endLock_hostStays (loseLines (loseContent s b hwOk) b) l.lsa.toNat 3).hw hwf
  have hne : Reg.RDP_LOCK_STATUS ≠ Reg.BLK_INT_STATUS b.val := by
    unfold Reg.RDP_LOCK_STATUS Reg.BLK_INT_STATUS
    omega
  refine ⟨by rw [blankLost, hends]; rfl, ?_⟩
  rw [blankLost, hends, hwGet_evt (by decide) (fwf_hwPut hwf'), raise, hwOr, hwGet_hwSet_ne _ hwf' _ hne]
  exact endLock_result hwf _ (by decide)

theorem blankLost_lock_stays (hb : inBlank b l.lsa.toNat = false) : (blankLost s b hwOk).rdp.lock = some l := by
  have hstays : loseLock (loseLines (loseContent s b hwOk) b) b = loseLines (loseContent s b hwOk) b := by
    rw [loseLock, loseLines_lock hl]
    exact if_neg (by simp [hb])
  rw [blankLost, hstays, evt_rdp, raise_rdp, loseLines_lock hl]
end

/-- The failure of a blank: what is lost, then what waited on it, then what the mirror is told. -/
theorem blankFail_eq (h : s.med.blanks[b].state ≠ .failed) : blankFail s b hwOk =
    tellMirror (endReads (s.med.reqs.filter fun q => inBlank b q.lsa.toNat)
      ((s.cmds.filter (waitsOn b)).foldl endLost (blankLost s b hwOk))) b := by
  unfold blankFail
  extract_lets ok regs lostRegions mine krf lostSlots lostCounts lostLeaves seals lostHeld lostSeeds gone lostRequests lostHolds lostLines
    lostLock lost waited read stale
  have hok : ok = hwOk := by
    show (hwOk && _) = hwOk
    rw [decide_eq_true h, Bool.true_or, Bool.and_true]
  obtain ⟨R, hR⟩ := loseRegions_frame s b
  obtain ⟨_, _, _, hH⟩ := loseHeld_frame (loseRegions s b) b
  obtain ⟨M, hM⟩ := loseSeeds_frame (loseHeld (loseRegions s b) b) b
  have hregions : lostRegions = loseRegions s b := rfl
  have hslots : lostSlots = loseSlots lostRegions b := rfl
  have hcounts : lostCounts = loseCounts lostSlots b := rfl
  have hleaves : lostLeaves = loseLeaves lostCounts b := rfl
  have hheld : lostHeld = loseHeld (loseRegions s b) b := by rw [loseHeld, ← hregions, ← hslots, ← hcounts, ← hleaves]; rfl
  have hseeds : lostSeeds = loseSeeds (loseHeld (loseRegions s b) b) b := by rw [← hheld]; rfl
  have hgone : gone = s.med.reqs.filter fun q => inBlank b q.lsa.toNat := by
    show lostSeeds.med.reqs.filter _ = _
    rw [hseeds, hM, hH, hR]
  have hcontent : lostRequests = loseContent s b hwOk := by rw [loseContent, ← hseeds, ← hok]; rfl
  have hlines : lostLines = loseLines (loseContent s b hwOk) b := by rw [← hcontent]; rfl
  have hlock : lostLock = loseLock (loseLines (loseContent s b hwOk) b) b := by
    rw [← hlines]
    refine eq_loseLock (fun hl => ?_) fun l hl => ?_ <;> simp only [lostLock, hl]
  have hlost : lost = blankLost s b hwOk := by rw [blankLost, ← hlock]
  have hcmds : lost.cmds = s.cmds := by rw [hlost, (blankLost_hostStays s b hwOk).cmds, loseContent_cmds]
  rw [if_neg fun k => h k.1, ← hgone, ← hlost, ← hcmds]
  rfl

theorem endLost_stream {u : State} {x : HostCmd} {p : HPort} {c : HChan} (h : x.origin = .stream p c) : endLost u x =
    complete { u with krf := { u.krf with waiters := u.krf.waiters.filter fun w => w != .cmd x.id } } x.id
      (Resp.bad .poison 2 x.op.rlen) := by
  rw [endLost, h]

theorem endRead_pa {u : State} {x : HostCmd} {id : Nat} (lsa : Nat) (h : cmdAt u id = some x) (hp : x.op.isPa = true) :
    endRead u lsa (.cmd id) = complete u id (Resp.bad .poison 2 x.op.rlen) := by
  have hl : x.op ≠ .lkup := fun e => by rw [e] at hp; cases hp
  have hd : x.op ≠ .deq := fun e => by rw [e] at hp; cases hp
  simp only [endRead, h, hl, hd, hp, if_false, if_true]

theorem endRead_no_cmds {u : State} (h : u.cmds = []) (lsa : Nat) (p : Purpose) : endRead u lsa p = u := by
  cases p with
  | cmd id => simp only [endRead, cmdAt, h, List.find?_nil]
  | _ => rfl

theorem endReads_no_cmds {u : State} (h : u.cmds = []) (reqs : List MedReq) : endReads reqs u = u :=
  List.foldlRecOn (motive := fun t => t = u) reqs _ rfl fun _ e q _ =>
    List.foldlRecOn (motive := fun t => t = u) (q.purpose :: q.joined.map (·.2)) _ e fun _ e p _ => by rw [e, endRead_no_cmds h]

theorem tellMirror_content (s : State) (b : Blank) : ContentStays s (tellMirror s b) :=
  (markStale_content s _).trans (.foldl (fun s n => .ite (mirOverflow_content s n) (.refl s)) _ _)

theorem blankFail_gone (h : s.med.blanks[b].state ≠ .failed) (hr : fwf s.regions = true) (hc : s.cmds = []) :
    BlankGone s b hwOk (blankFail s b hwOk) := by
  have hcmds : (blankLost s b hwOk).cmds = [] := ((blankLost_hostStays s b hwOk).cmds.trans (loseContent_cmds s b hwOk)).trans hc
  rw [blankFail_eq h, hc, List.filter_nil, List.foldl_nil, endReads_no_cmds hcmds]
  exact (blankLost_gone hr).of_content (tellMirror_content _ b)
end

/-- Settles O41: what a blank loses is lost before anything that waits on it ends, and what ends then leaves it so. -/
theorem failed_blank_is_lost : Obligations.failed_blank_is_lost := by
  intro b hwOk s hs hr hw
  have g : BlankGone s b hwOk (blankLost s b hwOk) := blankLost_gone hr
  have k := blankLost_hostStays s b hwOk
  refine ⟨⟨blankLost s b hwOk, k.cmds.trans (loseContent_cmds s b hwOk), ?ports, fun r h => ⟨g.lost r h, g.kept r h⟩, g.slots, g.entries,
    g.folds, g.reqs, g.failed, g.serves, fun l hl => ⟨blankLost_lock_ends hl hw, blankLost_lock_stays hl⟩, blankFail_eq hs⟩,
    fun u x p c => endLost_stream, fun u lsa id x => endRead_pa lsa, fun hc => ?idle⟩
  case ports => rw [k.mir, loseContent_ports]
  case idle =>
    have t : BlankGone s b hwOk (blankFail s b hwOk) := blankFail_gone hs hr hc
    exact ⟨fun r h => ⟨fun hb => (t.lost r h hb).1, t.kept r h⟩, t.slots, t.entries, t.folds, t.reqs, t.failed, t.serves⟩

end Sys2Proof.Machine
end

section
/-! Proofs of the mailbox family: the exchange of a command, from GO to RELEASE or ABORT. -/

namespace Sys2Proof.Machine

/-! ### What a captured command stands in -/

section
variable (s : State) (m : Mbx) (op : Nat) (req : List Byte) (irq : Bool)

theorem captured_reqLen : ((captured s m op req irq).mbx[m]).reqLen = req.length := by
  simp only [captured, mbxCapture, modMbx_mbx, vmod_self]

theorem captured_other {k : Mbx} (h : k ≠ m) : (captured s m op req irq).mbx[k] = s.mbx[k] := by
  simp only [captured, mbxCapture, mbxPlace, modMbx_mbx, setCfg_mbx, vmod_ne _ _ h]

theorem mbxPlace_order (k : Mbx) : ((mbxPlace s m op req irq).mbx[k]).order = (s.mbx[k]).order := by
  simp only [mbxPlace, setCfg_mbx, modMbx_mbx]
  by_cases h : k = m
  · rw [h, vmod_self]
  · rw [vmod_ne _ _ h]

/-- A command is captured as the last in order of the GO writes (R345). -/
theorem captured_order : ((captured s m op req irq).mbx[m]).order = nextOrder s := by
  simp only [captured, mbxCapture, modMbx_mbx, vmod_self, nextOrder, mbxPlace_order]

theorem order_lt_nextOrder (k : Mbx) : (s.mbx[k]).order < nextOrder s := by
  have listed : (s.mbx[k]).order ∈ (List.finRange 8).map fun m => (s.mbx[m]).order := List.mem_map.2 ⟨k, List.mem_finRange k, rfl⟩
  rw [nextOrder, List.foldl_eq_foldr]
  exact Nat.lt_succ_of_le (List.le_max_of_le' 0 listed le_rfl)
end

/-! ### The checks before a command's own (R345, R346, R348) -/

theorem mbxGate_eq (s : State) (op : Nat) : mbxGate s op =
    if s.glb.mbx = false then some 5
    else if (s.glb.state = .boot ∨ s.glb.state = .restore) ∧ op ∉ readCommands then some 5
    else if (op / 256 = 3 ∧ s.sealing.ready = false) ∨ (op / 256 = 1 ∧ s.lke.ready = false) then some 5
    else if (s.glb.state = .commit ∨ s.glb.state = .dump ∨ s.glb.state = .stopped) ∧ op ∉ readCommands then some 6
    else if op ∈ catalogue then none else some 2 := by
  simp only [mbxGate, List.contains_eq_mem, Bool.or_eq_true, Bool.and_eq_true, decide_eq_true_eq, Bool.not_eq_true',
    decide_eq_false_iff_not, beq_iff_eq, or_assoc, ite_not]

section
variable {s : State} {op : Nat}

theorem mbxGate_not_ready (h : s.glb.mbx = false) : mbxGate s op = some 5 := by rw [mbxGate_eq, if_pos h]

section
variable (hm : s.glb.mbx = true)
include hm

theorem mbxGate_early (h : s.glb.state = .boot ∨ s.glb.state = .restore) (hr : op ∉ readCommands) : mbxGate s op = some 5 := by
  rw [mbxGate_eq, if_neg (by simp [hm]), if_pos ⟨h, hr⟩]

theorem mbxGate_unit (h : (op / 256 = 3 ∧ s.sealing.ready = false) ∨ (op / 256 = 1 ∧ s.lke.ready = false)) :
    mbxGate s op = some 5 := by
  rw [mbxGate_eq, if_neg (by simp [hm]), if_pos h, ite_self]

variable (hu : ¬ ((op / 256 = 3 ∧ s.sealing.ready = false) ∨ (op / 256 = 1 ∧ s.lke.ready = false)))
include hu

theorem mbxGate_late (h : s.glb.state = .commit ∨ s.glb.state = .dump ∨ s.glb.state = .stopped) (hr : op ∉ readCommands) :
    mbxGate s op = some 6 := by
  have up : ¬ (s.glb.state = .boot ∨ s.glb.state = .restore) := by rcases h with h | h | h <;> simp [h]
  rw [mbxGate_eq, if_neg (by simp [hm]), if_neg fun e => up e.1, if_neg hu, if_pos ⟨h, hr⟩]

theorem mbxGate_serving (h : s.glb.state = .fwdReady ∨ s.glb.state = .operational) :
    mbxGate s op = if op ∈ catalogue then none else some 2 := by
  have early : ¬ (s.glb.state = .boot ∨ s.glb.state = .restore) := by rcases h with h | h <;> simp [h]
  have late : ¬ (s.glb.state = .commit ∨ s.glb.state = .dump ∨ s.glb.state = .stopped) := by rcases h with h | h <;> simp [h]
  rw [mbxGate_eq, if_neg (by simp [hm]), if_neg fun e => early e.1, if_neg hu, if_neg fun e => late e.1]
end
end

section
variable {s : State} {m : Mbx} {op : Nat} {req : List Byte} {irq : Bool}

theorem mbxBar_captured_long (h : 4096 < req.length) : mbxBar (captured s m op req irq) m = some 3 := by
  rw [mbxBar, captured_reqLen, if_pos h]

variable (hl : req.length ≤ 4096) (ho : op < 2 ^ 16)
include hl ho

theorem mbxBar_captured_fw {k : Mbx} (hk : k ≠ m) (hb : mbxBusy s.mbx[k] = true) (hf : isFwCommand (mbxOp s k) = true)
    (h : isFwCommand op = true) : mbxBar (captured s m op req irq) m = some 7 := by
  have same : (captured s m op req irq).mbx[k] = s.mbx[k] := captured_other s m op req irq hk
  have busy : fwBusy (captured s m op req irq) m = true := by
    rw [fwBusy, mbxOp_captured s m req irq ho, h, Bool.true_and, List.any_eq_true]
    refine ⟨k, List.mem_finRange k, ?_⟩
    rw [mbxOp, same, captured_order, hb, show isFwCommand (s.mbx[k]).opcode.toNat = true from hf, decide_eq_true hk,
      decide_eq_true (order_lt_nextOrder s k)]
    rfl
  rw [mbxBar, captured_reqLen, if_neg (Nat.not_lt.2 hl), if_pos busy]

theorem mbxBar_captured_lost {k : Nat} (hk : structureOf op = some k) (hs : structureLost s k = true) (h : isFwCommand op = false) :
    mbxBar (captured s m op req irq) m = some 9 := by
  have free : fwBusy (captured s m op req irq) m = false := by rw [fwBusy, mbxOp_captured s m req irq ho, h, Bool.false_and]
  have lost : (structureOf op).any (structureLost (captured s m op req irq)) = true := by
    rw [hk]
    exact hs
  rw [mbxBar, captured_reqLen, if_neg (Nat.not_lt.2 hl), free, if_neg (by simp), mbxOp_captured s m req irq ho, if_pos lost]
end

/-! ### The first try of a captured command (R342, R345, R416) -/

section
variable {s : State} {m : Mbx} {op : Nat} {req : List Byte} {irq flash : Bool}

theorem mbxTry_captured_moving (ho : op < 2 ^ 16) (h : ¬ (s.clk.move = none ∨ op = 0x0A03)) :
    mbxTry (captured s m op req irq) m flash = captured s m op req irq := by
  obtain ⟨hm, hop⟩ := not_or.1 h
  have moving : (captured s m op req irq).clk.move.isSome = true := Option.isSome_iff_ne_none.2 hm
  rw [mbxTry, mbxOp_captured s m req irq ho, if_pos (.inr (.inr ⟨moving, hop⟩))]

/-- Unless the operating point moves, the first check that fails answers; else the command waits, or is performed. -/
theorem mbxTry_captured (ho : op < 2 ^ 16) (h : s.clk.move = none ∨ op = 0x0A03) :
    mbxTry (captured s m op req irq) m flash =
      let c := captured s m op req irq
      ((mbxGate c op).or (mbxBar c m)).elim (if mbxBlocked c m then c else mbxSettle m (mbxPerform c m flash))
        fun code => mbxFinish c m code 0 [] := by
  have still : ¬ ((captured s m op req irq).clk.move.isSome = true ∧ op ≠ 0x0A03) := by
    rintro ⟨moving, other⟩
    have moved : s.clk.move ≠ none := Option.isSome_iff_ne_none.1 moving
    exact h.elim moved other
  rw [mbxTry, captured_state, captured_waits, mbxOp_captured s m req irq ho, if_neg (by simpa using still)]
  dsimp only
  cases mbxGate (captured s m op req irq) op with
  | some code => rfl
  | none => cases mbxBar (captured s m op req irq) m <;> rfl

section
variable {i : Instr} (hr : mbxRow i = some (m, op, req, irq, flash)) (hc : coreUp s = true)
include hr hc

theorem exec_mbx_taken (h : (s.mbx[m]).state ≠ .idle) : exec i s = done (badAccess s (Reg.MBX_CTRL m.val)) := by
  rw [exec_mbx hr, mbxCommand, hc, if_neg (by simp), if_pos h]

theorem exec_mbx_idle (h : (s.mbx[m]).state = .idle) : exec i s = done (settle (mbxTry (captured s m op req irq) m flash)) := by
  rw [exec_mbx hr, mbxCommand, hc, if_neg (by simp), if_neg (not_not.2 h)]
  rfl
end
end

/-! ### The end of a command: DONE and RELEASE (R342) -/

section
variable (s : State) (m : Mbx) (code reason : Nat) (resp : List Byte)

theorem mbxFinish_self : (mbxFinish s m code reason resp).mbx[m] =
    { s.mbx[m] with state := .done, code := BitVec.ofNat 8 code, reason := BitVec.ofNat 16 reason, rspLen := resp.length,
                    rsp := cellsOf resp, ticket := (s.mbx[m]).ticket + 1, time := mbxUs s s.mbx[m], waits := false } := by
  simp only [mbxFinish, modMbx_mbx, vmod_self]

theorem mbxFinish_other {k : Mbx} (h : k ≠ m) : (mbxFinish s m code reason resp).mbx[k] = s.mbx[k] := by
  simp only [mbxFinish, modMbx_mbx, vmod_ne _ _ h]

/-- A buffer that holds the cells of a list alone reads as the list. -/
theorem bufBytes_cellsOf (l : List Byte) : bufBytes (cellsOf l) l.length = l := by
  have read := bufBytes_bufWrite [] l
  rwa [bufWrite, List.filter_nil, List.append_nil] at read
end

section
variable {s : State} {m : Mbx} (hc : coreUp s = true)
include hc

theorem exec_mbxRelease_done (h : (s.mbx[m]).state = .done) :
    exec (.mbxRelease m) s = done (modMbx s m fun x => { x with state := .idle, code := 0, reason := 0 }) :=
  (if_pos hc).trans (congrArg done (if_neg (not_not.2 h)))

theorem exec_mbxRelease_not_done (h : (s.mbx[m]).state ≠ .done) :
    exec (.mbxRelease m) s = done (badAccess s (Reg.MBX_CTRL m.val)) :=
  (if_pos hc).trans (congrArg done (if_pos h))

theorem exec_mbxAbort : exec (.mbxAbort m) s = done (settle (mbxStop s m)) := if_pos hc
end

/-! ### ABORT (R279, R344, R352) -/

section
variable {s : State} {m : Mbx}

theorem mbxStop_other (h : (s.mbx[m]).state ≠ .busy ∨ ((s.mbx[m]).opcode ≠ 0x0208 ∧ (s.mbx[m]).opcode ≠ 0x0012)) :
    mbxStop s m = s := by
  rw [mbxStop]
  by_cases hb : (s.mbx[m]).state = .busy
  case neg => exact if_pos hb
  obtain ⟨hclear, hcreate⟩ := h.resolve_left (not_not.2 hb)
  simp only [hb, hclear, hcreate, ne_eq, not_true_eq_false, if_false, ite_self]

variable (hb : (s.mbx[m]).state = .busy)
include hb

section
variable (hw : (s.mbx[m]).waits = true)
include hw

theorem mbxStop_waiting_clear (ho : (s.mbx[m]).opcode = 0x0208) : mbxStop s m = mbxFinish s m 8 0 (leBytes 4 0) := by
  rw [mbxStop, if_neg (not_not.2 hb), if_pos hw, if_pos ho]

theorem mbxStop_waiting_recreate (ho : (s.mbx[m]).opcode = 0x0012) :
    mbxStop s m = mbxFinish s m 8 0 (descriptor s (leAt (mbxReq s m) 0 2)) := by
  rw [mbxStop, if_neg (not_not.2 hb), if_pos hw, if_neg (by rw [ho]; decide), if_pos ho]
end

variable (hw : (s.mbx[m]).waits = false)
include hw

theorem mbxStop_clear (ho : (s.mbx[m]).opcode = 0x0208) {first left cleared : Nat} {wait : List (BitVec 32)}
    (hf : clearOf s m = some (first, left, cleared, wait)) : mbxStop s m = endClear s m cleared true := by
  rw [mbxStop, if_neg (not_not.2 hb), if_neg (ne_true_of_eq_false hw), if_pos ho, hf]

/-- A REGION_RECREATE ends at once, unless a program of its region runs: then it ends with that. -/
theorem mbxStop_recreate (ho : (s.mbx[m]).opcode = 0x0012) : mbxStop s m =
    if ∃ q ∈ s.med.reqs, inRegion (leAt (mbxReq s m) 0 2) q.lsa.toNat = true ∧ q.purpose = .rebuild ∧ q.state ≠ .raised then
      modMbx s m fun x => { x with state := .aborting }
    else endRecreate s m (leAt (mbxReq s m) 0 2) true := by
  rw [mbxStop, if_neg (not_not.2 hb), if_neg (ne_true_of_eq_false hw), if_neg (by rw [ho]; decide), if_pos ho]
  simp only [List.any_eq_true, Bool.and_eq_true, decide_eq_true_eq, and_assoc]
end

/-- Settles O49: a captured command is tried at once (`mbxTry_captured`), its gate and its bar case by case; ABORT is `mbxStop`. -/
theorem mailbox_exchange : Obligations.mailbox_exchange := by
  refine ⟨fun i m op req irq flash s hr hc => ?go, fun m s hc => ?ends⟩
  case go =>
    intro c keys still
    have ho : op < 2 ^ 16 := mbxRow_op_lt hr
    have tried (idle : (s.mbx[m]).state = .idle) (hs : still) : exec i s = done (settle
        (((mbxGate c op).or (mbxBar c m)).elim (if mbxBlocked c m then c else mbxSettle m (mbxPerform c m flash))
          fun code => mbxFinish c m code 0 [])) := by
      rw [exec_mbx_idle hr hc idle, mbxTry_captured ho hs]
    refine ⟨exec_mbx_taken hr hc, fun idle hl => ⟨mbxReq_captured s m op req irq, mbxOp_captured s m req irq ho,
      captured_state s m op req irq, fun hs k hg => ?gate, fun hs => ?moving, fun hs hg hb blocked => ?blocked,
      exec_mbxStart hr, fun k hk => mbxBar_captured_fw hl ho hk, fun k => mbxBar_captured_lost hl ho⟩,
      fun idle hs k hg hb => ?bar, mbxBar_captured_long, mbxGate_not_ready,
      fun hm => ⟨mbxGate_early hm, mbxGate_unit hm, fun h hr hu => mbxGate_late hm hu h hr, fun h hu => mbxGate_serving hm hu h⟩⟩
    case gate => rw [tried idle hs, hg]; rfl
    case moving => rw [exec_mbx_idle hr hc idle, mbxTry_captured_moving ho hs]; rfl
    case blocked => rw [tried idle hs, hg, hb, blocked]; rfl
    case bar => rw [tried idle hs, hg, hb]; rfl
  case ends =>
    intro x
    have stopped {t : State} (h : mbxStop s m = t) : exec (.mbxAbort m) s = done (settle t) := by rw [exec_mbxAbort hc, h]
    refine ⟨fun code reason resp => ?done, exec_mbxRelease_done hc, exec_mbxRelease_not_done hc, fun h => stopped (mbxStop_other h),
      fun hb hw => ⟨fun ho => stopped (mbxStop_waiting_clear hb hw ho), fun ho => stopped (mbxStop_waiting_recreate hb hw ho)⟩,
      fun hb hw => ⟨fun ho first left cleared wait hf => ⟨stopped (mbxStop_clear hb hw ho hf), ?cleared⟩,
        fun ho idle => stopped ?recreate, fun ho q hq hin hp hs => stopped ?aborting⟩⟩
    case done =>
      intro y
      have self : y = _ := mbxFinish_self s m code.toNat reason.toNat resp
      rw [self]
      exact ⟨rfl, (BitVec.ofNat_toNat 8 code).trans (BitVec.setWidth_eq code),
        (BitVec.ofNat_toNat 16 reason).trans (BitVec.setWidth_eq reason), bufBytes_cellsOf resp, rfl, rfl,
        fun k => mbxFinish_other s m _ _ resp⟩
    case cleared => rw [endClear, mbxFinish_self]; rfl
    case recreate => rw [mbxStop_recreate hb hw ho, if_neg fun ⟨q, hq, h⟩ => idle q hq h]
    case aborting => rw [mbxStop_recreate hb hw ho, if_pos ⟨q, hq, hin, hp, hs⟩]

end Sys2Proof.Machine
end

section
/-! Proofs of the medium-care family: failures of channel controllers, dies and blanks. -/

namespace Sys2Proof.Machine

/-! ### Channel controllers (R219, R220) -/

section
variable {s : State} {m : Mch}

section
variable (hc : coreUp s = true)
include hc

theorem exec_mchWatchdogExpiry (hw : holdsWork s m.val = true) :
    exec (.mchWatchdogExpiry m) s = done (settle (mchFail s m 1)) := if_pos ⟨hc, hw⟩

theorem exec_mchDatapathError : exec (.mchDatapathError m) s = done (settle (mchFail s m 2)) := if_pos hc

theorem exec_mchForceFail :
    exec (.mchForceFail m) s = done (settle (forceMch (touch s (Reg.MCH_CTRL m.val)) m)) := if_pos hc
end

theorem forceMch_operational (h : s.glb.state = .operational) : forceMch s m = mchFail s m 3 := if_pos h

theorem forceMch_not_operational (h : s.glb.state ≠ .operational) : forceMch s m = s := if_neg h

theorem mchFail_failed (h : m ∈ s.med.failed) (k : Nat) : mchFail s m k = s := if_pos (List.contains_iff_mem.2 h)

/-- The failure of a spare that serves nothing is reported, and moves no channel. -/
theorem mchFail_idle_spare (h : m ∉ s.med.failed) (hs : servedBy s m.val = []) (hm : 64 ≤ m.val) (k : Nat) : mchFail s m k =
    evt (raise (raise (saveInner (modMed s fun x => { x with failed := x.failed ++ [m] }) .failures) (Reg.MCH_CAUSE m.val) k)
      (Reg.MCH_CAUSE m.val) 10) Ev.MCH_SPARE_LOST m.val 0 := by
  rw [mchFail, if_neg (by simpa using h), hs]
  exact if_pos ⟨rfl, hm⟩
end

/-! ### Dies (R223) -/

section
variable {s : State} {b : Blank} {die : Fin 18}

theorem dieFail_first (h : (s.med.blanks[b]).die = none) : dieFail s b die =
    evt (raise (saveInner (modBlank s b fun v =>
      { v with die := some die, state := if v.state = .normal then .degraded else v.state }) .failures) (Reg.BLK_INT_STATUS b.val) 0)
      Ev.BLK_DIE_FAILED b.val 0 := by
  rw [dieFail, h]

theorem dieFail_again (h : (s.med.blanks[b]).die = some die) : dieFail s b die = s := by
  rw [dieFail, h]
  exact if_pos rfl

theorem dieFail_second {d : Fin 18} (h : (s.med.blanks[b]).die = some d) (hd : d ≠ die) : dieFail s b die =
    blankFail (evt (raise s (Reg.BLK_INT_STATUS b.val) 0) Ev.BLK_DIE_FAILED b.val 0) b false := by
  rw [dieFail, h]
  exact if_neg hd
end

/-! ### Outages and resets of a blank (R224) -/

theorem modBlank_congr {s : State} {b : Blank} {f g : BlankS → BlankS} (h : f s.med.blanks[b] = g s.med.blanks[b]) :
    modBlank s b f = modBlank s b g := by
  rw [modBlank, vmod_congr h, modBlank]

/-- A blank that answers its reset: DEGRADED where a die of it has failed; one whose content is lost stays FAILED. -/
def blankBack (v : BlankS) : BlankS :=
  { v with state := if v.state = .failed then .failed else if v.die.isSome then .degraded else .normal, down := false, resets := 0 }

theorem blankBack_failed {v : BlankS} (h : v.state = .failed) : blankBack v = { v with down := false, resets := 0 } := by
  rw [blankBack, if_pos h, ← h]

theorem blankBack_outage {v : BlankS} (h : v.state = .outage) :
    blankBack v = { v with state := if v.die.isSome then .degraded else .normal, down := false, resets := 0 } := by
  rw [blankBack, if_neg (by rw [h]; decide)]

section
variable {s : State} {b : Blank} (hc : coreUp s = true)
include hc

theorem exec_diePortFault (die : Fin 18) : exec (.diePortFault b die) s = done (settle (dieFail s b die)) := if_pos hc

theorem exec_blankOutage (h : (s.med.blanks[b]).state = .normal ∨ (s.med.blanks[b]).state = .degraded) :
    exec (.blankOutage b) s = done (settle (evt (raise (modBlank s b fun v => { v with state := .outage, resets := 0 })
      (Reg.BLK_INT_STATUS b.val) 1) Ev.BLK_OUTAGE b.val 0)) := by
  have serves : (s.med.blanks[b]).state ≠ .failed := by rcases h with h | h <;> rw [h] <;> decide
  show execBlankOutage b s = _
  rw [execBlankOutage, if_neg fun k => serves k.2.1, if_pos ⟨hc, h⟩]

theorem exec_blankOutage_failed (h : (s.med.blanks[b]).state = .failed) (hw : (s.med.blanks[b]).hwOk = true)
    (hd : (s.med.blanks[b]).down = false) :
    exec (.blankOutage b) s = done (evt (raise (modBlank s b fun v => { v with down := true, resets := 0 })
      (Reg.BLK_INT_STATUS b.val) 1) Ev.BLK_OUTAGE b.val 0) :=
  if_pos ⟨hc, h, hw, by rw [hd]; rfl⟩

section
variable (hr : (s.med.blanks[b]).state = .outage ∨ (s.med.blanks[b]).down = true)
include hr

theorem exec_blankResetTimeout (answers : Bool) : exec (.blankResetTimeout b answers) s =
    if answers then
      done (settle (evt (raise ((List.range 8).foldl (fun s j => restartOps s (8 * b.val + j)) (modBlank s b blankBack))
        (Reg.BLK_INT_STATUS b.val) 2) Ev.BLK_RECOVERED b.val 0))
    else if (s.med.blanks[b]).resets < 2 then done (modBlank s b fun v => { v with resets := v.resets + 1 })
    else done (settle (blankFail s b false)) := by
  have waits : ¬ ((!coreUp s) = true ∨ (s.med.blanks[b]).state ≠ .outage ∧ (!(s.med.blanks[b]).down) = true) := by
    rintro (reset | ⟨other, up⟩)
    · rw [hc] at reset; cases reset
    · rw [hr.resolve_left other] at up; cases up
  exact if_neg waits

/-- The blank answers its reset: it is as `f` leaves it, and its operations are restarted. -/
theorem exec_blankResetTimeout_answers {f : BlankS → BlankS} (hf : blankBack s.med.blanks[b] = f s.med.blanks[b]) :
    exec (.blankResetTimeout b true) s = done (settle (evt (raise
      ((List.range 8).foldl (fun s j => restartOps s (8 * b.val + j)) (modBlank s b f)) (Reg.BLK_INT_STATUS b.val) 2)
      Ev.BLK_RECOVERED b.val 0)) := by
  rw [exec_blankResetTimeout hc hr, if_pos rfl, modBlank_congr hf]

theorem exec_blankResetTimeout_again (h : (s.med.blanks[b]).resets < 2) :
    exec (.blankResetTimeout b false) s = done (modBlank s b fun v => { v with resets := v.resets + 1 }) := by
  rw [exec_blankResetTimeout hc hr, if_neg Bool.false_ne_true, if_pos h]

theorem exec_blankResetTimeout_last (h : 2 ≤ (s.med.blanks[b]).resets) :
    exec (.blankResetTimeout b false) s = done (settle (blankFail s b false)) := by
  rw [exec_blankResetTimeout hc hr, if_neg Bool.false_ne_true, if_neg (Nat.not_lt.2 h)]
end
end

/-- Settles O40: each command is its guard and one operation, whose cases follow what has failed already. -/
theorem medium_failures : Obligations.medium_failures := by
  refine ⟨fun m s hc => ⟨exec_mchWatchdogExpiry hc, exec_mchDatapathError hc, fun ho => ?forced, fun ho => ?ignored, mchFail_failed,
    mchFail_idle_spare⟩, fun b s hc => ?blank⟩
  case forced => rw [exec_mchForceFail hc, forceMch_operational (s := touch s _) ho]; rfl
  case ignored => rw [exec_mchForceFail hc, forceMch_not_operational (s := touch s _) ho]; rfl
  case blank =>
    intro v
    exact ⟨fun die => ⟨exec_diePortFault hc die, dieFail_first, dieFail_again, fun _ => dieFail_second⟩, exec_blankOutage hc,
      exec_blankOutage_failed hc, fun hf hd => exec_blankResetTimeout_answers hc (.inr hd) (blankBack_failed hf),
      fun ho => ⟨exec_blankResetTimeout_answers hc (.inl ho) (blankBack_outage ho), exec_blankResetTimeout_again hc (.inl ho),
        exec_blankResetTimeout_last hc (.inl ho)⟩⟩

end Sys2Proof.Machine
end

section
/-! Proofs of the mailbox family: the Keys group. -/

namespace Sys2Proof.Machine

/-! ### Programs of the internal area (R227, R285) -/

/-- What programming an item of the internal area can change. -/
theorem saveInner_frame (s : State) (i : Inner) : ∃ H E P M a b l, saveInner s i = { s with
    hw := H, evr := E, pmc := P, med := M, sealing := { s.sealing with internal := a, reserved := b, toSave := l } } := by
  rw [saveInner]
  split
  · split <;> exact ⟨_, _, _, _, _, _, _, rfl⟩
  · obtain ⟨_, _, _, _, _, _, _, _, e⟩ := (saveBytes_saved s i (itemBytes s i)).rest
    exact ⟨_, _, _, _, _, _, _, e⟩

theorem saveInner_keys (s : State) (i : Inner) : (saveInner s i).sealing.keys = s.sealing.keys := by
  obtain ⟨_, _, _, _, _, _, _, e⟩ := saveInner_frame s i
  rw [e]

theorem fget_zeroiseSlot {s : State} (h : fwf s.sealing.keys = true) (k : Nat) : fget (zeroiseSlot s k).sealing.keys k = none := by
  show fget (fdel (saveInner s (.keySlot k)).sealing.keys k) k = none
  rw [saveInner_keys, fget_fdel_self h]

/-! ### The device key and the slots (R293, R294) -/

section
variable {s : State} {req : List Byte}

theorem opDevkeyInstall_eq (hl : req.length = 32) : opDevkeyInstall s req =
    if s.sealing.devKey.isSome = true then refusedFor s 2
    else doneWith (modSeal (saveInner s .deviceKey) fun v => { v with devKey := some (wordOf 256 req) })
      (leBytes 4 (kcv (wordOf 256 req))) :=
  if_neg (not_not.2 hl)

theorem opDevkeyZeroise_eq : opDevkeyZeroise s [] =
    if ∃ e ∈ s.regions, e.2.slot.isSome = true then refusedFor s 5
    else doneWith (modSeal ((fkeys s.sealing.keys).foldl (fun s k => saveInner s (.keySlot k)) (saveInner s .deviceKey))
      fun v => { v with devKey := none, keys := [] }) [] := by
  simp only [← List.any_eq_true]
  rfl

section
variable (hl : req.length = 48) (hk : leAt req 0 1 < 64) (hz : zeroAt req 1 7 = true)
include hl hk hz

theorem opKeyLoad_no_device_key (h : s.sealing.devKey = none) : opKeyLoad s req = refusedFor s 1 := by
  rw [opKeyLoad, if_neg (not_not.2 hl), if_neg (by rw [hz]; simpa using hk), h]

theorem opKeyLoad_wrapped {kek : BitVec 256} (h : s.sealing.devKey = some kek) :
    opKeyLoad s req = keyLoaded s (leAt req 0 1) (kwUnwrap kek (slice req 8 40)) := by
  rw [opKeyLoad, if_neg (not_not.2 hl), if_neg (by rw [hz]; simpa using hk), h]
end
end

/-! ### Binding, change and unbinding of a region (R295 to R297) -/

/-- A region bound to a slot: a free nonce and the next MAJOR (R295). -/
def regionBound (s : State) (r : Nat) (slot : Fin 64) : Region :=
  { regionAt s r with nonce := (freeNow s).setWidth 32, major := (regionAt s r).major + 1, ceiling := 4096
                      dataMajor := (regionAt s r).major + 1, slot := some slot, poisoned := 0 }

section
variable {s : State} {req : List Byte} (hl : req.length = 4)
include hl

section
variable (hf : bindFields req = true)
include hf

/-- The refusals of KEY_BIND, in their order. -/
theorem opKeyBind_eq : opKeyBind s req =
    if bindable s (leAt req 2 1) = false then refusedFor s 4
    else if (regionAt s (leAt req 0 2)).slot.isSome = true ∨ (regionAt s (leAt req 0 2)).use ≠ .none then refusedFor s 5
    else if rekeyBusy s (some (leAt req 0 2)) (some (leAt req 2 1)) = true then refusedFor s 6
    else doneWith (freeNext (setRegion (saveInner s (.descriptor (leAt req 0 2))) (leAt req 0 2)
      (regionBound s (leAt req 0 2) (slotNo (leAt req 2 1))))) [] := by
  rw [opKeyBind, if_neg (not_not.2 hl), if_neg (by simp [hf])]
  simp only [Bool.not_eq_true']
  rfl

/-- A KEY_CHANGE of a bound region that no re-key keeps busy: a live re-key, or an erase. -/
theorem opKeyChange_eq (m : Mbx) (hk : bindable s (leAt req 2 1) = true) (hb : (regionAt s (leAt req 0 2)).slot.isSome = true)
    (hr : rekeyBusy s (some (leAt req 0 2)) (some (leAt req 2 1)) = false) : opKeyChange s m req =
    if (regionAt s (leAt req 0 2)).rekeyLive = true then
      (freeUnit s).elim (refusedFor s 8) fun u =>
        if forcedWaiting s = [] then doneWith (startRekey s u (leAt req 0 2) (slotNo (leAt req 2 1)) false) [] else refusedFor s 8
    else if eraseBlocked s (leAt req 0 2) = true then refusedFor s 7
    else (.runs, askErase s (leAt req 0 2) (.change m (slotNo (leAt req 2 1)))) := by
  have bound : ¬ (regionAt s (leAt req 0 2)).slot.isNone = true := by rw [Option.isNone_eq_false_iff.2 hb]; simp
  rw [opKeyChange, if_neg (not_not.2 hl), if_neg (by simp [hf])]
  dsimp only
  rw [if_neg (by simp [hk]), if_neg bound, if_neg (by simp [hr])]
  cases freeUnit s <;> simp only [List.isEmpty_iff] <;> rfl
end

theorem opKeyUnbind_eq (m : Mbx) (hr : leAt req 0 2 < 480) (hz : zeroAt req 2 2 = true) : opKeyUnbind s m req =
    if (regionAt s (leAt req 0 2)).slot = none ∨ (regionAt s (leAt req 0 2)).use ≠ .none then refusedFor s 5
    else if rekeyBusy s (some (leAt req 0 2)) none = true then refusedFor s 6
    else (.runs, askErase s (leAt req 0 2) (.unbind m)) := by
  rw [opKeyUnbind, if_neg (not_not.2 hl), if_neg (by rw [hz]; simpa using hr)]
  simp only [Option.isNone_iff_eq_none]

/-- The refusals of KEY_RETIRE, in their order; a slot without regions is zeroised at once. -/
theorem opKeyRetire_eq (m : Mbx) (hk : leAt req 0 1 < 64) (hz : zeroAt req 1 3 = true) : opKeyRetire s m req =
    if bindable s (leAt req 0 1) = false then refusedFor s 4
    else if ∃ r ∈ boundRegions s (leAt req 0 1), (regionAt s r).use ≠ .none then refusedFor s 5
    else if rekeyBusy s none (some (leAt req 0 1)) = true then refusedFor s 6
    else if boundRegions s (leAt req 0 1) = [] then doneWith (zeroiseSlot s (leAt req 0 1)) (leBytes 4 0)
    else (.runs, (boundRegions s (leAt req 0 1)).foldl (fun s r => askErase s r (.retire (some m) (slotNo (leAt req 0 1)))) s) := by
  rw [opKeyRetire, if_neg (not_not.2 hl), if_neg (by rw [hz]; simpa using hk)]
  simp only [Bool.not_eq_true', List.any_eq_true, decide_eq_true_eq, List.isEmpty_iff]
end

/-! ### KEY_INFO (R350) -/

theorem leNat_lt (l : List Byte) : leNat l < 256 ^ l.length := by
  induction l with
  | nil => exact Nat.one_pos
  | cons b l ih =>
    have byte := b.isLt
    rw [leNat, List.length_cons, Nat.pow_succ]
    omega

theorem kcv_lt (key : BitVec 256) : kcv key < 256 ^ 3 := by
  refine (leNat_lt _).trans_le (Nat.pow_le_pow_right (by decide) ?_)
  rw [List.length_take]
  exact Nat.min_le_left _ _

theorem kcvOf_lt (k : Option (BitVec 256)) : kcvOf k < 256 ^ 3 := by
  cases k with
  | none => exact Nat.pow_pos (by decide)
  | some key => exact kcv_lt key

theorem slotState_lt (s : State) (k : Nat) : slotState s k < 256 ^ 1 := by
  unfold slotState
  split <;> [skip; split <;> [skip; split]] <;> decide

theorem regionSlot_lt (x : Region) : (x.slot.map (·.val)).getD 0 < 256 ^ 1 := by
  cases x.slot with
  | none => decide
  | some k => exact k.isLt.trans (by decide)

/-- KEY_INFO of a region: what stands before its MAJOR. -/
def keyInfoHead (x : Region) : List Byte :=
  leBytes 1 ((x.slot.map (·.val)).getD 0) ++ (leBytes 1 (x.slot.isSome.toNat + 2 * x.rekey.isSome.toNat) ++
    leBytes 1 ((x.rekey.map (·.oldSlot.val)).getD 0) ++ leBytes 1 0 ++ leBytes 4 ((x.rekey.map (·.parting)).getD 0))

/-- KEY_INFO of a region: what follows its MAJOR. -/
def keyInfoTail (x : Region) : List Byte :=
  leBytes 8 ((x.rekey.map (·.oldMajor.toNat)).getD 0) ++ leBytes 4 x.ceiling ++ leBytes 4 ((x.rekey.map (·.oldCeiling)).getD 0) ++
    leBytes 32 0

/-- KEY_INFO of a region. -/
def keyInfoRegion (x : Region) : List Byte := keyInfoHead x ++ (leBytes 8 x.major.toNat ++ keyInfoTail x)

theorem keyInfoRegion_slot (x : Region) : leAt (keyInfoRegion x) 0 1 = (x.slot.map (·.val)).getD 0 :=
  (leAt_leBytes (a := []) (List.append_assoc _ _ _) rfl).trans (Nat.mod_eq_of_lt (regionSlot_lt x))

theorem keyInfoRegion_major (x : Region) : leAt (keyInfoRegion x) 8 8 = x.major.toNat := by
  have head : (keyInfoHead x).length = 8 := by simp only [keyInfoHead, List.length_append, length_leBytes]
  exact (leAt_leBytes rfl head).trans (Nat.mod_eq_of_lt x.major.isLt)

/-- KEY_INFO of a slot. -/
def keyInfoSlot (s : State) (k : Nat) : List Byte :=
  leBytes 1 (slotState s k) ++ (leBytes 3 (kcvOf (fget s.sealing.keys k)) ++ boundBytes s k)

theorem keyInfoSlot_state (s : State) (k : Nat) : leAt (keyInfoSlot s k) 0 1 = slotState s k :=
  (leAt_leBytes (a := []) rfl rfl).trans (Nat.mod_eq_of_lt (slotState_lt s k))

theorem keyInfoSlot_check (s : State) (k : Nat) : leAt (keyInfoSlot s k) 1 3 = kcvOf (fget s.sealing.keys k) :=
  (leAt_leBytes rfl (length_leBytes 1 _)).trans (Nat.mod_eq_of_lt (kcvOf_lt _))

section
variable {s : State} {req : List Byte} (hl : req.length = 4) (hz : zeroAt req 1 1 = true)
include hl hz

theorem opKeyInfo_slot (hk : leAt req 0 1 = 1) (hi : leAt req 2 2 < 64) :
    opKeyInfo s req = doneWith s (keyInfoSlot s (leAt req 2 2)) := by
  rw [opKeyInfo, if_neg (not_not.2 hl)]
  dsimp only
  rw [if_neg (by simp [hk, hz, hi]), if_neg (by simp [hk]), List.append_assoc]
  rfl

theorem opKeyInfo_region (hk : leAt req 0 1 = 0) (hi : leAt req 2 2 < 480) :
    opKeyInfo s req = doneWith s (keyInfoRegion (regionAt s (leAt req 2 2))) := by
  rw [opKeyInfo, if_neg (not_not.2 hl)]
  dsimp only
  rw [if_neg (by simp [hk, hz, hi]), if_pos hk]
  simp only [keyInfoRegion, keyInfoHead, keyInfoTail, List.append_assoc]
end

/-! ### The commands as they are performed -/

section
variable {s c : State} {m : Mbx} {req : List Byte} {irq : Bool}

theorem performs_devkeyInstall (h : mbxStart (.devkeyInstall m req irq) s = some c) :
    mbxPerform c m false = opDevkeyInstall c req := by
  rw [mbxPerform, mbxOp_of_start rfl h, mbxReq_of_start rfl h]; rfl
theorem performs_devkeyZeroise (h : mbxStart (.devkeyZeroise m req irq) s = some c) :
    mbxPerform c m false = opDevkeyZeroise c req := by
  rw [mbxPerform, mbxOp_of_start rfl h, mbxReq_of_start rfl h]; rfl
theorem performs_keyLoad (h : mbxStart (.keyLoad m req irq) s = some c) : mbxPerform c m false = opKeyLoad c req := by
  rw [mbxPerform, mbxOp_of_start rfl h, mbxReq_of_start rfl h]; rfl
theorem performs_keyBind (h : mbxStart (.keyBind m req irq) s = some c) : mbxPerform c m false = opKeyBind c req := by
  rw [mbxPerform, mbxOp_of_start rfl h, mbxReq_of_start rfl h]; rfl
theorem performs_keyChange (h : mbxStart (.keyChange m req irq) s = some c) : mbxPerform c m false = opKeyChange c m req := by
  rw [mbxPerform, mbxOp_of_start rfl h, mbxReq_of_start rfl h]; rfl
theorem performs_keyUnbind (h : mbxStart (.keyUnbind m req irq) s = some c) : mbxPerform c m false = opKeyUnbind c m req := by
  rw [mbxPerform, mbxOp_of_start rfl h, mbxReq_of_start rfl h]; rfl
theorem performs_keyRetire (h : mbxStart (.keyRetire m req irq) s = some c) : mbxPerform c m false = opKeyRetire c m req := by
  rw [mbxPerform, mbxOp_of_start rfl h, mbxReq_of_start rfl h]; rfl
theorem performs_keyInfo (h : mbxStart (.keyInfo m req irq) s = some c) : mbxPerform c m false = opKeyInfo c req := by
  rw [mbxPerform, mbxOp_of_start rfl h, mbxReq_of_start rfl h]; rfl
end

/-- Settles O54: a command that starts is its operation on the request, whose refusals and effects are the equations above. -/
theorem mailbox_keys_group : Obligations.mailbox_keys_group := by
  intro m req irq s c r k
  refine ⟨fun hs hl => ?install, fun hs hq => ?zeroise, fun hs hl hk hz => ?load, fun hs hl hf => ?bind,
    fun hs hl hf hk hb hr => ?change, fun hs hl hr hz => ?unbind, fun hs hl hk hz => ?retire, fun hs hl hz => ?info⟩
  case install =>
    have performed := (performs_devkeyInstall hs).trans (opDevkeyInstall_eq hl)
    refine ⟨fun h => mbxEnds_of rfl hs ?_, fun h => mbxEnds_of rfl hs ?_⟩
    · rw [performed, if_neg (by simp [h])]; rfl
    · rw [performed, if_pos h]; rfl
  case zeroise =>
    subst hq
    have performed := (performs_devkeyZeroise hs).trans opDevkeyZeroise_eq
    refine ⟨fun h => mbxEnds_of rfl hs ?_, fun h => mbxEnds_of rfl hs ?_⟩
    · rw [performed, if_neg fun ⟨e, he, hb⟩ => by rw [h e he] at hb; cases hb]; rfl
    · rw [performed, if_pos h]; rfl
  case load =>
    have performed {t : MbxOut × State} (h : opKeyLoad c req = t) : mbxPerform c m false = t := (performs_keyLoad hs).trans h
    refine ⟨fun h => mbxEnds_of rfl hs (performed (opKeyLoad_no_device_key hl hk hz h)), fun kek h =>
      ⟨fun hw => mbxEnds_of rfl hs (performed ?_), fun key hw => ⟨fun hn => mbxEnds_of rfl hs (performed ?_),
        fun he => mbxEnds_of rfl hs (performed ?_)⟩⟩⟩
    · rw [opKeyLoad_wrapped hl hk hz h, hw]; rfl
    · rw [opKeyLoad_wrapped hl hk hz h, hw, keyLoaded, if_pos hn]; rfl
    · rw [opKeyLoad_wrapped hl hk hz h, hw, keyLoaded, if_neg (not_not.2 he)]; rfl
  case bind =>
    have performed := (performs_keyBind hs).trans (opKeyBind_eq hl hf)
    refine ⟨fun h => mbxEnds_of rfl hs ?_, fun h hb => mbxEnds_of rfl hs ?_,
      fun h hn hu => ⟨fun hr => mbxEnds_of rfl hs ?_, fun hr => mbxEnds_of rfl hs ?_⟩⟩
    · rw [performed, if_pos h]; rfl
    · rw [performed, if_neg (ne_false_of_eq_true h), if_pos hb]; rfl
    all_goals
      have free : ¬ ((regionAt c r).slot.isSome = true ∨ (regionAt c r).use ≠ .none) := by simp [hn, hu]
      rw [performed, if_neg (ne_false_of_eq_true h), if_neg free]
    · rw [if_pos hr]; rfl
    · rw [if_neg (ne_true_of_eq_false hr)]; rfl
  case change =>
    have performed := (performs_keyChange hs).trans (opKeyChange_eq hl hf m hk hb hr)
    refine ⟨fun live => ⟨fun u hu hw => mbxEnds_of rfl hs ?_, fun h => mbxEnds_of rfl hs ?_⟩,
      fun dead => ⟨fun h => mbxEnds_of rfl hs ?_, fun h => mbxRuns_of rfl hs ?_⟩⟩
    · rw [performed, if_pos live, hu, Option.elim_some, if_pos hw]; rfl
    · rw [performed, if_pos live]
      cases hu : freeUnit c with
      | none => rfl
      | some u => exact if_neg (h.resolve_left (by simp [hu]))
    · rw [performed, if_neg (ne_true_of_eq_false dead), if_pos h]; rfl
    · rw [performed, if_neg (ne_true_of_eq_false dead), if_neg (ne_true_of_eq_false h)]
  case unbind =>
    have performed := (performs_keyUnbind hs).trans (opKeyUnbind_eq hl m hr hz)
    refine ⟨fun h => mbxEnds_of rfl hs ?_, fun hb hu => ⟨fun h => mbxEnds_of rfl hs ?_, fun h => mbxRuns_of rfl hs ?_⟩⟩
    · rw [performed, if_pos h]; rfl
    all_goals
      have bound : ¬ ((regionAt c r).slot = none ∨ (regionAt c r).use ≠ .none) := by simp [Option.isSome_iff_ne_none.1 hb, hu]
      rw [performed, if_neg bound]
    · rw [if_pos h]; rfl
    · rw [if_neg (ne_true_of_eq_false h)]
  case retire =>
    have performed := (performs_keyRetire hs).trans (opKeyRetire_eq hl m hk hz)
    refine ⟨fun h => mbxEnds_of rfl hs ?_, fun h hn => ⟨mbxEnds_of rfl hs ?_, fun hw => fget_zeroiseSlot hw _⟩,
      fun h hn hu hr => mbxRuns_of rfl hs ?_⟩
    · rw [performed, if_pos h]; rfl
    · have free : rekeyBusy c none (some (leAt req 0 1)) = false := by simp [rekeyBusy, hn]
      rw [performed, if_neg (ne_false_of_eq_true h), if_neg (by simp [hn]), if_neg (ne_true_of_eq_false free), if_pos hn]
      rfl
    · rw [performed, if_neg (ne_false_of_eq_true h), if_neg fun ⟨r, hm, hx⟩ => hx (hu r hm),
        if_neg (ne_true_of_eq_false hr), if_neg hn]
  case info =>
    have performed {t : MbxOut × State} (h : opKeyInfo c req = t) : mbxPerform c m false = t := (performs_keyInfo hs).trans h
    exact ⟨fun hk hi => ⟨_, mbxEnds_of rfl hs (performed (opKeyInfo_slot hl hz hk hi)), keyInfoSlot_state c _, keyInfoSlot_check c _⟩,
      fun hk hi => ⟨_, mbxEnds_of rfl hs (performed (opKeyInfo_region hl hz hk hi)), keyInfoRegion_slot _, keyInfoRegion_major _⟩⟩

end Sys2Proof.Machine
end

section
/-! Proofs of the mirror family: REGION_STATE, the intent bitmap, repair copies, catch-up and seeds. -/

namespace Sys2Proof.Machine

/-! ### Frames of a session (R313) -/

section
variable {s : State} {n : MPort}

theorem inSession_facts (h : inSession s n = true) :
    coreUp s = true ∧ s.mir.pairId.isSome = true ∧ (s.mir.ports[n]).session = true := by
  simpa only [inSession, Bool.and_eq_true, and_assoc] using h

theorem hears_of_session (h : inSession s n = true) (hl : (s.mir.ports[n]).linkUp = true) : hears s n = true := by
  rw [hears, (inSession_facts h).1, hl]
  rfl

/-- A packet number that is noted ends no session. -/
theorem inSession_notePn (s : State) (p n : MPort) (tag : Option SecTag) : inSession (notePn s p tag) n = inSession s n := by
  cases tag with
  | none => rfl
  | some t =>
    have kept (f : MirPort → MirPort) (hf : ∀ x, (f x).session = x.session) :
        ((vmod s.mir.ports p f)[n]).session = (s.mir.ports[n]).session := by
      by_cases h : n = p
      · rw [h, vmod_self, hf]
      · rw [vmod_ne _ _ h]
    exact congrArg (coreUp s && s.mir.pairId.isSome && ·) (kept _ fun _ => rfl)

theorem inSession_frameTaken (f : MirFrame) (h : inSession s n = true) : inSession (frameTaken s f) n = true :=
  (inSession_notePn (fecSeen s f.port f.fec) f.port n f.env.sec).trans h
end

/-- The form of a frame's body is the last that it is discarded for. -/
theorem frameCause_eq (s : State) (n : MPort) (e : Envelope) (fcsOk ok : Bool) :
    frameCause s n e fcsOk ok = (frameCause s n e fcsOk true).or (if ok then none else some .malformed) := by
  cases ok with
  | true => exact (Option.or_none).symm
  | false =>
    simp only [frameCause, if_true, Bool.false_eq_true, if_false]
    cases secCause s n e.sec <;> split_ifs <;> rfl

theorem frameFault_misfit {s : State} {f : MirFrame} (h : frameFault s f true = none) : frameFault s f false = some .malformed := by
  rw [frameFault, frameCause_eq, Option.or_eq_none_iff] at h
  rw [frameFault, Bool.false_and, frameCause_eq, h.1]
  rfl

/-! ### REGION_STATE (R313, R314) -/

section
variable {s : State} {f : MirFrame} {a : BitVec 48} {body : List Byte}

theorem exec_regionState_taken (hh : hears s f.port = true) (hf : frameFault s f (decide (body.length = 480)) = none) :
    exec (.regionState f (a, body)) s = done (settle (regionStateIn (frameTaken s f) f.port a body)) := by
  show execRegionState f (a, body) s = _
  rw [execRegionState, hh, if_neg (by simp), hf]

theorem exec_regionState_bad {c : RxCause} (hh : hears s f.port = true) (hf : frameFault s f (decide (body.length = 480)) = some c) :
    exec (.regionState f (a, body)) s = done (frameBad s f c) := by
  show execRegionState f (a, body) s = _
  rw [execRegionState, hh, if_neg (by simp), hf]

theorem regionStateIn_session {n : MPort} (h : inSession s n = true) : regionStateIn s n a body =
    { takeAck s n a with mir := { (takeAck s n a).mir with peer := some body } } := by
  rw [regionStateIn, h, if_neg (by simp)]

theorem exec_regionStateTimer {n : MPort} (h : inSession s n = true) :
    exec (.regionStateTimer n) s = done (sendNote s n (.regionState (stateBody s))) := if_pos h
end

/-! ### The intent bitmap (R207, R322) -/

theorem fhas_fput {α : Type} (m : FMap α) (j k : Nat) (v : α) : fhas (fput m j v) k = (fhas m k || k == j) := by
  by_cases h : k = j
  · rw [h, fhas, fget_fput_self, beq_self_eq_true, Bool.or_true]
    rfl
  · rw [fhas, fget_fput_ne _ _ h, beq_eq_false_iff_ne.2 h, Bool.or_false]
    rfl

theorem fhas_foldl_fput (l : List Nat) (m : FMap Unit) (k : Nat) :
    fhas (l.foldl (fun m j => fput m j ()) m) k = (fhas m k || l.contains k) := by
  induction l generalizing m with
  | nil => exact (Bool.or_false _).symm
  | cons j l ih => rw [List.foldl_cons, ih, fhas_fput, List.contains_cons, Bool.or_assoc]

theorem saveInner_mir (s : State) (i : Inner) : (saveInner s i).mir = s.mir := by
  obtain ⟨_, _, _, _, _, _, _, e⟩ := saveInner_frame s i
  rw [e]

section
variable {s : State}

theorem exec_intentBitmapProgramDone_cold (h : s.thm.coldHold = true) : exec .intentBitmapProgramDone s = done s := if_pos (.inr h)

theorem exec_intentBitClear_cold (h : s.thm.coldHold = true) (region extent : BitVec 9) :
    exec (.intentBitClear region extent) s = done s :=
  if_neg fun k => by
    have warm := k.2.1
    rw [h] at warm
    cases warm

section
variable (hc : coreUp s = true) (h : s.thm.coldHold = false)
include hc h

theorem exec_intentBitmapProgramDone : exec .intentBitmapProgramDone s =
    let u := if s.mir.intentAsk.isEmpty then s else saveInner s .intent
    done (settle { u with mir := { u.mir with
      intent := s.mir.intentAsk.foldl (fun m k => fput m k ()) s.mir.intent, intentAsk := [] } }) := by
  have kept : (if s.mir.intentAsk.isEmpty then s else saveInner s .intent).mir = s.mir := by
    split
    · rfl
    · exact saveInner_mir s _
  show execIntentBitmapProgramDone s = _
  rw [execIntentBitmapProgramDone, if_neg (by simp [hc, h])]
  simp only [kept]

theorem exec_intentBitClear (region extent : BitVec 9) (hk : fhas s.mir.intent (region.toNat * 512 + extent.toNat) = true)
    (h0 : owesExtent s 0 (region.toNat * 512 + extent.toNat) = false) (h1 : owesExtent s 1 (region.toNat * 512 + extent.toNat) = false)
    (hw : ∀ x ∈ s.cmds, x.mateWait = true → intentKey (sectorOf x.addr) ≠ region.toNat * 512 + extent.toNat) :
    exec (.intentBitClear region extent) s = done (settle { saveInner s .intent with mir := { (saveInner s .intent).mir with
      intent := fdel s.mir.intent (region.toNat * 512 + extent.toNat) } }) := by
  have waits : s.cmds.any (fun x => x.mateWait && intentKey (sectorOf x.addr) == region.toNat * 512 + extent.toNat) = false := by
    simpa using hw
  rw [saveInner_mir]
  exact if_pos ⟨hc, by rw [h]; rfl, hk, by rw [h0]; rfl, by rw [h1]; rfl, by rw [waits]; rfl⟩
end
end

/-! ### REPAIR_REQ and SEED_REQ (R329, R331) -/

section
variable {s : State} {f : MirFrame} {a : BitVec 48} (hs : inSession s f.port = true) (hl : (s.mir.ports[f.port]).linkUp = true)
include hs hl

theorem exec_repairReq {pas : List PA} (hf : frameFault s f (decide (pas.length ≤ 64)) = none)
    (hr : (takeAck (frameTaken s f) f.port a).glb.state.serves = true) :
    exec (.repairReq f (a, pas)) s =
      done (settle (pas.foldl (fun s pa => supplyOne s f.port pa) (takeAck (frameTaken s f) f.port a))) := by
  show execRepairReq f (a, pas) s = _
  rw [execRepairReq, hears_of_session hs hl, if_neg (by simp), hf]
  dsimp only
  rw [repairIn, inSession_frameTaken f hs, if_neg (by simp)]
  exact congrArg (done ∘ settle) (if_pos hr)

theorem exec_seedReq {regions : List (BitVec 9)} (hf : frameFault s f (decide (regions.length ≤ 480)) = none) :
    exec (.seedReq f (a, regions)) s =
      let t := takeAck (frameTaken s f) f.port a
      done (settle ((regions.filter fun r => (regionAt t r.toNat).mirrored && !(regionAt t r.toNat).lost).foldl
        (fun s r => askSeed s r.toNat (isMate s)) t)) := by
  show execSeedReq f (a, regions) s = _
  rw [execSeedReq, hears_of_session hs hl, if_neg (by simp), hf]
  dsimp only
  rw [seedReqIn, inSession_frameTaken f hs, if_neg (by simp)]
end

theorem supplyOne_not_in_sync {s : State} {n : MPort} (hp : s.mir.pairId.isSome = true) (hm : s.mir.mate = true)
    (hi : (s.mir.ports[n]).inSync = false) (pa : PA) : supplyOne s n pa = s :=
  if_pos (.inr (.inr (.inr ⟨by rw [isMate, hp, hm]; rfl, by rw [hi]; rfl⟩)))

/-! ### Catch-up (R320, R323) -/

/-- The record of a catch-up that carries a sector's value, or POISON. -/
def copyRecord (lsa : Nat) : Option Sector → Record
  | some d => liveRecord .sector (paOf lsa) d
  | none => liveRecord .poison (paOf lsa) 0

/-- The sector that a catch-up is at in an extent. -/
def catchupLsa (s : State) (n : MPort) (key : Nat) : Nat := regionBase (key / 512) + key % 512 * 16384 + (s.mir.ports[n]).catchAt

/-- A sector has been read and sent by a catch-up, which goes on to the next. -/
def catchupSent (s : State) (n : MPort) (lsa : Nat) (out : ReadOutcome) : State :=
  mirSend (modMir (mateRead s lsa out).2 n fun x => { x with catchAt := x.catchAt + 1 }) n (copyRecord lsa (mateRead s lsa out).1) none

section
variable {s : State} {n : MPort} {key : Nat} {rest : List Nat} (hs : inSession s n = true)
  (hx : (s.mir.ports[n]).catchup = key :: rest) (hm : mirrors s (key / 512) = true)
  (hd : (mirRegion s (key / 512)).detached = false) (hl : (regionAt s (key / 512)).lost = false)
include hs hx hm hd hl

theorem exec_catchupSector_elsewhere (out : ReadOutcome) (hp : portFor s (key / 512) ≠ n) : exec (.catchupSector n out) s =
    done (settle (reachSync (handExtent s n (portFor s (key / 512)) key) n)) := by
  show execCatchupSector n out s = _
  rw [execCatchupSector, hx]
  dsimp only
  rw [hs, if_neg (by simp), if_neg (by simp [hm, hd, hl]), if_pos hp]

theorem exec_catchupSector_here (out : ReadOutcome) (hp : portFor s (key / 512) = n) (hr : mirRoom s n = true)
    (ha : mateReads s (catchupLsa s n key) = true) :
    exec (.catchupSector n out) s = done (settle (
      if (s.mir.ports[n]).catchAt = 16383 then reachSync (skipExtent (catchupSent s n (catchupLsa s n key) out) n) n
      else catchupSent s n (catchupLsa s n key) out)) := by
  have free : ¬ ((!mirRoom s n) = true ∨ (!mateReads s (catchupLsa s n key)) = true) := by simp [hr, ha]
  show execCatchupSector n out s = _
  rw [execCatchupSector, hx]
  dsimp only
  rw [hs, if_neg (by simp), if_neg (by simp [hm, hd, hl]), if_neg (not_not.2 hp)]
  exact if_neg free
end

/-! ### Seeds (R320, R331) -/

/-- The record of a seed that carries a sector's value, or POISON. -/
def seedCopy (d : SeedOut) (lsa : Nat) : Option Sector → Record
  | some v => seedRecord .sector d.rebuild (paOf lsa) v
  | none => seedRecord .poison d.rebuild (paOf lsa) 0

/-- The next sector of a seed. -/
def SeedOut.lsa (d : SeedOut) : Nat := regionBase d.region.toNat + d.next

/-- The next sector of a seed has been read and sent. -/
def seedSent (s : State) (n : MPort) (d : SeedOut) (out : ReadOutcome) : State :=
  mirSend (mateRead s d.lsa out).2 n (seedCopy d d.lsa (mateRead s d.lsa out).1) none

section
variable {s : State} {n : MPort} {d : SeedOut} (hs : inSession s n = true) (hx : (s.mir.ports[n]).seed = some d)
  (hm : (regionAt s d.region.toNat).mirrored = true) (hl : (regionAt s d.region.toNat).lost = false)
include hs hx hm hl

theorem exec_seedSectorSend_elsewhere (out : ReadOutcome) (hp : portFor s d.region.toNat ≠ n) :
    exec (.seedSectorSend n out) s = done (settle (handSeed s n (portFor s d.region.toNat) d)) := by
  show execSeedSectorSend n out s = _
  rw [execSeedSectorSend, hx]
  dsimp only
  rw [if_neg (by simp [hm, hl]), if_pos ⟨hs, hp⟩]

theorem exec_seedSectorSend_here (out : ReadOutcome) (hp : portFor s d.region.toNat = n) (hr : mirRoom s n = true)
    (ha : mateReads s d.lsa = true) : exec (.seedSectorSend n out) s =
      if d.next + 1 < regionSectors then
        done (settle (modMir (seedSent s n d out) n fun x => { x with seed := some { d with next := d.next + 1 } }))
      else
        done (settle (mirSend (modMir (seedSent s n d out) n fun x => { x with seed := none }) n
          (seedRecord .seedEnd d.rebuild (paOf (regionBase d.region.toNat)) 0) none)) := by
  have free : ¬ ((!inSession s n) = true ∨ (!mirRoom s n) = true ∨ (!mateReads s d.lsa) = true) := by simp [hs, hr, ha]
  show execSeedSectorSend n out s = _
  rw [execSeedSectorSend, hx]
  dsimp only
  rw [if_neg (by simp [hm, hl]), if_neg fun k => k.2 hp]
  exact if_neg free
end

/-- Settles O48: a frame of a session is taken unless its form is wrong (`frameFault_misfit`), a bit is set or cleared once it is
programmed, and a catch-up or a seed goes on where its region's port is. -/
theorem mirror_state_and_copies : Obligations.mirror_state_and_copies := by
  refine ⟨fun s hc => ⟨fun f a body hs hl hf => ?state, fun n => exec_regionStateTimer, fun hh =>
      ⟨exec_intentBitmapProgramDone_cold hh, exec_intentBitClear_cold hh⟩, fun hh => ⟨?set, fun region extent => ?clear⟩⟩,
    fun n s hs => ?copies⟩
  case state =>
    have hh := hears_of_session hs hl
    refine ⟨fun hb => ⟨exec_regionState_taken hh (by rw [hb]; exact hf), regionStateIn_session hs⟩, fun hb => ?_⟩
    exact exec_regionState_bad hh (by rw [decide_eq_false hb]; exact frameFault_misfit hf)
  case set => exact ⟨_, exec_intentBitmapProgramDone hc hh, fhas_foldl_fput s.mir.intentAsk s.mir.intent⟩
  case clear => exact exec_intentBitClear hc hh region extent
  case copies =>
    intro x
    refine ⟨?asked, fun pa hm hi => supplyOne_not_in_sync (inSession_facts hs).2.1 hm hi pa, fun out key rest hx hm hd hl => ?catchup,
      fun out d hx hm hl => ?seed⟩
    case asked =>
      rintro f rfl hl
      exact ⟨fun a pas => exec_repairReq hs hl, fun a regions => exec_seedReq hs hl⟩
    case catchup =>
      refine ⟨?_, fun hp hr ha => exec_catchupSector_here hs hx hm hd hl out hp hr ha⟩
      rintro o rfl hp
      exact exec_catchupSector_elsewhere hs hx hm hd hl out hp
    case seed =>
      refine ⟨?_, fun hp hr ha => ⟨fun next => ?next, fun last => ?last⟩⟩
      · rintro o rfl hp
        exact exec_seedSectorSend_elsewhere hs hx hm hl out hp
      case next => exact (exec_seedSectorSend_here hs hx hm hl out hp hr ha).trans (if_pos next)
      case last => exact (exec_seedSectorSend_here hs hx hm hl out hp hr ha).trans (if_neg (Nat.not_lt.2 last))

end Sys2Proof.Machine
end

section
/-! Proofs of the lookup family: the Tables group of mailbox commands. -/

namespace Sys2Proof.Machine

/-! ### Tables of the staged version (R232, R233, R249) -/

section
variable {s : State} {req : List Byte}

/-- The refusals of TBL_CREATE, in their order (R351). -/
theorem opTblCreate_eq {t : Table} (hl : req.length = 40) (ht : createdTable req = some t) : opTblCreate s req =
    if fhas (stagedSet s).tables (leAt req 0 1) = true then refusedFor s 6
    else if badRegions s t = true then refusedFor s 8
    else if noSpace s t = true then refusedFor s 7
    else doneWith (putStaged s { stagedSet s with tables := fput (stagedSet s).tables (leAt req 0 1) { t with room := roomFor s t } })
      (leBytes 4 (unitsUp (tierBytes t) 65536) ++ leBytes 4 (unitsUp (mediumBytes t) 1048576)) := by
  rw [opTblCreate, if_neg (not_not.2 hl), ht]

theorem opTblDelete_eq (hl : req.length = 4) (hz : zeroAt req 1 3 = true) : opTblDelete s req =
    if fhas (stagedSet s).tables (leAt req 0 1) = true then
      doneWith (putStaged s { stagedSet s with tables := fdel (stagedSet s).tables (leAt req 0 1) }) []
    else refusedFor s 1 := by
  rw [opTblDelete, if_neg (not_not.2 hl), if_neg (by simp [hz])]
  simp only [Bool.not_eq_true', ← Bool.not_eq_true, ite_not]

/-! ### Records, and the commit (R247, R248, R250) -/

/-- The records of a TBL_UPDATE (R247). -/
def updateRecords (req : List Byte) : List (List Byte) := (List.range (leAt req 0 2)).map fun k => slice req (16 + 48 * k) 48

/-- Once its records are staged, a TBL_UPDATE ends, or goes on as TBL_COMMIT (R248). -/
theorem opTblUpdate_eq {applied fail : Nat} {t : State} (m : Mbx) (hl : req.length = 16 + 48 * leAt req 0 2) (hn : leAt req 0 2 ≠ 0)
    (hm : leAt req 0 2 ≤ 80) (hc : leAt req 2 1 ≤ 1) (hz : zeroAt req 3 13 = true)
    (hr : stageAll (updateRecords req) s 0 = (applied, fail, t)) : opTblUpdate s m req =
    if fail ≠ 0 then (.fin 1 fail (updateResp applied fail 0), t)
    else if leAt req 2 1 = 0 then doneWith t (updateResp applied 0 0)
    else if namesMissing (stagedSet t) = true then (.fin 1 10 (updateResp applied 0 0), t)
    else (.runs, startTblCommit t m) := by
  have whole : ¬ (req.length < 16 ∨ req.length ≠ 16 + 48 * leAt req 0 2) := by omega
  have fields : ¬ (leAt req 0 2 = 0 ∨ 80 < leAt req 0 2 ∨ 1 < leAt req 2 1 ∨ (!zeroAt req 3 13) = true) := by simp [hn, hm, hc, hz]
  rw [updateRecords] at hr
  rw [opTblUpdate]
  dsimp only
  rw [if_neg whole, if_neg fields, hr]

theorem opTblCommit_eq (m : Mbx) : opTblCommit s m [] =
    s.lke.staged.elim (doneWith s (leBytes 4 s.lke.cur.version.toNat)) fun t =>
      if namesMissing t = true then refusedFor s 10 else (.runs, startTblCommit s m) := by
  have fits : ¬ ([] : List Byte).length ≠ 0 := not_not.2 rfl
  rw [opTblCommit, if_neg fits]
  cases s.lke.staged <;> rfl

/-! ### Profiles of the staged version (R239) -/

section
variable (hl : req.length = 64) (hn : profByte (wordOf 512 req) 0 < 64)
include hl hn

theorem opProfileSet_no_steps (hs : profSteps (wordOf 512 req) = 0) : opProfileSet s req =
    doneWith (putStaged s { stagedSet s with profiles := fdel (stagedSet s).profiles (profByte (wordOf 512 req) 0) }) [] := by
  rw [opProfileSet, if_neg (not_not.2 hl)]
  dsimp only
  rw [if_neg (by omega), if_pos hs]

/-- The second stage of PROFILE_SET, for a profile with steps that passes the first (R239). -/
theorem opProfileSet_steps (hs : profSteps (wordOf 512 req) ≠ 0) (hm : profSteps (wordOf 512 req) ≤ 4)
    (hk : profKeyLen (wordOf 512 req) ≠ 0) (hb : profKeyLen (wordOf 512 req) ≤ 264) : opProfileSet s req =
    if profileOk (stagedSet s) (wordOf 512 req) = true then doneWith (putStaged s { stagedSet s with
      profiles := fput (stagedSet s).profiles (profByte (wordOf 512 req) 0) (wordOf 512 req) }) []
    else refusedFor s 9 := by
  rw [opProfileSet, if_neg (not_not.2 hl)]
  dsimp only
  rw [if_neg (by omega), if_neg hs]
  simp only [Bool.not_eq_true', ← Bool.not_eq_true, ite_not]
end

/-! ### Reads of the current version (R350) -/

theorem opTblQuery_eq {t : Table} (hl : req.length = 48) (hn : leAt req 0 1 = 0) (hz : zeroAt req 8 8 = true)
    (ht : fget s.lke.cur.tables (leAt req 1 1) = some t) (hf : recordFits t req = true) : opTblQuery s req =
    doneWith s ((t.entries.find? (sameEntry (recordEntry req))).elim (leBytes 12 0) fun e =>
      leBytes 8 e.action.toNat ++ leBytes 4 1) := by
  rw [opTblQuery, if_neg (not_not.2 hl), if_neg (by simp [hn, hz]), ht]
  dsimp only
  rw [if_neg (by simp [hf])]
  cases t.entries.find? (sameEntry (recordEntry req)) <;> rfl

theorem opProfileGet_eq (hl : req.length = 4) (hn : leAt req 0 1 < 64) (hz : zeroAt req 1 3 = true) : opProfileGet s req =
    doneWith s ((fget s.lke.cur.profiles (leAt req 0 1)).elim (leBytes 1 (leAt req 0 1) ++ leBytes 63 0) fun p => bytesOf p 64) := by
  rw [opProfileGet, if_neg (not_not.2 hl), if_neg (by rw [hz]; simpa using Nat.le_of_lt_succ hn)]
  cases fget s.lke.cur.profiles (leAt req 0 1) <;> rfl

end

/-- TBL_INFO: what stands before a table's capacity. -/
def tblInfoHead (t : Table) : List Byte :=
  leBytes 1 t.kind.code ++ leBytes 1 t.medium.toNat ++ leBytes 1 t.dual.toNat ++ leBytes 1 0 ++ leBytes 2 t.keyLen ++
    leBytes 1 t.regions.length ++ leBytes 1 0

/-- TBL_INFO: what stands between the count of a table's entries and its default action. -/
def tblInfoPlaces (s : State) (t : Table) : List Byte :=
  leBytes 4 (poisonedLeaves s t) ++ leBytes 4 0 ++
    (List.range 8).flatMap fun i => leBytes 2 (((t.regions[i]?).map (·.toNat)).getD 0)

/-- TBL_INFO of a table. -/
def tblInfoBytes (s : State) (t : Table) : List Byte :=
  tblInfoHead t ++ (leBytes 4 t.capacity ++ (leBytes 4 t.entries.length ++ (tblInfoPlaces s t ++ leBytes 8 t.defaultAction.toNat)))

section
variable {s : State} {req : List Byte} (hl : req.length = 4) (hz : zeroAt req 1 3 = true)
include hl hz

theorem opTblInfo_absent (ht : fget s.lke.cur.tables (leAt req 0 1) = none) : opTblInfo s req = refusedFor s 1 := by
  rw [opTblInfo, if_neg (not_not.2 hl), if_neg (by simp [hz]), ht]

theorem opTblInfo_present {t : Table} (ht : fget s.lke.cur.tables (leAt req 0 1) = some t) :
    opTblInfo s req = doneWith s (tblInfoBytes s t) := by
  rw [opTblInfo, if_neg (not_not.2 hl), if_neg (by simp [hz]), ht]
  simp only [tblInfoBytes, tblInfoHead, tblInfoPlaces, List.append_assoc]
end

section
variable (s : State) (t : Table)

theorem length_tblInfoHead : (tblInfoHead t).length = 8 := by
  simp only [tblInfoHead, List.length_append, length_leBytes]

theorem length_tblInfoPlaces : (tblInfoPlaces s t).length = 24 := by
  simp only [tblInfoPlaces, List.length_append, List.length_flatMap, length_leBytes]
  rfl

theorem tableKind_code_lt (k : TblKind) : k.code < 256 ^ 1 := by cases k <;> decide

theorem flag_toNat_lt (b : Bool) : b.toNat < 256 ^ 1 := b.toNat_lt.trans (by decide)

theorem tblInfoBytes_kind : leAt (tblInfoBytes s t) 0 1 = t.kind.code :=
  (leAt_leBytes (a := []) rfl rfl).trans (Nat.mod_eq_of_lt (tableKind_code_lt _))

theorem tblInfoBytes_medium : leAt (tblInfoBytes s t) 1 1 = t.medium.toNat :=
  (leAt_leBytes (a := leBytes 1 t.kind.code) rfl rfl).trans (Nat.mod_eq_of_lt (flag_toNat_lt _))

theorem tblInfoBytes_dual : leAt (tblInfoBytes s t) 2 1 = t.dual.toNat :=
  (leAt_leBytes (a := leBytes 1 t.kind.code ++ leBytes 1 t.medium.toNat) rfl rfl).trans (Nat.mod_eq_of_lt (flag_toNat_lt _))

theorem tblInfoBytes_capacity (h : t.capacity < 256 ^ 4) : leAt (tblInfoBytes s t) 8 4 = t.capacity :=
  (leAt_leBytes rfl (length_tblInfoHead t)).trans (Nat.mod_eq_of_lt h)

theorem tblInfoBytes_entries (h : t.entries.length < 256 ^ 4) : leAt (tblInfoBytes s t) 12 4 = t.entries.length := by
  have before : (tblInfoHead t ++ leBytes 4 t.capacity).length = 12 := by
    rw [List.length_append, length_tblInfoHead, length_leBytes]
  exact (leAt_leBytes (List.append_assoc ..).symm before).trans (Nat.mod_eq_of_lt h)

theorem tblInfoBytes_default : leAt (tblInfoBytes s t) 40 8 = t.defaultAction.toNat := by
  have before : (tblInfoHead t ++ (leBytes 4 t.capacity ++ (leBytes 4 t.entries.length ++ tblInfoPlaces s t))).length = 40 := by
    simp only [List.length_append, length_tblInfoHead, length_leBytes, length_tblInfoPlaces]
  refine (leAt_leBytes (c := []) ?_ before).trans (Nat.mod_eq_of_lt t.defaultAction.isLt)
  simp only [tblInfoBytes, List.append_assoc, List.append_nil]
end

/-! ### The commands as they are performed -/

section
variable {s c : State} {m : Mbx} {req : List Byte} {irq : Bool}

theorem performs_tblCreate (h : mbxStart (.tblCreate m req irq) s = some c) : mbxPerform c m false = opTblCreate c req := by
  rw [mbxPerform, mbxOp_of_start rfl h, mbxReq_of_start rfl h]; rfl
theorem performs_tblDelete (h : mbxStart (.tblDelete m req irq) s = some c) : mbxPerform c m false = opTblDelete c req := by
  rw [mbxPerform, mbxOp_of_start rfl h, mbxReq_of_start rfl h]; rfl
theorem performs_tblUpdate (h : mbxStart (.tblUpdate m req irq) s = some c) : mbxPerform c m false = opTblUpdate c m req := by
  rw [mbxPerform, mbxOp_of_start rfl h, mbxReq_of_start rfl h]; rfl
theorem performs_tblCommit (h : mbxStart (.tblCommit m req irq) s = some c) : mbxPerform c m false = opTblCommit c m req := by
  rw [mbxPerform, mbxOp_of_start rfl h, mbxReq_of_start rfl h]; rfl
theorem performs_tblAbort (h : mbxStart (.tblAbort m req irq) s = some c) : mbxPerform c m false = opTblAbort c req := by
  rw [mbxPerform, mbxOp_of_start rfl h, mbxReq_of_start rfl h]; rfl
theorem performs_tblQuery (h : mbxStart (.tblQuery m req irq) s = some c) : mbxPerform c m false = opTblQuery c req := by
  rw [mbxPerform, mbxOp_of_start rfl h, mbxReq_of_start rfl h]; rfl
theorem performs_tblInfo (h : mbxStart (.tblInfo m req irq) s = some c) : mbxPerform c m false = opTblInfo c req := by
  rw [mbxPerform, mbxOp_of_start rfl h, mbxReq_of_start rfl h]; rfl
theorem performs_profileSet (h : mbxStart (.profileSet m req irq) s = some c) : mbxPerform c m false = opProfileSet c req := by
  rw [mbxPerform, mbxOp_of_start rfl h, mbxReq_of_start rfl h]; rfl
theorem performs_profileGet (h : mbxStart (.profileGet m req irq) s = some c) : mbxPerform c m false = opProfileGet c req := by
  rw [mbxPerform, mbxOp_of_start rfl h, mbxReq_of_start rfl h]; rfl
end

/-- Settles O52: a command that starts is its operation on the request, whose refusals stand in their order in the equations above. -/
theorem mailbox_tables_group : Obligations.mailbox_tables_group := by
  intro m req irq s c set n
  refine ⟨fun hs hl t ht => ?create, fun hs hl hz => ?delete, fun hs hl hn hm hc hz applied fail t hr => ?update,
    fun hs hq => ?commit, fun hs hq => ?abort, fun hs hl hn hz t ht hf => ?query, fun hs hl hz => ?info, fun hs hl => ?profile,
    fun hs hl hn hz => ?read⟩
  case create =>
    have performed := (performs_tblCreate hs).trans (opTblCreate_eq hl ht)
    refine ⟨fun held => mbxEnds_of rfl hs (performed.trans (if_pos held)), fun free => ?_⟩
    replace performed := performed.trans (if_neg (ne_true_of_eq_false free))
    refine ⟨fun bad => mbxEnds_of rfl hs (performed.trans (if_pos bad)), fun good full => ?_, fun good fits => ?_⟩
    all_goals replace performed := performed.trans (if_neg (ne_true_of_eq_false good))
    · exact mbxEnds_of rfl hs (performed.trans (if_pos full))
    · exact mbxEnds_of rfl hs (performed.trans (if_neg (ne_true_of_eq_false fits)))
  case delete =>
    have performed := (performs_tblDelete hs).trans (opTblDelete_eq hl hz)
    exact ⟨fun held => mbxEnds_of rfl hs (performed.trans (if_pos held)),
      fun free => mbxEnds_of rfl hs (performed.trans (if_neg (ne_true_of_eq_false free)))⟩
  case update =>
    have performed := (performs_tblUpdate hs).trans (opTblUpdate_eq m hl hn hm hc hz hr)
    refine ⟨fun failed => mbxEnds_of rfl hs (performed.trans (if_pos failed)), fun staged alone => ?alone,
      fun staged commits named => ?begins, fun staged commits missing => ?refused⟩
    all_goals replace performed := performed.trans (if_neg (not_not.2 staged))
    case alone => exact mbxEnds_of rfl hs (performed.trans (if_pos alone))
    all_goals replace performed := performed.trans (if_neg (by omega))
    case begins => exact mbxRuns_of rfl hs (performed.trans (if_neg (ne_true_of_eq_false named)))
    case refused => exact mbxEnds_of rfl hs (performed.trans (if_pos missing))
  case commit =>
    subst hq
    have performed := (performs_tblCommit hs).trans (opTblCommit_eq m)
    refine ⟨fun unstaged => mbxEnds_of rfl hs (by rw [performed, unstaged]; rfl), fun t staged => ?_⟩
    rw [staged, Option.elim_some] at performed
    exact ⟨fun missing => mbxEnds_of rfl hs (performed.trans (if_pos missing)),
      fun named => mbxRuns_of rfl hs (performed.trans (if_neg (ne_true_of_eq_false named)))⟩
  case abort =>
    subst hq
    exact mbxEnds_of rfl hs (performs_tblAbort hs)
  case query =>
    refine mbxEnds_of rfl hs ((performs_tblQuery hs).trans ((opTblQuery_eq hl hn hz ht hf).trans ?_))
    cases t.entries.find? (sameEntry (recordEntry req)) <;> rfl
  case info =>
    refine ⟨fun absent => mbxEnds_of rfl hs ((performs_tblInfo hs).trans (opTblInfo_absent hl hz absent)), fun t ht =>
      ⟨tblInfoBytes c t, mbxEnds_of rfl hs ((performs_tblInfo hs).trans (opTblInfo_present hl hz ht)), tblInfoBytes_kind c t,
        tblInfoBytes_medium c t, tblInfoBytes_dual c t, tblInfoBytes_capacity c t, tblInfoBytes_entries c t, tblInfoBytes_default c t⟩⟩
  case profile =>
    intro p
    refine ⟨fun hn empty => mbxEnds_of rfl hs ((performs_profileSet hs).trans (opProfileSet_no_steps hl hn empty)),
      fun hn steps hm hk hb => ?_⟩
    have performed := (performs_profileSet hs).trans (opProfileSet_steps hl hn steps hm hk hb)
    exact ⟨fun bad => mbxEnds_of rfl hs (performed.trans (if_neg (ne_true_of_eq_false bad))),
      fun good => mbxEnds_of rfl hs (performed.trans (if_pos good))⟩
  case read =>
    refine mbxEnds_of rfl hs ((performs_profileGet hs).trans ((opProfileGet_eq hl hn hz).trans ?_))
    cases fget c.lke.cur.profiles n <;> rfl

end Sys2Proof.Machine
end

section
/-! Proofs of the queue and counter family: the Queues group of mailbox commands. -/

namespace Sys2Proof.Machine

/-! ### The pool and the queues (R259, R261, R271) -/

section
variable {s : State} {req : List Byte}

theorem opPoolSet_eq (hl : req.length = 4) (hr : leAt req 0 2 < 480) (ha : leAt req 2 1 ≤ 1) (hz : zeroAt req 3 1 = true) :
    opPoolSet s req =
    if (regionAt s (leAt req 0 2)).use ≠ .buffer then refusedFor s 1
    else doneWith (modPool (saveInner s (.pool (leAt req 0 2))) (leAt req 0 2) fun p => { p with alloc := leAt req 2 1 == 1 }) [] := by
  rw [opPoolSet, if_neg (not_not.2 hl), if_neg (by simp [hr, ha, hz])]

/-- A QUEUE_SET whose descriptor has its charge and its region's bit takes effect at one instant (R261, R271). -/
theorem opQueueSet_ready (m : Mbx) (hl : req.length = 16) (hf : recordOk req = true)
    (hc : (queueAt s (leAt req 0 4)).charged = true ∨ holdsGrant s (.queueSet m) = true ∨ mayReserve s 128 = true)
    (hb : (descRegions s (queueAt s (leAt req 0 4))).all (s.krf.bitmap.contains ·) = true) : opQueueSet s m req =
    doneWith (notePeak (setQueue (descCheck (ungrant s (.queueSet m)) (leAt req 0 4)) (leAt req 0 4) req)) [] := by
  have charge : ¬ ((!(queueAt s (leAt req 0 4)).charged) = true ∧ (!holdsGrant s (.queueSet m)) = true ∧
      (!mayReserve s 128) = true) := by
    rcases hc with charged | granted | room <;> simp [*]
  have bits : (descRegions s (queueAt s (leAt req 0 4))).filter (fun r => !s.krf.bitmap.contains r) = [] :=
    List.filter_eq_nil_iff.2 fun r hr => by rw [List.all_eq_true.1 hb r hr]; decide
  rw [opQueueSet, if_neg (not_not.2 hl), if_neg (by simp [hf])]
  dsimp only
  rw [if_neg charge, bits, if_neg (by simp)]

/-- A record that enables a queue discards nothing: the queue has the record's configuration, and keeps the rest. -/
theorem queueAt_setQueue_enabled (u : State) (q : Nat) (he : leAt req 4 1 = 1) :
    queueAt (setQueue u q req) q = { withRecord (queueAt u q) req with charged := true } := by
  rw [setQueue, if_neg (by omega)]
  exact queueAt_putQueue rfl

theorem withRecord_enabled (v : Queue) (he : leAt req 4 1 = 1) : withRecord v req =
    { v with enable := true, enqPorts := BitVec.ofNat 4 (leAt req 5 1 % 16), deqPorts := BitVec.ofNat 4 (leAt req 5 1 / 16)
             maxChunks := leAt req 8 4 } := by
  rw [withRecord, he]
  rfl

theorem opQueueGet_eq (hl : req.length = 4) (hq : leAt req 0 4 < 131072) : opQueueGet s req =
    doneWith (descCheck s (leAt req 0 4))
      (queueRecord (leAt req 0 4) (queueAt (descCheck s (leAt req 0 4)) (leAt req 0 4)) ++
        bytesOf (qstatUnit (queueAt (descCheck s (leAt req 0 4)) (leAt req 0 4))) 16 ++
        leBytes 8 (queueBytes (queueAt (descCheck s (leAt req 0 4)) (leAt req 0 4)))) := by
  rw [opQueueGet]
  dsimp only
  rw [if_neg (not_not.2 hl), if_neg (by omega)]

/-! ### The clearing of counters (R279) -/

/-- The refusals of CNT_CLEAR, in their order. -/
theorem opCntClear_eq (m : Mbx) (hl : req.length = 16) (hp : leAt req 0 8 < 2 ^ 40) (ha : leAt req 0 8 % 256 = 0)
    (hn : leAt req 8 4 ≠ 0) (hm : leAt req 8 4 ≤ 8388608) (hz : zeroAt req 12 4 = true) : opCntClear s m req =
    if lsaRegion (leAt req 0 8 / 256 + leAt req 8 4 - 1) ≠ lsaRegion (leAt req 0 8 / 256) ∨
      (regionAt s (lsaRegion (leAt req 0 8 / 256))).use ≠ .counter then refusedFor s 2
    else if clearing s (lsaRegion (leAt req 0 8 / 256)) = true then refusedFor s 3
    else (.runs, modCnt s fun c => { c with clears := c.clears ++ [(m, leAt req 0 8 / 256, leAt req 8 4, 0, [])] }) := by
  have fields : ¬ (2 ^ 40 ≤ leAt req 0 8 ∨ leAt req 0 8 % 256 ≠ 0 ∨ leAt req 8 4 = 0 ∨ 8388608 < leAt req 8 4 ∨
      (!zeroAt req 12 4) = true) := by simpa [ha, hn, hm, hz] using hp
  rw [opCntClear]
  dsimp only
  rw [if_neg (not_not.2 hl), if_neg fields]

end

/-! ### The commands as they are performed -/

section
variable {s c : State} {m : Mbx} {req : List Byte} {irq : Bool}

theorem performs_poolSet (h : mbxStart (.poolSet m req irq) s = some c) : mbxPerform c m false = opPoolSet c req := by
  rw [mbxPerform, mbxOp_of_start rfl h, mbxReq_of_start rfl h]; rfl
theorem performs_poolInfo (h : mbxStart (.poolInfo m req irq) s = some c) : mbxPerform c m false = opPoolInfo c req := by
  rw [mbxPerform, mbxOp_of_start rfl h, mbxReq_of_start rfl h]; rfl
theorem performs_queueSet (h : mbxStart (.queueSet m req irq) s = some c) : mbxPerform c m false = opQueueSet c m req := by
  rw [mbxPerform, mbxOp_of_start rfl h, mbxReq_of_start rfl h]; rfl
theorem performs_queueGet (h : mbxStart (.queueGet m req irq) s = some c) : mbxPerform c m false = opQueueGet c req := by
  rw [mbxPerform, mbxOp_of_start rfl h, mbxReq_of_start rfl h]; rfl
theorem performs_cntClear (h : mbxStart (.cntClear m req irq) s = some c) : mbxPerform c m false = opCntClear c m req := by
  rw [mbxPerform, mbxOp_of_start rfl h, mbxReq_of_start rfl h]; rfl
theorem performs_cntInfo (h : mbxStart (.cntInfo m req irq) s = some c) : mbxPerform c m false = opCntInfo c req := by
  rw [mbxPerform, mbxOp_of_start rfl h, mbxReq_of_start rfl h]; rfl
end

/-- Settles O53: a command that starts is its operation on the request, whose refusals and effects are the equations above; the
record of an enabled queue stands in the queue itself. -/
theorem mailbox_queues_group : Obligations.mailbox_queues_group := by
  intro m req irq s c
  refine ⟨fun hs hl hr ha hz => ?pool, fun hs hq => ?poolInfo, fun hs hl hf => ?set, fun hs hl hq => ?get,
    fun hs hl hp ha hn hm hz => ?clear, fun hs hq => ?cntInfo⟩
  case pool =>
    have performed := (performs_poolSet hs).trans (opPoolSet_eq hl hr ha hz)
    exact ⟨fun buffer => mbxEnds_of rfl hs (performed.trans (if_neg (not_not.2 buffer))),
      fun other => mbxEnds_of rfl hs (performed.trans (if_pos other))⟩
  case poolInfo =>
    subst hq
    exact mbxEnds_of rfl hs (performs_poolInfo hs)
  case set =>
    intro q hc hb u
    refine ⟨mbxEnds_of rfl hs ((performs_queueSet hs).trans (opQueueSet_ready m hl hf hc hb)), fun enables _ => ?_⟩
    calc queueAt (notePeak (setQueue u q req)) q
      _ = queueAt (setQueue u q req) q := queueAt_congr rfl q
      _ = { withRecord (queueAt u q) req with charged := true } := queueAt_setQueue_enabled u q enables
      _ = _ := by rw [withRecord_enabled _ enables]
  case get => exact mbxEnds_of rfl hs ((performs_queueGet hs).trans (opQueueGet_eq hl hq))
  case clear =>
    intro first r
    have performed := (performs_cntClear hs).trans (opCntClear_eq m hl hp ha hn hm hz)
    refine ⟨fun outside => mbxEnds_of rfl hs (performed.trans (if_pos outside)), fun within counter => ?_⟩
    replace performed := performed.trans (if_neg (not_or.2 ⟨not_not.2 within, not_not.2 counter⟩))
    exact ⟨fun busy => mbxEnds_of rfl hs (performed.trans (if_pos busy)),
      fun free => mbxRuns_of rfl hs (performed.trans (if_neg (ne_true_of_eq_false free)))⟩
  case cntInfo =>
    subst hq
    exact mbxEnds_of rfl hs (performs_cntInfo hs)

end Sys2Proof.Machine
end

section
/-! Proofs of the sealing family: what a program seals, and the minor that it takes. -/

namespace Sys2Proof.Machine

/-! ### Sealed cells (R283, R284) -/

section
variable (key : BitVec 256) (nonce : Nat) (c : Cell) (d : Sector)

/-- The tag is made over metadata that sealing leaves as they are. -/
theorem tagOk_sealCell : tagOk key nonce (sealCell key nonce c d) = true := by
  simp [tagOk, sealCell, metaBytes]

theorem openData_sealCell : openData key nonce (sealCell key nonce c d) = d := by
  simp [openData, sealCell]
end

/-! ### What an array read opens (R285, R287) -/

section
variable {s : State} {lsa : Nat} {out : Decoded}

theorem sectorNumber_le (lsa : Nat) : sectorNumber lsa ≤ lsa := by
  rw [sectorNumber]
  split
  · exact Nat.sub_le ..
  · exact le_rfl

theorem cellAt_putCell (s : State) (lsa : Nat) (c : Cell) : cellAt (putCell s (placeOf s lsa) c) lsa = c :=
  congrArg (Option.getD · _) (fget_fput_self s.med.cells (placeOf s lsa) c)

section
variable (unmarked : fhas s.med.marks lsa = false) (decodes : out.step.isSome = true)
include unmarked decodes

theorem openSector_without_key (h : openKey s lsa = none) : openSector s lsa out = .stale := by
  have step : out.step ≠ none := Option.isSome_iff_ne_none.1 decodes
  simp [openSector, unmarked, step, h]

/-- A cell that is the sector's and verifies under its key reads as what it was sealed as. -/
theorem openSector_with_key {key : BitVec 256} (faithful : out.faithful = true) (lsaOk : out.lsaOk = true) (h : openKey s lsa = some key)
    (number : (cellAt s lsa).lsa.toNat = sectorNumber lsa) (tag : tagOk key (nonceOf s lsa) (cellAt s lsa) = true) :
    openSector s lsa out =
      if (cellAt s lsa).poison then .poison else .data (openData key (nonceOf s lsa) (cellAt s lsa)) := by
  have step : out.step ≠ none := Option.isSome_iff_ne_none.1 decodes
  simp [openSector, unmarked, step, h, faithful, lsaOk, number, tag]
end
end

/-! ### The plan of a program (R285, R289, R303) -/

section
variable {s : State} {lsa : Nat} {p : SealPlan}

theorem sealPlan_inner (hi : isInner lsa = true) (h : sealPlan s lsa = some p) : p = innerPlan s := by
  rw [sealPlan, sealPlanAt, if_pos hi] at h
  exact (Option.some.inj h).symm

/-- A program of a user sector takes its region's major and key, or the old ones of a live re-key. -/
theorem sealPlan_user (hi : isInner lsa = false) (h : sealPlan s lsa = some p) :
    let r := regionAt s (lsaRegion lsa)
    (∃ key, slotKey s r.slot = some key ∧
      let m := minorUnder (storedMeta s lsa) lsa r.major r.ceiling
      p = ⟨key, r.major, m.1, false, m.2⟩) ∨
    ∃ k key, r.rekey = some k ∧ slotKey s (some k.oldSlot) = some key ∧
      let m := minorUnder (storedMeta s lsa) lsa k.oldMajor k.oldCeiling
      p = ⟨key, k.oldMajor, m.1, true, m.2⟩ := by
  intro r
  rw [sealPlan, sealPlanAt, if_neg (by simp [hi])] at h
  dsimp only at h
  split at h
  case h_1 =>
    obtain ⟨key, held, e⟩ := Option.map_eq_some_iff.1 h
    exact .inl ⟨key, held, e.symm⟩
  case h_2 k rekey =>
    split at h
    case isTrue =>
      obtain ⟨key, held, e⟩ := Option.map_eq_some_iff.1 h
      exact .inl ⟨key, held, e.symm⟩
    case isFalse =>
      obtain ⟨key, held, e⟩ := Option.map_eq_some_iff.1 h
      exact .inr ⟨k, key, rekey, held, e.symm⟩

/-- Under one plan the region's key for its major is the plan's. -/
theorem keyFor_sealPlan (hi : isInner lsa = false) (h : sealPlan s lsa = some p)
    (parted : ∀ k, (regionAt s (lsaRegion lsa)).rekey = some k → k.oldMajor ≠ (regionAt s (lsaRegion lsa)).major) :
    keyFor s (regionAt s (lsaRegion lsa)) p.major = some p.key := by
  rcases sealPlan_user hi h with ⟨key, held, rfl⟩ | ⟨k, key, rekey, held, rfl⟩
  · exact (if_pos rfl).trans held
  · rw [keyFor, if_neg (parted k rekey), rekey]
    exact (if_pos rfl).trans held
end

/-! ### A sector as its program leaves it (R283, R287, R303) -/

section
variable {s : State} {lsa : Nat} {p : SealPlan} {out : Decoded}

theorem plannedCell_lsa (h : lsa < 2 ^ 32) (d : Option Sector) : (plannedCell s lsa p d).lsa.toNat = sectorNumber lsa :=
  Nat.mod_eq_of_lt ((sectorNumber_le lsa).trans_lt h)

/-- What an array read finds right after a program of a sector: its key is the plan's. -/
theorem openKey_planned (hp : sealPlan s lsa = some p)
    (parted : ∀ k, (regionAt s (lsaRegion lsa)).rekey = some k → k.oldMajor ≠ (regionAt s (lsaRegion lsa)).major) (d : Option Sector) :
    openKey (putCell s (placeOf s lsa) (plannedCell s lsa p d)) lsa = some p.key := by
  rw [openKey]
  cases hi : isInner lsa with
  | true =>
    have listed : fhas (fput s.med.cells (placeOf s lsa) (plannedCell s lsa p d)) (placeOf s lsa) = true := by
      rw [fhas_fput, beq_self_eq_true, Bool.or_true]
    rw [sealPlan_inner hi hp]
    rw [sealPlan_inner hi hp] at listed
    exact if_pos listed
  | false =>
    have key := keyFor_sealPlan hi hp parted
    rw [if_neg Bool.false_ne_true, cellAt_putCell]
    exact key

/-- A sector reads back as it was programmed: its data, or the poison of a marker. -/
theorem openSector_planned (bound : lsa < 2 ^ 32) (hp : sealPlan s lsa = some p)
    (parted : ∀ k, (regionAt s (lsaRegion lsa)).rekey = some k → k.oldMajor ≠ (regionAt s (lsaRegion lsa)).major)
    (unmarked : fhas s.med.marks lsa = false) (decodes : out.step.isSome = true) (faithful : out.faithful = true)
    (lsaOk : out.lsaOk = true) (d : Option Sector) :
    openSector (putCell s (placeOf s lsa) (plannedCell s lsa p d)) lsa out = d.elim .poison .data := by
  have cell := cellAt_putCell s lsa (plannedCell s lsa p d)
  have number := plannedCell_lsa (s := s) (p := p) bound d
  have tag : tagOk p.key (nonceOf s lsa) (plannedCell s lsa p d) = true := tagOk_sealCell ..
  have opens := openSector_with_key (s := putCell s (placeOf s lsa) (plannedCell s lsa p d)) unmarked decodes faithful lsaOk
    (openKey_planned hp parted d) (by rw [cell, number]) (by rw [cell]; exact tag)
  rw [opens, cell]
  cases d with
  | none => rfl
  | some d => exact congrArg Opened.data (openData_sealCell ..)

/-- Once the region's majors have moved on, no key opens the sector. -/
theorem openSector_superseded (hi : isInner lsa = false) (unmarked : fhas s.med.marks lsa = false) (decodes : out.step.isSome = true)
    (d : Option Sector) {x : Region} (parted : x.rekey = none) (moved : x.major ≠ p.major) :
    let t := putCell s (placeOf s lsa) (plannedCell s lsa p d)
    openSector { t with regions := fput t.regions (lsaRegion lsa) x } lsa out = .stale := by
  intro t
  refine openSector_without_key unmarked decodes ?_
  have region : regionAt { t with regions := fput t.regions (lsaRegion lsa) x } (lsaRegion lsa) = x :=
    congrArg (Option.getD · _) (fget_fput_self _ _ _)
  have cell : cellAt { t with regions := fput t.regions (lsaRegion lsa) x } lsa = plannedCell s lsa p d := cellAt_putCell ..
  have major : p.major ≠ x.major := Ne.symm moved
  rw [openKey, if_neg (by simp [hi]), region, cell, keyFor]
  exact (if_neg major).trans (by rw [parted])
end

/-! ### Minors (R289, R290) -/

section
variable {c : Cell} {lsa ceiling : Nat} {major : BitVec 64}

theorem minorUnder_unknown {m : Option Cell} (h : ∀ c, m = some c → c.lsa.toNat ≠ lsa) (major : BitVec 64) (ceiling : Nat) :
    minorUnder m lsa major ceiling = (ceiling + 1, ceiling + 4096) := by
  cases m with
  | none => rfl
  | some c => exact if_neg (h c rfl)

theorem minorUnder_same (h : c.lsa.toNat = lsa) (e : c.major = major) :
    (minorUnder (some c) lsa major ceiling).1 = c.minor.toNat + 1 := by
  simp [minorUnder, h, e]

theorem minorUnder_other (h : c.lsa.toNat = lsa) (e : c.major ≠ major) : (minorUnder (some c) lsa major ceiling).1 = 0 := by
  simp [minorUnder, h, e]

/-- A place that holds the sector bounds its next minor; the ceiling rises where that minor passes it. -/
theorem minorUnder_held (h : c.lsa.toNat = lsa) : ∃ m, m ≤ c.minor.toNat + 1 ∧
    minorUnder (some c) lsa major ceiling = (m, if ceiling < m then ceiling + 4096 else ceiling) :=
  ⟨if c.major = major then c.minor.toNat + 1 else 0, by split <;> omega, if_pos h⟩

theorem ceiling_le_minorUnder (m : Option Cell) : ceiling ≤ (minorUnder m lsa major ceiling).2 := by
  by_cases h : ∃ c, m = some c ∧ c.lsa.toNat = lsa
  case pos =>
    obtain ⟨c, rfl, held⟩ := h
    obtain ⟨n, -, e⟩ := minorUnder_held (major := major) (ceiling := ceiling) held
    rw [e]
    dsimp only
    split <;> omega
  case neg =>
    rw [minorUnder_unknown fun c e held => h ⟨c, e, held⟩]
    exact Nat.le_add_right ..

/-- A minor rises above its ceiling by one at most, and then the ceiling rises by more. -/
theorem minorUnder_le_ceiling (m : Option Cell) (below : ∀ c, m = some c → c.lsa.toNat = lsa → c.minor.toNat ≤ ceiling) :
    (minorUnder m lsa major ceiling).1 ≤ (minorUnder m lsa major ceiling).2 := by
  by_cases h : ∃ c, m = some c ∧ c.lsa.toNat = lsa
  case pos =>
    obtain ⟨c, rfl, held⟩ := h
    obtain ⟨n, next, e⟩ := minorUnder_held (major := major) (ceiling := ceiling) held
    have minor := below c rfl held
    rw [e]
    dsimp only
    split <;> omega
  case neg =>
    rw [minorUnder_unknown fun c e held => h ⟨c, e, held⟩]
    exact Nat.add_le_add_left (by decide) _

/-- The minor that a sector's program takes from what its place holds, and the ceiling after it. -/
def MinorRises (s : State) (lsa : Nat) (major : BitVec 64) (ceiling : Nat) (m : Nat × Nat) : Prop :=
  let c := cellAt s lsa
  let known := fget s.med.marks lsa ≠ some true
  (known → c.lsa.toNat = lsa → c.major = major → m.1 = c.minor.toNat + 1) ∧
  (known → c.lsa.toNat = lsa → c.major ≠ major → m.1 = 0) ∧
  (¬ known ∨ c.lsa.toNat ≠ lsa → m.1 = ceiling + 1 ∧ m.2 = ceiling + 4096) ∧
  ceiling ≤ m.2 ∧ ((c.lsa.toNat = lsa → c.minor.toNat ≤ ceiling) → m.1 ≤ m.2)

theorem storedMeta_known {s : State} (h : fget s.med.marks lsa ≠ some true) : storedMeta s lsa = some (cellAt s lsa) := if_neg h

theorem eq_cellAt_of_storedMeta {s : State} (h : storedMeta s lsa = some c) : c = cellAt s lsa := by
  rw [storedMeta] at h
  split at h
  · cases h
  · exact (Option.some.inj h).symm

theorem minorRises (s : State) (lsa : Nat) (major : BitVec 64) (ceiling : Nat) :
    MinorRises s lsa major ceiling (minorUnder (storedMeta s lsa) lsa major ceiling) := by
  refine ⟨fun known held same => ?same, fun known held other => ?other, fun unknown => ?unknown, ceiling_le_minorUnder _,
    fun below => ?below⟩
  case same => rw [storedMeta_known known, minorUnder_same held same]
  case other => rw [storedMeta_known known, minorUnder_other held other]
  case unknown =>
    have never : ∀ c, storedMeta s lsa = some c → c.lsa.toNat ≠ lsa := by
      rcases unknown with mark | other
      · intro c h
        rw [storedMeta, if_pos (not_not.1 mark)] at h
        cases h
      · intro c h
        rwa [eq_cellAt_of_storedMeta h]
    rw [minorUnder_unknown never]
    exact ⟨rfl, rfl⟩
  case below => exact minorUnder_le_ceiling _ fun c h => by rwa [eq_cellAt_of_storedMeta h]
end

/-! ### The count of internal programs (R285) -/

theorem innerPlan_counts (s : State) :
    (innerPlan s).major.toNat * 2 ^ 20 + (innerPlan s).minor = s.sealing.internal.toNat + 1 ∧ (innerPlan s).minor < 2 ^ 20 := by
  have width := s.sealing.internal.isLt
  have major : (innerPlan s).major.toNat = (s.sealing.internal.toNat + 1) / 2 ^ 20 :=
    Nat.mod_eq_of_lt (by omega)
  rw [major]
  exact ⟨Nat.div_add_mod' .., Nat.mod_lt _ (by decide)⟩

theorem landProgram_internal {s : State} {lsa : Nat} (hi : isInner lsa = true) (d : Option Sector) (p : SealPlan) :
    (landProgram s lsa d p).sealing.internal = s.sealing.internal + 1 := by
  rw [landProgram, if_pos hi]
  rfl

/-- Settles O45: the plan names the key by which the cell's major is opened (`keyFor_sealPlan`), and the minors follow what the place
held (`minorRises`). -/
theorem sealed_sectors_open : Obligations.sealed_sectors_open := by
  refine ⟨fun s lsa p out bound hp unmarked parted decodes faithful lsaOk => ?opens, ?inner, ?user⟩
  case opens =>
    have opens := openSector_planned bound hp parted unmarked decodes faithful lsaOk
    refine ⟨fun d => ⟨opens (some d), fun hi x rekey moved => ?_⟩, opens none⟩
    have stale := openSector_superseded (p := p) hi unmarked decodes (some d) rekey moved
    exact ⟨stale, congrArg Opened.bytes stale⟩
  case inner =>
    intro s lsa p hp hi
    obtain ⟨count, minor⟩ := innerPlan_counts s
    rw [← sealPlan_inner hi hp] at count minor
    exact ⟨count, minor, landProgram_internal hi none p⟩
  case user =>
    intro s lsa p hp hi
    rcases sealPlan_user hi hp with ⟨key, -, rfl⟩ | ⟨k, key, rekey, -, rfl⟩
    · exact minorRises s lsa _ _
    · intro c x ceiling known
      have old : ceiling = k.oldCeiling := by
        show ((regionAt s (lsaRegion lsa)).rekey.map (·.oldCeiling)).getD 0 = k.oldCeiling
        rw [rekey]
        rfl
      rw [old]
      exact minorRises s lsa _ _

end Sys2Proof.Machine
end

section
/-! Proofs of the sealing family: the timers of the store and the recorder, and the performance counter units. -/

namespace Sys2Proof.Machine

/-! ### A fold over every index -/

/-- Every index comes once. -/
theorem finRange_split {n : Nat} (k : Fin n) : ∃ l r, List.finRange n = l ++ k :: r ∧ k ∉ l ∧ k ∉ r := by
  obtain ⟨l, r, e⟩ := List.append_of_mem (List.mem_finRange k)
  have distinct := List.nodup_finRange n
  rw [e, List.nodup_middle, List.nodup_cons, List.mem_append, not_or] at distinct
  exact ⟨l, r, e, distinct.1⟩

/-- Steps at other indices leave alone what is read at one. -/
theorem foldl_elsewhere {α β ι : Type} {f : β → ι → β} {read : β → α} {k : ι} (hf : ∀ x j, j ≠ k → read (f x j) = read x)
    (l : List ι) (hk : k ∉ l) (x : β) : read (l.foldl f x) = read x :=
  List.foldlRecOn (motive := fun y => read y = read x) l f rfl fun y hy j hj => (hf y j fun e => hk (e ▸ hj)).trans hy

/-! ### The counters of a unit (R399) -/

/-- What counting goes through: the counters, the wraps of the last one, and OVF's new bits. -/
abbrev Counting := Vector (BitVec 48) 8 × Nat × BitVec 8

/-- One counter takes its occurrences, or the wraps of the one before it. -/
def countTurn (p : Pmc) (own : Fin 8 → Nat) (x : Counting) (k : Fin 8) : Counting :=
  let n := if k.val ≠ 0 ∧ bitOf p.cfg[k] 13 then x.2.1 else own k
  let v := x.1[k].toNat + n
  let wraps := v / 2 ^ 48
  (x.1.set k (BitVec.ofNat 48 v), wraps, x.2.2 ||| if wraps = 0 then 0 else BitVec.ofNat 8 (2 ^ k.val))

/-- The counters of a unit once each has had its turn. -/
def afterTurns (p : Pmc) (own : Fin 8 → Nat) : Counting := (List.finRange 8).foldl (countTurn p own) (p.cnt, 0, 0)

theorem pmcAdd_eq (p : Pmc) (own : Fin 8 → Nat) : pmcAdd p own =
    ({ p with cnt := (afterTurns p own).1, ovf := p.ovf ||| (afterTurns p own).2.2,
              en := p.en && !(p.freeze && (afterTurns p own).2.2 != 0) }, (afterTurns p own).2.2) := rfl

section
variable {p : Pmc} {own : Fin 8 → Nat} {v : Vector (BitVec 48) 8} {k : Fin 8}

theorem countTurn_idle (h : own k = 0) (v : Vector (BitVec 48) 8) (o : BitVec 8) : countTurn p own (v, 0, o) k = (v, 0, o) := by
  have small : v[k].toNat / 2 ^ 48 = 0 := Nat.div_eq_of_lt v[k].isLt
  simp only [countTurn, h, ite_self, Nat.add_zero, small, if_true]
  simp

theorem countTurn_wrap (own1 : own k = 1) (free : k = 0 ∨ bitOf p.cfg[k] 13 = false) (full : v[k] = 0xFFFFFFFFFFFF) (o : BitVec 8) :
    countTurn p own (v, 0, o) k = (v.set k 0, 1, o ||| BitVec.ofNat 8 (2 ^ k.val)) := by
  have unchained : ¬ (k.val ≠ 0 ∧ bitOf p.cfg[k] 13 = true) := by
    rintro ⟨later, chained⟩
    rcases free with rfl | free
    · exact later rfl
    · rw [free] at chained
      cases chained
  simp only [countTurn, if_neg unchained, own1, full]
  rfl

theorem countTurn_ne (x : Counting) {j : Fin 8} (h : j ≠ k) :
    ((countTurn p own x j).1[k], bitOf (countTurn p own x j).2.2 k.val) = (x.1[k], bitOf x.2.2 k.val) := by
  have apart : j.val ≠ k.val := fun e => h (Fin.ext e)
  have bit : ∀ j k : Fin 8, j ≠ k → (BitVec.ofNat 8 (2 ^ j.val)).getLsbD k.val = false := by decide
  have clear (wraps : Nat) : (if wraps = 0 then 0 else BitVec.ofNat 8 (2 ^ j.val)).getLsbD k.val = false := by
    split
    · exact BitVec.getLsbD_zero
    · exact bit j k h
  refine Prod.ext ?_ ?_
  · simp [countTurn, Vector.getElem_set_ne, apart]
  · exact BitVec.getLsbD_or.trans ((congrArg (_ || ·) (clear _)).trans (Bool.or_false _))

theorem foldl_countTurn_idle (l : List (Fin 8)) (h : ∀ j ∈ l, own j = 0) : l.foldl (countTurn p own) (v, 0, 0) = (v, 0, 0) :=
  List.foldlRecOn (motive := fun y => y = (v, 0, 0)) l _ rfl fun _ hy j hj => by rw [hy, countTurn_idle (h j hj)]

/-- Nothing occurs: the unit stays as it is. -/
theorem pmcAdd_idle (h : ∀ j, own j = 0) : pmcAdd p own = (p, 0) := by
  have still : afterTurns p own = (p.cnt, 0, 0) := foldl_countTurn_idle _ fun j _ => h j
  rw [pmcAdd_eq, still]
  simp

/-- A full counter that is counted alone wraps, and its bit of OVF rises. -/
theorem afterTurns_wrap (own1 : own k = 1) (others : ∀ j, j ≠ k → own j = 0) (free : k = 0 ∨ bitOf p.cfg[k] 13 = false)
    (full : p.cnt[k] = 0xFFFFFFFFFFFF) : (afterTurns p own).1[k] = 0 ∧ bitOf (afterTurns p own).2.2 k.val = true := by
  obtain ⟨l, r, e, hl, hr⟩ := finRange_split k
  have before : l.foldl (countTurn p own) (p.cnt, 0, 0) = (p.cnt, 0, 0) :=
    foldl_countTurn_idle l fun j hj => others j fun e => hl (e ▸ hj)
  have after := foldl_elsewhere (read := fun x : Counting => (x.1[k], bitOf x.2.2 k.val)) (fun x _ h => countTurn_ne (p := p) (own := own) x h)
    r hr (p.cnt.set k 0, 1, 0 ||| BitVec.ofNat 8 (2 ^ k.val))
  have bit : ∀ k : Fin 8, bitOf (0 ||| BitVec.ofNat 8 (2 ^ k.val)) k.val = true := by decide
  rw [afterTurns, e, List.foldl_append, List.foldl_cons, before, countTurn_wrap own1 free full]
  obtain ⟨count, flag⟩ := Prod.ext_iff.1 after
  exact ⟨count.trans (by simp), flag.trans (bit k)⟩

theorem pmcAdd_wrap (own1 : own k = 1) (others : ∀ j, j ≠ k → own j = 0) (free : k = 0 ∨ bitOf p.cfg[k] 13 = false)
    (full : p.cnt[k] = 0xFFFFFFFFFFFF) :
    let q := (pmcAdd p own).1
    q.cnt[k] = 0 ∧ bitOf q.ovf k.val = true ∧ q.en = (p.en && !p.freeze) := by
  obtain ⟨count, flag⟩ := afterTurns_wrap own1 others free full
  have some_bit : ((afterTurns p own).2.2 != 0) = true := bne_iff_ne.2 fun h => by
    rw [h] at flag
    exact absurd flag (by simp [bitOf])
  rw [bitOf] at flag
  refine ⟨count, ?_, ?_⟩
  · simp only [pmcAdd_eq, bitOf, BitVec.getLsbD_or, flag, Bool.or_true]
  · simp only [pmcAdd_eq, some_bit, Bool.and_true]
end

/-! ### The units (R397, R400, R406) -/

/-- One unit gets its occurrences, where it counts. -/
def unitTurn (s : State) (own : Fin 6 → Fin 8 → Nat) (x : Vector Pmc 6 × Rec) (u : Fin 6) : Vector Pmc 6 × Rec :=
  if x.1[u].en then (x.1.set u (pmcAdd x.1[u] (own u)).1, pmcReport s u (pmcAdd x.1[u] (own u)).2 x.2) else x

theorem pmcAll_pmc_eq (s : State) (own : Fin 6 → Fin 8 → Nat) :
    (pmcAll s own).pmc = ((List.finRange 6).foldl (unitTurn s own) (s.pmc, (s.evr, s.hw))).1 := rfl

theorem unitTurn_ne (s : State) (own : Fin 6 → Fin 8 → Nat) (x : Vector Pmc 6 × Rec) {j u : Fin 6} (h : j ≠ u) :
    (unitTurn s own x j).1[u] = x.1[u] := by
  have apart : j.val ≠ u.val := fun e => h (Fin.ext e)
  unfold unitTurn
  split
  · simp [Vector.getElem_set_ne, apart]
  · rfl

theorem pmcAll_pmc (s : State) (own : Fin 6 → Fin 8 → Nat) (u : Fin 6) :
    (pmcAll s own).pmc[u] = if s.pmc[u].en then (pmcAdd s.pmc[u] (own u)).1 else s.pmc[u] := by
  obtain ⟨l, r, e, hl, hr⟩ := finRange_split u
  have elsewhere := foldl_elsewhere (read := fun x : Vector Pmc 6 × Rec => x.1[u]) (k := u) fun x _ h => unitTurn_ne s own x h
  have before := elsewhere l hl (s.pmc, (s.evr, s.hw))
  rw [pmcAll_pmc_eq, e, List.foldl_append, List.foldl_cons]
  refine (elsewhere r hr _).trans ?_
  generalize l.foldl (unitTurn s own) (s.pmc, (s.evr, s.hw)) = y at before ⊢
  dsimp only at before
  rw [unitTurn, before]
  split
  · simp
  · exact before

section
variable {s : State} {u : PmcUnit}

theorem pmcControl_pmc (s : State) (u : PmcUnit) (en freeze all : Bool) (v : PmcUnit) :
    (pmcControl s u en freeze all).pmc[v] = if v = u then { s.pmc[v] with en := en, freeze := freeze }
      else if u = 0 ∧ all = true then { s.pmc[v] with en := en } else s.pmc[v] := by
  have set : (modPmc s u fun p => { p with en := en, freeze := freeze }).pmc[v] =
      if v = u then { s.pmc[v] with en := en, freeze := freeze } else s.pmc[v] := by
    split
    case isTrue h =>
      subst h
      exact vmod_self ..
    case isFalse h => exact vmod_ne _ _ h
  unfold pmcControl
  by_cases every : u = 0 ∧ all = true
  · dsimp only
    rw [if_pos every, if_pos every]
    refine (Vector.getElem_map ..).trans ?_
    refine (congrArg (fun p : Pmc => { p with en := en }) set).trans ?_
    split <;> rfl
  · dsimp only
    rw [if_neg every, if_neg every]
    exact set

theorem pmcZero_pmc (stopped : s.pmc[u].en = false) :
    (pmcZero s u).pmc[u] = { s.pmc[u] with tb := 0, ovf := 0, cnt := Vector.replicate 8 0 } := by
  exact (vmod_self ..).trans (if_neg (ne_true_of_eq_false stopped))

theorem pmcControl_frame (s : State) (u : PmcUnit) (en freeze all : Bool) : ∃ P, pmcControl s u en freeze all = { s with pmc := P } := by
  unfold pmcControl
  dsimp only
  split <;> exact ⟨_, rfl⟩

/-- Where the units alone have changed, the interrupt logic adds what it signals. -/
theorem fin_of_pmc {t : State} (h : ∃ P, t = { s with pmc := P }) :
    fin t = { s with pmc := (fin t).pmc, pcie := (fin t).pcie, out := (fin t).out } := by
  obtain ⟨P, rfl⟩ := h
  rfl

theorem fin_of_counted {t : State} (h : Counted s t) :
    fin t = { s with pmc := (fin t).pmc, evr := (fin t).evr, hw := (fin t).hw, pcie := (fin t).pcie, out := (fin t).out } := by
  obtain ⟨H, E, P, rfl⟩ := h
  rfl
end

/-- One occurrence for counter k of a unit, unless it counts the wraps of the one before it. -/
def oneMore (s : State) (u : PmcUnit) (k : Fin 8) : Fin 6 → Fin 8 → Nat :=
  fun v j => if v = u ∧ j = k ∧ (k = 0 ∨ !bitOf s.pmc[u].cfg[k] 13) then 1 else 0

section
variable {s : State} {u : PmcUnit} {k : Fin 8}

theorem oneMore_self (free : k = 0 ∨ bitOf s.pmc[u].cfg[k] 13 = false) : oneMore s u k u k = 1 :=
  if_pos ⟨rfl, rfl, by simpa using free⟩

theorem oneMore_other {v : PmcUnit} {j : Fin 8} (h : v ≠ u ∨ j ≠ k) : oneMore s u k v j = 0 :=
  if_neg fun ⟨hv, hj, _⟩ => h.elim (· hv) (· hj)

/-- A full counter that counts one more wraps in its own unit, and no other unit changes. -/
theorem pmcAll_oneMore (en : s.pmc[u].en = true) (full : s.pmc[u].cnt[k] = 0xFFFFFFFFFFFF)
    (free : k = 0 ∨ bitOf s.pmc[u].cfg[k] 13 = false) :
    let P := (pmcAll s (oneMore s u k)).pmc
    P[u].cnt[k] = 0 ∧ bitOf P[u].ovf k.val = true ∧ P[u].en = !s.pmc[u].freeze ∧ ∀ v, v ≠ u → P[v] = s.pmc[v] := by
  have counting := pmcAll_pmc s (oneMore s u k)
  generalize (pmcAll s (oneMore s u k)).pmc = P at counting ⊢
  have unit := (counting u).trans (if_pos en)
  obtain ⟨count, flag, stops⟩ := pmcAdd_wrap (oneMore_self free) (fun j hj => oneMore_other (.inr hj)) free full
  dsimp only
  rw [unit]
  refine ⟨count, flag, stops.trans (by rw [en, Bool.true_and]), fun v hv => (counting v).trans ?_⟩
  rw [pmcAdd_idle fun j => oneMore_other (.inl hv), ite_self]
end

/-! ### The commands -/

section
variable {s : State} (hc : coreUp s = true)
include hc

theorem exec_pstTieRewrite (area : Fin 5) (slot : Fin 32) (h : s.pst.ready = true) :
    exec (.pstTieRewrite area slot) s = done (tieRewrite s area.val slot.val) := if_pos ⟨hc, h⟩

theorem exec_pstProfileWe (key : BitVec 16) (on : Bool) :
    exec (.pstProfileWe key on) s = done (writePstCtrl (touch s Reg.PST_CTRL) key on) := if_pos hc

theorem exec_eventFrontWriteback (h : s.evr.ready = true) (hf : s.evr.frozen = false) :
    exec .eventFrontWriteback s = done (settle (modEvr s Evr.writeBack)) := if_pos ⟨hc, h, by simp [hf]⟩

theorem exec_rateLimitSweep (h : s.evr.ready = true) : exec .rateLimitSweep s = done ((expired s).foldl closeWindow s) := if_pos ⟨hc, h⟩

theorem exec_evrAutoThaw : exec .evrAutoThaw s = done (endFreeze s true) := if_pos hc

theorem exec_pmcEnable (u : PmcUnit) (en freeze all : Bool) :
    exec (.pmcEnable u en freeze all) s = done (pmcControl (touch s (Reg.PMC_CTRL u.val)) u en freeze all) := if_pos hc

theorem exec_pmcClear (u : PmcUnit) : exec (.pmcClear u) s = done (pmcZero (touch s (Reg.PMC_CTRL u.val)) u) := if_pos hc

theorem exec_pmcCounterWrap {u : PmcUnit} {k : Fin 8} (he : s.pmc[u].en = true) (hf : s.pmc[u].cnt[k] = 0xFFFFFFFFFFFF) :
    exec (.pmcCounterWrap u k) s =
      done (pmcAll s (oneMore s u k)) := if_pos ⟨hc, he, hf⟩
end

theorem writePstCtrl_keyed (s : State) (on : Bool) :
    writePstCtrl s 0x5A3C on = setCfg s Reg.PST_CTRL (putBit (cfg s Reg.PST_CTRL) 0 on) := if_neg (by simp)

theorem writePstCtrl_unkeyed (s : State) {key : BitVec 16} (h : key ≠ 0x5A3C) :
    writePstCtrl s key true = badAccess s Reg.PST_CTRL := if_pos ⟨rfl, h⟩

/-- Settles O18: each command is its guard and one shared operation; of the units a control, a clear and a wrap change what they name
(`pmcControl_pmc`, `pmcZero_pmc`, `pmcAll_pmc`). -/
theorem store_recorder_and_counter_units : Obligations.store_recorder_and_counter_units := by
  refine ⟨fun s hc => ⟨fun area slot => exec_pstTieRewrite hc area slot, fun on => ?keyed, fun key hk => ?unkeyed,
    exec_eventFrontWriteback hc, exec_rateLimitSweep hc, fun _ => exec_evrAutoThaw hc⟩, fun u s hc => ⟨?enable, ?clear, ?wrap⟩⟩
  case keyed => rw [exec_pstProfileWe hc, writePstCtrl_keyed]; rfl
  case unkeyed => rw [exec_pstProfileWe hc, writePstCtrl_unkeyed _ hk]; rfl
  case enable =>
    intro en freeze all
    exact ⟨_, exec_pmcEnable hc u en freeze all, fin_of_pmc (pmcControl_frame _ u en freeze all), pmcControl_pmc _ u en freeze all⟩
  case clear =>
    intro stopped
    exact ⟨_, exec_pmcClear hc u, fin_of_pmc ⟨_, rfl⟩,
      pmcZero_pmc (s := touch s (Reg.PMC_CTRL u.val)) stopped, fun v hv => vmod_ne _ _ hv⟩
  case wrap =>
    intro k en full free
    obtain ⟨count, flag, stops, others⟩ := pmcAll_oneMore en full free
    have frame : Counted s (pmcAll s (oneMore s u k)) := ⟨_, _, _, rfl⟩
    have ran := exec_pmcCounterWrap hc en full
    generalize pmcAll s (oneMore s u k) = t at ran frame count flag stops others
    exact ⟨fin t, ran, count, flag, stops, others, fin_of_counted frame⟩

end Sys2Proof.Machine
end

section
/-! Proofs of the sealing family: the fatal path, and what each part of the boot leaves alone. -/

namespace Sys2Proof.Machine

/-! ### The commands (R334, R401, R447, R448) -/

section
variable {s : State}

theorem exec_headstockWatchdogExpiry (hc : coreUp s = true) (hb : bitOf (hwGet s Reg.GLB_FATAL_STATUS) 2 = false) :
    exec .headstockWatchdogExpiry s = done (settle (setFatal { s with glb := { s.glb with wdogPending := true } } 2)) :=
  if_pos ⟨hc, by rw [hb]; rfl⟩

theorem exec_fwAssert (hc : coreUp s = true) (hr : s.fw.running.isSome = true) : exec .fwAssert s = done (settle (setFatal s 3)) :=
  if_pos ⟨hc, hr⟩

theorem exec_dumpComplete (truncated : List (Fin 10)) (h : s.dumps.writing = true) :
    exec (.dumpComplete truncated) s = done (afterDump (coolDown (endDump s truncated))) := if_pos h

theorem exec_resetRelease {obs : BootObs} (hp : s.seq.phase = .on) (hr : s.glb.inReset = true) (hn : s.seq.resetN = true)
    (ht : tooHot s obs.tempDegC = false) : exec (.resetRelease obs) s = done (settle (boot s obs)) :=
  if_pos ⟨hp, hr, hn, by rw [ht]; rfl⟩
end

/-! ### The watchdog's reset (R448) -/

theorem cutCommit_seq (s : State) : (cutCommit s).seq = s.seq := by
  unfold cutCommit
  split
  · exact (tearCommit_enduring s _).seq
  · rfl

theorem enterReset_seq (s : State) (r : ResetAsk) : (enterReset s r).seq = s.seq := cutCommit_seq s

/-- The causes of a reset are shown, whatever it coincides with (R35, R445). -/
theorem resetTaken_causes (s : State) (r : ResetAsk) : (resetTaken s r).causes &&& r.causes = r.causes := by
  have joined (a b : BitVec 6) : (a ||| b) &&& b = b := by
    ext i h
    cases e : b[i] <;> simp [e]
  have grown (a b c : BitVec 6) (h : a &&& b = b) : (a ||| c) &&& b = b := by
    rw [BitVec.and_or_distrib_right, h]
    ext i h
    cases e : b[i] <;> simp [e]
  have merged : (if s.glb.inReset then mergeAsk s.glb.held r else r).causes &&& r.causes = r.causes := by
    split
    · exact joined _ _
    · exact BitVec.and_self
  unfold resetTaken
  dsimp only
  split
  · exact grown _ _ _ merged
  · exact merged

theorem exec_watchdogResetTimeout {s : State} (h : s.glb.wdogPending = true) (hw : s.seq.commitWait = false) (ha : s.glb.asked = none) :
    exec .watchdogResetTimeout s = done (enterReset s { kind := .full, causes := 8 }) := by
  show execWatchdogResetTimeout s = _
  rw [execWatchdogResetTimeout, if_neg (by simp [h]), ha]
  dsimp only
  rw [enterReset_seq, if_neg (by simp [hw])]

/-! ### What the boot leaves alone -/

/-- GLB_STATE and GLB_READY stay as they are; only a breach is noted. -/
structure GlbHeld (s t : State) : Prop where
  glb : t.glb = { s.glb with breach := t.glb.breach }

/-- So do the image that runs, and the sealing and lookup engines' readiness. -/
structure Restores (s t : State) : Prop extends GlbHeld s t where
  running : t.fw.running = s.fw.running
  sealing : t.sealing.ready = s.sealing.ready
  lke     : t.lke.ready = s.lke.ready

section
variable {s t u : State}

theorem GlbHeld.trans (h : GlbHeld s t) (k : GlbHeld t u) : GlbHeld s u := ⟨by rw [k.glb, h.glb]⟩

theorem GlbHeld.inReset (h : GlbHeld s t) : t.glb.inReset = s.glb.inReset := by rw [h.glb]

theorem GlbHeld.state (h : GlbHeld s t) : t.glb.state = s.glb.state := by rw [h.glb]

theorem GlbHeld.fwd (h : GlbHeld s t) : t.glb.fwd = s.glb.fwd := by rw [h.glb]

theorem GlbHeld.bounds (h : GlbHeld s t) : t.glb.bounds = s.glb.bounds := by rw [h.glb]

theorem GlbHeld.mbx (h : GlbHeld s t) : t.glb.mbx = s.glb.mbx := by rw [h.glb]

theorem GlbHeld.ite {c : Prop} [Decidable c] (h : GlbHeld s t) (k : GlbHeld s u) : GlbHeld s (if c then t else u) := by
  split <;> assumption

theorem Restores.refl (s : State) : Restores s s := ⟨⟨rfl⟩, rfl, rfl, rfl⟩

theorem Restores.trans (h : Restores s t) (k : Restores t u) : Restores s u :=
  ⟨h.toGlbHeld.trans k.toGlbHeld, k.running.trans h.running, k.sealing.trans h.sealing, k.lke.trans h.lke⟩

theorem Restores.ite {c : Prop} [Decidable c] (h : Restores s t) (k : Restores s u) : Restores s (if c then t else u) := by
  split <;> assumption

theorem Restores.foldl {γ : Type} {f : State → γ → State} (hf : ∀ s a, Restores s (f s a)) (l : List γ) (s : State) :
    Restores s (l.foldl f s) :=
  List.foldlRecOn l f (.refl s) fun _ h a _ => h.trans (hf _ a)

theorem Counted.restores (h : Counted s t) : Restores s t := by
  obtain ⟨_, _, _, rfl⟩ := h
  exact ⟨⟨rfl⟩, rfl, rfl, rfl⟩

theorem modDbq_restores (s : State) (f : Dbq → Dbq) : Restores s (modDbq s f) := ⟨⟨rfl⟩, rfl, rfl, rfl⟩

theorem modPst_restores (s : State) (f : Pst → Pst) : Restores s (modPst s f) := ⟨⟨rfl⟩, rfl, rfl, rfl⟩

theorem hwSet_restores (s : State) (o : Nat) (v : Word64) : Restores s (hwSet s o v) := (hwSet_counted s o v).restores

theorem evtFull_restores (s : State) (e : Nat × Nat) (i d n : Nat) : Restores s (evtFull s e i d n) := ⟨⟨rfl⟩, rfl, rfl, rfl⟩

theorem raised_restores (s : State) (o k : Nat) (e : Nat × Nat) (i d : Nat) : Restores s (evt (raise s o k) e i d) :=
  (raised_counted s o k e i d).restores
end

/-! ### Items that are read back (R227) -/

theorem sealFail_counted (s : State) (c : Class) (lsa : Nat) (b : Bool) : Counted s (sealFail s c lsa b) := by
  have seen (e : Nat × Nat) (o k : Nat) (v : Word64) :
      Counted s (evt (hwSet (raise (hwSat s o 32 1) Reg.SEAL_INT_STATUS k) Reg.SEAL_LAST_FAIL v) e (lsaChannel lsa) 0) := ⟨_, _, _, rfl⟩
  exact .ite (seen _ _ _ _) ((seen _ _ _ _).trans (pmcCount_counted _ _ _ _))

theorem openCount_counted (s : State) (c : Class) (lsa : Nat) (o : Opened) : Counted s (openCount s c lsa o) := by
  have adds (o : Nat) : Counted s (hwAdd s o 1) := hwSet_counted s _ _
  cases o with
  | data => exact (adds _).trans (pmcCount_counted _ _ _ _)
  | stale => exact (adds _).trans (pmcCount_counted _ _ _ _)
  | tagFail => exact sealFail_counted s c lsa false
  | lsaFail => exact sealFail_counted s c lsa true
  | poison => exact .refl s
  | uncorr => exact .refl s

theorem loadItems_counted (s : State) (l : List Inner) : Counted s (loadItems s l) := by
  have copy (s : State) (i : Inner) (n : Nat) : Counted s (openCopy s i n).2 := openCount_counted s _ _ _
  have load (s : State) (i : Inner) : Counted s (loadInner s i).2 := by
    unfold loadInner
    dsimp only
    split
    · exact copy s i 0
    · exact (copy s i 0).trans (copy _ i 1)
  exact .foldl load _ s

/-! ### The scan of the store, and the profile (R362, R377, R381) -/

theorem intentScan_restores (s : State) : Restores s (intentScan s) := by
  have completed (s : State) (x : Fin 16 × Word64 × Bool) : Restores s (intentDone s x) := .ite (.refl s) ⟨⟨rfl⟩, rfl, rfl, rfl⟩
  exact (modPst_restores s _).trans (.foldl completed _ _)

theorem tieScan_restores (s : State) (tie : Bool) (area slot : Nat) : Restores s (tieScan s tie area slot) :=
  .ite ((raised_restores s _ _ _ _ _).trans (hwSet_restores _ _ _)) (.refl s)

theorem pstScan_restores (s : State) : Restores s (pstScan s) := by
  have ready (s : State) : Restores s (modPst s fun p => { p with ready := true }) := modPst_restores s _
  have recovered (s : State) : Restores s (if hwGet s Reg.PST_RECOVERY ≠ 0 then
      evt (raise (modPst s fun p => { p with recovered := true }) Reg.PST_INT_STATUS 3) Ev.PST_RECOVERED noInst 0 else s) :=
    .ite ((modPst_restores s _).trans (raised_restores _ _ _ _ _ _)) (.refl s)
  have empty (s : State) : Restores s (if s.pst.user.content.isNone then evt s Ev.PST_CAL_EMPTY noInst 0 else s) :=
    .ite (evtFull_restores s _ _ _ _) (.refl s)
  unfold pstScan
  dsimp only
  refine Restores.trans ?_ (ready _)
  refine Restores.trans ?_ (recovered _)
  refine Restores.trans ?_ (empty _)
  refine Restores.trans ?_ (modPst_restores _ _)
  refine Restores.trans ?_ (hwSet_restores _ _ _)
  refine Restores.trans ?_ (.foldl (fun s e => tieScan_restores s _ _ _) _ _)
  refine Restores.trans ?_ ((tieScan_restores _ _ _ _).trans (tieScan_restores _ _ _ _))
  refine Restores.trans ?_ ((tieScan_restores _ _ _ _).trans (tieScan_restores _ _ _ _))
  exact ((intentScan_restores s).trans (modPst_restores _ _)).trans (modPst_restores _ _)

theorem bootProfile_restores (s : State) : Restores s (bootProfile s) := by
  have port (s : State) (p : HPort) : Restores s (fitPort s p) := .ite ⟨⟨rfl⟩, rfl, rfl, rfl⟩ ⟨⟨rfl⟩, rfl, rfl, rfl⟩
  have mirror (s : State) (n : MPort) : Restores s (fitMir s n) := .ite ⟨⟨rfl⟩, rfl, rfl, rfl⟩ ⟨⟨rfl⟩, rfl, rfl, rfl⟩
  have budget (s : State) : Restores s (bootBudget s) := ⟨⟨rfl⟩, rfl, rfl, rfl⟩
  have older (s : State) : Restores s
      (if profileOlder s.pst.profile then evt (raise s Reg.PST_INT_STATUS 4) Ev.PST_PROFILE_OLDER noInst 0 else s) :=
    .ite (raised_restores s _ _ _ _ _) (.refl s)
  have applied (s : State) (f : Seq → Seq) (v : Thm) (c : Clk) : Restores s { modSeq s f with thm := v, clk := c } :=
    ⟨⟨rfl⟩, rfl, rfl, rfl⟩
  exact (((((modPst_restores s _).trans (older _)).trans (applied _ _ _ _)).trans (.foldl port _ _)).trans
    ((mirror _ 0).trans (mirror _ 1))).trans (budget _)

/-! ### Firmware (R354, R358) -/

theorem saveInner_restores (s : State) (i : Inner) : Restores s (saveInner s i) := by
  obtain ⟨_, _, _, _, _, _, _, e⟩ := saveInner_frame s i
  rw [e]
  exact ⟨⟨rfl⟩, rfl, rfl, rfl⟩

theorem modFw_glbHeld (s : State) (f : Fw → Fw) : GlbHeld s (modFw s f) := ⟨rfl⟩

theorem fwBoot_glbHeld (s : State) (bad : List (Fin 3)) : GlbHeld s (fwBoot s bad) := by
  have settled (f g : FwSlot → FwSlot) : GlbHeld s (modFwSlot (modFwSlot s 0 f) 1 g) :=
    (modFw_glbHeld s _).trans (modFw_glbHeld _ _)
  have lapsed (c : Prop) [Decidable c] (f g : FwSlot → FwSlot) : GlbHeld s
      (if c then evt (modFwSlot (modFwSlot s 0 f) 1 g) Ev.FW_ROLLBACK noInst 0 else modFwSlot (modFwSlot s 0 f) 1 g) :=
    .ite ((settled f g).trans ⟨rfl⟩) (settled f g)
  have loaded (s : State) (c : Prop) [Decidable c] (l : List Inner) : GlbHeld s (if c then s else loadItems s l) :=
    .ite ⟨rfl⟩ (loadItems_counted s l).restores.toGlbHeld
  have saved (s : State) (f : FwSlot → FwSlot) : GlbHeld s (saveImage (modFwSlot s 0 f) 0) :=
    (modFw_glbHeld s _).trans (Restores.foldl saveInner_restores _ _).toGlbHeld
  unfold fwBoot
  dsimp only
  split
  case h_1 => exact (lapsed _ _ _).trans (modFw_glbHeld _ _)
  case h_2 =>
    have chosen (c d : Prop) [Decidable c] [Decidable d] (f g : FwSlot → FwSlot) (h : Fw → Fw) (l : List Inner) :=
      ((lapsed c f g).trans (modFw_glbHeld _ h)).trans (loaded _ d l)
    exact .ite ((chosen _ _ _ _ _ _).trans (saved _ _)) (chosen _ _ _ _ _ _)

/-- GLB_READY.MBX rises with an image that runs (R449). -/
theorem bootFirmware_glb (s : State) (obs : BootObs) :
    ((bootFirmware s obs).fw.running = none → GlbHeld s (bootFirmware s obs)) ∧
    ((bootFirmware s obs).fw.running ≠ none → GlbHeld { s with glb := { s.glb with mbx := true } } (bootFirmware s obs)) := by
  have chosen (f : Fw → Fw) : GlbHeld s (fwBoot (modFw s f) obs.imagesBad) := (modFw_glbHeld s f).trans (fwBoot_glbHeld _ _)
  replace chosen := chosen fun w => { w with flash := if spiFitted s then some (spiUse obs.sfdp) else none }
  unfold bootFirmware
  dsimp only
  generalize fwBoot (modFw s _) obs.imagesBad = t at chosen ⊢
  split
  case h_1 idle => exact ⟨fun _ => chosen, fun runs => absurd idle runs⟩
  case h_2 k runs =>
    refine ⟨fun idle => absurd (runs.symm.trans idle) (Option.some_ne_none k), fun _ => ⟨?_⟩⟩
    show { t.glb with mbx := true } = _
    rw [chosen.glb]
    rfl

theorem bootFirmware_leaves (s : State) (obs : BootObs) :
    (bootFirmware s obs).glb.inReset = s.glb.inReset ∧ (bootFirmware s obs).glb.state = s.glb.state ∧
      (bootFirmware s obs).glb.fwd = s.glb.fwd ∧ (bootFirmware s obs).glb.bounds = s.glb.bounds := by
  obtain ⟨idle, runs⟩ := bootFirmware_glb s obs
  by_cases h : (bootFirmware s obs).fw.running = none
  · exact ⟨(idle h).inReset, (idle h).state, (idle h).fwd, (idle h).bounds⟩
  · exact ⟨(runs h).inReset, (runs h).state, (runs h).fwd, (runs h).bounds⟩

/-! ### From RESTORE on: what is read back (R163, R203, R227) -/

theorem readCommit_restores (s : State) (bad : List (BitVec 9)) : Restores s (readCommit s bad) := by
  have read (s : State) (k : Krf) : Restores s { s with krf := k } := ⟨⟨rfl⟩, rfl, rfl, rfl⟩
  have failed (a : CommitArea) := Restores.foldl
    (fun s (e : BitVec 32 × Bool) => (sealFail_counted s .hrd (innerBase + e.1.toNat) e.2).restores) a.failed s
  unfold readCommit
  dsimp only
  split
  · exact (failed _).trans (read _ _)
  · exact read s _

theorem bootGuards_restores (s : State) : Restores s (bootGuards s) := by
  have guarded (s : State) (k : Nat) (f : Channel → Channel) : Restores s (modChan s k f) := ⟨⟨rfl⟩, rfl, rfl, rfl⟩
  exact .foldl (fun s k => .ite ((guarded s k _).trans (raised_restores _ _ _ _ _ _)) (.refl s)) _ s

/-- The sealing engine is ready once the walks go on (R305). -/
theorem bootWalks_restores (s : State) : Restores { s with sealing := { s.sealing with ready := true } } (bootWalks s) :=
  ⟨⟨rfl⟩, rfl, rfl, rfl⟩

/-! ### The commit restore (R163 to R165, R259, R270 to R272) -/

theorem counterPoison_restores (s : State) (lsa cause : Nat) : Restores s (counterPoison s lsa cause) := by
  have cut (f : Medium → Medium) (c : Cnt) : Restores s { modMed s f with cnt := c } := ⟨⟨rfl⟩, rfl, rfl, rfl⟩
  have told (f : Medium → Medium) (c : Cnt) (v : Word64) := (cut f c).trans (hwSet_restores _ Reg.CNT_LAST_POISON v)
  have event (s : State) (e : Nat × Nat) (i d : Nat) : Restores s (evt s e i d) := evtFull_restores s e i d 0
  exact .ite (.refl s) (.ite (((told _ _ _).trans (hwSet_restores _ _ _)).trans (raised_restores _ _ _ _ _ _))
    (.ite ((told _ _ _).trans (raised_restores _ _ _ _ _ _)) (.ite ((told _ _ _).trans (event _ _ _ _)) (told _ _ _))))

theorem restoreData_restores (s : State) (a : CommitArea) : Restores s (restoreData s a) := by
  have slot (s : State) (lsa : Nat) (x : Slot) : Restores s (putSlot (takeStamp s) lsa x) := ⟨⟨rfl⟩, rfl, rfl, rfl⟩
  have deltas (s : State) (f : Cnt → Cnt) : Restores s (modCnt s f) := ⟨⟨rfl⟩, rfl, rfl, rfl⟩
  exact (((Restores.foldl (fun s _ => slot s _ _) _ s).trans (hwSet_restores _ _ _)).trans (deltas _ _)).trans
    (.foldl (fun s lsa => counterPoison_restores s lsa 3) _ _)

theorem bootEvents_restores (s : State) (case : Nat) (a : Option CommitArea) : Restores s (bootEvents s case a) := by
  have rung (e : Evr) (h : FMap Word64) : Restores s { s with evr := e, hw := h } := ⟨⟨rfl⟩, rfl, rfl, rfl⟩
  have dumped (s : State) (d : Dumps) : Restores s { s with dumps := d } := ⟨⟨rfl⟩, rfl, rfl, rfl⟩
  exact .ite (((rung _ _).trans (dumped _ _)).trans (evtFull_restores _ _ _ _ _)) ((rung _ _).trans (dumped _ _))

theorem markBreach_restores (s : State) (rs : List Nat) (gen : BitVec 64) : Restores s (markBreach s rs gen) := by
  have marked (s : State) (r o : Nat) (f : Region → Region) (v : Word64) : Restores s (hwOr (modRegion s r f) o v) :=
    ⟨⟨rfl⟩, rfl, rfl, rfl⟩
  have noted (s : State) : Restores s { s with glb := { s.glb with breach := true } } := ⟨⟨rfl⟩, rfl, rfl, rfl⟩
  exact .ite (.refl s) ((((Restores.foldl (fun s r => marked s r _ _ _) rs s).trans (noted _)).trans (hwSet_restores _ _ _)).trans
    (evtFull_restores _ _ _ _ _))

theorem commitReport_restores (s : State) (case n : Nat) (a : Option CommitArea) : Restores s (commitReport s case n a) := by
  unfold commitReport
  cases a with
  | none => exact hwSet_restores s _ _
  | some a => exact ((hwSet_restores s _ _).trans (hwSet_restores _ _ _)).trans (hwSet_restores _ _ _)

theorem addReq_restores (s : State) (c : Class) (p : Bool) (lsa : Nat) (w : Purpose) : Restores s (addReq s c p lsa w) :=
  .ite ⟨⟨rfl⟩, rfl, rfl, rfl⟩ ⟨⟨rfl⟩, rfl, rfl, rfl⟩

theorem recountPoison_restores (s : State) : Restores s (recountPoison s) := ⟨⟨rfl⟩, rfl, rfl, rfl⟩

section
variable (s : State) (q : Nat)

theorem putQueue_restores (v : Queue) : Restores s (putQueue s q v) := modDbq_restores s _

theorem modQueue_restores (f : Queue → Queue) : Restores s (modQueue s q f) := putQueue_restores s q _

theorem killSector_restores (lsa : Nat) : Restores s (killSector s lsa) := by
  have freed : Restores s (hwAdd (freeSlot s lsa) Reg.DBQ_DEAD_RELEASE 1) := ⟨⟨rfl⟩, rfl, rfl, rfl⟩
  unfold killSector
  split
  · exact .ite (freed.trans (pmcCount_counted _ _ _ _).restores) (.refl s)
  · exact .refl s

theorem freeDead_restores : Restores s (freeDead s q) := by
  have given (s : State) (c : BitVec 32) : Restores s (giveChunk s c.toNat) := (modDbq_restores s _).trans (hwSet_restores _ _ _)
  exact (Restores.ite (.refl s) (putQueue_restores s q _)).trans (.foldl given _ _)

theorem killAll_restores (p : List (BitVec 32 × Nat)) : Restores s (p.foldl (fun s e => killSector s e.1.toNat) s) :=
  .foldl (fun s e => killSector_restores s e.1.toNat) p s

theorem dropOpen_restores : Restores s (dropOpen s q) := by
  unfold dropOpen
  split
  · exact .refl s
  · exact ((modQueue_restores s q _).trans (killAll_restores _ _)).trans (freeDead_restores _ q)

theorem flushNow_restores : Restores s (flushNow s q).2 := by
  unfold flushNow
  dsimp only
  refine Restores.trans ?_ (hwSet_restores _ _ _)
  refine Restores.trans ?_ (freeDead_restores _ q)
  exact (putQueue_restores s q _).trans (.foldl (fun s (p : Packet) => killAll_restores s p.sectors) _ _)

theorem restoreQueue_restores : Restores s (restoreQueue s q) := by
  have dropped := (putQueue_restores s q { queueAt s q with flushes := [] }).trans (dropOpen_restores _ q)
  have charged (s : State) (c : Prop) [Decidable c] (f : Queue → Queue) : Restores s (if c then modQueue s q f else s) :=
    .ite (modQueue_restores s q f) (.refl s)
  exact .ite (((dropped.trans (charged _ _ _)).trans (modQueue_restores _ q _)).trans (flushNow_restores _ q)) (dropped.trans (charged _ _ _))

theorem resetQueue_restores : Restores s (resetQueue s q) :=
  (Restores.foldl (fun s (n : BitVec 32) => killSector_restores s n.toNat) _ s).trans (putQueue_restores _ q _)

theorem ownChunks_restores : Restores s (ownChunks s) := .foldl (fun s _ => modDbq_restores s _) _ s

theorem queueBit_restores : Restores s (queueBit s) := .ite (.refl s) ⟨⟨rfl⟩, rfl, rfl, rfl⟩
end

theorem bootQueues_restores (s : State) (breach found : Bool) : Restores s (bootQueues s breach found) := by
  have owned (f : Dbq → Dbq) := (modDbq_restores s f).trans (ownChunks_restores _)
  have emptied (s : State) (l : List Nat) (f : Dbq → Dbq) : Restores s (askSweep (modDbq (l.foldl resetQueue s) f)) :=
    ((Restores.foldl resetQueue_restores l s).trans (modDbq_restores _ f)).trans (modDbq_restores _ _)
  have restored (s : State) (l : List Nat) : Restores s (l.foldl restoreQueue s) := .foldl restoreQueue_restores l s
  have told (s : State) : Restores s (if breach = true then evt (raise s Reg.DBQ_INT_STATUS 5) Ev.DBQ_QUEUES_RESET noInst 0 else s) :=
    .ite (raised_restores s _ _ _ _ _) (.refl s)
  exact ((((owned _).trans (.ite (emptied _ _ _) (restored _ _))).trans (hwSet_restores _ _ _)).trans (told _)).trans (queueBit_restores _)

theorem bootRestore_restores (s : State) : Restores s (bootRestore s) := by
  have data (s : State) (found : Bool) : ∀ a : Option CommitArea,
      Restores s (match a with | some a => if found then restoreData s a else s | none => s)
    | some a => .ite (restoreData_restores s a) (.refl s)
    | none => .refl s
  have found (s : State) (k : Krf) : Restores s { s with krf := k } := ⟨⟨rfl⟩, rfl, rfl, rfl⟩
  have asked (s : State) : Restores s (s.med.marks.foldl (fun s e => addReq s .move true e.1 .retire) s) :=
    .foldl (fun s e => addReq_restores s _ _ _ _) _ s
  unfold bootRestore
  dsimp only
  refine Restores.trans ?_ (recountPoison_restores _)
  refine Restores.trans ?_ (bootQueues_restores _ _ _)
  refine Restores.trans ?_ (asked _)
  refine Restores.trans ?_ (found _ _)
  refine Restores.trans ?_ (commitReport_restores _ _ _ _)
  refine Restores.trans ?_ (markBreach_restores _ _ _)
  exact (bootEvents_restores s _ _).trans (data _ _ _)

/-! ### The table tier, and forwarding (R251, R449, R450) -/

/-- The lookup engines are ready once the tier has been rebuilt, whether its image was valid or not. -/
theorem bootTables_restores (s : State) (ok : Bool) : Restores { s with lke := { s.lke with ready := true } } (bootTables s ok) := by
  have ready (s : State) : Restores { s with lke := { s.lke with ready := true } } (modLke s fun l => { l with ready := true }) := .refl _
  have told (c : Prop) [Decidable c] : Restores { s with lke := { s.lke with ready := true } }
      (modLke (if c then raise s Reg.LKE_INT_STATUS 3 else s) fun l => { l with ready := true }) := by
    split
    · exact (hwSet_restores { s with lke := { s.lke with ready := true } } _ _)
    · exact ready s
  have valid (s : State) (v : Bool) (n : BitVec 32) : Restores s { s with lke := { s.lke with valid := v, restored := n } } :=
    ⟨⟨rfl⟩, rfl, rfl, rfl⟩
  have blank (s : State) (c : TableSet) : Restores s (freeNext { s with lke := { s.lke with valid := false, cur := c } }) :=
    ⟨⟨rfl⟩, rfl, rfl, rfl⟩
  exact .ite ((((told _).trans (loadItems_counted _ _).restores).trans (valid _ _ _)).trans (hwSet_restores _ _ _))
    (((told _).trans (blank _ _)).trans (raised_restores _ _ _ _ _ _))

theorem bootSeq_restores (s : State) : Restores s (bootSeq s) := .ite (raised_restores s _ _ _ _ _) (.refl s)

/-- STATE is RESTORE from step 4 on. -/
def restoring (s : State) : State := { s with glb := { s.glb with state := .restore } }

/-- Steps 4 to 6 of the boot. -/
def restored (s : State) (tierImageOk : Bool) : State :=
  bootSeq (bootTables (bootRestore (bootWalks (bootGuards (loadItems s (bootItems s))))) (tierImageOk && !structureLost s 1))

theorem bootOn_eq (s : State) (tierImageOk : Bool) : bootOn s tierImageOk =
    if (restored (restoring s) tierImageOk).dbq.sweeping = true then restored (restoring s) tierImageOk
    else releaseForwarding (restored (restoring s) tierImageOk) := rfl

/-- Of what the host sees nothing has moved by step 7, and the sealing and lookup engines are ready. -/
theorem restored_restores (s : State) (tierImageOk : Bool) : Restores
    { s with sealing := { s.sealing with ready := true }, lke := { s.lke with ready := true } } (restored s tierImageOk) := by
  have opened := (loadItems_counted s (bootItems s)).restores.trans (bootGuards_restores _)
  unfold restored
  generalize bootGuards (loadItems s (bootItems s)) = v at opened ⊢
  have walks := (bootWalks_restores v).trans (bootRestore_restores _)
  generalize bootRestore (bootWalks v) = w at walks ⊢
  have tier := (bootTables_restores w (tierImageOk && !structureLost s 1)).trans (bootSeq_restores _)
  generalize bootSeq _ = u at tier ⊢
  have walked : GlbHeld v w := ⟨walks.glb⟩
  have rebuilt : GlbHeld w u := ⟨tier.glb⟩
  exact ⟨⟨((opened.toGlbHeld.trans walked).trans rebuilt).glb⟩, tier.running.trans (walks.running.trans opened.running),
    tier.sealing.trans walks.sealing, tier.lke⟩

/-- Forwarding begins; where BOUNDS is not set, STATE stays at FWD_READY. -/
theorem releaseForwarding_leaves (s : State) : ∃ H state, releaseForwarding s = { s with
    hw := H
    glb := { s.glb with fwd := true, state := state }
    dbq := { s.dbq with ready := true }
    cnt := { s.cnt with ready := true } } ∧ (s.glb.bounds = false → state = .fwdReady) := by
  unfold releaseForwarding stateRule
  dsimp only
  split
  case isTrue bounded => exact ⟨_, _, rfl, fun h => by simp [h] at bounded⟩
  case isFalse => exact ⟨_, _, rfl, fun _ => rfl⟩

/-- Where a boot that goes on ends: in RESTORE while the orphan sweep runs, else forwarding-ready. -/
structure BootEnds (s t : State) : Prop where
  inReset  : t.glb.inReset = s.glb.inReset
  mbx      : t.glb.mbx = s.glb.mbx
  running  : t.fw.running = s.fw.running
  sealing  : t.sealing.ready = true
  lke      : t.lke.ready = true
  sweeping : t.dbq.sweeping = true → t.glb.state = .restore ∧ t.glb.fwd = s.glb.fwd
  forwards : s.glb.bounds = false → t.dbq.sweeping = false →
    t.glb.state = .fwdReady ∧ t.glb.fwd = true ∧ t.dbq.ready = true ∧ t.cnt.ready = true

theorem bootOn_ends (s : State) (tierImageOk : Bool) : BootEnds s (bootOn s tierImageOk) := by
  obtain ⟨glb, running, sealing, lke⟩ := restored_restores (restoring s) tierImageOk
  rw [bootOn_eq]
  generalize restored (restoring s) tierImageOk = t at glb running sealing lke ⊢
  split
  case isTrue sweeps =>
    exact ⟨glb.inReset, glb.mbx, running, sealing, lke, fun _ => ⟨glb.state, glb.fwd⟩, fun _ h => by simp [h] at sweeps⟩
  case isFalse rests =>
    obtain ⟨H, state, e, stays⟩ := releaseForwarding_leaves t
    rw [e]
    exact ⟨glb.inReset, glb.mbx, running, sealing, lke, fun h => absurd h rests,
      fun unbounded _ => ⟨stays (glb.bounds.trans unbounded), rfl, rfl, rfl⟩⟩

/-! ### The whole boot (R306, R364, R447, R449) -/

/-- The device once the self-test has passed and the profile is applied (steps 1 and 2). -/
def profiled (s : State) : State := bootProfile (pstScan (bootStart s true))

/-- The device as firmware finds it: in STOPPED where both factory copies are bad (R364). -/
def firmwareFinds (s : State) : State :=
  if (factoryCopy s.pst).isNone then bootStops (evt (profiled s) Ev.PST_FACTORY_BAD noInst 0) else profiled s

theorem profiled_restores (s : State) : Restores (bootStart s true) (profiled s) := (pstScan_restores _).trans (bootProfile_restores _)

theorem profiled_factory (s : State) : (profiled s).pst.factory = s.pst.factory :=
  (bootProfile_keeps _ (Keeps.refl _)).factory.trans (pstScan_keeps (bootStart s true) (Stays.refl _)).factory

theorem profiled_factoryCopy (s : State) : factoryCopy (profiled s).pst = factoryCopy s.pst := by
  rw [factoryCopy, factoryCopy, profiled_factory]

theorem firmwareFinds_leaves (s : State) :
    (firmwareFinds s).glb.inReset = false ∧ (firmwareFinds s).glb.fwd = s.glb.fwd ∧ (firmwareFinds s).glb.bounds = s.glb.bounds ∧
      (firmwareFinds s).glb.mbx = s.glb.mbx ∧
      (firmwareFinds s).glb.state = if factoryCopy s.pst = none then .stopped else s.glb.state := by
  have started := (profiled_restores s).toGlbHeld
  simp only [firmwareFinds, ← Option.isNone_iff_eq_none]
  split
  · exact ⟨started.inReset, started.fwd, started.bounds, started.mbx, rfl⟩
  · exact ⟨started.inReset, started.fwd, started.bounds, started.mbx, started.state⟩

section
variable {s : State} {obs : BootObs}

theorem boot_failed (h : obs.selfTestOk = false) : boot s obs = bootStart s false := by
  rw [boot, h]
  rfl

/-- Once the self-test has passed the boot ends with firmware, or goes on where an image runs and a factory copy is good (R358, R364). -/
theorem boot_passed (ok : obs.selfTestOk = true) : boot s obs =
    let t := bootFirmware (firmwareFinds s) obs
    if factoryCopy s.pst = none ∨ t.fw.running = none then t else bootOn (readCommit t obs.commitUnread) obs.tierImageOk := by
  simp only [firmwareFinds, ← Option.isNone_iff_eq_none]
  rw [← profiled_factoryCopy, boot, ok]
  rfl

/-- What a boot ends with. -/
theorem boot_cases (ok : obs.selfTestOk = true) :
    let t := bootFirmware (firmwareFinds s) obs
    (boot s obs = t ∧ (factoryCopy s.pst = none ∨ t.fw.running = none)) ∨
      (BootEnds t (boot s obs) ∧ factoryCopy s.pst ≠ none ∧ t.fw.running ≠ none) := by
  intro t
  rw [boot_passed ok]
  by_cases h : factoryCopy s.pst = none ∨ t.fw.running = none
  · exact .inl ⟨if_pos h, h⟩
  · have read := readCommit_restores t obs.commitUnread
    have ends := bootOn_ends (readCommit t obs.commitUnread) obs.tierImageOk
    refine .inr ⟨?_, not_or.1 h⟩
    dsimp only
    rw [if_neg h]
    exact ⟨ends.inReset.trans read.inReset, ends.mbx.trans read.mbx, ends.running.trans read.running, ends.sealing, ends.lke,
      fun h => ⟨(ends.sweeping h).1, (ends.sweeping h).2.trans read.fwd⟩, fun h => ends.forwards (read.bounds.trans h)⟩

theorem boot_releases (s : State) (obs : BootObs) : (boot s obs).glb.inReset = false := by
  cases test : obs.selfTestOk with
  | false => rw [boot_failed test]; rfl
  | true =>
    have firmware := (bootFirmware_leaves (firmwareFinds s) obs).1.trans (firmwareFinds_leaves s).1
    rcases boot_cases (s := s) test with ⟨e, -⟩ | ⟨ends, -⟩
    · rw [e, firmware]
    · exact ends.inReset.trans firmware

section
variable (ok : obs.selfTestOk = true)
include ok

theorem boot_bad_factory (h : factoryCopy s.pst = none) :
    (boot s obs).glb.state = .stopped ∧ (boot s obs).glb.fwd = s.glb.fwd := by
  obtain ⟨-, fwd, -, -, state⟩ := firmwareFinds_leaves s
  obtain ⟨-, state', fwd', -⟩ := bootFirmware_leaves (firmwareFinds s) obs
  rcases boot_cases (s := s) ok with ⟨e, -⟩ | ⟨-, good, -⟩
  · rw [e, state', fwd', state, fwd, if_pos h]
    exact ⟨rfl, rfl⟩
  · exact absurd h good

theorem boot_no_image (h : factoryCopy s.pst ≠ none) (idle : (boot s obs).fw.running = none) :
    (boot s obs).glb.state = s.glb.state ∧ (boot s obs).glb.fwd = s.glb.fwd ∧ (boot s obs).glb.mbx = s.glb.mbx := by
  obtain ⟨-, fwd, -, mbx, state⟩ := firmwareFinds_leaves s
  rcases boot_cases (s := s) ok with ⟨e, -⟩ | ⟨ends, -, runs⟩
  · rw [e] at idle ⊢
    have firmware := (bootFirmware_glb (firmwareFinds s) obs).1 idle
    rw [firmware.state, firmware.fwd, firmware.mbx, state, fwd, mbx, if_neg h]
    exact ⟨rfl, rfl, rfl⟩
  · exact absurd (ends.running.symm.trans idle) runs

theorem boot_image_mbx (runs : (boot s obs).fw.running ≠ none) : (boot s obs).glb.mbx = true := by
  have firmware := (bootFirmware_glb (firmwareFinds s) obs).2
  rcases boot_cases (s := s) ok with ⟨e, -⟩ | ⟨ends, -, runs⟩
  · rw [e] at runs ⊢
    exact (firmware runs).mbx
  · exact ends.mbx.trans (firmware runs).mbx

theorem boot_goes_on (h : factoryCopy s.pst ≠ none) (runs : (boot s obs).fw.running ≠ none) :
    BootEnds (bootFirmware (firmwareFinds s) obs) (boot s obs) := by
  rcases boot_cases (s := s) ok with ⟨e, bad | idle⟩ | ⟨ends, -⟩
  · exact absurd bad h
  · exact absurd idle (e ▸ runs)
  · exact ends
end
end

/-- Settles O11: the fatal path's commands are their guards, and the boot ends with firmware or goes on (`boot_cases`), each of its
parts leaving alone what the statement shows. -/
theorem fatal_conditions_and_boot : Obligations.fatal_conditions_and_boot := by
  refine ⟨fun s => ⟨exec_headstockWatchdogExpiry, exec_fwAssert, exec_dumpComplete, ?watchdog⟩, ?boot⟩
  case watchdog =>
    intro pending wait asked
    exact ⟨_, exec_watchdogResetTimeout pending wait asked, ⟨rfl, rfl, rfl, rfl⟩,
      resetTaken_causes (cutCommit s) { kind := .full, causes := 8 }, rfl, cutCommit_seq s⟩
  case boot =>
    intro obs s on held resetN cool
    refine ⟨exec_resetRelease on held resetN cool, fun failed => ?failed, boot_releases s obs, fun ok reset => ?passed⟩
    case failed =>
      rw [boot_failed failed]
      exact ⟨rfl, rfl, rfl, rfl, rfl⟩
    case passed =>
      obtain ⟨-, state, fwd, bounds⟩ := reset
      refine ⟨fun bad => ?_, fun good idle => ?_, boot_image_mbx ok, fun good runs => ?_⟩
      · rw [← fwd]
        exact boot_bad_factory ok bad
      · rw [← fwd, ← state]
        exact boot_no_image ok good idle
      · obtain ⟨-, -, firmwareFwd, firmwareBounds⟩ := bootFirmware_leaves (firmwareFinds s) obs
        obtain ⟨-, foundFwd, foundBounds, -⟩ := firmwareFinds_leaves s
        have ends := boot_goes_on ok good runs
        exact ⟨ends.sealing, ends.lke, fun sweeps => ⟨(ends.sweeping sweeps).1, (ends.sweeping sweeps).2.trans
          (firmwareFwd.trans (foundFwd.trans fwd))⟩, ends.forwards (firmwareBounds.trans (foundBounds.trans bounds))⟩

end Sys2Proof.Machine
end

section
/-! Proofs of the scope family: what every step does. -/

namespace Sys2Proof.Machine

theorem step_of_pending {s : State} {c : Instr} {q : List Instr} (h : s.pending = c :: q) : step s = exec c { s with pending := q } := by
  rw [step, h]

theorem step_of_idle {s : State} (h : s.pending = []) : step s = done (tick s) := by
  rw [step, h]

/-- Settles O1: a step looks at the front of the queue first. -/
theorem step_runs_the_front_command : Obligations.step_runs_the_front_command := fun _ _ _ => step_of_pending rfl

/-- A command goes on, and keeps what every command keeps. -/
theorem exec_goes_on (i : Instr) (s : State) : ∃ t, exec i s = .next t ∧ Base s t := by
  have kept := exec_base i s
  cases e : exec i s with
  | next t => exact ⟨t, rfl, (congrArg (BaseOut s) e).mp kept⟩
  | fault r => exact ((congrArg (BaseOut s) e).mp kept).elim
  | refused r => exact ((congrArg (BaseOut s) e).mp kept).elim

/-- Settles O3: a step is a command, which keeps it all (`exec_goes_on`), or a tick (`tick_keeps`). -/
theorem every_step_goes_on_and_keeps_the_invariants : Obligations.every_step_goes_on_and_keeps_the_invariants := by
  intro s
  cases hp : s.pending with
  | nil =>
    have kept : Base s (fin (tick s)) := (tick_keeps s (.refl s)).toBase.step (fin_keeps (.refl _))
    exact ⟨_, step_of_idle hp, kept.pending.trans hp, kept.canon, kept.factory, kept.floor⟩
  | cons c q =>
    obtain ⟨t, ran, kept⟩ := exec_goes_on c { s with pending := q }
    exact ⟨t, (step_of_pending hp).trans ran, kept.pending, kept.canon, kept.factory, kept.floor⟩

end Sys2Proof.Machine
end

section
/-! Proofs of the supplies family: the power-good pins and the faults of a rail. -/

namespace Sys2Proof.Machine

/-! ### The raw SEQ_PG (R438, R442) -/

section
variable {c : Rail} {s : State} (hv : s.seq.vaon = true)
include hv

theorem exec_seqPgRise (hp : bitOf s.seq.pg c.val = false) (long : Bool) : exec (.seqPgRise c long) s =
    let t := { s with seq := countTransition c { s.seq with pg := s.seq.pg ||| railBit c } }
    done (if monitored t c = true ∧ long = false then countGlitch t c else t) := by
  refine (if_neg (by simp [hv, hp])).trans ?_
  simp only [Bool.not_eq_true']
  rfl

theorem exec_seqPgFall (hp : bitOf s.seq.pg c.val = true) : exec (.seqPgFall c) s =
    let t := { s with seq := countTransition c { s.seq with pg := s.seq.pg &&& ~~~ railBit c } }
    done (if goingDown s = true ∧ c ∈ s.seq.enabled then
      latchFault (modSeq t fun q => { q with lostDown := q.lostDown ||| railBit c }) 7 c.val false else t) := by
  have same : (goingDown { s with seq := countTransition c { s.seq with pg := s.seq.pg &&& ~~~ railBit c } } = true ∧
      (countTransition c { s.seq with pg := s.seq.pg &&& ~~~ railBit c }).enabled.contains c = true) ↔
      (goingDown s = true ∧ c ∈ s.seq.enabled) := by
    simp only [goingDown, countTransition, apply_ite Seq.phase, apply_ite Seq.enabled, ite_self, List.contains_iff_mem]
  refine (if_neg (by simp [hv, hp])).trans ?_
  dsimp only
  exact congrArg done (if_congr same rfl rfl)
end

/-- A transition leaves alone what makes a channel monitored. -/
theorem monitored_countTransition (s : State) (c : Rail) (v : BitVec 12) :
    monitored { s with seq := countTransition c { s.seq with pg := v } } c = monitored s c := by
  simp only [monitored, countTransition, apply_ite Seq.enabled, apply_ite Seq.good, apply_ite Seq.step, ite_self]

/-! ### The faults (R438, R439, R442) -/

theorem exec_pgTimeout {s : State} {c : Rail} (h : s.seq.step = .ramp c) : exec (.pgTimeout c) s = done (faultShutdown s 1 c) := if_pos h

theorem exec_pgUnstable {s : State} {c : Rail} (h : s.seq.step = .settle c) (ht : 8 < s.seq.transitions) :
    exec (.pgUnstable c) s = done (faultShutdown s 3 c) := if_pos ⟨h, decide_eq_true ht⟩

theorem vitalRail_iff (c : Rail) : vitalRail c = true ↔ c.val ∈ [0, 1, 6, 7] := by
  revert c
  decide

/-- A rail that counts as good and has been low is lost; what follows goes by the phase and the rail. -/
theorem exec_pgLost {s : State} {c : Rail} (he : c ∈ s.seq.enabled) (hg : bitOf s.seq.good c.val = true)
    (hp : bitOf s.seq.pg c.val = false) : exec (.pgLost c) s =
      if poweringUp s = true then done (faultShutdown (railLow s c) 2 c)
      else if s.seq.phase ≠ .on then done (railLow s c)
      else if c.val ∈ [0, 1, 6, 7] then done (faultShutdown (railLow s c) 2 c)
      else done (powerFails (modSeq (latchFault (railLow s c) 2 c.val true) fun q => { q with toLatched := true }) .pwrFail) := by
  simp only [← vitalRail_iff]
  exact if_neg (by simp [he, hg, hp])

theorem poweringUp_false_of_on {s : State} (h : s.seq.phase = .on) : ¬ poweringUp s = true := by simp [poweringUp, h]

theorem goingDown_phase {s : State} (h : goingDown s = true) : ¬ poweringUp s = true ∧ s.seq.phase ≠ .on := by
  unfold goingDown at h
  unfold poweringUp
  split at h
  case h_1 e => simp [e]
  case h_2 e => simp [e]
  case h_3 => cases h

/-- Settles O8: a pin's command counts its transition, and then asks whether the rail is monitored or going down; PG_LOST goes by the
phase and the rail (`exec_pgLost`). -/
theorem rail_pins_and_faults : Obligations.rail_pins_and_faults := by
  refine ⟨fun c s hv => ⟨fun hp => ⟨fun long hl => ?steady, fun hm => ?glitch⟩, fun hp => ⟨fun hd => ?falls, fun hd he => ?lost⟩⟩,
    fun c s => ⟨exec_pgTimeout, exec_pgUnstable, fun he hg hp => ⟨fun h => ?vital, fun hd => ?down, fun ho hn => ?commits⟩⟩⟩
  case steady =>
    have steady : ¬ (monitored s c = true ∧ long = false) := fun h => hl.elim (ne_true_of_eq_false h.2) (ne_false_of_eq_true h.1)
    rw [exec_seqPgRise hv hp]
    dsimp only
    rw [monitored_countTransition, if_neg steady]
    rfl
  case glitch =>
    rw [exec_seqPgRise hv hp]
    dsimp only
    rw [monitored_countTransition, if_pos ⟨hm, rfl⟩]
    rfl
  case falls =>
    have stays : ¬ (goingDown s = true ∧ c ∈ s.seq.enabled) := fun h => hd.elim (ne_false_of_eq_true h.1) (absurd h.2)
    rw [exec_seqPgFall hv hp]
    dsimp only
    rw [if_neg stays]
    rfl
  case lost =>
    rw [exec_seqPgFall hv hp]
    dsimp only
    rw [if_pos ⟨hd, he⟩]
    rfl
  case vital =>
    rw [exec_pgLost he hg hp]
    rcases h with up | ⟨on, vital⟩
    · rw [if_pos up]; rfl
    · rw [if_neg (poweringUp_false_of_on on), if_neg (not_not.2 on), if_pos vital]; rfl
  case down =>
    obtain ⟨up, on⟩ := goingDown_phase hd
    rw [exec_pgLost he hg hp, if_neg up, if_pos on]
    rfl
  case commits =>
    rw [exec_pgLost he hg hp, if_neg (poweringUp_false_of_on ho), if_neg (not_not.2 ho), if_neg hn]
    rfl

end Sys2Proof.Machine
end

section
/-! Proofs of the mailbox family: the resets, the link and the configuration space of the PCIe function. -/

namespace Sys2Proof.Machine

/-! ### Resets, the link and pending vectors (R338, R339, R458) -/

section
variable {s : State} (h : s.pcie.linkUp = true)
include h

theorem exec_pcieFlr : exec .pcieFlr s = done (pcieReset s) := if_pos h
theorem exec_pcieHotReset : exec .pcieHotReset s = done (pcieLinkLost s) := if_pos h
theorem exec_pcieD3hotToD0 : exec .pcieD3hotToD0 s = done (pcieReset s) := if_pos h
theorem exec_pcieLinkDown : exec .pcieLinkDown s = done (pcieLinkLost s) := if_pos h
end

theorem exec_pcieLinkUp {s : State} (hp : s.seq.phase = .on) (ho : s.clk.pcie.ok = true) (hf : s.clk.pcie.failed = false)
    (busMaster : Bool) : exec (.pcieLinkUp busMaster) s = done { s with pcie := { s.pcie with
      linkUp := true, perstN := true, cfg := { s.pcie.cfg with busMaster := busMaster, memory := true, msixOn := true } } } :=
  if_pos ⟨hp, ho, by rw [hf]; rfl⟩

theorem exec_msixPendingSend {s : State} {v : Fin 32} (hb : bitOf s.pcie.pba v.val = true) (hf : vectorFree s.pcie v.val = true) :
    exec (.msixPendingSend v) s =
      done (emit { s with pcie := { s.pcie with pba := putBit s.pcie.pba v.val false } } (.msix (BitVec.ofNat 5 v.val))) :=
  if_pos ⟨hb, hf⟩

/-! ### D3hot and the configuration space (R336, R338) -/

section
variable {s : State} (hu : endpointUp s = true)
include hu

section
variable (hd : s.pcie.cfg.d3hot = true)
include hd

theorem barRead_d3hot (r : Nat × State) : barRead s r = some (s.busRead.toNat, unsupported s) := by
  rw [barRead, hu, hd]
  rfl

theorem exec_barWrite_d3hot (o : BitVec 24) (size : Nat) (v : BitVec 64) :
    exec (.registerWrite (.bar0 o) size v) s = done (unsupported s) := if_pos ⟨hu, hd⟩

theorem exec_barRead_d3hot {a : BusAddr} {r : Nat × State} {size : Nat} (ha : readFrom s size a = barRead s r) :
    exec (.registerReadClear a size) s = done (unsupported s) := by
  show execRegisterReadClear a size s = _
  rw [execRegisterReadClear, ha, barRead_d3hot hu hd]
  dsimp only
  rw [BitVec.ofNat_toNat, BitVec.setWidth_eq]
  rfl
end

theorem exec_configWrite (r : CfgReg) (v : BitVec 64) :
    exec (.registerWrite (.config r) 4 v) s = done (cfgWrite s r (v.setWidth 32)) := if_pos ⟨hu, rfl⟩

theorem exec_configRead (r : CfgReg) (size : Nat) : exec (.registerReadClear (.config r) size) s =
    done { s with busRead := BitVec.ofNat 64 (cfgRead s r).toNat } := by
  show execRegisterReadClear (.config r) size s = _
  rw [execRegisterReadClear, readFrom, hu]
  rfl
end

/-- A register of the configuration space is the function's alone. -/
theorem cfgWrite_frame (s : State) (r : CfgReg) (v : BitVec 32) : cfgWrite s r v = { s with pcie := (cfgWrite s r v).pcie } := by
  unfold cfgWrite
  split <;> (try split) <;> (try split) <;> rfl

theorem cfgWrite_pmControl_d0 {s : State} {v : BitVec 32} (hd : s.pcie.cfg.d3hot = true) (hv : bitsOf v 0 2 = 0) :
    cfgWrite s .pmControl v = pcieReset s := by
  rw [cfgWrite, if_neg (by simp [hv]), if_pos ⟨hv, hd⟩]

theorem bitsOf_setWidth_low (v : BitVec 64) : bitsOf (v.setWidth 32) 0 2 = bitsOf v 0 2 := by
  simp only [bitsOf, BitVec.toNat_setWidth]
  omega

/-- A next state in which only the function and what it has sent differ. -/
theorem fin_of_pcie {s t : State} (h : t = { s with pcie := t.pcie }) : fin t = { s with pcie := (fin t).pcie, out := (fin t).out } := by
  generalize t.pcie = p at h
  rw [h]
  rfl

theorem done_if_frame {s t : State} {c : Prop} [Decidable c] (h : t = { s with pcie := t.pcie }) :
    ∃ u, (if c then done t else done s) = .next u ∧ u = { s with pcie := u.pcie, out := u.out } := by
  split
  · exact ⟨_, rfl, fin_of_pcie h⟩
  · exact ⟨_, rfl, fin_of_pcie rfl⟩

/-- Settles O12: each command is its guard and a change of the function alone, and so is a write of its configuration space
(`cfgWrite_frame`). -/
theorem pcie_resets_only_pcie : Obligations.pcie_resets_only_pcie := by
  intro s
  refine ⟨fun h => ⟨exec_pcieFlr h, exec_pcieHotReset h, exec_pcieD3hotToD0 h, exec_pcieLinkDown h⟩, rfl,
    fun busMaster hp ho hf => exec_pcieLinkUp hp ho hf busMaster, fun v hb hf => exec_msixPendingSend hb hf,
    fun hu hd => ⟨fun o size v => ⟨exec_barRead_d3hot hu hd rfl, exec_barWrite_d3hot hu hd o size v⟩,
      fun o size => exec_barRead_d3hot hu hd rfl, fun v hv => ?leaves⟩,
    fun r v hu => ⟨⟨_, exec_configWrite hu r v, fin_of_pcie (cfgWrite_frame s r _)⟩, exec_configRead hu r⟩, ?frame⟩
  case leaves =>
    rw [exec_configWrite hu, cfgWrite_pmControl_d0 hd ((bitsOf_setWidth_low v).trans hv)]
    rfl
  case frame =>
    intro i hi
    simp only [List.mem_cons, List.not_mem_nil, or_false] at hi
    rcases hi with rfl | rfl | rfl | rfl | rfl | rfl | rfl
    case inr.inr.inr.inr.inl => exact ⟨_, rfl, fin_of_pcie rfl⟩
    all_goals exact done_if_frame rfl

end Sys2Proof.Machine
end

section
/-! Proofs of the observability family: the rate limits of the recorder. -/

namespace Sys2Proof.Machine

/-! ### What a stored entry leaves of the recorder (R383, R390) -/

theorem writeBack_windows (v : Evr) : v.writeBack.windows = v.windows := rfl

theorem recStore_windows (irq : Nat) (r : Rec) (e : EvtEntry) : (recStore irq r e).1.windows = r.1.windows := by
  unfold recStore
  dsimp only
  split
  · rfl
  · split <;> rfl

section
variable {r : Rec} (hf : r.1.frozen = false)
include hf

theorem recStore_frozen (irq : Nat) (e : EvtEntry) : (recStore irq r e).1.frozen = false := by
  unfold recStore
  dsimp only
  split
  · exact hf
  · split <;> exact hf

/-- Unless the ring is frozen an entry is stored with the next INDEX. -/
theorem recStore_nextIndex (irq : Nat) (e : EvtEntry) : (recStore irq r e).1.nextIndex = r.1.nextIndex + 1 := by
  unfold recStore
  dsimp only
  split
  case isTrue full => exact absurd full.1 (by simp [hf])
  case isFalse => split <;> rfl
end

/-- A window that closes is recorded where it has suppressed events. -/
theorem recClose_nextIndex {r : Rec} (hf : r.1.frozen = false) {code : Nat} {w : EvtWindow} (hw : fget r.1.windows code = some w)
    (irq : Nat) (time : BitVec 64) (on : BitVec 16) (sev : Nat) :
    (recClose irq time on code sev r).1.frozen = false ∧
      (recClose irq time on code sev r).1.nextIndex = r.1.nextIndex + (if w.suppressed = 0 then 0 else 1) := by
  unfold recClose
  rw [hw]
  dsimp only
  split
  · exact ⟨hf, (BitVec.add_zero _).symm⟩
  · exact ⟨recStore_frozen (by exact hf) _ _, recStore_nextIndex (by exact hf) _ _⟩

/-! ### An event under a limit (R389, R390) -/

section
variable {r : Rec} {e : EvtEntry} {limit window : Nat} (hl : fget r.1.limits e.code.toNat = some (limit, window))
variable {w : EvtWindow} (hw : fget r.1.windows e.code.toNat = some w)
include hl hw

theorem recLimited_expired (irq : Nat) (h : w.start + window ≤ e.time.toNat) : recLimited irq r e =
    let q := recClose irq e.time e.powerOn e.code.toNat e.sev.toNat r
    recStore irq ({ q.1 with windows := fput q.1.windows e.code.toNat ⟨e.time.toNat, 1, 0⟩ }, q.2) e := by
  rw [recLimited, hl]
  dsimp only
  rw [hw]
  exact if_pos h

variable (h : e.time.toNat < w.start + window)
include h

theorem recLimited_recorded (irq : Nat) (hr : w.recorded < limit) : recLimited irq r e =
    recStore irq ({ r.1 with windows := fput r.1.windows e.code.toNat { w with recorded := w.recorded + 1 } }, r.2) e := by
  rw [recLimited, hl]
  dsimp only
  rw [hw]
  exact (if_neg (Nat.not_le.2 h)).trans (if_pos hr)

theorem recLimited_suppressed (irq : Nat) (hr : limit ≤ w.recorded) : recLimited irq r e =
    ({ r.1 with windows := fput r.1.windows e.code.toNat { w with suppressed := w.suppressed + 1 } },
      hwPut r.2 Reg.EVR_SUPPRESSED (hwAt r.2 Reg.EVR_SUPPRESSED + 1)) := by
  rw [recLimited, hl]
  dsimp only
  rw [hw]
  exact (if_neg (Nat.not_le.2 h)).trans (if_neg (Nat.not_lt.2 hr))
end

/-- Settles O60: an event under a limit opens a window, is recorded in it, or is suppressed, and storing it leaves the windows alone. -/
theorem rate_limits : Obligations.rate_limits := by
  intro irq v hw e limit window hl positive _ r
  have opened (w : EvtWindow) (hv : fget v.windows e.code.toNat = some w) (late : w.start + window ≤ e.time.toNat) :
      fget r.1.windows e.code.toNat = some ⟨e.time.toNat, 1, 0⟩ := by
    rw [show r = _ from recLimited_expired hl hv irq late, recStore_windows]
    exact fget_fput_self _ _ _
  have recorded (w : EvtWindow) (hv : fget v.windows e.code.toNat = some w) (early : e.time.toNat < w.start + window)
      (room : w.recorded < limit) : fget r.1.windows e.code.toNat = some { w with recorded := w.recorded + 1 } := by
    rw [show r = _ from recLimited_recorded hl hv early irq room, recStore_windows]
    exact fget_fput_self _ _ _
  have suppressed (w : EvtWindow) (hv : fget v.windows e.code.toNat = some w) (early : e.time.toNat < w.start + window)
      (full : limit ≤ w.recorded) : fget r.1.windows e.code.toNat = some { w with suppressed := w.suppressed + 1 } := by
    rw [show r = _ from recLimited_suppressed hl hv early irq full]
    exact fget_fput_self _ _ _
  refine ⟨fun w hv early => ⟨fun full => ?suppressed, fun room => ⟨recorded w hv early room, fun hf => ?recorded⟩⟩,
    fun w hv late => ⟨opened w hv late, fun hf => ?opened⟩, fun w x hv within hx => ?bounded⟩
  case suppressed =>
    have counted := suppressed w hv early full
    rw [show r = _ from recLimited_suppressed hl hv early irq full] at counted ⊢
    exact ⟨rfl, rfl, rfl, counted⟩
  case recorded =>
    rw [show r = _ from recLimited_recorded hl hv early irq room]
    exact recStore_nextIndex (by exact hf) irq e
  case opened =>
    obtain ⟨frozen, next⟩ := recClose_nextIndex (r := (v, hw)) hf hv irq e.time e.powerOn e.sev.toNat
    rw [show r = _ from recLimited_expired hl hv irq late]
    refine (recStore_nextIndex (by exact frozen) irq e).trans ?_
    dsimp only
    rw [next]
    split <;> grind
  case bounded =>
    rcases Nat.lt_or_ge e.time.toNat (w.start + window) with early | late
    · rcases Nat.lt_or_ge w.recorded limit with room | full
      · cases (recorded w hv early room).symm.trans hx
        exact room
      · cases (suppressed w hv early full).symm.trans hx
        exact within
    · cases (opened w hv late).symm.trans hx
      exact positive

end Sys2Proof.Machine
end

section
/-! Proofs of the pace, power and thermal family: temperature. -/

namespace Sys2Proof.Machine

/-! ### Samples and the rate of rise (R423, R427) -/

theorem exec_sensorSample {s : State} (hc : coreUp s = true) (raw : Vector Int 40) : exec (.sensorSample raw) s =
    let t := { s with thm := { s.thm with sensors := sampleSensors s raw, ready := true } }
    let invalid := (List.finRange 40).any fun i =>
      !((sampleSensors s raw)[i]).valid && ((s.thm.sensors[i]).valid || (s.thm.sensors[i]).last.isNone)
    done (settle (takeCritical (takeSelfHeat (takeCold (takeThrottle (takeWave (takeBand (takeTemp
      (if invalid then raise t Reg.THM_INT_STATUS 8 else t))))))))) := if_neg (by simp [hc])

/-- The state in which the rate of rise has been computed. -/
def rated (s : State) : State := { s with thm := { s.thm with rate := (s.thm.temp - tempEarlier s) * 4 } }

theorem exec_rateOfRise_other {s : State} {other : Int} (h : other ≠ tempEarlier s) : exec (.rateOfRiseCompute other) s = done s :=
  if_pos (.inr h)

theorem exec_rateOfRise {s : State} (hc : coreUp s = true) : exec (.rateOfRiseCompute (tempEarlier s)) s =
    if 64 < (rated s).thm.rate ∧ s.thm.alarm = false then
      done (evt (raise (nmi { s with thm := { (rated s).thm with
        alarm := true, preempt := s.thm.preempt || cfgBit s Reg.THM_CTRL 4 } } 2) Reg.THM_INT_STATUS 3)
        Ev.THM_RATE_OF_RISE noInst (BitVec.ofInt 16 (rated s).thm.rate).toNat)
    else if (rated s).thm.rate < 32 then done { s with thm := { (rated s).thm with alarm := false } }
    else done (rated s) := by
  simp only [← Bool.not_eq_true']
  exact if_neg (by simp [hc])

theorem exec_preemptEnd {s : State} (hp : s.thm.preempt = true) (hr : s.thm.rate < 32) :
    exec .preemptEnd s = done { s with thm := { s.thm with preempt := false } } := if_pos ⟨hp, hr⟩

/-! ### Percentages (R425) -/

theorem pctOf_eq (dt : Int) : (pctOf dt : Int) = if dt ≤ 0 then 100 else max 10 (100 - 6 * dt) := by
  unfold pctOf
  split <;> omega

theorem pctOf_falls (dt : Int) : pctOf (dt + 1) ≤ pctOf dt := by
  have now := pctOf_eq dt
  have later := pctOf_eq (dt + 1)
  split at now <;> split at later <;> omega

theorem pctOf_bounds (dt : Int) : 10 ≤ pctOf dt ∧ pctOf dt ≤ 100 := by
  have h := pctOf_eq dt
  split at h <;> omega

/-! ### Bands (R424) -/

/-- How many bands above 0 have a lower boundary at or below a temperature. -/
def floorsBelow (t : Int) : Nat := ((List.range 5).filter fun b => decide (0 < b) && decide (bandFloor b ≤ t)).length

theorem floorsBelow_eq (t : Int) : floorsBelow t =
    if t < -400 then 0 else if t < 400 then 1 else if t < 1360 then 2 else if t < 1680 then 3 else 4 := by
  have listed : List.range 5 = [0, 1, 2, 3, 4] := rfl
  simp only [floorsBelow, listed, List.filter_cons, List.filter_nil, bandFloor, List.getD_cons_zero, List.getD_cons_succ, Bool.and_eq_true,
    decide_eq_true_eq]
  grind

theorem floorsBelow_le (t : Int) : floorsBelow t ≤ 4 := by
  rw [floorsBelow_eq]
  split_ifs <;> omega

/-- The boundaries rise with their bands. -/
theorem le_floorsBelow {b : Nat} (hb : 1 ≤ b) (h4 : b ≤ 4) (t : Int) : b ≤ floorsBelow t ↔ bandFloor b ≤ t := by
  rw [floorsBelow_eq]
  have cases : b = 1 ∨ b = 2 ∨ b = 3 ∨ b = 4 := by omega
  rcases cases with rfl | rfl | rfl | rfl <;> simp only [bandFloor, List.getD_cons_zero, List.getD_cons_succ] <;> split_ifs <;> omega

/-- The band rises with the temperature, and falls with the temperature and the hysteresis. -/
theorem bandNext_eq (s : State) : bandNext s =
    if s.thm.band < floorsBelow s.thm.temp then floorsBelow s.thm.temp else min s.thm.band (floorsBelow (s.thm.temp + hystOf s)) := by
  have less (b : Nat) : decide (bandFloor b - hystOf s ≤ s.thm.temp) = decide (bandFloor b ≤ s.thm.temp + hystOf s) :=
    decide_eq_decide.2 sub_le_iff_le_add
  rw [bandNext]
  simp only [less]
  rfl

theorem bandNext_rules (s : State) (hb : s.thm.band ≤ 4) (hh : 0 ≤ hystOf s) :
    bandNext s ≤ 4 ∧ (∀ b, 1 ≤ b → b ≤ 4 → bandFloor b ≤ s.thm.temp → b ≤ bandNext s) ∧
      (1 ≤ s.thm.band → bandFloor s.thm.band - hystOf s ≤ s.thm.temp → s.thm.band ≤ bandNext s) ∧
      (1 ≤ s.thm.band → s.thm.temp < bandFloor s.thm.band - hystOf s → bandNext s < s.thm.band) := by
  have bound := floorsBelow_le s.thm.temp
  rw [bandNext_eq]
  refine ⟨by split <;> omega, fun b h1 h4 reached => ?_, fun h1 warm => ?_, fun h1 cold => ?_⟩
  · have up := (le_floorsBelow h1 h4 s.thm.temp).2 reached
    have stay := (le_floorsBelow h1 h4 (s.thm.temp + hystOf s)).2 (by omega)
    split <;> omega
  · have stay := (le_floorsBelow h1 hb (s.thm.temp + hystOf s)).2 (by omega)
    split <;> omega
  · have up := mt (le_floorsBelow h1 hb s.thm.temp).1 (by omega)
    have stay := mt (le_floorsBelow h1 hb (s.thm.temp + hystOf s)).1 (by omega)
    split <;> omega

/-- Settles O16: the commands are their guards, the percentages are arithmetic, and the boundaries that a temperature has reached give
the band (`bandNext_eq`). -/
theorem temperature : Obligations.temperature := by
  refine ⟨fun raw s hc => exec_sensorSample hc raw,
    fun s hc => ⟨fun hr ha => ?alarm, fun hr => ?below, fun hr ha => ?between, fun other => exec_rateOfRise_other, exec_preemptEnd⟩,
    fun dt => ⟨pctOf_eq dt, ?reads, pctOf_falls dt, pctOf_bounds dt⟩, bandNext_rules⟩
  case alarm => exact (exec_rateOfRise hc).trans (if_pos ⟨hr, ha⟩)
  case below =>
    have slow : ¬ (64 < (rated s).thm.rate ∧ s.thm.alarm = false) := fun h => absurd (h.1.trans hr) (by decide)
    exact (exec_rateOfRise hc).trans ((if_neg slow).trans (if_pos hr))
  case between =>
    have quiet : ¬ (64 < (rated s).thm.rate ∧ s.thm.alarm = false) := fun h =>
      ha.elim (fun slow => absurd h.1 (Int.not_lt.2 slow)) (ne_true_of_eq_false h.2)
    exact (exec_rateOfRise hc).trans ((if_neg quiet).trans (if_neg (Int.not_lt.2 hr)))
  case reads =>
    rw [pctOf_eq]
    exact if_congr (by omega) rfl rfl

end Sys2Proof.Machine
end

section
/-! Proofs of the pace, power and thermal family: the power states. -/

namespace Sys2Proof.Machine

section
variable {s : State}

/-- An entry goes on unless something holds it; L3 waits until everything is drained. -/
theorem exec_pstateEntry {l : Fin 5} (hn : nextState s = some l) (hs : pwrSteady s = true) (hi : idle s = true)
    (hm : mayEnter s l.val = true) : exec .pstateEntry s =
      if l = 3 ∧ drained s = false then done (settle (foldEverything { s with pwr := { s.pwr with entering := true } }))
      else done (goDown s l) := by
  show execPstateEntry s = _
  rw [execPstateEntry, hn]
  simp only [← Bool.not_eq_true']
  exact if_neg (by simp [hs, hi, hm])

theorem nextState_val {l : Fin 5} (h : nextState s = some l) : l.val = s.pwr.cur.val + 1 := by
  unfold nextState at h
  split_ifs at h
  cases h
  rfl

theorem goDown_cur (l : Fin 5) : (goDown s l).pwr.cur = l ∧ (goDown s l).thm.vdd = 650 := ⟨rfl, rfl⟩

theorem exec_pstateReturnL0 {cause : ReturnCause} (hc : coreUp s = true) (hh : causeHolds s cause = true) :
    exec (.pstateReturnL0 cause) s = done { s with pwr := { s.pwr with
      entering := false, exiting := s.pwr.exiting || decide (s.pwr.cur ≠ 0), excursion := none } } := if_neg (by simp [hc, hh])

theorem exec_pstateExitComplete (h : s.pwr.exiting = true) : exec .pstateExitComplete s =
    done (settle (raise { s with pwr := { s.pwr with cur := 0, exiting := false, held := [] }, thm := { s.thm with vdd := vddL0 s } }
      Reg.THM_INT_STATUS 9)) := if_neg (by simp [h])

/-- A count of 16 bits stays at its greatest value. -/
theorem ofNat_sat_succ (n : BitVec 16) : BitVec.ofNat 16 (sat 16 (n.toNat + 1)) = if n = 0xFFFF then 0xFFFF else n + 1 := by
  have bound := n.isLt
  apply BitVec.eq_of_toNat_eq
  split
  case isTrue full => rw [full]; rfl
  case isFalse free =>
    have below : n.toNat ≠ 0xFFFF := fun e => free (BitVec.eq_of_toNat_eq e)
    rw [sat, Nat.min_eq_left (by omega), BitVec.toNat_ofNat, BitVec.toNat_add]
    rfl

theorem exec_housekeepingExcursion (hs : pwrSteady s = true) (hl : 2 ≤ s.pwr.cur.val)
    (hw : restCalls s = true ∨ workWaits s = true) : exec .housekeepingExcursion s = done (settle (raise { s with
      pwr := { s.pwr with excursion := some (s.pwr.cur, restCalls s), cur := 0, held := [],
                          excursions := if s.pwr.excursions = 0xFFFF then 0xFFFF else s.pwr.excursions + 1 }
      thm := { s.thm with vdd := vddL0 s } } Reg.THM_INT_STATUS 9)) := by
  rw [← ofNat_sat_succ]
  exact if_pos ⟨hs, hl, hw⟩

theorem exec_housekeepingExcursionEnd {l : Fin 5} {byInput : Bool} (he : s.pwr.excursion = some (l, byInput)) (hc : coreUp s = true)
    (hi : idle s = true) (ho : excursionOver s byInput = true) (hl : l.val < 3 ∨ drained s = true) :
    exec .housekeepingExcursionEnd s = done (goDown { s with pwr := { s.pwr with excursion := none } } l) := by
  show execHousekeepingExcursionEnd s = _
  rw [execHousekeepingExcursionEnd, he]
  exact if_pos ⟨hc, hi, ho, hl⟩
end

/-- Settles O17: each command is its guard, and an entry goes to the next state (`nextState_val`). -/
theorem power_state_moves : Obligations.power_state_moves := by
  refine fun s => ⟨fun l hn hs hi hm hd => ⟨?enters, rfl, rfl, nextState_val hn⟩, fun hn hs hi hm hd => ?drains,
    fun cause hc hh => exec_pstateReturnL0 hc hh, exec_pstateExitComplete, exec_housekeepingExcursion,
    fun l byInput => exec_housekeepingExcursionEnd⟩
  case enters =>
    have ready : ¬ (l = 3 ∧ drained s = false) := fun h => hd.elim (absurd h.1) (ne_true_of_eq_false h.2)
    rw [exec_pstateEntry hn hs hi hm, if_neg ready]
    rfl
  case drains =>
    rw [exec_pstateEntry hn hs hi hm, if_pos ⟨rfl, hd⟩]
    rfl

end Sys2Proof.Machine
end

section
/-! Proofs of the mirror family: the Mirror group of mailbox commands. -/

namespace Sys2Proof.Machine

section
variable {s : State} {req : List Byte}

/-! ### The pair (R308, R332) -/

/-- Beside the mirror itself the records and the work of the mate are gone, and nothing else. -/
structure MateDropped (s t : State) : Prop where
  frame   : t = { s with mir := t.mir, cmds := t.cmds, med := { s.med with reqs := t.med.reqs },
                         sealing := { s.sealing with erasing := t.sealing.erasing } }
  cmds    : t.cmds = s.cmds.filter fun x => match x.origin with | .mate _ _ _ _ => false | .stream _ _ => true
  erasing : t.sealing.erasing = s.sealing.erasing.filter fun j => match j.why with | .mate _ _ => false | _ => true

theorem dropMate_dropped (s : State) : MateDropped s (dropMate s) := ⟨rfl, rfl, rfl⟩

theorem MateDropped.withMir {s t : State} (h : MateDropped s t) (M : Mir) : MateDropped s { t with mir := M } := by
  obtain ⟨frame, cmds, erasing⟩ := h
  refine ⟨?_, cmds, erasing⟩
  rw [frame]

/-- What both ports hold is in the mirror. -/
theorem dropped_of_clear (s : State) : MateDropped s (dropMate (clearPort (clearPort s 0) 1)) := by
  obtain ⟨frame, cmds, erasing⟩ := dropMate_dropped (clearPort (clearPort s 0) 1)
  exact ⟨frame, cmds, erasing⟩

/-- The device that a change of its pairing leaves. -/
def repaired (s : State) (pairId : Option (BitVec 32)) (mate : Bool) : State :=
  { forgetPeer s with mir := { (forgetPeer s).mir with pairId := pairId, mate := mate, lost := false, seedAll := false } }

theorem repaired_dropped (s : State) (pairId : Option (BitVec 32)) (mate : Bool) : MateDropped s (repaired s pairId mate) :=
  ((dropped_of_clear s).withMir _).withMir _

theorem opMirPair_eq (hl : req.length = 8) (hr : leAt req 4 1 ≤ 1) (hz : zeroAt req 5 3 = true) : opMirPair s req =
    if anyMirrored s = true then refusedFor s 2
    else doneWith (repaired s (some (BitVec.ofNat 32 (leAt req 0 4))) (leAt req 4 1 == 1)) [] := by
  rw [opMirPair, if_neg (not_not.2 hl), if_neg (by rw [hz]; simpa using hr)]
  rfl

theorem opMirUnpair_eq : opMirUnpair s [] =
    if s.mir.pairId = none then refusedFor s 1
    else if anyMirrored s = true then refusedFor s 2
    else doneWith (repaired s none false) [] := by
  rw [opMirUnpair, if_neg (by simp)]
  simp only [Option.isNone_iff_eq_none]
  rfl

/-- The device that a promotion leaves: the records and the work of its mate are gone from both ports. -/
def promoted (s : State) : State :=
  { dropMate (clearPort (clearPort s 0) 1) with mir := { (clearPort (clearPort s 0) 1).mir with
    mate := false, promoGen := s.mir.promoGen + 1, seedAll := false } }

theorem promoted_dropped (s : State) : MateDropped s (promoted s) := (dropped_of_clear s).withMir _

theorem opMirPromote_eq : opMirPromote s [] =
    if s.mir.pairId = none then refusedFor s 1
    else if s.mir.mate = false then refusedFor s 3
    else doneWith (promoted s) (bytesOf (s.mir.promoGen + 1) 2 ++ leBytes 2 0) := by
  rw [opMirPromote, if_neg (by simp)]
  simp only [Option.isNone_iff_eq_none, Bool.not_eq_true']
  rfl

/-! ### Secure associations (R312) -/

section
variable (hp : ¬ s.mir.pairId = none)

section
variable (hl : req.length = 64) (hn : leAt req 0 1 ≤ 1) (ha : leAt req 1 1 ≤ 3) (hz : zeroAt req 2 2 = true) (hz' : zeroAt req 20 4 = true)
include hl hn ha hz hz'

theorem opMirSak_unpaired (hp : s.mir.pairId = none) : opMirSak s req = refusedFor s 1 := by
  rw [opMirSak, if_neg (not_not.2 hl), if_neg (by rw [hz, hz']; simp [hn, ha]), if_pos (by rw [hp]; rfl)]

include hp in
theorem opMirSak_no_device_key (h : s.sealing.devKey = none) : opMirSak s req = refusedFor s 6 := by
  rw [opMirSak, if_neg (not_not.2 hl), if_neg (by rw [hz, hz']; simp [hn, ha]), if_neg (mt Option.isNone_iff_eq_none.1 hp), h]

include hp in
theorem opMirSak_eq {kek : BitVec 256} (h : s.sealing.devKey = some kek) : opMirSak s req =
    if anInUse s (leAt req 0 1) (leAt req 1 1) = true then refusedFor s 7
    else sakLoaded s (mirPort (leAt req 0 1)) (leAt req 1 1) (BitVec.ofNat 32 (beAt req 4 4)) (BitVec.ofNat 96 (beAt req 8 12))
      (kwUnwrap kek (slice req 24 40)) := by
  rw [opMirSak, if_neg (not_not.2 hl), if_neg (by rw [hz, hz']; simp [hn, ha]), if_neg (mt Option.isNone_iff_eq_none.1 hp), h]
end

include hp in
theorem opMirSakClear_eq (hl : req.length = 4) (hn : leAt req 0 1 ≤ 1) (ha : leAt req 1 1 ≤ 3) (hz : zeroAt req 2 2 = true) :
    opMirSakClear s req =
      if anInUse s (leAt req 0 1) (leAt req 1 1) = true then refusedFor s 7
      else doneWith (modMir s (mirPort (leAt req 0 1)) fun x => { x with
        rxSa := fdel x.rxSa (leAt req 1 1), txSa := fdel x.txSa (leAt req 1 1) }) [] := by
  rw [opMirSakClear, if_neg (not_not.2 hl), if_neg (by rw [hz]; simp [hn, ha]), if_neg (mt Option.isNone_iff_eq_none.1 hp)]
end

/-! ### MIR_INFO and MIR_RESEED (R323, R331, R332) -/

/-- PORT of MIR_INFO: the one that a region uses, if it has a session. -/
def mirInfoPort (s : State) (r : Nat) : Nat := if (s.mir.ports[portFor s r]).session then (portFor s r).val else 255

/-- MIR_INFO of a region: what follows its state and its port. -/
def mirInfoTail (s : State) (r : Nat) : List Byte := leBytes 2 (markedCount s r) ++ (leBytes 4 (seedPosition s r) ++ leBytes 8 0)

/-- MIR_INFO of a region. -/
def mirInfoBytes (s : State) (r : Nat) : List Byte :=
  leBytes 1 (mirState s r) ++ (leBytes 1 (mirInfoPort s r) ++ mirInfoTail s r)

theorem mirInfoBytes_state (s : State) (r : Nat) : leAt (mirInfoBytes s r) 0 1 = mirState s r % 256 ^ 1 :=
  leAt_leBytes (a := []) rfl rfl

theorem mirInfoPort_lt (s : State) (r : Nat) : mirInfoPort s r < 256 ^ 1 := by
  have port := (portFor s r).isLt
  unfold mirInfoPort
  split <;> omega

theorem mirInfoBytes_port (s : State) (r : Nat) : leAt (mirInfoBytes s r) 1 1 = mirInfoPort s r :=
  (leAt_leBytes rfl (length_leBytes 1 _)).trans (Nat.mod_eq_of_lt (mirInfoPort_lt s r))

theorem mirState_plain {r : Nat} (h : (regionAt s r).mirrored = false) : mirState s r = 0 := by
  rw [mirState, h]
  rfl

theorem mirState_detached {r : Nat} (h : (regionAt s r).mirrored = true) (hd : (mirRegion s r).detached = true) : mirState s r = 4 := by
  rw [mirState, h, hd]
  rfl

section
variable (hl : req.length = 4) (hr : leAt req 0 2 < 480) (hz : zeroAt req 2 2 = true)
include hl hr hz

theorem opMirInfo_eq : opMirInfo s req =
    if s.mir.pairId = none then refusedFor s 1 else doneWith (freeNext s) (mirInfoBytes s (leAt req 0 2)) := by
  rw [opMirInfo, if_neg (not_not.2 hl), if_neg (by rw [hz]; simpa using hr)]
  simp only [Option.isNone_iff_eq_none, mirInfoBytes, mirInfoTail, mirInfoPort, List.append_assoc]

theorem opMirReseed_eq : opMirReseed s req =
    if s.mir.pairId = none then refusedFor s 1
    else if s.mir.mate = true then refusedFor s 3
    else if (regionAt s (leAt req 0 2)).mirrored = false then refusedFor s 4
    else doneWith (askSeed s (leAt req 0 2) false) [] := by
  rw [opMirReseed, if_neg (not_not.2 hl), if_neg (by rw [hz]; simpa using hr)]
  simp only [Option.isNone_iff_eq_none, Bool.not_eq_true']
end
end

/-! ### The commands as they are performed -/

section
variable {s c : State} {m : Mbx} {req : List Byte} {irq : Bool}

theorem performs_mirPair (h : mbxStart (.mirPair m req irq) s = some c) : mbxPerform c m false = opMirPair c req := by
  rw [mbxPerform, mbxOp_of_start rfl h, mbxReq_of_start rfl h]; rfl
theorem performs_mirUnpair (h : mbxStart (.mirUnpair m req irq) s = some c) : mbxPerform c m false = opMirUnpair c req := by
  rw [mbxPerform, mbxOp_of_start rfl h, mbxReq_of_start rfl h]; rfl
theorem performs_mirPromote (h : mbxStart (.mirPromote m req irq) s = some c) : mbxPerform c m false = opMirPromote c req := by
  rw [mbxPerform, mbxOp_of_start rfl h, mbxReq_of_start rfl h]; rfl
theorem performs_mirSak (h : mbxStart (.mirSak m req irq) s = some c) : mbxPerform c m false = opMirSak c req := by
  rw [mbxPerform, mbxOp_of_start rfl h, mbxReq_of_start rfl h]; rfl
theorem performs_mirSakClear (h : mbxStart (.mirSakClear m req irq) s = some c) : mbxPerform c m false = opMirSakClear c req := by
  rw [mbxPerform, mbxOp_of_start rfl h, mbxReq_of_start rfl h]; rfl
theorem performs_mirInfo (h : mbxStart (.mirInfo m req irq) s = some c) : mbxPerform c m false = opMirInfo c req := by
  rw [mbxPerform, mbxOp_of_start rfl h, mbxReq_of_start rfl h]; rfl
theorem performs_mirReseed (h : mbxStart (.mirReseed m req irq) s = some c) : mbxPerform c m false = opMirReseed c req := by
  rw [mbxPerform, mbxOp_of_start rfl h, mbxReq_of_start rfl h]; rfl
end

/-- Settles O57: a command that starts is its operation on the request, whose refusals and effects are the equations above. -/
theorem mailbox_mirror_group : Obligations.mailbox_mirror_group := by
  intro m req irq s c n an r unpaired leftBy
  have left {t : State} (h : MateDropped c t) : leftBy t := ⟨h.frame, h.cmds, h.erasing⟩
  refine ⟨fun hs hl hr hz => ?pair, fun hs hq => ?unpair, fun hs hq => ?promote, fun hs hl hn ha hz hz' => ?sak,
    fun hs hl hn ha hz hp => ?clear, fun hs hl hr hz => ?info, fun hs hl hr hz => ?reseed⟩
  case pair =>
    have performed := (performs_mirPair hs).trans (opMirPair_eq hl hr hz)
    exact ⟨fun h => mbxEnds_of rfl hs (performed.trans (if_pos h)),
      fun h => ⟨_, mbxEnds_of rfl hs (performed.trans (if_neg (by simp [h]))), rfl, rfl, rfl, left (repaired_dropped c _ _)⟩⟩
  case unpair =>
    subst hq
    have performed := (performs_mirUnpair hs).trans opMirUnpair_eq
    refine ⟨fun hp => mbxEnds_of rfl hs (performed.trans (if_pos hp)), fun hp h => mbxEnds_of rfl hs ?_,
      fun hp h => ⟨repaired c none false, mbxEnds_of rfl hs ?_, rfl, left (repaired_dropped c _ _)⟩⟩
    · rw [performed, if_neg hp, if_pos h]; rfl
    · rw [performed, if_neg hp, if_neg (by simp [h])]; rfl
  case promote =>
    subst hq
    have performed := (performs_mirPromote hs).trans opMirPromote_eq
    refine ⟨fun hp => mbxEnds_of rfl hs (performed.trans (if_pos hp)), fun hp h => mbxEnds_of rfl hs ?_,
      fun hp h => ⟨promoted c, mbxEnds_of rfl hs ?_, rfl, rfl, left (promoted_dropped c)⟩⟩
    · rw [performed, if_neg hp, if_pos h]; rfl
    · rw [performed, if_neg hp, if_neg (by simp [h])]; rfl
  case sak =>
    have performed {t : MbxOut × State} (h : opMirSak c req = t) : mbxPerform c m false = t := (performs_mirSak hs).trans h
    refine ⟨fun hp => mbxEnds_of rfl hs (performed (opMirSak_unpaired hl hn ha hz hz' hp)),
      fun hp h => mbxEnds_of rfl hs (performed (opMirSak_no_device_key hp hl hn ha hz hz' h)), fun kek hp h => ?_⟩
    have loads := opMirSak_eq hp hl hn ha hz hz' h
    refine ⟨fun hu => mbxEnds_of rfl hs (performed (loads.trans (if_pos hu))), fun hu => ?_⟩
    rw [if_neg (by simpa using hu)] at loads
    refine ⟨fun hw => mbxEnds_of rfl hs (performed ?_), fun key hw => mbxEnds_of rfl hs (performed ?_)⟩
    · rw [loads, hw]; rfl
    · rw [loads, hw]; rfl
  case clear =>
    have performed := (performs_mirSakClear hs).trans (opMirSakClear_eq hp hl hn ha hz)
    exact ⟨fun hu => mbxEnds_of rfl hs (performed.trans (if_pos hu)),
      fun hu => mbxEnds_of rfl hs (performed.trans (if_neg (by simpa using hu)))⟩
  case info =>
    have performed := (performs_mirInfo hs).trans (opMirInfo_eq hl hr hz)
    refine ⟨fun hp => mbxEnds_of rfl hs (performed.trans (if_pos hp)),
      fun hp => ⟨_, mbxEnds_of rfl hs (performed.trans (if_neg hp)), mirInfoBytes_port c r, fun h => ?_, fun h hd => ?_⟩⟩
    · rw [mirInfoBytes_state, mirState_plain h]; rfl
    · rw [mirInfoBytes_state, mirState_detached h hd]; rfl
  case reseed =>
    have performed := (performs_mirReseed hs).trans (opMirReseed_eq hl hr hz)
    refine ⟨fun hp => mbxEnds_of rfl hs (performed.trans (if_pos hp)), fun hp hm => mbxEnds_of rfl hs ?_,
      fun hp hm h => mbxEnds_of rfl hs ?_, fun hp hm h => mbxEnds_of rfl hs ?_⟩
    · rw [performed, if_neg hp, if_pos hm]; rfl
    · rw [performed, if_neg hp, if_neg (ne_true_of_eq_false hm), if_pos h]; rfl
    · rw [performed, if_neg hp, if_neg (ne_true_of_eq_false hm), if_neg (ne_false_of_eq_true h)]; rfl

end Sys2Proof.Machine
end

section
/-! Proofs of the observability family: the Events and Dump groups of mailbox commands. -/

namespace Sys2Proof.Machine

/-! ### What the recorder keeps of the ring (R383, R390, R393) -/

/-- What recording an event leaves of the recorder: whether the ring is frozen, and the limits. -/
structure RecStays (v w : Evr) : Prop where
  frozen : w.frozen = v.frozen
  limits : w.limits = v.limits

theorem RecStays.refl (v : Evr) : RecStays v v := ⟨rfl, rfl⟩

theorem RecStays.trans {u v w : Evr} (h : RecStays u v) (k : RecStays v w) : RecStays u w :=
  ⟨k.frozen.trans h.frozen, k.limits.trans h.limits⟩

theorem recStore_stays (irq : Nat) (r : Rec) (e : EvtEntry) : RecStays r.1 (recStore irq r e).1 := by
  unfold recStore
  dsimp only
  split
  · exact ⟨rfl, rfl⟩
  · split <;> exact ⟨rfl, rfl⟩

theorem recClose_stays (irq : Nat) (time : BitVec 64) (on : BitVec 16) (code sev : Nat) (r : Rec) :
    RecStays r.1 (recClose irq time on code sev r).1 := by
  unfold recClose
  split
  · exact .refl _
  · dsimp only
    split
    · exact ⟨rfl, rfl⟩
    · exact ⟨(recStore_stays _ _ _).frozen, (recStore_stays _ _ _).limits⟩

theorem recLimited_stays (irq : Nat) (r : Rec) (e : EvtEntry) : RecStays r.1 (recLimited irq r e).1 := by
  have opened (q : Rec) (w : FMap EvtWindow) : RecStays q.1 (recStore irq ({ q.1 with windows := w }, q.2) e).1 :=
    ⟨(recStore_stays _ _ _).frozen, (recStore_stays _ _ _).limits⟩
  unfold recLimited
  dsimp only
  split
  · exact recStore_stays _ _ _
  · split
    · exact opened r _
    · split
      · exact (recClose_stays _ _ _ _ _ r).trans (opened _ _)
      · split
        · exact opened r _
        · exact ⟨rfl, rfl⟩

theorem recEvent_stays (irq : Nat) (r : Rec) (e : EvtEntry) : RecStays r.1 (recEvent irq r e).1 := by
  unfold recEvent
  split
  · exact recLimited_stays irq r e
  · split <;> exact ⟨rfl, rfl⟩

theorem evtFull_stays (s : State) (ev : Nat × Nat) (i d n : Nat) : RecStays s.evr (evtFull s ev i d n).evr :=
  recEvent_stays (irqSev s) (s.evr, s.hw) _

/-! ### The ring while the front has room (R383) -/

/-- The front of the recorder grows by at most n entries, and the ring stays. -/
def FrontGrows (n : Nat) (v w : Evr) : Prop := w.ring = v.ring ∧ w.front.length ≤ v.front.length + n

theorem recStore_front {r : Rec} (h : r.1.front.length + 1 < 256) (irq : Nat) (e : EvtEntry) : FrontGrows 1 r.1 (recStore irq r e).1 := by
  unfold recStore
  dsimp only
  split
  · exact ⟨rfl, Nat.le_succ _⟩
  · rw [if_neg fun full => absurd full.2 (by rw [List.length_append]; exact Nat.not_le.2 h)]
    exact ⟨rfl, (List.length_append ..).le⟩

theorem recClose_front {r : Rec} (h : r.1.front.length + 1 < 256) (irq : Nat) (time : BitVec 64) (on : BitVec 16) (code sev : Nat) :
    FrontGrows 1 r.1 (recClose irq time on code sev r).1 := by
  unfold recClose
  split
  · exact ⟨rfl, Nat.le_succ _⟩
  · dsimp only
    split
    · exact ⟨rfl, Nat.le_succ _⟩
    · exact recStore_front (by exact h) _ _

/-- An event may close a window besides: two entries at most. -/
theorem recLimited_front {r : Rec} (h : r.1.front.length + 2 < 256) (irq : Nat) (e : EvtEntry) : FrontGrows 2 r.1 (recLimited irq r e).1 := by
  have once {v w : Evr} (g : FrontGrows 1 v w) : FrontGrows 2 v w := ⟨g.1, g.2.trans (Nat.le_succ _)⟩
  have room : r.1.front.length + 1 < 256 := Nat.lt_of_succ_lt h
  unfold recLimited
  dsimp only
  split
  · exact once (recStore_front room _ _)
  · split
    · exact once (recStore_front (by exact room) _ _)
    · split
      · obtain ⟨ring, front⟩ := recClose_front room irq e.time e.powerOn e.code.toNat e.sev.toNat
        obtain ⟨ring', front'⟩ := recStore_front (r := ({ (recClose irq e.time e.powerOn e.code.toNat e.sev.toNat r).1 with
          windows := fput (recClose irq e.time e.powerOn e.code.toNat e.sev.toNat r).1.windows e.code.toNat ⟨e.time.toNat, 1, 0⟩ },
          (recClose irq e.time e.powerOn e.code.toNat e.sev.toNat r).2)) (by dsimp only; omega) irq e
        exact ⟨ring'.trans ring, front'.trans (Nat.succ_le_succ front)⟩
      · split
        · exact once (recStore_front (by exact room) _ _)
        · exact ⟨rfl, Nat.le_add_right _ _⟩

theorem recEvent_front {r : Rec} (h : r.1.front.length + 2 < 256) (irq : Nat) (e : EvtEntry) : FrontGrows 2 r.1 (recEvent irq r e).1 := by
  unfold recEvent
  split
  · exact recLimited_front h irq e
  · split <;> exact ⟨rfl, Nat.le_add_right _ _⟩

/-- The entry of a clear stands in the front: the ring is empty (R396). -/
theorem clearRing_ring (s : State) : (clearRing s).evr.ring = [] := by
  have empty : ([] : List EvtEntry).length + 2 < 256 := by decide
  exact (recEvent_front (by exact empty) _ _).1

/-! ### Freezing, reading and clearing (R392 to R396) -/

/-- The recorder with the ring frozen as it stands. -/
def frozenNow (v : Evr) : Evr := { v.writeBack with frozen := true, frozenAt := (v.newest, v.held), lostFrozen := 0 }

section
variable {s : State} {req : List Byte}

theorem opEvtFreeze_frozen (h : s.evr.frozen = true) :
    opEvtFreeze s [] = doneWith s (bytesOf s.evr.frozenAt.1 4 ++ leBytes 4 s.evr.frozenAt.2) := by
  rw [opEvtFreeze, if_neg (by simp), if_pos h]

theorem opEvtFreeze_free (h : s.evr.frozen = false) : opEvtFreeze s [] =
    doneWith { s with evr := frozenNow s.evr } (bytesOf s.evr.newest 4 ++ leBytes 4 s.evr.held) := by
  rw [opEvtFreeze, if_neg (by simp), if_neg (ne_true_of_eq_false h)]
  rfl

theorem endFreeze_thawed (s : State) : (endFreeze s false).evr.frozen = false := by
  unfold endFreeze
  split
  case isTrue free => simpa using free
  case isFalse =>
    dsimp only
    split
    · rfl
    · exact (evtFull_stays _ _ _ _ _).frozen

/-- The sectors of the ring that n entries from an INDEX on lie in. -/
def ringItems (start : BitVec 32) (n : Nat) : List Inner :=
  (((List.range n).map fun k => (start + BitVec.ofNat 32 k).toNat % 8192 / 8).eraseDups).map .ring

/-- The bytes of n entries from an INDEX on. -/
def entriesFrom (v : Evr) (start : BitVec 32) (n : Nat) : List Byte :=
  (List.range n).flatMap fun k => match v.find (start + BitVec.ofNat 32 k) with
    | some x => entryBytes x
    | none => absentBytes (start + BitVec.ofNat 32 k)

theorem opEvtRead_eq (hl : req.length = 8) (hn : leAt req 4 4 ≠ 0) (hm : leAt req 4 4 ≤ 127) : opEvtRead s req =
    let start := BitVec.ofNat 32 (leAt req 0 4)
    let behind := (s.evr.range.1 - start).toNat
    if s.evr.range.2 ≤ behind ∨ behind + 1 < leAt req 4 4 then refusedFor s 1
    else doneWith (loadItems s (ringItems start (leAt req 4 4))) (entriesFrom s.evr start (leAt req 4 4)) := by
  rw [opEvtRead, if_neg (not_not.2 hl), if_neg (by omega)]
  rfl

/-- The refusals of EVT_CLEAR, in their order (R395). -/
theorem opEvtClear_eq (hl : req.length = 24) (hz : zeroAt req 0 8 = true) : opEvtClear s req =
    if (pstSlotAt s 31).locked = true then clearDenied s 4
    else if (pstSlotAt s 31).writePw = none then clearDenied s 3
    else if pwMatches (pstSlotAt s 31) 31 1 (leAt req 8 16) false = false then clearDenied (pwFailure s 31 1) 2
    else if s.evr.frozen = true then refusedFor s 5
    else doneWith (clearRing s) [] := by
  rw [opEvtClear, if_neg (not_not.2 hl), if_neg (by rw [hz]; simp)]
  simp only [Option.isNone_iff_eq_none, Bool.not_eq_true']

/-! ### Rate limits (R391) -/

section
variable (hl : req.length = 16) (hz : zeroAt req 2 2 = true)
  (hw : leAt req 4 4 = 0 ∨ (1000 ≤ leAt req 8 8 ∧ leAt req 8 8 ≤ 1000000000000))
include hl hz hw

theorem opEvtLimitSet_unknown (h : evtSev (leAt req 0 2) = none) : opEvtLimitSet s req = refusedFor s 6 := by
  rw [opEvtLimitSet, if_neg (not_not.2 hl), if_neg (by rw [hz]; simp; omega), h]

theorem opEvtLimitSet_known {sev : Nat} (h : evtSev (leAt req 0 2) = some sev) : ∃ t, opEvtLimitSet s req = doneWith t [] ∧
    t.evr.limits = if leAt req 4 4 = 0 then fdel s.evr.limits (leAt req 0 2) else
      fput s.evr.limits (leAt req 0 2) (leAt req 4 4, leAt req 8 8) := by
  have closed := recClose_stays (irqSev s) s.time (BitVec.ofNat 16 s.glb.powerOns.toNat) (leAt req 0 2) sev (s.evr, s.hw)
  rw [opEvtLimitSet, if_neg (not_not.2 hl), if_neg (by rw [hz]; simp; omega), h]
  refine ⟨_, rfl, ?_⟩
  rw [← closed.limits]
  rfl
end

theorem opEvtLimitGet_known (hl : req.length = 4) (hz : zeroAt req 2 2 = true) (hs : (evtSev (leAt req 0 2)).isSome = true)
    {limit window : Nat} (h : fget s.evr.limits (leAt req 0 2) = some (limit, window)) : opEvtLimitGet s req =
      doneWith s (leBytes 2 (leAt req 0 2) ++ leBytes 2 0 ++ leBytes 4 limit ++ leBytes 8 window) := by
  rw [opEvtLimitGet, if_neg (not_not.2 hl), if_neg (by rw [hz]; simp),
    if_neg (by rw [Option.isNone_eq_false_iff.2 hs]; simp), h]

/-! ### Dumps (R403, R404) -/

/-- DUMP_INFO of the oldest dump: what stands before its time. -/
def dumpInfoHead (d : Dump) : List Byte :=
  leBytes 1 1 ++ (leBytes 1 d.fatal.toNat ++ leBytes 2 0 ++ leBytes 4 ((d.size + 1023) / 1024))

/-- DUMP_INFO of the oldest dump. -/
def dumpInfoBytes (d : Dump) : List Byte := dumpInfoHead d ++ (bytesOf d.time 8 ++ (bytesOf d.gen 8 ++ leBytes 8 0))

theorem bytesOf_eq_leBytes {n : Nat} (x : BitVec n) (k : Nat) : bytesOf x k = leBytes k x.toNat := by
  have byte (i : Nat) : byteOf x i = BitVec.ofNat 8 (x.toNat / 256 ^ i) := by
    apply BitVec.eq_of_toNat_eq
    rw [byteOf, BitVec.extractLsb'_toNat, BitVec.toNat_ofNat, Nat.shiftRight_eq_div_pow, Nat.pow_mul]
  have spelt (v i : Nat) : leBytes k (v / 256 ^ i) = (List.range k).map fun j => BitVec.ofNat 8 (v / 256 ^ (i + j)) := by
    induction k generalizing i with
    | zero => rfl
    | succ k ih =>
      rw [leBytes, Nat.div_div_eq_div_mul, ← Nat.pow_succ, ih, List.range_succ_eq_map, List.map_cons, List.map_map]
      simp only [Nat.add_zero, Function.comp_def, Nat.succ_add_eq_add_succ]
  have all := spelt x.toNat 0
  rw [Nat.pow_zero, Nat.div_one] at all
  rw [all, bytesOf, funext byte]
  simp only [Nat.zero_add]

theorem length_dumpInfoHead (d : Dump) : (dumpInfoHead d).length = 8 := by
  simp only [dumpInfoHead, List.length_append, length_leBytes]

theorem dumpInfoBytes_held (d : Dump) : leAt (dumpInfoBytes d) 0 1 = 1 :=
  leAt_leBytes (a := []) (List.append_assoc _ _ _) rfl

theorem dumpInfoBytes_time (d : Dump) : leAt (dumpInfoBytes d) 8 8 = d.time.toNat := by
  rw [dumpInfoBytes, bytesOf_eq_leBytes]
  exact (leAt_leBytes rfl (length_dumpInfoHead d)).trans (Nat.mod_eq_of_lt d.time.isLt)

theorem dumpInfoBytes_gen (d : Dump) : leAt (dumpInfoBytes d) 16 8 = d.gen.toNat := by
  rw [dumpInfoBytes, bytesOf_eq_leBytes, bytesOf_eq_leBytes, ← List.append_assoc]
  refine (leAt_leBytes rfl ?_).trans (Nat.mod_eq_of_lt d.gen.isLt)
  rw [List.length_append, length_dumpInfoHead, length_leBytes]

theorem opDumpInfo_none (h : s.dumps.held = []) : opDumpInfo s [] = doneWith s (leBytes 32 0) := by
  rw [opDumpInfo, if_neg (by simp), h]

theorem opDumpInfo_held {d : Dump} {rest : List Dump} (h : s.dumps.held = d :: rest) : opDumpInfo s [] = doneWith s (dumpInfoBytes d) := by
  rw [opDumpInfo, if_neg (by simp), h]
  simp only [dumpInfoBytes, dumpInfoHead, List.append_assoc]

section
variable (hl : req.length = 16) (ho : leAt req 0 8 % 8 = 0) (hn : leAt req 8 4 % 8 = 0) (h0 : leAt req 8 4 ≠ 0)
  (hm : leAt req 8 4 ≤ 4096) (hz : zeroAt req 12 4 = true)
include hl ho hn h0 hm hz

theorem opDumpRead_none (h : s.dumps.held = []) : opDumpRead s req = refusedFor s 1 := by
  rw [opDumpRead, if_neg (not_not.2 hl), if_neg (by rw [hz]; simp; omega), h]

theorem opDumpRead_held {d : Dump} {rest : List Dump} (h : s.dumps.held = d :: rest) : opDumpRead s req =
    if d.size < leAt req 0 8 + leAt req 8 4 then refusedFor s 2
    else doneWith (loadDump s d (leAt req 0 8) (leAt req 8 4))
      ((List.range (leAt req 8 4)).map fun k => dumpByte d (dumpHeader d) (leAt req 0 8 + k)) := by
  rw [opDumpRead, if_neg (not_not.2 hl), if_neg (by rw [hz]; simp; omega), h]
end

theorem saveInner_dumps (s : State) (i : Inner) : (saveInner s i).dumps = s.dumps := by
  obtain ⟨_, _, _, _, _, _, _, e⟩ := saveInner_frame s i
  rw [e]

theorem opDumpRelease_none (h : s.dumps.held = []) : opDumpRelease s [] = refusedFor s 1 := by
  rw [opDumpRelease, if_neg (by simp), h]

theorem opDumpRelease_held {d : Dump} {rest : List Dump} (h : s.dumps.held = d :: rest) : opDumpRelease s [] =
    let u := saveInner s (dumpItem d 0)
    doneWith { u with dumps := { u.dumps with held := rest } } [] := by
  rw [opDumpRelease, if_neg (by simp), h]
end

/-! ### The commands as they are performed -/

section
variable {s c : State} {m : Mbx} {req : List Byte} {irq : Bool}

theorem performs_evtFreeze (h : mbxStart (.evtFreeze m req irq) s = some c) : mbxPerform c m false = opEvtFreeze c req := by
  rw [mbxPerform, mbxOp_of_start rfl h, mbxReq_of_start rfl h]; rfl
theorem performs_evtThaw (h : mbxStart (.evtThaw m req irq) s = some c) : mbxPerform c m false = opEvtThaw c req := by
  rw [mbxPerform, mbxOp_of_start rfl h, mbxReq_of_start rfl h]; rfl
theorem performs_evtRead (h : mbxStart (.evtRead m req irq) s = some c) : mbxPerform c m false = opEvtRead c req := by
  rw [mbxPerform, mbxOp_of_start rfl h, mbxReq_of_start rfl h]; rfl
theorem performs_evtClear (h : mbxStart (.evtClear m req irq) s = some c) : mbxPerform c m false = opEvtClear c req := by
  rw [mbxPerform, mbxOp_of_start rfl h, mbxReq_of_start rfl h]; rfl
theorem performs_evtLimitSet (h : mbxStart (.evtLimitSet m req irq) s = some c) : mbxPerform c m false = opEvtLimitSet c req := by
  rw [mbxPerform, mbxOp_of_start rfl h, mbxReq_of_start rfl h]; rfl
theorem performs_evtLimitGet (h : mbxStart (.evtLimitGet m req irq) s = some c) : mbxPerform c m false = opEvtLimitGet c req := by
  rw [mbxPerform, mbxOp_of_start rfl h, mbxReq_of_start rfl h]; rfl
theorem performs_dumpInfo (h : mbxStart (.dumpInfo m req irq) s = some c) : mbxPerform c m false = opDumpInfo c req := by
  rw [mbxPerform, mbxOp_of_start rfl h, mbxReq_of_start rfl h]; rfl
theorem performs_dumpRead (h : mbxStart (.dumpRead m req irq) s = some c) : mbxPerform c m false = opDumpRead c req := by
  rw [mbxPerform, mbxOp_of_start rfl h, mbxReq_of_start rfl h]; rfl
theorem performs_dumpRelease (h : mbxStart (.dumpRelease m req irq) s = some c) : mbxPerform c m false = opDumpRelease c req := by
  rw [mbxPerform, mbxOp_of_start rfl h, mbxReq_of_start rfl h]; rfl
end

/-- Settles O56: a command that starts is its operation on the request, whose refusals and effects are the equations above; recording
an event leaves the freeze and the limits alone (`recEvent_stays`). -/
theorem mailbox_events_and_dump_groups : Obligations.mailbox_events_and_dump_groups := by
  intro m req irq s c code
  refine ⟨fun hs hq => ?freeze, fun hs hq => ?thaw, fun hs hl hn hm => ?read, fun hs hl hz => ?clear, fun hs hl hz hw => ?limitSet,
    fun hs hl hz hk limit window h => mbxEnds_of rfl hs ((performs_evtLimitGet hs).trans (opEvtLimitGet_known hl hz hk h)),
    fun hs hq => ?info, fun hs hl ho hn h0 hm hz => ?dump, fun hs hq => ?release⟩
  case freeze =>
    subst hq
    exact ⟨fun h => mbxEnds_of rfl hs ((performs_evtFreeze hs).trans (opEvtFreeze_frozen h)),
      fun h => ⟨_, rfl, rfl, rfl, mbxEnds_of rfl hs ((performs_evtFreeze hs).trans (opEvtFreeze_free h))⟩⟩
  case thaw =>
    subst hq
    exact ⟨mbxEnds_of rfl hs ((performs_evtThaw hs).trans rfl), endFreeze_thawed c⟩
  case read =>
    have performed := (performs_evtRead hs).trans (opEvtRead_eq hl hn hm)
    exact ⟨fun h => mbxEnds_of rfl hs (performed.trans (if_pos h)),
      fun held listed => mbxEnds_of rfl hs (performed.trans (if_neg fun h => h.elim (Nat.not_le.2 held) (Nat.not_lt.2 listed)))⟩
  case clear =>
    have performed := (performs_evtClear hs).trans (opEvtClear_eq hl hz)
    intro v
    refine ⟨fun h => mbxEnds_of rfl hs (performed.trans (if_pos h)), fun h hp => mbxEnds_of rfl hs ?_, fun h hp => ?_⟩
    · rw [performed, if_neg (ne_true_of_eq_false h), if_pos hp]; rfl
    · rw [if_neg (ne_true_of_eq_false h), if_neg (Option.isSome_iff_ne_none.1 hp)] at performed
      refine ⟨fun hw => mbxEnds_of rfl hs (performed.trans (if_pos hw)), fun hw => ?_⟩
      rw [if_neg (ne_false_of_eq_true hw)] at performed
      exact ⟨fun hf => mbxEnds_of rfl hs (performed.trans (if_pos hf)),
        fun hf => ⟨mbxEnds_of rfl hs (performed.trans (if_neg (ne_true_of_eq_false hf))), clearRing_ring c⟩⟩
  case limitSet =>
    refine ⟨fun h => mbxEnds_of rfl hs ((performs_evtLimitSet hs).trans (opEvtLimitSet_unknown hl hz hw h)), fun sev h => ?_⟩
    obtain ⟨t, done, limits⟩ := opEvtLimitSet_known (s := c) hl hz hw h
    refine ⟨t, mbxEnds_of rfl hs ((performs_evtLimitSet hs).trans done), fun wf => ?_⟩
    rw [limits]
    split
    · exact fget_fdel_self wf _
    · exact fget_fput_self _ _ _
  case info =>
    subst hq
    exact ⟨fun h => mbxEnds_of rfl hs ((performs_dumpInfo hs).trans (opDumpInfo_none h)),
      fun d rest h => ⟨_, mbxEnds_of rfl hs ((performs_dumpInfo hs).trans (opDumpInfo_held h)), dumpInfoBytes_held d, dumpInfoBytes_time d,
        dumpInfoBytes_gen d⟩⟩
  case dump =>
    refine ⟨fun h => mbxEnds_of rfl hs ((performs_dumpRead hs).trans (opDumpRead_none hl ho hn h0 hm hz h)), fun d rest h => ?_⟩
    have performed := (performs_dumpRead hs).trans (opDumpRead_held hl ho hn h0 hm hz h)
    exact ⟨fun long => mbxEnds_of rfl hs (performed.trans (if_pos long)),
      fun fits => mbxEnds_of rfl hs (performed.trans (if_neg (Nat.not_lt.2 fits)))⟩
  case release =>
    subst hq
    exact ⟨fun h => mbxEnds_of rfl hs ((performs_dumpRelease hs).trans (opDumpRelease_none h)),
      fun d rest h => ⟨saveInner_dumps c _, mbxEnds_of rfl hs ((performs_dumpRelease hs).trans (opDumpRelease_held h))⟩⟩

end Sys2Proof.Machine
end

section
/-! Proofs of the firmware family: the Firmware group of mailbox commands. -/

namespace Sys2Proof.Machine

/-- A slice that lies in the list. -/
theorem slice_inside {l : List Byte} {off k : Nat} (h : off + k ≤ l.length) : slice l off k = (l.drop off).take k := by
  have full : ((l.drop off).take k).length = k := by rw [List.length_take, List.length_drop]; omega
  rw [slice, full, Nat.sub_self, List.replicate_zero, List.append_nil]

/-! ### FW_INFO (R350) -/

/-- The flags of a slot in FW_INFO: it runs, it boots next. -/
def fwSlotFlags (s : State) (k : Fin 3) : Nat :=
  (decide (s.fw.running = some k)).toNat + 2 * (decide (s.fw.nextBoot.map fwInternal = some k)).toNat

/-- What stands before a slot's version in FW_INFO. -/
def fwSlotHead (s : State) (k : Fin 3) : List Byte :=
  leBytes 1 (s.fw.slots[k]).state.code ++ (leBytes 1 (fwSlotFlags s k) ++ leBytes 2 0)

/-- What follows a slot's version in FW_INFO. -/
def fwSlotTail (s : State) (k : Fin 3) : List Byte :=
  leBytes 4 (s.fw.slots[k]).length ++ (bytesOf (s.fw.slots[k]).floor 2 ++ leBytes 2 0)

theorem fwSlotBytes_eq (s : State) (k : Fin 3) :
    fwSlotBytes s k = fwSlotHead s k ++ (leBytes 4 (s.fw.slots[k]).version.toNat ++ fwSlotTail s k) := by
  simp only [fwSlotBytes, fwSlotHead, fwSlotTail, fwSlotFlags, List.append_assoc]

theorem length_fwSlotHead (s : State) (k : Fin 3) : (fwSlotHead s k).length = 4 := by
  simp only [fwSlotHead, List.length_append, length_leBytes]

theorem length_fwSlotBytes (s : State) (k : Fin 3) : (fwSlotBytes s k).length = 16 := by
  simp only [fwSlotBytes_eq, fwSlotTail, bytesOf_eq_leBytes, List.length_append, length_fwSlotHead, length_leBytes]

theorem fwState_code_lt (x : FwState) : x.code < 256 ^ 1 := by
  cases x <;> decide

section
variable {s : State} {k : Fin 3} {a b : List Byte} {off : Nat}

theorem fwSlotBytes_state (ha : a.length = off) : leAt (a ++ (fwSlotBytes s k ++ b)) off 1 = (s.fw.slots[k]).state.code := by
  rw [fwSlotBytes_eq, fwSlotHead]
  simp only [List.append_assoc]
  exact (leAt_leBytes rfl ha).trans (Nat.mod_eq_of_lt (fwState_code_lt _))

theorem fwSlotBytes_version (ha : a.length = off) :
    leAt (a ++ (fwSlotBytes s k ++ b)) (off + 4) 4 = (s.fw.slots[k]).version.toNat % 2 ^ 32 := by
  rw [fwSlotBytes_eq, List.append_assoc, List.append_assoc, ← List.append_assoc a]
  exact leAt_leBytes rfl (by rw [List.length_append, ha, length_fwSlotHead])
end

/-- The response of FW_INFO. -/
def fwInfoBytes (s : State) : List Byte :=
  fwSlotBytes s 0 ++ (fwSlotBytes s 1 ++ (fwSlotBytes s 2 ++ (bytesOf s.fw.floor 2 ++ leBytes 14 0)))

/-- What stands before a slot in FW_INFO. -/
def fwInfoBefore (s : State) (j : Fin 3) : List Byte :=
  match j with
  | 0 => []
  | 1 => fwSlotBytes s 0
  | 2 => fwSlotBytes s 0 ++ fwSlotBytes s 1

theorem length_fwInfoBefore (s : State) (j : Fin 3) : (fwInfoBefore s j).length = 16 * j.val := by
  match j with
  | 0 => rfl
  | 1 => exact length_fwSlotBytes s 0
  | 2 => simp only [fwInfoBefore, List.length_append, length_fwSlotBytes]; rfl

theorem fwInfoBytes_slot (s : State) (j : Fin 3) : ∃ b, fwInfoBytes s = fwInfoBefore s j ++ (fwSlotBytes s j ++ b) := by
  match j with
  | 0 => exact ⟨_, rfl⟩
  | 1 => exact ⟨_, rfl⟩
  | 2 => exact ⟨_, (List.append_assoc _ _ _).symm⟩

theorem fwInfoBytes_floor (s : State) : leAt (fwInfoBytes s) 48 2 = s.fw.floor.toNat := by
  have before : fwInfoBytes s = (fwSlotBytes s 0 ++ (fwSlotBytes s 1 ++ fwSlotBytes s 2)) ++ (leBytes 2 s.fw.floor.toNat ++ leBytes 14 0) := by
    simp only [fwInfoBytes, bytesOf_eq_leBytes, List.append_assoc]
  refine (leAt_leBytes before ?_).trans (Nat.mod_eq_of_lt s.fw.floor.isLt)
  simp only [List.length_append, length_fwSlotBytes]

section
variable {s : State} {req : List Byte}

theorem opFwInfo_eq : opFwInfo s [] = doneWith s (fwInfoBytes s) := by
  rw [opFwInfo, if_neg (by simp)]
  simp only [fwInfoBytes, List.append_assoc]

/-! ### FW_WRITE (R355) -/

/-- The bytes of the staging slot that a FW_WRITE goes on from: none where it is the FIRST. -/
def fwHeld (s : State) (req : List Byte) : List Byte :=
  if leAt req 8 1 = 1 then [] else (s.fw.slots[fwInternal (stagingSlot s)]).bytes

theorem opFwWrite_eq (h17 : 17 ≤ req.length) (hl : req.length = 16 + leAt req 4 4) (hm : req.length ≤ 4080) (hf : leAt req 8 1 ≤ 1)
    (hz : zeroAt req 9 7 = true) : opFwWrite s req =
      let k := fwInternal (stagingSlot s)
      let bytes := fwHeld s req ++ req.drop 16
      if trialRuns s = true then refusedFor s 6
      else if leAt req 0 4 ≠ (fwHeld s req).length ∨ (leAt req 8 1 = 0 ∧ (s.fw.slots[k]).state ≠ .staging) then refusedFor s 1
      else if fwMax < leAt req 0 4 + leAt req 4 4 then refusedFor s 2
      else doneWith (modFwSlot s k fun _ => { state := .staging, bytes := bytes, version := 0, length := bytes.length, floor := 0 })
        (leBytes 4 bytes.length) := by
  have payload : slice req 16 (leAt req 4 4) = req.drop 16 := by
    rw [slice_inside hl.ge, List.take_of_length_le (by rw [List.length_drop]; omega)]
  have first : (leAt req 8 1 == 1) = decide (leAt req 8 1 = 1) := rfl
  rw [opFwWrite, if_neg (by omega), if_neg (by rw [hz]; simpa using hf), payload, first]
  dsimp only
  obtain hf | hf : leAt req 8 1 = 0 ∨ leAt req 8 1 = 1 := by omega
  · simp [fwHeld, hf, or_comm]
  · simp [fwHeld, hf]

/-! ### FW_ACTIVATE, FW_CONFIRM and FW_ROLLBACK (R354, R356, R357) -/

theorem saveImage_fw (s : State) (k : Fin 3) : (saveImage s k).fw = s.fw := by
  have saved (l : List Inner) (t : State) : (l.foldl saveInner t).fw = t.fw := by
    induction l generalizing t with
    | nil => rfl
    | cons i l ih =>
      obtain ⟨_, _, _, _, _, _, _, e⟩ := saveInner_frame t i
      rw [List.foldl_cons, ih, e]
  exact saved _ s

theorem askResetNow_eq (s : State) (req : List Byte) :
    askResetNow s req = { s with fw := { s.fw with resetNow := s.fw.resetNow || leAt req 0 1 == 1 } } := by
  unfold askResetNow
  split
  case isTrue h => rw [h]; simp [modFw]
  case isFalse h => rw [beq_eq_false_iff_ne.2 h]; simp

/-- The device with the staged image as a trial, before its sectors are programmed. -/
def trialStaged (s : State) : State :=
  let bytes := (s.fw.slots[fwInternal (stagingSlot s)]).bytes
  modFwSlot s (fwInternal (stagingSlot s)) fun v =>
    { v with state := .trial, version := Config.fwVersion bytes, floor := Config.fwFloor bytes }

/-- The device that FW_ACTIVATE leaves: the trial is programmed and boots next. -/
def fwActivated (s : State) (req : List Byte) : State :=
  askResetNow (modFw (saveImage (trialStaged s) (fwInternal (stagingSlot s))) fun w => { w with nextBoot := some (stagingSlot s) }) req

theorem fwActivated_fw (s : State) (req : List Byte) : (fwActivated s req).fw = { (trialStaged s).fw with
    nextBoot := some (stagingSlot s), resetNow := s.fw.resetNow || leAt req 0 1 == 1 } := by
  rw [fwActivated, askResetNow_eq]
  simp only [modFw_fw, saveImage_fw]
  rfl

theorem fwActivated_rest (s : State) (req : List Byte) :
    fwActivated s req = { saveImage (trialStaged s) (fwInternal (stagingSlot s)) with fw := (fwActivated s req).fw } := by
  rw [fwActivated, askResetNow_eq]
  rfl

section
variable (hl : req.length = 4) (hf : fwFlags req = true)
include hl hf

theorem opFwActivate_unstaged (h : (s.fw.slots[fwInternal (stagingSlot s)]).state ≠ .staging) : opFwActivate s req = refusedFor s 9 := by
  rw [opFwActivate, if_neg (not_not.2 hl), if_neg (by rw [hf]; simp), if_pos h]

theorem opFwActivate_staged (h : (s.fw.slots[fwInternal (stagingSlot s)]).state = .staging) : opFwActivate s req =
    match fwCheck s (s.fw.slots[fwInternal (stagingSlot s)]).bytes with
    | some reason => refusedFor (modFwSlot s (fwInternal (stagingSlot s)) fun v => { v with state := .invalid }) reason
    | none => doneWith (fwActivated s req) (leBytes 4 (Config.fwVersion (s.fw.slots[fwInternal (stagingSlot s)]).bytes).toNat) := by
  rw [opFwActivate, if_neg (not_not.2 hl), if_neg (by rw [hf]; simp), if_neg (not_not.2 h)]
  rfl

theorem opFwRollback_none (h : rollbackTo s = none) : opFwRollback s req = refusedFor s 8 := by
  rw [opFwRollback, if_neg (not_not.2 hl), if_neg (by rw [hf]; simp), h]

theorem opFwRollback_to {k : Fin 2} (h : rollbackTo s = some k) : opFwRollback s req =
    doneWith (askResetNow (modFw s fun w => { w with nextBoot := some k }) req) (leBytes 4 (s.fw.slots[fwInternal k]).version.toNat) := by
  rw [opFwRollback, if_neg (not_not.2 hl), if_neg (by rw [hf]; simp), h]
end

theorem rollbackTo_confirmed {j : Fin 2} (h : rollbackTo s = some j) : (s.fw.slots[fwInternal j]).state = .confirmed := by
  have found := List.find?_some h
  simp only [Bool.and_eq_true, decide_eq_true_eq] at found
  exact found.1.1

/-- The device that FW_CONFIRM leaves where an image runs. -/
def fwConfirmed (s : State) (k : Fin 3) : State :=
  let floor := (s.fw.slots[k]).floor
  evt (modFw (modFwSlot s k fun v => { v with state := .confirmed }) fun w =>
    { w with trial := false, floor := if w.floor.toNat < floor.toNat then floor else w.floor,
             nextBoot := if k.val < 2 then some ⟨k.val % 2, by omega⟩ else w.nextBoot }) Ev.FW_CONFIRMED noInst 0

theorem opFwConfirm_untried (h : trialRuns s = false) : opFwConfirm s [] = refusedFor s 7 := by
  rw [opFwConfirm, if_neg (by simp)]
  cases s.fw.running with
  | none => rfl
  | some k => exact if_pos (by rw [h]; rfl)

theorem opFwConfirm_trial {k : Fin 3} (hr : s.fw.running = some k) (h : trialRuns s = true) :
    opFwConfirm s [] = doneWith (fwConfirmed s k) [] := by
  rw [opFwConfirm, if_neg (by simp), hr]
  dsimp only
  rw [if_neg (by rw [h]; simp)]
  rfl

theorem fwConfirmed_slot (s : State) (k : Fin 3) : ((fwConfirmed s k).fw.slots[k]).state = .confirmed :=
  congrArg FwSlot.state (vmod_self s.fw.slots k _)

theorem fwConfirmed_floor (s : State) (k : Fin 3) :
    (fwConfirmed s k).fw.floor.toNat = max s.fw.floor.toNat (s.fw.slots[k]).floor.toNat := by
  have floor : (fwConfirmed s k).fw.floor = if s.fw.floor.toNat < (s.fw.slots[k]).floor.toNat then (s.fw.slots[k]).floor else s.fw.floor := rfl
  rw [floor]
  split <;> omega

/-! ### FW_TO_SPI (R349, R357) -/

section
variable {m : Mbx} {ok : Bool}

theorem opFwToSpi_trial (h : trialRuns s = true) : opFwToSpi s m [] ok = refusedFor s 6 := by
  rw [opFwToSpi, if_neg (by simp), if_pos h]

theorem opFwToSpi_idle (h : trialRuns s = false) (hn : s.fw.running = none ∨ s.fw.flash = none) :
    opFwToSpi s m [] ok = refusedFor s 10 := by
  rw [opFwToSpi, if_neg (by simp), if_neg (ne_true_of_eq_false h)]
  obtain hn | hn := hn
  · rw [hn]
  · rw [hn]; cases s.fw.running <;> rfl

theorem opFwToSpi_runs {j : Fin 3} {u : SpiUse} (h : trialRuns s = false) (hr : s.fw.running = some j) (hf : s.fw.flash = some u) :
    opFwToSpi s m [] ok = (.runs, freeNext (modFw (modFwSlot s 2 fun v => { v with state := .invalid }) fun w =>
      { w with copying := some { mbx := m, ok := ok, image := s.fw.slots[j], erases := unitsUp (s.fw.slots[j]).length u.eraseSize,
                                 pages := unitsUp (s.fw.slots[j]).length u.pageSize, left := (freeNow s).toNat } })) := by
  rw [opFwToSpi, if_neg (by simp), if_neg (ne_true_of_eq_false h), hr, hf]
end

theorem spiTick_next {j : SpiCopy} (h : s.fw.copying = some j) (h0 : j.left = 0) : spiTick s = spiNext s j := by
  rw [spiTick, h]
  exact if_pos h0

theorem spiNext_again {j : SpiCopy} (h : j.erases ≠ 0 ∨ j.pages ≠ 0) : ∃ e : SpiCopy,
    (spiNext s j).fw = { s.fw with copying := some e } ∧ e.mbx = j.mbx ∧ e.ok = j.ok ∧ e.image = j.image ∧
      e.erases + e.pages + 1 = j.erases + j.pages := by
  unfold spiNext
  by_cases he : j.erases = 0
  · have hp : j.pages ≠ 0 := h.resolve_left (not_not.2 he)
    rw [if_neg (not_not.2 he), if_pos hp]
    exact ⟨_, rfl, rfl, rfl, rfl, by dsimp only; omega⟩
  · rw [if_pos he]
    exact ⟨_, rfl, rfl, rfl, rfl, by dsimp only; omega⟩

theorem spiNext_verified {j : SpiCopy} (he : j.erases = 0) (hp : j.pages = 0) :
    let u := modFw s fun w => { w with copying := none }
    spiNext s j = if j.ok then mbxFinish (modFwSlot u 2 fun _ => j.image) j.mbx 0 0 [] else mbxFinish u j.mbx 1 10 [] := by
  rw [spiNext, if_neg (not_not.2 he), if_neg (not_not.2 hp)]
end

/-! ### The commands as they are performed -/

section
variable {s c : State} {m : Mbx} {req : List Byte} {irq : Bool}

theorem performs_fwInfo (h : mbxStart (.fwInfo m req irq) s = some c) : mbxPerform c m false = opFwInfo c req := by
  rw [mbxPerform, mbxOp_of_start rfl h, mbxReq_of_start rfl h]; rfl
theorem performs_fwWrite (h : mbxStart (.fwWrite m req irq) s = some c) : mbxPerform c m false = opFwWrite c req := by
  rw [mbxPerform, mbxOp_of_start rfl h, mbxReq_of_start rfl h]; rfl
theorem performs_fwActivate (h : mbxStart (.fwActivate m req irq) s = some c) : mbxPerform c m false = opFwActivate c req := by
  rw [mbxPerform, mbxOp_of_start rfl h, mbxReq_of_start rfl h]; rfl
theorem performs_fwConfirm (h : mbxStart (.fwConfirm m req irq) s = some c) : mbxPerform c m false = opFwConfirm c req := by
  rw [mbxPerform, mbxOp_of_start rfl h, mbxReq_of_start rfl h]; rfl
theorem performs_fwRollback (h : mbxStart (.fwRollback m req irq) s = some c) : mbxPerform c m false = opFwRollback c req := by
  rw [mbxPerform, mbxOp_of_start rfl h, mbxReq_of_start rfl h]; rfl
theorem performs_fwToSpi {ok : Bool} (h : mbxStart (.fwToSpi m req irq ok) s = some c) : mbxPerform c m ok = opFwToSpi c m req ok := by
  rw [mbxPerform, mbxOp_of_start rfl h, mbxReq_of_start rfl h]; rfl
end

/-- Settles O58: a command that starts is its operation on the request, whose refusals and effects are the equations above; what the
internal area programs of an image leaves the slots and the floor alone (`saveImage_fw`). -/
theorem mailbox_firmware_group : Obligations.mailbox_firmware_group := by
  intro m req irq s c k v
  refine ⟨fun hs hq => ?info, fun hs h17 hl hm hf hz => ?write, fun hs hl hf => ?activate, fun hs hq => ?confirm,
    fun hs hl hf => ?rollback, fun ok hs hq => ?toSpi, fun j hj h0 => ?copy⟩
  case info =>
    subst hq
    refine ⟨fwInfoBytes c, mbxEnds_of rfl hs ((performs_fwInfo hs).trans opFwInfo_eq), fun j => ?_, fwInfoBytes_floor c⟩
    obtain ⟨b, e⟩ := fwInfoBytes_slot c j
    rw [e]
    exact ⟨fwSlotBytes_state (length_fwInfoBefore c j), fwSlotBytes_version (length_fwInfoBefore c j)⟩
  case write =>
    have performed := (performs_fwWrite hs).trans (opFwWrite_eq h17 hl hm hf hz)
    intro held
    refine ⟨fun h => mbxEnds_of rfl hs (performed.trans (if_pos h)), fun h => ?_⟩
    have performed := performed.trans (if_neg (ne_true_of_eq_false h))
    refine ⟨fun h => mbxEnds_of rfl hs (performed.trans (if_pos h)), fun hoff hst => ?_⟩
    have performed := performed.trans (if_neg fun h => h.elim (absurd hoff) fun g => hst.elim (by omega) g.2)
    exact ⟨fun h => mbxEnds_of rfl hs (performed.trans (if_pos h)),
      fun h => mbxEnds_of rfl hs (performed.trans (if_neg (Nat.not_lt.2 h)))⟩
  case activate =>
    refine ⟨fun h => mbxEnds_of rfl hs ((performs_fwActivate hs).trans (opFwActivate_unstaged hl hf h)), fun h => ?_⟩
    have performed := (performs_fwActivate hs).trans (opFwActivate_staged hl hf h)
    refine ⟨fun reason hc => mbxEnds_of rfl hs (performed.trans ?_),
      fun hc => ⟨fwActivated c req, mbxEnds_of rfl hs (performed.trans ?_), fwActivated_rest c req, ?_, ?_, ?_, ?_⟩⟩
    · rw [hc]; rfl
    · rw [hc]; rfl
    all_goals rw [fwActivated_fw]
    · exact congrArg FwSlot.state (vmod_self c.fw.slots k _)
    · rfl
  case confirm =>
    subst hq
    exact ⟨fun h => mbxEnds_of rfl hs ((performs_fwConfirm hs).trans (opFwConfirm_untried h)),
      fun j hr h => ⟨_, mbxEnds_of rfl hs ((performs_fwConfirm hs).trans (opFwConfirm_trial hr h)), fwConfirmed_slot c j, rfl,
        fwConfirmed_floor c j⟩⟩
  case rollback =>
    refine ⟨fun h => mbxEnds_of rfl hs ((performs_fwRollback hs).trans (opFwRollback_none hl hf h)),
      fun j h => ⟨_, mbxEnds_of rfl hs ((performs_fwRollback hs).trans (opFwRollback_to hl hf h)), ?_, rollbackTo_confirmed h, ?_⟩⟩
    · rw [askResetNow_eq]; rfl
    · rw [askResetNow_eq]; rfl
  case toSpi =>
    subst hq
    exact ⟨fun h => mbxEnds_of rfl hs ((performs_fwToSpi hs).trans (opFwToSpi_trial h)),
      fun h hn => mbxEnds_of rfl hs ((performs_fwToSpi hs).trans (opFwToSpi_idle h hn)),
      fun j u h hr hf => ⟨_, mbxRuns_of rfl hs ((performs_fwToSpi hs).trans (opFwToSpi_runs h hr hf))⟩⟩
  case copy =>
    rw [spiTick_next hj h0]
    refine ⟨spiNext_again, fun he hp => ?_⟩
    intro u
    rw [spiNext_verified he hp]
    exact ⟨fun h => if_pos h, fun h => if_neg (ne_true_of_eq_false h)⟩

end Sys2Proof.Machine
end

section
/-! Proofs of the parameter-store family: the Parameter store group of mailbox commands. -/

namespace Sys2Proof.Machine

/-! ### Copies (R362) -/

theorem sealedCopy_ok (n : Nat) (content : List Byte) : (sealedCopy n content).ok = true := decide_eq_true rfl

theorem inForce_first {c0 c1 : PstCopy} (h0 : c0.ok = true) (h : c1.ok = true → c1.seq ≤ c0.seq) : inForce c0 c1 = some (0, c0) := by
  unfold inForce
  split_ifs with both later
  · exact absurd later (Nat.not_lt.2 (h both.2))
  · rfl
  · rfl

theorem inForce_second {c0 c1 : PstCopy} (h1 : c1.ok = true) (h : c0.ok = true → c0.seq < c1.seq) : inForce c0 c1 = some (1, c1) := by
  unfold inForce
  split_ifs with both later only
  · rfl
  · exact absurd (h both.1) later
  · exact absurd ⟨only, h1⟩ both
  · rfl

/-- Copy 0 is in force, or copy 1, or copy 1 does not verify. -/
theorem inForce_cases (c0 c1 : PstCopy) :
    inForce c0 c1 = some (0, c0) ∨ inForce c0 c1 = some (1, c1) ∨ (inForce c0 c1 = none ∧ c1.ok = false) := by
  unfold inForce
  split_ifs with both later first second
  · exact .inr (.inl rfl)
  · exact .inl rfl
  · exact .inl rfl
  · exact .inr (.inl rfl)
  · exact .inr (.inr ⟨rfl, by simpa using second⟩)

/-- Whatever was in force, what is written is in force after it. -/
theorem inForce_writeCopy (c0 c1 : PstCopy) (content : List Byte) :
    (inForce (writeCopy c0 c1 content).1 (writeCopy c0 c1 content).2.1).map (·.2.content) = some content := by
  rw [writeCopy]
  obtain h | h | ⟨h, bad⟩ := inForce_cases c0 c1
  · rw [h]
    exact congrArg (Option.map _) (inForce_second (sealedCopy_ok _ _) fun _ => Nat.lt_succ_self _)
  · rw [h]
    exact congrArg (Option.map _) (inForce_first (sealedCopy_ok _ _) fun _ => Nat.le_succ _)
  · rw [h]
    exact congrArg (Option.map _) (inForce_first (sealedCopy_ok _ _) fun ok => absurd ok (ne_true_of_eq_false bad))

theorem writeCopy_seq {c0 c1 x : PstCopy} {i : Fin 2} (h : inForce c0 c1 = some (i, x)) (content : List Byte) :
    (writeCopy c0 c1 content).2.2 = x.seq + 1 := by
  rw [writeCopy, h]
  dsimp only
  split <;> rfl

/-- The copy in force stays as it is. -/
theorem writeCopy_keeps {c0 c1 x : PstCopy} {i : Fin 2} (h : inForce c0 c1 = some (i, x)) (content : List Byte) :
    (i = 0 → (writeCopy c0 c1 content).1 = c0) ∧ (i ≠ 0 → (writeCopy c0 c1 content).2.1 = c1) := by
  rw [writeCopy, h]
  exact ⟨fun hi => by dsimp only; rw [if_pos hi], fun hi => by dsimp only; rw [if_neg hi]⟩

/-! ### Slots and counters in the store -/

theorem ctlNext_slots (p : Pst) : (ctlNext p).slots = p.slots := by
  unfold ctlNext
  split <;> rfl

theorem ctlNext_ctrs (p : Pst) : (ctlNext p).ctrs = p.ctrs := by
  unfold ctlNext
  split <;> rfl

theorem ctlWrite_slots (s : State) : (ctlWrite s).pst.slots = s.pst.slots := ctlNext_slots s.pst

theorem ctlWrite_ctrs (s : State) : (ctlWrite s).pst.ctrs = s.pst.ctrs := ctlNext_ctrs s.pst

theorem wearSlot_slots (s : State) (k : Nat) : (wearSlot s k).pst.slots =
    fputD s.pst.slots k PstSlot.empty { pstSlotAt s k with writes := (pstSlotAt s k).writes + 1 } := by
  unfold wearSlot
  dsimp only
  split <;> rfl

section
variable {s t : State} {k : Nat} {v : PstSlot} (wf : fwf s.pst.slots = true) (ht : t.pst.slots = (wearSlot (putPstSlot s k v) k).pst.slots)
include wf ht

/-- A slot that is stored and worn once holds what was stored, with one more write. -/
theorem pstSlotAt_worn : pstSlotAt t k = { v with writes := v.writes + 1 } := by
  have put : pstSlotAt (putPstSlot s k v) k = v := fgetD_fputD_self wf k _ v
  rw [pstSlotAt, ht, wearSlot_slots, put]
  exact fgetD_fputD_self (fwf_fputD wf) k _ _

theorem pstSlotAt_worn_ne {j : Nat} (hj : j ≠ k) : pstSlotAt t j = pstSlotAt s j := by
  rw [pstSlotAt, ht, wearSlot_slots]
  exact (fgetD_fputD_ne (fwf_fputD wf) _ _ _ hj).trans (fgetD_fputD_ne wf _ _ _ hj)
end

theorem withValue_value (c : PstCtr) {v : Nat} (h : v < 2 ^ 64) : (c.withValue v).value = v := by
  simp only [PstCtr.withValue, PstCtr.value, BitVec.toNat_ofNat]
  omega

/-! ### PST_INFO (R350) -/

/-- What one piece of a response of equal pieces stands between. -/
theorem flatMap_range_at {f : Nat → List Byte} {n j : Nat} (hj : j < n) :
    ∃ b, (List.range n).flatMap f = (List.range j).flatMap f ++ (f j ++ b) := by
  obtain ⟨d, rfl⟩ := Nat.exists_eq_add_of_le (Nat.succ_le_of_lt hj)
  refine ⟨((List.range d).map (j.succ + ·)).flatMap f, ?_⟩
  rw [List.range_add, List.flatMap_append, List.range_succ, List.flatMap_append, List.flatMap_singleton, List.append_assoc]

theorem length_flatMap_const {α : Type} {f : α → List Byte} {k : Nat} (h : ∀ x, (f x).length = k) (l : List α) :
    (l.flatMap f).length = k * l.length := by
  induction l with
  | nil => rfl
  | cons x l ih => rw [List.flatMap_cons, List.length_append, h, ih, List.length_cons, Nat.mul_succ, Nat.add_comm]

/-- A slot's state in PST_INFO. -/
def recordState (v : PstSlot) : Nat := if v.locked then 3 else if v.worn then 2 else if v.record.isSome then 1 else 0

/-- What follows a slot's state in PST_INFO. -/
def slotInfoTail (v : PstSlot) : List Byte :=
  leBytes 1 (v.readPw.isSome.toNat + 2 * v.writePw.isSome.toNat) ++ (leBytes 2 ((v.record.map (·.length)).getD 0) ++ leBytes 4 v.writes)

/-- The 8 bytes of a slot in PST_INFO. -/
def slotInfo (s : State) (k : Nat) : List Byte := leBytes 1 (recordState (pstSlotAt s k)) ++ slotInfoTail (pstSlotAt s k)

theorem length_slotInfo (s : State) (k : Nat) : (slotInfo s k).length = 8 := by
  simp only [slotInfo, slotInfoTail, List.length_append, length_leBytes]

theorem recordState_lt (v : PstSlot) : recordState v < 256 ^ 1 := by
  unfold recordState
  split_ifs <;> decide

theorem slotInfo_state {s : State} {j n : Nat} (hj : j < n) :
    leAt ((List.range n).flatMap (slotInfo s)) (8 * j) 1 = recordState (pstSlotAt s j) := by
  obtain ⟨b, e⟩ := flatMap_range_at (f := slotInfo s) hj
  rw [e, slotInfo, List.append_assoc]
  refine (leAt_leBytes rfl ?_).trans (Nat.mod_eq_of_lt (recordState_lt _))
  rw [length_flatMap_const (length_slotInfo s), List.length_range]

section
variable {s : State} {req : List Byte}

theorem opPstInfo_eq : opPstInfo s [] = doneWith s ((List.range 32).flatMap (slotInfo s)) := by
  rw [opPstInfo, if_neg (by simp)]
  simp only [List.append_assoc]
  rfl

/-! ### PST_READ and PST_WRITE (R364 to R369) -/

theorem pstHeaderOk_area (h : pstHeaderOk req = true) : leAt req 0 1 < 4 := by
  simp only [pstHeaderOk, Bool.and_eq_true, decide_eq_true_eq] at h
  exact h.1.1.1

section
variable (hl : req.length = 24) (hh : pstHeaderOk req = true) (h0 : leAt req 4 2 ≠ 0) (hm : leAt req 4 2 ≤ 4096)
include hl hh h0 hm

theorem opPstRead_present {content : List Byte} (hc : pstContent s (leAt req 0 1) (leAt req 1 1) = some content) : opPstRead s req =
    if content.length < leAt req 2 2 + leAt req 4 2 then badField s
    else if leAt req 0 1 = 3 ∧ (pstSlotAt s (leAt req 1 1)).locked = true then refusedFor s 2
    else if leAt req 0 1 = 3 ∧ pwMatches (pstSlotAt s (leAt req 1 1)) (leAt req 1 1) 0 (leAt req 8 16) true = false then
      (.fin 1 1 [], pwFailure s (leAt req 1 1) 0)
    else doneWith s (slice content (leAt req 2 2) (leAt req 4 2)) := by
  rw [opPstRead, if_neg (not_not.2 hl), if_neg (by rw [hh]; simp [h0, hm]), hc]
  simp only [Bool.not_eq_true', Option.map_some, Option.getD_some]

theorem opPstRead_absent (hc : pstContent s (leAt req 0 1) (leAt req 1 1) = none) : opPstRead s req =
    if pstCapacity (leAt req 0 1) < leAt req 2 2 + leAt req 4 2 then badField s
    else if leAt req 0 1 = 3 ∧ (pstSlotAt s (leAt req 1 1)).locked = true then refusedFor s 2
    else if leAt req 0 1 = 3 ∧ pwMatches (pstSlotAt s (leAt req 1 1)) (leAt req 1 1) 0 (leAt req 8 16) true = false then
      (.fin 1 1 [], pwFailure s (leAt req 1 1) 0)
    else refusedFor s 4 := by
  rw [opPstRead, if_neg (not_not.2 hl), if_neg (by rw [hh]; simp [h0, hm]), hc]
  simp only [Bool.not_eq_true', Option.map_none, Option.getD_none]
end

section
variable (hl : req.length = 24 + leAt req 4 2) (h1 : 1 ≤ leAt req 4 2) (hm : leAt req 4 2 ≤ 4072) (hh : pstHeaderOk req = true)
include hl h1 hm hh

theorem opPstWrite_foreign (ha : leAt req 0 1 = 0 ∨ leAt req 0 1 = 2) : opPstWrite s req = refusedFor s 5 := by
  rw [opPstWrite, if_neg (by omega), if_neg (by rw [hh]; simp; omega), if_neg (by omega), if_pos (by omega)]

theorem opPstWrite_slot (ha : leAt req 0 1 = 3) (ho : leAt req 2 2 = 0) (hn : leAt req 4 2 ≤ 2032) : opPstWrite s req =
    if (pstSlotAt s (leAt req 1 1)).locked = true then refusedFor s 2
    else if pwMatches (pstSlotAt s (leAt req 1 1)) (leAt req 1 1) 1 (leAt req 8 16) true = false then
      (.fin 1 1 [], pwFailure s (leAt req 1 1) 1)
    else if (pstSlotAt s (leAt req 1 1)).worn = true then refusedFor s 3
    else writeRecordSlot s (leAt req 1 1) (req.drop 24) := by
  have payload : slice req 24 (leAt req 4 2) = req.drop 24 := by
    rw [slice_inside hl.ge, List.take_of_length_le (by rw [List.length_drop]; omega)]
  rw [opPstWrite, if_neg (by omega), if_neg (by rw [hh]; simp; omega), if_neg (by omega), if_neg (by omega), payload]
  simp only [Bool.not_eq_true']
end

/-- The device with a record slot as a write leaves it, before the cell programs are counted. -/
def recordStored (s : State) (k : Nat) (content : List Byte) : State :=
  let v := pstSlotAt s k
  let w := writeCopy v.copy0 v.copy1 content
  wearSlot (putPstSlot s k { v with copy0 := w.1, copy1 := w.2.1, tie := false }) k

theorem writeRecordSlot_eq (s : State) (k : Nat) (content : List Byte) : writeRecordSlot s k content =
    doneWith (ctlWrite (pstPrograms (recordStored s k content) 1))
      (leBytes 4 (writeCopy (pstSlotAt s k).copy0 (pstSlotAt s k).copy1 content).2.2) := rfl

theorem recordStored_slots (s : State) (k : Nat) (content : List Byte) :
    (ctlWrite (pstPrograms (recordStored s k content) 1)).pst.slots = (recordStored s k content).pst.slots :=
  ctlWrite_slots _

/-! ### PST_PASSWORD (R368, R370) -/

/-- A slot with the digest of a new password of a kind, or with none. -/
def PstSlot.withPw (v : PstSlot) (k which new : Nat) : PstSlot :=
  let d := if new = 0 then none else some (pwDigest k which new)
  if which = 0 then { v with readPw := d } else { v with writePw := d }

theorem withPw_pw (v : PstSlot) (k which new : Nat) :
    (v.withPw k which new).pw which = if new = 0 then none else some (pwDigest k which new) := by
  rw [PstSlot.withPw, PstSlot.pw]
  split <;> rfl

/-- The device with a slot's new password, before the control area is written. -/
def passwordStored (s : State) (k which new : Nat) : State := wearSlot (putPstSlot s k ((pstSlotAt s k).withPw k which new)) k

theorem opPstPassword_eq (hl : req.length = 40) (hk : leAt req 0 1 < 32) (hw : leAt req 1 1 ≤ 1) (hz : zeroAt req 2 6 = true) :
    opPstPassword s req =
      let v := pstSlotAt s (leAt req 0 1)
      if v.locked = true then refusedFor s 2
      else if pwMatches v (leAt req 0 1) (leAt req 1 1) (leAt req 8 16) (leAt req 8 16 == 0) = false then
        (.fin 1 1 [], pwFailure s (leAt req 0 1) (leAt req 1 1))
      else if v.worn = true then refusedFor s 3
      else doneWith (ctlWrite (passwordStored s (leAt req 0 1) (leAt req 1 1) (leAt req 24 16))) [] := by
  rw [opPstPassword, if_neg (not_not.2 hl), if_neg (by rw [hz]; simp; omega)]
  simp only [Bool.not_eq_true', passwordStored, PstSlot.withPw]

/-! ### Monotonic counters (R371, R372) -/

theorem opPstCtrRead_eq (hl : req.length = 4) (hi : leAt req 0 1 < 16) (hz : zeroAt req 1 3 = true) :
    opPstCtrRead s req = doneWith s (leBytes 8 (pstCtrAt s (leAt req 0 1)).value) := by
  rw [opPstCtrRead, if_neg (not_not.2 hl), if_neg (by rw [hz]; simpa using hi)]

/-- The device with a counter at a new value. -/
def ctrRaised (s : State) (i v : Nat) : State :=
  let c := pstCtrAt s i
  let t := ctlWrite (pstPrograms (putPstCtr (ctlWrite s) i { c.withValue v with incs := c.incs + 1 })
    (if v / 2 ^ 32 = c.high.toNat then 1 else 2))
  if c.incs + 1 = pstWrites then pstWorn t else t

theorem opPstCtrInc_eq (hl : req.length = 16) (hi : leAt req 0 1 < 16) (hz : zeroAt req 1 7 = true) (hn : leAt req 8 8 ≠ 0) :
    opPstCtrInc s req =
      let c := pstCtrAt s (leAt req 0 1)
      if pstWrites ≤ c.incs then refusedFor s 3
      else if 2 ^ 64 ≤ c.value + leAt req 8 8 then refusedFor s 8
      else doneWith (ctrRaised s (leAt req 0 1) (c.value + leAt req 8 8)) (leBytes 8 (c.value + leAt req 8 8)) := by
  rw [opPstCtrInc, if_neg (not_not.2 hl), if_neg (by rw [hz]; simp; omega)]
  rfl

theorem pstCtrAt_raised (wf : fwf s.pst.ctrs = true) (i v : Nat) :
    pstCtrAt (ctrRaised s i v) i = { (pstCtrAt s i).withValue v with incs := (pstCtrAt s i).incs + 1 } := by
  have put (n : Nat) (x : PstCtr) : (ctlWrite (pstPrograms (putPstCtr (ctlWrite s) i x) n)).pst.ctrs =
      fputD s.pst.ctrs i { high := 0, low := 0, incs := 0 } x := by
    rw [ctlWrite_ctrs, pstPrograms, hwAdd_pst, putPstCtr, modPst_pst]
    dsimp only
    rw [ctlWrite_ctrs]
  have worn (p : Prop) [Decidable p] (t : State) : (if p then pstWorn t else t).pst.ctrs = t.pst.ctrs := by
    split <;> rfl
  rw [pstCtrAt, ctrRaised]
  dsimp only
  rw [worn, put, fgetD_fputD_self wf]
end

/-! ### The commands as they are performed -/

section
variable {s c : State} {m : Mbx} {req : List Byte} {irq : Bool}

theorem performs_pstInfo (h : mbxStart (.pstInfo m req irq) s = some c) : mbxPerform c m false = opPstInfo c req := by
  rw [mbxPerform, mbxOp_of_start rfl h, mbxReq_of_start rfl h]; rfl
theorem performs_pstRead (h : mbxStart (.pstRead m req irq) s = some c) : mbxPerform c m false = opPstRead c req := by
  rw [mbxPerform, mbxOp_of_start rfl h, mbxReq_of_start rfl h]; rfl
theorem performs_pstWrite (h : mbxStart (.pstWrite m req irq) s = some c) : mbxPerform c m false = opPstWrite c req := by
  rw [mbxPerform, mbxOp_of_start rfl h, mbxReq_of_start rfl h]; rfl
theorem performs_pstPassword (h : mbxStart (.pstPassword m req irq) s = some c) : mbxPerform c m false = opPstPassword c req := by
  rw [mbxPerform, mbxOp_of_start rfl h, mbxReq_of_start rfl h]; rfl
theorem performs_pstCtrRead (h : mbxStart (.pstCtrRead m req irq) s = some c) : mbxPerform c m false = opPstCtrRead c req := by
  rw [mbxPerform, mbxOp_of_start rfl h, mbxReq_of_start rfl h]; rfl
theorem performs_pstCtrInc (h : mbxStart (.pstCtrInc m req irq) s = some c) : mbxPerform c m false = opPstCtrInc c req := by
  rw [mbxPerform, mbxOp_of_start rfl h, mbxReq_of_start rfl h]; rfl
end

/-- Settles O55: a command that starts is its operation on the request, whose refusals and effects are the equations above; what a
write leaves in the store is `pstSlotAt_worn`, what is then in force `inForce_writeCopy`. -/
theorem mailbox_store_group : Obligations.mailbox_store_group := by
  intro m req irq s c area k v n
  refine ⟨fun hs hq => ?info, fun hs hl hh h0 hm content hc => ?read, fun hs hl hh h0 hm hc => ?absent,
    fun hs hl h1 hm hh => ⟨fun ha => ?foreign, fun ha ho hn => ?slot⟩, fun hs hl hk hw hz => ?password,
    fun c0 c1 x i content h => ?copies, fun hs hl hi hz => ?ctrRead, fun hs hl hi hz hn => ?ctrInc⟩
  case info =>
    subst hq
    exact ⟨_, mbxEnds_of rfl hs ((performs_pstInfo hs).trans opPstInfo_eq), fun j hj => slotInfo_state hj⟩
  case read =>
    have performed := (performs_pstRead hs).trans (opPstRead_present hl hh h0 hm hc)
    refine ⟨fun h => mbxEnds_of rfl hs (performed.trans (if_pos h)), fun h => ?_⟩
    have inside : slice content (leAt req 2 2) n = (content.drop (leAt req 2 2)).take n := slice_inside h
    rw [if_neg (Nat.not_lt.2 h), inside] at performed
    refine ⟨fun ha hv => mbxEnds_of rfl hs (performed.trans (if_pos ⟨ha, hv⟩)), fun ha hv hp => mbxEnds_of rfl hs ?_,
      fun allowed => mbxEnds_of rfl hs ?_⟩
    · rw [performed, if_neg fun h => ne_true_of_eq_false hv h.2, if_pos ⟨ha, hp⟩]
    · rw [performed, if_neg, if_neg]
      · rfl
      · exact fun h => allowed.elim (absurd h.1) fun g => absurd g.2 (ne_true_of_eq_false h.2)
      · exact fun h => allowed.elim (absurd h.1) fun g => absurd h.2 (ne_true_of_eq_false g.1)
  case absent =>
    have performed := (performs_pstRead hs).trans (opPstRead_absent hl hh h0 hm hc)
    refine ⟨fun h => mbxEnds_of rfl hs (performed.trans (if_pos h)), fun h ha => mbxEnds_of rfl hs ?_⟩
    rw [performed, if_neg (Nat.not_lt.2 h), if_neg fun h => ha h.1, if_neg fun h => ha h.1]
    rfl
  case foreign => exact mbxEnds_of rfl hs ((performs_pstWrite hs).trans (opPstWrite_foreign hl h1 hm hh ha))
  case slot =>
    have performed := (performs_pstWrite hs).trans (opPstWrite_slot hl h1 hm hh ha ho hn)
    refine ⟨fun h => mbxEnds_of rfl hs (performed.trans (if_pos h)), fun h hp => mbxEnds_of rfl hs ?_, fun h hp => ?_⟩
    · rw [performed, if_neg (ne_true_of_eq_false h), if_pos hp]
    rw [if_neg (ne_true_of_eq_false h), if_neg (ne_false_of_eq_true hp)] at performed
    refine ⟨fun hw => mbxEnds_of rfl hs (performed.trans (if_pos hw)), fun hw => ?_⟩
    rw [if_neg (ne_true_of_eq_false hw), writeRecordSlot_eq] at performed
    refine ⟨_, mbxEnds_of rfl hs performed, fun wf => ?_⟩
    have stored := pstSlotAt_worn wf (recordStored_slots c k (req.drop 24))
    refine ⟨?_, ?_, ?_, ?_, fun j hj => pstSlotAt_worn_ne wf (recordStored_slots c k (req.drop 24)) hj⟩
    all_goals rw [stored]
    exact inForce_writeCopy _ _ _
  case password =>
    have performed := (performs_pstPassword hs).trans (opPstPassword_eq hl hk hw hz)
    intro w old
    refine ⟨fun h => mbxEnds_of rfl hs (performed.trans (if_pos h)), fun h hp => mbxEnds_of rfl hs ?_,
      fun h hp hworn => ⟨ctlWrite (passwordStored c (leAt req 0 1) k (leAt req 24 16)),
        mbxEnds_of rfl hs (performed.trans ?_), fun wf => ?_⟩⟩
    · rw [performed]; exact (if_neg (ne_true_of_eq_false h)).trans (if_pos hp)
    · exact (if_neg (ne_true_of_eq_false h)).trans ((if_neg (ne_false_of_eq_true hp)).trans (if_neg (ne_true_of_eq_false hworn)))
    · have stored := pstSlotAt_worn wf (ctlWrite_slots (passwordStored c (leAt req 0 1) k (leAt req 24 16)))
      rw [stored]
      exact withPw_pw w (leAt req 0 1) k (leAt req 24 16)
  case copies =>
    obtain ⟨first, second⟩ := writeCopy_keeps h content
    exact ⟨writeCopy_seq h content, first, second, inForce_writeCopy c0 c1 content⟩
  case ctrRead => exact mbxEnds_of rfl hs ((performs_pstCtrRead hs).trans (opPstCtrRead_eq hl hi hz))
  case ctrInc =>
    have performed := (performs_pstCtrInc hs).trans (opPstCtrInc_eq hl hi hz hn)
    intro x
    refine ⟨fun h => mbxEnds_of rfl hs (performed.trans (if_pos h)), fun h => ?_⟩
    have performed := performed.trans (if_neg (Nat.not_le.2 h))
    refine ⟨fun hv => mbxEnds_of rfl hs (performed.trans (if_pos hv)),
      fun hv => ⟨_, mbxEnds_of rfl hs (performed.trans (if_neg (Nat.not_le.2 hv))), fun wf => ?_⟩⟩
    rw [pstCtrAt_raised wf]
    exact ⟨withValue_value x hv, rfl⟩

end Sys2Proof.Machine
end

section
/-! Proofs of the mailbox family: the lengths of the catalogue. -/

namespace Sys2Proof.Machine

/-! ### Requests (R346) -/

/-- Each command of one length judges it before anything else. -/
theorem mbxPerform_badLen {s : State} {m : Mbx} {flash : Bool} {n : Nat} (h : requestLength (mbxOp s m) = some n)
    (hl : (mbxReq s m).length ≠ n) : mbxPerform s m flash = badLen s := by
  rw [mbxPerform]
  generalize mbxOp s m = op at h
  unfold requestLength at h
  split at h <;> cases h <;> exact if_pos hl

/-! ### Responses (R350) -/

/-- A command that is DONE with this outcome has a response of k bytes. -/
def DoneLength (r : MbxOut × State) (k : Nat) : Prop := ∀ resp, r.1 = .fin 0 0 resp → resp.length = k

section
variable {s : State} {k : Nat}

@[simp] theorem doneLength_done (resp : List Byte) : DoneLength (doneWith s resp) k ↔ resp.length = k :=
  ⟨fun h => h resp rfl, fun h x e => by cases e; exact h⟩

@[simp] theorem doneLength_badLen : DoneLength (badLen s) k := nofun

@[simp] theorem doneLength_badField : DoneLength (badField s) k := nofun

@[simp] theorem doneLength_refusedFor (reason : Nat) : DoneLength (refusedFor s reason) k := nofun

@[simp] theorem doneLength_runs : DoneLength (.runs, s) k := nofun

@[simp] theorem doneLength_waits : DoneLength (.waits, s) k := nofun

@[simp] theorem doneLength_fails (code reason : Nat) (resp : List Byte) : DoneLength (.fin (code + 1) reason resp, s) k := nofun

@[simp] theorem doneLength_ite (p : Prop) [Decidable p] (a b : MbxOut × State) :
    DoneLength (if p then a else b) k ↔ (p → DoneLength a k) ∧ (¬ p → DoneLength b k) := by
  split <;> simp [*]

@[simp] theorem leBytes_length (v : Nat) : (leBytes k v).length = k := length_leBytes k v

@[simp] theorem length_bytesOf {n : Nat} (x : BitVec n) : (bytesOf x k).length = k := by
  rw [bytesOf_eq_leBytes, length_leBytes]

@[simp] theorem length_slice (l : List Byte) (off : Nat) : (slice l off k).length = k := by
  have short : ((l.drop off).take k).length ≤ k := List.length_take_le _ _
  rw [slice, List.length_append, List.length_replicate]
  exact Nat.add_sub_cancel' short

@[simp] theorem length_i32Bytes (v : Int) : (i32Bytes v).length = 4 := length_bytesOf _

@[simp] theorem length_descriptor (r : Nat) : (descriptor s r).length = 32 := by simp [descriptor]

@[simp] theorem length_updateResp (a f v : Nat) : (updateResp a f v).length = 12 := by simp [updateResp]

@[simp] theorem length_entryBytes (x : EvtEntry) : (entryBytes x).length = 32 := by simp [entryBytes]

@[simp] theorem length_absentBytes (i : BitVec 32) : (absentBytes i).length = 32 := by simp [absentBytes]

@[simp] theorem length_queueRecord (q : Nat) (v : Queue) : (queueRecord q v).length = 16 := by simp [queueRecord]

theorem length_calBytes {param index : Nat} (h : calKnown param index = true) : (calBytes s param index).length = 20 := by
  unfold calKnown at h
  unfold calBytes
  split at h
  · cases h
  · simp
end

section
variable (s : State) (m : Mbx) (req : List Byte)

/-! ### The Device and the Tables group -/

@[simp] theorem doneLength_opDevInfo : DoneLength (opDevInfo s req) 32 := by simp [opDevInfo]

@[simp] theorem doneLength_opDevEcho : DoneLength (opDevEcho s req) req.length := by simp [opDevEcho]

@[simp] theorem doneLength_opRegionGet : DoneLength (opRegionGet s req) 32 := by simp [opRegionGet]

@[simp] theorem doneLength_opRegionSet : DoneLength (opRegionSet s req) 32 := by
  rw [opRegionSet, doneLength_ite]
  refine ⟨fun _ => doneLength_badLen, fun _ => ?_⟩
  cases regionAsk req with
  | none => exact doneLength_badField
  | some a => cases h : regionRefused s (leAt req 0 2) a <;> simp [h]

@[simp] theorem doneLength_opRegionRecreate : DoneLength (opRegionRecreate s m req) 32 := by simp [opRegionRecreate]

@[simp] theorem doneLength_opForceFail : DoneLength (opForceFail s req) 0 := by simp [opForceFail]

@[simp] theorem doneLength_opTblCreate : DoneLength (opTblCreate s req) 8 := by
  rw [opTblCreate]
  cases createdTable req <;> simp

@[simp] theorem doneLength_opTblDelete : DoneLength (opTblDelete s req) 0 := by simp [opTblDelete]

@[simp] theorem doneLength_opTblUpdate : DoneLength (opTblUpdate s m req) 12 := by simp [opTblUpdate]

@[simp] theorem doneLength_opTblCommit : DoneLength (opTblCommit s m req) 4 := by
  rw [opTblCommit]
  cases s.lke.staged <;> simp

@[simp] theorem doneLength_opTblAbort : DoneLength (opTblAbort s req) 4 := by simp [opTblAbort]

@[simp] theorem doneLength_opTblQuery : DoneLength (opTblQuery s req) 12 := by
  rw [opTblQuery]
  cases fget s.lke.cur.tables (leAt req 1 1) with
  | none => simp
  | some t => cases h : t.entries.find? (sameEntry (recordEntry req)) <;> simp [h]

@[simp] theorem doneLength_opTblInfo : DoneLength (opTblInfo s req) 48 := by
  rw [opTblInfo]
  cases fget s.lke.cur.tables (leAt req 0 1) <;> simp [List.range_succ]

@[simp] theorem doneLength_opProfileSet : DoneLength (opProfileSet s req) 0 := by simp [opProfileSet]

@[simp] theorem doneLength_opProfileGet : DoneLength (opProfileGet s req) 64 := by
  rw [opProfileGet]
  cases fget s.lke.cur.profiles (leAt req 0 1) <;> simp

/-! ### The Queues and the Keys group -/

@[simp] theorem doneLength_opPoolSet : DoneLength (opPoolSet s req) 0 := by simp [opPoolSet]

@[simp] theorem doneLength_opQueueGet : DoneLength (opQueueGet s req) 40 := by simp [opQueueGet]

@[simp] theorem doneLength_opQueueSet : DoneLength (opQueueSet s m req) 0 := by simp [opQueueSet]

@[simp] theorem doneLength_opCntClear (k : Nat) : DoneLength (opCntClear s m req) k := by simp [opCntClear]

@[simp] theorem doneLength_opDevkeyInstall : DoneLength (opDevkeyInstall s req) 4 := by simp [opDevkeyInstall, kcvBytes]

@[simp] theorem doneLength_opDevkeyZeroise : DoneLength (opDevkeyZeroise s req) 0 := by simp [opDevkeyZeroise]

@[simp] theorem doneLength_keyLoaded (k : Nat) (r : Option (BitVec 256)) : DoneLength (keyLoaded s k r) 4 := by
  cases r <;> simp [keyLoaded, kcvBytes]

@[simp] theorem doneLength_opKeyLoad : DoneLength (opKeyLoad s req) 4 := by
  rw [opKeyLoad]
  cases s.sealing.devKey <;> simp

@[simp] theorem doneLength_opKeyBind : DoneLength (opKeyBind s req) 0 := by simp [opKeyBind]

@[simp] theorem doneLength_opKeyChange : DoneLength (opKeyChange s m req) 0 := by
  rw [opKeyChange]
  cases freeUnit s <;> simp

@[simp] theorem doneLength_opKeyUnbind : DoneLength (opKeyUnbind s m req) 0 := by simp [opKeyUnbind]

@[simp] theorem doneLength_opKeyRetire : DoneLength (opKeyRetire s m req) 4 := by simp [opKeyRetire]

@[simp] theorem doneLength_opKeyInfo : DoneLength (opKeyInfo s req) 64 := by simp [opKeyInfo, boundBytes]

/-! ### The Parameter store and the Calibration group -/

@[simp] theorem doneLength_opPstInfo : DoneLength (opPstInfo s req) 256 := by
  by_cases h : req = []
  · rw [h, opPstInfo_eq, doneLength_done, length_flatMap_const (length_slotInfo s), List.length_range]
  · simp [opPstInfo, h]

@[simp] theorem doneLength_opPstRead : DoneLength (opPstRead s req) (leAt req 4 2) := by
  rw [opPstRead]
  cases pstContent s (leAt req 0 1) (leAt req 1 1) <;> simp

@[simp] theorem doneLength_writeProfile (off : Nat) (l : List Byte) : DoneLength (writeProfile s off l) 4 := by
  simp [writeProfile, sealProfile]

@[simp] theorem doneLength_opPstWrite : DoneLength (opPstWrite s req) 4 := by simp [opPstWrite, writeRecordSlot]

@[simp] theorem doneLength_opPstPassword : DoneLength (opPstPassword s req) 0 := by simp [opPstPassword]

@[simp] theorem doneLength_opPstCtrRead : DoneLength (opPstCtrRead s req) 8 := by simp [opPstCtrRead]

@[simp] theorem doneLength_opPstCtrInc : DoneLength (opPstCtrInc s req) 8 := by simp [opPstCtrInc]

@[simp] theorem doneLength_opCalGet : DoneLength (opCalGet s req) 20 := by
  simp only [opCalGet, doneLength_ite, doneLength_badLen, doneLength_badField, doneLength_done, Bool.not_eq_true', Bool.not_eq_false,
    implies_true, true_and]
  exact fun _ known => length_calBytes known

@[simp] theorem doneLength_opCalSet : DoneLength (opCalSet s req) 20 := by
  simp only [opCalSet, doneLength_ite, doneLength_badLen, doneLength_badField, doneLength_refusedFor, doneLength_done, Bool.not_eq_true',
    Bool.not_eq_false, implies_true, true_and]
  exact fun _ known _ => length_calBytes known

/-! ### The Events, the Mirror and the Dump group -/

@[simp] theorem doneLength_opEvtFreeze : DoneLength (opEvtFreeze s req) 8 := by simp [opEvtFreeze]

@[simp] theorem doneLength_opEvtThaw : DoneLength (opEvtThaw s req) 0 := by simp [opEvtThaw]

theorem length_entriesFrom (v : Evr) (start : BitVec 32) (n : Nat) : (entriesFrom v start n).length = 32 * n := by
  rw [entriesFrom, length_flatMap_const (k := 32), List.length_range]
  intro k
  cases h : v.find (start + BitVec.ofNat 32 k) <;> simp

@[simp] theorem doneLength_opEvtRead : DoneLength (opEvtRead s req) (32 * leAt req 4 4) := by
  have read := length_entriesFrom s.evr (BitVec.ofNat 32 (leAt req 0 4)) (leAt req 4 4)
  simp only [opEvtRead, doneLength_ite, doneLength_badLen, doneLength_badField, doneLength_refusedFor, doneLength_done, implies_true,
    true_and]
  exact fun _ _ _ => read

@[simp] theorem doneLength_opEvtClear : DoneLength (opEvtClear s req) 0 := by simp [opEvtClear, clearDenied]

@[simp] theorem doneLength_opEvtLimitSet : DoneLength (opEvtLimitSet s req) 0 := by
  rw [opEvtLimitSet]
  cases evtSev (leAt req 0 2) <;> simp

@[simp] theorem doneLength_opEvtLimitGet : DoneLength (opEvtLimitGet s req) 16 := by
  rw [opEvtLimitGet]
  cases fget s.evr.limits (leAt req 0 2) <;> simp

@[simp] theorem doneLength_opMirPair : DoneLength (opMirPair s req) 0 := by simp [opMirPair]

@[simp] theorem doneLength_opMirUnpair : DoneLength (opMirUnpair s req) 0 := by simp [opMirUnpair]

@[simp] theorem doneLength_opMirPromote : DoneLength (opMirPromote s req) 4 := by simp [opMirPromote]

@[simp] theorem doneLength_sakLoaded (n : MPort) (an : Nat) (ssci : BitVec 32) (salt : BitVec 96) (r : Option (BitVec 256)) :
    DoneLength (sakLoaded s n an ssci salt r) 4 := by
  cases r <;> simp [sakLoaded, kcvBytes]

@[simp] theorem doneLength_opMirSak : DoneLength (opMirSak s req) 4 := by
  rw [opMirSak]
  cases s.sealing.devKey <;> simp

@[simp] theorem doneLength_opMirSakClear : DoneLength (opMirSakClear s req) 0 := by simp [opMirSakClear]

@[simp] theorem doneLength_opMirInfo : DoneLength (opMirInfo s req) 16 := by simp [opMirInfo]

@[simp] theorem doneLength_opMirReseed : DoneLength (opMirReseed s req) 0 := by simp [opMirReseed]

@[simp] theorem doneLength_opDumpInfo : DoneLength (opDumpInfo s req) 32 := by
  rw [opDumpInfo]
  cases s.dumps.held <;> simp

@[simp] theorem doneLength_opDumpRead : DoneLength (opDumpRead s req) (leAt req 8 4) := by
  rw [opDumpRead]
  cases s.dumps.held <;> simp

@[simp] theorem doneLength_opDumpRelease : DoneLength (opDumpRelease s req) 0 := by
  rw [opDumpRelease]
  cases s.dumps.held <;> simp

/-! ### The Firmware and the Power and thermal group -/

@[simp] theorem doneLength_opFwInfo : DoneLength (opFwInfo s req) 64 := by simp [opFwInfo, length_fwSlotBytes]

@[simp] theorem doneLength_opFwWrite : DoneLength (opFwWrite s req) 4 := by simp [opFwWrite]

@[simp] theorem doneLength_opFwActivate : DoneLength (opFwActivate s req) 4 := by
  rw [opFwActivate]
  cases fwCheck s (s.fw.slots[fwInternal (stagingSlot s)]).bytes <;> simp

@[simp] theorem doneLength_opFwConfirm : DoneLength (opFwConfirm s req) 0 := by
  rw [opFwConfirm]
  cases s.fw.running <;> simp

@[simp] theorem doneLength_opFwRollback : DoneLength (opFwRollback s req) 4 := by
  rw [opFwRollback]
  cases rollbackTo s <;> simp

@[simp] theorem doneLength_opFwToSpi (ok : Bool) : DoneLength (opFwToSpi s m req ok) 0 := by
  rw [opFwToSpi]
  cases s.fw.running <;> cases s.fw.flash <;> simp

@[simp] theorem doneLength_opPwrInfo : DoneLength (opPwrInfo s req) 16 := by simp [opPwrInfo]

@[simp] theorem doneLength_opPwrLtrSet : DoneLength (opPwrLtrSet s req) 0 := by simp [opPwrLtrSet]

@[simp] theorem doneLength_opThmSet : DoneLength (opThmSet s req) 0 := by simp [opThmSet]

@[simp] theorem doneLength_opHsOppSet : DoneLength (opHsOppSet s m req) 0 := by simp [opHsOppSet]
end

/-- Every opcode's operation has the length of the catalogue; one outside it is not DONE. -/
theorem doneLength_mbxPerform {s : State} {m : Mbx} {flash : Bool} {n : Nat} (h : responseLength (mbxReq s m) (mbxOp s m) = some n) :
    DoneLength (mbxPerform s m flash) n := by
  rw [mbxPerform]
  generalize mbxOp s m = op at h
  split
  case h_64 => exact doneLength_fails 1 0 []
  all_goals cases h <;> simp

/-- Settles O50: a command judges the length of its request first; the responses are measured operation by operation. -/
theorem mailbox_lengths : Obligations.mailbox_lengths := by
  refine ⟨fun i m op req irq flash s c n hr hs hn hl => mbxEnds_of hr hs ?_,
    fun s t m flash resp n hp hn => doneLength_mbxPerform hn resp (congrArg Prod.fst hp)⟩
  have named : requestLength (mbxOp c m) = some n := by rw [mbxOp_of_start hr hs, hn]
  exact mbxPerform_badLen named (by rwa [mbxReq_of_start hr hs])

end Sys2Proof.Machine
end

section
/-! Proofs of the mirror family: a port's link and its session. -/

namespace Sys2Proof.Machine

/-! ### What sends, drops and asks leaves every session, and the clock unit, as they are -/

/-- Every port's session is what it was, and the clock unit is. -/
structure SessionsStay (s t : State) : Prop where
  clk     : t.clk = s.clk
  session : ∀ n : MPort, (t.mir.ports[n]).session = (s.mir.ports[n]).session
  last    : ∀ n : MPort, (t.mir.ports[n]).lastSession = (s.mir.ports[n]).lastSession

section
variable {s t u : State}

theorem SessionsStay.of_eq (hm : t.mir.ports = s.mir.ports) (hc : t.clk = s.clk) : SessionsStay s t :=
  ⟨hc, fun _ => by rw [hm], fun _ => by rw [hm]⟩

theorem SessionsStay.refl (s : State) : SessionsStay s s := ⟨rfl, fun _ => rfl, fun _ => rfl⟩

theorem SessionsStay.trans (h : SessionsStay s t) (k : SessionsStay t u) : SessionsStay s u :=
  ⟨k.clk.trans h.clk, fun n => (k.session n).trans (h.session n), fun n => (k.last n).trans (h.last n)⟩

theorem SessionsStay.ite {p : Prop} [Decidable p] (h : SessionsStay s t) (k : SessionsStay s u) : SessionsStay s (if p then t else u) := by
  split <;> assumption

theorem SessionsStay.foldl {γ : Type} {f : State → γ → State} (hf : ∀ s a, SessionsStay s (f s a)) (l : List γ) (s : State) :
    SessionsStay s (l.foldl f s) :=
  List.foldlRecOn l f (.refl s) fun _ h a _ => h.trans (hf _ a)

theorem Counted.sessions (h : Counted s t) : SessionsStay s t := by
  obtain ⟨_, _, _, rfl⟩ := h
  exact .of_eq rfl rfl
end

/-- A change of a port that is no change of its session. -/
theorem modMir_sessions (s : State) (n : MPort) {f : MirPort → MirPort}
    (hf : ∀ x, (f x).session = x.session ∧ (f x).lastSession = x.lastSession := by exact fun _ => ⟨rfl, rfl⟩) :
    SessionsStay s (modMir s n f) := by
  have port (m : MPort) : ((modMir s n f).mir.ports[m]).session = (s.mir.ports[m]).session ∧
      ((modMir s n f).mir.ports[m]).lastSession = (s.mir.ports[m]).lastSession := by
    show ((vmod s.mir.ports n f)[m]).session = _ ∧ ((vmod s.mir.ports n f)[m]).lastSession = _
    by_cases h : m = n
    · rw [h, vmod_self]; exact hf _
    · rw [vmod_ne _ _ h]; exact ⟨rfl, rfl⟩
  exact ⟨rfl, fun m => (port m).1, fun m => (port m).2⟩

theorem modMirRegion_sessions (s : State) (r : Nat) (f : MirRegion → MirRegion) : SessionsStay s (modMirRegion s r f) := .of_eq rfl rfl

theorem markStale_sessions (s : State) (rs : List Nat) : SessionsStay s (markStale s rs) :=
  .foldl (fun s _ => modMirRegion_sessions s _ _) _ s

theorem sendFrame_sessions (s : State) (n : MPort) (q : BitVec 48) (b : MirBody) : SessionsStay s (sendFrame s n q b) := by
  have sent (e : Emit) : SessionsStay s (emit s e) := .of_eq rfl rfl
  exact .ite (.refl s) (.ite ((sent _).trans (modMir_sessions _ n)) (sent _))

theorem sendRecords_sessions (s : State) (n : MPort) (l : List (BitVec 48 × Record)) : SessionsStay s (sendRecords s n l) :=
  .foldl (fun s _ => sendFrame_sessions s n _ _) l s

theorem journalRead_sessions (s : State) (n : MPort) (held taken : Nat) : SessionsStay s (journalRead s n held taken) :=
  .foldl (fun s _ => (openCount_counted s _ _ _).sessions) _ s

theorem mirPump_sessions (s : State) (n : MPort) (held : Nat) : SessionsStay s (mirPump s n held) := by
  refine .ite (.refl s) ?_
  exact ((((modMir_sessions s n).trans (journalRead_sessions _ _ _ _)).trans (sendRecords_sessions _ _ _)).trans
    (hwSet_counted _ _ _).sessions).trans (pmcCount_counted _ _ _ _).sessions

theorem mirOverflow_sessions (s : State) (n : MPort) : SessionsStay s (mirOverflow s n) :=
  ((markStale_sessions s _).trans (modMir_sessions _ n)).trans (.ite (.refl _) (raised_counted _ _ _ _ _ _).sessions)

theorem addReq_sessions (s : State) (c : Class) (p : Bool) (lsa : Nat) (w : Purpose) : SessionsStay s (addReq s c p lsa w) := by
  have asked (f : Medium → Medium) : SessionsStay s (modMed s f) := .of_eq rfl rfl
  exact (asked _).trans (.ite (hwSet_counted _ _ _).sessions (.refl _))

theorem journalAppend_sessions (s : State) (n : MPort) (b : Nat) : SessionsStay s (journalAppend s n b) :=
  ((modMir_sessions s n).trans (.foldl (fun s _ => addReq_sessions s _ _ _ _) _ _)).trans
    (.ite (mirOverflow_sessions _ n) (.refl _))

theorem mirPut_sessions (s : State) (n : MPort) (ts : List TxRecord) : SessionsStay s (mirPut s n ts) :=
  .ite ((modMir_sessions s n).trans (markStale_sessions _ _))
    (((modMir_sessions s n).trans (mirPump_sessions _ n _)).trans
      (.ite (mirOverflow_sessions _ n) (journalAppend_sessions _ n _)))

theorem moveOver_sessions (s : State) (n : MPort) : SessionsStay s (moveOver s n) := by
  refine .ite (.refl s) ?_
  exact (((SessionsStay.foldl (fun s _ => modMirRegion_sessions s _ _) _ s).trans (modMir_sessions _ _)).trans
    (modMir_sessions _ _)).trans (mirPut_sessions _ _ _)

theorem reachSync_sessions (s : State) (n : MPort) : SessionsStay s (reachSync s n) :=
  .ite (.refl s) ((modMir_sessions s n).trans (raised_counted _ _ _ _ _ _).sessions)

theorem startCatchup_sessions (s : State) (n : MPort) : SessionsStay s (startCatchup s n) :=
  (modMir_sessions s n).trans (reachSync_sessions _ n)

theorem askSeeds_sessions (s : State) (rs : List Nat) : SessionsStay s (askSeeds s rs) :=
  .foldl (fun s n => .ite (.refl s) ((sendFrame_sessions s n _ _).trans (.foldl (fun s _ => modMirRegion_sessions s _ _) _ _))) _ s

/-! ### What an acknowledgement, and the start of a session, leave -/

theorem freeAcked_sessions (s : State) (ts : List TxRecord) : SessionsStay s (freeAcked s ts) := .ite (.refl s) (.of_eq rfl rfl)

theorem dropAcked_sessions (s : State) (n : MPort) (a : BitVec 48) : SessionsStay s (dropAcked s n a) :=
  (modMir_sessions s n).trans (freeAcked_sessions _ _)

theorem leaveOverflow_sessions (s : State) (n : MPort) : SessionsStay s (leaveOverflow s n) :=
  .ite ((modMir_sessions s n).trans (startCatchup_sessions _ n)) (.refl s)

theorem syncHeld_sessions (s : State) (n : MPort) : SessionsStay s (syncHeld s n) := .ite (.refl s) (.of_eq rfl rfl)

theorem afterAck_sessions (s : State) (n : MPort) : SessionsStay s (afterAck s n) :=
  ((leaveOverflow_sessions s n).trans (mirPump_sessions _ n _)).trans (syncHeld_sessions _ n)

theorem resend_sessions (s : State) (n : MPort) : SessionsStay s (resend s n) :=
  ((sendRecords_sessions s n _).trans (hwSet_counted _ _ _).sessions).trans (pmcCount_counted _ _ _ _).sessions

theorem freshRx_sessions (s : State) (n : MPort) (q : BitVec 48) : SessionsStay s (freshRx s n q) :=
  (modMir_sessions s n).trans (.of_eq rfl rfl)

theorem discardOut_sessions (s : State) (n : MPort) : SessionsStay s (discardOut s n) :=
  (markStale_sessions s _).trans (modMir_sessions _ n)

theorem takeOther_sessions (s : State) (n : MPort) : SessionsStay s (takeOther s n) := .ite (.refl s) (moveOver_sessions s _)

theorem askAll_sessions (s : State) : SessionsStay s (askAll s) := by
  have asked : SessionsStay s { s with mir := { s.mir with seedAll := false } } := .of_eq rfl rfl
  exact .ite (asked.trans (askSeeds_sessions _ _)) (.refl s)

theorem freshSession_sessions (s : State) (n : MPort) (f : HelloFrame) (q : BitVec 48) : SessionsStay s (freshSession s n f q) :=
  (((discardOut_sessions s n).trans (freshRx_sessions _ n _)).trans (modMir_sessions _ n)).trans
    (.foldl (fun s _ => modMirRegion_sessions s _ _) _ _)

theorem newSession_sessions (s : State) (n : MPort) : SessionsStay s (newSession s n) :=
  (((takeOther_sessions s n).trans (startCatchup_sessions _ n)).trans (askSeeds_sessions _ _)).trans (askAll_sessions _)

theorem resumeSession_sessions (s : State) (n : MPort) (f : HelloFrame) : SessionsStay s (resumeSession s n f) :=
  (((((dropAcked_sessions s n _).trans (resend_sessions _ n)).trans (afterAck_sessions _ n)).trans (takeOther_sessions _ n)).trans
    (reachSync_sessions _ n)).trans (askAll_sessions _)

/-! ### The start and the end of a session (R324) -/

/-- Whatever a session goes on from, its port has one when it has started, with the number of the peer's HELLO. -/
theorem startSession_begun (s : State) (n : MPort) (f : HelloFrame) (q : BitVec 48) :
    ((startSession s n f q).mir.ports[n]).session = true ∧
      ((startSession s n f q).mir.ports[n]).lastSession = some (s.mir.resets, f.session) := by
  have told (t : State) (b : List Byte) : SessionsStay t { sendNote t n (.regionState b) with
      mir := { (sendNote t n (.regionState b)).mir with told := some b } } :=
    (sendFrame_sessions t n _ _).trans (.of_eq rfl rfl)
  have begun : SessionsStay (modMir s n fun x => { x with session := true, lastSession := some (s.mir.resets, f.session) })
      (startSession s n f q) :=
    (((Counted.sessions ⟨_, _, _, rfl⟩).trans (.ite (.refl _) (freshSession_sessions _ n f q))).trans (told _ _)).trans
      (.ite (resumeSession_sessions _ n f) (newSession_sessions _ n))
  rw [begun.session, begun.last]
  show ((vmod s.mir.ports n _)[n]).session = true ∧ ((vmod s.mir.ports n _)[n]).lastSession = _
  rw [vmod_self]
  exact ⟨rfl, rfl⟩

theorem endSession_ended (s : State) (n : MPort) : ((endSession s n).mir.ports[n]).session = false := by
  unfold endSession
  split
  case isTrue h => simpa using h
  case isFalse =>
    rw [(moveOver_sessions _ n).session]
    exact congrArg MirPort.session (vmod_self s.mir.ports n _)

theorem endSession_clk (s : State) (n : MPort) : (endSession s n).clk = s.clk := by
  unfold endSession
  split
  · rfl
  · exact (moveOver_sessions _ n).clk

theorem mirLinkLost_clk (s : State) (n : MPort) : (mirLinkLost s n).clk = s.clk := by
  unfold mirLinkLost
  split
  · rfl
  · exact endSession_clk _ n

/-! ### Frames that are discarded (R313) -/

theorem frameCause_address {s : State} {n : MPort} {e : Envelope} {ok : Bool} (h1 : e.etype ≠ 0x888E) (h2 : e.etype ≠ 0x8808)
    (h : e.sa ≠ (txEnvelope s n).da) : frameCause s n e true ok = some .address := by
  rw [frameCause, if_neg (by simp), if_neg h1, if_neg h2, if_pos (.inr h)]

theorem frameCause_unprotected {s : State} {n : MPort} {e : Envelope} {ok : Bool} (h1 : e.etype ≠ 0x888E) (h2 : e.etype ≠ 0x8808)
    (hd : e.da = (txEnvelope s n).sa) (hs : e.sa = (txEnvelope s n).da) (hv : e.vlan = false) (hn : e.sec = none)
    (hm : macsecOn s n = true) : frameCause s n e true ok = some .unprotected := by
  have sec : secCause s n e.sec = some .unprotected := by rw [hn, secCause]; exact if_pos hm
  rw [frameCause, if_neg (by simp), if_neg h1, if_neg h2, if_neg (not_or.2 ⟨not_not.2 hd, not_not.2 hs⟩), hv, if_neg (by simp), sec]

/-- Where a discard is counted, nothing else that it sets lies. -/
theorem rxDiscard_ne (n : MPort) : Reg.MIR_RX_DISCARD n.val ≠ Reg.MIR_LAST_ERR n.val ∧
    Reg.MIR_RX_DISCARD n.val ≠ Reg.MIR_MACSEC_ERR n.val ∧ Reg.MIR_RX_DISCARD n.val ≠ Reg.MIR_INT_STATUS n.val := by
  simp [Reg.MIR_RX_DISCARD, Reg.MIR_LAST_ERR, Reg.MIR_MACSEC_ERR, Reg.MIR_INT_STATUS]

theorem fwf_hwSet {s : State} (h : fwf s.hw = true) (o : Nat) (v : Word64) : fwf (hwSet s o v).hw = true := fwf_fputD h

theorem discardFrame_counts {s : State} (wf : fwf s.hw = true) (n : MPort) (cause : RxCause) :
    (hwGet (discardFrame s n cause) (Reg.MIR_RX_DISCARD n.val)).toNat =
      min ((hwGet s (Reg.MIR_RX_DISCARD n.val)).toNat + 1) 0xFFFFFFFF := by
  obtain ⟨err, sec, int⟩ := rxDiscard_ne n
  have counted : (hwGet (hwSat s (Reg.MIR_RX_DISCARD n.val) 32 1) (Reg.MIR_RX_DISCARD n.val)).toNat =
      min ((hwGet s (Reg.MIR_RX_DISCARD n.val)).toNat + 1) 0xFFFFFFFF := by
    have below : min ((hwGet s (Reg.MIR_RX_DISCARD n.val)).toNat + 1) 0xFFFFFFFF < 2 ^ 64 := by omega
    rw [hwSat, hwGet_hwSet s wf, BitVec.toNat_ofNat]
    exact Nat.mod_eq_of_lt below
  have wf1 : fwf (hwSat s (Reg.MIR_RX_DISCARD n.val) 32 1).hw = true := fwf_hwSet wf _ _
  have wf2 : fwf (mirErr (hwSat s (Reg.MIR_RX_DISCARD n.val) 32 1) n (causeNum cause)).hw = true := fwf_hwSet wf1 _ _
  have noted : hwGet (mirErr (hwSat s (Reg.MIR_RX_DISCARD n.val) 32 1) n (causeNum cause)) (Reg.MIR_RX_DISCARD n.val) =
      hwGet (hwSat s (Reg.MIR_RX_DISCARD n.val) 32 1) (Reg.MIR_RX_DISCARD n.val) := hwGet_hwSet_ne _ wf1 _ err
  unfold discardFrame
  dsimp only
  split
  · rw [raise, hwOr, hwGet_hwSet_ne _ (by exact fwf_hwSet wf2 _ _) _ int, hwSat, hwGet_hwSet_ne _ wf2 _ sec, noted, counted]
  · rw [noted, counted]

theorem discardFrame_frame (s : State) (n : MPort) (cause : RxCause) :
    discardFrame s n cause = { s with hw := (discardFrame s n cause).hw } := by
  unfold discardFrame
  dsimp only
  split <;> rfl

/-! ### The commands of a link (R311, R313, R324) -/

section
variable {s : State} {n : MPort}

theorem exec_mirPcsLock (hm : mirMayLink s n = true) (hl : (s.mir.ports[n]).linkUp = false) : exec (.mirPcsLock n) s =
    done (raise (modMir s n fun x => { x with linkUp := true, helloSent := none }) (Reg.MIR_INT_STATUS n.val) 0) := by
  show execMirPcsLock n s = _
  rw [execMirPcsLock, if_pos ⟨hm, by rw [hl]; rfl⟩]

theorem exec_rxDiscard_bad {v : RxFrame} {cause : RxCause} (hh : hears s n = true)
    (hc : frameCause s n v.env v.fcsOk v.headerOk = some cause) :
    exec (.rxDiscard n v) s = done (discardFrame (fecSeen s n v.fec) n cause) := by
  show execRxDiscard n v s = _
  rw [execRxDiscard, hh, if_neg (by simp), hc]

theorem exec_rxDiscard_good {v : RxFrame} (hh : hears s n = true) (hc : frameCause s n v.env v.fcsOk v.headerOk = none) :
    exec (.rxDiscard n v) s = done s := by
  show execRxDiscard n v s = _
  rw [execRxDiscard, hh, if_neg (by simp), hc]

theorem exec_helloTimer {p : BitVec 32} (hh : hears s n = true) (hp : s.mir.pairId = some p) (ht : txReady s n = true) :
    exec (.helloTimer n) s =
      done (sendNote (modMir s n fun x => { x with helloSent := some (retainedOf x) }) n (.hello (helloBody s n p))) := by
  show execHelloTimer n s = _
  rw [execHelloTimer, hp]
  exact if_pos ⟨hh, ht⟩

theorem exec_hello_taken {f : MirFrame} {b : HelloFrame} (hh : hears s f.port = true) (hf : frameFault s f true = none) :
    exec (.hello f b) s = done (settle (helloIn (frameTaken s f) f.port b)) := by
  show execHello f b s = _
  rw [execHello, hh, if_neg (by simp), hf]

theorem exec_hello_bad {f : MirFrame} {b : HelloFrame} {cause : RxCause} (hh : hears s f.port = true)
    (hf : frameFault s f true = some cause) : exec (.hello f b) s = done (frameBad s f cause) := by
  show execHello f b s = _
  rw [execHello, hh, if_neg (by simp), hf]

theorem exec_mirLinkDown (hl : (s.mir.ports[n]).linkUp = true) : exec (.mirLinkDown n) s = done (settle (endSession
    (raise (modMir s n fun x => { x with linkUp := false, helloSent := none }) (Reg.MIR_INT_STATUS n.val) 1) n)) := by
  show execMirLinkDown n s = _
  rw [execMirLinkDown, mirLinkLost, hl, if_neg (by simp)]

/-! ### HELLO (R324) -/

variable {b : HelloFrame}

theorem helloIn_other (h : s.mir.pairId ≠ some b.pairId) : helloIn s n b = s := by
  rw [helloIn, if_pos h]

theorem helloIn_same_role (h : s.mir.pairId = some b.pairId) (hm : b.mate = s.mir.mate) : helloIn s n b = mirErr s n 11 := by
  rw [helloIn, if_neg (not_not.2 h), if_pos hm]

theorem helloIn_higher (h : s.mir.pairId = some b.pairId) (hm : b.mate ≠ s.mir.mate) (hg : s.mir.promoGen.toNat < b.promoGen.toNat) :
    helloIn s n b = if s.mir.mate then adopt s b.promoGen else mirErr s n 11 := by
  have other : s.mir.promoGen ≠ b.promoGen := fun e => Nat.lt_irrefl _ (e ▸ hg)
  rw [helloIn, if_neg (not_not.2 h), if_neg hm, if_neg other, if_pos hg]

theorem helloIn_starts {q : BitVec 48} (h : s.mir.pairId = some b.pairId) (hm : b.mate ≠ s.mir.mate) (hg : s.mir.promoGen = b.promoGen)
    (hq : (s.mir.ports[n]).helloSent = some q) (hs : (s.mir.ports[n]).session = false) : helloIn s n b = startSession s n b q := by
  rw [helloIn, if_neg (not_not.2 h), if_neg hm, if_pos hg, helloFits, if_neg (by rw [hs]; simp), hq]

theorem adopt_sessions (s : State) (gen : BitVec 16) : SessionsStay s (adopt s gen) := by
  have again : SessionsStay s (modMir (modMir s 0 fun x => { x with helloSent := none }) 1 fun x => { x with helloSent := none }) :=
    (modMir_sessions s 0).trans (modMir_sessions _ 1)
  exact again.trans (.of_eq rfl rfl)
end

/-- Settles O46: the rows by their equations; that a session has begun or ended by what sends and drops leave of it (`SessionsStay`). -/
theorem mirror_links_and_sessions : Obligations.mirror_links_and_sessions := by
  intro n s up x
  refine ⟨exec_mirPcsLock, fun hl => ?linked, fun b => ⟨helloIn_other, helloIn_same_role, fun h hp hg => ?primary,
    fun h hp hb hg => ?mate, fun q h hm hg hq hs => ?starts⟩, rfl, endSession_ended s n⟩
  case linked =>
    have hears : hears s n = true := by rw [hears, up, hl]; rfl
    refine ⟨fun v => ⟨fun cause hc => exec_rxDiscard_bad hears hc, exec_rxDiscard_good hears, fun hf => ?fcs, fun hf h1 h2 h => ?address,
      fun hf h1 h2 hd hs hv hn hm => ?unprotected⟩, fun cause => ⟨fun wf => discardFrame_counts wf n cause, discardFrame_frame s n cause⟩,
      fun p hp ht => exec_helloTimer hears hp ht, fun f b hf => ?hello, exec_mirLinkDown hl⟩
    case fcs => rw [hf]; rfl
    case address => rw [hf]; exact frameCause_address h1 h2 h
    case unprotected => rw [hf]; exact frameCause_unprotected h1 h2 hd hs hv hn hm
    case hello =>
      subst hf
      exact ⟨exec_hello_taken hears, fun cause hc => exec_hello_bad hears hc⟩
  case primary =>
    by_cases hm : b.mate = s.mir.mate
    · exact helloIn_same_role h hm
    · rw [helloIn_higher h hm hg, hp, if_neg (by simp)]
  case mate =>
    rw [helloIn_higher h (by rw [hp, hb]; simp) hg, hp, if_pos rfl]
    exact ⟨rfl, (adopt_sessions s b.promoGen).session n⟩
  case starts =>
    rw [helloIn_starts h hm hg hq hs]
    exact startSession_begun s n b q

end Sys2Proof.Machine
end

section
/-! Proofs of the pace family: clock sources, the learned ratio, the governor and operating points. -/

namespace Sys2Proof.Machine

/-! ### A source through what the device does about it (R412, R414) -/

section
variable {s t : State} {k : Nat}

theorem clkSrc_of_clk (h : t.clk = s.clk) : clkSrc t k = clkSrc s k := by
  unfold clkSrc
  rw [h]

theorem clkSrc_putSrc (s : State) (k : Nat) (v : ClkSrc) : clkSrc (putSrc s k v) k = v := by
  match k with
  | 0 | 1 | 2 | _ + 3 => rfl

theorem portsLose_clk (s : State) : (portsLose s).clk = s.clk := by
  refine List.foldlRecOn (motive := fun t : State => t.clk = s.clk) _ _ rfl fun t h p _ => ?_
  obtain ⟨_, _, _, e⟩ := portDown_counted t p
  show (portDown t p).clk = s.clk
  rw [e]
  exact h

/-- Ports, links and the timing of the Tailstock are not the source's state. -/
theorem clkSrc_action (s : State) (k : Nat) : clkSrc (clkAction s k) k = clkSrc s k := by
  match k with
  | 0 | 2 | _ + 3 => rfl
  | 1 =>
    refine clkSrc_of_clk ?_
    show (mirLinkLost (mirLinkLost (portsLose s) 0) 1).clk = s.clk
    rw [mirLinkLost_clk, mirLinkLost_clk, portsLose_clk]

theorem clkSrc_fail (s : State) (k : Nat) : clkSrc (clkFail s k) k = clkSrc s k := (clkSrc_action _ k).trans (clkSrc_of_clk rfl)

theorem clkSrc_restore (s : State) (k : Nat) : clkSrc (clkRestore s k) k = clkSrc s k := by
  match k with
  | 0 | 1 | 2 | 3 | _ + 4 => rfl

/-! ### A window of a source (R411) -/

theorem clkWindow_absent {n : BitVec 16} (h : clkPresent s k = false) : clkWindow s k n = s := by
  rw [clkWindow, h]
  rfl

/-- What a window makes of the state of a source that is there. -/
def srcAfter (c : ClkSrc) (pass : Bool) : ClkSrc :=
  if pass then
    if !c.failed then { c with ok := true, bad := 0, good := 0 }
    else if c.good + 1 < 100 then { c with bad := 0, good := c.good + 1 }
    else { ok := true, failed := false, bad := 0, good := 0 }
  else if c.failed ∨ c.bad + 1 < 2 then { c with bad := c.bad + 1, good := 0 }
  else { ok := false, failed := true, bad := c.bad + 1, good := 0 }

theorem clkSrc_window {n : BitVec 16} (h : clkPresent s k = true) :
    clkSrc (clkWindow s k n) k = srcAfter (clkSrc s k) (clkPass s k n) := by
  rw [clkWindow, h, if_neg (by simp), srcAfter]
  dsimp only
  split_ifs
  · exact clkSrc_putSrc _ _ _
  · exact clkSrc_putSrc _ _ _
  · exact (clkSrc_restore _ _).trans (clkSrc_putSrc _ _ _)
  · exact clkSrc_putSrc _ _ _
  · exact (clkSrc_fail _ _).trans (clkSrc_putSrc _ _ _)

theorem srcAfter_kept {c : ClkSrc} (h : c.failed = false) : srcAfter c true = { c with ok := true, bad := 0, good := 0 } := by
  rw [srcAfter, if_pos rfl, h]
  rfl

theorem srcAfter_back {c : ClkSrc} (h : c.failed = true) : (srcAfter c true).failed = false ↔ 100 ≤ c.good + 1 := by
  rw [srcAfter, if_pos rfl, if_neg (by rw [h]; simp)]
  split
  case isTrue few => exact ⟨fun ok => absurd h (ne_true_of_eq_false ok), fun many => absurd few (Nat.not_lt.2 many)⟩
  case isFalse many => exact ⟨fun _ => Nat.not_lt.1 many, fun _ => rfl⟩

theorem srcAfter_outside {c : ClkSrc} (h : c.failed = false) :
    ((srcAfter c false).failed = true ↔ 2 ≤ c.bad + 1) ∧ (srcAfter c false).good = 0 := by
  rw [srcAfter, if_neg Bool.false_ne_true]
  split
  case isTrue first =>
    have first := first.resolve_left (ne_true_of_eq_false h)
    exact ⟨⟨fun failed => absurd failed (ne_true_of_eq_false h), fun second => absurd first (Nat.not_lt.2 second)⟩, rfl⟩
  case isFalse second => exact ⟨⟨fun _ => Nat.not_lt.1 fun first => second (.inr first), fun _ => rfl⟩, rfl⟩
end

/-! ### The commands of the clock unit and of the pace governor (R407 to R411, R415) -/

section
variable {s : State}

theorem exec_crossCountWindowEnd (up : coreUp s = true) (sys hp pcie osc : BitVec 16) : exec (.crossCountWindowEnd sys hp pcie osc) s =
    let t := clkWindow (clkWindow (clkWindow (clkWindow s 0 sys) 1 hp) 2 pcie) 3 osc
    done (if sysGone t ∧ t.clk.osc.failed then faultShutdown t 4 0 else settle (takeTrim t)) := by
  show execCrossCountWindowEnd sys hp pcie osc s = _
  rw [execCrossCountWindowEnd, up, if_neg (by simp)]

theorem exec_oscRatioMeasure (up : coreUp s = true) (ok : s.clk.sys.ok = true) (failed : s.clk.sys.failed = false) (ratio : BitVec 32) :
    exec (.oscRatioMeasure ratio) s =
      done (modClk s fun c => { c with fine := ratioStep c.fine ratio.toNat, learned := min 1000 (c.learned + 1) }) := by
  show execOscRatioMeasure ratio s = _
  rw [execOscRatioMeasure, if_pos ⟨up, ok, by rw [failed]; rfl⟩]

theorem exec_paceSample (up : coreUp s = true) (slowest : BitVec 16) : exec (.paceSample slowest) s =
    done (if critParked s then s else modThm s fun t => { t with slowest := slowest }) := by
  show execPaceSample slowest s = _
  rw [execPaceSample, up]
  cases critParked s <;> rfl

theorem exec_governorStep (h : governs s = true) : exec .governorStep s =
    let t := modThm s fun t => { t with setting := governorSetting s }
    done (modThm t fun u => { u with vdd := governed t }) := by
  show execGovernorStep s = _
  rw [execGovernorStep, if_pos h]

section
variable (up : coreUp s = true) (parked : critParked s = false)
include up parked

theorem exec_paceLowTimer_low (high : s.thm.paceLow = false) (l0 : s.pwr.cur = 0) (full : s.thm.vdd = 850)
    (slow : s.thm.slowest.toNat < floorPace s) :
    exec .paceLowTimer s = done (raise (modThm s fun t => { t with paceLow := true }) Reg.THM_INT_STATUS 7) := by
  show execPaceLowTimer s = _
  rw [execPaceLowTimer, up, parked, high]
  simp [slow, l0, full]

theorem exec_paceLowTimer_back (low : s.thm.paceLow = true) (fast : floorPace s ≤ s.thm.slowest.toNat) :
    exec .paceLowTimer s = done (modThm s fun t => { t with paceLow := false }) := by
  show execPaceLowTimer s = _
  rw [execPaceLowTimer, up, parked, low]
  simp [Nat.not_lt.2 fast]
end

theorem exec_hsOppTransitionEnd {v : OppMove} (h : s.clk.move = some v) : exec .hsOppTransitionEnd s = done (settle (mbxFinish
    (evt (raise (modClk s fun c => { c with opp := v.target, move := none }) Reg.CLK_INT_STATUS 5) Ev.CLK_HS_OPP noInst v.target.toNat)
    v.mbx 0 0 [])) := by
  show execHsOppTransitionEnd s = _
  rw [execHsOppTransitionEnd, h]
end

/-- Settles O15: the rows by their equations; a source's window by `srcAfter`, which no consequence of a failure changes
(`clkSrc_action`). -/
theorem clocks_and_pace : Obligations.clocks_and_pace := by
  refine ⟨fun s sys hp pcie osc up => exec_crossCountWindowEnd up sys hp pcie osc,
    fun s k n _ => ⟨clkWindow_absent, fun h pass ok => ?kept, fun h pass bad => ?back, fun h out ok => ?outside⟩,
    fun s => ⟨fun ratio up ok bad => exec_oscRatioMeasure up ok bad ratio, fun slowest up => exec_paceSample up slowest,
      exec_governorStep, exec_paceLowTimer_low, exec_paceLowTimer_back, fun v => exec_hsOppTransitionEnd⟩⟩
  case kept => rw [clkSrc_window h, pass, srcAfter_kept ok]
  case back => rw [clkSrc_window h, pass, srcAfter_back bad]
  case outside => rw [clkSrc_window h, out]; exact srcAfter_outside ok

end Sys2Proof.Machine
end

section
/-! Proofs of the mirror family: records, acknowledgements and resends. -/

namespace Sys2Proof.Machine

/-! ### Frames that are sent (R312, R313) -/

section
variable {s : State} {n : MPort}

theorem sendFrame_unready (h : txReady s n = false) (q : BitVec 48) (b : MirBody) : sendFrame s n q b = s := by
  rw [sendFrame, h]
  rfl

theorem sendFrame_protected (hm : macsecOn s n = true) (h : txReady s n = true) (q : BitVec 48) (b : MirBody) : sendFrame s n q b =
    modMir (emit s (.frame n (txEnvelope s n) q (ackSeqOf s n) b)) n fun x =>
      { x with txPn := fput x.txPn (txAn s n) (nextPn x.txPn (txAn s n) + 1) } := by
  rw [sendFrame, h, if_neg (by simp), hm]
  rfl

theorem sendFrame_plain (hm : macsecOn s n = false) (q : BitVec 48) (b : MirBody) :
    sendFrame s n q b = emit s (.frame n (txEnvelope s n) q (ackSeqOf s n) b) := by
  rw [sendFrame, txReady, hm, if_neg (by simp), if_neg (by simp)]

/-- What a record is sent in, while the port protects nothing. -/
def recordFrame (s : State) (n : MPort) (e : BitVec 48 × Record) : Emit := .frame n (txEnvelope s n) e.1 (ackSeqOf s n) (.data [e.2])

/-- A frame that is sent changes nothing of what the next one is made of. -/
theorem sendRecords_plain (l : List (BitVec 48 × Record)) (s : State) (hm : macsecOn s n = false) :
    sendRecords s n l = { s with out := (l.map (recordFrame s n)).reverse ++ s.out } := by
  induction l generalizing s with
  | nil => rfl
  | cons e l ih =>
    have first : sendRecords s n (e :: l) = sendRecords (emit s (recordFrame s n e)) n l :=
      congrArg (sendRecords · n l) (sendFrame_plain hm e.1 _)
    rw [first, ih (emit s (recordFrame s n e)) hm, List.map_cons, List.reverse_cons, List.append_assoc]
    rfl

theorem resend_out (hm : macsecOn s n = false) : (resend s n).out =
    ((s.mir.ports[n]).out.filterMap fun t => t.seq.map fun q =>
      Emit.frame n (txEnvelope s n) q (ackSeqOf s n) (.data [t.record])).reverse ++ s.out := by
  have again (l : List TxRecord) : (l.filterMap fun t => t.seq.map fun q => (q, t.record)).map (recordFrame s n) =
      l.filterMap fun t => t.seq.map fun q => Emit.frame n (txEnvelope s n) q (ackSeqOf s n) (.data [t.record]) := by
    rw [List.map_filterMap]
    simp only [Option.map_map]
    rfl
  rw [resend, pmcCount_out, hwSat_out, sendRecords_plain _ _ hm, again]

/-! ### Acknowledgement by the peer (R317 to R319) -/

theorem takeAck_misfit {a : BitVec 48} (h : ackFits s.mir.ports[n] a = false) : takeAck s n a = s := by
  rw [takeAck, h]
  rfl

theorem freeAcked_mir (s : State) (ts : List TxRecord) : (freeAcked s ts).mir = s.mir := by
  unfold freeAcked
  dsimp only
  split <;> rfl

theorem dropAcked_port (s : State) (n : MPort) (a : BitVec 48) : (dropAcked s n a).mir.ports[n] =
    { s.mir.ports[n] with out := (s.mir.ports[n]).out.filter fun t => !ackedBy a t, acked := a } := by
  rw [dropAcked, freeAcked_mir]
  exact vmod_self s.mir.ports n _

theorem ackFits_notePn (s : State) (n : MPort) (tag : Option SecTag) (a : BitVec 48) :
    ackFits ((notePn s n tag).mir.ports[n]) a = ackFits s.mir.ports[n] a := by
  cases tag with
  | none => rfl
  | some t =>
    show ackFits ((vmod s.mir.ports n _)[n]) a = _
    rw [vmod_self]
    rfl

theorem ackFits_frameTaken (s : State) (f : MirFrame) (a : BitVec 48) :
    ackFits ((frameTaken s f).mir.ports[f.port]) a = ackFits s.mir.ports[f.port] a :=
  ackFits_notePn (fecSeen s f.port f.fec) f.port f.env.sec a

/-! ### Records received (R316 to R319) -/

theorem seqBefore_ne {a b : BitVec 48} (h : seqBefore a b = true) : a ≠ b := by
  simp only [seqBefore, Bool.and_eq_true, decide_eq_true_eq] at h
  exact h.1

theorem seqBefore_asymm {a b : BitVec 48} (h : seqBefore a b = true) : seqBefore b a = false := by
  have ne := seqBefore_ne h
  simp only [seqBefore, Bool.and_eq_true, decide_eq_true_eq] at h
  simp only [seqBefore, Bool.and_eq_false_iff, decide_eq_false_iff_not]
  exact .inr (by bv_omega)

section
variable (r : Record) (rs : List Record)

theorem takeRecords_next (hs : s.glb.state.serves = true) (hw : recordWaits s n = false) :
    let t := modMir s n fun x => { x with inbox := [(x.rxSeq, r)], rxSeq := x.rxSeq + 1 }
    takeRecords s n (s.mir.ports[n]).rxSeq (r :: rs) =
      takeRecords (if staged t then applyInbox 1 t n else t) n ((s.mir.ports[n]).rxSeq + 1) rs := by
  have same : modMir s n (fun x => { x with inbox := [((s.mir.ports[n]).rxSeq, r)], rxSeq := (s.mir.ports[n]).rxSeq + 1 }) =
      modMir s n fun x => { x with inbox := [(x.rxSeq, r)], rxSeq := x.rxSeq + 1 } :=
    congrArg (fun v => { s with mir := { s.mir with ports := v } }) (vmod_congr rfl)
  rw [takeRecords, if_pos rfl, if_neg (by rw [hs, hw]; simp), same]

theorem takeRecords_waits (hw : recordWaits s n = true) : takeRecords s n (s.mir.ports[n]).rxSeq (r :: rs) = (some false, s) := by
  rw [takeRecords, if_pos rfl, if_pos (.inr hw)]

theorem takeRecords_again {q : BitVec 48} (h : seqBefore q (s.mir.ports[n]).rxSeq = true) :
    takeRecords s n q (r :: rs) = takeRecords s n (q + 1) rs := by
  rw [takeRecords, if_neg (seqBefore_ne h), if_pos h]

theorem takeRecords_gap {q : BitVec 48} (h : seqBefore (s.mir.ports[n]).rxSeq q = true) :
    takeRecords s n q (r :: rs) = (some true, s) := by
  rw [takeRecords, if_neg (seqBefore_ne h).symm, if_neg (by rw [seqBefore_asymm h]; simp)]
end
end

/-! ### The frames of a session as commands -/

section
variable {s : State} {f : MirFrame} {a : BitVec 48} (hi : inSession s f.port = true) (hl : (s.mir.ports[f.port]).linkUp = true)
include hi hl

theorem exec_ack_taken {refused : List (BitVec 9)} (hf : frameFault s f (decide (refused.length ≤ 64)) = none) :
    exec (.ack f a refused) s = done (settle (reachSync (takeAck
      (refused.foldl (fun s r => detach s f.port r.toNat) (frameTaken s f)) f.port a) f.port)) := by
  show execAck f a refused s = _
  rw [execAck, hears_of_session hi hl, if_neg (by simp), hf]
  dsimp only
  rw [ackIn, inSession_frameTaken f hi, if_neg (by simp)]

theorem exec_nak_taken (hf : frameFault s f true = none) (ha : ackFits s.mir.ports[f.port] a = true) :
    exec (.nak f a) s = done (settle (afterAck (resend (dropAcked (frameTaken s f) f.port a) f.port) f.port)) := by
  show execNak f a s = _
  rw [execNak, hears_of_session hi hl, if_neg (by simp), hf]
  dsimp only
  rw [nakIn, inSession_frameTaken f hi, if_neg (by simp), ackFits_frameTaken, if_pos ha]

variable {q : BitVec 48} {rs : List Record}

theorem exec_data_taken (hf : frameFault s f (dataFits rs) = none) :
    exec (.data f q a rs) s = done (settle (dataIn (frameTaken s f) f.port q a rs)) := by
  show execData f q a rs s = _
  rw [execData, hears_of_session hi hl, if_neg (by simp), hf]
end

section
variable {s t : State} {n : MPort} {a q : BitVec 48} {rs : List Record} (hi : inSession s n = true)
include hi

theorem dataIn_whole (h : takeRecords (takeAck s n a) n q rs = (none, t)) : dataIn s n q a rs = t := by
  rw [dataIn, hi, if_neg (by simp), h]

theorem dataIn_cut {gap : Bool} (h : takeRecords (takeAck s n a) n q rs = (some gap, t)) :
    dataIn s n q a rs = sendNote (if gap then mirErr t n 9 else t) n .nak := by
  rw [dataIn, hi, if_neg (by simp), h]
end

/-- Settles O47: frames by `sendFrame` in its three cases, records by `takeRecords` in its four, the rows through them. -/
theorem mirror_records_and_acknowledgements : Obligations.mirror_records_and_acknowledgements := by
  intro n a s hi x
  refine ⟨fun q b => ⟨fun h => sendFrame_unready h q b, fun hm h => sendFrame_protected hm h q b⟩, takeAck_misfit, fun _ => ?acked,
    resend_out, fun f hn hl => ?rows, fun r rs => ⟨takeRecords_next r rs, takeRecords_waits r rs, fun q h => takeRecords_again r rs h,
      fun q h => takeRecords_gap r rs h⟩⟩
  case acked => rw [dropAcked_port]; exact ⟨rfl, rfl⟩
  case rows =>
    subst hn
    intro u
    have inside : inSession u f.port = true := inSession_frameTaken f hi
    refine ⟨fun refused hf => exec_ack_taken hi hl hf, exec_nak_taken hi hl, fun q rs hf => ⟨fun t h => ?_, fun t h => ?_, fun t h => ?_⟩⟩
    all_goals rw [exec_data_taken hi hl hf]
    · rw [dataIn_whole inside h]; rfl
    · rw [dataIn_cut inside h]; rfl
    · rw [dataIn_cut inside h]; rfl

end Sys2Proof.Machine
end

section
/-! Proofs of the scope family: a step on an empty queue. Nothing that a command lets go on touches GLB_TIME: said function by function, in
the order of the model, so that each equation rests on those before it. -/

namespace Sys2Proof.Machine

@[simp] theorem ite_time (p : Prop) [Decidable p] (s t : State) : (if p then s else t).time = if p then s.time else t.time := by
  split <;> rfl

@[simp] theorem ite_snd_time {α : Type} (p : Prop) [Decidable p] (a b : α × State) :
    (if p then a else b).2.time = if p then a.2.time else b.2.time := by
  split <;> rfl

@[simp] theorem foldl_time {γ : Type} {f : State → γ → State} (hf : ∀ s a, (f s a).time = s.time) (l : List γ) (s : State) :
    (l.foldl f s).time = s.time :=
  List.foldlRecOn (motive := fun t : State => t.time = s.time) l f rfl fun t h a _ => (hf t a).trans h

theorem foldl_snd_time {α γ : Type} {f : α × State → γ → α × State} (hf : ∀ r a, (f r a).2.time = r.2.time) (l : List γ) (r : α × State) :
    (l.foldl f r).2.time = r.2.time :=
  List.foldlRecOn (motive := fun q : α × State => q.2.time = r.2.time) l f rfl fun q h a _ => (hf q a).trans h

/-! ### Registers, events and the state of regions -/

@[simp] theorem evtFull_time (s : State) (ev : Nat × Nat) (inst data count : Nat) : (evtFull s ev inst data count).time = s.time := by rfl

@[simp] theorem setRegion_time (s : State) (r : Nat) (v : Region) : (setRegion s r v).time = s.time := by rfl

@[simp] theorem modSlot_time (s : State) (lsa : Nat) (f : Slot → Slot) : (modSlot s lsa f).time = s.time := by
  unfold modSlot
  split <;> simp

@[simp] theorem stageCmd_time (s : State) (id : Nat) (g : Stage) : (stageCmd s id g).time = s.time := by rfl

/-! ### Responses and fatal conditions -/

@[simp] theorem discardResp_time (s : State) (p : HPort) : (discardResp s p).time = s.time := by rfl

@[simp] theorem answer_time (s : State) (id : Nat) (performed : Bool) (r : Resp) : (answer s id performed r).time = s.time := by
  unfold answer
  (repeat' split) <;> simp

@[simp] theorem refuse_time (s : State) (id : Nat) (r : Resp) : (refuse s id r).time = s.time := by simp [refuse]

@[simp] theorem complete_time (s : State) (id : Nat) (r : Resp) : (complete s id r).time = s.time := by simp [complete]

@[simp] theorem setFatal_time (s : State) (k : Nat) : (setFatal s k).time = s.time := (setFatal_checks s k).time

/-! ### The line caches and the side buffer -/

@[simp] theorem putSide_time (s : State) (ch : Nat) (l : List SideEntry) : (putSide s ch l).time = s.time := by rfl

@[simp] theorem putEntry_time (s : State) (key : Nat) (e : CacheEntry) : (putEntry s key e).time = s.time := by rfl

@[simp] theorem touchEntry_time (s : State) (key : Nat) (e : CacheEntry) : (touchEntry s key e).time = s.time := by rfl

@[simp] theorem cachePlace_time (s : State) (mask lsa : Nat) (data : Sector) (hold : Hold) :
    (cachePlace s mask lsa data hold).time = s.time := by
  unfold cachePlace
  dsimp only
  split <;> simp

@[simp] theorem wasted_time (s : State) (ch n : Nat) : (wasted s ch n).time = s.time := by simp [wasted]

@[simp] theorem cacheWrite_time (s : State) (lsa : Nat) (data : Sector) : (cacheWrite s lsa data).time = s.time := by
  unfold cacheWrite
  dsimp only
  (repeat' split) <;> simp

theorem cacheProbe_time {s : State} {cls : Class} {lsa : Nat} {r : Sector × State} (h : cacheProbe s cls lsa = some r) :
    r.2.time = s.time := by
  unfold cacheProbe at h
  dsimp only at h
  split at h
  · cases h; simp
  · split at h
    · cases h
    · cases h; simp

@[simp] theorem invalidate_time (s : State) (lo hi : Nat) (locked : Bool) : (invalidate s lo hi locked).time = s.time := by
  simp [invalidate]

@[simp] theorem cacheDrop_time (s : State) (lsa : Nat) : (cacheDrop s lsa).time = s.time := by
  unfold cacheDrop
  dsimp only
  (repeat' split) <;> simp

@[simp] theorem dropHeld_time (s : State) (r : Nat) : (dropHeld s r).time = s.time := by simp [dropHeld]

/-! ### Seals and the internal area -/

@[simp] theorem putDom_time (s : State) (d : Nat) (v : Domain) : (putDom s d v).time = s.time := by rfl

@[simp] theorem takeCounts_time (s : State) (n : Nat) : (takeCounts s n).time = s.time := by rfl

@[simp] theorem openCount_time (s : State) (cls : Class) (lsa : Nat) (o : Opened) : (openCount s cls lsa o).time = s.time :=
  (openCount_beside s cls lsa o).time

@[simp] theorem countSeal_time (s : State) (ch n : Nat) : (countSeal s ch n).time = s.time := by simp [countSeal]

@[simp] theorem landInner_time (s : State) (lsa : Nat) (data : Option Sector) : (landInner s lsa data).time = s.time := by simp [landInner]

@[simp] theorem countPsi_time (s : State) (lsa : Nat) : (countPsi s lsa).time = s.time := by simp [countPsi]

@[simp] theorem writeInner_time (s : State) (lsa : Nat) (d : Sector) : (writeInner s lsa d).time = s.time := by simp [writeInner]

@[simp] theorem saveBytes_time (s : State) (i : Inner) (d : Sector) : (saveBytes s i d).time = s.time := by simp [saveBytes]

@[simp] theorem saveInner_time (s : State) (i : Inner) : (saveInner s i).time = s.time := by simp [saveInner]

@[simp] theorem saveRule_time (s : State) : (saveRule s).time = s.time := by simp [saveRule]

@[simp] theorem openCopy_time (s : State) (i : Inner) (copy : Nat) : (openCopy s i copy).2.time = s.time := openCount_time _ _ _ _

@[simp] theorem loadInner_time (s : State) (i : Inner) : (loadInner s i).2.time = s.time := by simp [loadInner]

@[simp] theorem loadItems_time (s : State) (l : List Inner) : (loadItems s l).time = s.time := by simp [loadItems]

/-! ### Requests at the medium -/

@[simp] theorem modReq_time (s : State) (id : Nat) (f : MedReq → MedReq) : (modReq s id f).time = s.time := by rfl

@[simp] theorem dropReqs_time (s : State) (p : MedReq → Bool) : (dropReqs s p).time = s.time := by rfl

@[simp] theorem delReq_time (s : State) (id : Nat) : (delReq s id).time = s.time := by rfl

@[simp] theorem noteDepth_time (s : State) (ch : Nat) : (noteDepth s ch).time = s.time := by simp [noteDepth]

@[simp] theorem addReq_time (s : State) (cls : Class) (program : Bool) (lsa : Nat) (purpose : Purpose) :
    (addReq s cls program lsa purpose).time = s.time := by simp [addReq]

@[simp] theorem prefetchOne_time (s : State) (lsa : Nat) : (prefetchOne s lsa).time = s.time := by simp [prefetchOne]

@[simp] theorem notedMiss_time (s : State) (c : Class) (lsa : Nat) : (notedMiss s c lsa).time = s.time := by simp [notedMiss]

@[simp] theorem requestRead_time (s : State) (c : Class) (lsa : Nat) (purpose : Purpose) : (requestRead s c lsa purpose).time = s.time := by
  simp [requestRead]

@[simp] theorem askMedium_time (s : State) (c : Class) (lsa : Nat) (purpose : Purpose) : (askMedium s c lsa purpose).time = s.time := by
  unfold askMedium
  split <;> simp

@[simp] theorem countPoison_time (s : State) (r : Nat) (up : Bool) : (countPoison s r up).time = s.time := by rfl

@[simp] theorem counterPoison_time (s : State) (lsa cause : Nat) : (counterPoison s lsa cause).time = s.time := by simp [counterPoison]

@[simp] theorem poisonSlot_time (s : State) (lsa : Nat) (x : Slot) (cause : Nat) : (poisonSlot s lsa x cause).time = s.time := by
  simp [poisonSlot]

/-! ### Records to the mate -/

@[simp] theorem modMirRegion_time (s : State) (r : Nat) (f : MirRegion → MirRegion) : (modMirRegion s r f).time = s.time := by rfl

@[simp] theorem sendFrame_time (s : State) (n : MPort) (seq : BitVec 48) (b : MirBody) : (sendFrame s n seq b).time = s.time := by
  simp [sendFrame]

@[simp] theorem sendNote_time (s : State) (n : MPort) (b : MirBody) : (sendNote s n b).time = s.time := by simp [sendNote]

@[simp] theorem sendRecords_time (s : State) (n : MPort) (l : List (BitVec 48 × Record)) : (sendRecords s n l).time = s.time := by
  simp [sendRecords]

@[simp] theorem journalRead_time (s : State) (n : MPort) (held taken : Nat) : (journalRead s n held taken).time = s.time :=
  foldl_time (fun s _ => openCount_time s _ _ _) _ s

@[simp] theorem mirPump_time (s : State) (n : MPort) (held : Nat) : (mirPump s n held).time = s.time := by simp [mirPump]

@[simp] theorem markStale_time (s : State) (rs : List Nat) : (markStale s rs).time = s.time := by simp [markStale]

@[simp] theorem mirOverflow_time (s : State) (n : MPort) : (mirOverflow s n).time = s.time := by simp [mirOverflow]

@[simp] theorem journalAppend_time (s : State) (n : MPort) (bytes : Nat) : (journalAppend s n bytes).time = s.time := by
  simp [journalAppend]

@[simp] theorem mirPut_time (s : State) (n : MPort) (ts : List TxRecord) : (mirPut s n ts).time = s.time := by simp [mirPut]

@[simp] theorem mirAppend_time (s : State) (n : MPort) (rec : Record) (cmd : Option Nat) : (mirAppend s n rec cmd).time = s.time := by
  simp [mirAppend]

@[simp] theorem mirSend_time (s : State) (n : MPort) (rec : Record) (cmd : Option Nat) : (mirSend s n rec cmd).time = s.time := by
  simp [mirSend]

@[simp] theorem askIntent_time (s : State) (lsa : Nat) : (askIntent s lsa).time = s.time := by simp [askIntent]

@[simp] theorem formRecord_time (s : State) (rec : Record) (cmd : Option Nat) : (formRecord s rec cmd).time = s.time := by simp [formRecord]

@[simp] theorem askSeeds_time (s : State) (rs : List Nat) : (askSeeds s rs).time = s.time := by simp [askSeeds]

/-! ### The kerf buffer -/

@[simp] theorem notePeak_time (s : State) : (notePeak s).time = s.time := by rfl

@[simp] theorem reserve_time (s : State) (id n : Nat) : (reserve s id n).time = s.time := by rfl

@[simp] theorem joinLine_time (s : State) (w : Waiter) : (joinLine s w).time = s.time := by simp [joinLine]

@[simp] theorem ungrant_time (s : State) (w : Waiter) : (ungrant s w).time = s.time := by rfl

@[simp] theorem grantCharge_time (s : State) (w : Waiter) (n : Nat) : (grantCharge s w n).time = s.time := by simp [grantCharge]

@[simp] theorem waitCharge_time (s : State) (id : Nat) : (waitCharge s id).time = s.time := by simp [waitCharge]

@[simp] theorem makeRoom_time (s : State) : (makeRoom s).time = s.time := by
  unfold makeRoom
  (repeat' split) <;> simp

@[simp] theorem takeStamp_time (s : State) : (takeStamp s).time = s.time := by rfl

@[simp] theorem slotCheck_time (s : State) (lsa : Nat) : (slotCheck s lsa).time = s.time := by
  unfold slotCheck
  (repeat' split) <;> simp

@[simp] theorem useSlot_time (s : State) (lsa : Nat) : (useSlot s lsa).time = s.time := by simp [useSlot]

@[simp] theorem releaseOks_time (s : State) : (releaseOks s).time = s.time := by
  refine foldl_time (fun s x => ?_) _ s
  cases x.resp <;> simp

@[simp] theorem dropSync_time (s : State) : (dropSync s).time = s.time := by simp [dropSync]

@[simp] theorem syncRule_time (s : State) : (syncRule s).time = s.time := by simp [syncRule]

@[simp] theorem sendAck_time (s : State) (n : MPort) : (sendAck s n).time = s.time := by simp [sendAck]

@[simp] theorem finishWrite_time (s : State) (id : Nat) (r : Resp) : (finishWrite s id r).time = s.time := by
  unfold finishWrite
  (repeat' split) <;> simp

@[simp] theorem countMerge_time (s : State) (x : HostCmd) : (countMerge s x).time = s.time := by simp [countMerge]

@[simp] theorem countJoin_time (s : State) : (countJoin s).time = s.time := by rfl

@[simp] theorem landWrite_time (s : State) (x : HostCmd) (lsa : Nat) (slot : Slot) : (landWrite s x lsa slot).time = s.time := by
  unfold landWrite
  dsimp only
  split <;> simp

@[simp] theorem clearMark_time (s : State) (lsa : Nat) : (clearMark s lsa).time = s.time := by rfl

@[simp] theorem startFetch_time (s : State) (x : HostCmd) (lsa : Nat) : (startFetch s x lsa).time = s.time := by
  unfold startFetch
  dsimp only
  split
  · next h => rw [landWrite_time, cacheProbe_time h]; simp
  · simp

@[simp] theorem refuseWrite_time (s : State) (x : HostCmd) (r : Resp) : (refuseWrite s x r).time = s.time := by
  unfold refuseWrite
  split <;> simp

@[simp] theorem applyWrite_time (s : State) (id : Nat) : (applyWrite s id).time = s.time := by
  unfold applyWrite
  dsimp only
  (repeat' split) <;> simp

@[simp] theorem bitmapStep_time (s : State) (id : Nat) : (bitmapStep s id).time = s.time := by
  unfold bitmapStep
  split <;> simp

@[simp] theorem admitWrite_time (s : State) (id : Nat) : (admitWrite s id).time = s.time := by
  unfold admitWrite
  dsimp only
  split <;> simp

@[simp] theorem finishRead_time (s : State) (x : HostCmd) (d : Sector) (source ladder : Nat) :
    (finishRead s x d source ladder).time = s.time := by simp [finishRead]

/-! ### Reads -/

@[simp] theorem probe_time (s : State) (cls : Class) (lsa : Nat) : (probe s cls lsa).2.time = s.time := by
  unfold probe
  dsimp only
  split
  · split <;> simp
  · split
    · next h => rw [cacheProbe_time h]; simp
    · simp

@[simp] theorem missRead_time (s : State) (c : Class) (lsa id : Nat) : (missRead s c lsa id).time = s.time := by simp [missRead]

@[simp] theorem startRead_time (s : State) (id : Nat) : (startRead s id).time = s.time := by
  unfold startRead
  cases cmdAt s id with
  | none => rfl
  | some x =>
    have kept := probe_time s .hrd (sectorOf x.addr)
    dsimp only
    generalize probe s .hrd (sectorOf x.addr) = r at kept
    obtain ⟨found, t⟩ := r
    cases found <;> simpa using kept

/-! ### The lookup engines -/

@[simp] theorem putSector_time (s : State) (lsa : Nat) (d : Sector) (aged : Bool) : (putSector s lsa d aged).time = s.time := by
  simp [putSector]

@[simp] theorem askBitmap_time (s : State) (r : Nat) : (askBitmap s r).time = s.time := by simp [askBitmap]

@[simp] theorem admitSector_time (s : State) (w : Waiter) (lsa : Nat) : (admitSector s w lsa).2.time = s.time := by simp [admitSector]

@[simp] theorem dropPrev_time (s : State) : (dropPrev s).time = s.time := by
  unfold dropPrev
  split <;> simp

@[simp] theorem endJob_time (s : State) (id : Nat) : (endJob s id).time = s.time := by simp [endJob]

@[simp] theorem leafBad_time (s : State) (x : HostCmd) (e : Engine) (table lsa : Nat) (lost tier : Bool) :
    (leafBad s x e table lsa lost tier).time = s.time := by rfl

@[simp] theorem noteBad_time (s : State) (x : HostCmd) (k table lsa : Nat) : (noteBad s x k table lsa).time = s.time := by
  unfold noteBad
  split <;> simp

@[simp] theorem lkupPoison_time (s : State) (id : Nat) : (lkupPoison s id).time = s.time := by simp [lkupPoison]

@[simp] theorem askLeafWrite_time (s : State) (lsa : Nat) : (askLeafWrite s lsa).time = s.time := by simp [askLeafWrite]

@[simp] theorem lookLeaf_time (s : State) (x : HostCmd) (e : Engine) (lsa : Nat) : (lookLeaf s x e lsa).2.time = s.time := by
  unfold lookLeaf
  dsimp only
  split
  · simp
  · have kept := probe_time (pmcCount (hwAdd s Reg.LKE_LEAF_READS 1) 0x502 (some e.val) 1) .lkr lsa
    generalize probe (pmcCount (hwAdd s Reg.LKE_LEAF_READS 1) 0x502 (some e.val) 1) .lkr lsa = r at kept
    obtain ⟨found, t⟩ := r
    cases found <;> simpa using kept

@[simp] theorem repairLeaf_time (s : State) (lsa : Nat) : (repairLeaf s lsa).time = s.time := by simp [repairLeaf]

@[simp] theorem readSecond_time (s : State) (x : HostCmd) (e : Engine) (k tn : Nat) (t : Table) (lsa : Nat) :
    (readSecond s x e k tn t lsa).2.time = s.time := by
  unfold readSecond
  dsimp only
  cases dualOf t lsa with
  | none => simp
  | some d =>
    have kept := lookLeaf_time (noteBad s x k tn lsa) x e d
    dsimp only
    generalize lookLeaf (noteBad s x k tn lsa) x e d = r at kept
    obtain ⟨found, u⟩ := r
    cases found <;> simpa using kept

@[simp] theorem readLeaf_time (s : State) (x : HostCmd) (e : Engine) (k tn : Nat) (t : Table) (lsa : Nat) :
    (readLeaf s x e k tn t lsa).2.time = s.time := by
  unfold readLeaf
  have kept := lookLeaf_time s x e lsa
  generalize lookLeaf s x e lsa = r at kept
  obtain ⟨found, u⟩ := r
  cases found <;> simpa using kept

@[simp] theorem readLeaves_time (x : HostCmd) (e : Engine) (k tn : Nat) (t : Table) (acc : Bool × State) (leaves : List Nat) :
    (readLeaves x e k tn t acc leaves).2.time = acc.2.time :=
  List.foldlRecOn (motive := fun r : Bool × State => r.2.time = acc.2.time) leaves _ rfl fun _ h _ _ => (readLeaf_time _ _ _ _ _ _ _).trans h

@[simp] theorem runStages_time (fuel : Nat) (s : State) (id : Nat) : (runStages fuel s id).time = s.time := by
  induction fuel generalizing s with
  | zero => rfl
  | succ fuel ih =>
    unfold runStages
    split
    case h_2 => rfl
    split
    · rfl
    dsimp only
    split
    · simp
    split
    · simp
    generalize hr : List.foldl _ (true, _) _ = r
    have read : r.2.time = s.time := by
      rw [← hr]
      refine (foldl_snd_time (fun r d => ?_) _ _).trans (by simp)
      split <;> simp
    split
    · simpa using read
    split
    · split
      · rw [ih]; exact read
      · exact read
    · exact read

@[simp] theorem startLkup_time (s : State) (id : Nat) : (startLkup s id).time = s.time := by
  unfold startLkup
  split
  · rfl
  dsimp only
  split
  · simp
  split
  · simp
  split
  · simp
  split <;> simp

@[simp] theorem dispatchLkups_time (s : State) : (dispatchLkups s).time = s.time := by simp [dispatchLkups]

@[simp] theorem leafReturned_time (s : State) (id lsa : Nat) (good : Bool) : (leafReturned s id lsa good).time = s.time := by
  unfold leafReturned
  extract_lets t go
  have taken : t.time = s.time := modCmd_time s id _
  have goes (u : State) : (go u).time = u.time := by
    dsimp only [go]
    split
    · split <;> simp
    · rfl
  split
  case h_2 => exact taken
  extract_lets set
  split
  · exact (goes t).trans taken
  split
  · refine (goes _).trans ?_
    split <;> simp [taken]
  split
  · dsimp only
    split <;> simp [goes, taken]
  · simp [taken]

/-! ### Counters and folds -/

@[simp] theorem poisonEntry_time (s : State) (lsa : Nat) : (poisonEntry s lsa).time = s.time := by simp [poisonEntry]

@[simp] theorem entryCheck_time (s : State) (k : Nat) : (entryCheck s k).time = s.time := by
  unfold entryCheck
  (repeat' split) <;> simp

@[simp] theorem entriesCheck_time (s : State) (lsa : Nat) : (entriesCheck s lsa).time = s.time := by simp [entriesCheck]

@[simp] theorem putFold_time (s : State) (lsa : Nat) (j : FoldJob) : (putFold s lsa j).time = s.time := by rfl

@[simp] theorem foldValue_time (s : State) (lsa : Nat) (j : FoldJob) (d : Sector) : (foldValue s lsa j d).time = s.time := by
  simp [foldValue]

@[simp] theorem startFold_time (s : State) (lsa : Nat) : (startFold s lsa).time = s.time := by
  unfold startFold
  dsimp only
  split
  · rfl
  · split
    · simp
    · have kept := probe_time (entriesCheck s lsa) .ctr lsa
      generalize probe (entriesCheck s lsa) .ctr lsa = r at kept
      obtain ⟨found, t⟩ := r
      cases found <;> simpa using kept

@[simp] theorem foldEverything_time (s : State) : (foldEverything s).time = s.time := by simp [foldEverything]

@[simp] theorem abandonFold_time (s : State) (lsa : Nat) : (abandonFold s lsa).time = s.time := by rfl

@[simp] theorem landCadd_time (s : State) (x : HostCmd) : (landCadd s x).time = s.time := by simp [landCadd]

@[simp] theorem evictFold_time (s : State) (lsa : Nat) : (evictFold s lsa).time = s.time := by simp [evictFold]

@[simp] theorem startCadd_time (s : State) (id : Nat) : (startCadd s id).time = s.time := by
  unfold startCadd
  dsimp only
  (repeat' split) <;> simp

@[simp] theorem finishCrd_time (s : State) (x : HostCmd) (d : Sector) : (finishCrd s x d).time = s.time := by simp [finishCrd]

@[simp] theorem startCrd_time (s : State) (id : Nat) : (startCrd s id).time = s.time := by
  unfold startCrd
  cases cmdAt s id with
  | none => rfl
  | some x =>
    dsimp only
    split
    · simp
    · have kept := probe_time s .ctr (sectorOf x.addr)
      generalize probe s .ctr (sectorOf x.addr) = r at kept
      obtain ⟨found, t⟩ := r
      cases found <;> simpa using kept

@[simp] theorem foldAllRule_time (s : State) : (foldAllRule s).time = s.time := by simp [foldAllRule]

@[simp] theorem lagRule_time (s : State) : (lagRule s).time = s.time := by simp [lagRule]

/-! ### Queues -/

@[simp] theorem putQueue_time (s : State) (q : Nat) (v : Queue) : (putQueue s q v).time = s.time := by rfl

@[simp] theorem modQueue_time (s : State) (q : Nat) (f : Queue → Queue) : (modQueue s q f).time = s.time := by rfl

@[simp] theorem modPool_time (s : State) (r : Nat) (f : PoolRegion → PoolRegion) : (modPool s r f).time = s.time := by rfl

@[simp] theorem takeChunk_time (s : State) (r c : Nat) : (takeChunk s r c).time = s.time := by rfl

@[simp] theorem poolLowRule_time (s : State) : (poolLowRule s).time = s.time := by simp [poolLowRule]

@[simp] theorem giveChunk_time (s : State) (lsa : Nat) : (giveChunk s lsa).time = s.time := by rfl

@[simp] theorem freeDead_time (s : State) (q : Nat) : (freeDead s q).time = s.time := by simp [freeDead]

@[simp] theorem killSector_time (s : State) (lsa : Nat) : (killSector s lsa).time = s.time := by
  unfold killSector
  split <;> simp

@[simp] theorem queueBitRule_time (s : State) : (queueBitRule s).time = s.time := by
  unfold queueBitRule
  split <;> simp

@[simp] theorem queueError_time (s : State) (q : Nat) : (queueError s q).time = s.time := by rfl

@[simp] theorem descCheck_time (s : State) (q : Nat) : (descCheck s q).time = s.time := by
  refine foldl_time (fun s w => ?_) _ s
  dsimp only
  split <;> simp

@[simp] theorem queueRefuse_time (s : State) (x : HostCmd) (detail : Nat) : (queueRefuse s x detail).time = s.time := by simp [queueRefuse]

@[simp] theorem queueReady_time (s : State) (x : HostCmd) (n : Nat) (regions : List Nat) : (queueReady s x n regions).2.time = s.time := by
  simp [queueReady]

@[simp] theorem carry_time (s : State) (id : Nat) : (carry s id).time = s.time := by rfl

@[simp] theorem flushNow_time (s : State) (q : Nat) : (flushNow s q).2.time = s.time := by simp [flushNow]

@[simp] theorem flushDone_time (s : State) (id n : Nat) : (flushDone s id n).time = s.time := by simp [flushDone]

@[simp] theorem runFlushes_time (s : State) (q : Nat) : (runFlushes s q).time = s.time := by
  unfold runFlushes
  dsimp only
  split <;> simp

@[simp] theorem askSweep_time (s : State) : (askSweep s).time = s.time := by rfl

@[simp] theorem sweepRule_time (s : State) : (sweepRule s).time = s.time := by
  unfold sweepRule
  (repeat' split) <;> simp

@[simp] theorem writeQueueSector_time (s : State) (lsa : Nat) (d : Sector) : (writeQueueSector s lsa d).time = s.time := by
  simp [writeQueueSector]

@[simp] theorem landEnq_time (s : State) (x : HostCmd) (fresh : Option Nat) : (landEnq s x fresh).time = s.time := by
  unfold landEnq
  dsimp only
  (repeat' split) <;> simp

@[simp] theorem writeLink_time (s : State) (lsa : Nat) : (writeLink s lsa).time = s.time := by simp [writeLink]

@[simp] theorem startEnq_time (s : State) (id : Nat) : (startEnq s id).time = s.time := by
  unfold startEnq
  dsimp only
  (repeat' split) <;> simp

@[simp] theorem deqPoison_time (s : State) (x : HostCmd) (lsa rlen : Nat) (lost : Bool) : (deqPoison s x lsa rlen lost).time = s.time := by
  simp [deqPoison]

@[simp] theorem finishDeq_time (s : State) (x : HostCmd) (d : Sector) (r : Resp) : (finishDeq s x d r).time = s.time := by simp [finishDeq]

@[simp] theorem chainRule_time (s : State) (q lsa : Nat) : (chainRule s q lsa).time = s.time := by
  unfold chainRule
  dsimp only
  split <;> simp

@[simp] theorem deqRead_time (s : State) (x : HostCmd) (lsa : Nat) (resp : Resp) : (deqRead s x lsa resp).time = s.time := by
  unfold deqRead
  split
  · simp
  · have kept := probe_time s .qrd lsa
    generalize probe s .qrd lsa = r at kept
    obtain ⟨found, t⟩ := r
    cases found <;> simpa using kept

@[simp] theorem startDeq_time (s : State) (id : Nat) : (startDeq s id).time = s.time := by
  unfold startDeq
  dsimp only
  (repeat' split) <;> simp

@[simp] theorem startQflush_time (s : State) (id : Nat) : (startQflush s id).time = s.time := by
  unfold startQflush
  split <;> simp

@[simp] theorem startQstat_time (s : State) (id : Nat) : (startQstat s id).time = s.time := by
  unfold startQstat
  split <;> simp

/-! ### Failures of the medium -/

@[simp] theorem blockRule_time (s : State) (j : BlockMove) : (blockRule s j).time = s.time := by
  unfold blockRule
  split <;> simp

@[simp] theorem blockRules_time (s : State) : (blockRules s).time = s.time := by simp [blockRules]

@[simp] theorem endLost_time (s : State) (x : HostCmd) : (endLost s x).time = s.time := by
  unfold endLost
  split <;> simp

@[simp] theorem endLock_time (s : State) (lsa result : Nat) : (endLock s lsa result).time = s.time := by rfl

@[simp] theorem endRead_time (s : State) (lsa : Nat) (p : Purpose) : (endRead s lsa p).time = s.time := by
  unfold endRead
  (repeat' split) <;> simp

theorem loseSlots_time (s : State) (b : Blank) : (loseSlots s b).time = s.time := rfl

theorem loseSeals_time (s : State) (b : Blank) : (loseSeals s b).time = s.time := rfl

@[simp] theorem blankFail_time (s : State) (b : Blank) (hwOk : Bool) : (blankFail s b hwOk).time = s.time := by
  unfold blankFail
  extract_lets ok regs lostRegions mine krf lostSlots lostCounts lostLeaves seals lostHeld lostSeeds gone lostRequests lostHolds lostLines
    lostLock lost waited read stale
  by_cases failed : s.med.blanks[b].state = .failed ∧ !s.med.blanks[b].hwOk
  · rw [if_pos failed]
  rw [if_neg failed]
  have regions : lostRegions.time = s.time := foldl_time (fun s r => modRegion_time s r _) regs s
  have slots : lostSlots.time = lostRegions.time := loseSlots_time lostRegions b
  have counts : lostCounts.time = lostSlots.time := modCnt_time _ _
  have leaves : lostLeaves.time = lostCounts.time := modLke_time _ _
  have held : lostHeld.time = lostLeaves.time := loseSeals_time lostLeaves b
  have seeds : lostSeeds.time = lostHeld.time := foldl_time (fun s r => modMirRegion_time s r _) _ lostHeld
  have requests : lostRequests.time = lostSeeds.time := (modMed_time _ _).trans (dropReqs_time _ _)
  have holds : lostHolds.time = lostRequests.time := foldl_time dropHeld_time regs lostRequests
  have lines : lostLines.time = lostHolds.time := foldl_time (fun s r => invalidate_time s _ _ _) regs lostHolds
  have lock : lostLock.time = lostLines.time := by
    dsimp only [lostLock]
    split
    · split <;> simp
    · rfl
  have reported : lost.time = lostLock.time := by simp only [lost, evt_time, raise_time]
  have ended : waited.time = lost.time := foldl_time endLost_time _ lost
  have answered : read.time = waited.time := foldl_time (fun s q => foldl_time (fun s p => endRead_time s _ p) _ s) gone waited
  have staled : stale.time = read.time := markStale_time read _
  have staledAfter := Beside.foldl (f := fun s n => if journalOn s.mir.ports[n] b then mirOverflow s n else s)
    (fun s n => .ite (mirOverflow_beside s n) (.refl s)) [(0 : Fin 2), 1] stale
  rw [staledAfter.time, staled, answered, ended, reported, lock, lines, holds, requests, seeds, held, leaves, counts, slots, regions]

@[simp] theorem undoDrain_time (s : State) (lsa : Nat) : (undoDrain s lsa).time = s.time := by simp [undoDrain]

@[simp] theorem restartOp_time (s : State) (q : MedReq) : (restartOp s q).time = s.time := by
  unfold restartOp
  split <;> simp

@[simp] theorem restartOps_time (s : State) (ch : Nat) : (restartOps s ch).time = s.time := by simp [restartOps]

@[simp] theorem mchFail_time (s : State) (m : Mch) (cause : Nat) : (mchFail s m cause).time = s.time := by
  unfold mchFail
  dsimp only
  split
  · rfl
  split
  · simp
  · refine (foldl_time (fun s ch => ?_) _ _).trans (by simp)
    split <;> simp

/-! ### The host ports -/

@[simp] theorem throttleCharge_time (s : State) (x : HostCmd) : (throttleCharge s x).time = s.time := by
  unfold throttleCharge
  split <;> simp

@[simp] theorem restCharge_time (s : State) (x : HostCmd) : (restCharge s x).time = s.time := by
  unfold restCharge
  split <;> simp

@[simp] theorem perform_time (s : State) (x : HostCmd) : (perform s x).time = s.time := by
  unfold perform
  split <;> simp

@[simp] theorem dispatchCmd_time (s : State) (id : Nat) : (dispatchCmd s id).time = s.time := by
  unfold dispatchCmd
  (repeat' split) <;> simp

@[simp] theorem restStep_time (s : State) (id : Nat) : (restStep s id).time = s.time := by
  unfold restStep
  split <;> simp

@[simp] theorem throttleStep_time (s : State) (id : Nat) : (throttleStep s id).time = s.time := by
  unfold throttleStep
  (repeat' split) <;> simp

@[simp] theorem resume_time (s : State) (x : HostCmd) : (resume s x).time = s.time := by
  unfold resume
  split <;> simp

@[simp] theorem advance_time (s : State) (id : Nat) : (advance s id).time = s.time := by
  unfold advance
  (repeat' split) <;> simp

@[simp] theorem advanceAll_time (s : State) : (advanceAll s).time = s.time := by simp [advanceAll]

@[simp] theorem writeLeaves_time (s : State) : (writeLeaves s).time = s.time := by simp [writeLeaves]

@[simp] theorem markWanted_time (s : State) : (markWanted s).time = s.time := by simp [markWanted]

@[simp] theorem calAll_time (s : State) : (calAll s).time = s.time := by rfl

@[simp] theorem flushRule_time (s : State) : (flushRule s).time = s.time := by simp [flushRule]

@[simp] theorem lineRule_time (s : State) : (lineRule s).time = s.time := by simp [lineRule]

@[simp] theorem settlePorts_time (s : State) : (settlePorts s).time = s.time := by simp [settlePorts]

/-! ### Erases, and how a mailbox command ends -/

@[simp] theorem badLen_time (s : State) : (badLen s).2.time = s.time := by rfl

@[simp] theorem badField_time (s : State) : (badField s).2.time = s.time := by rfl

@[simp] theorem refusedFor_time (s : State) (reason : Nat) : (refusedFor s reason).2.time = s.time := by rfl

@[simp] theorem doneWith_time (s : State) (resp : List Byte) : (doneWith s resp).2.time = s.time := by rfl

@[simp] theorem mbxSettle_time (m : Mbx) (r : MbxOut × State) : (mbxSettle m r).time = r.2.time := by
  unfold mbxSettle
  split <;> simp

@[simp] theorem dropRekey_time (s : State) (r : Nat) : (dropRekey s r).time = s.time := by rfl

@[simp] theorem eraseRegion_time (s : State) (r : Nat) (slot : Option (Fin 64)) : (eraseRegion s r slot).time = s.time := by
  simp [eraseRegion]

@[simp] theorem zeroiseSlot_time (s : State) (k : Nat) : (zeroiseSlot s k).time = s.time := by simp [zeroiseSlot]

@[simp] theorem askErase_time (s : State) (r : Nat) (why : EraseWhy) : (askErase s r why).time = s.time := by rfl

@[simp] theorem dropErase_time (s : State) (why : EraseWhy) : (dropErase s why).time = s.time := by rfl

@[simp] theorem rebuildWrite_time (s : State) (lsa : Nat) (d : Option Sector) : (rebuildWrite s lsa d).time = s.time := by
  simp [rebuildWrite]

@[simp] theorem recreateNext_time (s : State) (r k : Nat) : (recreateNext s r k).time = s.time := by simp [recreateNext]

@[simp] theorem tryErase_time (s : State) (why : EraseWhy) : (tryErase s why).time = s.time := by
  unfold tryErase
  (repeat' split) <;> simp

@[simp] theorem runErases_time (s : State) : (runErases s).time = s.time := by simp [runErases]

/-! ### The Keys group -/

@[simp] theorem startRekey_time (s : State) (u : Fin 4) (r : Nat) (slot : Fin 64) (forced : Bool) :
    (startRekey s u r slot forced).time = s.time := by simp [startRekey]

@[simp] theorem endRekey_time (s : State) (r : Nat) : (endRekey s r).time = s.time := by simp [endRekey]

@[simp] theorem opDevkeyInstall_time (s : State) (req : List Byte) : (opDevkeyInstall s req).2.time = s.time := by simp [opDevkeyInstall]

@[simp] theorem opDevkeyZeroise_time (s : State) (req : List Byte) : (opDevkeyZeroise s req).2.time = s.time := by simp [opDevkeyZeroise]

@[simp] theorem unwrapFail_time (s : State) : (unwrapFail s).time = s.time := by rfl

@[simp] theorem keyLoaded_time (s : State) (k : Nat) (r : Option (BitVec 256)) : (keyLoaded s k r).2.time = s.time := by
  unfold keyLoaded
  split <;> simp

@[simp] theorem opKeyLoad_time (s : State) (req : List Byte) : (opKeyLoad s req).2.time = s.time := by
  unfold opKeyLoad
  (repeat' split) <;> simp

@[simp] theorem opKeyBind_time (s : State) (req : List Byte) : (opKeyBind s req).2.time = s.time := by simp [opKeyBind]

@[simp] theorem opKeyChange_time (s : State) (m : Mbx) (req : List Byte) : (opKeyChange s m req).2.time = s.time := by
  unfold opKeyChange
  (repeat' split) <;> simp

@[simp] theorem opKeyUnbind_time (s : State) (m : Mbx) (req : List Byte) : (opKeyUnbind s m req).2.time = s.time := by simp [opKeyUnbind]

@[simp] theorem opKeyRetire_time (s : State) (m : Mbx) (req : List Byte) : (opKeyRetire s m req).2.time = s.time := by simp [opKeyRetire]

@[simp] theorem opKeyInfo_time (s : State) (req : List Byte) : (opKeyInfo s req).2.time = s.time := by simp [opKeyInfo]

/-! ### Records of the mate -/

@[simp] theorem nextSeed_time (s : State) (n : MPort) : (nextSeed s n).time = s.time := by
  unfold nextSeed
  dsimp only
  (repeat' split) <;> simp

@[simp] theorem askSeed_time (s : State) (r : Nat) (rebuild : Bool) : (askSeed s r rebuild).time = s.time := by simp [askSeed]

@[simp] theorem clearLost_time (s : State) (r : Nat) : (clearLost s r).time = s.time := by
  unfold clearLost
  dsimp only
  split
  · rfl
  · split <;> simp

@[simp] theorem takeRecord_time (s : State) (n : MPort) : (takeRecord s n).time = s.time := by rfl

@[simp] theorem popRecord_time (s : State) (n : MPort) : (popRecord s n).time = s.time := by rfl

@[simp] theorem passRecord_time (s : State) (n : MPort) : (passRecord s n).time = s.time := by simp [passRecord]

@[simp] theorem writeRecordIn_time (s : State) (n : MPort) (seq : BitVec 48) (rec : Record) : (writeRecordIn s n seq rec).time = s.time := by
  simp [writeRecordIn]

@[simp] theorem passSeed_time (s : State) (lsa : Nat) : (passSeed s lsa).time = s.time := by rfl

@[simp] theorem poisonRecord_time (s : State) (n : MPort) (lsa : Nat) : (poisonRecord s n lsa).2.time = s.time := by simp [poisonRecord]

@[simp] theorem seedEnd_time (s : State) (n : MPort) (r : Nat) : (seedEnd s n r).time = s.time := by simp [seedEnd]

@[simp] theorem applySector_time (s : State) (n : MPort) (seq : BitVec 48) (rec : Record) : (applySector s n seq rec).2.time = s.time := by
  simp [applySector]

@[simp] theorem applyRecord_time (s : State) (n : MPort) : (applyRecord s n).2.time = s.time := by
  unfold applyRecord
  (repeat' split) <;> simp

@[simp] theorem applyInbox_time (fuel : Nat) (s : State) (n : MPort) : (applyInbox fuel s n).time = s.time := by
  induction fuel generalizing s with
  | zero => rfl
  | succ fuel ih => simp [applyInbox, ih]

@[simp] theorem applyRecords_time (s : State) : (applyRecords s).time = s.time := foldl_time (fun s n => applyInbox_time _ s n) _ s

/-! ### The Tables group -/

@[simp] theorem putStaged_time (s : State) (t : TableSet) : (putStaged s t).time = s.time := by rfl

@[simp] theorem opTblCreate_time (s : State) (req : List Byte) : (opTblCreate s req).2.time = s.time := by
  unfold opTblCreate
  (repeat' split) <;> simp

@[simp] theorem opTblDelete_time (s : State) (req : List Byte) : (opTblDelete s req).2.time = s.time := by simp [opTblDelete]

@[simp] theorem stageRecord_time (s : State) (rec : List Byte) : (stageRecord s rec).2.time = s.time := by
  unfold stageRecord
  dsimp only
  split <;> simp

@[simp] theorem stageAll_time (l : List (List Byte)) (s : State) (n : Nat) : (stageAll l s n).2.2.time = s.time := by
  induction l generalizing s n with
  | nil => rfl
  | cons r l ih =>
    rw [stageAll]
    split
    · rw [ih]; simp
    · simp

@[simp] theorem startTblCommit_time (s : State) (m : Mbx) : (startTblCommit s m).time = s.time := by rfl

@[simp] theorem opTblCommit_time (s : State) (m : Mbx) (req : List Byte) : (opTblCommit s m req).2.time = s.time := by
  unfold opTblCommit
  (repeat' split) <;> simp

@[simp] theorem opTblUpdate_time (s : State) (m : Mbx) (req : List Byte) : (opTblUpdate s m req).2.time = s.time := by
  simp [opTblUpdate]

@[simp] theorem opTblAbort_time (s : State) (req : List Byte) : (opTblAbort s req).2.time = s.time := by simp [opTblAbort]

@[simp] theorem opTblQuery_time (s : State) (req : List Byte) : (opTblQuery s req).2.time = s.time := by
  unfold opTblQuery
  (repeat' split) <;> simp

@[simp] theorem opTblInfo_time (s : State) (req : List Byte) : (opTblInfo s req).2.time = s.time := by
  unfold opTblInfo
  (repeat' split) <;> simp

@[simp] theorem opProfileSet_time (s : State) (req : List Byte) : (opProfileSet s req).2.time = s.time := by simp [opProfileSet]

@[simp] theorem opProfileGet_time (s : State) (req : List Byte) : (opProfileGet s req).2.time = s.time := by
  unfold opProfileGet
  (repeat' split) <;> simp

@[simp] theorem reissue_time (s : State) (id : Nat) : (reissue s id).time = s.time := by simp [reissue]

@[simp] theorem engineFail_time (s : State) (e : Engine) (cause : Nat) : (engineFail s e cause).time = s.time := by simp [engineFail]

/-! ### The Device group -/

@[simp] theorem opDevInfo_time (s : State) (req : List Byte) : (opDevInfo s req).2.time = s.time := by simp [opDevInfo]

@[simp] theorem opDevEcho_time (s : State) (req : List Byte) : (opDevEcho s req).2.time = s.time := by rfl

@[simp] theorem opRegionGet_time (s : State) (req : List Byte) : (opRegionGet s req).2.time = s.time := by simp [opRegionGet]

@[simp] theorem redrawDomain_time (s : State) (d : Nat) : (redrawDomain s d).time = s.time := by rfl

@[simp] theorem drawKeys_time (s : State) (r : Nat) : (drawKeys s r).time = s.time := by simp [drawKeys]

@[simp] theorem remapCounters_time (s : State) (r : Nat) : (remapCounters s r).time = s.time := by rfl

@[simp] theorem regionApply_time (s : State) (r : Nat) (a : RegionAsk) : (regionApply s r a).time = s.time := by simp [regionApply]

@[simp] theorem opRegionSet_time (s : State) (req : List Byte) : (opRegionSet s req).2.time = s.time := by
  unfold opRegionSet
  dsimp only
  (repeat' split) <;> simp

@[simp] theorem opRegionRecreate_time (s : State) (m : Mbx) (req : List Byte) : (opRegionRecreate s m req).2.time = s.time := by
  simp [opRegionRecreate]

@[simp] theorem endRecreate_time (s : State) (m : Mbx) (r : Nat) (aborted : Bool) : (endRecreate s m r aborted).time = s.time := by rfl

@[simp] theorem opForceFail_time (s : State) (req : List Byte) : (opForceFail s req).2.time = s.time := by simp [opForceFail]

/-! ### The Queues group -/

@[simp] theorem opPoolSet_time (s : State) (req : List Byte) : (opPoolSet s req).2.time = s.time := by simp [opPoolSet]

@[simp] theorem opPoolInfo_time (s : State) (req : List Byte) : (opPoolInfo s req).2.time = s.time := by simp [opPoolInfo]

@[simp] theorem opQueueGet_time (s : State) (req : List Byte) : (opQueueGet s req).2.time = s.time := by simp [opQueueGet]

@[simp] theorem dropOpen_time (s : State) (q : Nat) : (dropOpen s q).time = s.time := by
  unfold dropOpen
  split <;> simp

@[simp] theorem setQueue_time (s : State) (q : Nat) (req : List Byte) : (setQueue s q req).time = s.time := by simp [setQueue]

@[simp] theorem opQueueSet_time (s : State) (m : Mbx) (req : List Byte) : (opQueueSet s m req).2.time = s.time := by simp [opQueueSet]

@[simp] theorem opCntClear_time (s : State) (m : Mbx) (req : List Byte) : (opCntClear s m req).2.time = s.time := by simp [opCntClear]

@[simp] theorem opCntInfo_time (s : State) (req : List Byte) : (opCntInfo s req).2.time = s.time := by simp [opCntInfo]

/-! ### The Parameter store and the Calibration group -/

@[simp] theorem pstPrograms_time (s : State) (n : Nat) : (pstPrograms s n).time = s.time := by rfl

@[simp] theorem ctlWrite_time (s : State) : (ctlWrite s).time = s.time := by rfl

@[simp] theorem putPstSlot_time (s : State) (k : Nat) (v : PstSlot) : (putPstSlot s k v).time = s.time := by rfl

@[simp] theorem pstWorn_time (s : State) : (pstWorn s).time = s.time := by rfl

@[simp] theorem wearSlot_time (s : State) (k : Nat) : (wearSlot s k).time = s.time := by simp [wearSlot]

@[simp] theorem pwFailure_time (s : State) (k which : Nat) : (pwFailure s k which).time = s.time := by simp [pwFailure]

@[simp] theorem opPstInfo_time (s : State) (req : List Byte) : (opPstInfo s req).2.time = s.time := by simp [opPstInfo]

@[simp] theorem opPstRead_time (s : State) (req : List Byte) : (opPstRead s req).2.time = s.time := by
  unfold opPstRead
  dsimp only
  (repeat' split) <;> simp

@[simp] theorem writeRecordSlot_time (s : State) (k : Nat) (content : List Byte) : (writeRecordSlot s k content).2.time = s.time := by
  simp [writeRecordSlot]

@[simp] theorem sealProfile_time (s : State) (c : List Byte) : (sealProfile s c).2.time = s.time := by
  unfold sealProfile
  dsimp only
  split
  · simp
  · rw [doneWith]
    dsimp only
    split <;> simp

@[simp] theorem writeProfile_time (s : State) (off : Nat) (l : List Byte) : (writeProfile s off l).2.time = s.time := by simp [writeProfile]

@[simp] theorem opPstWrite_time (s : State) (req : List Byte) : (opPstWrite s req).2.time = s.time := by simp [opPstWrite]

@[simp] theorem opPstPassword_time (s : State) (req : List Byte) : (opPstPassword s req).2.time = s.time := by simp [opPstPassword]

@[simp] theorem putPstCtr_time (s : State) (i : Nat) (v : PstCtr) : (putPstCtr s i v).time = s.time := by rfl

@[simp] theorem opPstCtrRead_time (s : State) (req : List Byte) : (opPstCtrRead s req).2.time = s.time := by simp [opPstCtrRead]

@[simp] theorem opPstCtrInc_time (s : State) (req : List Byte) : (opPstCtrInc s req).2.time = s.time := by simp [opPstCtrInc]

@[simp] theorem opCalGet_time (s : State) (req : List Byte) : (opCalGet s req).2.time = s.time := by simp [opCalGet]

@[simp] theorem opCalSet_time (s : State) (req : List Byte) : (opCalSet s req).2.time = s.time := by simp [opCalSet]

/-! ### The Events and the Dump group -/

@[simp] theorem opEvtFreeze_time (s : State) (req : List Byte) : (opEvtFreeze s req).2.time = s.time := by simp [opEvtFreeze]

@[simp] theorem endFreeze_time (s : State) (auto : Bool) : (endFreeze s auto).time = s.time := by simp [endFreeze]

@[simp] theorem opEvtThaw_time (s : State) (req : List Byte) : (opEvtThaw s req).2.time = s.time := by simp [opEvtThaw]

@[simp] theorem opEvtRead_time (s : State) (req : List Byte) : (opEvtRead s req).2.time = s.time := by simp [opEvtRead]

@[simp] theorem clearDenied_time (s : State) (reason : Nat) : (clearDenied s reason).2.time = s.time := by rfl

@[simp] theorem clearRing_time (s : State) : (clearRing s).time = s.time := by rfl

@[simp] theorem opEvtClear_time (s : State) (req : List Byte) : (opEvtClear s req).2.time = s.time := by simp [opEvtClear]

@[simp] theorem opEvtLimitSet_time (s : State) (req : List Byte) : (opEvtLimitSet s req).2.time = s.time := by
  unfold opEvtLimitSet
  dsimp only
  (repeat' split) <;> simp

@[simp] theorem opEvtLimitGet_time (s : State) (req : List Byte) : (opEvtLimitGet s req).2.time = s.time := by
  unfold opEvtLimitGet
  dsimp only
  (repeat' split) <;> simp

@[simp] theorem loadDump_time (s : State) (d : Dump) (off n : Nat) : (loadDump s d off n).time = s.time := by simp [loadDump]

@[simp] theorem opDumpInfo_time (s : State) (req : List Byte) : (opDumpInfo s req).2.time = s.time := by
  unfold opDumpInfo
  (repeat' split) <;> simp

@[simp] theorem opDumpRead_time (s : State) (req : List Byte) : (opDumpRead s req).2.time = s.time := by
  unfold opDumpRead
  (repeat' split) <;> simp

@[simp] theorem opDumpRelease_time (s : State) (req : List Byte) : (opDumpRelease s req).2.time = s.time := by
  unfold opDumpRelease
  (repeat' split) <;> simp

/-! ### The pair and the Mirror group -/

@[simp] theorem lossRule_time (s : State) : (lossRule s).time = s.time := by simp [lossRule]

@[simp] theorem clearPort_time (s : State) (n : MPort) : (clearPort s n).time = s.time := by rfl

@[simp] theorem dropMate_time (s : State) : (dropMate s).time = s.time := by rfl

@[simp] theorem forgetPeer_time (s : State) : (forgetPeer s).time = s.time := by simp [forgetPeer]

@[simp] theorem opMirPair_time (s : State) (req : List Byte) : (opMirPair s req).2.time = s.time := by simp [opMirPair]

@[simp] theorem opMirUnpair_time (s : State) (req : List Byte) : (opMirUnpair s req).2.time = s.time := by simp [opMirUnpair]

@[simp] theorem opMirPromote_time (s : State) (req : List Byte) : (opMirPromote s req).2.time = s.time := by simp [opMirPromote]

@[simp] theorem sakLoaded_time (s : State) (n : MPort) (an : Nat) (ssci : BitVec 32) (salt : BitVec 96) (r : Option (BitVec 256)) :
    (sakLoaded s n an ssci salt r).2.time = s.time := by
  unfold sakLoaded
  split <;> simp

@[simp] theorem opMirSak_time (s : State) (req : List Byte) : (opMirSak s req).2.time = s.time := by
  unfold opMirSak
  (repeat' split) <;> simp

@[simp] theorem opMirSakClear_time (s : State) (req : List Byte) : (opMirSakClear s req).2.time = s.time := by simp [opMirSakClear]

@[simp] theorem opMirInfo_time (s : State) (req : List Byte) : (opMirInfo s req).2.time = s.time := by simp [opMirInfo]

@[simp] theorem opMirReseed_time (s : State) (req : List Byte) : (opMirReseed s req).2.time = s.time := by simp [opMirReseed]

/-! ### The Firmware and the Power and thermal group -/

@[simp] theorem modFwSlot_time (s : State) (k : Fin 3) (f : FwSlot → FwSlot) : (modFwSlot s k f).time = s.time := by rfl

@[simp] theorem opFwInfo_time (s : State) (req : List Byte) : (opFwInfo s req).2.time = s.time := by simp [opFwInfo]

@[simp] theorem opFwWrite_time (s : State) (req : List Byte) : (opFwWrite s req).2.time = s.time := by simp [opFwWrite]

@[simp] theorem saveImage_time (s : State) (k : Fin 3) : (saveImage s k).time = s.time := by simp [saveImage]

@[simp] theorem askResetNow_time (s : State) (req : List Byte) : (askResetNow s req).time = s.time := by simp [askResetNow]

@[simp] theorem opFwActivate_time (s : State) (req : List Byte) : (opFwActivate s req).2.time = s.time := by
  unfold opFwActivate
  dsimp only
  (repeat' split) <;> simp

@[simp] theorem opFwConfirm_time (s : State) (req : List Byte) : (opFwConfirm s req).2.time = s.time := by
  unfold opFwConfirm
  (repeat' split) <;> simp

@[simp] theorem opFwRollback_time (s : State) (req : List Byte) : (opFwRollback s req).2.time = s.time := by
  unfold opFwRollback
  (repeat' split) <;> simp

@[simp] theorem opFwToSpi_time (s : State) (m : Mbx) (req : List Byte) (ok : Bool) : (opFwToSpi s m req ok).2.time = s.time := by
  unfold opFwToSpi
  (repeat' split) <;> simp

@[simp] theorem spiNext_time (s : State) (c : SpiCopy) : (spiNext s c).time = s.time := by simp [spiNext]

@[simp] theorem spiTick_time (s : State) : (spiTick s).time = s.time := by
  unfold spiTick
  split <;> simp

@[simp] theorem opPwrInfo_time (s : State) (req : List Byte) : (opPwrInfo s req).2.time = s.time := by simp [opPwrInfo]

@[simp] theorem opPwrLtrSet_time (s : State) (req : List Byte) : (opPwrLtrSet s req).2.time = s.time := by simp [opPwrLtrSet]

@[simp] theorem opThmSet_time (s : State) (req : List Byte) : (opThmSet s req).2.time = s.time := by simp [opThmSet]

@[simp] theorem opHsOppSet_time (s : State) (m : Mbx) (req : List Byte) : (opHsOppSet s m req).2.time = s.time := by simp [opHsOppSet]

/-! ### What every command lets go on -/

@[simp] theorem captureRule_time (s : State) : (captureRule s).time = s.time := by
  unfold captureRule
  split <;> simp

@[simp] theorem mbxPerform_time (s : State) (m : Mbx) (flash : Bool) : (mbxPerform s m flash).2.time = s.time := by
  unfold mbxPerform
  split <;> simp

@[simp] theorem mbxTry_time (s : State) (m : Mbx) (flash : Bool) : (mbxTry s m flash).time = s.time := by
  unfold mbxTry
  split
  · rfl
  · split <;> simp

@[simp] theorem mbxRetry_time (s : State) : (mbxRetry s).time = s.time := by simp [mbxRetry]

@[simp] theorem tellRule_time (s : State) : (tellRule s).time = s.time := by simp [tellRule]

@[simp] theorem ringRule_time (s : State) : (ringRule s).time = s.time := by simp [ringRule]

@[simp] theorem seedRule_time (s : State) : (seedRule s).time = s.time := by simp [seedRule]

@[simp] theorem recreateRule_time (s : State) : (recreateRule s).time = s.time := by simp [recreateRule]

@[simp] theorem nakRule_time (s : State) : (nakRule s).time = s.time := by simp [nakRule]

@[simp] theorem settle_time (s : State) : (settle s).time = s.time := by simp [settle]

/-! ### The tick (R12, R103) -/

@[simp] theorem timeTick_time (s : State) : (timeTick s).time = s.time := by
  unfold timeTick
  dsimp only
  split <;> simp

@[simp] theorem pmcTick_time (s : State) : (pmcTick s).time = s.time := pmcAll_time _ _

@[simp] theorem injectTick_time (s : State) (p : HPort) : (injectTick s p).time = s.time := by simp [injectTick]

@[simp] theorem codewordTick_time (s : State) (p : HPort) : (codewordTick s p).time = s.time := by simp [codewordTick]

@[simp] theorem portTick_time (s : State) (p : HPort) : (portTick s p).time = s.time := by simp [portTick]

@[simp] theorem coreTick_time (s : State) : (coreTick s).time = s.time := by simp [coreTick]

/-- What a tick does to the Tailstock. -/
def tailTicked (s : State) : State := { s with seq := if s.seq.vaon then { s.seq with tsNs := s.seq.tsNs + 1 } else s.seq }

/-- A state as a tick leaves it before the core's part of it. -/
def timeTicked (s : State) : State := { tailTicked s with time := if timeRuns s then s.time + 1 else s.time }

theorem tailTicked_phase (s : State) : (tailTicked s).seq.phase = s.seq.phase := by
  dsimp only [tailTicked]
  split <;> rfl

theorem timeRuns_tailTicked (s : State) : timeRuns (tailTicked s) = timeRuns s := by
  rw [timeRuns, tailTicked_phase]
  rfl

theorem coreUp_timeTicked (s : State) : coreUp (timeTicked s) = coreUp s := by
  have phase : (timeTicked s).seq.phase = s.seq.phase := tailTicked_phase s
  rw [coreUp, phase]
  rfl

theorem tick_eq (s : State) : tick s = if coreUp s then coreTick (timeTicked s) else timeTicked s := by
  have tail : (if s.seq.vaon then { s with seq := { s.seq with tsNs := s.seq.tsNs + 1 } } else s) = tailTicked s := by
    unfold tailTicked
    split <;> rfl
  have time : (if timeRuns s then { tailTicked s with time := (tailTicked s).time + 1 } else tailTicked s) = timeTicked s := by
    unfold timeTicked
    split <;> rfl
  unfold tick
  dsimp only
  rw [tail, timeRuns_tailTicked, time, coreUp_timeTicked]

theorem tick_time (s : State) : (tick s).time = if timeRuns s then s.time + 1 else s.time := by
  rw [tick_eq]
  split
  · exact coreTick_time (timeTicked s)
  · rfl

theorem tick_seq (s : State) : (tick s).seq = if s.seq.vaon then { s.seq with tsNs := s.seq.tsNs + 1 } else s.seq := by
  rw [tick_eq]
  split
  · exact (coreTick_keeps (timeTicked s) (.refl _)).seq
  · rfl

/-- Settles O2: of a tick the core's part keeps the Tailstock (`coreTick_keeps`) and, function by function, GLB_TIME. -/
theorem idle_step_is_a_tick : Obligations.idle_step_is_a_tick := by
  refine fun s idle => ⟨step_of_idle idle, tick_time s, tick_seq s, fun down => ?_⟩
  rw [tick_eq, if_neg (ne_true_of_eq_false down)]
  rfl

end Sys2Proof.Machine
end
